-- ==== Sys2Proof/Word.lean ====
section
/-! DEFINITION. The word types of the model: the 64-bit register word, the 256-bit granule (R4), the byte. -/
namespace Sys2Proof

/-- A 64-bit register or scalar word. -/
abbrev Word := BitVec 64
/-- A granule of data: 256 bits (R4). -/
abbrev Gran := BitVec 256
/-- A byte. -/
abbrev Byte := BitVec 8

end Sys2Proof
end

