-- ==== Sys2Proof/Syntax.lean ====
section
/-! DEFINITION. The commands of the block: one constructor of Instr per row of spec/opcode_table.json, with the operands
the row's rule gives it, and with what the spec leaves to the outside world or to physics (bit upsets, arrival orders,
sensor readings, what a far end does). -/
namespace Sys2Proof

/-- A stored granule as it lies in memory: 256 data bits and 32 check bits (R287). -/
abbrev Code := BitVec 288

/-- What physics does during one command (R291, R292): bit upsets seen by a memory read, as (granule key, pattern of the
first read, pattern of the re-read); upsets of granules that cross the bridge, as (key of the granule, first send, resend); how
many times in a row the duplicate check misreads (0, 1 = transient, 2 = lasting), and the tag checks of clay granules, as (key, how
many times in a row). -/
structure Phys where
  mem : List (Nat × Code × Code) := []
  bridge : List (Nat × Code × Code) := []
  dup : Nat := 0
  tag : List (Nat × Nat) := []
  deriving DecidableEq, Repr

/-- An error that physics puts into an engine operation (R140): the work unit, the accumulator cell, and by how much the cell's
K-tile sum is wrong at the first execution and at a re-execution, in units of its last place. Cells of an MMA are row × 32 +
column; of an ATTN, query row × 32 + token of the first K-tile of Q × K, and 1,024 + query row × head dimension + column of
P × V. -/
structure EngErr where
  unit : Nat
  cell : Nat
  first : Int
  again : Int
  deriving DecidableEq, Repr

/-- A host queue (R332, R335): a port queue, a context's rings, or the FM ring. -/
inductive Queue where
  | port (n : Fin 16)
  | ctx (c : Fin 4096)
  | fm
  deriving DecidableEq, Repr

/-- A submission entry: two granules (R333). -/
structure Entry where
  g0 : Gran
  g1 : Gran
  deriving DecidableEq, Repr

/-- The fields of a request header that vary within a type (R321). -/
structure ReqHdr where
  tag : BitVec 12
  ctx : BitVec 32
  addr : BitVec 48
  length : BitVec 12
  budget : BitVec 16
  flags : BitVec 16
  deriving DecidableEq, Repr

/-- A piece of traffic at a controller (R255, R256): its master, its channel part (pseudo-channel or sub-channel), bank
and row, granules moved, direction, service budget V in ns where it carries one (R261), and the request it belongs to. -/
structure PieceIn where
  master : Fin 30
  part : Fin 8
  bank : Fin 16
  row : Nat
  gran : Nat
  write : Bool
  budget : Option Int
  req : Option Nat
  deriving DecidableEq, Repr

/-- A received flit (R314): its header granule and its eight slots, a granule with its CHECK each; the number of its codeword, the
symbols of that codeword that were wrong (R310, R315), and whether it is the second flit in it; the lane that the receiver's
diagnostics name (R292); the physics that the requests it completes meet. -/
structure Flit where
  hdr : Gran
  slots : List Code
  count : BitVec 16 := 0
  wrong : List (Fin 544) := []
  second : Bool := false
  lane : Fin 8 := 0
  ph : Phys := {}
  deriving DecidableEq, Repr

/-- Can the codeword of a flit not be decoded: the code corrects up to 15 symbols (R310). -/
def Flit.fecBad (f : Flit) : Bool := decide (15 < f.wrong.dedup.length)
/-- Were symbols of it corrected. -/
def Flit.fecCorrected (f : Flit) : Bool := !f.fecBad && !f.wrong.isEmpty

/-- The fields of a flit's header granule (R314). -/
def Flit.ftype (f : Flit) : Nat := (f.hdr.extractLsb' 248 8).toNat
def Flit.seq (f : Flit) : BitVec 12 := f.hdr.extractLsb' 236 12
def Flit.ack (f : Flit) : BitVec 12 := f.hdr.extractLsb' 224 12
def Flit.nak (f : Flit) : Bool := f.hdr.getLsbD 223
def Flit.retrainReq (f : Flit) : Bool := f.hdr.getLsbD 222
def Flit.tableHold (f : Flit) : Bool := f.hdr.getLsbD 221
def Flit.crdReq (f : Flit) : BitVec 16 := f.hdr.extractLsb' 200 16
def Flit.crdRsp (f : Flit) : BitVec 16 := f.hdr.extractLsb' 184 16
def Flit.crdCtl (f : Flit) : BitVec 16 := f.hdr.extractLsb' 168 16
/-- The VC of slot j, 0b11 where it is empty, and its SOM. -/
def Flit.vc (f : Flit) (j : Nat) : Nat := f.hdr.toNat / 2 ^ (3 * j + 145) % 4
def Flit.som (f : Flit) (j : Nat) : Bool := f.hdr.toNat.testBit (3 * j + 144)
def Flit.filled (f : Flit) (j : Nat) : Bool := f.vc j ≠ 3
def Flit.crc (f : Flit) : BitVec 32 := f.hdr.extractLsb' 0 32

/-- The end of training at the CONFIG step (R312): payload granule 0 of the far end's TRAIN flits, and what this port's own receivers
ask the far transmitter for: the presets of its lanes, and precoding. -/
structure FarEnd where
  pay : Gran
  preset : BitVec 32 := 0
  precode : Bool := false
  deriving DecidableEq, Repr

/-- The fields of the payload granule of a TRAIN flit (R312). -/
def FarEnd.role (f : FarEnd) : Nat := (f.pay.extractLsb' 0 8).toNat
def FarEnd.cw (f : FarEnd) : Bool := f.pay.getLsbD 16
def FarEnd.farPrecode (f : FarEnd) : Bool := f.pay.getLsbD 17
def FarEnd.tableCap (f : FarEnd) : Nat := (f.pay.extractLsb' 18 12).toNat
def FarEnd.advRsp (f : FarEnd) : BitVec 16 := f.pay.extractLsb' 48 16
def FarEnd.advCtl (f : FarEnd) : BitVec 16 := f.pay.extractLsb' 64 16
def FarEnd.proto (f : FarEnd) : Nat := (f.pay.extractLsb' 80 16).toNat
def FarEnd.tstate (f : FarEnd) : Nat := (f.pay.extractLsb' 96 8).toNat
def FarEnd.farPreset (f : FarEnd) : BitVec 32 := f.pay.extractLsb' 104 32

/-- The classes of a checker self-test that failed, with the domain of the checker (R377). -/
structure TestFail where
  cls : Nat
  domain : Nat
  deriving DecidableEq, Repr

/-- A training group of a channel of an instance, 0 to 3, that found no setting: the retry passed, or the failure is lasting
(R280, R282). -/
structure TrainFail where
  ch : Fin 4
  group : Fin 6
  lasting : Bool
  deriving DecidableEq, Repr

/-- The unit a memory rail feeds: the HBM stacks or LPDDR6 packages of one die. -/
structure Rail where
  die : Fin 2
  tier : Fin 2
  deriving DecidableEq, Repr

/-- The bed at which an operation starts, and the physics that it meets. -/
structure BedAt where
  bed : Fin 8
  ph : Phys := {}
  deriving DecidableEq, Repr

/-- What a read of operands brings in: the source, how many of its next blocks, and, for the operation that its last operand lets
execute, the errors of its engines and the order in which partial sums arrive (R158). -/
structure ReadAt where
  src : Fin 8
  blocks : Nat
  errs : List EngErr := []
  order : List Nat := []
  deriving DecidableEq, Repr

/-- The value of a doorbell (R338), and the physics that what it sets going meets. -/
structure BellAt where
  v : BitVec 32
  ph : Phys := {}
  deriving DecidableEq, Repr

/-- The source whose reads are issued, and the physics that its descriptors and its index rows meet. -/
structure IssueAt where
  src : Fin 8
  ph : Phys := {}
  deriving DecidableEq, Repr

/-- A submission entry, and the physics that its translations meet. -/
structure EntryAt where
  e : Entry
  ph : Phys := {}
  deriving DecidableEq, Repr

/-- The tensor whose fit has counted its blocks, and the physics that the write of its counts meets. -/
structure FitAt where
  t : BitVec 11
  ph : Phys := {}
  deriving DecidableEq, Repr

/-- The fetch of a table record: how many times its CHECK fails, and the physics that its granules meet. -/
structure FetchAt where
  bad : Nat
  ph : Phys := {}
  deriving DecidableEq, Repr

/-- The request whose completion is sent, and the physics that a decode at egress meets. -/
structure CplAt where
  req : Nat
  ph : Phys := {}
  deriving DecidableEq, Repr

/-- The instance that leaves self-refresh, and the training groups that fail in its training step (R278). -/
structure ExitAt where
  inst : Fin 100
  fails : List TrainFail := []
  deriving DecidableEq, Repr

/-- What a boot finds: the BOOT_SEL straps (R420), whether the stratum area of the flash can be read (R40), and the firmware slots,
bit 0 A and bit 1 B, that cannot (BOOT_FAIL 0x5, R364). -/
structure BootPins where
  sel : BitVec 2
  stratRead : Bool := true
  noRead : BitVec 2 := 0
  deriving DecidableEq, Repr

/-- What the new image answers to the handoff (R361): 0 accepts, 3, 5 and 6 are the reasons that its own reading gives; and whether the
fuses of RAISE_SVN blow. -/
structure HandoffAt where
  reason : Nat
  fuseOk : Bool := true
  deriving DecidableEq, Repr

/-- The bit that is shifted into the bypass register, the opcode that selected it, 0xFF or a reserved one (R401), and the level of TRST_N
from this command on (R418). -/
structure BypassAt where
  bit : Bool
  op : Byte := 0xFF
  trstN : Bool := true
  deriving DecidableEq, Repr

/-- The commands. -/
inductive Instr where
  -- clocks and step rate
  | pllLossOfLock (p : Fin 116)
  | pllRelockResult (p : Fin 116) (ok : Bool) (fails : List TrainFail)
  | refclkLoss
  | stepRateWindow (d : Fin 2) (counts : List Nat) (dc : Nat)
  | clrMin (k : Fin 24)
  -- stratum staging
  | check (len : BitVec 10)
  | commitFlash (len : BitVec 10)
  | applyQos (len : BitVec 10)
  | qosCopyComplete
  | qosAdoptionComplete
  | readActive
  -- Loess
  | moveAcquire (j : Fin 4)
  | moveQuiesceDone (x : BitVec 28) (ph : Phys)
  | moveCommit (x : BitVec 28)
  | moveRelease (x : BitVec 28)
  | moveAbandon (x : BitVec 28)
  | ageSweep (g : Fin 16)
  | ageSweepComplete (g : Fin 16)
  | poolDemote (g : Fin 16)
  | reclaimClear (r : BitVec 14)
  | reclaimComplete (r : BitVec 14)
  | windowFill (p : Fin 64) (ph : Phys)
  | windowFillComplete (p : Fin 64)
  -- Grade
  | tableRecordFetch (site : Fin 52) (t : BitVec 11) (gen : Fin 2) (x : FetchAt)
  | tableInstall (q : Queue) (e : Entry) (ph : Phys)
  | tableFit (q : Queue) (e : Entry)
  | tableFitComplete (x : FitAt)
  | tableRecode (q : Queue) (e : Entry)
  | recodeComplete (t : BitVec 11) (ph : Phys)
  | tableRelease (q : Queue) (e : Entry)
  -- beds
  | wordIssue (b : Fin 8) (ahead : Nat) (dis1 dis2 : List (Nat × Nat)) (ph : Phys)
  | prefetch (b : Fin 8) (x : IssueAt)
  | operandReadApply (b : Fin 8) (r : ReadAt) (ph : Phys)
  | opComplete (b : Fin 8)
  | contextSwitch (b : Fin 8)
  | sleepTimeout (c : Fin 4096)
  | mma (x : BedAt) (errs : List EngErr) (order : List Nat)
  | attn (x : BedAt) (errs : List EngErr) (order : List Nat)
  | ewise (x : BedAt)
  | reduce (x : BedAt)
  | topk (x : BedAt)
  | gather (x : BedAt)
  | scatter (b : Fin 8) (ph : Phys)
  | load (x : BedAt)
  | store (x : BedAt)
  | cvt (x : BedAt)
  | win (b : Fin 8)
  | fence (b : Fin 8)
  | post (x : BedAt)
  | postRingFree (b : Fin 8)
  | launch (q : Queue) (e : Entry)
  -- plans and homes
  | planLoad (q : Queue) (e : Entry) (ph : Phys)
  | promote (q : Queue) (x : EntryAt)
  | demote (q : Queue) (x : EntryAt)
  -- contexts and rings
  | createCtx (q : Queue) (e : Entry)
  | cancel (q : Queue) (e : Entry)
  | destroyCtx (q : Queue) (e : Entry)
  | destroyDrainEnd (c : Fin 4096)
  | assignBed (q : Queue) (e : Entry)
  | ringSet (q : Queue) (e : Entry)
  | park (q : Queue) (e : Entry)
  | parkComplete (c : Fin 4096)
  | unparkComplete (c : Fin 4096)
  | parkQueueTimeout (n : Fin 16)
  | query (q : Queue) (e : Entry)
  | attach (q : Queue) (e : Entry)
  | detach (q : Queue) (e : Entry)
  | heartbeat (q : Queue) (e : Entry)
  | hostLost (n : Fin 16)
  -- regions and the fabric manager
  | bind (q : Queue) (e : Entry)
  | unbind (q : Queue) (e : Entry)
  | revocationDrainEnd (c : Fin 4096) (i : Fin 256)
  | regionCreate (q : Queue) (e : Entry)
  | regionGrow (q : Queue) (e : Entry)
  | regionTrim (q : Queue) (e : Entry)
  | regionReclaim (q : Queue) (e : Entry)
  | regionSet (q : Queue) (e : Entry)
  | retire (q : Queue) (e : Entry)
  | fmDetach (q : Queue) (e : Entry)
  -- update
  | updateStage (q : Queue) (e : Entry) (flashOk fuseOk : Bool) (ph : Phys)
  | updateActivate (q : Queue) (e : Entry)
  | activationPause
  | handoffAccept (h : HandoffAt)
  | handoffTimeout
  | activationWindowExpiry
  -- link
  | rd (p : Fin 16) (h : ReqHdr) (ph : Phys)
  | wr (p : Fin 16) (h : ReqHdr) (data : List Gran) (ph : Phys)
  | wrp (p : Fin 16) (h : ReqHdr) (mask : Gran) (data : List Gran) (ph : Phys)
  | atom (p : Fin 16) (h : ReqHdr) (data : Gran) (ph : Phys)
  | pub (p : Fin 16) (h : ReqHdr) (data : Gran) (ph : Phys)
  | dbSqTail (p : Fin 16) (ctx : BitVec 32) (v : BellAt)
  | dbCqHead (p : Fin 16) (ctx : BitVec 32) (v : BellAt)
  | dbEvqHead (p : Fin 16) (v : BellAt)
  | cfg (p : Fin 16) (h : ReqHdr) (value : Word)
  | fmHello (p : Fin 16) (len : Nat) (payload : List Byte)
  | fmProof (p : Fin 16) (len : Nat) (payload : List Byte)
  | challengeExpiry (p : Fin 16)
  | attachLockoutExpiry (p : Fin 16)
  | completionSend (p : Fin 16) (c : CplAt)
  | flitReceive (p : Fin 16) (f : Flit)
  | replayTimeout (p : Fin 16)
  | portTrainStart (p : Fin 16)
  | trainComplete (p : Fin 16) (lanes : BitVec 8) (far : FarEnd)
  | trainTimeout (p : Fin 16)
  | retrainComplete (p : Fin 16) (lanes : BitVec 8)
  | retrainTimeout (p : Fin 16)
  | linkLoss (p : Fin 16)
  | olyRetrain (p : Fin 16)
  | olyReset (p : Fin 16)
  -- regulation and controllers
  | ceilingUpdate (s : Fin 32)
  | scaleFactorUpdate (s : Fin 32)
  | shortfallHoldoffExpiry (s : Fin 32)
  | controllerPieceArrival (i : Fin 100) (pc : PieceIn)
  | retrainPause (i : Fin 100) (part : Fin 8) (pass : Bool)
  | retrainRetry (i : Fin 100) (pass : Bool)
  | tempRead (i : Fin 100) (reading : Option (BitVec 16))
  | refresh (i : Fin 100) (part : Fin 8) (bank : Fin 16)
  | selfRefreshEntry (i : Fin 100)
  | selfRefreshExit (x : ExitAt)
  | replayResetDone (i : Fin 100) (fails : List TrainFail)
  -- Loam
  | scrubSweepStart (s : Fin 32)
  | scrubRead (s : Fin 32) (g : BitVec 44) (ph : Phys)
  | scrubNow (s : Fin 32)
  | poisonRemove
  | writeRaw
  | readRaw
  | readChecked
  -- safety
  | watchdogStall (d : Fin 336)
  | domainFence (d : Fin 336) (cause : Fin 16)
  | safDomFence (d : Fin 336)
  | domainRejoin (d : Fin 336) (pass : Bool)
  | domainResetTimeout (d : Fin 336)
  | marlLockstepMismatch (d : Fin 2)
  | marlWatchdogExpiry (d : Fin 2)
  | marlTakeover
  | selfTest (d : Fin 2) (fails : List TestFail)
  | sensorChainDisagree (d : Fin 2) (cls : Fin 3) (both : Bool)
  | vcoreOverLimit (d : Fin 2)
  | vcoreUnderLimit (d : Fin 2)
  | memoryRailFault (r : Rail)
  | dieCommonFault (d : Fin 2) (bridge : Bool)
  | thermalTrip (d : Fin 2)
  | safStatusClear (v : Word)
  | faultTest (on : Bool)
  -- power
  | governorTick (avg : Nat) (tj0 tj1 : BitVec 16) (hot0 hot1 : Fin 48) (meas0 meas1 : Nat) (v48 : BitVec 16)
  | emergencyOn (d : Fin 2) (cause : Fin 4)
  | emergencyOff (d : Fin 2) (cause : Fin 4)
  | canaryLate (g : Nat) (lateMs : Nat)
  | canaryClean (g : Nat)
  | pwrCtlWrite (addr : BitVec 32) (v : Word)
  | lssPoolWmWrite (g : Fin 16) (v : Word)
  | registerWrite (addr : BitVec 32) (v : Word)
  -- board management
  | rstdaa
  | entdaa (a : BitVec 7)
  | setdasa (st a : BitVec 7)
  | getpid
  | getbcr
  | getdcr
  | getstatus
  | enec (mask : Byte)
  | disec (mask : Byte)
  | setEndpointId (op : Fin 4) (eid : Byte)
  | getEndpointId
  | getMctpVersionSupport (ty : Byte)
  | getMessageTypeSupport
  | getTid
  | setTid (t : Byte)
  | getPldmVersion (ty : Byte)
  | getPldmTypes
  | getPldmCommands (ty : Byte)
  | getPdrRepositoryInfo
  | getPdr (rec : Nat)
  | getSensorReading (id : Nat)
  | getStateSensorReadings (id : Nat)
  | vendorMrsRead (addr : BitVec 32)
  -- freeze and debug
  | freezeRequest
  | freeze
  | freezeComplete
  | thaw
  | freezeNRelease
  | thawComplete
  | relock
  | captureRead
  | extest (v : Byte)
  | idcode
  | samplePreload (v : Byte)
  | tapMrs (wr : Bool) (addr : BitVec 32) (v : Word)
  | tapFlash (op area : Fin 4) (off : BitVec 24) (data : Gran)
  | unlock (token : List Byte) (nonce : List Byte)
  | unlockLockoutExpiry
  | bypass (b : BypassAt)
  -- reset and bring-up
  | standbyPowerUp (nonce : List Byte)
  | pwrokRise
  | resetRelease (x : BootPins)
  | firmwareStarted
  | stratumInForce (refclk : Bool)
  | trainingDone (failed : List (Fin 100 × TrainFail)) (fails : List TestFail)
  | metadataInit
  | bringupReady
  | warmReset (selfRefreshOk railsOk : Bool) (nonce : List Byte)
  | coldReset (sensorsCool : Bool) (nonce : List Byte)
  | powerLoss (standbyKept : Bool)
  | queueService (i : Fin 100) (part : Fin 8)
  | stageWriteComplete (ok : Bool)
  | commitFlashComplete (ok : Bool)
  deriving DecidableEq, Repr

end Sys2Proof
end

