-- ==== Sys2Proof/Config.lean ====
section
/-! DEFINITION. What the spec leaves open and what stands outside it: free values (applied to a counter of the state) and
uninterpreted cryptography. No constant here has a body. -/
namespace Sys2Proof

/-- A free value of a width (log 6): value number n. Nothing constrains it. -/
opaque Config.free : (width : Nat) → (n : Nat) → BitVec width

/-- SHA3-512 of a byte string (log 8). -/
opaque Config.sha3 : List Byte → BitVec 512

/-- Ed25519 verification: public key (of a fused key set, its digest), message digest, signature (log 8). -/
opaque Config.ed25519Verify : List Byte → List Byte → List Byte → Bool

/-- ML-DSA-65 verification: public key (of a fused key set, its digest), message digest, signature (log 8). -/
opaque Config.mldsaVerify : List Byte → List Byte → List Byte → Bool

/-- SHA3-512 of the key pair of the firmware root, as the boot ROM holds it (R350, log 8). -/
opaque Config.rootDigest : List Byte

/-- Cryptographic functions of the device's own keys: purpose, message (log 8). -/
opaque Config.deviceSign : Nat → List Byte → List Byte

/-- The vector unit's transcendental functions of R162: function number, operand, an FP32 result within the bound of the
table is taken (log 15). -/
opaque Config.vecFun : Nat → BitVec 32 → BitVec 32

/-- The longest time in ticks that the memory standard lets a row of an HBM4E (false) or LPDDR6 (true) bank stay open (R276):
the spec gives no figure (log 42). -/
opaque Config.rowOpenMax : (lmc : Bool) → Nat

/-- What the device carries and the spec does not state: its I3C identity and descriptors (log 24). Width, number. -/
opaque Config.ident : (width : Nat) → (n : Nat) → BitVec width

/-- Symbol k of the alignment marker of a lane of a port of some width, with a codeword count: the spec gives neither its pattern nor its
layout (R310, log 21). -/
opaque Config.marker : (width lane count k : Nat) → BitVec 10

/-- The fixed number of commands that the firmware and ring engine of a die serve of one partition in a turn (R236): the spec gives no
figure (log 17). -/
opaque Config.turnBudget : Nat

end Sys2Proof
end

