-- ==== Sys2Proof/Machine/Code.lean ====
section
/-! DEFINITION. Codes: bytes, CRCs, the Loam code (R287 to R290), the RS(544,514) code and the codewords of the link (R310, R314). -/
namespace Sys2Proof.Machine

/-! ### Bytes -/

/-- Bytes to a number, little-endian. -/
def leNat : List Byte → Nat
  | [] => 0
  | b :: t => b.toNat + 256 * leNat t

/-- The n low bytes of a number. -/
def natBytes (v : Nat) (n : Nat) : List Byte := (List.range n).map fun i => BitVec.ofNat 8 (v / 256 ^ i)

/-- The 32 bytes of a granule, and a granule of up to 32 bytes. -/
def granBytes (g : Gran) : List Byte := natBytes g.toNat 32
def bytesGran (l : List Byte) : Gran := BitVec.ofNat 256 (leNat l)

/-- Bytes of a list of granules. -/
def gransBytes (l : List Gran) : List Byte := l.flatMap granBytes

/-- Granules of a byte list, n of them. -/
def bytesGrans (l : List Byte) : Nat → List Gran
  | 0 => []
  | n + 1 => bytesGran (l.take 32) :: bytesGrans (l.drop 32) n

/-! ### CRC -/

/-- One bit of a reflected CRC. -/
def crcBit (poly : BitVec 32) (c : BitVec 32) : BitVec 32 := if c.getLsbD 0 then (c >>> 1) ^^^ poly else c >>> 1

/-- A reflected 32-bit CRC, all ones in and out. -/
def crc32r (poly : BitVec 32) (l : List Byte) : BitVec 32 :=
  ~~~ (l.foldl (fun c b => Nat.repeat (crcBit poly) 8 (c ^^^ b.setWidth 32)) (~~~ (0 : BitVec 32)))

/-- CRC-32C of RFC 3720. -/
def crc32c (l : List Byte) : BitVec 32 := crc32r 0x82F63B78 l

/-! ### CRC-32 -/

/-- The CRC-32 of IEEE 802.3 over bytes, least significant bit first (PRESUMED from that standard, log 21). -/
def crcStep (c : BitVec 32) : BitVec 32 := if c.getLsbD 0 then (c >>> 1) ^^^ 0xEDB88320#32 else c >>> 1
def crcByte (c : BitVec 32) (b : Byte) : BitVec 32 :=
  crcStep (crcStep (crcStep (crcStep (crcStep (crcStep (crcStep (crcStep (c ^^^ b.setWidth 32))))))))
def crc32 (l : List Byte) : BitVec 32 := ~~~ l.foldl crcByte 0xFFFFFFFF#32

/-! ### GF(2^8) -/

/-- Multiply by α in GF(2^8) with polynomial 0x11D (R287). -/
def gfX (a : Byte) : Byte := if a.msb then (a <<< 1) ^^^ 0x1D else a <<< 1

/-- Horner step over the bits of a, highest first. -/
def gfMulGo (a b : Byte) : Nat → Byte
  | 0 => 0
  | k + 1 => gfMulGo a b k ^^^ (if a.getLsbD k then (Nat.repeat gfX k b) else 0)

/-- The product in GF(2^8). -/
def gfMul (a b : Byte) : Byte := gfMulGo a b 8

/-- α^e. -/
def gfPow (e : Nat) : Byte := Nat.repeat gfX e 1

/-- Byte i of a granule (R4: byte 0 in the low bits). -/
def granByte (g : Gran) (i : Nat) : Byte := g.extractLsb' (8 * i) 8

/-- The coefficients of x^3 to x^0 of g(x) = (x + 1)(x + α)(x + α^2)(x + α^3) (R287). -/
def loamGen : Byte × Byte × Byte × Byte := (0x0F, 0x36, 0x78, 0x40)

/-- One step of the division by g(x): the remainder p_0..p_3 after one more data symbol. -/
def loamStep (p : Byte × Byte × Byte × Byte) (d : Byte) : Byte × Byte × Byte × Byte :=
  let f := p.1 ^^^ d
  (p.2.1 ^^^ gfMul f loamGen.1, p.2.2.1 ^^^ gfMul f loamGen.2.1, p.2.2.2 ^^^ gfMul f loamGen.2.2.1, gfMul f loamGen.2.2.2)

/-- CHECK of a granule (R287): p_j in bits 8j+7..8j. -/
def loamCheck (g : Gran) : BitVec 32 :=
  if g = 0 then 0 else
  let p := (List.range 32).foldl (fun p i => loamStep p (granByte g i)) (0, 0, 0, 0)
  p.2.2.2 ++ p.2.2.1 ++ p.2.1 ++ p.1

/-- A granule with its check bits, data low. -/
def loamEncode (g : Gran) : Code := loamCheck g ++ g

/-- The data bits of a stored granule. -/
def codeData (c : Code) : Gran := c.setWidth 256

/-- Symbol s of a stored granule: data symbols 0 to 31, check symbols 32 to 35. -/
def codeSym (c : Code) (s : Nat) : Byte := c.extractLsb' (8 * s) 8

/-- Syndrome j: the value of the codeword polynomial at α^j, symbol s being the coefficient of x^(35-s). -/
def loamSyn (c : Code) (j : Nat) : Byte :=
  (List.range 36).foldl (fun a s => gfMul a (gfPow j) ^^^ codeSym c s) 0

/-- What the decoder finds (R290). -/
inductive LoamRes where
  | clean
  | ce (sym : Nat)
  | ue
  deriving DecidableEq, Repr

/-- The symbol whose single error explains the syndromes, if one does. -/
def loamLocate (s0 s1 s2 s3 : Byte) : Option Nat :=
  (List.range 36).find? fun e =>
    let x := gfPow (35 - e)
    decide (s1 = gfMul s0 x ∧ s2 = gfMul s1 x ∧ s3 = gfMul s2 x)

/-- Decode a stored granule (R290): the result and the data, corrected where it can be. -/
def loamDecode (c : Code) : LoamRes × Gran :=
  if c = loamEncode (codeData c) then (.clean, codeData c) else
  let s0 := loamSyn c 0
  let s1 := loamSyn c 1
  let s2 := loamSyn c 2
  let s3 := loamSyn c 3
  if s0 = 0 then (.ue, codeData c) else
  match loamLocate s0 s1 s2 s3 with
  | none => (.ue, codeData c)
  | some s => (.ce s, (c ^^^ (BitVec.ofNat 288 (s0.toNat * 2 ^ (8 * s)))).setWidth 256)

/-- The four syndrome bytes (R299 SYNDROME). -/
def loamSyndrome (c : Code) : BitVec 32 := loamSyn c 3 ++ loamSyn c 2 ++ loamSyn c 1 ++ loamSyn c 0

/-! ### RS(544,514) over GF(2^10) (R310; field, generator and placement as in IEEE 802.3, PRESUMED, log 21) -/

/-- Multiply by α in GF(2^10) with polynomial x^10 + x^3 + 1. -/
def rsX (a : BitVec 10) : BitVec 10 := if a.msb then (a <<< 1) ^^^ 0x009 else a <<< 1

/-- The product in GF(2^10): Horner over the bits of a, highest first. -/
def rsMul (a b : BitVec 10) : BitVec 10 :=
  (List.range 10).foldl (fun c k => rsX c ^^^ (if a.getLsbD (9 - k) then b else 0)) 0

/-- The generator polynomial (x + 1)(x + α)…(x + α^29), highest coefficient first. -/
def rsGen : List (BitVec 10) :=
  (List.range 30).foldl (fun g j =>
    List.zipWith (· ^^^ ·) (g ++ [0]) (0 :: g.map (rsMul (Nat.repeat rsX j 1)))) [1]

/-- The 30 check symbols of a message, first symbol first. -/
def rsCheck (gen : List (BitVec 10)) (m : List (BitVec 10)) : List (BitVec 10) :=
  m.foldl (fun p s => List.zipWith (· ^^^ ·) (p.drop 1 ++ [0]) (gen.map (rsMul (p.headD 0 ^^^ s)))) (List.replicate 30 0)

/-! ### Flits and codewords (R310, R314) -/

/-- A flit as it is sent: its header granule and its eight slots. -/
abbrev FlitBits := Gran × List Code

/-- The bits of a flit: bit b of its byte j is bit 8j + b. -/
def flitNat (f : FlitBits) : Nat := f.1.toNat + leNat (f.2.flatMap fun c => natBytes c.toNat 36) * 2 ^ 256

/-- The message of a codeword: m_i is bit i. The field's 0b1010 lies with its least significant bit first (DEDUCED, log 21). -/
def cwMessage (count : Nat) (a b : FlitBits) : Nat :=
  0b1010 + count % 2 ^ 16 * 2 ^ 4 + flitNat a * 2 ^ 20 + flitNat b * 2 ^ 2580

/-- Message symbol k: m_10k is its most significant bit. -/
def cwSymbol (m k : Nat) : BitVec 10 :=
  BitVec.ofNat 10 ((List.range 10).foldl (fun v i => 2 * v + m / 2 ^ (10 * k + i) % 2) 0)

/-- The 544 symbols of a codeword. -/
def codeword (count : Nat) (a b : FlitBits) : List (BitVec 10) :=
  let m := (List.range 514).map (cwSymbol (cwMessage count a b))
  m ++ rsCheck (rsGen.drop 1) m

/-- The share of each of w lanes: symbol k goes to lane k mod w. -/
def laneShares (w : Nat) (l : List (BitVec 10)) : List (List (BitVec 10)) :=
  (List.range w).map fun i => (((List.range l.length).zip l).filter fun e => e.1 % w == i).map (·.2)

/-- An alignment marker in place of the shares of a codeword: the lane's number and the count, in a layout and with a pattern that
the spec does not give (log 21). -/
def markerShares (w count : Nat) : List (List (BitVec 10)) :=
  (List.range w).map fun i => (List.range (544 / w)).map fun k => Config.marker w i count k

end Sys2Proof.Machine
end

