-- ==== Sys2Proof/Machine/RegMap.lean ====
section
/-! DEFINITION. The management register space: every register of the register tables of spec/ (R24, R47, R92, R125,
R146, R238, R251, R266, R286, R308, R331, R346, R364, R380, R397, R408), its address, its fields, their access types (R7)
and their reset values. Reserved fields are not listed: they read 0 and a write does not change them (R8). -/
namespace Sys2Proof.Machine

/-- The access types of R7. No register table of spec/ uses RWL. -/
inductive Acc where
  | ro | rw | rw1c | wo
  deriving DecidableEq, Repr

/-- A register field: bits hi down to lo, its access type and its reset value. -/
structure Fld where
  hi : Nat
  lo : Nat
  acc : Acc
  rst : Nat
  deriving DecidableEq, Repr

/-- One constructor per register (or indexed register) of the MRS. -/
inductive Reg where
  | GEN_IDENT | GEN_CODENAME | GEN_CONFIG | GEN_STATUS | GEN_STEP_RATE | STR_ACTIVE_ID | STR_ACTIVE_INFO
  | STR_STATUS | STR_STAGE_CTL | STR_DIGEST | STR_STAGE_BUF | LSS_CTL | LSS_SWEEP_STATUS | LSS_MOVE_CTL
  | LSS_MOVE_CNT | LSS_POOL | LSS_EVICT_CNT | LSS_JOURNAL | LSS_PLAN | GRD_CTL | GRD_ERR_CNT | GRD_TBL_SEL
  | GRD_TBL_GEN | GRD_TBL_STORED | GRD_TBL_REFS | GRD_ENC_CNT | GRD_DEC_CNT | BED_CTL | BED_STATUS | BED_SLICE
  | BED_OPS | BED_STALL | BED_CLAY | BED_RES_CNT | BED_CORE | CTX_CTL | CTX_SEL | CTX_INFO | CTX_OCC
  | CTX_PORT | CTX_PORT_CNT | CTX_PORT_TEN | CTX_TENANT | RGN_FM_STATUS | RGN_USAGE | RGN_CNT | RGN_SEL
  | RGN_INFO | RGN_MAP | RGN_EPOCH | RGN_RECLAIM | RGN_FM_KEY | QOS_CTL | QOS_SEL | QOS_MASTER | QOS_MASTER_CNT
  | QOS_MASTER_OUT | QOS_SET | QOS_RT | HMC_CTL | LMC_CTL | HMC_STATUS | LMC_STATUS | HMC_TRAIN | LMC_TRAIN
  | HMC_TEMP | LMC_TEMP | HMC_QUEUE | LMC_QUEUE | HMC_CNT | LMC_CNT | LOAM_CTL | LOAM_STATUS | LOAM_PSN_CTL
  | LOAM_PSN_ENTRY | LOAM_TEST_ADDR | LOAM_TEST_CTL | LOAM_TEST_DATA | LOAM_SCRUB | LOAM_CE_CNT_H | LOAM_CE_CNT_L
  | LOAM_CE_A | LOAM_CE_B | LOAM_LOG_A | LOAM_LOG_B | OLY_CTL | OLY_STATUS | OLY_CREDIT | OLY_RETRY | OLY_FEC
  | OLY_LANE | OLY_CNT | OLY_ERR | OLY_TRAIN | HIF_CTL | HIF_RING_SEL | HIF_RING_INFO | HIF_FM_RING | HIF_PORT
  | HIF_PORT_CNT | SEC_STATUS | SEC_SVN | SEC_UPDATE | SEC_FW_VERSION | SEC_IDENT | SEC_FW_MEAS | SEC_TRIM_DIGEST
  | SAF_CTL | SAF_STATUS | SAF_CNT | SAF_STEST | SAF_DOM | PWR_CTL | PWR_FUSE | PWR_INPUT | PWR_EMERG
  | PWR_TRIM | PWR_VCORE | PWR_THERM | DBG_CTL | DBG_STATUS | DBG_CAP_ADDR | DBG_CAP_CTL | DBG_CAP_RESULT
  | DBG_UNLOCK_NONCE | DBG_CAP_DATA
  deriving DecidableEq, Repr

/-- A row of a register map: register, first address, distance between indices, number of indices, fields. -/
structure RegRow where
  reg : Reg
  base : Nat
  stride : Nat
  count : Nat
  fields : List Fld
  deriving DecidableEq, Repr

def f_GEN_IDENT_VENDOR : Fld := ⟨63, 48, .ro, 0x5351⟩
def f_GEN_IDENT_DEVICE : Fld := ⟨47, 32, .ro, 0x4e38⟩
def f_GEN_IDENT_MEMBER : Fld := ⟨23, 16, .ro, 0x8⟩
def f_GEN_IDENT_STEPPING : Fld := ⟨7, 0, .ro, 0x21⟩
/-- GEN_IDENT: 01_device_organisation.md, R24. -/
def row_GEN_IDENT : RegRow :=
  ⟨.GEN_IDENT, 0x0, 0x8, 1, [f_GEN_IDENT_VENDOR, f_GEN_IDENT_DEVICE, f_GEN_IDENT_MEMBER, f_GEN_IDENT_STEPPING]⟩
def f_GEN_CODENAME_CODENAME : Fld := ⟨63, 0, .ro, 0x66696d6c61794e⟩
/-- GEN_CODENAME: 01_device_organisation.md, R24. -/
def row_GEN_CODENAME : RegRow :=
  ⟨.GEN_CODENAME, 0x8, 0x8, 1, [f_GEN_CODENAME_CODENAME]⟩
def f_GEN_CONFIG_LPDDR_PKGS : Fld := ⟨55, 48, .ro, 0x24⟩
def f_GEN_CONFIG_HBM_STACKS : Fld := ⟨47, 40, .ro, 0x8⟩
def f_GEN_CONFIG_OLY_PORTS : Fld := ⟨39, 32, .ro, 0x10⟩
def f_GEN_CONFIG_ENGINES_PER_CORE : Fld := ⟨31, 24, .ro, 0x4⟩
def f_GEN_CONFIG_CORES_PER_CLUSTER : Fld := ⟨23, 16, .ro, 0x8⟩
def f_GEN_CONFIG_CLUSTERS : Fld := ⟨15, 8, .ro, 0x18⟩
def f_GEN_CONFIG_DIES : Fld := ⟨7, 0, .ro, 0x2⟩
/-- GEN_CONFIG: 01_device_organisation.md, R24. -/
def row_GEN_CONFIG : RegRow :=
  ⟨.GEN_CONFIG, 0x10, 0x8, 1, [f_GEN_CONFIG_LPDDR_PKGS, f_GEN_CONFIG_HBM_STACKS, f_GEN_CONFIG_OLY_PORTS, f_GEN_CONFIG_ENGINES_PER_CORE, f_GEN_CONFIG_CORES_PER_CLUSTER, f_GEN_CONFIG_CLUSTERS, f_GEN_CONFIG_DIES]⟩
def f_GEN_STATUS_EMERGENCY : Fld := ⟨15, 15, .ro, 0x0⟩
def f_GEN_STATUS_DIE_FENCED : Fld := ⟨11, 10, .ro, 0x0⟩
def f_GEN_STATUS_MARL_UP : Fld := ⟨9, 8, .ro, 0x0⟩
def f_GEN_STATUS_STATE : Fld := ⟨3, 0, .ro, 0x0⟩
/-- GEN_STATUS: 01_device_organisation.md, R24. -/
def row_GEN_STATUS : RegRow :=
  ⟨.GEN_STATUS, 0x18, 0x8, 1, [f_GEN_STATUS_EMERGENCY, f_GEN_STATUS_DIE_FENCED, f_GEN_STATUS_MARL_UP, f_GEN_STATUS_STATE]⟩
def f_GEN_STEP_RATE_CLR_MIN : Fld := ⟨63, 63, .wo, 0x0⟩
def f_GEN_STEP_RATE_VALID : Fld := ⟨32, 32, .ro, 0x0⟩
def f_GEN_STEP_RATE_RATE_MIN : Fld := ⟨27, 16, .ro, 0xfff⟩
def f_GEN_STEP_RATE_RATE : Fld := ⟨11, 0, .ro, 0x0⟩
/-- GEN_STEP_RATE_k: 01_device_organisation.md, R24. -/
def row_GEN_STEP_RATE : RegRow :=
  ⟨.GEN_STEP_RATE, 0x100, 0x8, 24, [f_GEN_STEP_RATE_CLR_MIN, f_GEN_STEP_RATE_VALID, f_GEN_STEP_RATE_RATE_MIN, f_GEN_STEP_RATE_RATE]⟩
def f_STR_ACTIVE_ID_STRATUM_ID : Fld := ⟨63, 0, .ro, 0x0⟩
/-- STR_ACTIVE_ID: 02_stratum_image.md, R47. -/
def row_STR_ACTIVE_ID : RegRow :=
  ⟨.STR_ACTIVE_ID, 0x100000, 0x8, 1, [f_STR_ACTIVE_ID_STRATUM_ID]⟩
def f_STR_ACTIVE_INFO_QOS_GEN : Fld := ⟨63, 48, .ro, 0x0⟩
def f_STR_ACTIVE_INFO_MEM_KEPT : Fld := ⟨33, 33, .ro, 0x0⟩
def f_STR_ACTIVE_INFO_SAFE : Fld := ⟨32, 32, .ro, 0x0⟩
def f_STR_ACTIVE_INFO_SEQUENCE : Fld := ⟨31, 0, .ro, 0x0⟩
/-- STR_ACTIVE_INFO: 02_stratum_image.md, R47. -/
def row_STR_ACTIVE_INFO : RegRow :=
  ⟨.STR_ACTIVE_INFO, 0x100008, 0x8, 1, [f_STR_ACTIVE_INFO_QOS_GEN, f_STR_ACTIVE_INFO_MEM_KEPT, f_STR_ACTIVE_INFO_SAFE, f_STR_ACTIVE_INFO_SEQUENCE]⟩
def f_STR_STATUS_CMD_DROPPED : Fld := ⟨56, 56, .rw1c, 0x0⟩
def f_STR_STATUS_STAGE_CODE : Fld := ⟨55, 48, .ro, 0x0⟩
def f_STR_STATUS_STAGE_DETAIL : Fld := ⟨47, 32, .ro, 0x0⟩
def f_STR_STATUS_ADMIT_CODE : Fld := ⟨23, 16, .ro, 0x0⟩
def f_STR_STATUS_ADMIT_DETAIL : Fld := ⟨15, 0, .ro, 0x0⟩
/-- STR_STATUS: 02_stratum_image.md, R47. -/
def row_STR_STATUS : RegRow :=
  ⟨.STR_STATUS, 0x100010, 0x8, 1, [f_STR_STATUS_CMD_DROPPED, f_STR_STATUS_STAGE_CODE, f_STR_STATUS_STAGE_DETAIL, f_STR_STATUS_ADMIT_CODE, f_STR_STATUS_ADMIT_DETAIL]⟩
def f_STR_STAGE_CTL_DONE : Fld := ⟨40, 40, .rw1c, 0x0⟩
def f_STR_STAGE_CTL_BUSY : Fld := ⟨39, 39, .ro, 0x0⟩
def f_STR_STAGE_CTL_CMD : Fld := ⟨34, 32, .wo, 0x0⟩
def f_STR_STAGE_CTL_LENGTH : Fld := ⟨9, 0, .rw, 0x0⟩
/-- STR_STAGE_CTL: 02_stratum_image.md, R47. -/
def row_STR_STAGE_CTL : RegRow :=
  ⟨.STR_STAGE_CTL, 0x100018, 0x8, 1, [f_STR_STAGE_CTL_DONE, f_STR_STAGE_CTL_BUSY, f_STR_STAGE_CTL_CMD, f_STR_STAGE_CTL_LENGTH]⟩
def f_STR_DIGEST_DIGEST : Fld := ⟨63, 0, .ro, 0x0⟩
/-- STR_DIGEST_i: 02_stratum_image.md, R47. -/
def row_STR_DIGEST : RegRow :=
  ⟨.STR_DIGEST, 0x100040, 0x8, 8, [f_STR_DIGEST_DIGEST]⟩
def f_STR_STAGE_BUF_DATA : Fld := ⟨63, 0, .rw, 0x0⟩
/-- STR_STAGE_BUF_w: 02_stratum_image.md, R47. -/
def row_STR_STAGE_BUF : RegRow :=
  ⟨.STR_STAGE_BUF, 0x104000, 0x8, 2048, [f_STR_STAGE_BUF_DATA]⟩
def f_LSS_CTL_PROMOTE_EN : Fld := ⟨25, 25, .rw, 0x1⟩
def f_LSS_CTL_DEMOTE_EN : Fld := ⟨24, 24, .rw, 0x1⟩
def f_LSS_CTL_PROMOTE_THRESHOLD : Fld := ⟨23, 16, .rw, 0x10⟩
def f_LSS_CTL_SWEEP_PERIOD : Fld := ⟨9, 0, .rw, 0x64⟩
/-- LSS_CTL: 04_loess_migration.md, R92. -/
def row_LSS_CTL : RegRow :=
  ⟨.LSS_CTL, 0x200000, 0x8, 1, [f_LSS_CTL_PROMOTE_EN, f_LSS_CTL_DEMOTE_EN, f_LSS_CTL_PROMOTE_THRESHOLD, f_LSS_CTL_SWEEP_PERIOD]⟩
def f_LSS_SWEEP_STATUS_LATE : Fld := ⟨47, 32, .ro, 0x0⟩
def f_LSS_SWEEP_STATUS_SWEEPS : Fld := ⟨31, 0, .ro, 0x0⟩
/-- LSS_SWEEP_STATUS: 04_loess_migration.md, R92. -/
def row_LSS_SWEEP_STATUS : RegRow :=
  ⟨.LSS_SWEEP_STATUS, 0x200008, 0x8, 1, [f_LSS_SWEEP_STATUS_LATE, f_LSS_SWEEP_STATUS_SWEEPS]⟩
def f_LSS_MOVE_CTL_IN_FLIGHT : Fld := ⟨39, 32, .ro, 0x0⟩
def f_LSS_MOVE_CTL_PAUSED : Fld := ⟨8, 8, .ro, 0x0⟩
def f_LSS_MOVE_CTL_PAUSE : Fld := ⟨0, 0, .rw, 0x0⟩
/-- LSS_MOVE_CTL_j: 04_loess_migration.md, R92. -/
def row_LSS_MOVE_CTL : RegRow :=
  ⟨.LSS_MOVE_CTL, 0x200100, 0x8, 4, [f_LSS_MOVE_CTL_IN_FLIGHT, f_LSS_MOVE_CTL_PAUSED, f_LSS_MOVE_CTL_PAUSE]⟩
def f_LSS_MOVE_CNT_ABANDONED : Fld := ⟨63, 48, .ro, 0x0⟩
def f_LSS_MOVE_CNT_COMMITTED : Fld := ⟨47, 0, .ro, 0x0⟩
/-- LSS_MOVE_CNT_j: 04_loess_migration.md, R92. -/
def row_LSS_MOVE_CNT : RegRow :=
  ⟨.LSS_MOVE_CNT, 0x200200, 0x8, 4, [f_LSS_MOVE_CNT_ABANDONED, f_LSS_MOVE_CNT_COMMITTED]⟩
def f_LSS_POOL_FREE_SLOTS : Fld := ⟨54, 32, .ro, 0x0⟩
def f_LSS_POOL_HIGH_WM : Fld := ⟨25, 16, .rw, 0x40⟩
def f_LSS_POOL_LOW_WM : Fld := ⟨9, 0, .rw, 0x20⟩
/-- LSS_POOL_g: 04_loess_migration.md, R92. -/
def row_LSS_POOL : RegRow :=
  ⟨.LSS_POOL, 0x201000, 0x8, 16, [f_LSS_POOL_FREE_SLOTS, f_LSS_POOL_HIGH_WM, f_LSS_POOL_LOW_WM]⟩
def f_LSS_EVICT_CNT_STALLS : Fld := ⟨63, 48, .ro, 0x0⟩
def f_LSS_EVICT_CNT_PROMOTED : Fld := ⟨47, 24, .ro, 0x0⟩
def f_LSS_EVICT_CNT_DEMOTED : Fld := ⟨23, 0, .ro, 0x0⟩
/-- LSS_EVICT_CNT_g: 04_loess_migration.md, R92. -/
def row_LSS_EVICT_CNT : RegRow :=
  ⟨.LSS_EVICT_CNT, 0x201100, 0x8, 16, [f_LSS_EVICT_CNT_STALLS, f_LSS_EVICT_CNT_PROMOTED, f_LSS_EVICT_CNT_DEMOTED]⟩
def f_LSS_JOURNAL_NEAR_FULL : Fld := ⟨32, 32, .ro, 0x0⟩
def f_LSS_JOURNAL_RECORDS : Fld := ⟨31, 0, .ro, 0x0⟩
/-- LSS_JOURNAL_g: 04_loess_migration.md, R92. -/
def row_LSS_JOURNAL : RegRow :=
  ⟨.LSS_JOURNAL, 0x201200, 0x8, 16, [f_LSS_JOURNAL_NEAR_FULL, f_LSS_JOURNAL_RECORDS]⟩
def f_LSS_PLAN_WINDOW_LATE : Fld := ⟨63, 48, .ro, 0x0⟩
def f_LSS_PLAN_LAYER : Fld := ⟨43, 32, .ro, 0x0⟩
def f_LSS_PLAN_REGION : Fld := ⟨31, 18, .ro, 0x0⟩
def f_LSS_PLAN_STATE : Fld := ⟨3, 0, .ro, 0x0⟩
/-- LSS_PLAN_p: 04_loess_migration.md, R92. -/
def row_LSS_PLAN : RegRow :=
  ⟨.LSS_PLAN, 0x202000, 0x8, 64, [f_LSS_PLAN_WINDOW_LATE, f_LSS_PLAN_LAYER, f_LSS_PLAN_REGION, f_LSS_PLAN_STATE]⟩
def f_GRD_CTL_WIRE_EN : Fld := ⟨1, 1, .rw, 0x1⟩
def f_GRD_CTL_ZSKIP_EN : Fld := ⟨0, 0, .rw, 0x1⟩
/-- GRD_CTL: 05_grade_codec.md, R125. -/
def row_GRD_CTL : RegRow :=
  ⟨.GRD_CTL, 0x300000, 0x8, 1, [f_GRD_CTL_WIRE_EN, f_GRD_CTL_ZSKIP_EN]⟩
def f_GRD_ERR_CNT_MISMATCH_LASTING : Fld := ⟨63, 48, .ro, 0x0⟩
def f_GRD_ERR_CNT_MISMATCH_TRANSIENT : Fld := ⟨47, 32, .ro, 0x0⟩
def f_GRD_ERR_CNT_TABLE_LOST : Fld := ⟨31, 16, .ro, 0x0⟩
def f_GRD_ERR_CNT_TABLE_BAD : Fld := ⟨15, 0, .ro, 0x0⟩
/-- GRD_ERR_CNT: 05_grade_codec.md, R125. -/
def row_GRD_ERR_CNT : RegRow :=
  ⟨.GRD_ERR_CNT, 0x300008, 0x8, 1, [f_GRD_ERR_CNT_MISMATCH_LASTING, f_GRD_ERR_CNT_MISMATCH_TRANSIENT, f_GRD_ERR_CNT_TABLE_LOST, f_GRD_ERR_CNT_TABLE_BAD]⟩
def f_GRD_TBL_SEL_TENSOR : Fld := ⟨10, 0, .rw, 0x0⟩
/-- GRD_TBL_SEL: 05_grade_codec.md, R125. -/
def row_GRD_TBL_SEL : RegRow :=
  ⟨.GRD_TBL_SEL, 0x300010, 0x8, 1, [f_GRD_TBL_SEL_TENSOR]⟩
def f_GRD_TBL_GEN_OWNER : Fld := ⟨55, 48, .ro, 0x0⟩
def f_GRD_TBL_GEN_FIT : Fld := ⟨41, 40, .ro, 0x0⟩
def f_GRD_TBL_GEN_SLOT_B : Fld := ⟨35, 34, .ro, 0x0⟩
def f_GRD_TBL_GEN_SLOT_A : Fld := ⟨33, 32, .ro, 0x0⟩
def f_GRD_TBL_GEN_ALLOC : Fld := ⟨31, 31, .ro, 0x0⟩
def f_GRD_TBL_GEN_WIDTH : Fld := ⟨30, 30, .ro, 0x0⟩
def f_GRD_TBL_GEN_EXTENTS : Fld := ⟨27, 0, .ro, 0x0⟩
/-- GRD_TBL_GEN: 05_grade_codec.md, R125. -/
def row_GRD_TBL_GEN : RegRow :=
  ⟨.GRD_TBL_GEN, 0x300018, 0x8, 1, [f_GRD_TBL_GEN_OWNER, f_GRD_TBL_GEN_FIT, f_GRD_TBL_GEN_SLOT_B, f_GRD_TBL_GEN_SLOT_A, f_GRD_TBL_GEN_ALLOC, f_GRD_TBL_GEN_WIDTH, f_GRD_TBL_GEN_EXTENTS]⟩
def f_GRD_TBL_STORED_STORED_B : Fld := ⟨63, 32, .ro, 0x0⟩
def f_GRD_TBL_STORED_STORED_A : Fld := ⟨31, 0, .ro, 0x0⟩
/-- GRD_TBL_STORED: 05_grade_codec.md, R125. -/
def row_GRD_TBL_STORED : RegRow :=
  ⟨.GRD_TBL_STORED, 0x300020, 0x8, 1, [f_GRD_TBL_STORED_STORED_B, f_GRD_TBL_STORED_STORED_A]⟩
def f_GRD_TBL_REFS_REFS_B : Fld := ⟨55, 32, .ro, 0x0⟩
def f_GRD_TBL_REFS_REFS_A : Fld := ⟨23, 0, .ro, 0x0⟩
/-- GRD_TBL_REFS: 05_grade_codec.md, R125. -/
def row_GRD_TBL_REFS : RegRow :=
  ⟨.GRD_TBL_REFS, 0x300028, 0x8, 1, [f_GRD_TBL_REFS_REFS_B, f_GRD_TBL_REFS_REFS_A]⟩
def f_GRD_ENC_CNT_PARTIAL : Fld := ⟨63, 48, .ro, 0x0⟩
def f_GRD_ENC_CNT_RAW : Fld := ⟨47, 24, .ro, 0x0⟩
def f_GRD_ENC_CNT_CODED : Fld := ⟨23, 0, .ro, 0x0⟩
/-- GRD_ENC_CNT_e: 05_grade_codec.md, R125. -/
def row_GRD_ENC_CNT : RegRow :=
  ⟨.GRD_ENC_CNT, 0x300100, 0x8, 4, [f_GRD_ENC_CNT_PARTIAL, f_GRD_ENC_CNT_RAW, f_GRD_ENC_CNT_CODED]⟩
def f_GRD_DEC_CNT_ZSKIP : Fld := ⟨63, 32, .ro, 0x0⟩
def f_GRD_DEC_CNT_MISS : Fld := ⟨31, 16, .ro, 0x0⟩
/-- GRD_DEC_CNT_k: 05_grade_codec.md, R125. -/
def row_GRD_DEC_CNT : RegRow :=
  ⟨.GRD_DEC_CNT, 0x300200, 0x8, 24, [f_GRD_DEC_CNT_ZSKIP, f_GRD_DEC_CNT_MISS]⟩
def f_BED_CTL_PREFETCH_EN : Fld := ⟨0, 0, .rw, 0x1⟩
/-- BED_CTL: 06_beds_and_engines.md, R146. -/
def row_BED_CTL : RegRow :=
  ⟨.BED_CTL, 0x400000, 0x8, 1, [f_BED_CTL_PREFETCH_EN]⟩
def f_BED_STATUS_LIVE_CORES : Fld := ⟨47, 40, .ro, 0x0⟩
def f_BED_STATUS_CUR_SLOT : Fld := ⟨39, 30, .ro, 0x0⟩
def f_BED_STATUS_ASSIGNED : Fld := ⟨28, 16, .ro, 0x0⟩
def f_BED_STATUS_DEGRADED : Fld := ⟨8, 8, .ro, 0x0⟩
def f_BED_STATUS_STATE : Fld := ⟨3, 0, .ro, 0x0⟩
/-- BED_STATUS_b: 06_beds_and_engines.md, R146. -/
def row_BED_STATUS : RegRow :=
  ⟨.BED_STATUS, 0x400100, 0x8, 8, [f_BED_STATUS_LIVE_CORES, f_BED_STATUS_CUR_SLOT, f_BED_STATUS_ASSIGNED, f_BED_STATUS_DEGRADED, f_BED_STATUS_STATE]⟩
def f_BED_SLICE_SLICE : Fld := ⟨13, 0, .rw, 0x64⟩
/-- BED_SLICE_b: 06_beds_and_engines.md, R146. -/
def row_BED_SLICE : RegRow :=
  ⟨.BED_SLICE, 0x400200, 0x8, 8, [f_BED_SLICE_SLICE]⟩
def f_BED_OPS_SWITCHES : Fld := ⟨63, 40, .ro, 0x0⟩
def f_BED_OPS_OPS : Fld := ⟨39, 0, .ro, 0x0⟩
/-- BED_OPS_b: 06_beds_and_engines.md, R146. -/
def row_BED_OPS : RegRow :=
  ⟨.BED_OPS, 0x400300, 0x8, 8, [f_BED_OPS_SWITCHES, f_BED_OPS_OPS]⟩
def f_BED_STALL_STALL_TICKS : Fld := ⟨47, 0, .ro, 0x0⟩
/-- BED_STALL_b: 06_beds_and_engines.md, R146. -/
def row_BED_STALL : RegRow :=
  ⟨.BED_STALL, 0x400400, 0x8, 8, [f_BED_STALL_STALL_TICKS]⟩
def f_BED_CLAY_TAG_FAULTS : Fld := ⟨63, 48, .ro, 0x0⟩
def f_BED_CLAY_LEN_CHANGED : Fld := ⟨47, 32, .ro, 0x0⟩
def f_BED_CLAY_FREE_PAGES : Fld := ⟨24, 16, .ro, 0x0⟩
/-- BED_CLAY_k: 06_beds_and_engines.md, R146. -/
def row_BED_CLAY : RegRow :=
  ⟨.BED_CLAY, 0x401000, 0x8, 24, [f_BED_CLAY_TAG_FAULTS, f_BED_CLAY_LEN_CHANGED, f_BED_CLAY_FREE_PAGES]⟩
def f_BED_RES_CNT_LASTING : Fld := ⟨63, 48, .ro, 0x0⟩
def f_BED_RES_CNT_TRANSIENT : Fld := ⟨47, 32, .ro, 0x0⟩
/-- BED_RES_CNT_k: 06_beds_and_engines.md, R146. -/
def row_BED_RES_CNT : RegRow :=
  ⟨.BED_RES_CNT, 0x401100, 0x8, 24, [f_BED_RES_CNT_LASTING, f_BED_RES_CNT_TRANSIENT]⟩
def f_BED_CORE_FENCED : Fld := ⟨1, 1, .ro, 0x0⟩
def f_BED_CORE_LIVE : Fld := ⟨0, 0, .ro, 0x0⟩
/-- BED_CORE_c: 06_beds_and_engines.md, R146. -/
def row_BED_CORE : RegRow :=
  ⟨.BED_CORE, 0x402000, 0x8, 192, [f_BED_CORE_FENCED, f_BED_CORE_LIVE]⟩
def f_CTX_CTL_AUTO_PARK : Fld := ⟨0, 0, .rw, 0x1⟩
/-- CTX_CTL: 11_contexts_and_isolation.md, R238. -/
def row_CTX_CTL : RegRow :=
  ⟨.CTX_CTL, 0x500000, 0x8, 1, [f_CTX_CTL_AUTO_PARK]⟩
def f_CTX_SEL_INDEX : Fld := ⟨11, 0, .rw, 0x0⟩
/-- CTX_SEL: 11_contexts_and_isolation.md, R238. -/
def row_CTX_SEL : RegRow :=
  ⟨.CTX_SEL, 0x500008, 0x8, 1, [f_CTX_SEL_INDEX]⟩
def f_CTX_INFO_GEN : Fld := ⟨63, 48, .ro, 0x0⟩
def f_CTX_INFO_CLAY_PAGES : Fld := ⟨44, 36, .ro, 0x0⟩
def f_CTX_INFO_SLOT : Fld := ⟨35, 26, .ro, 0x0⟩
def f_CTX_INFO_BED_V : Fld := ⟨25, 25, .ro, 0x0⟩
def f_CTX_INFO_BED : Fld := ⟨24, 22, .ro, 0x0⟩
def f_CTX_INFO_TENANT : Fld := ⟨21, 14, .ro, 0x0⟩
def f_CTX_INFO_PORT : Fld := ⟨13, 10, .ro, 0x0⟩
def f_CTX_INFO_PSTATE : Fld := ⟨9, 8, .ro, 0x0⟩
def f_CTX_INFO_SLOT_V : Fld := ⟨7, 7, .ro, 0x0⟩
def f_CTX_INFO_RIGHTS : Fld := ⟨6, 3, .ro, 0x0⟩
def f_CTX_INFO_STATE : Fld := ⟨2, 0, .ro, 0x0⟩
/-- CTX_INFO: 11_contexts_and_isolation.md, R238. -/
def row_CTX_INFO : RegRow :=
  ⟨.CTX_INFO, 0x500010, 0x8, 1, [f_CTX_INFO_GEN, f_CTX_INFO_CLAY_PAGES, f_CTX_INFO_SLOT, f_CTX_INFO_BED_V, f_CTX_INFO_BED, f_CTX_INFO_TENANT, f_CTX_INFO_PORT, f_CTX_INFO_PSTATE, f_CTX_INFO_SLOT_V, f_CTX_INFO_RIGHTS, f_CTX_INFO_STATE]⟩
def f_CTX_OCC_SUBSOIL : Fld := ⟨63, 32, .ro, 0x0⟩
def f_CTX_OCC_TOPSOIL : Fld := ⟨31, 0, .ro, 0x0⟩
/-- CTX_OCC: 11_contexts_and_isolation.md, R238. -/
def row_CTX_OCC : RegRow :=
  ⟨.CTX_OCC, 0x500018, 0x8, 1, [f_CTX_OCC_SUBSOIL, f_CTX_OCC_TOPSOIL]⟩
def f_CTX_PORT_PARK_Q : Fld := ⟨56, 50, .ro, 0x0⟩
def f_CTX_PORT_CREATE_Q : Fld := ⟨49, 45, .ro, 0x0⟩
def f_CTX_PORT_PARKED : Fld := ⟨44, 33, .ro, 0x0⟩
def f_CTX_PORT_USED : Fld := ⟨32, 22, .ro, 0x0⟩
def f_CTX_PORT_SLOT_BASE : Fld := ⟨21, 12, .ro, 0x0⟩
def f_CTX_PORT_INDEX_BASE : Fld := ⟨11, 0, .ro, 0x0⟩
/-- CTX_PORT_n: 11_contexts_and_isolation.md, R238. -/
def row_CTX_PORT : RegRow :=
  ⟨.CTX_PORT, 0x500100, 0x8, 16, [f_CTX_PORT_PARK_Q, f_CTX_PORT_CREATE_Q, f_CTX_PORT_PARKED, f_CTX_PORT_USED, f_CTX_PORT_SLOT_BASE, f_CTX_PORT_INDEX_BASE]⟩
def f_CTX_PORT_CNT_NACK_RETRY : Fld := ⟨63, 48, .ro, 0x0⟩
def f_CTX_PORT_CNT_CTX_WAIT : Fld := ⟨47, 32, .ro, 0x0⟩
def f_CTX_PORT_CNT_UNPARKS : Fld := ⟨31, 16, .ro, 0x0⟩
def f_CTX_PORT_CNT_PARKS : Fld := ⟨15, 0, .ro, 0x0⟩
/-- CTX_PORT_CNT_n: 11_contexts_and_isolation.md, R238. -/
def row_CTX_PORT_CNT : RegRow :=
  ⟨.CTX_PORT_CNT, 0x500200, 0x8, 16, [f_CTX_PORT_CNT_NACK_RETRY, f_CTX_PORT_CNT_CTX_WAIT, f_CTX_PORT_CNT_UNPARKS, f_CTX_PORT_CNT_PARKS]⟩
def f_CTX_PORT_TEN_ALLOW : Fld := ⟨63, 0, .rw, 0x0⟩
/-- CTX_PORT_TEN_n_w: 11_contexts_and_isolation.md, R238. -/
def row_CTX_PORT_TEN : RegRow :=
  ⟨.CTX_PORT_TEN, 0x501000, 0x8, 64, [f_CTX_PORT_TEN_ALLOW]⟩
def f_CTX_TENANT_BED_MASK : Fld := ⟨47, 40, .rw, 0xff⟩
def f_CTX_TENANT_CONTEXTS : Fld := ⟨36, 24, .ro, 0x0⟩
/-- CTX_TENANT_t: 11_contexts_and_isolation.md, R238. -/
def row_CTX_TENANT : RegRow :=
  ⟨.CTX_TENANT, 0x502000, 0x8, 256, [f_CTX_TENANT_BED_MASK, f_CTX_TENANT_CONTEXTS]⟩
def f_RGN_FM_STATUS_LAST_FAIL : Fld := ⟨55, 48, .ro, 0x0⟩
def f_RGN_FM_STATUS_AUTH_FAIL : Fld := ⟨47, 32, .ro, 0x0⟩
def f_RGN_FM_STATUS_SESSION : Fld := ⟨8, 8, .ro, 0x0⟩
def f_RGN_FM_STATUS_PORT : Fld := ⟨3, 0, .ro, 0x0⟩
/-- RGN_FM_STATUS: 12_shared_regions_and_fabric_manager.md, R251. -/
def row_RGN_FM_STATUS : RegRow :=
  ⟨.RGN_FM_STATUS, 0x600000, 0x8, 1, [f_RGN_FM_STATUS_LAST_FAIL, f_RGN_FM_STATUS_AUTH_FAIL, f_RGN_FM_STATUS_SESSION, f_RGN_FM_STATUS_PORT]⟩
def f_RGN_USAGE_RUNS : Fld := ⟨58, 32, .ro, 0x0⟩
def f_RGN_USAGE_REGIONS : Fld := ⟨14, 0, .ro, 0x0⟩
/-- RGN_USAGE: 12_shared_regions_and_fabric_manager.md, R251. -/
def row_RGN_USAGE : RegRow :=
  ⟨.RGN_USAGE, 0x600008, 0x8, 1, [f_RGN_USAGE_RUNS, f_RGN_USAGE_REGIONS]⟩
def f_RGN_CNT_CANCELLED : Fld := ⟨63, 48, .ro, 0x0⟩
def f_RGN_CNT_REVOKED : Fld := ⟨47, 32, .ro, 0x0⟩
def f_RGN_CNT_PUB_STALE : Fld := ⟨31, 16, .ro, 0x0⟩
def f_RGN_CNT_PUB_OK : Fld := ⟨15, 0, .ro, 0x0⟩
/-- RGN_CNT: 12_shared_regions_and_fabric_manager.md, R251. -/
def row_RGN_CNT : RegRow :=
  ⟨.RGN_CNT, 0x600010, 0x8, 1, [f_RGN_CNT_CANCELLED, f_RGN_CNT_REVOKED, f_RGN_CNT_PUB_STALE, f_RGN_CNT_PUB_OK]⟩
def f_RGN_SEL_REGION : Fld := ⟨13, 0, .rw, 0x0⟩
/-- RGN_SEL: 12_shared_regions_and_fabric_manager.md, R251. -/
def row_RGN_SEL : RegRow :=
  ⟨.RGN_SEL, 0x600018, 0x8, 1, [f_RGN_SEL_REGION]⟩
def f_RGN_INFO_EXTENTS : Fld := ⟨63, 36, .ro, 0x0⟩
def f_RGN_INFO_TENANT : Fld := ⟨35, 28, .ro, 0x0⟩
def f_RGN_INFO_PARTITION : Fld := ⟨27, 25, .ro, 0x0⟩
def f_RGN_INFO_RIGHTS : Fld := ⟨19, 16, .ro, 0x0⟩
def f_RGN_INFO_SHARE : Fld := ⟨8, 8, .ro, 0x0⟩
def f_RGN_INFO_STATE : Fld := ⟨1, 0, .ro, 0x0⟩
/-- RGN_INFO: 12_shared_regions_and_fabric_manager.md, R251. -/
def row_RGN_INFO : RegRow :=
  ⟨.RGN_INFO, 0x600020, 0x8, 1, [f_RGN_INFO_EXTENTS, f_RGN_INFO_TENANT, f_RGN_INFO_PARTITION, f_RGN_INFO_RIGHTS, f_RGN_INFO_SHARE, f_RGN_INFO_STATE]⟩
def f_RGN_MAP_BINDINGS : Fld := ⟨63, 43, .ro, 0x0⟩
def f_RGN_MAP_RUNS : Fld := ⟨42, 16, .ro, 0x0⟩
/-- RGN_MAP: 12_shared_regions_and_fabric_manager.md, R251. -/
def row_RGN_MAP : RegRow :=
  ⟨.RGN_MAP, 0x600028, 0x8, 1, [f_RGN_MAP_BINDINGS, f_RGN_MAP_RUNS]⟩
def f_RGN_EPOCH_EPOCH : Fld := ⟨63, 0, .ro, 0x0⟩
/-- RGN_EPOCH: 12_shared_regions_and_fabric_manager.md, R251. -/
def row_RGN_EPOCH : RegRow :=
  ⟨.RGN_EPOCH, 0x600030, 0x8, 1, [f_RGN_EPOCH_EPOCH]⟩
def f_RGN_RECLAIM_RECLAIM_CURSOR : Fld := ⟨27, 0, .ro, 0x0⟩
/-- RGN_RECLAIM: 12_shared_regions_and_fabric_manager.md, R251. -/
def row_RGN_RECLAIM : RegRow :=
  ⟨.RGN_RECLAIM, 0x600038, 0x8, 1, [f_RGN_RECLAIM_RECLAIM_CURSOR]⟩
def f_RGN_FM_KEY_DIGEST : Fld := ⟨63, 0, .ro, 0x0⟩
/-- RGN_FM_KEY_i: 12_shared_regions_and_fabric_manager.md, R251. -/
def row_RGN_FM_KEY : RegRow :=
  ⟨.RGN_FM_KEY, 0x600040, 0x8, 8, [f_RGN_FM_KEY_DIGEST]⟩
def f_QOS_CTL_FEEDBACK_EN : Fld := ⟨56, 56, .rw, 0x1⟩
def f_QOS_CTL_BURST : Fld := ⟨55, 48, .rw, 0x4⟩
def f_QOS_CTL_RET_ALLOW : Fld := ⟨39, 32, .rw, 0x14⟩
def f_QOS_CTL_T_REF_SUB : Fld := ⟨31, 24, .rw, 0x1e⟩
def f_QOS_CTL_T_REF_TOP : Fld := ⟨23, 16, .rw, 0xf⟩
def f_QOS_CTL_PERIOD : Fld := ⟨9, 0, .rw, 0xa⟩
/-- QOS_CTL: 13_bandwidth_regulation.md, R266. -/
def row_QOS_CTL : RegRow :=
  ⟨.QOS_CTL, 0x700000, 0x8, 1, [f_QOS_CTL_FEEDBACK_EN, f_QOS_CTL_BURST, f_QOS_CTL_RET_ALLOW, f_QOS_CTL_T_REF_SUB, f_QOS_CTL_T_REF_TOP, f_QOS_CTL_PERIOD]⟩
def f_QOS_SEL_SET : Fld := ⟨12, 8, .rw, 0x0⟩
def f_QOS_SEL_MASTER : Fld := ⟨4, 0, .rw, 0x0⟩
/-- QOS_SEL: 13_bandwidth_regulation.md, R266. -/
def row_QOS_SEL : RegRow :=
  ⟨.QOS_SEL, 0x700008, 0x8, 1, [f_QOS_SEL_SET, f_QOS_SEL_MASTER]⟩
def f_QOS_MASTER_CEILING : Fld := ⟨63, 40, .ro, 0x0⟩
def f_QOS_MASTER_CMIN : Fld := ⟨39, 16, .ro, 0x0⟩
def f_QOS_MASTER_SHARE : Fld := ⟨10, 0, .ro, 0x0⟩
/-- QOS_MASTER: 13_bandwidth_regulation.md, R266. -/
def row_QOS_MASTER : RegRow :=
  ⟨.QOS_MASTER, 0x700010, 0x8, 1, [f_QOS_MASTER_CEILING, f_QOS_MASTER_CMIN, f_QOS_MASTER_SHARE]⟩
def f_QOS_MASTER_CNT_BE : Fld := ⟨63, 32, .ro, 0x0⟩
def f_QOS_MASTER_CNT_WITHIN : Fld := ⟨31, 0, .ro, 0x0⟩
/-- QOS_MASTER_CNT: 13_bandwidth_regulation.md, R266. -/
def row_QOS_MASTER_CNT : RegRow :=
  ⟨.QOS_MASTER_CNT, 0x700018, 0x8, 1, [f_QOS_MASTER_CNT_BE, f_QOS_MASTER_CNT_WITHIN]⟩
def f_QOS_MASTER_OUT_OUTSTANDING : Fld := ⟨63, 40, .ro, 0x0⟩
def f_QOS_MASTER_OUT_CUTS : Fld := ⟨31, 0, .ro, 0x0⟩
/-- QOS_MASTER_OUT: 13_bandwidth_regulation.md, R266. -/
def row_QOS_MASTER_OUT : RegRow :=
  ⟨.QOS_MASTER_OUT, 0x700020, 0x8, 1, [f_QOS_MASTER_OUT_OUTSTANDING, f_QOS_MASTER_OUT_CUTS]⟩
def f_QOS_SET_CAUSE : Fld := ⟨47, 45, .ro, 0x0⟩
def f_QOS_SET_K_MIN : Fld := ⟨44, 34, .ro, 0x400⟩
def f_QOS_SET_K : Fld := ⟨33, 23, .ro, 0x400⟩
def f_QOS_SET_QLEVEL : Fld := ⟨15, 8, .ro, 0x0⟩
/-- QOS_SET_s: 13_bandwidth_regulation.md, R266. -/
def row_QOS_SET : RegRow :=
  ⟨.QOS_SET, 0x700100, 0x8, 32, [f_QOS_SET_CAUSE, f_QOS_SET_K_MIN, f_QOS_SET_K, f_QOS_SET_QLEVEL]⟩
def f_QOS_RT_RT_REQUESTS : Fld := ⟨63, 40, .ro, 0x0⟩
def f_QOS_RT_MISSES : Fld := ⟨39, 16, .ro, 0x0⟩
def f_QOS_RT_RT : Fld := ⟨0, 0, .ro, 0x0⟩
/-- QOS_RT_n: 13_bandwidth_regulation.md, R266. -/
def row_QOS_RT : RegRow :=
  ⟨.QOS_RT, 0x700200, 0x8, 16, [f_QOS_RT_RT_REQUESTS, f_QOS_RT_MISSES, f_QOS_RT_RT]⟩
def f_HMC_CTL_SR_AUTO : Fld := ⟨24, 24, .rw, 0x0⟩
def f_HMC_CTL_SR_IDLE : Fld := ⟨23, 16, .rw, 0x64⟩
/-- HMC_CTL_m: 14_memory_controllers.md, R286. -/
def row_HMC_CTL : RegRow :=
  ⟨.HMC_CTL, 0x800000, 0x1000, 64, [f_HMC_CTL_SR_AUTO, f_HMC_CTL_SR_IDLE]⟩
def f_LMC_CTL_SR_AUTO : Fld := ⟨24, 24, .rw, 0x0⟩
def f_LMC_CTL_SR_IDLE : Fld := ⟨23, 16, .rw, 0x64⟩
/-- LMC_CTL_p: 14_memory_controllers.md, R286. -/
def row_LMC_CTL : RegRow :=
  ⟨.LMC_CTL, 0xa00000, 0x1000, 36, [f_LMC_CTL_SR_AUTO, f_LMC_CTL_SR_IDLE]⟩
def f_HMC_STATUS_SET_V : Fld := ⟨21, 21, .ro, 0x0⟩
def f_HMC_STATUS_SET : Fld := ⟨20, 16, .ro, 0x0⟩
def f_HMC_STATUS_CH_FAILED : Fld := ⟨11, 8, .ro, 0x0⟩
def f_HMC_STATUS_STATE : Fld := ⟨3, 0, .ro, 0x0⟩
/-- HMC_STATUS_m: 14_memory_controllers.md, R286. -/
def row_HMC_STATUS : RegRow :=
  ⟨.HMC_STATUS, 0x800008, 0x1000, 64, [f_HMC_STATUS_SET_V, f_HMC_STATUS_SET, f_HMC_STATUS_CH_FAILED, f_HMC_STATUS_STATE]⟩
def f_LMC_STATUS_SET_V : Fld := ⟨21, 21, .ro, 0x0⟩
def f_LMC_STATUS_SET : Fld := ⟨20, 16, .ro, 0x0⟩
def f_LMC_STATUS_CH_FAILED : Fld := ⟨11, 8, .ro, 0x0⟩
def f_LMC_STATUS_STATE : Fld := ⟨3, 0, .ro, 0x0⟩
/-- LMC_STATUS_p: 14_memory_controllers.md, R286. -/
def row_LMC_STATUS : RegRow :=
  ⟨.LMC_STATUS, 0xa00008, 0x1000, 36, [f_LMC_STATUS_SET_V, f_LMC_STATUS_SET, f_LMC_STATUS_CH_FAILED, f_LMC_STATUS_STATE]⟩
def f_HMC_TRAIN_EARLY : Fld := ⟨63, 48, .ro, 0x0⟩
def f_HMC_TRAIN_TRANSIENT : Fld := ⟨47, 32, .ro, 0x0⟩
def f_HMC_TRAIN_PAUSES : Fld := ⟨31, 0, .ro, 0x0⟩
/-- HMC_TRAIN_m: 14_memory_controllers.md, R286. -/
def row_HMC_TRAIN : RegRow :=
  ⟨.HMC_TRAIN, 0x800010, 0x1000, 64, [f_HMC_TRAIN_EARLY, f_HMC_TRAIN_TRANSIENT, f_HMC_TRAIN_PAUSES]⟩
def f_LMC_TRAIN_EARLY : Fld := ⟨63, 48, .ro, 0x0⟩
def f_LMC_TRAIN_TRANSIENT : Fld := ⟨47, 32, .ro, 0x0⟩
def f_LMC_TRAIN_PAUSES : Fld := ⟨31, 0, .ro, 0x0⟩
/-- LMC_TRAIN_p: 14_memory_controllers.md, R286. -/
def row_LMC_TRAIN : RegRow :=
  ⟨.LMC_TRAIN, 0xa00010, 0x1000, 36, [f_LMC_TRAIN_EARLY, f_LMC_TRAIN_TRANSIENT, f_LMC_TRAIN_PAUSES]⟩
def f_HMC_TEMP_HOT : Fld := ⟨48, 48, .ro, 0x0⟩
def f_HMC_TEMP_MAX : Fld := ⟨47, 32, .ro, 0x0⟩
def f_HMC_TEMP_AT_PAUSE : Fld := ⟨31, 16, .ro, 0x0⟩
def f_HMC_TEMP_TEMP : Fld := ⟨15, 0, .ro, 0x0⟩
/-- HMC_TEMP_m: 14_memory_controllers.md, R286. -/
def row_HMC_TEMP : RegRow :=
  ⟨.HMC_TEMP, 0x800018, 0x1000, 64, [f_HMC_TEMP_HOT, f_HMC_TEMP_MAX, f_HMC_TEMP_AT_PAUSE, f_HMC_TEMP_TEMP]⟩
def f_LMC_TEMP_HOT : Fld := ⟨48, 48, .ro, 0x0⟩
def f_LMC_TEMP_MAX : Fld := ⟨47, 32, .ro, 0x0⟩
def f_LMC_TEMP_AT_PAUSE : Fld := ⟨31, 16, .ro, 0x0⟩
def f_LMC_TEMP_TEMP : Fld := ⟨15, 0, .ro, 0x0⟩
/-- LMC_TEMP_p: 14_memory_controllers.md, R286. -/
def row_LMC_TEMP : RegRow :=
  ⟨.LMC_TEMP, 0xa00018, 0x1000, 36, [f_LMC_TEMP_HOT, f_LMC_TEMP_MAX, f_LMC_TEMP_AT_PAUSE, f_LMC_TEMP_TEMP]⟩
def f_HMC_QUEUE_PEAK : Fld := ⟨47, 32, .ro, 0x0⟩
def f_HMC_QUEUE_DEPTH : Fld := ⟨31, 16, .ro, 0x1000⟩
def f_HMC_QUEUE_QUEUED : Fld := ⟨15, 0, .ro, 0x0⟩
/-- HMC_QUEUE_m: 14_memory_controllers.md, R286. -/
def row_HMC_QUEUE : RegRow :=
  ⟨.HMC_QUEUE, 0x800020, 0x1000, 64, [f_HMC_QUEUE_PEAK, f_HMC_QUEUE_DEPTH, f_HMC_QUEUE_QUEUED]⟩
def f_LMC_QUEUE_PEAK : Fld := ⟨47, 32, .ro, 0x0⟩
def f_LMC_QUEUE_DEPTH : Fld := ⟨31, 16, .ro, 0x800⟩
def f_LMC_QUEUE_QUEUED : Fld := ⟨15, 0, .ro, 0x0⟩
/-- LMC_QUEUE_p: 14_memory_controllers.md, R286. -/
def row_LMC_QUEUE : RegRow :=
  ⟨.LMC_QUEUE, 0xa00020, 0x1000, 36, [f_LMC_QUEUE_PEAK, f_LMC_QUEUE_DEPTH, f_LMC_QUEUE_QUEUED]⟩
def f_HMC_CNT_ACTIVATES : Fld := ⟨63, 32, .ro, 0x0⟩
def f_HMC_CNT_BURSTS : Fld := ⟨31, 0, .ro, 0x0⟩
/-- HMC_CNT_m: 14_memory_controllers.md, R286. -/
def row_HMC_CNT : RegRow :=
  ⟨.HMC_CNT, 0x800028, 0x1000, 64, [f_HMC_CNT_ACTIVATES, f_HMC_CNT_BURSTS]⟩
def f_LMC_CNT_ACTIVATES : Fld := ⟨63, 32, .ro, 0x0⟩
def f_LMC_CNT_BURSTS : Fld := ⟨31, 0, .ro, 0x0⟩
/-- LMC_CNT_p: 14_memory_controllers.md, R286. -/
def row_LMC_CNT : RegRow :=
  ⟨.LMC_CNT, 0xa00028, 0x1000, 36, [f_LMC_CNT_ACTIVATES, f_LMC_CNT_BURSTS]⟩
def f_LOAM_CTL_SCRUB_EN : Fld := ⟨48, 48, .rw, 0x1⟩
def f_LOAM_CTL_SCRUB_HOURS : Fld := ⟨47, 40, .rw, 0x18⟩
def f_LOAM_CTL_CE_THRESH : Fld := ⟨31, 16, .rw, 0x100⟩
/-- LOAM_CTL: 15_loam_code_and_errors.md, R308. -/
def row_LOAM_CTL : RegRow :=
  ⟨.LOAM_CTL, 0xc00000, 0x8, 1, [f_LOAM_CTL_SCRUB_EN, f_LOAM_CTL_SCRUB_HOURS, f_LOAM_CTL_CE_THRESH]⟩
def f_LOAM_STATUS_LOG_HEAD : Fld := ⟨63, 56, .ro, 0x0⟩
def f_LOAM_STATUS_LOG_WRAPS : Fld := ⟨55, 40, .ro, 0x0⟩
def f_LOAM_STATUS_CE_OVF : Fld := ⟨39, 39, .rw1c, 0x0⟩
def f_LOAM_STATUS_CE_USED : Fld := ⟨38, 32, .ro, 0x0⟩
def f_LOAM_STATUS_CLAY_CE : Fld := ⟨31, 16, .ro, 0x0⟩
def f_LOAM_STATUS_BRIDGE_CE : Fld := ⟨15, 0, .ro, 0x0⟩
/-- LOAM_STATUS_d: 15_loam_code_and_errors.md, R308. -/
def row_LOAM_STATUS : RegRow :=
  ⟨.LOAM_STATUS, 0xc00008, 0x8, 2, [f_LOAM_STATUS_LOG_HEAD, f_LOAM_STATUS_LOG_WRAPS, f_LOAM_STATUS_CE_OVF, f_LOAM_STATUS_CE_USED, f_LOAM_STATUS_CLAY_CE, f_LOAM_STATUS_BRIDGE_CE]⟩
def f_LOAM_PSN_CTL_CMD : Fld := ⟨63, 61, .wo, 0x0⟩
def f_LOAM_PSN_CTL_FULL : Fld := ⟨56, 56, .ro, 0x0⟩
def f_LOAM_PSN_CTL_USED : Fld := ⟨52, 40, .ro, 0x0⟩
def f_LOAM_PSN_CTL_CMD_STATUS : Fld := ⟨39, 32, .ro, 0x0⟩
def f_LOAM_PSN_CTL_SEL : Fld := ⟨11, 0, .rw, 0x0⟩
/-- LOAM_PSN_CTL: 15_loam_code_and_errors.md, R308. -/
def row_LOAM_PSN_CTL : RegRow :=
  ⟨.LOAM_PSN_CTL, 0xc00018, 0x8, 1, [f_LOAM_PSN_CTL_CMD, f_LOAM_PSN_CTL_FULL, f_LOAM_PSN_CTL_USED, f_LOAM_PSN_CTL_CMD_STATUS, f_LOAM_PSN_CTL_SEL]⟩
def f_LOAM_PSN_ENTRY_DATA : Fld := ⟨63, 0, .ro, 0x0⟩
/-- LOAM_PSN_ENTRY_w: 15_loam_code_and_errors.md, R308. -/
def row_LOAM_PSN_ENTRY : RegRow :=
  ⟨.LOAM_PSN_ENTRY, 0xc00020, 0x8, 4, [f_LOAM_PSN_ENTRY_DATA]⟩
def f_LOAM_TEST_ADDR_TARGET : Fld := ⟨63, 62, .rw, 0x0⟩
def f_LOAM_TEST_ADDR_LOCATION : Fld := ⟨38, 0, .rw, 0x0⟩
/-- LOAM_TEST_ADDR: 15_loam_code_and_errors.md, R308. -/
def row_LOAM_TEST_ADDR : RegRow :=
  ⟨.LOAM_TEST_ADDR, 0xc00040, 0x8, 1, [f_LOAM_TEST_ADDR_TARGET, f_LOAM_TEST_ADDR_LOCATION]⟩
def f_LOAM_TEST_CTL_CMD : Fld := ⟨63, 61, .wo, 0x0⟩
def f_LOAM_TEST_CTL_DONE : Fld := ⟨60, 60, .rw1c, 0x0⟩
def f_LOAM_TEST_CTL_BUSY : Fld := ⟨59, 59, .ro, 0x0⟩
def f_LOAM_TEST_CTL_RESULT : Fld := ⟨55, 48, .ro, 0x0⟩
def f_LOAM_TEST_CTL_SYMBOL : Fld := ⟨47, 42, .ro, 0x0⟩
def f_LOAM_TEST_CTL_CHECK : Fld := ⟨31, 0, .rw, 0x0⟩
/-- LOAM_TEST_CTL: 15_loam_code_and_errors.md, R308. -/
def row_LOAM_TEST_CTL : RegRow :=
  ⟨.LOAM_TEST_CTL, 0xc00048, 0x8, 1, [f_LOAM_TEST_CTL_CMD, f_LOAM_TEST_CTL_DONE, f_LOAM_TEST_CTL_BUSY, f_LOAM_TEST_CTL_RESULT, f_LOAM_TEST_CTL_SYMBOL, f_LOAM_TEST_CTL_CHECK]⟩
def f_LOAM_TEST_DATA_DATA : Fld := ⟨63, 0, .rw, 0x0⟩
/-- LOAM_TEST_DATA_w: 15_loam_code_and_errors.md, R308. -/
def row_LOAM_TEST_DATA : RegRow :=
  ⟨.LOAM_TEST_DATA, 0xc00050, 0x8, 4, [f_LOAM_TEST_DATA_DATA]⟩
def f_LOAM_SCRUB_NOW : Fld := ⟨63, 63, .wo, 0x0⟩
def f_LOAM_SCRUB_ACTIVE : Fld := ⟨62, 62, .ro, 0x0⟩
def f_LOAM_SCRUB_SWEEPS : Fld := ⟨47, 32, .ro, 0x0⟩
def f_LOAM_SCRUB_PROGRESS : Fld := ⟨21, 12, .ro, 0x0⟩
/-- LOAM_SCRUB_s: 15_loam_code_and_errors.md, R308. -/
def row_LOAM_SCRUB : RegRow :=
  ⟨.LOAM_SCRUB, 0xc00100, 0x8, 32, [f_LOAM_SCRUB_NOW, f_LOAM_SCRUB_ACTIVE, f_LOAM_SCRUB_SWEEPS, f_LOAM_SCRUB_PROGRESS]⟩
/-- LOAM_CE_CNT_H_m: 15_loam_code_and_errors.md, R308. -/
def row_LOAM_CE_CNT_H : RegRow :=
  ⟨.LOAM_CE_CNT_H, 0xc01000, 0x8, 64, (List.range 4).map fun i => ⟨16 * i + 15, 16 * i, .rw1c, 0⟩⟩
/-- LOAM_CE_CNT_L_p: 15_loam_code_and_errors.md, R308. -/
def row_LOAM_CE_CNT_L : RegRow :=
  ⟨.LOAM_CE_CNT_L, 0xc01200, 0x8, 36, (List.range 4).map fun i => ⟨16 * i + 15, 16 * i, .rw1c, 0⟩⟩
def f_LOAM_CE_A_VALID : Fld := ⟨63, 63, .rw1c, 0x0⟩
def f_LOAM_CE_A_TIER : Fld := ⟨62, 62, .ro, 0x0⟩
def f_LOAM_CE_A_SOURCE : Fld := ⟨61, 59, .ro, 0x0⟩
def f_LOAM_CE_A_COUNT : Fld := ⟨58, 51, .ro, 0x0⟩
def f_LOAM_CE_A_SYMBOL : Fld := ⟨50, 45, .ro, 0x0⟩
def f_LOAM_CE_A_CHANNEL : Fld := ⟨44, 36, .ro, 0x0⟩
def f_LOAM_CE_A_PC : Fld := ⟨35, 35, .ro, 0x0⟩
def f_LOAM_CE_A_BANK : Fld := ⟨34, 31, .ro, 0x0⟩
def f_LOAM_CE_A_ROW : Fld := ⟨30, 12, .ro, 0x0⟩
def f_LOAM_CE_A_COLUMN : Fld := ⟨11, 6, .ro, 0x0⟩
/-- LOAM_CE_d_i_A: 15_loam_code_and_errors.md, R308. -/
def row_LOAM_CE_A : RegRow :=
  ⟨.LOAM_CE_A, 0xc02000, 0x10, 128, [f_LOAM_CE_A_VALID, f_LOAM_CE_A_TIER, f_LOAM_CE_A_SOURCE, f_LOAM_CE_A_COUNT, f_LOAM_CE_A_SYMBOL, f_LOAM_CE_A_CHANNEL, f_LOAM_CE_A_PC, f_LOAM_CE_A_BANK, f_LOAM_CE_A_ROW, f_LOAM_CE_A_COLUMN]⟩
def f_LOAM_CE_B_STAMP : Fld := ⟨63, 0, .ro, 0x0⟩
/-- LOAM_CE_d_i_B: 15_loam_code_and_errors.md, R308. -/
def row_LOAM_CE_B : RegRow :=
  ⟨.LOAM_CE_B, 0xc02008, 0x10, 128, [f_LOAM_CE_B_STAMP]⟩
def f_LOAM_LOG_A_ENTRY : Fld := ⟨63, 0, .ro, 0x0⟩
/-- LOAM_LOG_d_i_A: 15_loam_code_and_errors.md, R308. -/
def row_LOAM_LOG_A : RegRow :=
  ⟨.LOAM_LOG_A, 0xc03000, 0x10, 512, [f_LOAM_LOG_A_ENTRY]⟩
def f_LOAM_LOG_B_ENTRY : Fld := ⟨63, 0, .ro, 0x0⟩
/-- LOAM_LOG_d_i_B: 15_loam_code_and_errors.md, R308. -/
def row_LOAM_LOG_B : RegRow :=
  ⟨.LOAM_LOG_B, 0xc03008, 0x10, 512, [f_LOAM_LOG_B_ENTRY]⟩
def f_OLY_CTL_FORCE_X4 : Fld := ⟨2, 2, .rw, 0x0⟩
def f_OLY_CTL_RETRAIN : Fld := ⟨1, 1, .wo, 0x0⟩
def f_OLY_CTL_RESET : Fld := ⟨0, 0, .wo, 0x0⟩
/-- OLY_CTL_n: 16_olilys_link.md, R331. -/
def row_OLY_CTL : RegRow :=
  ⟨.OLY_CTL, 0xd00000, 0x10000, 16, [f_OLY_CTL_FORCE_X4, f_OLY_CTL_RETRAIN, f_OLY_CTL_RESET]⟩
def f_OLY_STATUS_FAR_TABLE_CAP : Fld := ⟨47, 36, .ro, 0x0⟩
def f_OLY_STATUS_FAR_CW : Fld := ⟨35, 35, .ro, 0x0⟩
def f_OLY_STATUS_LANE_FAIL : Fld := ⟨31, 24, .ro, 0x0⟩
def f_OLY_STATUS_DOWN_CAUSE : Fld := ⟨11, 8, .ro, 0x0⟩
def f_OLY_STATUS_WIDTH : Fld := ⟨7, 6, .ro, 0x0⟩
def f_OLY_STATUS_STATE : Fld := ⟨2, 0, .ro, 0x0⟩
/-- OLY_STATUS_n: 16_olilys_link.md, R331. -/
def row_OLY_STATUS : RegRow :=
  ⟨.OLY_STATUS, 0xd00008, 0x10000, 16, [f_OLY_STATUS_FAR_TABLE_CAP, f_OLY_STATUS_FAR_CW, f_OLY_STATUS_LANE_FAIL, f_OLY_STATUS_DOWN_CAUSE, f_OLY_STATUS_WIDTH, f_OLY_STATUS_STATE]⟩
def f_OLY_CREDIT_RSP_ADV : Fld := ⟨63, 48, .ro, 0x0⟩
def f_OLY_CREDIT_RSP_FREE : Fld := ⟨47, 32, .ro, 0x0⟩
def f_OLY_CREDIT_CTL_ADV : Fld := ⟨31, 16, .ro, 0x0⟩
def f_OLY_CREDIT_CTL_FREE : Fld := ⟨15, 0, .ro, 0x0⟩
/-- OLY_CREDIT_n: 16_olilys_link.md, R331. -/
def row_OLY_CREDIT : RegRow :=
  ⟨.OLY_CREDIT, 0xd00010, 0x10000, 16, [f_OLY_CREDIT_RSP_ADV, f_OLY_CREDIT_RSP_FREE, f_OLY_CREDIT_CTL_ADV, f_OLY_CREDIT_CTL_FREE]⟩
def f_OLY_RETRY_LASTING : Fld := ⟨63, 48, .ro, 0x0⟩
def f_OLY_RETRY_TRANSIENT : Fld := ⟨47, 32, .ro, 0x0⟩
def f_OLY_RETRY_REPLAYS : Fld := ⟨31, 0, .ro, 0x0⟩
/-- OLY_RETRY_n: 16_olilys_link.md, R331. -/
def row_OLY_RETRY : RegRow :=
  ⟨.OLY_RETRY, 0xd00018, 0x10000, 16, [f_OLY_RETRY_LASTING, f_OLY_RETRY_TRANSIENT, f_OLY_RETRY_REPLAYS]⟩
def f_OLY_FEC_CORRECTED : Fld := ⟨63, 32, .ro, 0x0⟩
def f_OLY_FEC_UNCORRECTABLE : Fld := ⟨31, 0, .ro, 0x0⟩
/-- OLY_FEC_n: 16_olilys_link.md, R331. -/
def row_OLY_FEC : RegRow :=
  ⟨.OLY_FEC, 0xd00020, 0x10000, 16, [f_OLY_FEC_CORRECTED, f_OLY_FEC_UNCORRECTABLE]⟩
/-- OLY_LANE_n: 16_olilys_link.md, R331. -/
def row_OLY_LANE : RegRow :=
  ⟨.OLY_LANE, 0xd00028, 0x10000, 16, (List.range 8).map fun i => ⟨8 * i + 7, 8 * i, .ro, 0⟩⟩
def f_OLY_CNT_REQUESTS : Fld := ⟨63, 32, .ro, 0x0⟩
def f_OLY_CNT_COMPLETIONS : Fld := ⟨31, 0, .ro, 0x0⟩
/-- OLY_CNT_n: 16_olilys_link.md, R331. -/
def row_OLY_CNT : RegRow :=
  ⟨.OLY_CNT, 0xd00030, 0x10000, 16, [f_OLY_CNT_REQUESTS, f_OLY_CNT_COMPLETIONS]⟩
def f_OLY_ERR_MALFORMED : Fld := ⟨63, 48, .ro, 0x0⟩
def f_OLY_ERR_PROTO : Fld := ⟨47, 32, .ro, 0x0⟩
def f_OLY_ERR_DROPPED : Fld := ⟨31, 16, .ro, 0x0⟩
def f_OLY_ERR_CFG_REFUSED : Fld := ⟨15, 0, .ro, 0x0⟩
/-- OLY_ERR_n: 16_olilys_link.md, R331. -/
def row_OLY_ERR : RegRow :=
  ⟨.OLY_ERR, 0xd00038, 0x10000, 16, [f_OLY_ERR_MALFORMED, f_OLY_ERR_PROTO, f_OLY_ERR_DROPPED, f_OLY_ERR_CFG_REFUSED]⟩
def f_OLY_TRAIN_TRAININGS : Fld := ⟨63, 48, .ro, 0x0⟩
def f_OLY_TRAIN_NARROWINGS : Fld := ⟨47, 32, .ro, 0x0⟩
def f_OLY_TRAIN_RETRAINS : Fld := ⟨31, 16, .ro, 0x0⟩
/-- OLY_TRAIN_n: 16_olilys_link.md, R331. -/
def row_OLY_TRAIN : RegRow :=
  ⟨.OLY_TRAIN, 0xd00040, 0x10000, 16, [f_OLY_TRAIN_TRAININGS, f_OLY_TRAIN_NARROWINGS, f_OLY_TRAIN_RETRAINS]⟩
def f_HIF_CTL_HB_EN : Fld := ⟨0, 0, .rw, 0x1⟩
/-- HIF_CTL: 17_host_rings.md, R346. -/
def row_HIF_CTL : RegRow :=
  ⟨.HIF_CTL, 0xe00000, 0x8, 1, [f_HIF_CTL_HB_EN]⟩
def f_HIF_RING_SEL_INDEX : Fld := ⟨11, 0, .rw, 0x0⟩
/-- HIF_RING_SEL: 17_host_rings.md, R346. -/
def row_HIF_RING_SEL : RegRow :=
  ⟨.HIF_RING_SEL, 0xe00010, 0x8, 1, [f_HIF_RING_SEL_INDEX]⟩
def f_HIF_RING_INFO_STATE : Fld := ⟨63, 62, .ro, 0x0⟩
def f_HIF_RING_INFO_PHASE : Fld := ⟨56, 56, .ro, 0x0⟩
def f_HIF_RING_INFO_WAITING : Fld := ⟨55, 48, .ro, 0x0⟩
def f_HIF_RING_INFO_CQ_HEAD : Fld := ⟨47, 36, .ro, 0x0⟩
def f_HIF_RING_INFO_CQ_TAIL : Fld := ⟨35, 24, .ro, 0x0⟩
def f_HIF_RING_INFO_SQ_TAIL : Fld := ⟨23, 12, .ro, 0x0⟩
def f_HIF_RING_INFO_SQ_HEAD : Fld := ⟨11, 0, .ro, 0x0⟩
/-- HIF_RING_INFO: 17_host_rings.md, R346. -/
def row_HIF_RING_INFO : RegRow :=
  ⟨.HIF_RING_INFO, 0xe00018, 0x8, 1, [f_HIF_RING_INFO_STATE, f_HIF_RING_INFO_PHASE, f_HIF_RING_INFO_WAITING, f_HIF_RING_INFO_CQ_HEAD, f_HIF_RING_INFO_CQ_TAIL, f_HIF_RING_INFO_SQ_TAIL, f_HIF_RING_INFO_SQ_HEAD]⟩
def f_HIF_FM_RING_CQ_TAIL : Fld := ⟨31, 24, .ro, 0x0⟩
def f_HIF_FM_RING_CQ_HEAD : Fld := ⟨23, 16, .ro, 0x0⟩
def f_HIF_FM_RING_SQ_TAIL : Fld := ⟨15, 8, .ro, 0x0⟩
def f_HIF_FM_RING_SQ_HEAD : Fld := ⟨7, 0, .ro, 0x0⟩
/-- HIF_FM_RING: 17_host_rings.md, R346. -/
def row_HIF_FM_RING : RegRow :=
  ⟨.HIF_FM_RING, 0xe00020, 0x8, 1, [f_HIF_FM_RING_CQ_TAIL, f_HIF_FM_RING_CQ_HEAD, f_HIF_FM_RING_SQ_TAIL, f_HIF_FM_RING_SQ_HEAD]⟩
def f_HIF_PORT_HB_PERIOD : Fld := ⟨63, 48, .ro, 0x0⟩
def f_HIF_PORT_EVQ_HEAD : Fld := ⟨47, 40, .ro, 0x0⟩
def f_HIF_PORT_EVQ_TAIL : Fld := ⟨39, 32, .ro, 0x0⟩
def f_HIF_PORT_EVQ_FULL : Fld := ⟨2, 2, .ro, 0x0⟩
def f_HIF_PORT_FM_SESSION : Fld := ⟨1, 1, .ro, 0x0⟩
def f_HIF_PORT_HOST_SESSION : Fld := ⟨0, 0, .ro, 0x0⟩
/-- HIF_PORT_n: 17_host_rings.md, R346. -/
def row_HIF_PORT : RegRow :=
  ⟨.HIF_PORT, 0xe00100, 0x8, 16, [f_HIF_PORT_HB_PERIOD, f_HIF_PORT_EVQ_HEAD, f_HIF_PORT_EVQ_TAIL, f_HIF_PORT_EVQ_FULL, f_HIF_PORT_FM_SESSION, f_HIF_PORT_HOST_SESSION]⟩
def f_HIF_PORT_CNT_HOST_LOST : Fld := ⟨63, 48, .ro, 0x0⟩
def f_HIF_PORT_CNT_EVT_DROPPED : Fld := ⟨47, 32, .ro, 0x0⟩
def f_HIF_PORT_CNT_COMMANDS : Fld := ⟨31, 0, .ro, 0x0⟩
/-- HIF_PORT_CNT_n: 17_host_rings.md, R346. -/
def row_HIF_PORT_CNT : RegRow :=
  ⟨.HIF_PORT_CNT, 0xe00200, 0x8, 16, [f_HIF_PORT_CNT_HOST_LOST, f_HIF_PORT_CNT_EVT_DROPPED, f_HIF_PORT_CNT_COMMANDS]⟩
def f_SEC_STATUS_CHAIN_BAD : Fld := ⟨24, 24, .ro, 0x0⟩
def f_SEC_STATUS_BOOT_FAIL : Fld := ⟨23, 20, .ro, 0x0⟩
def f_SEC_STATUS_BOOT_SEL : Fld := ⟨19, 18, .ro, 0x0⟩
def f_SEC_STATUS_FALLBACK : Fld := ⟨17, 17, .ro, 0x0⟩
def f_SEC_STATUS_BOOT_SLOT : Fld := ⟨16, 16, .ro, 0x0⟩
def f_SEC_STATUS_DEBUG_NOW : Fld := ⟨10, 10, .ro, 0x0⟩
def f_SEC_STATUS_DEBUG_USED : Fld := ⟨9, 9, .ro, 0x0⟩
def f_SEC_STATUS_FACTORY_ORIGINAL : Fld := ⟨8, 8, .ro, 0x0⟩
def f_SEC_STATUS_OWNER_REVOKED : Fld := ⟨7, 4, .ro, 0x0⟩
def f_SEC_STATUS_OWNER_ENROLLED : Fld := ⟨3, 0, .ro, 0x0⟩
/-- SEC_STATUS: 18_firmware_and_security.md, R364. -/
def row_SEC_STATUS : RegRow :=
  ⟨.SEC_STATUS, 0xf00000, 0x8, 1, [f_SEC_STATUS_CHAIN_BAD, f_SEC_STATUS_BOOT_FAIL, f_SEC_STATUS_BOOT_SEL, f_SEC_STATUS_FALLBACK, f_SEC_STATUS_BOOT_SLOT, f_SEC_STATUS_DEBUG_NOW, f_SEC_STATUS_DEBUG_USED, f_SEC_STATUS_FACTORY_ORIGINAL, f_SEC_STATUS_OWNER_REVOKED, f_SEC_STATUS_OWNER_ENROLLED]⟩
def f_SEC_SVN_STAGED_V : Fld := ⟨49, 49, .ro, 0x0⟩
def f_SEC_SVN_SVN_PENDING : Fld := ⟨48, 48, .ro, 0x0⟩
def f_SEC_SVN_STAGED_SVN : Fld := ⟨47, 32, .ro, 0x0⟩
def f_SEC_SVN_FUSED_SVN : Fld := ⟨31, 16, .ro, 0x0⟩
def f_SEC_SVN_RUNNING_SVN : Fld := ⟨15, 0, .ro, 0x0⟩
/-- SEC_SVN: 18_firmware_and_security.md, R364. -/
def row_SEC_SVN : RegRow :=
  ⟨.SEC_SVN, 0xf00008, 0x8, 1, [f_SEC_SVN_STAGED_V, f_SEC_SVN_SVN_PENDING, f_SEC_SVN_STAGED_SVN, f_SEC_SVN_FUSED_SVN, f_SEC_SVN_RUNNING_SVN]⟩
def f_SEC_UPDATE_WINDOW_LEFT : Fld := ⟨63, 48, .ro, 0x0⟩
def f_SEC_UPDATE_ACTIVATIONS : Fld := ⟨47, 32, .ro, 0x0⟩
def f_SEC_UPDATE_LAST_STATUS : Fld := ⟨31, 16, .ro, 0x0⟩
def f_SEC_UPDATE_STATE : Fld := ⟨2, 0, .ro, 0x0⟩
/-- SEC_UPDATE: 18_firmware_and_security.md, R364. -/
def row_SEC_UPDATE : RegRow :=
  ⟨.SEC_UPDATE, 0xf00010, 0x8, 1, [f_SEC_UPDATE_WINDOW_LEFT, f_SEC_UPDATE_ACTIVATIONS, f_SEC_UPDATE_LAST_STATUS, f_SEC_UPDATE_STATE]⟩
def f_SEC_FW_VERSION_VERSION : Fld := ⟨63, 0, .ro, 0x0⟩
/-- SEC_FW_VERSION: 18_firmware_and_security.md, R364. -/
def row_SEC_FW_VERSION : RegRow :=
  ⟨.SEC_FW_VERSION, 0xf00018, 0x8, 1, [f_SEC_FW_VERSION_VERSION]⟩
def f_SEC_IDENT_DIGEST : Fld := ⟨63, 0, .ro, 0x0⟩
/-- SEC_IDENT_i: 18_firmware_and_security.md, R364. -/
def row_SEC_IDENT : RegRow :=
  ⟨.SEC_IDENT, 0xf00040, 0x8, 8, [f_SEC_IDENT_DIGEST]⟩
def f_SEC_FW_MEAS_DIGEST : Fld := ⟨63, 0, .ro, 0x0⟩
/-- SEC_FW_MEAS_i: 18_firmware_and_security.md, R364. -/
def row_SEC_FW_MEAS : RegRow :=
  ⟨.SEC_FW_MEAS, 0xf00080, 0x8, 8, [f_SEC_FW_MEAS_DIGEST]⟩
def f_SEC_TRIM_DIGEST_DIGEST : Fld := ⟨63, 0, .ro, 0x0⟩
/-- SEC_TRIM_DIGEST_i: 18_firmware_and_security.md, R364. -/
def row_SEC_TRIM_DIGEST : RegRow :=
  ⟨.SEC_TRIM_DIGEST, 0xf000c0, 0x8, 8, [f_SEC_TRIM_DIGEST_DIGEST]⟩
def f_SAF_CTL_STEST_HOURS : Fld := ⟨47, 40, .rw, 0x18⟩
def f_SAF_CTL_FAULT_TEST : Fld := ⟨0, 0, .rw, 0x0⟩
/-- SAF_CTL: 19_safety_and_containment.md, R380. -/
def row_SAF_CTL : RegRow :=
  ⟨.SAF_CTL, 0x1000000, 0x8, 1, [f_SAF_CTL_STEST_HOURS, f_SAF_CTL_FAULT_TEST]⟩
def f_SAF_STATUS_DF_CAUSE : Fld := ⟨59, 56, .ro, 0x0⟩
def f_SAF_STATUS_DIE1_CAUSE : Fld := ⟨55, 52, .ro, 0x0⟩
def f_SAF_STATUS_DIE0_CAUSE : Fld := ⟨51, 48, .ro, 0x0⟩
def f_SAF_STATUS_FAULT_N : Fld := ⟨9, 9, .ro, 0x0⟩
def f_SAF_STATUS_LATENT : Fld := ⟨8, 8, .rw1c, 0x0⟩
def f_SAF_STATUS_MARL : Fld := ⟨7, 7, .rw1c, 0x0⟩
def f_SAF_STATUS_SET : Fld := ⟨6, 6, .rw1c, 0x0⟩
def f_SAF_STATUS_INTEGRITY : Fld := ⟨5, 5, .rw1c, 0x0⟩
def f_SAF_STATUS_DOMAIN : Fld := ⟨4, 4, .rw1c, 0x0⟩
/-- SAF_STATUS: 19_safety_and_containment.md, R380. -/
def row_SAF_STATUS : RegRow :=
  ⟨.SAF_STATUS, 0x1000008, 0x8, 1, [f_SAF_STATUS_DF_CAUSE, f_SAF_STATUS_DIE1_CAUSE, f_SAF_STATUS_DIE0_CAUSE, f_SAF_STATUS_FAULT_N, f_SAF_STATUS_LATENT, f_SAF_STATUS_MARL, f_SAF_STATUS_SET, f_SAF_STATUS_INTEGRITY, f_SAF_STATUS_DOMAIN]⟩
def f_SAF_CNT_FENCES : Fld := ⟨63, 48, .ro, 0x0⟩
def f_SAF_CNT_REJOINS : Fld := ⟨47, 32, .ro, 0x0⟩
def f_SAF_CNT_LATENT : Fld := ⟨31, 16, .ro, 0x0⟩
def f_SAF_CNT_INTEGRITY : Fld := ⟨15, 0, .ro, 0x0⟩
/-- SAF_CNT: 19_safety_and_containment.md, R380. -/
def row_SAF_CNT : RegRow :=
  ⟨.SAF_CNT, 0x1000010, 0x8, 1, [f_SAF_CNT_FENCES, f_SAF_CNT_REJOINS, f_SAF_CNT_LATENT, f_SAF_CNT_INTEGRITY]⟩
def f_SAF_STEST_RUNS : Fld := ⟨63, 48, .ro, 0x0⟩
def f_SAF_STEST_FAILS : Fld := ⟨47, 32, .ro, 0x0⟩
def f_SAF_STEST_LAST_FAIL : Fld := ⟨7, 0, .ro, 0x0⟩
/-- SAF_STEST_d: 19_safety_and_containment.md, R380. -/
def row_SAF_STEST : RegRow :=
  ⟨.SAF_STEST, 0x1000020, 0x8, 2, [f_SAF_STEST_RUNS, f_SAF_STEST_FAILS, f_SAF_STEST_LAST_FAIL]⟩
def f_SAF_DOM_FENCE : Fld := ⟨63, 63, .wo, 0x0⟩
def f_SAF_DOM_FENCE_CNT : Fld := ⟨39, 32, .ro, 0x0⟩
def f_SAF_DOM_CAUSE : Fld := ⟨19, 16, .ro, 0x0⟩
def f_SAF_DOM_STATE : Fld := ⟨2, 0, .ro, 0x0⟩
/-- SAF_DOM_i: 19_safety_and_containment.md, R380. -/
def row_SAF_DOM : RegRow :=
  ⟨.SAF_DOM, 0x1001000, 0x8, 336, [f_SAF_DOM_FENCE, f_SAF_DOM_FENCE_CNT, f_SAF_DOM_CAUSE, f_SAF_DOM_STATE]⟩
def f_PWR_CTL_BED_GATE : Fld := ⟨48, 48, .rw, 0x0⟩
def f_PWR_CTL_THERM_EMERG : Fld := ⟨47, 40, .rw, 0x69⟩
def f_PWR_CTL_PL_GUARD : Fld := ⟨39, 32, .rw, 0x32⟩
def f_PWR_CTL_PL_W : Fld := ⟨27, 16, .rw, 0x0⟩
def f_PWR_CTL_VMAX : Fld := ⟨9, 0, .rw, 0x320⟩
/-- PWR_CTL: 20_power_thermal_and_trim.md, R397. -/
def row_PWR_CTL : RegRow :=
  ⟨.PWR_CTL, 0x1100000, 0x8, 1, [f_PWR_CTL_BED_GATE, f_PWR_CTL_THERM_EMERG, f_PWR_CTL_PL_GUARD, f_PWR_CTL_PL_W, f_PWR_CTL_VMAX]⟩
def f_PWR_FUSE_PL_FUSE : Fld := ⟨43, 32, .ro, 0x6d6⟩
def f_PWR_FUSE_TRIP : Fld := ⟨23, 16, .ro, 0x73⟩
def f_PWR_FUSE_VMAX_FUSE : Fld := ⟨9, 0, .ro, 0x320⟩
/-- PWR_FUSE: 20_power_thermal_and_trim.md, R397. -/
def row_PWR_FUSE : RegRow :=
  ⟨.PWR_FUSE, 0x1100008, 0x8, 1, [f_PWR_FUSE_PL_FUSE, f_PWR_FUSE_TRIP, f_PWR_FUSE_VMAX_FUSE]⟩
def f_PWR_INPUT_P_PEAK : Fld := ⟨59, 48, .ro, 0x0⟩
def f_PWR_INPUT_P_AVG : Fld := ⟨43, 32, .ro, 0x0⟩
def f_PWR_INPUT_V48 : Fld := ⟨15, 0, .ro, 0x0⟩
/-- PWR_INPUT: 20_power_thermal_and_trim.md, R397. -/
def row_PWR_INPUT : RegRow :=
  ⟨.PWR_INPUT, 0x1100010, 0x8, 1, [f_PWR_INPUT_P_PEAK, f_PWR_INPUT_P_AVG, f_PWR_INPUT_V48]⟩
def f_PWR_EMERG_ENTRIES : Fld := ⟨63, 48, .ro, 0x0⟩
def f_PWR_EMERG_GATE : Fld := ⟨33, 32, .ro, 0x0⟩
def f_PWR_EMERG_CAUSES_D1 : Fld := ⟨11, 8, .ro, 0x0⟩
def f_PWR_EMERG_CAUSES_D0 : Fld := ⟨7, 4, .ro, 0x0⟩
/-- PWR_EMERG: 20_power_thermal_and_trim.md, R397. -/
def row_PWR_EMERG : RegRow :=
  ⟨.PWR_EMERG, 0x1100018, 0x8, 1, [f_PWR_EMERG_ENTRIES, f_PWR_EMERG_GATE, f_PWR_EMERG_CAUSES_D1, f_PWR_EMERG_CAUSES_D0]⟩
def f_PWR_TRIM_LENGTHENED : Fld := ⟨63, 32, .ro, 0x0⟩
def f_PWR_TRIM_CANARY_FENCES : Fld := ⟨31, 16, .ro, 0x0⟩
def f_PWR_TRIM_SIGNER : Fld := ⟨9, 2, .ro, 0x0⟩
def f_PWR_TRIM_FACTORY_ORIGINAL : Fld := ⟨1, 1, .ro, 0x0⟩
def f_PWR_TRIM_ABSENT : Fld := ⟨0, 0, .ro, 0x0⟩
/-- PWR_TRIM: 20_power_thermal_and_trim.md, R397. -/
def row_PWR_TRIM : RegRow :=
  ⟨.PWR_TRIM, 0x1100020, 0x8, 1, [f_PWR_TRIM_LENGTHENED, f_PWR_TRIM_CANARY_FENCES, f_PWR_TRIM_SIGNER, f_PWR_TRIM_FACTORY_ORIGINAL, f_PWR_TRIM_ABSENT]⟩
def f_PWR_VCORE_V_MIN : Fld := ⟨41, 32, .ro, 0x3ff⟩
def f_PWR_VCORE_MEASURED : Fld := ⟨25, 16, .ro, 0x0⟩
def f_PWR_VCORE_TARGET : Fld := ⟨9, 0, .rw, 0x2ee⟩
/-- PWR_VCORE_d: 20_power_thermal_and_trim.md, R397. -/
def row_PWR_VCORE : RegRow :=
  ⟨.PWR_VCORE, 0x1100100, 0x8, 2, [f_PWR_VCORE_V_MIN, f_PWR_VCORE_MEASURED, f_PWR_VCORE_TARGET]⟩
def f_PWR_THERM_TJ_PEAK : Fld := ⟨63, 48, .ro, 0x0⟩
def f_PWR_THERM_HOTTEST : Fld := ⟨37, 32, .ro, 0x0⟩
def f_PWR_THERM_TJ : Fld := ⟨15, 0, .ro, 0x0⟩
/-- PWR_THERM_d: 20_power_thermal_and_trim.md, R397. -/
def row_PWR_THERM : RegRow :=
  ⟨.PWR_THERM, 0x1100200, 0x8, 2, [f_PWR_THERM_TJ_PEAK, f_PWR_THERM_HOTTEST, f_PWR_THERM_TJ]⟩
def f_DBG_CTL_FREEZE : Fld := ⟨63, 63, .wo, 0x0⟩
def f_DBG_CTL_THAW : Fld := ⟨62, 62, .wo, 0x0⟩
def f_DBG_CTL_RELOCK : Fld := ⟨61, 61, .wo, 0x0⟩
/-- DBG_CTL: 21_freeze_and_debug.md, R408. -/
def row_DBG_CTL : RegRow :=
  ⟨.DBG_CTL, 0x1200000, 0x8, 1, [f_DBG_CTL_FREEZE, f_DBG_CTL_THAW, f_DBG_CTL_RELOCK]⟩
def f_DBG_STATUS_FREEZES : Fld := ⟨63, 48, .ro, 0x0⟩
def f_DBG_STATUS_UNLOCK_RESULT : Fld := ⟨23, 16, .ro, 0x0⟩
def f_DBG_STATUS_UNLOCK_USED : Fld := ⟨10, 10, .ro, 0x0⟩
def f_DBG_STATUS_UNLOCKED : Fld := ⟨9, 9, .ro, 0x0⟩
def f_DBG_STATUS_REQ : Fld := ⟨8, 8, .ro, 0x0⟩
def f_DBG_STATUS_PHASE : Fld := ⟨3, 0, .ro, 0x0⟩
/-- DBG_STATUS: 21_freeze_and_debug.md, R408. -/
def row_DBG_STATUS : RegRow :=
  ⟨.DBG_STATUS, 0x1200008, 0x8, 1, [f_DBG_STATUS_FREEZES, f_DBG_STATUS_UNLOCK_RESULT, f_DBG_STATUS_UNLOCK_USED, f_DBG_STATUS_UNLOCKED, f_DBG_STATUS_REQ, f_DBG_STATUS_PHASE]⟩
def f_DBG_CAP_ADDR_SPACE : Fld := ⟨63, 60, .rw, 0x0⟩
def f_DBG_CAP_ADDR_ADDRESS : Fld := ⟨48, 0, .rw, 0x0⟩
/-- DBG_CAP_ADDR: 21_freeze_and_debug.md, R408. -/
def row_DBG_CAP_ADDR : RegRow :=
  ⟨.DBG_CAP_ADDR, 0x1200010, 0x8, 1, [f_DBG_CAP_ADDR_SPACE, f_DBG_CAP_ADDR_ADDRESS]⟩
def f_DBG_CAP_CTL_CMD : Fld := ⟨63, 61, .wo, 0x0⟩
def f_DBG_CAP_CTL_DONE : Fld := ⟨60, 60, .rw1c, 0x0⟩
def f_DBG_CAP_CTL_BUSY : Fld := ⟨59, 59, .ro, 0x0⟩
def f_DBG_CAP_CTL_RESULT : Fld := ⟨55, 48, .ro, 0x0⟩
def f_DBG_CAP_CTL_COUNT : Fld := ⟨6, 0, .rw, 0x1⟩
/-- DBG_CAP_CTL: 21_freeze_and_debug.md, R408. -/
def row_DBG_CAP_CTL : RegRow :=
  ⟨.DBG_CAP_CTL, 0x1200018, 0x8, 1, [f_DBG_CAP_CTL_CMD, f_DBG_CAP_CTL_DONE, f_DBG_CAP_CTL_BUSY, f_DBG_CAP_CTL_RESULT, f_DBG_CAP_CTL_COUNT]⟩
/-- DBG_CAP_RESULT_i: 21_freeze_and_debug.md, R408. -/
def row_DBG_CAP_RESULT : RegRow :=
  ⟨.DBG_CAP_RESULT, 0x1200020, 0x8, 2, (List.range 32).map fun i => ⟨2 * i + 1, 2 * i, .ro, 0⟩⟩
def f_DBG_UNLOCK_NONCE_NONCE : Fld := ⟨63, 0, .ro, 0x0⟩
/-- DBG_UNLOCK_NONCE_i: 21_freeze_and_debug.md, R408. -/
def row_DBG_UNLOCK_NONCE : RegRow :=
  ⟨.DBG_UNLOCK_NONCE, 0x1200040, 0x8, 4, [f_DBG_UNLOCK_NONCE_NONCE]⟩
def f_DBG_CAP_DATA_DATA : Fld := ⟨63, 0, .ro, 0x0⟩
/-- DBG_CAP_DATA_w: 21_freeze_and_debug.md, R408. -/
def row_DBG_CAP_DATA : RegRow :=
  ⟨.DBG_CAP_DATA, 0x1201000, 0x8, 256, [f_DBG_CAP_DATA_DATA]⟩
/-- The GEN block. -/
def rowsGEN : List RegRow := [row_GEN_IDENT, row_GEN_CODENAME, row_GEN_CONFIG, row_GEN_STATUS, row_GEN_STEP_RATE]
/-- The STR block. -/
def rowsSTR : List RegRow := [row_STR_ACTIVE_ID, row_STR_ACTIVE_INFO, row_STR_STATUS, row_STR_STAGE_CTL, row_STR_DIGEST, row_STR_STAGE_BUF]
/-- The LSS block. -/
def rowsLSS : List RegRow := [row_LSS_CTL, row_LSS_SWEEP_STATUS, row_LSS_MOVE_CTL, row_LSS_MOVE_CNT, row_LSS_POOL, row_LSS_EVICT_CNT, row_LSS_JOURNAL, row_LSS_PLAN]
/-- The GRD block. -/
def rowsGRD : List RegRow := [row_GRD_CTL, row_GRD_ERR_CNT, row_GRD_TBL_SEL, row_GRD_TBL_GEN, row_GRD_TBL_STORED, row_GRD_TBL_REFS, row_GRD_ENC_CNT, row_GRD_DEC_CNT]
/-- The BED block. -/
def rowsBED : List RegRow := [row_BED_CTL, row_BED_STATUS, row_BED_SLICE, row_BED_OPS, row_BED_STALL, row_BED_CLAY, row_BED_RES_CNT, row_BED_CORE]
/-- The CTX block. -/
def rowsCTX : List RegRow := [row_CTX_CTL, row_CTX_SEL, row_CTX_INFO, row_CTX_OCC, row_CTX_PORT, row_CTX_PORT_CNT, row_CTX_PORT_TEN, row_CTX_TENANT]
/-- The RGN block. -/
def rowsRGN : List RegRow := [row_RGN_FM_STATUS, row_RGN_USAGE, row_RGN_CNT, row_RGN_SEL, row_RGN_INFO, row_RGN_MAP, row_RGN_EPOCH, row_RGN_RECLAIM, row_RGN_FM_KEY]
/-- The QOS block. -/
def rowsQOS : List RegRow := [row_QOS_CTL, row_QOS_SEL, row_QOS_MASTER, row_QOS_MASTER_CNT, row_QOS_MASTER_OUT, row_QOS_SET, row_QOS_RT]
/-- The HMC block. -/
def rowsHMC : List RegRow := [row_HMC_CTL, row_HMC_STATUS, row_HMC_TRAIN, row_HMC_TEMP, row_HMC_QUEUE, row_HMC_CNT]
/-- The LMC block. -/
def rowsLMC : List RegRow := [row_LMC_CTL, row_LMC_STATUS, row_LMC_TRAIN, row_LMC_TEMP, row_LMC_QUEUE, row_LMC_CNT]
/-- The LOAM block. -/
def rowsLOAM : List RegRow := [row_LOAM_CTL, row_LOAM_STATUS, row_LOAM_PSN_CTL, row_LOAM_PSN_ENTRY, row_LOAM_TEST_ADDR, row_LOAM_TEST_CTL, row_LOAM_TEST_DATA, row_LOAM_SCRUB, row_LOAM_CE_CNT_H, row_LOAM_CE_CNT_L, row_LOAM_CE_A, row_LOAM_CE_B, row_LOAM_LOG_A, row_LOAM_LOG_B]
/-- The OLY block. -/
def rowsOLY : List RegRow := [row_OLY_CTL, row_OLY_STATUS, row_OLY_CREDIT, row_OLY_RETRY, row_OLY_FEC, row_OLY_LANE, row_OLY_CNT, row_OLY_ERR, row_OLY_TRAIN]
/-- The HIF block. -/
def rowsHIF : List RegRow := [row_HIF_CTL, row_HIF_RING_SEL, row_HIF_RING_INFO, row_HIF_FM_RING, row_HIF_PORT, row_HIF_PORT_CNT]
/-- The SEC block. -/
def rowsSEC : List RegRow := [row_SEC_STATUS, row_SEC_SVN, row_SEC_UPDATE, row_SEC_FW_VERSION, row_SEC_IDENT, row_SEC_FW_MEAS, row_SEC_TRIM_DIGEST]
/-- The SAF block. -/
def rowsSAF : List RegRow := [row_SAF_CTL, row_SAF_STATUS, row_SAF_CNT, row_SAF_STEST, row_SAF_DOM]
/-- The PWR block. -/
def rowsPWR : List RegRow := [row_PWR_CTL, row_PWR_FUSE, row_PWR_INPUT, row_PWR_EMERG, row_PWR_TRIM, row_PWR_VCORE, row_PWR_THERM]
/-- The DBG block. -/
def rowsDBG : List RegRow := [row_DBG_CTL, row_DBG_STATUS, row_DBG_CAP_ADDR, row_DBG_CAP_CTL, row_DBG_CAP_RESULT, row_DBG_UNLOCK_NONCE, row_DBG_CAP_DATA]

/-- The rows of the block that holds an address: the block bases of the register maps. -/
def rowsAt (addr : Nat) : List RegRow :=
  if addr < 0x100000 then rowsGEN else if addr < 0x200000 then rowsSTR else if addr < 0x300000 then rowsLSS
  else if addr < 0x400000 then rowsGRD else if addr < 0x500000 then rowsBED else if addr < 0x600000 then rowsCTX
  else if addr < 0x700000 then rowsRGN else if addr < 0x800000 then rowsQOS else if addr < 0xA00000 then rowsHMC
  else if addr < 0xC00000 then rowsLMC else if addr < 0xD00000 then rowsLOAM else if addr < 0xE00000 then rowsOLY
  else if addr < 0xF00000 then rowsHIF else if addr < 0x1000000 then rowsSEC else if addr < 0x1100000 then rowsSAF
  else if addr < 0x1200000 then rowsPWR else rowsDBG

/-- Does the row hold this address. -/
def RegRow.holds (r : RegRow) (addr : Nat) : Bool :=
  r.base ≤ addr && (addr - r.base) % r.stride == 0 && (addr - r.base) / r.stride < r.count

/-- The row of a mapped address (R6: none for an unmapped or misaligned one). -/
def rowOf (addr : Nat) : Option RegRow :=
  if addr % 8 = 0 then (rowsAt addr).find? (·.holds addr) else none

/-- The index of an address within its row. -/
def RegRow.index (r : RegRow) (addr : Nat) : Nat := (addr - r.base) / r.stride

/-- The reset value of a register: its fields' reset values in place. -/
def RegRow.resetValue (r : RegRow) : Word :=
  r.fields.foldl (fun w f => w ||| (BitVec.ofNat 64 f.rst <<< f.lo)) 0

/-- The address of index i of a row. -/
def RegRow.addr (r : RegRow) (i : Nat) : Nat := r.base + r.stride * i

/-- The reset value of the register at an address; 0 where nothing is mapped. -/
def resetAt (addr : Nat) : Word :=
  match rowOf addr with
  | some r => r.resetValue
  | none => 0

end Sys2Proof.Machine
end

