-- ==== Sys2Proof/Machine/Tab.lean ====
section
/-! DEFINITION. Sparse tables: a list of (key, value) pairs in one canonical form, keys strictly rising and no value equal to
the table's default. Memory, flash, descriptors, registers and every other indexed collection of the state are such tables. -/
namespace Sys2Proof.Machine

/-- A sparse table from Nat keys. -/
abbrev Tab (α : Type) := List (Nat × α)

/-- The value at a key; d where the table lists none. -/
def Tab.get {α : Type} (m : Tab α) (k : Nat) (d : α) : α :=
  match m with
  | [] => d
  | (i, v) :: t => if i = k then v else if k < i then d else Tab.get t k d

/-- Write the value v at key k, keeping the canonical form for the default d: v = d removes the entry (and skips what lies
before the next larger key, nothing in a table of canonical form, so that reading back what was written holds of any list). -/
def Tab.set {α : Type} [DecidableEq α] (m : Tab α) (k : Nat) (v d : α) : Tab α :=
  match m with
  | [] => if v = d then [] else [(k, v)]
  | (i, w) :: t =>
    if k < i then (if v = d then (i, w) :: t else (k, v) :: (i, w) :: t)
    else if k = i then (if v = d then t.dropWhile (fun e => decide (e.1 ≤ k)) else (k, v) :: t)
    else (i, w) :: Tab.set t k v d

/-- The keys lie strictly above b, rising. -/
def Tab.risingFrom {α : Type} (m : Tab α) (b : Option Nat) : Bool :=
  match m with
  | [] => true
  | (i, _) :: t => (match b with | none => true | some b => b < i) && Tab.risingFrom t (some i)

/-- The canonical form: keys strictly rising, no entry equal to the default. -/
def Tab.wf {α : Type} [DecidableEq α] (m : Tab α) (d : α) : Bool :=
  Tab.risingFrom m none && m.all (fun e => e.2 ≠ d)

/-- Change the value at a key. -/
def Tab.upd {α : Type} [DecidableEq α] (m : Tab α) (k : Nat) (d : α) (f : α → α) : Tab α :=
  m.set k (f (m.get k d)) d

/-- The entries whose value satisfies p. -/
def Tab.filterV {α : Type} (m : Tab α) (p : Nat → α → Bool) : Tab α := m.filter fun e => p e.1 e.2

/-- Every listed value changed by f; entries that become the default leave the table. -/
def Tab.mapV {α : Type} [DecidableEq α] (m : Tab α) (d : α) (f : Nat → α → α) : Tab α :=
  (m.map fun e => (e.1, f e.1 e.2)).filter fun e => e.2 ≠ d

/-- Is key k listed. -/
def Tab.has {α : Type} (m : Tab α) (k : Nat) : Bool := m.any fun e => e.1 == k

end Sys2Proof.Machine
end

