-- ==== Sys2Proof/Machine/State.lean ====
section
/-! DEFINITION. The state of the device: every register, table, queue, buffer, mode and pin of spec/, and the queue of
waiting commands. Plain data. -/
namespace Sys2Proof.Machine

/-- A command's place: the queue it came from, its CID, its CTX field and its NOTIFY flag (R333), and a number of its own, which tells
equal entries apart (R335). -/
structure CmdRef where
  q : Queue
  cid : BitVec 16
  ctx : BitVec 32
  notify : Bool
  serial : Nat := 0
  deriving DecidableEq, Repr

/-- Descriptor STATE (R56, R75). -/
inductive DState where
  | free | stable | moving
  deriving DecidableEq, Repr

/-- An extent descriptor (R56). len holds LEN_k in bits 6k+5..6k, gen the GEN bits. reload: the extent is being reloaded (R91); its
mirror then keeps the run of mirrorRun slabs that it had. -/
structure Desc where
  st : DState := .free
  region : Nat := 0
  mirror : Option (Nat × Nat) := none
  slabs : Nat := 0
  loc : Nat := 0
  set : Nat := 0
  sub : Bool := false
  tensor : Nat := 0
  age : Nat := 0
  poisoned : Bool := false
  codec : Bool := false
  touched : Bool := false
  pin : Bool := false
  ro : Bool := false
  gen : BitVec 32 := 0
  len : BitVec 192 := 0
  reload : Bool := false
  mirrorRun : Nat := 0
  deriving DecidableEq, Repr

/-- A home: tier, set, location, slabs (R56). -/
structure Home where
  sub : Bool
  set : Nat
  loc : Nat
  slabs : Nat
  deriving DecidableEq, Repr

/-- Region states (R242). -/
inductive RState where
  | free | active | reclaiming
  deriving DecidableEq, Repr

/-- A region (R242, R53): runs are (FIRST, COUNT) pairs. -/
structure Rgn where
  st : RState := .free
  part : Nat := 0
  tenant : Nat := 0
  rights : BitVec 4 := 0
  share : Bool := false
  epoch : Word := 0
  runs : List (Nat × Nat) := []
  cursor : Nat := 0
  cmd : Option CmdRef := none
  gone : List Nat := []
  trimCmds : List CmdRef := []
  deriving DecidableEq, Repr

/-- A binding entry (R49). drain holds the tick at which DRAINING began and the issuer; done counts completions since. -/
structure Binding where
  draining : Bool := false
  region : Nat := 0
  roff : Nat := 0
  rights : BitVec 4 := 0
  len : Nat := 0
  wbase : Nat := 0
  since : Nat := 0
  cmds : List CmdRef := []
  done : Nat := 0
  deriving DecidableEq, Repr

/-- Context states (R224). -/
inductive CState where
  | free | active | parked | orphaned | draining
  deriving DecidableEq, Repr

/-- Program states (R169). -/
inductive PState where
  | idle | running | sleeping
  deriving DecidableEq, Repr

/-- The stop of a program (R186): status, PC reported, fetch status, END code. -/
structure Stop where
  status : Nat
  pc : BitVec 48
  fetch : Nat
  code : Word
  deriving DecidableEq, Repr

/-- A ring or queue pair (R335): both sizes, device and issuer indices, PHASE of the next completion, COALESCE and the
entries written since the last NOTIFY, completions that wait for room, FAULTED; stale: the entries of a context that was orphaned are
fetched after its next SQ doorbell (R340). -/
structure Ring where
  isSet : Bool := false
  faulted : Bool := false
  sqBase : Nat := 0
  cqBase : Nat := 0
  sqLog : Nat := 0
  cqLog : Nat := 0
  sqHead : Nat := 0
  sqTail : Nat := 0
  cqHead : Nat := 0
  cqTail : Nat := 0
  cqUsed : Nat := 0
  phase : Bool := true
  coalesce : Nat := 0
  since : Nat := 0
  stale : Bool := false
  waiting : List (Gran × Gran × Bool) := []
  deriving DecidableEq, Repr

/-- A block as its checks see it (R103, R116): extent, block, and the tensor, generation and length code it was read with. -/
structure BlkId where
  ext : Nat
  blk : Nat
  tensor : Nat
  gen : Bool
  len : Nat
  deriving DecidableEq, Repr

/-- A coded block in a clay page (R136): its first granule in the page, its granules there, the block, and whether a reference
to its table is still counted. -/
structure ClayRef where
  first : Nat
  n : Nat
  id : BlkId
  counted : Bool
  deriving DecidableEq, Repr

/-- Where an operand's block lies: block k of extent x, or of slot i of a plan's ring, which held a layer when the read was issued. -/
inductive OpPlace where
  | ext (x k : Nat)
  | slot (p i layer k : Nat)
  deriving DecidableEq, Repr

/-- A block that an operand read covers (R135): its place, the binding index it was translated through, whether it is of the
operand itself and not of its scales, the granules wanted (key, granule of the block), its part of RESV, LEN_CHANGED answers in
a row, whether its read has still to be issued again after one, the set charged and the charge. -/
structure RdBlk where
  place : OpPlace
  bind : Option Nat := none
  own : Bool
  grans : List (Nat × Nat)
  resv : Nat
  tries : Nat := 0
  again : Bool := false
  set : Nat := 0
  charge : Nat := 0
  deriving DecidableEq, Repr

/-- Granules that an operation writes at a window: the window extent, the extent that it translated to, the first granule and how many,
the binding index (R127 step 1). -/
structure OutRun where
  w : Nat
  ext : Nat
  first : Nat
  n : Nat
  bind : Nat
  deriving DecidableEq, Repr

/-- A block held in clay in transit form (R130, R136). -/
structure HeldBlk where
  id : BlkId
  grans : List (Nat × Nat)
  data : List Gran
  deriving DecidableEq, Repr

/-- A source of a tensor operation (R127, R135, R137): the number of its reads, whether they are issued, some have brought data,
and all are applied, the granules of its reservation, the blocks still to be read, those held in transit form, the data of the
others by granule. -/
structure Src where
  rid : Nat := 0
  issued : Bool := false
  came : Bool := false
  applied : Bool := false
  resv : Nat := 0
  todo : List RdBlk := []
  held : List HeldBlk := []
  data : Tab Gran := []
  deriving DecidableEq, Repr

/-- A tensor operation (R127, R173): its context, word, slot, descriptors as resolved (by role, scale tensors at role + 8), the
scalar it names (WIN), status so far, flags, sources by role, whether resolution refused it, whether it started, waited for a
window slot, waits for ring room (POST), references of coded blocks, window-slot layers (plan, layer), bindings it resolved
through, the granules it writes at windows, with the number of these writes and whether they have been issued, and those in clay: (granule,
count). -/
structure TOp where
  ctx : Nat
  pc : BitVec 48
  slot : BitVec 128
  desc : Tab Gran := []
  arg : Word := 0
  status : Nat := 0
  flags : BitVec 5 := 0
  srcs : Tab Src := []
  noop : Bool := false
  started : Bool := false
  waited : Bool := false
  waitRing : Bool := false
  refs : List (Nat × Nat) := []
  fills : List (Nat × Nat) := []
  binds : List Nat := []
  outs : List OutRun := []
  wid : Nat := 0
  wrote : Bool := false
  clayOuts : List (Nat × Nat) := []
  deriving DecidableEq, Repr

/-- A context (R169, R222): attributes, binding table, program state, saved state, parking and draining progress. -/
structure Ctx where
  st : CState := .free
  gen : Nat := 1
  boot : Nat := 0
  port : Nat := 0
  tenant : Nat := 0
  rights : BitVec 4 := 0
  bed : Option Nat := none
  clayPages : Nat := 0
  area : Option (List (Nat × List Nat)) := none
  clayLost : Bool := false
  slot : Option Nat := none
  stamp : Nat := 0
  binds : Tab Binding := []
  s : Tab Word := []
  p : BitVec 8 := 1
  t : Tab Gran := []
  undef : Option Nat := none
  pc : BitVec 48 := 0
  flags : BitVec 5 := 0
  last : BitVec 29 := 0
  ps : PState := .idle
  resumeT : Bool := false
  nextPc : BitVec 48 := 0
  post : Option TOp := none
  wake : Option Word := none
  sleepRd : Nat := 0
  sleepUs : Nat := 0
  sleepFrom : Nat := 0
  launch : Option CmdRef := none
  stop : Option Stop := none
  yield : Bool := false
  parking : Bool := false
  parkCmds : List CmdRef := []
  parkWait : Bool := false
  parkSleep : Bool := false
  unparking : Bool := false
  timeoutDue : Bool := false
  late : Option (BitVec 48) := none
  destroyers : List CmdRef := []
  destroyWanted : Bool := false
  destroyHost : Bool := false
  drainFrom : Nat := 0
  recover : Bool := false
  ring : Ring := {}
  deriving DecidableEq, Repr

/-- The state of a bed (R126, R144, R180): the context running or last run and the slot it held, operations running and pending,
the instruction buffers (address, word or fetch status), when the context was switched in, the SYNC fence in force (R182),
PREFETCH_EN as it was at the last operation boundary (R146). -/
structure Bed where
  cur : Option Nat := none
  curSlot : Nat := 0
  run : Option TOp := none
  pend : Option TOp := none
  ibuf : List (Nat × Option Gran × Nat) := []
  since : Nat := 0
  sync : Bool := false
  pf : Bool := true
  deriving DecidableEq, Repr

/-- Service classes (R256). -/
inductive Cls where
  | rt | guar | be
  deriving DecidableEq, Repr

/-- Stages of a link request (R320). -/
inductive Stage where
  | held | parkQ | waitMove | credits | ceiling | issued | ready
  deriving DecidableEq, Repr

/-- A link request in the device (R320): what arrived, when, its class and deadline, the charge
of its translation, what it holds of it and what its pieces have moved, the RSP credits that it needs and those that it holds, for each
block of a wire read what is reserved and how many LEN_CHANGED it met in a row, result, the parts it
translated to (extent, first granule, granules), and the requests whose end a PUB waits for; once it is issued its pieces that no
controller has accepted (instance, granules), those that lie in a queue with their class (R255), and what the granules that it wrote held
before (set, granule address). -/
structure Req where
  id : Nat
  port : Nat
  ty : Nat
  h : ReqHdr
  data : List Gran
  stage : Stage
  t0 : Nat
  common : Nat
  ticks : Option Nat
  cmaster : Nat
  charge : List (Nat × Nat)
  moved : Tab Nat
  resv : Nat
  tries : List (Nat × Nat)
  binding : List (Nat × Nat)
  status : Nat
  result : Word
  out : List Gran
  compressed : Bool
  refs : List (Nat × Nat)
  exts : List (Nat × Nat × Nat)
  waits : List Nat
  ph : Phys
  cost : List (Nat × Nat) := []
  pieces : List (Nat × Nat) := []
  queued : List (Nat × Cls) := []
  undo : List (Nat × Nat × Code) := []
  held : Nat := 0
  deriving DecidableEq, Repr

/-- A doorbell that waits (R227, R399): its place in the order of arrival, port, value, tick of arrival; in the park queue for context
number ctx, or, held by its port while the device is frozen, with the handle ctx. -/
structure Bell where
  id : Nat
  port : Nat
  ctx : Nat
  v : Nat
  time : Nat
  held : Bool := false
  deriving DecidableEq, Repr

/-- An FM message that its port holds while no attach is handled (R240, R403): FM_PROOF or FM_HELLO, whether the endorsement of the
latter is right, its payload, tick of arrival, whether the port was then within the wait that follows a refusal (R241). -/
structure HeldMsg where
  port : Nat
  proof : Bool
  endorsed : Bool
  payload : List Byte
  time : Nat
  locked : Bool := false
  deriving DecidableEq, Repr

/-- A fetched command that is not finally complete (R335). started: its checks have run; count, left, units and status
gather its result while it runs (extents moved or left, units retired). -/
structure Fetched where
  ref : CmdRef
  e : Entry
  started : Bool
  count : Nat := 0
  left : Nat := 0
  units : Nat := 0
  status : Nat := 0
  deriving DecidableEq, Repr

/-- A waiter for a slot of a port (R227, R228): an unpark of a context, or a create; the idle context being parked for it, and
whether CTX_WAIT was answered. -/
structure SlotWait where
  port : Nat
  ctx : Option Nat
  create : Option (CmdRef × Entry)
  victim : Option Nat
  told : Bool
  deriving DecidableEq, Repr

/-- Grade slot states (R118). -/
inductive SlotSt where
  | empty | active | retiring | lost
  deriving DecidableEq, Repr

/-- A table slot: state, install serial, code lengths of the 272 symbols, counters (R118). -/
structure GSlot where
  st : SlotSt := .empty
  serial : Nat := 0
  lens : List Nat := []
  stored : Nat := 0
  refs : Nat := 0
  deriving DecidableEq, Repr

/-- A codec tensor (R93, R118, R119). fit: command, blocks left, INSTALL, output address, counts. -/
structure Tensor where
  alloc : Bool := false
  tenant : Nat := 0
  width4 : Bool := false
  extents : Nat := 0
  a : GSlot := {}
  b : GSlot := {}
  host : Option Nat := none
  fit : Option (CmdRef × Nat × Bool × Nat × Nat) := none
  counts : Tab Nat := []
  recode : Option CmdRef := none
  deriving DecidableEq, Repr

/-- Kinds of a move (R427, R77). -/
inductive MKind where
  | promoteAuto | demoteAuto | promoteCmd | demoteCmd | plan | retire
  deriving DecidableEq, Repr

/-- A move that waits or is in flight (R77): extent, kind, wanted set, engine, destination, step, tick of step 1, what its
writes charge (R258). -/
structure Move where
  ext : Nat
  kind : MKind
  want : Option (Bool × Nat)
  pin : Bool
  cmd : Option CmdRef
  engine : Option Nat
  src : Home
  dst : Home
  step : Nat
  since : Nat
  journal : Nat
  charge : List (Nat × Nat) := []
  deriving DecidableEq, Repr

/-- A free journal record (R80). kind 1 INTENT, 2 RELEASE, 3 RETIRE. -/
structure JRec where
  kind : Nat
  ext : Nat
  src : Home
  dst : Home
  seq : BitVec 32
  engine : Nat
  settled : Bool
  deriving DecidableEq, Repr

/-- The journal of a group, with its next sequence number and NEAR_FULL (R80). -/
structure Journal where
  recs : List JRec := []
  seq : BitVec 32 := 0
  near : Bool := false
  deriving DecidableEq, Repr

/-- The sweep of a group (R82): tick of its last start on the timer of the engine that started it, ticks counted before that
timer started again from 0, whether one runs, extents counted per context at the last end, whether demotion is under way, what
stalled it, and the last victim (R84). -/
structure Sweep where
  from_ : Nat := 0
  by_ : Option Nat := none
  due : Nat := 0
  running : Bool := false
  overran : Bool := false
  done : Bool := false
  occ : Tab (Nat × Nat) := []
  demoting : Bool := false
  stalled : Nat := 0
  lastVictim : Option Nat := none
  deriving DecidableEq, Repr

/-- A window slot of a plan: set and topsoil slot index, READY, layer held or being filled, extent held with the codes of its
blocks, poisoned (R88, R89). -/
structure WSlot where
  set : Nat
  loc : Nat
  ready : Bool := false
  layer : Option Nat := none
  ext : Nat := 0
  bad : Bool := false
  tensor : Nat := 0
  gen : BitVec 32 := 0
  len : BitVec 192 := 0
  deriving DecidableEq, Repr

/-- Plan states (R92). -/
inductive PlanSt where
  | none_ | loading | active | reloading | failed
  deriving DecidableEq, Repr

/-- A plan extent entry (R87) with the extent it names. -/
structure PEnt where
  ext : Nat
  sub : Bool
  set : Nat
  ro : Bool
  pin : Bool
  mirror : Option Nat
  deriving DecidableEq, Repr

/-- A loaded plan (R87 to R89). layers are (FIRST, COUNT), slotCount the window slots it takes, slotted whether they are
assigned; fills are (layer, first ring position); charge is what the writes of the fill in hand charge (R258). -/
structure Plan where
  st : PlanSt := .none_
  ctx : Nat := 0
  region : Nat := 0
  set : Nat := 0
  look : Nat := 0
  layers : List (Nat × Nat) := []
  entries : List PEnt := []
  slotCount : Nat := 0
  slotted : Bool := false
  slots : List WSlot := []
  oldest : Nat := 0
  wins : Nat := 0
  pos : Tab Nat := []
  next : Nat := 0
  fills : List (Nat × Nat) := []
  filling : Bool := false
  charge : List (Nat × Nat) := []
  engine : Option Nat := none
  cmd : Option CmdRef := none
  deriving DecidableEq, Repr

/-- A poison table entry (R299). kind 1 GRANULE, 2 BLOCK, 3 META, 4 LOCATION. -/
structure Poison where
  kind : Nat
  source : Nat
  sub : Bool
  set : Nat
  gaddr : Nat
  ext : Nat
  blk : Nat
  grn : Nat
  mirror : Bool
  channel : Nat
  stamp : Nat
  domain : Nat
  syndrome : BitVec 32
  deriving DecidableEq, Repr

/-- Port states (R311). -/
inductive PortSt where
  | disabled | down | train | active | retrain | hold | failed
  deriving DecidableEq, Repr

/-- A granule on its way through the link: its virtual channel, whether it is the header granule of a message, the granule (R314). -/
abbrev SlotGran := Nat × Bool × Gran

/-- A DATA flit in the retry buffer (R315). -/
structure TxFlit where
  seq : BitVec 12
  slots : List SlotGran
  deriving DecidableEq, Repr

/-- A transaction that is being received on a virtual channel (R317): its header granule, the data that have arrived, and how many
granules of its current message are still to come. -/
structure RxMsg where
  hdr : Gran
  data : List Gran
  left : Nat
  deriving DecidableEq, Repr

/-- A port (R311 to R324): state, width, what the far end advertised and asked for, credit accounts (ctlIn: CTL granules freed), messages that wait for CTL credits (class, granules), granules that wait for a flit, flits not yet
acknowledged, codewords sent; on the receive side the count of the last codeword (R310), SEQ, transactions in arrival by virtual
channel, codewords received and the symbols corrected in the last ones (number of the codeword, lane), the lane of the last failed flit
(R292); the copy of the far end's tables (entry, tensor, generation, serial, last use). -/
structure Port where
  st : PortSt := .disabled
  since : Nat := 0
  immediate : Bool := false
  width : Nat := 0
  farRsp : Nat := 0
  farCtl : Nat := 0
  cw : Bool := false
  tableCap : Nat := 0
  tableHold : Bool := false
  txPreset : BitVec 32 := 0
  txPrecode : Bool := false
  rspSent : Nat := 0
  rspFreed : Nat := 0
  rspResv : Nat := 0
  ctlSent : Nat := 0
  ctlFreed : Nat := 0
  ctlQ : List (Nat × List Gran) := []
  txq : List SlotGran := []
  txSeq : BitVec 12 := 0
  txAck : BitVec 12 := 0
  unacked : List TxFlit := []
  ackAt : Nat := 0
  txWords : Nat := 0
  cwCount : Option (BitVec 16) := none
  reqIn : Nat := 0
  reqFreed : Nat := 0
  ctlIn : Nat := 0
  rxSeq : BitVec 12 := 0
  rx : Tab (Option RxMsg) := []
  nakOut : Bool := false
  failLane : Nat := 0
  failSeq : Option (BitVec 12) := none
  rxWords : Nat := 0
  symErr : List (Nat × Nat) := []
  fecCorr : Nat := 0
  laneFail : BitVec 8 := 0
  far : Tab (Nat × Nat × Nat × Nat) := []
  linkReset : Bool := false
  pllLost : Bool := false
  deriving DecidableEq, Repr

/-- A host session (R340, R341), with the contexts that its ATTACH waits for. -/
structure HostSess where
  period : Nat
  since : Nat
  attach : Option CmdRef
  recover : Bool
  recovered : Nat
  waits : List Nat := []
  deriving DecidableEq, Repr

/-- An event queue: tail, head, PHASE, events dropped since the last write (R345). -/
structure EvQ where
  head : Nat := 0
  used : Nat := 0
  tail : Nat := 0
  phase : Bool := true
  dropped : Nat := 0
  deriving DecidableEq, Repr

/-- Controller states (R286). -/
inductive InstSt where
  | off | training | active | selfRefresh | pause | replay | fenced
  deriving DecidableEq, Repr

/-- A queued piece (R255, R256): arrival tick, class, deadline tick; whether it is issued again after a reset with replay
(R297). -/
structure Piece where
  pc : PieceIn
  cls : Cls
  at_ : Nat
  deadline : Option Nat
  again : Bool := false
  deriving DecidableEq, Repr

/-- An instance: state, failed channels, queue, pieces that wait at the crossbar for room in it (R274), accounts per master in
parts of a granule (acctUnit), the tick they are brought up to and ticks of accrual owed besides (R255), per-part open rows and
when each was opened (R276), last direction and burst run, pause bookkeeping, when the temperature was last read and whether it
has been since reset, refreshes, storm count (R298), PLL. -/
structure Inst where
  st : InstSt := .off
  failed : BitVec 4 := 0
  queue : List Piece := []
  xbar : List PieceIn := []
  acct : Tab Int := []
  acctAt : Nat := 0
  acctDue : Nat := 0
  rows : Tab Nat := []
  rowAt : Tab Nat := []
  dir : Tab (Bool × Nat) := []
  pausedAt : Tab Nat := []
  group : Tab Nat := []
  retry : Option (Nat × Nat) := none
  early : Bool := false
  tempAt : Nat := 0
  tempSeen : Bool := false
  refreshed : Tab Nat := []
  idleSince : Nat := 0
  storm : Nat := 0
  replayEnd : Option Nat := none
  pllLost : Bool := false
  bursts : Nat := 0
  activates : Nat := 0
  hot : Bool := false
  deriving DecidableEq, Repr

/-- An interleave set's regulation (R260, R263): ceilings, outstanding, cuts, BE granules, counters, causes, shortfall. -/
structure SetQ where
  ceil : Tab Nat := []
  out : Tab Nat := []
  cuts : Tab Nat := []
  beGran : Tab Nat := []
  be : Tab Nat := []
  within : Tab Nat := []
  k : Nat := 1024
  kMin : Nat := 1024
  cause : Nat := 0
  qlevel : Nat := 0
  ceilAt : Nat := 0
  lastEvent : Option Nat := none
  pendingEvent : Bool := false
  fenced : Bool := false
  pressure : Bool := false
  scrubOn : Bool := false
  extra : Bool := false
  scrubPos : Nat := 0
  extraPos : Nat := 0
  deriving DecidableEq, Repr

/-- Containment state of a domain (R380). -/
inductive DomSt where
  | off | live | fenced | resetting | retired
  deriving DecidableEq, Repr

/-- A domain: state, cause of its last fence, fences since reset, ticks of the last fences for R372, tick at which
its reset began, whether its self-test has passed. -/
structure Dom where
  st : DomSt := .off
  cause : Nat := 0
  fences : Nat := 0
  times : List Nat := []
  since : Nat := 0
  passed : Bool := false
  deriving DecidableEq, Repr

/-- Update states (R359). -/
inductive UpdSt where
  | idle | staging | staged | deferred | activating
  deriving DecidableEq, Repr

/-- The update machine (R356 to R359): state, command in hand (an UPDATE_ACTIVATE while STAGED, DEFERRED or ACTIVATING, a firmware
UPDATE_STAGE while STAGING), its object, RAISE_SVN, window in ms, tick of the last step, LAST_STATUS, activations, the control
path paused; the write in progress of another target (TARGET, INDEX), whether its programming and its fuses succeed; the copy of the staged
object that SRAM holds from step 3 of R358 on, granules of the handoff block, and the SVN up to which fuses are being blown (R355). -/
structure Upd where
  st : UpdSt := .idle
  cmd : Option CmdRef := none
  buf : List Gran := []
  raise : Bool := false
  window : Nat := 0
  since : Nat := 0
  last : Nat := 0
  activations : Nat := 0
  paused : Bool := false
  write : Option (Nat × Nat) := none
  flashOk : Bool := true
  fuseOk : Bool := true
  sram : List Byte := []
  block : Nat := 0
  burn : Option Nat := none
  deriving DecidableEq, Repr

/-- An FM session (R239): its port and K. -/
structure Fm where
  port : Nat
  key : List Byte
  deriving DecidableEq, Repr

/-- An open challenge on a port (R240): nonce, K and the FM key pair, tick of issue. -/
structure Challenge where
  nonce : List Byte
  key : List Byte
  since : Nat
  deriving DecidableEq, Repr

/-- Device states (R24). -/
inductive DevSt where
  | powerUp | boot | training | ready | readySafe | frozen | failed
  deriving DecidableEq, Repr

/-- Freeze phases (R408). -/
inductive Phase where
  | running | halting | frozen | thawing
  deriving DecidableEq, Repr

/-- Steps of a bring-up (R412): what the device waits for. -/
inductive Step where
  | standby | pwrok | reset | rom | firmware | stratum | training | metadata | ports | up
  deriving DecidableEq, Repr

/-- A codeword that a port sends (R310): its count, its two flits, and what each lane sends; an alignment marker has no flits. -/
structure Sent where
  port : Nat
  count : Nat
  flits : List (Gran × List Code)
  lanes : List (List (BitVec 10))
  deriving DecidableEq, Repr

/-- What leaves the device: a log the model keeps so that a reply is part of the state. -/
inductive Out where
  | cpl (port : Nat) (hdr : Gran) (data : List Gran)
  | msg (port : Nat) (cls : Nat) (data : List Gran)
  | i3c (bytes : List Byte)
  | tap (v : Nat)
  | ibi (b : Byte)
  deriving DecidableEq, Repr

/-- A set of the stratum (R29). -/
structure SSet where
  channels : List Nat
  sub : Bool
  die : Nat
  grain : Nat
  codecOk : Bool
  part : Nat
  lowWm : Nat
  highWm : Nat
  shares : List Nat
  deriving DecidableEq, Repr

/-- The stratum in force, parsed (R26 to R38). -/
structure Strat where
  sets : List SSet
  overcommit : Nat
  beds : List (BitVec 24)
  ports : List (BitVec 64)
  lanes : BitVec 64
  routes : List (BitVec 64)
  ageLimit : Nat
  rtMask : BitVec 30
  slots : List Nat
  powerLimit : Nat
  allow : List Nat
  bedPart : List Nat
  portPart : List Nat
  loessPart : List Nat
  sealCount : Nat
  safe : Bool
  id : Word
  seq : BitVec 32
  digest : List Byte
  image : List Gran
  deriving DecidableEq, Repr

/-- A running staging command (R45): kind, bytes copied. -/
structure Stage_ where
  cmd : Nat
  len : Nat
  buf : List Gran
  adopted : Bool
  deriving DecidableEq, Repr

/-- Everything of the device but its power limits, its one-way security state and its board management. -/
structure Dev where
  regs : Tab Word := []
  timers : Tab Nat := []
  halted : Tab Nat := []
  free : Nat := 0
  nextId : Nat := 1
  state : DevSt := .powerUp
  before : DevSt := .powerUp
  step : Step := .standby
  coldBoot : Bool := true
  memKept : Bool := false
  resets : Nat := 0
  marlUp : BitVec 2 := 0
  marlLost : BitVec 2 := 0
  takeover : Option Nat := none
  chainOut : BitVec 6 := 0
  dieFenced : BitVec 2 := 0
  dieCause : Tab Nat := []
  dfCause : Nat := 0
  pend : BitVec 5 := 0
  faultN : Bool := false
  thermTrip : Bool := false
  pwrok : Bool := false
  resetN : Bool := false
  pwrAt : Nat := 0
  lost : Bool := false
  vcoreOff : Bool := false
  assignq : List (CmdRef × Nat × Nat × Nat) := []
  freezeN : Bool := false
  refclkLost : Bool := false
  rateDirty : Nat := 0
  rateAt : Tab Nat := []
  coarse : Bool := true
  rateDc : Tab Nat := []
  strat : Option Strat := none
  staging : Option Stage_ := none
  mem : List Host.Cell := []
  clay : List Host.Cell := []
  clayWr : Tab Bool := []
  clayTag : Tab (Bool × Nat × Nat) := []
  clayRefs : Tab (List ClayRef) := []
  tcache : Tab (List (Nat × Bool × Nat)) := []
  flash : List Host.Cell := []
  win : Tab Gran := []
  descs : Tab Desc := []
  rgns : Tab Rgn := []
  ctxs : Tab Ctx := []
  slotq : List SlotWait := []
  waiters : List Bell := []
  msgs : List HeldMsg := []
  beds : Tab Bed := []
  reqs : List Req := []
  inflight : List Fetched := []
  turns : Tab (Nat × Nat) := []
  portRing : Tab Ring := []
  fmRing : Ring := {}
  evq : Tab EvQ := []
  evHold : List (Option Nat × Gran × Gran) := []
  cplHold : List (CmdRef × Nat × Nat × Nat × Gran × Bool) := []
  hosts : Tab (Option HostSess) := []
  fm : Option Fm := none
  challenge : Tab (Option Challenge) := []
  lockout : Tab (Option Nat) := []
  tensors : Tab Tensor := []
  serial : Nat := 0
  moves : List Move := []
  journals : Tab Journal := []
  sweeps : Tab Sweep := []
  heat : Tab Nat := []
  rr : Tab Nat := []
  plans : Tab Plan := []
  retired : Tab Bool := []
  poison : Tab (Option Poison) := []
  ports : Tab Port := []
  insts : Tab Inst := []
  setq : Tab SetQ := []
  doms : Tab Dom := []
  work : Tab Nat := []
  canaryAt : Tab Nat := []
  trim : List Byte := []
  stestAt : Tab Nat := []
  upd : Upd := {}
  freezes : Phase := .running
  req : Bool := false
  unlockAt : Option Nat := none
  nonce : List Byte := []
  logFull : BitVec 2 := 0
  out : List Out := []
  wire : List Sent := []
  deriving DecidableEq, Repr

/-- Power and emergency state (R383 to R385): everything the fused limits bear on. -/
structure Pwr where
  ctl : Word := 0x0000693200000320
  target : Tab Nat := []
  v : Tab Nat := []
  vMin : Tab Nat := []
  meas : Tab Nat := []
  causes : Tab (BitVec 4) := []
  gate : BitVec 2 := 0
  avg : Nat := 0
  peak : Nat := 0
  v48 : BitVec 16 := 0
  tj : Tab (BitVec 16) := []
  tjPeak : Tab (Option (BitVec 16)) := []
  hottest : Tab Nat := []
  changed : Tab Nat := []
  since : Tab Nat := []
  govAt : Tab (Option Nat) := []
  entries : Nat := 0
  deriving DecidableEq, Repr

/-- Fuses, boot and debug state (R348, R352, R354, R390, R407): flashBad are the flash partitions that a write has left invalid (R356: bits 0
and 1 the firmware slots, 2 the trim store, 4 to 7 the owner slots), stratRead says whether this boot can read the flash's stratum area (R40). -/
structure Sec where
  enrolled : BitVec 4 := 0
  revoked : BitVec 4 := 0
  digests : Tab (List Byte) := []
  keyOk : BitVec 4 := 0
  planLen : Tab Nat := []
  svnFuse : Nat := 0
  trimWritten : Bool := false
  unlocked : Bool := false
  used : Bool := false
  unlockResult : Nat := 0
  bootSel : BitVec 2 := 0
  stratRead : Bool := true
  bootFail : Nat := 0
  fallback : Bool := false
  slotB : Bool := false
  chainBad : Bool := false
  runSvn : Nat := 0
  runVersion : Word := 0
  runMeas : List Byte := []
  handoffOut : Nat := 0
  flashBad : BitVec 8 := 0
  stagedV : Bool := false
  trimAbsent : Bool := false
  trimSigner : Nat := 0
  deriving DecidableEq, Repr

/-- Board management and TAP state (R394, R395, R401), the level of TRST_N, and BOOT_SEL as its pins last stood (R419). TRST_N stands high
at reset: the integrator drives it so, or the TAP is never heard (DESIGN CHOICE, log 24). -/
structure Mgmt where
  dynAddr : Option (BitVec 7) := none
  ibi : Bool := false
  eid : Byte := 0
  tid : Byte := 0
  ir : Byte := 0x01
  boundary : Byte := 0
  mrsData : Word := 0
  mrsRefused : Bool := false
  flashStatus : Nat := 0
  flashData : Gran := 0
  trstN : Bool := true
  bootPin : BitVec 2 := 0
  deriving DecidableEq, Repr

/-- The state. pending is the queue of waiting commands, first in, first out. -/
structure State where
  pending : List Instr := []
  dev : Dev := {}
  pwr : Pwr := {}
  sec : Sec := {}
  mgmt : Mgmt := {}
  deriving DecidableEq, Repr

/-- Reasons to stop. The block has none: a command whose trigger does not hold changes nothing, and every other command has
an effect. -/
inductive Fault where
  /-- Raised by no meaning (the closed type must not be empty): safe. -/
  | none_
  deriving DecidableEq, Repr

/-- Refusals. -/
inductive Refusal where
  /-- A command that has no meaning yet; raised by the arm of that command in Dispatch.lean: safe. -/
  | notModelled (mnemonic : String)
  deriving DecidableEq, Repr

/-- The machine before standby power is applied: every register at its reset value, the flash erased, no stratum in force, no
command waiting (R409, R412). -/
def State.reset : State := {}

end Sys2Proof.Machine
end

