-- ==== Sys2Proof/Machine/Ops.lean ====
section
/-! DEFINITION. Operations shared by the meanings: bit fields, registers, local timers, free values, events, the error log. -/
namespace Sys2Proof.Machine

/-! ### Lifting -/

/-- A change of the device proper. -/
def State.onDev (f : Dev → Dev) (s : State) : State := { s with dev := f s.dev }

/-- A command that only changes the device proper. -/
def State.devStep (f : Dev → Dev) (s : State) : Host.Outcome State Fault Refusal := .next (s.onDev f)

/-! ### Bit fields -/

/-- len bits of n from bit lo. -/
def bits (n lo len : Nat) : Nat := n / 2 ^ lo % 2 ^ len

/-- Bit i of n. -/
def bitOf (n i : Nat) : Bool := n.testBit i

/-- A number as 0 or 1. -/
def b2n (b : Bool) : Nat := if b then 1 else 0

/-- The field's value in a word. -/
def Fld.get (f : Fld) (w : Word) : Nat := bits w.toNat f.lo (f.hi + 1 - f.lo)

/-- The field's mask. -/
def Fld.mask (f : Fld) : Word := BitVec.ofNat 64 ((2 ^ (f.hi + 1 - f.lo) - 1) * 2 ^ f.lo)

/-- The word with the field replaced, the value taken modulo the field's width. -/
def Fld.set (f : Fld) (w : Word) (n : Nat) : Word :=
  (w &&& ~~~ f.mask) ||| BitVec.ofNat 64 (n % 2 ^ (f.hi + 1 - f.lo) * 2 ^ f.lo)

/-- The largest value of a field. -/
def Fld.top (f : Fld) : Nat := 2 ^ (f.hi + 1 - f.lo) - 1

/-! ### Registers -/

/-- Register i of a row. -/
def Dev.rd (d : Dev) (r : RegRow) (i : Nat) : Word := d.regs.get (r.addr i) r.resetValue

/-- Replace register i of a row. -/
def Dev.wr (d : Dev) (r : RegRow) (i : Nat) (w : Word) : Dev :=
  { d with regs := d.regs.set (r.addr i) w r.resetValue }

/-- A field of a register. -/
def Dev.fld (d : Dev) (r : RegRow) (i : Nat) (f : Fld) : Nat := f.get (d.rd r i)

/-- Replace a field of a register. -/
def Dev.setFld (d : Dev) (r : RegRow) (i : Nat) (f : Fld) (n : Nat) : Dev := d.wr r i (f.set (d.rd r i) n)

/-- Add to a wrapping counter. -/
def Dev.wrapInc (d : Dev) (r : RegRow) (i : Nat) (f : Fld) (k : Nat := 1) : Dev :=
  d.setFld r i f (d.fld r i f + k)

/-- Add to a saturating counter. -/
def Dev.satInc (d : Dev) (r : RegRow) (i : Nat) (f : Fld) (k : Nat := 1) : Dev :=
  d.setFld r i f (min f.top (d.fld r i f + k))

/-! ### Free values -/

/-- A free value of a width, and the device that has used it up. -/
def Dev.fresh (d : Dev) (w : Nat) : BitVec w × Dev := (Config.free w d.free, { d with free := d.free + 1 })

/-! ### Domains and timers (R13 to R15, R20 to R22) -/

/-- Domain identifiers of R13. Instances 0 to 63 are HMC, 64 to 99 LMC. -/
def coreDom (c : Nat) : Nat := c
def clayDom (k : Nat) : Nat := 0xC0 + k
def instDom (i : Nat) : Nat := 0xD8 + i
def portDom (n : Nat) : Nat := 0x13C + n
def loessDom (j : Nat) : Nat := 0x14C + j
/-- Die common logic and the always-on domain of a die. The always-on domain reports 0x1FF; its two timers are kept at 0x200
and 0x201. -/
def commonDom (die : Nat) : Nat := 0x1F0 + die
def alwaysKey (die : Nat) : Nat := 0x200 + die

/-- The die of a domain (R13). -/
def dieOfDom (x : Nat) : Nat :=
  if x < 0xC0 then x / 96 else if x < 0xD8 then (x - 0xC0) / 12 else if x < 0x118 then (x - 0xD8) / 32
  else if x < 0x13C then (x - 0x118) / 18 else if x < 0x14C then (x - 0x13C) / 8
  else if x < 0x150 then (x - 0x14C) / 2 else x % 2

/-- The die of a controller instance, a port, a Loess engine, a bed's cluster (R10). -/
def dieOfInst (i : Nat) : Nat := if i < 64 then i / 32 else (i - 64) / 18
def dieOfPort (n : Nat) : Nat := n / 8
def dieOfLoess (j : Nat) : Nat := j / 2
def dieOfCluster (k : Nat) : Nat := k / 12

/-- The timer that governs a domain: its own, or the always-on timer of its die for cores and clay buffers (R20). -/
def timerKey (x : Nat) : Nat := if x < 0xD8 then alwaysKey (dieOfDom x) else x

/-- The value of the timer that governs domain x. -/
def Dev.now (d : Dev) (x : Nat) : Nat := d.timers.get (timerKey x) 0

/-- The tick count of "at most ns" and of "at least ns" (R21), with the coarse fused trim of R391 where coarse says so. -/
def atMostTicks (coarse : Bool) (ns : Nat) : Nat := (if coarse then 88 else 95) * ns / 400
def atLeastTicks (coarse : Bool) (ns : Nat) : Nat := ((if coarse then 112 else 105) * ns + 399) / 400
def Dev.most (d : Dev) (ns : Nat) : Nat := atMostTicks d.coarse ns
def Dev.least (d : Dev) (ns : Nat) : Nat := atLeastTicks d.coarse ns

/-- Have at least ns passed on the timer of x since tick t. -/
def Dev.atLeast (d : Dev) (x t ns : Nat) : Bool := t + d.least ns ≤ d.now x

/-- The timer of x without the ticks that passed while the device was frozen: bounds on activities that freeze halts count
these (R400). -/
def Dev.lived (d : Dev) (x : Nat) : Nat := d.now x - d.halted.get (timerKey x) 0

/-- The timer of x starts again from 0 (R410). -/
def Dev.timerZero (d : Dev) (x : Nat) : Dev :=
  { d with timers := d.timers.set (timerKey x) 0 0, halted := d.halted.set (timerKey x) 0 0 }

/-- Have at least ns passed, frozen intervals excluded. -/
def Dev.ran (d : Dev) (x t ns : Nat) : Bool := t + d.least ns ≤ d.lived x

/-- The containment state of a domain. -/
def Dev.dom (d : Dev) (x : Nat) : Dom := d.doms.get x {}

/-- Does domain x have power and answer: LIVE. -/
def Dev.live (d : Dev) (x : Nat) : Bool := (d.dom x).st == .live

/-! ### Stratum, descriptors, contexts -/

def Dev.set? (d : Dev) (s : Nat) : Option SSet := d.strat.bind fun g => g.sets[s]?
def Dev.setDie (d : Dev) (s : Nat) : Nat := (d.set? s).elim 0 (·.die)
def Dev.desc (d : Dev) (x : Nat) : Desc := d.descs.get x {}
def Dev.setDesc (d : Dev) (x : Nat) (e : Desc) : Dev := { d with descs := d.descs.set x e {} }
def Dev.updDesc (d : Dev) (x : Nat) (f : Desc → Desc) : Dev := d.setDesc x (f (d.desc x))
def Dev.rgn (d : Dev) (r : Nat) : Rgn := d.rgns.get r {}
def Dev.setRgn (d : Dev) (r : Nat) (g : Rgn) : Dev := { d with rgns := d.rgns.set r g {} }
def Dev.updRgn (d : Dev) (r : Nat) (f : Rgn → Rgn) : Dev := d.setRgn r (f (d.rgn r))
def Dev.ctx (d : Dev) (c : Nat) : Ctx := d.ctxs.get c {}
def Dev.setCtx (d : Dev) (c : Nat) (x : Ctx) : Dev := { d with ctxs := d.ctxs.set c x {} }
def Dev.updCtx (d : Dev) (c : Nat) (f : Ctx → Ctx) : Dev := d.setCtx c (f (d.ctx c))
def Dev.bed (d : Dev) (b : Nat) : Bed := d.beds.get b {}
def Dev.setBed (d : Dev) (b : Nat) (x : Bed) : Dev := { d with beds := d.beds.set b x {} }
def Dev.updBed (d : Dev) (b : Nat) (f : Bed → Bed) : Dev := d.setBed b (f (d.bed b))
def Dev.port (d : Dev) (p : Nat) : Port := d.ports.get p {}
def Dev.setPort (d : Dev) (p : Nat) (x : Port) : Dev := { d with ports := d.ports.set p x {} }
def Dev.updPort (d : Dev) (p : Nat) (f : Port → Port) : Dev := d.setPort p (f (d.port p))
def Dev.inst (d : Dev) (i : Nat) : Inst := d.insts.get i {}
def Dev.setInst (d : Dev) (i : Nat) (x : Inst) : Dev := { d with insts := d.insts.set i x {} }
def Dev.updInst (d : Dev) (i : Nat) (f : Inst → Inst) : Dev := d.setInst i (f (d.inst i))
def Dev.sq (d : Dev) (s : Nat) : SetQ := d.setq.get s {}
def Dev.updSq (d : Dev) (s : Nat) (f : SetQ → SetQ) : Dev := { d with setq := d.setq.set s (f (d.sq s)) {} }
def Dev.tensor (d : Dev) (t : Nat) : Tensor := d.tensors.get t {}
def Dev.updTensor (d : Dev) (t : Nat) (f : Tensor → Tensor) : Dev :=
  { d with tensors := d.tensors.set t (f (d.tensor t)) {} }
def Dev.plan (d : Dev) (p : Nat) : Plan := d.plans.get p {}
def Dev.updPlan (d : Dev) (p : Nat) (f : Plan → Plan) : Dev := { d with plans := d.plans.set p (f (d.plan p)) {} }
def Dev.updDom (d : Dev) (x : Nat) (f : Dom → Dom) : Dev := { d with doms := d.doms.set x (f (d.dom x)) {} }
def Dev.host (d : Dev) (p : Nat) : Option HostSess := d.hosts.get p none
def Dev.setHost (d : Dev) (p : Nat) (h : Option HostSess) : Dev := { d with hosts := d.hosts.set p h none }

/-- The handle of a context: BOOT, GEN, INDEX (R221). -/
def Ctx.handle (x : Ctx) (c : Nat) : Nat := x.boot * 2 ^ 28 + x.gen * 2 ^ 12 + c
def Dev.handle (d : Dev) (c : Nat) : Nat := (d.ctx c).handle c

/-- PORTMAP bits of a port (R34). -/
def Dev.portMap (d : Dev) (p : Nat) : Nat := (d.strat.bind fun g => g.ports[p]?).elim 0 (·.toNat)

/-- PORTMAP flags (R34). -/
def Dev.portEnabled (d : Dev) (p : Nat) : Bool := bitOf (d.portMap p) 0
def Dev.portHost (d : Dev) (p : Nat) : Bool := bitOf (d.portMap p) 1
def Dev.portFm (d : Dev) (p : Nat) : Bool := bitOf (d.portMap p) 2
def Dev.portWitness (d : Dev) (p : Nat) : Bool := bitOf (d.portMap p) 3

/-- Is the FM session on port p (R239). -/
def Dev.fmOn (d : Dev) (p : Nat) : Bool := d.fm.elim false (·.port == p)

/-! ### Port windows and messages (R332, R323) -/

/-- Granule index of byte offset o of port p's window (R332). -/
def winKey (p o : Nat) : Nat := p * 2048 + o / 32

def Dev.winGet (d : Dev) (p o : Nat) : Gran := d.win.get (winKey p o) 0
def Dev.winSet (d : Dev) (p o : Nat) (g : Gran) : Dev := { d with win := d.win.set (winKey p o) g 0 }

/-- A reply leaves the device. -/
def Dev.emit (d : Dev) (o : Out) : Dev := { d with out := d.out ++ [o] }

/-- Granules of a virtual channel that a transaction of n data granules takes (R317). -/
def vcGran (n : Nat) : Nat := n + max 1 ((n + 15) / 16)

/-- The messages of a transaction as they follow one another on its VC (R317): the header granule, at most 16 data granules, and the
further ones in CONT messages, whose header holds the tag and the count (R322). -/
def contStream (tag : Nat) : Nat → List Gran → List Gran
  | 0, _ => []
  | _, [] => []
  | k + 1, l => BitVec.ofNat 256 (0x0A + tag % 2 ^ 12 * 2 ^ 8 + min 16 l.length * 2 ^ 20) :: (l.take 16 ++ contStream tag k (l.drop 16))
def vcStream (hdr : Gran) (tag : Nat) (l : List Gran) : List Gran :=
  hdr :: (l.take 16 ++ contStream tag l.length (l.drop 16))

/-- The header granule of a MSG (R321, R323): TYPE, LENGTH, the class in the address field. -/
def msgHdr (cls n : Nat) : Gran := BitVec.ofNat 256 (0x07 + n % 2 ^ 12 * 2 ^ 20 + cls % 2 ^ 8 * 2 ^ 64)

/-- The granules of a transaction on virtual channel vc, in the order of the slots they take: every 17th is a header (R317). -/
def vcSlots (vc : Nat) (hdr : Gran) (tag : Nat) (l : List Gran) : List SlotGran :=
  let g := vcStream hdr tag l
  ((List.range g.length).zip g).map fun e => (vc, e.1 % 17 == 0, e.2)

/-- Does a port present data: ACTIVE, its PLL locked (R19). -/
def Port.presents (x : Port) : Bool := x.st == .active && !x.pllLost

/-- States whose leaving for DOWN or FAILED is a port reset (R311). -/
def PortSt.up (s : PortSt) : Bool := s == .active || s == .retrain || s == .hold

/-- RSP credits neither used nor reserved, and CTL credits not used. -/
def Port.rspFree (x : Port) : Nat := x.farRsp - (x.rspSent - x.rspFreed) - x.rspResv
def Port.ctlFree (x : Port) : Nat := x.farCtl - (x.ctlSent - x.ctlFreed)

/-! ### The transmitter of a port (R310, R314, R315) -/

/-- SLOTS of a flit header, from bit 0: VC and SOM of each slot, 0b11 for an empty one. -/
def slotBits (l : List SlotGran) : Nat :=
  ((List.range 8).map fun j => (l[j]?.elim 6 fun e => 2 * e.1 + b2n e.2.1) * 8 ^ j).sum

/-- A flit with its CRC, over flit bytes 4 to 319. -/
def flitSeal (hdr : Nat) (slots : List Code) : FlitBits :=
  let h : Gran := BitVec.ofNat 256 (hdr * 2 ^ 32)
  (BitVec.ofNat 256 (hdr * 2 ^ 32 + (crc32 ((granBytes h).drop 4 ++ slots.flatMap fun c => natBytes c.toNat 36)).toNat), slots)

/-- A flit of type ft that port x sends, with SEQ, NAK, RETRAIN_REQ, its slots, and the payload that a flit with empty slots carries;
its ACK and its totals of freed granules are the port's (R314). The port receives no RSP granule. -/
def Port.flit (x : Port) (ft : Nat) (seq : BitVec 12) (nak rreq : Bool) (l : List SlotGran) (pay : List Gran := []) : FlitBits :=
  let cs := (l.map (·.2.2) ++ pay).map loamEncode
  flitSeal (ft * 2 ^ 216 + seq.toNat * 2 ^ 204 + x.rxSeq.toNat * 2 ^ 192 + b2n nak * 2 ^ 191 + b2n rreq * 2 ^ 190 +
    x.reqFreed % 2 ^ 16 * 2 ^ 168 + x.ctlIn % 2 ^ 16 * 2 ^ 136 + slotBits l * 2 ^ 112) (cs ++ List.replicate (8 - cs.length) 0)

/-- Lanes of a width code. -/
def lanesOf (w : Nat) : Nat := if w = 3 then 8 else 4

/-- Two flits leave in the next codeword; before every 16,384th an alignment marker. A port that has no width yet trains on eight lanes
(DESIGN CHOICE, log 21). -/
def Dev.sendWord (d : Dev) (p : Nat) (a b : FlitBits) : Dev :=
  let x := d.port p
  let n := x.txWords
  let w := if x.width = 0 then 8 else lanesOf x.width
  let m : List Sent := if n % 16384 = 0 then [⟨p, n, [], markerShares w n⟩] else []
  ({ d with wire := d.wire ++ m ++ [(⟨p, n, [a, b], laneShares w (codeword n a b)⟩ : Sent)] }).updPort p fun x => { x with txWords := n + 1 }

/-- Flits leave in order, two to a codeword, the last with an IDLE flit where their number is odd. -/
def Dev.sendFlits (d : Dev) (p : Nat) : List FlitBits → Dev
  | [] => d
  | [a] => d.sendWord p a ((d.port p).flit 0 0 false false [])
  | a :: b :: t => (d.sendWord p a b).sendFlits p t

/-- An IDLE flit: it carries ACK and the totals, and NAK or RETRAIN_REQ where they are 1. -/
def Dev.sendIdle (d : Dev) (p : Nat) (nak rreq : Bool) : Dev := d.sendFlits p [(d.port p).flit 0 0 nak rreq []]

/-- DATA flits from what waits, up to 256 unacknowledged (R315); fuel bounds their number. -/
def Port.fill (x : Port) (now : Nat) : Nat → List FlitBits × Port
  | 0 => ([], x)
  | n + 1 =>
    if x.txq = [] || decide (256 ≤ x.unacked.length) then ([], x) else
    let l := x.txq.take 8
    let seq := x.txSeq + 1
    let f := x.flit 1 seq false false l
    let y := { x with txq := x.txq.drop 8, txSeq := seq, unacked := x.unacked ++ [(⟨seq, l⟩ : TxFlit)], ackAt := if x.unacked = [] then now else x.ackAt }
    let r := y.fill now n
    (f :: r.1, r.2)

/-- What waits leaves port p, while it presents data. -/
def Dev.txPump (d : Dev) (p : Nat) : Dev :=
  let x := d.port p
  if !x.presents then d else
  let r := x.fill (d.now (portDom p)) (x.txq.length / 8 + 1)
  (d.setPort p r.2).sendFlits p r.1

/-- Granules of a transaction join what waits. -/
def Port.queue (x : Port) (l : List SlotGran) : Port := { x with txq := x.txq ++ l }

/-- The MSGs that wait on port p go as CTL credits last (R318). fuel: their number. -/
def Dev.ctlTake (d : Dev) (p : Nat) : Nat → Dev
  | 0 => d
  | n + 1 =>
    let x := d.port p
    match x.ctlQ with
    | [] => d
    | (cls, g) :: t =>
      let k := vcGran g.length
      if x.presents && decide (k ≤ x.ctlFree) then
        ((d.emit (.msg p cls g)).updPort p fun x =>
          { x.queue (vcSlots 2 (msgHdr cls g.length) 0 g) with ctlQ := t, ctlSent := x.ctlSent + k }).ctlTake p n
      else d
def Dev.ctlSend (d : Dev) (p n : Nat) : Dev := (d.ctlTake p n).txPump p

/-- A MSG of a class on port p, on the CTL channel: it waits its turn for credits, and for the end of a RETRAIN (R313); a port that has
no link sends none. -/
def Dev.msg (d : Dev) (p cls : Nat) (g : List Gran) : Dev :=
  if (d.port p).st.up then
    (d.updPort p fun x => { x with ctlQ := x.ctlQ ++ [(cls, g)] }).ctlSend p ((d.port p).ctlQ.length + 1)
  else d

/-! ### Events (R345) -/

/-- Is the event queue of port p present: HOST = 1, or an FM session on the port (R332). -/
def Dev.evqPresent (d : Dev) (p : Nat) : Bool := d.portHost p || d.fmOn p

/-- Granule 0 of an event entry without FM and PHASE: DOMAIN, STAMP, CTX, CODE. The stamp is that of the ring engine's die
common timer (DEDUCED, log 16). -/
def evHead (dom stamp ctx code : Nat) : Nat := dom * 2 ^ 192 + stamp % 2 ^ 64 * 2 ^ 128 + ctx % 2 ^ 32 * 2 ^ 64 + code

/-- Write one entry at the tail of port p's event queue, and send it (R345). -/
def Dev.evPut (d : Dev) (p : Nat) (g0 : Nat) (g1 : Gran) : Dev :=
  let q := d.evq.get p {}
  let e : Gran := BitVec.ofNat 256 (g0 + b2n q.phase * 2 ^ 32)
  let o := 0x800 + 64 * q.tail
  let q' : EvQ := { q with tail := (q.tail + 1) % 256, used := q.used + 1, phase := if q.tail = 255 then !q.phase else q.phase }
  (((d.winSet p o e).winSet p (o + 32) g1).msg p 2 [e, g1]) |> fun d => { d with evq := d.evq.set p q' {} }

/-- Count a dropped event (HIF_PORT_CNT; there are 16 ports). -/
def Dev.evCount (d : Dev) (p : Nat) : Dev := d.satInc row_HIF_PORT_CNT (p % 16) f_HIF_PORT_CNT_EVT_DROPPED

/-- Drop an event of port p's queue: counted for EVENT_LOST. -/
def Dev.evDrop (d : Dev) (p : Nat) : Dev :=
  let q := d.evq.get p {}
  { d.evCount p with evq := d.evq.set p { q with dropped := q.dropped + 1 } {} }

/-- An event for port p's queue: dropped when absent or full; preceded by EVENT_LOST after drops, which is the FM's on a port
without a host (R345). -/
def Dev.evSend (d : Dev) (p : Nat) (g0 : Nat) (g1 : Gran) : Dev :=
  if !d.evqPresent p then d.evCount p else
  let q := d.evq.get p {}
  let d := if q.dropped ≠ 0 && q.used < 256 then
      ({ d with evq := d.evq.set p { q with dropped := 0 } {} }).evPut p
        (evHead (commonDom (dieOfPort p)) (d.now (commonDom (dieOfPort p))) 0 0x0E + b2n (!d.portHost p) * 2 ^ 16) (BitVec.ofNat 256 (q.dropped % 2 ^ 32))
    else d
  if (d.evq.get p {}).used < 256 then d.evPut p g0 g1 else d.evDrop p

/-- Deliver an event to a host's port (some p) or to the FM (none). -/
def Dev.evGo (d : Dev) (dst : Option Nat) (g0 : Nat) (g1 : Gran) : Dev :=
  match dst with
  | some p => d.evSend p g0 g1
  | none => match d.fm with
    | none => d.evCount 0
    | some f => d.evSend f.port (g0 + 2 ^ 16) g1

/-- The port whose queue an event goes to. -/
def Dev.evPort (d : Dev) (dst : Option Nat) : Nat :=
  match dst with
  | some p => p
  | none => d.fm.elim 0 (·.port)

/-- Raise an event: code, context handle, DATA. While the device is frozen, or firmware is paused for an
activation (R360), the event is held and written afterwards (DEDUCED from R398 and R399, log 16). -/
def Dev.event (d : Dev) (dst : Option Nat) (code ctx data : Nat) : Dev :=
  let dom := commonDom (dieOfPort (d.evPort dst))
  let g0 := evHead dom (d.now dom) ctx code
  let g1 : Gran := BitVec.ofNat 256 data
  if d.freezes == .running && !d.upd.paused then d.evGo dst g0 g1
  else { d with evHold := d.evHold ++ [(dst, BitVec.ofNat 256 g0, g1)] }

/-- Write the events that a freeze or a pause has held. -/
def Dev.evFlush (d : Dev) : Dev :=
  if d.upd.paused then d else d.evHold.foldl (fun d e => d.evGo e.1 e.2.1.toNat e.2.2) { d with evHold := [] }

/-! ### The error log (R292, R293) -/

/-- An error log entry as a number. -/
def logEntry (stamp code outcome dom detail : Nat) : Nat :=
  stamp % 2 ^ 64 + detail % 2 ^ 45 * 2 ^ 64 + dom % 2 ^ 9 * 2 ^ 109 + outcome * 2 ^ 118 + code % 2 ^ 8 * 2 ^ 120

/-- Write entry e at the head of die die's log; LOG_WRAPS counts each overwrite of the whole ring. -/
def Dev.logPut (d : Dev) (die e : Nat) : Dev :=
  let h := d.fld row_LOAM_STATUS die f_LOAM_STATUS_LOG_HEAD
  let d := d.wr row_LOAM_LOG_A (256 * die + h) (BitVec.ofNat 64 e)
  let d := d.wr row_LOAM_LOG_B (256 * die + h) (BitVec.ofNat 64 (e / 2 ^ 64))
  let full := bitOf d.logFull.toNat die
  let d := if h = 255 && full then d.wrapInc row_LOAM_STATUS die f_LOAM_STATUS_LOG_WRAPS else d
  let d := if h = 255 then { d with logFull := d.logFull ||| BitVec.ofNat 2 (2 ^ die) } else d
  d.setFld row_LOAM_STATUS die f_LOAM_STATUS_LOG_HEAD (h + 1)

/-- The identifier of a domain key: the always-on domain is 0x1FF (R15). -/
def domId (x : Nat) : Nat := if x ≥ 0x200 then 0x1FF else x

/-- The identifier of the domain whose timer stamps what domain x detects (R22): a core or a clay buffer has no timer, its time is
that of the always-on domain of its die (R20). -/
def stampDom (x : Nat) : Nat := domId (timerKey x)

/-- Log an event of R292 detected by domain x; a lasting one raises LOAM_LASTING with the entry (R291). -/
def Dev.log (d : Dev) (x code : Nat) (lasting : Bool) (detail : Nat) : Dev :=
  let e := logEntry (d.now x) code (if lasting then 2 else 1) (stampDom x) detail
  let d := d.logPut (dieOfDom x) e
  if lasting then d.event none 0x0A 0 e else d

/-! ### FAULT_N (R368) -/

/-- Has the device failed: it stays so while it is frozen (R376). -/
def Dev.failed (d : Dev) : Bool := d.state == .failed || (d.state == .frozen && d.before == .failed)

/-- The conditions that hold FAULT_N asserted. -/
def Dev.faultCond (d : Dev) : Bool :=
  d.pend ≠ 0 || d.dieFenced ≠ 0 || d.failed || d.fld row_SAF_CTL 0 f_SAF_CTL_FAULT_TEST == 1

/-- Assert or release FAULT_N; a release raises FAULT_CLEARED (R368). -/
def Dev.faultPin (d : Dev) : Dev :=
  if d.faultCond then { d with faultN := true }
  else if d.faultN then ({ d with faultN := false }).event none 0x19 0 0 else d

/-- A safety event with its pending bit of SAF_STATUS (bit 4 + k), and FAULT_N (R378, R380). -/
def Dev.safety (d : Dev) (k code data : Nat) : Dev :=
  ({ d with pend := d.pend ||| BitVec.ofNat 5 (2 ^ k) }.event none code 0 data).faultPin

/-- INTEGRITY_FAULT (R378). -/
def Dev.integrityFault (d : Dev) (code detail : Nat) : Dev :=
  (d.satInc row_SAF_CNT 0 f_SAF_CNT_INTEGRITY).safety 1 0x13 (code + detail % 2 ^ 45 * 2 ^ 8)

/-- A free tuple step: apply f for each element. -/
def Dev.each {α : Type} (d : Dev) (l : List α) (f : Dev → α → Dev) : Dev := l.foldl f d

/-! ### Masters, charges and ceilings (R35, R258, R259)

Masters are numbered as R35 numbers them: ports 0 to 15, beds 16 to 23, Loess engines 24 to 27, SCRUB 28, MARL 29. -/
def bedMaster (b : Nat) : Nat := 16 + b
def loessMaster (j : Nat) : Nat := 24 + j
def scrubMaster : Nat := 28
def marlMaster : Nat := 29

/-- Granules outstanding of master m on set s. -/
def Dev.outOf (d : Dev) (m s : Nat) : Nat := (d.sq s).out.get m 0
def Dev.charge (d : Dev) (m : Nat) (l : List (Nat × Nat)) : Dev :=
  d.each l fun d c => d.updSq c.1 fun q => { q with out := q.out.upd m 0 (· + c.2) }
def Dev.discharge (d : Dev) (m : Nat) (l : List (Nat × Nat)) : Dev :=
  d.each l fun d c => d.updSq c.1 fun q => { q with out := q.out.upd m 0 (· - c.2) }

/-- Add a charge on a set. -/
def addCharge (l : List (Nat × Nat)) (s n : Nat) : List (Nat × Nat) :=
  if n = 0 then l else if l.any fun c => c.1 == s then l.map fun c => if c.1 == s then (s, c.2 + n) else c else l ++ [(s, n)]

/-- Ceiling of a master on a set. -/
def Dev.ceiling (d : Dev) (s i : Nat) : Nat := (d.sq s).ceil.get i 0

/-- May master m issue a transaction with these charges (R259). -/
def Dev.ceilOk (d : Dev) (m : Nat) (l : List (Nat × Nat)) : Bool :=
  l.all fun c => d.outOf m c.1 = 0 || decide (d.outOf m c.1 + c.2 ≤ d.ceiling c.1 m)

end Sys2Proof.Machine
end

