-- ==== Sys2Proof/Machine/Loam.lean ====
section
/-! DEFINITION. The memory behind the interleave sets, the channel mapping (R271 to R273) and
the counting of correctable errors (R294, R295). -/
namespace Sys2Proof.Machine

/-! ### Memory: 32 data bytes and 4 check bytes per granule -/

/-- The number of granule ga of set s. -/
def granKey (s ga : Nat) : Nat := s * 2 ^ 44 + ga

/-- Stored bytes n, n-1, …, 1 below address a + n, joined with the lowest address in the low bits. -/
def cellsGet (m : List Host.Cell) (a : Nat) : Nat → Nat
  | 0 => 0
  | k + 1 => cellsGet m a k + (Tab.get m (a + k) 0).toNat * 2 ^ (8 * k)

/-- Store n bytes of v at a. -/
def cellsSet (m : List Host.Cell) (a v : Nat) : Nat → List Host.Cell
  | 0 => m
  | k + 1 => Tab.set (cellsSet m a v k) (a + k) (BitVec.ofNat 8 (v / 2 ^ (8 * k))) 0

/-- The stored granule at (set, granule address). -/
def Dev.memGet (d : Dev) (s ga : Nat) : Code := BitVec.ofNat 288 (cellsGet d.mem (granKey s ga * 64) 36)

/-- Store a granule with its check bits as given. -/
def Dev.memPut (d : Dev) (s ga : Nat) (c : Code) : Dev := { d with mem := cellsSet d.mem (granKey s ga * 64) c.toNat 36 }

/-- Store newly formed data: the check bits are computed (R288). -/
def Dev.memWrite (d : Dev) (s ga : Nat) (g : Gran) : Dev := d.memPut s ga (loamEncode g)

/-! ### Channel mapping (R271 to R273) -/

/-- A place in a memory channel: tier (true subsoil), channel, pseudo-channel or sub-channel, bank, row, column. -/
structure Place where
  sub : Bool
  ch : Nat
  pc : Nat
  bank : Nat
  row : Nat
  col : Nat
  deriving DecidableEq, Repr

/-- The controller instance that serves a channel (R10). -/
def instOfChan (sub : Bool) (ch : Nat) : Nat := if sub then 64 + ch / 4 else ch / 4

/-- The place of byte address a of a set with channels cs and grain G (R271), by R272 or R273. -/
def placeOf (S : SSet) (ga : Nat) : Place :=
  let a := ga * 32
  let G := 256 * 2 ^ S.grain
  let n := S.channels.length
  let c := a / G
  let b := c / n * G + a % G
  let ch := S.channels.getD (c % n) 0
  if S.sub then ⟨true, ch, bits b 8 1, bits b 12 4 ^^^ bits b 16 4, b / 2 ^ 16, bits b 9 3 * 8 + bits b 5 3⟩
  else ⟨false, ch, bits b 8 1, bits b 11 4 ^^^ bits b 15 4, bits b 15 16, bits b 9 2 * 8 + bits b 5 3⟩

/-- The place of a granule of set s. -/
def Dev.place (d : Dev) (s ga : Nat) : Option Place := (d.set? s).map fun S => placeOf S ga

/-- The instances of a set. -/
def SSet.insts (S : SSet) : List Nat := (S.channels.map (instOfChan S.sub)).dedup

/-- The set that holds an instance's channels. -/
def Dev.setOfInst (d : Dev) (i : Nat) : Option Nat :=
  d.strat.bind fun g => (List.range g.sets.length).find? fun s => (g.sets.getD s default_).insts.contains i
where
  /-- An empty set. -/
  default_ : SSet := ⟨[], false, 0, 0, false, 0, 0, 0, []⟩

/-! ### Correctable errors of memory (R294, R295) -/

/-- The register and field of a channel's CE counter. -/
def ceCounter (sub : Bool) (ch : Nat) : RegRow × Nat × Fld :=
  (if sub then row_LOAM_CE_CNT_L else row_LOAM_CE_CNT_H, ch / 4, ⟨16 * (ch % 4) + 15, 16 * (ch % 4), .rw1c, 0⟩)

/-- Count a CE of a channel, raising CE_RATE at a non-zero multiple of CE_THRESH (R295). -/
def Dev.ceCount (d : Dev) (sub : Bool) (ch : Nat) : Dev :=
  let (r, i, f) := ceCounter sub ch
  let n := d.fld r i f
  let t := d.fld row_LOAM_CTL 0 f_LOAM_CTL_CE_THRESH
  let d := d.satInc r i f
  if n < f.top && t ≠ 0 && (n + 1) % t = 0 then
    d.event none 0x09 0 (ch + b2n sub * 2 ^ 9 + (n + 1) * 2 ^ 16) else d

/-- The location bits of a CE table entry. -/
def ceKey (p : Place) : Nat :=
  p.col % 64 * 2 ^ 6 + p.row % 2 ^ 19 * 2 ^ 12 + p.bank * 2 ^ 31 + p.pc * 2 ^ 35 + p.ch * 2 ^ 36 + b2n p.sub * 2 ^ 62

/-- Do the location bits of an entry name place p. -/
def ceMatch (w : Word) (p : Place) : Bool :=
  bitOf w.toNat 63 && decide (w.toNat % 2 ^ 45 = ceKey p % 2 ^ 45) && (bitOf w.toNat 62 == p.sub)

/-- Enter a CE in the CE table of the channel's die (R294). -/
def Dev.ceTable (d : Dev) (p : Place) (src sym : Nat) : Dev :=
  let inst := instOfChan p.sub p.ch
  let die := dieOfInst inst
  let ix := (List.range 64).map (64 * die + ·)
  let fresh := fun (n : Nat) => BitVec.ofNat 64 (2 ^ 63 + src * 2 ^ 59 + n * 2 ^ 51 + sym * 2 ^ 45 + ceKey p)
  match ix.find? fun i => ceMatch (d.rd row_LOAM_CE_A i) p with
  | some i =>
    let w := d.rd row_LOAM_CE_A i
    d.wr row_LOAM_CE_A i (f_LOAM_CE_A_COUNT.set (f_LOAM_CE_A_SYMBOL.set w sym) (min 255 (f_LOAM_CE_A_COUNT.get w + 1)))
  | none => match ix.find? fun i => !bitOf (d.rd row_LOAM_CE_A i).toNat 63 with
    | some i => (d.wr row_LOAM_CE_A i (fresh 1)).wr row_LOAM_CE_B i (BitVec.ofNat 64 (d.now (instDom inst)))
    | none => d.setFld row_LOAM_STATUS die f_LOAM_STATUS_CE_OVF 1

/-- A CE on a memory read of set s (R294). -/
def Dev.memCe (d : Dev) (s ga src sym : Nat) : Dev :=
  match d.place s ga with
  | none => d
  | some p => (d.ceCount p.sub p.ch).ceTable p src sym

end Sys2Proof.Machine
end

