-- ==== Sys2Proof/Machine/Alloc.lean ====
section
/-! DEFINITION. Groups, capacities, the metadata reserve, allocation of slots and slab runs, subsoil pressure and the free
journal (R30, R51, R64, R70, R72, R80, R423, R426). -/
namespace Sys2Proof.Machine

/-! ### Capacities and groups -/

/-- Slots of a topsoil set, usable extents of a subsoil set (R423). -/
def SSet.slots (S : SSet) : Nat := S.channels.length * 32768
def SSet.extents (S : SSet) : Nat := S.channels.length * 33554432 / 72
/-- Slabs of a subsoil set. -/
def SSet.slabs (S : SSet) : Nat := 16 * S.extents

/-- The group of a set: 2 × partition + die (R92). -/
def SSet.group (S : SSet) : Nat := 2 * S.part + S.die

/-- The sets of a stratum with their numbers. -/
def Strat.numbered (g : Strat) : List (Nat × SSet) := (List.range g.sets.length).zip g.sets

/-- The topsoil or subsoil sets of a group, ascending. -/
def Strat.groupSets (g : Strat) (grp : Nat) (sub : Bool) : List (Nat × SSet) :=
  g.numbered.filter fun s => s.2.group == grp && s.2.sub == sub

/-- The metadata set of a group: its lowest-numbered topsoil set (R30). -/
def Strat.metaSet (g : Strat) (grp : Nat) : Option Nat := (g.groupSets grp false).head?.map (·.1)

/-- E_g of a group (R51): the overcommitted extents of its subsoil sets together, rounded down (DESIGN CHOICE, log 42: the spec
gives no rounding). -/
def Strat.eg (g : Strat) (grp : Nat) : Nat :=
  ((g.groupSets grp false).map fun s => s.2.slots).sum + ((g.groupSets grp true).map fun s => s.2.extents).sum * g.overcommit / 16

/-- E_total (R51). -/
def Strat.eTotal (g : Strat) : Nat := ((List.range 16).map g.eg).sum

/-- The first identifier of a group's range (R51). -/
def Strat.base (g : Strat) (grp : Nat) : Nat := ((List.range grp).map g.eg).sum

/-- The group that owns identifier x (R51). -/
def Strat.groupOf (g : Strat) (x : Nat) : Option Nat :=
  (List.range 16).find? fun grp => decide (g.base grp ≤ x ∧ x < g.base grp + g.eg grp)

/-- Bytes of the reserve of a group (R72). -/
def Strat.sg (g : Strat) (grp : Nat) : Nat :=
  64 * g.eg grp + 2 ^ 20 * ((1024 * g.eg grp + g.eTotal - 1) / g.eTotal)

/-- Slots of the metadata set that the reserve occupies: the lowest (log 13). -/
def Strat.reserveSlots (g : Strat) (grp : Nat) : Nat := (g.sg grp + 65535) / 65536

/-- Capacity of a group's free journal in records (R80). -/
def Strat.journalCap (g : Strat) (grp : Nat) : Nat := 2 ^ 26 * g.eg grp / g.eTotal / 32

/-- The group of an extent in the stratum in force. -/
def Dev.groupOf (d : Dev) (x : Nat) : Option Nat := d.strat.bind fun g => g.groupOf x

/-- Is set s fenced, or not in the stratum. -/
def Dev.setFenced (d : Dev) (s : Nat) : Bool := (d.sq s).fenced

/-- Is the metadata set of a group fenced (R424). -/
def Dev.metaFenced (d : Dev) (grp : Nat) : Bool :=
  match d.strat.bind fun g => g.metaSet grp with
  | none => false
  | some s => d.setFenced s

/-- The metadata set that holds a partition's region table and control areas: that of its lowest group (log 13). -/
def Dev.partMeta (d : Dev) (p : Nat) : Option Nat :=
  d.strat.bind fun g => match g.metaSet (2 * p) with
    | some s => some s
    | none => g.metaSet (2 * p + 1)

def Dev.partMetaFenced (d : Dev) (p : Nat) : Bool := (d.partMeta p).elim false d.setFenced

/-! ### Occupied intervals -/

/-- Key of a retired slot or slab. -/
def retKey (sub : Bool) (s i : Nat) : Nat := (b2n sub * 32 + s) * 2 ^ 32 + i

/-- The interval a home occupies in (tier, set). -/
def Home.occ (h : Home) (sub : Bool) (s : Nat) : List (Nat × Nat) :=
  if h.sub == sub && h.set == s then (if sub then (if h.slabs = 0 then [] else [(h.loc, h.slabs)]) else [(h.loc, 1)]) else []

/-- The home of a descriptor. -/
def Desc.home (e : Desc) : Home := ⟨e.sub, e.set, e.loc, e.slabs⟩

/-- The slabs that a descriptor's home and mirror need: the packed size of its blocks (R63). -/
def lenG (c : Nat) : Nat := if c = 63 then 64 else c
def Desc.lenOf (e : Desc) (k : Nat) : Nat := bits e.len.toNat (6 * k) 6
def Desc.genOf (e : Desc) (k : Nat) : Bool := bitOf e.gen.toNat k
def Desc.setLen (e : Desc) (k c : Nat) (gen : Bool) : Desc :=
  { e with
    len := BitVec.ofNat 192 (e.len.toNat - e.lenOf k * 2 ^ (6 * k) + c % 64 * 2 ^ (6 * k)),
    gen := BitVec.ofNat 32 (e.gen.toNat - b2n (e.genOf k) * 2 ^ k + b2n gen * 2 ^ k) }
/-- O_k (R63). -/
def Desc.off (e : Desc) (k : Nat) : Nat := ((List.range k).map fun j => lenG (e.lenOf j)).sum
/-- U (R63). -/
def Desc.used (e : Desc) : Nat := e.off 32

/-- Slabs of a mirror: those of a subsoil home of the same blocks; while the extent is reloaded, of the blocks it had (R91). -/
def Desc.mirrorSlabs (e : Desc) : Nat := if e.reload then e.mirrorRun else max e.slabs ((e.used + 127) / 128)

/-- Everything taken in (tier, set): the reserve, homes, mirrors, homes of moves, window slots, retired units. -/
def Dev.occupied (d : Dev) (sub : Bool) (s : Nat) : List (Nat × Nat) :=
  let res := match d.strat, d.set? s with
    | some g, some S => if !sub && g.metaSet S.group == some s then [(0, g.reserveSlots S.group)] else []
    | _, _ => []
  let homes := d.descs.flatMap fun e => if e.2.st == .free then [] else
    e.2.home.occ sub s ++ (match e.2.mirror with
      | some (ms, slab) => if sub && ms == s then [(slab, e.2.mirrorSlabs)] else []
      | none => [])
  let mvs := d.moves.flatMap fun m => if m.step = 0 then [] else m.src.occ sub s ++ m.dst.occ sub s
  let wins := d.plans.flatMap fun p => if !sub then (p.2.slots.filter fun w => w.set == s).map fun w => (w.loc, 1) else []
  let rets := d.retired.flatMap fun r => if r.1 / 2 ^ 32 == b2n sub * 32 + s then [(r.1 % 2 ^ 32, 1)] else []
  res ++ homes ++ mvs ++ wins ++ rets

/-- Insert an interval by its start. -/
def insIv (v : Nat × Nat) : List (Nat × Nat) → List (Nat × Nat)
  | [] => [v]
  | w :: t => if v.1 ≤ w.1 then v :: w :: t else w :: insIv v t

/-- Sorted by start. -/
def sortIv (l : List (Nat × Nat)) : List (Nat × Nat) := l.foldr insIv []

/-- The free runs between sorted intervals, from position c to n. -/
def gapsFrom (c n : Nat) : List (Nat × Nat) → List (Nat × Nat)
  | [] => if c < n then [(c, n - c)] else []
  | v :: t => if c < v.1 ∧ c < n then (c, min v.1 n - c) :: gapsFrom (max c (v.1 + v.2)) n t
              else gapsFrom (max c (v.1 + v.2)) n t

/-- Free runs of (tier, set), ascending: (start, length). -/
def Dev.gaps (d : Dev) (s : Nat) : List (Nat × Nat) :=
  match d.set? s with
  | none => []
  | some S => gapsFrom 0 (if S.sub then S.slabs else S.slots) (sortIv (d.occupied S.sub s))

/-- Free units of a set. -/
def Dev.freeUnits (d : Dev) (s : Nat) : Nat := ((d.gaps s).map (·.2)).sum

/-- Free frames of a subsoil set (R70). -/
def Dev.freeFrames (d : Dev) (s : Nat) : Nat := ((d.gaps s).map fun g => g.2 / 16).sum

/-- The smallest free run of at least n units, the lowest among equals (R64). -/
def Dev.smallestRun (d : Dev) (s n : Nat) : Option Nat :=
  ((d.gaps s).foldl (fun b g => if g.2 < n then b else match b with
    | none => some g
    | some h => if g.2 < h.2 then some g else some h) none).map (·.1)

/-- A subsoil run of n slabs: nothing is needed for n = 0. -/
def Dev.allocSub (d : Dev) (s n : Nat) : Option Home :=
  if n = 0 then some ⟨true, s, 0, 0⟩ else (d.smallestRun s n).map fun a => ⟨true, s, a, n⟩

/-- The lowest free slot of a topsoil set (R426). -/
def Dev.allocTop (d : Dev) (s : Nat) : Option Home := (d.gaps s).head?.map fun g => ⟨false, s, g.1, 0⟩

/-- The lowest free slot of the lowest-numbered topsoil set of a group (R426). -/
def Dev.allocTopGroup (d : Dev) (grp : Nat) : Option Home :=
  ((d.strat.elim [] fun g => g.groupSets grp false).findSome? fun s => d.allocTop s.1)

/-- The subsoil set of a group with the most free frames among those p admits, the lowest among equals (R426). -/
def Dev.bestSub (d : Dev) (grp : Nat) (p : Nat → Bool) : Option Nat :=
  (((d.strat.elim [] fun g => g.groupSets grp true).filter fun s => p s.1).foldl (fun b s =>
    let f := d.freeFrames s.1
    match b with
    | none => some (s.1, f)
    | some h => if h.2 < f then some (s.1, f) else some h) none).map (·.1)

/-- Overcommit above 16. -/
def Dev.packed (d : Dev) : Bool := d.strat.elim false fun g => 16 < g.overcommit

/-- Slabs a subsoil home of blocks of U granules needs (R64). -/
def Dev.slabsFor (d : Dev) (u : Nat) : Nat := if d.packed then (u + 127) / 128 else 16

/-- The home of an extent that enters a region (R426). -/
def Dev.entryHome (d : Dev) (grp : Nat) (subOnly : Bool) : Option Home :=
  let top := if subOnly then none else d.allocTopGroup grp
  match top with
  | some h => some h
  | none =>
    let s := match d.bestSub grp fun s => !(d.sq s).pressure with
      | some s => some s
      | none => d.bestSub grp fun _ => true
    s.bind fun s => d.allocSub s (d.slabsFor 0)

/-- The subsoil home of a demotion (R84, R426): none when every set is under pressure or no run is free. -/
def Dev.demoteHome (d : Dev) (grp u : Nat) : Option Home :=
  (d.bestSub grp fun s => !(d.sq s).pressure).bind fun s => d.allocSub s (d.slabsFor u)

/-- Pool size and free slots of a group: its topsoil slots less the reserve and window slots (R84, R92). -/
def Dev.windowSlots (d : Dev) (s : Nat) : Nat := (d.plans.map fun p => (p.2.slots.filter fun w => w.set == s).length).sum
def Dev.poolSize (d : Dev) (grp : Nat) : Nat :=
  match d.strat with
  | none => 0
  | some g => ((g.groupSets grp false).map fun s => s.2.slots - d.windowSlots s.1).sum - g.reserveSlots grp
def Dev.poolFree (d : Dev) (grp : Nat) : Nat :=
  ((d.strat.elim [] fun g => g.groupSets grp false).map fun s => d.freeUnits s.1).sum

/-- Raise SUBSOIL_PRESSURE or SUBSOIL_RELIEF for a set where its free frames have crossed a limit (R70); demotion of its group that
has stalled resumes at a relief (R84). -/
def Dev.pressureCheck (d : Dev) (s : Nat) : Dev :=
  match d.set? s with
  | none => d
  | some S =>
    if !S.sub then d else
    let f := d.freeFrames s
    let q := d.sq s
    let data := s + d.freeUnits s % 2 ^ 32 * 2 ^ 32
    if !q.pressure && decide (f * 1024 < S.slabs) then
      (d.updSq s fun q => { q with pressure := true }).event none 0x04 0 data
    else if q.pressure && decide (S.slabs < f * 512) then
      let sw : Sweep := d.sweeps.get S.group {}
      let d : Dev := { d with sweeps := d.sweeps.set S.group { sw with stalled := 0 } {} }
      (d.updSq s fun q => { q with pressure := false }).event none 0x05 0 data
    else d

/-- Check every set. -/
def Dev.pressureAll (d : Dev) : Dev := d.each (List.range (d.strat.elim 0 (·.sets.length))) Dev.pressureCheck

/-! ### The free journal (R80) -/

def Dev.journal (d : Dev) (grp : Nat) : Journal := d.journals.get grp {}

/-- NEAR_FULL from 7/8 of the capacity until below 3/4. -/
def nearFull (cap n : Nat) (near : Bool) : Bool := if 7 * cap ≤ 8 * n then true else if 4 * n < 3 * cap then false else near

/-- Append a record; a RETIRE record settles the records it names and is not kept. -/
def Dev.jAppend (d : Dev) (grp : Nat) (r : JRec) : Dev :=
  let j := d.journal grp
  let recs := j.recs ++ [{ r with seq := j.seq }]
  let cap := d.strat.elim 0 fun g => g.journalCap grp
  { d with journals := d.journals.set grp { recs := recs, seq := j.seq + 1, near := nearFull cap recs.length j.near } {} }

/-- Settle the records of an extent with a RETIRE record each (R80). -/
def Dev.jRetire (d : Dev) (grp x : Nat) : Dev :=
  let j := d.journal grp
  let recs := j.recs.filter fun r => r.ext ≠ x
  let cap := d.strat.elim 0 fun g => g.journalCap grp
  let j' : Journal := ⟨recs, j.seq + BitVec.ofNat 32 (j.recs.length - recs.length), nearFull cap recs.length j.near⟩
  { d with journals := d.journals.set grp j' {} }

/-- Replay of a group's journal at a warm reset that keeps memory (R80): a descriptor that an INTENT left MOVING is STABLE
again, and every record is settled. Homes are free by no descriptor naming them. -/
def Dev.jReplay (d : Dev) (grp : Nat) : Dev :=
  let j := d.journal grp
  let d := d.each j.recs fun d r =>
    let e := d.desc r.ext
    if r.kind = 1 && !(e.sub == r.dst.sub && e.set == r.dst.set && e.loc == r.dst.loc) && e.st == .moving then
      d.updDesc r.ext fun e => { e with st := .stable } else d
  { d with journals := d.journals.set grp { recs := [], seq := j.seq + BitVec.ofNat 32 j.recs.length, near := false } {} }

/-! ### Descriptors as granules (R56) -/

def DState.code : DState → Nat
  | .free => 0
  | .stable => 1
  | .moving => 2

/-- Granule g (0 or 1) of a descriptor. -/
def Desc.gran (e : Desc) (g : Nat) : Gran :=
  if g = 1 then BitVec.ofNat 256 (e.len.toNat + e.gen.toNat * 2 ^ 192) else
  BitVec.ofNat 256 (e.st.code + b2n e.ro * 2 ^ 2 + b2n e.pin * 2 ^ 3 + b2n e.touched * 2 ^ 4 + b2n e.codec * 2 ^ 5 +
    b2n e.poisoned * 2 ^ 6 + e.age % 256 * 2 ^ 8 + e.tensor % 2 ^ 11 * 2 ^ 16 + b2n e.sub * 2 ^ 32 + e.set % 32 * 2 ^ 33 +
    e.loc % 2 ^ 29 * 2 ^ 40 + e.slabs % 32 * 2 ^ 72 + b2n e.mirror.isSome * 2 ^ 80 + e.mirror.elim 0 (·.1) % 32 * 2 ^ 81 +
    e.mirror.elim 0 (·.2) % 2 ^ 29 * 2 ^ 88 + e.region % 2 ^ 14 * 2 ^ 128)

/-! ### Metadata as granules (R72, R80) -/

/-- A journal record (R80). -/
def JRec.gran (r : JRec) : Gran :=
  let home := fun (h : Home) => b2n h.sub + h.set % 32 * 2 ^ 1 + h.loc % 2 ^ 29 * 2 ^ 6 + h.slabs % 32 * 2 ^ 35
  BitVec.ofNat 256 (r.kind + r.ext % 2 ^ 28 * 2 ^ 8 + home r.src * 2 ^ 36 + home r.dst * 2 ^ 76 + r.seq.toNat * 2 ^ 128 +
    r.engine % 16 * 2 ^ 160)

/-! ### Moves (R77, R79) -/

/-- The move of an extent that has begun. -/
def Dev.moveOf (d : Dev) (x : Nat) : Option Move := d.moves.find? fun m => m.ext == x && m.step ≠ 0

/-- Replace the begun move of an extent. -/
def Dev.updMove (d : Dev) (x : Nat) (f : Move → Move) : Dev :=
  { d with moves := d.moves.map fun m => if m.ext == x && m.step ≠ 0 then f m else m }

/-- Remove the begun move of an extent. -/
def Dev.dropMove (d : Dev) (x : Nat) : Dev := { d with moves := d.moves.filter fun m => !(m.ext == x && m.step ≠ 0) }

/-- Abandon the move of an extent (R79): STABLE at the source, the destination freed, ABANDONED counted. A move whose commit
is written is not abandoned. -/
def Dev.abandon (d : Dev) (x : Nat) : Dev :=
  match d.moveOf x with
  | none => d
  | some m =>
    if 5 ≤ m.step then d else
    let d := (d.updDesc x fun e => { e with st := .stable }).dropMove x
    let d := match m.engine with
      | some j => (d.satInc row_LSS_MOVE_CNT j f_LSS_MOVE_CNT_ABANDONED).discharge (loessMaster j) m.charge
      | none => d
    (d.jRetire m.journal x).pressureAll

end Sys2Proof.Machine
end

