-- ==== Sys2Proof/Machine/Rings.lean ====
section
/-! DEFINITION. Completion queues (R334, R335, R339), table-slot counters (R118). -/
namespace Sys2Proof.Machine

/-! ### Rings -/

/-- The ring of a queue. Port queues have 16 entries, the FM ring 256 (R332). -/
def Dev.ring (d : Dev) : Queue → Ring
  | .port n => d.portRing.get n.val { sqLog := 4, cqLog := 4 }
  | .ctx c => (d.ctx c.val).ring
  | .fm => { d.fmRing with sqLog := 8, cqLog := 8 }

def Dev.setRing (d : Dev) (q : Queue) (r : Ring) : Dev :=
  match q with
  | .port n => { d with portRing := d.portRing.set n.val r { sqLog := 4, cqLog := 4 } }
  | .ctx c => d.updCtx c.val fun x => { x with ring := r }
  | .fm => { d with fmRing := r }

/-- The port a queue belongs to. -/
def Dev.queuePort (d : Dev) : Queue → Nat
  | .port n => n.val
  | .ctx c => (d.ctx c.val).port
  | .fm => d.fm.elim 0 (·.port)

/-- Granule 0 of a completion entry (R334), without PHASE and SQ_HEAD. kind 0 is a command completion, 1 a POST entry. -/
def cplHead (cid status ctx r0 r1 kind : Nat) (final : Bool) : Nat :=
  r1 % 2 ^ 64 * 2 ^ 192 + r0 % 2 ^ 64 * 2 ^ 128 + ctx % 2 ^ 32 * 2 ^ 64 + b2n final * 2 ^ 36 + kind * 2 ^ 34 +
    status % 2 ^ 16 * 2 ^ 16 + cid % 2 ^ 16

/-- The NOTIFY payload (R339). -/
def notifyGran (fm phase : Bool) (tail ctx : Nat) : Gran :=
  BitVec.ofNat 256 (b2n fm * 2 ^ 47 + b2n phase * 2 ^ 46 + tail % 2 ^ 12 * 2 ^ 32 + ctx % 2 ^ 32)

/-- PHASE and SQ_HEAD put into an entry at the time it is written. -/
def Ring.stamp (r : Ring) (g0 : Gran) : Gran :=
  BitVec.ofNat 256 (g0.toNat + b2n r.phase * 2 ^ 32 + r.sqHead % 2 ^ 12 * 2 ^ 52)

/-- The completion tail moved by one entry. -/
def Ring.bump (r : Ring) : Ring :=
  let n := 2 ^ r.cqLog
  { r with cqTail := (r.cqTail + 1) % n, cqUsed := r.cqUsed + 1, phase := if r.cqTail + 1 = n then !r.phase else r.phase }

/-- Has the ring room for another completion. -/
def Ring.room (r : Ring) : Bool := r.cqUsed < 2 ^ r.cqLog

/-- Write a completion of a port queue or the FM ring into its window, and notify (R332, R339). -/
def Dev.cqWinPut (d : Dev) (q : Queue) (e : Gran × Gran) : Dev :=
  let p := d.queuePort q
  let r := d.ring q
  let fm := match q with | .fm => true | _ => false
  let o := (if fm then 0xC000 else 0x400) + 64 * r.cqTail
  let d := (d.winSet p o (r.stamp e.1)).winSet p (o + 32) e.2
  let d := d.setRing q r.bump
  d.msg p 1 [notifyGran fm r.phase r.bump.cqTail 0]

/-- Add a completion to the waiting ones of its ring, in the order in which completions become ready (R335). -/
def Dev.cqWait (d : Dev) (q : Queue) (e : Gran × Gran) (notify : Bool) : Dev :=
  let r := d.ring q
  d.setRing q { r with waiting := r.waiting ++ [(e.1, e.2, notify)] }

/-- Write waiting completions of a port queue or the FM ring while there is room. -/
def Dev.cqWinFlush (d : Dev) (q : Queue) : Dev :=
  let r := d.ring q
  r.waiting.foldl (fun d e => if (d.ring q).room then
      let d := d.setRing q { d.ring q with waiting := (d.ring q).waiting.drop 1 }
      d.cqWinPut q (e.1, e.2.1)
    else d) d

/-- The completion of a command is written or becomes ready: port queues and the FM ring are written at once where they have room; a context ring's entry
waits until the ring engine writes it through the context's bindings (Access.lean). With no FM session the FM ring is gone,
and its completions with it (DEDUCED, log 17). -/
def Dev.completeNow (d : Dev) (c : CmdRef) (status r0 r1 : Nat) (payload : Gran) (final : Bool) : Dev :=
  let d := if final then { d with inflight := d.inflight.eraseP fun f => f.ref == c } else d
  let e : Gran := BitVec.ofNat 256 (cplHead c.cid.toNat status c.ctx.toNat r0 r1 0 final)
  match c.q with
  | .port _ => (d.cqWait c.q (e, payload) c.notify).cqWinFlush c.q
  | .fm => if d.fm.isNone then d else (d.cqWait c.q (e, payload) c.notify).cqWinFlush c.q
  | .ctx i =>
    let t := d.now (commonDom (dieOfPort (d.ctx i.val).port))
    let d := d.updCtx i.val fun x => { x with stamp := t }
    if (d.ctx i.val).ring.isSet && !(d.ctx i.val).ring.faulted then d.cqWait c.q (e, payload) c.notify else d

/-- A completion of a command. One that becomes due while firmware is paused for an activation is written by the image that resumes
(R360). -/
def Dev.complete (d : Dev) (c : CmdRef) (status r0 r1 : Nat) (payload : Gran := 0) (final : Bool := true) : Dev :=
  if d.upd.paused then { d with cplHold := d.cplHold ++ [(c, status, r0, r1, payload, final)] }
  else d.completeNow c status r0 r1 payload final

/-- The completions that a pause has held are written. -/
def Dev.cplFlush (d : Dev) : Dev :=
  { d with cplHold := [] }.each d.cplHold fun d e => d.completeNow e.1 e.2.1 e.2.2.1 e.2.2.2.1 e.2.2.2.2.1 e.2.2.2.2.2

/-- Complete a command that may have no issuer. -/
def Dev.completeOpt (d : Dev) (c : Option CmdRef) (status r0 r1 : Nat) : Dev :=
  match c with
  | none => d
  | some c => d.complete c status r0 r1

/-! ### Table slot counters (R118) -/

/-- A slot of a tensor: generation A or B. -/
def Tensor.slot (t : Tensor) (b : Bool) : GSlot := if b then t.b else t.a
def Tensor.setSlot (t : Tensor) (b : Bool) (g : GSlot) : Tensor := if b then { t with b := g } else { t with a := g }

/-- The entries of a slot leave every decoder and encoder cache (R118). -/
def Dev.cacheDrop (d : Dev) (t : Nat) (b : Bool) : Dev :=
  let l : Tab (List (Nat × Bool × Nat)) := Tab.mapV d.tcache [] fun _ l => l.filter fun e => !(e.1 == t && e.2.1 == b)
  { d with tcache := l }

/-- A RETIRING or LOST slot whose counters are both zero becomes EMPTY, with TABLE_IDLE to the host that installed last. -/
def Dev.slotIdle (d : Dev) (t : Nat) (b : Bool) : Dev :=
  let g := (d.tensor t).slot b
  if (g.st == .retiring || g.st == .lost) && g.stored = 0 && g.refs = 0 then
    let d := (d.updTensor t fun x => x.setSlot b { g with st := .empty, lens := [] }).cacheDrop t b
    match (d.tensor t).host with
    | some p => d.event (some p) 0x07 0 (t + b2n b * 2 ^ 11)
    | none => d
  else d

def Dev.storedInc (d : Dev) (t : Nat) (b : Bool) (n : Nat := 1) : Dev :=
  d.updTensor t fun x => x.setSlot b { x.slot b with stored := (x.slot b).stored + n }
def Dev.storedDec (d : Dev) (t : Nat) (b : Bool) (n : Nat := 1) : Dev :=
  (d.updTensor t fun x => x.setSlot b { x.slot b with stored := (x.slot b).stored - n }).slotIdle t b
def Dev.refsInc (d : Dev) (t : Nat) (b : Bool) (n : Nat := 1) : Dev :=
  d.updTensor t fun x => x.setSlot b { x.slot b with refs := (x.slot b).refs + n }
def Dev.refsDec (d : Dev) (t : Nat) (b : Bool) (n : Nat := 1) : Dev :=
  (d.updTensor t fun x => x.setSlot b { x.slot b with refs := (x.slot b).refs - n }).slotIdle t b

/-- Release references held as (2 × tensor + generation, count). -/
def Dev.refsRelease (d : Dev) (l : List (Nat × Nat)) : Dev := d.each l fun d r => d.refsDec (r.1 / 2) (r.1 % 2 == 1) r.2
def Dev.refsTake (d : Dev) (l : List (Nat × Nat)) : Dev := d.each l fun d r => d.refsInc (r.1 / 2) (r.1 % 2 == 1) r.2

/-- The table that a block is coded with, as 2 × tensor + generation. -/
def BlkId.ref (i : BlkId) : Nat := 2 * i.tensor + b2n i.gen
/-- Is the block CODED (R105). -/
def BlkId.coded (i : BlkId) : Bool := decide (2 ≤ i.len ∧ i.len ≤ 62)

/-- Blocks of a descriptor coded with each generation. -/
def Desc.coded (e : Desc) (b : Bool) : Nat :=
  ((List.range 32).filter fun k => let c := e.lenOf k; decide (2 ≤ c ∧ c ≤ 62) && e.genOf k == b).length

end Sys2Proof.Machine
end

