-- ==== Sys2Proof/Machine/Fence.lean ====
section
/-! DEFINITION. Containment: scale factor and shortfall events (R263, R264), set fences (R283), resets with replay (R297,
R298), port resets (R328), domain and die fences (R369 to R375), DEVICE_FAILED (R376). -/
namespace Sys2Proof.Machine

/-- Is the instance an LMC. -/
def isLmc (i : Nat) : Bool := decide (64 ≤ i)

/-! ### Accounts (R255) -/

/-- SHARE_i of a master on a set. -/
def Dev.share (d : Dev) (s i : Nat) : Nat := (d.set? s).elim 0 fun S => S.shares.getD i 0

/-- Parts of a granule in which an account is kept: with it the accrual of a tick is a whole number. -/
def acctUnit : Nat := 8388608000000000

/-- Accrual of a master in a number of ticks on an instance of a set. -/
def accrual (share k rate ticks : Nat) : Nat := ticks * share * rate * k

/-- Floor bandwidth of an instance: four channels. -/
def instRate (i : Nat) : Nat := 4 * if isLmc i then 32030000000 else 88560000000

/-- Does the memory clock of an instance run: not in self-refresh, whose entry stops the PLL, nor before it is trained (R278). -/
def Inst.clocked (x : Inst) : Bool := (x.st == .active || x.st == .pause) && !x.pllLost

/-- Every account of an instance brought up to now, capped: what it accrues in cycles of the memory clock (R255; the ticks of
the instance's timer stand for them while that clock runs: log 39). -/
def Dev.accrue (d : Dev) (i : Nat) : Dev :=
  match d.setOfInst i with
  | none => d
  | some s =>
    let x := d.inst i
    let now := d.lived (instDom i)
    let dt := (if x.clocked then now - x.acctAt else 0) + x.acctDue
    let k := (d.sq s).k
    let r := instRate i
    let cap := 250 * d.fld row_QOS_CTL 0 f_QOS_CTL_BURST
    let a : Tab Int := (List.range 30).foldl (fun (t : Tab Int) m =>
      let sh := d.share s m
      Tab.set t m (min (Int.ofNat (accrual sh k r cap)) (t.get m 0 + Int.ofNat (accrual sh k r dt))) 0) x.acct
    d.updInst i fun x => { x with acct := a, acctAt := now, acctDue := 0 }

/-! ### Scale factor (R263, R264) -/

/-- Raise QOS_SHORTFALL of set s: to the FM and into the event queue of every host port with a share on the set, which is written
on while its host is lost (R264, R341). -/
def Dev.raiseShortfall (d : Dev) (s : Nat) : Dev :=
  let q := d.sq s
  let data := s + q.k * 2 ^ 16 + q.kMin * 2 ^ 32 + q.cause * 2 ^ 48
  let d := d.event none 0x03 0 data
  let shares := (d.set? s).elim [] (·.shares)
  let d := d.each (List.range 16) fun d n =>
    if shares.getD n 0 ≠ 0 && d.portHost n then d.event (some n) 0x03 0 data else d
  d.updSq s fun q => { q with kMin := q.k, lastEvent := some (d.lived (commonDom (d.setDie s))), pendingEvent := false }

/-- Adopt a new K (R264): the accounts are brought up at the old K; one event per set in any 1 ms, later changes wait for SHORTFALL_HOLDOFF_EXPIRY. -/
def Dev.setK (d : Dev) (s k cause : Nat) : Dev :=
  let q := d.sq s
  if q.k = k then d.updSq s fun q => { q with cause := cause } else
  let d := d.each ((d.set? s).elim [] (·.insts)) Dev.accrue
  let d := d.updSq s fun q => { q with k := k, kMin := min q.kMin k, cause := cause }
  let held := match q.lastEvent with
    | none => false
    | some t => !d.ran (commonDom (d.setDie s)) t 1000000
  if held then d.updSq s fun q => { q with pendingEvent := true } else d.raiseShortfall s

/-! ### Requests -/

/-- Finish a request in the device with a failing status: no data, and one RSP credit for its completion (R319), which it waits for where
it holds none. -/
def Req.fail (r : Req) (st : Nat) : Req :=
  { r with status := st, stage := if r.held = 0 then .credits else .ready, resv := 1, held := min 1 r.held, out := [], result := 0,
           compressed := false, pieces := [], queued := [] }

def Dev.updReqs (d : Dev) (f : Req → Req) : Dev := { d with reqs := d.reqs.map f }
def Dev.reqOf (d : Dev) (id : Nat) : Option Req := d.reqs.find? fun r => r.id == id
def Dev.updReq (d : Dev) (id : Nat) (f : Req → Req) : Dev := d.updReqs fun r => if r.id = id then f r else r

/-- The charges that a request still holds are released (R258). -/
def Dev.release (d : Dev) (id : Nat) : Dev :=
  match d.reqOf id with
  | none => d
  | some r => (d.discharge r.cmaster r.charge).updReq id fun q => { q with charge := [] }

/-- The RSP credits that a request holds beyond n are released. -/
def Dev.creditBack (d : Dev) (id n : Nat) : Dev :=
  match d.reqOf id with
  | none => d
  | some r => d.updPort r.port fun x => { x with rspResv := x.rspResv - (r.held - n) }

/-- End a request with a status and no data: its charge is released, and the credits that its completion does not need. -/
def Dev.failReq (d : Dev) (id st : Nat) : Dev := ((d.release id).creditBack id 1).updReq id fun r => r.fail st

/-! ### Queued pieces (R274 to R276) -/

/-- Crossings of a multiple of 1,024. -/
def kilo (old add : Nat) : Nat := (old + add) / 1024 - old / 1024

/-- The CNT register of an instance: row and index. -/
def cntOf (i : Nat) : RegRow × Nat := if isLmc i then (row_LMC_CNT, i - 64) else (row_HMC_CNT, i)

/-- Queue depth of an instance in granules (R274). -/
def queueDepth (i : Nat) : Nat := if isLmc i then 2048 else 4096

/-- Granules queued now. -/
def Inst.queued (x : Inst) : Nat := (x.queue.map (·.pc.gran)).sum

/-- Does a piece hit an open row: one opened less than the longest time ago that the standard permits (R276). -/
def Dev.hit (d : Dev) (i : Nat) (p : Piece) : Bool :=
  let x := d.inst i
  let k := p.pc.part.val * 16 + p.pc.bank.val
  x.rows.get k 0 == p.pc.row + 1 && decide (d.now (instDom i) < x.rowAt.get k 0 + Config.rowOpenMax (isLmc i))

/-- A piece moves its bursts: the row, the direction, the counters of the instance and of its class. -/
def Dev.burst (d : Dev) (i : Nat) (p : Piece) : Dev :=
  let x := d.inst i
  let part := p.pc.part.val
  let key := part * 16 + p.pc.bank.val
  let open_ := !d.hit i p
  let now := d.now (instDom i)
  let (r, j) := cntOf i
  let d := d.wrapInc r j f_HMC_CNT_BURSTS (kilo x.bursts p.pc.gran)
  let d := if open_ then d.wrapInc r j f_HMC_CNT_ACTIVATES (kilo x.activates 1) else d
  let (dir, run) := x.dir.get part (false, 16)
  let d := d.updInst i fun x => { x with
    queue := x.queue.erase p, bursts := x.bursts + p.pc.gran, activates := x.activates + b2n open_,
    rows := x.rows.set key (p.pc.row + 1) 0, rowAt := if open_ then x.rowAt.set key now 0 else x.rowAt,
    dir := x.dir.set part (p.pc.write, if dir == p.pc.write then run + p.pc.gran else p.pc.gran) (false, 16),
    idleSince := now }
  match d.setOfInst i with
  | none => d
  | some s =>
    let m := p.pc.master.val
    d.updSq s fun q =>
      if p.cls == .be then { q with be := q.be.upd m 0 (· + p.pc.gran), beGran := q.beGran.upd m 0 (· + p.pc.gran) }
      else { q with within := q.within.upd m 0 (· + p.pc.gran) }

/-- The queued writes of an instance are written, in the order of the queue (R275). -/
def Dev.writeOut (d : Dev) (i : Nat) : Dev := d.each ((d.inst i).queue.filter fun p => p.pc.write) fun d p => d.burst i p

/-- Self-refresh (R278): the queued writes are written, every row is closed, and the memory clock stops. A retry pause that was due is
not run: the training of the exit replaces it (R285). -/
def Dev.clockStop (d : Dev) (i : Nat) (st : InstSt) : Dev :=
  ((d.accrue i).writeOut i).updInst i fun x => { x with st := st, rows := [], rowAt := [], retry := none }

/-- The memory clock of an instance runs again: its accounts accrue from now on. -/
def Dev.clockStart (d : Dev) (i : Nat) : Dev := (d.accrue i).updInst i fun x => { x with st := .active }

/-! ### Set fence (R283) -/

/-- The granules that request r wrote, and whose pieces lie in queues (as pairs of instance and request), hold again what they held (R283:
such a write is not applied; of an extent without a codec, log 43). -/
def Dev.undoReq (d : Dev) (lie : List (Nat × Nat)) (r : Req) : Dev :=
  d.each (r.undo.filter fun u => (d.place u.1 u.2.1).elim false fun p => lie.contains (instOfChan p.sub p.ch, r.id)) fun d u =>
    d.memPut u.1 u.2.1 u.2.2

/-- Fence set s with a cause of R378. -/
def Dev.fenceSet (d : Dev) (s cause : Nat) : Dev :=
  match d.set? s with
  | none => d
  | some S =>
    if d.setFenced s then d else
    let lie := S.insts.flatMap fun i => ((d.inst i).queue.filterMap (·.pc.req)).map fun id => (i, id)
    let ids := lie.map (·.2) ++ S.insts.flatMap fun i => (d.inst i).xbar.filterMap (·.req)
    let d := d.each S.insts fun d i => (d.accrue i).updInst i fun x => { x with
      st := .fenced, queue := [], xbar := [], rows := [], rowAt := [], retry := none }
    let hit := d.reqs.filter fun r => ids.contains r.id && r.stage == .issued
    let d := d.each hit.reverse fun d r => d.undoReq lie r
    let d := d.each (hit.map (·.id)) fun d id => d.failReq id 0x07
    let d := d.updSq s fun q => { q with fenced := true }
    let xs := (d.moves.filter fun m => m.step ≠ 0 && (m.src.set == s || m.dst.set == s)).map (·.ext)
    let d := d.each xs Dev.abandon
    let d := d.setK s 0 ((d.sq s).cause ||| 4)
    d.safety 2 0x12 (s + cause * 2 ^ 8)

/-- Mark channels of instance i failed (mask) and fence its set (R282, R298, R19). -/
def Dev.failChans (d : Dev) (i : Nat) (mask : BitVec 4) (cause : Nat) : Dev :=
  let d := d.updInst i fun x => { x with failed := x.failed ||| mask }
  match d.setOfInst i with
  | some s => d.fenceSet s cause
  | none => d

def trainOf (i : Nat) : RegRow × Nat := if isLmc i then (row_LMC_TRAIN, i - 64) else (row_HMC_TRAIN, i)

/-- DETAIL of a retraining failure of channel c of instance i (R292): channel, group, tier. -/
def trainDetail (i c g : Nat) : Nat := (if isLmc i then 4 * (i - 64) else 4 * i) + c + g * 2 ^ 9 + b2n (isLmc i) * 2 ^ 12

/-- A group of channel c has failed to train once, and its retry has passed or failed: logged, a pass counted (R282, R292). -/
def Dev.trainLog (d : Dev) (i c g : Nat) (lasting : Bool) : Dev :=
  let d := if lasting then d else d.satInc (trainOf i).1 (trainOf i).2 f_HMC_TRAIN_TRANSIENT
  d.log (instDom i) 0x07 lasting (trainDetail i c g)

/-- The channels with a lasting failure. -/
def lastingMask (l : List TrainFail) : BitVec 4 :=
  l.foldl (fun m f => if f.lasting then m ||| BitVec.ofNat 4 (2 ^ f.ch.val) else m) 0

/-- The failures of a training outside a pause: each one logged; the channels with a lasting one are failed (R282, R284, R297). -/
def Dev.trainFails (d : Dev) (i : Nat) (l : List TrainFail) (cause : Nat) : Dev :=
  let d := d.each l fun d f => d.trainLog i f.ch.val f.group.val f.lasting
  if lastingMask l = 0 then d else d.failChans i (lastingMask l) cause

/-- Every pause interval starts again (R285). -/
def Dev.pausesRestart (d : Dev) (i : Nat) : Dev :=
  let now := d.now (instDom i)
  d.updInst i fun x => { x with
    pausedAt := (List.range 8).foldl (fun t k => Tab.set t k now 0) x.pausedAt, rows := [], rowAt := [], dir := [], idleSince := now }

/-- An instance in service enters self-refresh. -/
def Dev.toSelfRefresh (d : Dev) (i : Nat) : Dev :=
  let st := (d.inst i).st
  if st == .active || st == .pause then d.clockStop i .selfRefresh else d

/-- Start a reset with replay of instance i (R296 to R298): the fourth of a storm is a lasting retraining failure, logged with
a channel and a group that the spec leaves open (log 41), and fences the set. -/
def Dev.replayStart (d : Dev) (i : Nat) : Dev :=
  let x := d.inst i
  if x.st == .fenced || x.st == .off || x.st == .replay then d else
  let near := match x.replayEnd with
    | none => false
    | some t => d.now (alwaysKey (dieOfInst i)) ≤ t + d.most 10000000
  let n := if near then x.storm + 1 else 1
  let d := d.updInst i fun x => { x with storm := n }
  if 4 ≤ n then
    let (c, d) := d.fresh 2
    let (g, d) := d.fresh 3
    (d.trainLog i c.toNat (g.toNat % 6) true).failChans i 0xF 2
  else (d.clockStop i .replay).updInst i fun x => { x with
    retry := none, queue := x.queue.map fun p => { p with again := true } }

/-- A reset with replay ends (R297 step 4): the instance is in service, what its queue held is issued again. -/
def Dev.replayOver (d : Dev) (i : Nat) : Dev :=
  ((d.clockStart i).updInst i fun x => { x with replayEnd := some (d.now (alwaysKey (dieOfInst i))) }).pausesRestart i

/-- Does an instance bring no data now: it is being trained or reset, or its PLL has lost lock (R19, R297); does one of a set. -/
def Inst.stopped (x : Inst) : Bool := x.pllLost || x.st == .pause || x.st == .replay || x.st == .training
def Dev.setStopped (d : Dev) (s : Nat) : Bool := ((d.set? s).elim [] (·.insts)).any fun i => (d.inst i).stopped

/-! ### Ports (R311, R328) -/

/-- End the FM session if it is on port p (R239). -/
def Dev.fmEnd (d : Dev) (p : Nat) : Dev := if d.fmOn p then { d with fm := none, fmRing := {} } else d

/-- The timer of port p starts again from 0 (R410); what waits for a time on it waits from there. -/
def Dev.portTimerZero (d : Dev) (p : Nat) : Dev :=
  let d := d.timerZero (portDom p)
  let d := d.updPort p fun x => { x with since := 0, ackAt := 0 }
  { d with challenge := d.challenge.set p ((d.challenge.get p none).map fun c => { c with since := 0 }) none,
           lockout := d.lockout.set p ((d.lockout.get p none).map fun _ => 0) none }

/-- The OLY registers of port p that hold a value of their own, back at their reset values (R410). -/
def Dev.olyClear (d : Dev) (p : Nat) : Dev :=
  d.each [row_OLY_CTL, row_OLY_STATUS, row_OLY_RETRY, row_OLY_FEC, row_OLY_LANE, row_OLY_CNT, row_OLY_ERR, row_OLY_TRAIN] fun d r =>
    d.wr r p r.resetValue

/-- The effects of a port reset on everything but the port's state and its cause (R328, R410). -/
def Dev.portResetEffects (d : Dev) (p : Nat) : Dev :=
  let mine := d.reqs.filter fun r => r.port == p
  let d := d.each mine fun d r => (d.discharge r.cmaster r.charge).refsRelease r.refs
  let d := { d with reqs := d.reqs.filter fun r => r.port ≠ p, waiters := d.waiters.filter fun w => w.port ≠ p,
                    msgs := d.msgs.filter fun m => m.port ≠ p }
  let d := d.updPort p fun x => {
    st := x.st, immediate := x.immediate, pllLost := x.pllLost, linkReset := true }
  ((d.olyClear p).portTimerZero p).fmEnd p

/-- Record a cause of DOWN or FAILED. -/
def Dev.downCause (d : Dev) (p cause : Nat) : Dev := d.setFld row_OLY_STATUS p f_OLY_STATUS_DOWN_CAUSE cause

/-- Time on the timer of port p, without what a freeze halted: it halts every port but the witness port (R399, R400). -/
def Dev.portTime (d : Dev) (p : Nat) : Nat := if d.portWitness p then d.now (portDom p) else d.lived (portDom p)

/-- Port p goes DOWN with a cause (R311). imm: it trains at once. -/
def Dev.portDown (d : Dev) (p cause : Nat) (imm : Bool) : Dev :=
  let d := if (d.port p).st.up then d.portResetEffects p else d
  (d.downCause p cause).updPort p fun x => { x with
    st := .down, since := d.portTime p, immediate := imm, width := 0 }

/-! ### Counters of fences -/

/-- The step rate window of a core's cluster is discarded (R23). -/
def Dev.rateMark (d : Dev) (x : Nat) : Dev := if x < 0xC0 then { d with rateDirty := d.rateDirty ||| 2 ^ (x / 8) } else d

/-- Count a fence of domain x and record its cause (R380). -/
def Dev.countFence (d : Dev) (x cause : Nat) : Dev :=
  let d := d.rateMark x
  let d := d.satInc row_SAF_CNT 0 f_SAF_CNT_FENCES
  d.updDom x fun e => { e with cause := cause, fences := min 255 (e.fences + 1) }

/-- Port p goes to FAILED: a port reset, its domain fenced, a safety event (R311, R371). -/
def Dev.portFail (d : Dev) (p cause domCause : Nat) : Dev :=
  if (d.port p).st == .failed || (d.port p).st == .disabled then d else
  let d := d.portResetEffects p
  let d := (d.downCause p cause).updPort p fun x => { x with st := .failed, width := 0 }
  let d := (d.countFence (portDom p) domCause).updDom (portDom p) fun e => { e with st := .fenced, since := d.now (alwaysKey (dieOfPort p)) }
  d.safety 0 0x10 (portDom p + domCause * 2 ^ 12)

/-! ### Beds -/

/-- The bed that holds cluster k, and the clusters and cores of a bed (R33, R126). -/
def Dev.bedOfCluster (d : Dev) (k : Nat) : Option Nat :=
  d.strat.bind fun g => (List.range g.beds.length).find? fun b => bitOf (g.beds.getD b 0).toNat k
def Dev.clusters (d : Dev) (b : Nat) : List Nat :=
  (List.range 24).filter fun k => bitOf ((d.strat.bind fun g => g.beds[b]?).elim 0 (·.toNat)) k

/-- The die of a bed's lowest cluster; its common timer measures the bed's bounds (R145, R185). -/
def Dev.bedDie (d : Dev) (b : Nat) : Nat := dieOfCluster ((d.clusters b).headD 0)
def Dev.bedTimer (d : Dev) (b : Nat) : Nat := commonDom (d.bedDie b)

/-- Is core c live: powered and not fenced (R146); it takes work while its cluster's clay buffer is live too (R143). -/
def Dev.coreLive (d : Dev) (c : Nat) : Bool := d.live (coreDom c)
def Dev.coreWorks (d : Dev) (c : Nat) : Bool := d.coreLive c && d.live (clayDom (c / 8))
def Dev.liveClusters (d : Dev) (b : Nat) : List Nat := (d.clusters b).filter fun k => d.live (clayDom k)
def Dev.liveCores (d : Dev) (b : Nat) : List Nat :=
  (d.clusters b).flatMap fun k => ((List.range 8).map (8 * k + ·)).filter d.coreLive
def Dev.workCores (d : Dev) (b : Nat) : List Nat := (d.liveCores b).filter d.coreWorks

/-- The order in which R197 names one status among failures of an operation; other statuses come after. -/
def failRank (st : Nat) : Nat :=
  ([0x10C, 0x10A, 0x10B, 0x04, 0x07, 0x02, 0x08, 0x10D].idxOf st)

/-- Combine a status with a further failure (R197). -/
def failWith (old st : Nat) : Nat := if old = 0 ∨ failRank st < failRank old then st else old

/-- Give an operation a failing status. -/
def TOp.fail (o : TOp) (st : Nat) : TOp := { o with status := failWith o.status st }

def Dev.failRun (d : Dev) (b st : Nat) : Dev :=
  d.updBed b fun x => { x with run := x.run.map fun o => o.fail st }

/-- The pages a context holds, as (cluster, page) pairs. -/
def Ctx.pages (x : Ctx) : List (Nat × Nat) := x.area.elim [] fun l => l.flatMap fun kp => kp.2.map fun p => (kp.1, p)

/-- Release a clay page: written bits and VALID cleared in one update, references of coded blocks dropped (R133, R136). -/
def Dev.pageRelease (d : Dev) (k p : Nat) : Dev :=
  let key := k * 320 + p
  let refs := d.clayRefs.get key []
  let d := { d with clayTag := d.clayTag.set key (false, 0, 0) (false, 0, 0),
                    clayWr := d.clayWr.filter fun e => e.1 / 2048 ≠ key,
                    clayRefs := d.clayRefs.set key [] [] }
  d.refsRelease ((refs.filter (·.counted)).map fun r => (r.id.ref, 1))

/-- Release a context's clay area in every cluster (R132). -/
def Dev.clayRelease (d : Dev) (c : Nat) : Dev :=
  let d := d.each (d.ctx c).pages fun d kp => d.pageRelease kp.1 kp.2
  d.updCtx c fun x => { x with area := none }

/-! ### Loess engines -/

/-- Partition of an engine, of a bed, of a port (R31). -/
def Dev.loessPart (d : Dev) (j : Nat) : Nat := d.strat.elim 0 fun g => g.loessPart.getD j 0
def Dev.bedPart (d : Dev) (b : Nat) : Nat := d.strat.elim 0 fun g => g.bedPart.getD b 0
def Dev.portPart (d : Dev) (p : Nat) : Nat := d.strat.elim 0 fun g => g.portPart.getD p 0

/-- May engine j take new work: its domain live, not paused (R74, R92). -/
def Dev.loessUp (d : Dev) (j : Nat) : Bool :=
  d.live (loessDom j) && d.fld row_LSS_MOVE_CTL j f_LSS_MOVE_CTL_PAUSE == 0

/-- The engines that take work of a group (R74): those of its partition on its die, else those on the other die. -/
def Dev.enginesOf (d : Dev) (grp : Nat) : List Nat :=
  let mine := (List.range 4).filter fun j => d.loessPart j == grp / 2 && d.loessUp j
  let here := mine.filter fun j => dieOfLoess j == grp % 2
  if here.isEmpty then mine else here

/-- Layer L of a plan. -/
def Plan.layer (p : Plan) (l : Nat) : Nat × Nat := p.layers.getD l (0, 0)

/-- The slots of a layer at ring position q: slot indices with region indices. -/
def Plan.ring (p : Plan) (l q : Nat) : List (Nat × Nat) :=
  let n := p.slots.length
  let (f, c) := p.layer l
  if n = 0 then [] else (List.range c).map fun i => ((q + i) % n, f + i)

/-- No engine can make the queued fills: what waits on their slots meets POISON (R89). -/
def Plan.unfilled (x : Plan) : Plan :=
  x.fills.foldl (fun x f =>
    let is := (x.ring f.1 f.2).map (·.1)
    let ws : List WSlot := ((List.range x.slots.length).zip x.slots).map fun (iw : Nat × WSlot) =>
      if is.contains iw.1 then { iw.2 with layer := some f.1, ready := false, bad := true } else iw.2
    { x with slots := ws }) x

/-- The moves and fills of a fenced engine (R371): begun moves are abandoned, a committed one is settled; fills pass to
another engine, and where none remains every operation that waits on them meets POISON (R89). -/
def Dev.loessFence (d : Dev) (j : Nat) : Dev :=
  let mine := d.moves.filter fun m => m.engine == some j && m.step ≠ 0
  let d := d.each mine fun d m =>
    if 5 ≤ m.step then (d.dropMove m.ext).jRetire m.journal m.ext else d.abandon m.ext
  let d := d.each ((d.plans.filter fun p => p.2.engine == some j).map (·.1)) fun d p =>
    (d.discharge (loessMaster j) (d.plan p).charge).updPlan p fun x => { x with engine := none, filling := false, charge := [] }
  d.each (d.plans.map (·.1)) fun d p =>
    if (d.enginesOf ((d.set? (d.plan p).set).elim 0 (·.group))).isEmpty then d.updPlan p Plan.unfilled else d

/-! ### Activations (R358, R359) -/

/-- The command of an update row completes; LAST_STATUS keeps its status. -/
def Dev.updEnd (d : Dev) (ref : CmdRef) (st r0 : Nat) : Dev :=
  ({ d with upd := { d.upd with last := st } }).complete ref st r0 0

/-- The control path resumes: held completions and events are written, supervision restarts. -/
def Dev.resume (d : Dev) : Dev :=
  let hs : Tab (Option HostSess) := Tab.mapV d.hosts none fun p (h : Option HostSess) =>
    h.map fun x => { x with since := d.lived (commonDom (dieOfPort p)) }
  let d : Dev := ({ d with hosts := hs, upd := { d.upd with paused := false } } : Dev).cplFlush
  if d.freezes == .running then d.evFlush else d

/-- Abandon an activation with a reason (R358 step 7, R359), or an UPDATE_STAGE whose write is under way (R379). -/
def Dev.updAbandon (d : Dev) (reason : Nat) : Dev :=
  match d.upd.cmd with
  | none => d
  | some ref =>
    let st := if d.upd.st == UpdSt.staging then UpdSt.idle else if d.upd.write.isSome then d.upd.st else UpdSt.staged
    let d := ({ d with upd := { d.upd with st := st, cmd := none, buf := [], write := none, sram := [] } }).resume
    (d.updEnd ref 0x249 reason).event none 0x23 0 reason

/-! ### Freeze entry (R398, R405) -/

/-- Does a cause hold freeze (R405). -/
def Dev.freezeCause (d : Dev) : Bool := d.req || d.freezeN

/-- Step 1 of freeze entry. -/
def Dev.freezeStart (d : Dev) : Dev :=
  { d.wrapInc row_DBG_STATUS 0 f_DBG_STATUS_FREEZES with freezes := .halting, rateDirty := 2 ^ 26 - 1 }

/-- Start freeze or thaw as the causes and the phase say. A request in POWER_UP or BOOT waits until STATE leaves BOOT. -/
def Dev.freezeCheck (d : Dev) : Dev :=
  match d.freezes with
  | .running => if d.freezeCause && d.state ≠ .powerUp && d.state ≠ .boot then d.freezeStart else d
  | .frozen => if d.freezeCause then d else { d with freezes := .thawing }
  | _ => d

/-! ### DEVICE_FAILED and die fences -/

/-- Enter DEVICE_FAILED with a cause of R378 (R376): incomplete requests and operations end with POISON, sets in service
enter self-refresh, the event goes to the FM and every host session. A freeze that was requested before STATE left BOOT starts. -/
def Dev.deviceFailed (d : Dev) (cause : Nat) : Dev :=
  if d.state == .failed then d else
  let d := { d with state := .failed, before := .failed, dfCause := cause }
  let d := d.each ((d.reqs.filter fun r => r.stage ≠ .ready).map (·.id)) fun d id => d.failReq id 0x07
  let d := d.each (List.range 8) fun d b => d.updBed b fun x => { x with
    run := x.run.map fun o => o.fail 0x07, pend := x.pend.map fun o => o.fail 0x07 }
  let cs : Tab Ctx := Tab.mapV d.ctxs {} fun _ (x : Ctx) => { x with post := x.post.map fun (o : TOp) => o.fail 0x07 }
  let d : Dev := { d with ctxs := cs }
  let d := d.each (List.range 100) Dev.toSelfRefresh
  let d := if d.upd.cmd.isSome && d.upd.burn.isNone && d.marlLost ≠ 3 then d.updAbandon 3 else d
  let d := d.event none 0x18 0 cause
  let d := d.each ((d.hosts.filter fun h => h.2.isSome).map (·.1)) fun d p => d.event (some p) 0x18 0 cause
  d.faultPin.freezeCheck

/-! ### Domain fence (R369 to R373) -/

/-- Work that fails when a domain is fenced (R371). -/
def Dev.fenceEffects (d : Dev) (x cause : Nat) : Dev :=
  if x < 0xC0 then
    match d.bedOfCluster (x / 8) with
    | none => d
    | some b =>
      -- together with its clay buffer, R143 governs (R379)
      if !d.live (clayDom (x / 8)) then d else
      let d := d.failRun b 0x10C
      if (d.liveCores b).isEmpty then d.updBed b fun y => { y with pend := y.pend.map fun o => o.fail 0x10C } else d
  else if x < 0xD8 then
    match d.bedOfCluster (x - 0xC0) with
    | none => d
    | some b =>
      let k := x - 0xC0
      let both := (List.range 8).any fun i => (d.dom (coreDom (8 * k + i))).st == .resetting || (d.dom (coreDom (8 * k + i))).st == .fenced
      let d := d.updBed b fun y => { y with run := y.run.map fun o => if both && o.status == 0x10C then { o with status := 0x10B } else o.fail 0x10B }
      let cs := (d.ctxs.filter fun e => e.2.bed == some b && e.2.area.isSome).map (·.1)
      d.each cs fun d c => (d.clayRelease c).updCtx c fun y => { y with clayLost := true }
  else if x < 0x13C then d.replayStart (x - 0xD8)
  else if x < 0x14C then d.portFail (x - 0x13C) 5 cause
  else d.loessFence (x - 0x14C)

/-! ### Die fence (R375) -/

/-- The domains of a die (R13). -/
def domsOfDie (die : Nat) : List Nat := (List.range 336).filter fun x => dieOfDom x == die

/-- Fence a die (R375): every powered domain without reset, with what fails in it (R371), every set of the die, then DEVICE_FAILED. The
cause that its ports report is that of a fenced port domain (DESIGN CHOICE, log 27). -/
def Dev.dieFence (d : Dev) (die cause : Nat) : Dev :=
  if bitOf d.dieFenced.toNat die then d else
  let d := { d with dieFenced := d.dieFenced ||| BitVec.ofNat 2 (2 ^ die), dieCause := d.dieCause.set die cause 0 }
  let d := d.each ((List.range 16).filter fun p => dieOfPort p == die && (d.port p).st ≠ .disabled && (d.port p).st ≠ .failed) fun d p =>
    ((d.portResetEffects p).downCause p 5).updPort p fun x => { x with st := .failed, width := 0 }
  let was := (domsOfDie die).filter fun x => (decide (x < 0xD8) || decide (0x14C ≤ x)) && d.live x
  let doms := d.doms.mapV {} fun x (e : Dom) =>
    if dieOfDom x == die && (e.st == .live || e.st == .resetting) then { e with st := .fenced } else e
  let d := { d with doms := doms }
  let d := d.each was fun d x => d.fenceEffects x 7
  let sets := (List.range (d.strat.elim 0 (·.sets.length))).filter fun s => d.setDie s == die
  let d := d.each sets fun d s => d.fenceSet s 7
  let d := d.event none 0x17 0 (die + cause * 2 ^ 4)
  (d.deviceFailed 1).faultPin

/-- The timer of instance i starts again from 0 (R410): what was stamped on it is counted from there, a deadline keeps the time
that is left of it, and the accounts keep what they are owed. -/
def Dev.instTimerZero (d : Dev) (i : Nat) : Dev :=
  let now := d.now (instDom i)
  let owed := d.lived (instDom i)
  (d.timerZero (instDom i)).updInst i fun x => { x with
    tempAt := min 1 x.tempAt, pausedAt := [], refreshed := [], idleSince := 0,
    acctAt := 0, acctDue := x.acctDue + (owed - x.acctAt),
    queue := x.queue.map fun q => { q with at_ := 0, deadline := q.deadline.map (· - now) } }

/-- The timer of Loess engine j starts again from 0 (R410): the sweeps that it started keep the ticks counted so far. -/
def Dev.loessTimerZero (d : Dev) (j : Nat) : Dev :=
  let t := d.lived (loessDom j)
  let sw : Tab Sweep := d.sweeps.mapV {} fun _ (s : Sweep) =>
    if s.by_ == some j then { s with due := s.due + (t - s.from_), from_ := 0 } else s
  ({ d with sweeps := sw }).timerZero (loessDom j)

/-- The timer of a domain of its own that is reset starts again from 0; cores and clay buffers have none (R20, R410). -/
def Dev.domTimerZero (d : Dev) (x : Nat) : Dev :=
  if x < 0xD8 then d else if x < 0x13C then d.instTimerZero (x - 0xD8)
  else if x < 0x14C then d else d.loessTimerZero (x - 0x14C)

/-- Fence domain x with a cause of R378 (R369, R370). A further fault of a domain that is not LIVE starts no second fence
(R379). The third fence for a detected fault within 60 minutes retires a core, clay buffer or Loess domain (R372). -/
def Dev.domFence (d : Dev) (x cause : Nat) : Dev :=
  if (d.dom x).st ≠ .live then d else
  if 0x13C ≤ x ∧ x < 0x14C then d.portFail (x - 0x13C) 5 cause else
  let t := d.now (alwaysKey (dieOfDom x))
  let recent := (d.dom x).times.filter fun u => t ≤ u + d.most 3600000000000
  let rule := decide (x < 0xD8) || decide (0x14C ≤ x)
  let third := rule && cause ≠ 9 && 2 ≤ recent.length
  let d := d.countFence x cause
  let d := d.updDom x fun e => { e with
    st := if third then .retired else .resetting, passed := false, since := d.lived (alwaysKey (dieOfDom x)),
    times := if cause = 9 then recent else (t :: recent).take 3 }
  let d := d.safety 0 0x10 (x + cause * 2 ^ 12 + b2n third * 2 ^ 16)
  let d := d.fenceEffects x cause
  if third then d else d.domTimerZero x

/-- A domain rejoins: counted, DOMAIN_REJOINED raised (R370, R378). -/
def Dev.rejoined (d : Dev) (x : Nat) : Dev := ((d.rateMark x).wrapInc row_SAF_CNT 0 f_SAF_CNT_REJOINS).event none 0x11 0 x

/-! ### Marl pairs (R374) -/

/-- Lose Marl pair p with a cause: 1 lockstep, 2 watchdog, 3 self-test. The other pair takes over; both lost is
DEVICE_FAILED. An activation under way is abandoned (R359). -/
def Dev.marlLose (d : Dev) (p cause : Nat) : Dev :=
  if bitOf d.marlLost.toNat p then d else
  let d := { d with marlLost := d.marlLost ||| BitVec.ofNat 2 (2 ^ p), marlUp := d.marlUp &&& ~~~ BitVec.ofNat 2 (2 ^ p) }
  let d := d.safety 3 0x15 (p + cause * 2)
  let d := if d.upd.st == .deferred || d.upd.st == .activating then d.updAbandon 2 else d
  if d.marlLost = 3 then ({ d with takeover := none }).deviceFailed 2
  else { d with takeover := some p }

end Sys2Proof.Machine
end

