-- ==== Sys2Proof/Machine/GradeCodec.lean ====
section
/-! DEFINITION. The Grade code (R98 to R108, R116, R120): symbols, tables, block headers, encoding, decoding, fitting. -/
namespace Sys2Proof.Machine

/-! ### Symbols (R98, R99) -/

/-- RUN[i]. -/
def gradeRun : List Nat := [2, 3, 4, 5, 6, 7, 8, 10, 12, 16, 20, 24, 32, 48, 64, 128]

/-- Zero bytes at the head of a list. -/
def zeroRun : List Byte → Nat
  | [] => 0
  | b :: t => if b = 0 then zeroRun t + 1 else 0

/-- The largest i with RUN[i] ≤ r. -/
def runIndex (r : Nat) : Nat := (gradeRun.filter (· ≤ r)).length - 1

/-- The parse of a lane's bytes into symbols (R99); fuel: the number of bytes. -/
def gradeParse : Nat → List Byte → List Nat
  | 0, _ => []
  | _ + 1, [] => []
  | n + 1, b :: t =>
    let r := zeroRun (b :: t)
    if 2 ≤ r then (256 + runIndex r) :: gradeParse n ((b :: t).drop (gradeRun.getD (runIndex r) 1))
    else b.toNat :: gradeParse n t

/-- The bytes a symbol stands for. -/
def symBytes (s : Nat) : List Byte := if s < 256 then [BitVec.ofNat 8 s] else List.replicate (gradeRun.getD (s - 256) 0) 0

/-- Lane j of a block's bytes. -/
def lane (l : List Byte) (j : Nat) : List Byte := (l.drop (128 * j)).take 128

/-! ### Tables (R100 to R102) -/

/-- Code lengths of a record's bytes: L[s], s = 0 to 271. -/
def recLens (r : List Byte) : List Nat :=
  (List.range 272).map fun s => bits (r.getD (s / 2) 0).toNat (4 * (s % 2)) 4

/-- The record of code lengths (R100). -/
def mkRecord (lens : List Nat) : List Byte :=
  let a := (List.range 136).map fun i => BitVec.ofNat 8 (lens.getD (2 * i) 0 + 16 * lens.getD (2 * i + 1) 0)
  let b := a ++ natBytes 0x4C425447 4 ++ List.replicate 108 0
  b ++ natBytes (crc32c b).toNat 4 ++ List.replicate 4 0

/-- The first condition of R101 that a record breaks, as the detail reported; none when it is accepted. -/
def recordFault (r : List Byte) : Option Nat :=
  let lens := recLens r
  if leNat ((r.drop 248).take 4) ≠ (crc32c (r.take 248)).toNat then some 248
  else if leNat ((r.drop 136).take 4) ≠ 0x4C425447 then some 136
  else match (((List.range 108).map (140 + ·)) ++ ((List.range 4).map (252 + ·))).find? fun i => r.getD i 0 ≠ 0 with
    | some i => some i
    | none => match (List.range 272).find? fun s => 12 < lens.getD s 0 with
      | some s => some (s / 2)
      | none =>
        if lens.all (· = 0) then some 0xFFFE
        else if 4096 < (lens.map fun n => if n = 0 then 0 else 2 ^ (12 - n)).sum then some 0xFFFF
        else none

/-- The canonical code (R102): (symbol, length, code word), in order of assignment. -/
def canonCode (lens : List Nat) : List (Nat × Nat × Nat) :=
  ((List.range 12).foldl (fun (acc : List (Nat × Nat × Nat) × Nat) k =>
    let n := k + 1
    let r := (List.range 272).foldl (fun (a : List (Nat × Nat × Nat) × Nat) s =>
      if lens.getD s 0 = n then (a.1 ++ [(s, n, a.2)], a.2 + 1) else a) acc
    (r.1, r.2 * 2)) ([], 0)).1

/-- The n bits of v, most significant first. -/
def msbBits (v n : Nat) : List Bool := (List.range n).map fun i => v.testBit (n - 1 - i)

/-- The bits of a symbol; none where it has no code. -/
def symBits (code : List (Nat × Nat × Nat)) (s : Nat) : Option (List Bool) :=
  (code.find? fun e => e.1 = s).map fun e => msbBits e.2.2 e.2.1

/-! ### Block headers (R103 to R106) -/

/-- Kinds of header. -/
inductive GMode where
  | coded | zero | raw
  deriving DecidableEq, Repr

def GMode.code : GMode → Nat
  | .coded => 1
  | .zero => 2
  | .raw => 3

/-- HCHECK of header bytes 0 to 27 and the block's place. -/
def hcheck (low : List Byte) (ext blk : Nat) : BitVec 32 := crc32c (low.take 28 ++ natBytes (ext * 32 + blk) 8)

/-- A header granule. -/
def mkHeader (tensor : Nat) (gen : Bool) (m : GMode) (lanes : List Nat) (ext blk : Nat) : Gran :=
  let low := tensor % 2 ^ 11 * 2 ^ 179 + b2n gen * 2 ^ 178 + m.code * 2 ^ 176 +
    ((List.range 16).map fun j => lanes.getD j 0 % 2 ^ 11 * 2 ^ (11 * j)).sum
  BitVec.ofNat 256 (low + (hcheck (natBytes low 28) ext blk).toNat * 2 ^ 224)

/-- Pack a bit string into bytes: bit n at byte n div 8, position 7 - n mod 8 (R104). -/
def packBits (l : List Bool) : Nat → List Byte
  | 0 => []
  | n + 1 => BitVec.ofNat 8 ((List.range 8).map fun i => b2n (l.getD i false) * 2 ^ (7 - i)).sum :: packBits (l.drop 8) n

/-- The bit string of bytes. -/
def unpackBits (l : List Byte) : List Bool := l.flatMap fun b => msbBits b.toNat 8

/-! ### Encoding (R108) -/

/-- The result of encoding a block: length code, generation bit, stored granules. -/
structure Coded where
  len : Nat
  gen : Bool
  grans : List Gran
  deriving DecidableEq, Repr

/-- Encode a block of 64 granules with the active slot's lengths and generation, if the tensor has one. -/
def gradeEncode (act : Option (Bool × List Nat)) (tensor ext blk : Nat) (data : List Gran) : Coded :=
  if data.all (· = 0) then ⟨1, false, [mkHeader tensor false .zero [] ext blk]⟩ else
  match act with
  | none => ⟨63, false, data⟩
  | some (gen, lens) =>
    let bytes := gransBytes data
    let code := canonCode lens
    let lanes := (List.range 16).map fun j => (gradeParse 128 (lane bytes j)).mapM (symBits code)
    match lanes.mapM id with
    | none => ⟨63, false, data⟩
    | some ls =>
      let lb := ls.map fun l => (l.map List.length).sum
      let t := lb.sum
      let c := 1 + (t + 255) / 256
      if 62 < c then ⟨63, false, data⟩ else
      ⟨c, gen, mkHeader tensor gen .coded lb ext blk :: bytesGrans (packBits ls.flatten.flatten (32 * (c - 1))) (c - 1)⟩

/-! ### Checks and decoding (R105, R116) -/

/-- Fields of a header granule. -/
def hdrLane (h : Gran) (j : Nat) : Nat := bits h.toNat (11 * j) 11
def hdrMode (h : Gran) : Nat := bits h.toNat 176 2
def hdrGen (h : Gran) : Bool := bitOf h.toNat 178
def hdrTensor (h : Gran) : Nat := bits h.toNat 179 11

/-- The header part of R116 (what moves and fills check): HCHECK, reserved fields, MODE, GEN and LANE_LEN for the length code,
TENSOR, the size, the padding. st are the stored granules of the block with length code c. -/
def gradeHeaderOk (c tensor ext blk : Nat) (gen : Bool) (st : List Gran) : Bool :=
  let h := st.getD 0 0
  let t := ((List.range 16).map (hdrLane h)).sum
  decide (bits h.toNat 224 32 = (hcheck (natBytes h.toNat 28) ext blk).toNat) && decide (bits h.toNat 190 34 = 0) &&
  decide (hdrTensor h = tensor) && (hdrGen h == gen) &&
  if c = 1 then decide (hdrMode h = 2) && !hdrGen h && decide (t = 0)
  else decide (hdrMode h = 1) &&
    ((List.range 16).all fun j => decide (1 ≤ hdrLane h j ∧ hdrLane h j ≤ 1536)) && decide (1 + (t + 255) / 256 = c) &&
    ((unpackBits (gransBytes (st.drop 1))).drop t).all (· = false)

/-- Decode one lane's bits into bytes: none for an invalid code, a code word that runs past the end, or bytes past 128.
acc is the value of the n bits read of the current word. -/
def laneDecode (code : List (Nat × Nat × Nat)) (acc n have_ : Nat) : List Bool → Option (List Byte)
  | [] => if n = 0 ∧ have_ = 128 then some [] else none
  | b :: t =>
    let a := 2 * acc + b2n b
    match code.find? fun e => e.2.1 = n + 1 ∧ e.2.2 = a with
    | some e =>
      let bs := symBytes e.1
      if 128 < have_ + bs.length then none else (laneDecode code 0 0 (have_ + bs.length) t).map (bs ++ ·)
    | none => if 12 ≤ n + 1 then none else laneDecode code a (n + 1) have_ t

/-- Split a bit string by lane lengths. -/
def splitLanes (l : List Bool) : List Nat → List (List Bool)
  | [] => []
  | n :: t => l.take n :: splitLanes (l.drop n) t

/-- Decode the stored granules of a block with length code c: none is GRADE_MISMATCH (R116). lens is the table of the
descriptor's generation. -/
def gradeDecode (lens : List Nat) (c tensor ext blk : Nat) (gen : Bool) (st : List Gran) : Option (List Gran) :=
  if c = 0 then some (List.replicate 64 0)
  else if c = 63 then some st
  else if !gradeHeaderOk c tensor ext blk gen st then none
  else if c = 1 then some (List.replicate 64 0)
  else
    let h := st.getD 0 0
    let code := canonCode lens
    let ls := splitLanes (unpackBits (gransBytes (st.drop 1))) ((List.range 16).map (hdrLane h))
    ((ls.map (laneDecode code 0 0 0)).mapM id).map fun bs => bytesGrans bs.flatten 64

/-- Transit granules of a block (R106): header synthesised where none is stored. -/
def transit (c tensor ext blk : Nat) (st : List Gran) : List Gran :=
  if c = 0 then [mkHeader tensor false .zero [] ext blk]
  else if c = 63 then mkHeader tensor false .raw [] ext blk :: st
  else st

/-- w(c) (R106). -/
def wGran (c : Nat) : Nat := if c = 0 then 1 else if c = 63 then 65 else c

/-! ### Fitting (R120) -/

/-- Symbols counted over a block by the parse of R99. -/
def blockSyms (data : List Gran) : List Nat :=
  let bytes := gransBytes data
  (List.range 16).flatMap fun j => gradeParse 128 (lane bytes j)

/-- Insert an item into a list sorted by weight; after its equals. -/
def pmIns (v : Nat × List Nat) : List (Nat × List Nat) → List (Nat × List Nat)
  | [] => [v]
  | w :: t => if v.1 < w.1 then v :: w :: t else w :: pmIns v t

/-- Pair up neighbours. -/
def pmPair : List (Nat × List Nat) → List (Nat × List Nat)
  | a :: b :: t => (a.1 + b.1, a.2 ++ b.2) :: pmPair t
  | _ => []

/-- Lengths limited to 12 bits by package-merge over counts h[s] + 1, ties in ascending symbol order, a symbol before a
package of equal weight (DEDUCED, log 18). -/
def fitLens (h : List Nat) : List Nat :=
  let leaves := ((List.range 272).map fun s => (h.getD s 0 + 1, [s])).foldl (fun l v => pmIns v l) []
  let top := (List.range 11).foldl (fun l _ => (pmPair l).foldl (fun m v => pmIns v m) leaves) leaves
  let all := (top.take (2 * 272 - 2)).flatMap (·.2)
  (List.range 272).map fun s => all.count s

end Sys2Proof.Machine
end

