-- ==== Sys2Proof/Machine/MemRead.lean ====
section
/-! DEFINITION. Reading stored granules under the one-retry rule (R290 to R296), the poison table (R299 to R301), crossing
the bridge (R11), reading the blocks of an extent (R61 to R67, R90, R96, R117). -/
namespace Sys2Proof.Machine

/-! ### The poison table (R299 to R301) -/

/-- The valid entries. -/
def Dev.poisons (d : Dev) : List (Nat × Poison) := d.poison.filterMap fun e => e.2.map fun p => (e.1, p)

/-- Write entry i. -/
def Dev.setPoison (d : Dev) (i : Nat) (p : Option Poison) : Dev := { d with poison := d.poison.set i p none }

/-- The lowest invalid entry of 4,096. -/
def Dev.poisonFree (d : Dev) : Option Nat := (List.range 4096).find? fun i => (d.poison.get i none).isNone

/-- POISONED is 1 exactly while a GRANULE or BLOCK entry names the extent (R300); while the extent is reloaded it is not cleared
(R91). -/
def Dev.poisonBit (d : Dev) (x : Nat) : Dev :=
  if (d.desc x).st == .free then d else
  d.updDesc x fun e => { e with
    poisoned := (e.reload && e.poisoned) || d.poisons.any fun p => (p.2.kind == 1 || p.2.kind == 2) && p.2.ext == x }

/-- Enter a poison entry; a full table raises POISON_FULL instead (R301). -/
def Dev.poisonAdd (d : Dev) (p : Poison) : Dev :=
  match d.poisonFree with
  | none => d.event none 0x0B 0 0
  | some i => let d := d.setPoison i (some p); if p.kind = 1 ∨ p.kind = 2 then d.poisonBit p.ext else d

/-- Is the granule at a location under an entry. -/
def Dev.poisonAt (d : Dev) (s ga : Nat) : Bool := d.poisons.any fun p => p.2.set == s && p.2.gaddr == ga && p.2.kind ≠ 2

/-- Is block k of extent x (home or mirror) under a BLOCK entry. -/
def Dev.blockPoison (d : Dev) (x k : Nat) (mirror : Bool) : Bool :=
  d.poisons.any fun p => p.2.kind == 2 && p.2.ext == x && p.2.blk == k && p.2.mirror == mirror

/-- Remove the entries that q selects, keeping POISONED of extent x right. -/
def Dev.poisonDrop (d : Dev) (x : Nat) (q : Poison → Bool) : Dev :=
  let d := d.each d.poisons fun d p => if q p.2 then d.setPoison p.1 none else d
  d.poisonBit x

/-! ### Agents -/

/-- Who makes an access: SOURCE of R299, die, domain that logs, the master it is charged to (R254), the class with which its piece was
accepted at each instance, where the model has its pieces (R256), whether it is charged to no one, as maintenance is (R253), and the other
die that what is read must reach as well: that of a bed over both dies (R127). -/
structure Agent where
  src : Nat
  die : Nat
  dom : Nat
  master : Nat
  classes : List (Nat × Cls) := []
  unpaid : Bool := false
  also : Option Nat := none
  deriving DecidableEq, Repr

/-- What the granule is for the poison table: extent, block, granule in the block, mirror. -/
structure Owner where
  ext : Nat
  blk : Nat
  grn : Nat
  mirror : Bool
  deriving DecidableEq, Repr

/-! ### The bridge (R11) -/

/-- A granule crosses the bridge from die src into die dst: what arrives, or none for a lasting fault of the receiving die's common
logic. Its upsets are those of its key; a single-symbol error is corrected, an uncorrectable granule is sent once more. The
outcome depends on the error pattern alone, the code being linear. -/
def Dev.cross (d : Dev) (ph : Phys) (key src dst : Nat) (g : Gran) : Option Gran × Dev :=
  if src = dst then (some g, d) else
  let e := (ph.bridge.find? fun e => e.1 == key).elim ((0, 0) : Code × Code) (·.2)
  let ce := fun (d : Dev) => d.satInc row_LOAM_STATUS dst f_LOAM_STATUS_BRIDGE_CE
  match loamDecode e.1 with
  | (.clean, x) => (some (g ^^^ x), d)
  | (.ce _, x) => (some (g ^^^ x), ce d)
  | (.ue, _) => match loamDecode e.2 with
    | (.clean, x) => (some (g ^^^ x), d.log (commonDom dst) 0x03 false dst)
    | (.ce _, x) => (some (g ^^^ x), ce (d.log (commonDom dst) 0x03 false dst))
    | (.ue, _) => (none, (d.log (commonDom dst) 0x03 true dst).dieFence dst 2)

/-- Codes cross the bridge to die dst; what is copied unchecked is not judged there (R300). -/
def Dev.crossCodes (d : Dev) (ph : Phys) (src dst : Nat) : List (Nat × Code) → Option (List Code) × Dev
  | [] => (some [], d)
  | (key, c) :: t =>
    let (x, d) := if c = loamEncode (codeData c) then
        let (g, d) := d.cross ph key src dst (codeData c)
        (g.map loamEncode, d)
      else (some c, d)
    let (y, d) := d.crossCodes ph src dst t
    (match x, y with
      | some x, some y => some (x :: y)
      | _, _ => none, d)

/-- Granules with their keys cross in order: none where one does not arrive. Every one is sent. -/
def Dev.crossAll (d : Dev) (ph : Phys) (src dst : Nat) : List (Nat × Gran) → Option (List Gran) × Dev
  | [] => (some [], d)
  | (key, g) :: t =>
    let (x, d) := d.cross ph key src dst g
    let (y, d) := d.crossAll ph src dst t
    (match x, y with
      | some x, some y => some (x :: y)
      | _, _ => none, d)

/-! ### One granule (R290 to R296) -/

/-- The upsets that physics gives a read and its re-read of a granule. -/
def physAt (ph : Phys) (s ga : Nat) : Code × Code :=
  (ph.mem.find? fun e => e.1 == granKey s ga).elim (0, 0) (·.2)

/-- The physics of a second attempt at a step: every read meets what it gives a re-read. -/
def physAgain (ph : Phys) : Phys := { ph with mem := ph.mem.map fun e => (e.1, e.2.2, e.2.2) }

/-- DETAIL of a memory UE (R292). -/
def ueDetail (p : Place) (ga : Nat) : Nat := p.ch * 2 ^ 37 + b2n p.sub * 2 ^ 36 + ga % 2 ^ 36

/-- A lasting UE on metadata (R299, R300, R378): a META entry, which names the extent of a descriptor; METADATA_LOST for what is no
descriptor. -/
def Dev.metaUe (d : Dev) (a : Agent) (s ga : Nat) (x : Option Nat) (c : Code) : Dev :=
  match d.place s ga with
  | none => d
  | some p =>
    let i := instOfChan p.sub p.ch
    let d := ((d.log (instDom i) 0x01 true (ueDetail p ga)).poisonAdd {
      kind := 3, source := a.src, sub := p.sub, set := s, gaddr := ga, ext := x.getD 0, blk := 0, grn := 0,
      mirror := false, channel := p.ch, stamp := d.now (instDom i), domain := instDom i, syndrome := loamSyndrome c }).replayStart i
    if x.isSome then d else d.safety 2 0x14 (s + ga % 2 ^ 44 * 2 ^ 5)

/-- A lasting UE (R296): log, poison entry, reset with replay of the instance. -/
def Dev.lastingUe (d : Dev) (a : Agent) (s ga : Nat) (o : Option Owner) (c : Code) : Dev :=
  match d.place s ga with
  | none => d
  | some p =>
    let i := instOfChan p.sub p.ch
    let e : Poison := {
      kind := if o.isSome then 1 else 4, source := a.src, sub := p.sub, set := s, gaddr := ga,
      ext := o.elim 0 (·.ext), blk := o.elim 0 (·.blk), grn := o.elim 0 (·.grn), mirror := o.elim false (·.mirror),
      channel := p.ch, stamp := d.now (instDom i), domain := instDom i, syndrome := loamSyndrome c }
    ((d.log (instDom i) 0x01 true (ueDetail p ga)).poisonAdd e).replayStart i

/-- A granule that agent a reads again is charged to the master of the access and keeps its class (R291): the one its piece was accepted
with, else what the account gives it now, within it while that is positive, else best effort (R255, R256). -/
def Dev.retryCharge (d : Dev) (a : Agent) (s ga : Nat) : Dev :=
  match d.place s ga with
  | none => d
  | some p =>
    if a.unpaid then d else
    let i := instOfChan p.sub p.ch
    let d := d.accrue i
    let cls : Cls := match a.classes.find? fun c => c.1 == i with
      | some c => c.2
      | none => if 0 < (d.inst i).acct.get a.master 0 then .guar else .be
    if cls == .be then d.updSq s fun q => { q with be := q.be.upd a.master 0 (· + 1), beGran := q.beGran.upd a.master 0 (· + 1) }
    else (d.updInst i fun x => { x with acct := x.acct.upd a.master 0 (· - Int.ofNat acctUnit) }).updSq s fun q =>
      { q with within := q.within.upd a.master 0 (· + 1) }

/-- A granule stored as c leaves memory under the one-retry rule: none after a lasting UE, of which lost gives the effect. -/
def Dev.readCode (d : Dev) (a : Agent) (ph : Phys) (s ga : Nat) (c : Code) (lost : Code → Dev → Dev) : Option Gran × Dev :=
  let u := physAt ph s ga
  match loamDecode (c ^^^ u.1) with
  | (.clean, g) => (some g, d)
  | (.ce sym, g) => (some g, d.memCe s ga a.src sym)
  | (.ue, _) =>
    let d := d.retryCharge a s ga
    let dom := (d.place s ga).elim a.dom fun p => instDom (instOfChan p.sub p.ch)
    let det := (d.place s ga).elim 0 fun p => ueDetail p ga
    match loamDecode (c ^^^ u.2) with
    | (.clean, g) => (some g, d.log dom 0x01 false det)
    | (.ce sym, g) => (some g, (d.log dom 0x01 false det).memCe s ga a.src sym)
    | (.ue, _) => (none, lost (c ^^^ u.2) d)

/-- Read a granule at its home: none is POISON. -/
def Dev.readStored (d : Dev) (a : Agent) (ph : Phys) (s ga : Nat) (o : Option Owner) : Option Gran × Dev :=
  if d.setFenced s || d.poisonAt s ga then (none, d)
  else d.readCode a ph s ga (d.memGet s ga) fun c d => d.lastingUe a s ga o c

/-- Read a granule of metadata, of the descriptor of extent x where it is one, which the model keeps in its tables with right check bits
(log 13): false is lost. -/
def Dev.readMeta (d : Dev) (a : Agent) (ph : Phys) (s ga : Nat) (x : Option Nat) : Bool × Dev :=
  if d.setFenced s || d.poisonAt s ga then (false, d)
  else if (physAt ph s ga).1 = 0 then (true, d)
  else let (g, d) := d.readCode a ph s ga 0 fun c d => d.metaUe a s ga x c
       (g.isSome, d)

/-- Bring a granule that die src has under key to the agent's die, and to the other one that it must reach. -/
def Dev.bring (d : Dev) (a : Agent) (ph : Phys) (key src : Nat) (g : Gran) : Option Gran × Dev :=
  match d.cross ph key src a.die g, a.also with
  | r, none => r
  | (r, d), some k =>
    let (q, d) := d.cross ph key src k g
    (if q.isSome then r else none, d)

/-- Read a granule of memory and bring it to the agent's die: none is POISON. -/
def Dev.readGran (d : Dev) (a : Agent) (ph : Phys) (s ga : Nat) (o : Option Owner) : Option Gran × Dev :=
  match d.readStored a ph s ga o with
  | (none, d) => (none, d)
  | (some g, d) => d.bring a ph (granKey s ga) (d.setDie s) g

/-- Read granules in order, every one of them; POISON if one is lost. -/
def Dev.readEach (d : Dev) (a : Agent) (ph : Phys) (s : Nat) : List (Nat × Owner) → Option (List Gran) × Dev
  | [] => (some [], d)
  | (ga, o) :: t =>
    let (g, d) := d.readGran a ph s ga (some o)
    let (r, d) := d.readEach a ph s t
    (match g, r with
      | some g, some l => some (g :: l)
      | _, _ => none, d)

/-- Read granules: a read that covers a poisoned one is POISON without memory access (R300). -/
def Dev.readGrans (d : Dev) (a : Agent) (ph : Phys) (s : Nat) (l : List (Nat × Owner)) : Option (List Gran) × Dev :=
  if l.any fun e => d.poisonAt s e.1 then (none, d) else d.readEach a ph s l

/-! ### Blocks (R61 to R67) -/

/-- First granule of a home or a mirror in its set. -/
def Home.start (h : Home) : Nat := if h.sub then h.loc * 128 else h.loc * 2048
/-- First granule of block k (R62, R63). -/
def Desc.blkAt (e : Desc) (h : Home) (k : Nat) : Nat := h.start + if h.sub then e.off k else 64 * k

/-- The place of a mirror as a home. -/
def Desc.mirrorHome (e : Desc) : Option Home := e.mirror.map fun m => ⟨true, m.1, m.2, e.mirrorSlabs⟩

/-- Locations of granules [from, from + n) of block k at a home or mirror. -/
def Desc.locs (e : Desc) (x : Nat) (h : Home) (mirror : Bool) (k start n : Nat) : List (Nat × Owner) :=
  (List.range n).map fun i => (e.blkAt h k + start + i, ⟨x, k, start + i, mirror⟩)

/-- The table of a generation: none where the slot is LOST or EMPTY. -/
def Dev.tableOf (d : Dev) (t : Nat) (gen : Bool) : Option (List Nat) :=
  let g := (d.tensor t).slot gen
  if g.st == .active || g.st == .retiring then some g.lens else none

/-- DETAIL of a GRADE_MISMATCH (R292). -/
def gradeDetail (x k : Nat) : Nat := x * 2 ^ 17 + k * 2 ^ 12

/-- A GRADE_MISMATCH that passed at the second attempt (R117). -/
def Dev.gradeOnce (d : Dev) (a : Agent) (x k : Nat) : Dev :=
  (d.log a.dom 0x05 false (gradeDetail x k)).satInc row_GRD_ERR_CNT 0 f_GRD_ERR_CNT_MISMATCH_TRANSIENT

/-- A lasting GRADE_MISMATCH of block k of extent x at a home or mirror (R117): log, count, BLOCK entry. -/
def Dev.gradeLost (d : Dev) (a : Agent) (x k : Nat) (h : Home) (mirror : Bool) : Dev :=
  let d := (d.log a.dom 0x05 true (gradeDetail x k)).satInc row_GRD_ERR_CNT 0 f_GRD_ERR_CNT_MISMATCH_LASTING
  let ga := (d.desc x).blkAt h k
  d.poisonAdd {
    kind := 2, source := a.src, sub := h.sub, set := h.set, gaddr := ga, ext := x, blk := k, grn := 0,
    mirror := mirror, channel := (d.place h.set ga).elim 0 (·.ch), stamp := d.now a.dom, domain := stampDom a.dom, syndrome := 0 }

/-- Read the stored granules of block k of extent x at a home or mirror and check them, with one re-read (R117): what the check
makes of them, or none for POISON. -/
def Dev.checkedBlock {α : Type} (d : Dev) (a : Agent) (ph : Phys) (x k : Nat) (h : Home) (mirror : Bool)
    (check : List Gran → Option α) : Option α × Dev :=
  let locs := (d.desc x).locs x h mirror k 0 (lenG ((d.desc x).lenOf k))
  if d.blockPoison x k mirror then (none, d) else
  match d.readGrans a ph h.set locs with
  | (none, d) => (none, d)
  | (some st, d) => match check st with
    | some r => (some r, d)
    | none =>
      match (d.each locs fun d l => d.retryCharge a h.set l.1).readGrans a (physAgain ph) h.set locs with
      | (none, d) => (none, d)
      | (some st, d) => match check st with
        | some r => (some r, d.gradeOnce a x k)
        | none => (none, d.gradeLost a x k h mirror)

/-- The stored granules of block k of extent x as moves, fills and wire reads take them: the header is checked, no lane is decoded
(R96, R123). -/
def Dev.storedRead (d : Dev) (a : Agent) (ph : Phys) (x k : Nat) (h : Home) (mirror : Bool) : Option (List Gran) × Dev :=
  let e := d.desc x
  let c := e.lenOf k
  d.checkedBlock a ph x k h mirror fun st =>
    if c = 0 ∨ c = 63 ∨ gradeHeaderOk c e.tensor x k (e.genOf k) st then some st else none

/-- Read granules [start, start + n) of block k of extent x from a home or mirror, decoded (R67, R107, R116, R117). -/
def Dev.readBlockAt (d : Dev) (a : Agent) (ph : Phys) (x k start n : Nat) (h : Home) (mirror : Bool) : Option (List Gran) × Dev :=
  let e := d.desc x
  let c := e.lenOf k
  if c = 0 then (some (List.replicate n 0), d)
  else if c = 63 then (if d.blockPoison x k mirror then (none, d) else d.readGrans a ph h.set (e.locs x h mirror k start n))
  else match (if c = 1 then some [] else d.tableOf e.tensor (e.genOf k)) with
    | none => (none, d)
    | some lens => d.checkedBlock a ph x k h mirror fun st =>
      (gradeDecode lens c e.tensor x k (e.genOf k) st).map fun l => (l.drop start).take n

/-- Read the stored granules of block k of extent x at a home or mirror without checking them. -/
def Dev.rawRead (d : Dev) (a : Agent) (ph : Phys) (x k : Nat) (h : Home) (mirror : Bool) : Option (List Gran) × Dev :=
  d.checkedBlock a ph x k h mirror some

/-- Does a read of granules [start, start + n) of block k meet a poison entry or a fence at a home or mirror (R300). -/
def Dev.meets (d : Dev) (x k start n : Nat) (h : Home) (mirror : Bool) : Bool :=
  let e := d.desc x
  d.blockPoison x k mirror || d.setFenced h.set ||
    (if e.lenOf k = 63 then e.locs x h mirror k start n else e.locs x h mirror k 0 (lenG (e.lenOf k))).any fun l => d.poisonAt h.set l.1

/-- Is any granule of block k poisoned at a home or mirror. -/
def Dev.blockBad (d : Dev) (x k : Nat) (h : Home) (mirror : Bool) : Bool :=
  d.blockPoison x k mirror || d.setFenced h.set ||
    ((d.desc x).locs x h mirror k 0 (lenG ((d.desc x).lenOf k))).any fun l => d.poisonAt h.set l.1

/-- The plan of an extent, through its region. -/
def Dev.planOfExt (d : Dev) (x : Nat) : Option (Nat × Plan) :=
  d.plans.find? fun p => p.2.st ≠ .none_ && p.2.region == (d.desc x).region

/-- WEIGHT_POISON to the FM and to the host of the plan's context (R90). -/
def Dev.weightPoison (d : Dev) (x k : Nat) : Dev :=
  let p := d.planOfExt x
  let data := x + k * 2 ^ 32 + p.elim 0 (·.1) * 2 ^ 40
  let d := d.event none 0x08 0 data
  match p with
  | none => d
  | some (_, pl) => d.event (some (d.ctx pl.ctx).port) 0x08 (d.handle pl.ctx) data

/-- Does a read of granules of block k of extent x complete with POISON without memory access (R300): the extent is reloaded (R91), or what
it reads meets an entry and no usable mirror serves it (R90). -/
def Dev.denied (d : Dev) (x k start n : Nat) : Bool :=
  let e := d.desc x
  if e.reload then true else
  e.lenOf k ≠ 0 && d.meets x k start n e.home false &&
    !(e.ro && e.mirrorHome.elim false fun m => !d.meets x k start n m true)

/-- Serve a read of block k of extent x, which rd makes at a home or mirror (R90): of a read-only extent with a usable mirror the
mirror answers where the home's block has a lasting error. An extent being reloaded answers POISON (R91). -/
def Dev.served {α : Type} (d : Dev) (x k : Nat) (rd : Dev → Home → Bool → Option α × Dev) : Option α × Dev :=
  let e := d.desc x
  let h := e.home
  if e.reload then (none, d) else
  let known := e.ro && e.mirror.isSome && d.blockBad x k h false
  let (r, d1) := if known then (none, d) else rd d h false
  match r with
  | some l => (some l, d1)
  | none =>
    if !e.ro then (none, d1) else
    let news := d1.poison ≠ d.poison
    match e.mirrorHome with
    | none => (none, if news then d1.weightPoison x k else d1)
    | some m =>
      let before := d1.poison
      let (r2, d2) := if d1.blockBad x k m true then (none, d1) else rd d1 m true
      match r2 with
      | some l => (some l, d2)
      | none => (none, if news || d2.poison ≠ before then d2.weightPoison x k else d2)

/-- Read granules of block k of extent x by window address or by the device itself; a block never written reads as zeros without
memory access (R67). -/
def Dev.readBlock (d : Dev) (a : Agent) (ph : Phys) (x k start n : Nat) : Option (List Gran) × Dev :=
  if (d.desc x).lenOf k = 0 && !(d.desc x).reload then (some (List.replicate n 0), d)
  else d.served x k fun d h mirror => d.readBlockAt a ph x k start n h mirror

/-! ### Blocks in transit form away from their home (R106, R116, R117) -/

/-- Block k of extent x as its checks see it now. -/
def Dev.blkId (d : Dev) (x k : Nat) : BlkId :=
  let e := d.desc x
  ⟨x, k, e.tensor, e.genOf k, e.lenOf k⟩

/-- Open a block in transit form: its data, or none where R116 finds a mismatch. -/
def BlkId.opened (i : BlkId) (lens : List Nat) (l : List Gran) : Option (List Gran) :=
  if i.len = 0 ∨ i.len = 63 then
    if l.headD 0 == (transit i.len i.tensor i.ext i.blk []).headD 0 then
      some (if i.len = 0 then List.replicate 64 0 else l.drop 1)
    else none
  else gradeDecode lens i.len i.tensor i.ext i.blk i.gen l

/-- The second attempt at a block that failed its checks away from its home: it is read once more there (R117); a read-only extent's
mirror answers where the home has a lasting error (R90). -/
def Dev.homeAgain (d : Dev) (a : Agent) (ph : Phys) (x k : Nat) : Option (List Gran) × Dev :=
  let e := d.desc x
  let i := d.blkId x k
  let mirrored := fun (d : Dev) => if e.ro then d.readBlock a ph x k 0 64 else (none, d)
  if e.reload then (none, d)
  else if i.len = 0 then (some (List.replicate 64 0), d.gradeOnce a x k) else
  match d.rawRead a ph x k e.home false with
  | (none, d) => mirrored d
  | (some st, d) =>
    match (if i.len = 63 then some st else if i.len = 1 then i.opened [] st
        else (d.tableOf i.tensor i.gen).bind fun lens => i.opened lens st) with
    | some l => (some l, d.gradeOnce a x k)
    | none => mirrored (d.gradeLost a x k e.home false)

/-- A decoder opens a block in transit form: POISON where its table is lost or no attempt passes (R114, R117). -/
def Dev.openBlock (d : Dev) (a : Agent) (ph : Phys) (i : BlkId) (l : List Gran) : Option (List Gran) × Dev :=
  match (if i.coded then d.tableOf i.tensor i.gen else some []) with
  | none => (none, d)
  | some lens => match i.opened lens l with
    | some g => (some g, d)
    | none => d.homeAgain a ph i.ext i.blk

/-! ### The table caches (R111, R114) -/

/-- The place of a partition's fixed metadata (R72): granule off of it in the metadata set of the partition's lowest group, after the
descriptors and the journal (log 13); none where its slice ends. -/
def Strat.fixedAt (g : Strat) (grp : Nat) : Nat := 2 * g.eg grp + g.journalCap grp
def Dev.fixedPlace (d : Dev) (part off : Nat) : Option (Nat × Nat) :=
  d.strat.bind fun g => (d.partMeta part).bind fun s => (d.set? s).bind fun S =>
    if g.fixedAt S.group + off < g.reserveSlots S.group * 2048 then some (s, g.fixedAt S.group + off) else none

/-- Offset of the record of a table in the fixed metadata. -/
def tableOff (t : Nat) (gen : Bool) : Nat := 16 * t + 8 * b2n gen

/-- Read a table's record from the table store, eight granules, as agent a: its granules leave the store checked (R288). -/
def Dev.recordRead (d : Dev) (a : Agent) (ph : Phys) (p t : Nat) (gen : Bool) : Dev :=
  match d.fixedPlace p (tableOff t gen) with
  | none => d
  | some (s, ga) => d.each (List.range 8) fun d i => ((d.retryCharge a s (ga + i)).readMeta a ph s (ga + i) none).2

/-- A decoder (site 2 × cluster + decoder, below 48) or an encoder (48 + encoder) takes a table: from its cache, else its record is read
and takes the place of the entry used longest ago (DESIGN CHOICE, log 44: the replacement is not given). A decoder's miss is counted, and
its read charged to the bed's master. -/
def Dev.tableUse (d : Dev) (ph : Phys) (site t : Nat) (gen : Bool) : Dev :=
  let e := (t, gen, ((d.tensor t).slot gen).serial)
  let l := d.tcache.get site []
  let d := { d with tcache := d.tcache.set site ((e :: l.filter (· ≠ e)).take (if site < 48 then 64 else 32)) [] }
  if l.contains e || 48 ≤ site then d else
  let b := (d.bedOfCluster (site / 2)).getD 0
  (d.wrapInc row_GRD_DEC_CNT (site / 2) f_GRD_DEC_CNT_MISS).recordRead
    { src := 1, die := dieOfCluster (site / 2), dom := clayDom (site / 2), master := bedMaster b } ph (d.bedPart b) t gen

/-- Granules of a block that a move takes one by one where its block cannot be checked: a poisoned one as it is stored, another
checked and corrected (R288, R300). -/
def Dev.relay (d : Dev) (a : Agent) (ph : Phys) (s : Nat) : List (Nat × Owner) → List Code × Dev
  | [] => ([], d)
  | (ga, o) :: t =>
    let (r, d) := d.readStored a ph s ga (some o)
    let c := r.elim (d.memGet s ga) loamEncode
    let (l, d) := d.relay a ph s t
    (c :: l, d)

/-- The stored bits of a granule whose block has been read: corrected where they can be. -/
def Dev.lastSeen (d : Dev) (s ga : Nat) : Code :=
  let c := d.memGet s ga
  match loamDecode c with
  | (.ue, _) => c
  | (_, g) => if d.poisonAt s ga then c else loamEncode g

/-- The stored codes of block k of extent x, on the agent's die, for an explicit move, or a repack, which copies a block with an entry
unchecked (R300, R425, R427): none where they do not arrive. -/
def Dev.carryBlock (d : Dev) (a : Agent) (ph : Phys) (x k : Nat) (repack : Bool) : Option (List Code) × Dev :=
  let e := d.desc x
  let locs := e.locs x e.home false k 0 (lenG (e.lenOf k))
  let there := fun (d : Dev) (l : List Code) => d.crossCodes ph (d.setDie e.set) a.die ((locs.map fun o => granKey e.set o.1).zip l)
  let raw := fun (d : Dev) => locs.map fun l => d.memGet e.set l.1
  if d.blockPoison x k false || (repack && locs.any fun l => d.poisonAt e.set l.1) then there d (raw d)
  else if locs.any fun l => d.poisonAt e.set l.1 then
    let (l, d) := d.relay a ph e.set locs
    there d l
  else match d.storedRead a ph x k e.home false with
    | (some st, d) => (some (st.map loamEncode), d)
    | (none, d) => there d (if d.blockPoison x k false then raw d else locs.map fun l => d.lastSeen e.set l.1)

end Sys2Proof.Machine
end

