-- ==== Sys2Proof/Machine/Access.lean ====
section
/-! DEFINITION. Writing extents (R61 to R71, R108 to R110, R300, R425), ages and heat (R82, R83), translation (R48 to R55,
R424), reads and writes by window address, context rings (R335). -/
namespace Sys2Proof.Machine

/-! ### Writing blocks -/

/-- A write of one granule of block blk under a byte mask. -/
structure GW where
  blk : Nat
  grn : Nat
  data : Gran
  mask : BitVec 32
  deriving DecidableEq, Repr

/-- The bit mask of a byte mask. -/
def byteMask (m : BitVec 32) : Gran :=
  BitVec.ofNat 256 (((List.range 32).map fun i => if m.getLsbD i then 255 * 2 ^ (8 * i) else 0).sum)

/-- Merge written bytes into a granule. -/
def mergeGran (old new : Gran) (m : BitVec 32) : Gran := (old &&& ~~~ byteMask m) ||| (new &&& byteMask m)

/-- Every byte of a granule. -/
def fullMask : BitVec 32 := ~~~ 0

/-- Granule g of a block with the writes applied. -/
def overlay (ws : List GW) (g : Nat) (old : Gran) : Gran :=
  ws.foldl (fun o w => if w.grn = g then mergeGran o w.data w.mask else o) old

/-- A block to be stored: index, new length code and generation, granules to write (index in the block, data). -/
structure BlkW where
  k : Nat
  len : Nat
  gen : Bool
  grans : List (Nat × Gran)
  deriving DecidableEq, Repr

/-- The ACTIVE slot of a tensor with its lengths. -/
def Dev.actSlot (d : Dev) (t : Nat) : Option (Bool × List Nat) :=
  let x := d.tensor t
  if x.a.st == .active then some (false, x.a.lens) else if x.b.st == .active then some (true, x.b.lens) else none

/-- Count a coded block for a running fit of its tensor: ZERO blocks are not counted (R119). -/
def Dev.fitCount (d : Dev) (t : Nat) (data : List Gran) : Dev :=
  match (d.tensor t).fit with
  | none => d
  | some (c, left, inst, addr, n) =>
    if left = 0 || data.all (· = 0) then d else
    let cs := (blockSyms data).foldl (fun m s => Tab.upd m s 0 (· + 1)) (d.tensor t).counts
    d.updTensor t fun x => { x with fit := some (c, left - 1, inst, addr, n), counts := cs }

/-- The encoder of extent x (R109). -/
def Dev.encoderOf (d : Dev) (x : Nat) : Nat := 2 * d.setDie (d.desc x).set + x % 2

/-- Encode a block of extent x (R108, R109); what it stores is counted when it is stored. -/
def Dev.encode (d : Dev) (ph : Phys) (x k : Nat) (data : List Gran) (isPart : Bool) : Coded × Dev :=
  let e := d.desc x
  let act := d.actSlot e.tensor
  let enc := d.encoderOf x
  let d := if isPart then d.wrapInc row_GRD_ENC_CNT enc f_GRD_ENC_CNT_PARTIAL else d
  let d := match act with
    | some s => if data.all (· = 0) then d else d.tableUse ph (48 + enc) e.tensor s.1
    | none => d
  (gradeEncode act e.tensor x k data, d.fitCount e.tensor data)

/-- Count a block of codec extent x that is stored CODED or raw (R125). -/
def Dev.encodeCount (d : Dev) (x len : Nat) : Dev :=
  if len = 63 then d.wrapInc row_GRD_ENC_CNT (d.encoderOf x) f_GRD_ENC_CNT_RAW
  else if 2 ≤ len then d.wrapInc row_GRD_ENC_CNT (d.encoderOf x) f_GRD_ENC_CNT_CODED
  else d

/-- The agent as it acts at the home of extent x, behind the bridge. -/
def Dev.atHome (d : Dev) (a : Agent) (x : Nat) : Agent := { a with die := d.setDie (d.desc x).set }

/-- What block k of extent x becomes under the writes ws: none is POISON, not applied (R68, R110, R300). -/
def Dev.prepBlock (d : Dev) (a : Agent) (ph : Phys) (x k : Nat) (ws : List GW) : Option BlkW × Dev :=
  let e := d.desc x
  let h := e.home
  let c := e.lenOf k
  let hit := (List.range 64).filter fun g => ws.any fun w => w.grn == g
  let full := decide (hit.length = 64) && ws.all fun w => w.mask == fullMask
  if e.codec then
    if !full && d.blockBad x k h false then (none, d) else
    let (old, d) := if full || c ≤ 1 then (some (List.replicate 64 0), d) else d.readBlockAt a ph x k 0 64 h false
    match old with
    | none => (none, d)
    | some old =>
      let data := (List.range 64).map fun g => overlay ws g (old.getD g 0)
      let (r, d) := d.encode ph x k data (!full)
      (some ⟨k, r.len, r.gen, (List.range r.grans.length).zip r.grans⟩, d)
  else
    let part := hit.filter fun g => ws.any fun w => w.grn == g && w.mask ≠ fullMask
    if c = 0 then (some ⟨k, 63, false, (List.range 64).map fun g => (g, overlay ws g 0)⟩, d) else
    let (olds, d) := d.readGrans a ph h.set (part.map fun g => (e.blkAt h k + g, ⟨x, k, g, false⟩))
    match olds with
    | none => (none, d)
    | some olds => (some ⟨k, 63, false, hit.map fun g =>
        (g, overlay ws g (if part.contains g then olds.getD (part.idxOf g) 0 else 0))⟩, d)

/-- Prepare every block; POISON if one cannot be written. -/
def Dev.prepBlocks (d : Dev) (a : Agent) (ph : Phys) (x : Nat) (ws : List GW) : List Nat → Option (List BlkW) × Dev
  | [] => (some [], d)
  | k :: t =>
    let (b, d) := d.prepBlock a ph x k (ws.filter fun w => w.blk == k)
    match b with
    | none => (none, d)
    | some b =>
      let (r, d) := d.prepBlocks a ph x ws t
      (r.map (b :: ·), d)

/-- The descriptor's length codes and generations after storing blocks. -/
def Desc.store (e : Desc) (bs : List BlkW) : Desc := bs.foldl (fun e b => e.setLen b.k b.len b.gen) e

/-- STORED counters for a block that changes from (c, g) to (c', g') of tensor t (R118). -/
def Dev.storedMove (d : Dev) (t c : Nat) (g : Bool) (c' : Nat) (g' : Bool) : Dev :=
  let coded := fun c => decide (2 ≤ c ∧ c ≤ 62)
  let d := if coded c' then d.storedInc t g' else d
  if coded c then d.storedDec t g else d

/-- The stored codes of block k as it will be: what lies there now where the code stays, overlaid by what is written. The agent is on the
die of the home: nothing crosses. -/
def Dev.newCodes (d : Dev) (a : Agent) (ph : Phys) (x k : Nat) (b : Option BlkW) : List Code × Dev :=
  match b with
  | none =>
    let (old, d) := d.carryBlock a ph x k true
    (old.getD [], d)
  | some b =>
    if b.grans.length = lenG b.len then (b.grans.map fun g => loamEncode g.2, d) else
    let (o, d) := d.carryBlock a ph x k true
    let old := o.getD []
    ((List.range (lenG b.len)).map fun i => match b.grans.find? fun g => g.1 == i with
      | some g => loamEncode g.2
      | none => old.getD i 0, d)

/-- The stored codes of several blocks, of which bs are written. -/
def Dev.newBlocks (d : Dev) (a : Agent) (ph : Phys) (x : Nat) (bs : List BlkW) : List Nat → List (Nat × List Code) × Dev
  | [] => ([], d)
  | k :: t =>
    let (c, d) := d.newCodes a ph x k (bs.find? fun b => b.k == k)
    let (l, d) := d.newBlocks a ph x bs t
    ((k, c) :: l, d)

/-- Write codes from a granule address on. -/
def Dev.putCodes (d : Dev) (s ga : Nat) : List Code → Dev
  | [] => d
  | c :: t => (d.memPut s ga c).putCodes s (ga + 1) t

/-- Remove LOCATION entries that a write covers (R300). -/
def Dev.dropLocations (d : Dev) (s : Nat) (gas : List Nat) : Dev :=
  d.each d.poisons fun d p =>
    if p.2.kind == 4 && p.2.set == s && gas.contains p.2.gaddr then d.setPoison p.1 none else d

/-- Carry the poison entries of extent x from home h (descriptor e) to home h' (descriptor e'), leaving LOCATION entries at
source locations that written does not cover (R300, R425). -/
def Dev.carryPoison (d : Dev) (x : Nat) (_e e' : Desc) (h h' : Home) (written : List Nat) : Dev :=
  d.each (d.poisons.filter fun p => (p.2.kind == 1 || p.2.kind == 2) && p.2.ext == x && !p.2.mirror) fun d p =>
    let ga := e'.blkAt h' p.2.blk + p.2.grn
    if p.2.set == h'.set && p.2.gaddr == ga then d else
    let src := p.2
    let ch := (d.place h'.set ga).elim 0 (·.ch)
    let d := d.setPoison p.1 (some { src with sub := h'.sub, set := h'.set, gaddr := ga, channel := ch })
    if h.set == h'.set && written.contains src.gaddr then d
    else d.poisonAdd { src with kind := 4, ext := 0, blk := 0, grn := 0 }

/-- Entries of blocks that are written: of a codec block all, of a raw block those of the granules written (R300). -/
def Dev.dropWritten (d : Dev) (x : Nat) (codec : Bool) (bs : List BlkW) : Dev :=
  d.poisonDrop x fun p => (p.kind == 1 || p.kind == 2) && p.ext == x && !p.mirror &&
    bs.any fun b => b.k == p.blk && (codec || b.grans.any fun g => g.1 == p.grn)

/-- Store prepared blocks of extent x at its home (R62 to R66, R71): status SUCCESS or NOSPACE. A repack to a new run is done within the
write, with a RELEASE record alone (DESIGN CHOICE, log 46: R427 does not say whether it goes through the steps of R77). -/
def Dev.storeBlocks (d : Dev) (a : Agent) (ph : Phys) (x : Nat) (bs : List BlkW) : Nat × Dev :=
  let e := d.desc x
  let e' := e.store bs
  let h := e.home
  let same := bs.all fun b => e.lenOf b.k == b.len
  let fin := fun (d : Dev) => d.each bs fun d b =>
    let d := d.storedMove e.tensor (e.lenOf b.k) (e.genOf b.k) b.len b.gen
    if e.codec then d.encodeCount x b.len else d
  if !h.sub || same then
    let d := d.dropWritten x e.codec bs
    let d := d.each bs fun d b => d.each b.grans fun d g => d.memWrite h.set (e'.blkAt h b.k + g.1) g.2
    let d := d.dropLocations h.set (bs.flatMap fun b => b.grans.map fun g => e'.blkAt h b.k + g.1)
    (0, fin (d.setDesc x { e' with poisoned := (d.desc x).poisoned }))
  else
    let need := (e'.used + 127) / 128
    let fits := need ≤ h.slabs
    match (if fits then some h else d.allocSub h.set need) with
    | none => (0x08, d)
    | some h' =>
      let k0 := if fits then (bs.map (·.k)).foldl min 31 else 0
      let (codes, d) := d.newBlocks (d.atHome a x) ph x bs ((List.range 32).filter fun k => k0 ≤ k)
      let written := codes.flatMap fun c => (List.range c.2.length).map fun i => e'.blkAt h' c.1 + i
      let d := d.dropWritten x e.codec bs
      let d := d.each codes fun d c => d.putCodes h'.set (e'.blkAt h' c.1) c.2
      let d := d.dropLocations h'.set written
      let d := d.carryPoison x e e' h h' written
      let d := d.setDesc x { e' with loc := h'.loc, slabs := h'.slabs, poisoned := (d.desc x).poisoned }
      let d := if fits then d else
        match d.groupOf x with
        | none => d
        | some g => ((d.jAppend g ⟨2, x, h, h', 0, 0, false⟩).jRetire g x).pressureCheck h.set
      (0, fin (d.poisonBit x))

/-- The data of writes to extent x brought to the die of its home. -/
def Dev.bringWrites (d : Dev) (a : Agent) (ph : Phys) (x : Nat) (ws : List GW) : Option (List GW) × Dev :=
  let h := (d.desc x).home
  let (l, d) := d.crossAll ph a.die (d.setDie h.set) (ws.map fun w => (granKey h.set (h.start + 64 * w.blk + w.grn), w.data))
  (l.map fun l => (ws.zip l).map fun p => { p.1 with data := p.2 }, d)

/-- Apply granule writes to extent x at its home: SUCCESS, POISON, NOSPACE, or RO_WRITE where its CLASS has become 1 since the access was
translated (R59); with a failure the extent is unchanged. -/
def Dev.writeExtent (d : Dev) (a : Agent) (ph : Phys) (x : Nat) (ws : List GW) : Nat × Dev :=
  if (d.desc x).ro then (0x05, d) else
  if d.setFenced (d.desc x).set then (0x07, d) else
  match d.bringWrites a ph x ws with
  | (none, d) => (0x07, d)
  | (some ws, d) =>
    let a := d.atHome a x
    match d.prepBlocks a ph x ws ((ws.map (·.blk)).dedup) with
    | (none, d) => (0x07, d)
    | (some bs, d) => d.storeBlocks a ph x bs

/-! ### Ages and heat (R82, R83) -/

/-- Queue a move of an extent that is not queued or moving already. -/
def Dev.queueMove (d : Dev) (m : Move) : Dev := { d with moves := d.moves ++ [m] }
def Dev.hasMove (d : Dev) (x : Nat) : Bool := d.moves.any fun m => m.ext == x

/-- Is a promotion of extent x queued, or in flight and not committed (R85). -/
def Dev.promoting (d : Dev) (x : Nat) : Bool :=
  d.moves.any fun m => m.ext == x && (m.kind == .promoteAuto || m.kind == .promoteCmd) && decide (m.step < 5)

/-- AGE and TOUCHED of a promotion (R77 step 5, R85). -/
def Dev.promoted (d : Dev) (x : Nat) : Dev := d.updDesc x fun e => { e with age := 0, touched := true }

/-- May extent x be moved automatically: data class, not poisoned, not being reloaded (R91, R427). -/
def Desc.movable (e : Desc) : Bool := !e.ro && !e.poisoned && !e.reload

/-- An automatic promotion (R83, R211, R427) under the race rule (R85): with a promotion under way it is complete when that commits;
an extent in topsoil is not moved; else it is queued, behind a demotion in flight. -/
def Dev.queuePromote (d : Dev) (x : Nat) : Dev :=
  let e := d.desc x
  if d.fld row_LSS_CTL 0 f_LSS_CTL_PROMOTE_EN = 0 || !e.movable || d.promoting x then d
  else if !e.sub && e.st ≠ .moving then d.promoted x
  else d.queueMove {
    ext := x, kind := .promoteAuto, want := none, pin := false, cmd := none, engine := none, src := e.home, dst := e.home,
    step := 0, since := 0, journal := 0 }

/-- The sweeping engine of a group: the lowest-numbered that R74 gives it (R82). -/
def Dev.sweeper (d : Dev) (grp : Nat) : Option Nat := (d.enginesOf grp).head?

/-- Key of the heat entry of extent x in engine j's table; entries of a full table are not made. -/
def heatKey (j x : Nat) : Nat := j * 2 ^ 28 + x
def Dev.heatUsed (d : Dev) (j : Nat) : Nat := (d.heat.filter fun h => h.1 / 2 ^ 28 == j).length

/-- An access to extent x by window address or by a tensor operation is counted (R83), in the table of its group's sweeping engine
(DESIGN CHOICE, log 42: where several engines serve the group the spec does not say in whose). -/
def Dev.heatUp (d : Dev) (x : Nat) : Dev :=
  let e := d.desc x
  if !e.sub || e.ro then d else
  match (d.groupOf x).bind d.sweeper with
  | none => d
  | some j =>
    let key := heatKey j x
    let n := d.heat.get key 0
    if n = 0 && 65536 ≤ d.heatUsed j then d else
    let d := { d with heat := d.heat.set key (n + 1) 0 }
    let t := d.fld row_LSS_CTL 0 f_LSS_CTL_PROMOTE_THRESHOLD
    if t ≠ 0 && t ≤ n + 1 then d.queuePromote x else d

/-- An access from a port or by a tensor operation: TOUCHED set (R82), counted. -/
def Dev.touch (d : Dev) (x : Nat) : Dev := (d.updDesc x fun e => { e with touched := true }).heatUp x

/-! ### Translation (R48 to R55, R424) -/

/-- Rights bits: R 1, W 2, X 4, P 8 (as the rights ceiling of CREATE_CTX numbers them). -/
def rR : Nat := 1
def rW : Nat := 2
def rX : Nat := 4
def rP : Nat := 8

/-- Extents of a region: its map (R53). -/
def Rgn.count (r : Rgn) : Nat := (r.runs.map (·.2)).sum
def mapAt : List (Nat × Nat) → Nat → Option Nat
  | [], _ => none
  | (f, n) :: t, i => if i < n then some (f + i) else mapAt t (i - n)
def mapList (l : List (Nat × Nat)) : List Nat := l.flatMap fun r => (List.range r.2).map (r.1 + ·)

/-- Does a run of slabs lie in a subsoil set. -/
def Dev.runIn (d : Dev) (s slab n : Nat) : Bool := (d.set? s).elim false fun S => S.sub && decide (slab + n ≤ S.slabs)

/-- The invariants of R57 that a descriptor in the table meets; a mirror stays named while its extent is reloaded (R91). -/
def Dev.descOk (d : Dev) (e : Desc) : Bool :=
  (e.codec || (List.range 32).all fun k => e.lenOf k == 0 || e.lenOf k == 63) &&
  (e.mirror.elim true fun m => (e.ro || e.reload) && e.sub && d.runIn m.1 m.2 e.mirrorSlabs) &&
  (!e.sub || (if d.packed then decide ((e.used + 127) / 128 ≤ e.slabs) else decide (e.slabs = 16))) &&
  (match d.set? e.set with
    | none => false
    | some S => (S.sub == e.sub) && (if e.sub then decide (e.loc + e.slabs ≤ S.slabs) else decide (e.loc < S.slots)))

/-- The binding of a context that covers window extent w. -/
def Ctx.bindingOf (c : Ctx) (w : Nat) : Option (Nat × Binding) :=
  c.binds.find? fun b => b.2.len ≠ 0 && decide (b.2.wbase ≤ w ∧ w < b.2.wbase + b.2.len)

/-- The result of a translation: an extent with the binding used, or a status. -/
inductive Xl where
  | ok (x : Nat) (bind : Nat)
  | bad (st : Nat)
  deriving DecidableEq, Repr

/-- The metadata set and the first granule of the descriptor of extent x: descriptors lie first in a reserve (log 13). -/
def Dev.descPlace (d : Dev) (x : Nat) : Option (Nat × Nat) :=
  d.strat.bind fun g => (g.groupOf x).bind fun grp => (g.metaSet grp).map fun s => (s, 2 * (x - g.base grp))

/-- Is a poison entry the META entry of a granule of the descriptor of extent x; is there one (R300). -/
def Dev.descMeta (d : Dev) (x : Nat) (e : Poison) : Bool :=
  (d.descPlace x).elim false fun p => e.kind == 3 && e.set == p.1 && e.gaddr / 2 == p.2 / 2
def Dev.descLost (d : Dev) (x : Nat) : Bool := d.poisons.any fun e => d.descMeta x e.2

/-- The descriptor of extent x is written whole: its META entries go (R300). -/
def Dev.descWhole (d : Dev) (x : Nat) : Dev :=
  d.each d.poisons fun d p => if d.descMeta x p.2 then d.setPoison p.1 none else d

/-- A failed duplicate check: logged as lasting, INTEGRITY_FAULT (R55, R378). -/
def Dev.dupFail (d : Dev) (a : Agent) (x : Nat) : Dev := (d.log a.dom 0x08 true x).integrityFault 0x08 x

/-- The granules of the descriptor of extent x are read for a translation (R288): false is lost. -/
def Dev.descRead (d : Dev) (a : Agent) (ph : Phys) (x : Nat) : Bool × Dev :=
  match d.descPlace x with
  | none => (true, d)
  | some (s, ga) =>
    let (b0, d) := d.readMeta a ph s ga (some x)
    let (b1, d) := d.readMeta a ph s (ga + 1) (some x)
    (b0 && b1, d)

/-- Translate window extent w of context c for an access that needs rights, in the order of R54. An access that was translated through a binding goes on through it while it drains
(R249): thru lists those bindings. -/
def Dev.translateThru (d : Dev) (a : Agent) (ph : Phys) (c w need : Nat) (write : Bool) (thru : List Nat) : Xl × Dev :=
  let x := d.ctx c
  let part := d.portPart x.port
  if d.partMetaFenced part then (.bad 0x07, d) else
  match x.bindingOf w with
  | none => (.bad 0x01, d)
  | some (i, b) =>
    if b.draining && !thru.contains i then (.bad 0x02, d)
    else if b.rights.toNat &&& need ≠ need then (.bad 0x03, d)
    else
      let r := d.rgn b.region
      if d.partMetaFenced r.part then (.bad 0x07, d) else
      match mapAt r.runs (b.roff + (w - b.wbase)) with
      | none => (.bad 0x01, d)
      | some y =>
        if ((d.groupOf y).elim false d.metaFenced) || d.descLost y then (.bad 0x07, d) else
        let (there, d) := d.descRead a ph y
        if !there then (.bad 0x07, d) else
        let e := d.desc y
        -- a FREE descriptor fails the check whatever its REGION (DESIGN CHOICE, log 42)
        if e.st == .free || e.region ≠ b.region || !d.descOk e || 2 ≤ ph.dup then (.bad 0x04, d.dupFail a y) else
        let d := if ph.dup = 1 then d.log a.dom 0x08 false y else d
        if write && e.ro then (.bad 0x05, d) else (.ok y i, d)

/-- Translation for a new access. -/
def Dev.translate (d : Dev) (a : Agent) (ph : Phys) (c w need : Nat) (write : Bool) : Xl × Dev := d.translateThru a ph c w need write []

/-- The parts of a range that fall on each extent: (window extent, first granule, granules); at most two for a request. -/
def splitRange (addr n : Nat) : List (Nat × Nat × Nat) :=
  let g := addr / 32
  let w := g / 2048
  let o := g % 2048
  if n = 0 then [] else if o + n ≤ 2048 then [(w, o, n)] else [(w, o, 2048 - o), (w + 1, 0, o + n - 2048)]

/-- BAD_ADDR (R48). -/
def badRange (addr n : Nat) : Bool := addr % 32 ≠ 0 || 2 ^ 48 < addr + 32 * n

/-- The parts of granules [o, o + n) of an extent that fall on each block: (block, first granule, granules). -/
def splitBlocks (o n : Nat) : List (Nat × Nat × Nat) :=
  (List.range 32).filterMap fun k =>
    let lo := max o (64 * k)
    let hi := min (o + n) (64 * k + 64)
    if lo < hi then some (k, lo - 64 * k, hi - lo) else none

/-- Read parts of blocks of extent x one after another: none is POISON. -/
def Dev.readParts (d : Dev) (a : Agent) (ph : Phys) (x : Nat) : List (Nat × Nat × Nat) → Option (List Gran) × Dev
  | [] => (some [], d)
  | (k, s, n) :: t =>
    let (r, d) := d.readBlock a ph x k s n
    let (q, d) := d.readParts a ph x t
    (match r, q with
      | some r, some q => some (r ++ q)
      | _, _ => none, d)

/-- Read parts of blocks of extent x: nothing is read where one of them is denied (R300). -/
def Dev.readExtent (d : Dev) (a : Agent) (ph : Phys) (x : Nat) (l : List (Nat × Nat × Nat)) : Option (List Gran) × Dev :=
  if l.any fun b => d.denied x b.1 b.2.1 b.2.2 then (none, d) else d.readParts a ph x l

/-- Granule writes of a run of granules from o on under masks. -/
def mkWrites (o : Nat) (gs : List Gran) (ms : List (BitVec 32)) : List GW :=
  (List.range gs.length).map fun i => ⟨(o + i) / 64, (o + i) % 64, gs.getD i 0, ms.getD i fullMask⟩

/-- Granules outside the descriptor reads: charge of a read of a part (R258). -/
def Desc.readCharge (e : Desc) (o n : Nat) : Nat :=
  ((splitBlocks o n).map fun b => let c := e.lenOf b.1; if c = 63 then b.2.2 else lenG c).sum
/-- Charge of a write of a part. -/
def Desc.writeCharge (e : Desc) (o n : Nat) : Nat :=
  ((splitBlocks o n).map fun b => if !e.codec then b.2.2 else if b.2.2 = 64 then 64 else lenG (e.lenOf b.1) + 64).sum

/-- Read n granules at a window address in one go, by the device itself (records, plan images, ring entries). -/
def Dev.readWindow (d : Dev) (a : Agent) (ph : Phys) (c addr n need : Nat) : (Nat × List Gran) × Dev :=
  if badRange addr n then ((0x06, []), d) else go (splitRange addr n) d
where
  /-- Part by part. -/
  go : List (Nat × Nat × Nat) → Dev → (Nat × List Gran) × Dev
    | [], d => ((0, []), d)
    | (w, o, m) :: t, d =>
      match d.translate a ph c w need false with
      | (.bad s, d) => ((s, []), d)
      | (.ok x _, d) =>
        match (d.heatUp x).readExtent a ph x (splitBlocks o m) with
        | (none, d) => ((0x07, []), d)
        | (some l, d) =>
          let ((s, q), d) := go t d
          ((s, l ++ q), d)

/-- Write granules at a window address in one go, by the device itself. -/
def Dev.writeWindow (d : Dev) (a : Agent) (ph : Phys) (c addr : Nat) (gs : List Gran) (ms : List (BitVec 32)) : Nat × Dev :=
  if badRange addr gs.length then (0x06, d) else go (splitRange addr gs.length) gs ms d
where
  /-- Part by part, in address order (R71). -/
  go : List (Nat × Nat × Nat) → List Gran → List (BitVec 32) → Dev → Nat × Dev
    | [], _, _, d => (0, d)
    | (w, o, m) :: t, gs, ms, d =>
      match d.translate a ph c w rW true with
      | (.bad s, d) => (s, d)
      | (.ok x _, d) =>
        match (d.heatUp x).writeExtent a ph x (mkWrites o (gs.take m) ms) with
        | (0, d) => go t (gs.drop m) (ms.drop m) d
        | (s, d) => (s, d)

/-! ### Context rings (R335, R339) -/

/-- The ring engine of a port's die as an agent. -/
def Dev.ringAgent (_d : Dev) (p : Nat) : Agent := { src := 0, die := dieOfPort p, dom := commonDom (dieOfPort p), master := p }

/-- Firmware of a die as an agent (R254). -/
def firmAgent (die : Nat) : Agent := { src := 5, die := die, dom := commonDom die, master := marlMaster }

/-- A failed ring access: FAULTED, waiting completions lost, RING_FAULT (R335). -/
def Dev.ringFault (d : Dev) (c ring st : Nat) : Dev :=
  let d := d.updCtx c fun x => { x with ring := { x.ring with faulted := true, waiting := [] } }
  d.event (some (d.ctx c).port) 0x0C (d.handle c) (ring + st * 2 ^ 8)

/-- Write one completion of a context's ring through its bindings, and notify (R335, R339). -/
def Dev.cqCtxPut (d : Dev) (ph : Phys) (c : Nat) (e : Gran × Gran × Bool) : Dev :=
  let x := d.ctx c
  let r := x.ring
  let (st, d) := d.writeWindow (d.ringAgent x.port) ph c (r.cqBase + 64 * r.cqTail) [r.stamp e.1, e.2.1] []
  if st ≠ 0 then d.ringFault c 1 st else
  let due := r.coalesce ≠ 0 && r.since + 1 = r.coalesce
  let r' := { (d.ctx c).ring.bump with since := if due then 0 else r.since + 1 }
  let d := d.updCtx c fun x => { x with ring := r' }
  let n := b2n due + b2n e.2.2
  if n = 0 then d else d.msg x.port 1 [notifyGran false r.phase r'.cqTail (x.handle c)]

/-- The extent that window extent w of context c reaches. -/
def Dev.windowExt (d : Dev) (c w : Nat) : Option Nat :=
  ((d.ctx c).bindingOf w).bind fun b => mapAt (d.rgn b.2.region).runs (b.2.roff + (w - b.2.wbase))

/-- Does a range of context c fall on an extent that is MOVING: writes to it wait (R78). -/
def Dev.windowMoving (d : Dev) (c addr n : Nat) : Bool :=
  (splitRange addr n).any fun p => (d.windowExt c p.1).elim false fun x => (d.desc x).st == .moving

/-- Write the waiting completions of context c while its ring has room. -/
def Dev.cqCtxFlush (d : Dev) (ph : Phys) (c : Nat) : Dev :=
  (d.ctx c).ring.waiting.foldl (fun d e =>
    let r := (d.ctx c).ring
    if r.room && !r.faulted && r.isSet && !d.windowMoving c (r.cqBase + 64 * r.cqTail) 2 then
      (d.updCtx c fun x => { x with ring := { x.ring with waiting := x.ring.waiting.drop 1 } }).cqCtxPut ph c e
    else d) d

/-- Write the waiting completions of every context. -/
def Dev.cqFlush (d : Dev) (ph : Phys) : Dev := d.each (d.ctxs.map (·.1)) fun d c => d.cqCtxFlush ph c

end Sys2Proof.Machine
end

