-- ==== Sys2Proof/Machine/Ctxs.lean ====
section
/-! DEFINITION. Contexts: numbers and slots (R220, R221), idleness (R225), parking and the order of waiters (R226 to R228),
clay areas (R132, R133), the stop of a program (R186), orphaning (R230). -/
namespace Sys2Proof.Machine

/-! ### Numbers and slots (R220) -/

def Dev.ctxSlots (d : Dev) (p : Nat) : Nat := bits (d.portMap p) 16 11
def Dev.parkLimit (d : Dev) (p : Nat) : Nat := bits (d.portMap p) 32 12
def Dev.indexBase (d : Dev) (p : Nat) : Nat := ((List.range p).map fun m => d.ctxSlots m + d.parkLimit m).sum
def Dev.slotBase (d : Dev) (p : Nat) : Nat := ((List.range p).map d.ctxSlots).sum

/-- The context numbers of a port. -/
def Dev.portCtxs (d : Dev) (p : Nat) : List Nat :=
  (List.range (d.ctxSlots p + d.parkLimit p)).map (d.indexBase p + ·)

/-- Contexts of a port that are not FREE. -/
def Dev.owned (d : Dev) (p : Nat) : List Nat := (d.portCtxs p).filter fun c => (d.ctx c).st ≠ .free

/-- The lowest free slot of a port. -/
def Dev.freeSlot (d : Dev) (p : Nat) : Option Nat :=
  ((List.range (d.ctxSlots p)).map (d.slotBase p + ·)).find? fun s => !(d.ctxs.any fun c => c.2.slot == some s)

/-- The context a handle names, if it is right (R221); any port when p is none (the FM ring). -/
def Dev.ctxOf (d : Dev) (p : Option Nat) (h : BitVec 32) : Option Nat :=
  let c := bits h.toNat 0 12
  let x := d.ctx c
  if x.st ≠ .free && x.handle c == h.toNat && (p.isNone || p == some x.port) then some c else none

/-! ### Idleness (R225) -/

/-- Requests of context c in flight at its port: they carry its handle there. -/
def Dev.reqsOf (d : Dev) (c : Nat) : List Req :=
  d.reqs.filter fun r => r.port == (d.ctx c).port && r.h.ctx.toNat == d.handle c && r.stage ≠ .parkQ

/-- Commands of context c's rings fetched and not complete. -/
def Dev.cmdsOf (d : Dev) (c : Nat) : List Fetched :=
  d.inflight.filter fun f => match f.ref.q with
    | .ctx i => i.val == c
    | _ => false

/-- Nothing in flight: no request, no fetched command, no waiting completion. -/
def Dev.quiet (d : Dev) (c : Nat) : Bool :=
  (d.reqsOf c).isEmpty && (d.cmdsOf c).isEmpty && (d.ctx c).ring.waiting.isEmpty

/-- An idle context (R225) that is not already being parked or unparked. -/
def Dev.idle (d : Dev) (c : Nat) : Bool :=
  let x := d.ctx c
  x.st == .active && !x.parking && !x.unparking && x.ps == .idle && d.quiet c

/-- The least recently active idle context of a port; ties go to the lowest slot. -/
def Dev.lruIdle (d : Dev) (p : Nat) : Option Nat :=
  (((d.portCtxs p).filter d.idle).foldl (fun b c =>
    let x := d.ctx c
    let k := (x.stamp, x.slot.getD 0)
    match b with
    | none => some (c, k)
    | some h => if k.1 < h.2.1 ∨ (k.1 = h.2.1 ∧ k.2 < h.2.2) then some (c, k) else some h) none).map (·.1)

/-- Stamp a context's slot with its die common timer (R225). -/
def Dev.stamp (d : Dev) (c : Nat) : Dev :=
  d.updCtx c fun x => { x with stamp := d.now (commonDom (dieOfPort x.port)) }

/-! ### Clay areas (R132, R133) -/

/-- Free pages of clay buffer k, ascending. -/
def Dev.freePages (d : Dev) (k : Nat) : List Nat :=
  (List.range 320).filter fun p => !(d.clayTag.get (k * 320 + p) (false, 0, 0)).1

/-- Take CLAY_PAGES pages in every cluster of the context's bed, the lowest free ones (log 13); none if a cluster has too
few. Taking a page sets its tag and clears its written bits. -/
def Dev.takeArea (d : Dev) (c : Nat) : Option Dev :=
  let x := d.ctx c
  match x.bed with
  | none => some d
  | some b =>
    let ks := d.clusters b
    let area := ks.map fun k => (k, (d.freePages k).take x.clayPages)
    if area.all fun a => a.2.length == x.clayPages then
      let d := d.each (area.flatMap fun a => a.2.map fun p => a.1 * 320 + p) fun d key =>
        { d with clayTag := d.clayTag.set key (true, x.slot.getD 0, x.tenant) (false, 0, 0),
                 clayWr := d.clayWr.filter fun e => e.1 / 2048 ≠ key }
      some (d.updCtx c fun x => { x with area := some area, clayLost := false })
    else none

/-! ### The stop of a program (R186, R188) -/

/-- A running program ends: PSTATE IDLE, the LAUNCH completion is written, S, P and T hold free values until the next
LAUNCH. -/
def Dev.finishStop (d : Dev) (c : Nat) : Dev :=
  let x := d.ctx c
  match x.stop with
  | none => d
  | some s =>
    let r1 := s.pc.toNat + x.flags.toNat * 2 ^ 48 + s.fetch % 256 * 2 ^ 56
    let d := d.completeOpt x.launch s.status s.code.toNat r1
    let d := (d.updCtx c fun x => { x with
      ps := .idle, launch := none, stop := none, resumeT := false, wake := none, sleepUs := 0, timeoutDue := false, yield := false,
      undef := some d.free, s := [], p := 1, t := [] }).stamp c
    { d with free := d.free + 128 }

/-- Is an operation of context c running or pending on a bed. -/
def Dev.opsOf (d : Dev) (c : Nat) : Bool :=
  (d.beds.any fun b => (b.2.run.elim false fun o => o.ctx == c) || (b.2.pend.elim false fun o => o.ctx == c)) ||
    (d.ctx c).post.isSome

/-- What the reads of a source that are in flight charge, by set (R258). -/
def Src.charged (s : Src) : List (Nat × Nat) := if s.issued then (s.todo.filter fun r => !r.again).map fun r => (r.set, r.charge) else []

/-- A pending operation of bed b is discarded: its charges and references end. -/
def Dev.pendDrop (d : Dev) (b : Nat) : Dev :=
  match (d.bed b).pend with
  | none => d
  | some o =>
    let d := d.each o.srcs fun d s => d.discharge (bedMaster b) s.2.charged
    (d.refsRelease o.refs).updBed b fun y => { y with pend := none, sync := false }

/-- Stop the program of context c with a status; operations already running complete first. drop: a pending one is discarded,
before or after it was switched out (R186, R230). A stop that has happened stays. -/
def Dev.stopProgram (d : Dev) (c status : Nat) (pc : BitVec 48) (fetch : Nat) (code : Word) (drop : Bool) : Dev :=
  if (d.ctx c).ps == .idle then d else
  let d := if (d.ctx c).stop.isSome then d else d.updCtx c fun x => { x with stop := some ⟨status, pc, fetch, code⟩ }
  let d := if drop then
      (d.each (List.range 8) fun d b => if (d.bed b).pend.elim false fun o => o.ctx == c then d.pendDrop b else d).updCtx c
        fun x => { x with resumeT := false }
    else d
  if d.opsOf c || (d.ctx c).resumeT then d else d.finishStop c

/-! ### Parking (R226) -/

/-- P1 and P2: the context is admitted no more, its clay area is released. -/
def Dev.startPark (d : Dev) (c : Nat) : Dev :=
  (d.updCtx c fun x => { x with parking := true, parkWait := false }).clayRelease c

/-- The wake of a SLEEPING program: the value goes to S[RD], PSTATE RUNNING (R185). -/
def Ctx.wakeNow (x : Ctx) (v : Word) : Ctx :=
  { x with ps := .running, s := if x.sleepRd = 0 then x.s else x.s.set x.sleepRd v 0, sleepUs := 0, timeoutDue := false }

/-- U1: load the slot. An expired timeout that decided the unpark also takes a clay area, and waits where one cannot be had
(R226): none. -/
def Dev.startUnpark (d : Dev) (c slot : Nat) : Option Dev :=
  let x := d.ctx c
  let d1 := d.updCtx c fun x => { x with slot := some slot, unparking := true }
  if x.timeoutDue then
    (d1.takeArea c).map fun d2 => d2.updCtx c fun x => x.wakeNow (BitVec.ofNat 64 (2 ^ 64 - 1))
  else some d1

/-- A new context in a slot (R222, R228): the lowest free number of the port. -/
def Dev.createIn (d : Dev) (p slot : Nat) (ref : CmdRef) (e : Entry) : Dev :=
  match (d.portCtxs p).find? fun c => (d.ctx c).st == .free with
  | none => d.complete ref 0x206 0 0
  | some c =>
    let a := bits e.g0.toNat 64 64
    let g := (d.ctx c).gen
    let x : Ctx := {
      st := .active, gen := g, boot := d.resets % 16, port := p, tenant := bits a 0 8, rights := BitVec.ofNat 4 (bits a 8 4),
      bed := if bitOf a 15 then some (bits a 12 3) else none, clayPages := if bitOf a 15 then bits a 16 9 else 0,
      slot := some slot }
    let d := (d.setCtx c x).stamp c
    d.complete ref 0 (d.handle c) 0

/-- Give a slot to a waiter. none: it must go on waiting. -/
def Dev.serveOne (d : Dev) (w : SlotWait) (slot : Nat) : Option Dev :=
  match w.ctx, w.create with
  | some c, _ => d.startUnpark c slot
  | none, some (ref, e) => some (d.createIn w.port slot ref e)
  | none, none => some d

/-- Drop the first waiter equal to w. -/
def Dev.dropWait (d : Dev) (w : SlotWait) : Dev := { d with slotq := d.slotq.erase w }

/-- Does firmware park and unpark nothing now: paused for an activation (R360), or a pair's duties being taken over (R374). -/
def Dev.parksHeld (d : Dev) : Bool := d.upd.paused || d.takeover.isSome

/-- Serve a waiter: it takes a free slot, or an idle context is parked for it (R227, R228). It goes on waiting where there is neither,
while its context is still being parked (R229), and, of an expired timeout, while there are too few clay pages (R226). -/
def Dev.serveWait (d : Dev) (w : SlotWait) : Dev :=
  if w.victim.isSome || w.ctx.elim false fun c => (d.ctx c).parking then d else
  match d.freeSlot w.port with
  | some s => match d.serveOne w s with
    | some d' => d'.dropWait w
    | none => d
  | none =>
    if w.create.isSome && d.fld row_CTX_CTL 0 f_CTX_CTL_AUTO_PARK = 0 then d else
    match d.lruIdle w.port with
    | none => d
    | some v => { d with slotq := d.slotq.map fun u => if u == w then { w with victim := some v } else u }.startPark v

/-- Serve the waiters of a port in the order in which they began to wait; one that must wait holds up no other. -/
def Dev.serveSlots (d : Dev) (p : Nat) : Dev := d.each (d.slotq.filter fun w => w.port == p) Dev.serveWait

/-- P3 (PARK_COMPLETE): PARKED, or still ORPHANED; the slot is free, and goes to the waiter it was parked for. -/
def Dev.parkDone (d : Dev) (c : Nat) : Dev :=
  let x := d.ctx c
  if !x.parking then d else
  let slot := x.slot
  let d := d.updCtx c fun x => { x with
    st := if x.st == .active then .parked else x.st, slot := none, parking := false, parkCmds := [], parkSleep := false }
  let d := d.wrapInc row_CTX_PORT_CNT x.port f_CTX_PORT_CNT_PARKS
  let d := d.each x.parkCmds fun d r => d.complete r 0 0 0
  match d.slotq.find? fun w => w.victim == some c, slot with
  | some w, some s => match d.serveOne w s with
    | some d' => d'.dropWait w
    | none => { d with slotq := d.slotq.map fun u => if u == w then { w with victim := none } else u }
  | _, _ => d

/-- Decide an unpark of a PARKED context (R227): it joins the waiters once. -/
def Dev.wantUnpark (d : Dev) (c : Nat) : Dev :=
  let x := d.ctx c
  if x.unparking || (d.slotq.any fun w => w.ctx == some c) then d else
  let d := { d with slotq := d.slotq ++ [⟨x.port, some c, none, none, false⟩] }
  if x.parking || d.parksHeld then d else d.serveSlots x.port

/-! ### Settling: what follows when something became idle or got room -/

/-- Does nothing of context c go on but its program, which sleeps (R226). -/
def Dev.sleepsAlone (d : Dev) (c : Nat) : Bool :=
  let x := d.ctx c
  x.ps == .sleeping && x.st == .active && !x.parking && !x.unparking && (d.reqsOf c).isEmpty && x.ring.waiting.isEmpty &&
    (d.cmdsOf c).all fun f => x.launch == some f.ref

/-- A context that waits to park, or an orphan whose work has ended, starts to park (R226, R230). -/
def Dev.parkDue (d : Dev) (c : Nat) : Dev :=
  let x := d.ctx c
  if x.parkWait && (d.idle c || (x.parkSleep && d.sleepsAlone c)) then d.startPark c
  else if x.st == .orphaned && x.slot.isSome && !x.parking && !x.unparking && x.ps == .idle && d.quiet c then d.startPark c
  else d

/-- Is ATTACH of a port complete: none of the contexts that it found ORPHANED is so still, or, without RECOVER, DRAINING (R340). -/
def Dev.attachDone (d : Dev) (p : Nat) : Dev :=
  match d.host p with
  | none => d
  | some h => match h.attach with
    | none => d
    | some ref =>
      -- a recovered context is PARKED once it holds no slot
      let d := if h.recover then d.each (d.portCtxs p) fun d c =>
          if (d.ctx c).st == .orphaned && (d.ctx c).slot.isNone then d.updCtx c fun x => { x with st := .parked, ps := .idle } else d
        else d
      if h.waits.any fun c => (d.ctx c).st == .orphaned || (!h.recover && (d.ctx c).st == .draining) then d else
      (d.setHost p (some { h with attach := none })).complete ref 0 h.recovered 0

/-- Everything that follows at once from the end of a command: completions are written, which physics ph meet; contexts park, waiters are
served and attaches end, which firmware does unless it is held (R360, R374). -/
def Dev.settle (d : Dev) (ph : Phys := {}) : Dev :=
  let d := d.cqFlush ph
  if d.parksHeld then d else
  let d := d.each (d.ctxs.map (·.1)) Dev.parkDue
  let d := d.each ((d.slotq.map (·.port)).dedup) Dev.serveSlots
  d.each ((d.hosts.filter fun h => h.2.elim false (·.attach.isSome)).map (·.1)) Dev.attachDone

/-! ### Orphans (R230) -/

/-- Does a doorbell wait in the park queue for context c. -/
def Bell.waitsFor (w : Bell) (c : Nat) : Bool := !w.held && w.ctx == c

/-- What waits in the park queue and among the waiters of the port for context c goes, as the context leaves ACTIVE and PARKED (R229):
its requests complete with a status, its doorbells are dropped, a PARK that still waits completes with BAD_CTX. -/
def Dev.parkLeave (d : Dev) (c status : Nat) : Dev :=
  let x := d.ctx c
  let reqs : List Req := d.reqs.map fun (r : Req) =>
    if r.stage == .parkQ && bits r.h.ctx.toNat 0 12 == c then r.fail status else r
  let gone := d.waiters.filter fun w => w.waitsFor c
  let ws : List Bell := d.waiters.filter fun w => !w.waitsFor c
  let sq : List SlotWait := d.slotq.filter fun (w : SlotWait) => w.ctx ≠ some c
  let d : Dev := { d with reqs := reqs, waiters := ws, slotq := sq }
  let d := d.satInc row_OLY_ERR x.port f_OLY_ERR_DROPPED gone.length
  if x.parking then d else
  (d.each x.parkCmds fun d r => d.complete r 0x09 0 0).updCtx c fun x => { x with parkWait := false, parkCmds := [] }

/-- Make context c ORPHANED (R230): nothing more is fetched from its rings until its next SQ doorbell (R340); a park under way goes on and completes (R229). cause: 0 heartbeat, 1 DETACH. -/
def Dev.orphan (d : Dev) (c cause : Nat) : Dev :=
  let x := d.ctx c
  if x.st ≠ .active && x.st ≠ .parked then d else
  let d := (d.updCtx c fun x => { x with
    st := .orphaned, parkWait := false, timeoutDue := false, ring := { x.ring with stale := true } }).parkLeave c 0x0A
  let d := d.stopProgram c 0x113 x.pc 0 0 true
  d.event none 0x01 (d.handle c) cause

end Sys2Proof.Machine
end

