-- ==== Sys2Proof/Machine/Loess.lean ====
section
/-! DEFINITION. Loess engines (R74 to R91, R426, R427): extents entering and leaving regions, moves, sweeps, demotion, reclaim,
plans, windows and mirrors. Effects on the device; the commands themselves are in LoessRows.lean. -/
namespace Sys2Proof.Machine

/-- Does the device do its work: READY or READY_SAFE, not frozen. -/
def Dev.working (d : Dev) : Bool := d.freezes == .running && (d.state == .ready || d.state == .readySafe)

/-- CODEC_OK of a set (R29). -/
def Dev.setCodec (d : Dev) (s : Nat) : Bool := (d.set? s).elim false (·.codecOk)

/-- May a home of an extent lie in set s: in service, CODEC_OK for a codec extent (R96). -/
def Dev.setFits (d : Dev) (e : Desc) (s : Nat) : Bool := !d.setFenced s && (!e.codec || d.setCodec s)

/-! ### Extents leaving regions -/

/-- Entries that name extent x become LOCATION entries; a META entry goes with the descriptor (R300). -/
def Dev.poisonRelease (d : Dev) (x : Nat) : Dev :=
  d.each d.poisons fun d p =>
    if d.descMeta x p.2 then d.setPoison p.1 none
    else if p.2.ext = x ∧ (p.2.kind = 1 ∨ p.2.kind = 2) then
      d.setPoison p.1 (some { p.2 with kind := 4, ext := 0, blk := 0, grn := 0 })
    else d

/-- STORED counters lowered by the coded blocks of a descriptor, home and mirror (R118); the mirror of an extent that is reloaded
is not counted until it is written again. -/
def Dev.storedGone (d : Dev) (e : Desc) : Dev :=
  let k := if e.mirror.isSome && !e.reload then 2 else 1
  if e.codec then (d.storedDec e.tensor false (k * e.coded false)).storedDec e.tensor true (k * e.coded true) else d

/-- Free the mirror of extent x: what it stores is gone, its poison entries become LOCATION entries. -/
def Dev.mirrorDrop (d : Dev) (x : Nat) : Dev :=
  let e := d.desc x
  if e.mirror.isNone then d else
  let d := if e.codec && !e.reload then
      (d.storedDec e.tensor false (e.coded false)).storedDec e.tensor true (e.coded true) else d
  let d := d.each d.poisons fun d p =>
    if p.2.mirror && p.2.ext = x && (p.2.kind = 1 ∨ p.2.kind = 2) then
      d.setPoison p.1 (some { p.2 with kind := 4, ext := 0, blk := 0, grn := 0 }) else d
  (d.updDesc x fun e => { e with mirror := none }).poisonBit x

/-- Make extent x FREE (R75, R86, R243): home and mirror freed through the journal, counters, heat and queued moves gone. -/
def Dev.extFree (d : Dev) (x : Nat) : Dev :=
  let e := d.desc x
  if e.st == .free then d else
  let d := d.storedGone e
  let d := if e.codec then d.updTensor e.tensor fun t => { t with extents := t.extents - 1 } else d
  let d := d.poisonRelease x
  let d := d.setDesc x {}
  let mv : List Move := d.moves.filter fun (m : Move) => !(m.ext == x && m.step = 0)
  let ht : Tab Nat := d.heat.filter fun h => h.1 % 2 ^ 28 ≠ x
  let d : Dev := { d with moves := mv, heat := ht }
  match d.groupOf x with
  | none => d
  | some g => (d.jAppend g ⟨2, x, e.home, e.home, 0, 0, false⟩).jRetire g x

/-! ### Moves (R77 to R79, R85, R427) -/

/-- Is a move automatic (R427). -/
def MKind.auto (k : MKind) : Bool := k == .promoteAuto || k == .demoteAuto

/-- A Loess engine as an agent. -/
def loessAgent (j : Nat) : Agent := { src := 2, die := dieOfLoess j, dom := loessDom j, master := loessMaster j }

/-- Moves of engine j that hold MOVING (R92 IN_FLIGHT), and moves that it has begun and not released (R74). -/
def Dev.inFlight (d : Dev) (j : Nat) : Nat :=
  (d.moves.filter fun m => m.engine == some j && m.step ≠ 0 && decide (m.step < 5)).length
def Dev.movesHeld (d : Dev) (j : Nat) : Nat := (d.moves.filter fun m => m.engine == some j && m.step ≠ 0).length

/-- Is it engine j's turn to take work of a group: round robin among the engines that R74 gives it and that hold fewer than
32 moves. -/
def Dev.turn (d : Dev) (grp j : Nat) : Bool :=
  let l := (d.enginesOf grp).filter fun j => d.movesHeld j < 32
  decide (l ≠ []) && l.getD (d.rr.get grp 0 % l.length) 4 == j

/-- A candidate of R84. -/
def Dev.victimOk (d : Dev) (x : Nat) : Bool :=
  let e := d.desc x
  e.st == .stable && !e.sub && e.movable && !e.pin && !e.touched && (d.rgn e.region).st ≠ .reclaiming

/-- Destination of a promotion in a group (R426). -/
def Dev.promoteDst (d : Dev) (grp : Nat) (e : Desc) : Option Home :=
  ((d.strat.elim [] fun g => g.groupSets grp false).filter fun s => d.setFits e s.1).findSome? fun s => d.allocTop s.1

/-- Destination of a demotion in a group (R84, R426). -/
def Dev.demoteDst (d : Dev) (grp : Nat) (e : Desc) : Option Home :=
  (d.bestSub grp fun s => !(d.sq s).pressure && d.setFits e s).bind fun s => d.allocSub s (d.slabsFor e.used)

/-- Destination in a named set. -/
def Dev.namedDst (d : Dev) (e : Desc) (sub : Bool) (s : Nat) : Option Home :=
  if !d.setFits e s then none else if sub then d.allocSub s (d.slabsFor e.used) else d.allocTop s

/-- Does a home lie on a retired slot or slab (R303). -/
def Dev.homeRetired (d : Dev) (h : Home) : Bool :=
  (h.occ h.sub h.set).any fun iv => (List.range iv.2).any fun i => d.retired.get (retKey h.sub h.set (iv.1 + i)) false

/-- What to do with a queued move. -/
inductive MoveDo where
  | skip | drop | touch | fail | go (dst : Home) (grp : Nat)
  deriving DecidableEq, Repr

/-- Decide a queued move (R80, R84, R85). pre: the queued moves before it. One move of an extent is in hand until its source is
released. A listed extent whose home has no free slot or run waits (DESIGN CHOICE, log 46: R87 names no outcome). -/
def Dev.moveDo (d : Dev) (m : Move) (pre : List Move) : MoveDo :=
  let e := d.desc m.ext
  match d.groupOf m.ext with
  | none => .drop
  | some grp =>
    if e.st == .free then .drop
    else if e.st == .moving || (d.moveOf m.ext).isSome || (d.journal grp).near || d.metaFenced grp then .skip
    else if m.kind.auto && !e.movable then .drop
    else if (m.kind == .promoteCmd || m.kind == .demoteCmd) && (e.ro || e.reload) then .drop
    else match m.kind with
      | .promoteAuto | .promoteCmd =>
        if !e.sub then .touch else match d.promoteDst grp e with
          | some h => .go h grp
          | none => .skip
      | .demoteAuto =>
        if !d.victimOk m.ext then .drop else match d.demoteDst grp e with
          | some h => .go h grp
          | none => .drop
      | .demoteCmd =>
        if pre.any (fun p => p.cmd == m.cmd) then .skip
        else if e.sub then .drop else match d.demoteDst grp e with
          | some h => .go h grp
          | none => .fail
      | .plan => match m.want with
        | none => .drop
        | some (sub, s) => if e.sub == sub && e.set == s then .drop else match d.namedDst e sub s with
          | some h => .go h grp
          | none => .skip
      | .retire => match m.want with
        | none => .drop
        | some (sub, s) => if !d.homeRetired e.home then .drop else match d.namedDst e sub s with
          | some h => .go h grp
          | none => .fail

/-- Change a fetched command's progress. -/
def Dev.updCmd (d : Dev) (c : Option CmdRef) (f : Fetched → Fetched) : Dev :=
  match c with
  | none => d
  | some c => let l : List Fetched := d.inflight.map fun (x : Fetched) => if x.ref == c then f x else x
              { d with inflight := l }

/-- Step 1 of a move by engine j to dst. -/
def Dev.moveStart (d : Dev) (j : Nat) (m : Move) (dst : Home) (grp : Nat) : Dev :=
  let src := (d.desc m.ext).home
  let m' : Move := { m with engine := some j, src := src, dst := dst, step := 1, since := d.lived (loessDom j), journal := grp }
  let d : Dev := { d with moves := d.moves.map fun n => if n == m then m' else n, rr := d.rr.upd grp 0 (· + 1) }
  let d := d.jAppend grp ⟨1, m.ext, src, dst, 0, j, false⟩
  (d.updDesc m.ext fun e => { e with st := .moving }).pressureAll

/-- A demotion or retirement that finds no destination: DEMOTE ends with NOSPACE and moves nothing further (R430); RETIRE
leaves the extent in place (R303). -/
def Dev.moveFail (d : Dev) (m : Move) : Dev :=
  if m.kind == .demoteCmd then
    let l : List Move := d.moves.filter fun (n : Move) => !(n.step = 0 && n.cmd == m.cmd)
    ({ d with moves := l }).updCmd m.cmd fun f => { f with status := 0x08 }
  else ({ d with moves := d.moves.erase m }).updCmd m.cmd fun f => { f with left := f.left + 1, status := 0x21F }

/-- Engine j looks through the queued moves for the first that it may begin (R74, R77 step 1). -/
def Dev.acquire (d : Dev) (j : Nat) : List Move → List Move → Dev
  | [], _ => d
  | m :: t, pre =>
    if m.step ≠ 0 then d.acquire j t (pre ++ [m]) else
    match (d.groupOf m.ext).elim true (d.turn · j), d.moveDo m pre with
    | false, _ => d.acquire j t (pre ++ [m])
    | true, .skip => d.acquire j t (pre ++ [m])
    | true, .drop => ({ d with moves := d.moves.erase m }).acquire j t pre
    | true, .touch => (({ d with moves := d.moves.erase m }).promoted m.ext).acquire j t pre
    | true, .fail => d.moveFail m
    | true, .go dst grp => d.moveStart j m dst grp

/-- Steps 2 to 4 of the move of extent x: the stored codes of each written block as they will lie at the destination, or
none where an automatic move meets a lasting error (R79, R427, R96). -/
def Dev.moveRead (d : Dev) (a : Agent) (ph : Phys) (x : Nat) (auto : Bool) : List Nat → Option (List (Nat × List Code)) × Dev
  | [] => (some [], d)
  | k :: t =>
    let (cs, d) := if auto then
        let (r, d) := d.storedRead a ph x k (d.desc x).home false
        (r.map fun l => l.map loamEncode, d)
      else
        d.carryBlock a ph x k false
    match cs with
    | none => (none, d)
    | some cs =>
      let (q, d) := d.moveRead a ph x auto t
      (q.map fun l => (k, cs) :: l, d)

/-- Write codes of a block from granule ga of a set on: false where the set is fenced or one does not arrive. -/
def Dev.placeCodes (d : Dev) (a : Agent) (ph : Phys) (s ga : Nat) (cs : List Code) : Bool × Dev :=
  if d.setFenced s then (false, d) else
  let at_ := (List.range cs.length).map (ga + ·)
  match d.crossCodes ph a.die (d.setDie s) ((at_.map (granKey s)).zip cs) with
  | (none, d) => (false, d)
  | (some cs, d) => (true, (d.putCodes s ga cs).dropLocations s at_)

/-- Write several blocks of a descriptor at a home: false where one is not written. -/
def Dev.placeBlocks_ (d : Dev) (a : Agent) (ph : Phys) (e : Desc) (h : Home) : List (Nat × List Code) → Bool × Dev
  | [] => (true, d)
  | (k, cs) :: t =>
    match d.placeCodes a ph h.set (e.blkAt h k) cs with
    | (false, d) => (false, d)
    | (true, d) => d.placeBlocks_ a ph e h t

/-- The written blocks of a descriptor. -/
def Desc.written (e : Desc) : List Nat := (List.range 32).filter fun k => e.lenOf k ≠ 0

/-- Quiesce, read and write (R77 steps 2 to 4). Every earlier write is applied already. The engine's reads and writes are charged to
it and wait for its ceilings (R258, R259); what it writes stays charged until the destination acknowledges, at the commit. -/
def Dev.moveCopy (d : Dev) (x : Nat) (ph : Phys) : Dev :=
  match d.moveOf x with
  | none => d
  | some m =>
    if m.step ≠ 1 then d else
    let j := m.engine.getD 0
    let e := d.desc x
    if d.setFenced e.set || d.setFenced m.dst.set then d.abandon x else
    if d.setStopped e.set || d.setStopped m.dst.set then d else
    let rd := addCharge [] e.set e.used
    let wr := addCharge [] m.dst.set e.used
    if !d.ceilOk (loessMaster j) (addCharge rd m.dst.set e.used) then d else
    let (r, d) := (d.charge (loessMaster j) rd).moveRead (loessAgent j) ph x m.kind.auto e.written
    let d := d.discharge (loessMaster j) rd
    match r, d.moveOf x with
    | none, _ => d.abandon x
    | _, none => d
    | some codes, some _ =>
      match d.placeBlocks_ (loessAgent j) ph e m.dst codes with
      | (false, d) => d.abandon x
      | (true, d) => (d.charge (loessMaster j) wr).updMove x fun m => { m with step := 4, charge := wr }

/-- Step 5: the descriptor write that commits a move. -/
def Dev.moveCommit (d : Dev) (x : Nat) : Dev :=
  match d.moveOf x with
  | none => d
  | some m =>
    if m.step ≠ 4 then d else
    let d := d.discharge (loessMaster (m.engine.getD 0)) m.charge
    let d := if m.dst.sub then d else d.mirrorDrop x
    let e := d.desc x
    let e' : Desc := { e with sub := m.dst.sub, set := m.dst.set, loc := m.dst.loc, slabs := m.dst.slabs, st := .stable }
    let d := d.carryPoison x e e' e.home m.dst []
    let d := d.setDesc x { e' with poisoned := (d.desc x).poisoned }
    let up := e.sub && !m.dst.sub
    let down := !e.sub && m.dst.sub
    let d := if up then d.promoted x else d
    let d := if up then d.wrapInc row_LSS_EVICT_CNT m.journal f_LSS_EVICT_CNT_PROMOTED
      else if down then d.wrapInc row_LSS_EVICT_CNT m.journal f_LSS_EVICT_CNT_DEMOTED else d
    let d := d.wrapInc row_LSS_MOVE_CNT (m.engine.getD 0) f_LSS_MOVE_CNT_COMMITTED
    let d := d.updMove x fun m => { m with step := 5, charge := [] }
    d.updCmd m.cmd fun f => { f with count := f.count + 1 }

/-- Step 6: the source returns to the free lists. -/
def Dev.moveRelease (d : Dev) (x : Nat) : Dev :=
  match d.moveOf x with
  | none => d
  | some m =>
    if m.step ≠ 5 then d else
    let d := d.jAppend m.journal ⟨2, x, m.src, m.dst, 0, m.engine.getD 0, false⟩
    ((d.dropMove x).jRetire m.journal x).pressureAll

/-! ### Sweeps and demotion (R82, R84) -/

def Dev.sweep (d : Dev) (grp : Nat) : Sweep := d.sweeps.get grp {}
def Dev.updSweep (d : Dev) (grp : Nat) (f : Sweep → Sweep) : Dev := { d with sweeps := d.sweeps.set grp (f (d.sweep grp)) {} }

/-- Ticks of the sweep period. -/
def Dev.sweepTicks (d : Dev) : Nat := d.fld row_LSS_CTL 0 f_LSS_CTL_SWEEP_PERIOD * 2500000

/-- Ticks since the last sweep of a group started; before any, the whole count of engine j, which is to sweep it. -/
def Dev.sweepAge (d : Dev) (grp j : Nat) : Nat :=
  let s := d.sweep grp
  s.due + (d.lived (loessDom (s.by_.getD j)) - s.from_)

/-- The age update of one descriptor (R82). -/
def Desc.sweep (e : Desc) : Desc :=
  if e.st == .free then e
  else if e.touched then { e with touched := false, age := 0 }
  else if e.age < 255 then { e with age := e.age + 1 } else e

/-- A sweep period of a group begins. Its reads, one granule of a descriptor after another, are the engine's and wait for its ceiling
(R254, R259). -/
def Dev.sweepStart (d : Dev) (grp : Nat) : Dev :=
  match d.sweeper grp with
  | none => d
  | some j =>
    let now := d.lived (loessDom j)
    let s := d.sweep grp
    if d.sweepAge grp j < d.sweepTicks then d
    else if !d.ceilOk (loessMaster j) (((d.strat.bind fun g => g.metaSet grp).map fun s => (s, 1)).toList) then d
    else if s.running then
      if s.overran then d else
      (d.satInc row_LSS_SWEEP_STATUS 0 f_LSS_SWEEP_STATUS_LATE).updSweep grp fun s => { s with overran := true }
    else
      let ds := d.descs.mapV {} fun x (e : Desc) => if d.groupOf x == some grp then e.sweep else e
      ({ d with descs := ds }).updSweep grp fun s => { s with from_ := now, by_ := some j, due := 0, running := true, overran := false }

/-- Extents of a group that a context's bindings reach: topsoil and subsoil (R238). -/
def Dev.reach (d : Dev) (grp : Nat) (x : Ctx) : Nat × Nat :=
  let ids := (x.binds.flatMap fun b => (((mapList (d.rgn b.2.region).runs).drop b.2.roff).take b.2.len)).dedup
  let mine := ids.filter fun y => d.groupOf y == some grp
  let sub := (mine.filter fun y => (d.desc y).sub).length
  (mine.length - sub, sub)

/-- A sweep ends: the heat entries of the swept group's extents are cleared (DESIGN CHOICE, log 42: of an engine that serves other
groups too, their entries stay until their own sweeps end), occupancy is counted, SWEEPS. -/
def Dev.sweepEnd (d : Dev) (grp : Nat) : Dev :=
  let s := d.sweep grp
  if !s.running then d else
  let late := match d.sweeper grp with
    | none => false
    | some j => !s.overran && decide (d.sweepTicks ≤ d.sweepAge grp j)
  let d := if late then d.satInc row_LSS_SWEEP_STATUS 0 f_LSS_SWEEP_STATUS_LATE else d
  let ht : Tab Nat := d.heat.filter fun h => d.groupOf (h.1 % 2 ^ 28) ≠ some grp
  let occ : Tab (Nat × Nat) := (d.ctxs.map fun c => (c.1, d.reach grp c.2)).filter fun e => e.2 ≠ (0, 0)
  let d : Dev := { d with heat := ht }
  let d := d.updSweep grp fun s => { s with running := false, overran := false, done := true, occ := occ, stalled := 0 }
  d.wrapInc row_LSS_SWEEP_STATUS 0 f_LSS_SWEEP_STATUS_SWEEPS

/-- Candidates as (extent, AGE) in the order of R84: descending AGE, ties by ascending identifier starting after the last victim,
which for each age is the last candidate before it. -/
def victimOrder (c : List (Nat × Nat)) (last : Option Nat) : List Nat :=
  ((List.range 256).reverse.foldl (fun (r : List Nat × Option Nat) a =>
    let l := (c.filter fun e => e.2 == a).map (·.1)
    let l := match r.2 with
      | none => l
      | some v => (l.filter fun x => v < x) ++ (l.filter fun x => x ≤ v)
    (r.1 ++ l, l.getLast?.orElse fun _ => r.2)) ([], last)).1

/-- Candidates of a group in the order of R84. -/
def Dev.victims (d : Dev) (grp : Nat) : List Nat :=
  let tops := (d.strat.elim [] fun g => (g.groupSets grp false).map (·.1))
  let subs := (d.strat.elim [] fun g => (g.groupSets grp true).map (·.1))
  let c := (d.descs.filter fun e => d.victimOk e.1 && tops.contains e.2.set && d.groupOf e.1 == some grp && !d.hasMove e.1 &&
    (!e.2.codec || subs.any d.setCodec)).map fun e => (e.1, e.2.age)
  victimOrder c (d.sweep grp).lastVictim

/-- Demotion of a group (R84): it starts when FREE_SLOTS falls below LOW_WM and goes on until it reaches HIGH_WM; candidates are
queued for what is still wanted, or POOL_LOW is raised where there are none. -/
def Dev.poolDemote (d : Dev) (grp : Nat) : Dev :=
  let pool := d.poolSize grp
  let low := d.fld row_LSS_POOL grp f_LSS_POOL_LOW_WM * pool
  let high := d.fld row_LSS_POOL grp f_LSS_POOL_HIGH_WM * pool
  let subs := (d.strat.elim [] fun g => (g.groupSets grp true).map (·.1))
  let pressed := subs.all fun s => (d.sq s).pressure
  let s := d.sweep grp
  if d.fld row_LSS_CTL 0 f_LSS_CTL_DEMOTE_EN = 0 || (d.enginesOf grp).isEmpty then d else
  let free := d.poolFree grp
  let on := (s.demoting || decide (free * 1024 < low)) && decide (free * 1024 < high)
  let d := d.updSweep grp fun s => { s with demoting := on }
  let going := (d.moves.filter fun m => m.kind == .demoteAuto && d.groupOf m.ext == some grp).length
  if !on || s.stalled = 2 || (s.stalled = 1 && pressed) || high ≤ (free + going) * 1024 then d else
  let vs := if pressed then [] else (d.victims grp).take ((high + 1023) / 1024 - (free + going))
  match vs.getLast? with
  | none =>
    let d := d.satInc row_LSS_EVICT_CNT grp f_LSS_EVICT_CNT_STALLS
    (d.updSweep grp fun s => { s with stalled := if pressed then 1 else 2 }).event none 0x06 0 grp
  | some x =>
    let d := d.each vs fun d x => d.queueMove {
      ext := x, kind := .demoteAuto, want := none, pin := false, cmd := none, engine := none, src := (d.desc x).home,
      dst := (d.desc x).home, step := 0, since := 0, journal := grp }
    d.updSweep grp fun s => { s with lastVictim := some x, stalled := 0 }

/-! ### Plans, windows, mirrors (R87 to R91) -/

/-- STORED counters lowered by what a window slot holds. -/
def Dev.slotClear (d : Dev) (w : WSlot) : Dev :=
  let e : Desc := { len := w.len, gen := w.gen }
  if w.layer.isNone then d else (d.storedDec w.tensor false (e.coded false)).storedDec w.tensor true (e.coded true)

/-- Unload plan p (R231, R243): fills cancelled, slots returned, a LOAD not complete ends with REVOKED, and operations that
wait on its slots are told so. -/
def Dev.planDrop (d : Dev) (p : Nat) : Dev :=
  let x := d.plan p
  if x.st == .none_ then d else
  let d := x.engine.elim d fun j => d.discharge (loessMaster j) x.charge
  let d := d.each x.slots Dev.slotClear
  let mv : List Move := d.moves.filter fun (m : Move) => !(m.step = 0 && m.cmd.isSome && m.cmd == x.cmd)
  let d := { d with plans := d.plans.set p {} {}, moves := mv }
  let d := d.completeOpt x.cmd 0x02 0 0
  let d := d.setFld row_LSS_PLAN p f_LSS_PLAN_WINDOW_LATE 0
  let hit := fun (o : TOp) => if !o.started && o.fills.any (fun f => f.1 == p) then o.fail 0x02 else o
  d.each (List.range 8) fun d b => d.updBed b fun y => { y with run := y.run.map hit, pend := y.pend.map hit }

/-- Copy the written blocks of extent x, as stored, to a window slot at h; a block that cannot be read or written makes the copy
bad. -/
def Dev.copyBlocks (d : Dev) (a : Agent) (ph : Phys) (x : Nat) (h : Home) : List Nat → Bool × Dev
  | [] => (true, d)
  | k :: t =>
    let (r, d) := d.served x k fun d s mirror => d.storedRead a ph x k s mirror
    let (ok, d) := match r with
      | none => (false, d)
      | some st => d.placeCodes a ph h.set ((d.desc x).blkAt h k) (st.map loamEncode)
    let (rest, d) := d.copyBlocks a ph x h t
    (ok && rest, d)

/-- The poison entries of block k of extent x at its home, entered for its mirror at h as well (DESIGN CHOICE, log 42: the mirror
holds the same bytes, those of a lost granule too). -/
def Dev.mirrorPoison (d : Dev) (x k : Nat) (h : Home) : Dev :=
  let l := (d.poisons.map (·.2)).filter fun p => (p.kind == 1 || p.kind == 2) && p.ext == x && p.blk == k && !p.mirror
  d.each l fun d p =>
    let ga := (d.desc x).blkAt h k + p.grn
    d.poisonAdd { p with sub := h.sub, set := h.set, gaddr := ga, mirror := true, channel := (d.place h.set ga).elim 0 (·.ch) }

/-- Write blocks of extent x, as its home stores them, to a mirror at h: false where one does not get there. -/
def Dev.mirrorBlocks (d : Dev) (j : Nat) (ph : Phys) (x : Nat) (h : Home) : List Nat → Bool × Dev
  | [] => (true, d)
  | k :: t =>
    match d.carryBlock (loessAgent j) ph x k false with
    | (none, d) => (false, d)
    | (some cs, d) => match d.placeCodes (loessAgent j) ph h.set ((d.desc x).blkAt h k) cs with
      | (false, d) => (false, d)
      | (true, d) => (d.mirrorPoison x k h).mirrorBlocks j ph x h t

/-- What the writing of a mirror of extent x in set s moves, by set (R258). -/
def Dev.mirrorCharge (d : Dev) (x s : Nat) : List (Nat × Nat) :=
  addCharge (addCharge [] (d.desc x).set (d.desc x).used) s (d.desc x).used

/-- Write the mirror of extent x in set s and set CLASS (R60, R87 steps 2 and 3, R91): SUCCESS, NOSPACE when the set has no run for it,
POISON when it cannot be written, in a set that is fenced (DESIGN CHOICE, log 42: the spec does not say). -/
def Dev.mirrorWrite (d : Dev) (j : Nat) (ph : Phys) (x s : Nat) : Nat × Dev :=
  let d := (d.mirrorDrop x).updDesc x fun e => { e with reload := false }
  let e := d.desc x
  match d.smallestRun s (max 1 e.mirrorSlabs) with
  | none => (0x08, d)
  | some m =>
    match d.mirrorBlocks j ph x ⟨true, s, m, e.mirrorSlabs⟩ e.written with
    | (false, d) => (0x07, d)
    | (true, d) =>
      let d := if e.codec then (d.storedInc e.tensor false (e.coded false)).storedInc e.tensor true (e.coded true) else d
      (0, (d.updDesc x fun e => { e with mirror := some (s, m), ro := true }).pressureAll)

/-- Queue the fill of a layer into the ring positions that follow (R89). -/
def Plan.queueFill (p : Plan) (l : Nat) : Plan :=
  let n := p.slots.length
  let c := (p.layer l).2
  { p with pos := p.pos.set l p.next 0, next := if n = 0 then 0 else (p.next + c) % n, fills := p.fills ++ [(l, p.next)] }

/-- Window slots: the lowest free ones of the named set, then of the group's other topsoil sets (log 13). -/
def Dev.windowTake (d : Dev) (set n : Nat) : List WSlot :=
  let grp := (d.set? set).elim 16 (·.group)
  let sets := set :: ((d.strat.elim [] fun g => (g.groupSets grp false).map (·.1)).filter (· ≠ set))
  let free := sets.flatMap fun s => (d.gaps s).flatMap fun g => (List.range (min g.2 n)).map fun i => (s, g.1 + i)
  (free.take n).map fun f => { set := f.1, loc := f.2 }

/-- Is plan p being loaded, with none of its moves to come. -/
def Dev.planGoes (d : Dev) (p : Nat) : Bool :=
  let x := d.plan p
  x.st == .loading && x.cmd.isSome && !d.moves.any fun m => m.cmd == x.cmd

/-- The entries of a plan whose extents are not at their homes, or are moving. -/
def Dev.planOff (d : Dev) (p : Nat) : List PEnt :=
  (d.plan p).entries.filter fun t => let e := d.desc t.ext; !(e.st == .stable && e.sub == t.sub && e.set == t.set)

/-- Step 1 of an accepted plan (R87): each listed extent is moved to its home; one whose move was abandoned is queued again
(log 20). -/
def Dev.planHome (d : Dev) (p : Nat) : Dev :=
  if !d.planGoes p then d else
  d.each (d.planOff p) fun d t => d.queueMove {
    ext := t.ext, kind := .plan, want := some (t.sub, t.set), pin := t.pin, cmd := (d.plan p).cmd, engine := none,
    src := (d.desc t.ext).home, dst := (d.desc t.ext).home, step := 0, since := 0, journal := 0 }

/-- Write the mirrors that entries ask for, by engines of their groups; the first failure. -/
def Dev.planMirrors (d : Dev) (ph : Phys) (eng : Nat → Option Nat) : List PEnt → Nat × Dev
  | [] => (0, d)
  | t :: l => match t.mirror with
    | none => d.planMirrors ph eng l
    | some s => match d.mirrorWrite ((eng t.ext).getD 0) ph t.ext s with
      | (0, d) => d.planMirrors ph eng l
      | (st, d) => (st, d)

/-- Steps 2 and 3 of a plan: mirrors, once their engines' ceilings let them be written (R259), then CLASS, which no entry clears (R60),
and PIN. A mirror that finds no run ends the command with NOSPACE. -/
def Dev.planClass (d : Dev) (ph : Phys) (p : Nat) : Dev :=
  let x := d.plan p
  let eng := fun (y : Nat) => (d.groupOf y).elim none fun g => (d.enginesOf g).head?
  let waits := fun (t : PEnt) => t.mirror.elim false fun s => (eng t.ext).elim true fun j => !d.ceilOk (loessMaster j) (d.mirrorCharge t.ext s)
  if !d.planGoes p || x.entries = [] || d.planOff p ≠ [] || x.entries.any waits then d else
  match d.planMirrors ph eng x.entries with
  | (st + 1, d) => (d.completeOpt x.cmd (st + 1) 0 0).updPlan p fun x => { x with st := .failed, cmd := none, entries := [] }
  | (0, d) =>
    let d := d.each x.entries fun d t => d.updDesc t.ext fun e => { e with ro := e.ro || t.ro, pin := e.pin || t.pin }
    d.updPlan p fun x => { x with entries := [] }

/-- Steps 4 and 5 of a plan: its slots are assigned, once so many are free (DESIGN CHOICE, log 42), and layers 0 to k - 1 are queued
to fill; with k above LAYER_COUNT each layer is filled once (DESIGN CHOICE, log 42). -/
def Dev.planSlots (d : Dev) (p : Nat) : Dev :=
  let x := d.plan p
  let ws := if x.slotCount = 0 then [] else d.windowTake x.set x.slotCount
  if !d.planGoes p || x.slotted || x.entries ≠ [] || ws.length < x.slotCount then d else
  d.updPlan p fun x => (List.range (min x.look x.layers.length)).foldl Plan.queueFill { x with slots := ws, slotted := true }

/-- Is an extent of region r being reloaded (R91). -/
def Dev.reloading (d : Dev) (r : Nat) : Bool := d.descs.any fun e => e.2.region == r && e.2.reload

/-- Step 6: the command completes when the fills are made. -/
def Dev.planDone (d : Dev) (p : Nat) : Dev :=
  let x := d.plan p
  if d.planGoes p && x.slotted && x.fills = [] && !x.filling then
    (d.updPlan p fun y => { y with st := if d.reloading x.region then .reloading else .active, cmd := none }).completeOpt x.cmd 0 p 0
  else d

/-- The steps of an accepted plan, each when the one before it is done (R87). -/
def Dev.planAdvance (d : Dev) (ph : Phys) (p : Nat) : Dev := (((d.planHome p).planClass ph p).planSlots p).planDone p

/-- A slot of a plan's ring. -/
def Plan.slotAt (x : Plan) (i : Nat) : WSlot := x.slots.getD i ⟨0, 0, false, none, 0, false, 0, 0, 0⟩
def Plan.setSlot (x : Plan) (i : Nat) (w : WSlot) : Plan := { x with slots := x.slots.set i w }

/-- Granules that the extents of a fill move: of the homes they are read from, and of the slots they are written to. -/
def Dev.fillCharge (d : Dev) (x : Plan) (si : List (Nat × Nat)) : List (Nat × Nat) × List (Nat × Nat) :=
  si.foldl (fun o e => match mapAt (d.rgn x.region).runs e.2 with
    | none => o
    | some y => let n := (d.desc y).used
                (addCharge o.1 (d.desc y).set n, addCharge o.2 (x.slotAt e.1).set n)) ([], [])

/-- One extent of a fill of layer l by engine j: what slot i held is gone, the extent's blocks are copied into it. -/
def Dev.fillSlot (d : Dev) (p j l : Nat) (ph : Phys) (si : Nat × Nat) : Dev :=
  let x := d.plan p
  let w := x.slotAt si.1
  let d := d.slotClear w
  match mapAt (d.rgn x.region).runs si.2 with
  | none => d.updPlan p fun x => x.setSlot si.1 { set := w.set, loc := w.loc, layer := some l, bad := true }
  | some y =>
    let e := d.desc y
    let (good, d) := if e.reload then (false, d) else d.copyBlocks (loessAgent j) ph y ⟨false, w.set, w.loc, 0⟩ e.written
    let d := if good && e.codec then (d.storedInc e.tensor false (e.coded false)).storedInc e.tensor true (e.coded true) else d
    d.updPlan p fun x => x.setSlot si.1
      ⟨w.set, w.loc, false, some l, y, !good, e.tensor, if good && e.codec then e.gen else 0, if good then e.len else 0⟩

/-- Start the next queued fill of plan p (R89): by an engine in its turn, within its ceilings (R259); where no engine of the
partition is available what waits on the fill meets POISON. -/
def Dev.fillStart (d : Dev) (p : Nat) (ph : Phys) : Dev :=
  let x := d.plan p
  match x.fills with
  | [] => d
  | (l, q) :: _ =>
    let grp := (d.set? x.set).elim 0 (·.group)
    let es := d.enginesOf grp
    if x.filling then d
    else match es[d.rr.get grp 0 % max 1 es.length]? with
      | none => d.updPlan p Plan.unfilled
      | some j =>
        let (rd, wr) := d.fillCharge x (x.ring l q)
        if !d.ceilOk (loessMaster j) (wr.foldl (fun o c => addCharge o c.1 c.2) rd) || (rd ++ wr).any fun c => d.setStopped c.1 then d else
        let d := { d with rr := d.rr.upd grp 0 (· + 1) }
        let d := ((d.charge (loessMaster j) rd).charge (loessMaster j) wr).updPlan p fun x =>
          { x with filling := true, engine := some j, charge := wr }
        (d.each (x.ring l q) fun d si => d.fillSlot p j l ph si).discharge (loessMaster j) rd

/-- The fill in hand ends (R88, R89): READY on its slots; slots that could not be filled stay bad. -/
def Dev.fillEnd (d : Dev) (p : Nat) : Dev :=
  let x := d.plan p
  match x.fills with
  | [] => d
  | (l, q) :: t =>
    if !x.filling then d else
    let is := (x.ring l q).map (·.1)
    let d := x.engine.elim d fun j => d.discharge (loessMaster j) x.charge
    d.updPlan p fun x =>
      let ws : List WSlot := ((List.range x.slots.length).zip x.slots).map fun (iw : Nat × WSlot) =>
        if is.contains iw.1 then { iw.2 with ready := !iw.2.bad } else iw.2
      { x with fills := t, filling := false, charge := [], engine := none, slots := ws }

/-- WIN on layer l of plan p (R89): none is WIN_ORDER. -/
def Dev.planWin (d : Dev) (p l : Nat) : Option Dev :=
  let x := d.plan p
  let n := x.layers.length
  if x.st == .none_ || n = 0 || l ≠ x.oldest then none else
  let is := (x.ring l (x.pos.get l 0)).map (·.1)
  let d := d.each (is.map x.slotAt) Dev.slotClear
  some (d.updPlan p fun x =>
    let ws : List WSlot := ((List.range x.slots.length).zip x.slots).map fun (iw : Nat × WSlot) =>
      if is.contains iw.1 then { set := iw.2.set, loc := iw.2.loc } else iw.2
    let x := { x with slots := ws }
    { (x.queueFill ((l + x.look) % n)) with oldest := (l + 1) % n, wins := x.wins + 1 })

/-! ### Region reclaim (R86) -/

/-- Clear the next 256 extents of a reclaiming region in map order, stopping before one that is MOVING (R85); RECLAIM_CURSOR moves on
after every 256. -/
def Dev.reclaimClear (d : Dev) (r : Nat) : Dev :=
  let g := d.rgn r
  let ids := (((mapList g.runs).drop g.cursor).take 256).takeWhile fun x => (d.desc x).st ≠ .moving
  let d := (d.each ids Dev.extFree).pressureAll
  if ids.length = 256 then d.updRgn r fun g => { g with cursor := g.cursor + 256 } else d

/-- Is every extent of a reclaiming region FREE, those that a trim removed among them. -/
def Dev.reclaimed (d : Dev) (r : Nat) : Bool :=
  (((mapList (d.rgn r).runs).drop (d.rgn r).cursor) ++ (d.rgn r).gone).all fun x => (d.desc x).st == .free

/-- Is any binding of region r valid. -/
def Dev.bound (d : Dev) (r : Nat) : Bool := d.ctxs.any fun c => c.2.binds.any fun b => b.2.len ≠ 0 && b.2.region == r

/-- Step 4: the region becomes FREE. -/
def Dev.reclaimDone (d : Dev) (r : Nat) : Dev :=
  let g := d.rgn r
  (d.setRgn r {}).completeOpt g.cmd 0 0 0

/-- Extents that a trim removed become FREE once they are not MOVING; then the trim completes (R85, R243). -/
def Dev.trimDue (d : Dev) (r : Nat) : Dev :=
  let g := d.rgn r
  let (wait, go) := g.gone.partition fun x => (d.desc x).st == .moving
  if g.trimCmds = [] then d else
  let d := (d.each go Dev.extFree).pressureAll
  if wait ≠ [] then d.updRgn r fun g => { g with gone := wait }
  else d.each g.trimCmds (fun d c => d.complete c 0 0 0) |>.updRgn r fun g => { g with gone := [], trimCmds := [] }

end Sys2Proof.Machine
end

