-- ==== Sys2Proof/Machine/Qos.lean ====
section
/-! DEFINITION. Regulation: shares, CMIN, ceilings (R252, R258 to R260), the scale factor (R263). -/
namespace Sys2Proof.Machine

/-- CEIL_MAX (R259). -/
def ceilMax : Nat := 16777215

/-- F_s in bytes a second (R252). -/
def SSet.floorRate (S : SSet) : Nat := S.channels.length * (if S.sub then 32030000000 else 88560000000)

/-- T_REF of a set in ns. -/
def Dev.tRef (d : Dev) (sub : Bool) : Nat :=
  100 * d.fld row_QOS_CTL 0 (if sub then f_QOS_CTL_T_REF_SUB else f_QOS_CTL_T_REF_TOP)

/-- CMIN of a master on a set at the scale factor in force (R259). -/
def Dev.cmin (d : Dev) (s i : Nat) : Nat :=
  match d.set? s with
  | none => 0
  | some S =>
    let den := 1024 * 1024 * 32 * 1000000000
    (d.share s i * S.floorRate * (d.sq s).k * d.tRef S.sub + den - 1) / den

/-- Raise every ceiling of a set that lies below its CMIN (R259, R265). -/
def Dev.ceilRaise (d : Dev) (s : Nat) : Dev :=
  d.each (List.range 30) fun d i =>
    if d.ceiling s i < d.cmin s i then
      let c := d.cmin s i
      d.updSq s fun q => { q with ceil := q.ceil.set i c 0 }
    else d

/-- The ceilings of a set at a stratum load (R259). -/
def Dev.ceilStart (d : Dev) (s : Nat) : Dev :=
  d.each (List.range 30) fun d i =>
    let c := max (d.cmin s i) 2048
    d.updSq s fun q => { q with ceil := q.ceil.set i c 0 }

end Sys2Proof.Machine
end

