-- ==== Sys2Proof/Machine/Reqs.lean ====
section
/-! DEFINITION. Link requests inside the device (R317 to R329): translation, credits, ceilings, application at the home,
doorbells, the park queue. The rows of the link are in Link.lean. -/
namespace Sys2Proof.Machine

/-! ### Requests -/

/-- The port as an agent. -/
def portAgent (p : Nat) : Agent := { src := 0, die := dieOfPort p, dom := portDom p, master := p }
/-- The agent of a request whose pieces were accepted with their classes. -/
def Req.agent (r : Req) : Agent := { portAgent r.port with classes := r.queued }

/-- Is the RT_MASK bit of a port set (R261). -/
def Dev.rt (d : Dev) (p : Nat) : Bool := d.strat.elim false fun g => g.rtMask.getLsbD p

/-- Entries of port p's park queue: requests and doorbells (R227). -/
def Dev.parkUsed (d : Dev) (p : Nat) : Nat :=
  (d.reqs.filter fun r => r.port == p && r.stage == .parkQ).length + (d.waiters.filter fun w => w.port == p && !w.held).length

/-! ### Charges and reservations (R258, R319) -/

/-- The charge of a request on each set. -/
def Dev.reqCharge (d : Dev) (r : Req) : List (Nat × Nat) :=
  r.exts.foldl (fun l x =>
    let e := d.desc x.1
    addCharge l e.set (if r.ty = 1 then e.readCharge x.2.1 x.2.2 else e.writeCharge x.2.1 x.2.2)) []

/-- The coded tables that a wire completion over these parts refers to: (tensor, generation). -/
def Dev.wireTables (d : Dev) (xs : List (Nat × Nat × Nat)) : List (Nat × Nat) :=
  (xs.flatMap fun x =>
    let e := d.desc x.1
    (splitBlocks x.2.1 x.2.2).filterMap fun b =>
      let c := e.lenOf b.1
      if 2 ≤ c ∧ c ≤ 62 then some (e.tensor, b2n (e.genOf b.1)) else none).dedup

/-- Does port p's far end hold a table with its current serial (R324). -/
def Dev.farHolds (d : Dev) (p : Nat) (t : Nat × Nat) : Bool :=
  let ser := ((d.tensor t.1).slot (t.2 == 1)).serial
  (d.port p).far.any fun e => e.2.1 == t.1 && e.2.2.1 == t.2 && e.2.2.2.1 == ser

/-- Is a request answered in compressed wire mode (R123, R324). -/
def Dev.wireMode (d : Dev) (r : Req) : Bool :=
  let x := d.port r.port
  let need := (d.wireTables r.exts).filter fun t => !d.farHolds r.port t
  r.ty == 1 && bitOf r.h.flags.toNat 0 && d.fld row_GRD_CTL 0 f_GRD_CTL_WIRE_EN == 1 && x.cw && r.exts ≠ [] &&
    (r.exts.all fun e => (d.desc e.1).codec && decide (e.2.1 % 64 = 0 ∧ e.2.2 % 64 = 0)) &&
    (need = [] || (!x.tableHold && need.length ≤ x.tableCap))

/-- w(c) of each block of parts, and their sum (R106). -/
def Dev.blockLens (d : Dev) (xs : List (Nat × Nat × Nat)) : List Nat :=
  xs.flatMap fun x => (splitBlocks x.2.1 x.2.2).map fun b => wGran ((d.desc x.1).lenOf b.1)
def Dev.wireGran (d : Dev) (xs : List (Nat × Nat × Nat)) : Nat := (d.blockLens xs).sum

/-- C of R319: credits of the whole completion, with its table pushes. -/
def Dev.rspNeed (d : Dev) (r : Req) : Nat :=
  if r.compressed then
    vcGran (d.wireGran r.exts) + 10 * ((d.wireTables r.exts).filter fun t => !d.farHolds r.port t).length
  else vcGran (if r.ty = 1 then r.h.length.toNat else 0)

/-! ### Application at the home -/

/-- Do two lists of parts touch a common granule. -/
def partsMeet (a b : List (Nat × Nat × Nat)) : Bool :=
  a.any fun x => b.any fun y => x.1 == y.1 && decide (x.2.1 < y.2.1 + y.2.2 ∧ y.2.1 < x.2.1 + x.2.2)

/-- Is a request held back by an earlier one of its port on a common granule that is not applied yet (R327). -/
def Dev.behind (_d : Dev) (r : Req) (before : List Req) : Bool :=
  before.any fun q => q.port == r.port && q.status == 0 &&
    (q.stage == .credits || q.stage == .ceiling || q.stage == .waitMove || (q.stage == .issued && q.pieces ≠ [])) &&
    partsMeet q.exts r.exts

/-- Transit form of a block, served as any read is (R90): none is POISON (R106, R123). -/
def Dev.wireBlock (d : Dev) (a : Agent) (ph : Phys) (x k : Nat) : Option (List Gran) × Dev :=
  let (r, d) := d.served x k fun d h mirror => d.storedRead a ph x k h mirror
  (r.map fun st => transit ((d.desc x).lenOf k) (d.desc x).tensor x k st, d)

/-- Blocks in transit form one after another. -/
def Dev.wireBlocks (d : Dev) (a : Agent) (ph : Phys) : List (Nat × Nat) → Option (List Gran) × Dev
  | [] => (some [], d)
  | (x, k) :: t =>
    let (b, d) := d.wireBlock a ph x k
    let (r, d) := d.wireBlocks a ph t
    (match b, r with
      | some b, some l => some (b ++ l)
      | _, _ => none, d)

/-- The blocks of parts in transit form: none is POISON, where one of them is denied without any access (R300). -/
def Dev.wireRead (d : Dev) (a : Agent) (ph : Phys) (l : List (Nat × Nat)) : Option (List Gran) × Dev :=
  if l.any fun b => d.denied b.1 b.2 0 64 then (none, d) else d.wireBlocks a ph l

/-- Decoded granules of parts one after another. -/
def Dev.readRuns (d : Dev) (a : Agent) (ph : Phys) : List (Nat × Nat × Nat) → Option (List Gran) × Dev
  | [] => (some [], d)
  | (x, o, n) :: t =>
    let (b, d) := d.readExtent a ph x (splitBlocks o n)
    let (r, d) := d.readRuns a ph t
    (match b, r with
      | some b, some l => some (b ++ l)
      | _, _ => none, d)

/-- Is a part of a read denied. -/
def Dev.partsDenied (d : Dev) (l : List (Nat × Nat × Nat)) : Bool :=
  l.any fun x => (splitBlocks x.2.1 x.2.2).any fun b => d.denied x.1 b.1 b.2.1 b.2.2

/-- Decoded granules of parts: none is POISON, where one of them is denied without any access (R300). -/
def Dev.partRead (d : Dev) (a : Agent) (ph : Phys) (l : List (Nat × Nat × Nat)) : Option (List Gran) × Dev :=
  if d.partsDenied l then (none, d) else d.readRuns a ph l

/-- Write parts in address order; the first failure ends the request, the earlier extent keeping what was applied (R71). -/
def Dev.partWrite (d : Dev) (a : Agent) (ph : Phys) (gs : List Gran) (ms : List (BitVec 32)) :
    List (Nat × Nat × Nat) → Nat × Dev
  | [] => (0, d)
  | (x, o, n) :: t =>
    match d.writeExtent a ph x (mkWrites o (gs.take n) ms) with
    | (0, d) => d.partWrite a ph (gs.drop n) (ms.drop n) t
    | (s, d) => (s, d)

/-- Coded blocks that parts cover, as references (2 × tensor + generation, count) (R118). -/
def Dev.partRefs (d : Dev) (xs : List (Nat × Nat × Nat)) : List (Nat × Nat) :=
  xs.flatMap fun x =>
    let e := d.desc x.1
    (splitBlocks x.2.1 x.2.2).filterMap fun b =>
      let c := e.lenOf b.1
      if 2 ≤ c ∧ c ≤ 62 then some (2 * e.tensor + b2n (e.genOf b.1), 1) else none

/-- The 64-bit word i of a granule, and the granule with it replaced. -/
def granWord (g : Gran) (i : Nat) : Word := g.extractLsb' (64 * i) 64
def granSetWord (g : Gran) (i : Nat) (w : Word) : Gran :=
  BitVec.ofNat 256 (g.toNat - (granWord g i).toNat * 2 ^ (64 * i) + w.toNat * 2 ^ (64 * i))

/-- The masks of a WRP mask granule (R322). -/
def wrpMasks (m : Gran) (n : Nat) : List (BitVec 32) := (List.range n).map fun i => m.extractLsb' (32 * i) 32

/-- What an ATOM writes (R322). AOP 0 is FETCH_ADD, 1 CAS. -/
def atomNew (aop : Nat) (old arg swap : Word) : Word := if aop = 0 then old + arg else if old = arg then swap else old

/-- Apply an ATOM on part x at its home (R322): its operand goes there, the old value comes back (R11). -/
def Dev.applyAtom (d : Dev) (r : Req) (x : Nat × Nat × Nat) : Dev :=
  let a := r.agent
  let home := d.atHome a x.1
  let e := d.desc x.1
  let key := granKey e.set (e.home.start + x.2.1)
  match d.cross r.ph key a.die home.die (r.data.getD 0 0) with
  | (none, d) => d.failReq r.id 0x07
  | (some arg, d) => match d.partRead home r.ph [x] with
    | (none, d) => d.failReq r.id 0x07
    | (some g, d) =>
      let g := g.getD 0 0
      let i := bits r.h.flags.toNat 3 2
      let new := atomNew (bits r.h.flags.toNat 1 2) (granWord g i) (granWord arg 0) (granWord arg 1)
      match d.partWrite home r.ph [granSetWord g i new] [] [x] with
      | (0, d) => match d.cross r.ph key home.die a.die g with
        | (none, d) => d.failReq r.id 0x07
        | (some g, d) => (d.updReq r.id fun q => { q with stage := .issued, result := granWord g i }).release r.id
      | (st, d) => d.failReq r.id st

/-- The granules that a write is about to change, as they are stored: those of raw blocks of extents without a codec (R283, log 43). -/
def Dev.undoOf (d : Dev) (r : Req) : List (Nat × Nat × Code) :=
  r.exts.flatMap fun x =>
    let e := d.desc x.1
    if e.codec then [] else
    (splitBlocks x.2.1 x.2.2).flatMap fun b =>
      if e.lenOf b.1 ≠ 63 then [] else
      (List.range b.2.2).map fun i => let ga := e.blkAt e.home b.1 + b.2.1 + i
                                      (e.set, ga, d.memGet e.set ga)

/-- Apply a request at its home, once its last piece has been accepted (R275; all of it then, log 43). -/
def Dev.applyReq (d : Dev) (r : Req) : Dev :=
  let a := r.agent
  if r.ty = 1 then
    let refs := d.partRefs r.exts
    let (o, d) := if r.compressed then
        d.wireRead a r.ph (r.exts.flatMap fun x => (splitBlocks x.2.1 x.2.2).map fun b => (x.1, b.1))
      else d.partRead a r.ph r.exts
    match o with
    | none => d.failReq r.id 0x07
    | some g => (d.refsTake refs).updReq r.id fun q => { q with stage := .issued, out := g, refs := refs }
  else if r.ty = 4 then
    match r.exts with
    | [] => d.failReq r.id 0x07
    | x :: _ => d.applyAtom r x
  else
    let d0 := d
    let (gs, ms) := if r.ty = 3 then (r.data.drop 1, wrpMasks (r.data.getD 0 0) (r.data.length - 1)) else (r.data, [])
    let (st, d) := d.partWrite a r.ph gs ms r.exts
    if st ≠ 0 then d.failReq r.id st
    else (d.updReq r.id fun q => { q with stage := .issued, undo := d0.undoOf r }).release r.id

/-- Granules that a part of a request moves at a home or mirror (R258), each with its place: the stored ones of a coded block that is read
or written in part, and 64 of a codec block that is written; of a raw block those of the part. -/
def Desc.partGrans (e : Desc) (h : Home) (write : Bool) (o n : Nat) : List Nat :=
  (splitBlocks o n).flatMap fun b =>
    let c := e.lenOf b.1
    let at_ := e.blkAt h b.1
    let some_ := (List.range b.2.2).map fun i => at_ + b.2.1 + i
    let all := fun (k : Nat) => (List.range k).map (at_ + ·)
    if !write then (if c = 63 then some_ else all (lenG c))
    else if !e.codec then some_
    else (if b.2.2 = 64 then [] else all (lenG c)) ++ all 64

/-- The pieces that a request is cut into, as granules at each instance (R255, R273): those of a read that a mirror serves go there, a
fenced set has none, nor has a read that is denied (R300). -/
def Dev.reqPieces (d : Dev) (r : Req) : List (Nat × Nat) :=
  if r.ty = 1 && d.partsDenied r.exts then [] else
  (r.exts.flatMap fun x =>
    let e := d.desc x.1
    let bad := (splitBlocks x.2.1 x.2.2).any fun b => d.meets x.1 b.1 b.2.1 b.2.2 e.home false
    let h := if r.ty = 1 && e.ro && bad then e.mirrorHome.getD e.home else e.home
    if d.setFenced h.set then [] else
    (e.partGrans h (r.ty ≠ 1) x.2.1 x.2.2).filterMap fun ga => (d.place h.set ga).map fun p => instOfChan p.sub p.ch).foldl
      (fun l i => addCharge l i 1) []

/-- Step 3: reserve RSP credits. -/
def Dev.reserve (d : Dev) (r : Req) : Dev :=
  (d.updPort r.port fun x => { x with rspResv := x.rspResv + r.resv }).updReq r.id fun q => { q with held := r.resv }

/-- Are the length codes of a wire read those of its translation; where they are not the read answers LEN_CHANGED, its charge and its
reservation are released, and the port reserves again; the eighth in a row for one block is NACK_RETRY (R135, R319). -/
def Dev.lenChanged (d : Dev) (r : Req) : Option Dev :=
  if !r.compressed || d.blockLens r.exts = r.tries.map (·.1) then none else
  let again := ((d.blockLens r.exts).zip r.tries).map fun e => (e.1, if e.1 = e.2.1 then 0 else e.2.2 + 1)
  if again.any fun e => 8 ≤ e.2 then some (d.failReq r.id 0x0B)
  else some (((d.release r.id).creditBack r.id 0).updReq r.id fun q => { q with
    stage := .credits, held := 0, resv := d.rspNeed r, tries := again, cost := d.reqCharge r, queued := [] })

/-- Do the reads of a request wait for an instance that holds a piece of it and brings no data now (R19, R297). -/
def Dev.readWaits (d : Dev) (r : Req) : Bool := r.ty == 1 && r.queued.any fun q => (d.inst q.1).stopped

/-- Every piece of an issued request has been accepted: it is applied, or the read answers LEN_CHANGED. -/
def Dev.applyDue (d : Dev) (id : Nat) : Dev :=
  match d.reqOf id with
  | none => d
  | some r => if r.stage ≠ .issued || r.pieces ≠ [] || r.status ≠ 0 || d.readWaits r then d else (d.lenChanged r).getD (d.applyReq r)

/-- Steps 4 and 5 for one request: it waits behind an earlier one, for an extent that moves, for its ceiling; then its pieces go to the
instances. -/
def Dev.issueReq (d : Dev) (r : Req) (before : List Req) : Dev :=
  let isW := r.ty ≠ 1
  if d.behind r before then d
  else if isW && r.exts.any (fun x => (d.desc x.1).st == .moving) then d.updReq r.id fun q => { q with stage := .waitMove }
  else
    let now := d.reqCharge r
    let c := if now.map (·.1) = r.cost.map (·.1) then r.cost else now
    if !d.ceilOk r.cmaster c then d.updReq r.id fun q => { q with stage := .ceiling }
    else ((d.charge r.cmaster c).updReq r.id fun q => { q with stage := .issued, charge := c, pieces := d.reqPieces r }).applyDue r.id

/-- Order of waiting for credits: deadlines first, earliest first, then arrival (R320). -/
def edfBefore (a b : Req) : Bool :=
  match a.ticks, b.ticks with
  | some x, some y => decide (a.t0 + x < b.t0 + y)
  | some _, none => true
  | _, _ => false

/-- Insert a request in that order, after its equals. -/
def edfIns (r : Req) : List Req → List Req
  | [] => [r]
  | q :: t => if edfBefore r q then r :: q :: t else q :: edfIns r t

/-! ### Port window (R332, R344) -/

/-- The port status granule. -/
def Dev.portStatus (d : Dev) (p : Nat) : Gran :=
  BitVec.ofNat 256 (b2n (d.host p).isSome + b2n (d.fmOn p) * 2 + (d.host p).elim 0 (·.period) * 2 ^ 16 +
    (d.ring (.port (Fin.ofNat 16 p))).sqHead * 2 ^ 32 + (d.evq.get p {}).tail * 2 ^ 48)

/-- Offset o of port p's window: none where there is nothing, else whether it is written (true) or read. -/
def Dev.winArea (d : Dev) (p o : Nat) : Option Bool :=
  if o < 0x400 then (if d.portHost p then some true else none)
  else if o < 0x800 then (if d.portHost p then some false else none)
  else if o < 0x4800 then (if d.evqPresent p then some false else none)
  else if o < 0x4820 then some false
  else if o < 0x8000 then none
  else if o < 0xC000 then (if d.fmOn p then some true else none)
  else if o < 0x10000 then (if d.fmOn p then some false else none)
  else none

/-- The byte offsets that a RD or WR with the port handle covers, and its status (R332). -/
def Req.offsets (r : Req) : List Nat := (List.range r.h.length.toNat).map fun i => r.h.addr.toNat + 32 * i
def Dev.windowStatus (d : Dev) (r : Req) : Nat :=
  if badRange r.h.addr.toNat r.h.length.toNat then 0x06
  else if r.offsets.any fun o => (d.winArea r.port o).isNone then 0x01
  else if r.offsets.any fun o => d.winArea r.port o ≠ some (r.ty == 2) then 0x03 else 0

/-- It is admitted: it needs the credits of its completion (R319). -/
def Dev.windowReq (d : Dev) (r : Req) : Dev :=
  if d.windowStatus r ≠ 0 then d.failReq r.id (d.windowStatus r)
  else d.updReq r.id fun q => { q with stage := .credits, resv := vcGran (if r.ty = 2 then 0 else r.h.length.toNat) }

/-- With them it reads or writes the window. -/
def Dev.windowAct (d : Dev) (r : Req) : Dev :=
  let p := r.port
  if d.windowStatus r ≠ 0 then d.failReq r.id (d.windowStatus r)
  else if r.ty = 2 then
    (d.each ((List.range r.offsets.length).zip r.offsets) fun d io => d.winSet p io.2 (r.data.getD io.1 0)).updReq r.id
      fun q => { q with stage := .ready }
  else
    let g := r.offsets.map fun o => if o = 0x4800 then d.portStatus p else d.winGet p o
    d.updReq r.id fun q => { q with stage := .ready, out := g }

/-! ### PUB (R246 to R248) -/

/-- Entries [i, i + n) of a map replaced by other runs. -/
def spliceRuns (l : List (Nat × Nat)) (i n : Nat) (m : List (Nat × Nat)) (join : List (Nat × Nat) → List (Nat × Nat)) :
    List (Nat × Nat) :=
  join ((mapCut l i).1 ++ m ++ (mapCut (mapCut l i).2 n).2)
where
  /-- The first k entries of a map and the rest. -/
  mapCut : List (Nat × Nat) → Nat → List (Nat × Nat) × List (Nat × Nat)
    | [], _ => ([], [])
    | (f, m) :: t, k =>
      if k = 0 then ([], (f, m) :: t)
      else if m ≤ k then let (a, b) := mapCut t (k - m); ((f, m) :: a, b)
      else ([(f, k)], (f + k, m - k) :: t)

/-- Runs with neighbours joined. -/
def joinRuns : List (Nat × Nat) → List (Nat × Nat)
  | [] => []
  | (f, n) :: t =>
    if n = 0 then joinRuns t else
    match joinRuns t with
    | (g, m) :: u => if f + n = g then (f, n + m) :: u else (f, n) :: (g, m) :: u
    | [] => [(f, n)]

/-- Run store entries in use, and its size (R251, R72). -/
def Dev.runsUsed (d : Dev) : Nat := (d.rgns.map fun r => r.2.runs.length).sum
def runCap : Nat := 67108864

/-- Indices i to i + n - 1 of a map as runs. -/
def rangeRuns (l : List (Nat × Nat)) (i n : Nat) : List (Nat × Nat) :=
  (spliceRuns.mapCut (spliceRuns.mapCut l i).2 n).1

/-- The operand reads of beds that are translated: their numbers and the blocks still to come. -/
def Dev.bedReads (d : Dev) : List (Nat × List RdBlk) :=
  (d.beds.flatMap fun b => b.2.run.toList ++ b.2.pend.toList).flatMap fun o =>
    (o.srcs.filter fun s => s.2.todo ≠ []).map fun s => (s.2.rid, s.2.todo)

/-- The writes of tensor operations that are translated and not made: their numbers and what they cover. -/
def Dev.bedWrites (d : Dev) : List (Nat × List OutRun) :=
  ((d.beds.flatMap fun b => b.2.run.toList ++ b.2.pend.toList).filter fun o => o.outs ≠ [] && !o.wrote).map fun o => (o.wid, o.outs)

/-- Accesses translated through region r or s and not complete (R247): requests of the link, reads and writes of beds, by their numbers. -/
def Dev.usersOf (d : Dev) (r s : Nat) (but : Nat) : List Nat :=
  let of := fun (x : Nat) => (d.desc x).region == r || (d.desc x).region == s
  ((d.reqs.filter fun q => q.id ≠ but && q.exts ≠ [] && q.binding.any fun b =>
    let g := ((d.ctx b.1).binds.get b.2 {}).region
    g == r || g == s).map (·.id)) ++
  (d.bedReads.filter fun e => e.2.any fun w => match w.place with
    | .ext x _ => of x
    | _ => false).map (·.1) ++ (d.bedWrites.filter fun e => e.2.any fun w => of w.ext).map (·.1)

/-- Is an access that a PUB waits for not complete. -/
def Dev.inUse (d : Dev) (n : Nat) : Bool := (d.reqOf n).isSome || (d.bedReads.any fun e => e.1 == n) || d.bedWrites.any fun e => e.1 == n

/-- PUB after its translations: the checks of R246 and the exchange. -/
def Dev.pubGo (d : Dev) (q : Req) (c a b n : Nat) (i j : Nat) : Dev :=
  let x := d.ctx c
  let ba := x.binds.get i {}
  let bb := x.binds.get j {}
  let wa := a / 65536
  let wb := b / 65536
  if ba.wbase + ba.len < wa + n || bb.wbase + bb.len < wb + n then d.failReq q.id 0x06 else
  let r := ba.region
  let s := bb.region
  let R := d.rgn r
  let S := d.rgn s
  let ia := ba.roff + (wa - ba.wbase)
  let ib := bb.roff + (wb - bb.wbase)
  let xa := rangeRuns R.runs ia n
  let xb := rangeRuns S.runs ib n
  let expect := granWord (q.data.getD 0 0) 1
  let plan := d.plans.any fun p => p.2.st ≠ .none_ && (p.2.region == r || p.2.region == s)
  if r = s || R.part ≠ S.part || R.st ≠ .active || S.st ≠ .active then d.failReq q.id 0x0F
  else if plan || (mapList (xa ++ xb)).any fun y => (d.desc y).ro then d.failReq q.id 0x0E
  else if R.epoch ≠ expect then
    ((d.satInc row_RGN_CNT 0 f_RGN_CNT_PUB_STALE).failReq q.id 0x0D).updReq q.id fun q => { q with result := R.epoch }
  else
    let Rr := spliceRuns R.runs ia n xb joinRuns
    let Sr := spliceRuns S.runs ib n xa joinRuns
    if runCap < d.runsUsed - R.runs.length - S.runs.length + Rr.length + Sr.length then d.failReq q.id 0x10 else
    let ws := d.usersOf r s q.id
    let d := d.each (mapList xa) fun d y => d.updDesc y fun e => { e with region := s }
    let d := d.each (mapList xb) fun d y => d.updDesc y fun e => { e with region := r }
    let d := d.updRgn r fun g => { g with runs := Rr, epoch := g.epoch + 1 }
    let d := d.updRgn s fun g => { g with runs := Sr }
    let d := d.wrapInc row_RGN_CNT 0 f_RGN_CNT_PUB_OK
    d.updReq q.id fun q => { q with stage := .ready, result := R.epoch + 1, waits := ws }

/-! ### The sequence of R320 -/

/-- A PUB that holds its credits is published. -/
def Dev.pubDue (d : Dev) (r : Req) : Dev :=
  let g := (r.data.getD 0 0).toNat
  match r.binding with
  | [(c, i), (_, j)] => d.pubGo r c r.h.addr.toNat (bits g 0 48) (bits g 48 12 + 1) i j
  | _ => d

/-- What follows when a request holds its credits: the completion of one that has failed or is served may begin, a window is read or
written, a PUB published; a memory request waits for its ceiling. -/
def Dev.granted (d : Dev) (r : Req) : Dev :=
  if r.status ≠ 0 ∨ r.ty = 8 then d.updReq r.id fun q => { q with stage := .ready }
  else if r.h.ctx = 0 then d.windowAct r
  else if r.ty = 5 then d.pubDue r
  else d.updReq r.id fun q => { q with stage := .ceiling }

/-- Reserve in order while credits last. -/
def Dev.reserveAll (d : Dev) : List Req → Dev
  | [] => d
  | r :: t =>
    if r.resv ≤ (d.port r.port).rspFree then
      let d := d.reserve r
      (match d.reqOf r.id with
        | none => d
        | some q => d.granted q).reserveAll t
    else d

/-- Issue in arrival order. -/
def Dev.issueAll (d : Dev) : List Nat → Dev
  | [] => d
  | id :: t =>
    match d.reqOf id with
    | none => d.issueAll t
    | some r =>
      let before := d.reqs.takeWhile fun q => q.id ≠ id
      (if r.stage == .ceiling || r.stage == .waitMove then d.issueReq r before else d).issueAll t

/-- Advance every waiting request of port p; while the device is frozen those of CFG alone (R399). -/
def Dev.pump (d : Dev) (p : Nat) : Dev :=
  let run := d.freezes == .running
  let w := d.reqs.filter fun r => r.port == p && r.stage == .credits && (run || r.ty == 8)
  let d := d.reserveAll (w.foldl (fun l r => edfIns r l) [])
  if run then d.issueAll ((d.reqs.filter fun r => r.port == p && (r.stage == .ceiling || r.stage == .waitMove)).map (·.id)) else d

def Dev.pumpAll (d : Dev) : Dev :=
  d.each ((d.reqs.filter fun r => r.stage == .credits || r.stage == .ceiling || r.stage == .waitMove).map (·.port)).dedup Dev.pump

/-! ### Admission (R221, R224, R227, R326) -/

/-- Translate the parts of a range: the extents with the bindings used, or the first status. -/
def Dev.xlParts (d : Dev) (a : Agent) (ph : Phys) (c need : Nat) (write : Bool) :
    List (Nat × Nat × Nat) → (Nat × List (Nat × Nat × Nat) × List (Nat × Nat)) × Dev
  | [] => ((0, [], []), d)
  | (w, o, n) :: t =>
    match d.translate a ph c w need write with
    | (.bad s, d) => ((s, [], []), d)
    | (.ok x i, d) =>
      let ((s, xs, bs), d) := d.xlParts a ph c need write t
      ((s, (x, o, n) :: xs, ((c, i) :: bs).dedup), d)

/-- A request of an admitted context: BAD_ADDR, translation, CODEC_OP or the PUB checks, then credits. -/
def Dev.admitted (d : Dev) (r : Req) (c : Nat) : Dev :=
  let a := portAgent r.port
  let d := d.stamp c
  let addr := r.h.addr.toNat
  if r.ty = 5 then
    let g := (r.data.getD 0 0).toNat
    let b := bits g 0 48
    if addr % 65536 ≠ 0 || b % 65536 ≠ 0 then d.failReq r.id 0x06 else
    match d.translate a r.ph c (addr / 65536) rP false with
    | (.bad s, d) => d.failReq r.id s
    | (.ok _ i, d) => match d.translate a r.ph c (b / 65536) rW false with
      | (.bad s, d) => d.failReq r.id s
      | (.ok _ j, d) => (d.updReq r.id fun q => { q with binding := [(c, i), (c, j)], stage := .credits, resv := 1 }).pump r.port
  else
    let n := r.h.length.toNat
    if badRange addr n then d.failReq r.id 0x06 else
    let need := if r.ty = 1 then rR else if r.ty = 4 then rR + rW else rW
    let ((s, xs, bs), d) := d.xlParts a r.ph c need (r.ty ≠ 1) (splitRange addr n)
    if s ≠ 0 then d.failReq r.id s
    else if r.ty = 4 && xs.any (fun x => (d.desc x.1).codec) then d.failReq r.id 0x0C
    else
      let d := d.each xs fun d x => d.touch x.1
      let r := { r with exts := xs, binding := bs }
      let r := { r with compressed := d.wireMode r }
      let r := { r with resv := d.rspNeed r, tries := (d.blockLens xs).map fun n => (n, 0), cost := d.reqCharge r, stage := .credits }
      (d.updReq r.id fun _ => r).pump r.port

/-- Steps 3 to 7 of R326 for a request that has arrived. -/
def Dev.admitReq (d : Dev) (id : Nat) : Dev :=
  match d.reqOf id with
  | none => d
  | some r =>
    if d.state == .failed then d.failReq id 0x07
    else if r.h.ctx = 0 then d.windowReq r
    else match d.ctxOf (some r.port) r.h.ctx with
      | none => d.failReq id 0x09
      | some c =>
        let x := d.ctx c
        if x.st == .draining then d.failReq id 0x02
        else if x.st == .orphaned then
          if r.ty = 1 && (d.host r.port).isSome && x.slot.isSome && !x.parking then d.admitted r c else d.failReq id 0x0A
        else if x.st == .active && !x.parking && !x.unparking then d.admitted r c
        else if r.stage ≠ .parkQ && 64 ≤ d.parkUsed r.port then
          (d.satInc row_CTX_PORT_CNT r.port f_CTX_PORT_CNT_NACK_RETRY).failReq id 0x0B
        else
          let d := d.updReq id fun q => { q with stage := .parkQ }
          if x.st == .parked then d.wantUnpark c else d

/-! ### Doorbells (R338) -/

/-- Count a posted request that is dropped (R322). -/
def Dev.dropPosted (d : Dev) (p : Nat) : Dev := d.satInc row_OLY_ERR p f_OLY_ERR_DROPPED

/-- A submission tail: none when it is refused. -/
def Ring.sqBell (r : Ring) (i : Nat) : Option Ring :=
  if !r.isSet || r.faulted || 2 ^ r.sqLog ≤ i then none else some { r with sqTail := i, stale := false }

/-- A completion head: none when it is refused. -/
def Ring.cqBell (r : Ring) (i : Nat) : Option Ring :=
  let n := 2 ^ r.cqLog
  if !r.isSet || r.faulted || n ≤ i || (r.cqUsed = n && i = r.cqHead) then none
  else some { r with cqHead := i, cqUsed := (r.cqTail + n - i) % n }

/-- A doorbell on a queue that is there. -/
def Dev.bellQueue (d : Dev) (p : Nat) (q : Queue) (kind i : Nat) : Dev :=
  let r := d.ring q
  let r := match q with
    | .ctx _ => r
    | _ => { r with isSet := true }
  match (if kind = 1 then r.sqBell i else r.cqBell i) with
  | none => d.dropPosted p
  | some r =>
    let d := d.setRing q r
    match q with
    | .ctx _ => d
    | q => d.cqWinFlush q

/-- The event queue head. -/
def Dev.bellEv (d : Dev) (p i : Nat) : Dev :=
  let q := d.evq.get p {}
  if !d.evqPresent p || 256 ≤ i || (q.used = 256 && i = q.head) then d.dropPosted p
  else { d with evq := d.evq.set p { q with head := i, used := (q.tail + 256 - i) % 256 } {} }

/-- A doorbell of a context that is admitted. -/
def Dev.bellCtx (d : Dev) (p c v : Nat) : Dev := d.bellQueue p (.ctx (Fin.ofNat 4096 c)) (bits v 28 4) (bits v 0 12)

/-- A doorbell begins to wait. -/
def Dev.bellWait (d : Dev) (w : Bell) : Dev := { d with nextId := d.nextId + 1, waiters := d.waiters ++ [w] }

/-- A doorbell that has arrived: its value, handle, and the state of its context (R227, R230, R338). -/
def Dev.bell (d : Dev) (p : Nat) (ctx v : Nat) : Dev :=
  let kind := bits v 28 4
  let i := bits v 0 12
  let fmBit := bitOf v 27
  if d.state == .failed || !(kind == 1 || kind == 2 || kind == 3) || bits v 12 15 ≠ 0 then d.dropPosted p
  else if ctx = 0 then
    if kind = 3 then (if fmBit then d.dropPosted p else d.bellEv p i)
    else if fmBit then (if d.fmOn p then d.bellQueue p .fm kind i else d.dropPosted p)
    else if d.portHost p then d.bellQueue p (.port (Fin.ofNat 16 p)) kind i else d.dropPosted p
  else if kind = 3 || fmBit then d.dropPosted p
  else match d.ctxOf (some p) (BitVec.ofNat 32 ctx) with
    | none => d.dropPosted p
    | some c =>
      let x := d.ctx c
      if x.st == .draining then d.dropPosted p
      else if x.st == .orphaned then
        if kind = 2 && (d.host p).isSome && x.slot.isSome && !x.parking then d.bellCtx p c v else d.dropPosted p
      else if x.st == .active && !x.parking && !x.unparking then d.bellCtx p c v
      else if 64 ≤ d.parkUsed p then d.dropPosted p
      else
        let d := d.bellWait ⟨d.nextId, p, c, v, d.lived (commonDom (dieOfPort p)), false⟩
        if x.st == .parked then d.wantUnpark c else d

/-- Requests, by number, and doorbells in the order in which they arrived. -/
def arrivals (ids : List Nat) (bells : List Bell) : List (Nat × Option Bell) :=
  let l : List (Nat × Option Bell) := (ids.map fun i => (i, none)) ++ bells.map fun (w : Bell) => (w.id, some w)
  l.insertionSort fun a b => a.1 ≤ b.1

/-- Step U2 (R226): ACTIVE, and what waits in the park queue is admitted in arrival order. -/
def Dev.unparkDone (d : Dev) (c : Nat) : Dev :=
  let x := d.ctx c
  if !x.unparking then d else
  let d := d.updCtx c fun x => { x with st := if x.st == .parked then .active else x.st, unparking := false }
  let d := d.wrapInc row_CTX_PORT_CNT x.port f_CTX_PORT_CNT_UNPARKS
  let ids := (d.reqs.filter fun r => r.stage == .parkQ && r.port == x.port && bits r.h.ctx.toNat 0 12 == c).map (·.id)
  let bells := d.waiters.filter fun w => w.waitsFor c
  let d := { d with waiters := d.waiters.filter fun w => !w.waitsFor c }
  let go := !(d.ctx c).destroyWanted
  d.each (arrivals ids bells) fun d e => match e.2 with
    | none => if go then d.admitReq e.1 else d.failReq e.1 0x02
    | some w => if go then d.bell w.port (d.handle c) w.v else d.dropPosted w.port

end Sys2Proof.Machine
end

