-- ==== Sys2Proof/Machine/Attach.lean ====
section
/-! DEFINITION. FM attachment (R239 to R241): the exchange of FM_HELLO, FM_CHALLENGE and FM_PROOF, and the messages that a port holds
while no attach is handled. The rows are in Link.lean. -/
namespace Sys2Proof.Machine

/-- The device identity digest I (R351; crypto, log 8). -/
def deviceDigest : List Byte := natBytes (Config.sha3 (Config.deviceSign 0 [])).toNat 64

/-- Refuse an attach on port p with a code (R241). -/
def Dev.attachRefuse (d : Dev) (p code : Nat) : Dev :=
  let d := (d.setFld row_RGN_FM_STATUS 0 f_RGN_FM_STATUS_LAST_FAIL code).satInc row_RGN_FM_STATUS 0 f_RGN_FM_STATUS_AUTH_FAIL
  let d := d.msg p 0x13 [BitVec.ofNat 256 code]
  if code = 1 ∨ code = 2 ∨ code = 3 ∨ code = 6 then { d with lockout := d.lockout.set p (some (d.lived (portDom p))) none } else d

/-- Bytes [o, o + n) of a payload. -/
def slice (l : List Byte) (o n : Nat) : List Byte := (l.drop o).take n

/-- Are both signatures of an FM key pair over a message right: Ed25519 and ML-DSA-65. -/
def pairOk (ed ml msg sed sml : List Byte) : Bool := Config.ed25519Verify ed msg sed && Config.mldsaVerify ml msg sml

/-- The owner key set of a slot: its Ed25519 and ML-DSA keys stand for its digest (log 8). -/
def Sec.slotKey (x : Sec) (slot : Nat) : Option (List Byte) :=
  if slot < 4 && x.enrolled.getLsbD slot && !x.revoked.getLsbD slot && x.keyOk.getLsbD slot then some (x.digests.get slot []) else none

/-- K of a key pair. -/
def keyDigest (key : List Byte) : List Byte := natBytes (Config.sha3 key).toNat 64

/-- Endorsement of K by the owner key set that an FM_HELLO names (R240 step 1). -/
def Sec.endorsed (x : Sec) (pl : List Byte) : Bool :=
  match x.slotKey (pl.getD 1984 0).toNat with
  | none => false
  | some o => pairOk o o (keyDigest (slice pl 0 1984)) (slice pl 1992 64) (slice pl 2056 3309)

/-- The payload's bytes must be zero where the table says so. -/
def helloZeros (pl : List Byte) : Bool := (slice pl 1985 7 ++ pl.drop 5365).all (· = 0)

/-- FM_HELLO that the device accepts as a message (R323, R240); locked: it arrived within the wait that follows a refusal. -/
def Dev.hello (d : Dev) (p : Nat) (endorsed : Bool) (pl : List Byte) (locked : Bool) : Dev :=
  if !d.portFm p then d.attachRefuse p 4
  else if locked || (d.lockout.get p none).isSome then
    -- within the wait that follows a refusal: refused, and the wait is not extended
    d.attachRefuse p 5
  else
    let key := slice pl 0 1984
    if !endorsed then d.attachRefuse p 1 else
    let (n, d) := d.fresh 256
    let nonce := granBytes n
    let d := { d with challenge := d.challenge.set p (some ⟨nonce, key, d.lived (portDom p)⟩) none }
    d.msg p 0x11 (n :: bytesGrans deviceDigest 2)

/-- FM_PROOF (R240 steps 3 and 4), arrived at tick t. -/
def Dev.proof (d : Dev) (p : Nat) (pl : List Byte) (t : Nat) : Dev :=
  match d.challenge.get p none with
  | none => d.attachRefuse p 6
  | some c =>
    let k := keyDigest c.key
    let m := natBytes (Config.sha3 (c.nonce ++ deviceDigest ++ [BitVec.ofNat 8 p] ++ k)).toNat 64
    let d := { d with challenge := d.challenge.set p none none }
    if c.since + d.most 1200000000 < t then d.attachRefuse p 6 else
    if !Config.ed25519Verify (slice c.key 0 32) m (slice pl 0 64) then d.attachRefuse p 2
    else if !Config.mldsaVerify (slice c.key 32 1952) m (slice pl 64 3309) then d.attachRefuse p 3
    else if d.fm.any fun f => f.key ≠ k then d.attachRefuse p 7
    else
      let d := match d.fm with
        | some f => d.fmEnd f.port
        | none => d
      let d := { d with fm := some ⟨p, k⟩, fmRing := {} }
      d.msg p 0x13 [0]

/-- An FM message that is held is handled. -/
def Dev.msgDo (d : Dev) (m : HeldMsg) : Dev :=
  if m.proof then d.proof m.port m.payload m.time else d.hello m.port m.endorsed m.payload m.locked

/-- Is an attach handled now: not while the Marl pairs are halted (R403), paused (R358) or being taken over (R374). -/
def Dev.attaches (d : Dev) : Bool := d.working && !d.upd.paused && d.takeover.isNone

/-- The FM messages that the ports held are handled, in order of arrival. -/
def Dev.msgsServe (d : Dev) : Dev :=
  if d.attaches then { d with msgs := [] }.each d.msgs Dev.msgDo else d

/-- A MSG of n data granules of a far end arrives: counted, its CTL granules freed (R318); one that the device does not accept is
dropped (R322, R323). -/
def Dev.msgArrive (d : Dev) (p n : Nat) (ok : Bool) (go : Dev → Dev) : Dev :=
  if !(d.port p).presents then d else
  let d := (d.wrapInc row_OLY_CNT p f_OLY_CNT_REQUESTS).updPort p fun x => { x with ctlIn := x.ctlIn + vcGran n }
  if ok then go d else d.dropPosted p

end Sys2Proof.Machine
end

