-- ==== Sys2Proof/Machine/Cmds.lean ====
section
/-! DEFINITION. Ring commands: entries, the checks of R336, fetch and start (R333, R335), what ends of its own when other work
ends. A row of the table that is a ring command starts that command: the one its queue has fetched and not started, or, with
none, the entry given, fetched at once (log 10). -/

namespace Sys2Proof

open Machine

/-! ### Submission entries (R333) -/

def Entry.opc (e : Entry) : Nat := bits e.g0.toNat 0 8
def Entry.fence (e : Entry) : Bool := bitOf e.g0.toNat 8
def Entry.notify (e : Entry) : Bool := bitOf e.g0.toNat 9
def Entry.wake (e : Entry) : Bool := bitOf e.g0.toNat 10
def Entry.rsv (e : Entry) : Nat := bits e.g0.toNat 11 5
def Entry.cid (e : Entry) : BitVec 16 := e.g0.extractLsb' 16 16
def Entry.ctx (e : Entry) : BitVec 32 := e.g0.extractLsb' 32 32
/-- ARG0 to ARG6. -/
def Entry.arg (e : Entry) (i : Nat) : Nat := if i < 3 then bits e.g0.toNat (64 + 64 * i) 64 else bits e.g1.toNat (64 * (i - 3)) 64

end Sys2Proof

namespace Sys2Proof.Machine

/-- A row of the command table (R337): opcode, the queues that carry it, whether it names a context, the argument bits it
uses. -/
structure CmdRow where
  opc : Nat
  port : Bool
  ctx : Bool
  fm : Bool
  names : Bool
  used : List Nat
  deriving DecidableEq, Repr

/-- All bits of an argument; n low bits. -/
def all64 : Nat := 2 ^ 64 - 1
def low (n : Nat) : Nat := 2 ^ n - 1
/-- Bits hi down to lo. -/
def fieldMask (hi lo : Nat) : Nat := (2 ^ (hi + 1 - lo) - 1) * 2 ^ lo

end Sys2Proof.Machine

namespace Sys2Proof

open Machine

/-- The row of an entry's opcode (R337). -/
def Entry.row (e : Entry) : Option CmdRow :=
  match e.opc with
  | 0x01 => some ⟨0x01, true, false, false, false, [1, all64]⟩
  | 0x02 => some ⟨0x02, true, false, false, false, []⟩
  | 0x03 => some ⟨0x03, true, false, false, false, [0, all64]⟩
  | 0x04 => some ⟨0x04, true, false, false, false, [low 25]⟩
  | 0x05 => some ⟨0x05, true, false, false, false, [low 16]⟩
  | 0x06 => some ⟨0x06, true, false, true, true, []⟩
  | 0x07 => some ⟨0x07, true, false, false, true, [low 3 + fieldMask 24 16]⟩
  | 0x08 => some ⟨0x08, true, false, false, true, [all64, all64, low 20]⟩
  | 0x09 => some ⟨0x09, true, false, true, true, [1]⟩
  | 0x0A => some ⟨0x0A, true, false, true, e.arg 0 % 2 = 0, [1, if e.arg 0 % 2 = 0 then 0 else all64]⟩
  | 0x10 => some ⟨0x10, false, true, false, true, if e.wake then [0, all64] else [all64, all64, all64, all64, all64]⟩
  | 0x11 => some ⟨0x11, false, true, false, true,
      if e.arg 0 = 1 then [3, 0, low 6] else [3, all64]⟩
  | 0x12 => some ⟨0x12, false, true, false, true, [all64, low 28 + fieldMask 33 32]⟩
  | 0x13 => some ⟨0x13, false, true, false, true, [all64, low 28]⟩
  | 0x14 => some ⟨0x14, false, true, false, true,
      if bitOf (e.arg 0) 13 then [fieldMask 13 12] else [low 11 + fieldMask 13 13, all64]⟩
  | 0x15 => some ⟨0x15, false, true, false, true, [low 11 + fieldMask 32 16, all64]⟩
  | 0x16 => some ⟨0x16, false, true, false, true, [low 11]⟩
  | 0x17 => some ⟨0x17, false, true, false, true, [low 11]⟩
  | 0x20 => some ⟨0x20, false, false, true, true, [low 8, all64, all64]⟩
  | 0x21 => some ⟨0x21, false, false, true, true, [low 8]⟩
  | 0x22 => some ⟨0x22, false, false, true, false, [low 14 + fieldMask 19 16, low 28]⟩
  | 0x23 => some ⟨0x23, false, false, true, false, [low 14 + fieldMask 19 16, low 28]⟩
  | 0x24 => some ⟨0x24, false, false, true, false, [low 14, low 28]⟩
  | 0x25 => some ⟨0x25, false, false, true, false, [low 14]⟩
  | 0x26 => some ⟨0x26, false, false, true, false, [low 14 + fieldMask 20 16]⟩
  | 0x27 => some ⟨0x27, false, false, true, false, match e.arg 0 % 4 with
      | 0 => [low 7, all64]
      | 1 => [low 7, all64, all64]
      | 2 => [low 2 + fieldMask 21 7, all64]
      | _ => [low 2 + fieldMask 16 7 + fieldMask 21 18]⟩
  | 0x28 => some ⟨0x28, false, false, true, false, []⟩
  | 0x29 => some ⟨0x29, false, false, true, false, [low 5 + fieldMask 13 8, low 14, low 28, low 32]⟩
  | 0x2A => some ⟨0x2A, false, false, true, false, [1, low 16]⟩
  | _ => none

end Sys2Proof

namespace Sys2Proof.Machine

/-- A queue that carries a command of this row. An FM command on another queue is NOT_FM (R336). -/
def CmdRow.carried (r : CmdRow) : Queue → Bool
  | .port _ => r.port
  | .ctx _ => r.ctx
  | .fm => r.fm

/-- Carried by the FM ring alone. -/
def CmdRow.fmOnly (r : CmdRow) : Bool := r.fm && !r.port

/-- The checks of R336 that come before a command's own: 0 and the context it concerns, or a status. -/
def Dev.cmdCheck (d : Dev) (q : Queue) (e : Entry) : Nat × Nat :=
  match e.row with
  | none => (0x201, 0)
  | some r =>
    let extra := (List.range 7).any fun i => e.arg i &&& (all64 - r.used.getD i 0) ≠ 0
    let noCtx := !r.names && decide (e.ctx ≠ 0) && !r.ctx
    if e.rsv ≠ 0 || extra || (e.wake && r.opc ≠ 0x10) || noCtx || (!r.fmOnly && !r.carried q) then (0x201, 0)
    else if r.fmOnly && q ≠ .fm then (0x202, 0)
    else match q with
      | .port n =>
        if r.opc ≠ 1 && (d.host n.val).isNone then (0x203, 0)
        else if !r.names then (0, 0)
        else match d.ctxOf (some n.val) e.ctx with
          | some c => (0, c)
          | none => (0x09, 0)
      | .ctx c => if (d.ctx c.val).st == .free || (e.ctx ≠ 0 && e.ctx.toNat ≠ d.handle c.val) then (0x09, 0) else (0, c.val)
      | .fm =>
        if !r.names then (0, 0) else match d.ctxOf none e.ctx with
          | some c => (0, c)
          | none => (0x09, 0)

/-- A command's place, for its completion (R334): on a context ring a CTX of 0 is the ring's own context. -/
def Dev.newRef (d : Dev) (q : Queue) (e : Entry) (serial : Nat) : CmdRef :=
  let h := match q with
    | .ctx c => BitVec.ofNat 32 (d.handle c.val)
    | _ => e.ctx
  ⟨q, e.cid, h, e.notify, serial⟩

/-- The place of the command of queue q with entry e that has started last: commands of one queue start in fetch order (R335). -/
def Dev.cmdRef (d : Dev) (q : Queue) (e : Entry) : CmdRef :=
  match (d.inflight.filter fun f => f.ref.q == q && f.e == e && f.started).getLast? with
  | some f => f.ref
  | none => d.newRef q e 0

/-! ### Fetch (R335) -/

/-- Do the ring engines and the Marl firmware serve commands: not frozen, failed, paused for an activation (R358) or between
two Marl pairs (R374). -/
def Dev.serving (d : Dev) : Bool := d.working && !d.upd.paused && d.takeover.isNone

/-- Is the queue there, and may the device fetch from it. -/
def Dev.queueOpen (d : Dev) : Queue → Bool
  | .port n => d.portEnabled n.val && d.portHost n.val
  | .ctx c => let x := d.ctx c.val
              x.st == .active && !x.parking && !x.unparking && x.slot.isSome && x.ring.isSet && !x.ring.faulted && !x.ring.stale
  | .fm => d.fm.isSome

/-- Commands of a queue fetched and not finally complete. -/
def Dev.fetchedOf (d : Dev) (q : Queue) : List Fetched := d.inflight.filter fun f => f.ref.q == q

/-- May the device fetch one more entry from a queue. -/
def Dev.canFetch (d : Dev) (q : Queue) : Bool :=
  d.serving && d.queueOpen q && (d.ring q).waiting.isEmpty && decide ((d.fetchedOf q).length < 64)

/-- Is an entry that waits for room in its completion ring a command's, not a POST's (R334). -/
def ofCommand (e : Gran × Gran × Bool) : Bool := bits e.1.toNat 34 2 == 0

/-- Does FENCE hold a command back: an earlier one of its queue is not finally complete, its completion not written (R333, R335). -/
def Dev.fenced (d : Dev) (q : Queue) (f : Fetched) : Bool :=
  f.e.fence && ((d.fetchedOf q).head? ≠ some f || (d.ring q).waiting.any ofCommand)

/-- The submission head moved past one entry, the command held as fetched, COMMANDS counted. -/
def Dev.takeEntry (d : Dev) (q : Queue) (e : Entry) (started : Bool) : Dev :=
  let r := d.ring q
  let h := (r.sqHead + 1) % 2 ^ r.sqLog
  let d := d.setRing q { r with sqHead := h, sqTail := if r.sqHead = r.sqTail then h else r.sqTail }
  let d := d.wrapInc row_HIF_PORT_CNT (d.queuePort q) f_HIF_PORT_CNT_COMMANDS
  { d with nextId := d.nextId + 1, inflight := d.inflight ++ [{ ref := d.newRef q e d.nextId, e := e, started := started }] }

/-- Fetch the entry at the head of a queue. A context's ring is read through its bindings. -/
def Dev.fetchOne (d : Dev) (ph : Phys) (q : Queue) : Dev :=
  let r := d.ring q
  let p := d.queuePort q
  match q with
  | .port _ => d.takeEntry q ⟨d.winGet p (64 * r.sqHead), d.winGet p (64 * r.sqHead + 32)⟩ false
  | .fm => d.takeEntry q ⟨d.winGet p (0x8000 + 64 * r.sqHead), d.winGet p (0x8000 + 64 * r.sqHead + 32)⟩ false
  | .ctx c =>
    let ((st, l), d) := d.readWindow (d.ringAgent p) ph c.val (r.sqBase + 64 * r.sqHead) 2 rR
    if st ≠ 0 then d.ringFault c.val 0 st else d.takeEntry q ⟨l.getD 0 0, l.getD 1 0⟩ false

/-- Fetch up to the doorbelled tail, while nothing holds the queue up. -/
def Dev.fetchLoop (d : Dev) (ph : Phys) (q : Queue) : Nat → Dev
  | 0 => d
  | n + 1 => if (d.ring q).sqHead ≠ (d.ring q).sqTail && d.canFetch q then (d.fetchOne ph q).fetchLoop ph q n else d

/-- An entry whose opcode is reserved has no row of its own: it completes with BAD_COMMAND when its turn comes. -/
def Dev.rejectLoop (d : Dev) (q : Queue) : Nat → Dev
  | 0 => d
  | n + 1 =>
    match (d.fetchedOf q).find? fun f => !f.started with
    | none => d
    | some f =>
      if f.e.row.isSome || d.fenced q f then d
      else (d.complete f.ref 0x201 0 0).rejectLoop q n

/-- Every queue that exists. -/
def Dev.queues (d : Dev) : List Queue :=
  ((List.finRange 16).map Queue.port) ++ [.fm] ++ (d.ctxs.filter fun c => c.2.ring.isSet).map fun c => Queue.ctx (Fin.ofNat 4096 c.1)

/-- Fetch on every queue. -/
def Dev.fetchAll (d : Dev) (ph : Phys := {}) : Dev :=
  d.each (d.queues.filter fun q => (d.ring q).sqHead ≠ (d.ring q).sqTail || d.inflight.any fun f => f.ref.q == q && !f.started)
    fun d q => (d.fetchLoop ph q 64).rejectLoop q 64

/-- Commands that ran by moves and have none left complete (R303, R337, R430). -/
def Dev.moveCmds (d : Dev) (ph : Phys := {}) : Dev :=
  let done := d.inflight.filter fun f => f.started && (f.e.opc == 0x12 || f.e.opc == 0x13 || f.e.opc == 0x27) &&
    !d.moves.any fun m => m.cmd == some f.ref
  let d := d.each done fun d f =>
    if f.e.opc = 0x12 then d.complete f.ref 0 0 0
    else if f.e.opc = 0x13 then d.complete f.ref f.status f.count 0
    else d.complete f.ref f.status f.units (f.count % 2 ^ 32 * 2 ^ 32 + f.left % 2 ^ 32)
  let d := d.each ((d.rgns.filter fun r => r.2.trimCmds ≠ []).map (·.1)) Dev.trimDue
  d.each (d.plans.map (·.1)) fun d p => d.planAdvance ph p

/-- What follows at once when a command or an event has had its effect; physics ph meet what it reads and writes. While the device is
frozen the ports serve CFG alone (R399); while it is paused firmware ends no command (R360). -/
def Dev.finish (d : Dev) (ph : Phys := {}) : Dev :=
  if d.freezes == .running then
    let d := if d.upd.paused then d else d.msgsServe.moveCmds ph
    ((d.settle ph).pumpAll).fetchAll ph
  else if d.reqs.any fun r => r.ty == 8 && r.stage == .credits then d.pumpAll else d

/-! ### Starting a command -/

/-- The die whose firmware and ring engine serve a queue, and its partition, that of its port (R236; the FM ring goes with its session's
port, DESIGN CHOICE, log 17). -/
def Dev.queueDie (d : Dev) (q : Queue) : Nat := dieOfPort (d.queuePort q)
def Dev.queuePart (d : Dev) (q : Queue) : Nat := d.portPart (d.queuePort q)

/-- Has a queue a command that could start. -/
def Dev.waitsTurn (d : Dev) (q : Queue) : Bool :=
  match (d.fetchedOf q).find? fun f => !f.started with
  | some f => !d.fenced q f
  | none => false

/-- The partitions of a die in the order in which their turns come: the one whose turn it is while its budget lasts, then the others in
rotation (R236). -/
def Dev.turnOrder (d : Dev) (die : Nat) : List Nat :=
  let t := d.turns.get die (0, 0)
  (if t.2 < Config.turnBudget then [t.1] else []) ++ (List.range 8).map fun k => (t.1 + 1 + k) % 8

/-- Is it the turn of queue q's partition, wherever the stratum seals partitions: no other one with a command to start comes first. -/
def Dev.turnOk (d : Dev) (q : Queue) : Bool :=
  d.strat.elim true (fun g => g.sealCount == 0) ||
  ((d.turnOrder (d.queueDie q)).find? fun p =>
    p == d.queuePart q || d.queues.any fun u => d.queueDie u == d.queueDie q && d.queuePart u == p && d.waitsTurn u) ==
    some (d.queuePart q)

/-- A command of queue q is counted to its partition's turn. -/
def Dev.turnTaken (d : Dev) (q : Queue) : Dev :=
  if d.strat.elim true fun g => g.sealCount == 0 then d else
  let t := d.turns.get (d.queueDie q) (0, 0)
  let n := if t.1 = d.queuePart q ∧ t.2 < Config.turnBudget then t.2 + 1 else 1
  { d with turns := d.turns.set (d.queueDie q) (d.queuePart q, n) (0, 0) }

/-- The entry that queue q would start now is e: fetched and first of those not started, or, with none, fetched directly. FENCE
holds it back while an earlier command of the queue is not finally complete, and the turn of its partition must have come. -/
def Dev.starts (d : Dev) (q : Queue) (e : Entry) : Option Dev :=
  if !d.serving || !d.turnOk q then none else
  let l := d.fetchedOf q
  match l.find? fun f => !f.started with
  | some f =>
    if f.e == e && !d.fenced q f then
      let go := fun (l : List Fetched) => l.map fun (x : Fetched) => if x == f then { x with started := true } else x
      some (({ d with inflight := go d.inflight } : Dev).turnTaken q)
    else none
  | none => if d.canFetch q && !(e.fence && l ≠ []) then some ((d.takeEntry q e true).turnTaken q) else none

/-- A ring command of opcode opc: the checks of R336, then its body with its place and the context it concerns. A row whose
entry does not carry its opcode, or whose queue does not start it now, changes nothing. -/
def State.cmd (opc : Nat) (q : Queue) (e : Entry) (body : CmdRef → Nat → State → State) (s : State) :
    Host.Outcome State Fault Refusal :=
  if e.opc ≠ opc then .next s else
  match s.dev.starts q e with
  | none => .next s
  | some d =>
    let ref := d.cmdRef q e
    let (st, c) := d.cmdCheck q e
    let s' : State := { s with dev := d }
    let s' := if st ≠ 0 then s'.onDev fun d => d.complete ref st 0 0 else body ref c s'
    .next (s'.onDev Dev.finish)

/-- A ring command that only changes the device proper. -/
def State.devCmd (opc : Nat) (q : Queue) (e : Entry) (body : CmdRef → Nat → Dev → Dev) (s : State) :
    Host.Outcome State Fault Refusal :=
  s.cmd opc q e fun ref c => State.onDev (body ref c)

/-- An event on the device proper: where its trigger holds it has its effect, and physics ph meet what follows. -/
def State.devEvent (holds : Dev → Bool) (f : Dev → Dev) (s : State) (ph : Phys := {}) : Host.Outcome State Fault Refusal :=
  if holds s.dev then .next (s.onDev fun d => (f d).finish ph) else .next s

end Sys2Proof.Machine
end

