-- ==== Sys2Proof/Machine/CtxCmds.lean ====
section
/-! DEFINITION. Port-queue commands on sessions, contexts and rings (R223 to R231, R340 to R343), and the events that follow
them. -/
namespace Sys2Proof.Machine

/-! ### Destruction (R231) -/

/-- n free granules. -/
def Dev.freshGrans (d : Dev) : Nat → List Gran × Dev
  | 0 => ([], d)
  | n + 1 =>
    let (g, d) := d.fresh 256
    let (l, d) := d.freshGrans n
    (g :: l, d)

/-- A move of extent x that has copied it copies it again. -/
def Dev.copyAgain (d : Dev) (x : Nat) : Dev :=
  match d.moveOf x with
  | some m => if m.step ≠ 4 then d else
      (d.discharge (loessMaster (m.engine.getD 0)) m.charge).updMove x fun m => { m with step := 1, charge := [] }
  | none => d

/-- n granules of extent x from granule o on hold free values from now on, also where the extent is MOVING. -/
def Dev.undefine (d : Dev) (a : Agent) (x o n : Nat) : Dev :=
  let (l, d) := d.freshGrans n
  ((d.writeExtent a {} x (mkWrites o l [])).2).copyAgain x

/-- Cancel a request in flight (R250): REVOKED, no data. The granules that a write covers hold free values from then on. -/
def Dev.cancelReq (d : Dev) (r : Req) : Dev :=
  let d := if r.ty == 2 || r.ty == 3 then d.each r.exts fun d x => d.undefine (portAgent r.port) x.1 x.2.1 x.2.2 else d
  d.failReq r.id 0x02

/-- Requests of a context that are translated, whose completion has not begun to be sent, and that are not cancelled. -/
def Dev.reqsPending (d : Dev) (c : Nat) : List Req :=
  (d.reqsOf c).filter fun r => r.binding ≠ [] && r.status ≠ 2

/-- A PUB that is applied completes normally (R248). -/
def Req.published (r : Req) : Bool := r.ty == 5 && r.stage == .ready && r.status == 0

/-- Cancel requests: CANCELLED counts them. -/
def Dev.cancelReqs (d : Dev) (l : List Req) : Dev :=
  (d.each l Dev.cancelReq).satInc row_RGN_CNT 0 f_RGN_CNT_CANCELLED l.length

/-! ### Revocation (R249, R250) -/

def Dev.updBind (d : Dev) (c i : Nat) (f : Binding → Binding) : Dev :=
  d.updCtx c fun x => { x with binds := x.binds.set i (f (x.binds.get i {})) {} }

/-- Requests of context c translated through binding i and not complete. -/
def Dev.throughBind (d : Dev) (c i : Nat) : List Req := (d.reqsPending c).filter fun r => r.binding.contains (c, i)

/-- Operations on beds. A POST that waits for ring room reads clay only (R215): no binding reaches it. -/
def Dev.bedOps (d : Dev) : List TOp := d.beds.flatMap fun b => b.2.run.toList ++ b.2.pend.toList

/-- Does an operation of context c resolve through binding i. -/
def TOp.through (o : TOp) (c i : Nat) : Bool := o.ctx == c && o.binds.contains i

/-- Operations of context c in flight through binding i. -/
def Dev.opThrough (d : Dev) (c i : Nat) : Bool := d.bedOps.any fun o => o.through c i && o.status == 0

/-- The reads in flight of an operation through a binding, one for each block; its writes through it, one for each run of granules of a
destination that it has still to write (DESIGN CHOICE, log 45). -/
def TOp.readsLeft (o : TOp) (i : Nat) : Nat :=
  (o.srcs.map fun s => if s.2.issued then (s.2.todo.filter fun w => w.bind == some i).length else 0).sum
def TOp.writesLeft (o : TOp) (i : Nat) : Nat := if o.wrote then 0 else (o.outs.filter fun e => e.bind == i).length

/-- Steps 3 and 4: what is pending is cancelled, the entry becomes invalid, the issuers are answered. The destinations that a failed
operation reaches through the entry, started or not, hold free values from now on. -/
def Dev.revokeEnd (d : Dev) (c i : Nat) : Dev :=
  let b := (d.ctx c).binds.get i {}
  let pend := (d.throughBind c i).filter fun r => !r.published
  let ops := d.bedOps.filter fun o => o.through c i && o.status == 0
  let rd := (pend.filter fun r => r.ty == 1).length + (ops.map fun o => o.readsLeft i).sum
  let wr := (pend.filter fun r => r.ty ≠ 1).length + (ops.map fun o => o.writesLeft i).sum
  let d := d.each pend Dev.cancelReq
  let d := d.each ((d.bedOps.filter fun o => o.through c i).flatMap (·.outs)) fun d e =>
    if e.bind == i && (d.desc e.ext).st ≠ .free then d.undefine (portAgent (d.ctx c).port) e.ext e.first e.n else d
  let hit := fun (o : TOp) => if o.through c i then { o.fail 0x02 with outs := o.outs.filter fun e => e.bind ≠ i } else o
  let d := d.each (List.range 8) fun d n => d.updBed n fun y => { y with run := y.run.map hit, pend := y.pend.map hit }
  let d := d.satInc row_RGN_CNT 0 f_RGN_CNT_CANCELLED (rd + wr)
  let d := d.wrapInc row_RGN_CNT 0 f_RGN_CNT_REVOKED
  let d := d.updBind c i fun _ => {}
  d.each b.cmds fun d cmd => d.complete cmd 0 (b.done % 2 ^ 22 * 2 ^ 42 + rd % 2 ^ 21 * 2 ^ 21 + wr % 2 ^ 21) 0

/-! ### Destruction, step by step (R231) -/

/-- R231 step 1 and the start of step 2. -/
def Dev.drainStart (d : Dev) (c : Nat) : Dev :=
  let x := d.ctx c
  let now := d.lived (commonDom (dieOfPort x.port))
  let d := d.updCtx c fun x => { x with
    st := .draining, parkWait := false, drainFrom := now, ring := { x.ring with sqHead := x.ring.sqTail } }
  (d.parkLeave c 0x02).stopProgram c 0x114 x.pc 0 0 true

/-- DESTROY_CTX accepted: it waits for the end of a park or unpark (R229). -/
def Dev.destroy (d : Dev) (c : Nat) (cmd : Option CmdRef) (host : Bool) : Dev :=
  let d := d.updCtx c fun x => { x with
    destroyers := x.destroyers ++ cmd.toList, destroyHost := x.destroyHost || host,
    destroyWanted := x.st ≠ .draining }
  let x := d.ctx c
  if x.st == .draining then d
  else if x.parking || x.unparking then d
  else (d.updCtx c fun x => { x with destroyWanted := false }).drainStart c

/-- A destruction that waited for a park or unpark goes on. -/
def Dev.destroyDue (d : Dev) (c : Nat) : Dev :=
  let x := d.ctx c
  if x.destroyWanted && !x.parking && !x.unparking then (d.updCtx c fun x => { x with destroyWanted := false }).drainStart c else d

/-- Has the bound of step 3 ended. -/
def Dev.drainLate (d : Dev) (c : Nat) : Bool :=
  let x := d.ctx c
  decide (x.drainFrom + d.most 100000 ≤ d.lived (commonDom (dieOfPort x.port)))

/-- Are steps 2 and 3 of R231 over: the program stopped, every fetched command complete, no request pending or the bound ended. -/
def Dev.drainOver (d : Dev) (c : Nat) : Bool :=
  let x := d.ctx c
  x.st == .draining && x.ps == .idle && (d.cmdsOf c).isEmpty && !d.opsOf c && !(d.assignq.any fun a => a.2.1 == c) &&
    ((d.reqsPending c).isEmpty || d.drainLate c)

/-- Does the bound of step 3 end with requests pending. -/
def Dev.drainCuts (d : Dev) (c : Nat) : Bool :=
  (d.ctx c).st == .draining && d.drainLate c && (d.reqsPending c).any fun r => !r.published

/-- Requests still pending at the end of step 3 are cancelled. -/
def Dev.drainCancel (d : Dev) (c : Nat) : Dev := d.cancelReqs ((d.reqsPending c).filter fun r => !r.published)

/-- Steps 4 and 5 of R231, with what step 3 has still to cancel. A binding that an UNBIND is revoking ends as a revocation does. -/
def Dev.drainEnd (d : Dev) (c : Nat) : Dev :=
  let x := d.ctx c
  let h := d.handle c
  let d := d.each (x.binds.map (·.1)) fun d i => d.revokeEnd c i
  let d := d.drainCancel c
  let d := d.each ((d.plans.filter fun p => p.2.st ≠ .none_ && p.2.ctx == c).map (·.1)) Dev.planDrop
  let d := d.clayRelease c
  let g := if x.gen = 0xFFFF then 1 else x.gen + 1
  let d := d.setCtx c { gen := g }
  let d := if x.destroyHost then d.event none 0x0F h 0 else d
  d.each x.destroyers fun d cmd => d.complete cmd 0 0 0

/-! ### Sessions (R340, R341) -/

/-- The host of port p is lost. cause: 0 heartbeat, 1 DETACH. -/
def Dev.hostGone (d : Dev) (p cause : Nat) : Dev :=
  let d := match (d.host p).bind (·.attach) with
    | some ref => d.complete ref 0x207 0 0
    | none => d
  let d := d.setHost p none
  let d := d.each (d.owned p) fun d c => d.orphan c cause
  let d := d.event none 0x0D 0 p
  let d := d.satInc row_HIF_PORT_CNT p f_HIF_PORT_CNT_HOST_LOST
  let q := Queue.port (Fin.ofNat 16 p)
  let d := d.setRing q { d.ring q with sqHead := (d.ring q).sqTail }
  let gone := d.slotq.filter fun w => w.port == p && w.create.isSome
  let sq : List SlotWait := d.slotq.filter fun (w : SlotWait) => !(w.port == p && w.create.isSome)
  let d : Dev := { d with slotq := sq }
  d.each gone fun d w => match w.create with
    | some (ref, _) => d.complete ref 0x207 0 0
    | none => d

/-- A heartbeat period argument: 0, or 10 to 10,000 ms; other values are reserved (DEDUCED, log 19). -/
def periodOk (p : Nat) : Bool := p = 0 || (10 ≤ p && p ≤ 10000)

/-- ATTACH (R340). -/
def attachBody (p : Nat) (e : Entry) (ref : CmdRef) (_c : Nat) (d : Dev) : Dev :=
  let per := e.arg 1
  if !periodOk per then d.complete ref 0x201 0 0
  else if (d.host p).isSome then d.complete ref 0x204 0 0
  else
    let orphans := (d.owned p).filter fun c => (d.ctx c).st == .orphaned
    let rec_ := e.arg 0 = 1
    let h : HostSess := {
      period := if per = 0 then 100 else per, since := d.lived (commonDom (dieOfPort p)), attach := some ref, recover := rec_,
      recovered := if rec_ then orphans.length else 0, waits := orphans }
    let d := d.setHost p (some h)
    if rec_ then d else d.each orphans fun d c => d.destroy c none true

/-- HEARTBEAT (R341). -/
def heartbeatBody (p : Nat) (e : Entry) (ref : CmdRef) (_c : Nat) (d : Dev) : Dev :=
  let per := e.arg 1
  if !periodOk per then d.complete ref 0x201 0 0 else
  match d.host p with
  | none => d.complete ref 0x203 0 0
  | some h =>
    let d := d.setHost p (some { h with
      period := if per = 0 then h.period else per, since := d.lived (commonDom (dieOfPort p)) })
    d.complete ref 0 0 0

/-- The port of a port queue. -/
def qPort : Queue → Nat
  | .port n => n.val
  | _ => 16

def execAttach (q : Queue) (e : Entry) (s : State) : Host.Outcome State Fault Refusal :=
  s.devCmd 0x01 q e (attachBody (qPort q) e)

/-- DETACH: the host is lost at once (R341). -/
def execDetach (q : Queue) (e : Entry) (s : State) : Host.Outcome State Fault Refusal :=
  s.devCmd 0x02 q e fun ref _ d => (d.complete ref 0 0 0).hostGone (qPort q) 1

def execHeartbeat (q : Queue) (e : Entry) (s : State) : Host.Outcome State Fault Refusal :=
  s.devCmd 0x03 q e (heartbeatBody (qPort q) e)

/-- Is the host of port p due to be lost: at least 3 × P without a heartbeat, HB_EN set (R341). -/
def Dev.hostDue (d : Dev) (p : Nat) : Bool :=
  match d.host p with
  | none => false
  | some h => d.working && !d.upd.paused && d.fld row_HIF_CTL 0 f_HIF_CTL_HB_EN == 1 &&
      d.ran (commonDom (dieOfPort p)) h.since (3 * h.period * 1000000)

def execHostLost (n : Fin 16) (s : State) : Host.Outcome State Fault Refusal :=
  s.devEvent (fun d => d.hostDue n.val) (fun d => d.hostGone n.val 0)

/-! ### Contexts (R223, R228) -/

/-- BED_DENIED of R223: the bed is not in the tenant's mask, not formed, or of another partition. -/
def Dev.bedDenied (d : Dev) (tenant p b : Nat) : Bool :=
  !bitOf (d.fld row_CTX_TENANT tenant f_CTX_TENANT_BED_MASK) b || (d.clusters b).isEmpty || d.bedPart b ≠ d.portPart p

/-- TENANT_DENIED of R223. -/
def Dev.tenantDenied (d : Dev) (tenant p : Nat) : Bool :=
  !bitOf (d.rd row_CTX_PORT_TEN (4 * p + tenant / 64)).toNat (tenant % 64)

/-- CREATE_CTX (R228). -/
def createBody (p : Nat) (e : Entry) (ref : CmdRef) (_c : Nat) (d : Dev) : Dev :=
  let a := e.arg 0
  let tenant := bits a 0 8
  let waits := (d.slotq.filter fun w => w.port == p && w.told).length
  if 320 < bits a 16 9 then d.complete ref 0x201 0 0
  else if d.tenantDenied tenant p then d.complete ref 0x209 0 0
  else if bitOf a 15 && d.bedDenied tenant p (bits a 12 3) then d.complete ref 0x20A 0 0
  else if d.ctxSlots p + d.parkLimit p ≤ (d.owned p).length || 16 ≤ waits then d.complete ref 0x206 0 0
  else match d.freeSlot p with
    | some s => d.createIn p s ref e
    | none =>
      let auto := d.fld row_CTX_CTL 0 f_CTX_CTL_AUTO_PARK = 1
      let idle := if auto then d.lruIdle p else none
      match idle with
      | some v => ({ d with slotq := d.slotq ++ [(⟨p, none, some (ref, e), some v, false⟩ : SlotWait)] }).startPark v
      | none =>
        let d := d.complete ref 0x205 0 0 0 false
        let d := d.satInc row_CTX_PORT_CNT p f_CTX_PORT_CNT_CTX_WAIT
        { d with slotq := d.slotq ++ [(⟨p, none, some (ref, e), none, true⟩ : SlotWait)] }

def execCreateCtx (q : Queue) (e : Entry) (s : State) : Host.Outcome State Fault Refusal :=
  s.devCmd 0x04 q e (createBody (qPort q) e)

/-- CANCEL of a waiting create (R228, R337). -/
def cancelBody (p : Nat) (e : Entry) (ref : CmdRef) (_c : Nat) (d : Dev) : Dev :=
  match d.slotq.find? fun w => w.port == p && w.told && w.create.elim false fun c => c.1.cid.toNat == e.arg 0 with
  | some w =>
    let d := d.dropWait w
    let d := match w.create with
      | some (r, _) => d.complete r 0x207 0 0
      | none => d
    d.complete ref 0 0 0
  | none => d.complete ref 0x208 0 0

def execCancel (q : Queue) (e : Entry) (s : State) : Host.Outcome State Fault Refusal :=
  s.devCmd 0x05 q e (cancelBody (qPort q) e)

/-- DESTROY_CTX (R231). -/
def execDestroyCtx (q : Queue) (e : Entry) (s : State) : Host.Outcome State Fault Refusal :=
  s.devCmd 0x06 q e fun ref c d => d.destroy c (some ref) (q ≠ .fm)

def execDestroyDrainEnd (c : Fin 4096) (s : State) : Host.Outcome State Fault Refusal :=
  s.devEvent (fun d => d.working && (d.drainOver c.val || d.drainCuts c.val))
    (fun d => if d.drainOver c.val then d.drainEnd c.val else d.drainCancel c.val)

/-- Is a die of a cluster of bed b gated by the governor: no operation starts, no domain is powered up (R385, R396). -/
def State.gated (s : State) (b : Nat) : Bool := (s.dev.clusters b).any fun k => s.pwr.gate.getLsbD (dieOfCluster k)

/-- Core and clay buffer domains of a bed. -/
def Dev.bedDoms (d : Dev) (b : Nat) : List Nat :=
  (d.clusters b).flatMap fun k => clayDom k :: (List.range 8).map fun j => coreDom (8 * k + j)

/-- Power up what BED_GATE has switched off; it counts as rejoining (R388). -/
def Dev.bedPowerUp (d : Dev) (b : Nat) : Dev :=
  d.each ((d.bedDoms b).filter fun x => (d.dom x).st == .off) fun d x => (d.updDom x fun e => { e with st := .live }).rejoined x

/-- The assignment takes effect, where PSTATE is IDLE now (R222): the area of another one is released; pages are taken at the next LAUNCH (R132). -/
def Dev.assignDo (d : Dev) (ref : CmdRef) (c b pages : Nat) : Dev :=
  let x := d.ctx c
  if x.ps ≠ .idle then d.complete ref 0x20C 0 0 else
  let d := d.bedPowerUp b
  let d := if x.bed == some b && x.clayPages == pages then d else d.clayRelease c
  (d.updCtx c fun x => { x with bed := some b, clayPages := pages }).complete ref 0 0 0

/-- ASSIGN_BED (R222, R223, R337). A bed that is off is powered up first, which waits while a die of it is gated. -/
def assignBody (gated : Nat → Bool) (e : Entry) (ref : CmdRef) (c : Nat) (d : Dev) : Dev :=
  let a := e.arg 0
  let x := d.ctx c
  let b := bits a 0 3
  if 320 < bits a 16 9 then d.complete ref 0x201 0 0
  else if d.bedDenied x.tenant x.port b then d.complete ref 0x20A 0 0
  else if x.ps ≠ .idle then d.complete ref 0x20C 0 0
  else if gated b && (d.bedDoms b).any fun x => (d.dom x).st == .off then
    { d with assignq := d.assignq ++ [(ref, c, b, bits a 16 9)] }
  else d.assignDo ref c b (bits a 16 9)

def execAssignBed (q : Queue) (e : Entry) (s : State) : Host.Outcome State Fault Refusal :=
  s.devCmd 0x07 q e (assignBody s.gated e)

/-! ### Rings (R342) -/

/-- Does a range lie wholly within one binding of context c that grants a right. -/
def Dev.within (d : Dev) (c addr size need : Nat) : Bool :=
  addr % size = 0 &&
    match (d.ctx c).bindingOf (addr / 65536) with
    | none => false
    | some (_, b) => !b.draining && (b.rights.toNat &&& need == need) && decide (addr + size ≤ 65536 * (b.wbase + b.len))

/-- RING_SET: no command of the context may be without its final completion, written or not. -/
def ringSetBody (e : Entry) (ref : CmdRef) (c : Nat) (d : Dev) : Dev :=
  let a := e.arg 2
  let n := bits a 0 4
  let m := bits a 4 4
  let x := d.ctx c
  if n < 4 || 12 < n || m < 4 || 12 < m then d.complete ref 0x201 0 0
  else
    let held := x.ring.isSet && !x.ring.faulted && x.ring.sqHead ≠ x.ring.sqTail
    if !d.within c (e.arg 0) (64 * 2 ^ n) rR || !d.within c (e.arg 1) (64 * 2 ^ m) rW || !(d.cmdsOf c).isEmpty ||
        x.ring.waiting.any ofCommand || held then
      d.complete ref 0x20F 0 0
    else
      let r : Ring := { waiting := x.ring.waiting, isSet := true, sqBase := e.arg 0, cqBase := e.arg 1, sqLog := n, cqLog := m, coalesce := bits a 8 12 }
      (d.updCtx c fun x => { x with ring := r }).complete ref 0 0 0

def execRingSet (q : Queue) (e : Entry) (s : State) : Host.Outcome State Fault Refusal :=
  s.devCmd 0x08 q e (ringSetBody e)

/-! ### Parking (R226, R227) -/

/-- PARK: SUCCESS at once for a PARKED context, BAD_CTX for one that is ORPHANED or DRAINING, else at the end of its park, which
begins when it is idle. -/
def parkBody (e : Entry) (ref : CmdRef) (c : Nat) (d : Dev) : Dev :=
  let x := d.ctx c
  if x.st == .parked then d.complete ref 0 0 0
  else if x.st ≠ .active then d.complete ref 0x09 0 0
  else d.updCtx c fun x => { x with
    parkCmds := x.parkCmds ++ [ref], parkWait := !x.parking, parkSleep := (x.parkWait && x.parkSleep) || e.arg 0 = 1 }

def execPark (q : Queue) (e : Entry) (s : State) : Host.Outcome State Fault Refusal :=
  s.devCmd 0x09 q e (parkBody e)

/-- Requests that met P1 to P3 decide an unpark now (R229). -/
def Dev.unparkDue (d : Dev) (c : Nat) : Dev :=
  let x := d.ctx c
  if x.st == .parked && (d.reqs.any (fun r => r.stage == .parkQ && bits r.h.ctx.toNat 0 12 == c) ||
      d.waiters.any (fun w => w.waitsFor c)) then d.wantUnpark c else d

def execParkComplete (c : Fin 4096) (s : State) : Host.Outcome State Fault Refusal :=
  s.devEvent (fun d => d.serving && (d.ctx c.val).parking)
    (fun d => ((d.parkDone c.val).destroyDue c.val).unparkDue c.val)

/-- QUERY kind 0 and the CTX_INFO register (R238). -/
def Dev.ctxInfo (d : Dev) (c : Nat) : Nat :=
  let x := d.ctx c
  let ps := match x.ps with | .idle => 0 | .running => 1 | .sleeping => 2
  let st := match x.st with | .free => 0 | .active => 1 | .parked => 2 | .orphaned => 3 | .draining => 4
  x.gen * 2 ^ 48 + x.clayPages * 2 ^ 36 + x.slot.getD 0 * 2 ^ 26 + b2n x.bed.isSome * 2 ^ 25 + x.bed.getD 0 * 2 ^ 22 +
    x.tenant * 2 ^ 14 + x.port * 2 ^ 10 + ps * 2 ^ 8 + b2n x.slot.isSome * 2 ^ 7 + x.rights.toNat * 2 ^ 3 + st

/-- QUERY (R343). -/
def queryBody (p : Nat) (fm : Bool) (e : Entry) (ref : CmdRef) (c : Nat) (d : Dev) : Dev :=
  if e.arg 0 = 0 then
    let r := (d.ctx c).ring
    let v := d.ctxInfo c + r.sqHead * 2 ^ 64 + r.cqTail * 2 ^ 80 + b2n r.phase * 2 ^ 96 + b2n r.faulted * 2 ^ 97
    d.complete ref 0 0 0 (BitVec.ofNat 256 v)
  else
    let cs := (d.owned (if fm then d.fm.elim 0 (·.port) else p)).filter fun c => e.arg 1 ≤ c
    let hs := (cs.take 8).map d.handle
    let v := ((List.range hs.length).map fun i => hs.getD i 0 * 2 ^ (32 * i)).sum
    d.complete ref 0 ((cs[8]?).getD 0xFFFF) 0 (BitVec.ofNat 256 v)

def execQuery (q : Queue) (e : Entry) (s : State) : Host.Outcome State Fault Refusal :=
  s.devCmd 0x0A q e (queryBody (qPort q) (q == .fm) e)

end Sys2Proof.Machine
end

