-- ==== Sys2Proof/Machine/Regions.lean ====
section
/-! DEFINITION. FM ring commands on bindings, regions and retirement (R49, R50, R242 to R250, R303), and FM_DETACH (R239). -/
namespace Sys2Proof.Machine

/-! ### Revocation (R249, R250) -/

/-- Step 1 of a revocation. A PARKED or ORPHANED context has nothing in flight and passes steps 2 and 3 at once. -/
def Dev.revoke (d : Dev) (c i : Nat) (cmd : Option CmdRef) : Dev :=
  let x := d.ctx c
  let b := x.binds.get i {}
  let now := d.lived (commonDom (dieOfPort x.port))
  let d := d.updBind c i fun b => { b with
    draining := true, cmds := b.cmds ++ cmd.toList, since := if b.draining then b.since else now,
    done := if b.draining then b.done else 0 }
  if !b.draining && (x.st == .parked || x.st == .orphaned) && (d.throughBind c i).isEmpty && !d.opThrough c i then d.revokeEnd c i else d

/-- Is step 2 over: nothing pending, or its bound ended. -/
def Dev.revokeOver (d : Dev) (c i : Nat) : Bool :=
  let x := d.ctx c
  let b := x.binds.get i {}
  b.len ≠ 0 && b.draining && (((d.throughBind c i).isEmpty && !d.opThrough c i) ||
    decide (b.since + d.most 100000 ≤ d.lived (commonDom (dieOfPort x.port))))

def execRevocationDrainEnd (c : Fin 4096) (i : Fin 256) (s : State) : Host.Outcome State Fault Refusal :=
  s.devEvent (fun d => d.working && d.revokeOver c.val i.val) (fun d => d.revokeEnd c.val i.val)

/-! ### BIND and UNBIND (R244) -/

/-- The conditions of R50. -/
def Dev.bindRange (d : Dev) (c i : Nat) (b : Binding) : Bool :=
  b.len ≠ 0 && b.wbase + b.len ≤ 2 ^ 32 && b.roff + b.len ≤ (d.rgn b.region).count && b.rights ≠ 0 &&
    !((d.ctx c).binds.any fun o => o.1 ≠ i && o.2.len ≠ 0 && decide (o.2.wbase < b.wbase + b.len ∧ b.wbase < o.2.wbase + o.2.len))

/-- A subset of rights. -/
def rightsIn (a b : BitVec 4) : Bool := a &&& ~~~ b = 0

/-- The status of a BIND, in the order of R244. -/
def Dev.bindStatus (d : Dev) (c i : Nat) (b : Binding) : Nat :=
  let x := d.ctx c
  let r := d.rgn b.region
  let home := match x.bed with
    | some n => d.bedPart n
    | none => d.portPart x.port
  if !(x.st == .active || x.st == .parked || x.st == .orphaned) then 0x09
  else if (x.binds.get i {}).len ≠ 0 then 0x21B
  else if r.st ≠ .active then 0x0F
  else if !d.bindRange c i b then 0x220
  else if home ≠ r.part then 0x21C
  else if x.tenant ≠ r.tenant && !r.share then 0x21D
  else if !rightsIn b.rights r.rights || !rightsIn b.rights x.rights then 0x21E
  else 0

/-- The fields of a binding entry (R49), STATE ignored. -/
def bindOf (v : Nat) : Binding :=
  { region := bits v 92 14, roff := bits v 64 28, rights := BitVec.ofNat 4 (bits v 60 4), len := bits v 32 28, wbase := bits v 0 32 }

def bindBody (e : Entry) (ref : CmdRef) (c : Nat) (d : Dev) : Dev :=
  let v := e.arg 1 + e.arg 2 * 2 ^ 64
  let b := bindOf v
  let i := e.arg 0
  if bits v 108 20 ≠ 0 then d.complete ref 0x201 0 0 else
  let st := d.bindStatus c i b
  if st ≠ 0 then d.complete ref st 0 0 else (d.updBind c i fun _ => b).complete ref 0 0 0

def execBind (q : Queue) (e : Entry) (s : State) : Host.Outcome State Fault Refusal :=
  s.devCmd 0x20 q e (bindBody e)

def unbindBody (e : Entry) (ref : CmdRef) (c : Nat) (d : Dev) : Dev :=
  if ((d.ctx c).binds.get (e.arg 0) {}).len = 0 then d.complete ref 0x21B 0 0 else d.revoke c (e.arg 0) (some ref)

def execUnbind (q : Queue) (e : Entry) (s : State) : Host.Outcome State Fault Refusal :=
  s.devCmd 0x21 q e (unbindBody e)

/-! ### Regions (R242, R243) -/

/-- The first n entries of a map, and what follows them. -/
def cutRuns : List (Nat × Nat) → Nat → List (Nat × Nat) × List (Nat × Nat)
  | [], _ => ([], [])
  | (f, m) :: t, n =>
    if n = 0 then ([], (f, m) :: t)
    else if m ≤ n then let (a, b) := cutRuns t (n - m); ((f, m) :: a, b)
    else ([(f, n)], (f + n, m - n) :: t)

/-- Free identifiers of a group as runs: those that no map holds and that are FREE. -/
def Dev.freeIds (d : Dev) (grp : Nat) : List (Nat × Nat) :=
  match d.strat with
  | none => []
  | some g =>
    let used := d.rgns.flatMap fun r => r.2.runs ++ r.2.gone.map fun x => (x, 1)
    gapsFrom (g.base grp) (g.base grp + g.eg grp) (sortIv used)

/-- The lowest n free identifiers of a group. -/
def Dev.takeIds (d : Dev) (grp n : Nat) : Option (List (Nat × Nat)) :=
  let l := (cutRuns (d.freeIds grp) n).1
  if ((l.map (·.2)).sum) = n then some l else none

/-- Subsoil homes of a set in use. -/
def Dev.subHomes (d : Dev) (s : Nat) : Nat := (d.descs.filter fun e => e.2.st ≠ .free && e.2.sub && e.2.set == s).length

/-- The home of an extent that enters a region (R426): pool first, or subsoil. -/
def Dev.enterHome (d : Dev) (grp : Nat) (subOnly : Bool) : Option Home :=
  let e : Desc := {}
  match (if subOnly then none else d.promoteDst grp e) with
  | some h => some h
  | none =>
    let room := fun s => d.setFits e s && (d.set? s).elim false (fun S =>
      decide (d.subHomes s < S.extents * (d.strat.elim 16 (·.overcommit)) / 16)) && (d.packed || 0 < d.freeFrames s)
    let s := match d.bestSub grp fun s => room s && !(d.sq s).pressure with
      | some s => some s
      | none => d.bestSub grp room
    s.bind fun s => d.allocSub s (d.slabsFor 0)

/-- Home extents one by one, never written, STABLE (R69, R75); none when a home is missing. -/
def Dev.enter (d : Dev) (r grp : Nat) (subOnly : Bool) : List Nat → Option Dev
  | [] => some d
  | x :: t => match d.enterHome grp subOnly with
    | none => none
    | some h =>
      ((d.descWhole x).setDesc x { st := .stable, region := r, sub := h.sub, set := h.set, loc := h.loc, slabs := h.slabs }).enter r grp subOnly t

/-- Does a group exist in the stratum. -/
def Dev.groupExists (d : Dev) (grp : Nat) : Bool := d.strat.elim false fun g => g.numbered.any fun s => s.2.group == grp

def regionCreateBody (e : Entry) (ref : CmdRef) (_c : Nat) (d : Dev) : Dev :=
  let a := e.arg 0
  let grp := bits a 16 4
  let n := e.arg 1
  if n = 0 || !d.groupExists grp then d.complete ref 0x201 0 0 else
  match (List.range 16384).find? fun r => (d.rgn r).st == .free with
  | none => d.complete ref 0x218 0 0
  | some r => match d.takeIds grp n with
    | none => d.complete ref 0x219 0 0
    | some ids => match d.enter r grp (bitOf a 13) (mapList ids) with
      | none => d.complete ref 0x219 0 0
      | some d' =>
        let runs := joinRuns ids
        if runCap < d.runsUsed + runs.length then d.complete ref 0x10 0 0 else
        let g : Rgn := { st := .active, part := grp / 2, tenant := bits a 0 8, rights := BitVec.ofNat 4 (bits a 8 4),
                         share := bitOf a 12, runs := runs }
        ((d'.setRgn r g).pressureAll).complete ref 0 r 0

def execRegionCreate (q : Queue) (e : Entry) (s : State) : Host.Outcome State Fault Refusal :=
  s.devCmd 0x22 q e (regionCreateBody e)

def regionGrowBody (e : Entry) (ref : CmdRef) (_c : Nat) (d : Dev) : Dev :=
  let a := e.arg 0
  let r := bits a 0 14
  let grp := bits a 16 4
  let n := e.arg 1
  let g := d.rgn r
  if n = 0 || bits a 14 2 ≠ 0 || !d.groupExists grp then d.complete ref 0x201 0 0
  else if g.st ≠ .active then d.complete ref 0x0F 0 0
  else if grp / 2 ≠ g.part then d.complete ref 0x21C 0 0
  else if 2 ^ 28 - 1 < g.count + n then d.complete ref 0x219 0 0
  else match d.takeIds grp n with
    | none => d.complete ref 0x219 0 0
    | some ids => match d.enter r grp false (mapList ids) with
      | none => d.complete ref 0x219 0 0
      | some d' =>
        let runs := joinRuns (g.runs ++ ids)
        if runCap < d.runsUsed - g.runs.length + runs.length then d.complete ref 0x10 0 0 else
        ((d'.updRgn r fun g => { g with runs := runs }).pressureAll).complete ref 0 0 0

def execRegionGrow (q : Queue) (e : Entry) (s : State) : Host.Outcome State Fault Refusal :=
  s.devCmd 0x23 q e (regionGrowBody e)

/-- Does a valid binding of region r reach an index of at least n. -/
def Dev.boundAbove (d : Dev) (r n : Nat) : Bool :=
  d.ctxs.any fun c => c.2.binds.any fun b => b.2.len ≠ 0 && b.2.region == r && n < b.2.roff + b.2.len

def regionTrimBody (e : Entry) (ref : CmdRef) (_c : Nat) (d : Dev) : Dev :=
  let r := e.arg 0
  let n := e.arg 1
  let g := d.rgn r
  let keep := g.count - n
  let (a, b) := cutRuns g.runs keep
  if n = 0 then d.complete ref 0x201 0 0
  else if g.st ≠ .active || g.count ≤ n then d.complete ref 0x0F 0 0
  else if d.boundAbove r keep then d.complete ref 0x21A 0 0
  else if (mapList b).any fun x => (d.desc x).ro then d.complete ref 0x0E 0 0
  else d.updRgn r fun g => { g with runs := a, gone := g.gone ++ mapList b, trimCmds := g.trimCmds ++ [ref] }

def execRegionTrim (q : Queue) (e : Entry) (s : State) : Host.Outcome State Fault Refusal :=
  s.devCmd 0x24 q e (regionTrimBody e)

def regionReclaimBody (e : Entry) (ref : CmdRef) (_c : Nat) (d : Dev) : Dev :=
  let r := e.arg 0
  if (d.rgn r).st ≠ .active then d.complete ref 0x0F 0 0 else
  let d := d.updRgn r fun g => { g with st := .reclaiming, cursor := 0, cmd := some ref }
  let bs := d.ctxs.flatMap fun c => (c.2.binds.filter fun b => b.2.len ≠ 0 && b.2.region == r).map fun b => (c.1, b.1)
  let d := d.each bs fun d b => d.revoke b.1 b.2 none
  d.each ((d.plans.filter fun p => p.2.st ≠ .none_ && p.2.region == r).map (·.1)) Dev.planDrop

def execRegionReclaim (q : Queue) (e : Entry) (s : State) : Host.Outcome State Fault Refusal :=
  s.devCmd 0x25 q e (regionReclaimBody e)

def regionSetBody (e : Entry) (ref : CmdRef) (_c : Nat) (d : Dev) : Dev :=
  let a := e.arg 0
  let r := bits a 0 14
  let g := d.rgn r
  let rights := BitVec.ofNat 4 (bits a 16 4)
  let share := bitOf a 20
  let clash := d.ctxs.any fun c => c.2.binds.any fun b => b.2.len ≠ 0 && b.2.region == r &&
    (!rightsIn b.2.rights rights || (!share && c.2.tenant ≠ g.tenant))
  if bits a 14 2 ≠ 0 then d.complete ref 0x201 0 0
  else if g.st ≠ .active then d.complete ref 0x0F 0 0
  else if clash then d.complete ref 0x21A 0 0
  else (d.updRgn r fun g => { g with rights := rights, share := share }).complete ref 0 0 0

def execRegionSet (q : Queue) (e : Entry) (s : State) : Host.Outcome State Fault Refusal :=
  s.devCmd 0x26 q e (regionSetBody e)

/-! ### RETIRE (R303) -/

/-- The slot or slab of a set on which a place falls (R271 to R273), by its channel's byte offset b. -/
def unitOf (S : SSet) (ch b : Nat) : Nat :=
  let G := 256 * 2 ^ S.grain
  let a := ((b / G) * S.channels.length + S.channels.idxOf ch) * G + b % G
  if S.sub then a / 4096 else a / 65536

/-- Byte offsets of a bank row in its channel, one per granule. -/
def rowOffsets (sub : Bool) (pc bank row : Nat) : List Nat :=
  (List.range 8).flatMap fun hi => (List.range 8).filterMap fun lo =>
    if sub then some (row * 2 ^ 16 + (bank ^^^ (row % 16)) * 2 ^ 12 + hi * 2 ^ 9 + pc * 2 ^ 8 + lo * 2 ^ 5)
    else if hi < 4 then some (row * 2 ^ 15 + (bank ^^^ (row % 16)) * 2 ^ 11 + hi * 2 ^ 9 + pc * 2 ^ 8 + lo * 2 ^ 5) else none

/-- The set that holds a channel of a tier. -/
def Dev.setOfChan (d : Dev) (sub : Bool) (ch : Nat) : Option Nat :=
  (d.strat.elim [] Strat.numbered).find? (fun s => s.2.sub == sub && s.2.channels.contains ch) |>.map (·.1)

/-- The slots or slabs that RETIRE names: (tier, set, index), or none where the unit does not exist. -/
def Dev.retireUnits (d : Dev) (e : Entry) : Option (Bool × Nat × List Nat) :=
  let a := e.arg 0
  let sub := bitOf a 7
  let ch := bits a 8 9
  match bits a 0 2 with
  | 0 => (d.set? (bits a 2 5)).bind fun S => if S.sub || S.slots ≤ e.arg 1 then none else some (false, bits a 2 5, [e.arg 1])
  | 1 => (d.set? (bits a 2 5)).bind fun S =>
    if !S.sub || S.slabs < e.arg 1 + e.arg 2 then none else some (true, bits a 2 5, (List.range (e.arg 2)).map (e.arg 1 + ·))
  | k => (d.setOfChan sub ch).bind fun s => (d.set? s).map fun S =>
    let rows := if k = 2 then [e.arg 1] else List.range (if sub then (S.slabs * 4096 / S.channels.length + 65535) / 65536 else 65536)
    let pcs := if k = 2 then [bits a 17 1] else [0, 1]
    let l := rows.flatMap fun row => pcs.flatMap fun pc => (rowOffsets sub pc (bits a 18 4) row).map (unitOf S ch)
    (sub, s, (l.filter fun u => u < (if sub then S.slabs else S.slots)).dedup)

def retireBody (e : Entry) (ref : CmdRef) (_c : Nat) (d : Dev) : Dev :=
  match d.retireUnits e with
  | none => d.complete ref 0x201 0 0
  | some (sub, s, us) =>
    let d := d.each us fun d u => { d with retired := d.retired.set (retKey sub s u) true false }
    let on := fun (h : Home) => (h.occ sub s).any fun iv => us.any fun u => decide (iv.1 ≤ u ∧ u < iv.1 + iv.2)
    let heads := fun (x : Nat) => (d.moveOf x).elim false fun m => decide (m.step < 5) && on m.dst
    let fixed := (d.descs.filter fun x => x.2.st ≠ .free && (x.2.ro || x.2.reload) && on x.2.home).length
    let mv := (d.descs.filter fun x => x.2.st ≠ .free && !x.2.ro && !x.2.reload && (on x.2.home || heads x.1)).map (·.1)
    let mirrors := (d.descs.filter fun x => x.2.mirrorHome.elim false on).length
    let wins := (d.plans.map fun p => (p.2.slots.filter fun w => !sub && w.set == s && us.contains w.loc).length).sum
    let d := d.each mv fun d x => d.queueMove {
      ext := x, kind := .retire, want := some (sub, s), pin := false, cmd := some ref, engine := none,
      src := (d.desc x).home, dst := (d.desc x).home, step := 0, since := 0, journal := 0 }
    (d.updCmd (some ref) fun f => { f with units := us.length, left := fixed + mirrors + wins }).pressureAll

def execRetire (q : Queue) (e : Entry) (s : State) : Host.Outcome State Fault Refusal :=
  s.devCmd 0x27 q e (retireBody e)

/-! ### FM_DETACH (R239) -/

def execFmDetach (q : Queue) (e : Entry) (s : State) : Host.Outcome State Fault Refusal :=
  s.devCmd 0x28 q e fun ref _ d => (d.complete ref 0 0 0).fmEnd (d.fm.elim 16 (·.port))

end Sys2Proof.Machine
end

