-- ==== Sys2Proof/Machine/Link.lean ====
section
/-! DEFINITION. The rows of the Olilys link (R309 to R331): requests, doorbells, FM attachment (R239 to R241), completions,
flits, training, resets; the end of an unpark and of a wait in the park queue (R226, R227). -/
namespace Sys2Proof.Machine

/-! ### Port states (R311) -/

/-- A protocol fault: DOWN with cause PROTOCOL (R326). -/
def Dev.protoFault (d : Dev) (p : Nat) : Dev := (d.portDown p 6 false).satInc row_OLY_ERR p f_OLY_ERR_PROTO

/-- Does a freeze leave port p running: there is none, or it is the witness port (R399). -/
def Dev.portRuns (d : Dev) (p : Nat) : Bool := d.freezes == .running || d.portWitness p

/-- ACTIVE to RETRAIN. ask: the far end is asked for it, in an IDLE flit (R314). -/
def Dev.enterRetrain (d : Dev) (p : Nat) (ask : Bool := true) : Dev :=
  if (d.port p).st ≠ .active then d else
  let d := if ask then d.sendIdle p (d.port p).nakOut true else d
  (d.wrapInc row_OLY_TRAIN p f_OLY_TRAIN_RETRAINS).updPort p fun x => { x with st := .retrain, since := d.portTime p }

/-- Does port p move between states: running, brought up, not failed. -/
def Dev.linkRuns (d : Dev) (p : Nat) : Bool := d.portRuns p && d.step == .up && d.live (portDom p)

/-- Everything unacknowledged is sent again (R315). -/
def Dev.replay (d : Dev) (p : Nat) : Dev :=
  let x := d.port p
  let d := (d.wrapInc row_OLY_RETRY p f_OLY_RETRY_REPLAYS x.unacked.length).updPort p fun x => { x with ackAt := d.now (portDom p) }
  d.sendFlits p (x.unacked.map fun f => x.flit 1 f.seq false false f.slots)

/-! ### Arrival of requests (R321, R322, R326) -/

/-- Is a header free of what its type does not allow (R326 step 1, R332). -/
def headOk (ty : Nat) (h : ReqHdr) (data : List Gran) : Bool :=
  let n := h.length.toNat
  let fl := h.flags.toNat
  let g := (data.getD 0 0).toNat
  ((1 ≤ ty && ty ≤ 5) || ty == 8) && (if ty = 1 ∨ ty = 2 then 1 ≤ n && n ≤ 2048 else if ty = 3 then 1 ≤ n && n ≤ 8 else n == 1) &&
  decide (fl / 64 = 0) && (ty == 1 || bits fl 0 1 == 0) && (ty == 4 || bits fl 1 4 == 0) && (ty == 8 || bits fl 5 1 == 0) &&
  (ty ≠ 4 || bits fl 1 2 ≤ 1) && (ty ≠ 8 || (h.ctx == 0 && decide (h.addr.toNat < 2 ^ 32))) &&
  (h.ctx ≠ 0 || !(ty == 3 || ty == 4 || ty == 5)) && (ty ≠ 5 || (bits g 60 4 == 0 && decide (g < 2 ^ 128)))

/-- Data granules that follow a request's header (R322). -/
def dataLen (ty n : Nat) : Nat := if ty = 2 then n else if ty = 3 then n + 1 else if ty = 1 then 0 else 1

/-- The request as the port holds it on arrival. -/
def Dev.newReq (d : Dev) (p ty : Nat) (h : ReqHdr) (data : List Gran) (ph : Phys) : Req := {
  id := d.nextId, port := p, ty := ty, h := h, data := data, stage := .held, t0 := d.now (portDom p),
  common := d.lived (commonDom (dieOfPort p)),
  ticks := if d.rt p && h.budget ≠ 0 then some (d.most (h.budget.toNat * 32)) else none,
  cmaster := p, charge := [], moved := [], resv := 0, tries := [], binding := [], status := 0, result := 0, out := [], compressed := false,
  refs := [], exts := [], waits := [], ph := ph }

/-- A request enters the port: counted, held, refused where it is malformed; go serves one that is not. bad: a reserved bit of its
header granule is 1 (R8, R321). -/
def Dev.arriveWith (d : Dev) (p ty : Nat) (h : ReqHdr) (data : List Gran) (ph : Phys) (bad : Bool) (go : Nat → Dev → Dev) : Dev :=
  if !(d.port p).presents then d else
  let ok := headOk ty h data && !bad
  if ok && data.length ≠ dataLen ty h.length.toNat then d else
  let d := d.wrapInc row_OLY_CNT p f_OLY_CNT_REQUESTS
  let k := vcGran data.length
  let d := d.updPort p fun x => { x with reqIn := x.reqIn + k, reqFreed := x.reqFreed + k }
  if d.reqs.any fun r => r.port == p && r.h.tag == h.tag then d.protoFault p else
  let r := d.newReq p ty h data ph
  let d := { d with nextId := d.nextId + 1, reqs := d.reqs ++ [r] }
  let d := if r.ticks.isSome then d.wrapInc row_QOS_RT p f_QOS_RT_RT_REQUESTS else d
  if !ok then (d.satInc row_OLY_ERR p f_OLY_ERR_MALFORMED).failReq r.id 0x12 else go r.id d

/-- A memory request: it waits in the port while the device is frozen, else it is admitted. -/
def Dev.arrive (d : Dev) (p ty : Nat) (h : ReqHdr) (data : List Gran) (ph : Phys) (bad : Bool := false) : Dev :=
  d.arriveWith p ty h data ph bad fun id d => if d.freezes == .running then d.admitReq id else d

/-- What follows a row of the link; physics ph meet it. -/
def State.linkStep (f : Dev → Dev) (s : State) (ph : Phys := {}) : Host.Outcome State Fault Refusal :=
  .next (s.onDev fun d => (f d).finish ph)

def execRd (p : Fin 16) (h : ReqHdr) (ph : Phys) (s : State) : Host.Outcome State Fault Refusal :=
  s.linkStep (fun d => d.arrive p.val 1 h [] ph) ph

def execWr (p : Fin 16) (h : ReqHdr) (data : List Gran) (ph : Phys) (s : State) : Host.Outcome State Fault Refusal :=
  s.linkStep (fun d => d.arrive p.val 2 h data ph) ph

def execWrp (p : Fin 16) (h : ReqHdr) (mask : Gran) (data : List Gran) (ph : Phys) (s : State) :
    Host.Outcome State Fault Refusal :=
  s.linkStep (fun d => d.arrive p.val 3 h (mask :: data) ph) ph

def execAtom (p : Fin 16) (h : ReqHdr) (data : Gran) (ph : Phys) (s : State) : Host.Outcome State Fault Refusal :=
  s.linkStep (fun d => d.arrive p.val 4 h [data] ph) ph

def execPub (p : Fin 16) (h : ReqHdr) (data : Gran) (ph : Phys) (s : State) : Host.Outcome State Fault Refusal :=
  s.linkStep (fun d => d.arrive p.val 5 h [data] ph) ph

/-! ### Doorbells (R338) -/

/-- A doorbell arrives; while the device is frozen it waits in the port. -/
def Dev.bellArrive (d : Dev) (p : Nat) (ctx v : BitVec 32) : Dev :=
  if !(d.port p).presents then d else
  let d := d.wrapInc row_OLY_CNT p f_OLY_CNT_REQUESTS
  let d := d.updPort p fun x => { x with reqIn := x.reqIn + 1, reqFreed := x.reqFreed + 1 }
  if d.freezes == .running then d.bell p ctx.toNat v.toNat
  else d.bellWait ⟨d.nextId, p, ctx.toNat, v.toNat, d.lived (commonDom (dieOfPort p)), true⟩

/-- What the ports held while the device was frozen goes on, in order of arrival (R399, R400). -/
def Dev.thawLink (d : Dev) : Dev :=
  let ids := (d.reqs.filter fun r => r.stage == .held && r.ty ≠ 8).map (·.id)
  let bells := d.waiters.filter (·.held)
  let d := { d with waiters := d.waiters.filter fun w => !w.held }
  d.each (arrivals ids bells) fun d e => match e.2 with
    | none => d.admitReq e.1
    | some w => d.bell w.port w.ctx w.v

def execDbSqTail (p : Fin 16) (ctx : BitVec 32) (v : BellAt) (s : State) : Host.Outcome State Fault Refusal :=
  s.linkStep (fun d => d.bellArrive p.val ctx v.v) v.ph

def execDbCqHead (p : Fin 16) (ctx : BitVec 32) (v : BellAt) (s : State) : Host.Outcome State Fault Refusal :=
  s.linkStep (fun d => d.bellArrive p.val ctx v.v) v.ph

def execDbEvqHead (p : Fin 16) (v : BellAt) (s : State) : Host.Outcome State Fault Refusal :=
  s.linkStep (fun d => d.bellArrive p.val 0 v.v) v.ph

/-! ### The park queue (R226, R227) -/

def execUnparkComplete (c : Fin 4096) (s : State) : Host.Outcome State Fault Refusal :=
  s.devEvent (fun d => d.serving && (d.ctx c.val).unparking) (fun d => (d.unparkDone c.val).destroyDue c.val)

/-- Has an entry waited at least 1 ms (R227). -/
def Dev.parkLate (d : Dev) (p t : Nat) : Bool := d.ran (commonDom (dieOfPort p)) t 1000000

/-- The oldest requests of port p's park queue whose wait has ended complete with NACK_RETRY; a doorbell is dropped. -/
def Dev.parkExpire (d : Dev) (p : Nat) : Dev :=
  let late := d.reqs.filter fun r => r.port == p && r.stage == .parkQ && d.parkLate p r.common
  let bells := d.waiters.filter fun w => w.port == p && !w.held && d.parkLate p w.time
  let d := d.each late fun d r => (d.satInc row_CTX_PORT_CNT p f_CTX_PORT_CNT_NACK_RETRY).failReq r.id 0x0B
  let d := d.each bells fun d w => d.dropPosted w.port
  { d with waiters := d.waiters.filter fun w => !bells.contains w }

def execParkQueueTimeout (n : Fin 16) (s : State) : Host.Outcome State Fault Refusal :=
  s.devEvent (fun d => d.working && ((d.reqs.any fun r => r.port == n.val && r.stage == .parkQ && d.parkLate n.val r.common) ||
      d.waiters.any fun w => w.port == n.val && !w.held && d.parkLate n.val w.time))
    (fun d => d.parkExpire n.val)

/-! ### FM attachment (R239 to R241) -/

/-- An FM message arrives in its port; `Dev.finish` handles what is held. In DEVICE_FAILED no attach is handled any more
(DEDUCED from R376, log 45). -/
def Dev.fmMsg (d : Dev) (p len : Nat) (ok proof endorsed : Bool) (payload : List Byte) : Dev :=
  d.msgArrive p len (ok && !d.failed) fun d =>
    { d with msgs := d.msgs ++ [⟨p, proof, endorsed, payload, d.lived (portDom p), (d.lockout.get p none).isSome⟩] }

/-- FM_HELLO and FM_PROOF of len granules (R323). -/
def State.fmHello (s : State) (p len : Nat) (payload : List Byte) : State := s.onDev fun d =>
  d.fmMsg p len (len == 168 && payload.length == 32 * len && helloZeros payload) false (s.sec.endorsed payload) payload
def State.fmProof (s : State) (p len : Nat) (payload : List Byte) : State := s.onDev fun d =>
  d.fmMsg p len (len == 106 && payload.length == 32 * len && (payload.drop 3373).all (· = 0) && d.portFm p) true false payload

def execFmHello (p : Fin 16) (len : Nat) (payload : List Byte) (s : State) : Host.Outcome State Fault Refusal :=
  .next ((s.fmHello p.val len payload).onDev Dev.finish)

def execFmProof (p : Fin 16) (len : Nat) (payload : List Byte) (s : State) : Host.Outcome State Fault Refusal :=
  .next ((s.fmProof p.val len payload).onDev Dev.finish)

/-- A challenge that has lasted at least 1 s expires: refused with EXPIRED; one with a proof held in its port does not. -/
def execChallengeExpiry (p : Fin 16) (s : State) : Host.Outcome State Fault Refusal :=
  s.devEvent (fun d => d.working && (d.challenge.get p.val none).elim false fun c =>
      d.ran (portDom p.val) c.since 1000000000 && !d.msgs.any fun m => m.port == p.val && m.proof)
    (fun d => ({ d with challenge := d.challenge.set p.val none none }).attachRefuse p.val 6)

def execAttachLockoutExpiry (p : Fin 16) (s : State) : Host.Outcome State Fault Refusal :=
  s.devEvent (fun d => (d.lockout.get p.val none).elim false fun t => d.ran (portDom p.val) t 1000000000)
    (fun d => { d with lockout := d.lockout.set p.val none none })

/-! ### Completions (R319, R324, R325) -/

/-- The completion header. -/
def cplHdr (tag status len : Nat) (miss comp : Bool) (result : Nat) : Gran :=
  BitVec.ofNat 256 (0x09 + tag % 2 ^ 12 * 2 ^ 8 + len % 2 ^ 12 * 2 ^ 20 + status % 2 ^ 8 * 2 ^ 32 + b2n miss * 2 ^ 42 +
    b2n comp * 2 ^ 43 + result % 2 ^ 64 * 2 ^ 128)

/-- A block in transit form as its header names it. -/
def headerId (x k : Nat) (h : Gran) : BlkId :=
  ⟨x, k, hdrTensor h, hdrGen h,
    if hdrMode h = 3 then 63 else if hdrMode h = 2 then 1 else 1 + (((List.range 16).map (hdrLane h)).sum + 255) / 256⟩

/-- Decode blocks in transit form at a port's egress (R116, R117): none is POISON. -/
def Dev.egress (d : Dev) (a : Agent) (ph : Phys) : List (Nat × Nat) → List Gran → Option (List Gran) × Dev
  | [], _ => (some [], d)
  | (x, k) :: t, l =>
    let i := headerId x k (l.headD 0)
    let (b, d) := d.openBlock a ph i (l.take (wGran i.len))
    let (q, d) := d.egress a ph t (l.drop (wGran i.len))
    (match b, q with
      | some b, some q => some (b ++ q)
      | _, _ => none, d)

/-- The far-end entry for a table: the one that holds its pair, a free one, or the least recently used (R324). -/
def Port.farEntry (x : Port) (t : Nat × Nat) : Nat :=
  match x.far.find? fun e => e.2.1 == t.1 && e.2.2.1 == t.2 with
  | some e => e.1
  | none => match (List.range x.tableCap).find? fun i => !x.far.has i with
    | some i => i
    | none => (x.far.foldl (fun b e => match b with
      | none => some (e.1, e.2.2.2.2)
      | some h => if e.2.2.2.2 < h.2 then some (e.1, e.2.2.2.2) else some h) none).elim 0 (·.1)

/-- A table is used by port p now: its entry is the most recent. -/
def Dev.farUse (d : Dev) (p : Nat) (t : Nat × Nat) : Dev :=
  let n := d.nextId
  let d := { d with nextId := n + 1 }
  d.updPort p fun x => { x with far := x.far.map fun e =>
    if e.2.1 == t.1 && e.2.2.1 == t.2 then (e.1, e.2.1, e.2.2.1, e.2.2.2.1, n) else e }

/-- Push a table to port p's far end. -/
def Dev.tablePush (d : Dev) (p : Nat) (t : Nat × Nat) : Dev :=
  let g := (d.tensor t.1).slot (t.2 == 1)
  let i := (d.port p).farEntry t
  let n := d.nextId
  let d := { d with nextId := n + 1 }
  let g0 : Gran := BitVec.ofNat 256 (t.1 + t.2 * 2 ^ 11 + g.serial % 2 ^ 32 * 2 ^ 16 + i * 2 ^ 48)
  let l := g0 :: bytesGrans (mkRecord g.lens) 8
  let d := d.emit (.msg p 0x20 l)
  d.updPort p fun x => { x.queue (vcSlots 1 (msgHdr 0x20 9) 0 l) with far := x.far.set i (t.1, t.2, g.serial, n) (0, 0, 0, 0) }

/-- How a completion is sent. -/
inductive CplForm where
  | refused (st : Nat)
  | plain
  | wire (push : List (Nat × Nat))
  | decoded
  deriving DecidableEq, Repr

/-- How the completion of request r is sent now (R124): with its status alone, as it is, compressed after the tables to push, or
decoded at egress where the far end cannot take a further table. -/
def Dev.cplForm (d : Dev) (r : Req) : CplForm :=
  if r.status ≠ 0 then .refused r.status
  else if !r.compressed then .plain
  else
    let x := d.port r.port
    let ts := (r.refs.map fun f => (f.1 / 2, f.1 % 2)).dedup
    let need := ts.filter fun t => !d.farHolds r.port t
    let lost := ts.any fun t => (d.tableOf t.1 (t.2 == 1)).isNone
    if need = [] then .wire []
    else if !x.tableHold && !lost && need.length ≤ x.tableCap then .wire need
    else .decoded

/-- The blocks of a request. -/
def Req.blocks (r : Req) : List (Nat × Nat) := r.exts.flatMap fun e => (splitBlocks e.2.1 e.2.2).map fun b => (e.1, b.1)

/-- The data and the status that a completion carries. -/
def Dev.cplData (d : Dev) (ph : Phys) (r : Req) : CplForm → (List Gran × Nat) × Dev
  | .refused st => (([], st), d)
  | .plain | .wire _ => ((r.out, 0), d)
  | .decoded => match d.egress (portAgent r.port) ph r.blocks r.out with
    | (some g, d) => ((g, 0), d)
    | (none, d) => (([], 0x07), d)

/-- The tables that a completion pushes; the granules of data that it may carry. -/
def CplForm.push : CplForm → List (Nat × Nat)
  | .wire l => l
  | _ => []
def CplForm.grans (f : CplForm) (r : Req) : Nat :=
  match f with
  | .refused _ => 0
  | .plain | .wire _ => r.out.length
  | .decoded => 64 * r.blocks.length

/-- Granules of the RSP channel that a completion takes with its pushes. -/
def cplSize (n : Nat) (push : List (Nat × Nat)) : Nat := vcGran n + 10 * push.length

/-- Does an instance still hold a piece of request r. -/
def Dev.inQueues (d : Dev) (r : Req) : Bool :=
  d.insts.any fun i => (i.2.queue.any fun p => p.pc.req == some r.id) || i.2.xbar.any fun p => p.req == some r.id

/-- Is request r served: its pieces are accepted, and a read's data have come from the instances. -/
def Dev.reqServed (d : Dev) (r : Req) : Bool :=
  r.stage == .ready ||
    (r.stage == .issued && r.pieces.isEmpty && (r.status ≠ 0 || r.ty ≠ 1 || (r.out ≠ [] && !d.inQueues r)))

/-- May the completion of request r begin: with 256 flits outstanding none does (R315). -/
def Dev.cplReady (d : Dev) (r : Req) : Bool :=
  let x := d.port r.port
  let f := d.cplForm r
  d.reqServed r && x.presents && x.unacked.length < 256 &&
    (d.freezes == .running || r.ty == 8) && (r.waits.all fun w => !d.inUse w) && decide (cplSize (f.grans r) f.push ≤ x.rspFree + r.held)

/-- Begin to send the completion of request r, after the tables that it needs (R317, R324). -/
def Dev.cplSend (d : Dev) (ph : Phys) (r : Req) : Dev :=
  let p := r.port
  let f := d.cplForm r
  let ((g, st), d) := d.cplData ph r f
  let ps := f.push
  let comp := f == .wire ps
  let miss := r.ticks.elim false fun n => decide (r.t0 + n < d.now (portDom p))
  let res := if st = 0 ∨ st = 0x0D then r.result.toNat else 0
  let used := if comp then (r.refs.map fun f => (f.1 / 2, f.1 % 2)).dedup else []
  let d := (d.each used fun d t => d.farUse p t).each ps fun d t => d.tablePush p t
  let hdr := cplHdr r.h.tag.toNat st g.length miss comp res
  let d := d.emit (.cpl p hdr g)
  let n := cplSize g.length ps
  let d := (d.updPort p fun x => { x.queue (vcSlots 1 hdr r.h.tag.toNat g) with
    rspSent := x.rspSent + n, rspResv := x.rspResv - r.held }).txPump p
  let d := d.wrapInc row_OLY_CNT p f_OLY_CNT_COMPLETIONS
  let d := if miss then d.satInc row_QOS_RT p f_QOS_RT_MISSES else d
  let d := (d.discharge r.cmaster r.charge).refsRelease r.refs
  let d := d.each r.binding fun d b => if ((d.ctx b.1).binds.get b.2 {}).draining then
      d.updBind b.1 b.2 fun y => { y with done := y.done + 1 } else d
  { d with reqs := d.reqs.filter fun q => q.id ≠ r.id }

def execCompletionSend (p : Fin 16) (c : CplAt) (s : State) : Host.Outcome State Fault Refusal :=
  match s.dev.reqOf c.req with
  | none => .next s
  | some r => if r.port = p.val && s.dev.cplReady r then s.linkStep (fun d => d.cplSend c.ph r) c.ph else .next s

/-! ### The retry buffer (R315) -/

def execReplayTimeout (p : Fin 16) (s : State) : Host.Outcome State Fault Refusal :=
  s.devEvent (fun d => (d.port p.val).st == .active && (d.port p.val).unacked ≠ [] &&
      d.atLeast (portDom p.val) (d.port p.val).ackAt 1000)
    (fun d => d.replay p.val)

/-! ### The trim store's sections (R389)

Of an absent store every byte reads 0: lanes start at preset P0, delay codes add nothing (R391). What TIMER, SENSOR and PHY hold bears on
analogue parts only; their effect is that of coarse, of the readings of the monitors, which come corrected, and of training (log 47). -/

/-- n bytes of the payload from a on, as a number. -/
def Dev.trimNum (d : Dev) (a n : Nat) : Nat := leNat (slice d.trim a n)

/-- Oscillator code of timer i in the order of TIMER; offset and gain of sensor i of chain c (0 and 1 die 0 A and B, 2 and 3 die 1). -/
def Dev.oscCode (d : Dev) (i : Nat) : Nat := d.trimNum (4 * i) 2
def Dev.sensorTrim (d : Dev) (c i : Nat) : BitVec 16 × BitVec 16 :=
  (BitVec.ofNat 16 (d.trimNum (0x200 + 8 * (30 * c + i)) 2), BitVec.ofNat 16 (d.trimNum (0x202 + 8 * (30 * c + i)) 2))

/-- The SERDES entry of a lane of a port, transmit (false) before receive (log 47): start preset, CTLE seed, FFE seed. -/
def Dev.serdes (d : Dev) (p lane : Nat) (rx : Bool) : Nat := d.trimNum (0x600 + 4 * (16 * p + 2 * lane + b2n rx)) 4

/-- The presets that port p's transmitter starts with (R309). -/
def Dev.startPresets (d : Dev) (p : Nat) : BitVec 32 :=
  BitVec.ofNat 32 (((List.range 8).map fun i => bits (d.serdes p i false) 0 4 * 2 ^ (4 * i)).sum)

/-- The stored delay code of stage group g, and the code it works with: lengthened by its canary (R392). -/
def Dev.storedCode (d : Dev) (g : Nat) : Nat := d.trimNum (0x1000 + g) 1
def Dev.workCode (d : Dev) (g : Nat) : Nat := d.storedCode g + d.work.get g 0

/-- Training seed i: six for each pseudo-channel of HBM, then six for each LPDDR6 channel. -/
def Dev.phySeed (d : Dev) (i : Nat) : Nat := d.trimNum (0x5000 + 16 * i) 16

/-! ### Training (R311 to R313) -/

/-- Enter TRAIN (R311): its lanes start at their presets (R309). -/
def Dev.enterTrain (d : Dev) (p : Nat) : Dev :=
  (d.wrapInc row_OLY_TRAIN p f_OLY_TRAIN_TRAININGS).updPort p fun x => { x with
    st := .train, since := d.portTime p, immediate := false, laneFail := 0, width := 0, txPreset := d.startPresets p }

def execPortTrainStart (p : Fin 16) (s : State) : Host.Outcome State Fault Refusal :=
  s.devEvent (fun d => d.linkRuns p.val && (d.port p.val).st == .down && !(d.port p.val).pllLost &&
      ((d.port p.val).immediate || decide ((d.port p.val).since + d.least 100000000 ≤ d.portTime p.val)))
    (fun d => d.enterTrain p.val)

/-- Step 4: the width code for the lanes that meet the ratio (0 none, 1 lanes 0 to 3, 2 lanes 4 to 7, 3 all). -/
def widthOf (lanes : BitVec 8) (force : Bool) : Nat :=
  if lanes = 0xFF ∧ !force then 3 else if lanes &&& 0x0F = 0x0F then 1 else if lanes &&& 0xF0 = 0xF0 then 2 else 0

/-- Payload granule 0 of the TRAIN flits that port p sends (R312): PRESET_REQ and PRECODE as its receivers ask, PROTO 1, ADV_CTL 512,
ADV_RSP 0, ADV_REQ 8,192, TABLE_CAP 0, CW 0, PORT, ROLE 1. -/
def trainPay (p tstate : Nat) (f : FarEnd) : Gran :=
  BitVec.ofNat 256 (f.preset.toNat * 2 ^ 104 + tstate * 2 ^ 96 + 1 * 2 ^ 80 + 512 * 2 ^ 64 + 8192 * 2 ^ 32 + b2n f.precode * 2 ^ 17 +
    p * 2 ^ 8 + 1)

/-- A TRAIN flit of port p in a step: one for each step (DESIGN CHOICE, log 21). -/
def Port.trainFlit (x : Port) (p tstate : Nat) (f : FarEnd) : FlitBits := x.flit 2 0 false false [] [trainPay p tstate f]

/-- The port as training leaves it at a width: SEQ, ACK and the credit totals at 0, what the far end advertised and asked for (R312). -/
def Port.active (x : Port) (w now ack : Nat) (f : FarEnd) : Port :=
  { st := .active, since := now, width := w, farRsp := f.advRsp.toNat, farCtl := f.advCtl.toNat,
    cw := f.cw && decide (4 ≤ f.tableCap ∧ f.tableCap ≤ 1024),
    tableCap := if f.tableCap = 0 ∨ (4 ≤ f.tableCap ∧ f.tableCap ≤ 1024) then f.tableCap else 0,
    txPreset := f.farPreset, txPrecode := f.farPrecode, fecCorr := x.fecCorr, ackAt := ack, txWords := x.txWords, rxWords := x.rxWords,
    symErr := x.symErr }

/-- Training has gone through its steps: TRAIN flits are sent, then three IDLE flits (R312). -/
def Dev.trained (d : Dev) (p : Nat) (lanes : BitVec 8) (f : FarEnd) : Dev :=
  let w := widthOf lanes (d.fld row_OLY_CTL p f_OLY_CTL_FORCE_X4 == 1)
  let x := d.port p
  if w = 0 then (d.sendFlits p [x.trainFlit p 1 f, x.trainFlit p 2 f]).portDown p 4 false
  else
    let d := d.sendFlits p [x.trainFlit p 1 f, x.trainFlit p 2 f, x.trainFlit p 3 f]
    if f.proto ≠ 1 || f.role = 1 then d.portDown p 6 false
    else
      let idle := x.flit 0 0 false false []
      let d := d.sendFlits p [idle, idle, idle]
      let d := d.updPort p fun x => x.active w (d.portTime p) (d.now (portDom p)) f
      if x.linkReset then d.each (d.owned p) fun d c => d.event (some p) 0x02 (d.handle c) p else d

def execTrainComplete (p : Fin 16) (lanes : BitVec 8) (far : FarEnd) (s : State) : Host.Outcome State Fault Refusal :=
  s.devEvent (fun d => d.linkRuns p.val && (d.port p.val).st == .train && !(d.port p.val).pllLost && far.tstate == 3 &&
      decide (d.portTime p.val ≤ (d.port p.val).since + d.most 50000000))
    (fun d => d.trained p.val lanes far)

def execTrainTimeout (p : Fin 16) (s : State) : Host.Outcome State Fault Refusal :=
  s.devEvent (fun d => d.linkRuns p.val && (d.port p.val).st == .train &&
      decide ((d.port p.val).since + d.most 50000000 ≤ d.portTime p.val))
    (fun d => d.portDown p.val 3 false)

/-- The active lanes of a width code. -/
def laneMask (w : Nat) : BitVec 8 := if w = 3 then 0xFF else if w = 2 then 0xF0 else if w = 1 then 0x0F else 0

/-- Symbols corrected on lane i over the last n codewords. -/
def Port.corrected (x : Port) (n i : Nat) : Nat := (x.symErr.filter fun e => e.2 == i && decide (x.rxWords < e.1 + n)).length

/-- The lanes that corrected more symbols than the other lanes together over the last 1,024 codewords (R313 step 1). -/
def Port.worst (x : Port) : BitVec 8 :=
  let c := (List.range 8).map (x.corrected 1024)
  (List.range 8).foldl (fun m i => if c.sum - c.getD i 0 < c.getD i 0 then m ||| BitVec.ofNat 8 (2 ^ i) else m) 0

/-- A retrain ends on the lanes that are usable: of those that kept their lock and meet the ratio, the ones that step 1 does not class
as failed (R313). -/
def Dev.retrained (d : Dev) (p : Nat) (locked : BitVec 8) : Dev :=
  let x := d.port p
  let lanes := locked &&& ~~~ x.worst
  let w := if x.width = 3 then widthOf lanes (d.fld row_OLY_CTL p f_OLY_CTL_FORCE_X4 == 1)
    else if x.width = 1 then (if lanes &&& 0x0F = 0x0F then 1 else 0)
    else (if lanes &&& 0xF0 = 0xF0 then 2 else 0)
  let classed := fun (d : Dev) => d.updPort p fun y => { y with laneFail := y.laneFail ||| (laneMask x.width &&& ~~~ lanes) }
  if w = 0 then classed (d.portFail p 4 7) else
  let d := classed d
  let d := if x.width = 3 && w ≠ 3 then d.satInc row_OLY_TRAIN p f_OLY_TRAIN_NARROWINGS else d
  let d := (d.updPort p fun x => { x with st := .active, width := w, nakOut := false, failSeq := none }).replay p
  d.ctlSend p (d.port p).ctlQ.length

def execRetrainComplete (p : Fin 16) (lanes : BitVec 8) (s : State) : Host.Outcome State Fault Refusal :=
  s.devEvent (fun d => d.linkRuns p.val && (d.port p.val).st == .retrain && !(d.port p.val).pllLost &&
      decide (d.portTime p.val ≤ (d.port p.val).since + d.most 20000000))
    (fun d => d.retrained p.val lanes)

def execRetrainTimeout (p : Fin 16) (s : State) : Host.Outcome State Fault Refusal :=
  s.devEvent (fun d => d.linkRuns p.val && (d.port p.val).st == .retrain &&
      decide ((d.port p.val).since + d.most 20000000 ≤ d.portTime p.val))
    (fun d => d.portDown p.val 3 false)

def execLinkLoss (p : Fin 16) (s : State) : Host.Outcome State Fault Refusal :=
  s.devEvent (fun d => let x := (d.port p.val).st; x == .active || x == .retrain || x == .train || x == .hold)
    (fun d => d.portDown p.val 2 false)

/-! ### OLY_CTL (R311, R331) -/

/-- RESET of port p: DOWN, from FAILED the port domain is reset too (R311). -/
def Dev.olyReset (d : Dev) (p : Nat) : Dev :=
  if (d.port p).st == .failed then
    if bitOf d.dieFenced.toNat (dieOfPort p) then d else
    let d := d.portTimerZero p
    let d := (d.downCause p 1).updPort p fun x => { x with
      st := .down, since := d.portTime p, immediate := true, width := 0, pllLost := false }
    let was := (d.dom (portDom p)).st == .fenced
    let d := d.updDom (portDom p) fun e => { e with st := .live }
    if was then d.rejoined (portDom p) else d
  else d.portDown p 1 true

def execOlyRetrain (p : Fin 16) (s : State) : Host.Outcome State Fault Refusal :=
  s.devEvent (fun d => d.portRuns p.val && (d.port p.val).st == .active) (fun d => d.enterRetrain p.val)

def execOlyReset (p : Fin 16) (s : State) : Host.Outcome State Fault Refusal :=
  s.linkStep fun d => d.olyReset p.val

end Sys2Proof.Machine
end

