-- ==== Sys2Proof/Machine/Tick.lean ====
section
/-! DEFINITION. The tick of the local timers (R20). -/
namespace Sys2Proof.Machine

/-- Is Vcore up: step 2 of R412 is behind, and no trip has switched it off (R376). -/
def Dev.vcore (d : Dev) : Bool := d.step ≠ .standby && d.step ≠ .pwrok && !d.vcoreOff

/-- The keys of the timers: instances, ports, Loess engines, die common logic, the always-on parts. -/
def timerKeys : List Nat :=
  ((List.range 0x150).filter fun x => 0xD8 ≤ x) ++ [commonDom 0, commonDom 1, alwaysKey 0, alwaysKey 1]

/-- Does the timer of x run: its domain has power (R20). -/
def Dev.timerRuns (d : Dev) (x : Nat) : Bool :=
  if 0x200 ≤ x then d.step ≠ .standby
  else if 0x1F0 ≤ x then d.vcore
  else (d.dom x).st ≠ .off && !d.vcoreOff

/-- One tick of every timer that runs. They count in a frozen device too. -/
def Dev.tick (d : Dev) : Dev :=
  d.each timerKeys fun d x => if d.timerRuns x then
      let h := if d.freezes == .running then d.halted else d.halted.upd x 0 (· + 1)
      { d with timers := d.timers.upd x 0 (· + 1), halted := h }
    else d

end Sys2Proof.Machine
end

