-- ==== Sys2Proof/Machine/Saf.lean ====
section
/-! DEFINITION. Detection, fencing and containment (R367 to R380): the rows of the safety monitors. The rows on supply and
temperature limits are in Power.lean. -/
namespace Sys2Proof.Machine

/-! ### Domain fences (R369 to R373) -/

/-- Is a domain's watchdog armed: the device not frozen, the domain LIVE and not in self-refresh (R373). -/
def Dev.watched (d : Dev) (x : Nat) : Bool :=
  d.freezes == .running && d.live x &&
    !(decide (0xD8 ≤ x ∧ x < 0x13C) && (d.inst (x - 0xD8)).st == .selfRefresh)

def execWatchdogStall (x : Fin 336) (s : State) : Host.Outcome State Fault Refusal :=
  s.devEvent (fun d => d.watched x.val) (fun d => d.domFence x.val 1)

/-- A fence decided with a cause of R378. -/
def execDomainFence (x : Fin 336) (cause : Fin 16) (s : State) : Host.Outcome State Fault Refusal :=
  s.devEvent (fun d => d.live x.val && decide (1 ≤ cause.val ∧ cause.val ≤ 9)) (fun d => d.domFence x.val cause.val)

/-- A write of SAF_DOM_i.FENCE: a fence with cause FM (R369). -/
def execSafDomFence (x : Fin 336) (s : State) : Host.Outcome State Fault Refusal :=
  s.devEvent (fun d => d.live x.val) (fun d => d.domFence x.val 9)

/-- Bound of step 4 of R370 in ns. -/
def resetBound (x : Nat) : Nat :=
  if x < 0xC0 then 2000000 else if x < 0xD8 then 5000000 else if x < 0x118 then 3000000 else if x < 0x13C then 5000000 else 1000000

/-- Is the bed of a core or clay buffer domain at an operation boundary (R371). -/
def Dev.boundary (d : Dev) (x : Nat) : Bool :=
  let k := if x < 0xC0 then some (x / 8) else if x < 0xD8 then some (x - 0xC0) else none
  (k.bind d.bedOfCluster).elim true fun b => (d.bed b).run.elim true fun o => !o.started

/-- LATENT_FAULT of class cls on a die and domain, recorded. -/
def Dev.latent (d : Dev) (die cls dom : Nat) : Dev :=
  let d := (d.satInc row_SAF_STEST die f_SAF_STEST_FAILS).setFld row_SAF_STEST die f_SAF_STEST_LAST_FAIL cls
  (d.satInc row_SAF_CNT 0 f_SAF_CNT_LATENT).safety 4 0x16 (cls + die * 2 ^ 8 + domId dom * 2 ^ 16)

/-- Has domain x checkers of a class (R377): Loam decoders and watchdogs everywhere, Grade checks in clay buffers and ports,
residue checkers and signature comparators in cores, tag checkers in clay buffers, duplicate checkers in ports and cores. -/
def classIn (cls x : Nat) : Bool :=
  let core := decide (x < 0xC0)
  let clay := decide (0xC0 ≤ x ∧ x < 0xD8)
  let port := decide (0x13C ≤ x ∧ x < 0x14C)
  match cls with
  | 2 => clay || port
  | 3 | 6 => core
  | 4 => clay
  | 5 => port || core
  | _ => true

/-- Step 4′: RETIRED; the set of an instance is fenced. -/
def Dev.domRetire (d : Dev) (x : Nat) : Dev :=
  let d := d.updDom x fun e => { e with st := .retired }
  if 0xD8 ≤ x ∧ x < 0x13C then d.failChans (x - 0xD8) 0xF 4 else d

/-- The self-test of step 3 fails (R370, R377): a latent fault of a checker of the domain, of a class that the row does not name and that
is left free (DESIGN CHOICE, log 46); RETIRED. -/
def Dev.domTestFail (d : Dev) (x : Nat) : Dev :=
  let l := (List.range 8).filter fun c => c ≠ 0 && classIn c x
  let (n, d) := d.fresh 8
  (d.latent (dieOfDom x) (l.getD (n.toNat % l.length) 1) x).domRetire x

/-- The stage groups of R392: 64 for each core, 80 for each clay buffer, 16 for each bridge half; their domain. -/
def groupDom (g : Nat) : Nat :=
  if g < 12288 then coreDom (g / 64) else if g < 14208 then clayDom ((g - 12288) / 80) else commonDom ((g - 14208) / 16)

/-- The working codes of a domain restart at the stored ones (R396). -/
def Dev.workRestart (d : Dev) (x : Nat) : Dev := { d with work := d.work.filter fun e => groupDom e.1 ≠ x }

/-- Every bank of clay buffer k has been powered and written anew: what it held is gone (R302, R370). -/
def Dev.clayWipe (d : Dev) (k : Nat) : Dev :=
  { d with clay := d.clay.filter fun c => c.1 / (320 * 2048 * 64) ≠ k, clayWr := d.clayWr.filter fun e => e.1 / (320 * 2048) ≠ k }

/-- The reads of requests whose pieces instance i issues again are made anew: what they brought before is not used (R297). -/
def Dev.readAgain (d : Dev) (i : Nat) : Dev :=
  d.each (d.reqs.filter fun r => r.ty == 1 && r.stage == .issued && r.pieces.isEmpty && r.status == 0 &&
      (d.inst i).queue.any fun p => p.pc.req == some r.id) fun d r =>
    ((d.refsRelease r.refs).updReq r.id fun q => { q with out := [], refs := [] }).applyDue r.id

/-- A reset with replay has ended: the held pieces are issued again (R297); in a device that has failed the memory goes to self-refresh
(R376). -/
def Dev.replayEnds (d : Dev) (i : Nat) : Dev :=
  let d := (d.replayOver i).readAgain i
  if d.failed then d.toSelfRefresh i else d

/-- Step 4: LIVE again. An instance issues its held pieces again and its channels return to service; a clay buffer's banks have been
written. -/
def Dev.domRejoin (d : Dev) (x : Nat) : Dev :=
  let d := (d.updDom x fun e => { e with st := .live, passed := false }).workRestart x
  let d := if 0xC0 ≤ x ∧ x < 0xD8 then d.clayWipe (x - 0xC0)
    else if 0xD8 ≤ x ∧ x < 0x13C ∧ (d.inst (x - 0xD8)).st = .replay then d.replayEnds (x - 0xD8) else d
  d.rejoined x

/-- Is domain x in its reset and the device not frozen (R379). -/
def Dev.resetting (d : Dev) (x : Nat) : Bool :=
  d.freezes == .running && (d.dom x).st == .resetting && !bitOf d.dieFenced.toNat (dieOfDom x)

/-- Has the bound of step 4 expired. -/
def Dev.resetLate (d : Dev) (x : Nat) : Bool :=
  decide ((d.dom x).since + d.most (resetBound x) ≤ d.lived (alwaysKey (dieOfDom x)))

/-- The domains that rejoin with x: while a clay buffer is in reset, it and every core of its cluster that is (R371, R379). -/
def Dev.rejoinGroup (d : Dev) (x : Nat) : List Nat :=
  let k := if x < 0xC0 then x / 8 else x - 0xC0
  if x < 0xD8 ∧ (d.dom (clayDom k)).st = .resetting then
    (clayDom k :: (List.range 8).map fun c => coreDom (8 * k + c)).filter fun y => (d.dom y).st == .resetting
  else [x]

/-- The self-test of domain x passes: it rejoins, with those that it rejoins together with once the last of them has passed. -/
def Dev.domPass (d : Dev) (x : Nat) : Dev :=
  let d := d.updDom x fun e => { e with passed := true }
  let g := d.rejoinGroup x
  if g.all fun y => (d.dom y).passed then d.each g Dev.domRejoin else d

/-- Has the PLL of an instance's domain lost its lock: the domain cannot rejoin. -/
def Dev.noLock (d : Dev) (x : Nat) : Bool := decide (0xD8 ≤ x ∧ x < 0x13C) && (d.inst (x - 0xD8)).pllLost

/-- A domain that has passed waits for the others; the row may come again for it. -/
def execDomainRejoin (x : Fin 336) (pass : Bool) (s : State) : Host.Outcome State Fault Refusal :=
  s.devEvent (fun d => d.resetting x.val &&
      (if pass then !d.noLock x.val && ((d.dom x.val).passed || !d.resetLate x.val) && d.boundary x.val else !(d.dom x.val).passed))
    (fun d => if pass then d.domPass x.val else d.domTestFail x.val)

def execDomainResetTimeout (x : Fin 336) (s : State) : Host.Outcome State Fault Refusal :=
  s.devEvent (fun d => d.resetting x.val && !(d.dom x.val).passed && d.resetLate x.val) (fun d => d.domRetire x.val)

/-! ### Marl pairs (R374) -/

/-- Is Marl pair p running. -/
def Dev.marlOn (d : Dev) (p : Nat) : Bool := bitOf d.marlUp.toNat p && !bitOf d.marlLost.toNat p && d.freezes == .running

def execMarlLockstepMismatch (p : Fin 2) (s : State) : Host.Outcome State Fault Refusal :=
  s.devEvent (fun d => d.marlOn p.val) (fun d => d.marlLose p.val 1)

def execMarlWatchdogExpiry (p : Fin 2) (s : State) : Host.Outcome State Fault Refusal :=
  s.devEvent (fun d => d.marlOn p.val) (fun d => d.marlLose p.val 2)

/-- The pair that is left has taken over. -/
def execMarlTakeover (s : State) : Host.Outcome State Fault Refusal :=
  s.devEvent (fun d => d.takeover.isSome && d.freezes == .running) (fun d => { d with takeover := none })

/-! ### Self-test (R377) -/

/-- The reaction to one failed test. -/
def Dev.testFail (d : Dev) (die : Nat) (t : TestFail) : Dev :=
  if t.cls < 1 ∨ 8 < t.cls then d else
  let dom := if t.cls = 8 then commonDom die else t.domain
  if !(dieOfDom dom == die && (decide (dom < 336) || dom == commonDom die) && classIn t.cls dom) then d else
  let d := d.latent die t.cls dom
  if t.cls = 8 then d.marlLose die 3
  else if dom < 336 then d.domFence dom 8
  else d.dieFence die 1

/-- A self-test round of a die. -/
def Dev.selfTest (d : Dev) (die : Nat) (fails : List TestFail) : Dev :=
  let d := d.each fails fun d t => d.testFail die t
  let d := d.wrapInc row_SAF_STEST die f_SAF_STEST_RUNS
  { d with stestAt := d.stestAt.set die (d.now (alwaysKey die)) 0 }

def execSelfTest (die : Fin 2) (fails : List TestFail) (s : State) : Host.Outcome State Fault Refusal :=
  s.devEvent (fun d => d.working &&
      d.atLeast (alwaysKey die.val) (d.stestAt.get die.val 0) (d.fld row_SAF_CTL 0 f_SAF_CTL_STEST_HOURS * 3600000000000))
    (fun d => d.selfTest die.val fails)

/-- The two chains of a limit disagree for at least 1 ms: one chain is out and the other goes on alone, or both are and the
die is fenced. A chain that goes on alone has nothing to disagree with: it can only be lost as well. -/
def Dev.chainsDiffer (d : Dev) (die cls : Nat) (both : Bool) : Dev :=
  let d := ({ d with chainOut := d.chainOut ||| BitVec.ofNat 6 (2 ^ (3 * die + cls)) }).latent die (9 + cls) (alwaysKey die)
  if both then d.dieFence die 4 else d

/-- cls 0 temperature, 1 voltage, 2 power. -/
def execSensorChainDisagree (die : Fin 2) (cls : Fin 3) (both : Bool) (s : State) : Host.Outcome State Fault Refusal :=
  s.devEvent (fun d => d.step ≠ .standby && (both || !d.chainOut.getLsbD (3 * die.val + cls.val)))
    (fun d => d.chainsDiffer die.val cls.val both)

/-! ### Die common logic (R375) -/

def execDieCommonFault (die : Fin 2) (bridge : Bool) (s : State) : Host.Outcome State Fault Refusal :=
  s.devEvent (fun d => d.vcore && !bitOf d.dieFenced.toNat die.val) (fun d => d.dieFence die.val (if bridge then 2 else 1))

/-! ### SAF_STATUS and FAULT_N (R368, R380) -/

/-- A write of ones to the pending bits of SAF_STATUS clears them. -/
def Dev.safClear (d : Dev) (v : Word) : Dev :=
  ({ d with pend := d.pend &&& ~~~ (v.extractLsb' 4 5) }).faultPin

def execSafStatusClear (v : Word) (s : State) : Host.Outcome State Fault Refusal := s.devStep fun d => d.safClear v

/-- SAF_CTL.FAULT_TEST. -/
def Dev.faultTest (d : Dev) (on : Bool) : Dev := (d.setFld row_SAF_CTL 0 f_SAF_CTL_FAULT_TEST (b2n on)).faultPin

def execFaultTest (on : Bool) (s : State) : Host.Outcome State Fault Refusal := s.devStep fun d => d.faultTest on

end Sys2Proof.Machine
end

