-- ==== Sys2Proof/Machine/Ctrl.lean ====
section
/-! DEFINITION. The rows of bandwidth regulation (R252 to R266) and of the memory controllers (R267 to R286), with the end of a
reset with replay (R297). -/
namespace Sys2Proof.Machine

/-! ### Ceilings and the scale factor -/

/-- Queue level in 1/256 of the depth. -/
def Dev.qLevel (d : Dev) (i : Nat) : Nat := (d.inst i).queued * 256 / queueDepth i

/-- The next value of a ceiling (R260). -/
def ceilNext (q high low be cmin c : Nat) : Nat :=
  if high < q ∧ 0 < be then max cmin (c - max 1 (c / 8))
  else if q < low then min ceilMax (c + max 16 (c / 8)) else c

/-- Is a set in the SET_MASK of an agent (R31). -/
def Dev.agentSet (d : Dev) (s a : Nat) : Bool := bitOf ((d.strat.bind fun g => g.routes[a]?).elim 0 (·.toNat)) s

/-- Has master m a path to set s (R31, R258): its port, a cluster of its bed, its engine, the pairs; SCRUB stands at every set. -/
def Dev.masterPath (d : Dev) (s m : Nat) : Bool :=
  if m < 16 then d.agentSet s (24 + m) else if m < 24 then (d.clusters (m - 16)).any (d.agentSet s)
  else if m < 28 then d.agentSet s (40 + (m - 24)) else m = 28 || d.agentSet s 44

/-- One update of every ceiling of a set (R260). -/
def Dev.ceilUpdate (d : Dev) (s : Nat) : Dev :=
  match d.set? s with
  | none => d
  | some S =>
    let q := (S.insts.map d.qLevel).foldl max 0
    let fb := d.fld row_QOS_CTL 0 f_QOS_CTL_FEEDBACK_EN == 1
    let d := if fb then d.each ((List.range 30).filter (d.masterPath s)) fun d i =>
        let be := (d.sq s).beGran.get i 0
        let c := ceilNext q S.highWm S.lowWm be (d.cmin s i) (d.ceiling s i)
        let cut := decide (S.highWm < q ∧ 0 < be)
        d.updSq s fun x => { x with ceil := x.ceil.set i c 0, cuts := if cut then x.cuts.upd i 0 (· + 1) else x.cuts }
      else d
    d.updSq s fun x => { x with beGran := [], qlevel := min 255 q, ceilAt := d.lived (commonDom S.die) }

def execCeilingUpdate (s : Fin 32) (st : State) : Host.Outcome State Fault Refusal :=
  st.devEvent (fun d => d.working && (d.set? s.val).isSome &&
      decide ((d.sq s.val).ceilAt + 25 * d.fld row_QOS_CTL 0 f_QOS_CTL_PERIOD ≤ d.lived (commonDom (d.setDie s.val))))
    (fun d => d.ceilUpdate s.val)

/-- Is an instance in service for K_CH (R263). -/
def Dev.inService (d : Dev) (i : Nat) : Bool :=
  let x := d.inst i
  d.live (instDom i) && x.st ≠ .fenced && x.st ≠ .replay && x.st ≠ .off

/-- K and its causes (R263). throttled: EMERGENCY is 1 or the trim store is absent. -/
def Dev.kOf (d : Dev) (s : Nat) (throttled : Bool) : Nat × Nat :=
  match d.set? s with
  | none => (1024, 0)
  | some S =>
    if d.setFenced s then (0, 4) else
    let on := (S.channels.filter fun c => d.inService (instOfChan S.sub c)).length
    let ch := 1024 * on / max 1 S.channels.length
    let rate := if throttled then min 1024 (1024 * d.rateDc.get S.die 0 / 1300) else 1024
    (min ch rate, b2n (ch ≠ 1024) + b2n (rate ≠ 1024) * 2)

/-- Is EMERGENCY 1 (R384). -/
def State.emergency (s : State) : Bool := s.pwr.causes ≠ []

/-- Is any guarantee throttled (R263). -/
def State.throttled (s : State) : Bool := s.emergency || s.sec.trimAbsent

/-- Adopt the scale factor of a set. -/
def Dev.kAdopt (d : Dev) (s : Nat) (throttled : Bool) : Dev :=
  let (k, c) := d.kOf s throttled
  (d.setK s k c).ceilRaise s

def execScaleFactorUpdate (x : Fin 32) (s : State) : Host.Outcome State Fault Refusal :=
  s.devEvent (fun d => d.freezes == .running && (d.set? x.val).isSome) (fun d => d.kAdopt x.val s.throttled)

def execShortfallHoldoffExpiry (x : Fin 32) (s : State) : Host.Outcome State Fault Refusal :=
  s.devEvent (fun d => d.freezes == .running && (d.sq x.val).pendingEvent &&
      (d.sq x.val).lastEvent.elim true fun t => d.ran (commonDom (d.setDie x.val)) t 1000000)
    (fun d => d.raiseShortfall x.val)

/-! ### Pieces (R255, R256, R261, R274 to R276) -/

/-- The controller deadline of a service budget V in ns (R261). -/
def Dev.pieceDeadline (d : Dev) (now : Nat) (v : Int) : Nat := if v ≤ 0 then now else now + d.most v.toNat

/-- The service budget that goes with a piece: of a link request with a deadline, what is left of its budget less the return
allowance; of another piece of an RT port, what its sender gives; no piece of another master carries one (R261). -/
def Dev.serviceBudget (d : Dev) (p : PieceIn) : Option Int :=
  match p.req.bind d.reqOf with
  | none => if p.master.val < 16 && d.rt p.master.val then p.budget else none
  | some r =>
    let den := if d.coarse then 88 else 95
    r.ticks.map fun _ =>
      Int.ofNat (32 * r.h.budget.toNat) - Int.ofNat (((d.now (portDom r.port) - r.t0) * 400 + den - 1) / den) -
        Int.ofNat (100 * d.fld row_QOS_CTL 0 f_QOS_CTL_RET_ALLOW)

/-- The master that a piece is charged to: of a request of the device, the request's (R254). -/
def Dev.pieceMaster (d : Dev) (p : PieceIn) : Fin 30 :=
  match p.req.bind d.reqOf with
  | none => p.master
  | some r => Fin.ofNat 30 r.cmaster

/-- Granules at instance i that the pieces of request r have still to move, without those that wait at the crossbar. -/
def Dev.pieceLeft (d : Dev) (i : Nat) (r : Req) : Nat :=
  ((r.pieces.find? fun e => e.1 == i).elim 0 (·.2)) -
    (((d.inst i).xbar.filter fun p => p.req == some r.id).map (·.gran)).sum

/-- A piece as its request has it (R255): no more than the request has still to move there, and a read's is no write. None where the
request has none there. -/
def Dev.pieceOf (d : Dev) (i : Nat) (p : PieceIn) : Option PieceIn :=
  match p.req with
  | none => some p
  | some id => match d.reqOf id with
    | none => none
    | some r =>
      let n := min p.gran (d.pieceLeft i r)
      if r.stage ≠ .issued || n = 0 then none else some { p with gran := n, write := p.write && r.ty ≠ 1 }

/-- Instance i has accepted a piece with a class: its request is applied with its last piece (R255, R275). -/
def Dev.accepted (d : Dev) (i : Nat) (p : PieceIn) (cls : Cls) : Dev :=
  match p.req.bind d.reqOf with
  | none => d
  | some r =>
    if r.stage ≠ .issued || r.pieces = [] then d else
    (d.updReq r.id fun q => { q with
      pieces := q.pieces.filterMap (fun e => if e.1 ≠ i then some e else if e.2 ≤ p.gran then none else some (e.1, e.2 - p.gran)),
      queued := q.queued ++ [(i, cls)] }).applyDue r.id

/-- A piece arrives at an instance with room for it. -/
def Dev.pieceIn (d : Dev) (i : Nat) (p : PieceIn) : Dev :=
  let p := { p with budget := d.serviceBudget p, master := d.pieceMaster p }
  let d := d.accrue i
  let x := d.inst i
  let a := x.acct.get p.master.val 0
  let within := decide (0 < a)
  let acct := if within then x.acct.set p.master.val (a - Int.ofNat (p.gran * acctUnit)) 0 else x.acct
  let cls : Cls := if !within then .be else if p.budget.isSome then .rt else .guar
  let q : Piece := ⟨p, cls, d.lived (instDom i), p.budget.map (d.pieceDeadline (d.now (instDom i))), false⟩
  (d.updInst i fun x => { x with acct := acct, queue := x.queue ++ [q] }).accepted i p cls

/-- PEAK of the queue. -/
def Dev.peak (d : Dev) (i : Nat) : Dev :=
  let n := (d.inst i).queued
  let (r, j) := if isLmc i then (row_LMC_QUEUE, i - 64) else (row_HMC_QUEUE, i)
  let f := f_HMC_QUEUE_PEAK
  if d.fld r j f < n then d.setFld r j f n else d

/-- Is there room in an instance's queue, and does nothing wait before it (R274). -/
def Dev.hasRoom (d : Dev) (i : Nat) (p : PieceIn) : Bool := decide ((d.inst i).queued + p.gran ≤ queueDepth i)

/-- Does an instance answer pieces: powered, trained, in a set, the device not frozen. -/
def Dev.accepts (d : Dev) (i : Nat) : Bool :=
  let x := d.inst i
  x.st ≠ .off && x.st ≠ .training && d.freezes == .running && (d.setOfInst i).isSome

/-- A piece at a fenced instance completes with POISON (R283). -/
def Dev.piecePoison (d : Dev) (p : PieceIn) : Dev :=
  match p.req.bind d.reqOf with
  | none => d
  | some r => if r.stage == .issued then d.failReq r.id 0x07 else d

/-- A piece arrives: POISON at a fenced instance, the queue, or the crossbar where the queue is full (R274). -/
def Dev.pieceArrive (d : Dev) (i : Nat) (p : PieceIn) : Dev :=
  if (d.inst i).st == .fenced then d.piecePoison p
  else if (d.inst i).xbar.isEmpty && d.hasRoom i p then (d.pieceIn i p).peak i
  else d.updInst i fun x => { x with xbar := x.xbar ++ [p] }

/-- The pieces at the crossbar enter the queue in their order while there is room. -/
def Dev.xbarDrain (d : Dev) (i : Nat) : Dev :=
  (d.inst i).xbar.foldl (fun d p =>
    if (d.inst i).xbar.head? == some p && d.hasRoom i p then
      ((d.updInst i fun x => { x with xbar := x.xbar.drop 1 }).pieceIn i p).peak i
    else d) d

/-- A piece of a request that has none left there is no piece. -/
def execControllerPieceArrival (i : Fin 100) (pc : PieceIn) (s : State) : Host.Outcome State Fault Refusal :=
  s.devEvent (fun d => d.accepts i.val && (d.pieceOf i.val pc).isSome)
    (fun d => (d.pieceOf i.val pc).elim d (d.pieceArrive i.val))

/-- The order of the classes. -/
def Cls.rank : Cls → Nat
  | .rt => 0
  | .guar => 1
  | .be => 2

/-- The first of a list under an order, earlier entries winning ties. -/
def firstBy (l : List Piece) (lt : Piece → Piece → Bool) : Option Piece :=
  l.foldl (fun b p => match b with
    | none => some p
    | some q => if lt p q then some p else some q) none

/-- AGE_LIMIT of the stratum as an "at least" count (R256); a freeze halts the age of a queued piece (R400). -/
def Dev.ageTicks (d : Dev) : Nat := d.least (100 * d.strat.elim 0 (·.ageLimit))

/-- The piece that part is served next: of what a reset with replay issues again the first of the queue (R297), else by class
(R256, R276). -/
def Dev.choose (d : Dev) (i part : Nat) : Option Piece :=
  let x := d.inst i
  let mine := x.queue.filter fun p => p.pc.part.val == part
  match mine.find? (·.again) with
  | some p => some p
  | none =>
  let top := (mine.map (·.cls.rank)).foldl min 3
  let c := mine.filter fun p => p.cls.rank == top
  let now := d.lived (instDom i)
  let aged := if top = 0 then [] else c.filter fun p => p.at_ + d.ageTicks ≤ now
  match aged with
  | p :: t => firstBy (p :: t) fun a b => a.at_ < b.at_
  | [] =>
    let (dir, run) := x.dir.get part (false, 16)
    let same := c.filter fun p => p.pc.write == dir
    let c := if run < 16 && same ≠ [] then same else c
    if top = 0 then firstBy c fun a b => decide (a.deadline.getD 0 < b.deadline.getD 0)
    else match c.filter (d.hit i) with
      | p :: t => firstBy (p :: t) fun a b => a.at_ < b.at_
      | [] => firstBy c fun a b => a.at_ < b.at_

def tempOf (i : Nat) : RegRow × Nat := if isLmc i then (row_LMC_TEMP, i - 64) else (row_HMC_TEMP, i)
def ctlOf (i : Nat) : RegRow × Nat := if isLmc i then (row_LMC_CTL, i - 64) else (row_HMC_CTL, i)

/-- The granules of a read that have left the front end; with the last of them its charge on the set is released (R258). -/
def Dev.readMoved (d : Dev) (r : Req) (s n : Nat) : Dev :=
  match r.charge.find? fun c => c.1 == s with
  | none => d
  | some c =>
    let k := r.moved.get s 0 + n
    if k < c.2 then d.updReq r.id fun q => { q with moved := q.moved.set s k 0 }
    else (d.discharge r.cmaster [c]).updReq r.id fun q => { q with charge := q.charge.filter fun e => e.1 ≠ s }

/-- Serve a chosen piece: its bursts, the progress of its request, and room for what waits at the crossbar. -/
def Dev.serve (d : Dev) (i : Nat) (p : Piece) : Dev :=
  let d := d.burst i p
  let d := match d.setOfInst i, p.pc.req.bind d.reqOf with
    | some s, some r => d.readMoved r s p.pc.gran
    | _, _ => d
  d.xbarDrain i

def execQueueService (i : Fin 100) (part : Fin 8) (s : State) : Host.Outcome State Fault Refusal :=
  s.devEvent (fun d => (d.inst i.val).st == .active && d.freezes == .running)
    (fun d => match d.choose i.val part.val with
      | none => d
      | some p => d.serve i.val p)

/-! ### Refresh and self-refresh (R277, R278) -/

/-- A bank is refreshed: its row is closed. -/
def Dev.refreshBank (d : Dev) (i part bank : Nat) : Dev :=
  d.updInst i fun x => { x with
    rows := x.rows.set (part * 16 + bank) 0 0, rowAt := x.rowAt.set (part * 16 + bank) 0 0,
    refreshed := x.refreshed.set (part * 16 + bank) (d.now (instDom i)) 0 }

def execRefresh (i : Fin 100) (part : Fin 8) (bank : Fin 16) (s : State) : Host.Outcome State Fault Refusal :=
  s.devEvent (fun d => (d.inst i.val).st == .active && d.freezes == .running) (fun d => d.refreshBank i.val part.val bank.val)

/-- Is automatic entry due (R278). -/
def Dev.srDue (d : Dev) (i : Nat) : Bool :=
  let x := d.inst i
  let (r, j) := ctlOf i
  x.st == .active && d.freezes == .running && x.queue.isEmpty && x.xbar.isEmpty && x.retry.isNone && d.fld r j f_HMC_CTL_SR_AUTO == 1 &&
    d.atLeast (instDom i) x.idleSince (1000 * d.fld r j f_HMC_CTL_SR_IDLE)

def execSelfRefreshEntry (i : Fin 100) (s : State) : Host.Outcome State Fault Refusal :=
  s.devEvent (fun d => d.srDue i.val) (fun d => d.clockStop i.val .selfRefresh)

/-- Parts of an instance that pause on their own: pseudo-channels, or LPDDR6 channels (R280). -/
def pauseKey (i part : Nat) : Nat := if isLmc i then part / 2 else part

/-- The PLL of an instance has locked and its training step has run (R278): in service, or the failures are handled as those of
R282 (DEDUCED, log 42). -/
def Dev.srExit (d : Dev) (i : Nat) (fails : List TrainFail) : Dev :=
  let d := d.trainFails i fails 1
  if lastingMask fails = 0 then (d.clockStart i).pausesRestart i else d

/-- Exit: at a thaw, or for pieces that wait, once the PLL has locked. -/
def execSelfRefreshExit (x : ExitAt) (s : State) : Host.Outcome State Fault Refusal :=
  s.devEvent (fun d => (d.inst x.inst.val).st == .selfRefresh && !(d.inst x.inst.val).pllLost && !d.failed &&
      (d.dom (instDom x.inst.val)).st == .live &&
      (d.freezes == .thawing || (d.freezes == .running && !((d.inst x.inst.val).queue.isEmpty && (d.inst x.inst.val).xbar.isEmpty))))
    (fun d => d.srExit x.inst.val x.fails)

/-! ### Temperature (R279) -/

/-- A reading or 105 °C where the memory reports it invalid, in quarter degrees. -/
def tempVal (r : Option (BitVec 16)) : BitVec 16 := r.getD 420

def Dev.tempStore (d : Dev) (i : Nat) (t : BitVec 16) : Dev :=
  let (r, j) := tempOf i
  let x := d.inst i
  let m := d.fld r j f_HMC_TEMP_MAX
  let first := !x.tempSeen
  let d := d.setFld r j f_HMC_TEMP_TEMP t.toNat
  let d := if first || (BitVec.ofNat 16 m).toInt < t.toInt then d.setFld r j f_HMC_TEMP_MAX t.toNat else d
  let hot := decide (420 ≤ t.toInt)
  let d := d.setFld r j f_HMC_TEMP_HOT (b2n hot)
  d.updInst i fun x => { x with tempAt := max 1 (d.now (instDom i)), tempSeen := true, hot := hot }

def execTempRead (i : Fin 100) (reading : Option (BitVec 16)) (s : State) : Host.Outcome State Fault Refusal :=
  s.devEvent (fun d => (d.inst i.val).st ≠ .off && d.freezes == .running &&
      ((d.inst i.val).tempAt = 0 || d.atLeast (instDom i.val) (d.inst i.val).tempAt 1000000))
    (fun d => d.tempStore i.val (tempVal reading))

/-! ### Retraining (R280 to R283) -/

/-- Does the early pause rule apply: more than 3 °C from the reading at the previous pause. -/
def Dev.early (d : Dev) (i : Nat) : Bool :=
  let (r, j) := tempOf i
  let a := (BitVec.ofNat 16 (d.fld r j f_HMC_TEMP_TEMP)).toInt
  let b := (BitVec.ofNat 16 (d.fld r j f_HMC_TEMP_AT_PAUSE)).toInt
  decide (12 < (a - b).natAbs)

/-- Has a part's pause fallen due: none, or whether it was brought forward. -/
def Dev.pauseDue (d : Dev) (i part : Nat) : Option Bool :=
  let x := d.inst i
  let t := x.pausedAt.get (pauseKey i part) 0
  let (full, soon) := if isLmc i then (45000000, 5000000) else (18000000, 2000000)
  if x.st ≠ .active || x.retry.isSome || d.freezes ≠ .running then none
  else if d.atLeast (instDom i) t full then some false
  else if d.early i && d.atLeast (instDom i) t soon then some true else none

/-- A pause is over: counted, its reading noted. -/
def Dev.paused (d : Dev) (i part : Nat) (k : Nat) : Dev :=
  let (r, j) := trainOf i
  let (tr, tj) := tempOf i
  let d := (d.wrapInc r j f_HMC_TRAIN_PAUSES).setFld tr tj f_HMC_TEMP_AT_PAUSE (d.fld tr tj f_HMC_TEMP_TEMP)
  d.updInst i fun x => { x with
    pausedAt := x.pausedAt.set (pauseKey i part) (d.now (instDom i)) 0, group := x.group.upd (pauseKey i part) 0 fun g => (g + k) % 6 }

/-- A pause, passing or failing. -/
def Dev.pause (d : Dev) (i part : Nat) (pass : Bool) : Dev :=
  let (r, j) := trainOf i
  let early := (d.pauseDue i part).getD false
  let d := if early then d.satInc r j f_HMC_TRAIN_EARLY else d
  if pass then d.paused i part 1
  else (d.paused i part 0).updInst i fun x => { x with retry := some (part, x.group.get (pauseKey i part) 0) }

def execRetrainPause (i : Fin 100) (part : Fin 8) (pass : Bool) (s : State) : Host.Outcome State Fault Refusal :=
  s.devEvent (fun d => (d.pauseDue i.val part.val).isSome) (fun d => d.pause i.val part.val pass)

/-- The retry pause (R282). -/
def Dev.pauseRetry (d : Dev) (i : Nat) (pass : Bool) : Dev :=
  match (d.inst i).retry with
  | none => d
  | some (part, g) =>
    let d := d.updInst i fun x => { x with retry := none }
    if pass then (d.paused i part 1).trainLog i (part / 2) g false
    else ((d.paused i part 0).trainLog i (part / 2) g true).failChans i (BitVec.ofNat 4 (2 ^ (part / 2))) 1

def execRetrainRetry (i : Fin 100) (pass : Bool) (s : State) : Host.Outcome State Fault Refusal :=
  s.devEvent (fun d => (d.inst i.val).retry.isSome && (d.inst i.val).st == .active && d.freezes == .running)
    (fun d => d.pauseRetry i.val pass)

/-! ### Reset with replay (R297) -/

/-- Training has ended, the PLL locked: in service again, or the set is fenced. -/
def Dev.replayDone (d : Dev) (i : Nat) (fails : List TrainFail) : Dev :=
  let d := d.trainFails i fails 1
  if lastingMask fails = 0 then d.replayEnds i else d

def execReplayResetDone (i : Fin 100) (fails : List TrainFail) (s : State) : Host.Outcome State Fault Refusal :=
  s.devEvent (fun d => (d.inst i.val).st == .replay && !(d.inst i.val).pllLost && d.live (instDom i.val) && d.freezes == .running)
    (fun d => d.replayDone i.val fails)

end Sys2Proof.Machine
end

