-- ==== Sys2Proof/Machine/LoessRows.lean ====
section
/-! DEFINITION. The rows of the Loess engines (R74 to R92, R426, R427, R430) and the commands PLAN_LOAD, PROMOTE and DEMOTE. -/
namespace Sys2Proof.Machine

/-! ### Moves -/

/-- Do the engines work: not paused for an activation (R360). -/
def Dev.loessRuns (d : Dev) : Bool := d.working && !d.upd.paused

def execMoveAcquire (j : Fin 4) (s : State) : Host.Outcome State Fault Refusal :=
  s.devEvent (fun d => d.loessRuns && d.loessUp j.val && decide (d.movesHeld j.val < 32)) (fun d => d.acquire j.val d.moves [])

/-- The move of an extent at one of some steps, its engine working. -/
def Dev.moveAt (d : Dev) (x : Nat) (steps : List Nat) : Bool :=
  d.loessRuns && (d.moveOf x).elim false fun m => steps.contains m.step && d.live (loessDom (m.engine.getD 0))

def execMoveQuiesceDone (x : BitVec 28) (ph : Phys) (s : State) : Host.Outcome State Fault Refusal :=
  s.devEvent (fun d => d.moveAt x.toNat [1]) (fun d => d.moveCopy x.toNat ph)

/-- Has the bound of step 5 expired (R77, R79). -/
def Dev.moveLate (d : Dev) (x : Nat) : Bool :=
  (d.moveOf x).elim false fun m => decide (m.since + d.most 50000 ≤ d.lived (loessDom (m.engine.getD 0)))

def execMoveCommit (x : BitVec 28) (s : State) : Host.Outcome State Fault Refusal :=
  s.devEvent (fun d => d.moveAt x.toNat [4] && !d.moveLate x.toNat) (fun d => d.moveCommit x.toNat)

def execMoveRelease (x : BitVec 28) (s : State) : Host.Outcome State Fault Refusal :=
  s.devEvent (fun d => d.moveAt x.toNat [5]) (fun d => d.moveRelease x.toNat)

def execMoveAbandon (x : BitVec 28) (s : State) : Host.Outcome State Fault Refusal :=
  s.devEvent (fun d => d.moveAt x.toNat [1, 2, 3, 4] && d.moveLate x.toNat) (fun d => d.abandon x.toNat)

/-! ### Sweeps, demotion, reclaim, windows -/

def execAgeSweep (g : Fin 16) (s : State) : Host.Outcome State Fault Refusal :=
  s.devEvent Dev.loessRuns (fun d => d.sweepStart g.val)

def execAgeSweepComplete (g : Fin 16) (s : State) : Host.Outcome State Fault Refusal :=
  s.devEvent Dev.loessRuns (fun d => d.sweepEnd g.val)

def execPoolDemote (g : Fin 16) (s : State) : Host.Outcome State Fault Refusal :=
  s.devEvent Dev.loessRuns (fun d => d.poolDemote g.val)

/-- The engine of a partition that clears: the first that can work. -/
def Dev.partEngine (d : Dev) (p : Nat) : Option Nat := (List.range 4).find? fun j => d.loessPart j == p && d.loessUp j

/-- Does the ceiling of the clearing engine let it write the descriptors that a reclaim clears next (R254, R259). -/
def Dev.clearOk (d : Dev) (r : Nat) : Bool :=
  let g := d.rgn r
  (d.partEngine g.part).elim false fun j =>
    d.ceilOk (loessMaster j) (((((mapList g.runs).drop g.cursor).take 256).filterMap d.descPlace).foldl (fun l p => addCharge l p.1 2) [])

/-- Is step 3 of a reclaim under way: RECLAIMING, no binding left. -/
def Dev.clearing (d : Dev) (r : Nat) : Bool :=
  d.loessRuns && (d.rgn r).st == .reclaiming && !d.bound r && (d.partEngine (d.rgn r).part).isSome

def execReclaimClear (r : BitVec 14) (s : State) : Host.Outcome State Fault Refusal :=
  s.devEvent (fun d => d.clearing r.toNat && d.clearOk r.toNat) (fun d => d.reclaimClear r.toNat)

def execReclaimComplete (r : BitVec 14) (s : State) : Host.Outcome State Fault Refusal :=
  s.devEvent (fun d => d.clearing r.toNat && d.reclaimed r.toNat) (fun d => d.reclaimDone r.toNat)

def execWindowFill (p : Fin 64) (ph : Phys) (s : State) : Host.Outcome State Fault Refusal :=
  s.devEvent Dev.loessRuns (fun d => d.fillStart p.val ph)

def execWindowFillComplete (p : Fin 64) (s : State) : Host.Outcome State Fault Refusal :=
  s.devEvent (fun d => d.loessRuns && (d.plan p.val).engine.elim false fun j => d.live (loessDom j)) (fun d => d.fillEnd p.val)

/-! ### PLAN_LOAD (R87, R91) -/

/-- Read n granules at a window address, extent by extent; fuel: the number of pieces. -/
def Dev.readLong (d : Dev) (a : Agent) (ph : Phys) (c addr n need : Nat) : Nat → (Nat × List Gran) × Dev
  | 0 => ((0, []), d)
  | k + 1 =>
    if n = 0 then ((0, []), d) else
    let m := min n 2048
    match d.readWindow a ph c addr m need with
    | ((0, l), d) =>
      let ((s, q), d) := d.readLong a ph c (addr + 32 * m) (n - m) need k
      ((s, l ++ q), d)
    | ((s, _), d) => ((s, []), d)

/-- A plan header (R87). -/
structure PlanHdr where
  slots : Nat
  set : Nat
  layers : Nat
  look : Nat
  entries : Nat
  region : Nat
  ok : Bool
  deriving DecidableEq, Repr

def planHdr (g : Gran) : PlanHdr :=
  let v := g.toNat
  { slots := bits v 128 23, set := bits v 96 5, layers := bits v 80 12, look := bits v 76 4, entries := bits v 48 28,
    region := bits v 32 14,
    ok := bits v 0 32 == 0x4C505153 && bits v 46 2 == 0 && bits v 92 4 == 0 && bits v 101 27 == 0 && bits v 151 105 == 0 &&
      bits v 76 4 ≠ 0 && (bits v 80 12 ≠ 0 || bits v 128 23 == 0) }

/-- The 64-bit entries of granules. -/
def entryWords (gs : List Gran) (n : Nat) : List Nat :=
  (gs.flatMap fun g => (List.range 4).map fun i => (granWord g i).toNat).take n

/-- Reserved bits of an extent entry and of a layer entry. -/
def entryOk (v : Nat) : Bool := bits v 42 22 == 0 && (bitOf v 31 || bits v 37 5 == 0)
def layerOk (v : Nat) : Bool := bits v 56 8 == 0

/-- An extent entry against R52 and R57: the entry with its extent. -/
def Dev.planEntry (d : Dev) (r : Rgn) (v : Nat) : Option PEnt :=
  let sub := bitOf v 29
  let ro := bitOf v 28
  let mir := bitOf v 31
  match mapAt r.runs (bits v 0 28) with
  | none => none
  | some x =>
    match d.set? (bits v 32 5), d.groupOf x with
    | some S, some g =>
      let ms := d.set? (bits v 37 5)
      let mirOk := !mir || (ro && sub && ms.elim false fun M => M.sub && M.part == S.part && M.die ≠ S.die)
      let keeps := sub || (d.desc x).mirror.isNone
      if S.sub == sub && S.group == g && mirOk && keeps && (!(d.desc x).codec || S.codecOk) then
        some ⟨x, sub, bits v 32 5, ro, bitOf v 30, if mir then some (bits v 37 5) else none⟩
      else none
    | _, _ => none

/-- Does a list of layers keep k cyclically consecutive sums within n. -/
def layersFit (ls : List (Nat × Nat)) (k n : Nat) : Bool :=
  (List.range ls.length).all fun i => decide (((List.range k).map fun j => (ls.getD ((i + j) % ls.length) (0, 0)).2).sum ≤ n)

/-- Accept a plan: its moves are queued, the rest follows when the extents are at their homes. -/
def Dev.planAccept (d : Dev) (p c : Nat) (h : PlanHdr) (es : List PEnt) (ls : List (Nat × Nat)) (ref : CmdRef) : Dev :=
  let x : Plan := {
    st := .loading, ctx := c, region := h.region, set := h.set, look := h.look, layers := ls, entries := es,
    slotCount := h.slots, cmd := some ref }
  ({ d with plans := d.plans.set p x {} }).planHome p

/-- MODE LOAD. SLOT_SET may be a topsoil set of another partition (DESIGN CHOICE, log 46: R87 does not say). -/
def Dev.planLoad (d : Dev) (ph : Phys) (e : Entry) (ref : CmdRef) (c : Nat) : Dev :=
  let a := firmAgent (dieOfPort (d.ctx c).port)
  let addr := e.arg 1
  let bad := fun (d : Dev) (n : Nat) => d.complete ref 0x210 n 0
  match d.readWindow a ph c addr 1 rR with
  | ((0, g), d) =>
    let h := planHdr (g.getD 0 0)
    if !h.ok then bad d 5 else
    let ne := (h.entries + 3) / 4
    let nl := (h.layers + 3) / 4
    let n := ne + nl
    match d.readLong a ph c (addr + 32) n rR (n / 2048 + 1) with
    | ((0, gs), d) =>
      let ew := entryWords (gs.take ne) h.entries
      let lw := entryWords (gs.drop ne) h.layers
      let r := d.rgn h.region
      let bound := (d.ctx c).binds.any fun b => b.2.len ≠ 0 && b.2.region == h.region
      let ls := lw.map fun v => (bits v 0 28, bits v 28 28)
      if !(ew.all entryOk && lw.all layerOk) then bad d 5
      else if r.st ≠ .active || !bound then bad d 1
      else match ew.mapM (d.planEntry r) with
        | none => bad d 1
        | some es =>
          let ro := (ew.filter fun v => bitOf v 28).map fun v => bits v 0 28
          if !(ls.all fun l => (List.range l.2).all fun i => ro.contains (l.1 + i)) then bad d 2
          else if !layersFit ls h.look h.slots then bad d 3
          else if h.slots ≠ 0 && ((d.set? h.set).elim true (·.sub) || d.poolFree ((d.set? h.set).elim 16 (·.group)) < h.slots) then
            bad d 4
          else match (List.range 64).find? fun p => (d.plan p).st == .none_ with
            | none => d.complete ref 0x211 0 0
            | some p => d.planAccept p c h es ls ref
    | ((s, _), d) => d.complete ref s 0 0
  | ((s, _), d) => d.complete ref s 0 0

/-- The extent that a RELOAD names: translated for reading. -/
def Dev.reloadExt (d : Dev) (ph : Phys) (c addr : Nat) : Xl × Dev :=
  if addr % 65536 ≠ 0 ∨ 2 ^ 48 ≤ addr then (.bad 0x06, d)
  else d.translate (firmAgent (dieOfPort (d.ctx c).port)) ph c (addr / 65536) rR false

/-- STATE of the loaded plan on an extent's region: RELOADING while an extent of it is reloaded (R92). -/
def Dev.planState (d : Dev) (x : Nat) : Dev :=
  match d.planOfExt x with
  | none => d
  | some (p, y) =>
    if y.st == .active || y.st == .reloading then
      d.updPlan p fun z => { z with st := if d.reloading y.region then .reloading else .active } else d

/-- The number of that plan. -/
def Dev.planNo (d : Dev) (x : Nat) : Nat := (d.planOfExt x).elim 0 (·.1)

/-- PLAN_BAD of an UNLOAD of a plan that the context has not loaded, of a RELOAD_BEGIN of an extent that is not read-only and STABLE, and
of a RELOAD_END of one that is not reloaded: the spec gives no status for them (DESIGN CHOICE, log 46), and RESULT0 is one of the five
values of R337, none of which names them, hence free. -/
def Dev.planRefuse (d : Dev) (ref : CmdRef) : Dev :=
  let (v, d) := d.fresh 3
  d.complete ref 0x210 (1 + v.toNat % 5) 0

/-- MODE RELOAD_BEGIN (R91). -/
def Dev.reloadBegin (d : Dev) (x : Nat) (ref : CmdRef) : Dev :=
  let e := d.desc x
  let h := e.home
  if !e.ro || e.st ≠ .stable then d.planRefuse ref else
  match (if h.sub then d.allocSub h.set (d.slabsFor 0) else d.allocTop h.set) with
  | none => d.complete ref 0x08 0 0
  | some h' =>
    let d := (d.storedGone e).poisonRelease x
    let d := d.setDesc x { e with loc := h'.loc, slabs := h'.slabs, len := 0, gen := 0, ro := false, reload := true,
                                  mirrorRun := e.mirrorSlabs }
    let d := match d.groupOf x with
      | none => d
      | some g => (d.jAppend g ⟨2, x, h, h', 0, 0, false⟩).jRetire g x
    ((d.planState x).pressureAll).complete ref 0 (d.planNo x) 0

/-- MODE RELOAD_END. -/
def Dev.reloadEnd (d : Dev) (ph : Phys) (x : Nat) (ref : CmdRef) : Dev :=
  let e := d.desc x
  if !e.reload || e.st ≠ .stable then d.planRefuse ref else
  let j := (d.groupOf x).elim 0 fun g => (d.enginesOf g).headD 0
  match (match e.mirror with
    | none => (0, d)
    | some m => d.mirrorWrite j ph x m.1) with
  | (0, d) =>
    let d := (d.updDesc x fun e => { e with reload := false, mirrorRun := 0, ro := true }).poisonBit x
    (d.planState x).complete ref 0 (d.planNo x) 0
  | (st, d) => ((d.updDesc x fun t => { t with reload := true, poisoned := e.poisoned }).planState x).complete ref st 0 0

/-- PLAN_LOAD by its MODE. -/
def planLoadBody (e : Entry) (ph : Phys) (ref : CmdRef) (c : Nat) (d : Dev) : Dev :=
  match bits (e.arg 0) 0 2 with
  | 0 => d.planLoad ph e ref c
  | 1 =>
    let p := e.arg 2
    if (d.plan p).st == .none_ || (d.plan p).ctx ≠ c then d.planRefuse ref
    else ((d.planDrop p).pressureAll).complete ref 0 p 0
  | k =>
    match d.reloadExt ph c (e.arg 1) with
    | (.bad s, d) => d.complete ref s 0 0
    | (.ok x _, d) => if k = 2 then d.reloadBegin x ref else d.reloadEnd ph x ref

def execPlanLoad (q : Queue) (e : Entry) (ph : Phys) (s : State) : Host.Outcome State Fault Refusal :=
  s.devCmd 0x11 q e (planLoadBody e ph)

/-! ### PROMOTE and DEMOTE (R430) -/

/-- Does the range of a PROMOTE or DEMOTE lie in the window, on an extent boundary. -/
def extRange (addr n : Nat) : Bool := addr % 65536 = 0 && addr < 2 ^ 48 && addr / 65536 + n ≤ 2 ^ 32

/-- Translate n extents from window extent w on for reading: their identifiers or the first status. -/
def Dev.xlExts (d : Dev) (a : Agent) (ph : Phys) (c w : Nat) : Nat → (Nat × List Nat) × Dev
  | 0 => ((0, []), d)
  | n + 1 =>
    match d.translate a ph c w rR false with
    | (.bad s, d) => ((s, []), d)
    | (.ok x _, d) =>
      let ((s, l), d) := d.xlExts a ph c (w + 1) n
      ((s, x :: l), d)

/-- Queue an explicit move of extent x for a command. -/
def Dev.queueCmdMove (d : Dev) (kind : MKind) (x : Nat) (pin : Bool) (ref : CmdRef) : Dev :=
  let h := (d.desc x).home
  d.queueMove {
    ext := x, kind := kind, want := none, pin := pin, cmd := some ref, engine := none, src := h, dst := h, step := 0, since := 0,
    journal := 0 }

def promoteBody (e : Entry) (ph : Phys) (ref : CmdRef) (c : Nat) (d : Dev) : Dev :=
  let addr := e.arg 0
  let n := bits (e.arg 1) 0 28
  let pin := bitOf (e.arg 1) 32
  let unpin := bitOf (e.arg 1) 33
  if pin && unpin then d.complete ref 0x201 0 0
  else if !extRange addr n then d.complete ref 0x06 0 0
  else match d.xlExts (d.ringAgent (d.ctx c).port) ph c (addr / 65536) n with
    | ((0, xs), d) =>
      if unpin then (d.each xs fun d x => d.updDesc x fun t => { t with pin := false }).complete ref 0 0 0
      else
        let d := if pin then d.each xs fun d x => d.updDesc x fun t => { t with pin := true } else d
        d.each (xs.filter fun x => !(d.desc x).ro && !(d.desc x).reload) fun d x => d.queueCmdMove .promoteCmd x pin ref
    | ((s, _), d) => d.complete ref s 0 0

def execPromote (q : Queue) (x : EntryAt) (s : State) : Host.Outcome State Fault Refusal :=
  s.devCmd 0x12 q x.e (promoteBody x.e x.ph)

def demoteBody (e : Entry) (ph : Phys) (ref : CmdRef) (c : Nat) (d : Dev) : Dev :=
  let addr := e.arg 0
  let n := bits (e.arg 1) 0 28
  if !extRange addr n then d.complete ref 0x06 0 0
  else match d.xlExts (d.ringAgent (d.ctx c).port) ph c (addr / 65536) n with
    | ((0, xs), d) =>
      if xs.any fun x => (d.desc x).pin then d.complete ref 0x212 0 0
      else d.each (xs.filter fun x => !(d.desc x).ro && !(d.desc x).reload) fun d x => d.queueCmdMove .demoteCmd x false ref
    | ((s, _), d) => d.complete ref s 0 0

def execDemote (q : Queue) (x : EntryAt) (s : State) : Host.Outcome State Fault Refusal :=
  s.devCmd 0x13 q x.e (demoteBody x.e x.ph)

end Sys2Proof.Machine
end

