-- ==== Sys2Proof/Machine/Grade.lean ====
section
/-! DEFINITION. Codec tensors and their tables: the rows of the Grade chapter (R93 to R97, R111, R114, R118 to R121). -/
namespace Sys2Proof.Machine

/-- The tensor identifiers of partition p: first, count (R93). -/
def Dev.tensorRange (d : Dev) (p : Nat) : Nat × Nat :=
  let l := d.strat.elim [] (·.slots)
  (((l.take p).map (· / 2)).sum, l.getD p 0 / 2)

/-- Is tensor id t one of the partition of context c (R93). -/
def Dev.tensorHere (d : Dev) (c t : Nat) : Bool :=
  let (b, n) := d.tensorRange (d.portPart (d.ctx c).port)
  decide (b ≤ t ∧ t < b + n)

/-- Does tensor t belong to context c's tenant and partition (R93). -/
def Dev.tensorMine (d : Dev) (c t : Nat) : Bool :=
  let y := d.tensor t
  d.tensorHere c t && y.alloc && y.tenant == (d.ctx c).tenant

/-- The slot that an install takes; none is TABLE_BUSY (R119). -/
def Tensor.target (x : Tensor) : Option Bool :=
  if x.a.st == .active then (if x.b.st == .empty then some true else none)
  else if x.b.st == .active then (if x.a.st == .empty then some false else none)
  else if x.a.st == .empty then some false
  else if x.b.st == .empty then some true else none

/-- Fill slot b of tensor t with a table, in one update with the retirement of the active slot (R119). -/
def Dev.tableFill (d : Dev) (t : Nat) (b : Bool) (lens : List Nat) (port : Nat) : Dev :=
  let n := d.serial + 1
  let d := { d with serial := n }
  let was := ((d.tensor t).slot (!b)).st == .active
  let d := d.updTensor t fun x =>
    let x := x.setSlot b { st := .active, serial := n, lens := lens }
    let x := if was then x.setSlot (!b) { x.slot (!b) with st := .retiring } else x
    { x with host := some port }
  if was then d.slotIdle t (!b) else d

/-- A record that is not accepted (R101). -/
def Dev.tableBad (d : Dev) (ref : CmdRef) (detail : Nat) : Dev :=
  (d.satInc row_GRD_ERR_CNT 0 f_GRD_ERR_CNT_TABLE_BAD).complete ref 0x215 detail 0

def tableInstallBody (e : Entry) (ph : Phys) (ref : CmdRef) (c : Nat) (d : Dev) : Dev :=
  let x := d.ctx c
  if bitOf (e.arg 0) 13 then
    let (b, n) := d.tensorRange (d.portPart x.port)
    match ((List.range n).map (b + ·)).find? fun t => !(d.tensor t).alloc with
    | none => d.complete ref 0x214 0 0
    | some t =>
      let y : Tensor := { alloc := true, tenant := x.tenant, width4 := bitOf (e.arg 0) 12, host := some x.port }
      (d.updTensor t fun _ => y).complete ref 0 t 0
  else
    let t := bits (e.arg 0) 0 11
    if !d.tensorMine c t then d.complete ref 0x213 0 0 else
    match (d.tensor t).target with
    | none => d.complete ref 0x216 0 0
    | some b =>
      match d.readWindow (d.ringAgent x.port) ph c (e.arg 1) 8 rR with
      | ((0, gs), d) =>
        let r := gransBytes gs
        match recordFault r with
        | some n => d.tableBad ref n
        | none => (d.tableFill t b (recLens r) x.port).complete ref 0 t 0
      | ((s, _), d) => d.complete ref s 0 0

def execTableInstall (q : Queue) (e : Entry) (ph : Phys) (s : State) : Host.Outcome State Fault Refusal :=
  s.devCmd 0x14 q e (tableInstallBody e ph)

/-! ### Fits (R119, R120) -/

def tableFitBody (e : Entry) (ref : CmdRef) (c : Nat) (d : Dev) : Dev :=
  let a := e.arg 0
  let t := bits a 0 11
  let n := bits a 16 16
  if n = 0 then d.complete ref 0x201 0 0
  else if !d.tensorMine c t then d.complete ref 0x213 0 0
  else if (d.tensor t).fit.isSome then d.complete ref 0x217 0 0
  else d.updTensor t fun x => { x with fit := some (ref, n, bitOf a 32, e.arg 1, c), counts := [] }

def execTableFit (q : Queue) (e : Entry) (s : State) : Host.Outcome State Fault Refusal :=
  s.devCmd 0x15 q e (tableFitBody e)

/-- The counts of a fit as 34 granules of 32-bit numbers. -/
def fitGrans (h : Tab Nat) : List Gran :=
  bytesGrans ((List.range 272).flatMap fun s => natBytes (h.get s 0) 4) 34

/-- A fit has counted its blocks; physics ph meet the write of its counts. -/
def Dev.fitDone (d : Dev) (t : Nat) (ph : Phys) : Dev :=
  match (d.tensor t).fit with
  | none => d
  | some (ref, _, inst, addr, c) =>
    let h := (d.tensor t).counts
    let port := (d.ctx c).port
    let d := d.updTensor t fun x => { x with fit := none, counts := [] }
    let (st, d) := d.writeWindow (d.ringAgent port) ph c addr (fitGrans h) []
    if st ≠ 0 then d.complete ref st 0 0
    else if !inst then d.complete ref 0 t 0
    else match (d.tensor t).target with
      | none => d.complete ref 0x216 t 0
      | some b => (d.tableFill t b (fitLens ((List.range 272).map fun s => h.get s 0)) port).complete ref 0 t 0

def execTableFitComplete (x : FitAt) (s : State) : Host.Outcome State Fault Refusal :=
  s.devEvent (fun d => d.serving && (d.tensor x.t.toNat).fit.elim false fun f => f.2.1 == 0 && !d.windowMoving f.2.2.2.2 f.2.2.2.1 34)
    (fun d => d.fitDone x.t.toNat x.ph)

/-! ### Recodes (R121) -/

def tableRecodeBody (e : Entry) (ref : CmdRef) (c : Nat) (d : Dev) : Dev :=
  let t := e.arg 0
  if !d.tensorMine c t then d.complete ref 0x213 0 0
  else if (d.tensor t).recode.isSome then d.complete ref 0x216 0 0
  else d.updTensor t fun x => { x with recode := some ref }

def execTableRecode (q : Queue) (e : Entry) (s : State) : Host.Outcome State Fault Refusal :=
  s.devCmd 0x16 q e (tableRecodeBody e)

/-- The engine that recodes the blocks of extent x: the first of its group (DESIGN CHOICE, log 45). -/
def Dev.recoder (d : Dev) (x : Nat) : Option Nat := (d.groupOf x).bind fun g => (d.enginesOf g).head?

/-- Recode block k of extent x: whether it was rewritten. -/
def Dev.recodeBlock (d : Dev) (ph : Phys) (x k : Nat) : Bool × Dev :=
  let e := d.desc x
  let die := d.setDie e.set
  let a : Agent := { src := 3, die := die, dom := commonDom die, master := loessMaster ((d.recoder x).getD 0) }
  let (r, d) := d.readBlockAt a ph x k 0 64 e.home false
  match r with
  | none => (false, d)
  | some data =>
    let (c, d) := d.encode ph x k data false
    match d.storeBlocks a ph x [⟨k, c.len, c.gen, (List.range c.grans.length).zip c.grans⟩] with
    | (0, d) => (true, d)
    | (_, d) => (false, d)

/-- The blocks that a recode of tensor t rewrites. -/
def Dev.recodeList (d : Dev) (t : Nat) : List (Nat × Nat) :=
  let act := (d.actSlot t).map (·.1)
  (d.descs.filter fun e => e.2.codec && e.2.tensor == t && !e.2.ro && e.2.st == .stable).flatMap fun e =>
    ((List.range 32).filter fun k =>
      let c := e.2.lenOf k
      decide (2 ≤ c ∧ c ≤ 62) && act ≠ some (e.2.genOf k)).map fun k => (e.1, k)

/-- May every block of a recode pass be rewritten: an engine serves its group, and its ceiling lets it (R258, R259). -/
def Dev.recodeOk (d : Dev) (l : List (Nat × Nat)) : Bool :=
  l.all fun b => (d.recoder b.1).elim false fun j =>
    let e := d.desc b.1
    d.ceilOk (loessMaster j) (addCharge [] e.set (e.readCharge (64 * b.2) 64)) && d.ceilOk (loessMaster j) (addCharge [] e.set 64)

/-- A recode pass. -/
def Dev.recodeDone (d : Dev) (t : Nat) (ph : Phys) : Dev :=
  match (d.tensor t).recode with
  | none => d
  | some ref =>
    let l := d.recodeList t
    let (n, d) := l.foldl (fun (o : Nat × Dev) b =>
      let (ok, d) := o.2.recodeBlock ph b.1 b.2
      (o.1 + b2n ok, d)) (0, d)
    (d.updTensor t fun x => { x with recode := none }).complete ref 0 n (l.length - n)

def execRecodeComplete (t : BitVec 11) (ph : Phys) (s : State) : Host.Outcome State Fault Refusal :=
  s.devEvent (fun d => d.loessRuns && (d.tensor t.toNat).recode.isSome && d.recodeOk (d.recodeList t.toNat)) (fun d => d.recodeDone t.toNat ph)

/-! ### Release and records -/

/-- TABLE_RELEASE refuses by the counters alone (R119). A fit or recode of the tensor that still runs ends as a command that names a FREE
id (DESIGN CHOICE, log 44: the spec names no outcome). -/
def tableReleaseBody (e : Entry) (ref : CmdRef) (c : Nat) (d : Dev) : Dev :=
  let t := e.arg 0
  let x := d.tensor t
  if !d.tensorMine c t then d.complete ref 0x213 0 0
  else if x.extents ≠ 0 || x.a.stored ≠ 0 || x.b.stored ≠ 0 || x.a.refs ≠ 0 || x.b.refs ≠ 0 then d.complete ref 0x216 0 0
  else
    let d := ((d.updTensor t fun _ => {}).cacheDrop t false).cacheDrop t true
    let d := d.completeOpt (x.fit.map (·.1)) 0x213 0 0
    (d.completeOpt x.recode 0x213 0 0).complete ref 0 t 0

def execTableRelease (q : Queue) (e : Entry) (s : State) : Host.Outcome State Fault Refusal :=
  s.devCmd 0x17 q e (tableReleaseBody e)

/-- A slot whose record is unreadable is LOST (R111, R114, R118). -/
def Dev.slotLost (d : Dev) (t : Nat) (b : Bool) : Dev :=
  let d := d.updTensor t fun x => x.setSlot b { x.slot b with st := .lost, lens := [] }
  (d.satInc row_GRD_ERR_CNT 0 f_GRD_ERR_CNT_TABLE_LOST).slotIdle t b

/-- Does a table cache hold a slot's table (R111, R114). -/
def Dev.cached (d : Dev) (site t : Nat) (b : Bool) : Bool :=
  (d.tcache.get site []).contains (t, b, ((d.tensor t).slot b).serial)

/-- A table cache misses and reads the record: sites 0 to 47 are the decoders, two a cluster, 48 to 51 the encoders. bad: 1 the
CHECK fails once, 2 it fails again. -/
def Dev.recordFetch (d : Dev) (site t : Nat) (b : Bool) (bad : Nat) (ph : Phys) : Dev :=
  let d := d.tableUse ph site t b
  let dom := if site < 48 then clayDom (site / 2) else commonDom ((site - 48) / 2)
  let det := t + b2n b * 2 ^ 11
  if bad = 0 then d else if bad = 1 then d.log dom 0x0C false det else (d.log dom 0x0C true det).slotLost t b

def execTableRecordFetch (site : Fin 52) (t : BitVec 11) (gen : Fin 2) (x : FetchAt) (s : State) :
    Host.Outcome State Fault Refusal :=
  s.devEvent (fun d => d.working && (d.tableOf t.toNat (gen.val == 1)).isSome && !d.cached site.val t.toNat (gen.val == 1))
    (fun d => d.recordFetch site.val t.toNat (gen.val == 1) x.bad x.ph)

end Sys2Proof.Machine
end

