-- ==== Sys2Proof/Machine/LoamRows.lean ====
section
/-! DEFINITION. The rows of patrol scrub (R305, R306), of the poison table's REMOVE (R301) and of LOAM_TEST (R307). -/
namespace Sys2Proof.Machine

/-! ### Clay storage -/

/-- The number of granule g of a page of clay buffer k. -/
def clayKey (k page g : Nat) : Nat := (k * 320 + page) * 2048 + g

/-- The stored granule of a clay key. -/
def Dev.clayGet (d : Dev) (key : Nat) : Code := BitVec.ofNat 288 (cellsGet d.clay (key * 64) 36)

/-- Store a granule in clay with its check bits as given. -/
def Dev.clayPut (d : Dev) (key : Nat) (c : Code) : Dev := { d with clay := cellsSet d.clay (key * 64) c.toNat 36 }

/-! ### The metadata reserve (R72; its places are log 13) -/

/-- Granule 0 of a poison table entry (R299). -/
def Poison.gran (p : Poison) : Gran :=
  BitVec.ofNat 256 (p.kind % 16 + p.source % 16 * 2 ^ 4 + b2n p.sub * 2 ^ 8 + p.set % 32 * 2 ^ 9 + p.gaddr % 2 ^ 44 * 2 ^ 16 +
    p.ext % 2 ^ 28 * 2 ^ 64 + p.blk % 32 * 2 ^ 92 + p.grn % 64 * 2 ^ 97 + b2n p.mirror * 2 ^ 103 + p.channel % 512 * 2 ^ 112 +
    p.stamp % 2 ^ 64 * 2 ^ 128 + p.domain % 512 * 2 ^ 192 + p.syndrome.toNat * 2 ^ 224)

/-- A binding table entry (R49). -/
def Binding.bits (b : Binding) : Nat :=
  if b.len = 0 then 0 else
  b.wbase % 2 ^ 28 + b.len % 2 ^ 28 * 2 ^ 32 + b.rights.toNat * 2 ^ 60 + b.roff % 2 ^ 28 * 2 ^ 64 + b.region % 2 ^ 14 * 2 ^ 92 +
    (if b.draining then 2 else 1) * 2 ^ 106

/-- First granules of the region table, the context control areas and the poison table in a partition's fixed metadata. -/
def regionOff : Nat := 32768
def ctrlOff : Nat := regionOff + 131072
def poisonOff : Nat := ctrlOff + 2097152
/-- The firmware working area. -/
def workOff : Nat := poisonOff + 8192

/-- Granule off of the fixed metadata of partition p, where it is written: none inside says that the spec gives its layout nowhere. Of a
control area the binding table stands in the device's tables, and what a switch saves (R188) in memory, as the handoff block does (R361). -/
def Dev.fixedGran (d : Dev) (p off : Nat) (stored : Gran) : Option (Option Gran) :=
  if off < regionOff then
    let y := d.tensor (off / 16)
    let g := y.slot (off / 8 % 2 == 1)
    if !y.alloc || g.st == .empty then none
    else if g.st == .lost then some none
    else some (some (((bytesGrans (mkRecord g.lens) 8).getD (off % 8) 0)))
  else if off < ctrlOff then
    let r := d.rgn ((off - regionOff) / 8)
    if r.st == .free || r.part ≠ p then none else some none
  else if off < poisonOff then
    let x := d.ctx ((off - ctrlOff) / 512)
    let j := (off - ctrlOff) % 512
    if x.st == .free || d.portPart x.port ≠ p then none
    else if j < 128 then
      some (some (BitVec.ofNat 256 ((x.binds.get (2 * j) {}).bits + (x.binds.get (2 * j + 1) {}).bits * 2 ^ 128)))
    else if j < 192 then some (some stored) else some none
  else if p ≠ 0 then none
  else if off < workOff then (d.poison.get ((off - poisonOff) / 2) none).map fun e => some (if off % 2 = 0 then e.gran else 0)
  else if off < workOff + d.upd.block then some (some stored)
  else none

/-- The partition whose fixed metadata lie in set s. -/
def Dev.fixedOf (d : Dev) (s : Nat) : Option Nat := (d.set? s).bind fun S => if d.partMeta S.part == some s then some S.part else none

/-- What granule ga of a metadata reserve holds, with the extent whose descriptor it is: descriptors in identifier order, then the
journal's ring, whose record of sequence number n lies at n modulo its capacity, then the fixed metadata. None: nothing written. -/
def Dev.metaGran (d : Dev) (s ga : Nat) : Option (Option Nat × Option Gran) :=
  match d.strat, d.set? s with
  | some g, some S =>
    let n := g.eg S.group
    if S.sub || g.metaSet S.group ≠ some s then none
    else if ga < 2 * n then let x := g.base S.group + ga / 2
                            some (some x, some ((d.desc x).gran (ga % 2)))
    else if ga < g.fixedAt S.group then
      ((d.journal S.group).recs.find? fun r => 2 * n + r.seq.toNat % g.journalCap S.group == ga).map fun r => (none, some r.gran)
    else if g.reserveSlots S.group * 2048 ≤ ga then none
    else (d.fixedOf s).bind fun p => (d.fixedGran p (ga - g.fixedAt S.group) (codeData (d.memGet s ga))).map fun v => (none, v)
  | _, _ => none

/-- The runs of written fixed metadata of partition p, as granules of it. -/
def Dev.fixedRuns (d : Dev) (p : Nat) : List (Nat × Nat) :=
  let (b, n) := d.tensorRange p
  let recs := (d.tensors.filter fun e => e.2.alloc && decide (b ≤ e.1 ∧ e.1 < b + n)).flatMap fun e =>
    ([false, true].filter fun g => (e.2.slot g).st ≠ .empty).map fun g => (tableOff e.1 g, 8)
  let rgns := (d.rgns.filter fun r => r.2.st ≠ .free && r.2.part == p).map fun r => (regionOff + 8 * r.1, 8)
  let ctxs := (d.ctxs.filter fun c => c.2.st ≠ .free && d.portPart c.2.port == p).map fun c => (ctrlOff + 512 * c.1, 512)
  recs ++ rgns ++ ctxs ++ if p = 0 then d.poisons.map (fun e => (poisonOff + 2 * e.1, 2)) ++ [(workOff, d.upd.block)] else []

/-! ### Patrol scrub (R305, R306) -/

/-- Granules of a set. -/
def SSet.grans (S : SSet) : Nat := if S.sub then S.slabs * 128 else S.slots * 2048

/-- What is stored at a granule of a set. -/
inductive Held where
  | none_
  | ext (o : Owner)
  | slot
  | meta_ (ext : Option Nat)
  deriving DecidableEq, Repr

/-- The block and granule of a home at offset o from its start: none where no granule is stored. -/
def Desc.granAt (e : Desc) (sub : Bool) (o : Nat) : Option (Nat × Nat) :=
  (List.range 32).findSome? fun k =>
    let at_ := if sub then e.off k else 64 * k
    if at_ ≤ o ∧ o < at_ + lenG (e.lenOf k) then some (k, o - at_) else none

/-- Is granule ga of set s a stored granule of a home. -/
def Desc.stores (e : Desc) (h : Home) (s ga : Nat) : Option (Nat × Nat) :=
  if h.set == s && decide (h.start ≤ ga) then e.granAt h.sub (ga - h.start) else none

/-- The owner of a stored granule among the extents of a set. -/
def Dev.extAt (d : Dev) (s ga : Nat) : Option Owner :=
  match d.set? s with
  | none => none
  | some S => d.descs.findSome? fun e =>
    if e.2.st == .free then none else
    match (if e.2.sub == S.sub then e.2.stores e.2.home s ga else none) with
    | some (k, g) => some ⟨e.1, k, g, false⟩
    | none => match (if S.sub then e.2.mirrorHome else none) with
      | none => none
      | some m => (e.2.stores m s ga).map fun kg => ⟨e.1, kg.1, kg.2, true⟩

/-- The stored bits of a granule: of metadata, which the model holds as tables, what the table says. -/
def Dev.storedGet (d : Dev) (s ga : Nat) : Code := (d.metaGran s ga).elim (d.memGet s ga) fun g => loamEncode (g.2.getD 0)

/-- What granule ga of set s holds (R305): of the metadata reserve its written parts. -/
def Dev.heldAt (d : Dev) (s ga : Nat) : Held :=
  match d.metaGran s ga, d.set? s with
  | some g, _ => .meta_ g.1
  | none, none => .none_
  | none, some S => match d.extAt s ga with
    | some o => .ext o
    | none =>
      if !S.sub && d.plans.any fun p => p.2.slots.any fun w =>
          w.set == s && w.loc == ga / 2048 && w.layer.isSome && (Desc.granAt { len := w.len } false (ga % 2048)).isSome
      then .slot else .none_

/-- The runs of granules that the written blocks of a descriptor take at a home. -/
def Desc.runs (e : Desc) (h : Home) : List (Nat × Nat) :=
  if h.sub then [(h.start, e.used)] else (List.range 32).map fun k => (e.blkAt h k, lenG (e.lenOf k))

/-- The runs of stored granules of a set (R305): written blocks of homes, mirrors and window slots, the written parts of the
reserve. -/
def Dev.storedRuns (d : Dev) (s : Nat) : List (Nat × Nat) :=
  match d.strat, d.set? s with
  | some g, some S =>
    let homes := d.descs.flatMap fun e => if e.2.st == .free then [] else
      (if e.2.sub == S.sub && e.2.set == s then e.2.runs e.2.home else []) ++
      (match e.2.mirrorHome with
        | some m => if S.sub && m.set == s then e.2.runs m else []
        | none => [])
    let wins := d.plans.flatMap fun p => p.2.slots.flatMap fun w =>
      if !S.sub && w.set == s && w.layer.isSome then ({ len := w.len } : Desc).runs ⟨false, w.set, w.loc, 0⟩ else []
    let n := g.eg S.group
    let meta_ := if S.sub || g.metaSet S.group ≠ some s then [] else
      (0, 2 * n) :: ((d.journal S.group).recs.map fun r => (2 * n + r.seq.toNat % g.journalCap S.group, 1)) ++
        (d.fixedOf s).elim [] fun p => ((d.fixedRuns p).map fun r => (g.fixedAt S.group + r.1, r.2)).filter fun r =>
          decide (r.1 + r.2 ≤ g.reserveSlots S.group * 2048)
    homes ++ wins ++ meta_
  | _, _ => []

/-- The first stored granule of a set from position p on. -/
def Dev.storedFrom (d : Dev) (s p : Nat) : Option Nat :=
  (d.storedRuns s).foldl (fun o r =>
    if r.1 + r.2 ≤ p ∨ r.2 = 0 then o else some (o.elim (max r.1 p) fun m => min m (max r.1 p))) none

/-- A sweep of a set is complete (R305). -/
def Dev.sweepOver (d : Dev) (s : Nat) (f : SetQ → SetQ) : Dev := (d.wrapInc row_LOAM_SCRUB s f_LOAM_SCRUB_SWEEPS).updSq s f

/-- A running sweep of which nothing is left to be read is complete: what lay before it has been freed or moved. -/
def Dev.sweepTail (d : Dev) (s : Nat) (periodic : Bool) : Dev :=
  let q := d.sq s
  if (if periodic then q.scrubOn && (d.storedFrom s q.scrubPos).isNone else q.extra && (d.storedFrom s q.extraPos).isNone) then
    d.sweepOver s fun q => if periodic then { q with scrubOn := false } else { q with extra := false }
  else d

/-- A periodic sweep starts. Each sweep takes the stored granules in ascending order (DESIGN CHOICE, log 42: the spec gives none);
a set that stores nothing is swept at once. -/
def Dev.sweepScrub (d : Dev) (s : Nat) : Dev :=
  let d := d.updSq s fun q => { q with scrubOn := true, scrubPos := 0 }
  if (d.storedFrom s 0).isNone then d.sweepOver s fun q => { q with scrubOn := false } else d

def execScrubSweepStart (s : Fin 32) (st : State) : Host.Outcome State Fault Refusal :=
  st.devEvent (fun d => d.working && (d.set? s.val).isSome && d.fld row_LOAM_CTL 0 f_LOAM_CTL_SCRUB_EN == 1 &&
      !((d.sweepTail s.val true).sq s.val).scrubOn)
    (fun d => (d.sweepTail s.val true).sweepScrub s.val)

/-- A patrol read of a stored granule: a CE is written back, a lasting UE poisoned; a granule under an entry is skipped. The periodic sweep
draws on no account (R277). -/
def Dev.patrol (d : Dev) (s ga : Nat) (periodic : Bool) (ph : Phys) : Dev :=
  let h := d.heldAt s ga
  if h == .none_ || d.poisonAt s ga || d.setFenced s then d else
  let a : Agent := { src := 4, die := d.setDie s, dom := commonDom (d.setDie s), master := scrubMaster, unpaid := periodic }
  match h with
  | .meta_ x => (d.readMeta a ph s ga x).2
  | .ext o => if d.blockPoison o.ext o.blk o.mirror then d else
    let (r, d) := d.readGran a ph s ga (some o)
    r.elim d fun g => d.memWrite s ga g
  | _ =>
    let (r, d) := d.readGran a ph s ga none
    r.elim d fun g => d.memWrite s ga g

/-- Is granule ga the next one of the periodic sweep of set s; of an additional sweep (R306). -/
def Dev.scrubNext (d : Dev) (s ga : Nat) : Bool :=
  (d.sq s).scrubOn && d.fld row_LOAM_CTL 0 f_LOAM_CTL_SCRUB_EN == 1 && d.storedFrom s (d.sq s).scrubPos == some ga
def Dev.extraNext (d : Dev) (s ga : Nat) : Bool := (d.sq s).extra && d.storedFrom s (d.sq s).extraPos == some ga

/-- A sweep has read granule ga, the periodic one where it is its next: it is complete when no stored granule follows. -/
def Dev.scrubMoved (d : Dev) (s ga : Nat) (periodic : Bool) : Dev :=
  let d := d.updSq s fun q => if periodic then { q with scrubPos := ga + 1 } else { q with extraPos := ga + 1 }
  if (d.storedFrom s (ga + 1)).isSome then d
  else d.sweepOver s fun q => if periodic then { q with scrubOn := false } else { q with extra := false }

def execScrubRead (s : Fin 32) (g : BitVec 44) (ph : Phys) (st : State) : Host.Outcome State Fault Refusal :=
  st.devEvent (fun d => d.working && (d.scrubNext s.val g.toNat || (d.extraNext s.val g.toNat && d.ceilOk scrubMaster [(s.val, 1)])))
    (fun d => (d.patrol s.val g.toNat (d.scrubNext s.val g.toNat) ph).scrubMoved s.val g.toNat (d.scrubNext s.val g.toNat))

/-- LOAM_SCRUB_s.NOW: an additional sweep starts, unless one runs (DESIGN CHOICE, log 42). -/
def Dev.scrubNow (d : Dev) (s : Nat) : Dev :=
  let d := d.sweepTail s false
  if (d.set? s).isNone || (d.sq s).extra then d
  else if (d.storedFrom s 0).isNone then d.sweepOver s id
  else d.updSq s fun q => { q with extra := true, extraPos := 0 }

def execScrubNow (s : Fin 32) (st : State) : Host.Outcome State Fault Refusal := st.devStep fun d => d.scrubNow s.val

/-! ### LOAM_PSN_CTL (R301, R308) -/

/-- REMOVE of entry SEL. -/
def Dev.psnRemove (d : Dev) : Dev :=
  let i := d.fld row_LOAM_PSN_CTL 0 f_LOAM_PSN_CTL_SEL
  let (st, d) := match d.poison.get i none with
    | none => (2, d)
    | some p => if p.kind = 4 then (0, d.setPoison i none) else (1, d)
  d.setFld row_LOAM_PSN_CTL 0 f_LOAM_PSN_CTL_CMD_STATUS st

def execPoisonRemove (s : State) : Host.Outcome State Fault Refusal := s.devStep Dev.psnRemove

/-! ### LOAM_TEST (R307, R308) -/

/-- A target of LOAM_TEST. -/
inductive TestAt where
  | mem (s ga : Nat)
  | clay (key : Nat)
  | bad (result : Nat)
  deriving DecidableEq, Repr

/-- The target that LOAM_TEST_ADDR names, or the refusal. -/
def Dev.testAt (d : Dev) : TestAt :=
  let l := d.fld row_LOAM_TEST_ADDR 0 f_LOAM_TEST_ADDR_LOCATION
  match d.fld row_LOAM_TEST_ADDR 0 f_LOAM_TEST_ADDR_TARGET with
  | 0 =>
    let x := bits l 0 28
    let g := bits l 28 11
    let e := d.desc x
    if (d.groupOf x).isNone then .bad 0x11
    else if e.st ≠ .stable || (d.rgn e.region).st ≠ .active || d.bound e.region then .bad 0x10
    else if e.sub && decide (e.slabs * 128 ≤ g) then .bad 0x11
    else .mem e.set (e.home.start + g)
  | 1 =>
    let k := bits l 0 5
    let p := bits l 5 9
    if 24 ≤ k ∨ 320 ≤ p ∨ bits l 25 14 ≠ 0 then .bad 0x11
    else if (d.clayTag.get (k * 320 + p) (false, 0, 0)).1 then .bad 0x10
    else .clay (clayKey k p (bits l 14 11))
  | _ => .bad 0x11

/-- The stored granule at a target. -/
def Dev.testGet (d : Dev) : TestAt → Code
  | .mem s ga => d.memGet s ga
  | .clay k => d.clayGet k
  | .bad _ => 0

/-- The test granule registers as a granule. -/
def Dev.testData (d : Dev) : Gran :=
  d.rd row_LOAM_TEST_DATA 3 ++ d.rd row_LOAM_TEST_DATA 2 ++ d.rd row_LOAM_TEST_DATA 1 ++ d.rd row_LOAM_TEST_DATA 0

/-- A command ends with a result and a symbol. -/
def Dev.testDone (d : Dev) (result sym : Nat) : Dev :=
  ((d.setFld row_LOAM_TEST_CTL 0 f_LOAM_TEST_CTL_DONE 1).setFld row_LOAM_TEST_CTL 0 f_LOAM_TEST_CTL_RESULT result).setFld
    row_LOAM_TEST_CTL 0 f_LOAM_TEST_CTL_SYMBOL sym

/-- Data and check bits returned. -/
def Dev.testReturn (d : Dev) (g : Gran) (check : Nat) : Dev :=
  (d.each (List.range 4) fun d w => d.wr row_LOAM_TEST_DATA w (granWord g w)).setFld
    row_LOAM_TEST_CTL 0 f_LOAM_TEST_CTL_CHECK check

/-- One command of LOAM_TEST on its target. -/
def Dev.testRun (d : Dev) (go : TestAt → Dev → Dev) : Dev :=
  match d.testAt with
  | .bad r => d.testDone r 0
  | t => go t d

/-- WRITE_RAW. -/
def Dev.writeRaw (d : Dev) : Dev := d.testRun fun t d =>
  let c : Code := BitVec.ofNat 32 (d.fld row_LOAM_TEST_CTL 0 f_LOAM_TEST_CTL_CHECK) ++ d.testData
  (match t with
    | .mem s ga => d.memPut s ga c
    | .clay k => d.clayPut k c
    | .bad _ => d).testDone 0 0

/-- READ_RAW. -/
def Dev.readRaw (d : Dev) : Dev := d.testRun fun t d =>
  let c := d.testGet t
  (d.testReturn (codeData c) (c.toNat / 2 ^ 256)).testDone 0 0

/-- READ_CHECKED: the corrected granule with its check bits; of an uncorrectable one the stored bits. -/
def Dev.readChecked (d : Dev) : Dev := d.testRun fun t d =>
  let c := d.testGet t
  match loamDecode c with
  | (.clean, g) => (d.testReturn g (c.toNat / 2 ^ 256)).testDone 0 0
  | (.ce sym, g) => (d.testReturn g (loamCheck g).toNat).testDone 1 sym
  | (.ue, g) => (d.testReturn g (c.toNat / 2 ^ 256)).testDone 2 0

def execWriteRaw (s : State) : Host.Outcome State Fault Refusal := s.devStep Dev.writeRaw
def execReadRaw (s : State) : Host.Outcome State Fault Refusal := s.devStep Dev.readRaw
def execReadChecked (s : State) : Host.Outcome State Fault Refusal := s.devStep Dev.readChecked

end Sys2Proof.Machine
end

