-- ==== Sys2Proof/Machine/Stratum.lean ====
section
/-! DEFINITION. The stratum image (R25 to R47, R422): its layout, admission, SAFE, the flash stratum area, staging commands and the
live replacement of QOS. -/
namespace Sys2Proof.Machine

/-! ### Flash (R353) -/

/-- n bytes of flash; an erased byte reads 0xFF. -/
def Dev.flashGet (d : Dev) (a n : Nat) : List Byte := (List.range n).map fun i => Tab.get d.flash (a + i) 0xFF

/-- Program bytes from a on. -/
def Dev.flashPut (d : Dev) (a : Nat) : List Byte → Dev
  | [] => d
  | b :: t => ({ d with flash := Tab.set d.flash a b 0xFF }).flashPut (a + 1) t

/-- Erase n bytes from a on. -/
def Dev.flashErase (d : Dev) (a n : Nat) : Dev := { d with flash := d.flash.filter fun c => !decide (a ≤ c.1 ∧ c.1 < a + n) }

/-- Granules of flash. -/
def Dev.flashGrans (d : Dev) (a n : Nat) : List Gran := bytesGrans (d.flashGet a (32 * n)) n

def flashIdent : Nat := 0x0010000
def flashOwner : Nat := 0x0040000
def flashTrim : Nat := 0x0080000
def flashStratum : Nat := 0x0100000
def flashSlot (b : Bool) : Nat := if b then 0x1200000 else 0x0200000
def flashPlans : Nat := 0x2200000

/-! ### Fields of an image (R26, R27) -/

/-- An image as granules. -/
abbrev Img := List Gran

/-- Bits lo to lo + len - 1 of granule g. -/
def Img.f (im : Img) (g lo len : Nat) : Nat := bits (im.getD g 0).toNat lo len
def Img.magic (im : Img) : Nat := im.f 0 0 32
def Img.count (im : Img) : Nat := im.f 0 72 8
def Img.length_ (im : Img) : Nat := im.f 0 96 16

/-- Directory entry i, and its fields. -/
def Img.ent (im : Img) (i : Nat) : Nat := im.f (1 + i / 4) (64 * (i % 4)) 64
def Img.ty (im : Img) (i : Nat) : Nat := bits (im.ent i) 0 8
def Img.ver (im : Img) (i : Nat) : Nat := bits (im.ent i) 8 8
def Img.off (im : Img) (i : Nat) : Nat := bits (im.ent i) 16 16
def Img.len (im : Img) (i : Nat) : Nat := bits (im.ent i) 32 16

/-- The entries in use. -/
def Img.used (im : Img) : List Nat := List.range (min 8 im.count)

/-- The entry of a section type. -/
def Img.sec (im : Img) (t : Nat) : Option Nat := im.used.find? fun i => im.ty i == t
def Img.has (im : Img) (t : Nat) : Bool := (im.sec t).isSome

/-- Bits of granule g of section t, and 64-bit entry i of the granules from g on; 0 where the section is absent. -/
def Img.s (im : Img) (t g lo len : Nat) : Nat := (im.sec t).elim 0 fun i => im.f (im.off i + g) lo len
def Img.e64 (im : Img) (t g i : Nat) : Nat := im.s t (g + i / 4) (64 * (i % 4)) 64

/-- The granules of a section. -/
def Img.body (im : Img) (t : Nat) : List Gran := (im.sec t).elim [] fun i => (im.drop (im.off i)).take (im.len i)

/-! ### What an image says (R29 to R39) -/

def Img.nset (im : Img) : Nat := im.s 1 0 0 8
def Img.overcommit (im : Img) : Nat := im.s 1 0 8 8
def Img.chan (im : Img) (s : Nat) : Nat := im.s 1 (1 + s) 0 128
def Img.setId (im : Img) (s : Nat) : Nat := im.s 1 (1 + s) 128 8
def Img.sub (im : Img) (s : Nat) : Bool := im.s 1 (1 + s) 136 1 == 1
def Img.die (im : Img) (s : Nat) : Nat := im.s 1 (1 + s) 137 1
def Img.grain (im : Img) (s : Nat) : Nat := im.s 1 (1 + s) 138 4
def Img.codecOk (im : Img) (s : Nat) : Bool := im.s 1 (1 + s) 142 1 == 1
def Img.port (im : Img) (n : Nat) : Nat := im.e64 4 0 n
def Img.bedCount (im : Img) : Nat := im.s 3 0 0 4
def Img.bed (im : Img) (b : Nat) : Nat := bits (im.e64 3 1 b) 0 24
def Img.route (im : Img) (a : Nat) : Nat := im.e64 2 1 a
def Img.lane (im : Img) (j : Nat) : Nat := im.s 2 0 (4 * j) 4
def Img.share (im : Img) (s i : Nat) : Nat :=
  if i < 16 then im.s 5 (1 + 2 * s) (16 * i) 11 else im.s 5 (2 + 2 * s) (16 * (i - 16)) 11
def Img.highWm (im : Img) (s : Nat) : Nat := im.s 5 (2 + 2 * s) 224 8
def Img.lowWm (im : Img) (s : Nat) : Nat := im.s 5 (2 + 2 * s) 232 8
def Img.rtMask (im : Img) : Nat := im.s 5 0 0 30
def Img.ageLimit (im : Img) : Nat := im.s 5 0 32 16
def Img.allows (im : Img) (x : Nat) : Bool := if im.has 7 then im.s 7 (1 + x / 256) (x % 256) 1 == 1 else decide (x < 336)
def Img.powerLimit (im : Img) : Nat := im.s 7 0 0 16
def Img.seals (im : Img) : Nat := im.s 8 0 0 3

/-- The partition that names a resource: kind 0 set, 32 bed, 40 port, 56 Loess engine, as the bits of R38. Of two entries that name it the
lower counts in the checks before SEAL_OVERLAP (DESIGN CHOICE, log 46). -/
def Img.part (im : Img) (kind i : Nat) : Nat :=
  ((List.range im.seals).find? fun k => im.s 8 (1 + k) (kind + i) 1 == 1).elim 0 (· + 1)
def Img.setPart (im : Img) (s : Nat) : Nat := im.part 0 s
def Img.bedPart (im : Img) (b : Nat) : Nat := im.part 32 b
def Img.portPart (im : Img) (n : Nat) : Nat := im.part 40 n
def Img.loessPart (im : Img) (j : Nat) : Nat := im.part 56 j

def Img.sets (im : Img) : List Nat := List.range im.nset
def Img.beds (im : Img) : List Nat := List.range (min 8 im.bedCount)
def Img.bedOf (im : Img) (k : Nat) : Option Nat := im.beds.find? fun b => bitOf (im.bed b) k
def Img.enabled (im : Img) (n : Nat) : Bool := bitOf (im.port n) 0
def Img.ctxSlots (im : Img) (n : Nat) : Nat := bits (im.port n) 16 11
def Img.parkLimit (im : Img) (n : Nat) : Nat := bits (im.port n) 32 12

/-- Local channels of a set as channels of the device. -/
def Img.channels (im : Img) (s : Nat) : List Nat :=
  ((List.range 128).filter (bitOf (im.chan s))).map fun i => (if im.sub s then 72 else 128) * im.die s + i

/-- SLOTS_Pp, as given or as R39 gives them. -/
def Img.slotsOf (im : Img) (p : Nat) : Nat :=
  if im.has 6 then im.s 6 0 (16 * p) 13 else
  let ps := (List.range 8).filter fun q => im.sets.any fun s => im.codecOk s && im.setPart s == q
  if !ps.contains p then 0 else
  let each := 2 * (2048 / ps.length)
  if ps.head? == some p then 4096 - each * (ps.length - 1) else each

/-- The stratum that an image describes. -/
def Img.strat (im : Img) (safe : Bool) (digest : List Byte) : Strat := {
  sets := im.sets.map fun s => ⟨im.channels s, im.sub s, im.die s, im.grain s, im.codecOk s, im.setPart s, im.lowWm s,
    im.highWm s, (List.range 30).map (im.share s)⟩,
  overcommit := im.overcommit, beds := im.beds.map fun b => BitVec.ofNat 24 (im.bed b),
  ports := (List.range 16).map fun n => BitVec.ofNat 64 (im.port n), lanes := BitVec.ofNat 64 (im.s 2 0 0 64),
  routes := (List.range 46).map fun a => BitVec.ofNat 64 (im.route a), ageLimit := im.ageLimit,
  rtMask := BitVec.ofNat 30 im.rtMask, slots := (List.range 8).map im.slotsOf, powerLimit := im.powerLimit,
  allow := (List.range 336).filter im.allows, bedPart := im.beds.map im.bedPart,
  portPart := (List.range 16).map im.portPart, loessPart := (List.range 4).map im.loessPart, sealCount := im.seals,
  safe := safe, id := BitVec.ofNat 64 (im.f 0 128 64), seq := BitVec.ofNat 32 (im.f 0 192 32), digest := digest, image := im }

/-! ### Admission (R40, R422) -/

/-- The first element that fails a check. -/
def firstBad (l : List Nat) (ok : Nat → Bool) : Option Nat := l.find? fun i => !ok i

/-- Lengths in granules that R27 permits for a section type. -/
def secLen (t n : Nat) : Bool :=
  match t with
  | 1 => decide (2 ≤ n ∧ n ≤ 33)
  | 2 => n == 13
  | 3 => n == 3
  | 4 => n == 4
  | 5 => decide (3 ≤ n ∧ n ≤ 65)
  | 6 => n == 1
  | 7 => n == 3
  | 8 => decide (1 ≤ n ∧ n ≤ 8)
  | _ => false

/-- The end of the sections. -/
def Img.bodyEnd (im : Img) : Nat := im.off (im.count - 1) + im.len (im.count - 1)

def Img.dirOk (im : Img) (i : Nat) : Bool :=
  if im.count ≤ i then im.ent i == 0 else
  secLen (im.ty i) (im.len i) &&
    (if i = 0 then im.off 0 == 3 else decide (im.ty (i - 1) < im.ty i) && im.off i == im.off (i - 1) + im.len (i - 1))

/-- BAD_DIRECTORY. -/
def Img.badDir (im : Img) : Option Nat :=
  match firstBad (List.range 8) im.dirOk with
  | some i => some i
  | none => if (List.range 5).all (fun t => im.has (t + 1)) && im.length_ == im.bodyEnd + 107 then none else some 8

/-- Mask of n bits from lo, repeated k times at a distance. -/
def maskAt (lo n : Nat) : Nat := (2 ^ n - 1) * 2 ^ lo
def maskRep (lo n k step : Nat) : Nat := ((List.range k).map fun i => maskAt (lo + step * i) n).sum

/-- Reserved bits of granule g of a section; the slots of agents 46 and 47, which R31 calls zero, among them (DESIGN CHOICE,
log 42: no code is given for them). -/
def secRsv (t g : Nat) : Nat :=
  match t with
  | 1 => if g = 0 then maskAt 16 240 else maskAt 143 113
  | 2 => if g = 0 then maskAt 64 192 else if g = 12 then maskRep 36 28 2 64 + maskAt 128 128 else maskRep 36 28 4 64
  | 3 => if g = 0 then maskAt 4 252 else maskRep 24 40 4 64
  | 4 => maskRep 44 20 4 64 + maskRep 27 5 4 64 + maskRep 4 12 4 64
  | 5 => if g = 0 then maskAt 48 208 + maskAt 30 2 else if g % 2 = 1 then maskRep 11 5 16 16
         else maskAt 240 16 + maskRep 11 5 14 16
  | 6 => maskAt 128 128 + maskRep 13 3 8 16
  | 7 => if g = 0 then maskAt 16 240 else 0
  | 8 => if g = 0 then maskAt 3 253 else maskAt 60 196
  | _ => 0

/-- Reserved bits of a granule of an image; the 19 zero bytes after MLDSA_SIG among them (DESIGN CHOICE, log 42: R28 gives no
code for them). -/
def Img.rsv (im : Img) (g : Nat) : Nat :=
  if g = 0 then maskAt 224 32 + maskAt 80 16
  else if g < 3 then maskRep 48 16 4 64
  else if g = im.bodyEnd then maskAt 40 216
  else if g = im.bodyEnd + 106 then maskAt 104 152
  else match im.used.find? fun i => decide (im.off i ≤ g ∧ g < im.off i + im.len i) with
    | some i => secRsv (im.ty i) (g - im.off i)
    | none => 0

/-- PART_SET: the rules of R29 on set s. Of two sets that share a channel both break one, so the lower index is reported (R422). -/
def Img.setOk (im : Img) (s : Nat) : Bool :=
  let c := im.chan s
  im.setId s == s && c ≠ 0 && (!im.sub s || decide (c < 2 ^ 72)) &&
    ((List.range 32).all fun q => let n := bits c (4 * q) 4; n == 0 || n == 15) &&
    im.sets.all fun t => t == s || im.sub t ≠ im.sub s || im.die t ≠ im.die s || im.chan t &&& c == 0

/-- PART_METADATA. -/
def Img.badMeta (im : Img) : Option Nat :=
  let g := im.strat false []
  let groups := (List.range 16).filter fun k => g.sets.any fun S => S.group == k
  let groupOk := fun k => match g.metaSet k with
    | none => false
    | some s => decide (g.sg k ≤ (g.sets.getD s ⟨[], false, 0, 0, false, 0, 0, 0, []⟩).slots * 65536)
  match firstBad groups groupOk with
  | some k => (List.range g.sets.length).find? fun s => (g.sets.getD s ⟨[], false, 0, 0, false, 0, 0, 0, []⟩).group == k
  | none =>
    let slice := fun p => ((groups.filter fun k => k / 2 == p).map fun k => g.sg k - 64 * g.eg k).sum
    let need := fun p => im.slotsOf p * 256 + 16384 *
      (((List.range 16).filter fun n => im.portPart n == p).map fun n => im.ctxSlots n + im.parkLimit n).sum
    (firstBad (List.range (im.seals + 1)) fun p => decide (need p ≤ slice p)).map (· + 0x100)

/-- Is agent a present (R31), and its partition. -/
def Img.agentOn (im : Img) (a : Nat) : Bool :=
  if a < 24 then (im.bedOf a).isSome else if a < 40 then im.enabled (a - 24)
  else if a < 44 then im.allows (loessDom (a - 40)) else true
def Img.agentPart (im : Img) (a : Nat) : Nat :=
  if a < 24 then (im.bedOf a).elim 0 im.bedPart else if a < 40 then im.portPart (a - 24)
  else if a < 44 then im.loessPart (a - 40) else 0

/-- The mask of the sets of a partition. -/
def Img.partSets (im : Img) (p : Nat) : Nat := ((im.sets.filter fun s => im.setPart s == p).map (2 ^ ·)).sum

/-- SET_MASK that R31 requires. -/
def Img.wantMask (im : Img) (a : Nat) : Nat :=
  if !im.agentOn a then 0 else if 44 ≤ a then 2 ^ im.nset - 1 else im.partSets (im.agentPart a)

/-- ROUTE_BRIDGE. -/
def Img.badBridge (im : Img) : Option Nat :=
  let ls := (List.range 16).map im.lane
  match firstBad (List.range 16) fun j => decide (im.lane j ≤ im.seals) with
  | some j => some j
  | none =>
    let dies := fun p =>
      ((im.sets.filter fun s => im.setPart s == p).map im.die) ++
      (((List.range 24).filter fun k => (im.bedOf k).elim false fun b => im.bedPart b == p).map dieOfCluster) ++
      (((List.range 16).filter fun n => im.portPart n == p).map dieOfPort) ++
      (((List.range 4).filter fun j => im.loessPart j == p).map dieOfLoess)
    let ok := fun p => ls.contains p || (p ≠ 0 && !((dies p).contains 0 && (dies p).contains 1))
    if (List.range (im.seals + 1)).all ok then none else some 16

/-- Bits of a mask below n. -/
def popBelow (m n : Nat) : Nat := ((List.range n).filter (bitOf m)).length

/-- PORT_ROLE. -/
def Img.roleOk (im : Img) (n : Nat) : Bool :=
  let e := im.port n
  if !bitOf e 0 then bits e 1 3 == 0
  else bits e 1 3 ≠ 0 && (!bitOf e 3 || (bitOf e 2 && (List.range n).all fun m => !bitOf (im.port m) 3))

/-- PORT_SLOTS. -/
def Img.slotsOk (im : Img) (n : Nat) : Bool :=
  let e := im.port n
  let c := im.ctxSlots n
  let k := im.parkLimit n
  if bitOf e 0 && bitOf e 1 then decide (1 ≤ c ∧ c ≤ 1024 ∧ k ≤ 3072) else decide (c = 0 ∧ k = 0)

/-- May master i have a share on set s, and an RT bit (R35). -/
def Img.masterOn (im : Img) (i s : Nat) : Bool :=
  if i < 16 then im.enabled i && im.portPart i == im.setPart s
  else if i < 24 then decide (i - 16 < im.bedCount) && im.bedPart (i - 16) == im.setPart s
  else if i < 28 then im.allows (loessDom (i - 24)) && im.loessPart (i - 24) == im.setPart s
  else true
def Img.masterOk (im : Img) (i : Nat) : Bool :=
  (!bitOf im.rtMask i || (decide (i < 16) && bits (im.port i) 0 2 == 3)) &&
    im.sets.all fun s => im.share s i == 0 || im.masterOn i s

/-- QOS_OVERSUB. -/
def Img.sumOk (im : Img) (s : Nat) : Bool :=
  decide (((List.range 30).map (im.share s)).sum ≤ (if im.sub s then 928 else 944))

/-- CODEC_SLOTS. -/
def Img.codecSlotsOk (im : Img) (p : Nat) : Bool :=
  let n := im.slotsOf p
  let ok := im.sets.any fun s => im.codecOk s && im.setPart s == p
  n % 2 == 0 && (if im.seals < p then n == 0 else if ok then decide (2 ≤ n) else n == 0)

/-- Domains that R37 requires. -/
def Img.needs (im : Img) (x : Nat) : Bool :=
  if x < 0xC0 then (im.bedOf (x / 8)).isSome
  else if x < 0xD8 then (im.bedOf (x - 0xC0)).isSome
  else if x < 0x118 then im.sets.any fun s => !im.sub s && (im.channels s).contains (4 * (x - 0xD8))
  else if x < 0x13C then im.sets.any fun s => im.sub s && (im.channels s).contains (4 * (x - 0x118))
  else if x < 0x14C then im.enabled (x - 0x13C)
  else
    -- the lowest engine of a partition with both tiers and no allowed engine
    (List.range (im.seals + 1)).any fun p =>
      let mine := (List.range 4).filter fun j => if p = 0 then im.loessPart j == 0 else im.s 8 p (56 + j) 1 == 1
      let both := (im.sets.any fun s => im.setPart s == p && im.sub s) && im.sets.any fun s => im.setPart s == p && !im.sub s
      both && !(mine.any fun j => im.allows (loessDom j)) && loessDom (mine.headD 0) == x

/-- POWER_DOMAIN. A partition that has no Loess engine at all lacks LOESS0, whether or not that is allowed. -/
def Img.powerOk (im : Img) (x : Nat) : Bool :=
  if x < 336 then !im.needs x || (im.allows x && decide (x < 0x14C)) else !im.has 7 || !im.allows x

/-- What the image defines of the bits of a SEAL entry: its sets, its beds, every port and engine (R38). -/
def Img.sealBits (im : Img) : Nat := maskAt 0 (min im.nset 32) + maskAt 32 (min im.bedCount 8) + maskAt 40 20

/-- SEAL_OVERLAP: partition p + 1 shares a resource with an earlier one. -/
def Img.sealAlone (im : Img) (p : Nat) : Bool :=
  (List.range p).all fun q => im.s 8 (1 + q) 0 60 &&& im.s 8 (1 + p) 0 60 &&& im.sealBits == 0

/-- SEAL_CONTENT. -/
def Img.sealOk (im : Img) (p : Nat) : Bool :=
  let on := fun k i => im.s 8 (1 + p) (k + i) 1 == 1
  decide (im.s 8 (1 + p) 0 32 < 2 ^ im.nset) && decide (im.s 8 (1 + p) 32 8 < 2 ^ im.bedCount) &&
    (im.sets.any fun s => on 0 s && !im.sub s) && (im.beds.any fun b => on 32 b) &&
    ((List.range 16).any fun n => on 40 n && bits (im.port n) 0 2 == 3) &&
    (List.range 16).all fun n => !on 40 n || bits (im.port n) 2 2 == 0

/-- A check with its code: none when it passes. -/
def chk (code : Nat) (bad : Option Nat) : Option (Nat × Nat) := bad.map fun x => (code, x)
def chkB (code detail : Nat) (ok : Bool) : Option (Nat × Nat) := if ok then none else some (code, detail)

/-- The first that fails. -/
def firstFail : List (Option (Nat × Nat)) → Nat × Nat
  | [] => (0, 0)
  | none :: t => firstFail t
  | some r :: _ => r

/-- The signature checks (R28): both signatures over D with the keys of KEY_SLOT. -/
def Img.sigChecks (im : Img) (x : Sec) : List (Option (Nat × Nat)) :=
  let e := im.bodyEnd
  let slot := im.f e 32 8
  let d := natBytes (Config.sha3 (gransBytes (im.take e))).toNat 64
  let sig := gransBytes ((im.drop (e + 1)).take 106)
  match x.slotKey slot with
  | none => [some (0x05, slot)]
  | some k => [
      chkB 0x05 slot (im.f e 0 32 == 0x47535153),
      chkB 0x06 0 (Config.ed25519Verify k d (slice sig 0 64)),
      chkB 0x07 0 (Config.mldsaVerify k d (slice sig 64 3309)),
      chkB 0x08 (im.f 0 112 16) (decide (im.f 0 112 16 ≤ x.runSvn))]

/-- The header checks. -/
def Img.headerOk (im : Img) : Bool :=
  im.magic == 0x54535153 && im.f 0 32 16 == 1 && im.f 0 48 16 == 0x4E38 && im.f 0 64 8 == 8 &&
    decide (135 ≤ im.length_ ∧ im.length_ ≤ 512) && decide (5 ≤ im.count ∧ im.count ≤ 8)

/-- The checks from RESERVED on. -/
def Img.contentChecks (im : Img) : List (Option (Nat × Nat)) := [
  chk 0x09 (firstBad (List.range im.length_) fun g => (im.getD g 0).toNat &&& im.rsv g == 0),
  chk 0x0A (firstBad im.used fun i => let n := im.len i
    match im.ty i with
    | 1 => n == 1 + im.nset
    | 5 => n == 1 + 2 * im.nset
    | 8 => n == 1 + im.seals
    | _ => true),
  chk 0x10 (firstBad im.sets im.setOk),
  chk 0x11 (firstBad im.sets fun s => decide (im.grain s ≤ 8) && (!im.codecOk s || decide (3 ≤ im.grain s))),
  chkB 0x12 0 (decide (16 ≤ im.overcommit ∧ im.overcommit ≤ 32) && (im.overcommit == 16 || im.sets.any im.sub)),
  chk 0x13 im.badMeta,
  chk 0x18 (firstBad (List.range 46) fun a => bits (im.route a) 0 32 == im.wantMask a),
  chk 0x19 (firstBad (List.range 46) fun a => let w := bits (im.route a) 32 4; (w ≠ 0) == im.agentOn a),
  chk 0x1A im.badBridge,
  chkB 0x1C 8 (decide (1 ≤ im.bedCount ∧ im.bedCount ≤ 8)),
  chk 0x1C (firstBad (List.range 8) fun b => if b < im.bedCount then decide (3 ≤ popBelow (im.bed b) 24) else im.bed b == 0),
  chk 0x1D (firstBad (List.range 24) fun k => decide ((im.beds.filter fun b => bitOf (im.bed b) k).length ≤ 1)),
  chk 0x20 (firstBad (List.range 16) im.roleOk),
  chkB 0x20 16 ((List.range 16).any fun n => bitOf (im.port n) 2),
  chk 0x21 (firstBad (List.range 16) im.slotsOk),
  chkB 0x21 16 (decide (((List.range 16).map im.ctxSlots).sum ≤ 1024 ∧ ((List.range 16).map im.parkLimit).sum ≤ 3072)),
  chk 0x24 (firstBad im.sets im.sumOk),
  chk 0x25 (firstBad (List.range 30) im.masterOk),
  chkB 0x26 0xFFFF (decide (1 ≤ im.ageLimit ∧ im.ageLimit ≤ 1000)),
  chk 0x26 (firstBad im.sets fun s => decide (im.lowWm s < im.highWm s)),
  chk 0x28 (firstBad (List.range 8) im.codecSlotsOk),
  chkB 0x28 8 (decide (((List.range 8).map im.slotsOf).sum ≤ 4096)),
  chk 0x2C (firstBad (List.range 512) im.powerOk),
  chkB 0x2D 0 (im.powerLimit == 0 || decide (400 ≤ im.powerLimit ∧ im.powerLimit ≤ 1750)),
  chk 0x30 ((firstBad (List.range im.seals) im.sealAlone).map (· + 1)),
  chk 0x31 ((firstBad (List.range im.seals) im.sealOk).map (· + 1))]

/-- Admission of an image from the header on: code and detail. -/
def Img.admission (im : Img) (x : Sec) : Nat × Nat :=
  if !im.headerOk then (0x02, 0) else
  match im.badDir with
  | some i => (0x03, i)
  | none => match firstBad im.used fun i => im.ver i == 1 with
    | some i => (0x04, i)
    | none => firstFail (im.sigChecks x ++ im.contentChecks)

/-- D of an image (R28). -/
def Img.digest (im : Img) : List Byte := natBytes (Config.sha3 (gransBytes (im.take im.bodyEnd))).toNat 64

/-! ### SAFE (R42) -/

/-- Four 64-bit entries as a granule. -/
def quad (a b c e : Nat) : Gran := BitVec.ofNat 256 (a + b * 2 ^ 64 + c * 2 ^ 128 + e * 2 ^ 192)

/-- A directory entry of version 1. -/
def dirEnt (t off len : Nat) : Nat := t + 0x100 + off * 2 ^ 16 + len * 2 ^ 32

/-- A set of SAFE. -/
def safeSet (s tier die : Nat) : Gran :=
  BitVec.ofNat 256 ((if tier = 0 then 2 ^ 128 - 1 else 2 ^ 72 - 1) + s * 2 ^ 128 + tier * 2 ^ 136 + die * 2 ^ 137 + 3 * 2 ^ 138 + 2 ^ 142)

/-- The 41 granules of SAFE. -/
def safeImage : Img :=
  let agent := 0xF + 8 * 2 ^ 32
  let port := 7 + 64 * 2 ^ 16 + 192 * 2 ^ 32
  let wm : Gran := BitVec.ofNat 256 (192 * 2 ^ 224 + 96 * 2 ^ 232)
  [BitVec.ofNat 256 (0x54535153 + 2 ^ 32 + 0x4E38 * 2 ^ 48 + 8 * 2 ^ 64 + 7 * 2 ^ 72 + 148 * 2 ^ 96),
   quad (dirEnt 1 3 5) (dirEnt 2 8 13) (dirEnt 3 21 3) (dirEnt 4 24 4),
   quad (dirEnt 5 28 9) (dirEnt 6 37 1) (dirEnt 7 38 3) 0,
   BitVec.ofNat 256 (4 + 16 * 2 ^ 8), safeSet 0 0 0, safeSet 1 0 1, safeSet 2 1 0, safeSet 3 1 1, 0] ++
  List.replicate 11 (quad agent agent agent agent) ++ [quad agent agent 0 0] ++
  [1, quad (2 ^ 24 - 1) 0 0 0, 0] ++ List.replicate 4 (quad port port port port) ++
  [BitVec.ofNat 256 (20 * 2 ^ 32), 0, wm, 0, wm, 0, wm, 0, wm, 4096, 0, ~~~ 0, BitVec.ofNat 256 (2 ^ 80 - 1)]

def safeStrat : Strat := safeImage.strat true safeImage.digest

/-! ### Admission at a reset (R25, R40, R41) -/

/-- The image in the flash stratum area. -/
def Dev.flashImage (d : Dev) : Img :=
  let h := d.flashGrans flashStratum 1
  d.flashGrans flashStratum (min 512 (Img.length_ h))

/-- Is the whole stratum area erased: the table lists no byte of it. -/
def Dev.stratErased (d : Dev) : Bool := d.flash.all fun c => !decide (flashStratum ≤ c.1 ∧ c.1 < flashStratum + 2 ^ 20)

/-- Code and detail of admission of the flash image. -/
def Dev.admitFlash (d : Dev) (x : Sec) : Nat × Nat :=
  if !x.stratRead || d.stratErased then (0x01, 0) else d.flashImage.admission x

/-- Put a stratum in force: the registers that report it, and the ceilings of its sets (R47, R259). -/
def Dev.stratLoad (d : Dev) (g : Strat) (admission : Nat × Nat) : Dev :=
  let d := { d with strat := some g }
  let d := d.wr row_STR_ACTIVE_ID 0 g.id
  let d := (d.setFld row_STR_ACTIVE_INFO 0 f_STR_ACTIVE_INFO_SEQUENCE g.seq.toNat).setFld row_STR_ACTIVE_INFO 0
    f_STR_ACTIVE_INFO_SAFE (b2n g.safe)
  let d := (d.setFld row_STR_STATUS 0 f_STR_STATUS_ADMIT_CODE admission.1).setFld row_STR_STATUS 0 f_STR_STATUS_ADMIT_DETAIL admission.2
  let d := d.each (List.range 8) fun d i => d.wr row_STR_DIGEST i (BitVec.ofNat 64 (leNat (slice g.digest (8 * i) 8)))
  d.each (List.range g.sets.length) Dev.ceilStart

/-- The stratum that a reset brings into force, with the admission result. -/
def Dev.chooseStrat (d : Dev) (x : Sec) : Strat × Nat × Nat :=
  let r := d.admitFlash x
  if r.1 = 0 then (d.flashImage.strat false d.flashImage.digest, r) else (safeStrat, r)

/-- The sections PARTITION, CODEC and SEAL agree (R43). -/
def sameMemory (a b : Strat) : Bool := [1, 6, 8].all fun t => Img.body a.image t == Img.body b.image t

/-! ### Staging (R44 to R46) -/

/-- Granules of the staging buffer. -/
def Dev.stageGrans (d : Dev) (n : Nat) : List Gran :=
  (List.range (min n 512)).map fun i => d.rd row_STR_STAGE_BUF (4 * i + 3) ++ d.rd row_STR_STAGE_BUF (4 * i + 2) ++
    d.rd row_STR_STAGE_BUF (4 * i + 1) ++ d.rd row_STR_STAGE_BUF (4 * i)

/-- A command has ended with a result. -/
def Dev.stageEnd (d : Dev) (r : Nat × Nat) : Dev :=
  let d := (d.setFld row_STR_STATUS 0 f_STR_STATUS_STAGE_CODE r.1).setFld row_STR_STATUS 0 f_STR_STATUS_STAGE_DETAIL r.2
  let d := (d.setFld row_STR_STAGE_CTL 0 f_STR_STAGE_CTL_DONE 1).setFld row_STR_STAGE_CTL 0 f_STR_STAGE_CTL_BUSY 0
  { d with staging := none }

/-- A command runs on; DONE of the one before it stays as it was (DESIGN CHOICE, log 46). -/
def Dev.stageBusy (d : Dev) (cmd len : Nat) (buf : List Gran) : Dev :=
  { d.setFld row_STR_STAGE_CTL 0 f_STR_STAGE_CTL_BUSY 1 with staging := some ⟨cmd, len, buf, false⟩ }

/-- CHECK: admission of the staged image, its LENGTH compared with IMAGE_LENGTH (R45). -/
def stageCheck (buf : List Gran) (len : Nat) (x : Sec) : Nat × Nat :=
  if Img.length_ buf ≠ len then (0x02, 0) else Img.admission buf x

/-- The image of the stratum in force as READ_ACTIVE gives it: SAFE has a signature block of zeros. -/
def Strat.readout (g : Strat) : List Gran := if g.safe then g.image ++ List.replicate 107 0 else g.image

/-- Write granules into the staging buffer from word 0. -/
def Dev.stagePut (d : Dev) (l : List Gran) : Dev :=
  d.each ((List.range l.length).zip l) fun d ig => d.each (List.range 4) fun d j =>
    d.wr row_STR_STAGE_BUF (4 * ig.1 + j) (granWord ig.2 j)

/-- A command written to STR_STAGE_CTL with LENGTH len. Of a write that is ignored for BUSY the command rows leave LENGTH as it
is; a register write takes it before (DESIGN CHOICE, log 42: R45 says only that the CMD write is ignored). FROZEN and BAD_CMD come with DETAIL 0,
and FROZEN in every PHASE but RUNNING (DESIGN CHOICE, log 46). -/
def Dev.stageCmd (d : Dev) (x : Sec) (cmd len : Nat) : Dev :=
  if d.staging.isSome then d.setFld row_STR_STATUS 0 f_STR_STATUS_CMD_DROPPED 1 else
  let d := d.setFld row_STR_STAGE_CTL 0 f_STR_STAGE_CTL_LENGTH len
  if d.freezes ≠ .running then d.stageEnd (0x3A, 0) else
  let buf := d.stageGrans len
  match cmd with
  | 1 => d.stageEnd (stageCheck buf len x)
  | 2 =>
    let r := stageCheck buf len x
    if r.1 ≠ 0 then d.stageEnd r else (d.flashErase flashStratum (2 ^ 20)).stageBusy 2 len buf
  | 3 => d.stageBusy 3 len buf
  | 4 => match d.strat with
    | none => d.stageEnd (0, 0)
    | some g =>
      let l := g.readout
      ((d.stagePut l).setFld row_STR_STAGE_CTL 0 f_STR_STAGE_CTL_LENGTH l.length).stageEnd (0, 0)
  | _ => d.stageEnd (0x3B, 0)

/-- A row that is a staging command. The ring engines and firmware must run. -/
def State.stageRow (cmd len : Nat) (s : State) : Host.Outcome State Fault Refusal := .next (s.onDev fun d => d.stageCmd s.sec cmd len)

def execCheck (len : BitVec 10) (s : State) : Host.Outcome State Fault Refusal := s.stageRow 1 len.toNat
def execCommitFlash (len : BitVec 10) (s : State) : Host.Outcome State Fault Refusal := s.stageRow 2 len.toNat
def execApplyQos (len : BitVec 10) (s : State) : Host.Outcome State Fault Refusal := s.stageRow 3 len.toNat
def execReadActive (s : State) : Host.Outcome State Fault Refusal :=
  s.stageRow 4 (s.dev.fld row_STR_STAGE_CTL 0 f_STR_STAGE_CTL_LENGTH)

/-- Is a command of a kind running. -/
def Dev.stagingIs (d : Dev) (cmd : Nat) (adopted : Bool) : Bool :=
  d.freezes == .running && d.staging.elim false fun t => t.cmd == cmd && t.adopted == adopted

/-- Step 2 of R44: admission, then the identity of every section but QOS. LIVE_MISMATCH comes with DETAIL 0 (DESIGN CHOICE, log 46). -/
def Dev.qosJudge (d : Dev) (x : Sec) : Dev :=
  match d.staging, d.strat with
  | some t, some g =>
    let r := stageCheck t.buf t.len x
    let same := ((List.range 8).filter fun i => i ≠ 4).all fun i => Img.body t.buf (i + 1) == Img.body g.image (i + 1)
    if r.1 ≠ 0 then d.stageEnd r else if !same then d.stageEnd (0x38, 0) else { d with staging := some { t with adopted := true } }
  | _, _ => d

def execQosCopyComplete (s : State) : Host.Outcome State Fault Refusal :=
  s.devEvent (fun d => d.stagingIs 3 false) (fun d => d.qosJudge s.sec)

/-- The stratum with the QOS section of another image (R44): nothing else of it changes. What reports the stratum in force keeps
the header, digest and signature block of the image loaded at the reset, around the new QOS granules (DESIGN CHOICE, log 42). -/
def Strat.withQos (g : Strat) (im : Img) : Strat :=
  let n := im.strat g.safe g.digest
  let at_ := (Img.sec g.image 5).elim 0 (Img.off g.image)
  let q := Img.body im 5
  { g with
    sets := (g.sets.zip n.sets).map fun p => { p.1 with lowWm := p.2.lowWm, highWm := p.2.highWm, shares := p.2.shares },
    ageLimit := n.ageLimit, rtMask := n.rtMask, image := g.image.take at_ ++ q ++ g.image.drop (at_ + q.length) }

/-- Steps 3 and 4 of R44. -/
def Dev.qosAdopt (d : Dev) : Dev :=
  match d.staging, d.strat with
  | some t, some g =>
    let d := d.each (List.range 100) Dev.accrue
    let d := { d with strat := some (g.withQos t.buf) }
    let d := d.each (List.range g.sets.length) Dev.ceilRaise
    (d.wrapInc row_STR_ACTIVE_INFO 0 f_STR_ACTIVE_INFO_QOS_GEN).stageEnd (0, 0)
  | _, _ => d

def execQosAdoptionComplete (s : State) : Host.Outcome State Fault Refusal :=
  s.devEvent (fun d => d.stagingIs 3 true) Dev.qosAdopt

/-- COMMIT_FLASH ends: the image lies in the flash stratum area. Of a write that fails the spec gives no code: STAGE_CODE is a
free value and the area stays erased. -/
def Dev.commitDone (d : Dev) (ok : Bool) : Dev :=
  match d.staging with
  | none => d
  | some t =>
    if ok then (d.flashPut flashStratum (gransBytes t.buf)).stageEnd (0, 0)
    else let (c, d) := d.fresh 8
         d.stageEnd (c.toNat, 0)

def execCommitFlashComplete (ok : Bool) (s : State) : Host.Outcome State Fault Refusal :=
  s.devEvent (fun d => d.stagingIs 2 false) (fun d => d.commitDone ok)

end Sys2Proof.Machine
end

