-- ==== Sys2Proof/Machine/Clocks.lean ====
section
/-! DEFINITION. Clocked circuits and the step rate (R18, R19, R23). PLLs 0 to 99 are those of the controller instances, 100 to 115
those of the ports. -/
namespace Sys2Proof.Machine

/-! ### PLLs (R19) -/

/-- The domain of a PLL. -/
def pllDom (p : Nat) : Nat := if p < 100 then instDom p else portDom (p - 100)

/-- Has PLL p locked and lost its lock. -/
def Dev.pllLost (d : Dev) (p : Nat) : Bool := if p < 100 then (d.inst p).pllLost else (d.port (p - 100)).pllLost

/-- Does PLL p run: its domain is LIVE, or it is fenced or in its reset, where a further fault is only logged (R379). -/
def Dev.pllOn (d : Dev) (p : Nat) : Bool :=
  let st := (d.dom (pllDom p)).st
  st == .live || st == .fenced || st == .resetting

/-- Loss of lock: the circuit stops presenting data until its relock is decided. -/
def Dev.pllLose (d : Dev) (p : Nat) : Dev :=
  if p < 100 then (d.accrue p).updInst p fun x => { x with pllLost := true, st := if x.st == .active then .pause else x.st }
  else d.updPort (p - 100) fun x => { x with pllLost := true }

def execPllLossOfLock (p : Fin 116) (s : State) : Host.Outcome State Fault Refusal :=
  s.devEvent (fun d => d.pllOn p.val && !d.pllLost p.val) (fun d => d.pllLose p.val)

/-- An instance resumes after a retrain; one whose initial training the loss has cut off is trained with it. Other states go on
with the lock that they wait for. -/
def Dev.instResume (d : Dev) (i : Nat) : Dev :=
  let d := (d.accrue i).updInst i fun x => { x with pllLost := false }
  let st := (d.inst i).st
  if st == .pause || (st == .training && d.step ≠ .training) then ((d.clockStart i).pausesRestart i).readAgain i else d

/-- The relock has passed or failed: retraining, in which groups may fail by R282, or the lasting fault of the circuit. In a domain that
is fenced already it is only logged (R379). -/
def Dev.pllResult (d : Dev) (p : Nat) (ok : Bool) (fails : List TrainFail) : Dev :=
  let d := d.log (pllDom p) 0x0B (!ok) (pllDom p)
  if !d.live (pllDom p) then
    if !ok then d else if p < 100 then d.updInst p fun x => { x with pllLost := false } else d.updPort (p - 100) fun x => { x with pllLost := false }
  else if p < 100 then
    if !ok then d.failChans p 0xF 1
    else if lastingMask fails = 0 then (d.trainFails p fails 1).instResume p
    else (d.updInst p fun x => { x with pllLost := false }).trainFails p fails 1
  else
    let n := p - 100
    if ok then (d.updPort n fun x => { x with pllLost := false }).enterRetrain n else d.portFail n 5 6

def execPllRelockResult (p : Fin 116) (ok : Bool) (fails : List TrainFail) (s : State) : Host.Outcome State Fault Refusal :=
  s.devEvent (fun d => d.pllLost p.val && !d.refclkLost) (fun d => d.pllResult p.val ok fails)

/-- Loss of REFCLK: every set is fenced, every port goes down, the device has failed. -/
def Dev.refclkFail (d : Dev) : Dev :=
  let d := { d with refclkLost := true }
  if d.step == .standby || d.step == .pwrok || d.step == .reset || d.step == .rom || d.step == .firmware ||
      d.step == Step.stratum then d else
  let d := d.each (List.range (d.strat.elim 0 (·.sets.length))) fun d s => d.fenceSet s 6
  let d := d.each (List.range 16) fun d n =>
    let x := d.port n
    let d := d.updPort n fun x => { x with pllLost := true }
    if x.st == .disabled || x.st == .failed then d else d.portDown n 5 false
  d.deviceFailed 3

def execRefclkLoss (s : State) : Host.Outcome State Fault Refusal := s.devEvent (fun d => !d.refclkLost) Dev.refclkFail

/-! ### The step rate (R23) -/

/-- RATE of canary cycles counted in a window; a rate beyond its 12 bits reads 0xFFF (DESIGN CHOICE, log 42: the spec is silent). -/
def rateOf (c : Nat) : Nat := min 0xFFF (95 * c / 1000)

/-- The end of a window for one cluster: discarded where a core of it was off, powered up, fenced or frozen. -/
def Dev.rateCluster (d : Dev) (k c : Nat) : Dev :=
  let off := !((List.range 8).all fun i => d.live (coreDom (8 * k + i)))
  if off then (d.setFld row_GEN_STEP_RATE k f_GEN_STEP_RATE_VALID 0).setFld row_GEN_STEP_RATE k f_GEN_STEP_RATE_RATE 0
  else if bitOf d.rateDirty k || d.freezes ≠ .running then d
  else
    let r := rateOf c
    let d := (d.setFld row_GEN_STEP_RATE k f_GEN_STEP_RATE_RATE r).setFld row_GEN_STEP_RATE k f_GEN_STEP_RATE_VALID 1
    if r < d.fld row_GEN_STEP_RATE k f_GEN_STEP_RATE_RATE_MIN then d.setFld row_GEN_STEP_RATE k f_GEN_STEP_RATE_RATE_MIN r else d

/-- The end of a window of a die: its clusters in order, and RATE_DC, measured in whole windows as they are (R263). -/
def Dev.rateWindow (d : Dev) (die : Nat) (counts : List Nat) (dc : Nat) : Dev :=
  let d := d.each (List.range 12) fun d i => d.rateCluster (12 * die + i) (counts.getD i 0)
  let whole := d.freezes == .running && !bitOf d.rateDirty (24 + die)
  { d with rateDirty := d.rateDirty &&& (2 ^ 26 - 1 - (2 ^ 12 - 1) * 2 ^ (12 * die) - 2 ^ (24 + die)),
           rateAt := d.rateAt.set die (d.now (commonDom die)) 0,
           rateDc := if whole then d.rateDc.set die (rateOf dc) 0 else d.rateDc }

/-- Has a window of 2,500 ticks of the die's common timer passed since the last one ended. -/
def Dev.rateDue (d : Dev) (die : Nat) : Bool := decide (d.rateAt.get die 0 + 2500 ≤ d.now (commonDom die))

def execStepRateWindow (die : Fin 2) (counts : List Nat) (dc : Nat) (s : State) : Host.Outcome State Fault Refusal :=
  s.devEvent (fun d => d.vcore && d.rateDue die.val) (fun d => d.rateWindow die.val counts dc)

/-- CLR_MIN of GEN_STEP_RATE_k. -/
def Dev.clrMin (d : Dev) (k : Nat) : Dev :=
  d.setFld row_GEN_STEP_RATE k f_GEN_STEP_RATE_RATE_MIN (d.fld row_GEN_STEP_RATE k f_GEN_STEP_RATE_RATE)

def execClrMin (k : Fin 24) (s : State) : Host.Outcome State Fault Refusal := s.devStep fun d => d.clrMin k.val

end Sys2Proof.Machine
end

