-- ==== Sys2Proof/Machine/Objects.lean ====
section
/-! DEFINITION. Signed objects (R349, R350), the owner area of the flash (R352). -/
namespace Sys2Proof.Machine

/-! ### The container (R349) -/

/-- A signed object as bytes. -/
abbrev Obj := List Byte

/-- n bytes from byte a, least significant first. -/
def Obj.num (o : Obj) (a n : Nat) : Nat := leNat (slice o a n)
def Obj.type (o : Obj) : Nat := o.num 6 1
def Obj.signer (o : Obj) : Nat := o.num 7 1
def Obj.payLen (o : Obj) : Nat := o.num 8 4
def Obj.svn (o : Obj) : Nat := o.num 12 2
def Obj.handoffMin (o : Obj) : Nat := o.num 14 2
def Obj.handoffMax (o : Obj) : Nat := o.num 16 2
def Obj.handoffOut (o : Obj) : Nat := o.num 18 2
def Obj.version (o : Obj) : Nat := o.num 20 8
def Obj.bind_ (o : Obj) : List Byte := slice o 128 64
def Obj.payload (o : Obj) : List Byte := slice o 256 o.payLen
def Obj.sig (o : Obj) : List Byte := slice o (256 + o.payLen) 3392
/-- Bytes of header, payload and signature block. -/
def Obj.size (o : Obj) : Nat := 256 + o.payLen + 3392

/-- The SHA3-512 digest as 64 bytes. -/
def sha3Bytes (l : List Byte) : List Byte := natBytes (Config.sha3 l).toNat 64
/-- M of an object (R350). -/
def Obj.measure (o : Obj) : List Byte := sha3Bytes (slice o 0 256)

/-- The header rules: MAGIC, FORMAT, TYPE, SIGNER, reserved bytes, PAYLOAD_DIGEST, the fields of FIRMWARE zero elsewhere. -/
def Obj.headerOk (o : Obj) (ty : Nat) (signers : List Nat) : Bool :=
  o.num 0 4 == 0x4F535153 && o.num 4 2 == 1 && o.type == ty && signers.contains o.signer && o.payLen % 32 == 0 &&
    (slice o 28 36 ++ slice o 192 64).all (· = 0) && (ty == 1 || (slice o 12 16).all (· = 0)) &&
    o.length == o.size && slice o 64 64 == sha3Bytes o.payload && (o.sig.drop 3373).all (· = 0)

/-- The key set of a signer: the firmware root, or an owner slot that may be used (R350, R352). -/
def Sec.signerKey (x : Sec) (n : Nat) : Option (List Byte) := if n = 0 then some Config.rootDigest else if n ≤ 4 then x.slotKey (n - 1) else none

/-- Is the object bound to no device or to this one; TRIM must be bound. -/
def Obj.bindOk (o : Obj) (ty : Nat) : Bool := o.bind_ == deviceDigest || (ty ≠ 3 && o.bind_.all (· = 0))

/-- Verify an object of a type: 0, or the update status of what fails, in the order format, device, key, Ed25519, ML-DSA-65,
SVN (R350, R354, R362; the order is DEDUCED, log 22). A firmware payload is at most 4 MiB (R353). -/
def Sec.verifyBy (x : Sec) (key : Option (List Byte)) (o : Obj) (ty : Nat) (signers : List Nat) : Nat :=
  if !o.headerOk ty signers || (ty == 1 && decide (0x400000 < o.payLen)) then 0x243
  else if !o.bindOk ty then 0x24C
  else match key with
    | none => 0x24B
    | some k =>
      if !Config.ed25519Verify k o.measure (slice o.sig 0 64) then 0x240
      else if !Config.mldsaVerify k o.measure (slice o.sig 64 3309) then 0x241
      else if ty = 1 ∧ (64 < o.svn ∨ o.svn < x.svnFuse) then 0x242 else 0

/-- With the key set of its SIGNER. -/
def Sec.verify (x : Sec) (o : Obj) (ty : Nat) (signers : List Nat) : Nat := x.verifyBy (x.signerKey o.signer) o ty signers

/-! ### Objects in the flash (R353) -/

/-- The object at a flash offset that may take up to room bytes: its header says how long it is; where there is none, what
stands for the header. -/
def Dev.flashObj (d : Dev) (a room : Nat) : Obj :=
  let h : Obj := d.flashGet a 256
  if h.num 0 4 = 0x4F535153 then d.flashGet a (min h.size room) else h

/-- The firmware object of a slot, and the object of an owner slot, at 64 KiB each (log 22). -/
def Dev.fwObj (d : Dev) (b : Bool) : Obj := d.flashObj (flashSlot b) 0x1000000
def ownerAt (i : Nat) : Nat := flashOwner + 0x10000 * i
def Dev.ownerObj (d : Dev) (i : Nat) : Obj := d.flashObj (ownerAt i) 0x10000

/-- The key pair of an OWNER_KEY or IDENTITY_CERT payload, and its digest. -/
def Obj.keyDigest (o : Obj) : List Byte := sha3Bytes (slice o.payload 0 1984)

/-- Bits of flashBad: a firmware slot, the trim store, an owner slot. -/
def slotPart (b : Bool) : Nat := b2n b
def trimPart : Nat := 2
def ownerPart (i : Nat) : Nat := 4 + i

/-- A write has left a partition invalid, or it is valid again (R356). -/
def Sec.flashMark (x : Sec) (part : Nat) (bad : Bool) : Sec :=
  let m : BitVec 8 := BitVec.ofNat 8 (2 ^ part)
  { x with flashBad := if bad then x.flashBad ||| m else x.flashBad &&& ~~~ m }

/-- Which enrolled slots have a flash object whose key digest is the fused one (R352). -/
def State.keysCheck (s : State) : State :=
  let ok := fun i => s.sec.enrolled.getLsbD i && !s.sec.flashBad.getLsbD (ownerPart i) && (s.dev.ownerObj i).keyDigest == s.sec.digests.get i []
  { s with sec := { s.sec with keyOk := BitVec.ofNat 4 (((List.range 4).map fun i => b2n (ok i) * 2 ^ i).sum) } }

/-- n free bytes. -/
def Dev.freshBytes (d : Dev) : Nat → List Byte × Dev
  | 0 => ([], d)
  | n + 1 =>
    let (b, d) := d.fresh 8
    let (l, d) := d.freshBytes n
    (b :: l, d)

/-! ### The boot record (R348, R355, R409)

DESIGN CHOICE (log 22): the spec says what a copy holds and not where. A copy has 32 bytes: the sequence number in bytes 0 to 7, the slot
in bit 0 and SVN_PENDING in bit 1 of byte 8, the reset count in bytes 16 to 23, the CRC-32C of bytes 0 to 27 in bytes 28 to 31. The copies
stand at the start of each half of the partition. -/

/-- A boot record. -/
structure BootRec where
  seq : Nat := 0
  slotB : Bool := false
  pending : Bool := false
  resets : Nat := 0
  deriving DecidableEq, Repr

def BootRec.bytes (r : BootRec) : List Byte :=
  let b := natBytes r.seq 8 ++ natBytes (b2n r.slotB + 2 * b2n r.pending) 8 ++ natBytes r.resets 8 ++ natBytes 0 4
  b ++ natBytes (crc32c b).toNat 4

/-- The record of 32 bytes, where their CRC is right. -/
def recOf (l : List Byte) : Option BootRec :=
  if leNat (l.drop 28) ≠ (crc32c (l.take 28)).toNat then none else
  some { seq := leNat (slice l 0 8), slotB := bitOf (leNat (slice l 8 1)) 0, pending := bitOf (leNat (slice l 8 1)) 1,
         resets := leNat (slice l 16 8) }

/-- Copy i of the boot record. -/
def recAt (i : Nat) : Nat := 0x8000 * i
def Dev.recCopy (d : Dev) (i : Nat) : Option BootRec := recOf (d.flashGet (recAt i) 32)

/-- The copy in force: the valid one with the higher sequence. -/
def Dev.recInForce (d : Dev) : Option Nat :=
  match d.recCopy 0, d.recCopy 1 with
  | some a, some b => some (if a.seq < b.seq then 1 else 0)
  | some _, none => some 0
  | none, some _ => some 1
  | none, none => none

/-- The boot record; where no copy is valid, slot A and a count of 0 (DESIGN CHOICE, log 22). -/
def Dev.bootRec (d : Dev) : BootRec := (d.recInForce.bind d.recCopy).getD {}

/-- Write the record as the older copy, its sequence one higher. -/
def Dev.recPut (d : Dev) (r : BootRec) : Dev :=
  d.flashPut (recAt (d.recInForce.elim 0 (1 - ·))) ({ r with seq := d.bootRec.seq + 1 } : BootRec).bytes

end Sys2Proof.Machine
end

