-- ==== Sys2Proof/Machine/Freeze.lean ====
section
/-! DEFINITION. Freeze, capture and debug (R398 to R407), the TAP but for its MRS instruction. -/
namespace Sys2Proof.Machine

/-! ### Freeze and thaw (R398 to R406) -/

def execFreezeRequest (s : State) : Host.Outcome State Fault Refusal :=
  s.devStep fun d => ({ d with freezeN := true }).freezeCheck

/-- DBG_CTL.FREEZE and DBG_CTL.THAW. -/
def Dev.dbgFreeze (d : Dev) : Dev := ({ d with req := true }).freezeCheck
def Dev.dbgThaw (d : Dev) : Dev := ({ d with req := false }).freezeCheck

def execFreeze (s : State) : Host.Outcome State Fault Refusal := s.devStep Dev.dbgFreeze
def execThaw (s : State) : Host.Outcome State Fault Refusal := s.devStep Dev.dbgThaw
def execFreezeNRelease (s : State) : Host.Outcome State Fault Refusal :=
  s.devStep fun d => ({ d with freezeN := false }).freezeCheck

/-- A port sends a HOLD flit and enters HOLD unless it is the witness port (R398 step 4, R330). -/
def Dev.portHold (d : Dev) (p : Nat) : Dev :=
  let x := d.port p
  if (x.st == .active || x.st == .retrain) && !d.portWitness p then
    (if x.presents then d.sendFlits p [x.flit 3 0 false false []] else d).updPort p fun x => { x with st := .hold }
  else d

/-- Steps 2 to 5 of freeze entry; thaw begins at once where no cause is left. -/
def Dev.freezeDone (d : Dev) : Dev :=
  let d := d.each (List.range 100) Dev.toSelfRefresh
  let d := d.each (List.range 16) Dev.portHold
  ({ d with freezes := .frozen, before := if d.state == DevSt.frozen then d.before else d.state, state := DevSt.frozen }).freezeCheck

def execFreezeComplete (s : State) : Host.Outcome State Fault Refusal :=
  s.devEvent (fun d => d.freezes == .halting) Dev.freezeDone

/-- Controllers and pipelines resume (R405 steps 2 and 3). -/
def Dev.instThaw (d : Dev) (i : Nat) : Dev :=
  if (d.inst i).st == .selfRefresh && d.live (instDom i) && d.before ≠ .failed then
    if (d.inst i).pllLost then d.updInst i fun x => { x with st := .pause } else ((d.clockStart i).pausesRestart i).readAgain i
  else d

/-- A port in HOLD enters TRAIN with the effects of a port reset. -/
def Dev.portThaw (d : Dev) (p : Nat) : Dev :=
  if (d.port p).st == .hold then ((d.portResetEffects p).downCause p 7).enterTrain p else d

/-- The end of thaw: STATE as before, held work goes on. With a new cause the device freezes again before step 4. -/
def Dev.thawDone (d : Dev) : Dev :=
  let d := d.each (List.range 100) Dev.instThaw
  if d.freezeCause then d.freezeStart else
  let d := d.each (List.range 16) Dev.portThaw
  ({ d with freezes := .running, state := d.before, rateDirty := 2 ^ 26 - 1 }).evFlush.thawLink

/-! ### The saved state of a context (R188) -/

/-- Registers of a context; after a stop they hold free values until the next LAUNCH (R186). -/
def Ctx.sGet (x : Ctx) (i : Nat) : Word :=
  if i = 0 then 0 else x.s.get i (x.undef.elim 0 fun n => Config.free 64 (n + i))
def Ctx.pGet (x : Ctx) (i : Nat) : Bool :=
  i = 0 || (x.undef.elim x.p fun n => Config.free 8 (n + 64)).getLsbD i
def Ctx.tGet (x : Ctx) (i : Nat) : Gran := x.t.get i (x.undef.elim 0 fun n => Config.free 256 (n + 65 + i))

/-- PSTATE as a number. -/
def PState.code : PState → Nat
  | .idle => 0
  | .running => 1
  | .sleeping => 2

/-- What is left of the sleep timeout of context c, in µs (R188). -/
def Dev.sleepLeft (d : Dev) (c : Nat) : Nat :=
  let x := d.ctx c
  if x.ps == .sleeping then x.sleepUs - (d.lived (d.bedTimer (x.bed.getD 0)) - x.sleepFrom) / 250 else 0

/-- The state header; left is SLEEP_LEFT. -/
def Ctx.header (x : Ctx) (left : Nat) : Gran :=
  BitVec.ofNat 256 (x.pc.toNat + b2n x.resumeT * 2 ^ 48 + x.ps.code * 2 ^ 52 + x.flags.toNat * 2 ^ 59 + x.last.toNat * 2 ^ 67 +
    b2n x.wake.isSome * 2 ^ 96 + (x.wake.getD 0).toNat * 2 ^ 128 + left % 2 ^ 32 * 2 ^ 192)

/-- Granule j of control-area offsets 0x1000 to 0x17FF. -/
def Ctx.image (x : Ctx) (left j : Nat) : Gran :=
  if j = 0 then x.header left
  else if j < 17 then x.sGet (4 * j - 1) ++ x.sGet (4 * j - 2) ++ x.sGet (4 * j - 3) ++ x.sGet (4 * j - 4)
  else if j = 17 then BitVec.ofNat 256 (((List.range 8).map fun i => b2n (x.pGet i) * 2 ^ i).sum)
  else if j < 32 then 0 else x.tGet (j - 32)

/-! ### Capture (R404) -/

/-- Loam result code. -/
def LoamRes.code : LoamRes → Nat
  | .clean => 0
  | .ce _ => 1
  | .ue => 2

/-- A stored granule as a capture delivers it. -/
def capRead (c : Code) : Gran × Nat :=
  let r := loamDecode c
  (match r.1 with
    | .ue => codeData c
    | _ => r.2, r.1.code)

/-- Is granule ga of set s of a fenced set or a fenced domain (R404). -/
def Dev.capFenced (d : Dev) (s ga : Nat) : Bool :=
  d.setFenced s || (d.place s ga).elim true fun p => !d.live (instDom (instOfChan p.sub p.ch))

/-- Has metadata been lost in granule ga of set s (R300). -/
def Dev.metaBad (d : Dev) (s ga : Nat) : Bool := d.poisons.any fun e => e.2.kind == 3 && e.2.set == s && e.2.gaddr == ga

/-- Granule ga of a set, which holds what v says. One that an uncorrectable error has been found in, of metadata, holds what no one
knows. -/
def Dev.capSet (d : Dev) (s ga : Nat) (v : Gran × Nat) : (Gran × Nat) × Dev :=
  if d.capFenced s ga then ((0, 3), d)
  else if d.metaBad s ga then
    let (v, d) := d.fresh 256
    ((v, 2), d)
  else (v, d)

/-- Granule g of a capture at address a of a space: data and result. A core without a context holds free values. -/
def Dev.capGran (d : Dev) (space a g : Nat) : (Gran × Nat) × Dev :=
  match space with
  | 1 =>
    let x := bits a 0 28 + g / 2
    (d.descPlace x).elim ((0, 3), d) fun p => d.capSet p.1 (p.2 + g % 2) ((d.desc x).gran (g % 2), 0)
  | 2 =>
    let k := bits a 0 5
    if !d.live (clayDom k) then ((0, 3), d) else (capRead (d.clayGet (clayKey k (bits a 5 9) (bits a 14 11 + g))), d)
  | 3 =>
    let s := bits a 44 5
    let ga := bits a 0 44 + g
    match d.metaGran s ga with
    | some (_, none) => let (v, d) := d.fresh 256
                        d.capSet s ga (v, 0)
    | _ => d.capSet s ga (capRead (d.storedGet s ga))
  | _ =>
    let c := bits a 0 8
    if !d.live (coreDom c) then ((0, 3), d) else
    match (d.bedOfCluster (c / 8)).bind fun b => (d.bed b).cur with
    | some x => (((d.ctx x).image (d.sleepLeft x) (bits a 8 6 + g), 0), d)
    | none => let (v, d) := d.fresh 256
              ((v, 0), d)

/-- Does a capture of n granules lie within its space. -/
def Dev.capOk (d : Dev) (space a n : Nat) : Bool :=
  match space with
  | 1 => decide (a < 2 ^ 28 ∧ a + (n + 1) / 2 ≤ d.strat.elim 0 (·.eTotal))
  | 2 => decide (a < 2 ^ 25 ∧ bits a 0 5 < 24 ∧ bits a 5 9 < 320 ∧ bits a 14 11 + n ≤ 2048)
  | 3 => (d.set? (bits a 44 5)).elim false fun S => decide (bits a 0 44 + n ≤ S.grans)
  | 4 => decide (a < 2 ^ 14 ∧ bits a 0 8 < 192 ∧ bits a 8 6 + n ≤ 64)
  | _ => false

/-- A capture command has ended. -/
def Dev.capEnd (d : Dev) (r : Nat) : Dev :=
  (d.setFld row_DBG_CAP_CTL 0 f_DBG_CAP_CTL_DONE 1).setFld row_DBG_CAP_CTL 0 f_DBG_CAP_CTL_RESULT r

/-- One granule read into DBG_CAP_DATA and DBG_CAP_RESULT. -/
def Dev.capOne (d : Dev) (space a g : Nat) : Dev :=
  let ((v, r), d) := d.capGran space a g
  let d := d.each (List.range 4) fun d j => d.wr row_DBG_CAP_DATA (4 * g + j) (granWord v j)
  d.setFld row_DBG_CAP_RESULT (g / 32) ⟨2 * (g % 32) + 1, 2 * (g % 32), .ro, 0⟩ r

/-- READ of the capture engine. cmd other than 1 is refused. -/
def Dev.capture (d : Dev) (unlocked : Bool) (cmd : Nat) : Dev :=
  let space := d.fld row_DBG_CAP_ADDR 0 f_DBG_CAP_ADDR_SPACE
  let a := d.fld row_DBG_CAP_ADDR 0 f_DBG_CAP_ADDR_ADDRESS
  let n := d.fld row_DBG_CAP_CTL 0 f_DBG_CAP_CTL_COUNT
  if cmd ≠ 1 then d.capEnd 3
  else if d.freezes ≠ .frozen then d.capEnd 1
  else if !unlocked && decide (2 ≤ space ∧ space ≤ 4) then d.capEnd 2
  else if n = 0 ∨ 64 < n ∨ !d.capOk space a n then d.capEnd 3
  else (d.each (List.range n) fun d g => d.capOne space a g).capEnd 0

def execCaptureRead (s : State) : Host.Outcome State Fault Refusal := s.devStep fun d => d.capture s.sec.unlocked 1

/-! ### Debug unlock (R407) -/

def State.relock (s : State) : State := { s with sec := { s.sec with unlocked := false } }

/-- The nonce at reset and after every attempt comes from outside. -/
def State.setNonce (s : State) (n : List Byte) : State := { s with dev := { s.dev with nonce := n } }

def execRelock (s : State) : Host.Outcome State Fault Refusal := .next s.relock

/-- The result of an attempt: 1 OK, 2 BAD_SLOT, 3 and 4 the signatures. -/
def Sec.judgeToken (x : Sec) (n tok : List Byte) : Nat :=
  let m := natBytes (Config.sha3 (n ++ deviceDigest ++ [0x55])).toNat 64
  match x.slotKey (tok.getD 0 0).toNat with
  | none => 2
  | some k =>
    if (slice tok 1 7).any (· ≠ 0) then 2
    else if !Config.ed25519Verify k m (slice tok 8 64) then 3
    else if !Config.mldsaVerify k m (slice tok 72 3309) || (slice tok 3381 19).any (· ≠ 0) then 4 else 1

/-- An attempt to unlock; within the lockout it is refused. -/
def State.unlock (s : State) (tok nonce : List Byte) : State :=
  let r := if s.dev.unlockAt.isSome then 5 else s.sec.judgeToken s.dev.nonce tok
  let s := s.setNonce nonce
  let sec := { s.sec with unlockResult := r, unlocked := s.sec.unlocked || r == 1, used := s.sec.used || r == 1 }
  let at_ := if 2 ≤ r ∧ r ≤ 4 then some (s.dev.now (alwaysKey 0)) else s.dev.unlockAt
  { s with sec := sec, dev := { s.dev with unlockAt := at_ } }

/-- Is the TAP heard (R419). -/
def Dev.tapOn (d : Dev) : Bool := d.step ≠ .standby && (d.state ≠ .powerUp || d.resetN)

/-- Does the TAP take instructions: its pins are not ignored and TRST_N is high (R418). -/
def State.tapOn (s : State) : Bool := s.dev.tapOn && s.mgmt.trstN

def execUnlock (token nonce : List Byte) (s : State) : Host.Outcome State Fault Refusal :=
  if !s.tapOn then .next s else .next { s.unlock token nonce with mgmt := { s.mgmt with ir := 0x12 } }

def execUnlockLockoutExpiry (s : State) : Host.Outcome State Fault Refusal :=
  s.devEvent (fun d => d.unlockAt.elim false fun t => d.atLeast (alwaysKey 0) t 1000000000) (fun d => { d with unlockAt := none })

/-! ### The TAP (R401, R402) -/

/-- The pin levels in the order of the boundary register: RESET_N, PWROK, FREEZE_N, FAULT_N, THERM_TRIP_N, ALERT_N, BOOT_SEL. -/
def State.pins (s : State) : Byte :=
  let d := s.dev
  BitVec.ofNat 8 (b2n d.resetN + b2n d.pwrok * 2 + b2n (!d.freezeN) * 4 + b2n (!d.faultN) * 8 + b2n (!d.thermTrip) * 16 +
    b2n (s.pwr.causes = []) * 32 + s.mgmt.bootPin.toNat * 64)

/-- A TAP instruction: the register it selects, what is shifted out. -/
def State.tap (s : State) (ir : Byte) (out : Nat) : State :=
  if !s.tapOn then s else { s with dev := s.dev.emit (.tap out), mgmt := { s.mgmt with ir := ir } }

def execExtest (v : Byte) (s : State) : Host.Outcome State Fault Refusal :=
  if !s.tapOn then .next s else
  let s := s.tap 0x00 s.pins.toNat
  .next { s with mgmt := { s.mgmt with boundary := v } }

def execIdcode (s : State) : Host.Outcome State Fault Refusal := .next (s.tap 0x01 0x24E3856B)

def execSamplePreload (v : Byte) (s : State) : Host.Outcome State Fault Refusal :=
  if !s.tapOn then .next s else
  let s := s.tap 0x02 s.pins.toNat
  .next { s with mgmt := { s.mgmt with boundary := v } }

/-- The opcodes of R401 that select another register than the bypass register. -/
def tapOpcodes : List Byte := [0x00, 0x01, 0x02, 0x10, 0x11, 0x12]

/-- TRST_N at a level: low holds the TAP in Test-Logic-Reset, with IDCODE its instruction (R418, IEEE 1149.1). -/
def State.trst (s : State) (high : Bool) : State :=
  { s with mgmt := { s.mgmt with trstN := high, ir := if high then s.mgmt.ir else 0x01 } }

/-- The bypass register captures 0; the bit shifted in follows it. Reserved opcodes select it too. -/
def execBypass (b : BypassAt) (s : State) : Host.Outcome State Fault Refusal :=
  .next (if !s.dev.tapOn || tapOpcodes.contains b.op then s else (s.trst b.trstN).tap b.op (2 * b2n b.bit))

/-- An area of FLASH: offset and size. -/
def tapArea (area : Nat) : Nat × Nat :=
  match area with
  | 0 => (flashSlot false, 2 ^ 24)
  | 1 => (flashSlot true, 2 ^ 24)
  | 2 => (flashStratum, 2 ^ 20)
  | _ => (flashOwner, 2 ^ 18)

/-- The partition of flashBad that a FLASH access of an area bears on; the stratum area has none. -/
def tapPart (area off : Nat) : Option Nat :=
  match area with
  | 0 | 1 => some (slotPart (area == 1))
  | 3 => some (ownerPart (off / 0x10000))
  | _ => none

/-- FLASH: status 0 done, 2 refused, and the data of a READ. Erasing a partition that a write has left invalid makes it what is then
programmed into it (DESIGN CHOICE, log 22). -/
def State.tapFlash (s : State) (op area off : Nat) (data : Gran) : State :=
  let (base, size) := tapArea area
  let ok := (s.dev.state == .boot || s.dev.state == .frozen) && decide (1 ≤ op ∧ op ≤ 3) &&
    decide (off + (if op = 1 then 1 else 32) ≤ size)
  let (st, v, d) := if !ok then (2, s.mgmt.flashData, s.dev) else match op with
    | 1 => (0, s.mgmt.flashData, s.dev.flashErase (base + off / 65536 * 65536) 65536)
    | 2 => (0, s.mgmt.flashData, s.dev.flashPut (base + off) (granBytes data))
    | _ => (0, (s.dev.flashGrans (base + off) 1).getD 0 0, s.dev)
  let x := if ok && op == 1 then (tapPart area off).elim s.sec (s.sec.flashMark · false) else s.sec
  let s : State := { s with dev := d.emit (.tap (v.toNat + st * 2 ^ 286)), sec := x,
                            mgmt := { s.mgmt with ir := 0x11, flashStatus := st, flashData := v } }
  s.keysCheck

def execTapFlash (op area : Fin 4) (off : BitVec 24) (data : Gran) (s : State) : Host.Outcome State Fault Refusal :=
  .next (if s.tapOn then s.tapFlash op.val area.val off.toNat data else s)

end Sys2Proof.Machine
end

