-- ==== Sys2Proof/Machine/Update.lean ====
section
/-! DEFINITION. Update (R354 to R363): staging of objects, attestation, activation. -/
namespace Sys2Proof.Machine

/-! ### Regions as source and destination (R356) -/

/-- Pair 0 as an agent. -/
def marlAgent : Agent := firmAgent 0

/-- The extents of n granules of region r from region index f on: (extent, granules); none where they lie beyond the region. -/
def Dev.regionExts (d : Dev) (r f n : Nat) : Option (List (Nat × Nat)) :=
  ((List.range ((n + 2047) / 2048)).mapM fun i => (mapAt (d.rgn r).runs (f + i)).map fun x => (x, min 2048 (n - 2048 * i)))

/-- Read extents one after another. -/
def Dev.extsRead (d : Dev) (ph : Phys) : List (Nat × Nat) → Option (List Gran) × Dev
  | [] => (some [], d)
  | (x, n) :: t =>
    let (l, d) := d.readExtent marlAgent ph x (splitBlocks 0 n)
    let (m, d) := d.extsRead ph t
    (match l, m with
      | some l, some m => some (l ++ m)
      | _, _ => none, d)

/-- Write granules to extents one after another: 0 or the status of the first write that fails. -/
def Dev.extsWrite (d : Dev) (ph : Phys) : List (Nat × Nat) → List Gran → Nat × Dev
  | [], _ => (0, d)
  | (x, n) :: t, gs =>
    if (d.desc x).ro then (0x05, d) else
    match d.writeExtent marlAgent ph x (mkWrites 0 (gs.take n) []) with
    | (0, d) => d.extsWrite ph t (gs.drop n)
    | r => r

/-- Erase and write a partition; one whose programming fails holds free values where it was to be written (log 22). -/
def Dev.flashStore (d : Dev) (a room : Nat) (l : List Byte) (ok : Bool) : Dev :=
  let d := d.flashErase a room
  if ok then d.flashPut a l else
  let (l, d) := d.freshBytes l.length
  d.flashPut a l

/-! ### Attestation (R357) -/

/-- The trim partition, and its digest. -/
def Dev.trimBytes (d : Dev) : List Byte := d.flashGet flashTrim 0x80000

/-- The payload of a report. -/
def State.reportPayload (s : State) (nonce : List Byte) : List Byte :=
  let d := s.dev
  let x := s.sec
  let z := fun n => natBytes 0 n
  let g := d.strat
  nonce ++ deviceDigest ++ x.runMeas.take 64 ++ z (64 - x.runMeas.length) ++ natBytes x.runSvn 2 ++ natBytes x.svnFuse 2 ++
    natBytes x.runVersion.toNat 8 ++ z 4 ++ g.elim (z 64) (·.digest) ++ natBytes (g.elim 0 (·.id.toNat)) 8 ++
    natBytes (b2n (g.elim false (·.safe)) + 2 * b2n d.memKept) 1 ++ z 7 ++ sha3Bytes d.trimBytes ++
    natBytes (b2n (!x.trimWritten) + 2 * b2n x.trimAbsent) 1 ++ z 7 ++ d.fm.elim (z 64) (·.key) ++ natBytes (b2n d.fm.isSome) 1 ++
    natBytes (b2n x.used + 2 * b2n x.unlocked) 1 ++ z 6 ++ natBytes d.resets 8 ++
    natBytes (x.enrolled.toNat + x.revoked.toNat * 16) 1 ++ z 7

/-- The report: an object of TYPE 0x05 and SIGNER 0xFF, signed with the identity keys. -/
def State.report (s : State) (nonce : List Byte) : List Byte :=
  let p := s.reportPayload nonce
  let h := natBytes 0x4F535153 4 ++ natBytes 1 2 ++ natBytes 0x05 1 ++ natBytes 0xFF 1 ++ natBytes 448 4 ++ natBytes 0 52 ++
    sha3Bytes p ++ natBytes 0 128
  let m := sha3Bytes h
  let sig := fun k n => natBytes (leNat (Config.deviceSign k m)) n
  h ++ p ++ sig 1 64 ++ sig 2 3309 ++ natBytes 0 19

/-! ### UPDATE_STAGE (R356) -/

def State.updEnd (s : State) (ref : CmdRef) (st r0 : Nat) : State := s.onDev fun d => d.updEnd ref st r0

/-- Fields of the command. -/
def Entry.target (e : Entry) : Nat := bits (e.arg 0) 0 4
def Entry.readout (e : Entry) : Bool := bitOf (e.arg 0) 4
def Entry.index (e : Entry) : Nat := bits (e.arg 0) 8 6

/-- Arguments that the table of R356 permits. -/
def stageArgs (e : Entry) : Bool :=
  let t := Entry.target e
  let w := !Entry.readout e
  decide (1 ≤ t ∧ t ≤ 5) && (t == 4 || Entry.index e == 0) && !(t == 2 && !w) && !(t == 5 && w) && e.arg 3 % 32 == 0 &&
    (w || e.arg 3 == 0) && (t ≠ 4 || decide (e.arg 3 ≤ 0x300000))

/-- An OWNER_KEY object that R352 lets take effect: its slot and operation. -/
def Sec.ownerRule (x : Sec) (o : Obj) : Option (Nat × Nat) :=
  let slot := o.num (256 + 1984) 1
  let op := o.num (256 + 1985) 1
  let usable := (List.range 4).filter fun i => (x.slotKey i).isSome
  if o.payLen ≠ 2016 || (slice o (256 + 1986) 30).any (· ≠ 0) || 4 ≤ slot then none
  else if op = 1 then (if x.enrolled.getLsbD slot then none else some (slot, 1))
  else if op = 2 then
    (if o.signer = slot + 1 ∨ !x.enrolled.getLsbD slot ∨ (usable.filter (· ≠ slot)).isEmpty then none else some (slot, 2))
  else none

/-- The fuses that an OWNER_KEY object blows. -/
def Sec.ownerFuse (x : Sec) (o : Obj) (slot op : Nat) : Sec :=
  let m : BitVec 4 := BitVec.ofNat 4 (2 ^ slot)
  if op = 1 then { x with enrolled := x.enrolled ||| m, digests := x.digests.set slot o.keyDigest [] }
  else { x with revoked := x.revoked ||| m }

/-- Where a write of TARGET t with INDEX or owner slot i goes: offset, room, its bit of flashBad; an entry of the plan store has none. -/
def Sec.stagePlace (x : Sec) (t i : Nat) : Nat × Nat × Option Nat :=
  match t with
  | 1 => (flashSlot (!x.slotB), 0x1000000, some (slotPart (!x.slotB)))
  | 2 => (ownerAt i, 0x10000, some (ownerPart i))
  | 3 => (flashTrim, 0x80000, some trimPart)
  | _ => (flashPlans + 0x300000 * i, 0x300000, none)

/-- A write starts: what it goes over is erased, and invalid until the write ends (R356); a plan store entry is empty until then.
STAGE_WRITE_COMPLETE ends the write of every target (log 22). -/
def State.writeStart (s : State) (ref : CmdRef) (t i : Nat) (gs : List Gran) (flashOk fuseOk : Bool) : State :=
  let (a, room, part) := s.sec.stagePlace t i
  let d := s.dev.flashErase a room
  let x := part.elim { s.sec with planLen := s.sec.planLen.set i 0 0 } (s.sec.flashMark · true)
  let u := { d.upd with
    cmd := some ref, buf := gs, write := some (t, i), flashOk := flashOk, fuseOk := fuseOk, st := if t = 1 then .staging else d.upd.st }
  ({ s with dev := { d with upd := u }, sec := { x with stagedV := x.stagedV && t ≠ 1 } } : State).keysCheck

/-- A firmware object is written to the slot that is not in force: STAGING. -/
def State.stageFw (s : State) (ref : CmdRef) (o : Obj) (gs : List Gran) (flashOk : Bool) : State :=
  let st := s.sec.verify o 1 [0]
  if st ≠ 0 then s.updEnd ref st 0 else s.writeStart ref 1 0 gs flashOk true

/-- An OWNER_KEY object. -/
def State.stageOwner (s : State) (ref : CmdRef) (o : Obj) (gs : List Gran) (flashOk fuseOk : Bool) : State :=
  let st := s.sec.verify o 2 [1, 2, 3, 4]
  if st ≠ 0 then s.updEnd ref st 0 else
  match s.sec.ownerRule o with
  | none => s.updEnd ref 0x24B 0
  | some (slot, _) => s.writeStart ref 2 slot gs flashOk fuseOk

/-- A TRIM object: the FACTORY_ORIGINAL fuse is cleared before the store is changed. -/
def State.stageTrim (s : State) (ref : CmdRef) (o : Obj) (gs : List Gran) (flashOk fuseOk : Bool) : State :=
  let st := s.sec.verify o 3 [1, 2, 3, 4]
  if st ≠ 0 then s.updEnd ref st 0
  else if 0x80000 < o.size then s.updEnd ref 0x243 0
  else if !s.sec.trimWritten && !fuseOk then s.updEnd ref 0x24E 0
  else ({ s with sec := { s.sec with trimWritten := true } } : State).writeStart ref 3 0 gs flashOk true

/-- What a readout gives, as bytes; ATTEST is the report over a nonce. -/
def State.readoutOf (s : State) (t i : Nat) : List Byte :=
  match t with
  | 1 => s.dev.fwObj s.sec.slotB
  | 3 => s.dev.trimBytes
  | _ => s.dev.flashGet (flashPlans + 0x300000 * i) (s.sec.planLen.get i 0)

/-- Bytes into the region: UPDATE_SOURCE where they do not fit; a write that fails gives its own status (log 22). -/
def State.stageOut (s : State) (ref : CmdRef) (ph : Phys) (e : Entry) (l : List Byte) : State :=
  let n := (l.length + 31) / 32
  match s.dev.regionExts (e.arg 1) (e.arg 2) n with
  | none => s.updEnd ref 0x244 0
  | some xs =>
    let (st, d) := s.dev.extsWrite ph xs (bytesGrans l n)
    ({ s with dev := d }).updEnd ref st (if st = 0 then l.length else 0)

/-- A write: its bytes are read from the region, then its target takes them. -/
def State.stageIn (s : State) (ref : CmdRef) (ph : Phys) (e : Entry) (flashOk fuseOk : Bool) : State :=
  let n := e.arg 3 / 32
  match s.dev.regionExts (e.arg 1) (e.arg 2) n with
  | none => s.updEnd ref 0x244 0
  | some xs => match s.dev.extsRead ph xs with
    | (none, d) => ({ s with dev := d }).updEnd ref 0x244 0
    | (some gs, d) =>
      let s : State := { s with dev := d }
      let l := gransBytes gs
      match Entry.target e with
      | 1 => s.stageFw ref l gs flashOk
      | 2 => s.stageOwner ref l gs flashOk fuseOk
      | 3 => s.stageTrim ref l gs flashOk fuseOk
      | _ => s.writeStart ref 4 (Entry.index e) gs flashOk true

/-- ATTEST: the nonce is read from the location that the report is written over. -/
def State.stageAttest (s : State) (ref : CmdRef) (ph : Phys) (e : Entry) : State :=
  match (s.dev.regionExts (e.arg 1) (e.arg 2) 128).bind fun _ => s.dev.regionExts (e.arg 1) (e.arg 2) 2 with
  | none => s.updEnd ref 0x244 0
  | some xs => match s.dev.extsRead ph xs with
    | (none, d) => ({ s with dev := d }).updEnd ref 0x244 0
    | (some gs, d) =>
      let s : State := { s with dev := d }
      s.stageOut ref ph e (s.report (gransBytes gs))

/-- Is an update command in progress: one in hand, a write or the fuses of a raise among them. -/
def Upd.busy (u : Upd) : Bool := u.cmd.isSome || u.st == .staging || u.st == .deferred || u.st == .activating

def State.updateStage (s : State) (ref : CmdRef) (ph : Phys) (e : Entry) (flashOk fuseOk : Bool) : State :=
  if !stageArgs e then s.updEnd ref 0x201 0
  else if s.dev.upd.busy then s.updEnd ref 0x24A 0
  else if (s.dev.rgn (e.arg 1)).st ≠ .active then s.updEnd ref 0x244 0
  else if Entry.target e = 5 then s.stageAttest ref ph e
  else if Entry.readout e then s.stageOut ref ph e (s.readoutOf (Entry.target e) (Entry.index e))
  else s.stageIn ref ph e flashOk fuseOk

/-- Does the location that a readout or a report is written to hold an extent that is MOVING: the write waits (R78). -/
def State.stageWaits (s : State) (e : Entry) : Bool :=
  let n := if Entry.target e = 5 then 128 else ((s.readoutOf (Entry.target e) (Entry.index e)).length + 31) / 32
  (Entry.readout e || Entry.target e == 5) &&
    (s.dev.regionExts (e.arg 1) (e.arg 2) n).elim false fun l => l.any fun x => (s.dev.desc x.1).st == .moving

def execUpdateStage (q : Queue) (e : Entry) (flashOk fuseOk : Bool) (ph : Phys) (s : State) : Host.Outcome State Fault Refusal :=
  if s.stageWaits e then .next s else s.cmd 0x29 q e (fun ref _ s => s.updateStage ref ph e flashOk fuseOk)

/-- What a target's write leaves beside the flash: a staged image, fuses, the length of a plan store entry. -/
def Sec.writeLeft (x : Sec) (t i : Nat) (l : List Byte) (ok fuseOk : Bool) : Sec :=
  match t with
  | 1 => { x with stagedV := ok }
  | 2 => if ok && fuseOk then x.ownerFuse l i (Obj.num l (256 + 1985) 1) else x
  | 3 => x
  | _ => if ok then { x with planLen := x.planLen.set i l.length 0 } else x

/-- A write ends: programming and the comparison of what is read back have succeeded or failed (R356, R359, R362). -/
def State.writeEnd (s : State) (ref : CmdRef) (t i : Nat) (ok : Bool) : State :=
  let u := s.dev.upd
  let l := gransBytes u.buf
  let ok := ok && u.flashOk
  let (a, room, part) := s.sec.stagePlace t i
  let d := s.dev.flashStore a room l ok
  let x := part.elim s.sec (s.sec.flashMark · (!ok))
  let v := { u with cmd := none, buf := [], write := none, st := if t = 1 then (if ok then UpdSt.staged else UpdSt.idle) else u.st }
  let st := if !ok then 0x245 else if t = 2 ∧ !u.fuseOk then 0x24E else 0
  (({ s with dev := { d with upd := v }, sec := x.writeLeft t i l ok u.fuseOk } : State).keysCheck).updEnd ref st
    (if st = 0 then l.length else 0)

def State.writeDone (s : State) (ok : Bool) : State :=
  match s.dev.upd.write, s.dev.upd.cmd with
  | some (t, i), some ref => s.writeEnd ref t i ok
  | _, _ => s

def execStageWriteComplete (ok : Bool) (s : State) : Host.Outcome State Fault Refusal :=
  .next (if s.dev.serving && s.dev.upd.write.isSome then (s.writeDone ok).onDev Dev.finish else s)

/-! ### Activation (R358, R359) -/

/-- The object in the slot that is not in force. -/
def State.stagedObj (s : State) : Obj := s.dev.fwObj (!s.sec.slotB)

/-- W in ms. -/
def windowMs (v : Nat) : Nat := if v = 0 then 10000 else v

/-- Step 2: DEFERRED, with an interim completion and the event. -/
def Dev.updDefer (d : Dev) : Dev :=
  match d.upd.cmd with
  | none => d
  | some ref =>
    if d.upd.st ≠ .staged then d else
    let d := { d with upd := { d.upd with st := .deferred } }
    (d.complete ref 0x24D 0 0 0 false).event none 0x20 0 d.upd.window

def State.activate (s : State) (ref : CmdRef) (e : Entry) : State :=
  let w := e.arg 1
  let o := s.stagedObj
  if !(w = 0 ∨ (100 ≤ w ∧ w ≤ 60000)) then s.updEnd ref 0x201 0
  else if !s.sec.stagedV then s.updEnd ref 0x246 0
  else if s.sec.handoffOut < o.handoffMin ∨ o.handoffMax < s.sec.handoffOut then s.updEnd ref 0x247 0
  else if s.dev.marlUp ≠ 3 then s.updEnd ref 0x24F 0
  else if s.dev.staging.isSome || s.dev.upd.busy then s.updEnd ref 0x24A 0
  else
    let u := { s.dev.upd with
      cmd := some ref, raise := bitOf (e.arg 0) 0, window := windowMs w, since := s.dev.lived (commonDom 0) }
    let s : State := { s with dev := { s.dev with upd := u } }
    if s.emergency then s.onDev Dev.updDefer else s

def execUpdateActivate (q : Queue) (e : Entry) (s : State) : Host.Outcome State Fault Refusal :=
  s.cmd 0x2A q e (fun ref _ s => s.activate ref e)

/-- An activation waits for its pause. -/
def Upd.waits (u : Upd) : Bool := u.cmd.isSome && u.write.isNone && (u.st == .staged || u.st == .deferred)

/-- Is the window of a DEFERRED activation over for certain: 1.2 × W (R358 step 7). -/
def Dev.windowOver (d : Dev) : Bool :=
  d.upd.st == .deferred && decide (d.upd.since + d.most (d.upd.window * 1200000) < d.lived (commonDom 0))

/-- Have the 4 ms of step 6 passed. -/
def Dev.handoffLate (d : Dev) : Bool := decide (d.upd.since + d.most 4000000 < d.lived (commonDom 0))

/-! ### The handoff block (R361)

DESIGN CHOICE (log 22): it stands in the firmware working area after the poison table, its nine sections in the order of their types, one
granule each, their contents, SVER and REQUIRED free: the spec says what they carry and gives no layout. -/

def blockLen : Nat := 13

/-- Granule i of the block in memory. -/
def Dev.blockPlace (d : Dev) (i : Nat) : Option (Nat × Nat) := d.fixedPlace 0 (workOff + i)

/-- A directory entry: TYPE k, one granule; SVER and REQUIRED as f says. -/
def handEntry (k : Nat) (f : BitVec 16) : BitVec 64 := BitVec.ofNat 64 (k + f.toNat % 512 * 2 ^ 8 + 2 ^ 32)

/-- The words of the header below DIGEST: MAGIC, VERSION; FROM_SVN, SECTION_COUNT, LENGTH; SEQUENCE. -/
def handHeader (version svn len seq : Nat) : BitVec 192 :=
  BitVec.ofNat 192 (0x4F485153 + version % 65536 * 2 ^ 32 + svn % 65536 * 2 ^ 64 + 9 * 2 ^ 80 + len % 2 ^ 32 * 2 ^ 96 + seq % 2 ^ 32 * 2 ^ 128)

/-- DIGEST: of header bytes 0 to 23 and the granules after the header. -/
def handDigest (low : BitVec 192) (t : List Gran) : BitVec 64 :=
  BitVec.ofNat 64 (leNat ((sha3Bytes (natBytes low.toNat 24 ++ gransBytes t)).take 8))

/-- n free values. -/
def Dev.freshList (d : Dev) (w : Nat) : Nat → List (BitVec w) × Dev
  | 0 => ([], d)
  | n + 1 =>
    let (b, d) := d.fresh w
    let (l, d) := d.freshList w n
    (b :: l, d)

/-- The block that the old image writes. -/
def State.handBlock (s : State) : List Gran × Dev :=
  let (fs, d) := s.dev.freshList 16 9
  let (secs, d) := d.freshList 256 9
  let es := (List.range 9).map fun k => handEntry (k + 1) (fs.getD k 0)
  let w := fun i => es.getD i 0
  let dirs : List Gran := [w 3 ++ w 2 ++ w 1 ++ w 0, w 7 ++ w 6 ++ w 5 ++ w 4, BitVec.ofNat 256 (w 8).toNat]
  let low := handHeader s.sec.handoffOut s.sec.runSvn blockLen s.dev.upd.activations
  ((handDigest low (dirs ++ secs) ++ low) :: (dirs ++ secs), d)

/-- Write granules to the block's place from granule i on; a fenced set takes none. -/
def Dev.blockPut (d : Dev) (i : Nat) : List Gran → Dev
  | [] => d
  | g :: t => ((d.blockPlace i).elim d fun p => if d.setFenced p.1 then d else d.memWrite p.1 p.2 g).blockPut (i + 1) t

/-- Granule i of the block as a reader finds it: none in a fenced set and where its codeword cannot be corrected. -/
def Dev.blockGet (d : Dev) (i : Nat) : Option Gran :=
  (d.blockPlace i).bind fun p => if d.setFenced p.1 then none else
    match loamDecode (d.memGet p.1 p.2) with
    | (.ue, _) => none
    | (_, g) => some g

/-- Why the new image refuses the block by its header: 3 MAGIC or DIGEST is wrong or a granule cannot be read, 4 VERSION lies outside what
it takes; 0 nothing. -/
def State.handFault (s : State) : Nat :=
  match (List.range s.dev.upd.block).mapM s.dev.blockGet with
  | some (h :: t) =>
    let v := bits h.toNat 32 16
    let o : Obj := s.dev.upd.sram
    if bits h.toNat 0 32 ≠ 0x4F485153 ∨ handDigest (h.setWidth 192) t ≠ BitVec.ofNat 64 (bits h.toNat 192 64) then 3
    else if v < o.handoffMin ∨ o.handoffMax < v then 4 else 0
  | _ => 3

/-- Steps 3 to 5: the staged object is copied into SRAM and verified again; where it verifies, the control path pauses and the old image
writes the block. -/
def State.pause (s : State) : State :=
  match s.dev.upd.cmd with
  | none => s
  | some ref =>
    let o := s.stagedObj
    let st := s.sec.verify o 1 [0]
    let d := s.dev
    if st ≠ 0 then ({ s with dev := { d with upd := { d.upd with st := .staged, cmd := none } } }).updEnd ref st 0
    else
      let (b, d) := s.handBlock
      let u := { d.upd with st := UpdSt.activating, paused := true, since := d.lived (commonDom 0), sram := o, block := b.length }
      { s with dev := ({ d with upd := u } : Dev).blockPut 0 b }

def execActivationPause (s : State) : Host.Outcome State Fault Refusal :=
  if s.dev.serving && s.dev.upd.waits && !s.emergency && !s.dev.windowOver then .next (s.pause.onDev Dev.finish) else .next s

/-- SVN_PENDING of the boot record. -/
def Dev.recPending (d : Dev) (on : Bool) : Dev := d.recPut { d.bootRec with pending := on }

/-- Step 6: the image that SRAM holds runs, and the boot record names its slot. With RAISE_SVN and a higher SVN, SVN_PENDING is set and the
fuses are blown, one in each tick (log 22), before the command completes; where one does not blow, the raise stays pending (R355). -/
def State.accept (s : State) (ref : CmdRef) (fuseOk : Bool) : State :=
  let d := s.dev
  let o : Obj := d.upd.sram
  let us := (d.lived (commonDom 0) - d.upd.since) / 250
  let up := d.upd.raise && decide (s.sec.svnFuse < o.svn)
  let x := { s.sec with
    slotB := !s.sec.slotB, stagedV := false, runSvn := o.svn,
    runVersion := BitVec.ofNat 64 o.version, runMeas := o.measure, handoffOut := o.handoffOut }
  let burns := up && fuseOk
  let d := d.recPut { d.bootRec with slotB := !s.sec.slotB, pending := up }
  let d := { d with upd := { d.upd with
    st := .idle, cmd := if burns then some ref else none, burn := if burns then some o.svn else none, sram := [],
    activations := (d.upd.activations + 1) % 65536 } }
  let d := d.resume.event none 0x21 0 (o.svn + s.sec.handoffOut % 65536 * 2 ^ 16 + us % 2 ^ 32 * 2 ^ 32)
  let s : State := { s with dev := d, sec := x }
  if burns then s else s.updEnd ref (if up then 0x24E else 0) 0

/-- The fuses stand at the new SVN: SVN_PENDING is cleared and the command completes. -/
def State.burnEnd (s : State) (n : Nat) : State := s.onDev fun d =>
  ({ d.recPending false with upd := { d.upd with burn := none, cmd := none } } : Dev).event none 0x26 0 n

/-- One fuse of a raise is blown: while a Marl pair runs firmware and the device is not frozen. -/
def State.burnTick (s : State) : State :=
  match s.dev.upd.burn, s.dev.upd.cmd with
  | some n, some ref =>
    if s.dev.freezes ≠ .running ∨ s.dev.marlUp = 0 then s else
    let s : State := { s with sec := { s.sec with svnFuse := s.sec.svnFuse + 1 } }
    if s.sec.svnFuse < n then s else (s.burnEnd n).updEnd ref 0 0
  | _, _ => s

/-- A tick of the local timers, and of what firmware does by itself. -/
def State.tick (s : State) : State := (s.onDev Dev.tick).burnTick

/-- Step 6′: the old image goes on. -/
def Dev.updRefuse (d : Dev) (reason : Nat) : Dev :=
  match d.upd.cmd with
  | none => d
  | some ref =>
    let d := ({ d with upd := { d.upd with st := .staged, cmd := none, sram := [] } }).resume
    (d.updEnd ref 0x248 reason).event none 0x22 0 (reason % 256)

/-- The reason of R361 with which the new image refuses: what the block's header gives, else what its own reading of the block gives (3, 5
or 6); 0 where it accepts. -/
def State.handReason (s : State) (own : Nat) : Nat := if s.handFault ≠ 0 then s.handFault else own

/-- The new image's answer. -/
def execHandoffAccept (h : HandoffAt) (s : State) : Host.Outcome State Fault Refusal :=
  match s.dev.upd.cmd with
  | none => .next s
  | some ref =>
    if !(s.dev.working && s.dev.upd.st == .activating && !s.dev.handoffLate && [0, 3, 5, 6].contains h.reason) then .next s
    else if s.handReason h.reason = 0 then .next ((s.accept ref h.fuseOk).onDev Dev.finish)
    else .next (s.onDev fun d => (d.updRefuse (s.handReason h.reason)).finish)

/-- The bound of step 6 ends. The reason that RESULT0 then gives is not stated: a free value (log 22). -/
def execHandoffTimeout (s : State) : Host.Outcome State Fault Refusal :=
  s.devEvent (fun d => d.working && d.upd.st == .activating && decide (d.upd.since + d.most 4000000 ≤ d.lived (commonDom 0)))
    (fun d => let (r, d) := d.fresh 8
              d.updRefuse r.toNat)

def execActivationWindowExpiry (s : State) : Host.Outcome State Fault Refusal :=
  s.devEvent (fun d => d.working && d.upd.st == .deferred && d.ran (commonDom 0) d.upd.since (d.upd.window * 1000000))
    (fun d => d.updAbandon 1)

end Sys2Proof.Machine
end

