-- ==== Sys2Proof/Machine/Power.lean ====
section
/-! DEFINITION. Power and heat (R381 to R397): limits, the governor, emergencies, trips, canaries, bed gating. -/
namespace Sys2Proof.Machine

/-! ### Limits (R383, R397) -/

def Pwr.vmax (p : Pwr) : Nat := bits p.ctl.toNat 0 10
def Pwr.plW (p : Pwr) : Nat := bits p.ctl.toNat 16 12
def Pwr.guard_ (p : Pwr) : Nat := bits p.ctl.toNat 32 8
def Pwr.thermEmerg (p : Pwr) : Nat := bits p.ctl.toNat 40 8
def Pwr.bedGate (p : Pwr) : Bool := bitOf p.ctl.toNat 48

/-- VMAX_EFF, TARGET of a die, PL_EFF. -/
def Pwr.vmaxEff (p : Pwr) : Nat := min 800 p.vmax
def Pwr.targetOf (p : Pwr) (die : Nat) : Nat := p.target.get die 750
def Dev.stratumPl (d : Dev) : Nat := d.strat.elim 0 (·.powerLimit)
def State.plEff (s : State) : Nat :=
  let lim := fun a b => if b = 0 then a else min a b
  lim (lim 1750 s.dev.stratumPl) s.pwr.plW

/-- One field of PWR_CTL taken from a write where its value is permitted. -/
def ctlField (old new : Word) (lo len : Nat) (ok : Nat → Bool) : Word :=
  let v := bits new.toNat lo len
  if ok v then (old &&& ~~~ BitVec.ofNat 64 ((2 ^ len - 1) * 2 ^ lo)) ||| BitVec.ofNat 64 (v * 2 ^ lo) else old

/-- A write of PWR_CTL: each field by its range; none above its fused value or the stratum's (R9, R383). -/
def State.pwrCtl (s : State) (v : Word) : State :=
  let c := s.pwr.ctl
  let c := ctlField c v 0 10 fun x => decide (700 ≤ x ∧ x ≤ 800)
  let c := ctlField c v 16 12 fun x =>
    x == 0 || (decide (400 ≤ x ∧ x ≤ 1750) && (s.dev.stratumPl == 0 || decide (x ≤ s.dev.stratumPl)))
  let c := ctlField c v 32 8 fun x => decide (10 ≤ x ∧ x ≤ 200)
  let c := ctlField c v 40 8 fun x => decide (85 ≤ x ∧ x ≤ 105)
  let c := ctlField c v 48 1 fun _ => true
  { s with pwr := { s.pwr with ctl := c } }

/-- A write of PWR_VCORE_d: TARGET within 700 mV to VMAX_EFF. -/
def State.pwrTarget (s : State) (die : Nat) (v : Word) : State :=
  let t := bits v.toNat 0 10
  if 700 ≤ t ∧ t ≤ s.pwr.vmaxEff then { s with pwr := { s.pwr with target := s.pwr.target.set die t 750 } } else s

def pwrCtlAddr : Nat := 0x1100000
def pwrVcoreAddr (die : Nat) : Nat := 0x1100100 + 8 * die

/-- A write to one of the PWR registers; the others have no writable field. -/
def State.pwrWrite (s : State) (a : Nat) (v : Word) : State :=
  if a = pwrCtlAddr then s.pwrCtl v
  else if a = pwrVcoreAddr 0 then s.pwrTarget 0 v
  else if a = pwrVcoreAddr 1 then s.pwrTarget 1 v
  else s

def execPwrCtlWrite (addr : BitVec 32) (v : Word) (s : State) : Host.Outcome State Fault Refusal := .next (s.pwrWrite addr.toNat v)

/-! ### Bed gating (R388, R396) -/

/-- Contexts that are not FREE and assigned to a bed. -/
def Dev.assigned (d : Dev) (b : Nat) : Nat := (d.ctxs.filter fun e => e.2.st ≠ .free && e.2.bed == some b).length

/-- While BED_GATE is 1 the domains of unassigned beds are off; ASSIGN_BEDs that waited for an open gate go on. -/
def State.bedGates (s : State) : State :=
  let d := if s.pwr.bedGate then
      s.dev.each ((List.range 8).filter fun b => s.dev.assigned b = 0 && !s.dev.assignq.any fun a => a.2.2.1 == b) fun d b =>
        d.each ((d.bedDoms b).filter d.live) fun d x => d.updDom x fun e => { e with st := .off }
    else s.dev
  let go := d.assignq.filter fun a => !s.gated a.2.2.1
  let rest := d.assignq.filter fun a => s.gated a.2.2.1
  { s with dev := ({ d with assignq := rest }).each go fun d a => d.assignDo a.1 a.2.1 a.2.2.1 a.2.2.2 }

/-! ### Emergencies (R384, R386) -/

/-- Causes in force on a die; POWER shows on both. -/
def Pwr.causesOf (p : Pwr) (die : Nat) : BitVec 4 := p.causes.get die 0
def Pwr.allCauses (p : Pwr) : Nat := (p.causesOf 0 ||| p.causesOf 1).toNat
def Pwr.inForce (p : Pwr) (die c : Nat) : Bool := (p.causesOf die).getLsbD c

/-- A temperature reading in quarters of a degree as an integer. -/
def quarters (x : BitVec 16) : Int := x.toInt

/-- THERMAL entry in °C, 5 °C lower while the trim store is absent (R391). -/
def State.thermLimit (s : State) : Int := (s.pwr.thermEmerg : Int) - (if s.sec.trimAbsent then 5 else 0)

/-- Do the last readings show a voltage condition: V48 outside 42 V to 58 V, or the die's Vcore more than 30 mV below its
commanded value, each 15 mV earlier while the trim store is absent (R391). -/
def State.voltBad (s : State) (die : Nat) : Bool :=
  let m := if s.sec.trimAbsent then 15 else 0
  let v := 10 * s.pwr.v48.toNat
  decide (v < 42000 + m ∨ 58000 < v + m ∨ s.pwr.meas.get die 0 + 30 < s.pwr.v.get die 0 + m)

/-- Does cause c of a die enter, by the last readings. -/
def State.enters (s : State) (die c : Nat) : Bool :=
  match c with
  | 0 => s.voltBad die
  | 1 => decide (4 * s.thermLimit < quarters (s.pwr.tj.get die 0))
  | 2 => decide (s.plEff < s.pwr.avg + s.pwr.guard_)
  | _ => (List.range 100).any fun i => dieOfInst i == die && (s.dev.inst i).hot

/-- Is what cause c of a die needs to leave so, by the last readings. -/
def State.leaves (s : State) (die c : Nat) : Bool :=
  match c with
  | 0 => !s.voltBad die
  | 1 => decide (quarters (s.pwr.tj.get die 0) < 4 * (s.thermLimit - 5))
  | 2 => decide (s.pwr.avg + 2 * s.pwr.guard_ < s.plEff)
  | _ => !(List.range 100).any fun i => dieOfInst i == die && (s.dev.inst i).hot

/-- Key of a cause's entry stamp. -/
def causeKey (die c : Nat) : Nat := die * 4 + c

/-- An in-band interrupt with its mandatory byte, whose value the spec does not give, where ENEC has enabled it (R394). -/
def State.ibi (s : State) : State :=
  if s.mgmt.ibi then
    let (b, d) := s.dev.fresh 8
    { s with dev := d.emit (.ibi b) }
  else s

/-- Put a cause in force; POWER is the module's. -/
def Pwr.enter (p : Pwr) (now : Nat → Nat) (die c : Nat) : Pwr :=
  let on := fun (p : Pwr) (k : Nat) => { p with
    causes := p.causes.set k (p.causesOf k ||| BitVec.ofNat 4 (2 ^ c)) 0, since := p.since.set (causeKey k c) (now k) 0 }
  if c = 2 then on (on p 0) 1 else on p die

/-- A cause enters: the first makes EMERGENCY 1, with its event, its entry count, an interrupt, and the deferral of an
activation that waits. -/
def State.causeOn (s : State) (die c : Nat) : State :=
  let first := s.pwr.allCauses = 0
  let p := s.pwr.enter (fun k => s.dev.now (alwaysKey k)) die c
  let s : State := { s with pwr := p }
  if !first then s else
  let s : State := { s with pwr := { s.pwr with entries := min 65535 (s.pwr.entries + 1) } }
  (s.onDev fun d => (d.event none 0x24 0 s.pwr.allCauses).updDefer).ibi

/-- Are the monitors powered: the always-on domain runs. -/
def Dev.standbyOn (d : Dev) : Bool := d.step ≠ .standby

def execEmergencyOn (die : Fin 2) (cause : Fin 4) (s : State) : Host.Outcome State Fault Refusal :=
  if s.dev.standbyOn && !s.pwr.inForce die.val cause.val && s.enters die.val cause.val then
    .next (s.causeOn die.val cause.val)
  else .next s

/-- A cause leaves. The causes that have entered meanwhile are put in force first, so that an emergency that goes on raises no
EMERGENCY_OFF (R396). -/
def State.causeOff (s : State) (die c : Nat) : State :=
  let due := ((List.range 2).flatMap fun k => (List.range 4).map fun e => (k, e)).filter fun x =>
    !(x.1 == die && x.2 == c) && !(x.2 == 2 && c == 2) && !s.pwr.inForce x.1 x.2 && s.enters x.1 x.2
  let s := due.foldl (fun (s : State) x => s.causeOn x.1 x.2) s
  let was := s.pwr.allCauses
  let off := fun (p : Pwr) (k : Nat) => { p with causes := p.causes.set k (p.causesOf k &&& ~~~ BitVec.ofNat 4 (2 ^ c)) 0 }
  let s : State := { s with pwr := if c = 2 then off (off s.pwr 0) 1 else off s.pwr die }
  if s.pwr.allCauses ≠ 0 then s else (s.onDev fun d => d.event none 0x25 0 was).ibi

/-- Causes in force whose condition the last readings still show: the 10 ms of their absence start again. -/
def State.causesHeld (s : State) : State :=
  (([0, 1] : List Nat).flatMap fun k => ([0, 1, 2] : List Nat).map fun c => (k, c)).foldl (fun (s : State) x =>
    if s.pwr.inForce x.1 x.2 && !s.leaves x.1 x.2 then
      { s with pwr := { s.pwr with since := s.pwr.since.set (causeKey x.1 x.2) (s.dev.now (alwaysKey x.1)) 0 } }
    else s) s

/-- Has the absence of cause c of a die lasted the 10 ms that it must; MEM_HOT needs none. -/
def State.heldOff (s : State) (die c : Nat) : Bool := c = 3 || s.dev.atLeast (alwaysKey die) (s.pwr.since.get (causeKey die c) 0) 10000000

def execEmergencyOff (die : Fin 2) (cause : Fin 4) (s : State) : Host.Outcome State Fault Refusal :=
  if s.dev.standbyOn && s.pwr.inForce die.val cause.val && s.leaves die.val cause.val && s.heldOff die.val cause.val then
    .next (s.causeOff die.val cause.val)
  else .next s

/-! ### The governor (R385) -/

/-- Is the action of the governor on a die due: 10 µs of the always-on timer, 2,500 ticks as R23 counts them, since its last. -/
def State.govDue (s : State) (die : Nat) : Bool :=
  (s.pwr.govAt.get die none).elim true fun t => decide (t + 2500 ≤ s.dev.now (alwaysKey die))

/-- One step of the governor on a die: v is the commanded Vcore, which the regulators follow. -/
def State.govern (s : State) (die : Nat) : State :=
  if !s.govDue die then s else
  let p := s.pwr
  let v := p.v.get die 0
  let power := p.inForce die 2
  let any := p.causesOf die ≠ 0
  let ready := s.dev.atLeast (alwaysKey die) (p.changed.get die 0) 100000
  let w := if power then v - 20
    else if any && ready then v - 10
    else if !any && ready then min (p.targetOf die) (v + 5)
    else v
  let w := max 620 (min p.vmaxEff w)
  let gate :=
    if power && w = 620 && decide (s.plEff < p.avg) then p.gate ||| BitVec.ofNat 2 (2 ^ die)
    else if p.gate.getLsbD die && decide (p.avg + p.guard_ < s.plEff) then p.gate &&& ~~~ BitVec.ofNat 2 (2 ^ die)
    else p.gate
  { s with pwr := { p with
    govAt := p.govAt.set die (some (s.dev.now (alwaysKey die))) none,
    v := p.v.set die w 0, gate := gate, vMin := p.vMin.set die (min w (p.vMin.get die 0x3FF)) 0x3FF,
    changed := if w = v then p.changed else p.changed.set die (s.dev.now (alwaysKey die)) 0 } }

/-- The higher of two readings. -/
def hotter (a b : BitVec 16) : BitVec 16 := if a.slt b then b else a

/-- The highest of the readings since reset, the first of them among them (R397). -/
def peakOf (old : Option (BitVec 16)) (t : BitVec 16) : Option (BitVec 16) := some (old.elim t (hotter · t))

/-- Readings of the monitors at a tick of the governor. -/
def Pwr.read (p : Pwr) (avg : Nat) (tj0 tj1 : BitVec 16) (hot0 hot1 meas0 meas1 : Nat) (v48 : BitVec 16) : Pwr :=
  { p with
    avg := avg, peak := max p.peak avg, v48 := v48, tj := (p.tj.set 0 tj0 0).set 1 tj1 0,
    tjPeak := (p.tjPeak.set 0 (peakOf (p.tjPeak.get 0 none) tj0) none).set 1 (peakOf (p.tjPeak.get 1 none) tj1) none,
    hottest := (p.hottest.set 0 hot0 0).set 1 hot1 0, meas := (p.meas.set 0 meas0 0).set 1 meas1 0 }

def State.governor (s : State) (p : Pwr) : State :=
  let s : State := ({ s with pwr := p }).causesHeld
  let s := if s.dev.vcore then (s.govern 0).govern 1 else s
  -- gating beds is firmware's part: not in a device that is frozen, has failed or is paused for an activation
  if s.dev.serving then s.bedGates else s

def execGovernorTick (avg : Nat) (tj0 tj1 : BitVec 16) (hot0 hot1 : Fin 48) (meas0 meas1 : Nat) (v48 : BitVec 16) (s : State) :
    Host.Outcome State Fault Refusal :=
  if s.dev.standbyOn then .next (s.governor (s.pwr.read avg tj0 tj1 hot0.val hot1.val meas0 meas1 v48)) else .next s

/-! ### Canaries (R392) -/

/-- Fence the domain of a stage group with cause SELF_TEST; die common logic is fenced with its die. -/
def Dev.canaryFence (d : Dev) (g : Nat) : Dev :=
  let d := d.satInc row_PWR_TRIM 0 f_PWR_TRIM_CANARY_FENCES
  let x := groupDom g
  if x < 336 then d.domFence x 8 else d.dieFence (dieOfDom x) 1

/-- The timer that bounds of a stage group are counted on: cores and clay buffers have none of their own (R20). -/
def groupTimer (g : Nat) : Nat := alwaysKey (dieOfDom (groupDom g))

/-- WORK[g] − STORED[g] is kept: 0 to 8. lateMs: how long the canary has been late. Its clean time starts again. -/
def Dev.canaryLate (d : Dev) (g lateMs : Nat) : Dev :=
  let d := { d with canaryAt := d.canaryAt.set g (d.now (groupTimer g)) 0 }
  let w := d.work.get g 0
  if w < 8 then { d.wrapInc row_PWR_TRIM 0 f_PWR_TRIM_LENGTHENED with work := d.work.set g (w + 1) 0 }
  else if 1 ≤ lateMs then d.canaryFence g else d

/-- Is group g one of the device's, its domain LIVE. -/
def Dev.groupOn (d : Dev) (g : Nat) : Bool :=
  decide (g < 14240) && d.vcore && (d.live (groupDom g) || (decide (336 ≤ groupDom g) && !bitOf d.dieFenced.toNat (dieOfDom (groupDom g))))

def execCanaryLate (g lateMs : Nat) (s : State) : Host.Outcome State Fault Refusal :=
  s.devEvent (fun d => d.groupOn g) (fun d => d.canaryLate g lateMs)

/-- Has the canary of g been clean for at least 10 ms: it was last late longer ago. -/
def Dev.canaryIdle (d : Dev) (g : Nat) : Bool := d.atLeast (groupTimer g) (d.canaryAt.get g 0) 10000000

def execCanaryClean (g : Nat) (s : State) : Host.Outcome State Fault Refusal :=
  s.devEvent (fun d => d.groupOn g && decide (0 < d.work.get g 0) && d.canaryIdle g) (fun d => { d with work := d.work.upd g 0 (· - 1) })

/-! ### Trips and rails (R367, R375, R376, R387) -/

/-- The Vcore regulators are switched off: no pair runs firmware, no cluster is measured, memory contents are not kept. -/
def Dev.railsOff (d : Dev) : Dev :=
  let d := d.each (List.range 24) fun d k =>
    (d.setFld row_GEN_STEP_RATE k f_GEN_STEP_RATE_VALID 0).setFld row_GEN_STEP_RATE k f_GEN_STEP_RATE_RATE 0
  { d with vcoreOff := true, marlUp := 0, mem := [], memKept := false }

def execVcoreOverLimit (_die : Fin 2) (s : State) : Host.Outcome State Fault Refusal :=
  s.devEvent (fun d => d.vcore) (fun d => (d.deviceFailed 5).railsOff)

def execVcoreUnderLimit (die : Fin 2) (s : State) : Host.Outcome State Fault Refusal :=
  s.devEvent (fun d => d.vcore && !bitOf d.dieFenced.toNat die.val) (fun d => d.dieFence die.val 3)

/-- The sets that a memory rail feeds. -/
def Dev.railSets (d : Dev) (r : Rail) : List Nat :=
  (List.range (d.strat.elim 0 (·.sets.length))).filter fun s => d.setDie s == r.die.val &&
    (d.set? s).elim false fun S => S.sub == (r.tier.val == 1)

/-- Firmware initialises every descriptor to never-written and discards every region, with all that described memory (R43).
It clears no memory (R69). -/
def Dev.forget (d : Dev) : Dev :=
  { d with descs := [], rgns := [], journals := [], poison := [], retired := [], tensors := [], plans := [],
           ctxs := [], memKept := false }

/-- Does memory that a warm reset has kept lie in self-refresh still, before the exit at bring-up (R411). -/
def Dev.heldMem (d : Dev) : Bool := d.memKept && [Step.reset, .rom, .firmware, .stratum, .training].contains d.step

/-- Memory that was to be kept is lost: the reset is one that does not keep memory. -/
def Dev.memLost (d : Dev) : Dev :=
  { d.forget with mem := [] }.setFld row_STR_ACTIVE_INFO 0 f_STR_ACTIVE_INFO_MEM_KEPT 0

/-- A memory rail leaves its window: the sets that it feeds are fenced. -/
def Dev.railFault (d : Dev) (r : Rail) : Dev :=
  let d := if d.heldMem then d.memLost else d
  d.each (d.railSets r) fun d s => d.fenceSet s 5

def execMemoryRailFault (r : Rail) (s : State) : Host.Outcome State Fault Refusal :=
  s.devEvent (fun d => d.standbyOn && d.strat.isSome) (fun d => d.railFault r)

/-- THERM_TRIP_N is asserted, whatever the device does. -/
def execThermalTrip (die : Fin 2) (s : State) : Host.Outcome State Fault Refusal :=
  s.devEvent (fun d => d.standbyOn && decide (die.val < 2)) (fun d => { (d.deviceFailed 4).railsOff with thermTrip := true })

/-! ### LSS_POOL_g (R92) -/

/-- HIGH_WM and LOW_WM are set together, and only where HIGH_WM exceeds LOW_WM. -/
def Dev.poolWm (d : Dev) (g : Nat) (v : Word) : Dev :=
  let h := f_LSS_POOL_HIGH_WM.get v
  let l := f_LSS_POOL_LOW_WM.get v
  if l < h then (d.setFld row_LSS_POOL g f_LSS_POOL_HIGH_WM h).setFld row_LSS_POOL g f_LSS_POOL_LOW_WM l else d

def execLssPoolWmWrite (g : Fin 16) (v : Word) (s : State) : Host.Outcome State Fault Refusal := s.devStep fun d => d.poolWm g.val v

end Sys2Proof.Machine
end

