-- ==== Sys2Proof/Machine/Mgmt.lean ====
section
/-! DEFINITION. The board-management target (R394, R395): I3C common command codes, MCTP control, PLDM. What the standards
that the spec names fix and the spec does not repeat is PRESUMED from them; what neither gives is free (log 24). -/
namespace Sys2Proof.Machine

/-! ### The device state as software reads it (R24) -/

def DevSt.code : DevSt → Nat
  | .powerUp => 0
  | .boot => 1
  | .training => 2
  | .ready => 3
  | .readySafe => 4
  | .frozen => 5
  | .failed => 6

/-! ### Replies -/

/-- Bytes leave on I3C. -/
def State.i3c (s : State) (l : List Byte) : State := s.onDev fun d => d.emit (.i3c l)

/-- The target answers from standby power on, with V48 or without. -/
def State.i3cOn (s : State) : Bool := s.dev.standbyOn

/-- It answers what is sent to its dynamic address only once it has one. -/
def State.addressed (s : State) : Bool := s.i3cOn && s.mgmt.dynAddr.isSome

/-- A meaning of a request sent to the dynamic address; without one nothing arrives. -/
def State.i3cReq (s : State) (f : State → State) : Host.Outcome State Fault Refusal := .next (if s.addressed then f s else s)

/-- A reply with n free bytes after fixed ones. -/
def State.i3cFree (s : State) (l : List Byte) (n : Nat) : State :=
  let (f, d) := s.dev.freshBytes n
  ({ s with dev := d } : State).i3c (l ++ f)

/-- A constant of the device of n bytes, most significant first. -/
def identBytes (n k : Nat) : List Byte := (natBytes (Config.ident (8 * n) k).toNat n).reverse

/-! ### I3C (R394) -/

/-- The dynamic address is given up. -/
def execRstdaa (s : State) : Host.Outcome State Fault Refusal :=
  .next (if s.i3cOn then { s with mgmt := { s.mgmt with dynAddr := none } } else s)

/-- A target without a dynamic address sends PID, BCR and DCR and takes the one that the controller assigns. -/
def execEntdaa (a : BitVec 7) (s : State) : Host.Outcome State Fault Refusal :=
  .next (if s.i3cOn && s.mgmt.dynAddr.isNone then
      ({ s with mgmt := { s.mgmt with dynAddr := some a } } : State).i3c (identBytes 6 0 ++ identBytes 1 1 ++ identBytes 1 2)
    else s)

/-- The static address is 0x3A. -/
def execSetdasa (st a : BitVec 7) (s : State) : Host.Outcome State Fault Refusal :=
  .next (if s.i3cOn && st = 0x3A && s.mgmt.dynAddr.isNone then { s with mgmt := { s.mgmt with dynAddr := some a } } else s)

def execGetpid (s : State) : Host.Outcome State Fault Refusal := s.i3cReq fun s => s.i3c (identBytes 6 0)
def execGetbcr (s : State) : Host.Outcome State Fault Refusal := s.i3cReq fun s => s.i3c (identBytes 1 1)
def execGetdcr (s : State) : Host.Outcome State Fault Refusal := s.i3cReq fun s => s.i3c (identBytes 1 2)
def execGetstatus (s : State) : Host.Outcome State Fault Refusal := s.i3cReq fun s => s.i3cFree [] 2

/-- Bit 0 of the event byte is the in-band interrupt. -/
def State.ibiMask (s : State) (mask : Byte) (on : Bool) : State :=
  if s.i3cOn && mask.getLsbD 0 then { s with mgmt := { s.mgmt with ibi := on } } else s

def execEnec (mask : Byte) (s : State) : Host.Outcome State Fault Refusal := .next (s.ibiMask mask true)
def execDisec (mask : Byte) (s : State) : Host.Outcome State Fault Refusal := .next (s.ibiMask mask false)

/-! ### MCTP control (R395) -/

/-- Is a byte an identifier that may be assigned: neither null nor broadcast. -/
def assignable (b : Byte) : Bool := b ≠ 0 && b ≠ 0xFF

/-- Operations 0 and 1 set the endpoint ID; the others do not apply to this endpoint. -/
def State.setEid (s : State) (op : Nat) (eid : Byte) : State :=
  if op ≤ 1 && assignable eid then ({ s with mgmt := { s.mgmt with eid := eid } } : State).i3c [0x00, 0x00, eid, 0x00]
  else s.i3c [0x02]

def execSetEndpointId (op : Fin 4) (eid : Byte) (s : State) : Host.Outcome State Fault Refusal := s.i3cReq fun s => s.setEid op.val eid
def execGetEndpointId (s : State) : Host.Outcome State Fault Refusal := s.i3cReq fun s => s.i3cFree [0x00, s.mgmt.eid] 2

/-- The message types: MCTP control (also asked for as 0xFF), PLDM, vendor defined by IANA number. -/
def mctpType (ty : Byte) : Bool := ty = 0xFF || ty = 0 || ty = 1 || ty = 0x7F

def execGetMctpVersionSupport (ty : Byte) (s : State) : Host.Outcome State Fault Refusal :=
  s.i3cReq fun s => if mctpType ty then s.i3cFree [0x00, 0x01] 4 else s.i3c [0x80]
def execGetMessageTypeSupport (s : State) : Host.Outcome State Fault Refusal := s.i3cReq fun s => s.i3c [0x00, 0x02, 0x01, 0x7F]

/-! ### PLDM base (R395) -/

def execGetTid (s : State) : Host.Outcome State Fault Refusal := s.i3cReq fun s => s.i3c [0x00, s.mgmt.tid]

def State.setTid_ (s : State) (t : Byte) : State :=
  if assignable t then ({ s with mgmt := { s.mgmt with tid := t } } : State).i3c [0x00] else s.i3c [0x02]

def execSetTid (t : Byte) (s : State) : Host.Outcome State Fault Refusal := s.i3cReq fun s => s.setTid_ t

/-- The PLDM types: base and Platform Monitoring and Control. -/
def pldmType (ty : Byte) : Bool := ty = 0 || ty = 2

def execGetPldmVersion (ty : Byte) (s : State) : Host.Outcome State Fault Refusal :=
  s.i3cReq fun s => if pldmType ty then s.i3cFree [0x00, 0, 0, 0, 0, 0x05] 8 else s.i3c [0x83]

/-- A bit mask of n bytes. -/
def maskBytes (n : Nat) (l : List Nat) : List Byte := natBytes ((l.map fun k => 2 ^ k).sum) n

def execGetPldmTypes (s : State) : Host.Outcome State Fault Refusal := s.i3cReq fun s => s.i3c (0x00 :: maskBytes 8 [0, 2])

/-- The commands of a type: SetTID to GetPLDMCommands; GetSensorReading, GetStateSensorReadings, GetPDRRepositoryInfo, GetPDR. -/
def pldmCommands (ty : Byte) : List Nat := if ty = 0 then [1, 2, 3, 4, 5] else [0x11, 0x21, 0x50, 0x51]

def execGetPldmCommands (ty : Byte) (s : State) : Host.Outcome State Fault Refusal :=
  s.i3cReq fun s => s.i3c (if pldmType ty then 0x00 :: maskBytes 32 (pldmCommands ty) else [0x83])

/-! ### Sensors (R395) -/

/-- The numeric sensors: V48, input power, VCORE of each die, hottest junction of each die, each HBM4E stack, hottest LPDDR6
package of each die. -/
inductive Sensor where
  | v48
  | power
  | vcore (die : Nat)
  | junction (die : Nat)
  | stack (n : Nat)
  | package (die : Nat)
  deriving DecidableEq, Repr

def sensors : List Sensor :=
  [.v48, .power, .vcore 0, .vcore 1, .junction 0, .junction 1] ++ (List.range 8).map Sensor.stack ++ [.package 0, .package 1]

/-- The last temperature reading of an instance, as its register holds it. -/
def Dev.tempAt (d : Dev) (i : Nat) : BitVec 16 := BitVec.ofNat 16 (f_HMC_TEMP_TEMP.get (d.rd (tempOf i).1 (tempOf i).2))

/-- The hottest of some instances. -/
def Dev.hottestOf (d : Dev) : List Nat → BitVec 16
  | [] => 0
  | [i] => d.tempAt i
  | i :: t => hotter (d.tempAt i) (d.hottestOf t)

/-- The value of a numeric sensor, in the units of the registers of R397 and R286. -/
def State.reading (s : State) : Sensor → Nat
  | .v48 => s.pwr.v48.toNat
  | .power => s.pwr.avg
  | .vcore die => s.pwr.meas.get die 0
  | .junction die => (s.pwr.tj.get die 0).toNat
  | .stack n => (s.dev.hottestOf ((List.range 8).map (8 * n + ·))).toNat
  | .package die => (s.dev.hottestOf ((List.range 18).map (64 + 18 * die + ·))).toNat

/-- The state sensors: STATE, EMERGENCY, THERM_TRIP_N asserted. -/
def State.stateReading (s : State) (n : Nat) : Nat :=
  if n = 0 then s.dev.state.code else if n = 1 then b2n s.emergency else b2n s.dev.thermTrip

/-- Records of the repository, one a sensor. -/
def pdrCount : Nat := sensors.length + 3

def execGetPdrRepositoryInfo (s : State) : Host.Outcome State Fault Refusal :=
  s.i3cReq fun s =>
    let (t, d) := s.dev.freshBytes 26
    let (z, d) := d.freshBytes 9
    ({ s with dev := d } : State).i3c ([0x00, 0x00] ++ t ++ natBytes pdrCount 4 ++ z)

/-- The bytes of record k, 0 to pdrCount − 1: constants of the device. -/
def pdrBytes (k : Nat) : List Byte := identBytes 64 (16 + k)

/-- Record handles are 1 to pdrCount; handle 0 asks for the first. -/
def State.pdr (s : State) (rec : Nat) : State :=
  let k := if rec = 0 then 1 else rec
  if pdrCount < k then s.i3c [0x82]
  else s.i3c ([0x00] ++ natBytes (if k = pdrCount then 0 else k + 1) 4 ++ [0, 0, 0, 0, 0x05] ++ natBytes 64 2 ++ pdrBytes (k - 1))

def execGetPdr (rec : Nat) (s : State) : Host.Outcome State Fault Refusal := s.i3cReq fun s => s.pdr rec

/-- Sensors are numbered from 1, numeric ones first. -/
def State.sensor (s : State) (id : Nat) : State :=
  match sensors[id - 1]? with
  | some k => if id = 0 then s.i3c [0x80] else
    let (f, d) := s.dev.freshBytes 5
    ({ s with dev := d } : State).i3c ([0x00, 0x02, 0x00] ++ f.drop 1 ++ natBytes (s.reading k) 2)
  | none => s.i3c [0x80]

def execGetSensorReading (id : Nat) (s : State) : Host.Outcome State Fault Refusal := s.i3cReq fun s => s.sensor id

def State.stateSensor (s : State) (id : Nat) : State :=
  if sensors.length < id ∧ id ≤ pdrCount then
    let (f, d) := s.dev.freshBytes 2
    ({ s with dev := d } : State).i3c ([0x00, 0x01, 0x00, BitVec.ofNat 8 (s.stateReading (id - sensors.length - 1))] ++ f)
  else s.i3c [0x80]

def execGetStateSensorReadings (id : Nat) (s : State) : Host.Outcome State Fault Refusal := s.i3cReq fun s => s.stateSensor id

end Sys2Proof.Machine
end

