-- ==== Sys2Proof/Machine/Boot.lean ====
section
/-! DEFINITION. Reset and bring-up (R409 to R416): the boot ROM (R348), identity and first enrolment (R351, R352), the trim store
(R390), what each reset preserves. -/
namespace Sys2Proof.Machine

/-! ### What a reset leaves (R410) -/

/-- The device after a reset, with what no reset changes: the flash, the pins, what has left. -/
def Dev.cleared (d : Dev) (nonce : List Byte) : Dev :=
  { free := d.free, nextId := d.nextId, flash := d.flash, out := d.out, wire := d.wire, resets := d.resets, pwrok := d.pwrok,
    resetN := d.resetN, pwrAt := d.pwrAt, freezeN := d.freezeN, thermTrip := d.thermTrip, vcoreOff := d.vcoreOff, nonce := nonce }

/-- A region across a reset: its state and map stay, its commands are gone. -/
def Rgn.keep (g : Rgn) : Rgn := { g with cmd := none, trimCmds := [] }

/-- The memory's side of the device: contents, descriptors, regions, journals, poison and retired maps, tensors, plans whose
window slots are still to be returned, GEN of every context number, the stratum that laid it out. -/
def Dev.keepMemory (n d : Dev) : Dev :=
  let rgns : Tab Rgn := Tab.mapV d.rgns {} fun _ (g : Rgn) => g.keep
  let ctxs : Tab Ctx := Tab.mapV d.ctxs {} fun _ (x : Ctx) => { gen := x.gen }
  { n with mem := d.mem, descs := d.descs, rgns := rgns, journals := d.journals, poison := d.poison, retired := d.retired,
           tensors := d.tensors, serial := d.serial, plans := d.plans, ctxs := ctxs, strat := d.strat, memKept := true }

/-- The timers of the always-on parts. -/
def alwaysOnly (t : Tab Nat) : Tab Nat := t.filter fun e => decide (0x200 ≤ e.1)

/-- Boot and debug state at a reset: debug locked, nothing running; fuses stay, and partitions that a write has left invalid. -/
def Sec.atReset (x : Sec) (cold : Bool) : Sec :=
  { enrolled := x.enrolled, revoked := x.revoked, digests := x.digests, planLen := x.planLen, svnFuse := x.svnFuse,
    trimWritten := x.trimWritten, flashBad := x.flashBad, used := x.used && !cold }

/-- PWR registers at a warm reset: the readings, the voltages and what is in force stay. -/
def Pwr.warm (p : Pwr) : Pwr :=
  { p with ctl := ({} : Pwr).ctl, target := [], vMin := [], peak := 0, tjPeak := [], entries := 0 }

/-- Is the bring-up under way, its step 7 not complete (R416). -/
def Dev.inBringup (d : Dev) : Bool := !(d.step == .up || d.step == .ports)

/-- What a cold reset leaves, the count but for its own: the timers restart; a lockout restarts with them. -/
def State.cleared (s : State) (nonce : List Byte) (step : Step) : State :=
  let d := s.dev
  let n := { d.cleared nonce with step := step, coldBoot := true, unlockAt := d.unlockAt.map fun _ => 0, vcoreOff := false }
  { s with dev := n, pwr := {}, sec := s.sec.atReset true }

/-- A cold reset: it counts (R409). -/
def State.cold (s : State) (nonce : List Byte) (step : Step) : State :=
  let c := s.cleared nonce step
  { c with dev := { c.dev with resets := s.dev.resets + 1 } }

/-- A warm reset. srOk: every instance in use reached self-refresh; railsOk: the memory rails stayed in their windows. -/
def State.warm (s : State) (srOk railsOk : Bool) (nonce : List Byte) : State :=
  let d := s.dev
  let n := { d.cleared nonce with
    resets := d.resets + 1, resetN := false, step := Step.reset, coldBoot := d.inBringup && d.coldBoot, unlockAt := d.unlockAt,
    timers := alwaysOnly d.timers, halted := alwaysOnly d.halted,
    upd := { activations := d.upd.activations } }
  let keep := srOk && railsOk && !d.vcoreOff && !(d.inBringup && d.coldBoot) && (!d.inBringup || d.memKept)
  -- no memory is cleared (R69): contents that self-refresh and the rails have kept are there still, described or not
  let n := if srOk && railsOk && !d.vcoreOff then { n with mem := d.mem } else n
  { s with dev := if keep then n.keepMemory d else n, pwr := s.pwr.warm, sec := s.sec.atReset false }

/-! ### Power (R412 steps 1 and 2, R415) -/

/-- V3P3_SB comes up: the count of the boot record, one higher; board management starts anew. -/
def State.standbyUp (s : State) (nonce : List Byte) : State :=
  let s : State := { s with dev := { s.dev with
    resets := s.dev.bootRec.resets, thermTrip := false, pwrok := false, resetN := false, unlockAt := none } }
  { s.cold nonce .pwrok with mgmt := {} }

def execStandbyPowerUp (nonce : List Byte) (s : State) : Host.Outcome State Fault Refusal :=
  .next (if s.dev.step == .standby then s.standbyUp nonce else s)

/-- The regulators bring up VPHY, the memory rails, then both Vcore rails at 750 mV. -/
def State.pwrUp (s : State) : State :=
  let p := s.pwr
  { s with dev := { s.dev with pwrok := true, step := Step.reset, vcoreOff := false, pwrAt := s.dev.now (alwaysKey 0) },
           pwr := { p with v := (p.v.set 0 750 0).set 1 750 0, vMin := (p.vMin.set 0 750 0x3FF).set 1 750 0x3FF } }

/-- The return of power after a loss is a cold reset, with a fresh nonce (R407, R409). -/
def State.powerBack (s : State) : State :=
  let (n, d) := s.dev.freshBytes 64
  ({ s with dev := d } : State).cold n .pwrok

def execPwrokRise (s : State) : Host.Outcome State Fault Refusal :=
  .next (if s.dev.step == .pwrok then (if s.dev.lost then s.powerBack else s).pwrUp else s)

/-- A power loss: every regulator off, memory lost. With standby power the always-on domain runs on, its timers and a lockout among it;
without it the device is as before step 1. -/
def State.powerLost (s : State) (standby : Bool) : State :=
  let d := s.dev
  if standby then
    let c := s.cleared d.nonce .pwrok
    { c with dev := { c.dev with
        pwrok := false, lost := true, timers := alwaysOnly d.timers, halted := alwaysOnly d.halted, unlockAt := d.unlockAt } }
  else
    let c := s.cleared [] .standby
    { c with dev := { c.dev with pwrok := false, resetN := false, thermTrip := false }, mgmt := {} }

/-- With the regulators off already, a loss that leaves standby power takes nothing more. -/
def execPowerLoss (standbyKept : Bool) (s : State) : Host.Outcome State Fault Refusal :=
  .next (if s.dev.step == .standby || (standbyKept && s.dev.step == .pwrok) then s else s.powerLost standbyKept)

/-! ### Resets from RESET_N (R409, R411) -/

/-- RESET_N low with PWROK low, or PWROK falling while it is low. THERM_TRIP_N is released where every sensor is cool (R387). Where RESET_N
has been low since a reset, this is no further one: that reset becomes a cold one (R416). -/
def State.coldReset (s : State) (cool : Bool) (nonce : List Byte) : State :=
  let c := if s.dev.resetN || s.dev.step ≠ .reset then s.cold nonce .pwrok else s.cleared nonce .pwrok
  { c with dev := { c.dev with pwrok := false, resetN := false, thermTrip := s.dev.thermTrip && !cool } }

def execColdReset (sensorsCool : Bool) (nonce : List Byte) (s : State) : Host.Outcome State Fault Refusal :=
  .next (if s.dev.step == .standby || (s.dev.step == .pwrok && !s.dev.resetN) then s else s.coldReset sensorsCool nonce)

/-- RESET_N falls with PWROK high. -/
def execWarmReset (selfRefreshOk railsOk : Bool) (nonce : List Byte) (s : State) : Host.Outcome State Fault Refusal :=
  .next (if s.dev.step == .standby || s.dev.step == .pwrok || !s.dev.resetN then s else s.warm selfRefreshOk railsOk nonce)

/-! ### The boot ROM (R348) -/

/-- The slots that BOOT_SEL lets be tried, in order, where the boot record names one; true is B. -/
def Sec.bootOrder (x : Sec) (named : Bool) : List Bool :=
  match x.bootSel.toNat with
  | 0 => [named, !named]
  | 1 => [false]
  | 2 => [true]
  | _ => []

/-- BOOT_FAIL of an update status. -/
def bootFailOf (st : Nat) : Nat := if st = 0 then 0 else if st = 0x240 then 2 else if st = 0x241 then 3 else if st = 0x242 then 4 else 1

/-- The failure of a slot that is tried, as BOOT_FAIL has it: 0 where it can be read, is valid (R356) and verifies. -/
def State.slotFail (s : State) (noRead : BitVec 2) (b : Bool) : Nat :=
  if noRead.getLsbD (b2n b) then 5 else if s.sec.flashBad.getLsbD (slotPart b) then 1 else bootFailOf (s.sec.verify (s.dev.fwObj b) 1 [0])

/-- Try slots in order: the one that verifies, and BOOT_FAIL of the last one tried before it. -/
def State.bootTry (s : State) (noRead : BitVec 2) (fail : Nat) : List Bool → Option Bool × Nat
  | [] => (none, fail)
  | b :: t =>
    let r := s.slotFail noRead b
    if r = 0 then (some b, fail) else s.bootTry noRead r t

/-- The sequence: both pairs start the image that verifies; without one the device stays in BOOT. -/
def State.bootRom (s : State) (noRead : BitVec 2) : State :=
  let order := s.sec.bootOrder s.dev.bootRec.slotB
  let r := s.bootTry noRead 0 order
  match r.1 with
  | none => { s with dev := { s.dev with step := Step.rom }, sec := { s.sec with bootFail := r.2 } }
  | some b =>
    let o := s.dev.fwObj b
    { s with
      dev := { s.dev with step := Step.firmware, marlUp := 3 },
      sec := { s.sec with
        slotB := b, fallback := decide (order.head? ≠ some b), bootFail := r.2, runSvn := o.svn,
        runVersion := BitVec.ofNat 64 o.version, runMeas := o.measure, handoffOut := o.handoffOut } }

/-- Step 3: the boot ROM starts. A trip, or Vcore regulators that are off, persist: DEVICE_FAILED again (R376). -/
def State.release (s : State) (x : BootPins) : State :=
  let s : State := { s with dev := { s.dev with state := DevSt.boot },
                            sec := { s.sec with bootSel := s.mgmt.bootPin, stratRead := x.stratRead } }
  if s.dev.thermTrip then s.onDev fun d => d.deviceFailed 4
  else if s.dev.vcoreOff then s.onDev fun d => d.deviceFailed 5
  else s.bootRom x.noRead

/-- RESET_N rises: BOOT_SEL is latched (R420). -/
def State.resetHigh (s : State) (sel : BitVec 2) : State :=
  if s.dev.resetN then s else
  { s with dev := { s.dev with resetN := true }, sec := { s.sec with bootSel := sel }, mgmt := { s.mgmt with bootPin := sel } }

/-- May step 3 begin: step 2 has ended at least 1 ms ago. -/
def Dev.bootDue (d : Dev) : Bool := d.step == .reset && d.state == .powerUp && d.atLeast (alwaysKey 0) d.pwrAt 1000000

/-- RESET_N is high: it rises, or has risen before step 3 was due (log 25). -/
def execResetRelease (x : BootPins) (s : State) : Host.Outcome State Fault Refusal :=
  .next (if s.dev.step == .standby then s else
    let s := s.resetHigh x.sel
    if s.dev.bootDue then s.release x else s)

/-! ### What firmware does first (R412 step 4) -/

/-- A pending SVN raise is completed (R355). -/
def Sec.svnComplete (x : Sec) (pending : Bool) : Sec := if pending then { x with svnFuse := max x.svnFuse x.runSvn } else x

/-- The two certificates, one after the other in the identity partition; the CA's key pair where its certificate verifies. -/
def Dev.caCert (d : Dev) : Obj := d.flashObj flashIdent 0x30000
def Dev.devCert (d : Dev) : Obj := d.flashObj (flashIdent + d.caCert.length) 0x30000
def certOk (o : Obj) : Bool := o.payLen == 2016 && (slice o.payload 1984 32).all (· = 0)
def State.caKey (s : State) : Option (List Byte) :=
  let o := s.dev.caCert
  if s.sec.verify o 4 [0] = 0 ∧ certOk o then some o.keyDigest else none

/-- Does the chain verify (R351). -/
def State.chainOk (s : State) : Bool :=
  let o := s.dev.devCert
  s.sec.verifyBy s.caKey o 4 [0x0F] == 0 && certOk o && o.bind_ == deviceDigest && o.keyDigest == deviceDigest

/-- First enrolment: while no slot is ENROLLED, an ENROL object for slot 0 signed with its own keys (R352). -/
def State.enrol (s : State) : State :=
  let o := s.dev.ownerObj 0
  if s.sec.enrolled ≠ 0 ∨ s.sec.flashBad.getLsbD (ownerPart 0) ∨ s.sec.verifyBy (some o.keyDigest) o 2 [1] ≠ 0 then s
  else match s.sec.ownerRule o with
    | some (0, 1) => { s with sec := s.sec.ownerFuse o 0 1 }
    | _ => s

/-- The trim store's object, and its loading (R389 to R391). -/
def Dev.trimObj (d : Dev) : Obj := d.flashObj flashTrim 0x80000
def State.trimOk (s : State) : Bool :=
  let o := s.dev.trimObj
  let k := if o.signer = 0x0F then s.caKey else s.sec.signerKey o.signer
  !s.sec.flashBad.getLsbD trimPart && s.sec.verifyBy k o 3 [0x0F, 1, 2, 3, 4] == 0 && o.payLen == 0x15000
def State.trimLoad (s : State) : State :=
  let ok := s.trimOk
  { s with dev := { s.dev with coarse := !ok, trim := if ok then s.dev.trimObj.payload else [] },
           sec := { s.sec with trimAbsent := !ok, trimSigner := if ok then s.dev.trimObj.signer else 0 } }

/-- Instances with channels in a set. -/
def Dev.usedInsts (d : Dev) : List Nat := (List.range 100).filter fun i => (d.setOfInst i).isSome

/-- Domains that the stratum load powers before the beds: instances in use, enabled ports, Loess engines (R388). -/
def Dev.loadDoms (d : Dev) : List Nat :=
  d.usedInsts.map instDom ++ ((List.range 16).filter d.portEnabled).map portDom ++ (List.range 4).map loessDom

/-- Core and clay buffer domains of the beds. -/
def Dev.bedsDoms (d : Dev) : List Nat :=
  ((List.range 24).filter fun k => (d.bedOfCluster k).isSome).flatMap fun k => (List.range 8).map (fun c => coreDom (8 * k + c)) ++ [clayDom k]

/-- Power up the domains that DOMAIN_ALLOW permits; a step rate window in which a core is powered up is discarded (R23). -/
def Dev.powerDoms (d : Dev) (l : List Nat) : Dev :=
  let a := d.strat.elim [] (·.allow)
  d.each (l.filter a.contains) fun d x => (d.rateMark x).updDom x fun e => { e with st := .live }

/-- Admission, and the stratum in force. Memory stays only where its layout does (R43). -/
def State.stratUp (s : State) : State := s.onDev fun d =>
  let c := d.chooseStrat s.sec
  let kept := d.memKept && d.strat.elim false (sameMemory c.1)
  let d := if kept then d else d.forget
  let d := (d.stratLoad c.1 c.2).setFld row_STR_ACTIVE_INFO 0 f_STR_ACTIVE_INFO_MEM_KEPT (b2n kept)
  let d := d.powerDoms d.loadDoms
  let d := d.each ((List.range 16).filter d.portEnabled) fun d p => d.updPort p fun x => { x with st := .down }
  { d with step := Step.stratum }

/-- A valid image in the slot not in force is STAGED (R359). -/
def State.stagedUp (s : State) : State :=
  let v := !s.sec.flashBad.getLsbD (slotPart (!s.sec.slotB)) && s.sec.verify s.stagedObj 1 [0] == 0
  { s with dev := { s.dev with upd := { s.dev.upd with st := if v then .staged else .idle } }, sec := { s.sec with stagedV := v } }

/-- The whole of step 4. The count goes into the boot record, a pending raise out of it. -/
def State.firmware (s : State) : State :=
  let r := s.dev.bootRec
  let d := s.dev.recPut { r with pending := false, resets := s.dev.resets }
  let s : State := { s with dev := d, sec := { s.sec.svnComplete r.pending with chainBad := !s.chainOk } }
  s.enrol.keysCheck.trimLoad.stagedUp.stratUp

def execFirmwareStarted (s : State) : Host.Outcome State Fault Refusal :=
  .next (if s.dev.step == .firmware && s.dev.state == .boot then s.firmware else s)

/-! ### Training and metadata (R412 steps 5 to 8, R413) -/

/-- Step 5: training starts, or REFCLK is absent or no PLL locks. A freeze that was asked for starts. -/
def Dev.trainUp (d : Dev) (refclk : Bool) : Dev :=
  let d := { d with step := Step.training }
  if !refclk || d.refclkLost then ({ d with refclkLost := true }).deviceFailed 3
  else
    let d := { d with state := DevSt.training }
    (d.each d.usedInsts fun d i => if d.live (instDom i) then d.updInst i fun x => { x with st := .training } else d).freezeCheck

def execStratumInForce (refclk : Bool) (s : State) : Host.Outcome State Fault Refusal :=
  s.devEvent (fun d => d.step == .stratum && d.state == .boot) (fun d => d.trainUp refclk)

/-- The failures of instance i among those of a bring-up. -/
def failsOf (l : List (Fin 100 × TrainFail)) (i : Nat) : List TrainFail := (l.filter fun e => e.1.val == i).map (·.2)

/-- Training of an instance ends (R284): ACTIVE, or its set is fenced. One whose PLL has lost its lock waits for the relock. -/
def Dev.instTrained (d : Dev) (l : List (Fin 100 × TrainFail)) (i : Nat) : Dev :=
  let d := d.trainFails i (failsOf l i) 3
  if (d.inst i).st == .training && !(d.inst i).pllLost && lastingMask (failsOf l i) == 0 then
    ((d.clockStart i).updInst i fun x => { x with tempAt := d.now (instDom i) }).pausesRestart i
  else d

/-- Step 6: the beds are powered, the checkers tested. -/
def Dev.bedsUp (d : Dev) (l : List (Fin 100 × TrainFail)) (fails : List TestFail) : Dev :=
  let d := d.each (d.usedInsts.filter fun i => (d.inst i).st == .training) fun d i => d.instTrained l i
  let d := (d.powerDoms d.bedsDoms)
  let d := { d with step := Step.metadata }
  d.each [0, 1] fun d k => d.selfTest k (fails.filter fun t => dieOfDom t.domain == k)

/-- No bed is powered up while a die of it is gated (R396). -/
def State.bedsWait (s : State) : Bool := (List.range 8).any s.gated

def execTrainingDone (failed : List (Fin 100 × TrainFail)) (fails : List TestFail) (s : State) : Host.Outcome State Fault Refusal :=
  s.devEvent (fun d => d.step == .training && d.state == .training && d.freezes == .running && !s.bedsWait) (fun d => d.bedsUp failed fails)

/-- Reclaims run to their end, and trims of extents too (R86, R243). -/
def Dev.rgnResume (d : Dev) (r : Nat) : Dev :=
  let g := d.rgn r
  if g.st == .reclaiming then (d.each (((mapList g.runs).drop g.cursor) ++ g.gone) Dev.extFree).setRgn r {}
  else (d.each g.gone Dev.extFree).updRgn r fun g => { g with gone := [] }

/-- A slot that was RETIRING or LOST and holds nothing is EMPTY. -/
def GSlot.settled (g : GSlot) : GSlot :=
  let g := { g with refs := 0 }
  if (g.st == .retiring || g.st == .lost) && g.stored = 0 then { g with st := .empty, lens := [] } else g

/-- A tensor across a reset (R122): no references, no fit or recode. -/
def Tensor.settled (t : Tensor) : Tensor := { t with a := t.a.settled, b := t.b.settled, fit := none, counts := [], recode := none }

/-- Step 7 with memory kept: plans returned, journals replayed, reclaims resumed, slots settled. No event leaves. -/
def Dev.memReplay (d : Dev) : Dev :=
  let hosts := d.tensors
  let quiet : Tab Tensor := Tab.mapV d.tensors {} fun _ (t : Tensor) => { t with host := none }
  let d : Dev := { d with tensors := quiet }
  let d := d.each (d.plans.flatMap fun p => p.2.slots) Dev.slotClear
  let d : Dev := { d with plans := [] }
  let d := d.each (List.range 16) Dev.jReplay
  let d := d.each (d.rgns.map (·.1)) Dev.rgnResume
  let t : Tab Tensor := Tab.mapV d.tensors {} fun k (t : Tensor) => { t.settled with host := (hosts.get k {}).host }
  ({ d with tensors := t }).pressureAll

/-- Step 7. -/
def Dev.metaUp (d : Dev) : Dev :=
  let d := if d.memKept then d.memReplay else d.forget
  { d with step := Step.ports }

/-- Is the bring-up at a step after training, its state TRAINING and the device not frozen. -/
def Dev.upAt (d : Dev) (x : Step) : Bool := d.step == x && d.state == .training && d.freezes == .running

def execMetadataInit (s : State) : Host.Outcome State Fault Refusal := s.devEvent (fun d => d.upAt .metadata) Dev.metaUp

/-- Step 8: READY or READY_SAFE; every enabled port enters TRAIN. -/
def Dev.ready (d : Dev) : Dev :=
  let d := { d with step := Step.up, state := if d.strat.elim true (·.safe) then DevSt.readySafe else DevSt.ready }
  d.each ((List.range 16).filter fun p => (d.port p).st == .down && d.live (portDom p)) Dev.enterTrain

def execBringupReady (s : State) : Host.Outcome State Fault Refusal := s.devEvent (fun d => d.upAt .ports) Dev.ready

end Sys2Proof.Machine
end

