-- ==== Sys2Proof/Machine/NumFmt.lean ====
section
/-! DEFINITION. Number formats and arithmetic (R147 to R168, R428): exact values, rounding, decoding and conversion of elements,
engine products and accumulators, vector arithmetic and functions. -/
namespace Sys2Proof.Machine

/-! ### Flags (R168) -/

/-- The flags in the bit order of FLAGS: NV, DZ, OF, UF, NX. -/
abbrev Flags := BitVec 5
def fNV : Flags := 16
def fDZ : Flags := 8
def fOF : Flags := 4
def fUF : Flags := 2
def fNX : Flags := 1
def flagIf (b : Bool) (f : Flags) : Flags := if b then f else 0

/-! ### Exact values -/

/-- NaN (signalling or not), infinity with its sign, or (-1)^neg × m × 2^e. -/
inductive Val where
  | nan (sig : Bool)
  | inf (neg : Bool)
  | num (neg : Bool) (m : Nat) (e : Int)
  deriving DecidableEq, Repr

/-- Is a value zero, of either sign. -/
def Val.isZero : Val → Bool
  | .num _ m _ => m == 0
  | _ => false
def Val.isInt : Val → Bool
  | .num _ m e => decide (0 ≤ e) || m % 2 ^ (-e).toNat == 0
  | _ => false
def Val.isNan : Val → Bool
  | .nan _ => true
  | _ => false
def Val.neg? : Val → Bool
  | .nan _ => false
  | .inf s => s
  | .num s _ _ => s

/-- m × 2^e as a multiple of 2^q, for q at most e. -/
def scaleTo (m : Nat) (e q : Int) : Nat := m * 2 ^ (e - q).toNat

/-- An integer multiple of 2^q as a value; zero takes the sign z. -/
def intVal (i : Int) (q : Int) (z : Bool) : Val := .num (if i = 0 then z else i < 0) i.natAbs q

/-- The signed integer of a finite value at exponent q. -/
def signed (neg : Bool) (n : Nat) : Int := if neg then -(n : Int) else n

/-! ### Floating-point formats (R148, R150) -/

/-- A format: exponent and fraction bits, bias, the largest finite field, the fields of infinity and of the canonical NaN where
it has them. -/
structure FF where
  eb : Nat
  mb : Nat
  bias : Int
  top : Nat
  inf : Option Nat
  nan : Option Nat
  deriving DecidableEq, Repr

def FF.fp32 : FF := ⟨8, 23, 127, 0x7F7FFFFF, some 0x7F800000, some 0x7FC00000⟩
def FF.fp16 : FF := ⟨5, 10, 15, 0x7BFF, some 0x7C00, some 0x7E00⟩
def FF.bf16 : FF := ⟨8, 7, 127, 0x7F7F, some 0x7F80, some 0x7FC0⟩
def FF.e4m3 : FF := ⟨4, 3, 7, 0x7E, none, some 0x7F⟩
def FF.e5m2 : FF := ⟨5, 2, 15, 0x7B, some 0x7C, some 0x7E⟩
def FF.e3m2 : FF := ⟨3, 2, 3, 0x1F, none, none⟩
def FF.e2m3 : FF := ⟨2, 3, 1, 0x1F, none, none⟩
def FF.e2m1 : FF := ⟨2, 1, 1, 0x7, none, none⟩

/-- The sign bit's weight. -/
def FF.sign (f : FF) : Nat := 2 ^ (f.eb + f.mb)

/-- The exponent of one unit of a subnormal. -/
def FF.qmin (f : FF) : Int := 1 - f.bias - f.mb

/-- The value of an encoding. -/
def FF.decode (f : FF) (n : Nat) : Val :=
  let s := decide (f.sign ≤ n % (2 * f.sign))
  let a := n % f.sign
  if f.top < a then
    (if f.inf = some a then .inf s else .nan (f.inf.isSome && !bitOf a (f.mb - 1)))
  else
    let e := a / 2 ^ f.mb
    if e = 0 then .num s a f.qmin else .num s (2 ^ f.mb + a % 2 ^ f.mb) (f.qmin + (e - 1))

/-- Rounding m × 2^e to a multiple of 2^q: nearest even, or toward zero. -/
def roundAt (m : Nat) (e q : Int) (rtz : Bool) : Nat :=
  if q ≤ e then scaleTo m e q else
  let d := 2 ^ (q - e).toNat
  let n := m / d
  let r := m % d
  if rtz || 2 * r < d || (2 * r = d && n % 2 = 0) then n else n + 1

/-- Is m × 2^e a multiple of 2^q. -/
def exactAt (m : Nat) (e q : Int) : Bool := decide (q ≤ e) || m % 2 ^ (q - e).toNat == 0

/-- The exponent of the leading bit of m × 2^e, m not 0. -/
def lead (m : Nat) (e : Int) : Int := e + Nat.log2 m

/-- The rounding of a non-zero magnitude: its field (which may lie above top), inexact, tiny (R428). -/
def FF.round (f : FF) (m : Nat) (e : Int) (rtz : Bool) : Nat × Bool × Bool :=
  let l := lead m e
  let q := max (l - f.mb) f.qmin
  let n := roundAt m e q rtz
  let u := roundAt m e (l - f.mb) rtz
  -- with an unbounded exponent the rounded value lies below the minimum normal
  let tiny := decide (l < 1 - f.bias) && !(decide (l + 1 = 1 - f.bias) && u == 2 ^ (f.mb + 1))
  ((q - f.qmin).toNat * 2 ^ f.mb + n, !exactAt m e q, tiny)

/-- Convert a value into a floating-point format (R163, R164): the encoding and the flags. -/
def FF.encode (f : FF) (rtz sat : Bool) (v : Val) : Nat × Flags :=
  match v with
  | .nan s => match f.nan with
    | some n => (n, flagIf s fNV)
    | none => (0, fNV)
  | .inf s =>
    let sg := if s then f.sign else 0
    if sat || f.nan.isNone then (sg + f.top, fOF) else match f.inf, f.nan with
      | some i, _ => (sg + i, 0)
      | none, some n => (n, fNV)
      | none, none => (sg + f.top, fOF)
  | .num s m e =>
    let sg := if s then f.sign else 0
    if m = 0 then (sg, 0) else
    let (n, inex, tiny) := f.round m e rtz
    if f.top < n then
      (if rtz || sat || f.nan.isNone then sg + f.top else match f.inf, f.nan with
        | some i, _ => sg + i
        | none, some n => n
        | none, none => sg + f.top, fOF ||| fNX)
    else (sg + n, flagIf inex fNX ||| flagIf (inex && tiny) fUF)

/-! ### FP32 arithmetic (R161) -/

/-- An FP32 register. -/
abbrev F32 := BitVec 32
def f32Val (x : F32) : Val := FF.fp32.decode x.toNat
def f32Of (v : Val) : F32 × Flags := let r := FF.fp32.encode false false v; (BitVec.ofNat 32 r.1, r.2)
def f32Nan : F32 := 0x7FC00000
def f32One : F32 := 0x3F800000
def f32Inf (neg : Bool) : F32 := if neg then 0xFF800000 else 0x7F800000

/-- NV for signalling operands. -/
def sigNv (l : List Val) : Flags := flagIf (l.any fun v => v == .nan true) fNV

/-- The exact sum of two values, or a NaN (signalling: the sum is invalid). -/
def Val.add (x y : Val) : Val :=
  match x, y with
  | .nan _, _ | _, .nan _ => .nan false
  | .inf s, .inf t => if s = t then .inf s else .nan true
  | .inf s, _ => .inf s
  | _, .inf t => .inf t
  | .num s m e, .num t n f =>
    let q := min e f
    let i := signed s (scaleTo m e q) + signed t (scaleTo n f q)
    intVal i q (s && t)

/-- The exact product of two values. -/
def Val.mul (x y : Val) : Val :=
  match x, y with
  | .nan _, _ | _, .nan _ => .nan false
  | .inf s, v => if v.isZero then .nan true else .inf (s ≠ v.neg?)
  | v, .inf t => if v.isZero then .nan true else .inf (v.neg? ≠ t)
  | .num s m e, .num t n f => .num (s ≠ t) (m * n) (e + f)

def Val.negate : Val → Val
  | .nan s => .nan s
  | .inf s => .inf !s
  | .num s m e => .num (!s) m e

/-- Round an exact result of operands. -/
def f32Res (ops : List Val) (v : Val) : F32 × Flags := let r := f32Of v; (r.1, r.2 ||| sigNv ops)

def fAdd (x y : F32) : F32 × Flags := let a := f32Val x; let b := f32Val y; f32Res [a, b] (a.add b)
def fSub (x y : F32) : F32 × Flags := let a := f32Val x; let b := f32Val y; f32Res [a, b] (a.add b.negate)
def fMul (x y : F32) : F32 × Flags := let a := f32Val x; let b := f32Val y; f32Res [a, b] (a.mul b)
/-- x × y + z with one rounding. -/
def fFma (x y z : F32) : F32 × Flags :=
  let a := f32Val x
  let b := f32Val y
  let c := f32Val z
  let p := a.mul b
  let r := f32Res [a, b, c] (p.add c)
  (r.1, r.2 ||| flagIf (p == .nan true) fNV)

/-- Order of two values that are not NaN, −0 below +0 (R161). -/
def Val.lt (x y : Val) : Bool :=
  match x, y with
  | .inf s, .inf t => s && !t
  | .inf s, _ => s
  | _, .inf t => !t
  | .num s m e, .num t n f =>
    let q := min e f
    let a := signed s (scaleTo m e q)
    let b := signed t (scaleTo n f q)
    decide (a < b) || (decide (a = b) && m == 0 && s && !t)
  | _, _ => false

/-- Minimum and maximum: the operand that is not NaN. -/
def fMinMax (mx : Bool) (x y : F32) : F32 × Flags :=
  let a := f32Val x
  let b := f32Val y
  let fl := sigNv [a, b]
  if a.isNan then (if b.isNan then f32Nan else y, fl) else if b.isNan then (x, fl)
  else (if (if mx then a.lt b else b.lt a) then y else x, fl)

/-- NaN in, canonical NaN out; NV for a signalling one. -/
def fCanon (x : F32) : F32 × Flags := if (f32Val x).isNan then (f32Nan, sigNv [f32Val x]) else (x, 0)

/-! ### Vector functions (R162) -/

/-- Round a quotient m / n × 2^e to FP32, nearest even. -/
def f32Quot (neg : Bool) (m n : Nat) (e : Int) : F32 :=
  -- 64 further bits of the quotient and a sticky bit decide the rounding
  let k := 64 + Nat.log2 n
  let q := m * 2 ^ k / n
  let st := if m * 2 ^ k % n = 0 then 0 else 1
  (f32Of (.num neg (2 * q + st) (e - k - 1))).1

/-- Reciprocal of a non-zero finite value, correctly rounded. -/
def rcpRound (v : Val) : F32 :=
  match v with
  | .num s m e => f32Quot s 1 m (-e)
  | _ => f32Nan

/-- Reciprocal square root of a positive finite value, rounded to nearest. -/
def rsqrtRound (v : Val) : F32 :=
  match v with
  | .num _ m e =>
    -- m × 2^e with e even; the root of 2^(2k) / m
    let (m, e) := if e % 2 = 0 then (m, e) else (2 * m, e - 1)
    let k := 64 + Nat.log2 m
    let r := Nat.sqrt (2 ^ (2 * k) / m)
    (f32Of (.num false (2 * r + 1) (-e / 2 - k - 1))).1
  | _ => f32Nan

/-! The functions of R162 are the device's own where they keep the error bounds and are monotonic. A true value is held as a natural
number times a power of two with more than 60 bits, wrong by less than fixSlack of its units. -/

def fixSlack : Nat := 1024

/-- Does an FP32 value lie in [lo, hi] × 2^q. -/
def f32Within (r : F32) (lo hi q : Int) : Bool :=
  match f32Val r with
  | .num s m e =>
    let p := min e q
    let v := signed s (scaleTo m e p)
    decide (lo * 2 ^ (q - p).toNat ≤ v ∧ v ≤ hi * 2 ^ (q - p).toNat)
  | _ => false

/-- Is r of the sign s and within n ulp of the magnitude t × 2^q. -/
def ulpNear (r : F32) (s : Bool) (t : Nat) (q : Int) (n : Nat) : Bool :=
  let w : Int := n * 2 ^ (max (q + Nat.log2 t - 23) (-149) - q).toNat
  let lo := max 0 ((t : Int) - fixSlack - w)
  let hi := (t : Int) + fixSlack + w
  r.msb == s && (if s then f32Within r (-hi) (-lo) q else f32Within r lo hi q)

/-- 1 / (m × 2^e) as a magnitude. -/
def rcpTrue (m : Nat) (e : Int) : Nat × Int := let k := 96 + Nat.log2 m; (2 ^ k / m, -e - k)

/-- A value m × 2^e with an even exponent. -/
def evenExp (m : Nat) (e : Int) : Nat × Int := if e % 2 = 0 then (m, e) else (2 * m, e - 1)

/-- 1 / √(m × 2^e) and √(m × 2^e) as magnitudes. -/
def rsqrtTrue (m : Nat) (e : Int) : Nat × Int :=
  let (n, f) := evenExp m e
  let k := 96 + Nat.log2 n
  (Nat.sqrt (2 ^ (2 * k) / n), -f / 2 - k)
def sqrtTrue (m : Nat) (e : Int) : Nat × Int := let (n, f) := evenExp m e; (Nat.sqrt (n * 2 ^ 192), f / 2 - 96)

/-- ln 2 × 2^80, rounded down. -/
def ln2Fix : Nat := 837963523372001241319907

/-- A finite value × 2^80, rounded down. -/
def fix80 (v : Val) : Int :=
  match v with
  | .num s m e => if -80 ≤ e then signed s (scaleTo m e (-80)) else signed s m / 2 ^ (-80 - e).toNat
  | _ => 0

/-- 2^(f / 2^80) × 2^80 for f below 2^80: the series of e^y with y = f ln 2. -/
def exp2Frac (f : Nat) : Nat :=
  let y := f * ln2Fix / 2 ^ 80
  ((List.range 28).foldl (fun (a : Nat × Nat) k => let t := a.2 * y / ((k + 1) * 2 ^ 80); (a.1 + t, t)) (2 ^ 80, 2 ^ 80)).1

/-- log2 of m / 2^⌊log2 m⌋, × 2^80: the series of artanh. -/
def log2Frac (m : Nat) : Nat :=
  let l := 2 ^ Nat.log2 m
  let z := (m - l) * 2 ^ 80 / (m + l)
  let s := ((List.range 28).foldl (fun (a : Nat × Nat) k => (a.1 + a.2 / (2 * k + 1), a.2 * z / 2 ^ 80 * z / 2 ^ 80)) (0, z)).1
  2 * s * 2 ^ 80 / ln2Fix

/-- 2^v as a magnitude. -/
def exp2True (v : Val) : Nat × Int := let i := fix80 v; (exp2Frac (i % 2 ^ 80).toNat, i / 2 ^ 80 - 80)

/-- log2 (m × 2^e) × 2^80. -/
def log2True (m : Nat) (e : Int) : Int := lead m e * 2 ^ 80 + log2Frac m

/-- Is m × 2^e in [0.5, 2]. -/
def nearOne (m : Nat) (e : Int) : Bool := decide (-1 ≤ lead m e) && (decide (lead m e < 1) || (m == 2 ^ Nat.log2 m && lead m e == 1))

/-- The result rounded to nearest, where a function of R162 has neither a special case nor an overflow: 0 RCP, 1 RSQRT, 2 exp2, 3 log2. -/
def vecNear (fn : Nat) (x : F32) : Option F32 :=
  match f32Val x with
  | .num s m e =>
    if fn = 2 then
      let v := Val.num s m e
      if v.lt (.num false 128 0) && !v.lt (.num true 150 0) then let t := exp2True v; some (f32Of (.num false t.1 t.2)).1 else none
    else if m = 0 then none
    else if fn = 0 then (let c := rcpRound (.num s m e); if c &&& 0x7FFFFFFF == 0x7F800000 then none else some c)
    else if s then none
    else if fn = 1 then some (rsqrtRound (.num s m e))
    else some (f32Of (intVal (log2True m e) (-80) false)).1
  | _ => none

/-- Does r keep the error bounds of function fn at x: its own (R162), and for RSQRT and log2 those that R206 gives SQRT and LOG, which are
its products with x and with ln 2. -/
def vecFits (fn : Nat) (x r : F32) : Bool :=
  match f32Val x with
  | .num s m e =>
    if fn = 0 then (let t := rcpTrue m e; ulpNear r s t.1 t.2 1)
    else if fn = 1 then
      let t := rsqrtTrue m e
      let w := sqrtTrue m e
      ulpNear r false t.1 t.2 1 && ulpNear (fMul x r).1 false w.1 w.2 2
    else if fn = 2 then (let t := exp2True (.num s m e); ulpNear r false t.1 t.2 2)
    else
      let v := log2True m e
      let l := v * ln2Fix / 2 ^ 80
      let y := (fMul r 0x3F317218).1
      if nearOne m e then
        f32Within r (v - fixSlack - 2 ^ 58) (v + fixSlack + 2 ^ 58) (-80) && f32Within y (l - fixSlack - 2 ^ 58) (l + fixSlack + 2 ^ 58) (-80)
      else ulpNear r (decide (v < 0)) v.natAbs (-80) 2 && ulpNear y (decide (l < 0)) l.natAbs (-80) 3
  | _ => false

/-- May a function have the results r at x and r' at y, x below y: RCP falls on each sign, RSQRT falls, exp2 and log2 rise. -/
def vecOrder (fn : Nat) (x y r r' : F32) : Bool :=
  if fn = 0 then x.msb ≠ y.msb || !(f32Val r).lt (f32Val r')
  else if fn = 1 then !(f32Val r).lt (f32Val r')
  else !(f32Val r').lt (f32Val r)

/-- The device's function fn is as R162 says: within the bounds for every input of its domain, and monotonic. -/
def vecGood (fn : Nat) : Prop :=
  (∀ x : F32, (vecNear fn x).isSome → vecFits fn x (Config.vecFun fn x) = true) ∧
  (∀ x y : F32, (vecNear fn x).isSome → (vecNear fn y).isSome → (f32Val x).lt (f32Val y) = true →
    vecOrder fn x y (Config.vecFun fn x) (Config.vecFun fn y) = true)

/-- The result of a function: the device's own where it is as R162 says, else c, the one rounded to nearest (log 15). -/
def vecRes (fn : Nat) (x c : F32) : F32 :=
  have : Decidable (vecGood fn) := inferInstanceAs (Decidable (_ ∧ _))
  if vecGood fn then Config.vecFun fn x else c

/-- Reciprocal. -/
def fRcp (x : F32) : F32 × Flags :=
  match f32Val x with
  | .nan s => (f32Nan, flagIf s fNV)
  | .inf s => (if s then 0x80000000 else 0, 0)
  | .num s m e => if m = 0 then (f32Inf s, fDZ) else
    match vecNear 0 x with
    | none => (rcpRound (.num s m e), fOF ||| fNX)
    | some c =>
      let r := vecRes 0 x c
      let t := rcpTrue m e
      let inex := m ≠ 2 ^ Nat.log2 m || r ≠ c
      (r, flagIf inex fNX ||| flagIf (inex && decide (t.2 + Nat.log2 t.1 < -126)) fUF)

/-- Reciprocal square root. -/
def fRsqrt (x : F32) : F32 × Flags :=
  match f32Val x with
  | .nan s => (f32Nan, flagIf s fNV)
  | .inf s => if s then (f32Nan, fNV) else (0, 0)
  | .num s m e => if m = 0 then (f32Inf s, fDZ) else if s then (f32Nan, fNV) else
    let c := rsqrtRound (.num s m e)
    let r := vecRes 1 x c
    (r, flagIf (!(m == 2 ^ Nat.log2 m && lead m e % 2 == 0) || r ≠ c) fNX)

/-- exp2. An infinity is at or above 128, or below −150, and sets the flag of that case (DEDUCED, log 15). -/
def fExp2 (x : F32) : F32 × Flags :=
  match f32Val x with
  | .nan s => (f32Nan, flagIf s fNV)
  | .inf s => if s then (0, fUF) else (f32Inf false, fOF)
  | v =>
    match vecNear 2 x with
    | none => if v.lt (.num false 128 0) then (0, fUF ||| fNX) else (f32Inf false, fOF ||| fNX)
    | some c =>
      let r := vecRes 2 x c
      let n := fix80 v / 2 ^ 80
      let exact := v.isInt && decide (-149 ≤ n) && r == (f32Of (.num false 1 n)).1
      (r, flagIf (!exact) fNX ||| flagIf (!exact && v.lt (.num true 126 0)) fUF)

/-- log2. -/
def fLog2 (x : F32) : F32 × Flags :=
  match f32Val x with
  | .nan s => (f32Nan, flagIf s fNV)
  | .inf s => if s then (f32Nan, fNV) else (f32Inf false, 0)
  | .num s m e => if m = 0 then (f32Inf true, fDZ) else if s then (f32Nan, fNV) else
    let c := (f32Of (intVal (log2True m e) (-80) false)).1
    let r := vecRes 3 x c
    (r, flagIf (!(m == 2 ^ Nat.log2 m) || r ≠ c) fNX)

/-- Compose: apply f to a result, gathering flags. -/
def fThen (a : F32 × Flags) (f : F32 → F32 × Flags) : F32 × Flags := let r := f a.1; (r.1, a.2 ||| r.2)

/-- The composite functions of R206. log2 e, ln 2, 0.797885 and 0.044715 as rounded to FP32. SIGMOID(+∞) keeps the UF of its EXP(−∞), and
SILU(−∞) the OF of its EXP(+∞). -/
def fExp (x : F32) : F32 × Flags := fThen (fMul x 0x3FB8AA3B) fExp2
def fLog (x : F32) : F32 × Flags := fThen (fLog2 x) fun y => fMul y 0x3F317218
def fNeg (x : F32) : F32 := x ^^^ 0x80000000
def fSqrt (x : F32) : F32 × Flags :=
  match f32Val x with
  | .inf false => (x, 0)
  | v => if v.isZero then (x, 0) else fThen (fRsqrt x) (fMul x)
def fSigmoid (x : F32) : F32 × Flags :=
  if x = f32Inf false then (f32One, fUF) else fThen (fThen (fExp (fNeg x)) (fAdd f32One)) fRcp
def fSilu (x : F32) : F32 × Flags :=
  if x = f32Inf true then (0x80000000, fOF) else fThen (fSigmoid x) (fMul x)
def fGelu (x : F32) : F32 × Flags :=
  let cube := fThen (fMul x x) (fMul x)
  let v := fThen (fThen (fThen cube (fMul 0x3D372713)) (fAdd x)) (fMul 0x3F4C4231)
  let t := fThen (fThen (fThen v (fMul 0x40000000)) fExp) fun y => fThen (fAdd f32One y) fRcp
  let tanh := fThen (fThen t (fMul 0x40000000)) (fSub f32One)
  fThen (fThen tanh (fAdd f32One)) fun y => fThen (fMul 0x3F000000 x) (fMul y)

/-! ### Formats of tensors (R147, R151) -/

/-- Bits of an element. -/
def fmtBits (f : Nat) : Nat :=
  match f with
  | 0 => 32
  | 1 | 2 => 16
  | 5 | 6 | 9 => 6
  | 7 | 10 => 4
  | 14 => 3
  | _ => 8

/-- Elements under one scale in a scale tensor, 0 where there is none. G3 carries its scales in line. -/
def fmtBlock (f : Nat) : Nat := if f = 13 then 64 else if 8 ≤ f ∧ f ≤ 11 then 32 else 0
def fmtScaled (f : Nat) : Bool := fmtBlock f ≠ 0

/-- Is the variant bit one that the format accepts. -/
def fmtOk (f v : Nat) : Bool := decide (f < 15) && (v == 0 || f == 8 || f == 9)

/-- Elements of dimension 0 come in multiples of this (R151). -/
def fmtUnit (f : Nat) : Nat := if f = 14 then 32 else if fmtBlock f ≠ 0 then fmtBlock f else if f = 5 ∨ f = 6 then 4 else if f = 7 then 2 else 1

/-- Bytes of a row. -/
def rowBytes (f n : Nat) : Nat := if f = 14 then n / 32 * 13 else n * fmtBits f / 8

/-- Engine group: 0 F16, 1 F8, 2 F6, 3 F4, 4 G3; none for FP32. -/
def fmtGroup (f : Nat) : Option Nat :=
  match f with
  | 1 | 2 => some 0
  | 3 | 4 | 8 | 11 | 12 | 13 => some 1
  | 5 | 6 | 9 => some 2
  | 7 | 10 => some 3
  | 14 => some 4
  | _ => none

/-- The floating-point format of an element. -/
def fmtFF (f v : Nat) : FF :=
  match f with
  | 0 => .fp32
  | 1 => .fp16
  | 2 => .bf16
  | 3 => .e4m3
  | 4 => .e5m2
  | 5 => .e3m2
  | 6 => .e2m3
  | 7 | 10 => .e2m1
  | 8 => if v = 0 then .e4m3 else .e5m2
  | 9 => if v = 0 then .e3m2 else .e2m3
  | _ => .fp32

/-- A two's complement byte. -/
def byteInt (n : Nat) : Int := if n < 128 then n else (n : Int) - 256

/-- The element value of an encoding, before its scale (R148, R149, R154). -/
def elemVal (f v n : Nat) : Val :=
  match f with
  | 11 => intVal (byteInt n) (-6) false
  | 12 | 13 => intVal (byteInt n) 0 false
  | 14 => match n with
    | 0 => .num false 0 0
    | 4 => .nan true
    | n => .num (decide (4 < n)) (2 ^ (n % 4 - 1)) 0
  | _ => (fmtFF f v).decode n

/-- The value of a scale: E8M0, or BF16 for KQ8; 1 where the format has none. -/
def scaleVal (f n : Nat) : Val :=
  if f = 13 then FF.bf16.decode n
  else if f = 14 ∨ fmtBlock f = 32 then (if n = 255 then .nan false else .num false 1 ((n : Int) - 127))
  else .num false 1 0

/-- Decode an element with its scale to FP32 (R152 to R154, R200). -/
def decodeElem (f v n s : Nat) : F32 × Flags :=
  let x := elemVal f v n
  let c := scaleVal f s
  if f ≤ 7 ∨ f = 12 then (let r := f32Of x; (r.1, flagIf (x == .nan true) fNV))
  else if c.isNan then (f32Nan, sigNv [c, x])
  else
    let p := x.mul c
    let r := f32Of p
    (r.1, (r.2 &&& fOF) ||| sigNv [x, p])

/-! ### Conversion of elements (R163 to R167) -/

/-- Round |x| / 2^q to an integer. -/
def roundInt (m : Nat) (e q : Int) (rtz : Bool) : Nat := roundAt m e q rtz

/-- A byte of a signed integer. -/
def intByte (neg : Bool) (n : Nat) : Nat := if neg && n ≠ 0 then (256 - n) % 256 else n

/-- INT8. -/
def toInt8 (rtz : Bool) (v : Val) : Nat × Flags :=
  match v with
  | .nan _ => (0, fNV)
  | .inf s => (if s then 128 else 127, fOF)
  | .num s m e =>
    let n := roundInt m e 0 rtz
    let lim := if s then 128 else 127
    if lim < n then (intByte s lim, fOF ||| fNX) else (intByte s n, flagIf (!exactAt m e 0) fNX)

/-- Target unscaled formats. -/
def toPlain (f : Nat) (rtz sat : Bool) (x : F32) : Nat × Flags :=
  if f = 12 then toInt8 rtz (f32Val x) else (fmtFF f 0).encode rtz sat (f32Val x)

/-- The magnitude of an FP32 value as (m, e): the largest of a block. -/
def maxMag (l : List F32) : F32 := (l.map (· &&& 0x7FFFFFFF)).foldl (fun a b => if a < b then b else a) 0

/-- Does a block hold a NaN or an infinity. -/
def blockOdd (l : List F32) : Bool := decide ((0x7F800000 : F32) ≤ maxMag l)

/-- Divide a value by 2^x. -/
def Val.shift (v : Val) (x : Int) : Val :=
  match v with
  | .num s m e => .num s m (e - x)
  | v => v

/-- floor log2 and ceil log2 of a magnitude that is not 0. -/
def floorLog (x : F32) : Int :=
  match f32Val x with
  | .num _ m e => lead m e
  | _ => 0
def ceilLog (x : F32) : Int :=
  match f32Val x with
  | .num _ m e => if m = 2 ^ Nat.log2 m then lead m e else lead m e + 1
  | _ => 0

def clampX (x : Int) : Int := max (-127) (min 127 x)

/-- Exponent of the largest power of two of an MX element format. -/
def mxMax (f v : Nat) : Int :=
  match f with
  | 8 => if v = 0 then 8 else 15
  | 9 => if v = 0 then 4 else 2
  | 10 => 2
  | _ => 0

/-- An MX element of a value already divided by its scale. -/
def mxElem (f v : Nat) (rtz : Bool) (x : Val) : Nat × Flags :=
  if f = 11 then match x with
    | .num s m e =>
      let n := roundInt m e (-6) rtz
      if 127 < n then (intByte s 127, fOF ||| fNX) else (intByte s n, flagIf (!exactAt m e (-6)) fNX)
    | _ => (0, 0)
  else (fmtFF f v).encode rtz true x

/-- G3: the code of |v|, and whether it is inexact or above 4. -/
def g3Code (rtz : Bool) (v : Val) : Nat × Flags :=
  match v with
  | .num s m e =>
    -- in quarters of a half: thresholds at 0.5, 1.5, 3 (nearest) or 1, 2, 4 (truncation), compared exactly
    let ge := fun (a : Nat) (q : Int) => !((Val.num false m e).lt (Val.num false a q))
    let gt := fun (a : Nat) (q : Int) => (Val.num false a q).lt (.num false m e)
    let k : Nat := if rtz then (if ge 4 0 then 3 else if ge 2 0 then 2 else if ge 1 0 then 1 else 0)
      else (if ge 3 0 then 3 else if ge 3 (-1) then 2 else if gt 1 (-1) then 1 else 0)
    let big := gt 4 0
    let lv : Nat := 2 ^ (k - 1)
    let exact := m == 0 || (decide (k ≠ 0) && ge lv 0 && !gt lv 0)
    (if k = 0 then 0 else if s then 4 + k else k, flagIf (!exact) fNX ||| flagIf big fOF)
  | _ => (0, 0)

/-- A quotient x / s of finite values rounded to an integer: |q|, inexact. -/
def quotInt (m : Nat) (e : Int) (n : Nat) (f : Int) (rtz : Bool) : Nat × Bool :=
  let a := m * 2 ^ (e - f).toNat
  let b := n * 2 ^ (f - e).toNat
  let q := a / b
  let r := a % b
  (if rtz || 2 * r < b || (2 * r = b && q % 2 = 0) then q else q + 1, r ≠ 0)

/-- KQ8: an element under the scale s. -/
def kq8Elem (rtz : Bool) (s x : Val) : Nat × Flags :=
  match s, x with
  | .num _ n f, .num t m e =>
    let (q, inex) := quotInt m e n f rtz
    if 127 < q then (intByte t 127, fOF ||| fNX) else (intByte t q, flagIf inex fNX)
  | _, _ => (0, 0)

/-- The scale of KQ8: m / 127 rounded to BF16. -/
def kq8Scale (m : F32) : Nat :=
  match f32Val m with
  | .num _ a e =>
    let k : Nat := 64
    let q := a * 2 ^ k / 127
    let st := if a * 2 ^ k % 127 = 0 then 0 else 1
    (FF.bf16.encode false false (.num false (2 * q + st) (e - k - 1))).1
  | _ => 0

/-- Gather flags over a list. -/
def gatherFlags (l : List (Nat × Flags)) : List Nat × Flags := (l.map (·.1), l.foldl (fun a x => a ||| x.2) 0)

/-- One block of a scaled target: its scale and its element encodings. -/
def toBlock (f v : Nat) (rtz : Bool) (l : List F32) : Nat × List Nat × Flags :=
  let zeros := l.map fun _ => 0
  let m := maxMag l
  if blockOdd l then (if f = 13 then 0x7FC0 else 255, zeros, fNV)
  else if m = 0 then (0, zeros, 0)
  else if f = 13 then
    let s := kq8Scale m
    -- the values become 0: UF by step 3 of R166, NX by R163
    if s = 0 then (0, zeros, fUF ||| fNX) else
    let r := gatherFlags (l.map fun x => kq8Elem rtz (FF.bf16.decode s) (f32Val x))
    (s, r.1, r.2)
  else
    let x := clampX (if f = 14 then ceilLog m - 2 else floorLog m - mxMax f v)
    let r := gatherFlags (l.map fun y => let w := (f32Val y).shift x; if f = 14 then g3Code rtz w else mxElem f v rtz w)
    ((x + 127).toNat, r.1, r.2)

/-! ### Rows -/

/-- Split a list into runs of n. -/
def chunks {α : Type} (n : Nat) (l : List α) : List (List α) :=
  (List.range ((l.length + n - 1) / max 1 n)).map fun i => (l.drop (n * i)).take n

/-- The encoding of element i of a row given as a number. -/
def rowElem (f : Nat) (row i : Nat) : Nat :=
  if f = 14 then bits row (104 * (i / 32) + 3 * (i % 32)) 3 else bits row (fmtBits f * i) (fmtBits f)

/-- The scale of element i, from the scale row or in line. -/
def rowScale (f : Nat) (row scales i : Nat) : Nat :=
  if f = 14 then bits row (104 * (i / 32) + 96) 8
  else if f = 13 then bits scales (16 * (i / 64)) 16
  else if fmtBlock f = 32 then bits scales (8 * (i / 32)) 8 else 0

/-- Decode a row of n elements to FP32. -/
def decodeRow (f v n row scales : Nat) : List F32 × Flags :=
  let l := (List.range n).map fun i => decodeElem f v (rowElem f row i) (rowScale f row scales i)
  (l.map (·.1), l.foldl (fun a x => a ||| x.2) 0)

/-- A number from fields of w bits, the first lowest. -/
def packFields (w : Nat) : List Nat → Nat
  | [] => 0
  | x :: t => x % 2 ^ w + 2 ^ w * packFields w t

/-- Encode a row: the row, its scale row, flags. -/
def encodeRow (f v : Nat) (rtz sat : Bool) (l : List F32) : Nat × Nat × Flags :=
  if f = 0 then (packFields 32 (l.map (·.toNat)), 0, 0)
  else if f = 14 then
    let bs := (chunks 32 l).map (toBlock f v rtz)
    (packFields 104 (bs.map fun b => packFields 3 b.2.1 % 2 ^ 96 + b.1 * 2 ^ 96), 0, bs.foldl (fun a b => a ||| b.2.2) 0)
  else if fmtScaled f then
    let bs := (chunks (fmtBlock f) l).map (toBlock f v rtz)
    (packFields (fmtBits f) (bs.flatMap (·.2.1)), packFields (if f = 13 then 16 else 8) (bs.map (·.1)),
      bs.foldl (fun a b => a ||| b.2.2) 0)
  else
    let r := gatherFlags (l.map (toPlain f rtz sat))
    (packFields (fmtBits f) r.1, 0, r.2)

/-! ### Engine products and accumulators (R156 to R159) -/

/-- An engine operand element: the element and its scale. -/
structure EngIn where
  x : Val
  s : Val
  deriving DecidableEq, Repr

/-- An element and its scale of a row. -/
def engIn (f v row scales i : Nat) : EngIn := ⟨elemVal f v (rowElem f row i), scaleVal f (rowScale f row scales i)⟩

/-- Does rule 1 of R156 make a product with this operand zero. -/
def EngIn.zero (a : EngIn) : Bool := a.x.isZero || a.s.isZero

/-- The exponent of one unit in which the model keeps an accumulator: below it no product has a bit. -/
def accQ : Int := -640

/-- A cell: the exact sum in units of 2^accQ, the special state, the flags. -/
structure Cell where
  sum : Int := 0
  sp : Option Val := none
  fl : Flags := 0
  deriving DecidableEq, Repr

/-- The special state after a special product. -/
def Cell.special (c : Cell) (v : Val) : Cell :=
  { c with sp := match c.sp, v with
      | some (.nan b), _ => some (.nan b)
      | _, .nan _ => some (.nan false)
      | none, v => some v
      | some (.inf s), .inf t => if s = t then some (.inf s) else some (.nan false)
      | some w, _ => some w }

/-- Add one product (R156). -/
def Cell.mac (c : Cell) (a b : EngIn) : Cell :=
  if a.zero || b.zero then c
  else if a.x.isNan || a.s.isNan || b.x.isNan || b.s.isNan then c.special (.nan false)
  else match (a.x.mul a.s).mul (b.x.mul b.s) with
    | .nan _ => c.special (.nan false)
    | .inf s => c.special (.inf s)
    | .num s m e =>
      if 134 ≤ lead m e then { c.special (.inf s) with fl := c.fl ||| fOF }
      else if lead m e < -160 then { c with fl := c.fl ||| fUF }
      else { c with sum := c.sum + signed s (scaleTo m e accQ) }

/-- The K-tile value (R158). -/
def Cell.value (c : Cell) : F32 × Flags :=
  match c.sp with
  | some (.nan _) => (f32Nan, c.fl ||| fNV)
  | some v => let r := f32Of v; (r.1, c.fl)
  | none => let r := f32Of (intVal c.sum accQ false); (r.1, c.fl ||| r.2)

/-- The K-tile value of two operand columns, from an accumulator that is wrong by err (0 but for an undetected error, R140). -/
def ktile (l : List (EngIn × EngIn)) (err : Int := 0) : F32 × Flags :=
  let c := l.foldl (fun (c : Cell) p => c.mac p.1 p.2) {}
  ({ c with sum := c.sum + err } : Cell).value

/-- K positions per K-tile of a pair of formats (R128, R155). -/
def pairKpt (fa fb : Nat) : Nat :=
  let g := fun f => match fmtGroup f with
    | some 0 => 128
    | some 1 => 256
    | some 2 => 256
    | _ => 512
  min (g fa) (g fb)

end Sys2Proof.Machine
end

