-- ==== Sys2Proof/Machine/Beds.lean ====
section
/-! DEFINITION. Beds: clay buffers (R131 to R136, R302), the scalar slots of an instruction word (R169 to R179), instruction
fetch (R180, R181). -/
namespace Sys2Proof.Machine

/-! ### Beds -/

/-- The home cluster of a bed: its lowest-numbered live cluster (R175). -/
def Dev.homeCluster (d : Dev) (b : Nat) : Option Nat := (d.liveClusters b).head?
/-- A bed as an agent: SOURCE 1 of R299; its decoders are those of its home cluster. What a bed over both dies reads goes to the live
clusters of either (R127). -/
def Dev.bedAgent (d : Dev) (b : Nat) : Agent := {
  src := 1, die := d.bedDie b, dom := clayDom ((d.homeCluster b).getD ((d.clusters b).headD 0)), master := bedMaster b,
  also := ((d.liveClusters b).map dieOfCluster).find? (· ≠ d.bedDie b) }

/-! ### Clay access (R133, R134, R302) -/

/-- The key of clay granule o (offset / 32) of a context in cluster k. -/
def Ctx.clayAt (x : Ctx) (k o : Nat) : Option Nat :=
  x.area.bind fun l => (l.find? fun a => a.1 == k).bind fun a => (a.2[o / 2048]?).map fun p => clayKey k p (o % 2048)

/-- The tag check of an access of context c to a clay granule: a lasting mismatch ends the running operation with CLAY_TAG and
fences the buffer. Physics says how often in a row the look-up of a granule mismatches. -/
def Dev.clayTagOk (d : Dev) (ph : Phys) (b c k key : Nat) : Bool × Dev :=
  let x := d.ctx c
  let dup := (ph.tag.find? fun e => e.1 == key).elim 0 (·.2)
  let right := d.clayTag.get (key / 2048) (false, 0, 0) == (true, x.slot.getD 0, x.tenant)
  if dup = 0 && right then (true, d) else
  let d := d.satInc row_BED_CLAY k f_BED_CLAY_TAG_FAULTS
  if right && dup = 1 then (true, d.log (clayDom k) 0x09 false k)
  else (false, ((d.log (clayDom k) 0x09 true k).failRun b 0x10A).domFence (clayDom k) 4)

/-- DETAIL of a clay UE (R292). -/
def clayDetail (key : Nat) : Nat := key / 2048 / 320 * 2 ^ 40 + key / 2048 % 320 * 2 ^ 31 + key % 2048 * 2 ^ 20

/-- Read a stored clay granule: a CE is rewritten, a lasting UE fences the buffer (R294, R302). The upsets that physics gives
the read are those of key 2^60 + key. -/
def Dev.clayLoad (d : Dev) (ph : Phys) (k key : Nat) : Option Gran × Dev :=
  if !d.clayWr.get key false then (some 0, d) else
  let c := d.clayGet key
  let u := (ph.mem.find? fun e => e.1 == 2 ^ 60 + key).elim ((0, 0) : Code × Code) (·.2)
  let ce := fun (d : Dev) (g : Gran) => (d.satInc row_LOAM_STATUS (dieOfCluster k) f_LOAM_STATUS_CLAY_CE).clayPut key (loamEncode g)
  match loamDecode (c ^^^ u.1) with
  | (.clean, g) => (some g, d)
  | (.ce _, g) => (some g, ce d g)
  | (.ue, _) => match loamDecode (c ^^^ u.2) with
    | (.clean, g) => (some g, d.log (clayDom k) 0x02 false (clayDetail key))
    | (.ce _, g) => (some g, ce (d.log (clayDom k) 0x02 false (clayDetail key)) g)
    | (.ue, _) => (none, (d.log (clayDom k) 0x02 true (clayDetail key)).domFence (clayDom k) 5)

/-- Read clay granule o of context c on bed b: none where no data is delivered. Every cluster of a bed holds what was written to all of
them (R175), so the home cluster's granule stands for each cluster's own (DESIGN CHOICE, log 42: the spec names the home cluster for
scalar loads only). -/
def Dev.clayRead (d : Dev) (ph : Phys) (b c o : Nat) : Option Gran × Dev :=
  match d.homeCluster b with
  | none => (none, d)
  | some k => match (d.ctx c).clayAt k o with
    | none => (none, d)
    | some key =>
      let (ok, d) := d.clayTagOk ph b c k key
      if ok then d.clayLoad ph k key else (none, d)

/-- Is granule g of a page one of a coded block's. -/
def ClayRef.covers (r : ClayRef) (g : Nat) : Bool := decide (r.first ≤ g ∧ g < r.first + r.n)

/-- The references of coded blocks that a write to a page granule overwrites end (R136); a block whose header it overwrites is no more
there. -/
def Dev.clayRefsCut (d : Dev) (key : Nat) : Dev :=
  let l := d.clayRefs.get (key / 2048) []
  let g := key % 2048
  if l.any (·.covers g) then
    let left := l.filterMap fun r => if !r.covers g then some r else if r.first = g then none else some { r with counted := false }
    let d := { d with clayRefs := d.clayRefs.set (key / 2048) left [] }
    d.refsRelease ((l.filter fun r => r.covers g && r.counted).map fun r => (r.id.ref, 1))
  else d

/-- The coded block whose header is clay granule o of context c on bed b. -/
def Dev.clayBlock (d : Dev) (b c o : Nat) : Option BlkId :=
  ((d.homeCluster b).bind fun k => (d.ctx c).clayAt k o).bind fun key =>
    ((d.clayRefs.get (key / 2048) []).find? fun r => r.first == key % 2048).map (·.id)

/-- Store a granule in one cluster: the written bit is set, check bits formed. -/
def Dev.clayStore (d : Dev) (key : Nat) (g : Gran) : Dev :=
  let d := d.clayRefsCut key
  { d.clayPut key (loamEncode g) with clayWr := d.clayWr.set key true false }

/-- Store a granule in one cluster if its page's tag is right (R134); false where it is not. -/
def Dev.clayPutIn (d : Dev) (ph : Phys) (b c k o : Nat) (g : Gran) : Bool × Dev :=
  match (d.ctx c).clayAt k o with
  | none => (true, d)
  | some key =>
    let (ok, d) := d.clayTagOk ph b c k key
    (ok, if ok then d.clayStore key g else d)

/-- Write clay granule o of context c into every live cluster of bed b (R175): false where a tag check failed. -/
def Dev.clayWrite (d : Dev) (ph : Phys) (b c o : Nat) (g : Gran) : Bool × Dev :=
  (d.liveClusters b).foldl (fun (r : Bool × Dev) k =>
    let (ok, d) := r.2.clayPutIn ph b c k o g
    (r.1 && ok, d)) (true, d)

/-- Write a result into every live cluster of bed b (for results of operations DEDUCED, log 30); it crosses the bridge to the clusters of
the other die (R11). False where it did not arrive everywhere. -/
def Dev.clayResult (d : Dev) (ph : Phys) (b c o : Nat) (g : Gran) : Bool × Dev :=
  (d.liveClusters b).foldl (fun (r : Bool × Dev) k =>
    match r.2.cross ph (2 ^ 60 + ((d.ctx c).clayAt k o).getD 0) (d.bedDie b) (dieOfCluster k) g with
    | (none, d) => (false, d)
    | (some g, d) =>
      let (ok, d) := d.clayPutIn ph b c k o g
      (r.1 && ok, d)) (true, d)

/-! ### Scalar slots (R171, R174) -/

/-- A scalar slot. -/
structure Slot where
  op : Nat
  pn : Bool
  pi : Nat
  rd : Nat
  ra : Nat
  rb : Nat
  rsv : Nat
  imm : Nat
  deriving DecidableEq, Repr

def slotOf (w : Nat) : Slot :=
  ⟨bits w 56 8, bitOf w 55, bits w 52 3, bits w 46 6, bits w 40 6, bits w 34 6, bits w 32 2, bits w 0 32⟩

/-- What a register field of an opcode is: not used, a scalar, a predicate or a tensor register. -/
inductive RK where
  | no | s | p | t
  deriving DecidableEq, Repr

/-- The register fields RD, RA, RB of an opcode; none for a reserved opcode. -/
def slotRegs (op : Nat) : Option (RK × RK × RK) :=
  if op = 0x00 then some (.no, .no, .no)
  else if 0x10 ≤ op ∧ op ≤ 0x1E then some (.s, .s, .s)
  else if 0x30 ≤ op ∧ op ≤ 0x3E then some (.s, .s, .no)
  else if op = 0x20 ∨ op = 0x21 then some (.s, .no, .no)
  else if 0x40 ≤ op ∧ op ≤ 0x45 then some (.p, .s, .s)
  else if 0x50 ≤ op ∧ op ≤ 0x55 then some (.p, .s, .no)
  else if 0x48 ≤ op ∧ op ≤ 0x4B then some (.p, .p, .p)
  else match op with
    | 0x60 => some (.no, .no, .no)
    | 0x61 => some (.s, .no, .no)
    | 0x62 => some (.no, .s, .no)
    | 0x70 | 0x71 => some (.s, .s, .no)
    | 0x72 | 0x73 => some (.no, .s, .s)
    | 0x80 => some (.t, .s, .no)
    | 0x81 => some (.no, .s, .t)
    | 0x82 => some (.s, .t, .no)
    | 0x83 | 0x84 => some (.t, .s, .no)
    | 0x85 => some (.t, .t, .no)
    | 0x90 => some (.no, .s, .no)
    | 0x91 => some (.s, .no, .no)
    | 0x92 => some (.no, .no, .no)
    | 0x93 | 0x94 => some (.s, .no, .no)
    | _ => none

/-- Is a register field's value one the opcode accepts. -/
def RK.ok (k : RK) (v : Nat) : Bool :=
  match k with
  | .no => v == 0
  | .s => true
  | .p => decide (v < 8)
  | .t => decide (v < 32)

/-- Is a slot free of reserved encodings (R172, R174), whatever its predicate. -/
def Slot.ok (x : Slot) : Bool :=
  match slotRegs x.op with
  | none => false
  | some (d, a, b) => d.ok x.rd && a.ok x.ra && b.ok x.rb && x.rsv == 0 &&
      (!(x.op == 0x82 || x.op == 0x83 || x.op == 0x84) || decide (x.imm < 15))

/-- The register a slot writes. -/
def Slot.dest (x : Slot) : Option (RK × Nat) :=
  match slotRegs x.op with
  | some (.no, _, _) | none => none
  | some (k, _, _) => some (k, x.rd)

/-- BR, BRL and JR are control transfers. -/
def Slot.transfer (x : Slot) : Bool := x.op == 0x60 || x.op == 0x61 || x.op == 0x62

/-- The scalar conditions of R172 on a pair of slots. -/
def slotsOk (x y : Slot) : Bool :=
  x.ok && y.ok && !(x.transfer && y.transfer) && (x.dest.isNone || x.dest ≠ y.dest)

/-- Does a slot execute (R171). -/
def Slot.runs (x : Slot) (c : Ctx) : Bool := c.pGet x.pi != x.pn

/-- IMM sign-extended. -/
def Slot.sext (x : Slot) : Word := (BitVec.ofNat 32 x.imm).signExtend 64

/-- The arithmetic of opcodes 0x10 to 0x1E (R174). -/
def alu (op : Nat) (a b : Word) : Word :=
  match op with
  | 0x10 => a + b
  | 0x11 => a - b
  | 0x12 => a &&& b
  | 0x13 => a ||| b
  | 0x14 => a ^^^ b
  | 0x15 => a <<< (b.toNat % 64)
  | 0x16 => a >>> (b.toNat % 64)
  | 0x17 => a.sshiftRight (b.toNat % 64)
  | 0x18 => if a.slt b then a else b
  | 0x19 => if a.slt b then b else a
  | 0x1A => if a < b then a else b
  | 0x1B => if a < b then b else a
  | 0x1C => a * b
  | 0x1D => BitVec.ofInt 64 (a.toInt * b.toInt / 2 ^ 64)
  | _ => BitVec.ofNat 64 (a.toNat * b.toNat / 2 ^ 64)

/-- The comparisons of opcodes 0x40 to 0x45. -/
def cmp (op : Nat) (a b : Word) : Bool :=
  match op with
  | 0x40 => a == b
  | 0x41 => a != b
  | 0x42 => a.slt b
  | 0x43 => decide (a < b)
  | 0x44 => a.sle b
  | _ => decide (a ≤ b)

/-- Predicate logic of opcodes 0x48 to 0x4B. -/
def plog (op : Nat) (a b : Bool) : Bool :=
  match op with
  | 0x48 => a && b
  | 0x49 => a || b
  | 0x4A => a != b
  | _ => a && !b

/-- Descriptor fields by selector (R179): low bit and width. -/
def selField (i : Nat) : Nat × Nat :=
  ([(254, 2), (206, 48), (202, 4), (201, 1), (199, 2), (198, 1), (187, 11), (182, 5), (181, 1), (84, 20), (104, 20), (124, 20),
    (144, 20), (0, 28), (28, 56)] : List (Nat × Nat)).getD i (0, 0)

def selGet (t : Gran) (i : Nat) : Nat := bits t.toNat (selField i).1 (selField i).2
/-- Replace a field by the low bits of a value. -/
def selSet (t : Gran) (i v : Nat) : Gran :=
  let (lo, w) := selField i
  BitVec.ofNat 256 (t.toNat - bits t.toNat lo w * 2 ^ lo + v % 2 ^ w * 2 ^ lo)

/-- Write a scalar register; S0 discards. -/
def Ctx.sPut (x : Ctx) (i : Nat) (v : Word) : Ctx := if i = 0 then x else { x with s := x.s.set i v 0 }
/-- Write a predicate; P0 discards. -/
def Ctx.pPut (x : Ctx) (i : Nat) (v : Bool) : Ctx :=
  if i = 0 then x else
  let m : BitVec 8 := BitVec.ofNat 8 (2 ^ i)
  { x with p := if v then x.p ||| m else x.p &&& ~~~ m }
/-- Write a tensor register. -/
def Ctx.tPut (x : Ctx) (i : Nat) (v : Gran) : Ctx := { x with t := x.t.set i v 0 }

/-! ### Scalar clay accesses (R175, R176) -/

/-- Bytes of a clay access: 0 for other opcodes. -/
def Slot.size (x : Slot) : Nat :=
  match x.op with
  | 0x70 | 0x72 => 8
  | 0x71 | 0x73 => 4
  | 0x80 | 0x81 => 32
  | _ => 0
/-- Is it a store. -/
def Slot.stores (x : Slot) : Bool := x.op == 0x72 || x.op == 0x73 || x.op == 0x81
/-- The address of a clay access, from the state at the start of the word. -/
def Slot.addr (x : Slot) (c : Ctx) : Nat := (c.sGet x.ra + x.sext).toNat
/-- Address, size and direction of a clay access that executes. -/
def Slot.access (x : Slot) (c : Ctx) : Option (Nat × Nat × Bool) :=
  if x.size ≠ 0 && x.runs c then some (x.addr c, x.size, x.stores) else none

/-- n bytes of a granule from byte i. -/
def granPart (g : Gran) (i n : Nat) : Nat := bits g.toNat (8 * i) (8 * n)
/-- A granule with n bytes from byte i replaced. -/
def granSplice (g : Gran) (i n v : Nat) : Gran :=
  BitVec.ofNat 256 (g.toNat - granPart g i n * 2 ^ (8 * i) + v % 2 ^ (8 * n) * 2 ^ (8 * i))

/-! ### One scalar slot -/

/-- What a word has done so far: the context as it will be, next PC, END code, SLEEP (register, timeout), a stop status. -/
structure WordSt where
  x : Ctx
  next : BitVec 48
  fin : Option Word
  sleep : Option (Nat × Nat)
  stop : Nat
  deriving DecidableEq, Repr

/-- Everything that no clay access needs; x0 is the state at the start of the word. -/
def Slot.exec (t : Slot) (x0 : Ctx) (w : WordSt) : WordSt :=
  let a := x0.sGet t.ra
  let b := x0.sGet t.rb
  let s := fun v => { w with x := w.x.sPut t.rd v }
  let pc : Word := x0.pc.setWidth 64
  if 0x10 ≤ t.op ∧ t.op ≤ 0x1E then s (alu t.op a b)
  else if 0x30 ≤ t.op ∧ t.op ≤ 0x3E then s (alu (t.op - 0x20) a t.sext)
  else if 0x40 ≤ t.op ∧ t.op ≤ 0x45 then { w with x := w.x.pPut t.rd (cmp t.op a b) }
  else if 0x50 ≤ t.op ∧ t.op ≤ 0x55 then { w with x := w.x.pPut t.rd (cmp (t.op - 0x10) a t.sext) }
  else if 0x48 ≤ t.op ∧ t.op ≤ 0x4B then { w with x := w.x.pPut t.rd (plog t.op (x0.pGet t.ra) (x0.pGet t.rb)) }
  else match t.op with
    | 0x20 => s t.sext
    | 0x21 => s (BitVec.ofNat 64 (t.imm * 2 ^ 32 + (x0.sGet t.rd).toNat % 2 ^ 32))
    | 0x60 => { w with next := (pc + 32 * t.sext).setWidth 48 }
    | 0x61 => { s (pc + 32) with next := (pc + 32 * t.sext).setWidth 48 }
    | 0x62 => { w with next := a.setWidth 48 }
    | 0x82 => s (BitVec.ofNat 64 (selGet (x0.tGet t.ra) (t.imm % 16)))
    | 0x83 => { w with x := w.x.tPut t.rd (selSet (x0.tGet t.rd) (t.imm % 16) a.toNat) }
    | 0x84 => { w with x := w.x.tPut t.rd (selSet (x0.tGet t.rd) (t.imm % 16) (selGet (x0.tGet t.rd) (t.imm % 16) + a.toNat)) }
    | 0x85 => { w with x := w.x.tPut t.rd (x0.tGet t.ra) }
    | 0x90 => { w with fin := some a }
    | 0x91 => { w with sleep := some (t.rd, t.imm) }
    | 0x92 => { w with x := { w.x with yield := true } }
    | 0x93 =>
      let r := s (x0.flags.setWidth 64)
      if t.imm % 2 = 1 then { r with x := { r.x with flags := 0 } } else r
    | 0x94 => s (x0.last.setWidth 64)
    | _ => w

/-- What the home cluster k of bed b loads goes to every core of the bed (R170, R175), over the bridge to those of the other die. -/
def Dev.toCores (d : Dev) (ph : Phys) (b k key : Nat) (g : Gran) : Option Gran × Dev :=
  match ((d.liveCores b).map fun c => dieOfCluster (c / 8)).find? (· ≠ dieOfCluster k) with
  | none => (some g, d)
  | some die => d.cross ph key (dieOfCluster k) die g

/-- A clay access of a slot: the range check, the tag check, then the load or the store (R134, R175). A store writes every live
cluster; one of less than a granule reads the granule it changes. -/
def Dev.slotClay (d : Dev) (ph : Phys) (b c : Nat) (t : Slot) (x0 : Ctx) (w : WordSt) : WordSt × Dev :=
  let a := t.addr x0
  let n := t.size
  if a % n ≠ 0 || x0.clayPages * 65536 ≤ a then ({ w with stop := 0x105 }, d) else
  if x0.clayLost then ({ w with stop := 0x10B }, d) else
  match d.homeCluster b with
  | none => ({ w with stop := 0x10B }, d)
  | some k => match (d.ctx c).clayAt k (a / 32) with
    | none => ({ w with stop := 0x10B }, d)
    | some key =>
      let put := fun (d : Dev) (g : Gran) =>
        let (ok, d) := d.clayWrite ph b c (a / 32) g
        (if ok then w else { w with stop := 0x10A }, d)
      if t.stores && n == 32 then put d (x0.tGet t.rb) else
      let (ok, d) := d.clayTagOk ph b c k key
      if !ok then ({ w with stop := 0x10A }, d) else
      match d.clayLoad ph k key with
      | (none, d) => ({ w with stop := 0x10B }, d)
      | (some g, d) =>
        if t.stores then put d (granSplice g (a % 32) n (x0.sGet t.rb).toNat)
        else match d.toCores ph b k (2 ^ 60 + key) g with
          | (none, d) => ({ w with stop := 0x10B }, d)
          | (some g, d) =>
            let v := granPart g (a % 32) n
            ({ w with x := if n = 32 then w.x.tPut t.rd (BitVec.ofNat 256 v) else w.x.sPut t.rd (BitVec.ofNat 64 v) }, d)

/-- One slot in its turn: slot 0 before slot 1; nothing follows a stop. -/
def Dev.slotRun (d : Dev) (ph : Phys) (b c : Nat) (t : Slot) (x0 : Ctx) (w : WordSt) : WordSt × Dev :=
  if !t.runs x0 || w.stop ≠ 0 then (w, d)
  else if t.size ≠ 0 then d.slotClay ph b c t x0 w
  else (t.exec x0 w, d)

/-- Is JR to a misaligned address among the slots that execute (R174). -/
def Slot.badJump (t : Slot) (x0 : Ctx) : Bool := t.op == 0x62 && t.runs x0 && (x0.sGet t.ra).toNat % 32 ≠ 0

/-! ### Fetch (R180, R181) -/

/-- Does the ceiling of bed b let it fetch the word at an address now (R258, R259), and do the instances of its set bring data (R19). A fetch
is applied as it is issued. -/
def Dev.fetchOk (d : Dev) (b c a : Nat) : Bool :=
  (d.windowExt c (a / 65536)).elim true fun x => !d.setStopped (d.desc x).set &&
    d.ceilOk (bedMaster b) (addCharge [] (d.desc x).set ((d.desc x).readCharge (a / 32 % 2048) 1))

/-- Is the word at an address in the instruction buffers of bed b. -/
def Dev.buffered (d : Dev) (b a : Nat) : Bool := (d.bed b).ibuf.any fun e => e.1 == a

/-- Fetch the word at an address into the instruction buffers of bed b, if it is not there. -/
def Dev.fetchWord (d : Dev) (b c : Nat) (ph : Phys) (a : Nat) : Dev :=
  if d.buffered b a || !d.fetchOk b c a then d else
  let ((st, l), d) := d.readWindow (d.bedAgent b) ph c a 1 rX
  d.updBed b fun y => { y with ibuf := y.ibuf ++ [(a, if st = 0 then l.head? else none, st)] }

/-- The word due at PC with the words fetched ahead of it: at most 64. -/
def Dev.fetchAhead (d : Dev) (b c : Nat) (ph : Phys) (pc ahead : Nat) : Dev :=
  d.each (List.range (min 64 ahead + 1)) fun d i => if pc + 32 * i < 2 ^ 48 then d.fetchWord b c ph (pc + 32 * i) else d

/-- The word at an address, or the status of its fetch. -/
def Dev.wordAt (d : Dev) (b a : Nat) : Option Gran × Nat :=
  match (d.bed b).ibuf.find? fun e => e.1 == a with
  | some e => e.2
  | none => (none, 0x01)

/-! ### Signatures (R170) -/

/-- The class of a core's signature: 0 unless the list says otherwise. -/
def sigOf (l : List (Nat × Nat)) (c : Nat) : Nat := (l.find? fun e => e.1 == c).elim 0 (·.2)
/-- The signature that more than half of the cores hold. -/
def majority (cores : List Nat) (l : List (Nat × Nat)) : Option Nat :=
  (cores.map (sigOf l)).find? fun v => decide (cores.length < 2 * (cores.filter fun c => sigOf l c == v).length)

/-- Fence a core whose control unit differs: the fence falls between operations and fails none. -/
def Dev.sigFence (d : Dev) (b c : Nat) : Dev :=
  let run := (d.bed b).run
  ((d.log (coreDom c) 0x0A true c).domFence (coreDom c) 3).updBed b fun y => { y with run := run }

/-- Compare signatures, and once more where they disagree: false stops the program with CONTROL_FAULT. -/
def Dev.signatures (d : Dev) (b : Nat) (dis1 dis2 : List (Nat × Nat)) : Bool × Dev :=
  let cores := d.liveCores b
  let odd := fun (l : List (Nat × Nat)) (v : Option Nat) => cores.filter fun c => some (sigOf l c) ≠ v
  let bad1 := odd dis1 (majority cores dis1)
  if bad1 = [] then (true, d) else
  match majority cores dis2 with
  | none =>
    let c := cores.headD 0
    (false, (d.log (coreDom c) 0x0A true c).integrityFault 0x0A c)
  | some v =>
    let bad2 := odd dis2 (some v)
    let d := d.each (bad1.filter fun c => !bad2.contains c) fun d c => d.log (coreDom c) 0x0A false c
    (true, d.each bad2 fun d c => d.sigFence b c)

end Sys2Proof.Machine
end

