-- ==== Sys2Proof/Machine/TOps.lean ====
section
/-! DEFINITION. Tensor operations: descriptors as operands (R177, R178, R191 to R194), slot encodings (R189, R190), resolution
(R195), operand reads (R127, R135, R137, R139), writes of results (R95, R138, R191). -/
namespace Sys2Proof.Machine

/-! ### Descriptors (R177) -/

/-- A tensor descriptor. kind 1 window, 2 clay, 3 window slot. -/
structure TDesc where
  kind : Nat
  loc : Nat
  fmt : Nat
  var : Nat
  rank : Nat
  codec : Bool
  tensor : Nat
  scaleT : Nat
  coded : Bool
  rsv : Nat
  d0 : Nat
  d1 : Nat
  d2 : Nat
  d3 : Nat
  s1 : Nat
  s2 : Nat
  s3 : Nat
  deriving DecidableEq, Repr

def tdesc (t : Gran) : TDesc :=
  let v := t.toNat
  { kind := bits v 254 2, loc := bits v 206 48, fmt := bits v 202 4, var := bits v 201 1, rank := bits v 199 2,
    codec := bitOf v 198, tensor := bits v 187 11, scaleT := bits v 182 5, coded := bitOf v 181, rsv := bits v 164 17,
    d0 := bits v 84 20, d1 := bits v 104 20, d2 := bits v 124 20, d3 := bits v 144 20, s1 := bits v 0 28, s2 := bits v 28 28,
    s3 := bits v 56 28 }

/-- Lengths: beyond the rank they act as 1. -/
def TDesc.n0 (t : TDesc) : Nat := max 1 t.d0
def TDesc.n1 (t : TDesc) : Nat := max 1 t.d1
def TDesc.n2 (t : TDesc) : Nat := max 1 t.d2
def TDesc.n3 (t : TDesc) : Nat := max 1 t.d3
def TDesc.dims (t : TDesc) : List Nat := [t.n0, t.n1, t.n2, t.n3]

/-- The part of R178 that a scale tensor's descriptor meets too. -/
def TDesc.placed (t : TDesc) : Bool :=
  t.kind ≠ 0 && t.rsv == 0 && !(t.coded && t.kind ≠ 2) && (t.codec || t.tensor == 0) &&
  !(t.kind == 1 && t.loc % 32 ≠ 0) && !(t.kind == 2 && (t.loc % 32 ≠ 0 || 2 ^ 25 ≤ t.loc)) &&
  (([t.d0, t.d1, t.d2, t.d3] : List Nat).zip (List.range 4)).all (fun p => if p.2 ≤ t.rank then p.1 ≠ 0 else p.1 == 0) &&
  (([t.s1, t.s2, t.s3] : List Nat).zip (List.range 3)).all (fun p => p.2 < t.rank || p.1 == 0)

/-- R178 with the scale tensor's descriptor. SCALE_T names register 0 only where none is needed. -/
def TDesc.valid (t sc : TDesc) : Bool :=
  t.placed && (if fmtScaled t.fmt then t.scaleT ≠ 0 && sc.placed else t.scaleT == 0)

/-- A scale tensor's own element format: BF16 for KQ8, else a byte. -/
def TDesc.asScale (sc : TDesc) (fmt : Nat) : TDesc := { sc with fmt := if fmt = 13 then 2 else 3, var := 0 }

/-- First granule (R191), granules of a row, distance of row (i1, i2, i3). -/
def TDesc.base (t : TDesc) : Nat := if t.kind = 3 then t.loc % 2 ^ 30 else t.loc / 32
def TDesc.rowG (t : TDesc) : Nat := (rowBytes t.fmt t.n0 + 31) / 32
def TDesc.row (t : TDesc) (i1 i2 i3 : Nat) : Nat := t.base + i1 * t.s1 + i2 * t.s2 + i3 * t.s3

/-- Row indices in ascending i1, then i2, then i3. -/
def rowIx (n1 n2 n3 : Nat) : List (Nat × Nat × Nat) :=
  (List.range n3).flatMap fun k => (List.range n2).flatMap fun j => (List.range n1).map fun i => (i, j, k)
def TDesc.rows (t : TDesc) : List (Nat × Nat × Nat) := rowIx t.n1 t.n2 t.n3
def TDesc.rowOf (t : TDesc) (i : Nat × Nat × Nat) : Nat := t.row i.1 i.2.1 i.2.2

/-- The granules of a tensor with dense rows, and the blocks of coded clay (R194). -/
def TDesc.denseG (t : TDesc) : Nat := t.rowG * t.n1 * t.n2 * t.n3
def TDesc.blocks (t : TDesc) : Nat := t.denseG / 64

/-- The granules [first, end) that a descriptor states: coded clay counts 65 for each block. Ranges are compared as these
spans (DEDUCED, log 31). -/
def TDesc.span (t : TDesc) : Nat × Nat :=
  (t.base, if t.coded then t.base + 65 * t.blocks
    else t.row (t.n1 - 1) (t.n2 - 1) (t.n3 - 1) + t.rowG)

/-- Rows are dense: every stride within the rank is the span below it (R194). -/
def TDesc.dense (t : TDesc) : Bool :=
  (decide (t.rank < 1) || t.s1 == t.rowG) && (decide (t.rank < 2) || t.s2 == t.rowG * t.n1) &&
    (decide (t.rank < 3) || t.s3 == t.rowG * t.n1 * t.n2)

/-- No two elements of a destination share a granule (R192). -/
def TDesc.apart (t : TDesc) : Bool :=
  let a := t.rowG
  let b := if t.n1 = 1 then a else t.s1 * (t.n1 - 1) + a
  let c := if t.n2 = 1 then b else t.s2 * (t.n2 - 1) + b
  (t.n1 == 1 || decide (a ≤ t.s1)) && (t.n2 == 1 || decide (b ≤ t.s2)) && (t.n3 == 1 || decide (c ≤ t.s3))

/-! ### Slots (R189, R190) -/

def slotTop (s : BitVec 128) : Nat := bits s.toNat 120 8
/-- Bits hi down to lo of a slot. -/
def sf (s : BitVec 128) (hi lo : Nat) : Nat := bits s.toNat lo (hi + 1 - lo)
def slotRtz (s : BitVec 128) : Bool := bitOf s.toNat 90
def slotSat (s : BitVec 128) : Bool := bitOf s.toNat 89

/-- Registers TD to TE by role 0 to 4; role 5 is TL of ATTN. -/
def slotReg (s : BitVec 128) (role : Nat) : Nat := if role = 5 then sf s 54 50 else bits s.toNat (111 - 5 * role) 5

/-- Arity of an EWISE function. -/
def ewArity (fn : Nat) : Nat := if fn = 6 then 3 else if 1 ≤ fn ∧ fn ≤ 5 then 2 else 1

/-- Destination roles and source roles of a slot. -/
def slotDests (s : BitVec 128) : List Nat :=
  match slotTop s with
  | 0x02 => if bitOf s.toNat 55 then [0, 5] else [0]
  | 0x05 => [0, 2]
  | 0x01 | 0x03 | 0x04 | 0x06 | 0x07 | 0x08 | 0x09 | 0x0A => [0]
  | _ => []
def slotSrcs (s : BitVec 128) : List Nat :=
  match slotTop s with
  | 0x01 => [1, 2] ++ (if sf s 88 87 ≠ 0 then [3] else []) ++ (if bitOf s.toNat 86 then [4] else [])
  | 0x02 => [1, 2, 3, 4]
  | 0x03 => (List.range (ewArity (sf s 88 83))).map (· + 1)
  | 0x05 => if bitOf s.toNat 80 then [1, 3] else [1]
  | 0x06 => [1, 3]
  | 0x07 => if bitOf s.toNat 87 then [1, 2, 3] else [1, 3]
  | 0x04 | 0x08 | 0x09 | 0x0A | 0x0D => [1]
  | _ => []

/-- Does an operation convert (R190). -/
def slotConverts (s : BitVec 128) : Bool :=
  let t := slotTop s
  decide (1 ≤ t ∧ t ≤ 5) || t == 0x0A || (t == 0x07 && bitOf s.toNat 88)

/-- Bits [88:0] that an opcode's section defines, as its lowest defined bit, and the legality of its field values. -/
def slotFields (s : BitVec 128) : Nat × Bool :=
  match slotTop s with
  | 0x01 => (51, sf s 88 87 ≠ 3 && decide (sf s 85 83 ≤ 4))
  | 0x02 => (50, bitOf s.toNat 55 || sf s 54 50 == 0)
  | 0x03 => (51, decide (sf s 88 83 ≤ 0x13))
  | 0x04 => (86, decide (sf s 88 86 ≤ 4))
  | 0x05 => (80, decide (1 ≤ sf s 88 83 ∧ sf s 88 83 ≤ 32))
  | 0x07 => (87, bitOf s.toNat 88 || !bitOf s.toNat 87)
  | 0x08 => (88, true)
  | 0x0B => (63, match sf s 70 69 with
      | 0 => sf s 68 63 == 0
      | 1 => sf s 82 71 == 0
      | 2 => sf s 82 71 == 0 && sf s 68 63 == 0
      | _ => false)
  | 0x0C => (87, true)
  | 0x0D => (72, true)
  | _ => (89, true)

/-- Is a tensor slot free of reserved encodings (R171, R190). -/
def tslotOk (s : BitVec 128) : Bool :=
  if slotTop s = 0 then s == 0
  else decide (slotTop s ≤ 0x0D) &&
    ((List.range 5).all fun r => (slotDests s).contains r || (slotSrcs s).contains r || slotReg s r == 0) &&
    (slotConverts s || sf s 90 89 == 0) && (slotFields s).2 && bits s.toNat 0 (slotFields s).1 == 0

/-! ### The operation's descriptors -/

/-- The descriptor of a role, and its scale tensor's. -/
def TOp.t (o : TOp) (r : Nat) : TDesc := tdesc (o.desc.get r 0)
def TOp.sc (o : TOp) (r : Nat) : Option TDesc :=
  let t := o.t r
  if fmtScaled t.fmt then some ((tdesc (o.desc.get (r + 8) 0)).asScale t.fmt) else none
/-- The descriptors of a role, its own and its scale tensor's. -/
def TOp.ts (o : TOp) (r : Nat) : List TDesc := o.t r :: (o.sc r).toList
def TOp.dests (o : TOp) : List TDesc := (slotDests o.slot).flatMap o.ts
/-- SCATTER with ADD = 1 reads its table. -/
def TOp.scatterAdd (o : TOp) : Bool := slotTop o.slot == 0x07 && bitOf o.slot.toNat 88
def TOp.sources (o : TOp) : List TDesc := (slotSrcs o.slot).flatMap o.ts ++ (if o.scatterAdd then o.ts 0 else [])

/-- Do two ranges of one space overlap. -/
def spansMeet (a b : TDesc) : Bool :=
  (a.kind == b.kind) && decide (a.span.1 < b.span.2 ∧ b.span.1 < a.span.2) && a.kind ≠ 3

/-! ### Resolution (R195) -/

/-- Formats by role (R147, R193): A broadcast, B lane, an index, FP32, or any readable format. -/
inductive FK where
  | a | b | ix | fp32 | any
  deriving DecidableEq, Repr

def FK.ok (k : FK) (f v : Nat) : Bool :=
  fmtOk f v && match k with
    | .a => f ≠ 0 && f ≠ 14
    | .b => f ≠ 0
    | .ix | .fp32 => f == 0
    | .any => true

def roleKind (s : BitVec 128) (r : Nat) : FK :=
  match slotTop s, r with
  | 0x01, 1 => .a
  | 0x01, 2 => .b
  | 0x02, 1 => .b
  | 0x02, 2 | 0x02, 4 => .a
  | 0x02, 3 | 0x05, 2 | 0x06, 3 | 0x07, 3 => .ix
  | 0x02, 5 => .fp32
  | 0x04, 0 => if sf s 88 86 = 4 then .ix else .any
  | _, _ => .any

/-- The format rules of operations that state one apart from shapes: SCATTER with ADD = 0 (R210). -/
def TOp.fmtRule (o : TOp) : Bool :=
  if slotTop o.slot = 0x07 && !bitOf o.slot.toNat 88 then (o.t 1).fmt == (o.t 0).fmt && (o.t 1).var == (o.t 0).var else true

/-- Equal formats among the shapes of R202, R209, R211, R212. -/
def sameFmt (a b : TDesc) : Bool := a.fmt == b.fmt && a.var == b.var

/-- R151 and the shape of the scale tensor (R191). -/
def TOp.packed (o : TOp) (r : Nat) : Bool :=
  let t := o.t r
  t.n0 % fmtUnit t.fmt == 0 && (!(t.fmt == 9) || t.n0 % 4 == 0) &&
  match o.sc r with
  | none => true
  | some c => c.dims == [t.n0 / fmtBlock t.fmt, t.n1, t.n2, t.n3]

/-- The one overlap that R192 allows: EWISE in place. -/
def TOp.inPlace (o : TOp) : Bool :=
  let a := o.t 0
  let b := o.t 1
  slotTop o.slot == 0x03 && { a with fmt := 0, var := 0 } == { b with fmt := 0, var := 0 } &&
    fmtBits a.fmt == fmtBits b.fmt && !fmtScaled a.fmt && !fmtScaled b.fmt

/-- R192 on destinations. -/
def TOp.destsOk (o : TOp) : Bool :=
  let ds := (slotDests o.slot).map fun r => (r, o.ts r)
  let ss := (slotSrcs o.slot).map fun r => (r, o.ts r)
  let flat := fun (l : List (Nat × List TDesc)) => l.flatMap fun p => p.2.map fun t => (p.1, t)
  let fd := flat ds
  (fd.all fun p => (p.2.kind == 1 || p.2.kind == 2) && (p.2.coded || p.2.apart)) &&
  ((List.range fd.length).all fun i => (List.range i).all fun j =>
    !spansMeet (fd.getD i (0, o.t 0)).2 (fd.getD j (0, o.t 0)).2) &&
  (fd.all fun p => (flat ss).all fun q => (p.1 == 0 && q.1 == 1 && o.inPlace) || !spansMeet p.2 q.2)

/-- A length that is 1 or the target's. -/
def bcast (a b : List Nat) : Bool := (a.zip b).all fun p => p.1 == p.2 || p.1 == 1

/-- The shape rules of each operation (R199, R202, R205 to R212, R215). -/
def TOp.shapeRule (o : TOp) : Bool :=
  let s := o.slot
  let td := o.t 0
  let ta := o.t 1
  let tb := o.t 2
  let tc := o.t 3
  let te := o.t 4
  match slotTop s with
  | 0x01 =>
    let ranks := ([td, ta, tb] : List TDesc).all fun t => t.rank == 1 || t.rank == 2
    ranks && ta.n0 == tb.n0 && (tb.n2 == ta.n2 || tb.n2 == 1) && td.dims == [tb.n1, ta.n1, ta.n2, 1] &&
      (sf s 88 87 ≠ 1 || tc.dims == td.dims) && (sf s 88 87 ≠ 2 || tc.dims == [tb.n1, 1, 1, 1]) &&
      (!bitOf s.toNat 86 || te.dims == td.dims)
  | 0x02 =>
    ta.n0 % 32 == 0 && decide (32 ≤ ta.n0 ∧ ta.n0 ≤ 256) && decide (ta.n1 ≤ 32) && tb.n1 % 32 == 0 && tb.n0 == ta.n0 &&
      tb.n2 == ta.n2 && te.dims == tb.dims && sameFmt tb te && td.dims == ta.dims && decide (tc.rank ≤ 1) && tc.n1 == ta.n3 &&
      (!bitOf s.toNat 55 || (o.t 5).dims == [ta.n1, ta.n2, ta.n3, 1])
  | 0x03 => (slotSrcs s).all fun r => (o.t r).rank == td.rank && bcast (o.t r).dims td.dims
  | 0x04 => td.dims == [1, ta.n1, ta.n2, ta.n3]
  | 0x05 =>
    let k := sf s 88 83
    decide (ta.n0 ≤ 4096) && decide (ta.rank ≤ 2) && tb.dims == [k, ta.n1, ta.n2, ta.n3] && td.dims == tb.dims &&
      (!bitOf s.toNat 80 || (tc.n0 == ta.n0 && bcast (tc.dims.drop 1) (ta.dims.drop 1)))
  | 0x06 =>
    ta.rank == 1 && decide (tc.rank ≤ 1) && sameFmt td ta && td.dims == [ta.n0, tc.n0, tc.n1, 1]
  | 0x07 =>
    td.rank == 1 && td.n0 == ta.n0 && decide (tc.rank ≤ 1) && tc.n0 == ta.n1 && tc.n1 == ta.n2 && ta.n3 == 1 &&
      (!bitOf s.toNat 87 || tb.dims == [ta.n1, ta.n2, 1, 1] || tb.dims == [1, ta.n1, ta.n2, 1])
  | 0x08 =>
    (ta.kind == 1 || ta.kind == 3) && td.kind == 2 && sameFmt ta td && ta.dims == td.dims &&
      (!td.coded || (ta.kind == 1 && ta.dense && ta.base % 64 == 0 && ta.denseG % 64 == 0))
  | 0x09 => ta.kind == 2 && td.kind == 1 && sameFmt ta td && ta.dims == td.dims
  | 0x0A => ta.dims == td.dims
  | 0x0D => ta.kind == 2 && ta.rank == 0 && rowBytes ta.fmt ta.n0 == 32
  | _ => true

/-- Coded clay is dense and a multiple of 2,048 bytes (R194). -/
def TDesc.codedShape (t : TDesc) : Bool :=
  !t.coded || (t.dense && t.denseG % 64 == 0)

/-- R94: a codec tensor of the descriptor's element width. An id of another partition is unusable (R93); like a FREE id, which has no
width, it is refused with CODEC_FMT (DESIGN CHOICE, log 42: the spec names no outcome for either). -/
def Dev.codecOk (d : Dev) (c : Nat) (t : TDesc) : Bool :=
  !t.codec || ((d.tensor t.tensor).alloc && d.tensorHere c t.tensor &&
    if (d.tensor t.tensor).width4 then t.fmt == 7 || t.fmt == 10
    else t.fmt == 3 || t.fmt == 4 || t.fmt == 8 || t.fmt == 11 || t.fmt == 12 || t.fmt == 13)

/-- R132, on the range's end. -/
def TDesc.clayIn (t : TDesc) (pages : Nat) : Bool := t.kind ≠ 2 || decide (t.span.2 * 32 ≤ pages * 65536)

/-- Uses of coded clay that R194 permits. -/
def TOp.codedOk (o : TOp) : Bool :=
  (slotDests o.slot ++ slotSrcs o.slot).all fun r =>
    !(o.ts r).any (·.coded) ||
      ((o.t r).coded && !((o.sc r).elim false (·.coded)) && ((slotTop o.slot == 0x08 && r == 0) || (slotTop o.slot == 0x01 && r == 1)))

/-- A window-slot location (R88). -/
def TDesc.planOf (t : TDesc) : Nat := t.loc / 2 ^ 42
def TDesc.layerOf (t : TDesc) : Nat := t.loc / 2 ^ 30 % 2 ^ 12

/-- PLAN_INVALID: not a plan of this context, no such layer, or a granule beyond the layer. -/
def Dev.slotOk (d : Dev) (c : Nat) (t : TDesc) : Bool :=
  let p := d.plan t.planOf
  p.st ≠ .none_ && p.st ≠ .loading && p.st ≠ .failed && p.ctx == c && decide (t.layerOf < p.layers.length) &&
    decide (t.span.2 ≤ 2048 * (p.layer t.layerOf).2)

/-- The window extents of a range. -/
def TDesc.wexts (t : TDesc) : List Nat :=
  if t.kind = 1 then (List.range ((t.span.2 - 1) / 2048 - t.base / 2048 + 1)).map (t.base / 2048 + ·) else []

/-- Translate every extent of a window range: the first status; each window extent with the extent and the binding. -/
def Dev.xlRange (d : Dev) (a : Agent) (ph : Phys) (c need : Nat) (write : Bool) : List Nat → (Nat × List (Nat × Nat × Nat)) × Dev
  | [] => ((0, []), d)
  | w :: t =>
    if 2 ^ 32 ≤ w then ((0x06, []), d) else
    match d.translate a ph c w need write with
    | (.bad s, d) => ((s, []), d)
    | (.ok x i, d) =>
      let ((s, l), d) := d.xlRange a ph c need write t
      ((s, (w, x, i) :: l), d)

/-- Step 7, range after range. -/
def Dev.xlDescs (d : Dev) (a : Agent) (ph : Phys) (c : Nat) : List (TDesc × Nat × Bool) → (Nat × List (Nat × Nat × Nat)) × Dev
  | [] => ((0, []), d)
  | (t, need, wr) :: r =>
    match d.xlRange a ph c need wr t.wexts with
    | ((0, l), d) =>
      let ((s, m), d) := d.xlDescs a ph c r
      ((s, l ++ m), d)
    | (e, d) => (e, d)

/-- A LOAD into coded clay takes whole blocks of extents with CODEC = 1 and the tensor that TD names (R211). -/
def Dev.loadCoded (d : Dev) (c : Nat) (o : TOp) : Bool :=
  !(slotTop o.slot == 0x08 && (o.t 0).coded) ||
  ((o.t 1).wexts.all fun w => (d.windowExt c w).elim true fun y =>
    (d.desc y).codec && (d.desc y).tensor == (o.t 0).tensor && (o.t 0).codec)

/-- Steps 1 to 6 of R195: 0 or the status of the first that fails. -/
def Dev.resolveCheck (d : Dev) (c : Nat) (o : TOp) : Nat :=
  let rs := slotDests o.slot ++ slotSrcs o.slot
  let x := d.ctx c
  let all := rs.flatMap o.ts
  if !(rs.all fun r => (o.t r).valid (tdesc (o.desc.get (r + 8) 0))) then 0x101
  else if !((rs.all fun r => (roleKind o.slot r).ok (o.t r).fmt (o.t r).var) && o.fmtRule) then 0x102
  else if !((rs.all o.packed) && o.destsOk && o.shapeRule && (all.all (·.codedShape))) then 0x103
  else if !(rs.all fun r => d.codecOk c (o.t r) && (o.sc r).all fun q => !q.codec) then 0x104
  else if !(all.all fun t => t.clayIn x.clayPages) then 0x105
  else if !(o.codedOk && d.loadCoded c o) then 0x106
  else if !(all.all fun t => t.kind ≠ 3 || d.slotOk c t) then 0x107
  else if slotTop o.slot = 0x0B then
    let p := d.plan (sf o.slot 88 83)
    if p.st == .none_ || p.st == .loading || p.st == .failed || p.ctx ≠ c then 0x107 else 0
  else 0

/-- An operation that resolution refuses: it does nothing when it starts. -/
def TOp.refused (o : TOp) (st : Nat) : TOp := { o with noop := true, status := st }

/-- Every run of granules of the destinations, with its descriptor. -/
def TOp.destRuns (o : TOp) : List (TDesc × Nat × Nat) :=
  o.dests.flatMap fun t => if t.coded then [(t, t.base, 65 * t.blocks)] else t.rows.map fun i => (t, t.rowOf i, t.rowG)

/-- What the operation writes at windows, by the extents that its resolution found. -/
def TOp.winOuts (o : TOp) (m : List (Nat × Nat × Nat)) : List OutRun :=
  ((o.destRuns.filter fun r => r.1.kind == 1).flatMap fun r => splitRange (32 * r.2.1) r.2.2).filterMap fun p =>
    (m.find? fun e => e.1 == p.1).map fun e => ⟨p.1, e.2.1, p.2.1, p.2.2, e.2.2⟩

/-- What it writes in clay: (granule, count). -/
def TOp.clayRuns (o : TOp) : List (Nat × Nat) := (o.destRuns.filter fun r => r.1.kind == 2).map fun r => (r.2.1, r.2.2)

/-- Resolve a tensor slot of context c on bed b (R127 step 1, R195). An operation that names clay while the area is lost, or that
meets a bed without a live core, fails (R143, R429). -/
def Dev.resolveOp (d : Dev) (b c : Nat) (ph : Phys) (pc : BitVec 48) (s : BitVec 128) : TOp × Dev :=
  let x := d.ctx c
  let rs := slotDests s ++ slotSrcs s
  let own : Tab Gran := rs.foldl (fun m r =>
    let t := x.tGet (slotReg s r)
    (Tab.set m r t 0).set (r + 8) (if fmtScaled (tdesc t).fmt then x.tGet (tdesc t).scaleT else 0) 0) []
  let o : TOp := { ctx := c, pc := pc, slot := s, desc := own, arg := if slotTop s = 0x0B then x.sGet (sf s 68 63) else 0 }
  let st := d.resolveCheck c o
  if st ≠ 0 then (o.refused st, d) else
  let wants := (slotSrcs s).flatMap (fun r => (o.ts r).map fun t => (t, rR, false)) ++
    (slotDests s).flatMap (fun r => (o.ts r).map fun t => (t, rW + (if o.scatterAdd then rR else 0), true))
  let ((st, l), d) := d.xlDescs (d.bedAgent b) ph c wants
  if st ≠ 0 then (o.refused st, d) else
  let clay := (rs.flatMap o.ts).any fun t => t.kind == 2
  if clay && x.clayLost then (o.refused 0x10B, d) else
  let fills := (((slotSrcs s).flatMap o.ts).filter fun t => t.kind == 3).map fun t => (t.planOf, t.layerOf)
  let outs := o.winOuts l
  ({ o with binds := (l.map (·.2.2)).dedup, fills := fills.dedup, outs := outs, clayOuts := o.clayRuns, wid := d.nextId },
    { d with nextId := d.nextId + 1 })

/-! ### Sources -/

/-- Is a descriptor read from memory before the start: a window or a window slot. -/
def TDesc.fetched (t : TDesc) : Bool := t.kind == 1 || t.kind == 3
/-- Source roles whose reads are issued. -/
def TOp.reads (o : TOp) : List Nat := (slotSrcs o.slot).filter fun r => (o.ts r).any (·.fetched)
def TOp.src (o : TOp) (r : Nat) : Src := o.srcs.get r {}
def TOp.updSrc (o : TOp) (r : Nat) (f : Src → Src) : TOp := { o with srcs := o.srcs.set r (f (o.src r)) {} }

/-- The key of a granule in a source's data: window granules by number, slot granules above 2^50. -/
def TDesc.key (t : TDesc) (g : Nat) : Nat := if t.kind = 3 then (1 + t.loc / 2 ^ 30) * 2 ^ 50 + g else g

/-- One granule of a source at execution: from what its read returned, or from clay. -/
def Dev.srcGran (d : Dev) (ph : Phys) (b : Nat) (o : TOp) (r : Nat) (t : TDesc) (g : Nat) : Option Gran × Dev :=
  if t.kind = 2 then d.clayRead ph b o.ctx g else (some ((o.src r).data.get (t.key g) 0), d)

/-- n granules joined, the first lowest. -/
def Dev.srcGrans (d : Dev) (ph : Phys) (b : Nat) (o : TOp) (r : Nat) (t : TDesc) (g : Nat) : Nat → Option Nat × Dev
  | 0 => (some 0, d)
  | n + 1 =>
    let (x, d) := d.srcGran ph b o r t g
    let (y, d) := d.srcGrans ph b o r t (g + 1) n
    (match x, y with
      | some x, some y => some (x.toNat + 2 ^ 256 * y)
      | _, _ => none, d)

/-- A row without the bytes after its end, and its scale row. -/
def Dev.srcRow (d : Dev) (ph : Phys) (b : Nat) (o : TOp) (r : Nat) (i : Nat × Nat × Nat) : Option (Nat × Nat) × Dev :=
  let t := o.t r
  let (x, d) := d.srcGrans ph b o r t (t.rowOf i) t.rowG
  let (y, d) := match o.sc r with
    | none => (some 0, d)
    | some c => d.srcGrans ph b o r c (c.rowOf i) c.rowG
  (match x, y with
    | some x, some y => some (x % 2 ^ (8 * rowBytes t.fmt t.n0),
        match o.sc r with
        | none => y
        | some c => y % 2 ^ (8 * rowBytes c.fmt c.n0))
    | _, _ => none, d)

/-- Rows of a source in an order: none where one cannot be read. -/
def Dev.srcRows (d : Dev) (ph : Phys) (b : Nat) (o : TOp) (r : Nat) : List (Nat × Nat × Nat) → Option (List (Nat × Nat)) × Dev
  | [] => (some [], d)
  | i :: t =>
    let (x, d) := d.srcRow ph b o r i
    let (y, d) := d.srcRows ph b o r t
    (match x, y with
      | some x, some y => some (x :: y)
      | _, _ => none, d)

/-- Elements of an index row (R193), and NONE. -/
def ixRow (n row : Nat) : List Nat := (List.range n).map fun j => bits row (32 * j) 32
def ixNone : Nat := 0xFFFFFFFF

/-- The rows of a source that an operation reads: of a GATHER's table those that the indices name, of an attention pool the
pages that are needed (DEDUCED, log 32); of any other source all. ix: the rows of the index tensor. -/
def TOp.needRows (o : TOp) (r : Nat) (ix : List (List Nat)) : List (Nat × Nat × Nat) :=
  let t := o.t r
  if slotTop o.slot = 0x06 ∧ r = 1 then ((ix.flatten.filter (· < t.n1)).dedup).map fun i => (i, 0, 0)
  else if slotTop o.slot = 0x02 ∧ (r = 2 ∨ r = 4) then
    let pages := (ix.flatMap fun l => ((l.drop 1).take ((l.headD 0 + t.n1 - 1) / t.n1)).filter (· < t.n3)).dedup
    pages.flatMap fun p => (rowIx t.n1 t.n2 1).map fun i => (i.1, i.2.1, p)
  else t.rows

/-- Does the reading of a role wait for the index tensor. -/
def TOp.indexed (o : TOp) (r : Nat) : Bool :=
  (slotTop o.slot == 0x06 && r == 1) || (slotTop o.slot == 0x02 && (r == 2 || r == 4))

/-- The rows of the index tensor, read. -/
def Dev.ixRows (d : Dev) (ph : Phys) (b : Nat) (o : TOp) : Option (List (List Nat)) × Dev :=
  let (l, d) := d.srcRows ph b o 3 (o.t 3).rows
  (l.map fun l => l.map fun x => ixRow (o.t 3).n0 x.1, d)

/-- Granules of a source's reads: (descriptor, granule), own and scale. -/
def TOp.needGrans (o : TOp) (r : Nat) (ix : List (List Nat)) : List (TDesc × Nat) :=
  let is := o.needRows r ix
  (o.ts r).flatMap fun t => if t.fetched then
      ((is.flatMap fun i => (List.range t.rowG).map fun k => t.rowOf i + k).dedup).map fun g => (t, g) else []

/-- Where a granule of a source lies: its block with the granule in it and the binding used; or a status, or a window slot that is not READY. -/
inductive Where_ where
  | at_ (p : OpPlace) (g : Nat) (i : Option Nat)
  | bad (st : Nat)
  | notReady
  deriving DecidableEq, Repr

/-- Resolve a window-slot granule (R88): the slot at its ring position, READY with that layer; bad slots are POISON. -/
def Dev.slotAt (d : Dev) (c : Nat) (t : TDesc) (g : Nat) : Where_ :=
  let p := d.plan t.planOf
  let n := p.slots.length
  if p.st == .none_ || p.ctx ≠ c || n = 0 then .bad 0x107 else
  let i := (p.pos.get t.layerOf 0 + g / 2048) % n
  match p.slots[i]? with
  | none => .bad 0x107
  | some w =>
    if w.layer == some t.layerOf && w.ready then .at_ (.slot t.planOf i t.layerOf (g / 64 % 32)) (g % 64) none
    else if w.layer == some t.layerOf && w.bad then .bad 0x07
    else .notReady

/-- Place a granule of a source. -/
def Dev.whereIs (d : Dev) (a : Agent) (ph : Phys) (o : TOp) (t : TDesc) (g : Nat) : Where_ × Dev :=
  if t.kind = 3 then (d.slotAt o.ctx t g, d) else
  match d.translateThru a ph o.ctx (g / 2048) rR false o.binds with
  | (.bad s, d) => (.bad s, d)
  | (.ok x i, d) => (.at_ (.ext x (g / 64 % 32)) (g % 64) (some i), d)

/-- Places of a list of granules, with the descriptor and the key of each. -/
def Dev.whereAll (d : Dev) (a : Agent) (ph : Phys) (o : TOp) : List (TDesc × Nat) → List (TDesc × Nat × Where_) × Dev
  | [] => ([], d)
  | (t, g) :: r =>
    let (w, d) := d.whereIs a ph o t g
    let (l, d) := d.whereAll a ph o r
    ((t, t.key g, w) :: l, d)

/-- A block as it is now: none where its window slot no longer holds the layer. -/
def Dev.placeId (d : Dev) : OpPlace → Option BlkId
  | .ext x k => some (d.blkId x k)
  | .slot p i l k => ((d.plan p).slots[i]?).bind fun w =>
      if w.layer == some l && w.ready then some ⟨w.ext, k, w.tensor, ({ gen := w.gen } : Desc).genOf k, ({ len := w.len } : Desc).lenOf k⟩
      else none
def Dev.placeLen (d : Dev) (p : OpPlace) : Nat := (d.placeId p).elim 0 (·.len)
/-- The set where a block lies. -/
def Dev.placeSet (d : Dev) : OpPlace → Nat
  | .ext x _ => (d.desc x).set
  | .slot p i _ _ => ((d.plan p).slots[i]?).elim 0 (·.set)
/-- Is the block one of a codec extent. -/
def Dev.placeCodec (d : Dev) : OpPlace → Bool
  | .ext x _ => (d.desc x).codec
  | .slot p i _ _ => ((d.plan p).slots[i]?).elim false fun w => (d.desc w.ext).codec

/-- Is an operand carried in transit form into clay (R130, R211): a broadcast operand, or a LOAD into coded clay. -/
def TOp.transitRole (o : TOp) (r : Nat) : Bool :=
  (slotTop o.slot == 0x01 && r == 1) || (slotTop o.slot == 0x02 && (r == 2 || r == 4)) ||
    (slotTop o.slot == 0x08 && r == 1 && (o.t 0).coded)

/-- The part of RESV of a block (R135): w(c), or 64 granules where the blocks of a codec extent are decoded as they fill clay (R130). -/
def Dev.resvOf (d : Dev) (transit : Bool) (p : OpPlace) : Nat :=
  if !transit && d.placeCodec p then 64 else wGran (d.placeLen p)

/-- The charge of a read of n granules of a block (R258). -/
def Dev.blockCharge (d : Dev) (transit : Bool) (p : OpPlace) (n : Nat) : Nat :=
  let c := d.placeLen p
  if c = 63 ∧ !transit then n else lenG c

/-- The blocks of placed granules, in order: each with what its read reserves and charges (R135, R258). -/
def Dev.readBlocks (d : Dev) (o : TOp) (r : Nat) (l : List (TDesc × Nat × OpPlace × Nat × Option Nat)) : List RdBlk :=
  ((l.map fun e => (e.1, e.2.2.1, e.2.2.2.2)).dedup).map fun (t, p, i) =>
    let own := t == o.t r
    let gs := (l.filter fun e => e.1 == t && e.2.2.1 == p && e.2.2.2.2 == i).map fun e => (e.2.1, e.2.2.2.1)
    let transit := own && o.transitRole r
    { place := p, bind := i, own := own, grans := gs, resv := d.resvOf transit p, set := d.placeSet p,
      charge := d.blockCharge transit p gs.length }

/-- The charge of reading blocks (R258). -/
def readCharges (bs : List RdBlk) : List (Nat × Nat) := bs.foldl (fun l b => addCharge l b.set b.charge) []

/-! ### Prefetch (R139) -/

/-- Does a source of a pending operation wait for the running one: its range overlaps a destination of it, or covers an extent
that it writes. -/
def srcBehind (run : TOp) (t : TDesc) : Bool :=
  run.dests.any fun u => spansMeet t u || (t.kind == 1 && u.kind == 1 && t.wexts.any fun w => u.wexts.contains w)

/-- May source r of the pending operation of bed b be issued (R139). -/
def Dev.mayIssue (d : Dev) (b r : Nat) (o : TOp) : Bool :=
  let y := d.bed b
  let deps := r :: (if o.indexed r then [3] else [])
  d.working && o.status == 0 && o.reads.contains r && !(o.src r).issued &&
  (!o.indexed r || !o.reads.contains 3 || (o.src 3).applied) &&
  match y.run with
  | none => true
  | some n => y.pf && n.ctx == o.ctx && !(deps.any fun q => (o.ts q).any fun t => srcBehind n t)

/-- The operation of bed b whose reads of source r are applied next: the running one where it still waits for them (R127 step 4), else
the pending one. -/
def Dev.runReads (d : Dev) (b r : Nat) : Bool := (d.bed b).run.elim false fun o => (o.src r).issued && !(o.src r).applied
def Dev.readsOf (d : Dev) (b r : Nat) : Option TOp := if d.runReads b r then (d.bed b).run else (d.bed b).pend

/-- The reads of source r that are to be issued again after LEN_CHANGED (R135). -/
def TOp.agains (o : TOp) (r : Nat) : List RdBlk := (o.src r).todo.filter (·.again)

/-- Change the pending operation. -/
def Dev.updPend (d : Dev) (b : Nat) (f : TOp → TOp) : Dev := d.updBed b fun y => { y with pend := y.pend.map f }

/-- Count a wait for a window slot, once for each operation, which a context switch may have sent round again (R88). -/
def Dev.slotWaits (d : Dev) (b : Nat) (o : TOp) (r : Nat) : Dev :=
  if o.waited then d else
  let p := ((o.ts r).find? fun t => t.kind == 3).elim 0 (·.planOf)
  let d := if (d.ctx o.ctx).late == some o.pc then d else d.satInc row_LSS_PLAN p f_LSS_PLAN_WINDOW_LATE
  (d.updCtx o.ctx fun x => { x with late := some o.pc }).updPend b fun o => { o with waited := true }

/-- Granules of a clay area that the sources of an operation hold reserved in each of n clusters: a broadcast operand fills every
cluster, another one is spread over them (R130, R135). -/
def TOp.reserved (o : TOp) (n : Nat) : Nat :=
  (o.srcs.map fun s => if o.transitRole s.1 then s.2.resv else (s.2.resv + n - 1) / max 1 n).sum

/-- Have the clay pages of a context room for a further reservation (R139). With no operation running nothing would ever make room, so
none is asked for then (DESIGN CHOICE, log 44). -/
def Dev.clayRoom (d : Dev) (b : Nat) (o : TOp) (r resv : Nat) : Bool :=
  match (d.bed b).run with
  | none => true
  | some n =>
    let k := (d.liveClusters b).length
    let more : TOp := { o with srcs := o.srcs.set r { resv := resv } {} }
    decide (n.reserved k + more.reserved k ≤ 2048 * (d.ctx o.ctx).clayPages)

/-- Place the blocks of source r of the pending operation and take their reservation; a window slot that is not READY is waited for, a
bad one is POISON, and so is a range that no longer translates. -/
def Dev.reserveSrc (d : Dev) (ph : Phys) (b r : Nat) (o : TOp) (ix : List (List Nat)) : Dev :=
  let (ps, d) := d.whereAll (d.bedAgent b) ph o (o.needGrans r ix)
  match ps.findSome? fun e => match e.2.2 with
      | .bad s => some s
      | _ => none with
  | some s => d.updPend b fun o => o.fail s
  | none =>
    if ps.any fun e => e.2.2 == .notReady then d.slotWaits b o r else
    let bs := d.readBlocks o r (ps.filterMap fun e => match e.2.2 with
      | .at_ p g i => some (e.1, e.2.1, p, g, i)
      | _ => none)
    let resv := (bs.map (·.resv)).sum
    if !d.clayRoom b o r resv then d else
    let n := d.nextId
    ({ d with nextId := n + 1 }).updPend b fun o => o.updSrc r fun s =>
      { s with todo := bs, resv := resv, applied := bs.isEmpty, rid := n }

/-- Issue the reads of source r of the pending operation: the reservation first, then the master's ceiling (R135, R259). -/
def Dev.prefetch (d : Dev) (ph : Phys) (b r : Nat) : Dev :=
  match (d.bed b).pend with
  | none => d
  | some o =>
    let (ix, d) := if o.indexed r then d.ixRows ph b o else (some [], d)
    match ix with
    | none => d.updPend b fun o => o.fail 0x10B
    | some ix =>
      let d := if (o.src r).todo = [] then d.reserveSrc ph b r o ix else d
      match (d.bed b).pend with
      | none => d
      | some o =>
        let s := o.src r
        let ch := readCharges s.todo
        if o.status ≠ 0 || (s.todo = [] && !s.applied) || !d.ceilOk (bedMaster b) ch then d else
        (d.charge (bedMaster b) ch).updPend b fun o => o.updSrc r fun s => { s with issued := true }

/-- Change the running or the pending operation. -/
def Dev.updOp (d : Dev) (b : Nat) (run : Bool) (f : TOp → TOp) : Dev :=
  if run then d.updBed b fun y => { y with run := y.run.map f } else d.updPend b f

/-- May reads of source r be issued again: the new reservation fits, where an operation that runs could make room, and the ceiling lets
them (R135, R259). -/
def Dev.mayReissue (d : Dev) (b r : Nat) : Bool :=
  d.working && (d.readsOf b r).elim false fun o =>
    o.status == 0 && o.agains r ≠ [] && (d.runReads b r || d.clayRoom b o r (o.src r).resv) &&
      d.ceilOk (bedMaster b) (readCharges (o.agains r))

/-- They are issued. -/
def Dev.reissue (d : Dev) (b r : Nat) : Dev :=
  match d.readsOf b r with
  | none => d
  | some o => (d.charge (bedMaster b) (readCharges (o.agains r))).updOp b (d.runReads b r) fun o => o.updSrc r fun s =>
      { s with todo := s.todo.map fun w => { w with again := false } }

/-! ### Application of an operand read (R66, R90, R135) -/

/-- The stored granules of block k of window slot i of a plan. -/
def Dev.slotRaw (d : Dev) (a : Agent) (ph : Phys) (p i k n : Nat) : Option (List Gran) × Dev :=
  match (d.plan p).slots[i]? with
  | none => (none, d)
  | some w => (List.range n).foldl (fun (o : Option (List Gran) × Dev) j =>
      let (g, d) := o.2.readGran a ph w.set (w.loc * 2048 + 64 * k + j) none
      (match o.1, g with
        | some l, some g => some (l ++ [g])
        | _, _ => none, d)) (some [], d)

/-- A block in transit form as it comes into clay; it is checked where it is decoded (R106, R130). -/
def Dev.transitRead (d : Dev) (a : Agent) (ph : Phys) (p : OpPlace) : Option (BlkId × List Gran) × Dev :=
  match d.placeId p with
  | none => (none, d)
  | some i =>
    let (r, d) := match p with
      | .ext x k => if i.len = 0 && !(d.desc x).reload then (some [], d)
          else d.served x k fun d h mirror => d.rawRead a ph x k h mirror
      | .slot q j _ k => d.slotRaw a ph q j k (lenG i.len)
    (r.map fun st => (i, transit i.len i.tensor i.ext i.blk st), d)

/-- The decoders of bed b that open block number n of source r of an operation: an operand alternates between the two of each cluster,
two broadcast operands have one each (R130). Each live cluster decodes it (DESIGN CHOICE, log 15). -/
def Dev.decodeSites (d : Dev) (b : Nat) (o : TOp) (r n : Nat) : List Nat :=
  let j := if slotTop o.slot = 0x02 then (if r = 2 then 0 else 1) else n % 2
  (d.liveClusters b).map fun k => 2 * k + j

/-- The 32-element sub-blocks of bytes that are all zero (R113). -/
def zeroSubs (fmt : Nat) (bs : List Byte) : Nat :=
  let n := 4 * fmtBits fmt
  ((List.range (bs.length / n)).filter fun i => ((bs.drop (n * i)).take n).all (· = 0)).length

/-- The operand-port decoders of bed b deliver a block: they flag its all-zero sub-blocks. How often each cluster delivers a block of an
operand is not given, so the flags are counted a free number of times (R113, log 15). -/
def Dev.delivered (d : Dev) (b fmt : Nat) (l : List Byte) : Dev :=
  let z := zeroSubs fmt l
  d.each (d.liveClusters b) fun d k =>
    let (n, d) := d.fresh 32
    d.wrapInc row_GRD_DEC_CNT k f_GRD_DEC_CNT_ZSKIP (n.toNat * z)

/-- Open block number n of source r in the operand-port decoders of bed b (R113, R114, R116, R117). -/
def Dev.portOpen (d : Dev) (b : Nat) (ph : Phys) (o : TOp) (r n : Nat) (i : BlkId) (l : List Gran) : Option (List Gran) × Dev :=
  let d := if i.coded then d.each (d.decodeSites b o r n) fun d s => d.tableUse ph s i.tensor i.gen else d
  let (x, d) := d.openBlock (d.bedAgent b) ph i l
  (x, x.elim d fun g => d.delivered b (o.t r).fmt (gransBytes g))

/-- The wanted granules of a block that is stored raw in clay, decoded as it comes in where it is coded (R130). n: its number. -/
def Dev.laneRead (d : Dev) (a : Agent) (ph : Phys) (b : Nat) (o : TOp) (r n : Nat) (w : RdBlk) : Option (List (Nat × Gran)) × Dev :=
  if d.placeCodec w.place then
    let (t, d) := d.transitRead a ph w.place
    match t with
    | none => (none, d)
    | some (i, l) =>
      let (x, d) := d.portOpen b ph o r n i l
      (x.map fun l => w.grans.map fun e => (e.1, l.getD e.2 0), d)
  else match w.place with
    | .ext x k => w.grans.foldl (fun (o : Option (List (Nat × Gran)) × Dev) e =>
        let (r, d) := o.2.readBlock a ph x k e.2 1
        (match o.1, r with
          | some l, some g => some (l ++ [(e.1, g.headD 0)])
          | _, _ => none, d)) (some [], d)
    | .slot p i _ k =>
      if d.placeLen w.place = 0 then (some (w.grans.map fun e => (e.1, 0)), d) else
      let (x, d) := d.slotRaw a ph p i k 64
      (x.map fun l => w.grans.map fun e => (e.1, l.getD e.2 0), d)

/-- Data into a source. -/
def addData (m : Tab Gran) (l : List (Nat × Gran)) : Tab Gran := l.foldl (fun m e => m.set e.1 e.2 0) m

/-- One block of an applied read comes into clay; the first failure of several is that of R197. Each block read, and each extent written, is
one access to the heat table (DESIGN CHOICE, log 46: R83 gives no unit). -/
def Dev.blockIn (d : Dev) (b r : Nat) (run : Bool) (ph : Phys) (o : TOp) (n : Nat) (w : RdBlk) : Dev :=
  let a := d.bedAgent b
  let d := match w.place with
    | .ext x _ => d.touch x
    | _ => d
  if w.own && o.transitRole r then
    match d.transitRead a ph w.place with
    | (none, d) => d.updOp b run fun o => o.fail 0x07
    | (some (i, l), d) =>
      let ref := if i.coded then [(i.ref, 1)] else []
      (d.refsTake ref).updOp b run fun o =>
        { o.updSrc r fun s => { s with held := s.held ++ [⟨i, w.grans, l⟩] } with refs := o.refs ++ ref }
  else match d.laneRead a ph b o r n w with
    | (none, d) => d.updOp b run fun o => o.fail 0x07
    | (some l, d) => d.updOp b run fun o => o.updSrc r fun s => { s with data := addData s.data l }

/-- Blocks of an applied read come into clay, in order. -/
def Dev.blocksIn (d : Dev) (b r : Nat) (run : Bool) (ph : Phys) (o : TOp) (ws : List RdBlk) : Dev :=
  let n0 := (o.src r).held.length
  d.each ((List.range ws.length).zip ws) fun d w => d.blockIn b r run ph o (n0 + w.1) w.2

/-- What an operation of context c brings into clay, or takes from there to its lanes and decoders, is checked against the tags of the pages
of its area (R134): those of every live cluster (DESIGN CHOICE, log 44: the spec gives no places in the area). -/
def Dev.fillTag (d : Dev) (b c : Nat) (ph : Phys) : Bool × Dev :=
  ((d.liveClusters b).flatMap fun k => (List.range (d.ctx c).clayPages).map fun p => (k, p)).foldl (fun (r : Bool × Dev) e =>
    match (r.2.ctx c).clayAt e.1 (2048 * e.2) with
    | none => r
    | some key =>
      let (ok, d) := r.2.clayTagOk ph b c e.1 key
      (r.1 && ok, d)) (true, d)

/-- Reads with LEN_CHANGED (R135): their charge ends (R258), they reserve anew and are to be issued again; the eighth such answer in a row
for one block is OPERAND_UNSTABLE. The counter is that of the bed's home cluster (DESIGN CHOICE, log 46). -/
def Dev.srcChanged (d : Dev) (b r : Nat) (run : Bool) (o : TOp) (now : List RdBlk) : Dev :=
  let again := now.map fun w =>
    let n := d.resvOf (w.own && o.transitRole r) w.place
    { w with resv := n, tries := if n = w.resv then 0 else w.tries + 1, again := true, set := d.placeSet w.place,
             charge := d.blockCharge (w.own && o.transitRole r) w.place w.grans.length }
  if again.any fun w => 8 ≤ w.tries then d.updOp b run fun o => (o.fail 0x10D).updSrc r fun s => { s with applied := true } else
  let d := (d.wrapInc row_BED_CLAY ((d.homeCluster b).getD 0) f_BED_CLAY_LEN_CHANGED).discharge (bedMaster b) (readCharges now)
  d.updOp b run fun o => o.updSrc r fun s =>
    { s with todo := again ++ s.todo.filter fun w => !now.contains w, resv := s.resv + (again.map (·.resv)).sum - (now.map (·.resv)).sum }

/-- Reads that complete through a binding which is being revoked are counted (R249). -/
def Dev.readsDone (d : Dev) (c : Nat) (ws : List RdBlk) : Dev :=
  d.each (ws.filterMap (·.bind)) fun d i =>
    if ((d.ctx c).binds.get i {}).draining then d.updBind c i fun y => { y with done := y.done + 1 } else d

/-- The blocks of source r that a read of n of them takes next, all that are issued where n is 0. -/
def TOp.nextReads (o : TOp) (r n : Nat) : List RdBlk :=
  let l := (o.src r).todo.filter fun w => !w.again
  if n = 0 then l else l.take n

/-- The read of the next n blocks of source r of an operation of bed b is applied (R135, R137):
LEN_CHANGED where the reservation is no longer right, a failure, or their data is in clay. -/
def Dev.readApply (d : Dev) (b r n : Nat) (ph : Phys) : Dev :=
  let run := d.runReads b r
  match d.readsOf b r with
  | none => d
  | some o =>
    let now := o.nextReads r n
    let taken := fun (d : Dev) => (d.discharge (bedMaster b) (readCharges now)).updOp b run fun o => o.updSrc r fun s =>
      let left := s.todo.filter fun w => !now.contains w
      { s with todo := left, came := true, applied := left.isEmpty }
    if o.status ≠ 0 then taken d
    else if now.any fun w => (d.placeId w.place).isNone then (taken d).updOp b run fun o => o.fail 0x07
    else if (now.map fun w => d.resvOf (w.own && o.transitRole r) w.place).sum ≠ (now.map (·.resv)).sum then d.srcChanged b r run o now
    else
      let (ok, d) := (taken d).fillTag b o.ctx ph
      let d := d.readsDone o.ctx now
      if ok then d.blocksIn b r run ph o now else d.updOp b run fun o => o.fail 0x10A

/-- Are the first granules of every operand present (R127 step 3). -/
def TOp.begun (o : TOp) : Bool := o.reads.all fun r =>
  let s := o.src r
  s.applied || s.came

/-- Have the reads of every source been applied. -/
def TOp.present (o : TOp) : Bool := o.reads.all fun r => (o.src r).applied

/-! ### Writing results (R95, R138, R191) -/

/-- A granule that an operation writes: into clay, or at a window granule, with the codec tensor its descriptor names. -/
structure WItem where
  clay : Bool
  key : Nat
  g : Gran
  ten : Option Nat
  deriving DecidableEq, Repr

/-- The granules of a row of a destination, zeros after the row's end. -/
def TDesc.items (t : TDesc) (g : Nat) (n row : Nat) : List WItem :=
  (List.range n).map fun i =>
    ⟨t.kind == 2, g + i, BitVec.ofNat 256 (row / 2 ^ (256 * i)), if t.codec then some t.tensor else none⟩

/-- Row i of role r: the row and its scale row. -/
def TOp.putRow (o : TOp) (r : Nat) (i : Nat × Nat × Nat) (row sc : Nat) : List WItem :=
  let t := o.t r
  t.items (t.rowOf i) t.rowG row ++ match o.sc r with
    | none => []
    | some c => c.items (c.rowOf i) c.rowG sc

/-- The first write of an operation that names a codec tensor makes an extent a codec extent (R95). -/
def Dev.codecTake (d : Dev) (c y : Nat) (ten : Option Nat) : Dev :=
  match ten with
  | none => d
  | some t =>
    let e := d.desc y
    if e.codec || e.len ≠ 0 || e.ro || !(d.set? e.set).elim false (·.codecOk) || !d.tensorMine c t then d
    else (d.updDesc y fun e => { e with codec := true, tensor := t }).updTensor t fun x => { x with extents := x.extents + 1 }

/-- The extents that the sources of an operation reach by window addresses, with the window extent of each. -/
def Dev.extsOf (d : Dev) (c : Nat) (ts : List TDesc) : List (Nat × Nat) :=
  (ts.flatMap (·.wexts)).filterMap fun w => (d.windowExt c w).map fun y => (w, y)

/-- The destinations of which an extent is reached by a source through another window address: their contents are then undefined
(R192). -/
def Dev.aliased (d : Dev) (o : TOp) : List TDesc :=
  let srcs := d.extsOf o.ctx o.sources
  o.dests.filter fun t => t.kind == 1 && o.outs.any fun e => t.wexts.contains e.w && srcs.any fun s => s.2 == e.ext && s.1 ≠ e.w

/-- Items with free data. -/
def Dev.freeItems (d : Dev) : List WItem → List WItem × Dev
  | [] => ([], d)
  | i :: t =>
    let (g, d) := d.fresh 256
    let (l, d) := d.freeItems t
    ({ i with g := g } :: l, d)

/-- Write what falls on window extent w, at the extent that its translation found. -/
def Dev.putExtent (d : Dev) (b : Nat) (ph : Phys) (o : TOp) (w : Nat) (l : List WItem) : Nat × Dev :=
  match o.outs.find? fun e => e.w == w with
  | none => (0x01, d)
  | some e =>
    let d := (d.touch e.ext).codecTake o.ctx e.ext ((l.find? fun i => i.ten.isSome).bind (·.ten))
    d.writeExtent (d.bedAgent b) ph e.ext (l.map fun i => ⟨i.key / 64 % 32, i.key % 64, i.g, fullMask⟩)

/-- The writes of an operation are made: those through a binding that is being revoked are counted (R249). -/
def Dev.writesDone (d : Dev) (b : Nat) (o : TOp) : Dev :=
  let d := d.each o.outs fun d e =>
    if ((d.ctx o.ctx).binds.get e.bind {}).draining then d.updBind o.ctx e.bind fun y => { y with done := y.done + 1 } else d
  d.updBed b fun y => { y with run := y.run.map fun q => { q with wrote := true } }

/-- Write the results of the running operation of bed b; a failure gives it its status. -/
def Dev.putItems (d : Dev) (b : Nat) (ph : Phys) (o : TOp) (l : List WItem) : Dev :=
  let d := d.each (l.filter (·.clay)) fun d i =>
    let (ok, d) := d.clayResult ph b o.ctx i.key i.g
    if ok then d else d.failRun b 0x07
  let al := d.aliased o
  let win := l.filter fun i => !i.clay
  let d := d.each ((win.map fun i => i.key / 2048).dedup) fun d w =>
    let mine := win.filter fun i => i.key / 2048 == w
    let free := fun (i : WItem) => al.any fun t => decide (t.span.1 ≤ i.key ∧ i.key < t.span.2)
    let (l, d) := d.freeItems (mine.filter free)
    let (s, d) := d.putExtent b ph o w (l ++ mine.filter fun i => !free i)
    if s = 0 then d else d.failRun b s
  d.writesDone b o

/-- Does the ceiling of bed b let each write of an operation's results go (R258, R259). Results are applied as they are issued. -/
def Dev.outsOk (d : Dev) (b : Nat) (o : TOp) : Bool :=
  o.outs.all fun e => d.ceilOk (bedMaster b) (addCharge [] (d.desc e.ext).set ((d.desc e.ext).writeCharge e.first e.n))

/-- The extents of the destinations that are MOVING hold a start back (R78). -/
def Dev.destsMoving (d : Dev) (o : TOp) : Bool :=
  o.dests.any fun t => t.wexts.any fun w => d.windowMoving o.ctx (w * 65536) 1

/-- The destinations of an operation that failed after its start hold free values (R142, R197). -/
def Dev.havoc (d : Dev) (b : Nat) (o : TOp) : Dev :=
  let d := d.each (o.outs.filter fun e => (d.desc e.ext).st ≠ .free) fun d e =>
    let (l, d) := d.freshGrans e.n
    (d.writeExtent (d.bedAgent b) {} e.ext (mkWrites e.first l [])).2
  d.each o.clayOuts fun d e =>
    let (l, d) := d.freshGrans e.2
    d.each ((List.range l.length).zip l) fun d i => (d.clayWrite {} b o.ctx (e.1 + i.1) i.2).2

end Sys2Proof.Machine
end

