-- ==== Sys2Proof/Machine/Engines.lean ====
section
/-! DEFINITION. The results of the tensor operations as functions of their operands' rows: division of work (R198), MMA (R199,
R200), ATTN (R202, R203), EWISE, REDUCE, TOPK, GATHER, SCATTER and CVT (R205 to R212). -/
namespace Sys2Proof.Machine

/-! ### Division of work (R129, R198) -/

/-- The engine or core, of n, that takes unit u of U: units floor(iU/n) to floor((i+1)U/n) - 1 fall to number i. -/
def unitOwner (U n u : Nat) : Nat := ((u + 1) * n + U - 1) / U - 1

/-- Consecutive units with their owners, grouped: (owner, units). -/
def unitRuns (U n : Nat) : List Nat → List (Nat × List Nat)
  | [] => []
  | u :: t =>
    match unitRuns U n t with
    | (e, l) :: r => if e = unitOwner U n u then (e, u :: l) :: r else (unitOwner U n u, [u]) :: (e, l) :: r
    | [] => [(unitOwner U n u, [u])]

/-- The order in which partials of engines arrive (R129, R160): as the list names them, then those it does not name. -/
def arrival {α : Type} (order : List Nat) (l : List (Nat × α)) : List (Nat × α) :=
  (order.dedup.flatMap fun e => l.filter fun p => p.1 == e) ++ l.filter fun p => !order.contains p.1

/-! ### Values with flags -/

abbrev FV := F32 × Flags
def fPure (x : F32) : FV := (x, 0)
/-- Apply a binary operation to values with flags. -/
def fv2 (f : F32 → F32 → FV) (a b : FV) : FV := let r := f a.1 b.1; (r.1, a.2 ||| b.2 ||| r.2)
def fv1 (f : F32 → FV) (a : FV) : FV := let r := f a.1; (r.1, a.2 ||| r.2)
def fvFlags (l : List FV) : Flags := l.foldl (fun a x => a ||| x.2) 0

/-- A sum in the order given, from its first term; +0 where there is none. -/
def fvSum : List FV → FV
  | [] => (0, 0)
  | x :: t => t.foldl (fv2 fAdd) x

/-! ### EWISE functions (R206) -/

def fRelu (x : F32) : FV :=
  match f32Val x with
  | .nan s => (f32Nan, flagIf s fNV)
  | v => if v.neg? || v.isZero then (0, 0) else (x, 0)
/-- A sign operation: NaN stays canonical. -/
def fSign (x y : F32) : FV := if (f32Val x).isNan then fCanon x else (y, 0)

/-- The function FN with constant C on its operands. -/
def ewApply (fn : Nat) (c x y z : F32) : FV :=
  match fn with
  | 0x01 => fAdd x y
  | 0x02 => fSub x y
  | 0x03 => fMul x y
  | 0x04 => fMinMax true x y
  | 0x05 => fMinMax false x y
  | 0x06 => fFma x y z
  | 0x07 => fSign x (x &&& 0x7FFFFFFF)
  | 0x08 => fSign x (fNeg x)
  | 0x09 => fMul x c
  | 0x0A => fAdd x c
  | 0x0B => fRelu x
  | 0x0C => fRcp x
  | 0x0D => fRsqrt x
  | 0x0E => fSqrt x
  | 0x0F => fExp x
  | 0x10 => fLog x
  | 0x11 => fSigmoid x
  | 0x12 => fSilu x
  | 0x13 => fGelu x
  | _ => fCanon x

/-- The activations of MMA (R199). -/
def actApply (a : Nat) (x : F32) : FV :=
  match a with
  | 1 => fRelu x
  | 2 => fSilu x
  | 3 => fGelu x
  | 4 => fSigmoid x
  | _ => (x, 0)

/-! ### Operands as rows -/

/-- A row of a source with its scale row. -/
abbrev Row := Nat × Nat

/-- An operand: its descriptor and its rows, by number i1 + n1 (i2 + n2 i3). -/
structure Opd where
  t : TDesc
  rows : List Row
  deriving DecidableEq, Repr

def Opd.row (x : Opd) (i1 i2 i3 : Nat) : Row := x.rows.getD (i1 + x.t.n1 * (i2 + x.t.n2 * i3)) (0, 0)
def Opd.eng (x : Opd) (r : Row) (i : Nat) : EngIn := engIn x.t.fmt x.t.var r.1 r.2 i
def Opd.val (x : Opd) (r : Row) (i : Nat) : FV := decodeElem x.t.fmt x.t.var (rowElem x.t.fmt r.1 i) (rowScale x.t.fmt r.1 r.2 i)
def Opd.vals (x : Opd) (r : Row) : List FV := (List.range x.t.n0).map (x.val r)

/-- A converted row and the flags of its conversion (R163). -/
def convRow (t : TDesc) (s : BitVec 128) (l : List FV) : Row × Flags :=
  let r := encodeRow t.fmt t.var (slotRtz s) (slotSat s) (l.map (·.1))
  ((r.1, r.2.1), fvFlags l ||| r.2.2)

/-- Rows of an index tensor or of raw 32-bit values. -/
def rawRow (l : List Nat) : Row := (packFields 32 l, 0)

/-- The outcome of an operation: status, flags, destination rows by role and row index. -/
structure OpRes where
  st : Nat := 0
  fl : Flags := 0
  out : List (Nat × (Nat × Nat × Nat) × Row) := []
  deriving DecidableEq, Repr

/-- Rows of role r with their flags gathered. -/
def OpRes.of (r : Nat) (l : List ((Nat × Nat × Nat) × Row × Flags)) : OpRes :=
  { fl := l.foldl (fun a x => a ||| x.2.2) 0, out := l.map fun x => (r, x.1, x.2.1) }

/-! ### Residue checks (R140, R141) -/

/-- Does the residue check of an engine operation pass whose sums are wrong by these amounts: it computes every product again modulo 63
and compares, so it tells a sum from one that differs from it by no multiple of 63. -/
def residueOk (errs : List Int) : Bool := errs.all (· % 63 = 0)

/-- The engine operation of work unit u under the errors of physics: whether its first execution and a re-execution pass their check. -/
def unitPasses (errs : List EngErr) (u : Nat) : Bool × Bool :=
  let l := errs.filter fun e => e.unit == u
  (residueOk (l.map (·.first)), residueOk (l.map (·.again)))

/-- By how much the sum of a cell is wrong in the result of a work unit that passed. -/
def cellErr (errs : List EngErr) (u cell : Nat) : Int :=
  if errs = [] then 0 else
  let l := (errs.filter fun e => e.unit == u && e.cell == cell)
  if (unitPasses errs u).1 then (l.map (·.first)).sum else (l.map (·.again)).sum

/-! ### MMA (R200) -/

/-- The K-tile value over positions lo to hi - 1. -/
def ktiles (a b : Nat → EngIn) (lo hi : Nat) (err : Int := 0) : FV :=
  ktile ((List.range (hi - lo)).map fun i => (a (lo + i), b (lo + i))) err

/-- One output element: partial sums of the engines that hold its tile's K-tiles, added as they arrive; the first K-tile's
sum starts from the initial value (R159, R129; which partial starts from it DEDUCED, log 33). -/
def mmaElem (a b : Nat → EngIn) (k kpt U n base : Nat) (order : List Nat) (ini : Option FV) (err : Nat → Int) : FV :=
  let kt := (k + kpt - 1) / kpt
  let parts := (unitRuns U n ((List.range kt).map (base + ·))).map fun p =>
    let vs := p.2.map fun u => ktiles a b ((u - base) * kpt) (min k ((u - base + 1) * kpt)) (err u)
    let start : FV := match ini with
      | some x => if p.2.head? = some base then x else (0, 0)
      | none => (0, 0)
    (p.1, vs.foldl (fv2 fAdd) start)
  fvSum ((arrival order parts).map (·.2))

/-- The units of an MMA. -/
def mmaUnits (td ta : TDesc) (kpt : Nat) : Nat :=
  td.n2 * ((td.n1 + 31) / 32) * ((td.n0 + 31) / 32) * ((ta.n0 + kpt - 1) / kpt)

/-- MMA on n live engines. -/
def mmaRun (s : BitVec 128) (td : TDesc) (a b c e : Opd) (n : Nat) (order : List Nat) (errs : List EngErr) : OpRes :=
  let kpt := pairKpt a.t.fmt b.t.fmt
  let k := a.t.n0
  let TN := (td.n0 + 31) / 32
  let TM := (td.n1 + 31) / 32
  let KT := (k + kpt - 1) / kpt
  let U := mmaUnits td a.t kpt
  let init := sf s 88 87
  let alpha : F32 := BitVec.ofNat 32 (sf s 82 51)
  OpRes.of 0 (td.rows.map fun i =>
    let m := i.1
    let z := i.2.1
    let ra := a.row m z 0
    let vs := (List.range td.n0).map fun j =>
      let rb := b.row j (if b.t.n2 = 1 then 0 else z) 0
      let ini := if init = 1 then some (c.val (c.row m z 0) j) else if init = 2 then some (c.val (c.row 0 0 0) j) else none
      let x := mmaElem (a.eng ra) (b.eng rb) k kpt U n (((z * TM + m / 32) * TN + j / 32) * KT) order ini
        (fun u => cellErr errs u (m % 32 * 32 + j % 32))
      let y := fv1 (actApply (sf s 85 83)) (fv1 (fun v => fFma alpha v 0) x)
      if bitOf s.toNat 86 then fv2 fMul y (e.val (e.row m z 0) j) else y
    (i, convRow td s vs))

/-! ### ATTN (R203) -/

/-- The online softmax state of one query row. -/
structure AttnSt where
  m : FV
  l : FV
  o : List FV
  deriving DecidableEq, Repr

/-- Q × K of one token: K-tile values of the format pair added in ascending K. -/
def attnDot (k q : Nat → EngIn) (dh kpt : Nat) (err : Int := 0) : FV :=
  ((List.range ((dh + kpt - 1) / kpt)).map fun i =>
    ktiles k q (i * kpt) (min dh ((i + 1) * kpt)) (if i = 0 then err else 0)).foldl (fv2 fAdd) (0, 0)

/-- One chunk of at most 32 tokens: ks and vs are the rows of the pools for its tokens; err gives the undetected errors of its cells. -/
def attnChunk (s : BitVec 128) (kp vp qo : Opd) (q : Row) (ks vs : List Row) (g : Nat) (err : Nat → Int) (st : AttnSt) : AttnSt :=
  let dh := qo.t.n0
  let scale : F32 := BitVec.ofNat 32 (sf s 88 57)
  let xs := ((List.range ks.length).zip ks).map fun k =>
    fv1 (fMul scale) (attnDot (kp.eng k.2) (qo.eng q) dh (pairKpt kp.t.fmt qo.t.fmt) (err (g * 32 + k.1)))
  let mc := xs.foldl (fv2 (fMinMax true)) st.m
  let low := mc.1 == f32Inf true
  let a : FV := if low then (f32One, mc.2) else fv1 fExp (fv2 fSub st.m mc)
  let pf := if bitOf s.toNat 56 then 3 else 2
  let ws := xs.map fun x =>
    if low then ((0, 0) : Nat × Flags)
    else
      let e := fv1 fExp (fv2 fSub x mc)
      let c := toPlain pf (slotRtz s) (slotSat s) e.1
      (c.1, e.2 ||| c.2)
  let wv := ws.map fun w => ((decodeElem pf 0 w.1 0).1, w.2)
  let l := fv2 fAdd (fv2 fMul a st.l) (wv.foldl (fv2 fAdd) (0, 0))
  let o := (List.range dh).map fun j =>
    let pv := ktile ((vs.zip ws).map fun p => (vp.eng p.1 j, ⟨elemVal pf 0 p.2.1, scaleVal pf 0⟩)) (err (1024 + g * dh + j))
    fv2 fAdd (fv2 fMul a (st.o.getD j (0, 0))) pv
  ⟨mc, l, o⟩

/-- Merge the states of several engines in the order in which they arrive. -/
def attnMerge (dh : Nat) (l : List AttnSt) : AttnSt :=
  let m := (l.map (·.m)).foldl (fv2 (fMinMax true)) (f32Inf true, 0)
  let es := l.map fun x => (fv1 fExp (fv2 fSub x.m m), x)
  ⟨m, fvSum (es.map fun p => fv2 fMul p.1 p.2.l),
    (List.range dh).map fun j => fvSum (es.map fun p => fv2 fMul p.1 (p.2.o.getD j (0, 0)))⟩

/-- The chunks of a sequence; INDEX_RANGE of a row of the index tensor (R202). -/
def attnChunks (ix : List Nat) : Nat := (ix.headD 0 + 31) / 32
def attnBad (kt : TDesc) (ix : List Nat) : Bool :=
  let n := ix.headD 0
  decide ((ix.length - 1) * kt.n1 < n) || (((ix.drop 1).take ((n + kt.n1 - 1) / kt.n1)).any fun p => decide (kt.n3 ≤ p))

/-- The units of an ATTN: Hkv × chunks for each sequence. -/
def attnUnits (qt : TDesc) (ix : List (List Nat)) : Nat := (ix.map fun r => qt.n2 * attnChunks r).sum

/-- ATTN on n live engines. ix: rows of the index tensor. -/
def attnRun (s : BitVec 128) (td tl : TDesc) (q kp vp : Opd) (ix : List (List Nat)) (n : Nat) (order : List Nat) (errs : List EngErr) :
    OpRes :=
  if ix.any (attnBad kp.t) then { st := 0x109 } else
  let U := attnUnits q.t ix
  let dh := q.t.n0
  let one := fun (si h g : Nat) =>
    let r := ix.getD si []
    let cs := attnChunks r
    let base := attnUnits q.t (ix.take si) + h * cs
    let rowOf := fun (p : Opd) (t : Nat) => p.row (t % kp.t.n1) h (r.getD (1 + t / kp.t.n1) 0)
    let runs := (unitRuns U n ((List.range cs).map (base + ·))).map fun e =>
      (e.1, e.2.foldl (fun st u =>
        let c := u - base
        let ts := (List.range (min (32 * c + 32) (r.headD 0) - 32 * c)).map (32 * c + ·)
        attnChunk s kp vp q (q.row g h si) (ts.map (rowOf kp)) (ts.map (rowOf vp)) g (cellErr errs u) st)
        (⟨(f32Inf true, 0), (0, 0), List.replicate dh (0, 0)⟩ : AttnSt))
    match (arrival order runs).map (·.2) with
    | [] => none
    | [x] => some x
    | l => some (attnMerge dh l)
  let outs := td.rows.map fun i =>
    let vs := match one i.2.2 i.2.1 i.1 with
      | none => List.replicate dh ((0, 0) : FV)
      | some x => let rc := fv1 fRcp x.l; x.o.map fun o => fv2 fMul o rc
    (i, convRow td s vs)
  let res := OpRes.of 0 outs
  if !bitOf s.toNat 55 then res else
  let lse := tl.rows.map fun i =>
    let l := (List.range tl.n0).map fun g => match one i.2.1 i.1 g with
      | none => ((f32Inf true, 0) : FV)
      | some x => fv2 fAdd x.m (fv1 fLog x.l)
    (i, rawRow (l.map fun v => v.1.toNat), fvFlags l)
  let r2 := OpRes.of 5 lse
  { res with fl := res.fl ||| r2.fl, out := res.out ++ r2.out }

/-! ### EWISE (R205) -/

/-- An index repeated where the operand's length is 1. -/
def bIx (n i : Nat) : Nat := if n = 1 then 0 else i
/-- Element j of row i of an operand under repetition. -/
def Opd.at_ (x : Opd) (i : Nat × Nat × Nat) (j : Nat) : FV :=
  x.val (x.row (bIx x.t.n1 i.1) (bIx x.t.n2 i.2.1) (bIx x.t.n3 i.2.2)) (bIx x.t.n0 j)

def ewRun (s : BitVec 128) (td : TDesc) (a b c : Opd) : OpRes :=
  let fn := sf s 88 83
  let k : F32 := BitVec.ofNat 32 (sf s 82 51)
  let n := ewArity fn
  OpRes.of 0 (td.rows.map fun i => (i, convRow td s ((List.range td.n0).map fun j =>
    let x := a.at_ i j
    let y := if 2 ≤ n then b.at_ i j else (0, 0)
    let z := if 3 ≤ n then c.at_ i j else (0, 0)
    let r := ewApply fn k x.1 y.1 z.1
    (r.1, x.2 ||| y.2 ||| z.2 ||| r.2))))

/-! ### REDUCE (R207) -/

/-- Combine two lanes; a lane with no element leaves the other. -/
def laneOp {α : Type} (f : α → α → α) (a b : Option α) : Option α :=
  match a, b with
  | some x, some y => some (f x y)
  | some x, none => some x
  | none, b => b

/-- Lane j of 64: its elements in ascending order. -/
def laneFold {α : Type} (f : α → α → α) (l : List α) (j : Nat) : Option α :=
  ((List.range ((l.length + 63) / 64)).filterMap fun i => l[j + 64 * i]?).foldl (fun a x => laneOp f a (some x)) none

/-- The binary tree: lane j with lane j + 32, then j + 16, down to 1. -/
def laneTree {α : Type} (f : α → α → α) (l : List α) : Option α :=
  let go := fun (v : List (Option α)) (h : Nat) => (List.range h).map fun j => laneOp f (v.getD j none) (v.getD (j + h) none)
  (([32, 16, 8, 4, 2, 1].foldl go ((List.range 64).map (laneFold f l))).headD none)

/-- A sum in the order of R207. -/
def treeSum (l : List FV) : FV := (laneTree (fv2 fAdd) l).getD (0, 0)

/-- The lowest index of the maximum; NaNs are ignored. -/
def argMax (l : List F32) : Nat :=
  (((List.range l.length).zip l).foldl (fun (b : Option (Nat × F32)) p =>
    if (f32Val p.2).isNan then b else match b with
    | none => some p
    | some q => if (f32Val q.2).lt (f32Val p.2) then some p else b) none).elim ixNone (·.1)

def reduceRow (opr : Nat) (l : List FV) : FV :=
  let r := match opr with
    | 0 => laneTree (fv2 fAdd) l
    | 1 => laneTree (fv2 (fMinMax true)) l
    | 2 => laneTree (fv2 (fMinMax false)) l
    | _ => laneTree (fv2 fAdd) (l.map fun x => fv1 (fun v => fMul v v) x)
  fv1 fCanon (r.getD (0, 0))

def reduceRun (s : BitVec 128) (td : TDesc) (a : Opd) : OpRes :=
  let opr := sf s 88 86
  OpRes.of 0 (td.rows.map fun i =>
    let l := a.vals (a.row i.1 i.2.1 i.2.2)
    if opr = 4 then (i, rawRow [argMax (l.map (·.1))], fvFlags l) else (i, convRow td s [reduceRow opr l]))

/-! ### TOPK (R208) -/

/-- A score's value for ranking: −0 ranks equal to +0. -/
def rankVal (x : F32) : Val := let v := f32Val x; if v.isZero then .num false 0 0 else v

/-- The k highest, in rank order: (index, score). fuel: k. -/
def topPick (l : List (Nat × F32)) : Nat → List Nat
  | 0 => []
  | k + 1 =>
    match l.foldl (fun (b : Option (Nat × F32)) p => match b with
      | none => some p
      | some q => if (rankVal q.2).lt (rankVal p.2) then some p else b) none with
    | none => []
    | some q => q.1 :: topPick (l.filter fun p => p.1 ≠ q.1) k

/-- Values of the selected terms by NORM. xs: all scores; sel: the selected indices in slot order. -/
def topVals (norm : Nat) (xs : List FV) (sel : List Nat) : List FV :=
  let pick := sel.map fun i => xs.getD i (0, 0)
  if norm = 0 then pick
  else if norm = 3 then
    let rc := fv1 fRcp (treeSum pick)
    pick.map fun x => fv2 fMul x rc
  else
    let terms := if norm = 1 then pick else xs.filter fun x => !(f32Val x.1).isNan
    let m := (terms.map id).foldl (fv2 (fMinMax true)) (f32Inf true, 0)
    let e := fun x => fv1 fExp (fv2 fSub x m)
    let rc := fv1 fRcp (treeSum (terms.map e))
    pick.map fun x => fv2 fMul (e x) rc

def topkRun (s : BitVec 128) (td : TDesc) (a c : Opd) : OpRes :=
  let k := sf s 88 83
  let bias := bitOf s.toNat 80
  let rows := td.rows.map fun i =>
    let xs := a.vals (a.row i.1 i.2.1 i.2.2)
    let score := (List.range a.t.n0).map fun j =>
      let x := xs.getD j (0, 0)
      if bias then fv2 fAdd x (c.at_ i j) else x
    let cand := ((List.range a.t.n0).zip (score.map (·.1))).filter fun p => !(f32Val p.2).isNan
    let sel := topPick cand k
    let vs := if sel = [] then [] else topVals (sf s 82 81) xs sel
    let gap := k - sel.length
    (i, convRow td s (vs ++ List.replicate gap ((0, 0) : FV)), rawRow (sel ++ List.replicate gap ixNone), fvFlags xs ||| fvFlags score)
  { fl := rows.foldl (fun a r => a ||| r.2.1.2 ||| r.2.2.2) 0,
    out := (rows.map fun r => (0, r.1, r.2.1.1)) ++ rows.map fun r => (2, r.1, r.2.2.1) }

/-! ### GATHER and SCATTER (R209, R210) -/

/-- GATHER. rows: the table rows that were read, by number. -/
def gatherRun (td ta : TDesc) (rows : List (Nat × Row)) (ix : List (List Nat)) : OpRes :=
  if ix.any fun l => l.any fun v => decide (ta.n1 ≤ v) && v ≠ ixNone then { st := 0x109 } else
  OpRes.of 0 (td.rows.map fun i =>
    let v := (ix.getD i.2.1 []).getD i.1 ixNone
    (i, ((rows.find? fun p => p.1 == v).elim (0, 0) (·.2)), 0))

/-- The positions (β, j) in ascending order with their table rows. -/
def scatterAt (n b : Nat) (ix : List (List Nat)) : List (Nat × Nat × Nat) :=
  (((List.range b).flatMap fun β => (List.range n).map fun j => ((ix.getD β []).getD j ixNone, j, β))).filter fun p => p.1 ≠ ixNone

/-- SCATTER. w: weights; tab: the table's named rows, by number (ADD = 1). -/
def scatterRun (s : BitVec 128) (td : TDesc) (a w : Opd) (tab : List (Nat × Row)) (ix : List (List Nat)) : OpRes :=
  let at_ := scatterAt a.t.n1 a.t.n2 ix
  let add := bitOf s.toNat 88
  if at_.any fun p => decide (td.n1 ≤ p.1) then { st := 0x109 } else
  OpRes.of 0 (((at_.map (·.1)).dedup).map fun v =>
    let ps := at_.filter fun p => p.1 == v
    if !add then
      let p := ps.getLast?.getD (0, 0, 0)
      ((v, 0, 0), a.row p.2.1 p.2.2 0, 0)
    else
      let t0 : Opd := { t := td, rows := [] }
      let base := t0.vals ((tab.find? fun p => p.1 == v).elim (0, 0) (·.2))
      let sum := ps.foldl (fun (acc : List FV) p =>
        let src := a.vals (a.row p.2.1 p.2.2 0)
        let wt := if w.t.n0 = 1 ∧ w.t.n1 = a.t.n1 ∧ w.t.n2 = a.t.n2 then w.val (w.row p.2.1 p.2.2 0) 0 else w.val (w.row p.2.2 0 0) p.2.1
        (acc.zip src).map fun q =>
          if bitOf s.toNat 87 then
            let r := fFma wt.1 q.2.1 q.1.1
            (r.1, wt.2 ||| q.2.2 ||| q.1.2 ||| r.2)
          else fv2 fAdd q.1 q.2) base
      ((v, 0, 0), convRow td s sum))

/-! ### CVT, LOAD, STORE -/

def cvtRun (s : BitVec 128) (td : TDesc) (a : Opd) : OpRes :=
  OpRes.of 0 (td.rows.map fun i => (i, convRow td s (a.vals (a.row i.1 i.2.1 i.2.2))))

def copyRun (td : TDesc) (a : Opd) : OpRes := OpRes.of 0 (td.rows.map fun i => (i, a.row i.1 i.2.1 i.2.2, 0))

/-! ### Coded clay as an operand (R194) -/

/-- Rows of a dense operand from its granules. -/
def denseRows (t : TDesc) (l : List Gran) : List Row :=
  (List.range (t.n1 * t.n2 * t.n3)).map fun i =>
    ((List.range t.rowG).foldr (fun k n => (l.getD (i * t.rowG + k) 0).toNat + 2 ^ 256 * n) 0 % 2 ^ (8 * rowBytes t.fmt t.n0), 0)

end Sys2Proof.Machine
end

