-- ==== Sys2Proof/Machine/Rows.lean ====
section
/-! DEFINITION. What happens on a bed: issue of instruction words (R172, R173), operand reads (R135, R139), the start and end of
tensor operations (R127), context switches (R144, R145), SLEEP (R185) and the LAUNCH command (R184, R185). -/
namespace Sys2Proof.Machine

/-! ### Ready contexts and boundaries (R144, R187) -/

/-- Beds work: not frozen, and the device is READY; in DEVICE_FAILED the operations that failed still complete (R376). -/
def Dev.bedsRun (d : Dev) : Bool := d.working || (d.freezes == .running && d.state == .failed)

/-- A context with a word or a saved tensor slot to run: ACTIVE, launched and not ended, not waiting (R144). -/
def Dev.ctxReady (d : Dev) (c : Nat) : Bool :=
  let x := d.ctx c
  x.st == .active && !x.parking && !x.unparking && x.post.isNone &&
    ((x.ps == .running && x.stop.isNone) || (x.ps ≠ .idle && x.resumeT))

/-- Put a (slot, context) pair in its place in ascending slot order. -/
def insertSlot (x : Nat × Nat) : List (Nat × Nat) → List (Nat × Nat)
  | [] => [x]
  | y :: l => if x.1 ≤ y.1 then x :: y :: l else y :: insertSlot x l

/-- The contexts of bed b with a slot, in ascending slot order. -/
def Dev.bedCtxs (d : Dev) (b : Nat) : List Nat :=
  (((d.ctxs.filter fun e => e.2.bed == some b && e.2.slot.isSome).map fun e => (e.2.slot.getD 0, e.1)).foldr insertSlot []).map (·.2)

/-- The hardware slot of a context, as a number. -/
def Dev.slotNo (d : Dev) (c : Nat) : Nat := (d.ctx c).slot.getD 0

/-- The next ready context of bed b in ascending slot order after the slot that the current one last ran in, wrapping. -/
def Dev.nextCtx (d : Dev) (b : Nat) : Option Nat :=
  let y := d.bed b
  let cs := (d.bedCtxs b).filter fun c => y.cur ≠ some c && d.ctxReady c
  match y.cur with
  | none => cs.head?
  | some _ => (cs.filter (fun c => decide (y.curSlot < d.slotNo c)) ++ cs).head?

/-- Has the running context used up its slice (R144, R146). -/
def Dev.sliceOver (d : Dev) (b : Nat) : Bool :=
  decide ((d.bed b).since + d.fld row_BED_SLICE b f_BED_SLICE_SLICE * 250 ≤ d.lived (d.bedTimer b))

/-- Is bed b at an operation boundary at which R144 switches. -/
def Dev.switchPick (d : Dev) (b : Nat) : Bool :=
  let y := d.bed b
  y.run.elim true (·.waitRing) && (d.nextCtx b).isSome &&
  match y.cur with
  | none => true
  | some c =>
    let mine := y.run.isNone && (y.pend.isSome || ((d.ctx c).bed == some b && d.ctxReady c))
    !mine || (d.ctx c).yield || d.sliceOver b

/-- Have the reads of an operation that are issued come in. -/
def TOp.settled (o : TOp) : Bool := o.srcs.all fun s => !s.2.issued || s.2.applied

/-- Does bed b switch: its outgoing context's issued prefetches have completed into its clay area (R145 step 1). -/
def Dev.switchDue (d : Dev) (b : Nat) : Bool :=
  d.switchPick b && (d.bed b).pend.elim true fun o => o.status ≠ 0 || o.settled

/-! ### Issue of a word (R172 to R176) -/

/-- Do clay ranges of an operation meet a byte range; withSrcs: of its sources too (R176). -/
def TOp.clayMeets (o : TOp) (withSrcs : Bool) (a n : Nat) : Bool :=
  (o.dests ++ if withSrcs then o.sources else []).any fun t =>
    t.kind == 2 && decide (a / 32 < t.span.2 ∧ t.span.1 ≤ (a + n - 1) / 32)

/-- Must a clay access wait for the operations of its bed. -/
def Dev.accessWaits (d : Dev) (b : Nat) (x : Nat × Nat × Bool) : Bool :=
  let y := d.bed b
  (y.run.toList ++ y.pend.toList).any fun o => o.clayMeets x.2.2 x.1 x.2.1

/-- May the control units of bed b issue the next word of its current context. -/
def Dev.issues (d : Dev) (b : Nat) : Option Nat :=
  let y := d.bed b
  match y.cur with
  | none => none
  | some c =>
    let x := d.ctx c
    if d.working && x.bed == some b && d.ctxReady c && !y.sync &&
        !d.switchPick b && !(y.run.elim false (·.waitRing)) then some c else none

/-- The tensor slot of the word at PC of context c becomes the pending operation of bed b. -/
def Dev.tensorIssue (d : Dev) (b c : Nat) (ph : Phys) (pc : BitVec 48) (ts : BitVec 128) : Dev :=
  let (o, d) := d.resolveOp b c ph pc ts
  let fence := slotTop ts = 0x0C
  let kind := sf ts 88 87
  d.updBed b fun y => { y with
    pend := some o, sync := fence && kind == 2, ibuf := if fence ∧ kind = 1 then [] else y.ibuf }

/-- The end of a word: END, SLEEP or the next PC; the target of a branch is fetched as the branch executes (R180). -/
def Dev.wordEnd (d : Dev) (b c : Nat) (ph : Phys) (pc : BitVec 48) (w : WordSt) : Dev :=
  match w.fin with
  | some code => d.stopProgram c 0 pc 0 code false
  | none =>
    let d := if w.next = pc + 32 then d else d.fetchWord b c ph w.next.toNat
    let d := d.updCtx c fun x => { x with pc := w.next }
    match w.sleep with
    | none => d
    | some (rd, us) =>
      let t := d.lived (d.bedTimer b)
      d.updCtx c fun x =>
        let x := { x with sleepRd := rd, sleepUs := us, sleepFrom := t }
        match x.wake with
        | some v => { x.wakeNow v with wake := none }
        | none => { x with ps := .sleeping }

/-- The registers that a word has written. -/
def Dev.wordRegs (d : Dev) (c : Nat) (w : Ctx) : Dev :=
  d.updCtx c fun x => { x with s := w.s, p := w.p, t := w.t, flags := w.flags, yield := w.yield }

/-- A word that passed the encoding checks, the ordering of R176 and the stall of R173 executes. resume: only its tensor slot
is left (R188). -/
def Dev.wordRun (d : Dev) (b c : Nat) (ph : Phys) (w : Gran) (resume texec : Bool) : Dev :=
  let x := d.ctx c
  let ts : BitVec 128 := w.extractLsb' 128 128
  if resume then
    let d := d.updCtx c fun x => { x with resumeT := false }
    (d.tensorIssue b c ph x.pc ts).updCtx c fun x => { x with pc := x.nextPc }
  else
    let w0 : WordSt := { x := x, next := x.pc + 32, fin := none, sleep := none, stop := 0 }
    let (r, d) := d.slotRun ph b c (slotOf (w.toNat % 2 ^ 64)) x w0
    let (r, d) := d.slotRun ph b c (slotOf (bits w.toNat 64 64)) x r
    let d := d.wordRegs c r.x
    if r.stop ≠ 0 then d.stopProgram c r.stop x.pc 0 0 false
    else (if texec then d.tensorIssue b c ph x.pc ts else d).wordEnd b c ph x.pc r

/-- At a boundary of words PREFETCH_EN takes effect (R146, R187). -/
def Dev.wordBoundary (d : Dev) (b : Nat) : Dev :=
  let en := d.fld row_BED_CTL 0 f_BED_CTL_PREFETCH_EN == 1
  d.updBed b fun y => if y.run.isNone && y.pend.isNone then { y with pf := en } else y

/-- The word at PC stops the program, or ends the operation it still had to run. -/
def Dev.wordStop (d : Dev) (c status : Nat) (pc : BitVec 48) (fetch : Nat) : Dev :=
  (d.updCtx c fun x => { x with resumeT := false }).stopProgram c status pc fetch 0 false

/-- Issue one word of context c on bed b. ahead: words fetched ahead; dis1 and dis2: the signatures that differ at the first
and the second comparison (R170). -/
def Dev.issue (d : Dev) (b c ahead : Nat) (dis1 dis2 : List (Nat × Nat)) (ph : Phys) : Dev :=
  let x := d.ctx c
  let y := d.bed b
  let d := d.updBed b fun y => { y with curSlot := x.slot.getD y.curSlot }
  let d := if y.run.isNone && y.pend.isNone then d.updCtx c fun x => { x with yield := false } else d
  if (d.liveCores b).isEmpty then
    (d.updCtx c fun x => { x with stop := none }).wordStop c 0x10C x.pc 0
  else
    let d := d.fetchAhead b c ph x.pc.toNat ahead
    if !d.buffered b x.pc.toNat then d else
    match d.wordAt b x.pc.toNat with
    | (none, st) => d.wordStop c 0x112 x.pc st
    | (some w, _) =>
      let t0 := slotOf (w.toNat % 2 ^ 64)
      let t1 := slotOf (bits w.toNat 64 64)
      let ts : BitVec 128 := w.extractLsb' 128 128
      let jump := !x.resumeT && (t0.badJump x || t1.badJump x)
      if !(slotsOk t0 t1 && tslotOk ts) || jump then d.wordStop c 0x110 x.pc 0 else
      let texec := slotTop ts ≠ 0 && (x.resumeT || x.pGet (sf ts 118 116) != bitOf ts.toNat 119)
      let acc := if x.resumeT then [] else ([t0, t1] : List Slot).filterMap fun t => t.access x
      if (texec && y.pend.isSome) || acc.any (d.accessWaits b) then d else
      let (ok, d) := if texec || acc.any (·.2.2) then d.signatures b dis1 dis2 else (true, d)
      if !ok then d.wordStop c 0x111 x.pc 0
      else (d.wordRun b c ph w x.resumeT texec).wordBoundary b

def execWordIssue (b : Fin 8) (ahead : Nat) (dis1 dis2 : List (Nat × Nat)) (ph : Phys) (s : State) :
    Host.Outcome State Fault Refusal :=
  s.devEvent (fun d => (d.issues b.val).isSome) fun d => match d.issues b.val with
    | none => d
    | some c => d.issue b.val c ahead dis1 dis2 ph

/-! ### Operand reads (R135, R139) -/

/-- Are the reads of a source of the pending operation of bed b due, no switch being decided (R145). -/
def Dev.prefetchDue (d : Dev) (b r : Nat) : Bool := !d.switchPick b && (d.bed b).pend.elim false fun o => d.mayIssue b r o

/-- Reads of a source are issued, or issued again after LEN_CHANGED. -/
def execPrefetch (b : Fin 8) (x : IssueAt) (s : State) : Host.Outcome State Fault Refusal :=
  s.devEvent (fun d => d.prefetchDue b.val x.src.val || d.mayReissue b.val x.src.val)
    (fun d => if d.mayReissue b.val x.src.val then d.reissue b.val x.src.val else d.prefetch x.ph b.val x.src.val)

/-! ### Start (R127 step 3) -/

/-- May the pending operation of bed b, of tensor opcode top, start. -/
def Dev.startable (d : Dev) (b top : Nat) : Bool :=
  let y := d.bed b
  d.bedsRun && y.run.isNone && !d.switchPick b &&
    y.pend.elim false fun o => slotTop o.slot == top &&
      (o.status ≠ 0 || (d.working && o.begun && !d.destsMoving o && (!o.present || d.outsOk b o)))

/-- Does an operation name a clay offset. -/
def TOp.namesClay (o : TOp) : Bool := !o.noop && (o.dests ++ o.sources).any fun t => t.kind == 2

/-- What an operation can meet as it starts: no core live, no clay buffer, or the clay it names lost (R143, R429). -/
def Dev.startFault (d : Dev) (b : Nat) (o : TOp) : TOp :=
  if (d.liveCores b).isEmpty then o.fail 0x10C
  else if (d.liveClusters b).isEmpty || ((d.ctx o.ctx).clayLost && o.namesClay) then o.fail 0x10B else o

/-- The pending operation becomes the running one; one that resolution refused does nothing (R195), one whose first operands only are
present executes as the others arrive (R127 step 4). -/
def Dev.startOp (d : Dev) (b : Nat) (body : TOp → Dev → Dev) : Dev :=
  match (d.bed b).pend with
  | none => d
  | some o =>
    let o : TOp := { d.startFault b o with started := true }
    let d := d.updBed b fun y => { y with run := some o, pend := none }
    let d := d.updCtx o.ctx fun x => { x with yield := false, late := none }
    if o.status ≠ 0 || !o.present then d else body o d

/-- A row of the table that starts the pending operation of one tensor opcode. -/
def State.opStart (b top : Nat) (body : TOp → Dev → Dev) (s : State) : Host.Outcome State Fault Refusal :=
  s.devEvent (fun d => d.startable b top && !s.gated b) (fun d => d.startOp b body)

/-! ### Operands and results -/

/-- n clay granules from granule g on. -/
def Dev.clayList (d : Dev) (ph : Phys) (b c g : Nat) : Nat → Option (List Gran) × Dev
  | 0 => (some [], d)
  | n + 1 =>
    let (x, d) := d.clayRead ph b c g
    let (l, d) := d.clayList ph b c (g + 1) n
    (match x, l with
      | some x, some l => some (x :: l)
      | _, _ => none, d)

/-- The scale rows of a role: zeros where there are none. -/
def Dev.scaleRows (d : Dev) (ph : Phys) (b : Nat) (o : TOp) (r : Nat) : List (Nat × Nat × Nat) → Option (List Nat) × Dev
  | [] => (some [], d)
  | i :: t =>
    let (y, d) := match o.sc r with
      | none => (some 0, d)
      | some c =>
        let (y, d) := d.srcGrans ph b o r c (c.rowOf i) c.rowG
        (y.map fun y => y % 2 ^ (8 * rowBytes c.fmt c.n0), d)
    let (l, d) := d.scaleRows ph b o r t
    (match y, l with
      | some y, some l => some (y :: l)
      | _, _ => none, d)

/-- The n blocks of coded clay of source r from granule g on, opened at the operand port (R194). m: the number of the first. A place
where no coded block was loaded has no home to read again: its mismatch is lasting at once, and no poison entry names it (DESIGN CHOICE,
log 44). -/
def Dev.codedClay (d : Dev) (ph : Phys) (b : Nat) (o : TOp) (r m g : Nat) : Nat → Option (List Gran) × Dev
  | 0 => (some [], d)
  | n + 1 =>
    match d.clayBlock b o.ctx g with
    | none =>
      let d := (d.log (d.bedAgent b).dom 0x05 true 0).satInc row_GRD_ERR_CNT 0 f_GRD_ERR_CNT_MISMATCH_LASTING
      (none, d.failRun b 0x07)
    | some i =>
      match d.clayList ph b o.ctx g (wGran i.len) with
      | (none, d) => (none, d.failRun b 0x10B)
      | (some l, d) => match d.portOpen b ph o r m i l with
        | (none, d) => (none, d.failRun b 0x07)
        | (some x, d) =>
          let (y, d) := d.codedClay ph b o r (m + 1) (g + wGran i.len) n
          (y.map (x ++ ·), d)

/-- The operand port opens the blocks of source r that are held in transit form: the source's data, or none for POISON. -/
def Dev.heldData (d : Dev) (ph : Phys) (b : Nat) (o : TOp) (r : Nat) : Option (Tab Gran) × Dev :=
  let s := o.src r
  ((List.range s.held.length).zip s.held).foldl (fun (m : Option (Tab Gran) × Dev) h =>
    let (x, d) := m.2.portOpen b ph o r h.1 h.2.id h.2.data
    (match m.1, x with
      | some m, some l => some (addData m (h.2.grans.map fun e => (e.1, l.getD e.2 0)))
      | _, _ => none, d)) (some s.data, d)

/-- An operand that lies raw in clay, with the broadcast role, passes the decoders too (R113, R130). -/
def Dev.rawDelivered (d : Dev) (b : Nat) (o : TOp) (r : Nat) (l : List (Nat × Nat)) : Dev :=
  let t := o.t r
  if t.kind = 2 ∧ o.transitRole r then d.delivered b t.fmt (l.flatMap fun x => natBytes x.1 (rowBytes t.fmt t.n0)) else d

/-- An operand of the running operation of bed b by its role, at the rows that are needed; none where clay cannot be read
(CLAY_LOST) or a coded block cannot be decoded (POISON). ix: the rows of the index tensor. -/
def Dev.operand (d : Dev) (ph : Phys) (b : Nat) (o : TOp) (ix : List (List Nat)) (r : Nat) : Option Opd × Dev :=
  let t := o.t r
  if !(slotSrcs o.slot).contains r then (some ⟨t, []⟩, d)
  else if t.coded then
    match d.codedClay ph b o r 0 t.base t.blocks with
    | (none, d) => (none, d)
    | (some l, d) => match d.scaleRows ph b o r t.rows with
      | (none, d) => (none, d.failRun b 0x10B)
      | (some sc, d) => (some ⟨t, ((denseRows t l).zip sc).map fun p => (p.1.1, p.2)⟩, d)
  else
    match d.heldData ph b o r with
    | (none, d) => (none, d.failRun b 0x07)
    | (some m, d) =>
      let o := o.updSrc r fun s => { s with data := m }
      let is := o.needRows r ix
      match d.srcRows ph b o r is with
      | (none, d) => (none, d.failRun b 0x10B)
      | (some l, d) =>
        let d := d.rawDelivered b o r l
        let m := is.zip l
        (some ⟨t, if is = t.rows then l else t.rows.map fun i => (m.find? fun e => e.1 == i).elim (0, 0) (·.2)⟩, d)

/-- Operands by role, in order. -/
def Dev.operands (d : Dev) (ph : Phys) (b : Nat) (o : TOp) (ix : List (List Nat)) : List Nat → Option (List Opd) × Dev
  | [] => (some [], d)
  | r :: t =>
    let (x, d) := d.operand ph b o ix r
    let (l, d) := d.operands ph b o ix t
    (match x, l with
      | some x, some l => some (x :: l)
      | _, _ => none, d)

/-- The result of the running operation: flags are held, destination rows written unless it fails (R197). -/
def Dev.opResult (d : Dev) (b : Nat) (ph : Phys) (r : OpRes) : Dev :=
  let d := d.updBed b fun y => { y with run := y.run.map fun o => { o with flags := o.flags ||| r.fl } }
  match (d.bed b).run with
  | none => d
  | some o =>
    if o.status ≠ 0 then d
    else if r.st ≠ 0 then d.failRun b r.st
    else d.putItems b ph o (r.out.flatMap fun x => o.putRow x.1 x.2.1 x.2.2.1 x.2.2.2)

/-- What was brought into clay is taken from there: its pages are checked again (R134). -/
def Dev.dataTag (d : Dev) (b : Nat) (ph : Phys) (o : TOp) : Dev := if o.reads = [] then d else (d.fillTag b o.ctx ph).2

/-- The operands named by rs, then a result from them. -/
def Dev.compute (d : Dev) (b : Nat) (ph : Phys) (o : TOp) (ix : List (List Nat)) (rs : List Nat) (f : List Opd → OpRes) : Dev :=
  match (d.dataTag b ph o).operands ph b o ix rs with
  | (none, d) => d
  | (some l, d) => d.opResult b ph (f l)

/-- The rows of the index tensor, then what follows from them. -/
def Dev.withIx (d : Dev) (ph : Phys) (b : Nat) (o : TOp) (f : List (List Nat) → Dev → Dev) : Dev :=
  match d.ixRows ph b o with
  | (none, d) => d.failRun b 0x10B
  | (some ix, d) => f ix d

/-- Operand i of a list. -/
def opdAt (l : List Opd) (i : Nat) : Opd := l.getD i ⟨tdesc 0, []⟩

/-! ### Residue checks (R140, R141) -/

/-- The residue checks of the engine operations of the running operation, of U work units. One that fails is executed once more; one that
fails again is COMPUTE_FAULT and fences the core that holds the engine. -/
def Dev.residues (d : Dev) (b U : Nat) (errs : List EngErr) : Dev :=
  let es := (d.workCores b).flatMap fun c => (List.range 4).map fun j => 4 * c + j
  let us := ((errs.map (·.unit)).dedup).filter fun u => decide (u < U) && !(unitPasses errs u).1
  d.each us fun d u =>
    let e := es.getD (unitOwner U es.length u) 0
    if (unitPasses errs u).2 then
      (d.satInc row_BED_RES_CNT (e / 32) f_BED_RES_CNT_TRANSIENT).log (coreDom (e / 4)) 0x06 false e
    else
      (((d.satInc row_BED_RES_CNT (e / 32) f_BED_RES_CNT_LASTING).log (coreDom (e / 4)) 0x06 true e).failRun b 0x10C).domFence
        (coreDom (e / 4)) 2

/-- Engines of a bed that take work. -/
def Dev.engines (d : Dev) (b : Nat) : Nat := 4 * (d.workCores b).length

/-! ### The operations -/

/-- MMA (R199, R200). -/
def Dev.mma (d : Dev) (b : Nat) (errs : List EngErr) (order : List Nat) (ph : Phys) (o : TOp) : Dev :=
  let n := d.engines b
  let d := d.residues b (mmaUnits (o.t 0) (o.t 1) (pairKpt (o.t 1).fmt (o.t 2).fmt)) errs
  d.compute b ph o [] [1, 2, 3, 4] fun l => mmaRun o.slot (o.t 0) (opdAt l 0) (opdAt l 1) (opdAt l 2) (opdAt l 3) n order errs

def execMma (x : BedAt) (errs : List EngErr) (order : List Nat) (s : State) : Host.Outcome State Fault Refusal :=
  s.opStart x.bed.val 0x01 fun o d => d.mma x.bed.val errs order x.ph o

/-- ATTN (R202, R203). -/
def Dev.attn (d : Dev) (b : Nat) (errs : List EngErr) (order : List Nat) (ph : Phys) (o : TOp) : Dev :=
  d.withIx ph b o fun ix d =>
    let n := d.engines b
    let d := if ix.any (attnBad (o.t 2)) then d else d.residues b (attnUnits (o.t 1) ix) errs
    d.compute b ph o ix [1, 2, 4] fun l =>
      attnRun o.slot (o.t 0) (o.t 5) (opdAt l 0) (opdAt l 1) (opdAt l 2) ix n order errs

def execAttn (x : BedAt) (errs : List EngErr) (order : List Nat) (s : State) : Host.Outcome State Fault Refusal :=
  s.opStart x.bed.val 0x02 fun o d => d.attn x.bed.val errs order x.ph o

/-- EWISE (R205). -/
def Dev.ewise (d : Dev) (b : Nat) (ph : Phys) (o : TOp) : Dev :=
  d.compute b ph o [] [1, 2, 3] fun l => ewRun o.slot (o.t 0) (opdAt l 0) (opdAt l 1) (opdAt l 2)

def execEwise (x : BedAt) (s : State) : Host.Outcome State Fault Refusal :=
  s.opStart x.bed.val 0x03 fun o d => d.ewise x.bed.val x.ph o

/-- REDUCE (R207). -/
def Dev.reduce (d : Dev) (b : Nat) (ph : Phys) (o : TOp) : Dev := d.compute b ph o [] [1] fun l => reduceRun o.slot (o.t 0) (opdAt l 0)

def execReduce (x : BedAt) (s : State) : Host.Outcome State Fault Refusal :=
  s.opStart x.bed.val 0x04 fun o d => d.reduce x.bed.val x.ph o

/-- TOPK (R208). -/
def Dev.topk (d : Dev) (b : Nat) (ph : Phys) (o : TOp) : Dev :=
  d.compute b ph o [] [1, 3] fun l => topkRun o.slot (o.t 0) (opdAt l 0) (opdAt l 1)

def execTopk (x : BedAt) (s : State) : Host.Outcome State Fault Refusal :=
  s.opStart x.bed.val 0x05 fun o d => d.topk x.bed.val x.ph o

/-- GATHER (R209). -/
def Dev.gather (d : Dev) (b : Nat) (ph : Phys) (o : TOp) : Dev :=
  d.withIx ph b o fun ix d =>
    d.compute b ph o ix [1] fun l =>
      gatherRun (o.t 0) (o.t 1) ((o.needRows 1 ix).map fun i => (i.1, (opdAt l 0).row i.1 0 0)) ix

def execGather (x : BedAt) (s : State) : Host.Outcome State Fault Refusal :=
  s.opStart x.bed.val 0x06 fun o d => d.gather x.bed.val x.ph o

/-- A row of SCATTER's table at its home, as it is now. -/
def Dev.tableGrans (d : Dev) (b : Nat) (ph : Phys) (o : TOp) (t : TDesc) (g : Nat) : Nat → Option Nat × Dev
  | 0 => (some 0, d)
  | n + 1 =>
    let (x, d) := if t.kind = 2 then
        let (x, d) := d.clayRead ph b o.ctx g
        (x, if x.isSome then d else d.failRun b 0x10B)
      else
      match o.outs.find? fun e => e.w == g / 2048 with
      | none => (none, d.failRun b 0x01)
      | some e =>
        let (l, d) := (d.touch e.ext).readBlock (d.bedAgent b) ph e.ext (g / 64 % 32) (g % 64) 1
        match l with
        | none => (none, d.failRun b 0x07)
        | some l => (l.head?, d)
    let (y, d) := d.tableGrans b ph o t (g + 1) n
    (match x, y with
      | some x, some y => some (x.toNat + 2 ^ 256 * y)
      | _, _ => none, d)

/-- The named rows of SCATTER's table, read (ADD = 1). -/
def Dev.tableRows (d : Dev) (b : Nat) (ph : Phys) (o : TOp) : List Nat → Option (List (Nat × Row)) × Dev
  | [] => (some [], d)
  | v :: r =>
    let t := o.t 0
    let (x, d) := d.tableGrans b ph o t (t.row v 0 0) t.rowG
    let (y, d) := match o.sc 0 with
      | none => (some 0, d)
      | some c => d.tableGrans b ph o c (c.row v 0 0) c.rowG
    let (l, d) := d.tableRows b ph o r
    (match x, y, l with
      | some x, some y, some l => some ((v, (x, y)) :: l)
      | _, _, _ => none, d)

/-- SCATTER (R210). INDEX_RANGE is decided before the table is read. -/
def Dev.scatter (d : Dev) (b : Nat) (ph : Phys) (o : TOp) : Dev :=
  d.withIx ph b o fun ix d =>
    let vs := ((scatterAt (o.t 1).n1 (o.t 1).n2 ix).map (·.1)).dedup
    let (tab, d) := if o.scatterAdd && vs.all fun v => decide (v < (o.t 0).n1) then d.tableRows b ph o vs else (some [], d)
    match tab with
    | none => d
    | some tab => d.compute b ph o ix [1, 2] fun l => scatterRun o.slot (o.t 0) (opdAt l 0) (opdAt l 1) tab ix

def execScatter (b : Fin 8) (ph : Phys) (s : State) : Host.Outcome State Fault Refusal :=
  s.opStart b.val 0x07 fun o d => d.scatter b.val ph o

/-- A block in transit form is in clay from granule g on: its page remembers it, with a reference to its table (R118, R136). -/
def Dev.clayHold (d : Dev) (b c g : Nat) (i : BlkId) : Dev :=
  match (d.homeCluster b).bind fun k => (d.ctx c).clayAt k g with
  | none => d
  | some key =>
    let f := key % 2048
    let e : ClayRef := ⟨f, min (wGran i.len) (2048 - f), i, i.coded⟩
    { d.refsTake (if i.coded then [(i.ref, 1)] else []) with
      clayRefs := d.clayRefs.set (key / 2048) (d.clayRefs.get (key / 2048) [] ++ [e]) [] }

/-- Blocks in transit form one after another. -/
def Dev.clayHolds (d : Dev) (b c g : Nat) : List HeldBlk → Dev
  | [] => d
  | h :: t => (d.clayHold b c g h.id).clayHolds b c (g + wGran h.id.len) t

/-- LOAD with PROMOTE = 1: the extents homed in subsoil that TA covers are queued for promotion (R211). -/
def Dev.loadPromote (d : Dev) (o : TOp) : Dev :=
  if !bitOf o.slot.toNat 88 then d else
  d.each (o.t 1).wexts fun d w => (d.windowExt o.ctx w).elim d fun x => if (d.desc x).sub then d.queuePromote x else d

/-- The references that an operation's reads hold end. -/
def Dev.opRefsEnd (d : Dev) (b : Nat) (o : TOp) : Dev :=
  (d.updBed b fun y => { y with run := y.run.map fun o => { o with refs := [] } }).refsRelease o.refs

/-- LOAD (R211). The blocks that a coded destination receives go on holding their references in clay. -/
def Dev.load (d : Dev) (b : Nat) (ph : Phys) (o : TOp) : Dev :=
  let td := o.t 0
  if td.coded then
    let hs := (o.src 1).held
    let l := hs.flatMap (·.data)
    let (sc, d) := d.scaleRows ph b o 1 td.rows
    let scs : List WItem := match o.sc 0 with
      | none => []
      | some c => (td.rows.zip (sc.getD [])).flatMap fun p => c.items (c.rowOf p.1) c.rowG p.2
    let d := if sc.isSome then d else d.failRun b 0x10B
    let d := d.putItems b ph o (((List.range l.length).zip l).map (fun p => ⟨true, td.base + p.1, p.2, none⟩) ++ scs)
    ((d.clayHolds b o.ctx td.base hs).opRefsEnd b o).loadPromote o
  else (d.compute b ph o [] [1] fun l => copyRun td (opdAt l 0)).loadPromote o

def execLoad (x : BedAt) (s : State) : Host.Outcome State Fault Refusal :=
  s.opStart x.bed.val 0x08 fun o d => d.load x.bed.val x.ph o

/-- STORE (R212). -/
def Dev.storeOp (d : Dev) (b : Nat) (ph : Phys) (o : TOp) : Dev := d.compute b ph o [] [1] fun l => copyRun (o.t 0) (opdAt l 0)

def execStore (x : BedAt) (s : State) : Host.Outcome State Fault Refusal :=
  s.opStart x.bed.val 0x09 fun o d => d.storeOp x.bed.val x.ph o

/-- CVT (R212). -/
def Dev.cvt (d : Dev) (b : Nat) (ph : Phys) (o : TOp) : Dev := d.compute b ph o [] [1] fun l => cvtRun o.slot (o.t 0) (opdAt l 0)

def execCvt (x : BedAt) (s : State) : Host.Outcome State Fault Refusal :=
  s.opStart x.bed.val 0x0A fun o d => d.cvt x.bed.val x.ph o

/-- WIN (R89, R213). -/
def Dev.win_ (d : Dev) (b : Nat) (o : TOp) : Dev :=
  let p := sf o.slot 88 83
  let x := d.plan p
  if x.st == .none_ || x.st == .loading || x.st == .failed || x.ctx ≠ o.ctx then d.failRun b 0x107 else
  let l := match sf o.slot 70 69 with
    | 0 => sf o.slot 82 71
    | 1 => o.arg.toNat % 4096
    | _ => x.oldest
  match d.planWin p l with
  | some d => d
  | none => d.failRun b 0x108

def execWin (b : Fin 8) (s : State) : Host.Outcome State Fault Refusal :=
  s.opStart b.val 0x0B fun o d => d.win_ b.val o

/-- FENCE takes no step of its own: what it forbids is held up elsewhere (R182). -/
def execFence (b : Fin 8) (s : State) : Host.Outcome State Fault Refusal :=
  s.opStart b.val 0x0C fun _ d => d

/-! ### POST (R215) -/

/-- The ring entry of a POST: CODE, the completion record, the payload (R334). -/
def Dev.postEntry (d : Dev) (o : TOp) : Gran × Gran × Bool :=
  (BitVec.ofNat 256 (cplHead (sf o.slot 88 73) 0 (d.handle o.ctx) (0x0D * 2 ^ 21) 0 1 true), (o.src 1).data.get 0 0,
    bitOf o.slot.toNat 72)

/-- Has a POST of context c no entry that waits for room any more, a ring that is unusable having lost it (R335). -/
def Dev.postGoes (d : Dev) (c : Nat) : Bool :=
  let r := (d.ctx c).ring
  !r.isSet || r.faulted || r.waiting.all ofCommand

/-- The entry of a POST goes to the ring, behind those that wait there, and is written as soon as there is room (R335). -/
def Dev.postPut (d : Dev) (ph : Phys) (o : TOp) : Dev :=
  let r := (d.ctx o.ctx).ring
  if !r.isSet || r.faulted then d
  else (d.updCtx o.ctx fun x => { x with ring := { x.ring with waiting := x.ring.waiting ++ [d.postEntry o] } }).cqCtxFlush ph o.ctx

/-- POST starts: its payload is read, and its entry written if there is room. -/
def Dev.post_ (d : Dev) (b : Nat) (ph : Phys) (o : TOp) : Dev :=
  match (d.dataTag b ph o).srcRows ph b o 1 (o.t 1).rows with
  | (none, d) => d.failRun b 0x10B
  | (some l, d) =>
    let g : Gran := BitVec.ofNat 256 (l.headD (0, 0)).1
    let o := o.updSrc 1 fun s => { s with data := s.data.set 0 g 0 }
    let d := d.postPut ph o
    let goes := d.postGoes o.ctx
    d.updBed b fun y => { y with run := y.run.map fun q => { q with srcs := o.srcs, waitRing := !goes } }

def execPost (x : BedAt) (s : State) : Host.Outcome State Fault Refusal :=
  s.opStart x.bed.val 0x0D fun o d => d.post_ x.bed.val x.ph o

/-! ### Operand reads (R127 step 4, R135) -/

/-- What an operation does once every operand is present. -/
def Dev.opBody (d : Dev) (b : Nat) (errs : List EngErr) (order : List Nat) (ph : Phys) (o : TOp) : Dev :=
  match slotTop o.slot with
  | 0x01 => d.mma b errs order ph o
  | 0x02 => d.attn b errs order ph o
  | 0x03 => d.ewise b ph o
  | 0x04 => d.reduce b ph o
  | 0x05 => d.topk b ph o
  | 0x06 => d.gather b ph o
  | 0x07 => d.scatter b ph o
  | 0x08 => d.load b ph o
  | 0x09 => d.storeOp b ph o
  | 0x0A => d.cvt b ph o
  | 0x0D => d.post_ b ph o
  | _ => d

/-- A read of n blocks of source r is applied; the running operation that has the last of its operands executes. Ticks that it waited for
operands are counted by a free amount, what takes time being left out (R146, log 15). -/
def Dev.operandRead (d : Dev) (b r n : Nat) (errs : List EngErr) (order : List Nat) (ph : Phys) : Dev :=
  let run := d.runReads b r
  let d := d.readApply b r n ph
  if !run then d else
  let (t, d) := d.fresh 32
  let d := d.wrapInc row_BED_STALL b f_BED_STALL_STALL_TICKS t.toNat
  match (d.bed b).run with
  | none => d
  | some o => if o.status = 0 && o.present then d.opBody b errs order ph o else d

/-- May results of the running operation of bed b be written at once where a read of n blocks of source r is its last: no destination is
MOVING, and the ceiling lets the writes go, the read's own charge having ended. -/
def Dev.resultsGo (d : Dev) (b r n : Nat) (o : TOp) : Bool :=
  !d.runReads b r || (!d.destsMoving o &&
    (o.nextReads r n ≠ (o.src r).todo || (o.reads.any fun q => q ≠ r && !(o.src q).applied) ||
      (d.discharge (bedMaster b) (readCharges (o.nextReads r n))).outsOk b o))

/-- May a read of n blocks of source r of bed b be applied: it is issued, and the instances that hold them bring data (R19). -/
def Dev.readDue (d : Dev) (b r n : Nat) : Bool :=
  d.working && (d.readsOf b r).elim false fun o =>
    (o.src r).issued && !(o.src r).applied && (o.nextReads r n ≠ [] || o.status ≠ 0) &&
      (o.nextReads r n).all (fun w => !d.setStopped w.set) && d.resultsGo b r n o

def execOperandReadApply (b : Fin 8) (r : ReadAt) (ph : Phys) (s : State) : Host.Outcome State Fault Refusal :=
  s.devEvent (fun d => d.readDue b.val r.src.val r.blocks) (fun d => d.operandRead b.val r.src.val r.blocks r.errs r.order ph)

/-! ### Completion (R127 step 5, R186, R196) -/

/-- A slot that a WIN of the plan queued to be filled and that could not be (R89): layers below k before their first WIN are
those that PLAN_LOAD fills. -/
def Plan.winBad (p : Plan) : Bool :=
  p.slots.any fun w => w.bad && match w.layer with
    | none => false
    | some l => !(decide (l < p.look ∧ p.wins ≤ l))

/-- Plans whose window WINs of a context have advanced. -/
def Dev.wonPlans (d : Dev) (c : Nat) : List Plan :=
  (d.plans.map (·.2)).filter fun p => p.st ≠ .none_ && p.ctx == c && decide (0 < p.wins)

/-- Is a FENCE of kind WINDOW over: a bad slot, or no fill left (fills run in queue order, those of WINs last). -/
def Dev.fenceOver (d : Dev) (o : TOp) : Bool :=
  !(slotTop o.slot == 0x0C && sf o.slot 88 87 == 3) ||
    (d.wonPlans o.ctx).any Plan.winBad || (d.wonPlans o.ctx).all fun p => p.fills.isEmpty

/-- LAST and FLAGS take an operation's record; a status other than SUCCESS stops the program at its word, before a stop of its
later words but not before an orphan's or a destruction's (R186, R196, R230, R231). -/
def Dev.opRecord (d : Dev) (o : TOp) : Dev :=
  let rec_ : BitVec 29 := BitVec.ofNat 29 (o.status + o.flags.toNat * 2 ^ 16 + slotTop o.slot * 2 ^ 21)
  d.updCtx o.ctx fun x =>
    let x := { x with last := rec_, flags := x.flags ||| o.flags }
    if o.status = 0 || x.ps == .idle || x.stop.elim false (fun s => s.status == 0x113 || s.status == 0x114) then x
    else { x with stop := some ⟨o.status, o.pc, 0, 0⟩, resumeT := false }

/-- Finish the stop of context c once no operation of it is left. -/
def Dev.stopDue (d : Dev) (c : Nat) : Dev :=
  if (d.ctx c).stop.isSome && !d.opsOf c && !(d.ctx c).resumeT then d.finishStop c else d

/-- Is an extent that a failed operation wrote MOVING: what its writes leave there waits for the move (R78). -/
def Dev.havocWaits (d : Dev) (o : TOp) : Bool :=
  o.status ≠ 0 && o.status ≠ 0x109 && o.outs.any fun e => (d.desc e.ext).st == .moving

/-- The running operation of bed b completes. -/
def Dev.opEnd (d : Dev) (b : Nat) : Dev :=
  match (d.bed b).run with
  | none => d
  | some o =>
    let o := if slotTop o.slot == 0x0C && sf o.slot 88 87 == 3 && (d.wonPlans o.ctx).any Plan.winBad then o.fail 0x07 else o
    let d := if o.status ≠ 0 ∧ o.status ≠ 0x109 then d.havoc b o else d
    let d := d.each o.srcs fun d s => d.discharge (bedMaster b) s.2.charged
    let d := d.refsRelease o.refs
    let d := d.wrapInc row_BED_OPS b f_BED_OPS_OPS
    let d := d.opRecord o
    let en := d.fld row_BED_CTL 0 f_BED_CTL_PREFETCH_EN == 1
    let fence := slotTop o.slot == 0x0C
    let d := d.updBed b fun y => { y with
      run := none, pf := en, sync := y.sync && !(fence && sf o.slot 88 87 == 2),
      ibuf := if fence && sf o.slot 88 87 == 1 then [] else y.ibuf }
    let d := if o.status ≠ 0 && ((d.bed b).pend.elim false fun p => p.ctx == o.ctx) then d.pendDrop b else d
    d.stopDue o.ctx

def execOpComplete (b : Fin 8) (s : State) : Host.Outcome State Fault Refusal :=
  s.devEvent (fun d => d.bedsRun && (d.bed b.val).run.elim false fun o => !d.havocWaits o &&
      (o.status ≠ 0 || (!o.waitRing && o.present && d.fenceOver o)))
    (fun d => d.opEnd b.val)

/-- Contexts of bed b whose POST was left waiting by a switch. -/
def Dev.postCtxs (d : Dev) (b : Nat) : List Nat :=
  (d.bedCtxs b).filter fun c => (d.ctx c).post.elim false fun o => o.status ≠ 0 || d.postGoes c

/-- The entry of a waiting POST of bed b has been written or lost: it completes. -/
def Dev.postDone (d : Dev) (b : Nat) : Dev :=
  match (d.bed b).run with
  | some o => if o.waitRing && d.postGoes o.ctx then
      (d.updBed b fun y => { y with run := y.run.map fun q => { q with waitRing := false } }).opEnd b
    else switched d
  | none => switched d
where
  /-- The POST of a context that has been switched out. -/
  switched (d : Dev) : Dev :=
    match (d.postCtxs b).head? with
    | none => d
    | some c => match (d.ctx c).post with
      | none => d
      | some o =>
        let d := (d.wrapInc row_BED_OPS b f_BED_OPS_OPS).opRecord o
        (d.updCtx c fun x => { x with post := none }).stopDue c

def execPostRingFree (b : Fin 8) (s : State) : Host.Outcome State Fault Refusal :=
  s.devEvent (fun d => d.bedsRun && (((d.bed b.val).run.elim false fun o => o.waitRing && d.postGoes o.ctx) || d.postCtxs b.val ≠ []))
    (fun d => d.postDone b.val)

/-! ### Context switch (R144, R145, R188) -/

/-- The state of context c is written to its control area (R188), in the fixed metadata of its partition. -/
def Dev.ctrlSave (d : Dev) (c : Nat) : Dev :=
  let x := d.ctx c
  let left := d.sleepLeft c
  d.each (List.range 64) fun d j =>
    (d.fixedPlace (d.portPart x.port) (ctrlOff + 512 * c + 128 + j)).elim d fun p =>
      if d.setFenced p.1 then d else d.memWrite p.1 p.2 (x.image left j)

/-- Switch bed b to its next ready context, the outgoing one's state saved. A pending operation is not saved; the context resumes at its tensor slot. A POST
that waits for ring room stays with its context. -/
def Dev.switchCtx (d : Dev) (b : Nat) : Dev :=
  match d.nextCtx b with
  | none => d
  | some c =>
    let d := match (d.bed b).pend with
      | none => d
      | some o =>
        (d.pendDrop b).updCtx o.ctx fun x => { x with nextPc := x.pc, pc := o.pc, resumeT := true }
    let d := match (d.bed b).run with
      | none => d
      | some o => d.updCtx o.ctx fun x => { x with post := some o }
    let d := match (d.bed b).cur with
      | none => d
      | some k => (d.updCtx k fun x => { x with yield := false }).ctrlSave k
    let t := d.lived (d.bedTimer b)
    (d.wrapInc row_BED_OPS b f_BED_OPS_SWITCHES).updBed b fun y => { y with
      cur := some c, curSlot := (d.ctx c).slot.getD y.curSlot, run := none, ibuf := [], since := t, sync := false,
      pf := (d.fld row_BED_CTL 0 f_BED_CTL_PREFETCH_EN == 1) }

def execContextSwitch (b : Fin 8) (s : State) : Host.Outcome State Fault Refusal :=
  s.devEvent (fun d => d.working && d.switchDue b.val) (fun d => d.switchCtx b.val)

/-! ### SLEEP timeout (R185, R226) -/

/-- The die common timer that measures a context's sleep: that of its bed's lowest cluster. -/
def Dev.sleepTimer (d : Dev) (c : Nat) : Nat := d.bedTimer ((d.ctx c).bed.getD 0)

/-- Has a program that sleeps lost its clay area by parking (R226): it resumes only when it holds a new one. -/
def Ctx.needsArea (x : Ctx) : Bool := x.area.isNone && !x.clayLost && x.bed.isSome

/-- Is the sleep of context c over by its timeout; one whose context holds a slot without a clay area waits for pages. -/
def Dev.sleepDue (d : Dev) (c : Nat) : Bool :=
  let x := d.ctx c
  d.working && x.ps == .sleeping && x.sleepUs ≠ 0 && !x.unparking && !x.timeoutDue && x.stop.isNone &&
    d.ran (d.sleepTimer c) x.sleepFrom (x.sleepUs * 1000) &&
    (x.st == .parked || x.parking || !x.needsArea || (d.takeArea c).isSome)

/-- The timeout expires: SLEEP returns all ones; a PARKED program decides its unpark. -/
def Dev.sleepEnd (d : Dev) (c : Nat) : Dev :=
  let x := d.ctx c
  if x.st == .parked || x.parking then (d.updCtx c fun x => { x with timeoutDue := true }).wantUnpark c
  else
    let d := if x.needsArea then (d.takeArea c).getD d else d
    d.updCtx c fun x => x.wakeNow (BitVec.ofNat 64 (2 ^ 64 - 1))

def execSleepTimeout (c : Fin 4096) (s : State) : Host.Outcome State Fault Refusal :=
  s.devEvent (fun d => d.sleepDue c.val) (fun d => d.sleepEnd c.val)

/-! ### LAUNCH (R184, R185) -/

/-- The unpark that a wake decided is abandoned: the context is PARKED again, at once or, where more of it is in flight, when that has
ended (R226). -/
def Dev.unparkGiveUp (d : Dev) (c : Nat) : Dev :=
  if d.sleepsAlone c && (d.ctx c).ring.waiting.isEmpty then d.updCtx c fun x => { x with st := .parked, slot := none }
  else d.updCtx c fun x => { x with parkWait := true, parkSleep := true }

/-- LAUNCH with WAKE. -/
def Dev.wakeUp (d : Dev) (c : Nat) (v : Word) (ref : CmdRef) : Dev :=
  let x := d.ctx c
  match x.ps with
  | .idle => d.complete ref 0x20E 0 0
  | .running => if x.wake.isSome then d.complete ref 0x20E 0 0
      else (d.updCtx c fun x => { x with wake := some v }).complete ref 0 0 0
  | .sleeping =>
    if x.needsArea then match d.takeArea c with
      | some d => (d.updCtx c fun x => x.wakeNow v).complete ref 0 0 0
      | none => (d.complete ref 0x20D 0 0).unparkGiveUp c
    else (d.updCtx c fun x => x.wakeNow v).complete ref 0 0 0

/-- The state that an accepted LAUNCH sets. -/
def Dev.launched (d : Dev) (b c : Nat) (e : Entry) (ref : CmdRef) : Dev :=
  let s : Tab Word := ((List.range 4).map fun i => (i + 1, BitVec.ofNat 64 (e.arg (i + 1)))).foldl
    (fun (m : Tab Word) p => m.set p.1 p.2 0) []
  let d := d.updCtx c fun x => { x with
    s := s, p := 1, t := [], undef := none, late := none, pc := BitVec.ofNat 48 (e.arg 0), flags := 0, last := 0, ps := .running,
    resumeT := false, wake := none, sleepUs := 0, launch := some ref, stop := none, yield := false, timeoutDue := false }
  d.updBed b fun y => if y.cur == some c then { y with ibuf := [] } else y

/-- The program of an ORPHANED or DRAINING context is stopped as it starts (R230, R231). -/
def Dev.launchStop (d : Dev) (c : Nat) : Dev :=
  match (d.ctx c).st with
  | .orphaned => d.stopProgram c 0x113 (d.ctx c).pc 0 0 true
  | .draining => d.stopProgram c 0x114 (d.ctx c).pc 0 0 true
  | _ => d

/-- LAUNCH without WAKE. -/
def Dev.launch_ (d : Dev) (c : Nat) (e : Entry) (ref : CmdRef) : Dev :=
  let x := d.ctx c
  match x.bed with
  | none => d.complete ref 0x20B 0 0
  | some b =>
    if x.ps ≠ .idle then d.complete ref 0x20C 0 0
    else if e.arg 0 % 32 ≠ 0 || 2 ^ 48 ≤ e.arg 0 then d.complete ref 0x06 0 0
    else match (if x.area.isSome then some d else d.takeArea c) with
      | none => d.complete ref 0x20D 0 0
      | some d => (d.launched b c e ref).launchStop c

def launchBody (e : Entry) (ref : CmdRef) (c : Nat) (d : Dev) : Dev :=
  if e.wake then d.wakeUp c (BitVec.ofNat 64 (e.arg 1)) ref else d.launch_ c e ref

def execLaunch (q : Queue) (e : Entry) (s : State) : Host.Outcome State Fault Refusal :=
  s.devCmd 0x10 q e (launchBody e)

end Sys2Proof.Machine
end

