-- ==== Sys2Proof/Machine/Regs.lean ====
section
/-! DEFINITION. Reading and writing management registers (R6 to R9): fields that report other state are computed on a read, fields
that trigger an action act on a write. -/
namespace Sys2Proof.Machine

/-- Put a value into a field of a word. -/
def put (f : Fld) (n : Nat) (w : Word) : Word := f.set w n

/-! ### Reports (R24, R47, R92, R125, R146, R238, R251, R266, R286, R308, R331, R346, R364, R380, R397, R408) -/

/-- MARL_UP stays 1 while the pairs are halted by a freeze or paused for an activation (DESIGN CHOICE, log 46). -/
def State.genStatus (s : State) (w : Word) : Word :=
  w |> put f_GEN_STATUS_EMERGENCY (b2n s.emergency) |> put f_GEN_STATUS_DIE_FENCED s.dev.dieFenced.toNat
    |> put f_GEN_STATUS_MARL_UP (s.dev.marlUp &&& ~~~ s.dev.marlLost).toNat |> put f_GEN_STATUS_STATE s.dev.state.code

def Dev.planBusy (d : Dev) (j : Nat) : Bool := d.plans.any fun p => p.2.filling && p.2.engine == some j

def Dev.viewMove (d : Dev) (j : Nat) (w : Word) : Word :=
  w |> put f_LSS_MOVE_CTL_IN_FLIGHT (d.inFlight j)
    |> put f_LSS_MOVE_CTL_PAUSED (b2n (f_LSS_MOVE_CTL_PAUSE.get w == 1 && d.movesHeld j == 0 && !d.planBusy j))

def PlanSt.code : PlanSt → Nat
  | .none_ => 0
  | .loading => 1
  | .active => 2
  | .reloading => 3
  | .failed => 4

def Dev.viewPlan (d : Dev) (p : Nat) (w : Word) : Word :=
  let x := d.plan p
  w |> put f_LSS_PLAN_LAYER x.oldest |> put f_LSS_PLAN_REGION x.region |> put f_LSS_PLAN_STATE x.st.code

def Dev.viewJournal (d : Dev) (g : Nat) (w : Word) : Word :=
  w |> put f_LSS_JOURNAL_NEAR_FULL (b2n (d.journal g).near) |> put f_LSS_JOURNAL_RECORDS (d.journal g).recs.length

def SlotSt.code : SlotSt → Nat
  | .empty => 0
  | .active => 1
  | .retiring => 2
  | .lost => 3

/-- The tensor that GRD_TBL_SEL names. -/
def Dev.selTensor (d : Dev) : Tensor := d.tensor (d.fld row_GRD_TBL_SEL 0 f_GRD_TBL_SEL_TENSOR)

def Tensor.genWord (t : Tensor) (w : Word) : Word :=
  w |> put f_GRD_TBL_GEN_OWNER (if t.alloc then t.tenant else 0) |> put f_GRD_TBL_GEN_FIT (b2n t.fit.isSome)
    |> put f_GRD_TBL_GEN_SLOT_B t.b.st.code |> put f_GRD_TBL_GEN_SLOT_A t.a.st.code |> put f_GRD_TBL_GEN_ALLOC (b2n t.alloc)
    |> put f_GRD_TBL_GEN_WIDTH (b2n t.width4) |> put f_GRD_TBL_GEN_EXTENTS t.extents

/-- Is a domain fenced: in its fence, its reset or retired. -/
def DomSt.out (s : DomSt) : Bool := s == .fenced || s == .resetting || s == .retired

def Dev.viewBed (d : Dev) (b : Nat) (w : Word) : Word :=
  let ks := d.clusters b
  let cs := ks.flatMap fun k => (List.range 8).map (8 * k + ·)
  let bad := (cs.any fun c => (d.dom (coreDom c)).st.out) || ks.any fun k => (d.dom (clayDom k)).st.out
  let y := d.bed b
  let runs := y.run.isSome || y.pend.isSome || y.cur.elim false fun c => (d.ctx c).ps == .running && (d.ctx c).bed == some b
  w |> put f_BED_STATUS_LIVE_CORES (cs.filter fun c => d.live (coreDom c)).length |> put f_BED_STATUS_CUR_SLOT y.curSlot
    |> put f_BED_STATUS_ASSIGNED (d.assigned b) |> put f_BED_STATUS_DEGRADED (b2n bad)
    |> put f_BED_STATUS_STATE (if ks = [] then 0 else if d.switchPick b && !d.switchDue b then 3 else if runs then 2 else 1)

def Dev.viewCore (d : Dev) (c : Nat) (w : Word) : Word :=
  w |> put f_BED_CORE_FENCED (b2n (d.dom (coreDom c)).st.out)
    |> put f_BED_CORE_LIVE (b2n (d.live (coreDom c) && (d.bedOfCluster (c / 8)).isSome))

def CState.code : CState → Nat
  | .free => 0
  | .active => 1
  | .parked => 2
  | .orphaned => 3
  | .draining => 4

def Dev.viewCtx (d : Dev) (w : Word) : Word :=
  let x := d.ctx (d.fld row_CTX_SEL 0 f_CTX_SEL_INDEX)
  w |> put f_CTX_INFO_GEN x.gen |> put f_CTX_INFO_CLAY_PAGES x.clayPages |> put f_CTX_INFO_SLOT (x.slot.getD 0)
    |> put f_CTX_INFO_BED_V (b2n x.bed.isSome) |> put f_CTX_INFO_BED (x.bed.getD 0) |> put f_CTX_INFO_TENANT x.tenant
    |> put f_CTX_INFO_PORT x.port |> put f_CTX_INFO_PSTATE x.ps.code |> put f_CTX_INFO_SLOT_V (b2n x.slot.isSome)
    |> put f_CTX_INFO_RIGHTS x.rights.toNat |> put f_CTX_INFO_STATE x.st.code

def Dev.viewOcc (d : Dev) (w : Word) : Word :=
  let c := d.fld row_CTX_SEL 0 f_CTX_SEL_INDEX
  let o := (List.range 16).map fun g => (d.sweep g).occ.get c (0, 0)
  w |> put f_CTX_OCC_SUBSOIL (o.map (·.2)).sum |> put f_CTX_OCC_TOPSOIL (o.map (·.1)).sum

def Dev.viewCtxPort (d : Dev) (p : Nat) (w : Word) : Word :=
  let own := (d.ctxs.filter fun e => e.2.st ≠ .free && e.2.port == p).map (·.2)
  w |> put f_CTX_PORT_PARK_Q (d.parkUsed p)
    |> put f_CTX_PORT_CREATE_Q (d.slotq.filter fun q => q.port == p && q.create.isSome && q.told).length
    |> put f_CTX_PORT_PARKED (own.filter fun x => x.slot.isNone).length
    |> put f_CTX_PORT_USED (own.filter fun x => x.slot.isSome).length |> put f_CTX_PORT_SLOT_BASE (d.slotBase p)
    |> put f_CTX_PORT_INDEX_BASE (d.indexBase p)

def Dev.viewTenant (d : Dev) (t : Nat) (w : Word) : Word :=
  put f_CTX_TENANT_CONTEXTS (d.ctxs.filter fun e => e.2.st ≠ .free && e.2.tenant == t).length w

def Dev.viewFm (d : Dev) (w : Word) : Word :=
  w |> put f_RGN_FM_STATUS_SESSION (b2n d.fm.isSome) |> put f_RGN_FM_STATUS_PORT (d.fm.elim 0 (·.port))

def RState.code : RState → Nat
  | .free => 0
  | .active => 1
  | .reclaiming => 2

def Dev.selRgn (d : Dev) : Nat := d.fld row_RGN_SEL 0 f_RGN_SEL_REGION

def Rgn.infoWord (g : Rgn) (w : Word) : Word :=
  w |> put f_RGN_INFO_EXTENTS (g.runs.map (·.2)).sum |> put f_RGN_INFO_TENANT g.tenant |> put f_RGN_INFO_PARTITION g.part
    |> put f_RGN_INFO_RIGHTS g.rights.toNat |> put f_RGN_INFO_SHARE (b2n g.share) |> put f_RGN_INFO_STATE g.st.code

/-- Valid bindings that name region r. -/
def Dev.bindings (d : Dev) (r : Nat) : Nat := (d.ctxs.map fun c => (c.2.binds.filter fun b => b.2.len ≠ 0 && b.2.region == r).length).sum

def Dev.viewRgnMap (d : Dev) (w : Word) : Word :=
  w |> put f_RGN_MAP_BINDINGS (d.bindings d.selRgn) |> put f_RGN_MAP_RUNS (d.rgn d.selRgn).runs.length

def Dev.viewUsage (d : Dev) (w : Word) : Word :=
  w |> put f_RGN_USAGE_RUNS d.runsUsed |> put f_RGN_USAGE_REGIONS (d.rgns.filter fun g => g.2.st ≠ .free).length

/-- The set and master that QOS_SEL names. -/
def Dev.selSet (d : Dev) : Nat := d.fld row_QOS_SEL 0 f_QOS_SEL_SET
def Dev.selMaster (d : Dev) : Nat := d.fld row_QOS_SEL 0 f_QOS_SEL_MASTER

def Dev.viewMaster (d : Dev) (w : Word) : Word :=
  let s := d.selSet
  let m := d.selMaster
  w |> put f_QOS_MASTER_CEILING (d.ceiling s m) |> put f_QOS_MASTER_CMIN (d.cmin s m) |> put f_QOS_MASTER_SHARE (d.share s m)

def Dev.viewMasterCnt (d : Dev) (w : Word) : Word :=
  let q := d.sq d.selSet
  w |> put f_QOS_MASTER_CNT_BE (q.be.get d.selMaster 0 / 1024) |> put f_QOS_MASTER_CNT_WITHIN (q.within.get d.selMaster 0 / 1024)

def Dev.viewMasterOut (d : Dev) (w : Word) : Word :=
  let q := d.sq d.selSet
  w |> put f_QOS_MASTER_OUT_OUTSTANDING (q.out.get d.selMaster 0) |> put f_QOS_MASTER_OUT_CUTS (q.cuts.get d.selMaster 0)

def SetQ.word (q : SetQ) (w : Word) : Word :=
  w |> put f_QOS_SET_CAUSE q.cause |> put f_QOS_SET_K_MIN q.kMin |> put f_QOS_SET_K q.k |> put f_QOS_SET_QLEVEL q.qlevel

def InstSt.code : InstSt → Nat
  | .off => 0
  | .training => 1
  | .active => 2
  | .selfRefresh => 3
  | .pause => 4
  | .replay => 5
  | .fenced => 6

def Dev.viewInst (d : Dev) (i : Nat) (w : Word) : Word :=
  let s := d.setOfInst i
  w |> put f_HMC_STATUS_SET_V (b2n s.isSome) |> put f_HMC_STATUS_SET (s.getD 0)
    |> put f_HMC_STATUS_CH_FAILED (d.inst i).failed.toNat |> put f_HMC_STATUS_STATE (d.inst i).st.code

/-- The LMC's depth is 2,048. -/
def Dev.viewQueue (d : Dev) (i : Nat) (w : Word) : Word :=
  w |> put f_HMC_QUEUE_DEPTH (queueDepth i) |> put f_HMC_QUEUE_QUEUED (d.inst i).queued

def Dev.viewLoam (d : Dev) (die : Nat) (w : Word) : Word :=
  put f_LOAM_STATUS_CE_USED ((List.range 64).filter fun i => bitOf (d.rd row_LOAM_CE_A (64 * die + i)).toNat 63).length w

def Dev.viewPsn (d : Dev) (w : Word) : Word :=
  let n := d.poisons.length
  w |> put f_LOAM_PSN_CTL_FULL (b2n (n == 4096)) |> put f_LOAM_PSN_CTL_USED n

def Dev.psnWord (d : Dev) (i : Nat) : Word :=
  match d.poison.get (d.fld row_LOAM_PSN_CTL 0 f_LOAM_PSN_CTL_SEL) none with
  | none => 0
  | some p => granWord p.gran i

def Dev.viewScrub (d : Dev) (s : Nat) (w : Word) : Word :=
  let q := d.sq s
  let g := (d.set? s).elim 1 SSet.grans
  w |> put f_LOAM_SCRUB_ACTIVE (b2n q.extra) |> put f_LOAM_SCRUB_PROGRESS (if q.scrubOn then min 1023 (1024 * q.scrubPos / max 1 g) else 0)

def PortSt.code : PortSt → Nat
  | .disabled => 0
  | .down => 1
  | .train => 2
  | .active => 3
  | .retrain => 4
  | .hold => 5
  | .failed => 6

def Port.statusWord (x : Port) (w : Word) : Word :=
  w |> put f_OLY_STATUS_FAR_TABLE_CAP x.tableCap |> put f_OLY_STATUS_FAR_CW (b2n x.cw)
    |> put f_OLY_STATUS_LANE_FAIL x.laneFail.toNat |> put f_OLY_STATUS_WIDTH x.width |> put f_OLY_STATUS_STATE x.st.code

def Port.creditWord (x : Port) (w : Word) : Word :=
  w |> put f_OLY_CREDIT_RSP_ADV x.farRsp |> put f_OLY_CREDIT_RSP_FREE x.rspFree |> put f_OLY_CREDIT_CTL_ADV x.farCtl
    |> put f_OLY_CREDIT_CTL_FREE x.ctlFree

def Ring.word (r : Ring) (w : Word) : Word :=
  if !r.isSet then w else
  w |> put f_HIF_RING_INFO_STATE (if r.faulted then 2 else 1) |> put f_HIF_RING_INFO_PHASE (b2n r.phase)
    |> put f_HIF_RING_INFO_WAITING (min 255 r.waiting.length) |> put f_HIF_RING_INFO_CQ_HEAD r.cqHead
    |> put f_HIF_RING_INFO_CQ_TAIL r.cqTail |> put f_HIF_RING_INFO_SQ_TAIL r.sqTail |> put f_HIF_RING_INFO_SQ_HEAD r.sqHead

def Ring.fmWord (r : Ring) (w : Word) : Word :=
  w |> put f_HIF_FM_RING_CQ_TAIL r.cqTail |> put f_HIF_FM_RING_CQ_HEAD r.cqHead |> put f_HIF_FM_RING_SQ_TAIL r.sqTail
    |> put f_HIF_FM_RING_SQ_HEAD r.sqHead

def Dev.viewHif (d : Dev) (p : Nat) (w : Word) : Word :=
  let q := d.evq.get p {}
  w |> put f_HIF_PORT_HB_PERIOD ((d.host p).elim 0 (·.period)) |> put f_HIF_PORT_EVQ_HEAD q.head |> put f_HIF_PORT_EVQ_TAIL q.tail
    |> put f_HIF_PORT_EVQ_FULL (b2n (decide (256 ≤ q.used))) |> put f_HIF_PORT_FM_SESSION (b2n (d.fmOn p))
    |> put f_HIF_PORT_HOST_SESSION (b2n (d.host p).isSome)

/-- Are the fuses read: the boot ROM, which reads them, has started (R348); before, what they say reads at its reset value. -/
def Dev.fusesRead (d : Dev) : Bool := !(d.step == .standby || d.step == .pwrok || d.step == .reset)

/-- Has firmware started: it reads the trim partition (R390). -/
def Dev.trimRead (d : Dev) : Bool := d.fusesRead && d.step ≠ .rom && d.step ≠ .firmware

def State.secStatus (s : State) (w : Word) : Word :=
  let x := s.sec
  let r := s.dev.fusesRead
  w |> put f_SEC_STATUS_CHAIN_BAD (b2n x.chainBad) |> put f_SEC_STATUS_BOOT_FAIL x.bootFail
    |> put f_SEC_STATUS_BOOT_SEL x.bootSel.toNat |> put f_SEC_STATUS_FALLBACK (b2n x.fallback)
    |> put f_SEC_STATUS_BOOT_SLOT (b2n x.slotB) |> put f_SEC_STATUS_DEBUG_NOW (b2n x.unlocked)
    |> put f_SEC_STATUS_DEBUG_USED (b2n x.used) |> put f_SEC_STATUS_FACTORY_ORIGINAL (b2n (r && !x.trimWritten))
    |> put f_SEC_STATUS_OWNER_REVOKED (if r then x.revoked.toNat else 0) |> put f_SEC_STATUS_OWNER_ENROLLED (if r then x.enrolled.toNat else 0)

def State.svnWord (s : State) (w : Word) : Word :=
  let x := s.sec
  w |> put f_SEC_SVN_STAGED_V (b2n x.stagedV) |> put f_SEC_SVN_SVN_PENDING (b2n (s.dev.fusesRead && s.dev.bootRec.pending))
    |> put f_SEC_SVN_STAGED_SVN (if x.stagedV then s.stagedObj.svn else 0) |> put f_SEC_SVN_FUSED_SVN (if s.dev.fusesRead then x.svnFuse else 0)
    |> put f_SEC_SVN_RUNNING_SVN x.runSvn

def UpdSt.code : UpdSt → Nat
  | .idle => 0
  | .staging => 1
  | .staged => 2
  | .deferred => 3
  | .activating => 4

/-- Window left while DEFERRED, in whole units of 100 ms. -/
def Dev.windowLeft (d : Dev) : Nat :=
  if d.upd.st == .deferred then (d.upd.window - (d.lived (commonDom 0) - d.upd.since) / 250000) / 100 else 0

def Dev.viewUpd (d : Dev) (w : Word) : Word :=
  w |> put f_SEC_UPDATE_WINDOW_LEFT d.windowLeft |> put f_SEC_UPDATE_ACTIVATIONS d.upd.activations
    |> put f_SEC_UPDATE_LAST_STATUS d.upd.last |> put f_SEC_UPDATE_STATE d.upd.st.code

/-- Word i of a digest, byte 8i in [7:0]. -/
def digWord (l : List Byte) (i : Nat) : Word := BitVec.ofNat 64 (leNat (slice l (8 * i) 8))

def Dev.viewSaf (d : Dev) (w : Word) : Word :=
  w |> put f_SAF_STATUS_DF_CAUSE d.dfCause |> put f_SAF_STATUS_DIE1_CAUSE (d.dieCause.get 1 0)
    |> put f_SAF_STATUS_DIE0_CAUSE (d.dieCause.get 0 0) |> put f_SAF_STATUS_FAULT_N (b2n d.faultN)
    |> put ⟨8, 4, .rw1c, 0⟩ d.pend.toNat

def DomSt.code : DomSt → Nat
  | .off => 0
  | .live => 1
  | .fenced => 2
  | .resetting => 3
  | .retired => 4

def Dom.word (e : Dom) (w : Word) : Word :=
  w |> put f_SAF_DOM_FENCE_CNT e.fences |> put f_SAF_DOM_CAUSE e.cause |> put f_SAF_DOM_STATE e.st.code

def Pwr.inputWord (p : Pwr) (w : Word) : Word :=
  w |> put f_PWR_INPUT_P_PEAK p.peak |> put f_PWR_INPUT_P_AVG p.avg |> put f_PWR_INPUT_V48 p.v48.toNat

def Pwr.emergWord (p : Pwr) (w : Word) : Word :=
  w |> put f_PWR_EMERG_ENTRIES p.entries |> put f_PWR_EMERG_GATE p.gate.toNat |> put f_PWR_EMERG_CAUSES_D1 (p.causesOf 1).toNat
    |> put f_PWR_EMERG_CAUSES_D0 (p.causesOf 0).toNat

def State.trimWord (s : State) (w : Word) : Word :=
  w |> put f_PWR_TRIM_SIGNER s.sec.trimSigner |> put f_PWR_TRIM_FACTORY_ORIGINAL (b2n (s.dev.fusesRead && !s.sec.trimWritten))
    |> put f_PWR_TRIM_ABSENT (b2n s.sec.trimAbsent)

def Pwr.vcoreWord (p : Pwr) (die : Nat) (w : Word) : Word :=
  w |> put f_PWR_VCORE_V_MIN (p.vMin.get die 0x3FF) |> put f_PWR_VCORE_MEASURED (p.meas.get die 0)
    |> put f_PWR_VCORE_TARGET (p.targetOf die)

def Pwr.thermWord (p : Pwr) (die : Nat) (w : Word) : Word :=
  w |> put f_PWR_THERM_TJ_PEAK ((p.tjPeak.get die none).getD 0).toNat |> put f_PWR_THERM_HOTTEST (p.hottest.get die 0)
    |> put f_PWR_THERM_TJ (p.tj.get die 0).toNat

def Phase.code : Phase → Nat
  | .running => 0
  | .halting => 1
  | .frozen => 2
  | .thawing => 3

def State.dbgWord (s : State) (w : Word) : Word :=
  w |> put f_DBG_STATUS_UNLOCK_RESULT s.sec.unlockResult |> put f_DBG_STATUS_UNLOCK_USED (b2n s.sec.used)
    |> put f_DBG_STATUS_UNLOCKED (b2n s.sec.unlocked) |> put f_DBG_STATUS_REQ (b2n s.dev.req)
    |> put f_DBG_STATUS_PHASE s.dev.freezes.code

/-- Register i of a row as a read returns it; w is what is stored for it. -/
def State.view (s : State) (r : Reg) (i : Nat) (w : Word) : Word :=
  let d := s.dev
  match r with
  | .GEN_STATUS => s.genStatus w
  | .LSS_MOVE_CTL => d.viewMove i w
  | .LSS_POOL => put f_LSS_POOL_FREE_SLOTS (d.poolFree i) w
  | .LSS_JOURNAL => d.viewJournal i w
  | .LSS_PLAN => d.viewPlan i w
  | .GRD_TBL_GEN => d.selTensor.genWord w
  | .GRD_TBL_STORED => w |> put f_GRD_TBL_STORED_STORED_B d.selTensor.b.stored |> put f_GRD_TBL_STORED_STORED_A d.selTensor.a.stored
  | .GRD_TBL_REFS => w |> put f_GRD_TBL_REFS_REFS_B d.selTensor.b.refs |> put f_GRD_TBL_REFS_REFS_A d.selTensor.a.refs
  | .BED_STATUS => d.viewBed i w
  | .BED_CLAY => put f_BED_CLAY_FREE_PAGES (if (d.dom (clayDom i)).st == .off then 0 else (d.freePages i).length) w
  | .BED_CORE => d.viewCore i w
  | .CTX_INFO => d.viewCtx w
  | .CTX_OCC => d.viewOcc w
  | .CTX_PORT => d.viewCtxPort i w
  | .CTX_TENANT => d.viewTenant i w
  | .RGN_FM_STATUS => d.viewFm w
  | .RGN_USAGE => d.viewUsage w
  | .RGN_INFO => (d.rgn d.selRgn).infoWord w
  | .RGN_MAP => d.viewRgnMap w
  | .RGN_EPOCH => (d.rgn d.selRgn).epoch
  | .RGN_RECLAIM => put f_RGN_RECLAIM_RECLAIM_CURSOR (if (d.rgn d.selRgn).st == .reclaiming then (d.rgn d.selRgn).cursor else 0) w
  | .RGN_FM_KEY => d.fm.elim 0 fun f => digWord f.key i
  | .QOS_MASTER => d.viewMaster w
  | .QOS_MASTER_CNT => d.viewMasterCnt w
  | .QOS_MASTER_OUT => d.viewMasterOut w
  | .QOS_SET => (d.sq i).word w
  | .QOS_RT => put f_QOS_RT_RT (b2n (d.rt i)) w
  | .HMC_STATUS => d.viewInst i w
  | .LMC_STATUS => d.viewInst (64 + i) w
  | .HMC_QUEUE => d.viewQueue i w
  | .LMC_QUEUE => d.viewQueue (64 + i) w
  | .LOAM_STATUS => d.viewLoam i w
  | .LOAM_PSN_CTL => d.viewPsn w
  | .LOAM_PSN_ENTRY => d.psnWord i
  | .LOAM_SCRUB => d.viewScrub i w
  | .OLY_STATUS => (d.port i).statusWord w
  | .OLY_CREDIT => (d.port i).creditWord w
  | .HIF_RING_INFO => (d.ctx (d.fld row_HIF_RING_SEL 0 f_HIF_RING_SEL_INDEX)).ring.word w
  | .HIF_FM_RING => d.fmRing.fmWord w
  | .HIF_PORT => d.viewHif i w
  | .SEC_STATUS => s.secStatus w
  | .SEC_SVN => s.svnWord w
  | .SEC_UPDATE => d.viewUpd w
  | .SEC_FW_VERSION => s.sec.runVersion
  | .SEC_IDENT => if d.fusesRead then digWord deviceDigest i else 0
  | .SEC_FW_MEAS => digWord s.sec.runMeas i
  | .SEC_TRIM_DIGEST => if d.trimRead then digWord (sha3Bytes d.trimBytes) i else 0
  | .SAF_STATUS => d.viewSaf w
  | .SAF_DOM => (d.dom i).word w
  | .PWR_CTL => s.pwr.ctl
  | .PWR_INPUT => s.pwr.inputWord w
  | .PWR_EMERG => s.pwr.emergWord w
  | .PWR_TRIM => s.trimWord w
  | .PWR_VCORE => s.pwr.vcoreWord i w
  | .PWR_THERM => s.pwr.thermWord i w
  | .DBG_STATUS => s.dbgWord w
  | .DBG_UNLOCK_NONCE => digWord d.nonce i
  | _ => w

/-- A read of the register at an address: none where nothing is mapped or the address is misaligned (R6). -/
def State.regRead (s : State) (a : Nat) : Option Word :=
  (rowOf a).map fun r => s.view r.reg (r.index a) (s.dev.rd r (r.index a))

/-! ### Writes (R7, R8) -/

/-- A field after a write: RW takes the value, RW1C loses the bits written 1, the others stay. -/
def Fld.write (f : Fld) (old new : Word) : Word :=
  match f.acc with
  | .rw => f.set old (f.get new)
  | .rw1c => old &&& ~~~ (new &&& f.mask)
  | .ro => old
  | .wo => old

/-- A word after a write of some fields. -/
def writeFields (fs : List Fld) (old new : Word) : Word := fs.foldl (fun w f => f.write w new) old

/-- Register i of a row after a write by its fields' access types alone. -/
def Dev.regPlain (d : Dev) (r : RegRow) (i : Nat) (v : Word) : Dev := d.wr r i (writeFields r.fields (d.rd r i) v)

/-- A write of a register with a field that has a range: a field whose value lies outside leaves it as it was. -/
def Dev.regRange (d : Dev) (r : RegRow) (i : Nat) (v : Word) (ok : Fld → Nat → Bool) : Dev :=
  d.wr r i (writeFields (r.fields.filter fun f => ok f (f.get v)) (d.rd r i) v)

/-- Ranges of the fields that state one. -/
def fldOk (f : Fld) (n : Nat) (r : Reg) : Bool :=
  match r with
  | .LSS_CTL => f.lo ≠ 0 || decide (10 ≤ n ∧ n ≤ 1000)
  | .BED_SLICE => decide (10 ≤ n ∧ n ≤ 10000)
  | .QOS_CTL => if f.lo = 0 then decide (5 ≤ n ∧ n ≤ 1000) else if f.lo = 48 then decide (1 ≤ n ∧ n ≤ 64)
      else f.lo = 56 || decide (1 ≤ n)
  | .HMC_CTL => f.lo ≠ 16 || n ≠ 0
  | .LMC_CTL => f.lo ≠ 16 || n ≠ 0
  | .LOAM_CTL => f.lo ≠ 40 || n ≠ 0
  | .SAF_CTL => f.lo ≠ 40 || n ≠ 0
  | .LOAM_TEST_ADDR => f.lo ≠ 62 || decide (n ≤ 1)
  | .DBG_CAP_CTL => f.lo ≠ 0 || decide (1 ≤ n ∧ n ≤ 64)
  | _ => true

/-- QOS_CTL: the accounts are brought up under the old cap; with T_REF, ceilings below the new CMIN rise (R265). -/
def Dev.qosCtl (d : Dev) (v : Word) : Dev :=
  let d := d.each (List.range 100) Dev.accrue
  let d := d.regRange row_QOS_CTL 0 v fun f n => fldOk f n .QOS_CTL
  d.each (List.range (d.strat.elim 0 (·.sets.length))) Dev.ceilRaise

/-- STR_STAGE_CTL: DONE, LENGTH and a command; CMD 0 writes none, and while a command runs LENGTH is the command's. -/
def Dev.stageCtl (d : Dev) (x : Sec) (v : Word) : Dev :=
  let cmd := f_STR_STAGE_CTL_CMD.get v
  let d := d.regPlain row_STR_STAGE_CTL 0 v
  if cmd = 0 then d else d.stageCmd x cmd (f_STR_STAGE_CTL_LENGTH.get v)

/-- LOAM_TEST_CTL: the commands of R307; CMD 0 writes none, another is refused. -/
def Dev.testCtl (d : Dev) (v : Word) : Dev :=
  let d := d.regPlain row_LOAM_TEST_CTL 0 v
  match f_LOAM_TEST_CTL_CMD.get v with
  | 0 => d
  | 1 => d.writeRaw
  | 2 => d.readRaw
  | 3 => d.readChecked
  | _ => d.testDone 0x12 0

def Dev.psnCtl (d : Dev) (v : Word) : Dev :=
  let d := d.regPlain row_LOAM_PSN_CTL 0 v
  if f_LOAM_PSN_CTL_CMD.get v = 1 then d.psnRemove else d

/-- OLY_CTL: RETRAIN, then RESET, then FORCE_X4, which the reset of the write itself does not take back (log 26). -/
def Dev.olyCtl (d : Dev) (p : Nat) (v : Word) : Dev :=
  let d := if f_OLY_CTL_RETRAIN.get v = 1 && d.portRuns p then d.enterRetrain p else d
  let d := if f_OLY_CTL_RESET.get v = 1 then d.olyReset p else d
  d.regPlain row_OLY_CTL p v

/-- DBG_CAP_CTL: DONE, COUNT and a command; CMD 0 writes none. -/
def Dev.capCtl (d : Dev) (unlocked : Bool) (v : Word) : Dev :=
  let d := d.regRange row_DBG_CAP_CTL 0 v fun f n => fldOk f n .DBG_CAP_CTL
  if f_DBG_CAP_CTL_CMD.get v = 0 then d else d.capture unlocked (f_DBG_CAP_CTL_CMD.get v)

/-- DBG_CTL: FREEZE, then THAW, then RELOCK. -/
def State.dbgCtl (s : State) (v : Word) : State :=
  let s := if f_DBG_CTL_FREEZE.get v = 1 then s.onDev Dev.dbgFreeze else s
  let s := if f_DBG_CTL_THAW.get v = 1 then s.onDev Dev.dbgThaw else s
  if f_DBG_CTL_RELOCK.get v = 1 then s.relock else s

/-- A write of v to register i of a row. -/
def State.rowWrite (s : State) (r : RegRow) (i : Nat) (v : Word) : State :=
  match r.reg with
  | .GEN_STEP_RATE => if f_GEN_STEP_RATE_CLR_MIN.get v = 1 then s.onDev fun d => d.clrMin i else s
  | .STR_STAGE_CTL => s.onDev fun d => d.stageCtl s.sec v
  | .LSS_POOL => s.onDev fun d => d.poolWm i v
  | .QOS_CTL => s.onDev fun d => d.qosCtl v
  | .LOAM_TEST_CTL => s.onDev fun d => d.testCtl v
  | .LOAM_PSN_CTL => s.onDev fun d => d.psnCtl v
  | .LOAM_SCRUB => if f_LOAM_SCRUB_NOW.get v = 1 then s.onDev fun d => d.scrubNow i else s
  | .OLY_CTL => s.onDev fun d => d.olyCtl i v
  | .SAF_CTL => s.onDev fun d => (d.regRange r i v fun f n => fldOk f n .SAF_CTL).faultPin
  | .SAF_STATUS => s.onDev fun d => d.safClear v
  | .SAF_DOM => if f_SAF_DOM_FENCE.get v = 1 then s.onDev fun d => d.domFence i 9 else s
  | .PWR_CTL => s.pwrWrite (r.addr i) v
  | .PWR_VCORE => s.pwrWrite (r.addr i) v
  | .DBG_CTL => s.dbgCtl v
  | .DBG_CAP_CTL => s.onDev fun d => d.capCtl s.sec.unlocked v
  | k => s.onDev fun d => d.regRange r i v fun f n => fldOk f n k

/-- A write of the register at an address; one that is not mapped takes none. -/
def State.regWrite (s : State) (a : Nat) (v : Word) : State :=
  match rowOf a with
  | some r => s.rowWrite r (r.index a) v
  | none => s

end Sys2Proof.Machine
end

