-- ==== Sys2Proof/Machine/RegRows.lean ====
section
/-! DEFINITION. The rows that read and write management registers: CFG (R6, R239, R403), TAP_MRS (R402), REGISTER_WRITE (R7),
VENDOR_MRS_READ (R395). -/
namespace Sys2Proof.Machine

/-! ### CFG -/

/-- Is a CFG on port p refused: no FM session there, or no register at its address (R6, R239). -/
def Dev.cfgRefused (d : Dev) (p a : Nat) : Bool := !d.fmOn p || (rowOf a).isNone

/-- The access of request r: refused and counted, or carried out, its value in RESULT; its completion then waits for its RSP credit
(DESIGN CHOICE, log 26: the access does not). -/
def State.cfgServe (s : State) (r : Req) : State :=
  let a := r.h.addr.toNat
  if s.dev.cfgRefused r.port a then
    s.onDev fun d => (d.satInc row_OLY_ERR r.port f_OLY_ERR_CFG_REFUSED).failReq r.id 0x11
  else
    let v := (s.regRead a).getD 0
    if bitOf r.h.flags.toNat 5 then
      (s.onDev fun d => d.updReq r.id fun q => { q with stage := .credits, resv := 1 }).regWrite a (granWord (r.data.getD 0 0) 0)
    else s.onDev fun d => d.updReq r.id fun q => { q with stage := .credits, resv := 1, result := v }

/-- A frozen device serves CFG of the FM session on the witness port only (R403). -/
def Dev.cfgGoes (d : Dev) (p : Nat) : Bool := d.freezes == .running || (d.portWitness p && d.fmOn p)

/-- A CFG arrives; bad: a reserved bit of its header granule is 1. -/
def State.cfgArrive (s : State) (p : Nat) (h : ReqHdr) (value : Word) (bad : Bool := false) : State :=
  let n := s.dev.reqs.length
  let s := s.onDev fun d => d.arriveWith p 8 h [BitVec.ofNat 256 value.toNat] {} bad fun _ d => d
  match s.dev.reqs[n]? with
  | none => s
  | some r => if r.stage == .held && r.port == p && r.ty == 8 && s.dev.cfgGoes p then s.cfgServe r else s

def execCfg (p : Fin 16) (h : ReqHdr) (value : Word) (s : State) : Host.Outcome State Fault Refusal :=
  .next ((s.cfgArrive p.val h value).onDev Dev.finish)

/-- The end of a thaw: the CFG that were held are served, after what else was (log 26). -/
def State.cfgThaw (s : State) : State :=
  if s.dev.freezes ≠ .running then s else
  (s.dev.reqs.filter fun r => r.stage == .held && r.ty == 8).foldl (fun s r => s.cfgServe r) s

def execThawComplete (s : State) : Host.Outcome State Fault Refusal :=
  .next (if s.dev.freezes == .thawing then ((s.onDev Dev.thawDone).cfgThaw).onDev Dev.finish else s)

/-! ### REGISTER_WRITE -/

/-- A write of any register, from wherever it may be written; while STATE is POWER_UP nothing reaches the registers. -/
def execRegisterWrite (addr : BitVec 32) (v : Word) (s : State) : Host.Outcome State Fault Refusal :=
  .next (if s.dev.state ≠ .powerUp then (s.regWrite addr.toNat v).onDev Dev.finish else s)

/-! ### VENDOR_MRS_READ and TAP_MRS -/

/-- The registers that board management may read: GEN, PWR, SAF_STATUS and the memory temperatures (R395). -/
def vendorMay (a : Nat) : Bool :=
  match rowOf a with
  | none => false
  | some r => rowsGEN.contains r || rowsPWR.contains r || r.reg == .SAF_STATUS || r.reg == .HMC_TEMP || r.reg == .LMC_TEMP

/-- The reply: the value, least significant byte first, after a completion byte; the error completion is a free byte other than
the one that says success (R395, log 24). -/
def State.vendorRead (s : State) (a : Nat) : State :=
  if vendorMay a then s.i3c (0x00 :: natBytes ((s.regRead a).getD 0).toNat 8)
  else
    let (b, d) := s.dev.fresh 8
    ({ s with dev := d } : State).i3c [if b = 0 then 1 else b]

def execVendorMrsRead (addr : BitVec 32) (s : State) : Host.Outcome State Fault Refusal := s.i3cReq fun s => s.vendorRead addr.toNat

/-- What the TAP may read while debug is locked: as board management, and the DBG registers. It may write DBG_CTL only (R402). -/
def tapMay (locked wr : Bool) (a : Nat) : Bool :=
  match rowOf a with
  | none => false
  | some r => if !locked then true else if wr then r.reg == .DBG_CTL else rowsDBG.contains r || vendorMay a

/-- The access of Update-DR; the capture that follows gives the value in [63:0] and a refusal in [64]. -/
def State.tapAccess (s : State) (wr : Bool) (a : Nat) (v : Word) : State :=
  let ok := tapMay (!s.sec.unlocked) wr a
  let x := if ok && !wr then (s.regRead a).getD 0 else 0
  let s := if ok && wr then s.regWrite a v else s
  { s with dev := s.dev.emit (.tap (x.toNat + b2n (!ok) * 2 ^ 64)),
           mgmt := { s.mgmt with ir := 0x10, mrsData := x, mrsRefused := !ok } }

def execTapMrs (wr : Bool) (addr : BitVec 32) (v : Word) (s : State) : Host.Outcome State Fault Refusal :=
  .next (if s.tapOn then (s.tapAccess wr addr.toNat v).onDev Dev.finish else s)

end Sys2Proof.Machine
end

