-- ==== Sys2Proof/Machine/Flits.lean ====
section
/-! DEFINITION. Reception of flits (R310, R314, R315, R317, R321 to R323): the checks and counters of a flit, acknowledgement and credits,
and the transactions that its slots carry. -/
namespace Sys2Proof.Machine

/-! ### Checks and counters -/

/-- Flit bytes 4 to 319 (R314). -/
def flitBody (f : Flit) : List Byte := (granBytes f.hdr).drop 4 ++ f.slots.flatMap fun c => natBytes c.toNat 36

/-- Did a flit of a codeword that was decoded fail its checks: its CRC, or the Loam code of a slot that is not empty (R315). -/
def flitFailed (f : Flit) : Bool :=
  f.fecBad || crc32 (flitBody f) ≠ f.crc ||
    (List.range 8).any fun j => f.filled j && (loamDecode (f.slots.getD j 0)).1 == .ue

/-- The lane that symbol k of a codeword comes on at a width code (R310). -/
def symLane (w k : Nat) : Nat := k % lanesOf w + if w = 2 then 4 else 0

/-- One more codeword: the symbols that were corrected in it, with the lane of each, beside those of the last 65,535. -/
def Port.word (x : Port) (f : Flit) : Port :=
  let n := x.rxWords + 1
  let e := if f.fecBad then [] else f.wrong.dedup.map fun k => (n, symLane x.width k.val)
  { x with rxWords := n, symErr := (x.symErr.filter fun e => decide (n < e.1 + 65536)) ++ e }

/-- OLY_LANE: SER_i (R331). -/
def Port.laneWord (x : Port) : Word :=
  BitVec.ofNat 64 (((List.range 8).map fun i => min 255 (x.corrected 65536 i) * 2 ^ (8 * i)).sum)

/-- Counters of the FEC and of the lanes (R331), once for the two flits of a codeword. -/
def Dev.flitCount (d : Dev) (p : Nat) (f : Flit) : Dev :=
  if f.second then d else
  let d := if f.fecBad then d.wrapInc row_OLY_FEC p f_OLY_FEC_UNCORRECTABLE else d
  let n := (d.port p).fecCorr + b2n f.fecCorrected
  let d := if n = 1024 then d.wrapInc row_OLY_FEC p f_OLY_FEC_CORRECTED else d
  let d := d.updPort p fun x => { x.word f with fecCorr := n % 1024 }
  d.wr row_OLY_LANE p (d.port p).laneWord

/-- Were codewords lost before this flit's: its count is not one above the last (R310). A codeword that cannot be decoded is counted as the
next one (DESIGN CHOICE, log 21). -/
def Port.gap (x : Port) (f : Flit) : Bool := !f.second && !f.fecBad && x.cwCount.elim false fun c => f.count ≠ c + 1
def Port.counted (x : Port) (f : Flit) : Port :=
  if f.second then x else { x with cwCount := if f.fecBad then x.cwCount.map (· + 1) else some f.count }

/-! ### Failed flits (R315) -/

/-- A lasting flit fault: logged, and the port retrains. -/
def Dev.flitLasting (d : Dev) (p lane : Nat) : Dev :=
  ((d.satInc row_OLY_RETRY p f_OLY_RETRY_LASTING).log (portDom p) 0x04 true (p + lane * 2 ^ 4)).enterRetrain p

/-- A flit of SEQ seq has failed: NAK leaves in the next flit. -/
def Dev.flitNak (d : Dev) (p lane : Nat) (seq : BitVec 12) : Dev :=
  (d.updPort p fun x => { x with nakOut := true, failLane := lane, failSeq := if x.nakOut then x.failSeq else some seq }).sendIdle p true false

/-- A failed flit: a second failure of the same SEQ is lasting. -/
def Dev.flitBad (d : Dev) (p : Nat) (f : Flit) : Dev :=
  let x := d.port p
  if x.nakOut && f.ftype = 1 && x.failSeq == some f.seq then d.flitLasting p f.lane.val else d.flitNak p f.lane.val (x.rxSeq + 1)

/-- Flits lost in a gap count as failed; in a gap after a NAK the replay is lost. -/
def Dev.flitGap (d : Dev) (p : Nat) (f : Flit) : Dev :=
  let x := d.port p
  let d := d.updPort p fun x => x.counted f
  if !x.gap f then d else if x.nakOut then d.flitLasting p f.lane.val else d.flitNak p f.lane.val (x.rxSeq + 1)

/-! ### Acknowledgement and credits -/

/-- ACK: everything up to a leaves the retry buffer. -/
def Port.ack (x : Port) (a : BitVec 12) (now : Nat) : Port :=
  if x.unacked.any (·.seq == a) then
    { x with unacked := (x.unacked.dropWhile (·.seq ≠ a)).drop 1, txAck := a, ackAt := now }
  else x

/-- A running total of 16 bits: how many more have been freed. -/
def credDelta (total : BitVec 16) (old : Nat) : Nat := (total - BitVec.ofNat 16 old).toNat

/-- ACK and credits of a flit that passes; a total above what was sent is a protocol fault (R318). -/
def Dev.flitCredits (d : Dev) (p : Nat) (f : Flit) : Dev :=
  let x := d.port p
  let rsp := x.rspFreed + credDelta f.crdRsp x.rspFreed
  let ctl := x.ctlFreed + credDelta f.crdCtl x.ctlFreed
  if x.rspSent < rsp || x.ctlSent < ctl || f.crdReq ≠ 0 then d.protoFault p else
  let now := d.now (portDom p)
  d.updPort p fun x => { x.ack f.ack now with rspFreed := rsp, ctlFreed := ctl, tableHold := f.tableHold }

/-! ### Transactions (R317, R321 to R323)

DESIGN CHOICE (log 21): the spec does not say what a receiver does with slots that break R317 (a granule without a header before it, a
header within a message, a CONT that continues nothing, a granule on RSP). The model drops what it cannot place, with the transaction that
it breaks, and returns the credit of each granule. -/

/-- Fields of a header granule. -/
def hTag (g : Gran) : BitVec 12 := g.extractLsb' 8 12
def hLen (g : Gran) : Nat := bits g.toNat 20 12
def hType (g : Gran) : Nat := bits g.toNat 0 8
def hdrOf (g : Gran) : ReqHdr :=
  ⟨hTag g, g.extractLsb' 32 32, g.extractLsb' 64 48, g.extractLsb' 20 12, g.extractLsb' 112 16, g.extractLsb' 128 16⟩

/-- Is a reserved bit of a header granule 1. -/
def hBad (g : Gran) : Bool := decide (2 ^ 144 ≤ g.toNat)

/-- Data granules of the transaction that a header granule on a virtual channel begins. -/
def msgLen (vc : Nat) (g : Gran) : Nat :=
  let t := hType g
  if vc = 2 then (if t = 7 then hLen g else 0) else if t = 6 ∨ t = 7 ∨ 8 < t then 0 else dataLen t (hLen g)

/-- Is a granule the CONT header that goes on with transaction m. -/
def RxMsg.contBy (m : RxMsg) (total : Nat) (g : Gran) : Bool :=
  hType g == 0x0A && hTag g == hTag m.hdr && hLen g == min 16 (total - m.data.length) && decide (g.toNat < 2 ^ 32)

/-- One granule on a virtual channel: what is in arrival after it, the transaction that it completes, and how many granules are dropped,
their credit returned. -/
def rxStep (vc : Nat) (m : Option RxMsg) (som : Bool) (g : Gran) : Option RxMsg × Option RxMsg × Nat :=
  let drop := m.elim 0 fun m => vcGran m.data.length
  let new : Option RxMsg × Option RxMsg × Nat :=
    let r : RxMsg := ⟨g, [], min 16 (msgLen vc g)⟩
    if vc = 1 ∨ hType g = 0x0A then (none, none, drop + 1)
    else if r.left = 0 then (none, some r, drop) else (some r, none, drop)
  match m with
  | none => if som then new else (none, none, 1)
  | some m =>
    let total := msgLen vc m.hdr
    if som then
      if m.left = 0 ∧ m.contBy total g then (some { m with left := hLen g }, none, 0) else new
    else if m.left = 0 then (none, none, drop + 1)
    else
      let r : RxMsg := { m with data := m.data ++ [g], left := m.left - 1 }
      if r.data.length = total then (none, some r, 0) else (some r, none, 0)

/-- Granules of a virtual channel leave the receive buffer without effect. -/
def Port.freed (x : Port) (vc n : Nat) : Port :=
  if vc = 0 then { x with reqIn := x.reqIn + n, reqFreed := x.reqFreed + n } else if vc = 2 then { x with ctlIn := x.ctlIn + n } else x

/-- A doorbell's header: fields that must be 0, and the value. -/
def bellOk (g : Gran) : Bool :=
  let h := hdrOf g
  !hBad g && h.tag == 0 && h.length == 0 && h.flags == 0 && h.budget == 0 && decide (h.addr.toNat < 2 ^ 32)

/-- A DB arrives; one whose header breaks a rule is counted and dropped. -/
def Dev.bellIn (d : Dev) (p : Nat) (g : Gran) : Dev :=
  if bellOk g then d.bellArrive p (hdrOf g).ctx.toNat (hdrOf g).addr.toNat
  else if !(d.port p).presents then d
  else ((d.wrapInc row_OLY_CNT p f_OLY_CNT_REQUESTS).updPort p fun x => x.freed 0 1).dropPosted p

/-- A MSG's header: fields that must be 0; its class. -/
def msgOk (g : Gran) : Bool :=
  let h := hdrOf g
  hType g == 7 && !hBad g && h.tag == 0 && h.ctx == 0 && h.flags == 0 && h.budget == 0 && decide (h.addr.toNat < 256)

/-- A MSG arrives: FM_HELLO, FM_PROOF, or one that the device does not accept. -/
def State.msgIn (s : State) (p : Nat) (g : Gran) (data : List Gran) : State :=
  let cls := (hdrOf g).addr.toNat
  if msgOk g && cls = 0x10 then s.fmHello p (hLen g) (gransBytes data)
  else if msgOk g && cls = 0x12 then s.fmProof p (hLen g) (gransBytes data)
  else s.onDev fun d => d.msgArrive p data.length false fun d => d

/-- A transaction has arrived whole; physics ph meet what it does. -/
def State.rxDone (s : State) (p vc : Nat) (m : RxMsg) (ph : Phys) : State :=
  let h := hdrOf m.hdr
  if vc = 2 then s.msgIn p m.hdr m.data
  else match hType m.hdr with
  | 6 => s.onDev fun d => d.bellIn p m.hdr
  | 8 => s.cfgArrive p h ((m.data.getD 0 0).setWidth 64) (hBad m.hdr)
  | t => s.onDev fun d => d.arrive p t h m.data ph (hBad m.hdr)

/-- One slot of an accepted DATA flit. -/
def State.rxSlot (s : State) (p vc : Nat) (som : Bool) (g : Gran) (ph : Phys) : State :=
  let r := rxStep vc ((s.dev.port p).rx.get vc none) som g
  let s := s.onDev fun d => d.updPort p fun x => { x.freed vc r.2.2 with rx := x.rx.set vc r.1 none }
  r.2.1.elim s fun m => s.rxDone p vc m ph

/-- A DATA flit that passes and has the expected SEQ is accepted: its slots in order, each granule corrected. Its ACK leaves in an IDLE
flit (DESIGN CHOICE, log 21). -/
def State.flitData (s : State) (p : Nat) (f : Flit) : State :=
  let x := s.dev.port p
  if f.seq ≠ x.rxSeq + 1 then s else
  let s := s.onDev fun d =>
    let d := if x.nakOut then (d.satInc row_OLY_RETRY p f_OLY_RETRY_TRANSIENT).log (portDom p) 0x04 false (p + x.failLane * 2 ^ 4) else d
    d.updPort p fun x => { x with rxSeq := x.rxSeq + 1, nakOut := false, failSeq := none }
  let s := ((List.range 8).filter f.filled).foldl
    (fun s j => s.rxSlot p (f.vc j) (f.som j) (loamDecode (f.slots.getD j 0)).2 f.ph) s
  s.onDev fun d => if (d.port p).presents then d.sendIdle p false false else d

/-! ### A flit is received -/

/-- A flit that has passed its checks: ACK and credits, its slots, then what NAK and RETRAIN_REQ ask for, and what the credits let go. -/
def State.flitPassed (s : State) (p : Nat) (f : Flit) : State :=
  if 3 < f.ftype then s else
  let s := s.onDev fun d => d.flitCredits p f
  if !(s.dev.port p).presents then s else
  let s := if f.ftype = 1 then s.flitData p f else s
  s.onDev fun d =>
    let d := if f.nak && (d.port p).presents then d.replay p else d
    let d := if f.retrainReq then d.enterRetrain p false else d
    d.ctlSend p (d.port p).ctlQ.length

def State.flitIn (s : State) (p : Nat) (f : Flit) : State :=
  if !(s.dev.port p).presents then s else
  let s := s.onDev fun d => (d.flitCount p f).flitGap p f
  if !(s.dev.port p).presents then s
  else if flitFailed f then s.onDev fun d => d.flitBad p f else s.flitPassed p f

def execFlitReceive (p : Fin 16) (f : Flit) (s : State) : Host.Outcome State Fault Refusal :=
  .next ((s.flitIn p.val f).onDev fun d => d.finish f.ph)

end Sys2Proof.Machine
end

