-- ==== Sys2Proof/Machine/Dispatch.lean ====
section
/-! DEFINITION. The dispatch: one arm per command. -/
namespace Sys2Proof.Machine

def exec (i : Instr) (s : State) : Host.Outcome State Fault Refusal :=
  match i with
  | .pllLossOfLock p => Sys2Proof.Machine.execPllLossOfLock p s
  | .pllRelockResult p ok fails => Sys2Proof.Machine.execPllRelockResult p ok fails s
  | .refclkLoss => Sys2Proof.Machine.execRefclkLoss s
  | .stepRateWindow d counts dc => Sys2Proof.Machine.execStepRateWindow d counts dc s
  | .clrMin k => Sys2Proof.Machine.execClrMin k s
  | .check len => Sys2Proof.Machine.execCheck len s
  | .commitFlash len => Sys2Proof.Machine.execCommitFlash len s
  | .applyQos len => Sys2Proof.Machine.execApplyQos len s
  | .qosCopyComplete => Sys2Proof.Machine.execQosCopyComplete s
  | .qosAdoptionComplete => Sys2Proof.Machine.execQosAdoptionComplete s
  | .readActive => Sys2Proof.Machine.execReadActive s
  | .moveAcquire j => Sys2Proof.Machine.execMoveAcquire j s
  | .moveQuiesceDone x ph => Sys2Proof.Machine.execMoveQuiesceDone x ph s
  | .moveCommit x => Sys2Proof.Machine.execMoveCommit x s
  | .moveRelease x => Sys2Proof.Machine.execMoveRelease x s
  | .moveAbandon x => Sys2Proof.Machine.execMoveAbandon x s
  | .ageSweep g => Sys2Proof.Machine.execAgeSweep g s
  | .ageSweepComplete g => Sys2Proof.Machine.execAgeSweepComplete g s
  | .poolDemote g => Sys2Proof.Machine.execPoolDemote g s
  | .reclaimClear r => Sys2Proof.Machine.execReclaimClear r s
  | .reclaimComplete r => Sys2Proof.Machine.execReclaimComplete r s
  | .windowFill p ph => Sys2Proof.Machine.execWindowFill p ph s
  | .windowFillComplete p => Sys2Proof.Machine.execWindowFillComplete p s
  | .tableRecordFetch site t gen x => Sys2Proof.Machine.execTableRecordFetch site t gen x s
  | .tableInstall q e ph => Sys2Proof.Machine.execTableInstall q e ph s
  | .tableFit q e => Sys2Proof.Machine.execTableFit q e s
  | .tableFitComplete x => Sys2Proof.Machine.execTableFitComplete x s
  | .tableRecode q e => Sys2Proof.Machine.execTableRecode q e s
  | .recodeComplete t ph => Sys2Proof.Machine.execRecodeComplete t ph s
  | .tableRelease q e => Sys2Proof.Machine.execTableRelease q e s
  | .wordIssue b ahead dis1 dis2 ph => Sys2Proof.Machine.execWordIssue b ahead dis1 dis2 ph s
  | .prefetch b x => Sys2Proof.Machine.execPrefetch b x s
  | .operandReadApply b r ph => Sys2Proof.Machine.execOperandReadApply b r ph s
  | .opComplete b => Sys2Proof.Machine.execOpComplete b s
  | .contextSwitch b => Sys2Proof.Machine.execContextSwitch b s
  | .sleepTimeout c => Sys2Proof.Machine.execSleepTimeout c s
  | .mma x errs order => Sys2Proof.Machine.execMma x errs order s
  | .attn x errs order => Sys2Proof.Machine.execAttn x errs order s
  | .ewise x => Sys2Proof.Machine.execEwise x s
  | .reduce x => Sys2Proof.Machine.execReduce x s
  | .topk x => Sys2Proof.Machine.execTopk x s
  | .gather x => Sys2Proof.Machine.execGather x s
  | .scatter b ph => Sys2Proof.Machine.execScatter b ph s
  | .load x => Sys2Proof.Machine.execLoad x s
  | .store x => Sys2Proof.Machine.execStore x s
  | .cvt x => Sys2Proof.Machine.execCvt x s
  | .win b => Sys2Proof.Machine.execWin b s
  | .fence b => Sys2Proof.Machine.execFence b s
  | .post x => Sys2Proof.Machine.execPost x s
  | .postRingFree b => Sys2Proof.Machine.execPostRingFree b s
  | .launch q e => Sys2Proof.Machine.execLaunch q e s
  | .planLoad q e ph => Sys2Proof.Machine.execPlanLoad q e ph s
  | .promote q x => Sys2Proof.Machine.execPromote q x s
  | .demote q x => Sys2Proof.Machine.execDemote q x s
  | .createCtx q e => Sys2Proof.Machine.execCreateCtx q e s
  | .cancel q e => Sys2Proof.Machine.execCancel q e s
  | .destroyCtx q e => Sys2Proof.Machine.execDestroyCtx q e s
  | .destroyDrainEnd c => Sys2Proof.Machine.execDestroyDrainEnd c s
  | .assignBed q e => Sys2Proof.Machine.execAssignBed q e s
  | .ringSet q e => Sys2Proof.Machine.execRingSet q e s
  | .park q e => Sys2Proof.Machine.execPark q e s
  | .parkComplete c => Sys2Proof.Machine.execParkComplete c s
  | .unparkComplete c => Sys2Proof.Machine.execUnparkComplete c s
  | .parkQueueTimeout n => Sys2Proof.Machine.execParkQueueTimeout n s
  | .query q e => Sys2Proof.Machine.execQuery q e s
  | .attach q e => Sys2Proof.Machine.execAttach q e s
  | .detach q e => Sys2Proof.Machine.execDetach q e s
  | .heartbeat q e => Sys2Proof.Machine.execHeartbeat q e s
  | .hostLost n => Sys2Proof.Machine.execHostLost n s
  | .bind q e => Sys2Proof.Machine.execBind q e s
  | .unbind q e => Sys2Proof.Machine.execUnbind q e s
  | .revocationDrainEnd c n => Sys2Proof.Machine.execRevocationDrainEnd c n s
  | .regionCreate q e => Sys2Proof.Machine.execRegionCreate q e s
  | .regionGrow q e => Sys2Proof.Machine.execRegionGrow q e s
  | .regionTrim q e => Sys2Proof.Machine.execRegionTrim q e s
  | .regionReclaim q e => Sys2Proof.Machine.execRegionReclaim q e s
  | .regionSet q e => Sys2Proof.Machine.execRegionSet q e s
  | .retire q e => Sys2Proof.Machine.execRetire q e s
  | .fmDetach q e => Sys2Proof.Machine.execFmDetach q e s
  | .updateStage q e flashOk fuseOk ph => Sys2Proof.Machine.execUpdateStage q e flashOk fuseOk ph s
  | .updateActivate q e => Sys2Proof.Machine.execUpdateActivate q e s
  | .activationPause => Sys2Proof.Machine.execActivationPause s
  | .handoffAccept h => Sys2Proof.Machine.execHandoffAccept h s
  | .handoffTimeout => Sys2Proof.Machine.execHandoffTimeout s
  | .activationWindowExpiry => Sys2Proof.Machine.execActivationWindowExpiry s
  | .rd p h ph => Sys2Proof.Machine.execRd p h ph s
  | .wr p h data ph => Sys2Proof.Machine.execWr p h data ph s
  | .wrp p h mask data ph => Sys2Proof.Machine.execWrp p h mask data ph s
  | .atom p h data ph => Sys2Proof.Machine.execAtom p h data ph s
  | .pub p h data ph => Sys2Proof.Machine.execPub p h data ph s
  | .dbSqTail p ctx v => Sys2Proof.Machine.execDbSqTail p ctx v s
  | .dbCqHead p ctx v => Sys2Proof.Machine.execDbCqHead p ctx v s
  | .dbEvqHead p v => Sys2Proof.Machine.execDbEvqHead p v s
  | .cfg p h value => Sys2Proof.Machine.execCfg p h value s
  | .fmHello p len payload => Sys2Proof.Machine.execFmHello p len payload s
  | .fmProof p len payload => Sys2Proof.Machine.execFmProof p len payload s
  | .challengeExpiry p => Sys2Proof.Machine.execChallengeExpiry p s
  | .attachLockoutExpiry p => Sys2Proof.Machine.execAttachLockoutExpiry p s
  | .completionSend p c => Sys2Proof.Machine.execCompletionSend p c s
  | .flitReceive p f => Sys2Proof.Machine.execFlitReceive p f s
  | .replayTimeout p => Sys2Proof.Machine.execReplayTimeout p s
  | .portTrainStart p => Sys2Proof.Machine.execPortTrainStart p s
  | .trainComplete p lanes far => Sys2Proof.Machine.execTrainComplete p lanes far s
  | .trainTimeout p => Sys2Proof.Machine.execTrainTimeout p s
  | .retrainComplete p lanes => Sys2Proof.Machine.execRetrainComplete p lanes s
  | .retrainTimeout p => Sys2Proof.Machine.execRetrainTimeout p s
  | .linkLoss p => Sys2Proof.Machine.execLinkLoss p s
  | .olyRetrain p => Sys2Proof.Machine.execOlyRetrain p s
  | .olyReset p => Sys2Proof.Machine.execOlyReset p s
  | .ceilingUpdate x => Sys2Proof.Machine.execCeilingUpdate x s
  | .scaleFactorUpdate x => Sys2Proof.Machine.execScaleFactorUpdate x s
  | .shortfallHoldoffExpiry x => Sys2Proof.Machine.execShortfallHoldoffExpiry x s
  | .controllerPieceArrival n pc => Sys2Proof.Machine.execControllerPieceArrival n pc s
  | .retrainPause n part pass => Sys2Proof.Machine.execRetrainPause n part pass s
  | .retrainRetry n pass => Sys2Proof.Machine.execRetrainRetry n pass s
  | .tempRead n reading => Sys2Proof.Machine.execTempRead n reading s
  | .refresh n part bank => Sys2Proof.Machine.execRefresh n part bank s
  | .selfRefreshEntry n => Sys2Proof.Machine.execSelfRefreshEntry n s
  | .selfRefreshExit x => Sys2Proof.Machine.execSelfRefreshExit x s
  | .replayResetDone n fails => Sys2Proof.Machine.execReplayResetDone n fails s
  | .scrubSweepStart x => Sys2Proof.Machine.execScrubSweepStart x s
  | .scrubRead x g ph => Sys2Proof.Machine.execScrubRead x g ph s
  | .scrubNow x => Sys2Proof.Machine.execScrubNow x s
  | .poisonRemove => Sys2Proof.Machine.execPoisonRemove s
  | .writeRaw => Sys2Proof.Machine.execWriteRaw s
  | .readRaw => Sys2Proof.Machine.execReadRaw s
  | .readChecked => Sys2Proof.Machine.execReadChecked s
  | .watchdogStall d => Sys2Proof.Machine.execWatchdogStall d s
  | .domainFence d cause => Sys2Proof.Machine.execDomainFence d cause s
  | .safDomFence d => Sys2Proof.Machine.execSafDomFence d s
  | .domainRejoin d pass => Sys2Proof.Machine.execDomainRejoin d pass s
  | .domainResetTimeout d => Sys2Proof.Machine.execDomainResetTimeout d s
  | .marlLockstepMismatch d => Sys2Proof.Machine.execMarlLockstepMismatch d s
  | .marlWatchdogExpiry d => Sys2Proof.Machine.execMarlWatchdogExpiry d s
  | .marlTakeover => Sys2Proof.Machine.execMarlTakeover s
  | .selfTest d fails => Sys2Proof.Machine.execSelfTest d fails s
  | .sensorChainDisagree d cls both => Sys2Proof.Machine.execSensorChainDisagree d cls both s
  | .vcoreOverLimit d => Sys2Proof.Machine.execVcoreOverLimit d s
  | .vcoreUnderLimit d => Sys2Proof.Machine.execVcoreUnderLimit d s
  | .memoryRailFault r => Sys2Proof.Machine.execMemoryRailFault r s
  | .dieCommonFault d bridge => Sys2Proof.Machine.execDieCommonFault d bridge s
  | .thermalTrip d => Sys2Proof.Machine.execThermalTrip d s
  | .safStatusClear v => Sys2Proof.Machine.execSafStatusClear v s
  | .faultTest on => Sys2Proof.Machine.execFaultTest on s
  | .governorTick avg tj0 tj1 hot0 hot1 meas0 meas1 v48 => Sys2Proof.Machine.execGovernorTick avg tj0 tj1 hot0 hot1 meas0 meas1 v48 s
  | .emergencyOn d cause => Sys2Proof.Machine.execEmergencyOn d cause s
  | .emergencyOff d cause => Sys2Proof.Machine.execEmergencyOff d cause s
  | .canaryLate g lateMs => Sys2Proof.Machine.execCanaryLate g lateMs s
  | .canaryClean g => Sys2Proof.Machine.execCanaryClean g s
  | .pwrCtlWrite addr v => Sys2Proof.Machine.execPwrCtlWrite addr v s
  | .lssPoolWmWrite g v => Sys2Proof.Machine.execLssPoolWmWrite g v s
  | .registerWrite addr v => Sys2Proof.Machine.execRegisterWrite addr v s
  | .rstdaa => Sys2Proof.Machine.execRstdaa s
  | .entdaa a => Sys2Proof.Machine.execEntdaa a s
  | .setdasa st a => Sys2Proof.Machine.execSetdasa st a s
  | .getpid => Sys2Proof.Machine.execGetpid s
  | .getbcr => Sys2Proof.Machine.execGetbcr s
  | .getdcr => Sys2Proof.Machine.execGetdcr s
  | .getstatus => Sys2Proof.Machine.execGetstatus s
  | .enec mask => Sys2Proof.Machine.execEnec mask s
  | .disec mask => Sys2Proof.Machine.execDisec mask s
  | .setEndpointId op eid => Sys2Proof.Machine.execSetEndpointId op eid s
  | .getEndpointId => Sys2Proof.Machine.execGetEndpointId s
  | .getMctpVersionSupport ty => Sys2Proof.Machine.execGetMctpVersionSupport ty s
  | .getMessageTypeSupport => Sys2Proof.Machine.execGetMessageTypeSupport s
  | .getTid => Sys2Proof.Machine.execGetTid s
  | .setTid t => Sys2Proof.Machine.execSetTid t s
  | .getPldmVersion ty => Sys2Proof.Machine.execGetPldmVersion ty s
  | .getPldmTypes => Sys2Proof.Machine.execGetPldmTypes s
  | .getPldmCommands ty => Sys2Proof.Machine.execGetPldmCommands ty s
  | .getPdrRepositoryInfo => Sys2Proof.Machine.execGetPdrRepositoryInfo s
  | .getPdr rec => Sys2Proof.Machine.execGetPdr rec s
  | .getSensorReading id => Sys2Proof.Machine.execGetSensorReading id s
  | .getStateSensorReadings id => Sys2Proof.Machine.execGetStateSensorReadings id s
  | .vendorMrsRead addr => Sys2Proof.Machine.execVendorMrsRead addr s
  | .freezeRequest => Sys2Proof.Machine.execFreezeRequest s
  | .freeze => Sys2Proof.Machine.execFreeze s
  | .freezeComplete => Sys2Proof.Machine.execFreezeComplete s
  | .thaw => Sys2Proof.Machine.execThaw s
  | .freezeNRelease => Sys2Proof.Machine.execFreezeNRelease s
  | .thawComplete => Sys2Proof.Machine.execThawComplete s
  | .relock => Sys2Proof.Machine.execRelock s
  | .captureRead => Sys2Proof.Machine.execCaptureRead s
  | .extest v => Sys2Proof.Machine.execExtest v s
  | .idcode => Sys2Proof.Machine.execIdcode s
  | .samplePreload v => Sys2Proof.Machine.execSamplePreload v s
  | .tapMrs wr addr v => Sys2Proof.Machine.execTapMrs wr addr v s
  | .tapFlash op area off data => Sys2Proof.Machine.execTapFlash op area off data s
  | .unlock token nonce => Sys2Proof.Machine.execUnlock token nonce s
  | .unlockLockoutExpiry => Sys2Proof.Machine.execUnlockLockoutExpiry s
  | .bypass b => Sys2Proof.Machine.execBypass b s
  | .standbyPowerUp nonce => Sys2Proof.Machine.execStandbyPowerUp nonce s
  | .pwrokRise => Sys2Proof.Machine.execPwrokRise s
  | .resetRelease x => Sys2Proof.Machine.execResetRelease x s
  | .firmwareStarted => Sys2Proof.Machine.execFirmwareStarted s
  | .stratumInForce refclk => Sys2Proof.Machine.execStratumInForce refclk s
  | .trainingDone failed fails => Sys2Proof.Machine.execTrainingDone failed fails s
  | .metadataInit => Sys2Proof.Machine.execMetadataInit s
  | .bringupReady => Sys2Proof.Machine.execBringupReady s
  | .warmReset selfRefreshOk railsOk nonce => Sys2Proof.Machine.execWarmReset selfRefreshOk railsOk nonce s
  | .coldReset sensorsCool nonce => Sys2Proof.Machine.execColdReset sensorsCool nonce s
  | .powerLoss standbyKept => Sys2Proof.Machine.execPowerLoss standbyKept s
  | .queueService n part => Sys2Proof.Machine.execQueueService n part s
  | .stageWriteComplete ok => Sys2Proof.Machine.execStageWriteComplete ok s
  | .commitFlashComplete ok => Sys2Proof.Machine.execCommitFlashComplete ok s

end Sys2Proof.Machine
end

