-- ==== Sys2Proof/Safety.lean ====
section
/-! DEFINITION. What counts as a good state and as a lawful change, in the terms the statements use: the canonical form of memory,
the ranges of the power limits, what a fuse may do, what writing an event may change, what leaves on a management port. -/
namespace Sys2Proof.Machine

/-- Memory is in canonical form: addresses strictly rising, no listed byte equal to what an unlisted one reads as (0, log 4). -/
abbrev Memory.wf (m : List Host.Cell) : Bool := Tab.wf m 0

/-- The limits of R9, R383 and PWR_CTL are in their ranges, and no core voltage stands above the fused 800 mV. -/
structure Pwr.limits (p : Pwr) : Prop where
  vmax : 700 ≤ p.vmax ∧ p.vmax ≤ 800
  plW : p.plW = 0 ∨ (400 ≤ p.plW ∧ p.plW ≤ 1750)
  guard : 10 ≤ p.guard_ ∧ p.guard_ ≤ 200
  therm : 85 ≤ p.thermEmerg ∧ p.thermEmerg ≤ 105
  target : ∀ die, 700 ≤ p.targetOf die ∧ p.targetOf die ≤ 800
  vcore : ∀ die, p.v.get die 0 ≤ 800

/-- Fuses are one-way (R352): what is enrolled or revoked stays so, the fused security version never falls, a trim store once
written never counts as factory-original again (R362). -/
structure Sec.fusesKept (x y : Sec) : Prop where
  enrolled : x.enrolled &&& y.enrolled = x.enrolled
  revoked : x.revoked &&& y.revoked = x.revoked
  svn : x.svnFuse ≤ y.svnFuse
  trim : x.trimWritten = true → y.trimWritten = true

/-- The device e is d but for what writing events changes: event queues, port windows, messages, flits and codewords on the link with its
accounts, HIF_PORT_CNT. Memory, clay, flash, descriptors, contexts, regions and every other register are as in d. -/
structure Dev.eventsOnly (d e : Dev) : Prop where
  rest : e = { d with regs := e.regs, win := e.win, ports := e.ports, evq := e.evq, evHold := e.evHold, out := e.out, wire := e.wire }
  regs : ∀ a v, (∀ p, p < 16 → a ≠ row_HIF_PORT_CNT.addr p) → e.regs.get a v = d.regs.get a v
  ports : ∀ p, (e.port p) = { d.port p with
    txq := (e.port p).txq, txSeq := (e.port p).txSeq, unacked := (e.port p).unacked, ctlSent := (e.port p).ctlSent,
    ctlQ := (e.port p).ctlQ, ackAt := (e.port p).ackAt, txWords := (e.port p).txWords }

/-- What a reset, or a loss of power, leaves: registers at their reset values, no session, request, command or context program, debug
locked, the count of resets n higher; the flash with the boot record and the fuses stay. -/
def resetCommon (n : Nat) (s t : State) : Prop :=
  t.dev.state = .powerUp ∧ t.dev.regs = [] ∧ t.dev.resets = s.dev.resets + n ∧ t.dev.flash = s.dev.flash ∧
  t.dev.reqs = [] ∧ t.dev.inflight = [] ∧ t.dev.hosts = [] ∧ t.dev.fm = none ∧ t.dev.beds = [] ∧ t.dev.clay = [] ∧
  t.dev.freezes = .running ∧ t.sec.unlocked = false ∧ s.sec.fusesKept t.sec ∧
  t.pending = s.pending

/-- A staging command has ended with a code: DONE 1, BUSY 0, the code reported (its field is eight bits wide). -/
def staged (d : Dev) (code : Nat) : Prop :=
  d.fld row_STR_STAGE_CTL 0 f_STR_STAGE_CTL_DONE = 1 ∧ d.fld row_STR_STAGE_CTL 0 f_STR_STAGE_CTL_BUSY = 0 ∧
  d.fld row_STR_STATUS 0 f_STR_STATUS_STAGE_CODE = code % 256 ∧ d.staging = none

/-- The registers whose write does more than put values into fields. -/
def actsOnWrite : List Reg :=
  [.GEN_STEP_RATE, .STR_STAGE_CTL, .LSS_POOL, .QOS_CTL, .LOAM_TEST_CTL, .LOAM_PSN_CTL, .LOAM_SCRUB, .OLY_CTL, .SAF_CTL, .SAF_STATUS,
    .SAF_DOM, .PWR_CTL, .PWR_VCORE, .DBG_CTL, .DBG_CAP_CTL]

/-- The state after bytes have left on I3C; n is the counter of free values. -/
def State.sends (s : State) (l : List Byte) (n : Nat) : State :=
  { s with dev := { s.dev with out := s.dev.out ++ [.i3c l], free := n } }

end Sys2Proof.Machine
end

