-- ==== Sys2Proof/Certificates/Slice0/Obligations.lean ====
section
/-! DEFINITION. The statements for the provers. Where a statement says what follows is `finish`, that is Dev.finish: what the
device does at once when a command has had its effect (completions written, contexts parked, waiters served, entries fetched). -/

open Sys2Proof Sys2Proof.Machine

/-! ### The queue -/

/-- The command at the front of the queue is the one that runs, on the state with the rest of the queue. -/
def Obligations.StepRunsTheFrontCommand : Prop :=
  ∀ (c : Instr) (q : List Instr) (s : State), s.pending = c :: q → step s = exec c { s with pending := q }

/-- On an empty queue a step is one tick of every local timer that runs, and of nothing else but the fuses of a raise of the security
version that is under way, one in each tick (log 1, log 22: the model's choice). -/
def Obligations.EmptyQueueTicksTimers : Prop :=
  ∀ (s : State), s.pending = [] → ∃ d : Dev,
    (s.dev.upd.burn = none → step s = .next { s with dev := d }) ∧
    (∀ n ref, s.dev.upd.burn = some n → s.dev.upd.cmd = some ref → s.dev.freezes = .running → s.dev.marlUp ≠ 0 →
      s.sec.svnFuse + 1 < n → step s = .next { s with dev := d, sec := { s.sec with svnFuse := s.sec.svnFuse + 1 } }) ∧
    (∀ n, s.dev.upd.burn = some n → s.dev.freezes ≠ .running ∨ s.dev.marlUp = 0 → step s = .next { s with dev := d }) ∧
    d = { s.dev with timers := d.timers, halted := d.halted } ∧
    ∀ x, d.timers.get x 0 = if x ∈ timerKeys ∧ s.dev.timerRuns x = true then s.dev.timers.get x 0 + 1 else s.dev.timers.get x 0

/-! ### Board management (R394, R395) -/

/-- Addressing and interrupt enables of the I3C target, from standby power on. With a dynamic address the target answers GETPID with
six bytes, GETBCR and GETDCR with one, GETSTATUS with two, and changes nothing else. -/
def Obligations.I3cTarget : Prop :=
  (∀ (s : State), s.dev.step ≠ .standby →
     exec .rstdaa s = .next { s with mgmt := { s.mgmt with dynAddr := none } } ∧
     (∀ a, s.mgmt.dynAddr = none → ∃ l, l.length = 8 ∧
       exec (.entdaa a) s = .next ({ s with mgmt := { s.mgmt with dynAddr := some a } }.sends l s.dev.free)) ∧
     (∀ a, s.mgmt.dynAddr = none → exec (.setdasa 0x3A a) s = .next { s with mgmt := { s.mgmt with dynAddr := some a } }) ∧
     (∀ m : Byte, exec (.enec m) s = .next (if m.getLsbD 0 then { s with mgmt := { s.mgmt with ibi := true } } else s)) ∧
     (∀ m : Byte, exec (.disec m) s = .next (if m.getLsbD 0 then { s with mgmt := { s.mgmt with ibi := false } } else s))) ∧
  ∀ (s : State), s.dev.step ≠ .standby → s.mgmt.dynAddr.isSome →
    (∃ l, l.length = 6 ∧ exec .getpid s = .next (s.sends l s.dev.free)) ∧
    (∃ l, l.length = 1 ∧ exec .getbcr s = .next (s.sends l s.dev.free)) ∧
    (∃ l, l.length = 1 ∧ exec .getdcr s = .next (s.sends l s.dev.free)) ∧
    (∃ l n, l.length = 2 ∧ exec .getstatus s = .next (s.sends l n))

/-- The MCTP control messages: SET_ENDPOINT_ID sets the endpoint ID that GET_ENDPOINT_ID reports; the message types are MCTP
control, PLDM and vendor defined. Codes are PRESUMED from the standards the spec names (log 24). The PLDM base messages: SetTID sets
the terminus ID that GetTID reports; types 0 and 2 are served. Codes are PRESUMED from the standard the spec names (log 24). The
PLDM monitoring messages answer for 19 sensors: sixteen numeric ones, whose reading is the last of the register it stands for (V48
first, then input power), and three state ones, of which the first is STATE. Numbering and layout are the model's choice (log 24).
-/
def Obligations.MctpAndPldmAnswer : Prop :=
  (∀ (s : State), s.dev.step ≠ .standby → s.mgmt.dynAddr.isSome →
     (∀ (op : Fin 4) (eid : Byte), op.val ≤ 1 → eid ≠ 0 → eid ≠ 0xFF →
       exec (.setEndpointId op eid) s = .next ({ s with mgmt := { s.mgmt with eid := eid } }.sends [0, 0, eid, 0] s.dev.free)) ∧
     (∃ l n, l.length = 2 ∧ exec .getEndpointId s = .next (s.sends (0 :: s.mgmt.eid :: l) n)) ∧
     (∀ ty : Byte, ty = 0 ∨ ty = 1 ∨ ty = 0x7F → ∃ l n, l.length = 4 ∧
       exec (.getMctpVersionSupport ty) s = .next (s.sends (0 :: 1 :: l) n)) ∧
     (∀ ty : Byte, ty ≠ 0 → ty ≠ 1 → ty ≠ 0x7F → ty ≠ 0xFF → ∃ l,
       l ≠ [] ∧ l.head? ≠ some 0 ∧ exec (.getMctpVersionSupport ty) s = .next (s.sends l s.dev.free)) ∧
     exec .getMessageTypeSupport s = .next (s.sends [0, 2, 1, 0x7F] s.dev.free)) ∧
  (∀ (s : State), s.dev.step ≠ .standby → s.mgmt.dynAddr.isSome →
     exec .getTid s = .next (s.sends [0, s.mgmt.tid] s.dev.free) ∧
     (∀ t : Byte, t ≠ 0 → t ≠ 0xFF →
       exec (.setTid t) s = .next ({ s with mgmt := { s.mgmt with tid := t } }.sends [0] s.dev.free)) ∧
     (∀ ty : Byte, ty = 0 ∨ ty = 2 → (∃ l n, exec (.getPldmVersion ty) s = .next (s.sends (0 :: l) n)) ∧
       ∃ l, l.length = 32 ∧ exec (.getPldmCommands ty) s = .next (s.sends (0 :: l) s.dev.free)) ∧
     (∀ ty : Byte, ty ≠ 0 → ty ≠ 2 →
       exec (.getPldmVersion ty) s = .next (s.sends [0x83] s.dev.free) ∧
       exec (.getPldmCommands ty) s = .next (s.sends [0x83] s.dev.free)) ∧
     exec .getPldmTypes s = .next (s.sends [0, 5, 0, 0, 0, 0, 0, 0, 0] s.dev.free)) ∧
  ∀ (s : State), s.dev.step ≠ .standby → s.mgmt.dynAddr.isSome →
    (∃ a b n, exec .getPdrRepositoryInfo s = .next (s.sends (0 :: 0 :: (a ++ [19, 0, 0, 0] ++ b)) n)) ∧
    (∀ r, r ≤ 19 → ∃ l, exec (.getPdr r) s = .next (s.sends (0 :: l) s.dev.free)) ∧
    (∀ r, 19 < r → ∃ b : Byte, b ≠ 0 ∧ exec (.getPdr r) s = .next (s.sends [b] s.dev.free)) ∧
    (∃ l n, exec (.getSensorReading 1) s =
      .next (s.sends ([0x00, 0x02, 0x00] ++ l ++ natBytes s.pwr.v48.toNat 2) n)) ∧
    (∃ l n, exec (.getSensorReading 2) s = .next (s.sends ([0x00, 0x02, 0x00] ++ l ++ natBytes s.pwr.avg 2) n)) ∧
    (∀ k, 1 ≤ k → k ≤ 16 → ∃ l n, exec (.getSensorReading k) s = .next (s.sends (0 :: l) n)) ∧
    (∃ l n, exec (.getStateSensorReadings 17) s =
      .next (s.sends ([0x00, 0x01, 0x00, BitVec.ofNat 8 s.dev.state.code] ++ l) n)) ∧
    (∀ k, 17 ≤ k → k ≤ 19 → ∃ l n, exec (.getStateSensorReadings k) s = .next (s.sends (0 :: l) n))

/-! ### The TAP, debug and freeze (R398 to R407) -/

/-- The boundary, identification and bypass instructions of the TAP shift out what R401 gives and select their register, a reserved opcode
the bypass register; the boundary register holds what was shifted in. Nothing else changes. TRST_N low selects IDCODE, and no instruction
is taken until it is high. FLASH through the TAP in BOOT or FROZEN: ERASE makes the 64 KiB
sector read 0xFF, PROGRAM writes 32 bytes, READ returns 32; every other byte of flash stays, and so does everything of the device
but flash and what leaves. -/
def Obligations.TapIdentificationAndFlash : Prop :=
  (∀ (s : State), s.tapOn = true →
     exec .idcode s = .next { s with
       dev := { s.dev with out := s.dev.out ++ [.tap 0x24E3856B] }, mgmt := { s.mgmt with ir := 0x01 } } ∧
     (∀ b : BypassAt, b.op ∉ tapOpcodes → b.trstN = true → exec (.bypass b) s = .next { s with
       dev := { s.dev with out := s.dev.out ++ [.tap (if b.bit then 2 else 0)] }, mgmt := { s.mgmt with ir := b.op } }) ∧
     (∀ b : BypassAt, b.op ∉ tapOpcodes → b.trstN = false →
       exec (.bypass b) s = .next { s with mgmt := { s.mgmt with ir := 0x01, trstN := false } }) ∧
     ∃ pins : Byte, pins.getLsbD 0 = s.dev.resetN ∧ pins.getLsbD 1 = s.dev.pwrok ∧ pins.getLsbD 2 = !s.dev.freezeN ∧ pins.getLsbD 3 = !s.dev.faultN ∧
       pins.getLsbD 4 = !s.dev.thermTrip ∧ pins.getLsbD 6 = s.mgmt.bootPin.getLsbD 0 ∧ pins.getLsbD 7 = s.mgmt.bootPin.getLsbD 1 ∧
       (∀ v : Byte, exec (.extest v) s = .next { s with
         dev := { s.dev with out := s.dev.out ++ [.tap pins.toNat] }, mgmt := { s.mgmt with ir := 0x00, boundary := v } }) ∧
       (∀ v : Byte, exec (.samplePreload v) s = .next { s with
         dev := { s.dev with out := s.dev.out ++ [.tap pins.toNat] }, mgmt := { s.mgmt with ir := 0x02, boundary := v } })) ∧
  (∀ (s : State), s.mgmt.trstN = false → exec .idcode s = .next s ∧ (∀ v, exec (.extest v) s = .next s) ∧
    ∀ v, exec (.samplePreload v) s = .next s) ∧
  ∀ (s : State) (area : Fin 4) (off : BitVec 24) (data : Gran), s.tapOn = true → s.dev.state = .boot ∨ s.dev.state = .frozen →
    off.toNat + 32 ≤ (tapArea area.val).2 →
    let a := (tapArea area.val).1 + off.toNat
    (∃ t, exec (.tapFlash 1 area off data) s = .next t ∧ t.mgmt.flashStatus = 0 ∧
      t.dev = { s.dev with flash := t.dev.flash, out := t.dev.out } ∧ t.pwr = s.pwr ∧
      (∀ i, a - off.toNat % 65536 ≤ i → i < a - off.toNat % 65536 + 65536 → Tab.get t.dev.flash i 0xFF = 0xFF) ∧
      ∀ c, ¬(a - off.toNat % 65536 ≤ c.1 ∧ c.1 < a - off.toNat % 65536 + 65536) → (c ∈ t.dev.flash ↔ c ∈ s.dev.flash)) ∧
    (∃ t, exec (.tapFlash 2 area off data) s = .next t ∧ t.mgmt.flashStatus = 0 ∧
      t.dev = { s.dev with flash := t.dev.flash, out := t.dev.out } ∧ t.pwr = s.pwr ∧
      ∀ i, Tab.get t.dev.flash i 0xFF =
        if a ≤ i ∧ i < a + 32 then BitVec.ofNat 8 (data.toNat / 256 ^ (i - a)) else Tab.get s.dev.flash i 0xFF) ∧
    ∃ t, exec (.tapFlash 3 area off data) s = .next t ∧ t.mgmt.flashStatus = 0 ∧
      t.dev = { s.dev with out := t.dev.out } ∧ t.pwr = s.pwr ∧
      ∀ i, i < 32 → BitVec.ofNat 8 (t.mgmt.flashData.toNat / 256 ^ i) = Tab.get s.dev.flash (a + i) 0xFF

/-- While debug is locked, MRS through the TAP reads only GEN, PWR, DBG, SAF_STATUS and the memory temperatures and writes only
DBG_CTL: a permitted read returns the register's value and changes nothing else of the device, a refused access sets [64] and
changes nothing. While unlocked, every mapped register can be read. In a running device what follows is Dev.finish. -/
def Obligations.TapMrsWhileLocked : Prop :=
  ∀ (s : State) (a : BitVec 32) (v : Word), s.tapOn = true →
    let answer (x : Word) (refused : Bool) : State := { s with
      dev := ({ s.dev with out := s.dev.out ++ [Out.tap (x.toNat + if refused then 2 ^ 64 else 0)] }).finish,
      mgmt := { s.mgmt with ir := 0x10, mrsData := x, mrsRefused := refused } }
    (s.sec.unlocked = false →
      (∀ r, rowOf a.toNat = some r →
        (r ∈ rowsGEN ∨ r ∈ rowsPWR ∨ r ∈ rowsDBG ∨ r.reg = .SAF_STATUS ∨ r.reg = .HMC_TEMP ∨ r.reg = .LMC_TEMP →
          exec (.tapMrs false a v) s = .next (answer (s.view r.reg (r.index a.toNat) (s.dev.rd r (r.index a.toNat))) false)) ∧
        (¬(r ∈ rowsGEN ∨ r ∈ rowsPWR ∨ r ∈ rowsDBG ∨ r.reg = .SAF_STATUS ∨ r.reg = .HMC_TEMP ∨ r.reg = .LMC_TEMP) →
          exec (.tapMrs false a v) s = .next (answer 0 true)) ∧
        (r.reg ≠ .DBG_CTL → exec (.tapMrs true a v) s = .next (answer 0 true)))) ∧
    (s.sec.unlocked = true → ∀ r, rowOf a.toNat = some r →
      exec (.tapMrs false a v) s = .next (answer (s.view r.reg (r.index a.toNat) (s.dev.rd r (r.index a.toNat))) false)) ∧
    (rowOf a.toNat = none → ∀ wr, exec (.tapMrs wr a v) s = .next (answer 0 true))

/-- UNLOCK: a token that is authorised outside the lockout sets UNLOCKED and UNLOCK_USED; one with a bad signature starts the
lockout at the tick it is judged; within the lockout any token is refused with LOCKOUT; every attempt takes a new nonce. The lockout
ends when its second is over; RELOCK locks debug again. A token is authorised only by an owner slot that is enrolled and not
revoked, and only with both signatures.
Readings of the model that it rests on: log 8, 25. -/
def Obligations.DebugUnlock : Prop :=
  (∀ (s : State) (tok nonce : List Byte),
     (s.tapOn = true → ∃ sec dev, exec (.unlock tok nonce) s = .next { s with
         dev := dev, sec := sec, mgmt := { s.mgmt with ir := 0x12 } } ∧
       sec = { s.sec with unlockResult := sec.unlockResult, unlocked := sec.unlocked, used := sec.used } ∧
       dev = { s.dev with nonce := nonce, unlockAt := dev.unlockAt } ∧
       (s.dev.unlockAt.isSome = true → sec.unlockResult = 5 ∧ sec.unlocked = s.sec.unlocked ∧ sec.used = s.sec.used ∧
         dev.unlockAt = s.dev.unlockAt) ∧
       (s.dev.unlockAt = none → s.sec.judgeToken s.dev.nonce tok = 1 →
         sec.unlockResult = 1 ∧ sec.unlocked = true ∧ sec.used = true ∧ dev.unlockAt = none) ∧
       (s.dev.unlockAt = none → s.sec.judgeToken s.dev.nonce tok ≠ 1 →
         sec.unlockResult = s.sec.judgeToken s.dev.nonce tok ∧ sec.unlocked = s.sec.unlocked ∧ sec.used = s.sec.used ∧
         dev.unlockAt = some (s.dev.now (alwaysKey 0)))) ∧
     exec .relock s = .next { s with sec := { s.sec with unlocked := false } } ∧
     (∀ t, s.dev.unlockAt = some t → s.dev.atLeast (alwaysKey 0) t 1000000000 = true →
       exec .unlockLockoutExpiry s = .next { s with dev := ({ s.dev with unlockAt := none }).finish }) ∧
     (∀ t, s.dev.unlockAt = some t → s.dev.atLeast (alwaysKey 0) t 1000000000 = false → exec .unlockLockoutExpiry s = .next s)) ∧
  ∀ (x : Sec) (n tok : List Byte), x.judgeToken n tok = 1 → ∃ k key, x.slotKey k = some key ∧ k = (tok.getD 0 0).toNat ∧
    x.enrolled.getLsbD k = true ∧ x.revoked.getLsbD k = false ∧
    Config.ed25519Verify key (natBytes (Config.sha3 (n ++ deviceDigest ++ [0x55])).toNat 64) (slice tok 8 64) = true ∧
    Config.mldsaVerify key (natBytes (Config.sha3 (n ++ deviceDigest ++ [0x55])).toNat 64) (slice tok 72 3309) = true

/-- Freeze is requested by FREEZE_N or DBG_CTL.FREEZE and is in force until neither holds: a request in a running device past BOOT
starts HALTING and counts a freeze, one before leaves PHASE; the last cause cleared starts THAWING. Nothing else changes. The end of
freeze entry: STATE reads FROZEN and keeps what it was, every instance that served has written its queued writes and is in
self-refresh with the pieces it kept, every port but the witness port that was ACTIVE or RETRAIN holds, a HOLD flit sent; memory,
contexts, requests, regions and beds stay. The end of thaw: STATE as before, PHASE RUNNING, a port that held trains again, and where no
read was under way memory, descriptors and regions stay. With a new cause the device freezes again before any port trains.
Readings of the model that it rests on: log 16, 29. -/
def Obligations.FreezeAndThaw : Prop :=
  (∀ (s : State),
     (s.dev.freezes = .running → s.dev.state ≠ .powerUp → s.dev.state ≠ .boot →
       (∃ d, exec .freezeRequest s = .next { s with dev := d } ∧ d.freezes = .halting ∧
         d = { s.dev with freezeN := true, freezes := .halting, rateDirty := d.rateDirty, regs := d.regs } ∧
         (∀ x v, x ≠ row_DBG_STATUS.addr 0 → d.regs.get x v = s.dev.regs.get x v)) ∧
       ∃ d, exec .freeze s = .next { s with dev := d } ∧ d.freezes = .halting ∧
         d = { s.dev with req := true, freezes := .halting, rateDirty := d.rateDirty, regs := d.regs } ∧
         (∀ x v, x ≠ row_DBG_STATUS.addr 0 → d.regs.get x v = s.dev.regs.get x v)) ∧
     (s.dev.freezes = .running → s.dev.state = .powerUp ∨ s.dev.state = .boot →
       exec .freezeRequest s = .next { s with dev := { s.dev with freezeN := true } } ∧
       exec .freeze s = .next { s with dev := { s.dev with req := true } }) ∧
     (s.dev.freezes = .frozen →
       exec .freezeNRelease s = .next { s with dev :=
         { s.dev with freezeN := false, freezes := if s.dev.req then .frozen else .thawing } } ∧
       exec .thaw s = .next { s with dev :=
         { s.dev with req := false, freezes := if s.dev.freezeN then .frozen else .thawing } }) ∧
     (s.dev.freezes = .halting →
       exec .freezeNRelease s = .next { s with dev := { s.dev with freezeN := false } } ∧
       exec .thaw s = .next { s with dev := { s.dev with req := false } })) ∧
  (∀ (s : State), s.dev.freezes = .halting → s.dev.freezeCause = true → s.dev.state ≠ .frozen →
     ∃ d : Dev, exec .freezeComplete s = .next { s with dev := d.finish } ∧ d.freezes = .frozen ∧ d.state = .frozen ∧ d.before = s.dev.state ∧
       d = { s.dev with
         freezes := .frozen, state := .frozen, before := s.dev.state, insts := d.insts, ports := d.ports, regs := d.regs,
         setq := d.setq, wire := d.wire } ∧
       (∀ i, if i < 100 ∧ ((s.dev.inst i).st = .active ∨ (s.dev.inst i).st = .pause)
         then (d.inst i).st = .selfRefresh ∧ (∀ p ∈ (d.inst i).queue, p ∈ (s.dev.inst i).queue ∧ p.pc.write = false) ∧
           (d.inst i).xbar = (s.dev.inst i).xbar
         else d.inst i = s.dev.inst i) ∧
       ∀ p, d.port p = if p < 16 ∧ ((s.dev.port p).st = .active ∨ (s.dev.port p).st = .retrain) ∧ s.dev.portWitness p = false
         then { s.dev.port p with st := .hold, txWords := (d.port p).txWords } else s.dev.port p) ∧
  ∀ (s : State), s.dev.freezes = .thawing →
    (s.dev.freezeCause = false → ∃ d : Dev,
      exec .thawComplete s = .next ((({ s with dev := d.evFlush.thawLink } : State).cfgThaw).onDev Dev.finish) ∧
      d.freezes = .running ∧ d.state = s.dev.before ∧
      ((∀ r ∈ s.dev.reqs, r.stage ≠ .issued) → d.mem = s.dev.mem ∧ d.descs = s.dev.descs ∧ d.rgns = s.dev.rgns) ∧
      ∀ p, p < 16 → (s.dev.port p).st = .hold → (d.port p).st = .train) ∧
    (s.dev.freezeCause = true → ∃ d : Dev, exec .thawComplete s = .next { s with dev := d.finish } ∧ d.freezes = .halting ∧
      d.state = s.dev.state ∧ ((∀ r ∈ s.dev.reqs, r.stage ≠ .issued) → d.ports = s.dev.ports ∧ d.mem = s.dev.mem))

/-- READ of the capture engine: it runs only while FROZEN (NOT_FROZEN else), and while debug is locked only for descriptors (LOCKED
else); a permitted read of descriptors ends with DONE and RESULT 0, DBG_CAP_DATA holding their granules, those of a fenced domain or
set as 0.
Readings of the model that it rests on: log 29. -/
def Obligations.CaptureReads : Prop :=
  ∀ (s : State), ∃ d, exec .captureRead s = .next { s with dev := d } ∧
    d.fld row_DBG_CAP_CTL 0 f_DBG_CAP_CTL_DONE = 1 ∧ d = { s.dev with regs := d.regs, free := d.free } ∧
    let space := s.dev.fld row_DBG_CAP_ADDR 0 f_DBG_CAP_ADDR_SPACE
    let a := s.dev.fld row_DBG_CAP_ADDR 0 f_DBG_CAP_ADDR_ADDRESS
    let n := s.dev.fld row_DBG_CAP_CTL 0 f_DBG_CAP_CTL_COUNT
    (s.dev.freezes ≠ .frozen → d.fld row_DBG_CAP_CTL 0 f_DBG_CAP_CTL_RESULT = 1) ∧
    (s.dev.freezes = .frozen → s.sec.unlocked = false → space = 2 ∨ space = 3 ∨ space = 4 →
      d.fld row_DBG_CAP_CTL 0 f_DBG_CAP_CTL_RESULT = 2) ∧
    (s.dev.freezes = .frozen → space = 1 → n = 1 → a < 2 ^ 28 → a < s.dev.strat.elim 0 (·.eTotal) →
      d.fld row_DBG_CAP_CTL 0 f_DBG_CAP_CTL_RESULT = 0 ∧
      (∀ p, s.dev.descPlace a = some p → s.dev.capFenced p.1 p.2 = false → s.dev.metaBad p.1 p.2 = false →
        ∀ j, j < 4 → d.rd row_DBG_CAP_DATA j = granWord ((s.dev.desc a).gran 0) j) ∧
      (∀ p, s.dev.descPlace a = some p → s.dev.capFenced p.1 p.2 = true → ∀ j, j < 4 → d.rd row_DBG_CAP_DATA j = 0))

/-! ### Reset and bring-up (R409 to R416, R348) -/

/-- Standby power starts the device as a cold reset does, its count taken from the boot record; PWROK finds both Vcore rails at 750
mV and changes nothing else, but after a power loss it is a cold reset, with a fresh nonce of 64 bytes. RESET_N rising latches BOOT_SEL;
high 1 ms after PWROK it starts the boot ROM, and whether the stratum area of the flash can be read is known from then on; the slots that
BOOT_SEL lets be tried are tried in order, that of the boot record first, and the first that can be read, is valid and verifies is
started by both Marl pairs; where none does, the device stays in BOOT without firmware, and BOOT_FAIL is 0x5 where the last could
not be read.
Readings of the model that it rests on: log 3, 12, 25. -/
def Obligations.PowerUpAndBoot : Prop :=
  (∀ (s : State),
     (∀ nonce, s.dev.step = .standby → ∃ t, exec (.standbyPowerUp nonce) s = .next t ∧
       resetCommon 1 { s with dev := { s.dev with resets := s.dev.bootRec.resets } } t ∧
       t.dev.step = .pwrok ∧ t.dev.timers = [] ∧ t.dev.mem = [] ∧ t.dev.nonce = nonce ∧ t.dev.coldBoot = true ∧
       t.sec.used = false ∧ t.pwr = {} ∧ t.mgmt = {}) ∧
     (s.dev.step = .pwrok → s.dev.lost = false → ∃ v m, exec .pwrokRise s = .next { s with
         dev := { s.dev with pwrok := true, step := .reset, vcoreOff := false, pwrAt := s.dev.now (alwaysKey 0) },
         pwr := { s.pwr with v := v, vMin := m } } ∧
       v.get 0 0 = 750 ∧ v.get 1 0 = 750 ∧ m.get 0 0x3FF = 750 ∧ m.get 1 0x3FF = 750) ∧
     (s.dev.step = .pwrok → s.dev.lost = true → ∃ t, exec .pwrokRise s = .next t ∧ resetCommon 1 s t ∧ t.dev.step = .reset ∧
       t.dev.pwrok = true ∧ t.dev.lost = false ∧ t.dev.timers = [] ∧ t.dev.mem = [] ∧ t.dev.coldBoot = true ∧
       t.dev.nonce.length = 64 ∧ t.dev.free = s.dev.free + 64 ∧ t.mgmt = s.mgmt) ∧
     (∀ sel readable noRead, s.dev.step = .pwrok → s.dev.resetN = false →
       exec (.resetRelease ⟨sel, readable, noRead⟩) s = .next { s with
         dev := { s.dev with resetN := true }, sec := { s.sec with bootSel := sel }, mgmt := { s.mgmt with bootPin := sel } })) ∧
  ∀ (s : State) (sel noRead : BitVec 2) (readable : Bool), s.dev.step = .reset → s.dev.state = .powerUp → s.dev.thermTrip = false →
    s.dev.vcoreOff = false → s.dev.atLeast (alwaysKey 0) s.dev.pwrAt 1000000 = true →
    let latched := if s.dev.resetN then s.mgmt.bootPin else sel
    let x : Sec := { s.sec with bootSel := latched, stratRead := readable }
    let slot := s.dev.bootRec.slotB
    let order := if latched = 0 then [slot, !slot] else if latched = 1 then [false] else if latched = 2 then [true] else []
    let good := fun (b : Bool) => noRead.getLsbD (b2n b) = false ∧ x.flashBad.getLsbD (slotPart b) = false ∧
      x.verify (s.dev.fwObj b) 1 [0] = 0
    ∃ t, exec (.resetRelease ⟨sel, readable, noRead⟩) s = .next t ∧ t.dev.state = .boot ∧ t.sec.bootSel = latched ∧
      t.sec.stratRead = readable ∧ t.pwr = s.pwr ∧ t.mgmt = { s.mgmt with bootPin := latched } ∧
      t.dev = { s.dev with state := .boot, step := t.dev.step, marlUp := t.dev.marlUp, resetN := true } ∧
      (∀ l b r, order = l ++ b :: r → (∀ c ∈ l, ¬ good c) → good b →
        t.dev.step = .firmware ∧ t.dev.marlUp = 3 ∧ t.sec.slotB = b ∧ (t.sec.fallback = true ↔ l ≠ []) ∧
        t.sec.runSvn = (s.dev.fwObj b).svn) ∧
      (∀ l b, order = l ++ [b] → (∀ c ∈ order, ¬ good c) → noRead.getLsbD (b2n b) = true → t.sec.bootFail = 5) ∧
      ((∀ c ∈ order, ¬ good c) → t.dev.step = .rom ∧ t.dev.marlUp = s.dev.marlUp)

/-- The start of firmware: the reset count goes into the boot record, a pending SVN raise is completed, a stratum comes into force
(SAFE where none admits, as where the stratum area cannot be read), no memory is cleared, descriptors and regions stay only where
memory was kept and its layout stays, and every enabled port is DOWN. The flash but for the boot record, power and board management
stay.
Readings of the model that it rests on: log 12, 25. -/
def Obligations.FirmwareBringsAStratumIntoForce : Prop :=
  ∀ (s : State), s.dev.step = .firmware → s.dev.state = .boot →
    ∃ t, exec .firmwareStarted s = .next t ∧ t.dev.step = .stratum ∧ t.dev.state = .boot ∧ t.dev.strat.isSome = true ∧
      (∀ i, 0x10000 ≤ i → Tab.get t.dev.flash i 0xFF = Tab.get s.dev.flash i 0xFF) ∧
    (s.dev.resets < 2 ^ 64 → s.dev.bootRec.seq + 1 < 2 ^ 64 →
      t.dev.bootRec = { s.dev.bootRec with seq := s.dev.bootRec.seq + 1, pending := false, resets := s.dev.resets }) ∧
    (s.dev.bootRec.pending = true → t.sec.svnFuse = max s.sec.svnFuse s.sec.runSvn) ∧ s.sec.fusesKept t.sec ∧
    t.pwr = s.pwr ∧ t.mgmt = s.mgmt ∧ t.pending = s.pending ∧
    (s.sec.stratRead = false → t.dev.strat.elim false (·.safe) = true) ∧ t.dev.mem = s.dev.mem ∧
    (s.dev.memKept = false → t.dev.memKept = false ∧ t.dev.descs = [] ∧ t.dev.rgns = [] ∧ t.dev.journals = []) ∧
    (t.dev.memKept = true → t.dev.descs = s.dev.descs ∧ t.dev.rgns = s.dev.rgns ∧ t.dev.journals = s.dev.journals) ∧
    ∀ p, p < 16 → t.dev.portEnabled p = true → (t.dev.port p).st = .down

/-- Training: with REFCLK the state becomes TRAINING and every live instance in use trains, without it the device has failed. Where
every channel trains and every checker passes, each instance in TRAINING becomes ACTIVE and metadata comes next, once no die of a bed is
gated; a channel that
fails for good is marked failed and its set fenced, and the bring-up goes on. The last steps: without memory kept every descriptor
is FREE and no region, journal, poison entry, retired unit or tensor is left; then the state is READY, or READY_SAFE under a SAFE
stratum, and every port that is DOWN and powered trains.
Readings of the model that it rests on: log 25, 41. -/
def Obligations.TrainingAndBringUp : Prop :=
  (∀ (s : State),
     (s.dev.step = .stratum → s.dev.state = .boot → s.dev.refclkLost = false → s.dev.freezes = .running →
       s.dev.freezeCause = false →
       ∃ d : Dev, exec (.stratumInForce true) s = .next { s with dev := d.finish } ∧ d.step = .training ∧ d.state = .training ∧
         d = { s.dev with step := .training, state := .training, insts := d.insts } ∧
         ∀ i, (d.inst i) = if i ∈ s.dev.usedInsts ∧ s.dev.live (instDom i) = true then { s.dev.inst i with st := .training }
           else s.dev.inst i) ∧
     (s.dev.step = .stratum → s.dev.state = .boot →
       ∃ d : Dev, exec (.stratumInForce false) s = .next { s with dev := d.finish } ∧ d.state = .failed ∧ d.dfCause = 3) ∧
     (s.dev.step = .training → s.dev.state = .training → s.dev.freezes = .running → s.bedsWait = false →
       ∃ d : Dev, exec (.trainingDone [] []) s = .next { s with dev := d.finish } ∧ d.step = .metadata ∧ d.state = .training ∧
         (∀ i, i ∈ s.dev.usedInsts → (s.dev.inst i).st = .training → (s.dev.inst i).pllLost = false → (d.inst i).st = .active) ∧
         d.mem = s.dev.mem ∧ d.descs = s.dev.descs ∧ d.ports = s.dev.ports) ∧
     (s.dev.step = .training → s.dev.state = .training → s.dev.freezes = .running → s.bedsWait = true → ∀ l fails,
       exec (.trainingDone l fails) s = .next s) ∧
     (s.dev.step = .training → s.dev.state = .training → s.dev.freezes = .running → s.bedsWait = false → s.dev.reqs = [] →
       ∀ (i : Fin 100) (f : TrainFail), f.lasting = true → i.val ∈ s.dev.usedInsts → (s.dev.inst i.val).st = .training →
       ∃ d : Dev, exec (.trainingDone [(i, f)] []) s = .next { s with dev := d.finish } ∧ d.step = .metadata ∧
         (d.inst i.val).failed.getLsbD f.ch.val = true ∧ d.mem = s.dev.mem ∧
         ∀ k, s.dev.setOfInst i.val = some k → d.setFenced k = true)) ∧
  ∀ (s : State), s.dev.state = .training → s.dev.freezes = .running →
    (s.dev.step = .metadata → ∃ d : Dev, exec .metadataInit s = .next { s with dev := d.finish } ∧ d.step = .ports ∧
      d.state = .training ∧ d.plans = [] ∧
      (s.dev.memKept = false → d = { s.dev with
        step := .ports, descs := [], rgns := [], journals := [], poison := [], retired := [], tensors := [],
        plans := [], ctxs := [], memKept := false })) ∧
    (s.dev.step = .ports → ∃ d : Dev, exec .bringupReady s = .next { s with dev := d.finish } ∧ d.step = .up ∧
      (d.state = if s.dev.strat.elim true (·.safe) then .readySafe else .ready) ∧
      d = { s.dev with step := .up, state := d.state, ports := d.ports, regs := d.regs } ∧
      ∀ p, p < 16 → (d.port p).st =
        if (s.dev.port p).st = .down ∧ s.dev.live (portDom p) = true then .train else (s.dev.port p).st)

/-- Resets. A warm reset, at the fall of RESET_N, counts; of a device that is up it keeps memory, descriptors, journals and the stratum
where every instance reached self-refresh and the rails held, and no memory where one of the two failed. A cold reset keeps none and
clears UNLOCK_USED; where RESET_N has been low since a reset that one becomes cold and no further one is counted. A power loss
counts no reset: with standby power the always-on timers run on and the return of power is owed one, without it the device is as
before it was first powered.
Readings of the model that it rests on: log 25. -/
def Obligations.WarmAndColdResets : Prop :=
  ∀ (s : State), s.dev.step ≠ .standby →
    (s.dev.step ≠ .pwrok → s.dev.resetN = true → ∀ sr rails nonce, ∃ t,
      exec (.warmReset sr rails nonce) s = .next t ∧ resetCommon 1 s t ∧ t.dev.step = .reset ∧ t.dev.nonce = nonce ∧
      t.dev.resetN = false ∧ t.sec.used = s.sec.used ∧ t.mgmt = s.mgmt ∧ t.pwr.v = s.pwr.v ∧ t.pwr.causes = s.pwr.causes ∧
      (sr = true → rails = true → s.dev.vcoreOff = false → s.dev.step = .up →
        t.dev.memKept = true ∧ t.dev.mem = s.dev.mem ∧ t.dev.descs = s.dev.descs ∧ t.dev.journals = s.dev.journals ∧
        t.dev.poison = s.dev.poison ∧ t.dev.strat = s.dev.strat) ∧
      (sr = false ∨ rails = false → t.dev.memKept = false ∧ t.dev.mem = [])) ∧
    (s.dev.step ≠ .pwrok ∨ s.dev.resetN = true → ∀ cool nonce, ∃ t, exec (.coldReset cool nonce) s = .next t ∧
      resetCommon (if s.dev.resetN = true ∨ s.dev.step ≠ .reset then 1 else 0) s t ∧ t.dev.step = .pwrok ∧
      t.dev.mem = [] ∧ t.dev.memKept = false ∧ t.dev.timers = [] ∧ t.sec.used = false ∧ t.pwr = {} ∧ t.mgmt = s.mgmt ∧
      t.dev.pwrok = false ∧ t.dev.resetN = false ∧ t.dev.nonce = nonce ∧ t.dev.thermTrip = (s.dev.thermTrip && !cool)) ∧
    (s.dev.step ≠ .pwrok → ∃ t, exec (.powerLoss true) s = .next t ∧ resetCommon 0 s t ∧ t.dev.step = .pwrok ∧ t.dev.lost = true ∧
      t.dev.mem = [] ∧ t.dev.memKept = false ∧ t.sec.used = false ∧ t.pwr = {} ∧ t.mgmt = s.mgmt ∧ t.dev.pwrok = false ∧
      ∀ die, t.dev.timers.get (alwaysKey die) 0 = s.dev.timers.get (alwaysKey die) 0) ∧
    ∃ t, exec (.powerLoss false) s = .next t ∧ resetCommon 0 s t ∧ t.dev.step = .standby ∧ t.dev.mem = [] ∧
      t.sec.used = false ∧ t.pwr = {} ∧ t.mgmt = {} ∧ t.dev.pwrok = false ∧ t.dev.resetN = false ∧ t.dev.thermTrip = false

/-! ### Clocks and the step rate (R19, R23) -/

/-- Loss of lock of a PLL and the end of its relock in a live domain: an instance pauses, trains again and resumes, the
reads that wait in its queue made again, a channel that fails in that for good is failed with its set fenced, a port retrains; a relock that fails is the lasting fault of the circuit, every channel of the instance failed, the port
FAILED. In a domain that is not live a relock changes no memory and no descriptor. Loss of REFCLK in a device that is up: it has
failed with cause 3, and no port that was in use stays up.
Readings of the model that it rests on: log 41. -/
def Obligations.ClockFaults : Prop :=
  (∀ (s : State) (p : Fin 116),
     (s.dev.live (pllDom p.val) = true → s.dev.pllLost p.val = false → ∃ d : Dev,
       exec (.pllLossOfLock p) s = .next { s with dev := d.finish } ∧ d.pllLost p.val = true ∧
       d = { s.dev with insts := d.insts, ports := d.ports } ∧
       (p.val < 100 → (s.dev.inst p.val).st = .active → (d.inst p.val).st = .pause)) ∧
     (s.dev.pllLost p.val = true → s.dev.refclkLost = false → s.dev.live (pllDom p.val) = true →
       (∀ fails, lastingMask fails = 0 → p.val < 100 → ∃ d : Dev,
         let st := (s.dev.inst p.val).st
         exec (.pllRelockResult p true fails) s = .next { s with
           dev := (if st = .pause ∨ (st = .training ∧ s.dev.step ≠ .training) then d.readAgain p.val else d).finish } ∧
         d.pllLost p.val = false ∧ d = { s.dev with insts := d.insts, regs := d.regs, logFull := d.logFull } ∧
         (st = .pause → (d.inst p.val).st = .active) ∧ (d.inst p.val).queue = (s.dev.inst p.val).queue ∧
         ((s.dev.inst p.val).queue = [] → d.readAgain p.val = d)) ∧
       (∀ fails, 100 ≤ p.val → ∃ d : Dev, exec (.pllRelockResult p true fails) s = .next { s with dev := d.finish } ∧
         d.pllLost p.val = false ∧ d.mem = s.dev.mem ∧ d.descs = s.dev.descs ∧
         ((s.dev.port (p.val - 100)).st = .active → (d.port (p.val - 100)).st = .retrain)) ∧
       (∀ fails, lastingMask fails ≠ 0 → p.val < 100 → ∃ d : Dev,
         exec (.pllRelockResult p true fails) s = .next { s with dev := d.finish } ∧ d.pllLost p.val = false ∧
         (d.inst p.val).failed = (s.dev.inst p.val).failed ||| lastingMask fails ∧
         ∀ k, s.dev.setOfInst p.val = some k → d.setFenced k = true) ∧
       ∃ d : Dev, exec (.pllRelockResult p false []) s = .next { s with dev := d.finish } ∧
         (p.val < 100 → (d.inst p.val).failed = 0xF) ∧
         (100 ≤ p.val → (s.dev.port (p.val - 100)).st ≠ .disabled → (d.port (p.val - 100)).st = .failed)) ∧
     (s.dev.pllLost p.val = true → s.dev.refclkLost = false → s.dev.live (pllDom p.val) = false → ∀ ok fails, ∃ d : Dev,
       exec (.pllRelockResult p ok fails) s = .next { s with dev := d.finish } ∧ d.pllLost p.val = !ok ∧
       d.mem = s.dev.mem ∧ d.descs = s.dev.descs)) ∧
  ∀ (s : State), s.dev.refclkLost = false → s.dev.step = .up → s.dev.state ≠ .failed → ∃ d : Dev,
    exec .refclkLoss s = .next { s with dev := d.finish } ∧ d.refclkLost = true ∧ d.state = .failed ∧ d.dfCause = 3 ∧
    ∀ p, p < 16 → (s.dev.port p).st ≠ .disabled → (s.dev.port p).st ≠ .failed → (d.port p).st = .down

/-- The end of a step rate window, 2,500 ticks after the last: for a cluster whose eight cores are live, in an undiscarded window of
a running device, RATE is floor(0.95 count / 10), VALID is 1 and RATE_MIN the lower of itself and RATE; a cluster with a core that
is not live reads VALID 0 and RATE 0; the clusters of the other die keep their register. A write of 1 to CLR_MIN sets RATE_MIN to
RATE. -/
def Obligations.StepRateWindows : Prop :=
  ∀ (s : State),
    (∀ (die : Fin 2) (counts : List Nat) (dc : Nat), s.dev.now (commonDom die.val) < s.dev.rateAt.get die.val 0 + 2500 →
      exec (.stepRateWindow die counts dc) s = .next s) ∧
    (∀ (die : Fin 2) (counts : List Nat) (dc : Nat), s.dev.vcore = true → s.dev.freezes = .running →
      s.dev.rateAt.get die.val 0 + 2500 ≤ s.dev.now (commonDom die.val) → ∃ d : Dev,
      exec (.stepRateWindow die counts dc) s = .next { s with dev := d.finish } ∧
      d = { s.dev with regs := d.regs, rateDirty := d.rateDirty, rateDc := d.rateDc, rateAt := d.rateAt } ∧
      ∀ k, k < 24 →
        (k / 12 = die.val → (∀ i, i < 8 → s.dev.live (coreDom (8 * k + i)) = true) → bitOf s.dev.rateDirty k = false →
          let r := min 0xFFF (95 * counts.getD (k % 12) 0 / 1000)
          d.fld row_GEN_STEP_RATE k f_GEN_STEP_RATE_RATE = r ∧ d.fld row_GEN_STEP_RATE k f_GEN_STEP_RATE_VALID = 1 ∧
          d.fld row_GEN_STEP_RATE k f_GEN_STEP_RATE_RATE_MIN = min r (s.dev.fld row_GEN_STEP_RATE k f_GEN_STEP_RATE_RATE_MIN)) ∧
        (k / 12 = die.val → (∃ i, i < 8 ∧ s.dev.live (coreDom (8 * k + i)) = false) →
          d.fld row_GEN_STEP_RATE k f_GEN_STEP_RATE_RATE = 0 ∧ d.fld row_GEN_STEP_RATE k f_GEN_STEP_RATE_VALID = 0) ∧
        (k / 12 ≠ die.val → d.rd row_GEN_STEP_RATE k = s.dev.rd row_GEN_STEP_RATE k)) ∧
    ∀ k : Fin 24, ∃ d, exec (.clrMin k) s = .next { s with dev := d } ∧ d = { s.dev with regs := d.regs } ∧
      d.fld row_GEN_STEP_RATE k.val f_GEN_STEP_RATE_RATE_MIN = s.dev.fld row_GEN_STEP_RATE k.val f_GEN_STEP_RATE_RATE ∧
      d.fld row_GEN_STEP_RATE k.val f_GEN_STEP_RATE_RATE = s.dev.fld row_GEN_STEP_RATE k.val f_GEN_STEP_RATE_RATE ∧
      ∀ a v, a ≠ row_GEN_STEP_RATE.addr k.val → d.regs.get a v = s.dev.regs.get a v

/-! ### Stratum staging (R44, R45) -/

/-- The staging commands in a running device with none under way: CHECK reports admission and changes nothing else; COMMIT_FLASH
runs CHECK and, where it passes, erases the stratum area and goes on; APPLY_QOS goes on with a copy of the buffer; READ_ACTIVE
copies the stratum in force into the buffer and sets LENGTH. A staging command while another runs is ignored and sets CMD_DROPPED;
one in any PHASE but RUNNING is refused with FROZEN, in HALTING and THAWING by the model's choice (log 46).
Readings of the model that it rests on: log 29, 42, 46. -/
def Obligations.StagingCommands : Prop :=
  (∀ (s : State) (len : BitVec 10), s.dev.staging = none → s.dev.freezes = .running →
     let buf := s.dev.stageGrans len.toNat
     let code := (stageCheck buf len.toNat s.sec).1
     (∃ d, exec (.check len) s = .next { s with dev := d } ∧ staged d code ∧ d = { s.dev with regs := d.regs }) ∧
     (∃ d, exec (.commitFlash len) s = .next { s with dev := d } ∧
       (code ≠ 0 → staged d code ∧ d = { s.dev with regs := d.regs }) ∧
       (code = 0 → d.fld row_STR_STAGE_CTL 0 f_STR_STAGE_CTL_BUSY = 1 ∧
         d = { s.dev with regs := d.regs, flash := d.flash, staging := some ⟨2, len.toNat, buf, false⟩ } ∧
         ∀ i, 0x0100000 ≤ i → i < 0x0200000 → Tab.get d.flash i 0xFF = 0xFF)) ∧
     (∃ d, exec (.applyQos len) s = .next { s with dev := d } ∧ d.fld row_STR_STAGE_CTL 0 f_STR_STAGE_CTL_BUSY = 1 ∧
       d = { s.dev with regs := d.regs, staging := some ⟨3, len.toNat, buf, false⟩ }) ∧
     ∀ g, s.dev.strat = some g → g.readout.length ≤ 512 → ∃ d, exec .readActive s = .next { s with dev := d } ∧ staged d 0 ∧
       d = { s.dev with regs := d.regs } ∧ d.fld row_STR_STAGE_CTL 0 f_STR_STAGE_CTL_LENGTH = g.readout.length % 1024 ∧
       ∀ i v, g.readout[i]? = some v → ∀ j, j < 4 → d.rd row_STR_STAGE_BUF (4 * i + j) = granWord v j) ∧
  ∀ (s : State) (len : BitVec 10) (c : Instr), c = .check len ∨ c = .commitFlash len ∨ c = .applyQos len ∨ c = .readActive →
    (s.dev.staging.isSome = true → ∃ d, exec c s = .next { s with dev := d } ∧
      d.fld row_STR_STATUS 0 f_STR_STATUS_CMD_DROPPED = 1 ∧ d = { s.dev with regs := d.regs } ∧
      ∀ a v, a ≠ row_STR_STATUS.addr 0 → d.regs.get a v = s.dev.regs.get a v) ∧
    (s.dev.staging = none → s.dev.freezes ≠ .running → ∃ d, exec c s = .next { s with dev := d } ∧ staged d 0x3A ∧
      d = { s.dev with regs := d.regs })

/-- The later steps: the copied image is judged, LIVE_MISMATCH (0x38) where a section other than QOS differs; the adoption puts its
QOS section in force, everything else of the stratum kept, and counts QOS_GEN; COMMIT_FLASH ends with the image in the flash stratum
area. -/
def Obligations.StagingSteps : Prop :=
  ∀ (s : State) (t : Stage_) (g : Strat), s.dev.freezes = .running → s.dev.staging = some t → s.dev.strat = some g →
    (t.cmd = 3 → t.adopted = false → ∃ d : Dev, exec .qosCopyComplete s = .next { s with dev := d.finish } ∧
      let r := stageCheck t.buf t.len s.sec
      let same := ∀ k, k < 8 → k ≠ 4 → Img.body t.buf (k + 1) = Img.body g.image (k + 1)
      (r.1 ≠ 0 → staged d r.1 ∧ d = { s.dev with regs := d.regs, staging := none }) ∧
      (r.1 = 0 → ¬ same → staged d 0x38 ∧ d = { s.dev with regs := d.regs, staging := none }) ∧
      (r.1 = 0 → same → d = { s.dev with staging := some { t with adopted := true } })) ∧
    (t.cmd = 3 → t.adopted = true → ∃ d : Dev, exec .qosAdoptionComplete s = .next { s with dev := d.finish } ∧ staged d 0 ∧
      d.strat = some (g.withQos t.buf) ∧
      d = { s.dev with strat := d.strat, regs := d.regs, staging := none, setq := d.setq, insts := d.insts } ∧
      d.fld row_STR_ACTIVE_INFO 0 f_STR_ACTIVE_INFO_QOS_GEN =
        (s.dev.fld row_STR_ACTIVE_INFO 0 f_STR_ACTIVE_INFO_QOS_GEN + 1) % f_STR_ACTIVE_INFO_QOS_GEN.top.succ) ∧
    (t.cmd = 2 → t.adopted = false →
      (∃ d : Dev, exec (.commitFlashComplete true) s = .next { s with dev := d.finish } ∧ staged d 0 ∧
        d = { s.dev with regs := d.regs, flash := d.flash, staging := none } ∧
        ∀ i, Tab.get d.flash i 0xFF = if 0x0100000 ≤ i ∧ i < 0x0100000 + (gransBytes t.buf).length
          then (gransBytes t.buf).getD (i - 0x0100000) 0 else Tab.get s.dev.flash i 0xFF) ∧
      ∃ d : Dev, exec (.commitFlashComplete false) s = .next { s with dev := d.finish } ∧
        d.fld row_STR_STAGE_CTL 0 f_STR_STAGE_CTL_DONE = 1 ∧ d.staging = none ∧ d.flash = s.dev.flash ∧ d.mem = s.dev.mem)

/-! ### Loess engines (R74 to R92) -/

/-- Step 1 of a move: an engine that works, has fewer than 32 moves in flight and whose turn it is acquires the first queued move
for which a destination is free: the extent is MOVING and otherwise as it was, the journal holds an INTENT with source and
destination, memory and every other descriptor stay. Steps 2 to 4: with a set fenced the move is abandoned; a move that the engine's
ceilings do not admit waits, and so does one of a set with an instance that brings no data (a PLL without lock, R19); a block that an automatic move cannot read, or one that does not arrive, abandons the move; else the
codes of the blocks are written at the destination, those of a destination on the engine's own die as they were read, and the move
is ready to commit.
Readings of the model that it rests on: log 13, 14. -/
def Obligations.MovesBeginAndCopy : Prop :=
  (∀ (s : State) (j : Fin 4) (m : Move) (rest : List Move) (grp : Nat) (dst : Home),
     s.dev.loessRuns = true → s.dev.loessUp j.val = true → s.dev.movesHeld j.val < 32 → s.dev.moves = m :: rest → m.step = 0 →
     s.dev.groupOf m.ext = some grp → s.dev.turn grp j.val = true → s.dev.moveDo m [] = .go dst grp →
     ∃ d : Dev, exec (.moveAcquire j) s = .next { s with dev := d.finish } ∧
       d.desc m.ext = { s.dev.desc m.ext with st := .moving } ∧ (∀ y, y ≠ m.ext → d.desc y = s.dev.desc y) ∧
       d.moves.head? = some { m with
         engine := some j.val, src := (s.dev.desc m.ext).home, dst := dst, step := 1, since := s.dev.lived (loessDom j.val),
         journal := grp } ∧
       (∃ r ∈ (d.journal grp).recs, r.kind = 1 ∧ r.ext = m.ext ∧ r.src = (s.dev.desc m.ext).home ∧ r.dst = dst) ∧
       d.mem = s.dev.mem ∧ d.clay = s.dev.clay ∧ d.flash = s.dev.flash) ∧
  ∀ (s : State) (x : BitVec 28) (ph : Phys) (m : Move), s.dev.moveAt x.toNat [1] = true → s.dev.moveOf x.toNat = some m →
    let e := s.dev.desc x.toNat
    let j := m.engine.getD 0
    (s.dev.setFenced e.set = true ∨ s.dev.setFenced m.dst.set = true →
      exec (.moveQuiesceDone x ph) s = .next { s with dev := (s.dev.abandon x.toNat).finish }) ∧
    (s.dev.setFenced e.set = false → s.dev.setFenced m.dst.set = false →
      (s.dev.setStopped e.set = true ∨ s.dev.setStopped m.dst.set = true →
        exec (.moveQuiesceDone x ph) s = .next { s with dev := s.dev.finish }) ∧
      (s.dev.setStopped e.set = false → s.dev.setStopped m.dst.set = false →
      let rd := addCharge [] e.set e.used
      let read := (s.dev.charge (loessMaster j) rd).moveRead (loessAgent j) ph x.toNat m.kind.auto e.written
      (s.dev.ceilOk (loessMaster j) (addCharge rd m.dst.set e.used) = false →
        exec (.moveQuiesceDone x ph) s = .next { s with dev := s.dev.finish }) ∧
      (s.dev.ceilOk (loessMaster j) (addCharge rd m.dst.set e.used) = true →
        (∀ d1, read = (none, d1) →
          exec (.moveQuiesceDone x ph) s = .next { s with dev := ((d1.discharge (loessMaster j) rd).abandon x.toNat).finish }) ∧
        ∀ codes d1, read = (some codes, d1) → (d1.discharge (loessMaster j) rd).moveOf x.toNat = some m →
          (∀ d2, (d1.discharge (loessMaster j) rd).placeBlocks_ (loessAgent j) ph e m.dst codes = (false, d2) →
            exec (.moveQuiesceDone x ph) s = .next { s with dev := (d2.abandon x.toNat).finish }) ∧
          (d1.setFenced m.dst.set = false → d1.setDie m.dst.set = dieOfLoess j →
            ∃ d : Dev, exec (.moveQuiesceDone x ph) s = .next { s with dev := d.finish } ∧
              d.mem = (d1.each codes fun d c => d.putCodes m.dst.set (e.blkAt m.dst c.1) c.2).mem ∧
              (∀ n ∈ d.moves, n.ext = x.toNat → n.step = 0 ∨ n.step = 4)))))

/-- Steps 5 and 6 and the abandonment of a move. The commit, within the move's bound, makes the extent STABLE at its destination,
its blocks, tensor, region and rights as they were, its mirror dropped where it is in topsoil from then on; the release takes the
move off the list; a move past its bound before the commit is abandoned: the extent is STABLE where it was. No byte of memory
changes.
Readings of the model that it rests on: log 20. -/
def Obligations.MoveCommitReleaseAbandon : Prop :=
  ∀ (s : State) (x : BitVec 28) (m : Move), s.dev.moveOf x.toNat = some m →
    (s.dev.moveAt x.toNat [4] = true → s.dev.moveLate x.toNat = false → ∃ d : Dev, exec (.moveCommit x) s = .next { s with dev := d.finish } ∧
      (d.desc x.toNat).st = .stable ∧ (d.desc x.toNat).home = m.dst ∧
      d.desc x.toNat = { s.dev.desc x.toNat with
        st := .stable, sub := m.dst.sub, set := m.dst.set, loc := m.dst.loc, slabs := m.dst.slabs,
        age := (d.desc x.toNat).age, touched := (d.desc x.toNat).touched, poisoned := (d.desc x.toNat).poisoned,
        mirror := if m.dst.sub then (s.dev.desc x.toNat).mirror else none } ∧
      d.mem = s.dev.mem ∧
      (s.dev.poison = [] → (∀ y, y ≠ x.toNat → d.desc y = s.dev.desc y) ∧
        d.moves = s.dev.moves.map (fun n => if n.ext = x.toNat ∧ n.step ≠ 0 then { n with step := 5, charge := [] } else n))) ∧
    (s.dev.moveAt x.toNat [5] = true → ∃ d : Dev, exec (.moveRelease x) s = .next { s with dev := d.finish } ∧
      d.moveOf x.toNat = none ∧ d.descs = s.dev.descs ∧ d.mem = s.dev.mem ∧
      ∀ r ∈ (d.journal m.journal).recs, r.ext ≠ x.toNat) ∧
    (s.dev.moveAt x.toNat [1, 2, 3, 4] = true → s.dev.moveLate x.toNat = true → ∃ d : Dev,
      exec (.moveAbandon x) s = .next { s with dev := d.finish } ∧ d.moveOf x.toNat = none ∧
      d.desc x.toNat = { s.dev.desc x.toNat with st := .stable } ∧ (∀ y, y ≠ x.toNat → d.desc y = s.dev.desc y) ∧
      d.mem = s.dev.mem)

/-- A sweep of a group: when its period has passed, none runs and the ceiling of the engine admits its reads, every extent of the group that is not FREE gets TOUCHED 0 with AGE
0 where it was touched, else AGE one higher up to 255; other groups keep theirs. Its end clears the heat of the group, counts
SWEEPS, and leaves no sweep running. The demotion policy queues demotions only: of extents that are STABLE in topsoil and neither
pinned, read-only, touched, poisoned nor of a reclaiming region; at or above LOW_WM it queues nothing unless demotion is under way,
and at or above HIGH_WM nothing at all. Watermarks are taken together, and only with HIGH_WM above LOW_WM.
Readings of the model that it rests on: log 14, 35. -/
def Obligations.SweepsAndPoolDemotion : Prop :=
  (∀ (s : State) (g : Fin 16), s.dev.loessRuns = true →
     (∀ j, s.dev.sweeper g.val = some j → (s.dev.sweep g.val).running = false →
       s.dev.sweepTicks ≤ s.dev.sweepAge g.val j →
       (∀ k, s.dev.strat.bind (fun g' => g'.metaSet g.val) = some k → s.dev.ceilOk (loessMaster j) [(k, 1)] = true) →
       ∃ d : Dev, exec (.ageSweep g) s = .next { s with dev := d.finish } ∧ (d.sweep g.val).running = true ∧
         d = { s.dev with descs := d.descs, sweeps := d.sweeps } ∧
         ∀ x e, (x, e) ∈ s.dev.descs → e.st ≠ .free →
           (x, if s.dev.groupOf x = some g.val then
               (if e.touched then { e with touched := false, age := 0 } else { e with age := max e.age (min 255 (e.age + 1)) })
             else e) ∈ d.descs) ∧
     ((s.dev.sweep g.val).running = true → ∃ d : Dev, exec (.ageSweepComplete g) s = .next { s with dev := d.finish } ∧
       (d.sweep g.val).running = false ∧ d = { s.dev with heat := d.heat, regs := d.regs, sweeps := d.sweeps } ∧
       (∀ h ∈ d.heat, h ∈ s.dev.heat ∧ s.dev.groupOf (h.1 % 2 ^ 28) ≠ some g.val) ∧
       d.fld row_LSS_SWEEP_STATUS 0 f_LSS_SWEEP_STATUS_SWEEPS =
         (s.dev.fld row_LSS_SWEEP_STATUS 0 f_LSS_SWEEP_STATUS_SWEEPS + 1) % (f_LSS_SWEEP_STATUS_SWEEPS.top + 1))) ∧
  ∀ (s : State) (g : Fin 16),
    (s.dev.loessRuns = true → ∃ d : Dev, exec (.poolDemote g) s = .next { s with dev := d.finish } ∧
      (∃ l, d.moves = s.dev.moves ++ l ∧ ∀ m ∈ l, m.kind = .demoteAuto ∧ m.step = 0 ∧ s.dev.victimOk m.ext = true ∧
        s.dev.groupOf m.ext = some g.val) ∧
      d.descs = s.dev.descs ∧ d.mem = s.dev.mem ∧
      ((s.dev.sweep g.val).demoting = false →
        s.dev.fld row_LSS_POOL g.val f_LSS_POOL_LOW_WM * s.dev.poolSize g.val ≤ s.dev.poolFree g.val * 1024 →
        d = { s.dev with sweeps := d.sweeps }) ∧
      (s.dev.fld row_LSS_POOL g.val f_LSS_POOL_HIGH_WM * s.dev.poolSize g.val ≤ s.dev.poolFree g.val * 1024 →
        d = { s.dev with sweeps := d.sweeps })) ∧
    ∀ v, ∃ d, exec (.lssPoolWmWrite g v) s = .next { s with dev := d } ∧
      (f_LSS_POOL_HIGH_WM.get v ≤ f_LSS_POOL_LOW_WM.get v → d = s.dev) ∧
      (f_LSS_POOL_LOW_WM.get v < f_LSS_POOL_HIGH_WM.get v → d = { s.dev with regs := d.regs } ∧
        d.fld row_LSS_POOL g.val f_LSS_POOL_LOW_WM = f_LSS_POOL_LOW_WM.get v ∧
        d.fld row_LSS_POOL g.val f_LSS_POOL_HIGH_WM = f_LSS_POOL_HIGH_WM.get v ∧
        ∀ a w, a ≠ row_LSS_POOL.addr g.val → d.regs.get a w = s.dev.regs.get a w)

/-- The fill of a layer into its window slots. While a plan has a fill queued and none in hand, an engine takes the first, where its
ceilings admit it and no instance concerned is without the lock of its PLL; a layer of one extent that can be read ends with its blocks in the slot, not READY before the fill completes, one
whose copy fails is bad. With no engine left every slot that a queued fill would take is bad. The completion of a fill makes the
slots READY that are not bad, and the next fill may start.
Readings of the model that it rests on: log 35. -/
def Obligations.WindowFills : Prop :=
  ∀ (s : State) (p : Fin 64) (l q : Nat) (t : List (Nat × Nat)), s.dev.loessRuns = true →
    (s.dev.plan p.val).fills = (l, q) :: t →
    let x := s.dev.plan p.val
    let grp := (s.dev.set? x.set).elim 0 (·.group)
    let es := s.dev.enginesOf grp
    let c := s.dev.fillCharge x (x.ring l q)
    (∀ ph, x.filling = false → es = [] → ∃ d : Dev, exec (.windowFill p ph) s = .next { s with dev := d.finish } ∧
      d = { s.dev with plans := d.plans } ∧
      ∀ i w, i ∈ (x.ring l q).map (·.1) → (d.plan p.val).slots[i]? = some w → w.bad = true ∧ w.ready = false) ∧
    (∀ ph j, x.filling = false → es[s.dev.rr.get grp 0 % max 1 es.length]? = some j →
      s.dev.ceilOk (loessMaster j) (c.2.foldl (fun o c => addCharge o c.1 c.2) c.1) = true →
      (∀ k ∈ c.1 ++ c.2, s.dev.setStopped k.1 = false) →
      (∃ d : Dev, exec (.windowFill p ph) s = .next { s with dev := d.finish }) ∧
      ∀ i f w y good d2, x.ring l q = [(i, f)] → x.slots[i]? = some w → mapAt (s.dev.rgn x.region).runs f = some y →
        (s.dev.desc y).reload = false → (s.dev.desc y).codec = false →
        let d1 := ((({ s.dev with rr := s.dev.rr.upd grp 0 (· + 1) }).charge (loessMaster j) c.1).charge (loessMaster j) c.2).updPlan p.val
          fun x => { x with filling := true, engine := some j, charge := c.2 }
        (d1.slotClear w).copyBlocks (loessAgent j) ph y ⟨false, w.set, w.loc, 0⟩ (s.dev.desc y).written = (good, d2) →
        ∃ d : Dev, exec (.windowFill p ph) s = .next { s with dev := d.finish } ∧ d.mem = d2.mem ∧
          (d.plan p.val).slots = (d2.plan p.val).slots.set i
            ⟨w.set, w.loc, false, some l, y, !good, (s.dev.desc y).tensor, 0, if good then (s.dev.desc y).len else 0⟩) ∧
    (∀ j, x.filling = true → x.engine = some j → s.dev.live (loessDom j) = true →
      ∃ d : Dev, exec (.windowFillComplete p) s = .next { s with dev := d.finish } ∧
        d = { s.dev with plans := d.plans, setq := d.setq } ∧
        (d.plan p.val).fills = t ∧ (d.plan p.val).filling = false ∧ (d.plan p.val).engine = none ∧
        ∀ i, (d.plan p.val).slots[i]? = x.slots[i]?.map fun w =>
          if i ∈ (x.ring l q).map (·.1) then { w with ready := !w.bad } else w)

/-- The clearing of a reclaiming region, once no binding reaches it: the extents of the next 256 in map order, up to one that is
MOVING, become FREE, and RECLAIM_CURSOR moves on only after a whole batch of 256; memory stays. When every extent of the region is
FREE, the region is FREE with all that it held gone, and its REGION_RECLAIM completes with status 0. -/
def Obligations.ReclaimClearsAndCompletes : Prop :=
  ∀ (s : State) (r : BitVec 14), s.dev.clearing r.toNat = true →
    let g := s.dev.rgn r.toNat
    let ids := (((mapList g.runs).drop g.cursor).take 256).takeWhile fun x => (s.dev.desc x).st ≠ .moving
    (s.dev.clearOk r.toNat = true → ∃ d : Dev, exec (.reclaimClear r) s = .next { s with dev := d.finish } ∧
      (∀ x ∈ ids, (d.desc x).st = .free) ∧ (∀ x, x ∉ ids → (d.desc x).st = (s.dev.desc x).st) ∧ d.mem = s.dev.mem ∧
      d.ctxs = s.dev.ctxs ∧ d.beds = s.dev.beds ∧ (∀ k, k ≠ r.toNat → d.rgn k = s.dev.rgn k) ∧
      d.rgn r.toNat = { g with cursor := if ids.length = 256 then g.cursor + 256 else g.cursor }) ∧
    (s.dev.reclaimed r.toNat = true →
      exec (.reclaimComplete r) s = .next { s with dev := (({ s.dev with rgns := s.dev.rgns.set r.toNat {} {} }).completeOpt g.cmd 0 0 0).finish })

/-- PROMOTE, DEMOTE and UNLOAD of PLAN_LOAD, started on a queue with their checks passed: each extent of the range that is not
read-only is queued to move, in order; UNLOAD leaves no plan under its number, and completes with status 0 and the number. -/
def Obligations.LoessRingCommands : Prop :=
  ∀ (s : State) (q : Queue) (e : Entry) (d0 : Dev) (c : Nat), s.dev.starts q e = some d0 → d0.cmdCheck q e = (0, c) →
    let ref := d0.cmdRef q e
    let queued := fun (d : Dev) (kind : MKind) (x : Nat) => ({
      ext := x, kind := kind, want := none, pin := false, cmd := some ref, engine := none, src := (d.desc x).home,
      dst := (d.desc x).home, step := 0, since := 0, journal := 0 } : Move)
    (∀ xs d1 ph, e.opc = 0x12 → extRange (e.arg 0) (bits (e.arg 1) 0 28) = true → bitOf (e.arg 1) 32 = false →
      bitOf (e.arg 1) 33 = false →
      d0.xlExts (d0.ringAgent (d0.ctx c).port) ph c (e.arg 0 / 65536) (bits (e.arg 1) 0 28) = ((0, xs), d1) →
      exec (.promote q ⟨e, ph⟩) s = .next { s with dev := ({ d1 with
        moves := d1.moves ++ (xs.filter fun x => !(d1.desc x).ro && !(d1.desc x).reload).map (queued d1 .promoteCmd) }).finish }) ∧
    (∀ xs d1 ph, e.opc = 0x13 → extRange (e.arg 0) (bits (e.arg 1) 0 28) = true →
      d0.xlExts (d0.ringAgent (d0.ctx c).port) ph c (e.arg 0 / 65536) (bits (e.arg 1) 0 28) = ((0, xs), d1) →
      ((∀ x ∈ xs, (d1.desc x).pin = false) → exec (.demote q ⟨e, ph⟩) s = .next { s with dev := ({ d1 with
        moves := d1.moves ++ (xs.filter fun x => !(d1.desc x).ro && !(d1.desc x).reload).map (queued d1 .demoteCmd) }).finish }) ∧
      ((∃ x ∈ xs, (d1.desc x).pin = true) →
        exec (.demote q ⟨e, ph⟩) s = .next { s with dev := (d1.complete ref 0x212 0 0).finish })) ∧
    ∀ ph, e.opc = 0x11 → bits (e.arg 0) 0 2 = 1 → (d0.plan (e.arg 2)).st ≠ .none_ → (d0.plan (e.arg 2)).ctx = c →
      ∃ d : Dev, exec (.planLoad q e ph) s = .next { s with dev := (d.complete ref 0 (e.arg 2) 0).finish } ∧
        d.plan (e.arg 2) = {} ∧ (∀ k, k ≠ e.arg 2 → d.plan k = d0.plan k) ∧ d.mem = d0.mem ∧ d.descs = d0.descs

/-! ### Grade tables (R93, R111, R114, R118 to R121) -/

/-- TABLE_INSTALL, TABLE_FIT, TABLE_RECODE and TABLE_RELEASE, started with their checks passed. An allocation gives the first
identifier of the partition that is free; an install of a record that is accepted fills the target slot ACTIVE with its lengths and
a new serial, a slot that was ACTIVE before is so no longer; a fit and a recode begin on a tensor of the caller that runs none; a
release needs a tensor with no extent, no stored block and no reference (a fit or recode of it that still runs ends with 0x213: the
model's choice, log 44). The end of a fit writes its counts through the window of its context, once no extent of it is MOVING, and,
with INSTALL, fills the target slot with the lengths fitted to them; the end of a recode with nothing to rewrite completes it with
zero counts; a record that a cache without the table reads twice with a bad CHECK makes the slot LOST; one that is good is in the
cache, and a decoder's miss is counted and charged.
Readings of the model that it rests on: log 18, 36, 44. -/
def Obligations.GradeTables : Prop :=
  (∀ (s : State) (q : Queue) (e : Entry) (ph : Phys) (d0 : Dev) (c : Nat), s.dev.starts q e = some d0 → d0.cmdCheck q e = (0, c) →
     let ref := d0.cmdRef q e
     let ok := fun (d : Dev) (t : Nat) => ({ s with dev := (d.complete ref 0 t 0).finish } : State)
     let t := bits (e.arg 0) 0 11
     (e.opc = 0x14 → bitOf (e.arg 0) 13 = true →
       let r := d0.tensorRange (d0.portPart (d0.ctx c).port)
       ∀ k, k < r.2 → (d0.tensor (r.1 + k)).alloc = false → (∀ i, i < k → (d0.tensor (r.1 + i)).alloc = true) →
         ∃ d, exec (.tableInstall q e ph) s = .next (ok d (r.1 + k)) ∧ d = { d0 with tensors := d.tensors } ∧
           d.tensor (r.1 + k) = {
             alloc := true, tenant := (d0.ctx c).tenant, width4 := bitOf (e.arg 0) 12, host := some (d0.ctx c).port } ∧
           ∀ y, y ≠ r.1 + k → d.tensor y = d0.tensor y) ∧
     (∀ b gs d1, e.opc = 0x14 → bitOf (e.arg 0) 13 = false → d0.tensorMine c t = true → (d0.tensor t).target = some b →
       d0.readWindow (d0.ringAgent (d0.ctx c).port) ph c (e.arg 1) 8 rR = ((0, gs), d1) →
       recordFault (gransBytes gs) = none → ∃ d, exec (.tableInstall q e ph) s = .next (ok d t) ∧
         ((d.tensor t).slot b).st = .active ∧ ((d.tensor t).slot b).lens = recLens (gransBytes gs) ∧
         ((d.tensor t).slot b).serial = d1.serial + 1 ∧ ((d.tensor t).slot b).stored = 0 ∧ ((d.tensor t).slot (!b)).st ≠ .active ∧
         d.mem = d1.mem ∧ ∀ y, y ≠ t → d.tensor y = d1.tensor y) ∧
     (e.opc = 0x15 → bits (e.arg 0) 16 16 ≠ 0 → d0.tensorMine c t = true → (d0.tensor t).fit = none →
       ∃ d : Dev, exec (.tableFit q e) s = .next { s with dev := d.finish } ∧ d = { d0 with tensors := d.tensors } ∧
         d.tensor t = { d0.tensor t with
           fit := some (ref, bits (e.arg 0) 16 16, bitOf (e.arg 0) 32, e.arg 1, c), counts := [] } ∧
         ∀ y, y ≠ t → d.tensor y = d0.tensor y) ∧
     (e.opc = 0x16 → d0.tensorMine c (e.arg 0) = true → (d0.tensor (e.arg 0)).recode = none →
       ∃ d : Dev, exec (.tableRecode q e) s = .next { s with dev := d.finish } ∧ d = { d0 with tensors := d.tensors } ∧
         d.tensor (e.arg 0) = { d0.tensor (e.arg 0) with recode := some ref } ∧ ∀ y, y ≠ e.arg 0 → d.tensor y = d0.tensor y) ∧
     (e.opc = 0x17 → d0.tensorMine c (e.arg 0) = true →
       let x := d0.tensor (e.arg 0)
       (x.extents = 0 → x.a.stored = 0 → x.b.stored = 0 → x.a.refs = 0 → x.b.refs = 0 →
         ∃ d : Dev, exec (.tableRelease q e) s =
             .next (ok ((d.completeOpt (x.fit.map (·.1)) 0x213 0 0).completeOpt x.recode 0x213 0 0) (e.arg 0)) ∧
           d = { d0 with tensors := d.tensors, tcache := d.tcache } ∧
           d.tensor (e.arg 0) = {} ∧ ∀ y, y ≠ e.arg 0 → d.tensor y = d0.tensor y) ∧
       (x.extents ≠ 0 → exec (.tableRelease q e) s = .next { s with dev := (d0.complete ref 0x216 0 0).finish }))) ∧
  ∀ (s : State) (t : BitVec 11),
    (∀ ref inst addr c d1 ph, s.dev.serving = true → (s.dev.tensor t.toNat).fit = some (ref, 0, inst, addr, c) →
      s.dev.windowMoving c addr 34 = false →
      (s.dev.updTensor t.toNat fun x => { x with fit := none, counts := [] }).writeWindow
        (s.dev.ringAgent (s.dev.ctx c).port) ph c addr (fitGrans (s.dev.tensor t.toNat).counts) [] = (0, d1) →
      (inst = false → exec (.tableFitComplete ⟨t, ph⟩) s = .next { s with dev := (d1.complete ref 0 t.toNat 0).finish }) ∧
      ∀ b, inst = true → (d1.tensor t.toNat).target = some b → ∃ d : Dev,
        exec (.tableFitComplete ⟨t, ph⟩) s = .next { s with dev := (d.complete ref 0 t.toNat 0).finish } ∧
        ((d.tensor t.toNat).slot b).st = .active ∧
        ((d.tensor t.toNat).slot b).lens = fitLens ((List.range 272).map fun k => (s.dev.tensor t.toNat).counts.get k 0) ∧
        ((d.tensor t.toNat).slot (!b)).st ≠ .active) ∧
    (∀ ref ph, s.dev.loessRuns = true → (s.dev.tensor t.toNat).recode = some ref → s.dev.recodeList t.toNat = [] →
      ∃ d : Dev, exec (.recodeComplete t ph) s = .next { s with dev := (d.complete ref 0 0 0).finish } ∧
        d = { s.dev with tensors := d.tensors } ∧ d.tensor t.toNat = { s.dev.tensor t.toNat with recode := none }) ∧
    (∀ ref ph, s.dev.loessRuns = true → (s.dev.tensor t.toNat).recode = some ref →
      s.dev.recodeOk (s.dev.recodeList t.toNat) = true →
      ∃ d : Dev, exec (.recodeComplete t ph) s = .next { s with dev := d.finish } ∧ (d.tensor t.toNat).recode = none) ∧
    ∀ (site : Fin 52) (gen : Fin 2), s.dev.working = true → (s.dev.tableOf t.toNat (gen.val == 1)).isSome = true →
      s.dev.cached site.val t.toNat (gen.val == 1) = false →
      (∃ d : Dev, exec (.tableRecordFetch site t gen ⟨0, {}⟩) s = .next { s with dev := d.finish } ∧
        d.cached site.val t.toNat (gen.val == 1) = true ∧
        d = { s.dev with tcache := d.tcache, regs := d.regs, setq := d.setq, insts := d.insts } ∧
        (48 ≤ site.val → d = { s.dev with tcache := d.tcache }) ∧
        (site.val < 48 → d.fld row_GRD_DEC_CNT (site.val / 2) f_GRD_DEC_CNT_MISS =
          (s.dev.fld row_GRD_DEC_CNT (site.val / 2) f_GRD_DEC_CNT_MISS + 1) % (f_GRD_DEC_CNT_MISS.top + 1))) ∧
      (∀ bad ph, ∃ d : Dev, exec (.tableRecordFetch site t gen ⟨bad, ph⟩) s = .next { s with dev := d.finish }) ∧
      ∃ d : Dev, exec (.tableRecordFetch site t gen ⟨2, {}⟩) s = .next { s with dev := d.finish } ∧
        (((d.tensor t.toNat).slot (gen.val == 1)).st = .lost ∨ ((d.tensor t.toNat).slot (gen.val == 1)).st = .empty) ∧
        ((d.tensor t.toNat).slot (gen.val == 1)).lens = [] ∧ d.mem = s.dev.mem

/-! ### Beds: words, operand reads, switches (R144, R170 to R188) -/

/-- The issue of the word at PC of the context that runs on a bed. Without a live core the program stops with BED_FENCED; a word
that the bed's ceiling does not let it fetch waits; one that cannot be fetched stops it with FETCH_FAULT, one that the encoding
checks refuse with ILLEGAL, one on which two cores differ for good with CONTROL_FAULT; otherwise the word runs.
Readings of the model that it rests on: log 9, 34. -/
def Obligations.WordIssueRunsOrStops : Prop :=
  ∀ (s : State) (b : Fin 8) (c ahead : Nat) (dis1 dis2 : List (Nat × Nat)) (ph : Phys), s.dev.issues b.val = some c →
    let x := s.dev.ctx c
    let e := s.dev.updBed b.val fun y => { y with curSlot := x.slot.getD y.curSlot }
    let d0 := if (s.dev.bed b.val).run.isNone && (s.dev.bed b.val).pend.isNone then e.updCtx c fun x => { x with yield := false } else e
    let d1 := d0.fetchAhead b.val c ph x.pc.toNat ahead
    let answers := fun (d : Dev) => exec (.wordIssue b ahead dis1 dis2 ph) s = .next { s with dev := d.finish }
    (s.dev.liveCores b.val = [] → answers ((d0.updCtx c fun x => { x with stop := none }).wordStop c 0x10C x.pc 0)) ∧
    (s.dev.liveCores b.val ≠ [] → d1.buffered b.val x.pc.toNat = false → answers d1) ∧
    (s.dev.liveCores b.val ≠ [] → d1.buffered b.val x.pc.toNat = true →
      (∀ st, d1.wordAt b.val x.pc.toNat = (none, st) → answers (d1.wordStop c 0x112 x.pc st)) ∧
      ∀ w st, d1.wordAt b.val x.pc.toNat = (some w, st) →
        let t0 := slotOf (w.toNat % 2 ^ 64)
        let t1 := slotOf (bits w.toNat 64 64)
        let ts : BitVec 128 := w.extractLsb' 128 128
        let legal := (slotsOk t0 t1 && tslotOk ts) = true
        let jumps := (!x.resumeT && (t0.badJump x || t1.badJump x)) = true
        let texec := slotTop ts ≠ 0 && (x.resumeT || x.pGet (sf ts 118 116) != bitOf ts.toNat 119)
        let acc := if x.resumeT then [] else ([t0, t1] : List Slot).filterMap fun t => t.access x
        (¬ legal ∨ jumps → answers (d1.wordStop c 0x110 x.pc 0)) ∧
        (legal → ¬ jumps → (texec && (s.dev.bed b.val).pend.isSome) = false → acc.any (d1.accessWaits b.val) = false →
          (texec = false → acc.any (·.2.2) = false →
            answers ((d1.wordRun b.val c ph w x.resumeT false).wordBoundary b.val)) ∧
          ∀ ok d2, (texec = true ∨ acc.any (·.2.2) = true) → d1.signatures b.val dis1 dis2 = (ok, d2) →
            (ok = true → answers ((d2.wordRun b.val c ph w x.resumeT texec).wordBoundary b.val)) ∧
            (ok = false → answers (d2.wordStop c 0x111 x.pc 0))))

/-- The reads of a source of the pending operation. Their issue places every granule and takes the reservation, which waits for room
in clay, then the charge, which waits for the ceiling. The application of a read takes its blocks and their charge off what is left:
of an operation that has failed it reads nothing; a block that is gone is POISON; where a length has changed the blocks are read
again, eight times in a row at most, each time charged anew and issued when the ceiling admits it; else they come into clay. The running operation executes with the last of its reads.
Readings of the model that it rests on: log 31, 32, 44. -/
def Obligations.OperandReads : Prop :=
  ∀ (s : State) (b i : Fin 8),
    (∀ (o : TOp) ps d1 ph, (s.dev.bed b.val).pend = some o → s.dev.switchPick b.val = false → s.dev.mayIssue b.val i.val o = true →
      s.dev.mayReissue b.val i.val = false →
      o.indexed i.val = false → (o.src i.val).todo = [] → (o.src i.val).applied = false →
      s.dev.whereAll (s.dev.bedAgent b.val) ph o (o.needGrans i.val []) = (ps, d1) → (d1.bed b.val).pend = some o →
      (∀ e ∈ ps, ∀ st, e.2.2 ≠ .bad st) → (∀ e ∈ ps, e.2.2 ≠ .notReady) →
      let bs := d1.readBlocks o i.val (ps.filterMap fun e => match e.2.2 with
        | .at_ p g k => some (e.1, e.2.1, p, g, k)
        | _ => none)
      let resv := (bs.map (·.resv)).sum
      let o1 := o.updSrc i.val fun r => { r with todo := bs, resv := resv, applied := bs.isEmpty, rid := d1.nextId }
      (d1.clayRoom b.val o i.val resv = false → exec (.prefetch b ⟨i, ph⟩) s = .next { s with dev := d1.finish }) ∧
      (d1.clayRoom b.val o i.val resv = true →
        (d1.ceilOk (bedMaster b.val) (readCharges bs) = false →
          exec (.prefetch b ⟨i, ph⟩) s = .next { s with dev := (({ d1 with nextId := d1.nextId + 1 } : Dev).updPend b.val fun _ => o1).finish }) ∧
        (d1.ceilOk (bedMaster b.val) (readCharges bs) = true → ∃ d : Dev, exec (.prefetch b ⟨i, ph⟩) s = .next { s with dev := d.finish } ∧
          d.mem = d1.mem ∧ d.nextId = d1.nextId + 1 ∧
          (d.bed b.val).pend = some (o1.updSrc i.val fun r => { r with issued := true })))) ∧
    (∀ o ph, s.dev.readsOf b.val i.val = some o → s.dev.mayReissue b.val i.val = true →
      ∃ d : Dev, exec (.prefetch b ⟨i, ph⟩) s = .next { s with dev := d.finish } ∧ d.mem = s.dev.mem ∧
        d = { s.dev with beds := d.beds, setq := d.setq } ∧
        ∃ o' : TOp, d.readsOf b.val i.val = some o' ∧ o'.agains i.val = [] ∧ (o'.src i.val).todo.length = (o.src i.val).todo.length) ∧
    (∀ (o : TOp) n errs order ph, s.dev.readDue b.val i.val n = true → s.dev.runReads b.val i.val = false →
      (s.dev.bed b.val).pend = some o →
      let now := o.nextReads i.val n
      let left := (o.src i.val).todo.filter fun w => !now.contains w
      let d1 := (s.dev.discharge (bedMaster b.val) (readCharges now)).updPend b.val fun o => o.updSrc i.val fun r =>
        { r with todo := left, came := true, applied := left.isEmpty }
      let again := now.map fun w =>
        let k := s.dev.resvOf (w.own && o.transitRole i.val) w.place
        { w with
          resv := k, tries := if k = w.resv then 0 else w.tries + 1, again := true, set := s.dev.placeSet w.place,
          charge := s.dev.blockCharge (w.own && o.transitRole i.val) w.place w.grans.length }
      let same := (again.map (·.resv)).sum = (now.map (·.resv)).sum
      let answers := fun (d : Dev) => exec (.operandReadApply b ⟨i, n, errs, order⟩ ph) s = .next { s with dev := d.finish }
      (o.status ≠ 0 → answers d1) ∧
      (o.status = 0 → (∃ w ∈ now, s.dev.placeId w.place = none) → answers (d1.updPend b.val fun o => o.fail 0x07)) ∧
      (o.status = 0 → (∀ w ∈ now, s.dev.placeId w.place ≠ none) →
        (¬ same → (∃ w ∈ again, 8 ≤ w.tries) →
          answers (s.dev.updPend b.val fun o => (o.fail 0x10D).updSrc i.val fun r => { r with applied := true })) ∧
        (¬ same → (∀ w ∈ again, w.tries < 8) → ∃ d : Dev, answers d ∧ d.mem = s.dev.mem ∧
          ∃ o' : TOp, (d.bed b.val).pend = some o' ∧ o'.status = 0 ∧
            (o'.src i.val).todo = again ++ left) ∧
        (same → (∀ d2, d1.fillTag b.val o.ctx ph = (false, d2) →
            answers ((d2.readsDone o.ctx now).updPend b.val fun o => o.fail 0x10A)) ∧
          ∀ d2 w, now = [w] → d1.fillTag b.val o.ctx ph = (true, d2) →
            let a := (d2.readsDone o.ctx now).bedAgent b.val
            let d3 := match w.place with
              | .ext x _ => (d2.readsDone o.ctx now).touch x
              | _ => d2.readsDone o.ctx now
            ((w.own && o.transitRole i.val) = false →
              (∀ d4, d3.laneRead a ph b.val o i.val (o.src i.val).held.length w = (none, d4) →
                answers (d4.updPend b.val fun o => o.fail 0x07)) ∧
              ∀ l d4, d3.laneRead a ph b.val o i.val (o.src i.val).held.length w = (some l, d4) →
                answers (d4.updPend b.val fun o => o.updSrc i.val fun r => { r with data := addData r.data l })) ∧
            ((w.own && o.transitRole i.val) = true → ∀ k l d4, d3.transitRead a ph w.place = (some (k, l), d4) →
              ∃ d : Dev, answers d ∧ d.mem = d4.mem ∧ ∃ refs, (d.bed b.val).pend = (d4.bed b.val).pend.map fun q =>
                { q.updSrc i.val fun r => { r with held := r.held ++ [⟨k, w.grans, l⟩] } with refs := refs })))) ∧
    ∀ n errs order ph, s.dev.readDue b.val i.val n = true → s.dev.runReads b.val i.val = true →
      let d1 := s.dev.readApply b.val i.val n ph
      ∃ d2 : Dev, d2 = { d1 with regs := d2.regs, free := d2.free } ∧
        exec (.operandReadApply b ⟨i, n, errs, order⟩ ph) s = .next { s with dev := ((d2.bed b.val).run.elim d2 fun o =>
          if o.status = 0 ∧ o.present = true then d2.opBody b.val errs order ph o else d2).finish }

/-- A context switch, once the reads that the pending operation has issued are in: the next ready context of the bed runs, SWITCHES
is counted, nothing runs or waits on the bed, and a pending operation is not lost: its context resumes at its word, tensor slot
first. The state of the outgoing context is written to its control area in the metadata; the rest of memory stays. A sleep whose
timeout expires returns all ones in the register SLEEP named.
Readings of the model that it rests on: log 34. -/
def Obligations.ContextSwitchAndSleep : Prop :=
  ∀ (s : State),
    (∀ (b : Fin 8) n, s.dev.working = true → s.dev.switchDue b.val = true → s.dev.nextCtx b.val = some n →
      ∃ d : Dev, exec (.contextSwitch b) s = .next { s with dev := d.finish } ∧ d.clay = s.dev.clay ∧
        let area := fun (k j : Nat) => s.dev.fixedPlace (s.dev.portPart (s.dev.ctx k).port) (ctrlOff + 512 * k + 128 + j)
        (∀ a, (∀ k j g, (s.dev.bed b.val).cur = some k → j < 64 → area k j = some g →
            a < granKey g.1 g.2 * 64 ∨ granKey g.1 g.2 * 64 + 36 ≤ a) → Tab.get d.mem a 0 = Tab.get s.dev.mem a 0) ∧
        (∀ k j g, (s.dev.bed b.val).cur = some k → j < 64 → area k j = some g → s.dev.setFenced g.1 = false →
          d.memGet g.1 g.2 = loamEncode ((d.ctx k).image (d.sleepLeft k) j)) ∧
        (d.bed b.val).cur = some n ∧ (d.bed b.val).run = none ∧ (d.bed b.val).pend = none ∧ (d.bed b.val).ibuf = [] ∧
        (∀ k, k ≠ b.val → d.bed k = s.dev.bed k) ∧
        (∀ o, (s.dev.bed b.val).pend = some o → (d.ctx o.ctx).resumeT = true ∧ (d.ctx o.ctx).pc = o.pc ∧
          (d.ctx o.ctx).nextPc = (s.dev.ctx o.ctx).pc) ∧
        d.fld row_BED_OPS b.val f_BED_OPS_SWITCHES =
          (s.dev.fld row_BED_OPS b.val f_BED_OPS_SWITCHES + 1) % (f_BED_OPS_SWITCHES.top + 1)) ∧
    ∀ (c : Fin 4096), s.dev.sleepDue c.val = true → (s.dev.ctx c.val).st ≠ .parked → (s.dev.ctx c.val).parking = false →
      (s.dev.ctx c.val).needsArea = false →
      ∃ d : Dev, exec (.sleepTimeout c) s = .next { s with dev := d.finish } ∧ d = { s.dev with ctxs := d.ctxs } ∧
        (d.ctx c.val).ps = .running ∧ (d.ctx c.val).pc = (s.dev.ctx c.val).pc ∧
        ((s.dev.ctx c.val).sleepRd ≠ 0 → (d.ctx c.val).s.get (s.dev.ctx c.val).sleepRd 0 = 0xFFFFFFFFFFFFFFFF) ∧
        ∀ k, k ≠ c.val → d.ctx k = s.dev.ctx k

/-- The start of a pending operation: it runs and nothing is pending; with no live core (BED_FENCED), with no live clay buffer or
the clay that it names lost (CLAY_LOST), or a failure before, it does nothing more, and while operands are still to come it waits
for them; otherwise MMA, ATTN, EWISE, REDUCE, TOPK, GATHER, SCATTER, LOAD, STORE, CVT, WIN and POST do their work at once, and FENCE
none.
Readings of the model that it rests on: log 15, 33, 34. -/
def Obligations.TensorOperationsStart : Prop :=
  ∀ (s : State) (b : Fin 8) (o : TOp), (s.dev.bed b.val).pend = some o → s.gated b.val = false → ∃ (d1 : Dev) (o1 : TOp),
    (d1.bed b.val).run = some o1 ∧ (d1.bed b.val).pend = none ∧ o1.started = true ∧ o1.slot = o.slot ∧ o1.ctx = o.ctx ∧
    o1.srcs = o.srcs ∧
    o1.status = (if s.dev.liveCores b.val = [] then failWith o.status 0x10C
      else if s.dev.liveClusters b.val = [] ∨ ((s.dev.ctx o.ctx).clayLost = true ∧ o.namesClay = true) then failWith o.status 0x10B
      else o.status) ∧
    d1 = { s.dev with beds := d1.beds, ctxs := d1.ctxs } ∧
    let starts := fun (c : Instr) (top : Nat) (body : Dev) => s.dev.startable b.val top = true →
      exec c s = .next { s with dev := (if o1.status ≠ 0 ∨ o1.present = false then d1 else body).finish }
    (∀ errs ord ph, starts (.mma ⟨b, ph⟩ errs ord) 0x01 (d1.mma b.val errs ord ph o1) ∧
      starts (.attn ⟨b, ph⟩ errs ord) 0x02 (d1.attn b.val errs ord ph o1)) ∧
    ∀ ph, starts (.ewise ⟨b, ph⟩) 0x03 (d1.compute b.val ph o1 [] [1, 2, 3] fun l =>
      ewRun o1.slot (o1.t 0) (opdAt l 0) (opdAt l 1) (opdAt l 2)) ∧
    starts (.reduce ⟨b, ph⟩) 0x04 (d1.compute b.val ph o1 [] [1] fun l => reduceRun o1.slot (o1.t 0) (opdAt l 0)) ∧
    starts (.topk ⟨b, ph⟩) 0x05 (d1.compute b.val ph o1 [] [1, 3] fun l => topkRun o1.slot (o1.t 0) (opdAt l 0) (opdAt l 1)) ∧
    starts (.gather ⟨b, ph⟩) 0x06 (d1.withIx ph b.val o1 fun ix d => d.compute b.val ph o1 ix [1] fun l =>
      gatherRun (o1.t 0) (o1.t 1) ((o1.needRows 1 ix).map fun i => (i.1, (opdAt l 0).row i.1 0 0)) ix) ∧
    starts (.scatter b ph) 0x07 (d1.scatter b.val ph o1) ∧ starts (.load ⟨b, ph⟩) 0x08 (d1.load b.val ph o1) ∧
    starts (.store ⟨b, ph⟩) 0x09 (d1.compute b.val ph o1 [] [1] fun l => copyRun (o1.t 0) (opdAt l 0)) ∧
    starts (.cvt ⟨b, ph⟩) 0x0A (d1.compute b.val ph o1 [] [1] fun l => cvtRun o1.slot (o1.t 0) (opdAt l 0)) ∧
    starts (.win b) 0x0B (d1.win_ b.val o1) ∧ starts (.fence b) 0x0C d1 ∧ starts (.post ⟨b, ph⟩) 0x0D (d1.post_ b.val ph o1)

/-- A result of the vector and matrix units: where the operands are there and the operation's function ends without a failure, its
flags are added to the operation's and the destination rows are written; where it ends with a status, nothing is written and the
operation fails with that status. WIN on the oldest layer of a plan of its context frees the slots of that layer and queues the fill
of the layer LOOK ahead; on another layer it fails with WIN_ORDER, on a plan that is not its context's, or that is LOADING or
FAILED, with BAD_PLAN_ID.
Readings of the model that it rests on: log 30, 35. -/
def Obligations.OperationResultsAndWindows : Prop :=
  (∀ (d d2 : Dev) (b : Nat) (ph : Phys) (o o2 : TOp) (ix : List (List Nat)) (rs : List Nat) (f : List Opd → OpRes) (l : List Opd),
     (d.dataTag b ph o).operands ph b o ix rs = (some l, d2) → (d2.bed b).run = some o2 → o2.status = 0 →
     let o3 : TOp := { o2 with flags := o2.flags ||| (f l).fl }
     ∃ d3 : Dev, (d3.bed b).run = some o3 ∧ d3 = { d2 with beds := d3.beds } ∧ (∀ k, k ≠ b → d3.bed k = d2.bed k) ∧
       ((f l).st = 0 → d.compute b ph o ix rs f =
         d3.putItems b ph o3 ((f l).out.flatMap fun x => o3.putRow x.1 x.2.1 x.2.2.1 x.2.2.2)) ∧
       ((f l).st ≠ 0 → ∃ d4 : Dev, d.compute b ph o ix rs f = d4 ∧ d4 = { d3 with beds := d4.beds } ∧
         ((d4.bed b).run.map (·.status)) = some (f l).st)) ∧
  ∀ (d : Dev) (b : Nat) (o : TOp), (d.bed b).run = some o → o.status = 0 →
    let p := sf o.slot 88 83
    let x := d.plan p
    let l := if sf o.slot 70 69 = 0 then sf o.slot 82 71 else if sf o.slot 70 69 = 1 then o.arg.toNat % 4096 else x.oldest
    (x.st = .none_ ∨ x.st = .loading ∨ x.st = .failed ∨ x.ctx ≠ o.ctx →
      ((d.win_ b o).bed b).run.map (·.status) = some 0x107 ∧ (d.win_ b o).plans = d.plans) ∧
    (x.st = .active → x.ctx = o.ctx → x.layers ≠ [] →
      (l = x.oldest → ((d.win_ b o).plan p).oldest = (l + 1) % x.layers.length ∧ ((d.win_ b o).plan p).wins = x.wins + 1 ∧
        ((d.win_ b o).plan p).fills = x.fills ++ [((l + x.look) % x.layers.length, x.next)] ∧
        (∀ i ∈ (x.ring l (x.pos.get l 0)).map (·.1), ∀ w, ((d.win_ b o).plan p).slots[i]? = some w →
          w.layer = none ∧ w.ready = false) ∧
        (d.win_ b o).mem = d.mem ∧ (d.win_ b o).descs = d.descs) ∧
      (l ≠ x.oldest → ((d.win_ b o).bed b).run.map (·.status) = some 0x108 ∧ (d.win_ b o).plans = d.plans))

/-- The completion of an operation that has failed, what it may still write being settled, or that has all its operands, its ring
entry and no window fill to wait for: the bed runs none, OPS is counted, LAST holds its status, flags and opcode, its flags are
added to FLAGS; one that has succeeded leaves memory as its start left it, and its program going on. A POST that waited for ring
room completes when there is room.
Readings of the model that it rests on: log 34. -/
def Obligations.OperationCompletion : Prop :=
  ∀ (s : State) (b : Fin 8) (o : TOp), s.dev.bedsRun = true →
    ((s.dev.bed b.val).run = some o → s.dev.havocWaits o = false →
      o.status ≠ 0 ∨ (o.waitRing = false ∧ o.present = true ∧ s.dev.fenceOver o = true) → ∃ d : Dev,
      exec (.opComplete b) s = .next { s with dev := d.finish } ∧ (d.bed b.val).run = none ∧
      d.fld row_BED_OPS b.val f_BED_OPS_OPS = (s.dev.fld row_BED_OPS b.val f_BED_OPS_OPS + 1) % (f_BED_OPS_OPS.top + 1) ∧
      (o.status = 0 → slotTop o.slot ≠ 0x0C → (s.dev.ctx o.ctx).stop = none →
        (d.ctx o.ctx).last = BitVec.ofNat 29 (o.flags.toNat * 2 ^ 16 + slotTop o.slot * 2 ^ 21) ∧
        (d.ctx o.ctx).flags = (s.dev.ctx o.ctx).flags ||| o.flags ∧ (d.ctx o.ctx).ps = (s.dev.ctx o.ctx).ps ∧
        (d.ctx o.ctx).pc = (s.dev.ctx o.ctx).pc ∧ d.mem = s.dev.mem ∧ d.clay = s.dev.clay ∧
        ∀ k, k ≠ o.ctx → d.ctx k = s.dev.ctx k)) ∧
    ((s.dev.bed b.val).run = some o → o.waitRing = true → s.dev.postGoes o.ctx = true → ∃ d : Dev,
      exec (.postRingFree b) s = .next { s with dev := d.finish } ∧ (d.bed b.val).run = none) ∧
    ((s.dev.bed b.val).run = none → ∀ c t o, s.dev.postCtxs b.val = c :: t → (s.dev.ctx c).post = some o → o.ctx = c → ∃ d : Dev,
      exec (.postRingFree b) s = .next { s with dev := d.finish } ∧ (d.ctx c).post = none)

/-- LAUNCH: an idle context with a bed, a clay area and an aligned ENTRY runs from it with S1 to S4 from the arguments, P0 alone
set, T, FLAGS and LAST clear; its completion comes with the stop; in a context that is ORPHANED or DRAINING by then it is stopped as
it starts. LAUNCH with WAKE gives a sleeping program its value, and completes at once; to an idle one it is refused.
Readings of the model that it rests on: log 34. -/
def Obligations.LaunchStartsAProgram : Prop :=
  ∀ (s : State) (q : Queue) (e : Entry) (d0 : Dev) (c : Nat), s.dev.starts q e = some d0 → d0.cmdCheck q e = (0, c) → e.opc = 0x10 →
    let ref := d0.cmdRef q e
    (∀ b, e.wake = false → (d0.ctx c).bed = some b → (d0.ctx c).ps = .idle → e.arg 0 % 32 = 0 → e.arg 0 < 2 ^ 48 →
      (d0.ctx c).area.isSome = true → ∃ d : Dev,
        ((d0.ctx c).st ≠ .orphaned → (d0.ctx c).st ≠ .draining → exec (.launch q e) s = .next { s with dev := d.finish }) ∧
        ((d0.ctx c).st = .orphaned →
          exec (.launch q e) s = .next { s with dev := (d.stopProgram c 0x113 (BitVec.ofNat 48 (e.arg 0)) 0 0 true).finish }) ∧
        ((d0.ctx c).st = .draining →
          exec (.launch q e) s = .next { s with dev := (d.stopProgram c 0x114 (BitVec.ofNat 48 (e.arg 0)) 0 0 true).finish }) ∧
        d = { d0 with ctxs := d.ctxs, beds := d.beds } ∧ (d.ctx c).ps = .running ∧ (d.ctx c).pc.toNat = e.arg 0 ∧
        (∀ i, 1 ≤ i → i ≤ 4 → (d.ctx c).s.get i 0 = BitVec.ofNat 64 (e.arg i)) ∧
        (∀ i, i = 0 ∨ 4 < i → (d.ctx c).s.get i 0 = 0) ∧ (d.ctx c).p = 1 ∧ (d.ctx c).t = [] ∧ (d.ctx c).flags = 0 ∧
        (d.ctx c).last = 0 ∧ (d.ctx c).launch = some ref ∧ ∀ k, k ≠ c → d.ctx k = d0.ctx k) ∧
    (e.wake = true → (d0.ctx c).ps = .sleeping → (d0.ctx c).needsArea = false → ∃ d : Dev,
      exec (.launch q e) s = .next { s with dev := (d.complete ref 0 0 0).finish } ∧ d = { d0 with ctxs := d.ctxs } ∧
        (d.ctx c).ps = .running ∧
        ((d0.ctx c).sleepRd ≠ 0 → (d.ctx c).s.get (d0.ctx c).sleepRd 0 = BitVec.ofNat 64 (e.arg 1))) ∧
    (e.wake = true → (d0.ctx c).ps = .idle → exec (.launch q e) s = .next { s with dev := (d0.complete ref 0x20E 0 0).finish })

/-! ### Sessions and contexts (R223 to R231, R340 to R343) -/

/-- ATTACH on a free port establishes a session with its period, and destroys nothing where RECOVER is 1; on a port with a session
it completes with SESSION_BUSY. HEARTBEAT restarts supervision. DETACH, and a host whose heartbeats stop, end the session: every
context of the port that was ACTIVE or PARKED is ORPHANED with its bindings, no entry of the port queue that was not fetched stays,
memory and descriptors stay.
Readings of the model that it rests on: log 19. -/
def Obligations.SessionCommands : Prop :=
  ∀ (s : State),
    let lost := fun (d0 d : Dev) (p : Nat) => d.host p = none ∧ d.mem = d0.mem ∧ d.descs = d0.descs ∧ d.rgns = d0.rgns ∧
      (∀ c ∈ d0.owned p, ((d0.ctx c).st = .active ∨ (d0.ctx c).st = .parked) →
        (d.ctx c).st = .orphaned ∧ (d.ctx c).binds = (d0.ctx c).binds) ∧
      (d.ring (.port (Fin.ofNat 16 p))).sqHead = (d.ring (.port (Fin.ofNat 16 p))).sqTail
    (∀ (p : Fin 16) (e : Entry) (d0 : Dev) (c : Nat), s.dev.starts (.port p) e = some d0 → d0.cmdCheck (.port p) e = (0, c) →
      let ref := d0.cmdRef (.port p) e
      let P := if e.arg 1 = 0 then 100 else e.arg 1
      (e.opc = 0x01 → periodOk (e.arg 1) = true →
        (∀ h, d0.host p.val = some h →
          exec (.attach (.port p) e) s = .next { s with dev := (d0.complete ref 0x204 0 0).finish }) ∧
        (d0.host p.val = none → ∃ d : Dev, exec (.attach (.port p) e) s = .next { s with dev := d.finish } ∧
          d.host p.val = some {
            period := P, since := d0.lived (commonDom (dieOfPort p.val)), attach := some ref, recover := e.arg 0 = 1,
            recovered := if e.arg 0 = 1 then ((d0.owned p.val).filter fun c => (d0.ctx c).st == .orphaned).length else 0,
            waits := (d0.owned p.val).filter fun c => (d0.ctx c).st == .orphaned } ∧
          d.mem = d0.mem ∧ (e.arg 0 = 1 → d = { d0 with hosts := d.hosts }))) ∧
      (e.opc = 0x03 → periodOk (e.arg 1) = true → ∀ h, d0.host p.val = some h →
        ∃ d : Dev, exec (.heartbeat (.port p) e) s = .next { s with dev := (d.complete ref 0 0 0).finish } ∧
          d = { d0 with hosts := d.hosts } ∧
          d.host p.val = some { h with
            period := if e.arg 1 = 0 then h.period else e.arg 1, since := d0.lived (commonDom (dieOfPort p.val)) }) ∧
      (e.opc = 0x02 → ∃ d : Dev, exec (.detach (.port p) e) s = .next { s with dev := d.finish } ∧ lost d0 d p.val)) ∧
    ∀ (p : Fin 16) (h : HostSess), s.dev.host p.val = some h →
      let due := s.dev.working && !s.dev.upd.paused && s.dev.fld row_HIF_CTL 0 f_HIF_CTL_HB_EN == 1 &&
        s.dev.ran (commonDom (dieOfPort p.val)) h.since (3 * h.period * 1000000)
      (due = true → ∃ d : Dev, exec (.hostLost p) s = .next { s with dev := d.finish } ∧ lost s.dev d p.val) ∧
      (due = false → exec (.hostLost p) s = .next s)

/-- CREATE_CTX: refused, in this order, for too many pages, the tenant, the bed, a full port; with a free slot (the lowest, the
model's choice, log 13) the lowest free number becomes an ACTIVE context of that slot, its GEN kept; without a slot, and AUTO_PARK set,
the park of the least recently active idle context begins and the create waits for its slot; with none to park it answers CTX_WAIT and
waits. CANCEL ends a waiting create with CANCELLED; where none of that CID waits it answers NOT_FOUND. -/
def Obligations.ContextCreateAndCancel : Prop :=
  ∀ (s : State) (p : Fin 16) (e : Entry) (d0 : Dev) (c : Nat), s.dev.starts (.port p) e = some d0 →
    d0.cmdCheck (.port p) e = (0, c) →
    let ref := d0.cmdRef (.port p) e
    let a := e.arg 0
    let ends := fun (i : Instr) (st : Nat) => exec i s = .next { s with dev := (d0.complete ref st 0 0).finish }
    let full := d0.ctxSlots p.val + d0.parkLimit p.val ≤ (d0.owned p.val).length ∨
      16 ≤ (d0.slotq.filter fun w => w.port == p.val && w.told).length
    (e.opc = 0x04 →
      (320 < bits a 16 9 → ends (.createCtx (.port p) e) 0x201) ∧
      (bits a 16 9 ≤ 320 → d0.tenantDenied (bits a 0 8) p.val = true → ends (.createCtx (.port p) e) 0x209) ∧
      (bits a 16 9 ≤ 320 → d0.tenantDenied (bits a 0 8) p.val = false →
        ((bitOf a 15 && d0.bedDenied (bits a 0 8) p.val (bits a 12 3)) = true → ends (.createCtx (.port p) e) 0x20A) ∧
        ((bitOf a 15 && d0.bedDenied (bits a 0 8) p.val (bits a 12 3)) = false →
          (full → ends (.createCtx (.port p) e) 0x206) ∧
          (¬ full →
            (∀ sl k, d0.freeSlot p.val = some sl → (d0.portCtxs p.val).find? (fun k => (d0.ctx k).st == .free) = some k →
              ∃ d : Dev, exec (.createCtx (.port p) e) s = .next { s with dev := (d.complete ref 0 (d.handle k) 0).finish } ∧
                d = { d0 with ctxs := d.ctxs } ∧ (∀ j, j ≠ k → d.ctx j = d0.ctx j) ∧
                d.ctx k = {
                  st := .active, gen := (d0.ctx k).gen, boot := d0.resets % 16, port := p.val, tenant := bits a 0 8,
                  rights := BitVec.ofNat 4 (bits a 8 4), bed := if bitOf a 15 then some (bits a 12 3) else none,
                  clayPages := if bitOf a 15 then bits a 16 9 else 0, slot := some sl,
                  stamp := d0.now (commonDom (dieOfPort p.val)) }) ∧
            (∀ v, d0.freeSlot p.val = none → d0.fld row_CTX_CTL 0 f_CTX_CTL_AUTO_PARK = 1 → d0.lruIdle p.val = some v →
              ∃ d : Dev, exec (.createCtx (.port p) e) s = .next { s with dev := (d.startPark v).finish } ∧
                d = { d0 with slotq := d0.slotq ++ [⟨p.val, none, some (ref, e), some v, false⟩] } ∧
                ((d.startPark v).ctx v).parking = true ∧ (d.startPark v).mem = d0.mem) ∧
            (d0.freeSlot p.val = none → d0.fld row_CTX_CTL 0 f_CTX_CTL_AUTO_PARK = 0 ∨ d0.lruIdle p.val = none →
              ∃ d : Dev, exec (.createCtx (.port p) e) s = .next { s with dev := d.finish } ∧ d.ctxs = d0.ctxs ∧
                d.mem = d0.mem ∧ d.slotq = d0.slotq ++ [⟨p.val, none, some (ref, e), none, true⟩] ∧
                d.inflight = d0.inflight))))) ∧
    (e.opc = 0x05 →
      let w? := d0.slotq.find? fun w => w.port == p.val && w.told && w.create.elim false fun c => c.1.cid.toNat == e.arg 0
      (w? = none → ends (.cancel (.port p) e) 0x208) ∧
      ∀ w r e', w? = some w → w.create = some (r, e') → exec (.cancel (.port p) e) s =
        .next { s with dev := ((({ d0 with slotq := d0.slotq.erase w }).complete r 0x207 0 0).complete ref 0 0 0).finish })

/-- DESTROY_CTX makes the context DRAINING with nothing left to fetch, its completion owed; one that is parking or unparking waits
for the end of that. Its drain lasts until its program has stopped, its commands are complete and no request of it is pending;
requests still pending at the bound are cancelled. Then the number is FREE with GEN one higher (1 after 0xFFFF) and nothing else
kept, its plans are gone, and every issuer gets SUCCESS.
Readings of the model that it rests on: log 28. -/
def Obligations.ContextDestruction : Prop :=
  ∀ (s : State),
    (∀ (q : Queue) (e : Entry) (d0 : Dev) (c : Nat), s.dev.starts q e = some d0 → d0.cmdCheck q e = (0, c) → e.opc = 0x06 →
      ∃ d : Dev, exec (.destroyCtx q e) s = .next { s with dev := d.finish } ∧ d.mem = d0.mem ∧ d.descs = d0.descs ∧
        (d.ctx c).destroyers = (d0.ctx c).destroyers ++ [d0.cmdRef q e] ∧ (d.ctx c).binds = (d0.ctx c).binds ∧
        ((d0.ctx c).st ≠ .draining → (d0.ctx c).parking = true ∨ (d0.ctx c).unparking = true →
          (d.ctx c).st = (d0.ctx c).st ∧ (d.ctx c).destroyWanted = true) ∧
        ((d0.ctx c).st ≠ .draining → (d0.ctx c).parking = false → (d0.ctx c).unparking = false →
          (d.ctx c).st = .draining ∧ (d.ctx c).ring.sqHead = (d.ctx c).ring.sqTail ∧
          (∀ w ∈ d.slotq, w.ctx ≠ some c) ∧ ∀ w ∈ d.waiters, w.waitsFor c = false)) ∧
    ∀ (c : Fin 4096), s.dev.working = true →
      (s.dev.drainOver c.val = true → ∃ d : Dev, exec (.destroyDrainEnd c) s =
          .next { s with dev := (d.each (s.dev.ctx c.val).destroyers fun d r => d.complete r 0 0 0).finish } ∧
        d.ctx c.val = { gen := if (s.dev.ctx c.val).gen = 0xFFFF then 1 else (s.dev.ctx c.val).gen + 1 } ∧
        ∀ k, (d.plan k).st ≠ .none_ → (d.plan k).ctx ≠ c.val) ∧
      (s.dev.drainOver c.val = false → s.dev.drainCuts c.val = true → ∃ d : Dev,
        exec (.destroyDrainEnd c) s = .next { s with dev := d.finish } ∧ (d.ctx c.val).st = .draining ∧
        ∀ r ∈ s.dev.reqsPending c.val, r.published = false → ∀ t ∈ d.reqs, t.id = r.id →
          t.status ≠ 0 ∧ t.stage = (if t.held = 0 then .credits else .ready) ∧ t.out = [])

/-- ASSIGN_BED gives an idle program's context its bed and page count, refused with BED_DENIED, or with PROGRAM_BUSY while the
program runs. RING_SET places empty rings that each lie within one binding of the context, while no command of it is without its final
completion, else RING_BAD. QUERY answers in the payload. PARK
waits for an ACTIVE context to become idle, as every PARK before it does, succeeds at once for a PARKED one, is BAD_CTX for another.
The end of a park leaves the context PARKED without a slot; the end of an unpark leaves it ACTIVE. A request that has waited 1 ms in
the park queue ends with NACK_RETRY.
Readings of the model that it rests on: log 28. -/
def Obligations.AssignRingsQueryAndParking : Prop :=
  (∀ (s : State) (q : Queue) (e : Entry) (d0 : Dev) (c : Nat), s.dev.starts q e = some d0 → d0.cmdCheck q e = (0, c) →
     let ref := d0.cmdRef q e
     let x := d0.ctx c
     let ends := fun (i : Instr) (st : Nat) => exec i s = .next { s with dev := (d0.complete ref st 0 0).finish }
     (e.opc = 0x07 → bits (e.arg 0) 16 9 ≤ 320 →
       let b := bits (e.arg 0) 0 3
       (d0.bedDenied x.tenant x.port b = true → ends (.assignBed q e) 0x20A) ∧
       (d0.bedDenied x.tenant x.port b = false →
         (x.ps ≠ .idle → ends (.assignBed q e) 0x20C) ∧
         (x.ps = .idle → (∀ k ∈ d0.bedDoms b, (d0.dom k).st ≠ .off) →
           ∃ d : Dev, exec (.assignBed q e) s = .next { s with dev := (d.complete ref 0 0 0).finish } ∧
             (d.ctx c).bed = some b ∧ (d.ctx c).clayPages = bits (e.arg 0) 16 9 ∧ (∀ k, k ≠ c → d.ctx k = d0.ctx k) ∧
             d.mem = d0.mem ∧ d.descs = d0.descs ∧ d.doms = d0.doms))) ∧
     (e.opc = 0x08 →
       let a := e.arg 2
       let ok := d0.within c (e.arg 0) (64 * 2 ^ bits a 0 4) rR = true ∧ d0.within c (e.arg 1) (64 * 2 ^ bits a 4 4) rW = true ∧
         d0.cmdsOf c = [] ∧ x.ring.waiting.any ofCommand = false ∧ (x.ring.isSet = true → x.ring.faulted = false → x.ring.sqHead = x.ring.sqTail)
       (bits a 0 4 < 4 ∨ 12 < bits a 0 4 ∨ bits a 4 4 < 4 ∨ 12 < bits a 4 4 → ends (.ringSet q e) 0x201) ∧
       (4 ≤ bits a 0 4 → bits a 0 4 ≤ 12 → 4 ≤ bits a 4 4 → bits a 4 4 ≤ 12 →
         (¬ ok → ends (.ringSet q e) 0x20F) ∧
         (ok → ∃ d : Dev, exec (.ringSet q e) s = .next { s with dev := (d.complete ref 0 0 0).finish } ∧
           d = { d0 with ctxs := d.ctxs } ∧ (∀ k, k ≠ c → d.ctx k = d0.ctx k) ∧
           d.ctx c = { x with ring := {
             waiting := x.ring.waiting, isSet := true, sqBase := e.arg 0, cqBase := e.arg 1, sqLog := bits a 0 4, cqLog := bits a 4 4,
             coalesce := bits a 8 12 } }))) ∧
     (e.opc = 0x0A →
       (e.arg 0 = 0 → exec (.query q e) s = .next { s with dev := (d0.complete ref 0 0 0 (BitVec.ofNat 256
         (d0.ctxInfo c + x.ring.sqHead * 2 ^ 64 + x.ring.cqTail * 2 ^ 80 + b2n x.ring.phase * 2 ^ 96 +
           b2n x.ring.faulted * 2 ^ 97))).finish }) ∧
       (∀ p : Fin 16, q = .port p → e.arg 0 ≠ 0 →
         let cs := (d0.owned p.val).filter fun k => e.arg 1 ≤ k
         (∀ k ∈ cs, d0.handle k < 2 ^ 32) → ∃ v : Gran,
          exec (.query q e) s = .next { s with dev := (d0.complete ref 0 ((cs[8]?).getD 0xFFFF) 0 v).finish } ∧
           ∀ i, i < 8 → i < cs.length → bits v.toNat (32 * i) 32 = d0.handle (cs.getD i 0)))) ∧
  ∀ (s : State),
    (∀ (q : Queue) (e : Entry) (d0 : Dev) (c : Nat), s.dev.starts q e = some d0 → d0.cmdCheck q e = (0, c) → e.opc = 0x09 →
      let ref := d0.cmdRef q e
      ((d0.ctx c).st = .parked → exec (.park q e) s = .next { s with dev := (d0.complete ref 0 0 0).finish }) ∧
      ((d0.ctx c).st ≠ .parked → (d0.ctx c).st ≠ .active →
        exec (.park q e) s = .next { s with dev := (d0.complete ref 0x09 0 0).finish }) ∧
      ((d0.ctx c).st = .active → ∃ d : Dev, exec (.park q e) s = .next { s with dev := d.finish } ∧
        d = { d0 with ctxs := d.ctxs } ∧ (∀ k, k ≠ c → d.ctx k = d0.ctx k) ∧
        d.ctx c = { d0.ctx c with
          parkCmds := (d0.ctx c).parkCmds ++ [ref], parkWait := !(d0.ctx c).parking,
          parkSleep := ((d0.ctx c).parkWait && (d0.ctx c).parkSleep) || e.arg 0 = 1 })) ∧
    (∀ (c : Fin 4096), s.dev.serving = true →
      ((s.dev.ctx c.val).parking = true → (s.dev.ctx c.val).destroyWanted = false → s.dev.reqs = [] → s.dev.waiters = [] →
        s.dev.slotq = [] → ∃ d : Dev, exec (.parkComplete c) s = .next { s with dev := d.finish } ∧
          (d.ctx c.val).st = (if (s.dev.ctx c.val).st = .active then .parked else (s.dev.ctx c.val).st) ∧
          (d.ctx c.val).slot = none ∧ (d.ctx c.val).parking = false ∧ (d.ctx c.val).binds = (s.dev.ctx c.val).binds ∧
          d.mem = s.dev.mem ∧ d.clay = s.dev.clay) ∧
      ((s.dev.ctx c.val).unparking = true → (s.dev.ctx c.val).destroyWanted = false → s.dev.reqs = [] → s.dev.waiters = [] →
        ∃ d : Dev, exec (.unparkComplete c) s = .next { s with dev := d.finish } ∧
          d.ctx c.val = { s.dev.ctx c.val with
            st := if (s.dev.ctx c.val).st = .parked then .active else (s.dev.ctx c.val).st, unparking := false } ∧
          d = { s.dev with ctxs := d.ctxs, regs := d.regs })) ∧
    ∀ (n : Fin 16), s.dev.working = true → s.dev.waiters = [] →
      let late := fun (r : Req) => r.port == n.val && r.stage == .parkQ &&
        s.dev.ran (commonDom (dieOfPort n.val)) r.common 1000000
      ((∃ r ∈ s.dev.reqs, late r = true) → ∃ d : Dev, exec (.parkQueueTimeout n) s = .next { s with dev := d.finish } ∧
        d = { s.dev with reqs := d.reqs, regs := d.regs, setq := d.setq, ports := d.ports } ∧
        ∀ r ∈ s.dev.reqs, late r = true → ∃ t ∈ d.reqs, t.id = r.id ∧ t.status = 0x0B ∧
          t.stage = (if r.held = 0 then .credits else .ready))

/-! ### Bindings and regions (R239, R242 to R250, R303) -/

/-- BIND checks its conditions in order and writes the entry, ACTIVE, at its index; nothing else of the context and no other context
changes. UNBIND of an invalid entry completes with BIND_SLOT and zero counts; of a valid one it makes the entry DRAINING, or invalid
at once where nothing is in flight. At the end of the drain the entry is invalid and every issuer has SUCCESS with the counts of
what completed and of the reads and writes that were cancelled, those of tensor operations among them (counted as log 45 says).
Readings of the model that it rests on: log 11, 28, 45. -/
def Obligations.BindAndUnbind : Prop :=
  ∀ (s : State),
    (∀ (q : Queue) (e : Entry) (d0 : Dev) (c : Nat), s.dev.starts q e = some d0 → d0.cmdCheck q e = (0, c) →
      let ref := d0.cmdRef q e
      let i := e.arg 0
      let x := d0.ctx c
      let v := e.arg 1 + e.arg 2 * 2 ^ 64
      let b : Binding := {
        region := bits v 92 14, roff := bits v 64 28, rights := BitVec.ofNat 4 (bits v 60 4), len := bits v 32 28,
        wbase := bits v 0 32 }
      let r := d0.rgn b.region
      let ends := fun (i : Instr) (st : Nat) => exec i s = .next { s with dev := (d0.complete ref st 0 0).finish }
      (e.opc = 0x20 → bits v 108 20 = 0 →
        let live := x.st = .active ∨ x.st = .parked ∨ x.st = .orphaned
        let free := (x.binds.get i {}).len = 0
        let part := (match x.bed with
          | some n => d0.bedPart n
          | none => d0.portPart x.port) = r.part
        let tenant := x.tenant = r.tenant ∨ r.share = true
        let rights := b.rights &&& ~~~ r.rights = 0 ∧ b.rights &&& ~~~ x.rights = 0
        (¬ live → ends (.bind q e) 0x09) ∧ (live → ¬ free → ends (.bind q e) 0x21B) ∧
        (live → free → r.st ≠ .active → ends (.bind q e) 0x0F) ∧
        (live → free → r.st = .active → d0.bindRange c i b = false → ends (.bind q e) 0x220) ∧
        (live → free → r.st = .active → d0.bindRange c i b = true →
          (¬ part → ends (.bind q e) 0x21C) ∧ (part → ¬ tenant → ends (.bind q e) 0x21D) ∧
          (part → tenant → ¬ rights → ends (.bind q e) 0x21E) ∧
          (part → tenant → rights → ∃ d : Dev, exec (.bind q e) s = .next { s with dev := (d.complete ref 0 0 0).finish } ∧
            d = { d0 with ctxs := d.ctxs } ∧ (∀ k, k ≠ c → d.ctx k = d0.ctx k) ∧
            d.ctx c = { x with binds := (d.ctx c).binds } ∧ (d.ctx c).binds.get i {} = b ∧
            ∀ j, j ≠ i → (d.ctx c).binds.get j {} = x.binds.get j {}))) ∧
      (e.opc = 0x21 →
        ((x.binds.get i {}).len = 0 → ends (.unbind q e) 0x21B) ∧
        ((x.binds.get i {}).len ≠ 0 → ∃ d : Dev, exec (.unbind q e) s = .next { s with dev := d.finish } ∧
          ((∀ o ∈ d0.bedOps, o.through c i = false) → d.mem = d0.mem) ∧
          (((d.ctx c).binds.get i {}).draining = true ∨ (d.ctx c).binds.get i {} = {}) ∧
          (x.st = .active → ((d.ctx c).binds.get i {}).cmds = (x.binds.get i {}).cmds ++ [ref]) ∧
          ∀ j, j ≠ i → (d.ctx c).binds.get j {} = x.binds.get j {}))) ∧
    ∀ (c : Fin 4096) (i : Fin 256), s.dev.working = true →
      let b := (s.dev.ctx c.val).binds.get i.val {}
      let pend := (s.dev.throughBind c.val i.val).filter fun r => !r.published
      let ops := s.dev.bedOps.filter fun o => o.through c.val i.val && o.status == 0
      let rd := (pend.filter fun r => r.ty == 1).length + (ops.map fun o => o.readsLeft i.val).sum
      let wr := (pend.filter fun r => r.ty ≠ 1).length + (ops.map fun o => o.writesLeft i.val).sum
      b.len ≠ 0 → b.draining = true → (s.dev.throughBind c.val i.val = [] ∧ s.dev.opThrough c.val i.val = false) ∨
        b.since + s.dev.most 100000 ≤ s.dev.lived (commonDom (dieOfPort (s.dev.ctx c.val).port)) →
      ∃ d : Dev, exec (.revocationDrainEnd c i) s = .next { s with dev := (d.each b.cmds fun d r =>
          d.complete r 0 (b.done % 2 ^ 22 * 2 ^ 42 + rd % 2 ^ 21 * 2 ^ 21 + wr % 2 ^ 21) 0).finish } ∧
        (d.ctx c.val).binds.get i.val {} = {} ∧
        (pend = [] → (∀ o ∈ s.dev.bedOps, o.through c.val i.val = false) →
          d = { s.dev with ctxs := d.ctxs, beds := d.beds, regs := d.regs } ∧
          ∀ k, k ≠ c.val → d.ctx k = s.dev.ctx k)

/-- REGION_CREATE homes free identifiers of its group (the lowest, the model's choice, log 13), STABLE and never written, in the
lowest free region number, which it returns; with no number, no identifiers or no homes it changes nothing. REGION_GROW adds such
extents at the end of the map; REGION_TRIM takes the last N off it; REGION_RECLAIM makes the region RECLAIMING; REGION_SET writes
the ceiling and SHARE. -/
def Obligations.RegionCommands : Prop :=
  ∀ (s : State) (q : Queue) (e : Entry) (d0 : Dev) (c : Nat), s.dev.starts q e = some d0 → d0.cmdCheck q e = (0, c) →
    let ref := d0.cmdRef q e
    let a := e.arg 0
    let n := e.arg 1
    let grp := bits a 16 4
    let r := bits a 0 14
    let ends := fun (i : Instr) (st : Nat) => exec i s = .next { s with dev := (d0.complete ref st 0 0).finish }
    (e.opc = 0x22 → n ≠ 0 → d0.groupExists grp = true →
      ((∀ k, k < 16384 → (d0.rgn k).st ≠ .free) → ends (.regionCreate q e) 0x218) ∧
      ∀ k, k < 16384 → (d0.rgn k).st = .free → (∀ j, j < k → (d0.rgn j).st ≠ .free) →
        (d0.takeIds grp n = none → ends (.regionCreate q e) 0x219) ∧
        ∀ ids, d0.takeIds grp n = some ids →
          (d0.enter k grp (bitOf a 13) (mapList ids) = none → ends (.regionCreate q e) 0x219) ∧
          ∀ d', d0.enter k grp (bitOf a 13) (mapList ids) = some d' →
            d0.runsUsed + (joinRuns ids).length ≤ runCap →
            ∃ d : Dev, exec (.regionCreate q e) s = .next { s with dev := (d.complete ref 0 k 0).finish } ∧
              (∀ j, j ≠ k → d.rgn j = d0.rgn j) ∧ d.mem = d0.mem ∧ d.ctxs = d0.ctxs ∧
              d.rgn k = {
                st := .active, part := grp / 2, tenant := bits a 0 8, rights := BitVec.ofNat 4 (bits a 8 4), share := bitOf a 12,
                runs := joinRuns ids } ∧
              (∀ x ∈ mapList ids, (d.desc x).st = .stable ∧ (d.desc x).region = k ∧ (d.desc x).len = 0) ∧
              ∀ x, x ∉ mapList ids → d.desc x = d0.desc x) ∧
    (e.opc = 0x23 → n ≠ 0 → bits a 14 2 = 0 → d0.groupExists grp = true →
      ((d0.rgn r).st ≠ .active → ends (.regionGrow q e) 0x0F) ∧
      ((d0.rgn r).st = .active → grp / 2 ≠ (d0.rgn r).part → ends (.regionGrow q e) 0x21C) ∧
      ∀ ids d', (d0.rgn r).st = .active → grp / 2 = (d0.rgn r).part → (d0.rgn r).count + n ≤ 2 ^ 28 - 1 →
        d0.takeIds grp n = some ids → d0.enter r grp false (mapList ids) = some d' →
        d0.runsUsed - (d0.rgn r).runs.length + (joinRuns ((d0.rgn r).runs ++ ids)).length ≤ runCap →
        ∃ d : Dev, exec (.regionGrow q e) s = .next { s with dev := (d.complete ref 0 0 0).finish } ∧ d.mem = d0.mem ∧
          d.rgn r = { d0.rgn r with runs := joinRuns ((d0.rgn r).runs ++ ids) } ∧ (∀ j, j ≠ r → d.rgn j = d0.rgn j)) ∧
    (e.opc = 0x24 → n ≠ 0 →
      ((d0.rgn a).st ≠ .active ∨ (d0.rgn a).count ≤ n → ends (.regionTrim q e) 0x0F) ∧
      ((d0.rgn a).st = .active → n < (d0.rgn a).count →
        (d0.boundAbove a ((d0.rgn a).count - n) = true → ends (.regionTrim q e) 0x21A) ∧
        (d0.boundAbove a ((d0.rgn a).count - n) = false →
          (∀ x ∈ mapList (cutRuns (d0.rgn a).runs ((d0.rgn a).count - n)).2, (d0.desc x).ro = false) →
          ∃ d : Dev, exec (.regionTrim q e) s = .next { s with dev := d.finish } ∧ d = { d0 with rgns := d.rgns } ∧
            (∀ j, j ≠ a → d.rgn j = d0.rgn j) ∧
            d.rgn a = { d0.rgn a with
              runs := (cutRuns (d0.rgn a).runs ((d0.rgn a).count - n)).1,
              gone := (d0.rgn a).gone ++ mapList (cutRuns (d0.rgn a).runs ((d0.rgn a).count - n)).2,
              trimCmds := (d0.rgn a).trimCmds ++ [ref] }))) ∧
    (e.opc = 0x25 →
      ((d0.rgn a).st ≠ .active → ends (.regionReclaim q e) 0x0F) ∧
      ((d0.rgn a).st = .active → ∃ d : Dev, exec (.regionReclaim q e) s = .next { s with dev := d.finish } ∧
        d.rgn a = { d0.rgn a with st := .reclaiming, cursor := 0, cmd := some ref } ∧ (∀ j, j ≠ a → d.rgn j = d0.rgn j) ∧
        (d0.bedOps = [] → d.descs = d0.descs) ∧ ∀ k, (d.plan k).st ≠ .none_ → (d.plan k).region ≠ a)) ∧
    (e.opc = 0x26 → bits a 14 2 = 0 →
      let rights := BitVec.ofNat 4 (bits a 16 4)
      let clash := ∃ x ∈ d0.ctxs, ∃ b ∈ x.2.binds, b.2.len ≠ 0 ∧ b.2.region = r ∧
        (b.2.rights &&& ~~~ rights ≠ 0 ∨ (bitOf a 20 = false ∧ x.2.tenant ≠ (d0.rgn r).tenant))
      ((d0.rgn r).st ≠ .active → ends (.regionSet q e) 0x0F) ∧
      ((d0.rgn r).st = .active → clash → ends (.regionSet q e) 0x21A) ∧
      ((d0.rgn r).st = .active → ¬ clash → ∃ d : Dev,
        exec (.regionSet q e) s = .next { s with dev := (d.complete ref 0 0 0).finish } ∧ d = { d0 with rgns := d.rgns } ∧
        d.rgn r = { d0.rgn r with rights := rights, share := bitOf a 20 } ∧ ∀ j, j ≠ r → d.rgn j = d0.rgn j))

/-- RETIRE of a unit that does not exist completes with BAD_COMMAND. Of units that exist it marks every one retired and queues an
explicit move to the same set for every extent homed on one of them that is neither read-only nor being reloaded, and for no extent
that is FREE or read-only; no unit loses a mark, no byte and no descriptor changes. FM_DETACH completes and ends the FM session: no
port is the FM port and the FM ring is empty; contexts with their bindings, regions, plans, descriptors and memory stay.
Readings of the model that it rests on: log 17, 20. -/
def Obligations.RetireAndFmDetach : Prop :=
  ∀ (s : State) (q : Queue) (e : Entry) (d0 : Dev) (c : Nat), s.dev.starts q e = some d0 → d0.cmdCheck q e = (0, c) →
    let ref := d0.cmdRef q e
    (e.opc = 0x27 →
      (d0.retireUnits e = none → exec (.retire q e) s = .next { s with dev := (d0.complete ref 0x201 0 0).finish }) ∧
      ∀ sub st us, d0.retireUnits e = some (sub, st, us) → ∃ d : Dev,
        exec (.retire q e) s = .next { s with dev := d.finish } ∧ d.mem = d0.mem ∧ d.descs = d0.descs ∧ d.ctxs = d0.ctxs ∧
        (∀ u ∈ us, d.retired.get (retKey sub st u) false = true) ∧
        (∀ k, d0.retired.get k false = true → d.retired.get k false = true) ∧
        ∃ l, d.moves = d0.moves ++ l ∧
          (∀ m ∈ l, m.kind = .retire ∧ m.want = some (sub, st) ∧ m.cmd = some ref ∧ m.step = 0 ∧
            ∃ x ∈ d0.descs, x.1 = m.ext ∧ x.2.ro = false ∧ x.2.st ≠ .free) ∧
          ∀ x ∈ d0.descs, x.2.st ≠ .free → x.2.ro = false → x.2.reload = false →
            (∃ iv ∈ x.2.home.occ sub st, ∃ u ∈ us, iv.1 ≤ u ∧ u < iv.1 + iv.2) → ∃ m ∈ l, m.ext = x.1) ∧
    (e.opc = 0x28 → ∃ d : Dev, exec (.fmDetach q e) s = .next { s with dev := d.finish } ∧ d.fm = none ∧
        (d0.fm.isSome = true → d.fmRing = {}) ∧ d.mem = d0.mem ∧ d.descs = d0.descs ∧ d.ctxs = d0.ctxs ∧ d.rgns = d0.rgns ∧
        d.plans = d0.plans)

/-! ### Update (R352, R354 to R361) -/

/-- UPDATE_STAGE ends at once with BAD_COMMAND, UPDATE_BUSY or UPDATE_SOURCE where its arguments, the update machine or its region
do not allow it. A readout or a report waits for an extent that is MOVING. An object that does not verify, an owner key that R352 does
not let in, a trim object too large or whose fuse does not blow end with their status and change no flash. Every other write starts:
what it goes over is erased and invalid until it ends, a plan store entry empty, and of a firmware object the machine is STAGING. Its
end leaves the bytes there, the partition valid, a firmware object STAGED, an owner key's fuse blown, the length of an entry; or
UPDATE_FLASH with the partition invalid, or UPDATE_FUSE where the owner key's fuse does not blow.
Readings of the model that it rests on: log 22. -/
def Obligations.UpdateStaging : Prop :=
  ∀ (s : State),
    (∀ (q : Queue) (e : Entry) (d0 : Dev) (c : Nat) (flashOk fuseOk : Bool) (ph : Phys), s.dev.starts q e = some d0 →
      d0.cmdCheck q e = (0, c) → e.opc = 0x29 → s.stageWaits e = false →
      let ref := d0.cmdRef q e
      let ends := fun (d : Dev) (st : Nat) => exec (.updateStage q e flashOk fuseOk ph) s =
        .next { s with dev := (d.updEnd ref st 0).finish }
      (stageArgs e = false → ends d0 0x201) ∧
      (stageArgs e = true → d0.upd.busy = true → ends d0 0x24A) ∧
      (stageArgs e = true → d0.upd.busy = false → (d0.rgn (e.arg 1)).st ≠ .active → ends d0 0x244) ∧
      (stageArgs e = true → d0.upd.busy = false → (d0.rgn (e.arg 1)).st = .active → Entry.target e ≠ 5 →
        Entry.readout e = false → d0.regionExts (e.arg 1) (e.arg 2) (e.arg 3 / 32) = none → ends d0 0x244) ∧
      ∀ xs gs d1, stageArgs e = true → d0.upd.busy = false → (d0.rgn (e.arg 1)).st = .active → Entry.readout e = false →
        d0.regionExts (e.arg 1) (e.arg 2) (e.arg 3 / 32) = some xs → d0.extsRead ph xs = (some gs, d1) →
        let o : Obj := gransBytes gs
        let starts := fun (t i : Nat) (fuse : Bool) (x0 : Sec) => ∃ (d : Dev) (x : Sec),
          exec (.updateStage q e flashOk fuseOk ph) s = .next { s with dev := d.finish, sec := x } ∧
          d = { d1 with flash := d.flash, upd := { d1.upd with
            cmd := some ref, buf := gs, write := some (t, i), flashOk := flashOk, fuseOk := fuse,
            st := if t = 1 then .staging else d1.upd.st } } ∧
          x = { x0 with keyOk := x.keyOk } ∧
          ∀ j, (s.sec.stagePlace t i).1 ≤ j → j < (s.sec.stagePlace t i).1 + (s.sec.stagePlace t i).2.1 → Tab.get d.flash j 0xFF = 0xFF
        (Entry.target e = 1 → (s.sec.verify o 1 [0] ≠ 0 → ends d1 (s.sec.verify o 1 [0])) ∧
          (s.sec.verify o 1 [0] = 0 → starts 1 0 true { s.sec.flashMark (slotPart (!s.sec.slotB)) true with stagedV := false })) ∧
        (Entry.target e = 2 → (s.sec.verify o 2 [1, 2, 3, 4] ≠ 0 → ends d1 (s.sec.verify o 2 [1, 2, 3, 4])) ∧
          (s.sec.verify o 2 [1, 2, 3, 4] = 0 → s.sec.ownerRule o = none → ends d1 0x24B) ∧
          ∀ slot op, s.sec.verify o 2 [1, 2, 3, 4] = 0 → s.sec.ownerRule o = some (slot, op) →
            starts 2 slot fuseOk (s.sec.flashMark (ownerPart slot) true)) ∧
        (Entry.target e = 3 → (s.sec.verify o 3 [1, 2, 3, 4] ≠ 0 → ends d1 (s.sec.verify o 3 [1, 2, 3, 4])) ∧
          (s.sec.verify o 3 [1, 2, 3, 4] = 0 → (0x80000 < o.size → ends d1 0x243) ∧
            (o.size ≤ 0x80000 → s.sec.trimWritten = false → fuseOk = false → ends d1 0x24E) ∧
            (o.size ≤ 0x80000 → s.sec.trimWritten = true ∨ fuseOk = true →
              starts 3 0 true { s.sec.flashMark trimPart true with trimWritten := true }))) ∧
        (Entry.target e = 4 → starts 4 (Entry.index e) true { s.sec with planLen := s.sec.planLen.set (Entry.index e) 0 0 })) ∧
    (∀ q e flashOk fuseOk ph, s.stageWaits e = true → exec (.updateStage q e flashOk fuseOk ph) s = .next s) ∧
    ∀ ok ref t i, s.dev.serving = true → s.dev.upd.write = some (t, i) → s.dev.upd.cmd = some ref →
      let l := gransBytes s.dev.upd.buf
      let good := ok && s.dev.upd.flashOk
      let st := if good = false then 0x245 else if t = 2 ∧ s.dev.upd.fuseOk = false then 0x24E else 0
      let place := s.sec.stagePlace t i
      let op := Obj.num l (256 + 1985) 1
      ∃ (d : Dev) (x : Sec), exec (.stageWriteComplete ok) s = .next { s with
          dev := (d.updEnd ref st (if st = 0 then l.length else 0)).finish, sec := x } ∧
        d.upd = { s.dev.upd with
          st := if t = 1 then (if good then .staged else .idle) else s.dev.upd.st, cmd := none, buf := [], write := none } ∧
        d.mem = s.dev.mem ∧ (good = true → ∀ j, j < l.length → Tab.get d.flash (place.1 + j) 0xFF = l.getD j 0) ∧
        (∀ k, place.2.2 = some k → k < 8 → x.flashBad.getLsbD k = !good) ∧ x.stagedV = (if t = 1 then good else s.sec.stagedV) ∧
        x.enrolled = (if t = 2 ∧ good = true ∧ s.dev.upd.fuseOk = true ∧ op = 1 then s.sec.enrolled ||| BitVec.ofNat 4 (2 ^ i)
          else s.sec.enrolled) ∧
        x.revoked = (if t = 2 ∧ good = true ∧ s.dev.upd.fuseOk = true ∧ op ≠ 1 then s.sec.revoked ||| BitVec.ofNat 4 (2 ^ i)
          else s.sec.revoked) ∧
        (t = 4 → good = true → x.planLen.get i 0 = l.length)

/-- Activation: refused in the order of its checks; accepted, it waits for its pause, DEFERRED while an emergency holds. The pause,
which comes before 1.2 times the window has passed, verifies the staged object again, keeps the copy that it verified, and makes the
machine ACTIVATING with the control path paused and the hand-off block written, which the new image can fault by its VERSION alone. The
new image's acceptance within 4 ms puts the other slot in force with the copy's security version, the boot record naming it; a raise
that is asked for goes on fuse by fuse, its command in hand, or ends with UPDATE_FUSE; a refusal, by what the block holds or by the
image's own reading, a hand-off that takes too long and a window that ends leave it STAGED with UPDATE_REFUSED or UPDATE_ABANDONED and
the fuses as they were.
Readings of the model that it rests on: log 22. -/
def Obligations.UpdateActivation : Prop :=
  ∀ (s : State),
    (∀ (q : Queue) (e : Entry) (d0 : Dev) (c : Nat), s.dev.starts q e = some d0 → d0.cmdCheck q e = (0, c) → e.opc = 0x2A →
      let ref := d0.cmdRef q e
      let w := e.arg 1
      let o := d0.fwObj (!s.sec.slotB)
      let ends := fun (st : Nat) => exec (.updateActivate q e) s = .next { s with dev := (d0.updEnd ref st 0).finish }
      let hand := o.handoffMin ≤ s.sec.handoffOut ∧ s.sec.handoffOut ≤ o.handoffMax
      let wOk := w = 0 ∨ (100 ≤ w ∧ w ≤ 60000)
      (¬ wOk → ends 0x201) ∧ (wOk → s.sec.stagedV = false → ends 0x246) ∧
      (wOk → s.sec.stagedV = true → ¬ hand → ends 0x247) ∧
      (wOk → s.sec.stagedV = true → hand → d0.marlUp ≠ 3 → ends 0x24F) ∧
      (wOk → s.sec.stagedV = true → hand → d0.marlUp = 3 →
        (d0.staging.isSome = true ∨ d0.upd.busy = true → ends 0x24A) ∧
        (d0.staging = none → d0.upd.busy = false → s.pwr.causes = [] →
          exec (.updateActivate q e) s = .next { s with dev := ({ d0 with upd := { d0.upd with
            cmd := some ref, raise := bitOf (e.arg 0) 0, window := if w = 0 then 10000 else w,
            since := d0.lived (commonDom 0) } }).finish }))) ∧
    (∀ ref, s.dev.upd.cmd = some ref →
      (s.dev.serving = true → s.dev.upd.waits = true → s.pwr.causes = [] → s.dev.windowOver = false →
        let st := s.sec.verify (s.dev.fwObj (!s.sec.slotB)) 1 [0]
        (st ≠ 0 → exec .activationPause s = .next { s with
          dev := (({ s.dev with upd := { s.dev.upd with st := .staged, cmd := none } }).updEnd ref st 0).finish }) ∧
        (st = 0 → ∃ d : Dev, exec .activationPause s = .next { s with dev := d.finish } ∧
          d.upd = { s.dev.upd with
            st := .activating, paused := true, since := s.dev.lived (commonDom 0), sram := s.dev.fwObj (!s.sec.slotB), block := 13 } ∧
          d.regs = s.dev.regs ∧ d.descs = s.dev.descs ∧ d.ctxs = s.dev.ctxs ∧
          ((∀ i, i < 13 → ∃ g, s.dev.blockPlace i = some g ∧ s.dev.setFenced g.1 = false) →
            let o := s.dev.fwObj (!s.sec.slotB)
            let v := s.sec.handoffOut % 65536
            ({ s with dev := d } : State).handFault = if v < o.handoffMin ∨ o.handoffMax < v then 4 else 0))) ∧
      (s.dev.working = true → s.dev.upd.st = .activating →
        (∀ h : HandoffAt, s.dev.handoffLate = false → [0, 3, 5, 6].contains h.reason = true → s.handReason h.reason = 0 →
          let o : Obj := s.dev.upd.sram
          let up := s.dev.upd.raise && decide (s.sec.svnFuse < o.svn)
          ∃ d : Dev, exec (.handoffAccept h) s = .next { s with dev := d.finish, sec := { s.sec with
              slotB := !s.sec.slotB, stagedV := false, runSvn := o.svn, runVersion := BitVec.ofNat 64 o.version,
              runMeas := o.measure, handoffOut := o.handoffOut } } ∧
            (s.dev.cplHold = [] → d.mem = s.dev.mem) ∧
            d.flash = (s.dev.recPut { s.dev.bootRec with slotB := !s.sec.slotB, pending := up }).flash ∧
            d.upd.st = .idle ∧ d.upd.paused = false ∧ d.upd.activations = (s.dev.upd.activations + 1) % 65536 ∧
            ((up && h.fuseOk) = true → d.upd.cmd = some ref ∧ d.upd.burn = some o.svn) ∧
            ((up && h.fuseOk) = false → d.upd.cmd = none ∧ d.upd.burn = none ∧ d.upd.last = if up then 0x24E else 0)) ∧
        (∀ h : HandoffAt, s.dev.handoffLate = false → [0, 3, 5, 6].contains h.reason = true → s.handReason h.reason ≠ 0 →
          ∃ d : Dev, exec (.handoffAccept h) s = .next { s with dev := d.finish } ∧
          d.upd = { s.dev.upd with st := .staged, cmd := none, paused := false, sram := [], last := 0x248 } ∧
          (s.dev.cplHold = [] → d.mem = s.dev.mem)) ∧
        (s.dev.upd.since + s.dev.most 4000000 ≤ s.dev.lived (commonDom 0) → ∃ d : Dev,
          exec .handoffTimeout s = .next { s with dev := d.finish } ∧
          d.upd = { s.dev.upd with st := .staged, cmd := none, paused := false, sram := [], last := 0x248 } ∧
          (s.dev.cplHold = [] → d.mem = s.dev.mem))) ∧
      (s.dev.working = true → s.dev.upd.st = .deferred → s.dev.upd.write = none →
        s.dev.ran (commonDom 0) s.dev.upd.since (s.dev.upd.window * 1000000) = true → ∃ d : Dev,
          exec .activationWindowExpiry s = .next { s with dev := d.finish } ∧
          d.upd = { s.dev.upd with st := .staged, cmd := none, buf := [], sram := [], paused := false, last := 0x249 } ∧
          (s.dev.cplHold = [] → d.mem = s.dev.mem)))

/-! ### The Olilys link (R239 to R241, R309 to R331, R338) -/

/-- A memory request: on a port that is not ACTIVE or whose PLL is not locked it does not arrive; a well-formed one is counted,
takes its credits, and is held as arrived, then admitted unless the device is frozen; a malformed one ends with MALFORMED, its completion
waiting for the one RSP credit that it takes; one whose
tag is in use takes the port DOWN with cause PROTOCOL. Admission ends a request with BAD_CTX, REVOKED or ORPHANED where its context
does not take it.
Readings of the model that it rests on: log 27. -/
def Obligations.MemoryRequestsArrive : Prop :=
  (∀ (s : State) (p : Fin 16) (h : ReqHdr) (ph : Phys) (c : Instr) (ty : Nat) (data : List Gran),
    ((c = .rd p h ph ∧ ty = 1 ∧ data = []) ∨ (c = .wr p h data ph ∧ ty = 2) ∨
      (∃ m l, c = .wrp p h m l ph ∧ ty = 3 ∧ data = m :: l) ∨ (∃ g, c = .atom p h g ph ∧ ty = 4 ∧ data = [g]) ∨
      (∃ g, c = .pub p h g ph ∧ ty = 5 ∧ data = [g])) →
    let used := ∃ r ∈ s.dev.reqs, r.port = p.val ∧ r.h.tag = h.tag
    ((s.dev.port p.val).presents = false → exec c s = .next { s with dev := s.dev.finish ph }) ∧
    ((s.dev.port p.val).presents = true →
      (headOk ty h data = true → data.length = dataLen ty h.length.toNat → ¬ used → ∃ d : Dev,
        exec c s = .next { s with dev := (if s.dev.freezes = .running then d.admitReq s.dev.nextId else d).finish ph } ∧
        d = { s.dev with
          reqs := s.dev.reqs ++ [s.dev.newReq p.val ty h data ph], nextId := s.dev.nextId + 1, regs := d.regs,
          ports := d.ports } ∧
        d.fld row_OLY_CNT p.val f_OLY_CNT_REQUESTS =
          (s.dev.fld row_OLY_CNT p.val f_OLY_CNT_REQUESTS + 1) % (f_OLY_CNT_REQUESTS.top + 1) ∧
        d.port p.val = { s.dev.port p.val with
          reqIn := (s.dev.port p.val).reqIn + vcGran data.length, reqFreed := (s.dev.port p.val).reqFreed + vcGran data.length }) ∧
      (headOk ty h data = false → ¬ used → ∃ d : Dev, exec c s = .next { s with dev := d.finish ph } ∧ d.mem = s.dev.mem ∧
        ∃ r ∈ d.reqs, r.id = s.dev.nextId ∧ r.h.tag = h.tag ∧ r.status = 0x12 ∧ r.stage = .credits ∧ r.resv = 1) ∧
      (headOk ty h data = true → data.length = dataLen ty h.length.toNat → used → ∃ d : Dev,
        exec c s = .next { s with dev := d.finish ph } ∧ d.mem = s.dev.mem ∧ (d.port p.val).st = .down ∧
        d.fld row_OLY_STATUS p.val f_OLY_STATUS_DOWN_CAUSE = 6))) ∧
  ∀ (d : Dev) (id : Nat) (r : Req), d.reqOf id = some r → d.state ≠ .failed → r.h.ctx ≠ 0 →
    (d.ctxOf (some r.port) r.h.ctx = none → d.admitReq id = d.failReq id 0x09) ∧
    ∀ c, d.ctxOf (some r.port) r.h.ctx = some c →
      ((d.ctx c).st = .draining → d.admitReq id = d.failReq id 0x02) ∧
      ((d.ctx c).st = .orphaned → r.ty ≠ 1 ∨ d.host r.port = none ∨ (d.ctx c).slot = none → d.admitReq id = d.failReq id 0x0A) ∧
      ((d.ctx c).st = .parked → r.stage ≠ .parkQ → 64 ≤ d.parkUsed r.port → ∃ e : Dev, d.admitReq id = e ∧
        e = { d with reqs := e.reqs, regs := e.regs, setq := e.setq, ports := e.ports } ∧ ∀ q ∈ e.reqs, q.id = id → q.status = 0x0B)

/-- The application of a request at its home: a read returns the granules read; an ATOM returns the old word, and writes the sum
(FETCH_ADD) or the swap value where the old word is the one compared (CAS) into that word of the granule, operand and old word
crossing the bridge where the home is on the other die; a write or a partial write that fails ends with the failure's status. An
ATOM on a codec extent is refused with CODEC_OP and changes nothing. PUB, with room left in the run store, exchanges its two ranges
between the maps of the two regions and raises the epoch of the first; one whose epoch is not the expected one is STALE, answers the
epoch, and exchanges nothing. A completion that may begin leaves on its port with the request's tag and status, no data after a
failure, is counted, and its request is gone. CFG, as the arrival of a request of type 8: in a frozen device it waits, but for that of
an FM session on the witness port; without an FM session on the port, or with no register at the address, CFG_REFUSED; a read answers
with the register's value and changes no memory; a write writes the register; each completion waits for one RSP credit.
Readings of the model that it rests on: log 9, 26. -/
def Obligations.RequestsAtTheHomeAndCfg : Prop :=
  ((∀ (d d1 : Dev) (r : Req) (c : Nat) (xs : List (Nat × Nat × Nat)) (bs : List (Nat × Nat)), r.ty = 4 →
     badRange r.h.addr.toNat r.h.length.toNat = false →
     (d.stamp c).xlParts (portAgent r.port) r.ph c (rR + rW) true (splitRange r.h.addr.toNat r.h.length.toNat) =
       ((0, xs, bs), d1) →
     (∃ x ∈ xs, (d1.desc x.1).codec = true) →
     d.admitted r c = d1.failReq r.id 0x0C ∧ d1.mem = d.mem ∧ d1.clay = d.clay ∧ d1.descs = d.descs ∧ d1.rgns = d.rgns) ∧
   (∀ (d : Dev) (q : Req) (c a b n i j : Nat),
     let ba := (d.ctx c).binds.get i {}
     let bb := (d.ctx c).binds.get j {}
     let r := ba.region
     let s := bb.region
     let ia := ba.roff + (a / 65536 - ba.wbase)
     let ib := bb.roff + (b / 65536 - bb.wbase)
     let mr := mapList (d.rgn r).runs
     let ms := mapList (d.rgn s).runs
     let xa := (mr.drop ia).take n
     let xb := (ms.drop ib).take n
     a / 65536 + n ≤ ba.wbase + ba.len → b / 65536 + n ≤ bb.wbase + bb.len → r ≠ s → (d.rgn r).part = (d.rgn s).part →
     (d.rgn r).st = .active → (d.rgn s).st = .active →
     (∀ p ∈ d.plans, p.2.st = .none_ ∨ (p.2.region ≠ r ∧ p.2.region ≠ s)) → (∀ y ∈ xa ++ xb, (d.desc y).ro = false) →
     ((d.rgn r).epoch ≠ granWord (q.data.getD 0 0) 1 → ∃ e : Dev,
       d.pubGo q c a b n i j = (e.failReq q.id 0x0D).updReq q.id (fun q => { q with result := (d.rgn r).epoch }) ∧
       e = { d with regs := e.regs }) ∧
     ((d.rgn r).epoch = granWord (q.data.getD 0 0) 1 →
       d.runsUsed + 2 * ((d.rgn r).runs.length + (d.rgn s).runs.length) + 4 ≤ runCap → ∃ e : Dev,
       d.pubGo q c a b n i j = e ∧ e = { d with rgns := e.rgns, descs := e.descs, regs := e.regs, reqs := e.reqs } ∧
       mapList (e.rgn r).runs = mr.take ia ++ xb ++ mr.drop (ia + n) ∧ mapList (e.rgn s).runs = ms.take ib ++ xa ++ ms.drop (ib + n) ∧
       (e.rgn r).epoch = (d.rgn r).epoch + 1 ∧ (e.rgn s).epoch = (d.rgn s).epoch ∧ (∀ k, k ≠ r → k ≠ s → e.rgn k = d.rgn k) ∧
       (∀ y, e.desc y = if y ∈ xb then { d.desc y with region := r } else if y ∈ xa then { d.desc y with region := s } else d.desc y) ∧
       ∀ t ∈ e.reqs, t.id = q.id → t.stage = .ready ∧ t.result = (d.rgn r).epoch + 1)) ∧
   ∀ (d : Dev) (r : Req),
     let a := r.agent
     let done := fun (e : Dev) (f : Req → Req) => d.applyReq r = (e.updReq r.id f).release r.id
     (∀ g d2, r.ty = 1 → r.compressed = false → d.partRead a r.ph r.exts = (some g, d2) →
       d.applyReq r = (d2.refsTake (d.partRefs r.exts)).updReq r.id fun q => { q with
         stage := .issued, out := g, refs := d.partRefs r.exts }) ∧
     (∀ d2, r.ty = 1 → r.compressed = false → d.partRead a r.ph r.exts = (none, d2) → d.applyReq r = d2.failReq r.id 0x07) ∧
     (∀ gs ms st d2, (r.ty = 2 ∧ gs = r.data ∧ ms = []) ∨
         (r.ty = 3 ∧ gs = r.data.drop 1 ∧ ms = wrpMasks (r.data.getD 0 0) (r.data.length - 1)) →
       d.partWrite a r.ph gs ms r.exts = (st, d2) →
       (st = 0 → done d2 fun q => { q with stage := .issued, undo := d.undoOf r }) ∧ (st ≠ 0 → d.applyReq r = d2.failReq r.id st)) ∧
     (∀ x t d1, r.ty = 4 → r.exts = x :: t → d.cross r.ph (granKey (d.desc x.1).set ((d.desc x.1).home.start + x.2.1)) a.die
         (d.atHome a x.1).die (r.data.getD 0 0) = (none, d1) → d.applyReq r = d1.failReq r.id 0x07) ∧
     ∀ x t arg g d1 d2, r.ty = 4 → r.exts = x :: t →
       let home := d.atHome a x.1
       let key := granKey (d.desc x.1).set ((d.desc x.1).home.start + x.2.1)
       d.cross r.ph key a.die home.die (r.data.getD 0 0) = (some arg, d1) → d1.partRead home r.ph [x] = (some [g], d2) →
       let i := bits r.h.flags.toNat 3 2
       let old := granWord g i
       let new := if bits r.h.flags.toNat 1 2 = 0 then old + granWord arg 0
         else if old = granWord arg 0 then granWord arg 1 else old
       ∀ st d3, d2.partWrite home r.ph [granSetWord g i new] [] [x] = (st, d3) →
         granWord (granSetWord g i new) i = new ∧ (∀ j, j < 4 → j ≠ i → granWord (granSetWord g i new) j = granWord g j) ∧
         (st ≠ 0 → d.applyReq r = d3.failReq r.id st) ∧
         (st = 0 →
           (∀ d4, d3.cross r.ph key home.die a.die g = (none, d4) → d.applyReq r = d4.failReq r.id 0x07) ∧
           ∀ v d4, d3.cross r.ph key home.die a.die g = (some v, d4) →
             done d4 fun q => { q with stage := .issued, result := granWord v i })) ∧
  ∀ (s : State) (p : Fin 16),
    (∀ id r ph, s.dev.reqOf id = some r → r.port = p.val → s.dev.cplReady r = true →
      ∃ d : Dev, exec (.completionSend p ⟨id, ph⟩) s = .next { s with dev := d.finish ph } ∧
        (s.dev.cplForm r ≠ .decoded → d.mem = s.dev.mem) ∧ d.reqOf id = none ∧
        (d.port p.val).rspResv = (s.dev.port p.val).rspResv - r.held ∧
        ∃ hdr g, Out.cpl p.val hdr g ∈ d.out ∧ bits hdr.toNat 0 8 = 0x09 ∧ bits hdr.toNat 8 12 = r.h.tag.toNat % 2 ^ 12 ∧
          (r.status ≠ 0 → g = [] ∧ bits hdr.toNat 32 8 = r.status % 2 ^ 8)) ∧
    ∀ (h : ReqHdr) (v : Word), (s.dev.port p.val).presents = true → headOk 8 h [BitVec.ofNat 256 v.toNat] = true →
      (∀ r ∈ s.dev.reqs, r.port = p.val → r.h.tag ≠ h.tag) →
      ∃ s1 : State, s1 = { s with dev := { s.dev with
          reqs := s.dev.reqs ++ [s.dev.newReq p.val 8 h [BitVec.ofNat 256 v.toNat] {}], nextId := s.dev.nextId + 1,
          regs := s1.dev.regs, ports := s1.dev.ports } } ∧
        let ends := fun (t : State) => exec (.cfg p h v) s = .next { t with dev := t.dev.finish }
        (s.dev.cfgGoes p.val = false → ends s1) ∧
        (s.dev.cfgGoes p.val = true → (s.dev.fmOn p.val = false ∨ rowOf h.addr.toNat = none) → ∃ d : Dev, ends { s1 with dev := d } ∧
          d = { s1.dev with regs := d.regs, reqs := d.reqs, ports := d.ports } ∧
          ∃ r ∈ d.reqs, r.id = s.dev.nextId ∧ r.status = 0x11 ∧ r.stage = .credits ∧ r.resv = 1) ∧
        (s.dev.cfgGoes p.val = true → s.dev.fmOn p.val = true → (rowOf h.addr.toNat).isSome = true →
          (bitOf h.flags.toNat 5 = false → ∃ d : Dev, ends { s1 with dev := d } ∧ d = { s1.dev with reqs := d.reqs } ∧
            ∃ r ∈ d.reqs, r.id = s.dev.nextId ∧ r.status = 0 ∧ r.stage = .credits ∧ r.resv = 1 ∧
              r.result = (s1.regRead h.addr.toNat).getD 0) ∧
          (bitOf h.flags.toNat 5 = true → ∃ d : Dev, ends (({ s1 with dev := d } : State).regWrite h.addr.toNat v) ∧
            d = { s1.dev with reqs := d.reqs } ∧ ∃ r ∈ d.reqs, r.id = s.dev.nextId ∧ r.status = 0 ∧ r.stage = .credits ∧ r.resv = 1))

/-- Doorbells on an ACTIVE port of a running device: a submission tail, a completion head and an event queue head in range take
effect on the queue they name, the rings of an ACTIVE context, those of the port or of the FM session, the port's event queue; for a
PARKED context the doorbell waits and decides its unpark; one with a reserved value, an index out of range, or a queue that is not
there, not set or faulted is dropped and counted. -/
def Obligations.Doorbells : Prop :=
  ∀ (s : State) (p : Fin 16) (ctx : BitVec 32) (v : BellAt), (s.dev.port p.val).presents = true → s.dev.freezes = .running →
    s.dev.state ≠ .failed →
    let w := v.v.toNat
    let i := bits w 0 12
    let kind := bits w 28 4
    let fmBit := bitOf w 27
    ∀ c, c = .dbSqTail p ctx v ∨ c = .dbCqHead p ctx v ∨ (ctx = 0 ∧ c = .dbEvqHead p v) →
      let answers := fun (d : Dev) => exec c s = .next { s with dev := d.finish v.ph }
      let gone := ∃ d : Dev, answers d ∧ d = { s.dev with regs := d.regs, ports := d.ports } ∧
        d.fld row_OLY_ERR p.val f_OLY_ERR_DROPPED =
          min f_OLY_ERR_DROPPED.top (s.dev.fld row_OLY_ERR p.val f_OLY_ERR_DROPPED + 1)
      let good := bits w 12 15 = 0 ∧ (kind = 1 ∨ kind = 2 ∨ kind = 3)
      let onRing := fun (q : Queue) (r : Ring) =>
        (kind = 1 → r.isSet = false ∨ r.faulted = true ∨ 2 ^ r.sqLog ≤ i → gone) ∧
        (kind = 2 → r.isSet = false ∨ r.faulted = true ∨ 2 ^ r.cqLog ≤ i ∨ (r.cqUsed = 2 ^ r.cqLog ∧ i = r.cqHead) → gone) ∧
        (kind = 1 → r.isSet = true → r.faulted = false → i < 2 ^ r.sqLog → ∃ d : Dev, answers d ∧
          (d.ring q).sqTail = i ∧ (d.ring q).sqHead = r.sqHead ∧ (d.ring q).stale = false ∧
          (r.waiting = [] → d.ring q = { r with sqTail := i, stale := false }) ∧ d.mem = s.dev.mem ∧
          ∀ k : Fin 4096, q ≠ .ctx k → d.ctx k.val = s.dev.ctx k.val) ∧
        (kind = 2 → r.isSet = true → r.faulted = false → i < 2 ^ r.cqLog → ¬ (r.cqUsed = 2 ^ r.cqLog ∧ i = r.cqHead) →
          r.waiting = [] → ∃ d : Dev, answers d ∧
          d.ring q = { r with cqHead := i, cqUsed := (r.cqTail + 2 ^ r.cqLog - i) % 2 ^ r.cqLog } ∧ d.mem = s.dev.mem ∧
          ∀ k : Fin 4096, q ≠ .ctx k → d.ctx k.val = s.dev.ctx k.val)
      (¬ good → gone) ∧
      (good → ctx = 0 →
        (kind ≠ 3 → fmBit = false → (s.dev.portHost p.val = false → gone) ∧
          (s.dev.portHost p.val = true → onRing (.port p) { s.dev.ring (.port p) with isSet := true })) ∧
        (kind ≠ 3 → fmBit = true → (s.dev.fmOn p.val = false → gone) ∧
          (s.dev.fmOn p.val = true → onRing .fm { s.dev.ring .fm with isSet := true })) ∧
        (kind = 3 →
          let e := s.dev.evq.get p.val {}
          (fmBit = true ∨ s.dev.evqPresent p.val = false ∨ 256 ≤ i ∨ (e.used = 256 ∧ i = e.head) → gone) ∧
          (fmBit = false → s.dev.evqPresent p.val = true → i < 256 → ¬ (e.used = 256 ∧ i = e.head) → ∃ d : Dev, answers d ∧
            d.evq.get p.val {} = { e with head := i, used := (e.tail + 256 - i) % 256 } ∧
            d = { s.dev with evq := d.evq, regs := d.regs, ports := d.ports }))) ∧
      (good → ctx ≠ 0 →
        (kind = 3 ∨ fmBit = true ∨ s.dev.ctxOf (some p.val) ctx = none → gone) ∧
        ∀ k : Fin 4096, kind ≠ 3 → fmBit = false → s.dev.ctxOf (some p.val) ctx = some k.val →
          let x := s.dev.ctx k.val
          (x.st = .draining ∨ (x.st = .orphaned ∧ (kind = 1 ∨ s.dev.host p.val = none ∨ x.slot = none)) → gone) ∧
          (x.st = .active → x.parking = false → x.unparking = false → onRing (.ctx k) x.ring) ∧
          (x.st = .parked → 64 ≤ s.dev.parkUsed p.val → gone) ∧
          ∀ sl, x.st = .parked → s.dev.parkUsed p.val < 64 → x.parking = false → x.unparking = false → x.timeoutDue = false →
            x.port = p.val → s.dev.parksHeld = false → s.dev.slotq = [] → s.dev.freeSlot p.val = some sl → ∃ d : Dev, answers d ∧
            d.ctx k.val = { x with slot := some sl, unparking := true } ∧ d.mem = s.dev.mem ∧
            d.waiters = s.dev.waiters ++ [⟨s.dev.nextId, p.val, k.val, w, s.dev.lived (commonDom (dieOfPort p.val)), false⟩])

/-- The FM attachment: a HELLO on an FM port, not locked out, whose key pair an owner endorses, opens a challenge; a PROOF with both
signatures over the challenge, not more than 1.2 s after it, opens the session of its port in place of another of the same key; a wrong
one is refused, opens no session and locks the port out, for 1 s, but for one refused because another key holds the session; a challenge
not answered in 1 s is gone. While no attach is handled the port holds the message; one of another length or with bytes where zeros are
due is dropped and counted. Signatures are opaque (log 8).
Readings of the model that it rests on: log 17, 45. -/
def Obligations.FmAttachment : Prop :=
  ∀ (s : State) (p : Fin 16), s.dev.state ≠ .failed →
    let fails := fun (d : Dev) (code : Nat) => d.fld row_RGN_FM_STATUS 0 f_RGN_FM_STATUS_LAST_FAIL = code ∧ d.mem = s.dev.mem
    let now := s.dev.lived (portDom p.val)
    let locked := (s.dev.lockout.get p.val none).isSome
    let dropped := fun (c : Instr) => ∃ d : Dev, exec c s = .next { s with dev := d.finish } ∧
      d = { s.dev with regs := d.regs, ports := d.ports } ∧ d.fld row_OLY_ERR p.val f_OLY_ERR_DROPPED =
        min f_OLY_ERR_DROPPED.top (s.dev.fld row_OLY_ERR p.val f_OLY_ERR_DROPPED + 1)
    (∀ n pl, (s.dev.port p.val).presents = true →
      (n ≠ 168 ∨ pl.length ≠ 32 * n ∨ helloZeros pl = false → dropped (.fmHello p n pl)) ∧
      (n ≠ 106 ∨ pl.length ≠ 32 * n ∨ (∃ b ∈ pl.drop 3373, b ≠ 0) ∨ s.dev.portFm p.val = false → dropped (.fmProof p n pl))) ∧
    (∀ pl : List Byte, (s.dev.port p.val).presents = true → pl.length = 32 * 168 → helloZeros pl = true →
      (s.dev.attaches = false → ∃ d : Dev, exec (.fmHello p 168 pl) s = .next { s with dev := d.finish } ∧
        d = { s.dev with msgs := d.msgs, regs := d.regs, ports := d.ports } ∧
        d.msgs = s.dev.msgs ++ [⟨p.val, false, s.sec.endorsed pl, pl, now, locked⟩]) ∧
      (s.dev.attaches = true → s.dev.msgs = [] →
        (s.dev.portFm p.val = false → ∃ d : Dev, exec (.fmHello p 168 pl) s = .next { s with dev := d.finish } ∧ fails d 4 ∧
          d.fm = s.dev.fm ∧ d.challenge = s.dev.challenge) ∧
        (s.dev.portFm p.val = true → (s.dev.lockout.get p.val none).isSome = true → ∃ d : Dev,
          exec (.fmHello p 168 pl) s = .next { s with dev := d.finish } ∧ fails d 5 ∧ d.fm = s.dev.fm ∧
          d.lockout = s.dev.lockout) ∧
        (s.dev.portFm p.val = true → s.dev.lockout.get p.val none = none →
          (s.sec.endorsed pl = false → ∃ d : Dev, exec (.fmHello p 168 pl) s = .next { s with dev := d.finish } ∧ fails d 1 ∧
            d.fm = s.dev.fm ∧ d.lockout.get p.val none = some now) ∧
          (s.sec.endorsed pl = true → ∃ (d : Dev) (n : List Byte), exec (.fmHello p 168 pl) s = .next { s with dev := d.finish } ∧
            d.fm = s.dev.fm ∧ n.length = 32 ∧ d.challenge.get p.val none = some ⟨n, slice pl 0 1984, now⟩)))) ∧
    (∀ (pl : List Byte), (s.dev.port p.val).presents = true → pl.length = 32 * 106 →
      (∀ b ∈ pl.drop 3373, b = 0) → s.dev.portFm p.val = true →
      (s.dev.attaches = false → ∃ d : Dev, exec (.fmProof p 106 pl) s = .next { s with dev := d.finish } ∧
        d = { s.dev with msgs := d.msgs, regs := d.regs, ports := d.ports } ∧
        d.msgs = s.dev.msgs ++ [⟨p.val, true, false, pl, now, locked⟩]) ∧
      (s.dev.attaches = true → s.dev.msgs = [] → s.dev.challenge.get p.val none = none → ∃ d : Dev,
        exec (.fmProof p 106 pl) s = .next { s with dev := d.finish } ∧ d.fm = s.dev.fm ∧ fails d 6 ∧
        d.lockout.get p.val none = some now) ∧
      ∀ c : Challenge, s.dev.attaches = true → s.dev.msgs = [] → s.dev.challenge.get p.val none = some c →
      let k := keyDigest c.key
      let m := natBytes (Config.sha3 (c.nonce ++ deviceDigest ++ [BitVec.ofNat 8 p.val] ++ k)).toNat 64
      let ed := Config.ed25519Verify (slice c.key 0 32) m (slice pl 0 64)
      let ml := Config.mldsaVerify (slice c.key 32 1952) m (slice pl 64 3309)
      ∃ d : Dev, exec (.fmProof p 106 pl) s = .next { s with dev := d.finish } ∧ d.challenge.get p.val none = none ∧
        d.mem = s.dev.mem ∧
        (c.since + s.dev.most 1200000000 < now → d.fm = s.dev.fm ∧ fails d 6 ∧ d.lockout.get p.val none = some now) ∧
        (now ≤ c.since + s.dev.most 1200000000 →
          (ed = false → d.fm = s.dev.fm ∧ fails d 2 ∧ d.lockout.get p.val none = some now) ∧
          (ed = true → ml = false → d.fm = s.dev.fm ∧ fails d 3 ∧ d.lockout.get p.val none = some now) ∧
          (ed = true → ml = true → (∀ f, s.dev.fm = some f → f.key = k) → d.fm = some ⟨p.val, k⟩ ∧ d.fmRing = {}) ∧
          (∀ f, ed = true → ml = true → s.dev.fm = some f → f.key ≠ k → d.fm = s.dev.fm ∧ fails d 7 ∧ d.lockout = s.dev.lockout))) ∧
    (∀ c, s.dev.working = true → s.dev.challenge.get p.val none = some c → s.dev.ran (portDom p.val) c.since 1000000000 = true →
      (∀ m ∈ s.dev.msgs, m.port = p.val → m.proof = false) → ∃ d : Dev,
      exec (.challengeExpiry p) s = .next { s with dev := d.finish } ∧ d.challenge.get p.val none = none ∧ fails d 6 ∧
      d.fm = s.dev.fm ∧ d.lockout.get p.val none = some now) ∧
    ∀ t, s.dev.lockout.get p.val none = some t → s.dev.ran (portDom p.val) t 1000000000 = true → ∃ d : Dev,
      exec (.attachLockoutExpiry p) s = .next { s with dev := d.finish } ∧ d = { s.dev with lockout := d.lockout } ∧
      d.lockout.get p.val none = none

/-- Flits on a port that presents data: a good DATA flit with the next SEQ moves the receive sequence on, and the transaction that one
carries whole in its first slot has its effect; one that fails its checks, its CRC or the Loam code of a slot that is not empty, moves
nothing and asks for a replay; so does a codeword count that shows lost flits; a second failure of the SEQ is lasting, and the port
retrains; an ACK takes what it covers out of the retry buffer; a credit total above what was sent takes the port DOWN. A replay that is
due sends the whole buffer again, two flits a codeword.
Readings of the model that it rests on: log 21. -/
def Obligations.FlitsAndReplay : Prop :=
  ∀ (s : State) (p : Fin 16),
    let x := s.dev.port p.val
    let rsp := fun (f : Flit) => x.rspFreed + credDelta f.crdRsp x.rspFreed
    let ctl := fun (f : Flit) => x.ctlFreed + credDelta f.crdCtl x.ctlFreed
    let answers := fun (f : Flit) (d : Dev) => exec (.flitReceive p f) s = .next { s with dev := d.finish f.ph }
    let calm := fun (f : Flit) => x.presents = true ∧ flitFailed f = false ∧ f.ftype = 1 ∧ x.nakOut = false ∧ f.nak = false ∧
      f.retrainReq = false ∧ x.ctlQ = [] ∧ x.txq = [] ∧ rsp f ≤ x.rspSent ∧ ctl f ≤ x.ctlSent ∧ f.crdReq = 0
    (∀ f : Flit, x.presents = true → flitFailed f = true → x.gap f = false →
      (x.nakOut = false ∨ f.ftype ≠ 1 ∨ x.failSeq ≠ some f.seq → ∃ d : Dev, answers f d ∧
        d = { s.dev with regs := d.regs, ports := d.ports, wire := d.wire } ∧ s.dev.wire.length < d.wire.length ∧
        (d.port p.val).rxSeq = x.rxSeq ∧ (d.port p.val).nakOut = true ∧ (d.port p.val).unacked = x.unacked) ∧
      (x.nakOut = true → f.ftype = 1 → x.failSeq = some f.seq → ∃ d : Dev, answers f d ∧ (d.port p.val).st = .retrain ∧
        (d.port p.val).rxSeq = x.rxSeq ∧ d.mem = s.dev.mem)) ∧
    (∀ f : Flit, calm f → (∀ j, j < 8 → f.filled j = false) →
      (x.gap f = false → ∃ d : Dev, answers f d ∧ d = { s.dev with regs := d.regs, ports := d.ports, wire := d.wire } ∧
        (d.port p.val).rxSeq = (if f.seq = x.rxSeq + 1 then x.rxSeq + 1 else x.rxSeq) ∧
        (d.port p.val).rspFreed = rsp f ∧ (d.port p.val).ctlFreed = ctl f ∧ (d.port p.val).tableHold = f.tableHold ∧
        ((∀ u ∈ x.unacked, u.seq ≠ f.ack) → (d.port p.val).unacked = x.unacked) ∧
        (∀ l u r, x.unacked = l ++ u :: r → u.seq = f.ack → (∀ w ∈ l, w.seq ≠ f.ack) →
          (d.port p.val).unacked = r ∧ (d.port p.val).txAck = f.ack)) ∧
      (x.gap f = true → f.seq ≠ x.rxSeq + 1 → ∃ d : Dev, answers f d ∧ (d.port p.val).rxSeq = x.rxSeq ∧
        (d.port p.val).nakOut = true ∧ d.mem = s.dev.mem)) ∧
    (∀ f : Flit, calm f → x.gap f = false → f.seq = x.rxSeq + 1 → (∀ j, j < 8 → (f.filled j = true ↔ j = 0)) → f.vc 0 = 0 →
      f.som 0 = true → x.rx.get 0 none = none →
      let g := (loamDecode (f.slots.getD 0 0)).2
      hType g ≠ 0x0A → msgLen 0 g = 0 → ∃ s1 : State,
        s1 = { s with dev := { s.dev with regs := s1.dev.regs, ports := s1.dev.ports } } ∧
        (s1.dev.port p.val).rxSeq = x.rxSeq + 1 ∧ exec (.flitReceive p f) s = .next ((s1.rxDone p.val 0 ⟨g, [], 0⟩ f.ph).onDev fun d =>
          let e := if (d.port p.val).presents = true then d.sendIdle p.val false false else d
          (e.ctlSend p.val (e.port p.val).ctlQ.length).finish f.ph)) ∧
    (∀ f : Flit, x.presents = true → flitFailed f = false → f.ftype ≤ 3 → x.nakOut = false →
      x.rspSent < rsp f ∨ x.ctlSent < ctl f ∨ f.crdReq ≠ 0 → ∃ d : Dev, answers f d ∧ (d.port p.val).st = .down ∧
      d.mem = s.dev.mem ∧ d.fld row_OLY_STATUS p.val f_OLY_STATUS_DOWN_CAUSE = 6) ∧
    (x.st = .active → x.unacked ≠ [] → s.dev.atLeast (portDom p.val) x.ackAt 1000 = true → ∃ d : Dev,
      exec (.replayTimeout p) s = .next { s with dev := d.finish } ∧
      d = { s.dev with regs := d.regs, ports := d.ports, wire := d.wire } ∧ s.dev.wire.length < d.wire.length ∧
      d.port p.val = { x with ackAt := s.dev.now (portDom p.val), txWords := x.txWords + (x.unacked.length + 1) / 2 } ∧
      d.fld row_OLY_RETRY p.val f_OLY_RETRY_REPLAYS =
        (s.dev.fld row_OLY_RETRY p.val f_OLY_RETRY_REPLAYS + x.unacked.length) % (f_OLY_RETRY_REPLAYS.top + 1))

/-- Training and the port states, with the PLL locked: DOWN trains after its wait, TRAIN ends ACTIVE at the width its lanes allow,
DOWN with LANE_FAIL where no half is good, DOWN with PROTOCOL where the far end does not fit, DOWN with TRAIN_FAIL at its bound;
RETRAIN keeps the width or narrows, never widens, without the lane that was corrected most, and the CTL messages that waited for it
go; loss of the link, and a reset, take the port DOWN with their causes, a reset from FAILED with its domain LIVE again unless its die
is fenced. Where that leaves ACTIVE, RETRAIN or HOLD it is a port reset: the port's own OLY registers are back at their reset values
and its timer starts again from 0.
Readings of the model that it rests on: log 27. -/
def Obligations.TrainingAndPortStates : Prop :=
  ∀ (s : State) (p : Fin 16),
    let x := s.dev.port p.val
    let now := s.dev.portTime p.val
    let force := s.dev.fld row_OLY_CTL p.val f_OLY_CTL_FORCE_X4 == 1
    let down := fun (c : Instr) (cause : Nat) => ∃ d : Dev, exec c s = .next { s with dev := d.finish } ∧
      (d.port p.val).st = .down ∧ d.fld row_OLY_STATUS p.val f_OLY_STATUS_DOWN_CAUSE = cause ∧ d.mem = s.dev.mem
    (s.dev.linkRuns p.val = true →
      (x.st = .down → x.pllLost = false → x.immediate = true ∨ x.since + s.dev.least 100000000 ≤ now → ∃ d : Dev,
        exec (.portTrainStart p) s = .next { s with dev := d.finish } ∧ d = { s.dev with regs := d.regs, ports := d.ports } ∧
        d.port p.val = { x with
          st := .train, since := now, immediate := false, laneFail := 0, width := 0, txPreset := s.dev.startPresets p.val }) ∧
      (∀ lanes f, x.st = .train → x.pllLost = false → f.tstate = 3 → now ≤ x.since + s.dev.most 50000000 →
        (widthOf lanes force = 0 → down (.trainComplete p lanes f) 4) ∧
        (widthOf lanes force ≠ 0 → f.proto ≠ 1 ∨ f.role = 1 → down (.trainComplete p lanes f) 6) ∧
        (widthOf lanes force ≠ 0 → f.proto = 1 → f.role ≠ 1 → ∃ d : Dev,
          exec (.trainComplete p lanes f) s = .next { s with dev := d.finish } ∧ (d.port p.val).st = .active ∧
          (d.port p.val).width = widthOf lanes force ∧ (d.port p.val).farRsp = f.advRsp.toNat ∧
          (d.port p.val).farCtl = f.advCtl.toNat ∧ s.dev.wire.length < d.wire.length ∧
          (x.linkReset = false → d = { s.dev with ports := d.ports, wire := d.wire }))) ∧
      (x.st = .train → x.since + s.dev.most 50000000 ≤ now → down (.trainTimeout p) 3) ∧
      (∀ locked : BitVec 8, x.st = .retrain → x.pllLost = false → now ≤ x.since + s.dev.most 20000000 →
        let lanes := locked &&& ~~~ x.worst
        let w := if x.width = 3 then widthOf lanes force else if x.width = 1 then (if lanes &&& 0x0F = 0x0F then 1 else 0)
          else (if lanes &&& 0xF0 = 0xF0 then 2 else 0)
        (w ≠ 0 → ∃ d : Dev, exec (.retrainComplete p locked) s = .next { s with dev := d.finish } ∧
          d = { s.dev with regs := d.regs, ports := d.ports, out := d.out, wire := d.wire } ∧ (d.port p.val).st = .active ∧
          (d.port p.val).width = w ∧ (d.port p.val).rxSeq = x.rxSeq ∧
          (d.port p.val).laneFail = x.laneFail ||| (laneMask x.width &&& ~~~ lanes) ∧
          (x.ctlQ = [] → d.out = s.dev.out ∧ (x.txq = [] → (d.port p.val).unacked = x.unacked))) ∧
        (w = 0 → ∃ d : Dev, exec (.retrainComplete p locked) s = .next { s with dev := d.finish } ∧ (d.port p.val).st = .failed ∧
          (d.dom (portDom p.val)).st = .fenced ∧ d.fld row_OLY_STATUS p.val f_OLY_STATUS_DOWN_CAUSE = 4 ∧ d.mem = s.dev.mem)) ∧
      (x.st = .retrain → x.since + s.dev.most 20000000 ≤ now → down (.retrainTimeout p) 3)) ∧
    (x.st = .active ∨ x.st = .retrain ∨ x.st = .train ∨ x.st = .hold → down (.linkLoss p) 2) ∧
    (x.st = .active ∨ x.st = .retrain ∨ x.st = .hold → ∀ c, c = .linkLoss p ∨ c = .olyReset p → ∃ d : Dev,
      exec c s = .next { s with dev := d.finish } ∧ d.timers.get (portDom p.val) 0 = 0 ∧
      ∀ r ∈ [row_OLY_CTL, row_OLY_RETRY, row_OLY_FEC, row_OLY_LANE, row_OLY_CNT, row_OLY_ERR, row_OLY_TRAIN],
        d.rd r p.val = r.resetValue) ∧
    (s.dev.portRuns p.val = true → x.st = .active → ∃ d : Dev, exec (.olyRetrain p) s = .next { s with dev := d.finish } ∧
      d = { s.dev with regs := d.regs, ports := d.ports, wire := d.wire } ∧ s.dev.wire.length < d.wire.length ∧
      d.port p.val = { x with st := .retrain, since := now, txWords := x.txWords + 1 }) ∧
    (x.st ≠ .failed ∨ bitOf s.dev.dieFenced.toNat (dieOfPort p.val) = false → down (.olyReset p) 1) ∧
    (x.st = .failed → bitOf s.dev.dieFenced.toNat (dieOfPort p.val) = false → ∃ d : Dev,
      exec (.olyReset p) s = .next { s with dev := d.finish } ∧ (d.dom (portDom p.val)).st = .live) ∧
    (x.st = .failed → bitOf s.dev.dieFenced.toNat (dieOfPort p.val) = true →
      exec (.olyReset p) s = .next { s with dev := s.dev.finish })

/-! ### Bandwidth regulation and memory controllers (R252 to R286, R297) -/

/-- The update of a set's ceilings: with feedback each falls by an eighth of itself, at least 1 and not below CMIN, where the queue
is above HIGH_WM and the master sent best-effort work; rises by an eighth, at least 16, up to CEIL_MAX, where it is below LOW_WM;
stays otherwise; without feedback, or of a master with no path to the set, none changes. The best-effort counts start again. The
scale factor of a set is the smaller of its channels in service and its rate, 0 where the set is fenced.
Readings of the model that it rests on: log 39. -/
def Obligations.CeilingsAndScale : Prop :=
  ∀ (s : State) (x : Fin 32) (S : Machine.SSet), s.dev.set? x.val = some S →
    let q := (S.insts.map s.dev.qLevel).foldl max 0
    (s.dev.working = true →
      (s.dev.sq x.val).ceilAt + 25 * s.dev.fld row_QOS_CTL 0 f_QOS_CTL_PERIOD ≤ s.dev.lived (commonDom S.die) →
      ∃ d : Dev, exec (.ceilingUpdate x) s = .next { s with dev := d.finish } ∧ d = { s.dev with setq := d.setq } ∧
        (d.sq x.val).beGran = [] ∧ (d.sq x.val).qlevel = min 255 q ∧ (d.sq x.val).k = (s.dev.sq x.val).k ∧
        (∀ i, i < 30 → d.ceiling x.val i =
          if s.dev.fld row_QOS_CTL 0 f_QOS_CTL_FEEDBACK_EN ≠ 1 ∨ s.dev.masterPath x.val i = false then s.dev.ceiling x.val i
          else if S.highWm < q ∧ 0 < (s.dev.sq x.val).beGran.get i 0 then
            max (s.dev.cmin x.val i) (s.dev.ceiling x.val i - max 1 (s.dev.ceiling x.val i / 8))
          else if q < S.lowWm then min 16777215 (s.dev.ceiling x.val i + max 16 (s.dev.ceiling x.val i / 8))
          else s.dev.ceiling x.val i) ∧
        ∀ k, k ≠ x.val → d.sq k = s.dev.sq k) ∧
    (s.dev.freezes = .running →
      let on := (S.channels.filter fun c => s.dev.inService (instOfChan S.sub c)).length
      let throttled := s.pwr.causes ≠ [] ∨ s.sec.trimAbsent = true
      let K := if s.dev.setFenced x.val = true then 0
        else min (1024 * on / max 1 S.channels.length) (if throttled then min 1024 (1024 * s.dev.rateDc.get S.die 0 / 1300) else 1024)
      ∃ d : Dev, exec (.scaleFactorUpdate x) s = .next { s with dev := d.finish } ∧ (d.sq x.val).k = K ∧ d.mem = s.dev.mem ∧
        (∀ i, i < 30 → d.cmin x.val i ≤ d.ceiling x.val i) ∧ ∀ i, i < 30 → s.dev.ceiling x.val i ≤ d.ceiling x.val i) ∧
    (s.dev.freezes = .running → (s.dev.sq x.val).pendingEvent = true →
      (∀ t, (s.dev.sq x.val).lastEvent = some t → s.dev.ran (commonDom S.die) t 1000000 = true) →
      ∃ d : Dev, exec (.shortfallHoldoffExpiry x) s = .next { s with dev := d.finish } ∧ (d.sq x.val).pendingEvent = false ∧
        (d.sq x.val).k = (s.dev.sq x.val).k ∧ d.mem = s.dev.mem)

/-- A piece that arrives at an instance in service, no more of it than its request has still to move there, enters the queue where
there is room and nothing waits before it: best-effort where its master's account is not positive, and then at no charge; else the
account pays its granules and the piece is RT where it has a budget. A request with pieces left only notes it; one that finds the
queue full waits at the crossbar; one at a fenced instance ends its request with POISON; a piece of a request that has none left there
is none. A service of an ACTIVE instance takes one piece of that part out of the queue, of the highest class that waits there where
none is issued again, opens its row and counts its granules; then what waits at the crossbar enters.
Readings of the model that it rests on: log 39, 43. -/
def Obligations.PiecesAreQueuedAndServed : Prop :=
  ∀ (s : State) (i : Fin 100),
    let x := s.dev.inst i.val
    (∀ pc : PieceIn, s.dev.accepts i.val = true →
      (s.dev.pieceOf i.val pc = none → exec (.controllerPieceArrival i pc) s = .next s) ∧
      ∀ pi : PieceIn, s.dev.pieceOf i.val pc = some pi →
      (x.st ≠ .fenced → x.xbar = [] → s.dev.hasRoom i.val pi = true → ∃ (e d : Dev) (q : Piece),
        exec (.controllerPieceArrival i pc) s = .next { s with dev := d.finish } ∧
        d = (e.accepted i.val q.pc q.cls).peak i.val ∧ e = { s.dev with insts := e.insts } ∧
        let m := (s.dev.pieceMaster pi).val
        let a := ((s.dev.accrue i.val).inst i.val).acct.get m 0
        (e.inst i.val).queue = x.queue ++ [q] ∧
        q.pc = { pi with budget := s.dev.serviceBudget pi, master := s.dev.pieceMaster pi } ∧
        (a ≤ 0 → q.cls = .be ∧ (e.inst i.val).acct.get m 0 = a) ∧
        (0 < a → q.cls = (if q.pc.budget.isSome then .rt else .guar) ∧
          (e.inst i.val).acct.get m 0 = a - Int.ofNat (pi.gran * acctUnit)) ∧
        (∀ j, j ≠ i.val → e.inst j = s.dev.inst j) ∧
        (pc.req = none → d = { s.dev with insts := e.insts, regs := d.regs }) ∧
        ∀ id r, pc.req = some id → s.dev.reqOf id = some r → (∃ p ∈ r.pieces, p.1 ≠ i.val ∨ pi.gran < p.2) →
          d = { s.dev with insts := e.insts, regs := d.regs, reqs := d.reqs } ∧
          ∃ l, d.reqOf id = some { r with pieces := l, queued := r.queued ++ [(i.val, q.cls)] }) ∧
      (x.st ≠ .fenced → x.xbar ≠ [] ∨ s.dev.hasRoom i.val pi = false → ∃ d : Dev,
        exec (.controllerPieceArrival i pc) s = .next { s with dev := d.finish } ∧ d = { s.dev with insts := d.insts } ∧
        d.inst i.val = { x with xbar := x.xbar ++ [pi] } ∧ ∀ j, j ≠ i.val → d.inst j = s.dev.inst j) ∧
      (x.st = .fenced →
        (pc.req = none → exec (.controllerPieceArrival i pc) s = .next { s with dev := s.dev.finish }) ∧
        ∀ r, pc.req.bind s.dev.reqOf = some r →
          exec (.controllerPieceArrival i pc) s = .next { s with dev := (s.dev.failReq r.id 0x07).finish })) ∧
    ∀ part : Fin 8, x.st = .active → s.dev.freezes = .running →
      let mine := x.queue.filter fun p => p.pc.part == part
      (mine = [] → exec (.queueService i part) s = .next { s with dev := s.dev.finish }) ∧
      (mine ≠ [] → ∃ (d : Dev) (p : Piece), exec (.queueService i part) s = .next { s with dev := (d.xbarDrain i.val).finish } ∧
        p ∈ mine ∧
        ((∀ q ∈ mine, q.again = false) → ∀ q ∈ mine, p.cls.rank ≤ q.cls.rank) ∧
        ((∃ q ∈ mine, q.again = true) → mine.find? (·.again) = some p) ∧
        (d.inst i.val).queue = x.queue.erase p ∧ (d.inst i.val).bursts = x.bursts + p.pc.gran ∧
        (d.inst i.val).rows.get (part.val * 16 + p.pc.bank.val) 0 = p.pc.row + 1 ∧
        d = { s.dev with insts := d.insts, regs := d.regs, setq := d.setq, reqs := d.reqs } ∧
        (x.xbar = [] → d.xbarDrain i.val = d))

/-- The controllers' own events: a refresh closes its bank's row; a pause that passes counts and notes the reading, one that fails
leaves a retry, and a retry that fails too fails its channel and fences the set; self-refresh closes every row and its exit, the PLL
locked and its training step passed, leaves the instance ACTIVE; a reading is stored, and counts as 105 degrees where it is invalid;
a reset with replay that passes leaves the instance ACTIVE with its queue, whose reads are made again, or in a device that has failed
in self-refresh; one that fails fences its set. Of these, memory changes only where a fence takes back the writes of requests
(log 43) or reads are made again.
Readings of the model that it rests on: log 39, 41. -/
def Obligations.ControllerEvents : Prop :=
  ∀ (s : State) (i : Fin 100),
    let x := s.dev.inst i.val
    let only := fun (d : Dev) => d = { s.dev with insts := d.insts, regs := d.regs } ∧ ∀ j, j ≠ i.val → d.inst j = s.dev.inst j
    (s.dev.freezes = .running → x.st = .active →
      (∀ (part : Fin 8) (bank : Fin 16), ∃ d : Dev, exec (.refresh i part bank) s = .next { s with dev := d.finish } ∧ only d ∧
        (d.inst i.val).rows.get (part.val * 16 + bank.val) 0 = 0 ∧ (d.inst i.val).queue = x.queue ∧
        ∀ k, k ≠ part.val * 16 + bank.val → (d.inst i.val).rows.get k 0 = x.rows.get k 0) ∧
      (∀ (part : Fin 8) b, s.dev.pauseDue i.val part.val = some b →
        (∃ d : Dev, exec (.retrainPause i part true) s = .next { s with dev := d.finish } ∧ only d ∧
          (d.inst i.val).retry = x.retry ∧ (d.inst i.val).queue = x.queue ∧
          (d.inst i.val).pausedAt.get (pauseKey i.val part.val) 0 = s.dev.now (instDom i.val)) ∧
        ∃ d : Dev, exec (.retrainPause i part false) s = .next { s with dev := d.finish } ∧ only d ∧
          (d.inst i.val).retry = some (part.val, x.group.get (pauseKey i.val part.val) 0 % 6) ∧ (d.inst i.val).st = .active) ∧
      (∀ part g, x.retry = some (part, g) →
        (∃ d : Dev, exec (.retrainRetry i true) s = .next { s with dev := d.finish } ∧ (d.inst i.val).retry = none ∧
          (d.inst i.val).st = .active ∧ (d.inst i.val).failed = x.failed ∧ d.mem = s.dev.mem) ∧
        ∃ d : Dev, exec (.retrainRetry i false) s = .next { s with dev := d.finish } ∧
          (s.dev.reqs = [] → d.mem = s.dev.mem) ∧
          (d.inst i.val).failed = x.failed ||| BitVec.ofNat 4 (2 ^ (part / 2)) ∧
          ∀ st, s.dev.setOfInst i.val = some st → d.setFenced st = true) ∧
      (s.dev.srDue i.val = true → ∃ d : Dev, exec (.selfRefreshEntry i) s = .next { s with dev := d.finish } ∧ only d ∧
        (d.inst i.val).st = .selfRefresh ∧ (d.inst i.val).rows = [] ∧ (d.inst i.val).queue = [] ∧
        (d.inst i.val).failed = x.failed ∧ (d.inst i.val).pausedAt = x.pausedAt)) ∧
    (x.st = .selfRefresh → x.pllLost = false → s.dev.failed = false → (s.dev.dom (instDom i.val)).st = .live →
      s.dev.freezes = .thawing ∨ (s.dev.freezes = .running ∧ (x.queue ≠ [] ∨ x.xbar ≠ [])) →
      (∃ d : Dev, exec (.selfRefreshExit ⟨i, []⟩) s = .next { s with dev := d.finish } ∧ only d ∧ (d.inst i.val).st = .active ∧
        (d.inst i.val).queue = x.queue ∧ (d.inst i.val).xbar = x.xbar ∧ (d.inst i.val).rows = []) ∧
      (∀ fails, lastingMask fails = 0 → ∃ d : Dev, exec (.selfRefreshExit ⟨i, fails⟩) s = .next { s with dev := d.finish } ∧
        (d.inst i.val).st = .active ∧ d.mem = s.dev.mem) ∧
      ∀ fails, lastingMask fails ≠ 0 → ∃ d : Dev, exec (.selfRefreshExit ⟨i, fails⟩) s = .next { s with dev := d.finish } ∧
        (d.inst i.val).failed = x.failed ||| lastingMask fails ∧ (s.dev.reqs = [] → d.mem = s.dev.mem) ∧
        ∀ st, s.dev.setOfInst i.val = some st → d.setFenced st = true) ∧
    (∀ r : Option (BitVec 16), x.st ≠ .off → s.dev.freezes = .running →
      x.tempAt = 0 ∨ s.dev.atLeast (instDom i.val) x.tempAt 1000000 = true →
      ∃ d : Dev, exec (.tempRead i r) s = .next { s with dev := d.finish } ∧ only d ∧
        d.fld (tempOf i.val).1 (tempOf i.val).2 f_HMC_TEMP_TEMP = (r.getD 420).toNat ∧
        (d.inst i.val).hot = decide (420 ≤ (r.getD 420).toInt)) ∧
    (x.st = .replay → x.pllLost = false → s.dev.live (instDom i.val) = true → s.dev.freezes = .running →
      (∀ fails, lastingMask fails = 0 → ∃ d : Dev, exec (.replayResetDone i fails) s = .next { s with
          dev := (let f := d.readAgain i.val; if f.failed then f.toSelfRefresh i.val else f).finish } ∧
        (s.dev.reqs = [] → d.readAgain i.val = d) ∧ d = { s.dev with insts := d.insts, regs := d.regs, logFull := d.logFull } ∧ (∀ j, j ≠ i.val → d.inst j = s.dev.inst j) ∧
        (d.inst i.val).st = .active ∧ (d.inst i.val).queue = x.queue ∧ (d.inst i.val).failed = x.failed) ∧
      ∀ fails, lastingMask fails ≠ 0 → ∃ d : Dev, exec (.replayResetDone i fails) s = .next { s with dev := d.finish } ∧
        (d.inst i.val).failed = x.failed ||| lastingMask fails ∧ (s.dev.reqs = [] → d.mem = s.dev.mem) ∧
        ∀ st, s.dev.setOfInst i.val = some st → d.setFenced st = true)

/-! ### Loam: scrub, poison, test (R299 to R308) -/

/-- Patrol scrub: a sweep starts at the first granule, an additional one is asked for by NOW, and of a set that stores nothing
either is over at once; none starts while one of its kind has granules left; a sweep reads its next stored granule, which moves its
own position alone, an additional one where the ceiling admits it; with no request under way the read changes memory at that granule
alone, and there only by writing the corrected data back with its check bits: a correctable error of a stored granule leaves memory
clean. REMOVE takes LOCATION entries only. The commands of LOAM_TEST
write and read the stored bits of their target, READ_CHECKED returning the decoder's result; one refused changes nothing but the
register.
Readings of the model that it rests on: log 4, 37. -/
def Obligations.ScrubAndTestCommands : Prop :=
  ∀ (s : State),
    (∀ (x : Fin 32) (S : Machine.SSet), s.dev.set? x.val = some S →
      let swept := fun (d : Dev) => d.fld row_LOAM_SCRUB x.val f_LOAM_SCRUB_SWEEPS =
        (s.dev.fld row_LOAM_SCRUB x.val f_LOAM_SCRUB_SWEEPS + 1) % (f_LOAM_SCRUB_SWEEPS.top + 1)
      (s.dev.working = true → s.dev.fld row_LOAM_CTL 0 f_LOAM_CTL_SCRUB_EN = 1 → (s.dev.sq x.val).scrubOn = false → ∃ d : Dev,
        exec (.scrubSweepStart x) s = .next { s with dev := d.finish } ∧ d = { s.dev with setq := d.setq, regs := d.regs } ∧
        (d.sq x.val).scrubPos = 0 ∧ ((s.dev.storedFrom x.val 0).isSome = true → (d.sq x.val).scrubOn = true ∧ d.regs = s.dev.regs) ∧
        (s.dev.storedFrom x.val 0 = none → (d.sq x.val).scrubOn = false ∧ swept d)) ∧
      ((s.dev.sq x.val).scrubOn = true → (s.dev.storedFrom x.val (s.dev.sq x.val).scrubPos).isSome = true →
        exec (.scrubSweepStart x) s = .next s) ∧
      ((s.dev.sq x.val).extra = true → (s.dev.storedFrom x.val (s.dev.sq x.val).extraPos).isSome = true →
        exec (.scrubNow x) s = .next s) ∧
      ((s.dev.sq x.val).extra = false →
        ((s.dev.storedFrom x.val 0).isSome = true → ∃ d : Dev, exec (.scrubNow x) s = .next { s with dev := d } ∧
          d = { s.dev with setq := d.setq } ∧ d.sq x.val = { s.dev.sq x.val with extra := true, extraPos := 0 }) ∧
        (s.dev.storedFrom x.val 0 = none → ∃ d : Dev, exec (.scrubNow x) s = .next { s with dev := d } ∧ swept d ∧ d.mem = s.dev.mem)) ∧
      ∀ (g : BitVec 44) (ph : Phys), s.dev.working = true →
        s.dev.scrubNext x.val g.toNat = true ∨ (s.dev.extraNext x.val g.toNat = true ∧ s.dev.ceilOk scrubMaster [(x.val, 1)] = true) →
        ∃ d : Dev, exec (.scrubRead x g ph) s = .next { s with dev := d.finish } ∧
          (s.dev.scrubNext x.val g.toNat = true →
            (d.sq x.val).scrubPos = g.toNat + 1 ∧ (d.sq x.val).extraPos = (s.dev.sq x.val).extraPos) ∧
          (s.dev.scrubNext x.val g.toNat = false →
            (d.sq x.val).extraPos = g.toNat + 1 ∧ (d.sq x.val).scrubPos = (s.dev.sq x.val).scrubPos) ∧
          (s.dev.reqs = [] → ∀ y ga, ga < 2 ^ 44 → y ≠ x.val ∨ ga ≠ g.toNat → d.memGet y ga = s.dev.memGet y ga) ∧ d.clay = s.dev.clay ∧
          (s.dev.heldAt x.val g.toNat = .none_ → d.mem = s.dev.mem) ∧
          (∀ o sym v, s.dev.heldAt x.val g.toNat = .ext o → s.dev.poisonAt x.val g.toNat = false →
            s.dev.setFenced x.val = false → s.dev.blockPoison o.ext o.blk o.mirror = false →
            loamDecode (s.dev.memGet x.val g.toNat ^^^ (physAt ph x.val g.toNat).1) = (.ce sym, v) →
            d.memGet x.val g.toNat = loamEncode v)) ∧
    (let i := s.dev.fld row_LOAM_PSN_CTL 0 f_LOAM_PSN_CTL_SEL
      ∃ d : Dev, exec .poisonRemove s = .next { s with dev := d } ∧ d = { s.dev with regs := d.regs, poison := d.poison } ∧
        d.fld row_LOAM_PSN_CTL 0 f_LOAM_PSN_CTL_CMD_STATUS = (match s.dev.poison.get i none with
          | none => 2
          | some p => if p.kind = 4 then 0 else 1) ∧
        (∀ k, k ≠ i → d.poison.get k none = s.dev.poison.get k none) ∧
        ∀ p, s.dev.poison.get i none = some p → d.poison.get i none = if p.kind = 4 then none else some p) ∧
    (∀ r, s.dev.testAt = .bad r → ∀ c, c = .writeRaw ∨ c = .readRaw ∨ c = .readChecked → ∃ d : Dev,
      exec c s = .next { s with dev := d } ∧ d = { s.dev with regs := d.regs } ∧
      d.fld row_LOAM_TEST_CTL 0 f_LOAM_TEST_CTL_DONE = 1 ∧ d.fld row_LOAM_TEST_CTL 0 f_LOAM_TEST_CTL_RESULT = r % 256) ∧
    ∀ at_, s.dev.testAt = at_ → (∀ r, at_ ≠ .bad r) →
      let code : Code := BitVec.ofNat 32 (s.dev.fld row_LOAM_TEST_CTL 0 f_LOAM_TEST_CTL_CHECK) ++ s.dev.testData
      let held := s.dev.testGet at_
      (∃ d : Dev, exec .writeRaw s = .next { s with dev := d } ∧ d.testGet at_ = code ∧
        d.fld row_LOAM_TEST_CTL 0 f_LOAM_TEST_CTL_RESULT = 0 ∧
        (∀ y ga, at_ = .mem y ga → d = { s.dev with regs := d.regs, mem := d.mem } ∧
          ∀ z gb, gb < 2 ^ 44 → z ≠ y ∨ gb ≠ ga → d.memGet z gb = s.dev.memGet z gb) ∧
        ∀ k, at_ = .clay k → d = { s.dev with regs := d.regs, clay := d.clay } ∧ ∀ j, j ≠ k → d.clayGet j = s.dev.clayGet j) ∧
      (∃ d : Dev, exec .readRaw s = .next { s with dev := d } ∧ d = { s.dev with regs := d.regs } ∧
        d.testData = codeData held ∧ d.fld row_LOAM_TEST_CTL 0 f_LOAM_TEST_CTL_CHECK = held.toNat / 2 ^ 256) ∧
      ∃ d : Dev, exec .readChecked s = .next { s with dev := d } ∧ d = { s.dev with regs := d.regs } ∧
        d.testData = (loamDecode held).2 ∧
        d.fld row_LOAM_TEST_CTL 0 f_LOAM_TEST_CTL_RESULT = (match (loamDecode held).1 with
          | .clean => 0
          | .ce _ => 1
          | .ue => 2)

/-! ### Safety (R367 to R380) -/

/-- A fence takes a LIVE domain out of service with its cause and counts it: into its reset, or RETIRED where it is a core, clay
buffer or Loess domain and this is its third fence for a detected fault within 60 minutes, fences by the FM not counting; a port
domain is fenced with its port FAILED; a timer of its own starts again from 0. A domain that is not LIVE takes no second fence. A
passed reset returns the domain LIVE and counts the rejoin, where it rejoins alone, a clay buffer with its banks written anew; a core
or clay buffer whose cluster is in reset with it waits until the last of them has passed; a failed self-test raises a latent fault
and it or a late reset retires the domain, with its set where it is an instance. What a rejoin or a fence does to the requests of an
instance is not said here: memory stays where none is under way.
Readings of the model that it rests on: log 38, 43, 45, 46. -/
def Obligations.DomainFences : Prop :=
  ∀ (s : State) (x : Fin 336),
    let e := s.dev.dom x.val
    let isPort := 0x13C ≤ x.val ∧ x.val < 0x14C
    let now := s.dev.now (alwaysKey (dieOfDom x.val))
    let recent := e.times.filter fun u => now ≤ u + s.dev.most 3600000000000
    let third := fun (cause : Nat) => (x.val < 0xD8 ∨ 0x14C ≤ x.val) ∧ cause ≠ 9 ∧ 2 ≤ recent.length
    let fences := fun (c : Instr) (cause : Nat) => ∃ d : Dev, exec c s = .next { s with dev := d.finish } ∧ d.flash = s.dev.flash ∧
      (d.dom x.val).cause = cause ∧ (d.dom x.val).fences = min 255 (e.fences + 1) ∧
      (isPort → (d.dom x.val).st = .fenced ∧ (d.port (x.val - 0x13C)).st = .failed) ∧
      (0xD8 ≤ x.val → ¬ third cause → d.timers.get x.val 0 = 0) ∧
      (¬ isPort → ((d.dom x.val).st = if third cause then .retired else .resetting) ∧
        (d.dom x.val).times = if cause = 9 then recent else (now :: recent).take 3)
    let portIn := isPort → (s.dev.port (x.val - 0x13C)).st ≠ .failed ∧ (s.dev.port (x.val - 0x13C)).st ≠ .disabled
    (s.dev.live x.val = true → portIn →
      (∀ cause : Fin 16, 1 ≤ cause.val → cause.val ≤ 9 → fences (.domainFence x cause) cause.val) ∧
      fences (.safDomFence x) 9 ∧ (s.dev.watched x.val = true → fences (.watchdogStall x) 1)) ∧
    (s.dev.live x.val = false → (∀ cause, exec (.domainFence x cause) s = .next s) ∧ exec (.safDomFence x) s = .next s ∧
      exec (.watchdogStall x) s = .next s) ∧
    let still := 0xD8 ≤ x.val → x.val < 0x13C → s.dev.reqs = []
    (s.dev.resetting x.val = true → (s.dev.noLock x.val = true → exec (.domainRejoin x true) s = .next s) ∧
      (e.passed = true → exec (.domainRejoin x false) s = .next s ∧ exec (.domainResetTimeout x) s = .next s)) ∧
    (s.dev.resetting x.val = true → s.dev.noLock x.val = false →
      (s.dev.resetLate x.val = false → s.dev.boundary x.val = true →
        (∃ y ∈ s.dev.rejoinGroup x.val, y ≠ x.val ∧ (s.dev.dom y).passed = false) → ∃ d : Dev,
        exec (.domainRejoin x true) s = .next { s with dev := d.finish } ∧ d = { s.dev with doms := d.doms } ∧
        d.dom x.val = { e with passed := true } ∧ ∀ y, y ≠ x.val → d.dom y = s.dev.dom y) ∧
      (s.dev.resetLate x.val = false → s.dev.boundary x.val = true → s.dev.rejoinGroup x.val = [x.val] → ∃ d : Dev,
        exec (.domainRejoin x true) s = .next { s with dev := d.finish } ∧
        (still → (d.dom x.val).st = .live ∧ d.mem = s.dev.mem ∧
          (d.dom x.val).fences = e.fences ∧ (∀ y, y ≠ x.val → d.dom y = s.dev.dom y) ∧
          d.fld row_SAF_CNT 0 f_SAF_CNT_REJOINS =
            (s.dev.fld row_SAF_CNT 0 f_SAF_CNT_REJOINS + 1) % (f_SAF_CNT_REJOINS.top + 1)) ∧
        (0xC0 ≤ x.val → x.val < 0xD8 → ∀ k, k / (320 * 2048) = x.val - 0xC0 → d.clayGet k = 0)) ∧
      (s.dev.resetLate x.val = false → s.dev.boundary x.val = true →
        (∀ y ∈ s.dev.rejoinGroup x.val, y = x.val ∨ (s.dev.dom y).passed = true) → ∃ d : Dev,
        exec (.domainRejoin x true) s = .next { s with dev := d.finish } ∧
        (still → d.mem = s.dev.mem ∧ ∀ y ∈ s.dev.rejoinGroup x.val, (d.dom y).st = .live)) ∧
      (e.passed = false → ∃ d : Dev, exec (.domainRejoin x false) s = .next { s with dev := d.finish } ∧ (d.dom x.val).st = .retired ∧
        d.pend.getLsbD 4 = true ∧ d.faultN = true ∧ (still → d.mem = s.dev.mem) ∧
        (∀ k, 0xD8 ≤ x.val → x.val < 0x13C → s.dev.setOfInst (x.val - 0xD8) = some k → d.setFenced k = true)) ∧
      (e.passed = false → s.dev.resetLate x.val = true → ∃ d : Dev, exec (.domainResetTimeout x) s = .next { s with dev := d.finish } ∧
        (d.dom x.val).st = .retired ∧ (still → d.mem = s.dev.mem)))

/-- A Marl pair that is lost counts no more as up, with its bit and the safety pending bit set; the other pair takes over, and when
it has, commands are served again; both lost is DEVICE_FAILED with cause 2. A self-test round counts itself and a failure, whose
domain is fenced; two sensor chains that disagree raise LATENT_FAULT, once for a chain that is out, and fence the die when both are out. SAF_STATUS loses
the bits written 1 and no others; FAULT_N is asserted exactly while a condition holds. -/
def Obligations.MarlSelfTestAndFaultPin : Prop :=
  ∀ (s : State),
    (∀ p : Fin 2, s.dev.marlOn p.val = true → ∀ c, c = .marlLockstepMismatch p ∨ c = .marlWatchdogExpiry p → ∃ d : Dev,
      exec c s = .next { s with dev := d.finish } ∧ d.marlLost = s.dev.marlLost ||| BitVec.ofNat 2 (2 ^ p.val) ∧
      d.marlUp = s.dev.marlUp &&& ~~~ BitVec.ofNat 2 (2 ^ p.val) ∧ d.pend.getLsbD 3 = true ∧ d.faultN = true ∧
      d.mem = s.dev.mem ∧
      (d.marlLost ≠ 3 → d.takeover = some p.val ∧ d.state = s.dev.state) ∧
      (d.marlLost = 3 → s.dev.state ≠ .failed → d.state = .failed ∧ d.dfCause = 2 ∧ d.takeover = none)) ∧
    (s.dev.takeover.isSome = true → s.dev.freezes = .running →
      exec .marlTakeover s = .next { s with dev := ({ s.dev with takeover := none }).finish }) ∧
    (∀ (die : Fin 2), s.dev.working = true → s.dev.atLeast (alwaysKey die.val) (s.dev.stestAt.get die.val 0)
        (s.dev.fld row_SAF_CTL 0 f_SAF_CTL_STEST_HOURS * 3600000000000) = true →
      (∀ fails, ∃ d : Dev, exec (.selfTest die fails) s = .next { s with dev := d.finish } ∧
        d.stestAt.get die.val 0 = s.dev.now (alwaysKey die.val)) ∧
      ∃ d : Dev, exec (.selfTest die []) s = .next { s with dev := d.finish } ∧
        d = { s.dev with regs := d.regs, stestAt := d.stestAt } ∧
        d.fld row_SAF_STEST die.val f_SAF_STEST_RUNS =
          (s.dev.fld row_SAF_STEST die.val f_SAF_STEST_RUNS + 1) % (f_SAF_STEST_RUNS.top + 1)) ∧
    (∀ (die : Fin 2) (f : TestFail), s.dev.working = true → s.dev.atLeast (alwaysKey die.val) (s.dev.stestAt.get die.val 0)
        (s.dev.fld row_SAF_CTL 0 f_SAF_CTL_STEST_HOURS * 3600000000000) = true →
      1 ≤ f.cls → f.cls ≤ 7 → f.domain < 336 → dieOfDom f.domain = die.val → classIn f.cls f.domain = true →
      ∃ d : Dev, exec (.selfTest die [f]) s = .next { s with dev := d.finish } ∧ d.pend.getLsbD 4 = true ∧
        d.fld row_SAF_STEST die.val f_SAF_STEST_RUNS =
          (s.dev.fld row_SAF_STEST die.val f_SAF_STEST_RUNS + 1) % (f_SAF_STEST_RUNS.top + 1) ∧
        d.fld row_SAF_STEST die.val f_SAF_STEST_FAILS = min f_SAF_STEST_FAILS.top (s.dev.fld row_SAF_STEST die.val f_SAF_STEST_FAILS + 1) ∧
        d.fld row_SAF_STEST die.val f_SAF_STEST_LAST_FAIL = f.cls ∧
        (s.dev.live f.domain = true → f.domain < 0x13C ∨ 0x14C ≤ f.domain → (d.dom f.domain).cause = 8)) ∧
    (∀ (die : Fin 2) (cls : Fin 3), s.dev.step ≠ .standby →
      (s.dev.chainOut.getLsbD (3 * die.val + cls.val) = false → ∃ d : Dev,
        exec (.sensorChainDisagree die cls false) s = .next { s with dev := d.finish } ∧
        d.chainOut = s.dev.chainOut ||| BitVec.ofNat 6 (2 ^ (3 * die.val + cls.val)) ∧ d.pend.getLsbD 4 = true ∧
        d.faultN = true ∧ d.dieFenced = s.dev.dieFenced ∧ d.state = s.dev.state ∧ d.mem = s.dev.mem ∧
        d.fld row_SAF_STEST die.val f_SAF_STEST_LAST_FAIL = 9 + cls.val) ∧
      ∃ d : Dev, exec (.sensorChainDisagree die cls true) s = .next { s with dev := d.finish } ∧
        d.dieFenced.getLsbD die.val = true ∧ (s.dev.dieFenced.getLsbD die.val = false → d.state = .failed)) ∧
    (∀ v, ∃ d : Dev, exec (.safStatusClear v) s = .next { s with dev := d } ∧
      (∀ k, k < 5 → d.pend.getLsbD k = (s.dev.pend.getLsbD k && !v.getLsbD (4 + k))) ∧ s.dev.eventsOnly { d with
        pend := s.dev.pend, faultN := s.dev.faultN }) ∧
    ∀ on, ∃ d : Dev, exec (.faultTest on) s = .next { s with dev := d } ∧ d.faultN = (on || s.dev.pend ≠ 0 || s.dev.dieFenced ≠ 0 ||
        s.dev.failed) ∧ d.pend = s.dev.pend ∧ d.mem = s.dev.mem ∧ d.ctxs = s.dev.ctxs

/-- Failures of the device. A Vcore over its limit and a thermal trip switch the rails off, memory not kept, with DEVICE_FAILED 5
and 4; a Vcore under its limit and a fault of die common logic fence the die with every LIVE domain and set on it; a memory rail
fault fences exactly the sets of its tier and die, and memory that a reset has kept in self-refresh is lost by it. Of these fences,
memory changes only where they take back the writes of requests (log 43).
Readings of the model that it rests on: log 23, 38, 43. -/
def Obligations.DeviceFailures : Prop :=
  ∀ (s : State) (die : Fin 2),
    (s.dev.vcore = true → ∃ d : Dev, exec (.vcoreOverLimit die) s = .next { s with dev := d.finish } ∧ d.vcoreOff = true ∧
      d.mem = [] ∧ d.memKept = false ∧ d.state = .failed ∧ (s.dev.state ≠ .failed → d.dfCause = 5) ∧ d.flash = s.dev.flash) ∧
    (s.dev.step ≠ .standby → ∃ d : Dev, exec (.thermalTrip die) s = .next { s with dev := d.finish } ∧ d.vcoreOff = true ∧
      d.thermTrip = true ∧ d.mem = [] ∧ d.state = .failed ∧ (s.dev.state ≠ .failed → d.dfCause = 4) ∧ d.flash = s.dev.flash) ∧
    (s.dev.vcore = true → s.dev.dieFenced.getLsbD die.val = false → ∀ c cause,
      (c = .vcoreUnderLimit die ∧ cause = 3) ∨ (c = .dieCommonFault die false ∧ cause = 1) ∨
        (c = .dieCommonFault die true ∧ cause = 2) → ∃ d : Dev, exec c s = .next { s with dev := d.finish } ∧
        d.dieFenced = s.dev.dieFenced ||| BitVec.ofNat 2 (2 ^ die.val) ∧ d.dieCause.get die.val 0 = cause ∧ d.state = .failed ∧
        d.faultN = true ∧ (s.dev.reqs = [] → d.mem = s.dev.mem) ∧ (s.dev.state ≠ .failed → d.dfCause = 1) ∧
        (∀ x, x < 336 → dieOfDom x = die.val → s.dev.live x = true → (d.dom x).st = .fenced) ∧
        (∀ p, p < 16 → dieOfPort p = die.val → (s.dev.port p).st ≠ .disabled → (d.port p).st = .failed) ∧
        ∀ k, k < s.dev.strat.elim 0 (·.sets.length) → s.dev.setDie k = die.val → d.setFenced k = true) ∧
    ∀ (r : Rail), s.dev.step ≠ .standby → s.dev.strat.isSome = true → ∃ d : Dev,
      exec (.memoryRailFault r) s = .next { s with dev := d.finish } ∧ d.state = s.dev.state ∧
      (s.dev.reqs = [] → d.mem = if s.dev.heldMem = true then [] else s.dev.mem) ∧
      (s.dev.heldMem = true → d.memKept = false ∧ d.fld row_STR_ACTIVE_INFO 0 f_STR_ACTIVE_INFO_MEM_KEPT = 0) ∧
      ∀ k S, s.dev.set? k = some S →
        (S.die = r.die.val ∧ (S.sub = true ↔ r.tier.val = 1) → d.setFenced k = true) ∧
        (¬ (S.die = r.die.val ∧ (S.sub = true ↔ r.tier.val = 1)) → d.setFenced k = s.dev.setFenced k)

/-! ### Power and heat (R381 to R397) -/

/-- A tick of the governor with Vcore on: the readings are taken, PEAK keeps the highest, and where its 10 µs have passed each die's
Vcore falls 20 mV under POWER, 10 mV under another cause once 100 µs have passed since the last change, rises 5 mV towards its
target where none holds, always within 620 mV to VMAX_EFF. PWR_CTL takes a field whose value is in its range and leaves another as
it was.
Readings of the model that it rests on: log 23. -/
def Obligations.GovernorAndPowerLimits : Prop :=
  ∀ (s : State),
    (∀ (avg : Nat) (tj0 tj1 : BitVec 16) (hot0 hot1 : Fin 48) (meas0 meas1 : Nat) (v48 : BitVec 16), s.dev.vcore = true →
      ∃ t : State, exec (.governorTick avg tj0 tj1 hot0 hot1 meas0 meas1 v48) s = .next t ∧ t.pwr.avg = avg ∧
        t.pwr.peak = max s.pwr.peak avg ∧ t.pwr.tj.get 0 0 = tj0 ∧ t.pwr.tj.get 1 0 = tj1 ∧ t.pwr.ctl = s.pwr.ctl ∧
        t.pwr.causes = s.pwr.causes ∧ t.sec = s.sec ∧ t.mgmt = s.mgmt ∧ t.dev.mem = s.dev.mem ∧
        ∀ die, die < 2 →
          let v := s.pwr.v.get die 0
          let ready := s.dev.atLeast (alwaysKey die) (s.pwr.changed.get die 0) 100000 = true
          let w := if s.pwr.inForce die 2 = true then v - 20
            else if s.pwr.causesOf die ≠ 0 ∧ ready then v - 10
            else if s.pwr.causesOf die = 0 ∧ ready then min (s.pwr.targetOf die) (v + 5)
            else v
          t.pwr.v.get die 0 = if s.govDue die = true then max 620 (min s.pwr.vmaxEff w) else v) ∧
    (∀ v : Word, ∃ c, exec (.pwrCtlWrite 0x1100000 v) s = .next { s with pwr := { s.pwr with ctl := c } } ∧
      let p : Pwr := { s.pwr with ctl := c }
      p.vmax = (if 700 ≤ bits v.toNat 0 10 ∧ bits v.toNat 0 10 ≤ 800 then bits v.toNat 0 10 else s.pwr.vmax) ∧
      p.plW = (if bits v.toNat 16 12 = 0 ∨ (400 ≤ bits v.toNat 16 12 ∧ bits v.toNat 16 12 ≤ 1750 ∧
          (s.dev.stratumPl = 0 ∨ bits v.toNat 16 12 ≤ s.dev.stratumPl)) then bits v.toNat 16 12 else s.pwr.plW) ∧
      p.guard_ = (if 10 ≤ bits v.toNat 32 8 ∧ bits v.toNat 32 8 ≤ 200 then bits v.toNat 32 8 else s.pwr.guard_) ∧
      p.thermEmerg = (if 85 ≤ bits v.toNat 40 8 ∧ bits v.toNat 40 8 ≤ 105 then bits v.toNat 40 8 else s.pwr.thermEmerg) ∧
      p.bedGate = bitOf v.toNat 48) ∧
    ∀ (die : Fin 2) (v : Word), ∃ p, exec (.pwrCtlWrite (BitVec.ofNat 32 (0x1100100 + 8 * die.val)) v) s =
        .next { s with pwr := p } ∧ p = { s.pwr with target := p.target } ∧
      p.targetOf die.val = if 700 ≤ bits v.toNat 0 10 ∧ bits v.toNat 0 10 ≤ min 800 s.pwr.vmax then bits v.toNat 0 10
        else s.pwr.targetOf die.val

/-- An emergency cause that its readings call for is put in force, POWER on both dies; the first makes EMERGENCY 1 and counts an
entry. A cause leaves once what it needs to leave has come about and its time has passed. A late canary lengthens its group, up to
eight steps over the stored code, and then, after 1 ms, fences its domain, the die where that is its common logic; one that has been
clean for 10 ms shortens it again.
Readings of the model that it rests on: log 23. -/
def Obligations.EmergenciesAndCanaries : Prop :=
  ∀ (s : State) (die : Fin 2) (cause : Fin 4),
    (s.dev.step ≠ .standby → s.pwr.inForce die.val cause.val = false → s.enters die.val cause.val = true →
      ∃ t : State, exec (.emergencyOn die cause) s = .next t ∧ t.pwr.inForce die.val cause.val = true ∧
        (cause.val = 2 → t.pwr.inForce 0 2 = true ∧ t.pwr.inForce 1 2 = true) ∧ t.sec = s.sec ∧ t.dev.mem = s.dev.mem ∧
        t.pwr.ctl = s.pwr.ctl ∧ t.pwr.v = s.pwr.v ∧ t.emergency = true ∧
        t.pwr.entries = (if s.pwr.allCauses = 0 then min 65535 (s.pwr.entries + 1) else s.pwr.entries)) ∧
    (s.dev.step ≠ .standby → s.pwr.inForce die.val cause.val = true → s.leaves die.val cause.val = true →
      s.heldOff die.val cause.val = true →
      ∃ t : State, exec (.emergencyOff die cause) s = .next t ∧ t.pwr.inForce die.val cause.val = false ∧ t.sec = s.sec ∧
        t.dev.mem = s.dev.mem ∧ t.pwr.ctl = s.pwr.ctl ∧ t.pwr.v = s.pwr.v) ∧
    (s.enters die.val cause.val = false → exec (.emergencyOn die cause) s = .next s) ∧
    (s.leaves die.val cause.val = false → exec (.emergencyOff die cause) s = .next s) ∧
    ∀ g, s.dev.groupOn g = true →
      (∀ ms, s.dev.work.get g 0 < 8 → ∃ d : Dev, exec (.canaryLate g ms) s = .next { s with dev := d.finish } ∧
        d = { s.dev with work := d.work, regs := d.regs, canaryAt := d.canaryAt } ∧ d.work.get g 0 = s.dev.work.get g 0 + 1 ∧
        ∀ k, k ≠ g → d.work.get k 0 = s.dev.work.get k 0) ∧
      (∀ ms, 8 ≤ s.dev.work.get g 0 → 1 ≤ ms → groupDom g < 0x13C → s.dev.live (groupDom g) = true → ∃ d : Dev,
        exec (.canaryLate g ms) s = .next { s with dev := d.finish } ∧ (d.dom (groupDom g)).cause = 8 ∧
        ((d.dom (groupDom g)).st = .resetting ∨ (d.dom (groupDom g)).st = .retired) ∧ d.work = s.dev.work) ∧
      (∀ ms, 8 ≤ s.dev.work.get g 0 → 1 ≤ ms → 336 ≤ groupDom g → ∃ d : Dev,
        exec (.canaryLate g ms) s = .next { s with dev := d.finish } ∧ d.dieFenced.getLsbD (dieOfDom (groupDom g)) = true ∧
        d.state = .failed ∧ d.work = s.dev.work) ∧
      (8 ≤ s.dev.work.get g 0 → ∃ d : Dev, exec (.canaryLate g 0) s = .next { s with dev := d.finish } ∧
        d = { s.dev with canaryAt := d.canaryAt }) ∧
      (0 < s.dev.work.get g 0 → s.dev.canaryIdle g = true → ∃ d : Dev, exec (.canaryClean g) s = .next { s with dev := d.finish } ∧
        d = { s.dev with work := d.work } ∧ d.work.get g 0 = s.dev.work.get g 0 - 1)

/-! ### Registers (R7, R8, R395) -/

/-- A write of a register whose write has no action of its own: an RO or WO field keeps its value, an RW field takes the value
written where it is in the field's range, an RW1C field loses the bits written 1; no other register and nothing else changes, and
what follows is Dev.finish. Board management reads the registers R395 lists and is refused every other.
Readings of the model that it rests on: log 26. -/
def Obligations.RegisterFieldsByAccessType : Prop :=
  ∀ (s : State) (a : BitVec 32),
    (∀ (v : Word) (r : RegRow), s.dev.state ≠ .powerUp → rowOf a.toNat = some r → r.reg ∉ actsOnWrite → ∃ d : Dev,
      exec (.registerWrite a v) s = .next { s with dev := d.finish } ∧ d = { s.dev with regs := d.regs } ∧
      let i := r.index a.toNat
      (∀ f ∈ r.fields, d.fld r i f = match f.acc with
        | .ro => s.dev.fld r i f
        | .wo => s.dev.fld r i f
        | .rw => if fldOk f (f.get v) r.reg = true then f.get v else s.dev.fld r i f
        | .rw1c => if fldOk f (f.get v) r.reg = true then s.dev.fld r i f &&& (f.top - f.get v) else s.dev.fld r i f) ∧
      ∀ k w, k ≠ r.addr i → d.regs.get k w = s.dev.regs.get k w) ∧
    (∀ v : Word, rowOf a.toNat = none → s.dev.state ≠ .powerUp →
      exec (.registerWrite a v) s = .next { s with dev := s.dev.finish }) ∧
    (s.dev.step ≠ .standby → s.mgmt.dynAddr.isSome = true →
      (∀ r, rowOf a.toNat = some r →
        (r ∈ rowsGEN ∨ r ∈ rowsPWR ∨ r.reg = .SAF_STATUS ∨ r.reg = .HMC_TEMP ∨ r.reg = .LMC_TEMP →
          exec (.vendorMrsRead a) s = .next (s.sends
            (0x00 :: natBytes (s.view r.reg (r.index a.toNat) (s.dev.rd r (r.index a.toNat))).toNat 8) s.dev.free)) ∧
        (¬ (r ∈ rowsGEN ∨ r ∈ rowsPWR ∨ r.reg = .SAF_STATUS ∨ r.reg = .HMC_TEMP ∨ r.reg = .LMC_TEMP) → ∃ (b : Byte) (n : Nat),
          b ≠ 0 ∧ exec (.vendorMrsRead a) s = .next (s.sends [b] n))) ∧
      (rowOf a.toNat = none → ∃ (b : Byte) (n : Nat), b ≠ 0 ∧ exec (.vendorMrsRead a) s = .next (s.sends [b] n)))

/-! ### Invariants of every step -/

/-- The limits of power stay limits: no step, whatever the command, takes a limit out of its range or Vcore above 800 mV. -/
def Obligations.EveryStepKeepsThePowerLimits : Prop :=
  ∀ (s t : State), s.pwr.limits → step s = .next t → t.pwr.limits

/-- The memory keeps its canonical form: no step, whatever the command, leaves an entry out of order or one that says what an
unlisted byte reads as. -/
def Obligations.EveryStepKeepsMemoryCanonical : Prop :=
  ∀ (s t : State), Memory.wf s.dev.mem = true → step s = .next t → Memory.wf t.dev.mem = true

/-- Fuses are one-way: no step, whatever the command, un-enrols or un-revokes a slot, lowers the fused security version, or makes a
changed trim store count as original. -/
def Obligations.EveryStepKeepsTheFuses : Prop :=
  ∀ (s t : State), step s = .next t → s.sec.fusesKept t.sec

/-- The state before standby power: limits in range, memory in canonical form, every register at its reset value, the count of
resets 0, nothing waiting; EMERGENCY 0; no context, session, region or request. That unwritten memory reads 0 is the model's choice
(log 4). -/
def Obligations.ResetState : Prop :=
  State.reset.pwr.limits ∧ Memory.wf State.reset.dev.mem = true ∧ (∀ r i, State.reset.dev.rd r i = r.resetValue) ∧
    State.reset.pending = [] ∧ State.reset.dev.resets = 0 ∧ State.reset.emergency = false ∧
    (∀ c, State.reset.dev.ctx c = {}) ∧ (∀ r, State.reset.dev.rgn r = {}) ∧ (∀ p, State.reset.dev.host p = none) ∧
    State.reset.dev.reqs = [] ∧ (∀ s ga, State.reset.dev.memGet s ga = 0) ∧ ∀ a r, rowOf a = some r →
      ∀ f ∈ r.fields, State.reset.dev.fld r (r.index a) f = f.rst
end

