-- ==== Sys2Proof/Laws/Tab.lean ====
section
/-! SUPPORT. The laws of sparse tables: reading after writing, and the canonical form kept by every operation. -/
namespace Sys2Proof.Machine

variable {α : Type}

@[simp] theorem tab_get_nil (k : Nat) (d : α) : Tab.get ([] : Tab α) k d = d := rfl

/-- Skipping leading entries at or below k changes no value above k. -/
theorem tab_get_drop_above (m : Tab α) (k j : Nat) (d : α) (h : k < j) :
    Tab.get (m.dropWhile fun e => decide (e.1 ≤ k)) j d = Tab.get m j d := by
  induction m with
  | nil => rfl
  | cons e t ih =>
    obtain ⟨i, v⟩ := e
    by_cases hi : i ≤ k
    · rw [List.dropWhile_cons_of_pos (by simpa using hi), ih]
      simp only [Tab.get]
      rw [if_neg (by omega), if_neg (by omega)]
    · rw [List.dropWhile_cons_of_neg (by simpa using hi)]

/-- After skipping leading entries at or below k, nothing at or below k is listed before a larger key. -/
theorem tab_get_drop_below (m : Tab α) (k j : Nat) (d : α) (h : j ≤ k) :
    Tab.get (m.dropWhile fun e => decide (e.1 ≤ k)) j d = d := by
  induction m with
  | nil => rfl
  | cons e t ih =>
    obtain ⟨i, v⟩ := e
    by_cases hi : i ≤ k
    · rw [List.dropWhile_cons_of_pos (by simpa using hi), ih]
    · rw [List.dropWhile_cons_of_neg (by simpa using hi)]
      simp only [Tab.get]
      rw [if_neg (by omega), if_pos (by omega)]

variable [DecidableEq α]

/-- A key reads back what was written to it. -/
@[simp] theorem tab_get_set_same (m : Tab α) (k : Nat) (v d : α) : (m.set k v d).get k d = v := by
  induction m with
  | nil => by_cases h : v = d <;> simp [Tab.set, Tab.get, h]
  | cons e t ih =>
    obtain ⟨i, w⟩ := e
    simp only [Tab.set]
    split
    · split
      · next h1 h2 => simp only [Tab.get]; rw [if_neg (by omega), if_pos h1, h2]
      · simp [Tab.get]
    · split
      · split
        · next h => rw [tab_get_drop_below _ _ _ _ (Nat.le_refl k), h]
        · simp [Tab.get]
      · next h1 h2 => simp only [Tab.get]; rw [if_neg (by omega), if_neg h1, ih]

/-- A write leaves every other key alone. -/
theorem tab_get_set_other (m : Tab α) (k j : Nat) (v d c : α) (hj : j ≠ k) : (m.set k v d).get j c = m.get j c := by
  induction m with
  | nil =>
    simp only [Tab.set]
    split
    · rfl
    · simp only [Tab.get]; rw [if_neg (by omega)]; split <;> rfl
  | cons e t ih =>
    obtain ⟨i, w⟩ := e
    simp only [Tab.set]
    split
    · split
      · rfl
      · next h1 _ =>
        conv => lhs; unfold Tab.get
        rw [if_neg (by omega)]
        split
        · next h3 => simp only [Tab.get]; rw [if_neg (by omega), if_pos (by omega)]
        · rfl
    · split
      · next h1 h2 =>
        subst h2
        split
        · rcases Nat.lt_or_ge k j with h | h
          · rw [tab_get_drop_above _ _ _ _ h]; simp only [Tab.get]; rw [if_neg (by omega), if_neg (by omega)]
          · rw [tab_get_drop_below _ _ _ _ h]; simp only [Tab.get]; rw [if_neg (by omega), if_pos (by omega)]
        · simp only [Tab.get, if_neg (Ne.symm hj)]
      · simp only [Tab.get]; rw [ih]

/-- Reading any key after a write. -/
theorem tab_get_set (m : Tab α) (k j : Nat) (v d : α) : (m.set k v d).get j d = if j = k then v else m.get j d := by
  split
  · next h => subst h; simp
  · next h => exact tab_get_set_other m k j v d d h

@[simp] theorem tab_get_upd_same (m : Tab α) (k : Nat) (d : α) (f : α → α) : (m.upd k d f).get k d = f (m.get k d) := by
  simp [Tab.upd]

theorem tab_get_upd_other (m : Tab α) (k j : Nat) (d c : α) (f : α → α) (hj : j ≠ k) : (m.upd k d f).get j c = m.get j c :=
  tab_get_set_other m k j _ d c hj

/-! ### The canonical form -/

omit [DecidableEq α] in
theorem tab_rising_weaken (m : Tab α) (a b : Nat) (h : a ≤ b) (hm : m.risingFrom (some b) = true) :
    m.risingFrom (some a) = true := by
  cases m with
  | nil => rfl
  | cons e t =>
    obtain ⟨i, v⟩ := e
    simp only [Tab.risingFrom, Bool.and_eq_true, decide_eq_true_eq] at *
    exact ⟨by omega, hm.2⟩

omit [DecidableEq α] in
theorem tab_rising_none (m : Tab α) (b : Nat) (hm : m.risingFrom (some b) = true) : m.risingFrom none = true := by
  cases m with
  | nil => rfl
  | cons e t =>
    obtain ⟨i, v⟩ := e
    simp only [Tab.risingFrom, Bool.and_eq_true] at *
    exact ⟨trivial, hm.2⟩

omit [DecidableEq α] in
theorem tab_rising_drop (m : Tab α) (k : Nat) (hm : m.risingFrom (some k) = true) :
    (m.dropWhile fun e => decide (e.1 ≤ k)) = m := by
  cases m with
  | nil => rfl
  | cons e t =>
    obtain ⟨i, v⟩ := e
    simp only [Tab.risingFrom, Bool.and_eq_true, decide_eq_true_eq] at hm
    exact List.dropWhile_cons_of_neg (by simpa using hm.1)

/-- A write keeps the keys rising above a bound that its key lies above. -/
theorem tab_rising_set (m : Tab α) (k : Nat) (v d : α) (b : Option Nat) (hm : m.risingFrom b = true)
    (hb : ∀ x, b = some x → x < k) : (m.set k v d).risingFrom b = true := by
  induction m generalizing b with
  | nil =>
    simp only [Tab.set]
    split
    · rfl
    · cases b <;> simp [Tab.risingFrom]; exact hb _ rfl
  | cons e t ih =>
    obtain ⟨i, w⟩ := e
    simp only [Tab.risingFrom, Bool.and_eq_true] at hm
    simp only [Tab.set]
    split
    · split
      · simpa [Tab.risingFrom] using hm
      · next h1 _ =>
        simp only [Tab.risingFrom, Bool.and_eq_true, decide_eq_true_eq]
        refine ⟨?_, h1, hm.2⟩
        cases b <;> simp; exact hb _ rfl
    · split
      · next h1 h2 =>
        subst h2
        split
        · rw [tab_rising_drop t k hm.2]
          cases b with
          | none => exact tab_rising_none t k hm.2
          | some x => exact tab_rising_weaken t x k (by simpa using (Nat.le_of_lt (hb x rfl))) hm.2
        · simp only [Tab.risingFrom, Bool.and_eq_true]; exact hm
      · simp only [Tab.risingFrom, Bool.and_eq_true]
        exact ⟨hm.1, ih (some i) hm.2 (by intro x hx; cases hx; omega)⟩

theorem tab_all_set (m : Tab α) (k : Nat) (v d : α) (h : m.all (fun e => e.2 ≠ d) = true) :
    (m.set k v d).all (fun e => e.2 ≠ d) = true := by
  induction m with
  | nil => simp only [Tab.set]; split <;> simp_all
  | cons e t ih =>
    obtain ⟨i, w⟩ := e
    simp only [List.all_cons, Bool.and_eq_true] at h
    simp only [Tab.set]
    split
    · split
      · simp only [List.all_cons, Bool.and_eq_true]; exact h
      · next hv => simp only [List.all_cons, Bool.and_eq_true, decide_eq_true_eq]; exact ⟨hv, by simpa using h⟩
    · split
      · split
        · exact List.all_eq_true.mpr fun x hx => List.all_eq_true.mp h.2 x (List.dropWhile_subset _ hx)
        · next hv => simp only [List.all_cons, Bool.and_eq_true, decide_eq_true_eq]; exact ⟨hv, h.2⟩
      · simp only [List.all_cons, Bool.and_eq_true]; exact ⟨h.1, ih h.2⟩

/-- A write keeps the canonical form. -/
theorem tab_wf_set (m : Tab α) (k : Nat) (v d : α) (h : m.wf d = true) : (m.set k v d).wf d = true := by
  simp only [Tab.wf, Bool.and_eq_true] at *
  exact ⟨tab_rising_set m k v d none h.1 (by simp), tab_all_set m k v d h.2⟩

/-- A change of one value keeps the canonical form. -/
theorem tab_wf_upd (m : Tab α) (k : Nat) (d : α) (f : α → α) (h : m.wf d = true) : (m.upd k d f).wf d = true :=
  tab_wf_set m k _ d h

omit [DecidableEq α] in
theorem tab_rising_filter (m : Tab α) (p : Nat × α → Bool) (b : Option Nat) (h : m.risingFrom b = true) :
    Tab.risingFrom (m.filter p) b = true := by
  induction m generalizing b with
  | nil => rfl
  | cons e t ih =>
    obtain ⟨i, w⟩ := e
    simp only [Tab.risingFrom, Bool.and_eq_true] at h
    by_cases hp : p (i, w) = true
    · rw [List.filter_cons_of_pos hp]
      simp only [Tab.risingFrom, Bool.and_eq_true]
      exact ⟨h.1, ih (some i) h.2⟩
    · rw [List.filter_cons_of_neg hp]
      refine ih b ?_
      cases b with
      | none => exact tab_rising_none t i h.2
      | some x => exact tab_rising_weaken t x i (by simpa using (Nat.le_of_lt (by simpa using h.1))) h.2

/-- Dropping entries keeps the canonical form. -/
theorem tab_wf_filter (m : Tab α) (p : Nat × α → Bool) (d : α) (h : m.wf d = true) : Tab.wf (m.filter p) d = true := by
  simp only [Tab.wf, Bool.and_eq_true] at *
  exact ⟨tab_rising_filter m p none h.1,
    List.all_eq_true.mpr fun x hx => List.all_eq_true.mp h.2 x (List.mem_of_mem_filter hx)⟩

omit [DecidableEq α] in
theorem tab_rising_map (m : Tab α) (f : Nat → α → α) (b : Option Nat) (h : m.risingFrom b = true) :
    Tab.risingFrom (m.map fun e => (e.1, f e.1 e.2)) b = true := by
  induction m generalizing b with
  | nil => rfl
  | cons e t ih =>
    obtain ⟨i, w⟩ := e
    simp only [Tab.risingFrom, Bool.and_eq_true] at h
    simp only [List.map_cons, Tab.risingFrom, Bool.and_eq_true]
    exact ⟨h.1, ih (some i) h.2⟩

/-- A change of every value keeps the canonical form. -/
theorem tab_wf_mapV (m : Tab α) (d : α) (f : Nat → α → α) (h : m.wf d = true) : (m.mapV d f).wf d = true := by
  simp only [Tab.wf, Bool.and_eq_true] at *
  refine ⟨tab_rising_filter _ _ none (tab_rising_map m f none h.1), ?_⟩
  exact List.all_eq_true.mpr fun x hx => by simpa [Tab.mapV] using (List.mem_filter.mp hx).2

/-- The empty table is canonical. -/
@[simp] theorem tab_wf_nil (d : α) : Tab.wf ([] : Tab α) d = true := rfl

end Sys2Proof.Machine
end

