-- ==== Sys2Proof/Laws/State.lean ====
section
/-! SUPPORT. What each named update of the state leaves as it was, one lemma a field, and what its own table reads afterwards. -/
namespace Sys2Proof.Machine

/-! ### The device inside the state -/

@[simp] theorem State.onDev_pending (s : State) (f : Dev → Dev) : (s.onDev f).pending = s.pending := rfl
@[simp] theorem State.onDev_dev (s : State) (f : Dev → Dev) : (s.onDev f).dev = f s.dev := rfl
@[simp] theorem State.onDev_pwr (s : State) (f : Dev → Dev) : (s.onDev f).pwr = s.pwr := rfl
@[simp] theorem State.onDev_sec (s : State) (f : Dev → Dev) : (s.onDev f).sec = s.sec := rfl
@[simp] theorem State.onDev_mgmt (s : State) (f : Dev → Dev) : (s.onDev f).mgmt = s.mgmt := rfl

/-! ### The tables read back -/

@[simp] theorem Dev.desc_setDesc_same (d : Dev) (k : Nat) (x : Desc) : (d.setDesc k x).desc k = x := tab_get_set_same _ _ _ _
theorem Dev.desc_setDesc_other (d : Dev) (k j : Nat) (x : Desc) (h : j ≠ k) : (d.setDesc k x).desc j = d.desc j :=
  tab_get_set_other _ _ _ _ _ _ h
@[simp] theorem Dev.desc_updDesc_same (d : Dev) (k : Nat) (f : Desc → Desc) : (d.updDesc k f).desc k = f (d.desc k) := tab_get_set_same _ _ _ _
theorem Dev.desc_updDesc_other (d : Dev) (k j : Nat) (f : Desc → Desc) (h : j ≠ k) : (d.updDesc k f).desc j = d.desc j :=
  tab_get_set_other _ _ _ _ _ _ h
@[simp] theorem Dev.rgn_setRgn_same (d : Dev) (k : Nat) (x : Rgn) : (d.setRgn k x).rgn k = x := tab_get_set_same _ _ _ _
theorem Dev.rgn_setRgn_other (d : Dev) (k j : Nat) (x : Rgn) (h : j ≠ k) : (d.setRgn k x).rgn j = d.rgn j :=
  tab_get_set_other _ _ _ _ _ _ h
@[simp] theorem Dev.rgn_updRgn_same (d : Dev) (k : Nat) (f : Rgn → Rgn) : (d.updRgn k f).rgn k = f (d.rgn k) := tab_get_set_same _ _ _ _
theorem Dev.rgn_updRgn_other (d : Dev) (k j : Nat) (f : Rgn → Rgn) (h : j ≠ k) : (d.updRgn k f).rgn j = d.rgn j :=
  tab_get_set_other _ _ _ _ _ _ h
@[simp] theorem Dev.ctx_setCtx_same (d : Dev) (k : Nat) (x : Ctx) : (d.setCtx k x).ctx k = x := tab_get_set_same _ _ _ _
theorem Dev.ctx_setCtx_other (d : Dev) (k j : Nat) (x : Ctx) (h : j ≠ k) : (d.setCtx k x).ctx j = d.ctx j :=
  tab_get_set_other _ _ _ _ _ _ h
@[simp] theorem Dev.ctx_updCtx_same (d : Dev) (k : Nat) (f : Ctx → Ctx) : (d.updCtx k f).ctx k = f (d.ctx k) := tab_get_set_same _ _ _ _
theorem Dev.ctx_updCtx_other (d : Dev) (k j : Nat) (f : Ctx → Ctx) (h : j ≠ k) : (d.updCtx k f).ctx j = d.ctx j :=
  tab_get_set_other _ _ _ _ _ _ h
@[simp] theorem Dev.bed_setBed_same (d : Dev) (k : Nat) (x : Bed) : (d.setBed k x).bed k = x := tab_get_set_same _ _ _ _
theorem Dev.bed_setBed_other (d : Dev) (k j : Nat) (x : Bed) (h : j ≠ k) : (d.setBed k x).bed j = d.bed j :=
  tab_get_set_other _ _ _ _ _ _ h
@[simp] theorem Dev.bed_updBed_same (d : Dev) (k : Nat) (f : Bed → Bed) : (d.updBed k f).bed k = f (d.bed k) := tab_get_set_same _ _ _ _
theorem Dev.bed_updBed_other (d : Dev) (k j : Nat) (f : Bed → Bed) (h : j ≠ k) : (d.updBed k f).bed j = d.bed j :=
  tab_get_set_other _ _ _ _ _ _ h
@[simp] theorem Dev.port_setPort_same (d : Dev) (k : Nat) (x : Port) : (d.setPort k x).port k = x := tab_get_set_same _ _ _ _
theorem Dev.port_setPort_other (d : Dev) (k j : Nat) (x : Port) (h : j ≠ k) : (d.setPort k x).port j = d.port j :=
  tab_get_set_other _ _ _ _ _ _ h
@[simp] theorem Dev.port_updPort_same (d : Dev) (k : Nat) (f : Port → Port) : (d.updPort k f).port k = f (d.port k) := tab_get_set_same _ _ _ _
theorem Dev.port_updPort_other (d : Dev) (k j : Nat) (f : Port → Port) (h : j ≠ k) : (d.updPort k f).port j = d.port j :=
  tab_get_set_other _ _ _ _ _ _ h
@[simp] theorem Dev.inst_setInst_same (d : Dev) (k : Nat) (x : Inst) : (d.setInst k x).inst k = x := tab_get_set_same _ _ _ _
theorem Dev.inst_setInst_other (d : Dev) (k j : Nat) (x : Inst) (h : j ≠ k) : (d.setInst k x).inst j = d.inst j :=
  tab_get_set_other _ _ _ _ _ _ h
@[simp] theorem Dev.inst_updInst_same (d : Dev) (k : Nat) (f : Inst → Inst) : (d.updInst k f).inst k = f (d.inst k) := tab_get_set_same _ _ _ _
theorem Dev.inst_updInst_other (d : Dev) (k j : Nat) (f : Inst → Inst) (h : j ≠ k) : (d.updInst k f).inst j = d.inst j :=
  tab_get_set_other _ _ _ _ _ _ h
@[simp] theorem Dev.sq_updSq_same (d : Dev) (k : Nat) (f : SetQ → SetQ) : (d.updSq k f).sq k = f (d.sq k) := tab_get_set_same _ _ _ _
theorem Dev.sq_updSq_other (d : Dev) (k j : Nat) (f : SetQ → SetQ) (h : j ≠ k) : (d.updSq k f).sq j = d.sq j :=
  tab_get_set_other _ _ _ _ _ _ h
@[simp] theorem Dev.tensor_updTensor_same (d : Dev) (k : Nat) (f : Tensor → Tensor) : (d.updTensor k f).tensor k = f (d.tensor k) := tab_get_set_same _ _ _ _
theorem Dev.tensor_updTensor_other (d : Dev) (k j : Nat) (f : Tensor → Tensor) (h : j ≠ k) : (d.updTensor k f).tensor j = d.tensor j :=
  tab_get_set_other _ _ _ _ _ _ h
@[simp] theorem Dev.plan_updPlan_same (d : Dev) (k : Nat) (f : Plan → Plan) : (d.updPlan k f).plan k = f (d.plan k) := tab_get_set_same _ _ _ _
theorem Dev.plan_updPlan_other (d : Dev) (k j : Nat) (f : Plan → Plan) (h : j ≠ k) : (d.updPlan k f).plan j = d.plan j :=
  tab_get_set_other _ _ _ _ _ _ h
@[simp] theorem Dev.dom_updDom_same (d : Dev) (k : Nat) (f : Dom → Dom) : (d.updDom k f).dom k = f (d.dom k) := tab_get_set_same _ _ _ _
theorem Dev.dom_updDom_other (d : Dev) (k j : Nat) (f : Dom → Dom) (h : j ≠ k) : (d.updDom k f).dom j = d.dom j :=
  tab_get_set_other _ _ _ _ _ _ h
@[simp] theorem Dev.host_setHost_same (d : Dev) (p : Nat) (h : Option HostSess) : (d.setHost p h).host p = h := tab_get_set_same _ _ _ _
@[simp] theorem Dev.winGet_winSet_same (d : Dev) (p o : Nat) (g : Gran) : (d.winSet p o g).winGet p o = g := tab_get_set_same _ _ _ _
@[simp] theorem Dev.rd_wr_same (d : Dev) (r : RegRow) (i : Nat) (w : Word) : (d.wr r i w).rd r i = w := tab_get_set_same _ _ _ _
theorem Dev.rd_wr_other (d : Dev) (r q : RegRow) (i j : Nat) (w : Word) (h : q.addr j ≠ r.addr i) : (d.wr r i w).rd q j = d.rd q j :=
  tab_get_set_other _ _ _ _ _ _ h

/-! ### wr changes regs alone -/

@[simp] theorem Dev.wr_timers (d : Dev) (r : RegRow) (i : Nat) (w : Word) : (d.wr r i w).timers = d.timers := rfl
@[simp] theorem Dev.wr_waiters (d : Dev) (r : RegRow) (i : Nat) (w : Word) : (d.wr r i w).waiters = d.waiters := rfl
@[simp] theorem Dev.wr_msgs (d : Dev) (r : RegRow) (i : Nat) (w : Word) : (d.wr r i w).msgs = d.msgs := rfl
@[simp] theorem Dev.wr_slotq (d : Dev) (r : RegRow) (i : Nat) (w : Word) : (d.wr r i w).slotq = d.slotq := rfl
@[simp] theorem Dev.wr_inflight (d : Dev) (r : RegRow) (i : Nat) (w : Word) : (d.wr r i w).inflight = d.inflight := rfl
@[simp] theorem Dev.wr_poison (d : Dev) (r : RegRow) (i : Nat) (w : Word) : (d.wr r i w).poison = d.poison := rfl
@[simp] theorem Dev.wr_journals (d : Dev) (r : RegRow) (i : Nat) (w : Word) : (d.wr r i w).journals = d.journals := rfl
@[simp] theorem Dev.wr_fm (d : Dev) (r : RegRow) (i : Nat) (w : Word) : (d.wr r i w).fm = d.fm := rfl
@[simp] theorem Dev.wr_state (d : Dev) (r : RegRow) (i : Nat) (w : Word) : (d.wr r i w).state = d.state := rfl
@[simp] theorem Dev.wr_step (d : Dev) (r : RegRow) (i : Nat) (w : Word) : (d.wr r i w).step = d.step := rfl
@[simp] theorem Dev.wr_strat (d : Dev) (r : RegRow) (i : Nat) (w : Word) : (d.wr r i w).strat = d.strat := rfl
@[simp] theorem Dev.wr_mem (d : Dev) (r : RegRow) (i : Nat) (w : Word) : (d.wr r i w).mem = d.mem := rfl
@[simp] theorem Dev.wr_clay (d : Dev) (r : RegRow) (i : Nat) (w : Word) : (d.wr r i w).clay = d.clay := rfl
@[simp] theorem Dev.wr_flash (d : Dev) (r : RegRow) (i : Nat) (w : Word) : (d.wr r i w).flash = d.flash := rfl
@[simp] theorem Dev.wr_win (d : Dev) (r : RegRow) (i : Nat) (w : Word) : (d.wr r i w).win = d.win := rfl
@[simp] theorem Dev.wr_descs (d : Dev) (r : RegRow) (i : Nat) (w : Word) : (d.wr r i w).descs = d.descs := rfl
@[simp] theorem Dev.wr_rgns (d : Dev) (r : RegRow) (i : Nat) (w : Word) : (d.wr r i w).rgns = d.rgns := rfl
@[simp] theorem Dev.wr_ctxs (d : Dev) (r : RegRow) (i : Nat) (w : Word) : (d.wr r i w).ctxs = d.ctxs := rfl
@[simp] theorem Dev.wr_beds (d : Dev) (r : RegRow) (i : Nat) (w : Word) : (d.wr r i w).beds = d.beds := rfl
@[simp] theorem Dev.wr_reqs (d : Dev) (r : RegRow) (i : Nat) (w : Word) : (d.wr r i w).reqs = d.reqs := rfl
@[simp] theorem Dev.wr_tensors (d : Dev) (r : RegRow) (i : Nat) (w : Word) : (d.wr r i w).tensors = d.tensors := rfl
@[simp] theorem Dev.wr_moves (d : Dev) (r : RegRow) (i : Nat) (w : Word) : (d.wr r i w).moves = d.moves := rfl
@[simp] theorem Dev.wr_plans (d : Dev) (r : RegRow) (i : Nat) (w : Word) : (d.wr r i w).plans = d.plans := rfl
@[simp] theorem Dev.wr_ports (d : Dev) (r : RegRow) (i : Nat) (w : Word) : (d.wr r i w).ports = d.ports := rfl
@[simp] theorem Dev.wr_insts (d : Dev) (r : RegRow) (i : Nat) (w : Word) : (d.wr r i w).insts = d.insts := rfl
@[simp] theorem Dev.wr_setq (d : Dev) (r : RegRow) (i : Nat) (w : Word) : (d.wr r i w).setq = d.setq := rfl
@[simp] theorem Dev.wr_doms (d : Dev) (r : RegRow) (i : Nat) (w : Word) : (d.wr r i w).doms = d.doms := rfl
@[simp] theorem Dev.wr_freezes (d : Dev) (r : RegRow) (i : Nat) (w : Word) : (d.wr r i w).freezes = d.freezes := rfl
@[simp] theorem Dev.wr_evq (d : Dev) (r : RegRow) (i : Nat) (w : Word) : (d.wr r i w).evq = d.evq := rfl
@[simp] theorem Dev.wr_evHold (d : Dev) (r : RegRow) (i : Nat) (w : Word) : (d.wr r i w).evHold = d.evHold := rfl
@[simp] theorem Dev.wr_hosts (d : Dev) (r : RegRow) (i : Nat) (w : Word) : (d.wr r i w).hosts = d.hosts := rfl
@[simp] theorem Dev.wr_out (d : Dev) (r : RegRow) (i : Nat) (w : Word) : (d.wr r i w).out = d.out := rfl

/-! ### setFld changes regs alone -/

@[simp] theorem Dev.setFld_timers (d : Dev) (r : RegRow) (i : Nat) (f : Fld) (n : Nat) : (d.setFld r i f n).timers = d.timers := rfl
@[simp] theorem Dev.setFld_waiters (d : Dev) (r : RegRow) (i : Nat) (f : Fld) (n : Nat) : (d.setFld r i f n).waiters = d.waiters := rfl
@[simp] theorem Dev.setFld_msgs (d : Dev) (r : RegRow) (i : Nat) (f : Fld) (n : Nat) : (d.setFld r i f n).msgs = d.msgs := rfl
@[simp] theorem Dev.setFld_slotq (d : Dev) (r : RegRow) (i : Nat) (f : Fld) (n : Nat) : (d.setFld r i f n).slotq = d.slotq := rfl
@[simp] theorem Dev.setFld_inflight (d : Dev) (r : RegRow) (i : Nat) (f : Fld) (n : Nat) : (d.setFld r i f n).inflight = d.inflight := rfl
@[simp] theorem Dev.setFld_poison (d : Dev) (r : RegRow) (i : Nat) (f : Fld) (n : Nat) : (d.setFld r i f n).poison = d.poison := rfl
@[simp] theorem Dev.setFld_journals (d : Dev) (r : RegRow) (i : Nat) (f : Fld) (n : Nat) : (d.setFld r i f n).journals = d.journals := rfl
@[simp] theorem Dev.setFld_fm (d : Dev) (r : RegRow) (i : Nat) (f : Fld) (n : Nat) : (d.setFld r i f n).fm = d.fm := rfl
@[simp] theorem Dev.setFld_state (d : Dev) (r : RegRow) (i : Nat) (f : Fld) (n : Nat) : (d.setFld r i f n).state = d.state := rfl
@[simp] theorem Dev.setFld_step (d : Dev) (r : RegRow) (i : Nat) (f : Fld) (n : Nat) : (d.setFld r i f n).step = d.step := rfl
@[simp] theorem Dev.setFld_strat (d : Dev) (r : RegRow) (i : Nat) (f : Fld) (n : Nat) : (d.setFld r i f n).strat = d.strat := rfl
@[simp] theorem Dev.setFld_mem (d : Dev) (r : RegRow) (i : Nat) (f : Fld) (n : Nat) : (d.setFld r i f n).mem = d.mem := rfl
@[simp] theorem Dev.setFld_clay (d : Dev) (r : RegRow) (i : Nat) (f : Fld) (n : Nat) : (d.setFld r i f n).clay = d.clay := rfl
@[simp] theorem Dev.setFld_flash (d : Dev) (r : RegRow) (i : Nat) (f : Fld) (n : Nat) : (d.setFld r i f n).flash = d.flash := rfl
@[simp] theorem Dev.setFld_win (d : Dev) (r : RegRow) (i : Nat) (f : Fld) (n : Nat) : (d.setFld r i f n).win = d.win := rfl
@[simp] theorem Dev.setFld_descs (d : Dev) (r : RegRow) (i : Nat) (f : Fld) (n : Nat) : (d.setFld r i f n).descs = d.descs := rfl
@[simp] theorem Dev.setFld_rgns (d : Dev) (r : RegRow) (i : Nat) (f : Fld) (n : Nat) : (d.setFld r i f n).rgns = d.rgns := rfl
@[simp] theorem Dev.setFld_ctxs (d : Dev) (r : RegRow) (i : Nat) (f : Fld) (n : Nat) : (d.setFld r i f n).ctxs = d.ctxs := rfl
@[simp] theorem Dev.setFld_beds (d : Dev) (r : RegRow) (i : Nat) (f : Fld) (n : Nat) : (d.setFld r i f n).beds = d.beds := rfl
@[simp] theorem Dev.setFld_reqs (d : Dev) (r : RegRow) (i : Nat) (f : Fld) (n : Nat) : (d.setFld r i f n).reqs = d.reqs := rfl
@[simp] theorem Dev.setFld_tensors (d : Dev) (r : RegRow) (i : Nat) (f : Fld) (n : Nat) : (d.setFld r i f n).tensors = d.tensors := rfl
@[simp] theorem Dev.setFld_moves (d : Dev) (r : RegRow) (i : Nat) (f : Fld) (n : Nat) : (d.setFld r i f n).moves = d.moves := rfl
@[simp] theorem Dev.setFld_plans (d : Dev) (r : RegRow) (i : Nat) (f : Fld) (n : Nat) : (d.setFld r i f n).plans = d.plans := rfl
@[simp] theorem Dev.setFld_ports (d : Dev) (r : RegRow) (i : Nat) (f : Fld) (n : Nat) : (d.setFld r i f n).ports = d.ports := rfl
@[simp] theorem Dev.setFld_insts (d : Dev) (r : RegRow) (i : Nat) (f : Fld) (n : Nat) : (d.setFld r i f n).insts = d.insts := rfl
@[simp] theorem Dev.setFld_setq (d : Dev) (r : RegRow) (i : Nat) (f : Fld) (n : Nat) : (d.setFld r i f n).setq = d.setq := rfl
@[simp] theorem Dev.setFld_doms (d : Dev) (r : RegRow) (i : Nat) (f : Fld) (n : Nat) : (d.setFld r i f n).doms = d.doms := rfl
@[simp] theorem Dev.setFld_freezes (d : Dev) (r : RegRow) (i : Nat) (f : Fld) (n : Nat) : (d.setFld r i f n).freezes = d.freezes := rfl
@[simp] theorem Dev.setFld_evq (d : Dev) (r : RegRow) (i : Nat) (f : Fld) (n : Nat) : (d.setFld r i f n).evq = d.evq := rfl
@[simp] theorem Dev.setFld_evHold (d : Dev) (r : RegRow) (i : Nat) (f : Fld) (n : Nat) : (d.setFld r i f n).evHold = d.evHold := rfl
@[simp] theorem Dev.setFld_hosts (d : Dev) (r : RegRow) (i : Nat) (f : Fld) (n : Nat) : (d.setFld r i f n).hosts = d.hosts := rfl
@[simp] theorem Dev.setFld_out (d : Dev) (r : RegRow) (i : Nat) (f : Fld) (n : Nat) : (d.setFld r i f n).out = d.out := rfl

/-! ### wrapInc changes regs alone -/

@[simp] theorem Dev.wrapInc_timers (d : Dev) (r : RegRow) (i : Nat) (f : Fld) (n : Nat) : (d.wrapInc r i f n).timers = d.timers := rfl
@[simp] theorem Dev.wrapInc_waiters (d : Dev) (r : RegRow) (i : Nat) (f : Fld) (n : Nat) : (d.wrapInc r i f n).waiters = d.waiters := rfl
@[simp] theorem Dev.wrapInc_msgs (d : Dev) (r : RegRow) (i : Nat) (f : Fld) (n : Nat) : (d.wrapInc r i f n).msgs = d.msgs := rfl
@[simp] theorem Dev.wrapInc_slotq (d : Dev) (r : RegRow) (i : Nat) (f : Fld) (n : Nat) : (d.wrapInc r i f n).slotq = d.slotq := rfl
@[simp] theorem Dev.wrapInc_inflight (d : Dev) (r : RegRow) (i : Nat) (f : Fld) (n : Nat) : (d.wrapInc r i f n).inflight = d.inflight := rfl
@[simp] theorem Dev.wrapInc_poison (d : Dev) (r : RegRow) (i : Nat) (f : Fld) (n : Nat) : (d.wrapInc r i f n).poison = d.poison := rfl
@[simp] theorem Dev.wrapInc_journals (d : Dev) (r : RegRow) (i : Nat) (f : Fld) (n : Nat) : (d.wrapInc r i f n).journals = d.journals := rfl
@[simp] theorem Dev.wrapInc_fm (d : Dev) (r : RegRow) (i : Nat) (f : Fld) (n : Nat) : (d.wrapInc r i f n).fm = d.fm := rfl
@[simp] theorem Dev.wrapInc_state (d : Dev) (r : RegRow) (i : Nat) (f : Fld) (n : Nat) : (d.wrapInc r i f n).state = d.state := rfl
@[simp] theorem Dev.wrapInc_step (d : Dev) (r : RegRow) (i : Nat) (f : Fld) (n : Nat) : (d.wrapInc r i f n).step = d.step := rfl
@[simp] theorem Dev.wrapInc_strat (d : Dev) (r : RegRow) (i : Nat) (f : Fld) (n : Nat) : (d.wrapInc r i f n).strat = d.strat := rfl
@[simp] theorem Dev.wrapInc_mem (d : Dev) (r : RegRow) (i : Nat) (f : Fld) (n : Nat) : (d.wrapInc r i f n).mem = d.mem := rfl
@[simp] theorem Dev.wrapInc_clay (d : Dev) (r : RegRow) (i : Nat) (f : Fld) (n : Nat) : (d.wrapInc r i f n).clay = d.clay := rfl
@[simp] theorem Dev.wrapInc_flash (d : Dev) (r : RegRow) (i : Nat) (f : Fld) (n : Nat) : (d.wrapInc r i f n).flash = d.flash := rfl
@[simp] theorem Dev.wrapInc_win (d : Dev) (r : RegRow) (i : Nat) (f : Fld) (n : Nat) : (d.wrapInc r i f n).win = d.win := rfl
@[simp] theorem Dev.wrapInc_descs (d : Dev) (r : RegRow) (i : Nat) (f : Fld) (n : Nat) : (d.wrapInc r i f n).descs = d.descs := rfl
@[simp] theorem Dev.wrapInc_rgns (d : Dev) (r : RegRow) (i : Nat) (f : Fld) (n : Nat) : (d.wrapInc r i f n).rgns = d.rgns := rfl
@[simp] theorem Dev.wrapInc_ctxs (d : Dev) (r : RegRow) (i : Nat) (f : Fld) (n : Nat) : (d.wrapInc r i f n).ctxs = d.ctxs := rfl
@[simp] theorem Dev.wrapInc_beds (d : Dev) (r : RegRow) (i : Nat) (f : Fld) (n : Nat) : (d.wrapInc r i f n).beds = d.beds := rfl
@[simp] theorem Dev.wrapInc_reqs (d : Dev) (r : RegRow) (i : Nat) (f : Fld) (n : Nat) : (d.wrapInc r i f n).reqs = d.reqs := rfl
@[simp] theorem Dev.wrapInc_tensors (d : Dev) (r : RegRow) (i : Nat) (f : Fld) (n : Nat) : (d.wrapInc r i f n).tensors = d.tensors := rfl
@[simp] theorem Dev.wrapInc_moves (d : Dev) (r : RegRow) (i : Nat) (f : Fld) (n : Nat) : (d.wrapInc r i f n).moves = d.moves := rfl
@[simp] theorem Dev.wrapInc_plans (d : Dev) (r : RegRow) (i : Nat) (f : Fld) (n : Nat) : (d.wrapInc r i f n).plans = d.plans := rfl
@[simp] theorem Dev.wrapInc_ports (d : Dev) (r : RegRow) (i : Nat) (f : Fld) (n : Nat) : (d.wrapInc r i f n).ports = d.ports := rfl
@[simp] theorem Dev.wrapInc_insts (d : Dev) (r : RegRow) (i : Nat) (f : Fld) (n : Nat) : (d.wrapInc r i f n).insts = d.insts := rfl
@[simp] theorem Dev.wrapInc_setq (d : Dev) (r : RegRow) (i : Nat) (f : Fld) (n : Nat) : (d.wrapInc r i f n).setq = d.setq := rfl
@[simp] theorem Dev.wrapInc_doms (d : Dev) (r : RegRow) (i : Nat) (f : Fld) (n : Nat) : (d.wrapInc r i f n).doms = d.doms := rfl
@[simp] theorem Dev.wrapInc_freezes (d : Dev) (r : RegRow) (i : Nat) (f : Fld) (n : Nat) : (d.wrapInc r i f n).freezes = d.freezes := rfl
@[simp] theorem Dev.wrapInc_evq (d : Dev) (r : RegRow) (i : Nat) (f : Fld) (n : Nat) : (d.wrapInc r i f n).evq = d.evq := rfl
@[simp] theorem Dev.wrapInc_evHold (d : Dev) (r : RegRow) (i : Nat) (f : Fld) (n : Nat) : (d.wrapInc r i f n).evHold = d.evHold := rfl
@[simp] theorem Dev.wrapInc_hosts (d : Dev) (r : RegRow) (i : Nat) (f : Fld) (n : Nat) : (d.wrapInc r i f n).hosts = d.hosts := rfl
@[simp] theorem Dev.wrapInc_out (d : Dev) (r : RegRow) (i : Nat) (f : Fld) (n : Nat) : (d.wrapInc r i f n).out = d.out := rfl

/-! ### satInc changes regs alone -/

@[simp] theorem Dev.satInc_timers (d : Dev) (r : RegRow) (i : Nat) (f : Fld) (n : Nat) : (d.satInc r i f n).timers = d.timers := rfl
@[simp] theorem Dev.satInc_waiters (d : Dev) (r : RegRow) (i : Nat) (f : Fld) (n : Nat) : (d.satInc r i f n).waiters = d.waiters := rfl
@[simp] theorem Dev.satInc_msgs (d : Dev) (r : RegRow) (i : Nat) (f : Fld) (n : Nat) : (d.satInc r i f n).msgs = d.msgs := rfl
@[simp] theorem Dev.satInc_slotq (d : Dev) (r : RegRow) (i : Nat) (f : Fld) (n : Nat) : (d.satInc r i f n).slotq = d.slotq := rfl
@[simp] theorem Dev.satInc_inflight (d : Dev) (r : RegRow) (i : Nat) (f : Fld) (n : Nat) : (d.satInc r i f n).inflight = d.inflight := rfl
@[simp] theorem Dev.satInc_poison (d : Dev) (r : RegRow) (i : Nat) (f : Fld) (n : Nat) : (d.satInc r i f n).poison = d.poison := rfl
@[simp] theorem Dev.satInc_journals (d : Dev) (r : RegRow) (i : Nat) (f : Fld) (n : Nat) : (d.satInc r i f n).journals = d.journals := rfl
@[simp] theorem Dev.satInc_fm (d : Dev) (r : RegRow) (i : Nat) (f : Fld) (n : Nat) : (d.satInc r i f n).fm = d.fm := rfl
@[simp] theorem Dev.satInc_state (d : Dev) (r : RegRow) (i : Nat) (f : Fld) (n : Nat) : (d.satInc r i f n).state = d.state := rfl
@[simp] theorem Dev.satInc_step (d : Dev) (r : RegRow) (i : Nat) (f : Fld) (n : Nat) : (d.satInc r i f n).step = d.step := rfl
@[simp] theorem Dev.satInc_strat (d : Dev) (r : RegRow) (i : Nat) (f : Fld) (n : Nat) : (d.satInc r i f n).strat = d.strat := rfl
@[simp] theorem Dev.satInc_mem (d : Dev) (r : RegRow) (i : Nat) (f : Fld) (n : Nat) : (d.satInc r i f n).mem = d.mem := rfl
@[simp] theorem Dev.satInc_clay (d : Dev) (r : RegRow) (i : Nat) (f : Fld) (n : Nat) : (d.satInc r i f n).clay = d.clay := rfl
@[simp] theorem Dev.satInc_flash (d : Dev) (r : RegRow) (i : Nat) (f : Fld) (n : Nat) : (d.satInc r i f n).flash = d.flash := rfl
@[simp] theorem Dev.satInc_win (d : Dev) (r : RegRow) (i : Nat) (f : Fld) (n : Nat) : (d.satInc r i f n).win = d.win := rfl
@[simp] theorem Dev.satInc_descs (d : Dev) (r : RegRow) (i : Nat) (f : Fld) (n : Nat) : (d.satInc r i f n).descs = d.descs := rfl
@[simp] theorem Dev.satInc_rgns (d : Dev) (r : RegRow) (i : Nat) (f : Fld) (n : Nat) : (d.satInc r i f n).rgns = d.rgns := rfl
@[simp] theorem Dev.satInc_ctxs (d : Dev) (r : RegRow) (i : Nat) (f : Fld) (n : Nat) : (d.satInc r i f n).ctxs = d.ctxs := rfl
@[simp] theorem Dev.satInc_beds (d : Dev) (r : RegRow) (i : Nat) (f : Fld) (n : Nat) : (d.satInc r i f n).beds = d.beds := rfl
@[simp] theorem Dev.satInc_reqs (d : Dev) (r : RegRow) (i : Nat) (f : Fld) (n : Nat) : (d.satInc r i f n).reqs = d.reqs := rfl
@[simp] theorem Dev.satInc_tensors (d : Dev) (r : RegRow) (i : Nat) (f : Fld) (n : Nat) : (d.satInc r i f n).tensors = d.tensors := rfl
@[simp] theorem Dev.satInc_moves (d : Dev) (r : RegRow) (i : Nat) (f : Fld) (n : Nat) : (d.satInc r i f n).moves = d.moves := rfl
@[simp] theorem Dev.satInc_plans (d : Dev) (r : RegRow) (i : Nat) (f : Fld) (n : Nat) : (d.satInc r i f n).plans = d.plans := rfl
@[simp] theorem Dev.satInc_ports (d : Dev) (r : RegRow) (i : Nat) (f : Fld) (n : Nat) : (d.satInc r i f n).ports = d.ports := rfl
@[simp] theorem Dev.satInc_insts (d : Dev) (r : RegRow) (i : Nat) (f : Fld) (n : Nat) : (d.satInc r i f n).insts = d.insts := rfl
@[simp] theorem Dev.satInc_setq (d : Dev) (r : RegRow) (i : Nat) (f : Fld) (n : Nat) : (d.satInc r i f n).setq = d.setq := rfl
@[simp] theorem Dev.satInc_doms (d : Dev) (r : RegRow) (i : Nat) (f : Fld) (n : Nat) : (d.satInc r i f n).doms = d.doms := rfl
@[simp] theorem Dev.satInc_freezes (d : Dev) (r : RegRow) (i : Nat) (f : Fld) (n : Nat) : (d.satInc r i f n).freezes = d.freezes := rfl
@[simp] theorem Dev.satInc_evq (d : Dev) (r : RegRow) (i : Nat) (f : Fld) (n : Nat) : (d.satInc r i f n).evq = d.evq := rfl
@[simp] theorem Dev.satInc_evHold (d : Dev) (r : RegRow) (i : Nat) (f : Fld) (n : Nat) : (d.satInc r i f n).evHold = d.evHold := rfl
@[simp] theorem Dev.satInc_hosts (d : Dev) (r : RegRow) (i : Nat) (f : Fld) (n : Nat) : (d.satInc r i f n).hosts = d.hosts := rfl
@[simp] theorem Dev.satInc_out (d : Dev) (r : RegRow) (i : Nat) (f : Fld) (n : Nat) : (d.satInc r i f n).out = d.out := rfl

/-! ### setDesc changes descs alone -/

@[simp] theorem Dev.setDesc_regs (d : Dev) (x : Nat) (e : Desc) : (d.setDesc x e).regs = d.regs := rfl
@[simp] theorem Dev.setDesc_timers (d : Dev) (x : Nat) (e : Desc) : (d.setDesc x e).timers = d.timers := rfl
@[simp] theorem Dev.setDesc_waiters (d : Dev) (x : Nat) (e : Desc) : (d.setDesc x e).waiters = d.waiters := rfl
@[simp] theorem Dev.setDesc_msgs (d : Dev) (x : Nat) (e : Desc) : (d.setDesc x e).msgs = d.msgs := rfl
@[simp] theorem Dev.setDesc_slotq (d : Dev) (x : Nat) (e : Desc) : (d.setDesc x e).slotq = d.slotq := rfl
@[simp] theorem Dev.setDesc_inflight (d : Dev) (x : Nat) (e : Desc) : (d.setDesc x e).inflight = d.inflight := rfl
@[simp] theorem Dev.setDesc_poison (d : Dev) (x : Nat) (e : Desc) : (d.setDesc x e).poison = d.poison := rfl
@[simp] theorem Dev.setDesc_journals (d : Dev) (x : Nat) (e : Desc) : (d.setDesc x e).journals = d.journals := rfl
@[simp] theorem Dev.setDesc_fm (d : Dev) (x : Nat) (e : Desc) : (d.setDesc x e).fm = d.fm := rfl
@[simp] theorem Dev.setDesc_state (d : Dev) (x : Nat) (e : Desc) : (d.setDesc x e).state = d.state := rfl
@[simp] theorem Dev.setDesc_step (d : Dev) (x : Nat) (e : Desc) : (d.setDesc x e).step = d.step := rfl
@[simp] theorem Dev.setDesc_strat (d : Dev) (x : Nat) (e : Desc) : (d.setDesc x e).strat = d.strat := rfl
@[simp] theorem Dev.setDesc_mem (d : Dev) (x : Nat) (e : Desc) : (d.setDesc x e).mem = d.mem := rfl
@[simp] theorem Dev.setDesc_clay (d : Dev) (x : Nat) (e : Desc) : (d.setDesc x e).clay = d.clay := rfl
@[simp] theorem Dev.setDesc_flash (d : Dev) (x : Nat) (e : Desc) : (d.setDesc x e).flash = d.flash := rfl
@[simp] theorem Dev.setDesc_win (d : Dev) (x : Nat) (e : Desc) : (d.setDesc x e).win = d.win := rfl
@[simp] theorem Dev.setDesc_rgns (d : Dev) (x : Nat) (e : Desc) : (d.setDesc x e).rgns = d.rgns := rfl
@[simp] theorem Dev.setDesc_ctxs (d : Dev) (x : Nat) (e : Desc) : (d.setDesc x e).ctxs = d.ctxs := rfl
@[simp] theorem Dev.setDesc_beds (d : Dev) (x : Nat) (e : Desc) : (d.setDesc x e).beds = d.beds := rfl
@[simp] theorem Dev.setDesc_reqs (d : Dev) (x : Nat) (e : Desc) : (d.setDesc x e).reqs = d.reqs := rfl
@[simp] theorem Dev.setDesc_tensors (d : Dev) (x : Nat) (e : Desc) : (d.setDesc x e).tensors = d.tensors := rfl
@[simp] theorem Dev.setDesc_moves (d : Dev) (x : Nat) (e : Desc) : (d.setDesc x e).moves = d.moves := rfl
@[simp] theorem Dev.setDesc_plans (d : Dev) (x : Nat) (e : Desc) : (d.setDesc x e).plans = d.plans := rfl
@[simp] theorem Dev.setDesc_ports (d : Dev) (x : Nat) (e : Desc) : (d.setDesc x e).ports = d.ports := rfl
@[simp] theorem Dev.setDesc_insts (d : Dev) (x : Nat) (e : Desc) : (d.setDesc x e).insts = d.insts := rfl
@[simp] theorem Dev.setDesc_setq (d : Dev) (x : Nat) (e : Desc) : (d.setDesc x e).setq = d.setq := rfl
@[simp] theorem Dev.setDesc_doms (d : Dev) (x : Nat) (e : Desc) : (d.setDesc x e).doms = d.doms := rfl
@[simp] theorem Dev.setDesc_freezes (d : Dev) (x : Nat) (e : Desc) : (d.setDesc x e).freezes = d.freezes := rfl
@[simp] theorem Dev.setDesc_evq (d : Dev) (x : Nat) (e : Desc) : (d.setDesc x e).evq = d.evq := rfl
@[simp] theorem Dev.setDesc_evHold (d : Dev) (x : Nat) (e : Desc) : (d.setDesc x e).evHold = d.evHold := rfl
@[simp] theorem Dev.setDesc_hosts (d : Dev) (x : Nat) (e : Desc) : (d.setDesc x e).hosts = d.hosts := rfl
@[simp] theorem Dev.setDesc_out (d : Dev) (x : Nat) (e : Desc) : (d.setDesc x e).out = d.out := rfl

/-! ### updDesc changes descs alone -/

@[simp] theorem Dev.updDesc_regs (d : Dev) (x : Nat) (f : Desc → Desc) : (d.updDesc x f).regs = d.regs := rfl
@[simp] theorem Dev.updDesc_timers (d : Dev) (x : Nat) (f : Desc → Desc) : (d.updDesc x f).timers = d.timers := rfl
@[simp] theorem Dev.updDesc_waiters (d : Dev) (x : Nat) (f : Desc → Desc) : (d.updDesc x f).waiters = d.waiters := rfl
@[simp] theorem Dev.updDesc_msgs (d : Dev) (x : Nat) (f : Desc → Desc) : (d.updDesc x f).msgs = d.msgs := rfl
@[simp] theorem Dev.updDesc_slotq (d : Dev) (x : Nat) (f : Desc → Desc) : (d.updDesc x f).slotq = d.slotq := rfl
@[simp] theorem Dev.updDesc_inflight (d : Dev) (x : Nat) (f : Desc → Desc) : (d.updDesc x f).inflight = d.inflight := rfl
@[simp] theorem Dev.updDesc_poison (d : Dev) (x : Nat) (f : Desc → Desc) : (d.updDesc x f).poison = d.poison := rfl
@[simp] theorem Dev.updDesc_journals (d : Dev) (x : Nat) (f : Desc → Desc) : (d.updDesc x f).journals = d.journals := rfl
@[simp] theorem Dev.updDesc_fm (d : Dev) (x : Nat) (f : Desc → Desc) : (d.updDesc x f).fm = d.fm := rfl
@[simp] theorem Dev.updDesc_state (d : Dev) (x : Nat) (f : Desc → Desc) : (d.updDesc x f).state = d.state := rfl
@[simp] theorem Dev.updDesc_step (d : Dev) (x : Nat) (f : Desc → Desc) : (d.updDesc x f).step = d.step := rfl
@[simp] theorem Dev.updDesc_strat (d : Dev) (x : Nat) (f : Desc → Desc) : (d.updDesc x f).strat = d.strat := rfl
@[simp] theorem Dev.updDesc_mem (d : Dev) (x : Nat) (f : Desc → Desc) : (d.updDesc x f).mem = d.mem := rfl
@[simp] theorem Dev.updDesc_clay (d : Dev) (x : Nat) (f : Desc → Desc) : (d.updDesc x f).clay = d.clay := rfl
@[simp] theorem Dev.updDesc_flash (d : Dev) (x : Nat) (f : Desc → Desc) : (d.updDesc x f).flash = d.flash := rfl
@[simp] theorem Dev.updDesc_win (d : Dev) (x : Nat) (f : Desc → Desc) : (d.updDesc x f).win = d.win := rfl
@[simp] theorem Dev.updDesc_rgns (d : Dev) (x : Nat) (f : Desc → Desc) : (d.updDesc x f).rgns = d.rgns := rfl
@[simp] theorem Dev.updDesc_ctxs (d : Dev) (x : Nat) (f : Desc → Desc) : (d.updDesc x f).ctxs = d.ctxs := rfl
@[simp] theorem Dev.updDesc_beds (d : Dev) (x : Nat) (f : Desc → Desc) : (d.updDesc x f).beds = d.beds := rfl
@[simp] theorem Dev.updDesc_reqs (d : Dev) (x : Nat) (f : Desc → Desc) : (d.updDesc x f).reqs = d.reqs := rfl
@[simp] theorem Dev.updDesc_tensors (d : Dev) (x : Nat) (f : Desc → Desc) : (d.updDesc x f).tensors = d.tensors := rfl
@[simp] theorem Dev.updDesc_moves (d : Dev) (x : Nat) (f : Desc → Desc) : (d.updDesc x f).moves = d.moves := rfl
@[simp] theorem Dev.updDesc_plans (d : Dev) (x : Nat) (f : Desc → Desc) : (d.updDesc x f).plans = d.plans := rfl
@[simp] theorem Dev.updDesc_ports (d : Dev) (x : Nat) (f : Desc → Desc) : (d.updDesc x f).ports = d.ports := rfl
@[simp] theorem Dev.updDesc_insts (d : Dev) (x : Nat) (f : Desc → Desc) : (d.updDesc x f).insts = d.insts := rfl
@[simp] theorem Dev.updDesc_setq (d : Dev) (x : Nat) (f : Desc → Desc) : (d.updDesc x f).setq = d.setq := rfl
@[simp] theorem Dev.updDesc_doms (d : Dev) (x : Nat) (f : Desc → Desc) : (d.updDesc x f).doms = d.doms := rfl
@[simp] theorem Dev.updDesc_freezes (d : Dev) (x : Nat) (f : Desc → Desc) : (d.updDesc x f).freezes = d.freezes := rfl
@[simp] theorem Dev.updDesc_evq (d : Dev) (x : Nat) (f : Desc → Desc) : (d.updDesc x f).evq = d.evq := rfl
@[simp] theorem Dev.updDesc_evHold (d : Dev) (x : Nat) (f : Desc → Desc) : (d.updDesc x f).evHold = d.evHold := rfl
@[simp] theorem Dev.updDesc_hosts (d : Dev) (x : Nat) (f : Desc → Desc) : (d.updDesc x f).hosts = d.hosts := rfl
@[simp] theorem Dev.updDesc_out (d : Dev) (x : Nat) (f : Desc → Desc) : (d.updDesc x f).out = d.out := rfl

/-! ### setRgn changes rgns alone -/

@[simp] theorem Dev.setRgn_regs (d : Dev) (r : Nat) (g : Rgn) : (d.setRgn r g).regs = d.regs := rfl
@[simp] theorem Dev.setRgn_timers (d : Dev) (r : Nat) (g : Rgn) : (d.setRgn r g).timers = d.timers := rfl
@[simp] theorem Dev.setRgn_waiters (d : Dev) (r : Nat) (g : Rgn) : (d.setRgn r g).waiters = d.waiters := rfl
@[simp] theorem Dev.setRgn_msgs (d : Dev) (r : Nat) (g : Rgn) : (d.setRgn r g).msgs = d.msgs := rfl
@[simp] theorem Dev.setRgn_slotq (d : Dev) (r : Nat) (g : Rgn) : (d.setRgn r g).slotq = d.slotq := rfl
@[simp] theorem Dev.setRgn_inflight (d : Dev) (r : Nat) (g : Rgn) : (d.setRgn r g).inflight = d.inflight := rfl
@[simp] theorem Dev.setRgn_poison (d : Dev) (r : Nat) (g : Rgn) : (d.setRgn r g).poison = d.poison := rfl
@[simp] theorem Dev.setRgn_journals (d : Dev) (r : Nat) (g : Rgn) : (d.setRgn r g).journals = d.journals := rfl
@[simp] theorem Dev.setRgn_fm (d : Dev) (r : Nat) (g : Rgn) : (d.setRgn r g).fm = d.fm := rfl
@[simp] theorem Dev.setRgn_state (d : Dev) (r : Nat) (g : Rgn) : (d.setRgn r g).state = d.state := rfl
@[simp] theorem Dev.setRgn_step (d : Dev) (r : Nat) (g : Rgn) : (d.setRgn r g).step = d.step := rfl
@[simp] theorem Dev.setRgn_strat (d : Dev) (r : Nat) (g : Rgn) : (d.setRgn r g).strat = d.strat := rfl
@[simp] theorem Dev.setRgn_mem (d : Dev) (r : Nat) (g : Rgn) : (d.setRgn r g).mem = d.mem := rfl
@[simp] theorem Dev.setRgn_clay (d : Dev) (r : Nat) (g : Rgn) : (d.setRgn r g).clay = d.clay := rfl
@[simp] theorem Dev.setRgn_flash (d : Dev) (r : Nat) (g : Rgn) : (d.setRgn r g).flash = d.flash := rfl
@[simp] theorem Dev.setRgn_win (d : Dev) (r : Nat) (g : Rgn) : (d.setRgn r g).win = d.win := rfl
@[simp] theorem Dev.setRgn_descs (d : Dev) (r : Nat) (g : Rgn) : (d.setRgn r g).descs = d.descs := rfl
@[simp] theorem Dev.setRgn_ctxs (d : Dev) (r : Nat) (g : Rgn) : (d.setRgn r g).ctxs = d.ctxs := rfl
@[simp] theorem Dev.setRgn_beds (d : Dev) (r : Nat) (g : Rgn) : (d.setRgn r g).beds = d.beds := rfl
@[simp] theorem Dev.setRgn_reqs (d : Dev) (r : Nat) (g : Rgn) : (d.setRgn r g).reqs = d.reqs := rfl
@[simp] theorem Dev.setRgn_tensors (d : Dev) (r : Nat) (g : Rgn) : (d.setRgn r g).tensors = d.tensors := rfl
@[simp] theorem Dev.setRgn_moves (d : Dev) (r : Nat) (g : Rgn) : (d.setRgn r g).moves = d.moves := rfl
@[simp] theorem Dev.setRgn_plans (d : Dev) (r : Nat) (g : Rgn) : (d.setRgn r g).plans = d.plans := rfl
@[simp] theorem Dev.setRgn_ports (d : Dev) (r : Nat) (g : Rgn) : (d.setRgn r g).ports = d.ports := rfl
@[simp] theorem Dev.setRgn_insts (d : Dev) (r : Nat) (g : Rgn) : (d.setRgn r g).insts = d.insts := rfl
@[simp] theorem Dev.setRgn_setq (d : Dev) (r : Nat) (g : Rgn) : (d.setRgn r g).setq = d.setq := rfl
@[simp] theorem Dev.setRgn_doms (d : Dev) (r : Nat) (g : Rgn) : (d.setRgn r g).doms = d.doms := rfl
@[simp] theorem Dev.setRgn_freezes (d : Dev) (r : Nat) (g : Rgn) : (d.setRgn r g).freezes = d.freezes := rfl
@[simp] theorem Dev.setRgn_evq (d : Dev) (r : Nat) (g : Rgn) : (d.setRgn r g).evq = d.evq := rfl
@[simp] theorem Dev.setRgn_evHold (d : Dev) (r : Nat) (g : Rgn) : (d.setRgn r g).evHold = d.evHold := rfl
@[simp] theorem Dev.setRgn_hosts (d : Dev) (r : Nat) (g : Rgn) : (d.setRgn r g).hosts = d.hosts := rfl
@[simp] theorem Dev.setRgn_out (d : Dev) (r : Nat) (g : Rgn) : (d.setRgn r g).out = d.out := rfl

/-! ### updRgn changes rgns alone -/

@[simp] theorem Dev.updRgn_regs (d : Dev) (r : Nat) (f : Rgn → Rgn) : (d.updRgn r f).regs = d.regs := rfl
@[simp] theorem Dev.updRgn_timers (d : Dev) (r : Nat) (f : Rgn → Rgn) : (d.updRgn r f).timers = d.timers := rfl
@[simp] theorem Dev.updRgn_waiters (d : Dev) (r : Nat) (f : Rgn → Rgn) : (d.updRgn r f).waiters = d.waiters := rfl
@[simp] theorem Dev.updRgn_msgs (d : Dev) (r : Nat) (f : Rgn → Rgn) : (d.updRgn r f).msgs = d.msgs := rfl
@[simp] theorem Dev.updRgn_slotq (d : Dev) (r : Nat) (f : Rgn → Rgn) : (d.updRgn r f).slotq = d.slotq := rfl
@[simp] theorem Dev.updRgn_inflight (d : Dev) (r : Nat) (f : Rgn → Rgn) : (d.updRgn r f).inflight = d.inflight := rfl
@[simp] theorem Dev.updRgn_poison (d : Dev) (r : Nat) (f : Rgn → Rgn) : (d.updRgn r f).poison = d.poison := rfl
@[simp] theorem Dev.updRgn_journals (d : Dev) (r : Nat) (f : Rgn → Rgn) : (d.updRgn r f).journals = d.journals := rfl
@[simp] theorem Dev.updRgn_fm (d : Dev) (r : Nat) (f : Rgn → Rgn) : (d.updRgn r f).fm = d.fm := rfl
@[simp] theorem Dev.updRgn_state (d : Dev) (r : Nat) (f : Rgn → Rgn) : (d.updRgn r f).state = d.state := rfl
@[simp] theorem Dev.updRgn_step (d : Dev) (r : Nat) (f : Rgn → Rgn) : (d.updRgn r f).step = d.step := rfl
@[simp] theorem Dev.updRgn_strat (d : Dev) (r : Nat) (f : Rgn → Rgn) : (d.updRgn r f).strat = d.strat := rfl
@[simp] theorem Dev.updRgn_mem (d : Dev) (r : Nat) (f : Rgn → Rgn) : (d.updRgn r f).mem = d.mem := rfl
@[simp] theorem Dev.updRgn_clay (d : Dev) (r : Nat) (f : Rgn → Rgn) : (d.updRgn r f).clay = d.clay := rfl
@[simp] theorem Dev.updRgn_flash (d : Dev) (r : Nat) (f : Rgn → Rgn) : (d.updRgn r f).flash = d.flash := rfl
@[simp] theorem Dev.updRgn_win (d : Dev) (r : Nat) (f : Rgn → Rgn) : (d.updRgn r f).win = d.win := rfl
@[simp] theorem Dev.updRgn_descs (d : Dev) (r : Nat) (f : Rgn → Rgn) : (d.updRgn r f).descs = d.descs := rfl
@[simp] theorem Dev.updRgn_ctxs (d : Dev) (r : Nat) (f : Rgn → Rgn) : (d.updRgn r f).ctxs = d.ctxs := rfl
@[simp] theorem Dev.updRgn_beds (d : Dev) (r : Nat) (f : Rgn → Rgn) : (d.updRgn r f).beds = d.beds := rfl
@[simp] theorem Dev.updRgn_reqs (d : Dev) (r : Nat) (f : Rgn → Rgn) : (d.updRgn r f).reqs = d.reqs := rfl
@[simp] theorem Dev.updRgn_tensors (d : Dev) (r : Nat) (f : Rgn → Rgn) : (d.updRgn r f).tensors = d.tensors := rfl
@[simp] theorem Dev.updRgn_moves (d : Dev) (r : Nat) (f : Rgn → Rgn) : (d.updRgn r f).moves = d.moves := rfl
@[simp] theorem Dev.updRgn_plans (d : Dev) (r : Nat) (f : Rgn → Rgn) : (d.updRgn r f).plans = d.plans := rfl
@[simp] theorem Dev.updRgn_ports (d : Dev) (r : Nat) (f : Rgn → Rgn) : (d.updRgn r f).ports = d.ports := rfl
@[simp] theorem Dev.updRgn_insts (d : Dev) (r : Nat) (f : Rgn → Rgn) : (d.updRgn r f).insts = d.insts := rfl
@[simp] theorem Dev.updRgn_setq (d : Dev) (r : Nat) (f : Rgn → Rgn) : (d.updRgn r f).setq = d.setq := rfl
@[simp] theorem Dev.updRgn_doms (d : Dev) (r : Nat) (f : Rgn → Rgn) : (d.updRgn r f).doms = d.doms := rfl
@[simp] theorem Dev.updRgn_freezes (d : Dev) (r : Nat) (f : Rgn → Rgn) : (d.updRgn r f).freezes = d.freezes := rfl
@[simp] theorem Dev.updRgn_evq (d : Dev) (r : Nat) (f : Rgn → Rgn) : (d.updRgn r f).evq = d.evq := rfl
@[simp] theorem Dev.updRgn_evHold (d : Dev) (r : Nat) (f : Rgn → Rgn) : (d.updRgn r f).evHold = d.evHold := rfl
@[simp] theorem Dev.updRgn_hosts (d : Dev) (r : Nat) (f : Rgn → Rgn) : (d.updRgn r f).hosts = d.hosts := rfl
@[simp] theorem Dev.updRgn_out (d : Dev) (r : Nat) (f : Rgn → Rgn) : (d.updRgn r f).out = d.out := rfl

/-! ### setCtx changes ctxs alone -/

@[simp] theorem Dev.setCtx_regs (d : Dev) (c : Nat) (x : Ctx) : (d.setCtx c x).regs = d.regs := rfl
@[simp] theorem Dev.setCtx_timers (d : Dev) (c : Nat) (x : Ctx) : (d.setCtx c x).timers = d.timers := rfl
@[simp] theorem Dev.setCtx_waiters (d : Dev) (c : Nat) (x : Ctx) : (d.setCtx c x).waiters = d.waiters := rfl
@[simp] theorem Dev.setCtx_msgs (d : Dev) (c : Nat) (x : Ctx) : (d.setCtx c x).msgs = d.msgs := rfl
@[simp] theorem Dev.setCtx_slotq (d : Dev) (c : Nat) (x : Ctx) : (d.setCtx c x).slotq = d.slotq := rfl
@[simp] theorem Dev.setCtx_inflight (d : Dev) (c : Nat) (x : Ctx) : (d.setCtx c x).inflight = d.inflight := rfl
@[simp] theorem Dev.setCtx_poison (d : Dev) (c : Nat) (x : Ctx) : (d.setCtx c x).poison = d.poison := rfl
@[simp] theorem Dev.setCtx_journals (d : Dev) (c : Nat) (x : Ctx) : (d.setCtx c x).journals = d.journals := rfl
@[simp] theorem Dev.setCtx_fm (d : Dev) (c : Nat) (x : Ctx) : (d.setCtx c x).fm = d.fm := rfl
@[simp] theorem Dev.setCtx_state (d : Dev) (c : Nat) (x : Ctx) : (d.setCtx c x).state = d.state := rfl
@[simp] theorem Dev.setCtx_step (d : Dev) (c : Nat) (x : Ctx) : (d.setCtx c x).step = d.step := rfl
@[simp] theorem Dev.setCtx_strat (d : Dev) (c : Nat) (x : Ctx) : (d.setCtx c x).strat = d.strat := rfl
@[simp] theorem Dev.setCtx_mem (d : Dev) (c : Nat) (x : Ctx) : (d.setCtx c x).mem = d.mem := rfl
@[simp] theorem Dev.setCtx_clay (d : Dev) (c : Nat) (x : Ctx) : (d.setCtx c x).clay = d.clay := rfl
@[simp] theorem Dev.setCtx_flash (d : Dev) (c : Nat) (x : Ctx) : (d.setCtx c x).flash = d.flash := rfl
@[simp] theorem Dev.setCtx_win (d : Dev) (c : Nat) (x : Ctx) : (d.setCtx c x).win = d.win := rfl
@[simp] theorem Dev.setCtx_descs (d : Dev) (c : Nat) (x : Ctx) : (d.setCtx c x).descs = d.descs := rfl
@[simp] theorem Dev.setCtx_rgns (d : Dev) (c : Nat) (x : Ctx) : (d.setCtx c x).rgns = d.rgns := rfl
@[simp] theorem Dev.setCtx_beds (d : Dev) (c : Nat) (x : Ctx) : (d.setCtx c x).beds = d.beds := rfl
@[simp] theorem Dev.setCtx_reqs (d : Dev) (c : Nat) (x : Ctx) : (d.setCtx c x).reqs = d.reqs := rfl
@[simp] theorem Dev.setCtx_tensors (d : Dev) (c : Nat) (x : Ctx) : (d.setCtx c x).tensors = d.tensors := rfl
@[simp] theorem Dev.setCtx_moves (d : Dev) (c : Nat) (x : Ctx) : (d.setCtx c x).moves = d.moves := rfl
@[simp] theorem Dev.setCtx_plans (d : Dev) (c : Nat) (x : Ctx) : (d.setCtx c x).plans = d.plans := rfl
@[simp] theorem Dev.setCtx_ports (d : Dev) (c : Nat) (x : Ctx) : (d.setCtx c x).ports = d.ports := rfl
@[simp] theorem Dev.setCtx_insts (d : Dev) (c : Nat) (x : Ctx) : (d.setCtx c x).insts = d.insts := rfl
@[simp] theorem Dev.setCtx_setq (d : Dev) (c : Nat) (x : Ctx) : (d.setCtx c x).setq = d.setq := rfl
@[simp] theorem Dev.setCtx_doms (d : Dev) (c : Nat) (x : Ctx) : (d.setCtx c x).doms = d.doms := rfl
@[simp] theorem Dev.setCtx_freezes (d : Dev) (c : Nat) (x : Ctx) : (d.setCtx c x).freezes = d.freezes := rfl
@[simp] theorem Dev.setCtx_evq (d : Dev) (c : Nat) (x : Ctx) : (d.setCtx c x).evq = d.evq := rfl
@[simp] theorem Dev.setCtx_evHold (d : Dev) (c : Nat) (x : Ctx) : (d.setCtx c x).evHold = d.evHold := rfl
@[simp] theorem Dev.setCtx_hosts (d : Dev) (c : Nat) (x : Ctx) : (d.setCtx c x).hosts = d.hosts := rfl
@[simp] theorem Dev.setCtx_out (d : Dev) (c : Nat) (x : Ctx) : (d.setCtx c x).out = d.out := rfl

/-! ### updCtx changes ctxs alone -/

@[simp] theorem Dev.updCtx_regs (d : Dev) (c : Nat) (f : Ctx → Ctx) : (d.updCtx c f).regs = d.regs := rfl
@[simp] theorem Dev.updCtx_timers (d : Dev) (c : Nat) (f : Ctx → Ctx) : (d.updCtx c f).timers = d.timers := rfl
@[simp] theorem Dev.updCtx_waiters (d : Dev) (c : Nat) (f : Ctx → Ctx) : (d.updCtx c f).waiters = d.waiters := rfl
@[simp] theorem Dev.updCtx_msgs (d : Dev) (c : Nat) (f : Ctx → Ctx) : (d.updCtx c f).msgs = d.msgs := rfl
@[simp] theorem Dev.updCtx_slotq (d : Dev) (c : Nat) (f : Ctx → Ctx) : (d.updCtx c f).slotq = d.slotq := rfl
@[simp] theorem Dev.updCtx_inflight (d : Dev) (c : Nat) (f : Ctx → Ctx) : (d.updCtx c f).inflight = d.inflight := rfl
@[simp] theorem Dev.updCtx_poison (d : Dev) (c : Nat) (f : Ctx → Ctx) : (d.updCtx c f).poison = d.poison := rfl
@[simp] theorem Dev.updCtx_journals (d : Dev) (c : Nat) (f : Ctx → Ctx) : (d.updCtx c f).journals = d.journals := rfl
@[simp] theorem Dev.updCtx_fm (d : Dev) (c : Nat) (f : Ctx → Ctx) : (d.updCtx c f).fm = d.fm := rfl
@[simp] theorem Dev.updCtx_state (d : Dev) (c : Nat) (f : Ctx → Ctx) : (d.updCtx c f).state = d.state := rfl
@[simp] theorem Dev.updCtx_step (d : Dev) (c : Nat) (f : Ctx → Ctx) : (d.updCtx c f).step = d.step := rfl
@[simp] theorem Dev.updCtx_strat (d : Dev) (c : Nat) (f : Ctx → Ctx) : (d.updCtx c f).strat = d.strat := rfl
@[simp] theorem Dev.updCtx_mem (d : Dev) (c : Nat) (f : Ctx → Ctx) : (d.updCtx c f).mem = d.mem := rfl
@[simp] theorem Dev.updCtx_clay (d : Dev) (c : Nat) (f : Ctx → Ctx) : (d.updCtx c f).clay = d.clay := rfl
@[simp] theorem Dev.updCtx_flash (d : Dev) (c : Nat) (f : Ctx → Ctx) : (d.updCtx c f).flash = d.flash := rfl
@[simp] theorem Dev.updCtx_win (d : Dev) (c : Nat) (f : Ctx → Ctx) : (d.updCtx c f).win = d.win := rfl
@[simp] theorem Dev.updCtx_descs (d : Dev) (c : Nat) (f : Ctx → Ctx) : (d.updCtx c f).descs = d.descs := rfl
@[simp] theorem Dev.updCtx_rgns (d : Dev) (c : Nat) (f : Ctx → Ctx) : (d.updCtx c f).rgns = d.rgns := rfl
@[simp] theorem Dev.updCtx_beds (d : Dev) (c : Nat) (f : Ctx → Ctx) : (d.updCtx c f).beds = d.beds := rfl
@[simp] theorem Dev.updCtx_reqs (d : Dev) (c : Nat) (f : Ctx → Ctx) : (d.updCtx c f).reqs = d.reqs := rfl
@[simp] theorem Dev.updCtx_tensors (d : Dev) (c : Nat) (f : Ctx → Ctx) : (d.updCtx c f).tensors = d.tensors := rfl
@[simp] theorem Dev.updCtx_moves (d : Dev) (c : Nat) (f : Ctx → Ctx) : (d.updCtx c f).moves = d.moves := rfl
@[simp] theorem Dev.updCtx_plans (d : Dev) (c : Nat) (f : Ctx → Ctx) : (d.updCtx c f).plans = d.plans := rfl
@[simp] theorem Dev.updCtx_ports (d : Dev) (c : Nat) (f : Ctx → Ctx) : (d.updCtx c f).ports = d.ports := rfl
@[simp] theorem Dev.updCtx_insts (d : Dev) (c : Nat) (f : Ctx → Ctx) : (d.updCtx c f).insts = d.insts := rfl
@[simp] theorem Dev.updCtx_setq (d : Dev) (c : Nat) (f : Ctx → Ctx) : (d.updCtx c f).setq = d.setq := rfl
@[simp] theorem Dev.updCtx_doms (d : Dev) (c : Nat) (f : Ctx → Ctx) : (d.updCtx c f).doms = d.doms := rfl
@[simp] theorem Dev.updCtx_freezes (d : Dev) (c : Nat) (f : Ctx → Ctx) : (d.updCtx c f).freezes = d.freezes := rfl
@[simp] theorem Dev.updCtx_evq (d : Dev) (c : Nat) (f : Ctx → Ctx) : (d.updCtx c f).evq = d.evq := rfl
@[simp] theorem Dev.updCtx_evHold (d : Dev) (c : Nat) (f : Ctx → Ctx) : (d.updCtx c f).evHold = d.evHold := rfl
@[simp] theorem Dev.updCtx_hosts (d : Dev) (c : Nat) (f : Ctx → Ctx) : (d.updCtx c f).hosts = d.hosts := rfl
@[simp] theorem Dev.updCtx_out (d : Dev) (c : Nat) (f : Ctx → Ctx) : (d.updCtx c f).out = d.out := rfl

/-! ### setBed changes beds alone -/

@[simp] theorem Dev.setBed_regs (d : Dev) (b : Nat) (x : Bed) : (d.setBed b x).regs = d.regs := rfl
@[simp] theorem Dev.setBed_timers (d : Dev) (b : Nat) (x : Bed) : (d.setBed b x).timers = d.timers := rfl
@[simp] theorem Dev.setBed_waiters (d : Dev) (b : Nat) (x : Bed) : (d.setBed b x).waiters = d.waiters := rfl
@[simp] theorem Dev.setBed_msgs (d : Dev) (b : Nat) (x : Bed) : (d.setBed b x).msgs = d.msgs := rfl
@[simp] theorem Dev.setBed_slotq (d : Dev) (b : Nat) (x : Bed) : (d.setBed b x).slotq = d.slotq := rfl
@[simp] theorem Dev.setBed_inflight (d : Dev) (b : Nat) (x : Bed) : (d.setBed b x).inflight = d.inflight := rfl
@[simp] theorem Dev.setBed_poison (d : Dev) (b : Nat) (x : Bed) : (d.setBed b x).poison = d.poison := rfl
@[simp] theorem Dev.setBed_journals (d : Dev) (b : Nat) (x : Bed) : (d.setBed b x).journals = d.journals := rfl
@[simp] theorem Dev.setBed_fm (d : Dev) (b : Nat) (x : Bed) : (d.setBed b x).fm = d.fm := rfl
@[simp] theorem Dev.setBed_state (d : Dev) (b : Nat) (x : Bed) : (d.setBed b x).state = d.state := rfl
@[simp] theorem Dev.setBed_step (d : Dev) (b : Nat) (x : Bed) : (d.setBed b x).step = d.step := rfl
@[simp] theorem Dev.setBed_strat (d : Dev) (b : Nat) (x : Bed) : (d.setBed b x).strat = d.strat := rfl
@[simp] theorem Dev.setBed_mem (d : Dev) (b : Nat) (x : Bed) : (d.setBed b x).mem = d.mem := rfl
@[simp] theorem Dev.setBed_clay (d : Dev) (b : Nat) (x : Bed) : (d.setBed b x).clay = d.clay := rfl
@[simp] theorem Dev.setBed_flash (d : Dev) (b : Nat) (x : Bed) : (d.setBed b x).flash = d.flash := rfl
@[simp] theorem Dev.setBed_win (d : Dev) (b : Nat) (x : Bed) : (d.setBed b x).win = d.win := rfl
@[simp] theorem Dev.setBed_descs (d : Dev) (b : Nat) (x : Bed) : (d.setBed b x).descs = d.descs := rfl
@[simp] theorem Dev.setBed_rgns (d : Dev) (b : Nat) (x : Bed) : (d.setBed b x).rgns = d.rgns := rfl
@[simp] theorem Dev.setBed_ctxs (d : Dev) (b : Nat) (x : Bed) : (d.setBed b x).ctxs = d.ctxs := rfl
@[simp] theorem Dev.setBed_reqs (d : Dev) (b : Nat) (x : Bed) : (d.setBed b x).reqs = d.reqs := rfl
@[simp] theorem Dev.setBed_tensors (d : Dev) (b : Nat) (x : Bed) : (d.setBed b x).tensors = d.tensors := rfl
@[simp] theorem Dev.setBed_moves (d : Dev) (b : Nat) (x : Bed) : (d.setBed b x).moves = d.moves := rfl
@[simp] theorem Dev.setBed_plans (d : Dev) (b : Nat) (x : Bed) : (d.setBed b x).plans = d.plans := rfl
@[simp] theorem Dev.setBed_ports (d : Dev) (b : Nat) (x : Bed) : (d.setBed b x).ports = d.ports := rfl
@[simp] theorem Dev.setBed_insts (d : Dev) (b : Nat) (x : Bed) : (d.setBed b x).insts = d.insts := rfl
@[simp] theorem Dev.setBed_setq (d : Dev) (b : Nat) (x : Bed) : (d.setBed b x).setq = d.setq := rfl
@[simp] theorem Dev.setBed_doms (d : Dev) (b : Nat) (x : Bed) : (d.setBed b x).doms = d.doms := rfl
@[simp] theorem Dev.setBed_freezes (d : Dev) (b : Nat) (x : Bed) : (d.setBed b x).freezes = d.freezes := rfl
@[simp] theorem Dev.setBed_evq (d : Dev) (b : Nat) (x : Bed) : (d.setBed b x).evq = d.evq := rfl
@[simp] theorem Dev.setBed_evHold (d : Dev) (b : Nat) (x : Bed) : (d.setBed b x).evHold = d.evHold := rfl
@[simp] theorem Dev.setBed_hosts (d : Dev) (b : Nat) (x : Bed) : (d.setBed b x).hosts = d.hosts := rfl
@[simp] theorem Dev.setBed_out (d : Dev) (b : Nat) (x : Bed) : (d.setBed b x).out = d.out := rfl

/-! ### updBed changes beds alone -/

@[simp] theorem Dev.updBed_regs (d : Dev) (b : Nat) (f : Bed → Bed) : (d.updBed b f).regs = d.regs := rfl
@[simp] theorem Dev.updBed_timers (d : Dev) (b : Nat) (f : Bed → Bed) : (d.updBed b f).timers = d.timers := rfl
@[simp] theorem Dev.updBed_waiters (d : Dev) (b : Nat) (f : Bed → Bed) : (d.updBed b f).waiters = d.waiters := rfl
@[simp] theorem Dev.updBed_msgs (d : Dev) (b : Nat) (f : Bed → Bed) : (d.updBed b f).msgs = d.msgs := rfl
@[simp] theorem Dev.updBed_slotq (d : Dev) (b : Nat) (f : Bed → Bed) : (d.updBed b f).slotq = d.slotq := rfl
@[simp] theorem Dev.updBed_inflight (d : Dev) (b : Nat) (f : Bed → Bed) : (d.updBed b f).inflight = d.inflight := rfl
@[simp] theorem Dev.updBed_poison (d : Dev) (b : Nat) (f : Bed → Bed) : (d.updBed b f).poison = d.poison := rfl
@[simp] theorem Dev.updBed_journals (d : Dev) (b : Nat) (f : Bed → Bed) : (d.updBed b f).journals = d.journals := rfl
@[simp] theorem Dev.updBed_fm (d : Dev) (b : Nat) (f : Bed → Bed) : (d.updBed b f).fm = d.fm := rfl
@[simp] theorem Dev.updBed_state (d : Dev) (b : Nat) (f : Bed → Bed) : (d.updBed b f).state = d.state := rfl
@[simp] theorem Dev.updBed_step (d : Dev) (b : Nat) (f : Bed → Bed) : (d.updBed b f).step = d.step := rfl
@[simp] theorem Dev.updBed_strat (d : Dev) (b : Nat) (f : Bed → Bed) : (d.updBed b f).strat = d.strat := rfl
@[simp] theorem Dev.updBed_mem (d : Dev) (b : Nat) (f : Bed → Bed) : (d.updBed b f).mem = d.mem := rfl
@[simp] theorem Dev.updBed_clay (d : Dev) (b : Nat) (f : Bed → Bed) : (d.updBed b f).clay = d.clay := rfl
@[simp] theorem Dev.updBed_flash (d : Dev) (b : Nat) (f : Bed → Bed) : (d.updBed b f).flash = d.flash := rfl
@[simp] theorem Dev.updBed_win (d : Dev) (b : Nat) (f : Bed → Bed) : (d.updBed b f).win = d.win := rfl
@[simp] theorem Dev.updBed_descs (d : Dev) (b : Nat) (f : Bed → Bed) : (d.updBed b f).descs = d.descs := rfl
@[simp] theorem Dev.updBed_rgns (d : Dev) (b : Nat) (f : Bed → Bed) : (d.updBed b f).rgns = d.rgns := rfl
@[simp] theorem Dev.updBed_ctxs (d : Dev) (b : Nat) (f : Bed → Bed) : (d.updBed b f).ctxs = d.ctxs := rfl
@[simp] theorem Dev.updBed_reqs (d : Dev) (b : Nat) (f : Bed → Bed) : (d.updBed b f).reqs = d.reqs := rfl
@[simp] theorem Dev.updBed_tensors (d : Dev) (b : Nat) (f : Bed → Bed) : (d.updBed b f).tensors = d.tensors := rfl
@[simp] theorem Dev.updBed_moves (d : Dev) (b : Nat) (f : Bed → Bed) : (d.updBed b f).moves = d.moves := rfl
@[simp] theorem Dev.updBed_plans (d : Dev) (b : Nat) (f : Bed → Bed) : (d.updBed b f).plans = d.plans := rfl
@[simp] theorem Dev.updBed_ports (d : Dev) (b : Nat) (f : Bed → Bed) : (d.updBed b f).ports = d.ports := rfl
@[simp] theorem Dev.updBed_insts (d : Dev) (b : Nat) (f : Bed → Bed) : (d.updBed b f).insts = d.insts := rfl
@[simp] theorem Dev.updBed_setq (d : Dev) (b : Nat) (f : Bed → Bed) : (d.updBed b f).setq = d.setq := rfl
@[simp] theorem Dev.updBed_doms (d : Dev) (b : Nat) (f : Bed → Bed) : (d.updBed b f).doms = d.doms := rfl
@[simp] theorem Dev.updBed_freezes (d : Dev) (b : Nat) (f : Bed → Bed) : (d.updBed b f).freezes = d.freezes := rfl
@[simp] theorem Dev.updBed_evq (d : Dev) (b : Nat) (f : Bed → Bed) : (d.updBed b f).evq = d.evq := rfl
@[simp] theorem Dev.updBed_evHold (d : Dev) (b : Nat) (f : Bed → Bed) : (d.updBed b f).evHold = d.evHold := rfl
@[simp] theorem Dev.updBed_hosts (d : Dev) (b : Nat) (f : Bed → Bed) : (d.updBed b f).hosts = d.hosts := rfl
@[simp] theorem Dev.updBed_out (d : Dev) (b : Nat) (f : Bed → Bed) : (d.updBed b f).out = d.out := rfl

/-! ### setPort changes ports alone -/

@[simp] theorem Dev.setPort_regs (d : Dev) (p : Nat) (x : Port) : (d.setPort p x).regs = d.regs := rfl
@[simp] theorem Dev.setPort_timers (d : Dev) (p : Nat) (x : Port) : (d.setPort p x).timers = d.timers := rfl
@[simp] theorem Dev.setPort_waiters (d : Dev) (p : Nat) (x : Port) : (d.setPort p x).waiters = d.waiters := rfl
@[simp] theorem Dev.setPort_msgs (d : Dev) (p : Nat) (x : Port) : (d.setPort p x).msgs = d.msgs := rfl
@[simp] theorem Dev.setPort_slotq (d : Dev) (p : Nat) (x : Port) : (d.setPort p x).slotq = d.slotq := rfl
@[simp] theorem Dev.setPort_inflight (d : Dev) (p : Nat) (x : Port) : (d.setPort p x).inflight = d.inflight := rfl
@[simp] theorem Dev.setPort_poison (d : Dev) (p : Nat) (x : Port) : (d.setPort p x).poison = d.poison := rfl
@[simp] theorem Dev.setPort_journals (d : Dev) (p : Nat) (x : Port) : (d.setPort p x).journals = d.journals := rfl
@[simp] theorem Dev.setPort_fm (d : Dev) (p : Nat) (x : Port) : (d.setPort p x).fm = d.fm := rfl
@[simp] theorem Dev.setPort_state (d : Dev) (p : Nat) (x : Port) : (d.setPort p x).state = d.state := rfl
@[simp] theorem Dev.setPort_step (d : Dev) (p : Nat) (x : Port) : (d.setPort p x).step = d.step := rfl
@[simp] theorem Dev.setPort_strat (d : Dev) (p : Nat) (x : Port) : (d.setPort p x).strat = d.strat := rfl
@[simp] theorem Dev.setPort_mem (d : Dev) (p : Nat) (x : Port) : (d.setPort p x).mem = d.mem := rfl
@[simp] theorem Dev.setPort_clay (d : Dev) (p : Nat) (x : Port) : (d.setPort p x).clay = d.clay := rfl
@[simp] theorem Dev.setPort_flash (d : Dev) (p : Nat) (x : Port) : (d.setPort p x).flash = d.flash := rfl
@[simp] theorem Dev.setPort_win (d : Dev) (p : Nat) (x : Port) : (d.setPort p x).win = d.win := rfl
@[simp] theorem Dev.setPort_descs (d : Dev) (p : Nat) (x : Port) : (d.setPort p x).descs = d.descs := rfl
@[simp] theorem Dev.setPort_rgns (d : Dev) (p : Nat) (x : Port) : (d.setPort p x).rgns = d.rgns := rfl
@[simp] theorem Dev.setPort_ctxs (d : Dev) (p : Nat) (x : Port) : (d.setPort p x).ctxs = d.ctxs := rfl
@[simp] theorem Dev.setPort_beds (d : Dev) (p : Nat) (x : Port) : (d.setPort p x).beds = d.beds := rfl
@[simp] theorem Dev.setPort_reqs (d : Dev) (p : Nat) (x : Port) : (d.setPort p x).reqs = d.reqs := rfl
@[simp] theorem Dev.setPort_tensors (d : Dev) (p : Nat) (x : Port) : (d.setPort p x).tensors = d.tensors := rfl
@[simp] theorem Dev.setPort_moves (d : Dev) (p : Nat) (x : Port) : (d.setPort p x).moves = d.moves := rfl
@[simp] theorem Dev.setPort_plans (d : Dev) (p : Nat) (x : Port) : (d.setPort p x).plans = d.plans := rfl
@[simp] theorem Dev.setPort_insts (d : Dev) (p : Nat) (x : Port) : (d.setPort p x).insts = d.insts := rfl
@[simp] theorem Dev.setPort_setq (d : Dev) (p : Nat) (x : Port) : (d.setPort p x).setq = d.setq := rfl
@[simp] theorem Dev.setPort_doms (d : Dev) (p : Nat) (x : Port) : (d.setPort p x).doms = d.doms := rfl
@[simp] theorem Dev.setPort_freezes (d : Dev) (p : Nat) (x : Port) : (d.setPort p x).freezes = d.freezes := rfl
@[simp] theorem Dev.setPort_evq (d : Dev) (p : Nat) (x : Port) : (d.setPort p x).evq = d.evq := rfl
@[simp] theorem Dev.setPort_evHold (d : Dev) (p : Nat) (x : Port) : (d.setPort p x).evHold = d.evHold := rfl
@[simp] theorem Dev.setPort_hosts (d : Dev) (p : Nat) (x : Port) : (d.setPort p x).hosts = d.hosts := rfl
@[simp] theorem Dev.setPort_out (d : Dev) (p : Nat) (x : Port) : (d.setPort p x).out = d.out := rfl

/-! ### updPort changes ports alone -/

@[simp] theorem Dev.updPort_regs (d : Dev) (p : Nat) (f : Port → Port) : (d.updPort p f).regs = d.regs := rfl
@[simp] theorem Dev.updPort_timers (d : Dev) (p : Nat) (f : Port → Port) : (d.updPort p f).timers = d.timers := rfl
@[simp] theorem Dev.updPort_waiters (d : Dev) (p : Nat) (f : Port → Port) : (d.updPort p f).waiters = d.waiters := rfl
@[simp] theorem Dev.updPort_msgs (d : Dev) (p : Nat) (f : Port → Port) : (d.updPort p f).msgs = d.msgs := rfl
@[simp] theorem Dev.updPort_slotq (d : Dev) (p : Nat) (f : Port → Port) : (d.updPort p f).slotq = d.slotq := rfl
@[simp] theorem Dev.updPort_inflight (d : Dev) (p : Nat) (f : Port → Port) : (d.updPort p f).inflight = d.inflight := rfl
@[simp] theorem Dev.updPort_poison (d : Dev) (p : Nat) (f : Port → Port) : (d.updPort p f).poison = d.poison := rfl
@[simp] theorem Dev.updPort_journals (d : Dev) (p : Nat) (f : Port → Port) : (d.updPort p f).journals = d.journals := rfl
@[simp] theorem Dev.updPort_fm (d : Dev) (p : Nat) (f : Port → Port) : (d.updPort p f).fm = d.fm := rfl
@[simp] theorem Dev.updPort_state (d : Dev) (p : Nat) (f : Port → Port) : (d.updPort p f).state = d.state := rfl
@[simp] theorem Dev.updPort_step (d : Dev) (p : Nat) (f : Port → Port) : (d.updPort p f).step = d.step := rfl
@[simp] theorem Dev.updPort_strat (d : Dev) (p : Nat) (f : Port → Port) : (d.updPort p f).strat = d.strat := rfl
@[simp] theorem Dev.updPort_mem (d : Dev) (p : Nat) (f : Port → Port) : (d.updPort p f).mem = d.mem := rfl
@[simp] theorem Dev.updPort_clay (d : Dev) (p : Nat) (f : Port → Port) : (d.updPort p f).clay = d.clay := rfl
@[simp] theorem Dev.updPort_flash (d : Dev) (p : Nat) (f : Port → Port) : (d.updPort p f).flash = d.flash := rfl
@[simp] theorem Dev.updPort_win (d : Dev) (p : Nat) (f : Port → Port) : (d.updPort p f).win = d.win := rfl
@[simp] theorem Dev.updPort_descs (d : Dev) (p : Nat) (f : Port → Port) : (d.updPort p f).descs = d.descs := rfl
@[simp] theorem Dev.updPort_rgns (d : Dev) (p : Nat) (f : Port → Port) : (d.updPort p f).rgns = d.rgns := rfl
@[simp] theorem Dev.updPort_ctxs (d : Dev) (p : Nat) (f : Port → Port) : (d.updPort p f).ctxs = d.ctxs := rfl
@[simp] theorem Dev.updPort_beds (d : Dev) (p : Nat) (f : Port → Port) : (d.updPort p f).beds = d.beds := rfl
@[simp] theorem Dev.updPort_reqs (d : Dev) (p : Nat) (f : Port → Port) : (d.updPort p f).reqs = d.reqs := rfl
@[simp] theorem Dev.updPort_tensors (d : Dev) (p : Nat) (f : Port → Port) : (d.updPort p f).tensors = d.tensors := rfl
@[simp] theorem Dev.updPort_moves (d : Dev) (p : Nat) (f : Port → Port) : (d.updPort p f).moves = d.moves := rfl
@[simp] theorem Dev.updPort_plans (d : Dev) (p : Nat) (f : Port → Port) : (d.updPort p f).plans = d.plans := rfl
@[simp] theorem Dev.updPort_insts (d : Dev) (p : Nat) (f : Port → Port) : (d.updPort p f).insts = d.insts := rfl
@[simp] theorem Dev.updPort_setq (d : Dev) (p : Nat) (f : Port → Port) : (d.updPort p f).setq = d.setq := rfl
@[simp] theorem Dev.updPort_doms (d : Dev) (p : Nat) (f : Port → Port) : (d.updPort p f).doms = d.doms := rfl
@[simp] theorem Dev.updPort_freezes (d : Dev) (p : Nat) (f : Port → Port) : (d.updPort p f).freezes = d.freezes := rfl
@[simp] theorem Dev.updPort_evq (d : Dev) (p : Nat) (f : Port → Port) : (d.updPort p f).evq = d.evq := rfl
@[simp] theorem Dev.updPort_evHold (d : Dev) (p : Nat) (f : Port → Port) : (d.updPort p f).evHold = d.evHold := rfl
@[simp] theorem Dev.updPort_hosts (d : Dev) (p : Nat) (f : Port → Port) : (d.updPort p f).hosts = d.hosts := rfl
@[simp] theorem Dev.updPort_out (d : Dev) (p : Nat) (f : Port → Port) : (d.updPort p f).out = d.out := rfl

/-! ### setInst changes insts alone -/

@[simp] theorem Dev.setInst_regs (d : Dev) (i : Nat) (x : Inst) : (d.setInst i x).regs = d.regs := rfl
@[simp] theorem Dev.setInst_timers (d : Dev) (i : Nat) (x : Inst) : (d.setInst i x).timers = d.timers := rfl
@[simp] theorem Dev.setInst_waiters (d : Dev) (i : Nat) (x : Inst) : (d.setInst i x).waiters = d.waiters := rfl
@[simp] theorem Dev.setInst_msgs (d : Dev) (i : Nat) (x : Inst) : (d.setInst i x).msgs = d.msgs := rfl
@[simp] theorem Dev.setInst_slotq (d : Dev) (i : Nat) (x : Inst) : (d.setInst i x).slotq = d.slotq := rfl
@[simp] theorem Dev.setInst_inflight (d : Dev) (i : Nat) (x : Inst) : (d.setInst i x).inflight = d.inflight := rfl
@[simp] theorem Dev.setInst_poison (d : Dev) (i : Nat) (x : Inst) : (d.setInst i x).poison = d.poison := rfl
@[simp] theorem Dev.setInst_journals (d : Dev) (i : Nat) (x : Inst) : (d.setInst i x).journals = d.journals := rfl
@[simp] theorem Dev.setInst_fm (d : Dev) (i : Nat) (x : Inst) : (d.setInst i x).fm = d.fm := rfl
@[simp] theorem Dev.setInst_state (d : Dev) (i : Nat) (x : Inst) : (d.setInst i x).state = d.state := rfl
@[simp] theorem Dev.setInst_step (d : Dev) (i : Nat) (x : Inst) : (d.setInst i x).step = d.step := rfl
@[simp] theorem Dev.setInst_strat (d : Dev) (i : Nat) (x : Inst) : (d.setInst i x).strat = d.strat := rfl
@[simp] theorem Dev.setInst_mem (d : Dev) (i : Nat) (x : Inst) : (d.setInst i x).mem = d.mem := rfl
@[simp] theorem Dev.setInst_clay (d : Dev) (i : Nat) (x : Inst) : (d.setInst i x).clay = d.clay := rfl
@[simp] theorem Dev.setInst_flash (d : Dev) (i : Nat) (x : Inst) : (d.setInst i x).flash = d.flash := rfl
@[simp] theorem Dev.setInst_win (d : Dev) (i : Nat) (x : Inst) : (d.setInst i x).win = d.win := rfl
@[simp] theorem Dev.setInst_descs (d : Dev) (i : Nat) (x : Inst) : (d.setInst i x).descs = d.descs := rfl
@[simp] theorem Dev.setInst_rgns (d : Dev) (i : Nat) (x : Inst) : (d.setInst i x).rgns = d.rgns := rfl
@[simp] theorem Dev.setInst_ctxs (d : Dev) (i : Nat) (x : Inst) : (d.setInst i x).ctxs = d.ctxs := rfl
@[simp] theorem Dev.setInst_beds (d : Dev) (i : Nat) (x : Inst) : (d.setInst i x).beds = d.beds := rfl
@[simp] theorem Dev.setInst_reqs (d : Dev) (i : Nat) (x : Inst) : (d.setInst i x).reqs = d.reqs := rfl
@[simp] theorem Dev.setInst_tensors (d : Dev) (i : Nat) (x : Inst) : (d.setInst i x).tensors = d.tensors := rfl
@[simp] theorem Dev.setInst_moves (d : Dev) (i : Nat) (x : Inst) : (d.setInst i x).moves = d.moves := rfl
@[simp] theorem Dev.setInst_plans (d : Dev) (i : Nat) (x : Inst) : (d.setInst i x).plans = d.plans := rfl
@[simp] theorem Dev.setInst_ports (d : Dev) (i : Nat) (x : Inst) : (d.setInst i x).ports = d.ports := rfl
@[simp] theorem Dev.setInst_setq (d : Dev) (i : Nat) (x : Inst) : (d.setInst i x).setq = d.setq := rfl
@[simp] theorem Dev.setInst_doms (d : Dev) (i : Nat) (x : Inst) : (d.setInst i x).doms = d.doms := rfl
@[simp] theorem Dev.setInst_freezes (d : Dev) (i : Nat) (x : Inst) : (d.setInst i x).freezes = d.freezes := rfl
@[simp] theorem Dev.setInst_evq (d : Dev) (i : Nat) (x : Inst) : (d.setInst i x).evq = d.evq := rfl
@[simp] theorem Dev.setInst_evHold (d : Dev) (i : Nat) (x : Inst) : (d.setInst i x).evHold = d.evHold := rfl
@[simp] theorem Dev.setInst_hosts (d : Dev) (i : Nat) (x : Inst) : (d.setInst i x).hosts = d.hosts := rfl
@[simp] theorem Dev.setInst_out (d : Dev) (i : Nat) (x : Inst) : (d.setInst i x).out = d.out := rfl

/-! ### updInst changes insts alone -/

@[simp] theorem Dev.updInst_regs (d : Dev) (i : Nat) (f : Inst → Inst) : (d.updInst i f).regs = d.regs := rfl
@[simp] theorem Dev.updInst_timers (d : Dev) (i : Nat) (f : Inst → Inst) : (d.updInst i f).timers = d.timers := rfl
@[simp] theorem Dev.updInst_waiters (d : Dev) (i : Nat) (f : Inst → Inst) : (d.updInst i f).waiters = d.waiters := rfl
@[simp] theorem Dev.updInst_msgs (d : Dev) (i : Nat) (f : Inst → Inst) : (d.updInst i f).msgs = d.msgs := rfl
@[simp] theorem Dev.updInst_slotq (d : Dev) (i : Nat) (f : Inst → Inst) : (d.updInst i f).slotq = d.slotq := rfl
@[simp] theorem Dev.updInst_inflight (d : Dev) (i : Nat) (f : Inst → Inst) : (d.updInst i f).inflight = d.inflight := rfl
@[simp] theorem Dev.updInst_poison (d : Dev) (i : Nat) (f : Inst → Inst) : (d.updInst i f).poison = d.poison := rfl
@[simp] theorem Dev.updInst_journals (d : Dev) (i : Nat) (f : Inst → Inst) : (d.updInst i f).journals = d.journals := rfl
@[simp] theorem Dev.updInst_fm (d : Dev) (i : Nat) (f : Inst → Inst) : (d.updInst i f).fm = d.fm := rfl
@[simp] theorem Dev.updInst_state (d : Dev) (i : Nat) (f : Inst → Inst) : (d.updInst i f).state = d.state := rfl
@[simp] theorem Dev.updInst_step (d : Dev) (i : Nat) (f : Inst → Inst) : (d.updInst i f).step = d.step := rfl
@[simp] theorem Dev.updInst_strat (d : Dev) (i : Nat) (f : Inst → Inst) : (d.updInst i f).strat = d.strat := rfl
@[simp] theorem Dev.updInst_mem (d : Dev) (i : Nat) (f : Inst → Inst) : (d.updInst i f).mem = d.mem := rfl
@[simp] theorem Dev.updInst_clay (d : Dev) (i : Nat) (f : Inst → Inst) : (d.updInst i f).clay = d.clay := rfl
@[simp] theorem Dev.updInst_flash (d : Dev) (i : Nat) (f : Inst → Inst) : (d.updInst i f).flash = d.flash := rfl
@[simp] theorem Dev.updInst_win (d : Dev) (i : Nat) (f : Inst → Inst) : (d.updInst i f).win = d.win := rfl
@[simp] theorem Dev.updInst_descs (d : Dev) (i : Nat) (f : Inst → Inst) : (d.updInst i f).descs = d.descs := rfl
@[simp] theorem Dev.updInst_rgns (d : Dev) (i : Nat) (f : Inst → Inst) : (d.updInst i f).rgns = d.rgns := rfl
@[simp] theorem Dev.updInst_ctxs (d : Dev) (i : Nat) (f : Inst → Inst) : (d.updInst i f).ctxs = d.ctxs := rfl
@[simp] theorem Dev.updInst_beds (d : Dev) (i : Nat) (f : Inst → Inst) : (d.updInst i f).beds = d.beds := rfl
@[simp] theorem Dev.updInst_reqs (d : Dev) (i : Nat) (f : Inst → Inst) : (d.updInst i f).reqs = d.reqs := rfl
@[simp] theorem Dev.updInst_tensors (d : Dev) (i : Nat) (f : Inst → Inst) : (d.updInst i f).tensors = d.tensors := rfl
@[simp] theorem Dev.updInst_moves (d : Dev) (i : Nat) (f : Inst → Inst) : (d.updInst i f).moves = d.moves := rfl
@[simp] theorem Dev.updInst_plans (d : Dev) (i : Nat) (f : Inst → Inst) : (d.updInst i f).plans = d.plans := rfl
@[simp] theorem Dev.updInst_ports (d : Dev) (i : Nat) (f : Inst → Inst) : (d.updInst i f).ports = d.ports := rfl
@[simp] theorem Dev.updInst_setq (d : Dev) (i : Nat) (f : Inst → Inst) : (d.updInst i f).setq = d.setq := rfl
@[simp] theorem Dev.updInst_doms (d : Dev) (i : Nat) (f : Inst → Inst) : (d.updInst i f).doms = d.doms := rfl
@[simp] theorem Dev.updInst_freezes (d : Dev) (i : Nat) (f : Inst → Inst) : (d.updInst i f).freezes = d.freezes := rfl
@[simp] theorem Dev.updInst_evq (d : Dev) (i : Nat) (f : Inst → Inst) : (d.updInst i f).evq = d.evq := rfl
@[simp] theorem Dev.updInst_evHold (d : Dev) (i : Nat) (f : Inst → Inst) : (d.updInst i f).evHold = d.evHold := rfl
@[simp] theorem Dev.updInst_hosts (d : Dev) (i : Nat) (f : Inst → Inst) : (d.updInst i f).hosts = d.hosts := rfl
@[simp] theorem Dev.updInst_out (d : Dev) (i : Nat) (f : Inst → Inst) : (d.updInst i f).out = d.out := rfl

/-! ### updSq changes setq alone -/

@[simp] theorem Dev.updSq_regs (d : Dev) (s : Nat) (f : SetQ → SetQ) : (d.updSq s f).regs = d.regs := rfl
@[simp] theorem Dev.updSq_timers (d : Dev) (s : Nat) (f : SetQ → SetQ) : (d.updSq s f).timers = d.timers := rfl
@[simp] theorem Dev.updSq_waiters (d : Dev) (s : Nat) (f : SetQ → SetQ) : (d.updSq s f).waiters = d.waiters := rfl
@[simp] theorem Dev.updSq_msgs (d : Dev) (s : Nat) (f : SetQ → SetQ) : (d.updSq s f).msgs = d.msgs := rfl
@[simp] theorem Dev.updSq_slotq (d : Dev) (s : Nat) (f : SetQ → SetQ) : (d.updSq s f).slotq = d.slotq := rfl
@[simp] theorem Dev.updSq_inflight (d : Dev) (s : Nat) (f : SetQ → SetQ) : (d.updSq s f).inflight = d.inflight := rfl
@[simp] theorem Dev.updSq_poison (d : Dev) (s : Nat) (f : SetQ → SetQ) : (d.updSq s f).poison = d.poison := rfl
@[simp] theorem Dev.updSq_journals (d : Dev) (s : Nat) (f : SetQ → SetQ) : (d.updSq s f).journals = d.journals := rfl
@[simp] theorem Dev.updSq_fm (d : Dev) (s : Nat) (f : SetQ → SetQ) : (d.updSq s f).fm = d.fm := rfl
@[simp] theorem Dev.updSq_state (d : Dev) (s : Nat) (f : SetQ → SetQ) : (d.updSq s f).state = d.state := rfl
@[simp] theorem Dev.updSq_step (d : Dev) (s : Nat) (f : SetQ → SetQ) : (d.updSq s f).step = d.step := rfl
@[simp] theorem Dev.updSq_strat (d : Dev) (s : Nat) (f : SetQ → SetQ) : (d.updSq s f).strat = d.strat := rfl
@[simp] theorem Dev.updSq_mem (d : Dev) (s : Nat) (f : SetQ → SetQ) : (d.updSq s f).mem = d.mem := rfl
@[simp] theorem Dev.updSq_clay (d : Dev) (s : Nat) (f : SetQ → SetQ) : (d.updSq s f).clay = d.clay := rfl
@[simp] theorem Dev.updSq_flash (d : Dev) (s : Nat) (f : SetQ → SetQ) : (d.updSq s f).flash = d.flash := rfl
@[simp] theorem Dev.updSq_win (d : Dev) (s : Nat) (f : SetQ → SetQ) : (d.updSq s f).win = d.win := rfl
@[simp] theorem Dev.updSq_descs (d : Dev) (s : Nat) (f : SetQ → SetQ) : (d.updSq s f).descs = d.descs := rfl
@[simp] theorem Dev.updSq_rgns (d : Dev) (s : Nat) (f : SetQ → SetQ) : (d.updSq s f).rgns = d.rgns := rfl
@[simp] theorem Dev.updSq_ctxs (d : Dev) (s : Nat) (f : SetQ → SetQ) : (d.updSq s f).ctxs = d.ctxs := rfl
@[simp] theorem Dev.updSq_beds (d : Dev) (s : Nat) (f : SetQ → SetQ) : (d.updSq s f).beds = d.beds := rfl
@[simp] theorem Dev.updSq_reqs (d : Dev) (s : Nat) (f : SetQ → SetQ) : (d.updSq s f).reqs = d.reqs := rfl
@[simp] theorem Dev.updSq_tensors (d : Dev) (s : Nat) (f : SetQ → SetQ) : (d.updSq s f).tensors = d.tensors := rfl
@[simp] theorem Dev.updSq_moves (d : Dev) (s : Nat) (f : SetQ → SetQ) : (d.updSq s f).moves = d.moves := rfl
@[simp] theorem Dev.updSq_plans (d : Dev) (s : Nat) (f : SetQ → SetQ) : (d.updSq s f).plans = d.plans := rfl
@[simp] theorem Dev.updSq_ports (d : Dev) (s : Nat) (f : SetQ → SetQ) : (d.updSq s f).ports = d.ports := rfl
@[simp] theorem Dev.updSq_insts (d : Dev) (s : Nat) (f : SetQ → SetQ) : (d.updSq s f).insts = d.insts := rfl
@[simp] theorem Dev.updSq_doms (d : Dev) (s : Nat) (f : SetQ → SetQ) : (d.updSq s f).doms = d.doms := rfl
@[simp] theorem Dev.updSq_freezes (d : Dev) (s : Nat) (f : SetQ → SetQ) : (d.updSq s f).freezes = d.freezes := rfl
@[simp] theorem Dev.updSq_evq (d : Dev) (s : Nat) (f : SetQ → SetQ) : (d.updSq s f).evq = d.evq := rfl
@[simp] theorem Dev.updSq_evHold (d : Dev) (s : Nat) (f : SetQ → SetQ) : (d.updSq s f).evHold = d.evHold := rfl
@[simp] theorem Dev.updSq_hosts (d : Dev) (s : Nat) (f : SetQ → SetQ) : (d.updSq s f).hosts = d.hosts := rfl
@[simp] theorem Dev.updSq_out (d : Dev) (s : Nat) (f : SetQ → SetQ) : (d.updSq s f).out = d.out := rfl

/-! ### updTensor changes tensors alone -/

@[simp] theorem Dev.updTensor_regs (d : Dev) (t : Nat) (f : Tensor → Tensor) : (d.updTensor t f).regs = d.regs := rfl
@[simp] theorem Dev.updTensor_timers (d : Dev) (t : Nat) (f : Tensor → Tensor) : (d.updTensor t f).timers = d.timers := rfl
@[simp] theorem Dev.updTensor_waiters (d : Dev) (t : Nat) (f : Tensor → Tensor) : (d.updTensor t f).waiters = d.waiters := rfl
@[simp] theorem Dev.updTensor_msgs (d : Dev) (t : Nat) (f : Tensor → Tensor) : (d.updTensor t f).msgs = d.msgs := rfl
@[simp] theorem Dev.updTensor_slotq (d : Dev) (t : Nat) (f : Tensor → Tensor) : (d.updTensor t f).slotq = d.slotq := rfl
@[simp] theorem Dev.updTensor_inflight (d : Dev) (t : Nat) (f : Tensor → Tensor) : (d.updTensor t f).inflight = d.inflight := rfl
@[simp] theorem Dev.updTensor_poison (d : Dev) (t : Nat) (f : Tensor → Tensor) : (d.updTensor t f).poison = d.poison := rfl
@[simp] theorem Dev.updTensor_journals (d : Dev) (t : Nat) (f : Tensor → Tensor) : (d.updTensor t f).journals = d.journals := rfl
@[simp] theorem Dev.updTensor_fm (d : Dev) (t : Nat) (f : Tensor → Tensor) : (d.updTensor t f).fm = d.fm := rfl
@[simp] theorem Dev.updTensor_state (d : Dev) (t : Nat) (f : Tensor → Tensor) : (d.updTensor t f).state = d.state := rfl
@[simp] theorem Dev.updTensor_step (d : Dev) (t : Nat) (f : Tensor → Tensor) : (d.updTensor t f).step = d.step := rfl
@[simp] theorem Dev.updTensor_strat (d : Dev) (t : Nat) (f : Tensor → Tensor) : (d.updTensor t f).strat = d.strat := rfl
@[simp] theorem Dev.updTensor_mem (d : Dev) (t : Nat) (f : Tensor → Tensor) : (d.updTensor t f).mem = d.mem := rfl
@[simp] theorem Dev.updTensor_clay (d : Dev) (t : Nat) (f : Tensor → Tensor) : (d.updTensor t f).clay = d.clay := rfl
@[simp] theorem Dev.updTensor_flash (d : Dev) (t : Nat) (f : Tensor → Tensor) : (d.updTensor t f).flash = d.flash := rfl
@[simp] theorem Dev.updTensor_win (d : Dev) (t : Nat) (f : Tensor → Tensor) : (d.updTensor t f).win = d.win := rfl
@[simp] theorem Dev.updTensor_descs (d : Dev) (t : Nat) (f : Tensor → Tensor) : (d.updTensor t f).descs = d.descs := rfl
@[simp] theorem Dev.updTensor_rgns (d : Dev) (t : Nat) (f : Tensor → Tensor) : (d.updTensor t f).rgns = d.rgns := rfl
@[simp] theorem Dev.updTensor_ctxs (d : Dev) (t : Nat) (f : Tensor → Tensor) : (d.updTensor t f).ctxs = d.ctxs := rfl
@[simp] theorem Dev.updTensor_beds (d : Dev) (t : Nat) (f : Tensor → Tensor) : (d.updTensor t f).beds = d.beds := rfl
@[simp] theorem Dev.updTensor_reqs (d : Dev) (t : Nat) (f : Tensor → Tensor) : (d.updTensor t f).reqs = d.reqs := rfl
@[simp] theorem Dev.updTensor_moves (d : Dev) (t : Nat) (f : Tensor → Tensor) : (d.updTensor t f).moves = d.moves := rfl
@[simp] theorem Dev.updTensor_plans (d : Dev) (t : Nat) (f : Tensor → Tensor) : (d.updTensor t f).plans = d.plans := rfl
@[simp] theorem Dev.updTensor_ports (d : Dev) (t : Nat) (f : Tensor → Tensor) : (d.updTensor t f).ports = d.ports := rfl
@[simp] theorem Dev.updTensor_insts (d : Dev) (t : Nat) (f : Tensor → Tensor) : (d.updTensor t f).insts = d.insts := rfl
@[simp] theorem Dev.updTensor_setq (d : Dev) (t : Nat) (f : Tensor → Tensor) : (d.updTensor t f).setq = d.setq := rfl
@[simp] theorem Dev.updTensor_doms (d : Dev) (t : Nat) (f : Tensor → Tensor) : (d.updTensor t f).doms = d.doms := rfl
@[simp] theorem Dev.updTensor_freezes (d : Dev) (t : Nat) (f : Tensor → Tensor) : (d.updTensor t f).freezes = d.freezes := rfl
@[simp] theorem Dev.updTensor_evq (d : Dev) (t : Nat) (f : Tensor → Tensor) : (d.updTensor t f).evq = d.evq := rfl
@[simp] theorem Dev.updTensor_evHold (d : Dev) (t : Nat) (f : Tensor → Tensor) : (d.updTensor t f).evHold = d.evHold := rfl
@[simp] theorem Dev.updTensor_hosts (d : Dev) (t : Nat) (f : Tensor → Tensor) : (d.updTensor t f).hosts = d.hosts := rfl
@[simp] theorem Dev.updTensor_out (d : Dev) (t : Nat) (f : Tensor → Tensor) : (d.updTensor t f).out = d.out := rfl

/-! ### updPlan changes plans alone -/

@[simp] theorem Dev.updPlan_regs (d : Dev) (p : Nat) (f : Plan → Plan) : (d.updPlan p f).regs = d.regs := rfl
@[simp] theorem Dev.updPlan_timers (d : Dev) (p : Nat) (f : Plan → Plan) : (d.updPlan p f).timers = d.timers := rfl
@[simp] theorem Dev.updPlan_waiters (d : Dev) (p : Nat) (f : Plan → Plan) : (d.updPlan p f).waiters = d.waiters := rfl
@[simp] theorem Dev.updPlan_msgs (d : Dev) (p : Nat) (f : Plan → Plan) : (d.updPlan p f).msgs = d.msgs := rfl
@[simp] theorem Dev.updPlan_slotq (d : Dev) (p : Nat) (f : Plan → Plan) : (d.updPlan p f).slotq = d.slotq := rfl
@[simp] theorem Dev.updPlan_inflight (d : Dev) (p : Nat) (f : Plan → Plan) : (d.updPlan p f).inflight = d.inflight := rfl
@[simp] theorem Dev.updPlan_poison (d : Dev) (p : Nat) (f : Plan → Plan) : (d.updPlan p f).poison = d.poison := rfl
@[simp] theorem Dev.updPlan_journals (d : Dev) (p : Nat) (f : Plan → Plan) : (d.updPlan p f).journals = d.journals := rfl
@[simp] theorem Dev.updPlan_fm (d : Dev) (p : Nat) (f : Plan → Plan) : (d.updPlan p f).fm = d.fm := rfl
@[simp] theorem Dev.updPlan_state (d : Dev) (p : Nat) (f : Plan → Plan) : (d.updPlan p f).state = d.state := rfl
@[simp] theorem Dev.updPlan_step (d : Dev) (p : Nat) (f : Plan → Plan) : (d.updPlan p f).step = d.step := rfl
@[simp] theorem Dev.updPlan_strat (d : Dev) (p : Nat) (f : Plan → Plan) : (d.updPlan p f).strat = d.strat := rfl
@[simp] theorem Dev.updPlan_mem (d : Dev) (p : Nat) (f : Plan → Plan) : (d.updPlan p f).mem = d.mem := rfl
@[simp] theorem Dev.updPlan_clay (d : Dev) (p : Nat) (f : Plan → Plan) : (d.updPlan p f).clay = d.clay := rfl
@[simp] theorem Dev.updPlan_flash (d : Dev) (p : Nat) (f : Plan → Plan) : (d.updPlan p f).flash = d.flash := rfl
@[simp] theorem Dev.updPlan_win (d : Dev) (p : Nat) (f : Plan → Plan) : (d.updPlan p f).win = d.win := rfl
@[simp] theorem Dev.updPlan_descs (d : Dev) (p : Nat) (f : Plan → Plan) : (d.updPlan p f).descs = d.descs := rfl
@[simp] theorem Dev.updPlan_rgns (d : Dev) (p : Nat) (f : Plan → Plan) : (d.updPlan p f).rgns = d.rgns := rfl
@[simp] theorem Dev.updPlan_ctxs (d : Dev) (p : Nat) (f : Plan → Plan) : (d.updPlan p f).ctxs = d.ctxs := rfl
@[simp] theorem Dev.updPlan_beds (d : Dev) (p : Nat) (f : Plan → Plan) : (d.updPlan p f).beds = d.beds := rfl
@[simp] theorem Dev.updPlan_reqs (d : Dev) (p : Nat) (f : Plan → Plan) : (d.updPlan p f).reqs = d.reqs := rfl
@[simp] theorem Dev.updPlan_tensors (d : Dev) (p : Nat) (f : Plan → Plan) : (d.updPlan p f).tensors = d.tensors := rfl
@[simp] theorem Dev.updPlan_moves (d : Dev) (p : Nat) (f : Plan → Plan) : (d.updPlan p f).moves = d.moves := rfl
@[simp] theorem Dev.updPlan_ports (d : Dev) (p : Nat) (f : Plan → Plan) : (d.updPlan p f).ports = d.ports := rfl
@[simp] theorem Dev.updPlan_insts (d : Dev) (p : Nat) (f : Plan → Plan) : (d.updPlan p f).insts = d.insts := rfl
@[simp] theorem Dev.updPlan_setq (d : Dev) (p : Nat) (f : Plan → Plan) : (d.updPlan p f).setq = d.setq := rfl
@[simp] theorem Dev.updPlan_doms (d : Dev) (p : Nat) (f : Plan → Plan) : (d.updPlan p f).doms = d.doms := rfl
@[simp] theorem Dev.updPlan_freezes (d : Dev) (p : Nat) (f : Plan → Plan) : (d.updPlan p f).freezes = d.freezes := rfl
@[simp] theorem Dev.updPlan_evq (d : Dev) (p : Nat) (f : Plan → Plan) : (d.updPlan p f).evq = d.evq := rfl
@[simp] theorem Dev.updPlan_evHold (d : Dev) (p : Nat) (f : Plan → Plan) : (d.updPlan p f).evHold = d.evHold := rfl
@[simp] theorem Dev.updPlan_hosts (d : Dev) (p : Nat) (f : Plan → Plan) : (d.updPlan p f).hosts = d.hosts := rfl
@[simp] theorem Dev.updPlan_out (d : Dev) (p : Nat) (f : Plan → Plan) : (d.updPlan p f).out = d.out := rfl

/-! ### updDom changes doms alone -/

@[simp] theorem Dev.updDom_regs (d : Dev) (x : Nat) (f : Dom → Dom) : (d.updDom x f).regs = d.regs := rfl
@[simp] theorem Dev.updDom_timers (d : Dev) (x : Nat) (f : Dom → Dom) : (d.updDom x f).timers = d.timers := rfl
@[simp] theorem Dev.updDom_waiters (d : Dev) (x : Nat) (f : Dom → Dom) : (d.updDom x f).waiters = d.waiters := rfl
@[simp] theorem Dev.updDom_msgs (d : Dev) (x : Nat) (f : Dom → Dom) : (d.updDom x f).msgs = d.msgs := rfl
@[simp] theorem Dev.updDom_slotq (d : Dev) (x : Nat) (f : Dom → Dom) : (d.updDom x f).slotq = d.slotq := rfl
@[simp] theorem Dev.updDom_inflight (d : Dev) (x : Nat) (f : Dom → Dom) : (d.updDom x f).inflight = d.inflight := rfl
@[simp] theorem Dev.updDom_poison (d : Dev) (x : Nat) (f : Dom → Dom) : (d.updDom x f).poison = d.poison := rfl
@[simp] theorem Dev.updDom_journals (d : Dev) (x : Nat) (f : Dom → Dom) : (d.updDom x f).journals = d.journals := rfl
@[simp] theorem Dev.updDom_fm (d : Dev) (x : Nat) (f : Dom → Dom) : (d.updDom x f).fm = d.fm := rfl
@[simp] theorem Dev.updDom_state (d : Dev) (x : Nat) (f : Dom → Dom) : (d.updDom x f).state = d.state := rfl
@[simp] theorem Dev.updDom_step (d : Dev) (x : Nat) (f : Dom → Dom) : (d.updDom x f).step = d.step := rfl
@[simp] theorem Dev.updDom_strat (d : Dev) (x : Nat) (f : Dom → Dom) : (d.updDom x f).strat = d.strat := rfl
@[simp] theorem Dev.updDom_mem (d : Dev) (x : Nat) (f : Dom → Dom) : (d.updDom x f).mem = d.mem := rfl
@[simp] theorem Dev.updDom_clay (d : Dev) (x : Nat) (f : Dom → Dom) : (d.updDom x f).clay = d.clay := rfl
@[simp] theorem Dev.updDom_flash (d : Dev) (x : Nat) (f : Dom → Dom) : (d.updDom x f).flash = d.flash := rfl
@[simp] theorem Dev.updDom_win (d : Dev) (x : Nat) (f : Dom → Dom) : (d.updDom x f).win = d.win := rfl
@[simp] theorem Dev.updDom_descs (d : Dev) (x : Nat) (f : Dom → Dom) : (d.updDom x f).descs = d.descs := rfl
@[simp] theorem Dev.updDom_rgns (d : Dev) (x : Nat) (f : Dom → Dom) : (d.updDom x f).rgns = d.rgns := rfl
@[simp] theorem Dev.updDom_ctxs (d : Dev) (x : Nat) (f : Dom → Dom) : (d.updDom x f).ctxs = d.ctxs := rfl
@[simp] theorem Dev.updDom_beds (d : Dev) (x : Nat) (f : Dom → Dom) : (d.updDom x f).beds = d.beds := rfl
@[simp] theorem Dev.updDom_reqs (d : Dev) (x : Nat) (f : Dom → Dom) : (d.updDom x f).reqs = d.reqs := rfl
@[simp] theorem Dev.updDom_tensors (d : Dev) (x : Nat) (f : Dom → Dom) : (d.updDom x f).tensors = d.tensors := rfl
@[simp] theorem Dev.updDom_moves (d : Dev) (x : Nat) (f : Dom → Dom) : (d.updDom x f).moves = d.moves := rfl
@[simp] theorem Dev.updDom_plans (d : Dev) (x : Nat) (f : Dom → Dom) : (d.updDom x f).plans = d.plans := rfl
@[simp] theorem Dev.updDom_ports (d : Dev) (x : Nat) (f : Dom → Dom) : (d.updDom x f).ports = d.ports := rfl
@[simp] theorem Dev.updDom_insts (d : Dev) (x : Nat) (f : Dom → Dom) : (d.updDom x f).insts = d.insts := rfl
@[simp] theorem Dev.updDom_setq (d : Dev) (x : Nat) (f : Dom → Dom) : (d.updDom x f).setq = d.setq := rfl
@[simp] theorem Dev.updDom_freezes (d : Dev) (x : Nat) (f : Dom → Dom) : (d.updDom x f).freezes = d.freezes := rfl
@[simp] theorem Dev.updDom_evq (d : Dev) (x : Nat) (f : Dom → Dom) : (d.updDom x f).evq = d.evq := rfl
@[simp] theorem Dev.updDom_evHold (d : Dev) (x : Nat) (f : Dom → Dom) : (d.updDom x f).evHold = d.evHold := rfl
@[simp] theorem Dev.updDom_hosts (d : Dev) (x : Nat) (f : Dom → Dom) : (d.updDom x f).hosts = d.hosts := rfl
@[simp] theorem Dev.updDom_out (d : Dev) (x : Nat) (f : Dom → Dom) : (d.updDom x f).out = d.out := rfl

/-! ### setHost changes hosts alone -/

@[simp] theorem Dev.setHost_regs (d : Dev) (p : Nat) (h : Option HostSess) : (d.setHost p h).regs = d.regs := rfl
@[simp] theorem Dev.setHost_timers (d : Dev) (p : Nat) (h : Option HostSess) : (d.setHost p h).timers = d.timers := rfl
@[simp] theorem Dev.setHost_waiters (d : Dev) (p : Nat) (h : Option HostSess) : (d.setHost p h).waiters = d.waiters := rfl
@[simp] theorem Dev.setHost_msgs (d : Dev) (p : Nat) (h : Option HostSess) : (d.setHost p h).msgs = d.msgs := rfl
@[simp] theorem Dev.setHost_slotq (d : Dev) (p : Nat) (h : Option HostSess) : (d.setHost p h).slotq = d.slotq := rfl
@[simp] theorem Dev.setHost_inflight (d : Dev) (p : Nat) (h : Option HostSess) : (d.setHost p h).inflight = d.inflight := rfl
@[simp] theorem Dev.setHost_poison (d : Dev) (p : Nat) (h : Option HostSess) : (d.setHost p h).poison = d.poison := rfl
@[simp] theorem Dev.setHost_journals (d : Dev) (p : Nat) (h : Option HostSess) : (d.setHost p h).journals = d.journals := rfl
@[simp] theorem Dev.setHost_fm (d : Dev) (p : Nat) (h : Option HostSess) : (d.setHost p h).fm = d.fm := rfl
@[simp] theorem Dev.setHost_state (d : Dev) (p : Nat) (h : Option HostSess) : (d.setHost p h).state = d.state := rfl
@[simp] theorem Dev.setHost_step (d : Dev) (p : Nat) (h : Option HostSess) : (d.setHost p h).step = d.step := rfl
@[simp] theorem Dev.setHost_strat (d : Dev) (p : Nat) (h : Option HostSess) : (d.setHost p h).strat = d.strat := rfl
@[simp] theorem Dev.setHost_mem (d : Dev) (p : Nat) (h : Option HostSess) : (d.setHost p h).mem = d.mem := rfl
@[simp] theorem Dev.setHost_clay (d : Dev) (p : Nat) (h : Option HostSess) : (d.setHost p h).clay = d.clay := rfl
@[simp] theorem Dev.setHost_flash (d : Dev) (p : Nat) (h : Option HostSess) : (d.setHost p h).flash = d.flash := rfl
@[simp] theorem Dev.setHost_win (d : Dev) (p : Nat) (h : Option HostSess) : (d.setHost p h).win = d.win := rfl
@[simp] theorem Dev.setHost_descs (d : Dev) (p : Nat) (h : Option HostSess) : (d.setHost p h).descs = d.descs := rfl
@[simp] theorem Dev.setHost_rgns (d : Dev) (p : Nat) (h : Option HostSess) : (d.setHost p h).rgns = d.rgns := rfl
@[simp] theorem Dev.setHost_ctxs (d : Dev) (p : Nat) (h : Option HostSess) : (d.setHost p h).ctxs = d.ctxs := rfl
@[simp] theorem Dev.setHost_beds (d : Dev) (p : Nat) (h : Option HostSess) : (d.setHost p h).beds = d.beds := rfl
@[simp] theorem Dev.setHost_reqs (d : Dev) (p : Nat) (h : Option HostSess) : (d.setHost p h).reqs = d.reqs := rfl
@[simp] theorem Dev.setHost_tensors (d : Dev) (p : Nat) (h : Option HostSess) : (d.setHost p h).tensors = d.tensors := rfl
@[simp] theorem Dev.setHost_moves (d : Dev) (p : Nat) (h : Option HostSess) : (d.setHost p h).moves = d.moves := rfl
@[simp] theorem Dev.setHost_plans (d : Dev) (p : Nat) (h : Option HostSess) : (d.setHost p h).plans = d.plans := rfl
@[simp] theorem Dev.setHost_ports (d : Dev) (p : Nat) (h : Option HostSess) : (d.setHost p h).ports = d.ports := rfl
@[simp] theorem Dev.setHost_insts (d : Dev) (p : Nat) (h : Option HostSess) : (d.setHost p h).insts = d.insts := rfl
@[simp] theorem Dev.setHost_setq (d : Dev) (p : Nat) (h : Option HostSess) : (d.setHost p h).setq = d.setq := rfl
@[simp] theorem Dev.setHost_doms (d : Dev) (p : Nat) (h : Option HostSess) : (d.setHost p h).doms = d.doms := rfl
@[simp] theorem Dev.setHost_freezes (d : Dev) (p : Nat) (h : Option HostSess) : (d.setHost p h).freezes = d.freezes := rfl
@[simp] theorem Dev.setHost_evq (d : Dev) (p : Nat) (h : Option HostSess) : (d.setHost p h).evq = d.evq := rfl
@[simp] theorem Dev.setHost_evHold (d : Dev) (p : Nat) (h : Option HostSess) : (d.setHost p h).evHold = d.evHold := rfl
@[simp] theorem Dev.setHost_out (d : Dev) (p : Nat) (h : Option HostSess) : (d.setHost p h).out = d.out := rfl

/-! ### winSet changes win alone -/

@[simp] theorem Dev.winSet_regs (d : Dev) (p o : Nat) (g : Gran) : (d.winSet p o g).regs = d.regs := rfl
@[simp] theorem Dev.winSet_timers (d : Dev) (p o : Nat) (g : Gran) : (d.winSet p o g).timers = d.timers := rfl
@[simp] theorem Dev.winSet_waiters (d : Dev) (p o : Nat) (g : Gran) : (d.winSet p o g).waiters = d.waiters := rfl
@[simp] theorem Dev.winSet_msgs (d : Dev) (p o : Nat) (g : Gran) : (d.winSet p o g).msgs = d.msgs := rfl
@[simp] theorem Dev.winSet_slotq (d : Dev) (p o : Nat) (g : Gran) : (d.winSet p o g).slotq = d.slotq := rfl
@[simp] theorem Dev.winSet_inflight (d : Dev) (p o : Nat) (g : Gran) : (d.winSet p o g).inflight = d.inflight := rfl
@[simp] theorem Dev.winSet_poison (d : Dev) (p o : Nat) (g : Gran) : (d.winSet p o g).poison = d.poison := rfl
@[simp] theorem Dev.winSet_journals (d : Dev) (p o : Nat) (g : Gran) : (d.winSet p o g).journals = d.journals := rfl
@[simp] theorem Dev.winSet_fm (d : Dev) (p o : Nat) (g : Gran) : (d.winSet p o g).fm = d.fm := rfl
@[simp] theorem Dev.winSet_state (d : Dev) (p o : Nat) (g : Gran) : (d.winSet p o g).state = d.state := rfl
@[simp] theorem Dev.winSet_step (d : Dev) (p o : Nat) (g : Gran) : (d.winSet p o g).step = d.step := rfl
@[simp] theorem Dev.winSet_strat (d : Dev) (p o : Nat) (g : Gran) : (d.winSet p o g).strat = d.strat := rfl
@[simp] theorem Dev.winSet_mem (d : Dev) (p o : Nat) (g : Gran) : (d.winSet p o g).mem = d.mem := rfl
@[simp] theorem Dev.winSet_clay (d : Dev) (p o : Nat) (g : Gran) : (d.winSet p o g).clay = d.clay := rfl
@[simp] theorem Dev.winSet_flash (d : Dev) (p o : Nat) (g : Gran) : (d.winSet p o g).flash = d.flash := rfl
@[simp] theorem Dev.winSet_descs (d : Dev) (p o : Nat) (g : Gran) : (d.winSet p o g).descs = d.descs := rfl
@[simp] theorem Dev.winSet_rgns (d : Dev) (p o : Nat) (g : Gran) : (d.winSet p o g).rgns = d.rgns := rfl
@[simp] theorem Dev.winSet_ctxs (d : Dev) (p o : Nat) (g : Gran) : (d.winSet p o g).ctxs = d.ctxs := rfl
@[simp] theorem Dev.winSet_beds (d : Dev) (p o : Nat) (g : Gran) : (d.winSet p o g).beds = d.beds := rfl
@[simp] theorem Dev.winSet_reqs (d : Dev) (p o : Nat) (g : Gran) : (d.winSet p o g).reqs = d.reqs := rfl
@[simp] theorem Dev.winSet_tensors (d : Dev) (p o : Nat) (g : Gran) : (d.winSet p o g).tensors = d.tensors := rfl
@[simp] theorem Dev.winSet_moves (d : Dev) (p o : Nat) (g : Gran) : (d.winSet p o g).moves = d.moves := rfl
@[simp] theorem Dev.winSet_plans (d : Dev) (p o : Nat) (g : Gran) : (d.winSet p o g).plans = d.plans := rfl
@[simp] theorem Dev.winSet_ports (d : Dev) (p o : Nat) (g : Gran) : (d.winSet p o g).ports = d.ports := rfl
@[simp] theorem Dev.winSet_insts (d : Dev) (p o : Nat) (g : Gran) : (d.winSet p o g).insts = d.insts := rfl
@[simp] theorem Dev.winSet_setq (d : Dev) (p o : Nat) (g : Gran) : (d.winSet p o g).setq = d.setq := rfl
@[simp] theorem Dev.winSet_doms (d : Dev) (p o : Nat) (g : Gran) : (d.winSet p o g).doms = d.doms := rfl
@[simp] theorem Dev.winSet_freezes (d : Dev) (p o : Nat) (g : Gran) : (d.winSet p o g).freezes = d.freezes := rfl
@[simp] theorem Dev.winSet_evq (d : Dev) (p o : Nat) (g : Gran) : (d.winSet p o g).evq = d.evq := rfl
@[simp] theorem Dev.winSet_evHold (d : Dev) (p o : Nat) (g : Gran) : (d.winSet p o g).evHold = d.evHold := rfl
@[simp] theorem Dev.winSet_hosts (d : Dev) (p o : Nat) (g : Gran) : (d.winSet p o g).hosts = d.hosts := rfl
@[simp] theorem Dev.winSet_out (d : Dev) (p o : Nat) (g : Gran) : (d.winSet p o g).out = d.out := rfl

/-! ### emit changes out alone -/

@[simp] theorem Dev.emit_regs (d : Dev) (o : Out) : (d.emit o).regs = d.regs := rfl
@[simp] theorem Dev.emit_timers (d : Dev) (o : Out) : (d.emit o).timers = d.timers := rfl
@[simp] theorem Dev.emit_waiters (d : Dev) (o : Out) : (d.emit o).waiters = d.waiters := rfl
@[simp] theorem Dev.emit_msgs (d : Dev) (o : Out) : (d.emit o).msgs = d.msgs := rfl
@[simp] theorem Dev.emit_slotq (d : Dev) (o : Out) : (d.emit o).slotq = d.slotq := rfl
@[simp] theorem Dev.emit_inflight (d : Dev) (o : Out) : (d.emit o).inflight = d.inflight := rfl
@[simp] theorem Dev.emit_poison (d : Dev) (o : Out) : (d.emit o).poison = d.poison := rfl
@[simp] theorem Dev.emit_journals (d : Dev) (o : Out) : (d.emit o).journals = d.journals := rfl
@[simp] theorem Dev.emit_fm (d : Dev) (o : Out) : (d.emit o).fm = d.fm := rfl
@[simp] theorem Dev.emit_state (d : Dev) (o : Out) : (d.emit o).state = d.state := rfl
@[simp] theorem Dev.emit_step (d : Dev) (o : Out) : (d.emit o).step = d.step := rfl
@[simp] theorem Dev.emit_strat (d : Dev) (o : Out) : (d.emit o).strat = d.strat := rfl
@[simp] theorem Dev.emit_mem (d : Dev) (o : Out) : (d.emit o).mem = d.mem := rfl
@[simp] theorem Dev.emit_clay (d : Dev) (o : Out) : (d.emit o).clay = d.clay := rfl
@[simp] theorem Dev.emit_flash (d : Dev) (o : Out) : (d.emit o).flash = d.flash := rfl
@[simp] theorem Dev.emit_win (d : Dev) (o : Out) : (d.emit o).win = d.win := rfl
@[simp] theorem Dev.emit_descs (d : Dev) (o : Out) : (d.emit o).descs = d.descs := rfl
@[simp] theorem Dev.emit_rgns (d : Dev) (o : Out) : (d.emit o).rgns = d.rgns := rfl
@[simp] theorem Dev.emit_ctxs (d : Dev) (o : Out) : (d.emit o).ctxs = d.ctxs := rfl
@[simp] theorem Dev.emit_beds (d : Dev) (o : Out) : (d.emit o).beds = d.beds := rfl
@[simp] theorem Dev.emit_reqs (d : Dev) (o : Out) : (d.emit o).reqs = d.reqs := rfl
@[simp] theorem Dev.emit_tensors (d : Dev) (o : Out) : (d.emit o).tensors = d.tensors := rfl
@[simp] theorem Dev.emit_moves (d : Dev) (o : Out) : (d.emit o).moves = d.moves := rfl
@[simp] theorem Dev.emit_plans (d : Dev) (o : Out) : (d.emit o).plans = d.plans := rfl
@[simp] theorem Dev.emit_ports (d : Dev) (o : Out) : (d.emit o).ports = d.ports := rfl
@[simp] theorem Dev.emit_insts (d : Dev) (o : Out) : (d.emit o).insts = d.insts := rfl
@[simp] theorem Dev.emit_setq (d : Dev) (o : Out) : (d.emit o).setq = d.setq := rfl
@[simp] theorem Dev.emit_doms (d : Dev) (o : Out) : (d.emit o).doms = d.doms := rfl
@[simp] theorem Dev.emit_freezes (d : Dev) (o : Out) : (d.emit o).freezes = d.freezes := rfl
@[simp] theorem Dev.emit_evq (d : Dev) (o : Out) : (d.emit o).evq = d.evq := rfl
@[simp] theorem Dev.emit_evHold (d : Dev) (o : Out) : (d.emit o).evHold = d.evHold := rfl
@[simp] theorem Dev.emit_hosts (d : Dev) (o : Out) : (d.emit o).hosts = d.hosts := rfl

end Sys2Proof.Machine
end

