-- ==== Sys2Proof/Laws/Ops.lean ====
section
/-! SUPPORT. Specifications of the operations over fields, registers and events: what each can do, said once. -/
namespace Sys2Proof.Machine

/-! ### Fields of a word -/

theorem bits_testBit (n lo len i : Nat) : (bits n lo len).testBit i = (decide (i < len) && n.testBit (lo + i)) := by
  simp [bits, Nat.testBit_mod_two_pow, Nat.testBit_div_two_pow, Nat.add_comm]

theorem bits_lt (n lo len : Nat) : bits n lo len < 2 ^ len := Nat.mod_lt _ (Nat.two_pow_pos len)

theorem Fld.get_le_top (f : Fld) (w : Word) : f.get w ≤ f.top := Nat.le_sub_one_of_lt (bits_lt _ _ _)

/-- A bit of the mask of a field. -/
theorem Fld.mask_getLsbD (f : Fld) (i : Nat) :
    f.mask.getLsbD i = (decide (i < 64) && (decide (f.lo ≤ i) && decide (i - f.lo < f.hi + 1 - f.lo))) := by
  simp [Fld.mask, BitVec.getLsbD_ofNat, Nat.testBit_mul_two_pow, Nat.testBit_two_pow_sub_one]

/-- A bit of a word after a field of it has been replaced. -/
theorem Fld.set_getLsbD (f : Fld) (w : Word) (n i : Nat) (hi : i < 64) :
    (f.set w n).getLsbD i = if f.lo ≤ i ∧ i - f.lo < f.hi + 1 - f.lo then n.testBit (i - f.lo) else w.getLsbD i := by
  rw [Fld.set, BitVec.getLsbD_or, BitVec.getLsbD_and, BitVec.getLsbD_not, Fld.mask_getLsbD, BitVec.getLsbD_ofNat,
    Nat.testBit_mul_two_pow, Nat.testBit_mod_two_pow]
  by_cases h1 : f.lo ≤ i <;> by_cases h2 : i - f.lo < f.hi + 1 - f.lo <;> simp [hi, h1, h2]

/-- The field of a word reads back what was put into it, modulo its width. -/
theorem Fld.get_set (f : Fld) (w : Word) (n : Nat) (h : f.hi < 64) : f.get (f.set w n) = n % 2 ^ (f.hi + 1 - f.lo) := by
  apply Nat.eq_of_testBit_eq
  intro i
  rw [Fld.get, bits_testBit, Nat.testBit_mod_two_pow, BitVec.testBit_toNat]
  by_cases hi : i < f.hi + 1 - f.lo
  · rw [Fld.set_getLsbD _ _ _ _ (by omega), if_pos (by omega)]
    simp [hi]
  · simp [hi]

/-- A field that shares no bit with the one replaced reads as before. -/
theorem Fld.get_set_disjoint (f g : Fld) (w : Word) (n : Nat) (hg : g.hi < 64) (h : g.hi < f.lo ∨ f.hi < g.lo) :
    g.get (f.set w n) = g.get w := by
  apply Nat.eq_of_testBit_eq
  intro i
  rw [Fld.get, Fld.get, bits_testBit, bits_testBit, BitVec.testBit_toNat, BitVec.testBit_toNat]
  by_cases hi : i < g.hi + 1 - g.lo
  · rw [Fld.set_getLsbD _ _ _ _ (by omega), if_neg (by omega)]
  · simp [hi]

/-! ### Fields of registers -/

theorem Dev.fld_setFld_same (d : Dev) (r : RegRow) (i : Nat) (f : Fld) (n : Nat) (h : f.hi < 64) :
    (d.setFld r i f n).fld r i f = n % 2 ^ (f.hi + 1 - f.lo) := by
  rw [Dev.fld, Dev.setFld, Dev.rd_wr_same, Fld.get_set f _ n h]

theorem Dev.fld_setFld_disjoint (d : Dev) (r : RegRow) (i : Nat) (f g : Fld) (n : Nat) (hg : g.hi < 64)
    (h : g.hi < f.lo ∨ f.hi < g.lo) : (d.setFld r i f n).fld r i g = d.fld r i g := by
  rw [Dev.fld, Dev.setFld, Dev.rd_wr_same, Fld.get_set_disjoint f g _ n hg h, Dev.fld]

theorem Dev.rd_setFld_other (d : Dev) (r q : RegRow) (i j : Nat) (f : Fld) (n : Nat) (h : q.addr j ≠ r.addr i) :
    (d.setFld r i f n).rd q j = d.rd q j := Dev.rd_wr_other _ _ _ _ _ _ h

/-- A wrapping counter. -/
theorem Dev.fld_wrapInc (d : Dev) (r : RegRow) (i : Nat) (f : Fld) (k : Nat) (h : f.hi < 64) :
    (d.wrapInc r i f k).fld r i f = (d.fld r i f + k) % 2 ^ (f.hi + 1 - f.lo) := Dev.fld_setFld_same _ _ _ _ _ h

/-- A saturating counter. -/
theorem Dev.fld_satInc (d : Dev) (r : RegRow) (i : Nat) (f : Fld) (k : Nat) (h : f.hi < 64) :
    (d.satInc r i f k).fld r i f = min f.top (d.fld r i f + k) := by
  rw [Dev.satInc, Dev.fld_setFld_same _ _ _ _ _ h, Nat.mod_eq_of_lt]
  have := Nat.two_pow_pos (f.hi + 1 - f.lo)
  unfold Fld.top
  omega

/-- A write of one register changes the table of registers at its address alone. -/
theorem Dev.regs_wr_other (d : Dev) (r : RegRow) (i : Nat) (w v : Word) (a : Nat) (h : a ≠ r.addr i) :
    (d.wr r i w).regs.get a v = d.regs.get a v := tab_get_set_other _ _ _ _ _ _ h

/-! ### Messages and completions on their virtual channel -/

theorem contStream_length (t n : Nat) (l : List Gran) (h : l.length ≤ 16 * n) :
    (contStream t n l).length = l.length + (l.length + 15) / 16 := by
  induction n generalizing l with
  | zero => simp only [Nat.mul_zero, Nat.le_zero_eq, List.length_eq_zero_iff] at h; subst h; rfl
  | succ n ih =>
    cases l with
    | nil => rfl
    | cons a l =>
      rw [contStream, List.length_cons, List.length_append, ih _ (by simp only [List.length_drop]; omega)]
      · simp only [List.length_take, List.length_drop, List.length_cons]
        omega
      · simp

/-- The granules that a message or completion of n granules takes are those that credits are counted by (R318). -/
theorem vcStream_length (h : Gran) (t : Nat) (l : List Gran) : (vcStream h t l).length = vcGran l.length := by
  rw [vcStream, List.length_cons, List.length_append, contStream_length _ _ _ (by simp only [List.length_drop]; omega)]
  simp only [List.length_take, List.length_drop, vcGran]
  omega

/-! ### Folding over a list -/

/-- What every step of a fold keeps, the fold keeps. -/
theorem Dev.each_keeps {α : Type} (P : Dev → Prop) (l : List α) (f : Dev → α → Dev) (hf : ∀ d x, P d → P (f d x)) (d : Dev)
    (h : P d) : P (d.each l f) := by
  induction l generalizing d with
  | nil => exact h
  | cons x t ih => exact ih _ (hf _ _ h)

/-- A part of the device that no step of a fold changes is as before. -/
theorem Dev.each_same {α β : Type} (π : Dev → β) (l : List α) (f : Dev → α → Dev) (hf : ∀ d x, π (f d x) = π d) (d : Dev) :
    π (d.each l f) = π d :=
  Dev.each_keeps (fun e => π e = π d) l f (fun e x h => (hf e x).trans h) d rfl

end Sys2Proof.Machine
end

