-- ==== Sys2Proof/Laws/Events.lean ====
section
/-! SUPPORT. Writing events changes event queues, windows, link accounts and the count of dropped events, and nothing else. -/
namespace Sys2Proof.Machine

theorem Dev.eventsOnly_refl (d : Dev) : d.eventsOnly d := ⟨rfl, fun _ _ _ => rfl, fun _ => rfl⟩

theorem Dev.eventsOnly_trans {a b c : Dev} (h : a.eventsOnly b) (k : b.eventsOnly c) : a.eventsOnly c where
  rest := k.rest.trans (congrArg (fun x : Dev => { x with
    regs := c.regs, win := c.win, ports := c.ports, evq := c.evq, evHold := c.evHold, out := c.out, wire := c.wire }) h.rest)
  regs := fun x v hx => (k.regs x v hx).trans (h.regs x v hx)
  ports := fun p => (k.ports p).trans (by rw [h.ports p])

theorem Dev.eventsOnly_evCount (d : Dev) (p : Nat) : d.eventsOnly (d.evCount p) where
  rest := rfl
  regs := fun _ _ h => Dev.regs_wr_other _ _ _ _ _ _ (h (p % 16) (Nat.mod_lt _ (by decide)))
  ports := fun _ => rfl

theorem Dev.eventsOnly_winSet (d : Dev) (p o : Nat) (g : Gran) : d.eventsOnly (d.winSet p o g) := ⟨rfl, fun _ _ _ => rfl, fun _ => rfl⟩

/-- A change of the queue and the accounts of one port's link. -/
theorem Dev.eventsOnly_updPort (d : Dev) (p : Nat) (f : Port → Port)
    (h : ∀ x, f x = { x with
      txq := (f x).txq, txSeq := (f x).txSeq, unacked := (f x).unacked, ctlSent := (f x).ctlSent, ctlQ := (f x).ctlQ,
      ackAt := (f x).ackAt, txWords := (f x).txWords }) :
    d.eventsOnly (d.updPort p f) := by
  refine ⟨rfl, fun _ _ _ => rfl, fun q => ?_⟩
  by_cases e : q = p
  · subst e
    rw [Dev.port_updPort_same]
    exact h _
  · rw [Dev.port_updPort_other _ _ _ _ e]

theorem Dev.eventsOnly_emit (d : Dev) (o : Out) : d.eventsOnly (d.emit o) := ⟨rfl, fun _ _ _ => rfl, fun _ => rfl⟩

theorem Dev.eventsOnly_wire (d : Dev) (l : List Sent) : d.eventsOnly { d with wire := l } := ⟨rfl, fun _ _ _ => rfl, fun _ => rfl⟩

theorem Dev.eventsOnly_sendWord (d : Dev) (p : Nat) (a b : FlitBits) : d.eventsOnly (d.sendWord p a b) := by
  unfold Dev.sendWord
  exact Dev.eventsOnly_trans (d.eventsOnly_wire _) (Dev.eventsOnly_updPort _ _ _ fun _ => rfl)

theorem Dev.eventsOnly_sendFlits (d : Dev) (p : Nat) (l : List FlitBits) : d.eventsOnly (d.sendFlits p l) := by
  match l with
  | [] => exact d.eventsOnly_refl
  | [a] => exact d.eventsOnly_sendWord _ _ _
  | a :: b :: t => exact Dev.eventsOnly_trans (d.eventsOnly_sendWord _ _ _) (Dev.eventsOnly_sendFlits _ p t)

/-- Flits are formed out of what waits; the rest of the port stays. -/
theorem Port.fill_port (x : Port) (now n : Nat) : (x.fill now n).2 = { x with
    txq := (x.fill now n).2.txq, txSeq := (x.fill now n).2.txSeq, unacked := (x.fill now n).2.unacked, ackAt := (x.fill now n).2.ackAt } := by
  induction n generalizing x with
  | zero => rfl
  | succ n ih =>
    unfold Port.fill
    split
    · rfl
    · exact (ih _).trans rfl

theorem Dev.eventsOnly_txPump (d : Dev) (p : Nat) : d.eventsOnly (d.txPump p) := by
  unfold Dev.txPump
  dsimp only
  split
  · exact d.eventsOnly_refl
  · refine Dev.eventsOnly_trans ?_ (Dev.eventsOnly_sendFlits _ _ _)
    exact Dev.eventsOnly_updPort d p (fun x => (x.fill (d.now (portDom p)) ((d.port p).txq.length / 8 + 1)).2) fun x => by
      have h := x.fill_port (d.now (portDom p)) ((d.port p).txq.length / 8 + 1)
      rw [h]

/-- Messages that wait leave one after another. -/
theorem Dev.eventsOnly_ctlTake (d : Dev) (p n : Nat) : d.eventsOnly (d.ctlTake p n) := by
  induction n generalizing d with
  | zero => exact d.eventsOnly_refl
  | succ n ih =>
    unfold Dev.ctlTake
    dsimp only
    split
    · exact d.eventsOnly_refl
    · split
      · exact Dev.eventsOnly_trans (Dev.eventsOnly_trans (d.eventsOnly_emit _) (Dev.eventsOnly_updPort _ _ _ fun _ => rfl)) (ih _)
      · exact d.eventsOnly_refl

theorem Dev.eventsOnly_ctlSend (d : Dev) (p n : Nat) : d.eventsOnly (d.ctlSend p n) :=
  Dev.eventsOnly_trans (d.eventsOnly_ctlTake p n) (Dev.eventsOnly_txPump _ _)

theorem Dev.eventsOnly_msg (d : Dev) (p cls : Nat) (g : List Gran) : d.eventsOnly (d.msg p cls g) := by
  unfold Dev.msg
  split
  · exact Dev.eventsOnly_trans (Dev.eventsOnly_updPort _ _ _ fun _ => rfl) (Dev.eventsOnly_ctlSend _ _ _)
  · exact d.eventsOnly_refl

theorem Dev.eventsOnly_evq (d : Dev) (q : Tab EvQ) : d.eventsOnly { d with evq := q } := ⟨rfl, fun _ _ _ => rfl, fun _ => rfl⟩

theorem Dev.eventsOnly_evPut (d : Dev) (p g0 : Nat) (g1 : Gran) : d.eventsOnly (d.evPut p g0 g1) :=
  Dev.eventsOnly_trans (Dev.eventsOnly_trans (Dev.eventsOnly_trans (d.eventsOnly_winSet _ _ _) (Dev.eventsOnly_winSet _ _ _ _))
    (Dev.eventsOnly_msg _ _ _ _)) (Dev.eventsOnly_evq _ _)

theorem Dev.eventsOnly_evDrop (d : Dev) (p : Nat) : d.eventsOnly (d.evDrop p) :=
  Dev.eventsOnly_trans (d.eventsOnly_evCount p) (Dev.eventsOnly_evq _ _)

theorem Dev.eventsOnly_evSend (d : Dev) (p g0 : Nat) (g1 : Gran) : d.eventsOnly (d.evSend p g0 g1) := by
  unfold Dev.evSend
  split
  · exact d.eventsOnly_evCount p
  · dsimp only
    split
    · split
      · exact Dev.eventsOnly_trans (Dev.eventsOnly_trans (d.eventsOnly_evq _) (Dev.eventsOnly_evPut _ _ _ _)) (Dev.eventsOnly_evPut _ _ _ _)
      · exact Dev.eventsOnly_trans (Dev.eventsOnly_trans (d.eventsOnly_evq _) (Dev.eventsOnly_evPut _ _ _ _)) (Dev.eventsOnly_evDrop _ _)
    · split
      · exact d.eventsOnly_evPut _ _ _
      · exact d.eventsOnly_evDrop _

theorem Dev.eventsOnly_evGo (d : Dev) (dst : Option Nat) (g0 : Nat) (g1 : Gran) : d.eventsOnly (d.evGo dst g0 g1) := by
  unfold Dev.evGo
  split
  · exact d.eventsOnly_evSend _ _ _
  · split
    · exact d.eventsOnly_evCount _
    · exact d.eventsOnly_evSend _ _ _

/-- Raising an event writes it, holds it, or counts it as dropped. -/
theorem Dev.eventsOnly_event (d : Dev) (dst : Option Nat) (code ctx data : Nat) : d.eventsOnly (d.event dst code ctx data) := by
  unfold Dev.event
  dsimp only
  split
  · exact d.eventsOnly_evGo _ _ _
  · exact ⟨rfl, fun _ _ _ => rfl, fun _ => rfl⟩

/-- Writing the events held writes each of them. -/
theorem Dev.eventsOnly_evFlush (d : Dev) : d.eventsOnly d.evFlush := by
  unfold Dev.evFlush
  split
  · exact d.eventsOnly_refl
  · have h : ∀ (l : List (Option Nat × Gran × Gran)) (e : Dev), e.eventsOnly (l.foldl (fun d e => d.evGo e.1 e.2.1.toNat e.2.2) e) := by
      intro l
      induction l with
      | nil => exact fun e => e.eventsOnly_refl
      | cons x t ih => exact fun e => Dev.eventsOnly_trans (e.eventsOnly_evGo _ _ _) (ih _)
    have h0 : d.eventsOnly { d with evHold := [] } := ⟨rfl, fun _ _ _ => rfl, fun _ => rfl⟩
    exact Dev.eventsOnly_trans h0 (h _ _)

/-- FAULT_N follows its conditions; its release raises an event. -/
theorem Dev.faultPin_spec (d : Dev) : ({ d with faultN := d.faultCond } : Dev).eventsOnly d.faultPin := by
  unfold Dev.faultPin
  split
  · next h => rw [h]; exact Dev.eventsOnly_refl _
  · next h =>
    have h' : d.faultCond = false := by simpa using h
    split
    · rw [h']; exact Dev.eventsOnly_event _ _ _ _ _
    · next k =>
      have k' : d.faultN = false := by simpa using k
      rw [h', ← k']
      exact Dev.eventsOnly_refl d

/-! ### What follows from it -/

variable {d e : Dev}

theorem Dev.eventsOnly_mem (h : d.eventsOnly e) : e.mem = d.mem := by rw [h.rest]
theorem Dev.eventsOnly_clay (h : d.eventsOnly e) : e.clay = d.clay := by rw [h.rest]
theorem Dev.eventsOnly_flash (h : d.eventsOnly e) : e.flash = d.flash := by rw [h.rest]
theorem Dev.eventsOnly_descs (h : d.eventsOnly e) : e.descs = d.descs := by rw [h.rest]
theorem Dev.eventsOnly_ctxs (h : d.eventsOnly e) : e.ctxs = d.ctxs := by rw [h.rest]
theorem Dev.eventsOnly_rgns (h : d.eventsOnly e) : e.rgns = d.rgns := by rw [h.rest]
theorem Dev.eventsOnly_doms (h : d.eventsOnly e) : e.doms = d.doms := by rw [h.rest]
theorem Dev.eventsOnly_state (h : d.eventsOnly e) : e.state = d.state := by rw [h.rest]
theorem Dev.eventsOnly_freezes (h : d.eventsOnly e) : e.freezes = d.freezes := by rw [h.rest]
theorem Dev.eventsOnly_reqs (h : d.eventsOnly e) : e.reqs = d.reqs := by rw [h.rest]
theorem Dev.eventsOnly_port_st (h : d.eventsOnly e) (p : Nat) : (e.port p).st = (d.port p).st := by rw [h.ports p]

end Sys2Proof.Machine
end

