-- ==== Sys2Proof/Laws/Memory.lean ====
section
/-! SUPPORT. Memory, clay and flash: a read after a write, and the canonical form that every operation on them keeps. -/
namespace Sys2Proof.Machine

/-! ### Cells -/

/-- Storing bytes keeps the canonical form. -/
theorem cellsSet_wf (m : List Host.Cell) (a v n : Nat) (h : Memory.wf m = true) : Memory.wf (cellsSet m a v n) = true := by
  induction n with
  | zero => exact h
  | succ k ih => exact tab_wf_set _ _ _ _ ih

/-- A byte outside the stored ones reads as before. -/
theorem cellsSet_other (m : List Host.Cell) (a v n j : Nat) (h : j < a ∨ a + n ≤ j) :
    Tab.get (cellsSet m a v n) j 0 = Tab.get m j 0 := by
  induction n with
  | zero => rfl
  | succ k ih => rw [cellsSet, tab_get_set_other _ _ _ _ _ _ (by omega), ih (by omega)]

/-- A stored byte reads back. -/
theorem cellsSet_same (m : List Host.Cell) (a v n i : Nat) (h : i < n) :
    Tab.get (cellsSet m a v n) (a + i) 0 = BitVec.ofNat 8 (v / 2 ^ (8 * i)) := by
  induction n with
  | zero => omega
  | succ k ih =>
    by_cases hi : i = k
    · subst hi; rw [cellsSet, tab_get_set_same]
    · rw [cellsSet, tab_get_set_other _ _ _ _ _ _ (by omega), ih (by omega)]

/-- Bytes that two memories hold alike read alike together. -/
theorem cellsGet_congr (m k : List Host.Cell) (a n : Nat) (h : ∀ i, i < n → Tab.get m (a + i) 0 = Tab.get k (a + i) 0) :
    cellsGet m a n = cellsGet k a n := by
  induction n with
  | zero => rfl
  | succ j ih => rw [cellsGet, cellsGet, ih (fun i hi => h i (by omega)), h j (by omega)]

/-- The bytes stored read back together. -/
theorem cellsGet_cellsSet (m : List Host.Cell) (a v n : Nat) : cellsGet (cellsSet m a v n) a n = v % 2 ^ (8 * n) := by
  have h : ∀ k, k ≤ n → cellsGet (cellsSet m a v n) a k = v % 2 ^ (8 * k) := by
    intro k
    induction k with
    | zero => intro _; simp [cellsGet, Nat.mod_one]
    | succ j ih =>
      intro hj
      rw [cellsGet, ih (by omega), cellsSet_same _ _ _ _ _ (by omega), BitVec.toNat_ofNat, Nat.mul_succ, Nat.pow_add,
        Nat.mod_mul, Nat.mul_comm (2 ^ (8 * j))]
  exact h n (Nat.le_refl n)

/-! ### Granules of memory -/

theorem Dev.memPut_eq (d : Dev) (s ga : Nat) (c : Code) :
    d.memPut s ga c = { d with mem := cellsSet d.mem (granKey s ga * 64) c.toNat 36 } := by rw [Dev.memPut]

theorem Dev.memPut_mem (d : Dev) (s ga : Nat) (c : Code) : (d.memPut s ga c).mem = cellsSet d.mem (granKey s ga * 64) c.toNat 36 := by
  rw [Dev.memPut_eq]

theorem Dev.memGet_eq (d : Dev) (s ga : Nat) : d.memGet s ga = BitVec.ofNat 288 (cellsGet d.mem (granKey s ga * 64) 36) := by
  rw [Dev.memGet]

/-- A number of 288 bits read from its bytes. -/
theorem code_ofNat (c : Code) : BitVec.ofNat 288 (c.toNat % 2 ^ (8 * 36)) = c := by
  rw [Nat.mod_eq_of_lt c.isLt, BitVec.ofNat_toNat, BitVec.setWidth_eq]

/-- A stored granule reads back. -/
@[simp] theorem Dev.memGet_memPut_same (d : Dev) (s ga : Nat) (c : Code) : (d.memPut s ga c).memGet s ga = c := by
  rw [Dev.memGet_eq, Dev.memPut_mem, cellsGet_cellsSet, code_ofNat]

/-- Another granule reads as before. -/
theorem Dev.memGet_memPut_other (d : Dev) (s ga y gb : Nat) (c : Code) (h : granKey y gb ≠ granKey s ga) :
    (d.memPut s ga c).memGet y gb = d.memGet y gb := by
  rw [Dev.memGet_eq, Dev.memGet_eq, Dev.memPut_mem]
  refine congrArg _ (cellsGet_congr _ _ _ _ fun i hi => ?_)
  exact cellsSet_other _ _ _ _ _ (by omega)

/-- Granules of different sets, or of different addresses in one, are different. -/
theorem granKey_ne (s ga y gb : Nat) (h1 : ga < 2 ^ 44) (h2 : gb < 2 ^ 44) (h : y ≠ s ∨ gb ≠ ga) : granKey y gb ≠ granKey s ga := by
  unfold granKey
  omega

theorem Dev.memPut_wf (d : Dev) (s ga : Nat) (c : Code) (h : Memory.wf d.mem = true) : Memory.wf (d.memPut s ga c).mem = true := by
  rw [Dev.memPut_mem]
  exact cellsSet_wf _ _ _ _ h

theorem Dev.memWrite_wf (d : Dev) (s ga : Nat) (g : Gran) (h : Memory.wf d.mem = true) : Memory.wf (d.memWrite s ga g).mem = true := by
  rw [Dev.memWrite]
  exact d.memPut_wf _ _ _ h

theorem Dev.railsOff_wf (d : Dev) : Memory.wf d.railsOff.mem = true := rfl

/-! ### Clay -/

theorem Dev.clayPut_eq (d : Dev) (k : Nat) (c : Code) :
    d.clayPut k c = { d with clay := cellsSet d.clay (k * 64) c.toNat 36 } := by rw [Dev.clayPut]

theorem Dev.clayPut_clay (d : Dev) (k : Nat) (c : Code) : (d.clayPut k c).clay = cellsSet d.clay (k * 64) c.toNat 36 := by
  rw [Dev.clayPut_eq]

theorem Dev.clayGet_eq (d : Dev) (k : Nat) : d.clayGet k = BitVec.ofNat 288 (cellsGet d.clay (k * 64) 36) := by
  rw [Dev.clayGet]

@[simp] theorem Dev.clayGet_clayPut_same (d : Dev) (k : Nat) (c : Code) : (d.clayPut k c).clayGet k = c := by
  rw [Dev.clayGet_eq, Dev.clayPut_clay, cellsGet_cellsSet, code_ofNat]

theorem Dev.clayGet_clayPut_other (d : Dev) (k j : Nat) (c : Code) (h : j ≠ k) : (d.clayPut k c).clayGet j = d.clayGet j := by
  rw [Dev.clayGet_eq, Dev.clayGet_eq, Dev.clayPut_clay]
  refine congrArg _ (cellsGet_congr _ _ _ _ fun i hi => ?_)
  exact cellsSet_other _ _ _ _ _ (by omega)

theorem Dev.clayPut_wf (d : Dev) (k : Nat) (c : Code) (h : Memory.wf d.clay = true) : Memory.wf (d.clayPut k c).clay = true := by
  rw [Dev.clayPut_clay]
  exact cellsSet_wf _ _ _ _ h

@[simp] theorem Dev.clayPut_mem (d : Dev) (k : Nat) (c : Code) : (d.clayPut k c).mem = d.mem := by rw [Dev.clayPut_eq]
@[simp] theorem Dev.memPut_clay (d : Dev) (s ga : Nat) (c : Code) : (d.memPut s ga c).clay = d.clay := by rw [Dev.memPut_eq]
@[simp] theorem Dev.memPut_flash (d : Dev) (s ga : Nat) (c : Code) : (d.memPut s ga c).flash = d.flash := by rw [Dev.memPut_eq]
@[simp] theorem Dev.memPut_descs (d : Dev) (s ga : Nat) (c : Code) : (d.memPut s ga c).descs = d.descs := by rw [Dev.memPut_eq]
@[simp] theorem Dev.memPut_regs (d : Dev) (s ga : Nat) (c : Code) : (d.memPut s ga c).regs = d.regs := by rw [Dev.memPut_eq]
@[simp] theorem Dev.memPut_ctxs (d : Dev) (s ga : Nat) (c : Code) : (d.memPut s ga c).ctxs = d.ctxs := by rw [Dev.memPut_eq]

/-! ### Flash -/

/-- Programming keeps the canonical form of flash, an erased byte being 0xFF. -/
theorem Dev.flashPut_wf (d : Dev) (a : Nat) (l : List Byte) (h : Tab.wf d.flash 0xFF = true) :
    Tab.wf (d.flashPut a l).flash 0xFF = true := by
  induction l generalizing d a with
  | nil => exact h
  | cons b t ih => exact ih _ _ (tab_wf_set _ _ _ _ h)

theorem Dev.flashErase_wf (d : Dev) (a n : Nat) (h : Tab.wf d.flash 0xFF = true) : Tab.wf (d.flashErase a n).flash 0xFF = true :=
  tab_wf_filter _ _ _ h

/-- Programming changes flash alone. -/
theorem Dev.flashPut_rest (d : Dev) (a : Nat) (l : List Byte) : d.flashPut a l = { d with flash := (d.flashPut a l).flash } := by
  induction l generalizing d a with
  | nil => rfl
  | cons b t ih => rw [Dev.flashPut, ih]

/-- What programming leaves in flash. -/
theorem Dev.flashPut_get (d : Dev) (a : Nat) (l : List Byte) (i : Nat) :
    Tab.get (d.flashPut a l).flash i 0xFF = if a ≤ i ∧ i < a + l.length then l.getD (i - a) 0xFF else Tab.get d.flash i 0xFF := by
  induction l generalizing d a with
  | nil =>
    rw [if_neg (by simp only [List.length_nil]; omega)]
    rfl
  | cons b t ih =>
    rw [Dev.flashPut, ih]
    by_cases h : i = a
    · subst h
      rw [if_neg (by omega), if_pos (by simp only [List.length_cons]; omega), tab_get_set_same]
      simp
    · rw [tab_get_set_other _ _ _ _ _ _ h]
      by_cases k : a ≤ i ∧ i < a + (t.length + 1)
      · rw [if_pos (by omega), if_pos (by simp only [List.length_cons]; omega), show i - a = (i - (a + 1)) + 1 by omega]
        simp
      · rw [if_neg (by omega), if_neg (by simp only [List.length_cons]; omega)]

end Sys2Proof.Machine
end

