-- ==== Sys2Proof/Laws/Reads.lean ====
section
/-! SUPPORT. What a read without errors answers: one granule at its home, across the bridge and at its agent (R11, R290), a table
that its cache holds (R111, R114), a read that is served at the home (R90). -/
namespace Sys2Proof.Machine

/-- Nothing crosses the bridge within a die. -/
@[simp] theorem Dev.cross_same (d : Dev) (ph : Phys) (key k : Nat) (g : Gran) : d.cross ph key k k g = (some g, d) := by
  simp [Dev.cross]

@[simp] theorem Dev.crossAll_same (d : Dev) (ph : Phys) (k : Nat) (l : List (Nat × Gran)) :
    d.crossAll ph k k l = (some (l.map (·.2)), d) := by
  induction l with
  | nil => rfl
  | cons e t ih => obtain ⟨key, g⟩ := e; simp [Dev.crossAll, ih]

set_option exponentiation.threshold 512 in
theorem loamDecode_zero : loamDecode 0#288 = (.clean, 0) := by decide

/-- A granule whose transfer nothing upsets arrives as it was sent, and the device stays as it was. -/
theorem Dev.cross_clean (d : Dev) (ph : Phys) (key src dst : Nat) (g : Gran) (h : ∀ e ∈ ph.bridge, e.1 ≠ key) :
    d.cross ph key src dst g = (some g, d) := by
  have hf : ph.bridge.find? (fun e => e.1 == key) = none := by simpa using h
  by_cases hs : src = dst
  · subst hs; simp
  · simp [Dev.cross, hs, hf, loamDecode_zero]

theorem code_xor_zero (c : Code) : c ^^^ (0 : Code) = c := BitVec.xor_zero

/-- A clean codeword that is read without an upset. -/
theorem Dev.readCode_clean (d : Dev) (a : Agent) (ph : Phys) (s ga : Nat) (c : Code) (g : Gran) (lost : Code → Dev → Dev)
    (hu : physAt ph s ga = (0, 0)) (hc : loamDecode c = (.clean, g)) : d.readCode a ph s ga c lost = (some g, d) := by
  have h : loamDecode (c ^^^ (physAt ph s ga).1) = (.clean, g) := by rw [hu, code_xor_zero, hc]
  unfold Dev.readCode
  dsimp only
  rw [h]

/-- A granule that is a clean codeword, of a set that is not fenced and not poisoned, read without an upset. -/
theorem Dev.readStored_clean (d : Dev) (a : Agent) (ph : Phys) (s ga : Nat) (o : Option Owner) (g : Gran)
    (hf : d.setFenced s = false) (hp : d.poisonAt s ga = false) (hu : physAt ph s ga = (0, 0))
    (hc : loamDecode (d.memGet s ga) = (.clean, g)) : d.readStored a ph s ga o = (some g, d) := by
  rw [Dev.readStored, hf, hp, if_neg (by decide)]
  exact d.readCode_clean a ph s ga _ g _ hu hc

/-- The same granule at its agent, whichever die that is on. -/
theorem Dev.readGran_clean (d : Dev) (a : Agent) (ph : Phys) (s ga : Nat) (o : Option Owner) (g : Gran)
    (hf : d.setFenced s = false) (hp : d.poisonAt s ga = false) (hu : physAt ph s ga = (0, 0))
    (hc : loamDecode (d.memGet s ga) = (.clean, g)) (hb : ∀ e ∈ ph.bridge, e.1 ≠ granKey s ga) :
    d.readGran a ph s ga o = (some g, d) := by
  rw [Dev.readGran, d.readStored_clean a ph s ga o g hf hp hu hc]
  simp only [Dev.bring, d.cross_clean ph _ _ _ g hb]
  cases a.also <;> simp [d.cross_clean ph _ _ _ g hb]

/-- A read that covers a poisoned granule reads no memory (R300). -/
theorem Dev.readGrans_poison (d : Dev) (a : Agent) (ph : Phys) (s : Nat) (l : List (Nat × Owner))
    (h : ∃ e ∈ l, d.poisonAt s e.1 = true) : d.readGrans a ph s l = (none, d) := by
  have hl : l.any (fun e => d.poisonAt s e.1) = true := by simpa using h
  simp only [Dev.readGrans, hl, if_true]

/-- A table that the site's cache holds is used without a read; it is the last used from then on. -/
theorem Dev.tableUse_hit (d : Dev) (ph : Phys) (site t : Nat) (gen : Bool)
    (h : (d.tcache.get site []).contains (t, gen, ((d.tensor t).slot gen).serial) = true) :
    d.tableUse ph site t gen = { d with tcache := (d.tableUse ph site t gen).tcache } := by
  simp only [Dev.tableUse, h, Bool.true_or, if_true]

/-- A read that the home answers is served by it (R90). -/
theorem Dev.served_home {α : Type} (d e : Dev) (x k : Nat) (rd : Dev → Home → Bool → Option α × Dev) (r : α)
    (hr : (d.desc x).reload = false) (hb : d.blockBad x k (d.desc x).home false = false)
    (h : rd d (d.desc x).home false = (some r, e)) : d.served x k rd = (some r, e) := by
  simp [Dev.served, hr, hb, h]

end Sys2Proof.Machine
end

