-- ==== Sys2Proof/Laws/Step.lean ====
section
/-! SUPPORT. The shapes of the meanings: what a change of the device, an event with its trigger, a ring command and a request of
board management answer. -/
namespace Sys2Proof.Machine

theorem State.devStep_eq (f : Dev → Dev) (s : State) : s.devStep f = .next { s with dev := f s.dev } := rfl

/-- An event whose trigger holds. -/
theorem State.devEvent_holds (p : Dev → Bool) (f : Dev → Dev) (s : State) (h : p s.dev = true) :
    s.devEvent p f = .next { s with dev := (f s.dev).finish } := by
  rw [State.devEvent, if_pos h]
  rfl

/-- An event whose trigger does not hold changes nothing. -/
theorem State.devEvent_not (p : Dev → Bool) (f : Dev → Dev) (s : State) (h : p s.dev = false) : s.devEvent p f = .next s := by
  rw [State.devEvent, if_neg (by simp [h])]

/-- A ring command that its queue starts and whose checks pass runs its body. -/
theorem State.cmd_runs (opc : Nat) (q : Queue) (e : Entry) (body : CmdRef → Nat → State → State) (s : State) (d : Dev) (c : Nat)
    (ho : e.opc = opc) (hs : s.dev.starts q e = some d) (hc : d.cmdCheck q e = (0, c)) :
    s.cmd opc q e body = .next ((body (d.cmdRef q e) c { s with dev := d }).onDev Dev.finish) := by
  rw [State.cmd, if_neg (by simp [ho]), hs]
  simp [hc]

/-- A ring command that its queue starts and whose checks fail completes with the status of the check. -/
theorem State.cmd_refused (opc : Nat) (q : Queue) (e : Entry) (body : CmdRef → Nat → State → State) (s : State) (d : Dev)
    (st c : Nat) (ho : e.opc = opc) (hs : s.dev.starts q e = some d) (hc : d.cmdCheck q e = (st, c)) (hn : st ≠ 0) :
    s.cmd opc q e body = .next { s with dev := (d.complete (d.cmdRef q e) st 0 0).finish } := by
  rw [State.cmd, if_neg (by simp [ho]), hs]
  simp [hc, hn, State.onDev]

/-- A ring command that its queue does not start changes nothing. -/
theorem State.cmd_idle (opc : Nat) (q : Queue) (e : Entry) (body : CmdRef → Nat → State → State) (s : State)
    (h : e.opc ≠ opc ∨ s.dev.starts q e = none) : s.cmd opc q e body = .next s := by
  rw [State.cmd]
  by_cases ho : e.opc ≠ opc
  · rw [if_pos ho]
  · rw [if_neg ho, h.resolve_left ho]

theorem State.devCmd_runs (opc : Nat) (q : Queue) (e : Entry) (body : CmdRef → Nat → Dev → Dev) (s : State) (d : Dev) (c : Nat)
    (ho : e.opc = opc) (hs : s.dev.starts q e = some d) (hc : d.cmdCheck q e = (0, c)) :
    s.devCmd opc q e body = .next { s with dev := (body (d.cmdRef q e) c d).finish } :=
  State.cmd_runs _ _ _ _ _ _ _ ho hs hc

/-- A request to board management with standby power on and a dynamic address. -/
theorem State.i3cReq_addressed (s : State) (f : State → State) (h : s.addressed = true) : s.i3cReq f = .next (f s) := by
  rw [State.i3cReq, if_pos h]

theorem State.i3cReq_silent (s : State) (f : State → State) (h : s.addressed = false) : s.i3cReq f = .next s := by
  rw [State.i3cReq, if_neg (by simp [h])]

/-- What follows a command does nothing in a device that is not running, where no CFG waits for the credit of its completion. -/
theorem Dev.finish_frozen (d : Dev) (h : d.freezes ≠ .running) (hc : ∀ r ∈ d.reqs, r.ty = 8 → r.stage ≠ .credits) (ph : Phys := {}) :
    d.finish ph = d := by
  have hr : d.reqs.any (fun r => r.ty == 8 && r.stage == .credits) = false := by
    simpa using fun r hr h8 => hc r hr h8
  rw [Dev.finish, if_neg (by simpa using h), hr]
  rfl

end Sys2Proof.Machine
end

