-- ==== Sys2Proof/Laws/Update.lean ====
section
/-! SUPPORT. What the shared operations of an update change: the boot record and the staged bytes the flash, the hand-off block the
memory. -/
namespace Sys2Proof.Machine

/-- A new boot record changes the flash alone. -/
theorem Dev.recPut_rest (d : Dev) (r : BootRec) : d.recPut r = { d with flash := (d.recPut r).flash } := Dev.flashPut_rest _ _ _

/-- It lies within its partition: every byte from 64 KiB on stays. -/
theorem Dev.recPut_other (d : Dev) (r : BootRec) (i : Nat) (h : 0x10000 ≤ i) :
    Tab.get (d.recPut r).flash i 0xFF = Tab.get d.flash i 0xFF := by
  have hb : (({ r with seq := d.bootRec.seq + 1 } : BootRec).bytes).length = 32 := by
    simp [BootRec.bytes, natBytes]
  have ha : recAt (d.recInForce.elim 0 (1 - ·)) ≤ 0x8000 := by
    unfold recAt
    cases d.recInForce with
    | none => simp
    | some k => simp only [Option.elim_some]; omega
  rw [Dev.recPut, Dev.flashPut_get, hb, if_neg (by omega)]

/-- The hand-off block changes memory alone. -/
theorem Dev.blockPut_rest (d : Dev) (i : Nat) (l : List Gran) : d.blockPut i l = { d with mem := (d.blockPut i l).mem } := by
  induction l generalizing d i with
  | nil => rfl
  | cons g t ih =>
    rw [Dev.blockPut, ih]
    cases d.blockPlace i with
    | none => rfl
    | some p =>
      simp only [Option.elim_some]
      split
      · rfl
      · rw [Dev.memWrite, Dev.memPut_eq]

/-- And keeps its canonical form. -/
theorem Dev.blockPut_wf (d : Dev) (i : Nat) (l : List Gran) (h : Memory.wf d.mem = true) : Memory.wf (d.blockPut i l).mem = true := by
  induction l generalizing d i with
  | nil => exact h
  | cons g t ih =>
    rw [Dev.blockPut]
    apply ih
    cases d.blockPlace i with
    | none => exact h
    | some p =>
      simp only [Option.elim_some]
      split
      · exact h
      · exact Dev.memWrite_wf _ _ _ _ h

/-- An image that does not take the block by its header gives 3 or 4 as its reason; else its own. -/
theorem State.handFault_cases (s : State) : s.handFault = 0 ∨ s.handFault = 3 ∨ s.handFault = 4 := by
  unfold State.handFault
  split
  · dsimp only
    split
    · exact .inr (.inl rfl)
    · split
      · exact .inr (.inr rfl)
      · exact .inl rfl
  · exact .inr (.inl rfl)

@[simp] theorem State.handReason_own (s : State) (own : Nat) (h : s.handFault = 0) : s.handReason own = own := by simp [State.handReason, h]
theorem State.handReason_fault (s : State) (own : Nat) (h : s.handFault ≠ 0) : s.handReason own = s.handFault := by simp [State.handReason, h]

end Sys2Proof.Machine
end

