-- ==== Sys2Proof/WellFormed.lean ====
section
/-! DEFINITION. Well-formed commands: what the types of the operands leave to a check. The meanings are total: an ill-formed
command changes nothing, or is answered as the spec answers it; well-formedness says which terms stand for a row of the
table with operands the row admits. -/
namespace Sys2Proof

/-- A piece moves at least one granule (R255), of a row that a bank can have (R48). -/
def PieceIn.wf (p : PieceIn) : Bool := decide (1 ≤ p.gran) && decide (p.row < 2 ^ 19)

/-- A failed class of R377, with a domain of R13 that has such a checker: a fenceable one, or the common logic of a die. -/
def TestFail.wf (t : TestFail) : Bool :=
  decide (1 ≤ t.cls ∧ t.cls ≤ 8) && (decide (t.domain < 336) || t.domain == 0x1F0 || t.domain == 0x1F1) &&
    Machine.classIn t.cls t.domain

/-- The counts of the eight lanes, one byte each (R331), and at most eight slots (R314). -/
def Flit.wf (f : Flit) : Bool := f.slots.length == 8

/-- Is a command well formed. -/
def Instr.wf (i : Instr) : Bool :=
  match i with
  | .pllLossOfLock _ => true
  | .pllRelockResult p ok fails => fails.isEmpty || (ok && decide (p.val < 100))
  | .refclkLoss => true
  | .stepRateWindow _ counts _ => counts.length == 12
  | .clrMin _ => true
  | .check _ => true
  | .commitFlash _ => true
  | .applyQos _ => true
  | .qosCopyComplete => true
  | .qosAdoptionComplete => true
  | .readActive => true
  | .moveAcquire _ => true
  | .moveQuiesceDone _ _ => true
  | .moveCommit _ => true
  | .moveRelease _ => true
  | .moveAbandon _ => true
  | .ageSweep _ => true
  | .ageSweepComplete _ => true
  | .poolDemote _ => true
  | .reclaimClear _ => true
  | .reclaimComplete _ => true
  | .windowFill _ _ => true
  | .windowFillComplete _ => true
  | .tableRecordFetch _ _ _ _ => true
  | .tableInstall _ e _ => e.opc == 0x14
  | .tableFit _ e => e.opc == 0x15
  | .tableFitComplete _ => true
  | .tableRecode _ e => e.opc == 0x16
  | .recodeComplete _ _ => true
  | .tableRelease _ e => e.opc == 0x17
  | .wordIssue _ _ _ _ _ => true
  | .prefetch _ _ => true
  | .operandReadApply _ _ _ => true
  | .opComplete _ => true
  | .contextSwitch _ => true
  | .sleepTimeout _ => true
  | .mma _ _ _ => true
  | .attn _ _ _ => true
  | .ewise _ => true
  | .reduce _ => true
  | .topk _ => true
  | .gather _ => true
  | .scatter _ _ => true
  | .load _ => true
  | .store _ => true
  | .cvt _ => true
  | .win _ => true
  | .fence _ => true
  | .post _ => true
  | .postRingFree _ => true
  | .launch _ e => e.opc == 0x10
  | .planLoad _ e _ => e.opc == 0x11
  | .promote _ x => x.e.opc == 0x12
  | .demote _ x => x.e.opc == 0x13
  | .createCtx _ e => e.opc == 0x04
  | .cancel _ e => e.opc == 0x05
  | .destroyCtx _ e => e.opc == 0x06
  | .destroyDrainEnd _ => true
  | .assignBed _ e => e.opc == 0x07
  | .ringSet _ e => e.opc == 0x08
  | .park _ e => e.opc == 0x09
  | .parkComplete _ => true
  | .unparkComplete _ => true
  | .parkQueueTimeout _ => true
  | .query _ e => e.opc == 0x0A
  | .attach _ e => e.opc == 0x01
  | .detach _ e => e.opc == 0x02
  | .heartbeat _ e => e.opc == 0x03
  | .hostLost _ => true
  | .bind _ e => e.opc == 0x20
  | .unbind _ e => e.opc == 0x21
  | .revocationDrainEnd _ _ => true
  | .regionCreate _ e => e.opc == 0x22
  | .regionGrow _ e => e.opc == 0x23
  | .regionTrim _ e => e.opc == 0x24
  | .regionReclaim _ e => e.opc == 0x25
  | .regionSet _ e => e.opc == 0x26
  | .retire _ e => e.opc == 0x27
  | .fmDetach _ e => e.opc == 0x28
  | .updateStage _ e _ _ _ => e.opc == 0x29
  | .updateActivate _ e => e.opc == 0x2A
  | .activationPause => true
  | .handoffAccept h => h.reason == 0 || decide (3 ≤ h.reason ∧ h.reason ≤ 6)
  | .handoffTimeout => true
  | .activationWindowExpiry => true
  | .rd _ _ _ => true
  | .wr _ h data _ => data.length == h.length.toNat
  | .wrp _ h _ data _ => data.length == h.length.toNat
  | .atom _ _ _ _ => true
  | .pub _ _ _ _ => true
  | .dbSqTail _ _ _ => true
  | .dbCqHead _ _ _ => true
  | .dbEvqHead _ _ => true
  | .cfg _ _ _ => true
  | .fmHello _ len payload => payload.length == 32 * len
  | .fmProof _ len payload => payload.length == 32 * len
  | .challengeExpiry _ => true
  | .attachLockoutExpiry _ => true
  | .completionSend _ _ => true
  | .flitReceive _ f => f.wf
  | .replayTimeout _ => true
  | .portTrainStart _ => true
  | .trainComplete _ _ _ => true
  | .trainTimeout _ => true
  | .retrainComplete _ _ => true
  | .retrainTimeout _ => true
  | .linkLoss _ => true
  | .olyRetrain _ => true
  | .olyReset _ => true
  | .ceilingUpdate _ => true
  | .scaleFactorUpdate _ => true
  | .shortfallHoldoffExpiry _ => true
  | .controllerPieceArrival _ pc => pc.wf
  | .retrainPause _ _ _ => true
  | .retrainRetry _ _ => true
  | .tempRead _ _ => true
  | .refresh _ _ _ => true
  | .selfRefreshEntry _ => true
  | .selfRefreshExit _ => true
  | .replayResetDone _ _ => true
  | .scrubSweepStart _ => true
  | .scrubRead _ _ _ => true
  | .scrubNow _ => true
  | .poisonRemove => true
  | .writeRaw => true
  | .readRaw => true
  | .readChecked => true
  | .watchdogStall _ => true
  | .domainFence _ cause => decide (1 ≤ cause.val ∧ cause.val ≤ 9)
  | .safDomFence _ => true
  | .domainRejoin _ _ => true
  | .domainResetTimeout _ => true
  | .marlLockstepMismatch _ => true
  | .marlWatchdogExpiry _ => true
  | .marlTakeover => true
  | .selfTest _ fails => fails.all TestFail.wf
  | .sensorChainDisagree _ _ _ => true
  | .vcoreOverLimit _ => true
  | .vcoreUnderLimit _ => true
  | .memoryRailFault _ => true
  | .dieCommonFault _ _ => true
  | .thermalTrip _ => true
  | .safStatusClear _ => true
  | .faultTest _ => true
  | .governorTick _ _ _ _ _ _ _ _ => true
  | .emergencyOn _ _ => true
  | .emergencyOff _ _ => true
  | .canaryLate g _ => decide (g < 14240)
  | .canaryClean g => decide (g < 14240)
  | .pwrCtlWrite _ _ => true
  | .lssPoolWmWrite _ _ => true
  | .registerWrite _ _ => true
  | .rstdaa => true
  | .entdaa _ => true
  | .setdasa _ _ => true
  | .getpid => true
  | .getbcr => true
  | .getdcr => true
  | .getstatus => true
  | .enec _ => true
  | .disec _ => true
  | .setEndpointId _ _ => true
  | .getEndpointId => true
  | .getMctpVersionSupport _ => true
  | .getMessageTypeSupport => true
  | .getTid => true
  | .setTid _ => true
  | .getPldmVersion _ => true
  | .getPldmTypes => true
  | .getPldmCommands _ => true
  | .getPdrRepositoryInfo => true
  | .getPdr _ => true
  | .getSensorReading _ => true
  | .getStateSensorReadings _ => true
  | .vendorMrsRead _ => true
  | .freezeRequest => true
  | .freeze => true
  | .freezeComplete => true
  | .thaw => true
  | .freezeNRelease => true
  | .thawComplete => true
  | .relock => true
  | .captureRead => true
  | .extest _ => true
  | .idcode => true
  | .samplePreload _ => true
  | .tapMrs _ _ _ => true
  | .tapFlash _ _ _ _ => true
  | .unlock token nonce => token.length == 3400 && nonce.length == 32
  | .unlockLockoutExpiry => true
  | .bypass b => b.op == 0xFF || !([0, 1, 2, 0x10, 0x11, 0x12] : List Byte).contains b.op
  | .standbyPowerUp nonce => nonce.length == 32
  | .pwrokRise => true
  | .resetRelease _ => true
  | .firmwareStarted => true
  | .stratumInForce _ => true
  | .trainingDone _ fails => fails.all TestFail.wf
  | .metadataInit => true
  | .bringupReady => true
  | .warmReset _ _ nonce => nonce.length == 32
  | .coldReset _ nonce => nonce.length == 32
  | .powerLoss _ => true
  | .queueService _ _ => true
  | .stageWriteComplete _ => true
  | .commitFlashComplete _ => true

end Sys2Proof
end

