-- ==== Sys2Proof/Tests/Slice0.lean ====
section
/-! SUPPORT. Tests: an ill-formed term for every check of WellFormed, values the spec writes out, and for every statement with
hypotheses a concrete state and operands that meet them. -/
namespace Sys2Proof.Machine
set_option Elab.async false

/-! ### A small device -/

/-- Two sets on die 0, one of each tier, for partition 0; bed 0 of clusters 0 to 2; every port with every flag and four slots. -/
def tStrat : Strat := {
  sets := [⟨[0, 1, 2, 3], false, 0, 0, true, 0, 64, 192, List.replicate 30 30⟩, ⟨[0, 1, 2, 3], true, 0, 0, true, 0, 64, 192, List.replicate 30 30⟩],
  overcommit := 16, beds := [7], ports := List.replicate 16 0x000000040004000F, lanes := 0, routes := [], ageLimit := 0, rtMask := 0,
  slots := [16], powerLimit := 0, allow := [], bedPart := [0], portPart := List.replicate 16 0, loessPart := [0, 0, 0, 0],
  sealCount := 0, safe := false, id := 1, seq := 1, digest := [], image := [] }

/-- A device that is READY under it: every domain LIVE, every port ACTIVE, sessions on port 0, context 0 on bed 0 with rings and
a binding of four extents in subsoil, never written. -/
def tCtx : Ctx := {
  st := .active, slot := some 0, bed := some 0, rights := 15, binds := [(0, { region := 1, rights := 15, len := 4 })],
  ring := { isSet := true, sqLog := 6, cqLog := 6, sqBase := 0x20000, cqBase := 0x30000 } }
def tD : Dev := {
  state := .ready, step := .up, marlUp := 3, pwrok := true, strat := some tStrat,
  doms := (List.range 336).map fun x => (x, { st := .live }), ports := (List.range 16).map fun p => (p, { st := .active }),
  insts := [(0, { st := .active })], hosts := [(0, some { period := 100, since := 0, attach := none, recover := false, recovered := 0 })], fm := some ⟨0, []⟩, ctxs := [(0, tCtx)],
  rgns := [(1, { st := .active, rights := 15, runs := [(0, 4)] })],
  descs := (List.range 4).map fun x => (x, { st := .stable, region := 1, set := 1, sub := true, loc := 16 * x, slabs := 16 }) }
def tS : State := { dev := tD, mgmt := { dynAddr := some 8 } }
/-- A state with another device. -/
def tOf (d : Dev) : State := { tS with dev := d }

/-- A submission entry. -/
def tE (opc ctx : Nat) (a0 a1 a2 a3 : Nat) : Entry :=
  ⟨BitVec.ofNat 256 (opc + ctx * 2 ^ 32 + a0 * 2 ^ 64 + a1 * 2 ^ 128 + a2 * 2 ^ 192), BitVec.ofNat 256 a3⟩
/-- The handle of context 0. -/
def tH : Nat := 0x1000
/-- Does a queue start an entry with its checks passed, the started device and context meeting p. -/
def tStarts (d : Dev) (q : Queue) (e : Entry) (p : Dev → Nat → Bool) : Bool :=
  match d.starts q e with
  | none => false
  | some d0 => (d0.cmdCheck q e).1 == 0 && p d0 (d0.cmdCheck q e).2
/-- A plan of one layer with one slot, its fill waiting or in hand. -/
def tPlan (filling : Bool) : Dev := { tD with plans := [(0, {
  st := .active, ctx := 0, region := 1, set := 0, look := 1, layers := [(0, 1)], slots := [⟨0, 100, false, some 0, 0, false, 0, 0, 0⟩],
  fills := [(0, 0)], filling := filling, engine := if filling then some 0 else none })] }
/-- Bed 0 runs context 0, a word in its buffer, an operation pending or running. -/
def tBed (w : Option Gran) (pend run : Option TOp) : Dev := { tD with
  ctxs := [(0, { tCtx with ps := .running })], beds := [(0, { cur := some 0, ibuf := [(0, w, 3)], pend := pend, run := run })] }
/-! ### Well-formedness refuses -/

theorem test_wf_counts : (Instr.stepRateWindow 0 [1] 0).wf = false := by decide
theorem test_wf_opcode : (Instr.park (.port 0) (tE 0x0A 0 0 0 0 0)).wf = false ∧ (Instr.park (.port 0) (tE 0x09 0 0 0 0 0)).wf = true := by decide +kernel
theorem test_wf_reason : (Instr.handoffAccept ⟨2, true⟩).wf = false ∧ (Instr.handoffAccept ⟨7, true⟩).wf = false ∧ (Instr.handoffAccept ⟨3, false⟩).wf = true := by decide
theorem test_wf_write_data : (Instr.wr 0 ⟨0, 0, 0, 2, 0, 0⟩ [0] {}).wf = false ∧ (Instr.wrp 0 ⟨0, 0, 0, 2, 0, 0⟩ 0 [0] {}).wf = false := by decide
theorem test_wf_payload : (Instr.fmHello 0 168 []).wf = false ∧ (Instr.fmProof 0 106 []).wf = false := by decide
theorem test_wf_flit : (Instr.flitReceive 0 { hdr := 0, slots := [] }).wf = false := by decide
theorem test_wf_piece : (Instr.controllerPieceArrival 0 ⟨0, 0, 0, 0, 0, false, none, none⟩).wf = false ∧
    (Instr.controllerPieceArrival 0 ⟨0, 0, 0, 2 ^ 19, 1, false, none, none⟩).wf = false := by decide +kernel
theorem test_wf_cause : (Instr.domainFence 0 0).wf = false ∧ (Instr.domainFence 0 10).wf = false := by decide
theorem test_wf_fails : (Instr.selfTest 0 [⟨9, 0⟩]).wf = false ∧ (Instr.selfTest 0 [⟨1, 336⟩]).wf = false ∧
    (Instr.trainingDone [] [⟨0, 0⟩]).wf = false := by decide
theorem test_wf_train : (Instr.pllRelockResult 100 true [⟨0, 0, true⟩]).wf = false ∧ (Instr.pllRelockResult 0 false [⟨0, 0, true⟩]).wf = false ∧
    (Instr.pllRelockResult 99 true [⟨0, 0, true⟩]).wf = true := by decide
theorem test_wf_canary : (Instr.canaryLate 14240 0).wf = false ∧ (Instr.canaryClean 14240).wf = false := by decide
theorem test_wf_token : (Instr.unlock [] []).wf = false := by decide +kernel
theorem test_wf_nonce : (Instr.standbyPowerUp []).wf = false ∧ (Instr.warmReset true true []).wf = false ∧ (Instr.coldReset true []).wf = false := by decide

/-! ### Values the spec writes out -/

/-- IDCODE (R401). -/
theorem test_idcode : (match exec .idcode tS with
    | .next t => t.dev.out == [Out.tap 0x24E3856B]
    | _ => false) = true := by decide +kernel

/-- GEN_IDENT (R24): VENDOR 0x5351, DEVICE 0x4E38. -/
theorem test_gen_ident : State.reset.dev.fld row_GEN_IDENT 0 f_GEN_IDENT_VENDOR = 0x5351 ∧
    State.reset.dev.fld row_GEN_IDENT 0 f_GEN_IDENT_DEVICE = 0x4E38 := by decide +kernel

/-- The example of R23: 14,857 cycles in a window give RATE 1,411. -/
theorem test_rate : (match exec (.stepRateWindow 0 (List.replicate 12 14857) 0) { tS with dev := { tD with timers := [(commonDom 0, 2500)] } } with
    | .next t => t.dev.fld row_GEN_STEP_RATE 0 f_GEN_STEP_RATE_RATE == 1411
    | _ => false) = true := by decide +kernel

/-- The handle of a context (R221) and its window of R48. -/
theorem test_bad_range : badRange 0xFFFFFFFFFFE0 1 = false ∧ badRange 0xFFFFFFFFFFE0 2 = true ∧ badRange 1 1 = true := by decide +kernel

/-- The tick counts of R21: at most 50 µs is 11,875 ticks, at least 1 ms is 262,500. -/
theorem test_ticks : atMostTicks false 50000 = 11875 ∧ atLeastTicks false 1000000 = 262500 := by decide +kernel

/-- The Loam code: clean as written, one symbol corrected (R288, R290). -/
theorem test_loam : loamDecode (loamEncode 0x1234) = (.clean, 0x1234) ∧ loamDecode (loamEncode 0x1234 ^^^ 0xFF00) = (.ce 1, 0x1234) := by
  decide +kernel

/-- PWR_CTL (R383): a value out of range leaves its field, 0.80 V is the most. -/
theorem test_vmax : (match exec (.pwrCtlWrite 0x1100000 801) tS with
    | .next t => t.pwr.vmax == 800
    | _ => false) = true := by decide +kernel

/-! ### Every statement's hypotheses can be met -/

theorem wit_StepRunsTheFrontCommand : ({ tS with pending := [.relock, .idcode] } : State).pending = .relock :: [.idcode] := rfl
theorem wit_EmptyQueueTicksTimers : tS.pending = [] := rfl
theorem wit_I3cTarget : tS.dev.step ≠ .standby ∧ tS.mgmt.dynAddr.isSome = true ∧ ({ tS with mgmt := {} } : State).mgmt.dynAddr = none := by decide
theorem wit_MctpAndPldmAnswer : tS.dev.step ≠ .standby ∧ tS.mgmt.dynAddr.isSome = true ∧ (1 : Byte) ≠ 0 ∧ (0xFE : Byte) ≠ 0xFF ∧
    (2 : Byte) ≠ 0 ∧ (2 : Byte) ≠ 1 ∧ (2 : Byte) ≠ 0x7F ∧ (1 : Byte) ≠ 2 := by decide
theorem wit_TapIdentification : tS.dev.state ≠ .powerUp := by decide
theorem wit_TapFlash : (tOf { tD with state := .frozen }).dev.state = .frozen ∧
    ∀ area : Fin 4, (0 : BitVec 24).toNat % 32 = 0 ∧ (0 : BitVec 24).toNat + 32 ≤ (tapArea area.val).2 ∧
      (BitVec.ofNat 24 ((tapArea area.val).2 - 32)).toNat + 32 ≤ (tapArea area.val).2 := by decide +kernel
theorem wit_TapMrsWhileLocked : tS.dev.state ≠ .powerUp ∧ tS.sec.unlocked = false ∧ rowOf 0 = some row_GEN_IDENT ∧ row_GEN_IDENT ∈ rowsGEN ∧
    rowOf 4 = none ∧ rowOf (row_QOS_CTL.addr 0) = some row_QOS_CTL ∧ ¬ (row_QOS_CTL ∈ rowsGEN ∨ row_QOS_CTL ∈ rowsPWR ∨ row_QOS_CTL ∈ rowsDBG) ∧
    row_QOS_CTL.reg ≠ .SAF_STATUS ∧ row_QOS_CTL.reg ≠ .HMC_TEMP ∧ row_QOS_CTL.reg ≠ .LMC_TEMP ∧ row_QOS_CTL.reg ≠ .DBG_CTL ∧
    ({ tS.sec with unlocked := true } : Sec).unlocked = true := by decide +kernel
/-- A second past an attempt, on a timer that runs slow. -/
def tLock (now : Nat) : Dev := { tD with unlockAt := some 0, timers := [(0x200, now)] }
theorem wit_DebugUnlock_refused : tS.dev.unlockAt = none ∧ tS.sec.judgeToken tS.dev.nonce [] ≠ 1 ∧ (tLock 0).unlockAt.isSome = true := by
  refine ⟨rfl, ?_, rfl⟩
  show tS.sec.judgeToken tS.dev.nonce [] ≠ 1
  unfold Sec.judgeToken
  rw [show tS.sec.slotKey _ = none by decide +kernel]
  decide
theorem wit_DebugUnlock_expiry : (tLock ((tLock 0).least 1000000000)).atLeast (alwaysKey 0) 0 1000000000 = true ∧
    (tLock ((tLock 0).least 1000000000 - 1)).atLeast (alwaysKey 0) 0 1000000000 = false := by decide +kernel
theorem wit_FreezeAndThaw_requests : tD.freezes = .running ∧ tD.state ≠ .powerUp ∧ tD.state ≠ .boot ∧ ({ tD with state := .boot } : Dev).state = .boot ∧
    ({ tD with freezes := .frozen } : Dev).freezes = .frozen ∧ ({ tD with freezes := .halting } : Dev).freezes = .halting := by decide
theorem wit_FreezeAndThaw_ends : ({ tD with freezes := .halting, req := true } : Dev).freezeCause = true ∧ tD.state ≠ .frozen ∧
    ({ tD with freezes := .thawing } : Dev).freezeCause = false ∧ ({ tD with freezes := .thawing, freezeN := true } : Dev).freezeCause = true := by
  decide
/-- A frozen device asked for one granule of descriptor a. -/
def tCap (space a : Nat) : Dev :=
  (({ tD with freezes := .frozen } : Dev).setFld row_DBG_CAP_ADDR 0 f_DBG_CAP_ADDR_SPACE space).setFld row_DBG_CAP_ADDR 0
    f_DBG_CAP_ADDR_ADDRESS a |>.setFld row_DBG_CAP_CTL 0 f_DBG_CAP_CTL_COUNT 1
theorem wit_CaptureReads : tD.freezes ≠ .frozen ∧ (tCap 2 0).freezes = .frozen ∧ tS.sec.unlocked = false ∧
    (tCap 2 0).fld row_DBG_CAP_ADDR 0 f_DBG_CAP_ADDR_SPACE = 2 ∧ (tCap 1 5).fld row_DBG_CAP_ADDR 0 f_DBG_CAP_ADDR_SPACE = 1 ∧
    (tCap 1 5).fld row_DBG_CAP_CTL 0 f_DBG_CAP_CTL_COUNT = 1 ∧ (tCap 1 5).fld row_DBG_CAP_ADDR 0 f_DBG_CAP_ADDR_ADDRESS = 5 ∧
    5 < tStrat.eTotal ∧ ((tCap 1 5).groupOf 5).elim true (tCap 1 5).metaFenced = false := by decide +kernel
theorem wit_PowerUpAndBoot : State.reset.dev.step = .standby ∧ (tOf { tD with step := .pwrok }).dev.step = .pwrok ∧
    ({ step := .reset } : Dev).state = .powerUp ∧ ({ step := .reset } : Dev).thermTrip = false ∧ ({ step := .reset } : Dev).vcoreOff = false := by
  decide
/-- Erased flash: no slot verifies. -/
theorem wit_PowerUpAndBoot_none : ∀ b : Bool, ({} : Sec).verify (({ step := .reset } : Dev).fwObj b) 1 [0] ≠ 0 := by decide +kernel
/-- A slot that cannot be read fails with 0x5 (R364). -/
theorem wit_PowerUpAndBoot_noRead : (2 : BitVec 2).getLsbD (b2n true) = true ∧ (tS.slotFail 2 true) = 5 := by decide +kernel
theorem wit_FirmwareBringsAStratumIntoForce : ({ step := .firmware, state := .boot } : Dev).step = .firmware ∧
    (({ step := .firmware } : Dev).recPut { seq := 1, pending := true }).bootRec.pending = true ∧
    (({ step := .firmware } : Dev).recPut { seq := 1, pending := true }).bootRec.seq + 1 < 2 ^ 64 ∧ ({ step := .firmware } : Dev).resets < 2 ^ 64 ∧ ({ step := .firmware } : Dev).memKept = false := by decide +kernel
theorem wit_TrainingAndBringUp : tD.refclkLost = false ∧ tD.freezes = .running ∧ tD.freezeCause = false ∧
    ({ tD with step := .training, state := .training, insts := [(0, { st := .training })] } : Dev).usedInsts.contains 0 = true ∧
    tD.memKept = false := by decide +kernel
theorem wit_WarmAndColdResets : tD.step ≠ .standby ∧ tD.step ≠ .pwrok ∧ tD.step ≠ .reset ∧ tD.vcoreOff = false ∧ tD.step = .up := by decide
theorem wit_ClockFaults : tD.live (pllDom 0) = true ∧ tD.live (pllDom 115) = true ∧ tD.pllLost 115 = false ∧
    ({ tD with insts := [(99, { st := .pause, pllLost := true })] } : Dev).pllLost 99 = true ∧
    ({ tD with ports := [(15, { st := .active, pllLost := true })] } : Dev).pllLost 115 = true ∧ tD.refclkLost = false ∧ tD.step = .up ∧
    tD.state ≠ .failed := by decide +kernel
theorem wit_StepRateWindows : tD.vcore = true ∧ tD.freezes = .running ∧ (∀ i, i < 8 → tD.live (coreDom (8 * 23 + i)) = true) ∧
    bitOf tD.rateDirty 23 = false ∧ tD.now (commonDom 0) < tD.rateAt.get 0 0 + 2500 ∧
    ({ tD with timers := [(commonDom 1, 2500)] } : Dev).rateAt.get 1 0 + 2500 ≤ ({ tD with timers := [(commonDom 1, 2500)] } : Dev).now (commonDom 1) ∧ ({ tD with doms := [] } : Dev).live (coreDom 0) = false := by decide +kernel

/-! Code tables. -/

/-- Tensor 0 of context 0's tenant, as given. -/
def tTen (x : Tensor) : Dev := { tD with tensors := [(0, { x with alloc := true })] }
/-- A fit of context 0 with nothing left to count. -/
def tFit (inst : Bool) : Tensor := { fit := some (⟨.ctx 0, 0, 0x1000, false, 0⟩, 0, inst, 0, 0) }
theorem wit_GradeTables_alloc : tStarts tD (.ctx 0) (tE 0x14 0 0x2000 0 0 0) (fun d c =>
      decide (0 < (d.tensorRange (d.portPart (d.ctx c).port)).2) && !(d.tensor 0).alloc) = true ∧
    tStarts (tTen {}) (.ctx 0) (tE 0x14 0 0x2000 0 0 0) (fun d c =>
      decide (1 < (d.tensorRange (d.portPart (d.ctx c).port)).2) && !(d.tensor 1).alloc && (d.tensor 0).alloc) = true := by decide +kernel
/-- The record of a code of 256 symbols of eight bits, stored in block 0 of extent 0. -/
def tRecord : List Gran := List.replicate 4 0x8888888888888888888888888888888888888888888888888888888888888888 ++
  [0x4C4254470000000000000000, 0, 0, 5012466960756595880748124138332861401420031815613014742101835907072]
/-- The CRC of a run of bytes from a state. -/
def tCrc (z : BitVec 32) (l : List Byte) : BitVec 32 := l.foldl (fun c b => Nat.repeat (crcBit 0x82F63B78) 8 (c ^^^ b.setWidth 32)) z
theorem tCrc_append (z : BitVec 32) (a b : List Byte) : tCrc z (a ++ b) = tCrc (tCrc z a) b := List.foldl_append ..
theorem test_record_bytes : (gransBytes tRecord).take 248 =
    granBytes (tRecord.getD 0 0) ++ (granBytes (tRecord.getD 1 0) ++ (granBytes (tRecord.getD 2 0) ++ (granBytes (tRecord.getD 3 0) ++
      (granBytes (tRecord.getD 4 0) ++ (granBytes (tRecord.getD 5 0) ++ (granBytes (tRecord.getD 6 0) ++
        (granBytes (tRecord.getD 7 0)).take 24)))))) := by decide +kernel
theorem test_crc_0 : tCrc 4294967295 (granBytes (tRecord.getD 0 0)) = 481857698 := by decide +kernel
theorem test_crc_1 : tCrc 481857698 (granBytes (tRecord.getD 1 0)) = 2445962853 := by decide +kernel
theorem test_crc_2 : tCrc 2445962853 (granBytes (tRecord.getD 2 0)) = 91760616 := by decide +kernel
theorem test_crc_3 : tCrc 91760616 (granBytes (tRecord.getD 3 0)) = 2483633369 := by decide +kernel
theorem test_crc_4 : tCrc 2483633369 (granBytes (tRecord.getD 4 0)) = 1364148489 := by decide +kernel
theorem test_crc_5 : tCrc 1364148489 (granBytes (tRecord.getD 5 0)) = 3300737524 := by decide +kernel
theorem test_crc_6 : tCrc 3300737524 (granBytes (tRecord.getD 6 0)) = 259213078 := by decide +kernel
theorem test_crc_7 : tCrc 259213078 ((granBytes (tRecord.getD 7 0)).take 24) = 3496435238 := by decide +kernel
theorem test_record_crc : crc32c ((gransBytes tRecord).take 248) = 798532057 := by
  show ~~~ tCrc 4294967295 _ = _
  rw [test_record_bytes, tCrc_append, tCrc_append, tCrc_append, tCrc_append, tCrc_append, tCrc_append, tCrc_append, test_crc_0,
    test_crc_1, test_crc_2, test_crc_3, test_crc_4, test_crc_5, test_crc_6, test_crc_7]
  decide
theorem wit_record : recordFault (gransBytes tRecord) = none := by
  unfold recordFault
  rw [test_record_crc]
  decide +kernel
def tStored : Dev :=
  let d := tTen {}
  let d := d.updDesc 0 fun e => { e with len := 63 }
  d.each (List.range 8) fun d i => d.memWrite 1 i (tRecord.getD i 0)
theorem wit_GradeTables_install : tStarts tStored (.ctx 0) (tE 0x14 0 0 0 0 0) (fun d c => d.tensorMine c 0 &&
      (d.tensor 0).target == some false &&
      (d.readWindow (d.ringAgent (d.ctx c).port) {} c 0 8 rR).1 == (0, tRecord)) = true := by decide +kernel
theorem wit_GradeTables_fit : tStarts (tTen {}) (.ctx 0) (tE 0x15 0 0x10000 0 0 0) (fun d c =>
      d.tensorMine c 0 && (d.tensor 0).fit.isNone) = true ∧
    tStarts (tTen {}) (.ctx 0) (tE 0x16 0 0 0 0 0) (fun d c => d.tensorMine c 0 && (d.tensor 0).recode.isNone) = true := by decide +kernel
theorem wit_GradeTables_release : tStarts (tTen {}) (.ctx 0) (tE 0x17 0 0 0 0 0) (fun d c =>
      d.tensorMine c 0 && (d.tensor 0).extents == 0 && (d.tensor 0).a.stored == 0 && (d.tensor 0).fit.isNone) = true ∧
    tStarts (tTen { extents := 1 }) (.ctx 0) (tE 0x17 0 0 0 0 0) (fun d c => d.tensorMine c 0 && (d.tensor 0).extents == 1) = true := by
  decide +kernel
theorem wit_fitGrans : fitGrans [] = List.replicate 34 0 := by decide +kernel
theorem wit_GradeTables_fitEnd : (tTen (tFit true)).serving = true ∧ ({} : Tensor).target = some false ∧
    (((tTen (tFit true)).updTensor 0 fun x => { x with fit := none, counts := [] }).writeWindow
      ((tTen (tFit true)).ringAgent 0) {} 0 0 (fitGrans []) []).1 = 0 := by
  rw [wit_fitGrans]
  decide +kernel
theorem wit_GradeTables_recode : (tTen { recode := some ⟨.ctx 0, 0, 0x1000, false, 0⟩ }).loessRuns = true ∧
    (tTen { recode := some ⟨.ctx 0, 0, 0x1000, false, 0⟩ }).recodeList 0 = [] := by decide +kernel
theorem wit_GradeTables_fetch : tD.working = true ∧ ((tTen { a := { st := .active } }).tableOf 0 false).isSome = true ∧
    ((tTen { b := { st := .retiring } }).tableOf 0 true).isSome = true := by decide +kernel

/-! Beds. -/

theorem wit_WordIssue : (tBed (some 0) none none).issues 0 = some 0 ∧ (tBed (some 0) none none).liveCores 0 ≠ [] ∧
    (({ tBed (some 0) none none with doms := [] } : Dev).issues 0 = some 0 ∧ ({ tBed (some 0) none none with doms := [] } : Dev).liveCores 0 = []) ∧
    ((tBed none none none).fetchAhead 0 0 {} 0 0).wordAt 0 0 = (none, 3) ∧ (tBed none none none).issues 0 = some 0 ∧
    ((tBed (some 0) none none).fetchAhead 0 0 {} 0 0).wordAt 0 0 = (some 0, 3) ∧
    ((tBed (some 0) none none).fetchAhead 0 0 {} 0 0).buffered 0 0 = true ∧ ((tBed none none none).fetchAhead 0 0 {} 0 0).buffered 0 0 = true := by
  decide +kernel
/-- A word of two NOPs is legal, one with opcode 0xFF in a slot is not; a load from clay compares signatures. -/
theorem wit_WordIssue_kinds : slotsOk (slotOf 0) (slotOf 0) = true ∧ tslotOk 0 = true ∧ slotsOk (slotOf (0xFF * 2 ^ 56)) (slotOf 0) = false ∧
    ((slotOf 0).badJump tCtx || (slotOf 0).badJump tCtx) = false ∧ (([slotOf 0, slotOf 0]).filterMap fun t => t.access tCtx) = [] ∧
    (slotTop (0x0C * 2 ^ 120) ≠ 0 && tCtx.pGet 0 != false) = true ∧ tslotOk (0x0C * 2 ^ 120) = true ∧
    ((tBed (some 0) none none).signatures 0 [] []).1 = true ∧
    ((tBed (some 0) none none).signatures 0 [(0, 1), (1, 1), (2, 1), (3, 1), (4, 1), (5, 1), (6, 1), (7, 1), (8, 1), (9, 1), (10, 1), (11, 1)]
      [(0, 1), (1, 1), (2, 1), (3, 1), (4, 1), (5, 1), (6, 1), (7, 1), (8, 1), (9, 1), (10, 1), (11, 1)]).1 = false := by decide +kernel

/-! Stratum staging and Loess. -/

/-- A staging command under way on an empty buffer. -/
def tStage (cmd : Nat) (adopted : Bool) : Dev := { tD with staging := some ⟨cmd, 0, [], adopted⟩ }
theorem wit_StagingCommands : tD.staging = none ∧ tD.freezes = .running ∧ (stageCheck (tD.stageGrans 1) 1 tS.sec).1 ≠ 0 ∧
    tStrat.readout.length ≤ 512 ∧ tD.strat = some tStrat ∧ (tStage 3 false).staging.isSome = true ∧
    ({ tD with freezes := .frozen } : Dev).freezes ≠ .running := by decide +kernel
theorem wit_StagingSteps : (tStage 3 false).freezes = .running ∧ (tStage 3 false).staging = some ⟨3, 0, [], false⟩ ∧
    (tStage 3 true).staging = some ⟨3, 0, [], true⟩ ∧ (tStage 2 false).staging = some ⟨2, 0, [], false⟩ ∧
    (stageCheck [] 0 tS.sec).1 ≠ 0 ∧ (tStage 2 false).strat = some tStrat := by decide +kernel

/-- A promotion of extent 0 that waits, or is at a step of engine 0. -/
def tMove (step : Nat) : Move := {
  ext := 0, kind := .promoteCmd, want := none, pin := false, cmd := none, engine := if step = 0 then none else some 0,
  src := ⟨true, 1, 0, 16⟩, dst := if step = 0 then ⟨true, 1, 0, 16⟩ else ⟨false, 0, 100, 0⟩, step := step, since := 0, journal := 0 }
def tMv (step : Nat) : Dev := { tD with moves := [tMove step] }
theorem wit_MovesBegin : (tMv 0).loessRuns = true ∧ (tMv 0).loessUp 0 = true ∧ (tMv 0).movesHeld 0 < 32 ∧ (tMove 0).step = 0 ∧
    (tMv 0).groupOf 0 = some 0 ∧ (tMv 0).turn 0 0 = true ∧ (match (tMv 0).moveDo (tMove 0) [] with
      | .go _ 0 => true
      | _ => false) = true := by decide +kernel
/-- The read of the move of extent 0 as MovesBeginAndCopy writes it, with the ceilings admitting it: is there data. -/
def tRead (d : Dev) (m : Move) (some_ : Bool) : Bool :=
  let e := d.desc 0
  let rd := addCharge [] e.set e.used
  let r := (d.charge (loessMaster 0) rd).moveRead (loessAgent 0) {} 0 m.kind.auto e.written
  d.ceilOk (loessMaster 0) (addCharge rd m.dst.set e.used) && r.1.isSome == some_ &&
    (!some_ || ((r.2.discharge (loessMaster 0) rd).moveOf 0 == some m && !r.2.setFenced m.dst.set && r.2.setDie m.dst.set == dieOfLoess 0))
/-- The granules outstanding of the engine stand at its ceiling. -/
def tMvFull : Dev := {
  tMv 1 with
  descs := [(0, { st := .moving, region := 1, set := 1, sub := true, slabs := 16, len := 63 })]
  setq := [(0, { out := [(loessMaster 0, 1000000)] }), (1, { out := [(loessMaster 0, 1000000)] })] }
theorem wit_MovesCopy_ceiling : tMvFull.moveAt 0 [1] = true ∧ tMvFull.moveOf 0 = some (tMove 1) ∧ tMvFull.setFenced 1 = false ∧
    tMvFull.ceilOk (loessMaster 0) (addCharge (addCharge [] (tMvFull.desc 0).set (tMvFull.desc 0).used) 0 (tMvFull.desc 0).used) = false := by
  decide +kernel
/-- The destination's bridge loses every granule: set 2 of the other die is where the move goes. -/
def tOver : Dev := {
  tMv 1 with
  strat := some { tStrat with sets := tStrat.sets ++ [⟨[128, 129, 130, 131], false, 1, 0, true, 0, 64, 192, List.replicate 30 30⟩] }
  moves := [{ tMove 1 with dst := ⟨false, 2, 100, 0⟩ }]
  descs := [(0, { st := .moving, region := 1, set := 1, sub := true, slabs := 16, len := 63 })] }
theorem wit_MovesCopy_lost :
    let m : Move := { tMove 1 with dst := ⟨false, 2, 100, 0⟩ }
    let e := tOver.desc 0
    let rd := addCharge [] e.set e.used
    let ph : Phys := { bridge := [(granKey 2 (e.blkAt m.dst 0), 0x101, 0x101)] }
    let r := (tOver.charge (loessMaster 0) rd).moveRead (loessAgent 0) ph 0 false e.written
    tOver.moveAt 0 [1] = true ∧ tOver.moveOf 0 = some m ∧ tOver.setDie 2 = 1 ∧
    (match r.1 with
      | none => false
      | some c => (r.2.discharge (loessMaster 0) rd).moveOf 0 == some m &&
        !((r.2.discharge (loessMaster 0) rd).placeBlocks_ (loessAgent 0) ph e m.dst c).1) = true := by decide +kernel
theorem wit_MovesCopy : (tMv 1).moveAt 0 [1] = true ∧ (tMv 1).moveOf 0 = some (tMove 1) ∧ (tMv 1).setFenced 1 = false ∧
    (tMv 1).setFenced 0 = false ∧ ({ tMv 1 with setq := [(1, { fenced := true })] } : Dev).setFenced 1 = true ∧
    tRead (tMv 1) (tMove 1) true = true := by decide +kernel
/-- An automatic move of an extent of one stored block, which is poisoned. -/
def tBad : Dev := {
  tD with
  moves := [{ tMove 1 with kind := .promoteAuto }],
  descs := [(0, { st := .moving, region := 1, set := 1, sub := true, slabs := 16, len := 63, poisoned := true })],
  poison := [(0, some ⟨2, 0, true, 1, 0, 0, 0, 0, false, 0, 0, 0, 0⟩)] }
theorem wit_MovesCopy_bad : tBad.moveAt 0 [1] = true ∧ tRead tBad { tMove 1 with kind := .promoteAuto } false = true := by decide +kernel
theorem wit_MoveCommitReleaseAbandon : (tMv 4).moveAt 0 [4] = true ∧ (tMv 4).moveLate 0 = false ∧ (tMv 4).poison = [] ∧ (tMv 5).moveAt 0 [5] = true ∧
    (tMv 3).moveAt 0 [1, 2, 3, 4] = true ∧
    ({ tMv 3 with timers := [(loessDom 0, (tMv 3).most 50000)] } : Dev).moveLate 0 = true ∧ (tMv 5).moveOf 0 = some (tMove 5) := by
  decide +kernel
/-- A long time on the timer of engine 0. -/
def tSweep : Dev := { tD with timers := [(loessDom 0, 10 ^ 12)] }
theorem wit_SweepsAndPoolDemotion : tSweep.loessRuns = true ∧ tSweep.sweeper 0 = some 0 ∧ (tSweep.sweep 0).running = false ∧
    tSweep.sweepTicks ≤ tSweep.sweepAge 0 0 ∧
    (({ tSweep with sweeps := [(15, { running := true })] } : Dev).sweep 15).running = true ∧
    tD.fld row_LSS_POOL 0 f_LSS_POOL_LOW_WM * tD.poolSize 0 ≤ tD.poolFree 0 * 1024 ∧ (tD.sweep 0).demoting = false ∧
    tD.fld row_LSS_POOL 0 f_LSS_POOL_HIGH_WM * tD.poolSize 0 ≤ tD.poolFree 0 * 1024 ∧
    f_LSS_POOL_HIGH_WM.get 0 ≤ f_LSS_POOL_LOW_WM.get 0 ∧
    f_LSS_POOL_LOW_WM.get (f_LSS_POOL_HIGH_WM.set 0 1) < f_LSS_POOL_HIGH_WM.get (f_LSS_POOL_HIGH_WM.set 0 1) := by decide +kernel
theorem wit_WindowFills : (tPlan false).loessRuns = true ∧ ((tPlan false).plan 0).fills = [(0, 0)] ∧ ((tPlan false).plan 0).filling = false ∧
    ((tPlan false).enginesOf 0)[(tPlan false).rr.get 0 0 % max 1 ((tPlan false).enginesOf 0).length]? = some 0 ∧
    ((tPlan false).plan 0).ring 0 0 = [(0, 0)] ∧ mapAt ((tPlan false).rgn 1).runs 0 = some 0 ∧ ((tPlan false).desc 0).reload = false ∧
    ((tPlan false).desc 0).codec = false := by decide +kernel
theorem wit_WindowFills_copy :
    let d := tPlan false
    let x := d.plan 0
    let c := d.fillCharge x (x.ring 0 0)
    d.enginesOf ((d.set? x.set).elim 0 (·.group)) ≠ [] ∧ d.ceilOk (loessMaster 0) (c.2.foldl (fun o c => addCharge o c.1 c.2) c.1) = true ∧
    x.slots[0]?.isSome = true ∧
    ({ d with doms := [] } : Dev).enginesOf ((d.set? x.set).elim 0 (·.group)) = [] := by decide +kernel
/-- A region that is reclaimed: no binding reaches it, no clearing waits. -/
def tGone : Dev := { tD with
  ctxs := [(0, { tCtx with binds := [] })], rgns := [(1, { st := .reclaiming, rights := 15, runs := [(0, 4)] })] }
theorem wit_ReclaimClears : tGone.clearing 1 = true ∧ tGone.clearOk 1 = true ∧
    ({ tGone with descs := [] } : Dev).clearing 1 = true ∧ ({ tGone with descs := [] } : Dev).reclaimed 1 = true := by decide +kernel
theorem wit_WindowFills_done : (tPlan true).loessRuns = true ∧ ((tPlan true).plan 0).filling = true ∧ ((tPlan true).plan 0).engine = some 0 ∧
    (tPlan true).live (loessDom 0) = true := by decide +kernel

/-- PROMOTE and DEMOTE of extents 0 to 3 by context 0. -/
theorem wit_LoessRingCommands : tStarts tD (.ctx 0) (tE 0x12 0 0 4 0 0) (fun d c =>
      extRange 0 4 && (d.xlExts (d.ringAgent (d.ctx c).port) {} c 0 4).1 == (0, [0, 1, 2, 3])) = true ∧
    tStarts tD (.ctx 0) (tE 0x13 0 0 1 0 0) (fun d c =>
      (d.xlExts (d.ringAgent (d.ctx c).port) {} c 0 1).1 == (0, [0]) && !(d.desc 0).pin) = true ∧
    tStarts ({ tD with descs := tD.descs.mapV {} fun _ e => { e with pin := true } }) (.ctx 0) (tE 0x13 0 0 1 0 0) (fun d _ => (d.desc 0).pin) = true ∧
    tStarts (tPlan true) (.ctx 0) (tE 0x11 0 1 0 0 0) (fun d c => (d.plan 0).st != .none_ && (d.plan 0).ctx == c) = true := by decide +kernel

/-- REDUCE, and MMA with a broadcast operand, of one granule of the window. -/
def tRed : BitVec 128 := BitVec.ofNat 128 (0x04 * 2 ^ 120)
def tMma : BitVec 128 := BitVec.ofNat 128 (0x01 * 2 ^ 120)
def tWin : Gran := BitVec.ofNat 256 (1 * 2 ^ 254 + 8 * 2 ^ 84)
def tOp (slot : BitVec 128) (src : Src) : TOp := { ctx := 0, pc := 0x1000, slot := slot, desc := [(1, tWin)], srcs := [(1, src)], binds := [0] }
def tPd (o : TOp) : Dev := tBed (some 0) (some o) none
/-- The blocks of the read of source 1 and what placing them leaves. -/
def tPl (d : Dev) (o : TOp) : List RdBlk × Bool × Dev :=
  let p := d.whereAll (d.bedAgent 0) {} o (o.needGrans 1 [])
  (p.2.readBlocks o 1 (p.1.filterMap fun e => match e.2.2 with
    | .at_ p g k => some (e.1, e.2.1, p, g, k)
    | _ => none), p.1 ≠ [] && p.1.all fun e => match e.2.2 with
    | .at_ .. => true
    | _ => false, p.2)
/-- May source 1 of the pending operation of bed 0 be issued, its places being places. -/
def tIssues (d : Dev) (o : TOp) : Bool :=
  let p := tPl d o
  (d.bed 0).pend == some o && !d.switchPick 0 && d.mayIssue 0 1 o && !d.mayReissue 0 1 && !o.indexed 1 && (o.src 1).todo == [] && !(o.src 1).applied &&
    p.2.1 && (p.2.2.bed 0).pend == some o
/-- Does clay have room for the read, and does its charge fit the ceilings. -/
def tRoom (d : Dev) (o : TOp) : Bool × Bool :=
  let p := tPl d o
  (p.2.2.clayRoom 0 o 1 (p.1.map (·.resv)).sum, p.2.2.ceilOk (bedMaster 0) (readCharges p.1))
theorem wit_OperandReads_issue : tIssues (tPd (tOp tRed {})) (tOp tRed {}) = true ∧ tRoom (tPd (tOp tRed {})) (tOp tRed {}) = (true, true) := by
  decide +kernel
/-- The same with the block written and the bed's granules outstanding at its ceiling. -/
def tFull : Dev := {
  (tPd (tOp tRed {})).updDesc 0 fun e => { e with len := 63 } with
  setq := [(0, { out := [(bedMaster 0, 100000)] }), (1, { out := [(bedMaster 0, 100000)] })] }
theorem wit_OperandReads_ceiling : tIssues tFull (tOp tRed {}) = true ∧ tRoom tFull (tOp tRed {}) = (true, false) := by decide +kernel
/-- The same behind an operation that has all of clay. -/
def tBusy : Dev :=
  let d := tBed (some 0) (some (tOp tRed {})) (some { tOp tMma { resv := 5000 } with started := true })
  d.updBed 0 fun y => { y with pf := true }
theorem wit_WordIssue_ceiling : ({ tFull with beds := [(0, { cur := some 0 })] } : Dev).issues 0 = some 0 ∧
    ({ tFull with beds := [(0, { cur := some 0 })] } : Dev).liveCores 0 ≠ [] ∧
    (({ tFull with beds := [(0, { cur := some 0 })] } : Dev).fetchAhead 0 0 {} 0 0).buffered 0 0 = false := by decide +kernel
theorem wit_OperandReads_room : tIssues tBusy (tOp tRed {}) = true ∧ (tRoom tBusy (tOp tRed {})).1 = false := by decide +kernel
/-- A read of block 0 of extent 0 that has been issued, with k granules reserved, answered LEN_CHANGED t times. -/
def tBlk (k t : Nat) : RdBlk := { place := .ext 0 0, bind := some 0, own := true, grans := [(0, 0)], resv := k, tries := t }
def tAp (slot : BitVec 128) (w : RdBlk) : TOp := tOp slot { issued := true, todo := [w] }
/-- Is the read of source 1 due on bed 0, of the pending operation, which has not failed. -/
def tDue (d : Dev) (o : TOp) : Bool := d.readDue 0 1 0 && !d.runReads 0 1 && (d.bed 0).pend == some o
theorem wit_OperandReads_apply : tDue (tPd (tAp tRed (tBlk 1 0))) (tAp tRed (tBlk 1 0)) = true ∧ (tAp tRed (tBlk 1 0)).status = 0 ∧
    tDue (tPd ((tAp tRed (tBlk 1 0)).fail 0x10C)) ((tAp tRed (tBlk 1 0)).fail 0x10C) = true ∧ ((tAp tRed (tBlk 1 0)).fail 0x10C).status ≠ 0 ∧
    tD.placeId (.slot 0 0 0 0) = none ∧ tD.placeId (.ext 0 0) ≠ none := by decide +kernel
/-- The same read to be issued again. -/
def tRe : TOp := tAp tRed { tBlk 1 1 with again := true }
theorem wit_OperandReads_again : (tPd tRe).readsOf 0 1 = some tRe ∧ (tPd tRe).mayReissue 0 1 = true := by decide +kernel
theorem wit_OperandReads_length : tDue (tPd (tAp tRed (tBlk 5 0))) (tAp tRed (tBlk 5 0)) = true ∧
    tDue (tPd (tAp tRed (tBlk 5 7))) (tAp tRed (tBlk 5 7)) = true ∧ tD.resvOf false (.ext 0 0) = 1 := by decide +kernel
/-- What the read takes off what is left, as OperandReads writes it. -/
def tTaken (d : Dev) : Dev := (d.discharge (bedMaster 0) (readCharges [tBlk 1 0])).updPend 0 fun o => o.updSrc 1 fun r =>
  { r with todo := [], came := true, applied := true }
theorem wit_OperandReads_lane :
    let o := tAp tRed (tBlk 1 0)
    let p := (tTaken (tPd o)).fillTag 0 0 {}
    p.1 = true ∧ o.transitRole 1 = false ∧ (((p.2.readsDone 0 [tBlk 1 0]).touch 0).laneRead ((p.2.readsDone 0 [tBlk 1 0]).bedAgent 0) {} 0 o 1 0 (tBlk 1 0)).1.isSome = true := by
  decide +kernel
/-- The block of the read is poisoned. -/
def tRot (o : TOp) : Dev := { (tPd o).updDesc 0 fun e => { e with len := 63, poisoned := true } with
  poison := [(0, some ⟨2, 0, true, 1, 0, 0, 0, 0, false, 0, 0, 0, 0⟩)] }
theorem wit_OperandReads_poison :
    let o := tAp tRed (tBlk 65 0)
    let p := (tTaken (tRot o)).fillTag 0 0 {}
    tDue (tRot o) o = true ∧ (tRot o).resvOf false (.ext 0 0) = 65 ∧ p.1 = true ∧
    (((p.2.readsDone 0 [tBlk 65 0]).touch 0).laneRead ((p.2.readsDone 0 [tBlk 65 0]).bedAgent 0) {} 0 o 1 0 (tBlk 65 0)).1 = none := by decide +kernel
theorem wit_OperandReads_transit :
    let o := tAp tMma (tBlk 1 0)
    let p := (tTaken (tPd o)).fillTag 0 0 {}
    tDue (tPd o) o = true ∧ p.1 = true ∧ o.transitRole 1 = true ∧
    (((p.2.readsDone 0 [tBlk 1 0]).touch 0).transitRead ((p.2.readsDone 0 [tBlk 1 0]).bedAgent 0) {} (.ext 0 0)).1.isSome = true := by decide +kernel
/-- The context has a clay page whose tag is another's. -/
theorem wit_OperandReads_tag :
    let d := (tPd (tAp tRed (tBlk 1 0))).updCtx 0 fun x => { x with clayPages := 1, area := some [(0, [7])] }
    tDue d (tAp tRed (tBlk 1 0)) = true ∧ ((tTaken d).fillTag 0 0 {}).1 = false := by decide +kernel
theorem wit_OperandReads_running :
    (tBed (some 0) none (some { tAp tRed (tBlk 1 0) with started := true })).readDue 0 1 0 = true ∧
    (tBed (some 0) none (some { tAp tRed (tBlk 1 0) with started := true })).runReads 0 1 = true := by decide +kernel

/-- A second context of bed 0 is ready while the first yields with an operation pending. -/
def tTwo : Dev := {
  tBed none (some (tOp tRed {})) none with
  ctxs := [(0, { tCtx with ps := .running, yield := true, area := some [] }),
    (1, { tCtx with ps := .running, slot := some 1, area := some [] })] }
theorem wit_ContextSwitch : tTwo.working = true ∧ tTwo.switchDue 0 = true ∧ tTwo.nextCtx 0 = some 1 ∧
    (tTwo.bed 0).pend.isSome = true := by decide +kernel
/-- Context 0 sleeps for 5 µs into S3, for a while. -/
def tSleep : Dev := { tD with
  ctxs := [(0, { tCtx with ps := .sleeping, sleepUs := 5, sleepRd := 3, area := some [] })]
  timers := [(commonDom 0, 10 ^ 9)] }
theorem wit_SleepTimeout : tSleep.sleepDue 0 = true ∧ (tSleep.ctx 0).st ≠ .parked ∧ (tSleep.ctx 0).parking = false ∧
    (tSleep.ctx 0).needsArea = false ∧ (tSleep.ctx 0).sleepRd ≠ 0 := by decide +kernel
/-- A pending operation of each opcode whose sources have been read. -/
def tReady (top : Nat) (st : Nat) : Dev :=
  tPd { (tOp (BitVec.ofNat 128 (top * 2 ^ 120)) { issued := true, applied := true }) with status := st }
theorem wit_TensorOperationsStart : ({ tS with dev := tReady 4 0 } : State).gated 0 = false ∧ (tReady 4 0).liveCores 0 ≠ [] ∧
    ({ tReady 4 0 with doms := [] } : Dev).liveCores 0 = [] ∧
    ∀ top : Fin 14, 1 ≤ top.val → ((tReady top.val 0).bed 0).pend.isSome = true ∧ (tReady top.val 0x10C).startable 0 top.val = true := by
  decide +kernel
theorem wit_TensorOperationsStart_ok : (tReady 4 0).startable 0 4 = true := by decide +kernel
/-- REDUCE of one element of clay that nothing wrote, running. -/
def tRun (o : TOp) : Dev := tBed (some 0) none (some o)
def tClay : TOp := {
  ctx := 0, pc := 0x1000, slot := tRed, started := true
  desc := [(0, BitVec.ofNat 256 (2 * 2 ^ 254 + 32 * 2 ^ 206 + 8 * 2 ^ 84)), (1, tWin)]
  srcs := [(1, { issued := true, applied := true, data := [(0, 1)] })] }
theorem wit_OperationResults : ((tRun tClay).operands {} 0 tClay [] [1]).1.isSome = true ∧
    (((tRun tClay).operands {} 0 tClay [] [1]).2.bed 0).run = some tClay ∧ tClay.status = 0 := by decide +kernel
def tWinOp (l : Nat) : TOp := { ctx := 0, pc := 0x1000, slot := BitVec.ofNat 128 (0x0B * 2 ^ 120 + l * 2 ^ 71), started := true }
def tWinD (l : Nat) : Dev := { tPlan false with beds := (tRun (tWinOp l)).beds, ctxs := (tRun (tWinOp l)).ctxs }
theorem wit_Win : ((tWinD 0).bed 0).run = some (tWinOp 0) ∧ (tWinOp 0).status = 0 ∧ sf (tWinOp 1).slot 88 83 = 0 ∧
    ((tWinD 0).plan 0).st = .active ∧ ((tWinD 0).plan 0).ctx = (tWinOp 0).ctx ∧ ((tWinD 0).plan 0).layers ≠ [] ∧
    sf (tWinOp 0).slot 70 69 = 0 ∧ sf (tWinOp 0).slot 82 71 = ((tWinD 0).plan 0).oldest ∧ sf (tWinOp 1).slot 82 71 ≠ ((tWinD 1).plan 0).oldest ∧
    ((tRun (tWinOp 0)).plan 0).st = .none_ ∧ ((tRun (tWinOp 0)).bed 0).run = some (tWinOp 0) := by decide +kernel
theorem wit_OperationCompletion : (tRun tClay).bedsRun = true ∧ ((tRun tClay).bed 0).run = some tClay ∧ tClay.waitRing = false ∧
    (tRun tClay).fenceOver tClay = true ∧ (tRun tClay).havocWaits tClay = false ∧ tClay.present = true ∧
    (tRun (tClay.fail 7)).havocWaits (tClay.fail 7) = false ∧ (tClay.fail 7).status ≠ 0 ∧ tClay.status = 0 ∧ slotTop tClay.slot ≠ 0x0C ∧ ((tRun tClay).ctx 0).stop = none := by decide +kernel
def tPost : TOp := { tClay with slot := BitVec.ofNat 128 (0x0D * 2 ^ 120), waitRing := true }
def tPosted : Dev := { tD with ctxs := [(0, { tCtx with post := some tPost })] }
theorem wit_OperationCompletion_post : (tRun tPost).bedsRun = true ∧ (tRun tPost).postGoes 0 = true ∧ tPosted.bedsRun = true ∧
    (tPosted.bed 0).run = none ∧ tPosted.postCtxs 0 = [0] ∧ (tPosted.ctx 0).post = some tPost ∧ tPost.ctx = 0 := by decide +kernel

/-- LAUNCH at 0x1000 of an idle context with clay; with WAKE of a sleeping one. -/
def tIdle : Dev := { tD with ctxs := [(0, { tCtx with area := some [] })] }
def tWoken : Dev := { tD with ctxs := [(0, { tCtx with area := some [], ps := .sleeping, sleepRd := 3 })] }
theorem wit_LaunchStartsAProgram_run : tStarts tIdle (.ctx 0) (tE 0x10 0 0x1000 1 2 3) (fun d c => !(tE 0x10 0 0x1000 1 2 3).wake &&
      (d.ctx c).bed == some 0 && (d.ctx c).ps == .idle && (d.ctx c).area.isSome) = true ∧
    (tE 0x10 0 0x1000 1 2 3).arg 0 = 0x1000 ∧ (tE 0x10 0 0x1000 1 2 3).opc = 0x10 := by decide +kernel
theorem wit_LaunchStartsAProgram_stopped : ∀ st ∈ [CState.orphaned, CState.draining],
    tStarts { tD with ctxs := [(0, { tCtx with st := st, area := some [] })], inflight := [{ ref := ⟨.ctx 0, 0, 0x1000, false, 0⟩, e := tE 0x10 0 0x1000 1 2 3, started := false }] } (.ctx 0) (tE 0x10 0 0x1000 1 2 3) (fun d c =>
      (d.ctx c).st == st && (d.ctx c).ps == .idle && (d.ctx c).area.isSome) = true := by decide +kernel
theorem wit_LaunchStartsAProgram_wake : (tE 0x410 0 0 7 0 0).wake = true ∧ (tE 0x410 0 0 7 0 0).opc = 0x10 ∧
    tStarts tWoken (.ctx 0) (tE 0x410 0 0 7 0 0) (fun d c => (d.ctx c).ps == .sleeping && !(d.ctx c).needsArea && (d.ctx c).sleepRd ≠ 0) = true ∧
    tStarts tIdle (.ctx 0) (tE 0x410 0 0 7 0 0) (fun d c => (d.ctx c).ps == .idle) = true := by decide +kernel

/-! Contexts, sessions, bindings, regions. -/

theorem wit_SessionCommands : tStarts tD (.port 0) (tE 0x01 0 0 200 0 0) (fun d _ => (d.host 0).isSome) = true ∧ periodOk 200 = true ∧
    tStarts { tD with hosts := [] } (.port 0) (tE 0x01 0 1 0 0 0) (fun d _ => (d.host 0).isNone) = true ∧ periodOk 0 = true ∧
    tStarts tD (.port 0) (tE 0x03 0 0 0 0 0) (fun d _ => (d.host 0).isSome) = true ∧
    tStarts tD (.port 0) (tE 0x02 0 0 0 0 0) (fun _ _ => true) = true ∧ (tD.host 0).isSome = true := by decide +kernel
theorem wit_SessionCommands_lost : ∀ late : Bool,
    let d : Dev := { tD with timers := if late then [(commonDom 0, 10 ^ 9)] else [] }
    (d.working && !d.upd.paused && d.fld row_HIF_CTL 0 f_HIF_CTL_HB_EN == 1 && d.ran (commonDom (dieOfPort 0)) 0 (3 * 100 * 1000000)) = late := by
  decide +kernel
/-- CREATE_CTX for tenant 0 with rights 15 on bed 0 with n pages. -/
def tCreate (n : Nat) : Entry := tE 0x04 0 (15 * 2 ^ 8 + 2 ^ 15 + n * 2 ^ 16) 0 0 0
theorem wit_ContextCreate : tStarts tD (.port 0) (tCreate 400) (fun _ _ => true) = true ∧ 320 < bits ((tCreate 400).arg 0) 16 9 ∧
    tStarts tD (.port 0) (tCreate 1) (fun d _ => d.tenantDenied 0 0) = true := by decide +kernel
/-- The same device where port 0 may serve tenant 0 on the beds of mask m. -/
def tAllow (m : Nat) : Dev := (tD.wr row_CTX_PORT_TEN 0 1).setFld row_CTX_TENANT 0 f_CTX_TENANT_BED_MASK m
theorem wit_ContextCreate_bed : tStarts (tAllow 0xFE) (.port 0) (tCreate 1) (fun d _ => !d.tenantDenied 0 0 && d.bedDenied 0 0 0) = true := by
  decide +kernel
theorem wit_ContextCreate_new : tStarts (tAllow 1) (.port 0) (tCreate 1) (fun d _ =>
    !d.tenantDenied 0 0 && !d.bedDenied 0 0 0 && decide ((d.owned 0).length < d.ctxSlots 0 + d.parkLimit 0) &&
      (d.freeSlot 0).isSome && ((d.portCtxs 0).find? fun k => (d.ctx k).st == .free).isSome) = true := by decide +kernel
/-- n contexts, the first four with slots, none idle for a park. -/
def tMany (n : Nat) : Dev := { tAllow 1 with ctxs := (List.range n).map fun c => (c, { tCtx with slot := if c < 4 then some c else none }) }
theorem wit_ContextCreate_wait : tStarts ((tMany 4).setFld row_CTX_CTL 0 f_CTX_CTL_AUTO_PARK 0) (.port 0) (tCreate 1) (fun d _ =>
    (d.freeSlot 0).isNone && d.fld row_CTX_CTL 0 f_CTX_CTL_AUTO_PARK == 0 && decide ((d.owned 0).length < d.ctxSlots 0 + d.parkLimit 0)) = true := by
  decide +kernel
theorem wit_ContextCreate_full : tStarts (tMany 8) (.port 0) (tCreate 1) (fun d _ =>
    !d.tenantDenied 0 0 && !d.bedDenied 0 0 0 && decide (d.ctxSlots 0 + d.parkLimit 0 ≤ (d.owned 0).length)) = true := by decide +kernel
/-- A create with CID 0 that was answered CTX_WAIT. -/
def tWait : SlotWait := ⟨0, none, some (⟨.port 0, 0, 0, false, 0⟩, tCreate 1), none, true⟩
theorem wit_Cancel : tStarts { tD with slotq := [tWait] } (.port 0) (tE 0x05 0 0 0 0 0) (fun d _ =>
      (d.slotq.find? fun w => w.port == 0 && w.told && w.create.elim false fun c => c.1.cid.toNat == 0) == some tWait) = true ∧
    tStarts tD (.port 0) (tE 0x05 0 0 0 0 0) (fun d _ => d.slotq == []) = true := by decide +kernel
theorem wit_ContextDestruction : tStarts tD (.port 0) (tE 0x06 tH 0 0 0 0) (fun d c =>
      c == 0 && (d.ctx c).st != .draining && !(d.ctx c).parking && !(d.ctx c).unparking) = true ∧
    tStarts { tD with ctxs := [(0, { tCtx with parking := true })] } (.port 0) (tE 0x06 tH 0 0 0 0) (fun d c =>
      (d.ctx c).st != .draining && (d.ctx c).parking) = true ∧
    ({ tD with ctxs := [(0, { tCtx with st := .draining, destroyers := [⟨.port 0, 0, 0, false, 0⟩] })] } : Dev).drainOver 0 = true := by
  decide +kernel
/-- A context that drains while its program still runs and a write of it is pending past the bound. -/
def tCut : Dev := { tD with
  ctxs := [(0, { tCtx with st := .draining, ps := .running })], timers := [(commonDom 0, 10 ^ 9)]
  reqs := [{ tD.newReq 0 2 ⟨1, 0x1000, 0, 1, 0, 0⟩ [0] {} with id := 0, stage := .ceiling, exts := [(0, 0, 1)], binding := [(0, 0)] }] }
theorem wit_ContextDestruction_cuts : tCut.working = true ∧ tCut.drainOver 0 = false ∧ tCut.drainCuts 0 = true := by decide +kernel
theorem wit_AssignBed : tStarts { tD with ctxs := [(0, { tCtx with ps := .running })] } (.port 0) (tE 0x07 tH (2 ^ 16) 0 0 0) (fun d c =>
      !d.bedDenied 0 0 0 && (d.ctx c).ps != .idle) = true ∧
    tStarts tD (.port 0) (tE 0x07 tH (2 ^ 16) 0 0 0) (fun d c =>
      !d.bedDenied 0 0 0 && (d.ctx c).ps == .idle && (d.bedDoms 0).all fun k => (d.dom k).st != .off) = true ∧
    tStarts tD (.port 0) (tE 0x07 tH (2 ^ 16 + 3) 0 0 0) (fun d _ => d.bedDenied 0 0 3) = true := by decide +kernel
theorem wit_RingSet : tStarts tD (.port 0) (tE 0x08 tH 0x20000 0x30000 0x44 0) (fun d c => (d.cmdsOf c) == [] &&
      d.within c 0x20000 (64 * 2 ^ 4) rR && d.within c 0x30000 (64 * 2 ^ 4) rW && (d.ctx c).ring.isSet && (d.ctx c).ring.sqHead == (d.ctx c).ring.sqTail) = true ∧
    tStarts tD (.port 0) (tE 0x08 tH 0x20000 0x30000 0x43 0) (fun _ _ => true) = true ∧
    tStarts tD (.port 0) (tE 0x08 tH (2 ^ 40) 0x30000 0x44 0) (fun d c => !d.within c (2 ^ 40) (64 * 2 ^ 4) rR) = true := by decide +kernel
theorem wit_QueryPark : tStarts tD (.port 0) (tE 0x0A tH 0 0 0 0) (fun _ _ => true) = true ∧
    tStarts tD (.port 0) (tE 0x0A 0 1 0 0 0) (fun d _ => ((d.owned 0).filter fun k => 0 ≤ k).all fun k => decide (d.handle k < 2 ^ 32)) = true ∧
    tStarts tD (.port 0) (tE 0x09 tH 0 0 0 0) (fun d c => (d.ctx c).st == .active && (d.ctx c).parkCmds == []) = true ∧
    tStarts { tD with ctxs := [(0, { tCtx with st := .parked, slot := none })] } (.port 0) (tE 0x09 tH 0 0 0 0) (fun d c => (d.ctx c).st == .parked) = true ∧
    tStarts { tD with ctxs := [(0, { tCtx with st := .orphaned })] } (.fm) (tE 0x06 tH 0 0 0 0) (fun d c => (d.ctx c).st == .orphaned) = true := by
  decide +kernel
theorem wit_ParkEnds : tD.serving = true ∧ ({ tD with ctxs := [(0, { tCtx with parking := true })] } : Dev).ctx 0 = { tCtx with parking := true } ∧
    tD.reqs = [] ∧ tD.waiters = [] ∧ tD.slotq = [] ∧
    ({ tD with ctxs := [(0, { tCtx with st := .parked, unparking := true })] } : Dev).ctx 0 = { tCtx with st := .parked, unparking := true } := by
  decide +kernel

/-- A request that has waited in the park queue past 1 ms. -/
theorem wit_ParkQueueTimeout : ({ tD with timers := [(commonDom 0, 10 ^ 9)] } : Dev).ran (commonDom (dieOfPort 0)) 0 1000000 = true ∧
    ({ tD.newReq 0 1 ⟨1, 0x1000, 0, 1, 0, 0⟩ [] {} with stage := .parkQ } : Req).common = 0 ∧ tD.working = true := by decide +kernel
/-- BIND of index 1 of context 0: region g, rights r, n extents at window extent w. -/
def tBind (ctx g r n w : Nat) : Entry :=
  let v := g * 2 ^ 92 + r * 2 ^ 60 + n * 2 ^ 32 + w
  tE 0x20 ctx 1 (v % 2 ^ 64) (v / 2 ^ 64) 0
/-- The conditions of BIND on entry 1 of context c, without its rights. -/
def tBindOk (d : Dev) (c : Nat) (e : Entry) : Bool :=
  let v := e.arg 1 + e.arg 2 * 2 ^ 64
  let b : Binding := {
    region := bits v 92 14, roff := bits v 64 28, rights := BitVec.ofNat 4 (bits v 60 4), len := bits v 32 28, wbase := bits v 0 32 }
  (d.ctx c).st == .active && ((d.ctx c).binds.get 1 {}).len == 0 && (d.rgn b.region).st == .active && d.bindRange c 1 b && (match (d.ctx c).bed with
    | some n => d.bedPart n
    | none => d.portPart (d.ctx c).port) == (d.rgn b.region).part
theorem wit_Bind : tStarts tD .fm (tBind tH 1 15 1 8) (fun d c => tBindOk d c (tBind tH 1 15 1 8)) = true ∧
    tStarts tD .fm (tBind tH 2 15 1 8) (fun d _ => (d.rgn 2).st != .active) = true ∧
    tStarts { tD with rgns := [(1, { st := .active, rights := 1, runs := [(0, 4)] })] } .fm (tBind tH 1 15 1 8) (fun d c => tBindOk d c (tBind tH 1 15 1 8)) = true ∧
    tStarts { tD with rgns := [(1, { st := .active, rights := 15, tenant := 1, runs := [(0, 4)] })] } .fm (tBind tH 1 15 1 8) (fun d c => tBindOk d c (tBind tH 1 15 1 8)) = true ∧
    tStarts { tD with rgns := [(1, { st := .active, rights := 15, part := 1, runs := [(0, 4)] })] } .fm (tBind tH 1 15 1 8) (fun d c => !tBindOk d c (tBind tH 1 15 1 8)) = true ∧
    tStarts tD .fm (tBind tH 1 15 9 8) (fun d c => !tBindOk d c (tBind tH 1 15 9 8)) = true ∧ bits ((tBind tH 1 15 1 8).arg 1 + (tBind tH 1 15 1 8).arg 2 * 2 ^ 64) 108 20 = 0 := by
  decide +kernel
theorem wit_Unbind : tStarts tD .fm (tE 0x21 tH 0 0 0 0) (fun d c => ((d.ctx c).binds.get 0 {}).len != 0 && (d.ctx c).st == .active) = true ∧
    tStarts tD .fm (tE 0x21 tH 9 0 0 0) (fun d c => ((d.ctx c).binds.get 9 {}).len == 0) = true ∧
    ({ tD with ctxs := [(0, { tCtx with binds := [(0, { len := 4, draining := true })] })] } : Dev).throughBind 0 0 = [] ∧
    ({ tD with ctxs := [(0, { tCtx with binds := [(0, { len := 4, draining := true })] })] } : Dev).opThrough 0 0 = false ∧
    0 + tCut.most 100000 ≤ tCut.lived (commonDom 0) ∧ tCut.throughBind 0 0 ≠ [] := by decide +kernel
/-- REGION_CREATE of one extent in subsoil of partition 0, of tenant 0. -/
def tReg : Entry := tE 0x22 0 (15 * 2 ^ 8) 1 0 0
theorem wit_RegionCreate : tStarts tD .fm tReg (fun d _ => d.groupExists 0 && (d.rgn 0).st == .free && match d.takeIds 0 1 with
      | none => false
      | some ids => (d.enter 0 0 false (mapList ids)).isSome && decide (d.runsUsed + (joinRuns ids).length ≤ runCap)) = true ∧
    tStarts tD .fm (tE 0x22 0 0 (2 ^ 27) 0 0) (fun d _ => d.groupExists 0 && (d.takeIds 0 (2 ^ 27)).isNone) = true := by decide +kernel
theorem wit_RegionGrow : tStarts tD .fm (tE 0x23 0 1 1 0 0) (fun d _ => d.groupExists 0 && (d.rgn 1).st == .active && (d.rgn 1).part == 0 &&
      decide ((d.rgn 1).count + 1 ≤ 2 ^ 28 - 1) && match d.takeIds 0 1 with
      | none => false
      | some ids => (d.enter 1 0 false (mapList ids)).isSome &&
        decide (d.runsUsed - (d.rgn 1).runs.length + (joinRuns ((d.rgn 1).runs ++ ids)).length ≤ runCap)) = true ∧
    tStarts tD .fm (tE 0x23 0 9 1 0 0) (fun d _ => (d.rgn 9).st != .active) = true ∧
    tStarts { tD with rgns := [(1, { st := .active, part := 1 })] } .fm (tE 0x23 0 1 1 0 0) (fun d _ =>
      (d.rgn 1).st == .active && 0 != (d.rgn 1).part) = true := by decide +kernel
/-- The same device with no binding. -/
def tFree : Dev := { tD with ctxs := [(0, { tCtx with binds := [] })] }
theorem wit_RegionTrim : tStarts tFree .fm (tE 0x24 0 1 1 0 0) (fun d _ => (d.rgn 1).st == .active && decide (1 < (d.rgn 1).count) &&
      !d.boundAbove 1 ((d.rgn 1).count - 1) && (mapList (cutRuns (d.rgn 1).runs ((d.rgn 1).count - 1)).2).all fun x => !(d.desc x).ro) = true ∧
    tStarts tD .fm (tE 0x24 0 1 1 0 0) (fun d _ => (d.rgn 1).st == .active && d.boundAbove 1 ((d.rgn 1).count - 1)) = true ∧
    tStarts tD .fm (tE 0x24 0 1 4 0 0) (fun d _ => decide ((d.rgn 1).count ≤ 4)) = true := by decide +kernel
theorem wit_RegionReclaimSet : tStarts tD .fm (tE 0x25 0 1 0 0 0) (fun d _ => (d.rgn 1).st == .active) = true ∧
    tStarts tD .fm (tE 0x25 0 9 0 0 0) (fun d _ => (d.rgn 9).st != .active) = true ∧
    tStarts tFree .fm (tE 0x26 0 (1 + 3 * 2 ^ 16) 0 0 0) (fun d _ => (d.rgn 1).st == .active && d.ctxs.all fun x => x.2.binds == []) = true ∧
    tStarts tD .fm (tE 0x26 0 (1 + 3 * 2 ^ 16) 0 0 0) (fun d _ => d.ctxs.any fun x => x.2.binds.any fun b => b.2.region == 1 &&
      b.2.len != 0 && b.2.rights &&& ~~~ (3 : BitVec 4) != 0) = true := by decide +kernel
theorem wit_RetireAndFmDetach : (tD.retireUnits (tE 0x27 0 0 0 0 0)).isSome = true ∧
    tStarts tD .fm (tE 0x27 0 0 0 0 0) (fun d _ => (d.retireUnits (tE 0x27 0 0 0 0 0)).isSome) = true ∧
    tStarts tD .fm (tE 0x27 0 0 (2 ^ 44 - 1) 0 0) (fun d _ => (d.retireUnits (tE 0x27 0 0 (2 ^ 44 - 1) 0 0)).isNone) = true ∧
    tStarts tD .fm (tE 0x28 0 0 0 0 0) (fun d _ => d.fm.isSome) = true := by decide +kernel

/-! Signed objects: the verifications are opaque, so what they accept is a hypothesis. -/

/-- n zero bytes, and the first 64 bytes of a FIRMWARE object of the maker with no payload. -/
def tZ (n : Nat) : List Byte := List.replicate n 0
def tHead : List Byte := [0x53, 0x51, 0x53, 0x4F, 1, 0, 1, 0] ++ tZ 56
def tObj : Obj := tHead ++ (sha3Bytes [] ++ tZ 3520)
theorem tZ_length (n : Nat) : (tZ n).length = n := List.length_replicate
theorem tZ_all (k a n : Nat) : (slice (tZ k) a n).all (· = 0) = true := by
  rw [slice, tZ, List.drop_replicate, List.take_replicate]; simp
theorem tZ_drop (k a : Nat) : ((tZ k).drop a).all (· = 0) = true := by
  rw [tZ, List.drop_replicate]; simp
theorem tHead_length : tHead.length = 64 := by decide +kernel
theorem sha3Bytes_length (l : List Byte) : (sha3Bytes l).length = 64 := by rw [sha3Bytes, natBytes, List.length_map, List.length_range]
theorem tObj_length : tObj.length = 3648 := by
  rw [tObj, List.length_append, List.length_append, tHead_length, sha3Bytes_length, tZ_length]
theorem tObj_slice (a n : Nat) (h : a + n ≤ 64) : slice tObj a n = slice tHead a n := by
  unfold slice
  rw [tObj, List.drop_append_of_le_length (by rw [tHead_length]; omega),
    List.take_append_of_le_length (by rw [List.length_drop, tHead_length]; omega)]
theorem tObj_tail (a n : Nat) (h : 128 ≤ a) : slice tObj a n = slice (tZ 3520) (a - 128) n := by
  unfold slice
  rw [tObj, List.drop_append, List.drop_append, List.drop_eq_nil_of_le (by rw [tHead_length]; omega),
    List.drop_eq_nil_of_le (by rw [tHead_length, sha3Bytes_length]; omega), List.nil_append, List.nil_append, tHead_length,
    sha3Bytes_length, Nat.sub_sub]
theorem tObj_digest : slice tObj 64 64 = sha3Bytes [] := by
  unfold slice
  rw [tObj, List.drop_append_of_le_length (by rw [tHead_length]), List.drop_eq_nil_of_le (by rw [tHead_length]), List.nil_append,
    List.take_append_of_le_length (by rw [sha3Bytes_length]), List.take_of_length_le (by rw [sha3Bytes_length])]
theorem tObj_num (a n : Nat) (h : a + n ≤ 64) : tObj.num a n = leNat (slice tHead a n) := by rw [Obj.num, tObj_slice a n h]
theorem tObj_payLen : tObj.payLen = 0 := by rw [Obj.payLen, tObj_num _ _ (by omega)]; decide +kernel
theorem tObj_signer : tObj.signer = 0 := by rw [Obj.signer, tObj_num _ _ (by omega)]; decide +kernel
theorem tObj_headerOk : tObj.headerOk 1 [0] = true := by
  have hp : tObj.payload = [] := by rw [Obj.payload, tObj_payLen]; rfl
  have hg : (tObj.sig.drop 3373).all (· = 0) = true := by
    rw [Obj.sig, tObj_payLen, tObj_tail _ _ (by omega), slice, tZ, List.drop_replicate, List.take_replicate]
    exact tZ_drop _ _
  unfold Obj.headerOk
  rw [tObj_num _ _ (by omega), tObj_num _ _ (by omega), Obj.type, tObj_num _ _ (by omega), tObj_signer, tObj_payLen, tObj_length, Obj.size,
    tObj_payLen, tObj_digest, List.all_append, tObj_slice _ _ (by omega), tObj_tail _ _ (by omega), hp, hg, tZ_all]
  simp only [beq_self_eq_true, Bool.and_true, Bool.true_or]
  decide +kernel
theorem tObj_verifies (x : Sec) (hf : x.svnFuse = 0) (he : ∀ k m g, Config.ed25519Verify k m g = true)
    (hm : ∀ k m g, Config.mldsaVerify k m g = true) : x.verify tObj 1 [0] = 0 := by
  have h2 : tObj.bindOk 1 = true := by rw [Obj.bindOk, Obj.bind_, tObj_tail _ _ (by omega), tZ_all]; simp
  have h4 : tObj.svn = 0 := by rw [Obj.svn, tObj_num _ _ (by omega)]; decide +kernel
  unfold Sec.verify Sec.verifyBy Sec.signerKey
  rw [tObj_signer, tObj_headerOk, h2, h4, hf]
  simp only [he, hm, if_true]
  rfl
/-- The device with that object in slot A or B of its flash. -/
def tFw (d : Dev) (b : Bool) : Dev := d.flashPut (flashSlot b) tObj
theorem tFw_get (d : Dev) (b : Bool) (n : Nat) (hn : n ≤ 3648) : (tFw d b).flashGet (flashSlot b) n = tObj.take n := by
  apply List.ext_getElem
  · rw [Dev.flashGet.eq_def, List.length_map, List.length_range, List.length_take, tObj_length]; omega
  · intro i h1 h2
    have hi : i < n := by simpa only [Dev.flashGet.eq_def, List.length_map, List.length_range] using h1
    have hl : i < tObj.length := by rw [tObj_length]; omega
    simp only [Dev.flashGet.eq_def, List.getElem_map, List.getElem_range, List.getElem_take]
    rw [tFw, Dev.flashPut_get, if_pos (by omega), Nat.add_sub_cancel_left, List.getD_eq_getElem _ _ hl]
theorem tFw_obj (d : Dev) (b : Bool) : (tFw d b).fwObj b = tObj := by
  have hn : ∀ a n, a + n ≤ 64 → Obj.num (tObj.take 256) a n = tObj.num a n := by
    intro a n h
    unfold Obj.num slice
    rw [List.drop_take, List.take_take, Nat.min_eq_left (by omega)]
  have h1 : Obj.num (tObj.take 256) 0 4 = 0x4F535153 := by rw [hn _ _ (by omega), tObj_num _ _ (by omega)]; decide +kernel
  have h2 : Obj.size (tObj.take 256) = 3648 := by
    rw [Obj.size, Obj.payLen, hn _ _ (by omega), ← Obj.payLen, tObj_payLen]
  rw [Dev.fwObj, Dev.flashObj, tFw_get _ _ 256 (by omega)]
  simp only [h1, h2, if_true, show min 3648 0x1000000 = 3648 from rfl]
  rw [tFw_get _ _ 3648 (by omega), List.take_of_length_le (by rw [tObj_length])]
theorem wit_PowerUpAndBoot_boots (he : ∀ k m g, Config.ed25519Verify k m g = true) (hm : ∀ k m g, Config.mldsaVerify k m g = true) :
    ({} : Sec).verify ((tFw { step := .reset } false).fwObj false) 1 [0] = 0 := by
  rw [tFw_obj]
  exact tObj_verifies _ rfl he hm

/-! Update. -/

theorem wit_UpdateStaging : stageArgs (tE 0x29 0 1 1 0 32) = true ∧ stageArgs (tE 0x29 0 0 1 0 32) = false ∧ stageArgs (tE 0x29 0 4 1 0 32) = true ∧
    tStarts tD .fm (tE 0x29 0 1 1 0 32) (fun d _ => !d.upd.busy && (d.rgn 1).st == .active && (d.regionExts 1 0 1).isSome &&
      match d.regionExts 1 0 1 with
      | none => false
      | some xs => (d.extsRead {} xs).1.isSome) = true ∧
    tStarts tD .fm (tE 0x29 0 1 9 0 32) (fun d _ => !d.upd.busy && (d.rgn 9).st != .active) = true ∧
    tStarts tD .fm (tE 0x29 0 1 1 4 32) (fun d _ => (d.regionExts 1 4 1).isNone) = true ∧
    tStarts { tD with upd := { st := .staging, cmd := some ⟨.fm, 0, 0, false, 0⟩ } } .fm (tE 0x29 0 1 1 0 32) (fun d _ => d.upd.busy) = true ∧
    tS.sec.verify (gransBytes [0]) 1 [0] ≠ 0 := by decide +kernel
/-- A readout into a region of which an extent moves waits. -/
theorem wit_UpdateStaging_waits : ({ tS with dev := { tD with descs := [(0, { st := .moving, region := 1, set := 1, sub := true, slabs := 16 })] } } : State).stageWaits
      (tE 0x29 0 17 1 0 32) = true ∧ tS.stageWaits (tE 0x29 0 1 1 0 32) = false := by decide +kernel
theorem wit_UpdateStaging_end : ({ tD with upd := { st := .staging, cmd := some ⟨.fm, 0, 0, false, 0⟩ } } : Dev).serving = true := by decide
/-- UPDATE_ACTIVATE with the window the text gives by default. -/
def tAct : Entry := tE 0x2A 0 0 0 0 0
theorem wit_UpdateActivation : tStarts tD .fm tAct (fun d _ => d.staging.isNone && !d.upd.busy && d.marlUp == 3) = true ∧ tAct.arg 1 = 0 ∧
    (tE 0x2A 0 0 50 0 0).arg 1 = 50 ∧ tStarts tD .fm (tE 0x2A 0 0 50 0 0) (fun _ _ => true) = true ∧ tS.sec.stagedV = false ∧
    tStarts { tD with marlUp := 1 } .fm tAct (fun d _ => d.marlUp != 3) = true ∧ tS.pwr.causes = [] := by decide +kernel
theorem wit_UpdateActivation_hand (fl : List Host.Cell) : ∃ d0, ({ tD with flash := fl } : Dev).starts .fm tAct = some d0 ∧ d0.flash = fl :=
  ⟨_, rfl, rfl⟩
theorem wit_UpdateActivation_obj : ((tFw tD true).fwObj true).handoffMin = 0 ∧ ((tFw tD true).fwObj true).handoffMax = 0 ∧ tS.sec.handoffOut = 0 := by
  rw [tFw_obj]
  exact ⟨(tObj_num 14 2 (by omega)).trans (by decide +kernel), (tObj_num 16 2 (by omega)).trans (by decide +kernel), rfl⟩
/-- An activation under way. -/
def tUpd (st : UpdSt) (now : Nat) : Dev := {
  tD with upd := { st := st, cmd := some ⟨.fm, 0, 0, false, 0⟩, window := 100 }, timers := [(commonDom 0, now)] }
theorem wit_UpdateActivation_pause : (tUpd .staged 0).serving = true ∧ (tUpd .staged 0).upd.waits = true ∧ tS.pwr.causes = [] ∧
    tS.sec.verify ((tUpd .staged 0).fwObj (!tS.sec.slotB)) 1 [0] ≠ 0 ∧ (tUpd .activating 0).working = true ∧ (tUpd .staged 0).windowOver = false ∧ (tUpd .activating 0).handoffLate = false ∧
    (tUpd .activating (10 ^ 9)).upd.since + (tUpd .activating (10 ^ 9)).most 4000000 ≤ (tUpd .activating (10 ^ 9)).lived (commonDom 0) ∧
    (tUpd .deferred (10 ^ 9)).ran (commonDom 0) 0 (100 * 1000000) = true := by decide +kernel
theorem wit_UpdateActivation_accepted (he : ∀ k m g, Config.ed25519Verify k m g = true) (hm : ∀ k m g, Config.mldsaVerify k m g = true) :
    tS.sec.verify ((tFw (tUpd .staged 0) true).fwObj (!tS.sec.slotB)) 1 [0] = 0 := by
  show tS.sec.verify ((tFw (tUpd .staged 0) true).fwObj true) 1 [0] = 0
  rw [tFw_obj]
  exact tObj_verifies _ rfl he hm

/-! The link. -/

/-- A request header for context 0 at byte address a. -/
def tHdr (a n : Nat) : ReqHdr := ⟨1, 0x1000, BitVec.ofNat 48 a, BitVec.ofNat 12 n, 0, 0⟩
/-- A request of that header held by port 0. -/
def tReq (ty : Nat) (data : List Gran) : Req := { tD.newReq 0 ty (tHdr 0 1) data {} with id := 0 }
def tWith (x : Ctx) (r : Req) : Dev := { tD with ctxs := [(0, x)], reqs := [r] }
theorem wit_MemoryRequestsArrive : (tD.port 0).st = .active ∧ ({ tD with ports := [] } : Dev).ports = [] ∧ (({ tD with ports := [] } : Dev).port 0).st ≠ .active ∧
    headOk 1 (tHdr 0 1) [] = true ∧ headOk 2 (tHdr 0 1) [0] = true ∧ headOk 3 (tHdr 0 1) [1, 0] = true ∧ headOk 4 (tHdr 0 1) [1] = true ∧
    headOk 5 (tHdr 0 1) [0] = true ∧ headOk 1 (tHdr 0 0) [] = false ∧ (([] : List Gran).length = dataLen 1 1) ∧ ([0, 0] : List Gran).length = dataLen 3 1 ∧
    (tReq 1 []).port = 0 ∧ (tReq 1 []).h.tag = (tHdr 0 1).tag ∧ tD.reqs = [] := by decide +kernel
theorem wit_Admission : (tWith tCtx (tReq 1 [])).reqOf 0 = some (tReq 1 []) ∧ (tWith tCtx (tReq 1 [])).state ≠ .failed ∧ (tReq 1 []).h.ctx ≠ 0 ∧
    (tWith { tCtx with gen := 2 } (tReq 1 [])).ctxOf (some 0) 0x1000 = none ∧ (tWith tCtx (tReq 1 [])).ctxOf (some 0) 0x1000 = some 0 ∧
    (tWith { tCtx with st := .draining } (tReq 1 [])).ctxOf (some 0) 0x1000 = some 0 ∧
    (tWith { tCtx with st := .orphaned } (tReq 2 [0])).ctxOf (some 0) 0x1000 = some 0 ∧
    ({ tWith { tCtx with st := .parked, slot := none } (tReq 1 []) with reqs := (List.range 65).map fun i =>
      { tReq 1 [] with id := i, stage := if i = 0 then .held else .parkQ } } : Dev).ctxOf (some 0) 0x1000 = some 0 ∧
    64 ≤ ({ tWith { tCtx with st := .parked, slot := none } (tReq 1 []) with reqs := (List.range 65).map fun i =>
      { tReq 1 [] with id := i, stage := if i = 0 then .held else .parkQ } } : Dev).parkUsed 0 := by decide +kernel
/-- An ATOM that adds 1 to word 0 of the first granule of the window. -/
def tAtom : Req := { tReq 4 [1] with exts := [(0, 0, 1)] }
theorem wit_AtomOnCodec : (tAtom).ty = 4 ∧ badRange tAtom.h.addr.toNat tAtom.h.length.toNat = false ∧
    (let y := ((tD.updDesc 0 fun e => { e with codec := true }).stamp 0).xlParts (portAgent 0) {} 0 (rR + rW) true (splitRange 0 1)
     y.1.1 = 0 ∧ y.1.2.1 = [(0, 0, 1)] ∧ (y.2.desc 0).codec = true) := by decide +kernel
/-- The same device where block 0 of extent 0 stands as written. -/
def tWritten : Dev := tD.updDesc 0 fun e => { e with len := 63 }
/-- A request of that type that has come to block 0 of extent 0. -/
def tGoes (ty : Nat) (data : List Gran) : Req := { tReq ty data with exts := [(0, 0, 1)] }
theorem wit_RequestsAtTheHome : (tGoes 1 []).compressed = false ∧ (tWritten.partRead (portAgent 0) {} [(0, 0, 1)]).1 = some [0] ∧
    (tWritten.partWrite (portAgent 0) {} [5] [] [(0, 0, 1)]).1 = 0 ∧
    (tWritten.partWrite (portAgent 0) {} [5] (wrpMasks 0xFF 1) [(0, 0, 1)]).1 = 0 := by decide +kernel
/-- The home of extent 0 and the key of its first granule. -/
def tHome (d : Dev) : Agent := d.atHome (portAgent 0) 0
def tKey (d : Dev) : Nat := granKey (d.desc 0).set (d.desc 0).home.start
/-- An ATOM goes through; set 1 on the other die, its operand or its answer is lost on the bridge. -/
def tFar : Dev := { tWritten with strat := some { tStrat with sets := [tStrat.sets.getD 0 ⟨[], false, 0, 0, false, 0, 0, 0, []⟩,
  ⟨[18, 19, 20, 21], true, 1, 0, true, 0, 64, 192, List.replicate 30 30⟩] } }
theorem wit_RequestsAtTheHome_atom : tAtom.ty = 4 ∧ (match tWritten.cross {} (tKey tWritten) 0 (tHome tWritten).die 1 with
      | (none, _) => false
      | (some _, d1) => match d1.partRead (tHome tWritten) {} [(0, 0, 1)] with
        | (some [g], d2) => (d2.partWrite (tHome tWritten) {} [granSetWord g 0 1] [] [(0, 0, 1)]).1 == 0
        | _ => false) = true ∧
    (tFar.cross { bridge := [(tKey tFar, 0x101, 0x101)] } (tKey tFar) 0 (tHome tFar).die 1).1 = none ∧
    (tFar.cross {} (tKey tFar) 0 (tHome tFar).die 1).1 = some 1 := by decide +kernel
theorem wit_RequestsAtTheHome_failures :
    (({ tWritten with setq := [(1, { fenced := true })] } : Dev).partRead (portAgent 0) {} [(0, 0, 1)]).1 = none ∧
    (({ tWritten with setq := [(1, { fenced := true })] } : Dev).partWrite (portAgent 0) {} [5] [] [(0, 0, 1)]).1 ≠ 0 := by
  decide +kernel
/-- Regions 1 and 2 of two extents each, bound at 0 and at 8 by context 0. -/
def tPub : Dev := { tD with
  ctxs := [(0, { tCtx with binds := [(0, { region := 1, rights := 15, len := 2 }), (1, { region := 2, rights := 15, len := 2, wbase := 8 })] })]
  rgns := [(1, { st := .active, rights := 15, runs := [(0, 2)] }), (2, { st := .active, rights := 15, runs := [(2, 2)] })]
  descs := (List.range 4).map fun x => (x, { st := .stable, region := 1 + x / 2, set := 1, sub := true, loc := 16 * x, slabs := 16 }) }
theorem wit_Publish : 0 / 65536 + 1 ≤ 0 + 2 ∧ 8 * 65536 / 65536 + 1 ≤ 8 + 2 ∧ (tPub.rgn 1).part = (tPub.rgn 2).part ∧ (tPub.rgn 1).st = .active ∧
    (tPub.rgn 2).st = .active ∧ tPub.plans = [] ∧ (tPub.desc 0).ro = false ∧ (tPub.desc 2).ro = false ∧
    (tPub.rgn 1).epoch = granWord (0 : Gran) 1 ∧ (tPub.rgn 1).epoch ≠ granWord (2 ^ 64 : Gran) 1 ∧ tPub.runsUsed + 2 * (1 + 1) + 4 ≤ runCap := by
  decide +kernel
/-- A PUB of extent 0 of region 1 against extent 0 of region 2 exchanges them (R245). -/
theorem test_pub : let d := tPub.pubGo (tReq 5 [0]) 0 0 (8 * 65536) 1 0 1
    mapList (d.rgn 1).runs = [2, 1] ∧ mapList (d.rgn 2).runs = [0, 3] ∧ (d.rgn 1).epoch = 1 ∧ (d.desc 0).region = 2 ∧ (d.desc 2).region = 1 := by
  decide +kernel
/-- A request that has ended with BAD_CTX, on a port whose far end has advertised response credits. -/
def tEnded : Req := { tReq 1 [] with stage := .ready, status := 9 }
def tReply : Dev := { tD with reqs := [tEnded], ports := [(0, { st := .active, farRsp := 16 })] }
theorem wit_CompletionSend : tReply.reqOf 0 = some tEnded ∧ tReply.cplReady tEnded = true ∧ tEnded.port = 0 ∧ tEnded.status ≠ 0 := by decide +kernel
/-- CFG of register a: flag bit 5 is a write. -/
def tCfg (a : Nat) (w : Bool) : ReqHdr := ⟨2, 0, BitVec.ofNat 48 a, 1, 0, if w then 32 else 0⟩
theorem wit_Cfg : headOk 8 (tCfg 0 false) [0] = true ∧ headOk 8 (tCfg 0 true) [7] = true ∧ tD.fmOn 0 = true ∧ (rowOf 0).isSome = true ∧
    rowOf 4 = none ∧ tD.fmOn 1 = false ∧ headOk 8 (tCfg 4 false) [0] = true := by decide +kernel
/-- The port ring of port 0 with 64 entries each way, and context 0's. -/
def tDb : Dev := { tD with portRing := [(0, { sqLog := 6, cqLog := 6 })] }
theorem wit_Doorbells : tDb.portHost 0 = true ∧ tDb.evqPresent 0 = true ∧ (tDb.ring (.port 0)).faulted = false ∧ 5 < 2 ^ (tDb.ring (.port 0)).sqLog ∧
    5 < 2 ^ (tDb.ring (.port 0)).cqLog ∧ (tDb.ring (.port 0)).waiting = [] ∧ (tDb.ring (.port 0)).cqUsed ≠ 2 ^ (tDb.ring (.port 0)).cqLog ∧
    (tDb.evq.get 0 {}).used ≠ 256 ∧ tDb.ctxOf (some 0) 0x1000 = some 0 ∧ (tDb.ctx 0).st = .active ∧ (tDb.ctx 0).ring.isSet = true ∧
    bits (0x10000005 : BitVec 32).toNat 28 4 = 1 ∧ bits (0x20000005 : BitVec 32).toNat 28 4 = 2 ∧ bits (0x30000005 : BitVec 32).toNat 28 4 = 3 ∧
    bits (0x10000005 : BitVec 32).toNat 12 15 = 0 ∧ bitOf (0x10000005 : BitVec 32).toNat 27 = false ∧ bits (0x10001005 : BitVec 32).toNat 12 15 ≠ 0 := by
  decide +kernel
theorem wit_FmAttachment : tD.portFm 0 = true ∧ (tD.port 0).presents = true ∧ tD.attaches = true ∧ tD.msgs = [] ∧
    ({ tD with takeover := some 1 } : Dev).attaches = false ∧ helloZeros (tZ 5376) = true ∧ (tZ 5376).length = 32 * 168 ∧
    ({ tD with strat := some { tStrat with ports := [] } } : Dev).portFm 0 = false ∧ tD.lockout.get 0 none = none ∧
    tS.sec.endorsed (tZ 5376) = false := by decide +kernel
/-- An owner key set in slot 0, the digests of which the verifications take. -/
def tOwner : Sec := { enrolled := 1, keyOk := 1 }
theorem wit_FmAttachment_endorsed (he : ∀ k m g, Config.ed25519Verify k m g = true) (hm : ∀ k m g, Config.mldsaVerify k m g = true) :
    tOwner.endorsed (tZ 5376) = true := by
  have h : tOwner.slotKey ((tZ 5376).getD 1984 0).toNat = some [] := by decide +kernel
  unfold Sec.endorsed pairOk
  rw [h]
  simp only [he, hm, Bool.and_self]
theorem wit_FmAttachment_proof : (tZ 3392).length = 32 * 106 ∧ ((tZ 3392).drop 3373).all (· == 0) = true ∧
    (({ tD with challenge := [(0, some ⟨[], [], 0⟩)], timers := [(portDom 0, 10 ^ 10)] } : Dev).challenge.get 0 none) = some ⟨[], [], 0⟩ ∧
    ({ tD with challenge := [(0, some ⟨[], [], 0⟩)], timers := [(portDom 0, 10 ^ 10)] } : Dev).atLeast (portDom 0) 0 1000000000 = true ∧
    (({ tD with lockout := [(0, some 0)] } : Dev).lockout.get 0 none) = some 0 := by decide +kernel
/-- A DATA flit of SEQ 1, ACK 0 and no credits, its slots empty, with a CRC. -/
def tFlit (crc : Nat) : Flit := {
  hdr := BitVec.ofNat 256 (1 * 2 ^ 248 + 1 * 2 ^ 236 + 0xDB6DB6 * 2 ^ 144 + crc), slots := List.replicate 8 0 }
/-- Port 0 with one flit not acknowledged. -/
def tSent (n : Nat) (c : Option (BitVec 16)) : Dev := {
  tD with ports := [(0, { st := .active, rspSent := 9, rspFreed := n, unacked := [⟨1, []⟩], cwCount := c, rxSeq := 1 })], timers := [(portDom 0, 10 ^ 5)] }
theorem test_flit_body : flitBody (tFlit 3353115825) = (granBytes (tFlit 3353115825).hdr).drop 4 ++ (List.replicate 36 0 ++ (List.replicate 36 0 ++
    (List.replicate 36 0 ++ (List.replicate 36 0 ++ (List.replicate 36 0 ++ (List.replicate 36 0 ++ (List.replicate 36 0 ++ List.replicate 36 0))))))) := by
  decide +kernel
theorem test_flit_head : ((granBytes (tFlit 3353115825).hdr).drop 4).foldl crcByte 0xFFFFFFFF#32 = 2688078034 := by decide +kernel
theorem test_flit_0 : (List.replicate 36 (0 : Byte)).foldl crcByte 2688078034 = 2087296632 := by decide +kernel
theorem test_flit_1 : (List.replicate 36 (0 : Byte)).foldl crcByte 2087296632 = 826567194 := by decide +kernel
theorem test_flit_2 : (List.replicate 36 (0 : Byte)).foldl crcByte 826567194 = 370858758 := by decide +kernel
theorem test_flit_3 : (List.replicate 36 (0 : Byte)).foldl crcByte 370858758 = 3443541755 := by decide +kernel
theorem test_flit_4 : (List.replicate 36 (0 : Byte)).foldl crcByte 3443541755 = 783531400 := by decide +kernel
theorem test_flit_5 : (List.replicate 36 (0 : Byte)).foldl crcByte 783531400 = 533810131 := by decide +kernel
theorem test_flit_6 : (List.replicate 36 (0 : Byte)).foldl crcByte 533810131 = 542738999 := by decide +kernel
theorem test_flit_7 : (List.replicate 36 (0 : Byte)).foldl crcByte 542738999 = 941851470 := by decide +kernel
theorem wit_FlitsAndReplay_crc : flitFailed (tFlit 3353115825) = false := by
  have h : crc32 (flitBody (tFlit 3353115825)) = (tFlit 3353115825).crc := by
    rw [crc32, test_flit_body]
    simp only [List.foldl_append]
    rw [test_flit_head, test_flit_0, test_flit_1, test_flit_2, test_flit_3, test_flit_4, test_flit_5, test_flit_6, test_flit_7]
    decide +kernel
  unfold flitFailed
  rw [h]
  decide +kernel
theorem wit_FlitsAndReplay : (tFlit 3353115825).ftype = 1 ∧ (tFlit 3353115825).nak = false ∧ (tFlit 3353115825).retrainReq = false ∧
    (tFlit 3353115825).crdReq = 0 ∧ (tFlit 3353115825).seq ≠ ((tSent 0 none).port 0).rxSeq + 1 ∧ ((tSent 0 none).port 0).ctlQ = [] ∧
    ((tSent 0 none).port 0).nakOut = false ∧ ((tSent 0 none).port 0).cwCount = none ∧
    (((tSent 0 (some 7)).port 0).cwCount = some 7 ∧ (tFlit 3353115825).count ≠ 7 ∧ (tFlit 3353115825).count ≠ 8) ∧
    0 + credDelta (tFlit 3353115825).crdRsp 0 ≤ ((tSent 0 none).port 0).rspSent ∧
    0 + credDelta (tFlit 3353115825).crdCtl 0 ≤ ((tSent 0 none).port 0).ctlSent ∧
    ((tSent 5 none).port 0).rspSent < 5 + credDelta (tFlit 3353115825).crdRsp 5 ∧ ((tSent 0 none).port 0).presents = true ∧
    ((tSent 0 none).port 0).unacked ≠ [] ∧ (tSent 0 none).atLeast (portDom 0) ((tSent 0 none).port 0).ackAt 1000 = true := by decide +kernel
/-- Port 0 in a state, w of its lanes in use, at a time. -/
def tPort (st : PortSt) (w now : Nat) : Dev := {
  tD with ports := [(0, { st := st, width := w })], timers := [(portDom 0, now)] }
theorem wit_TrainingAndPortStates : (tPort .down 0 (10 ^ 9)).linkRuns 0 = true ∧ (tPort .down 0 (10 ^ 9)).atLeast (portDom 0) 0 100000000 = true ∧
    (tPort .train 0 0).now (portDom 0) ≤ 0 + (tPort .train 0 0).most 50000000 ∧ widthOf 0xFF false ≠ 0 ∧ widthOf 0x11 false = 0 ∧
    0 + (tPort .train 0 (10 ^ 9)).most 50000000 ≤ (tPort .train 0 (10 ^ 9)).now (portDom 0) ∧
    (tPort .retrain 3 0).now (portDom 0) ≤ 0 + (tPort .retrain 3 0).most 20000000 ∧
    0 + (tPort .retrain 3 (10 ^ 9)).most 20000000 ≤ (tPort .retrain 3 (10 ^ 9)).now (portDom 0) ∧
    (tPort .active 3 0).freezes = .running ∧ ((tPort .disabled 0 0).port 0).st = .disabled ∧ ((tPort .active 3 0).port 0).st ≠ .disabled := by decide +kernel

/-! Regulation, controllers, Loam, safety, power, registers. -/

/-- Set 0 with ceilings of every kind: master 0 sent best-effort granules. -/
def tCeil (now : Nat) : Dev := {
  tD with setq := [(0, { ceil := (List.range 30).map fun i => (i, 4096), beGran := [(0, 9)], pendingEvent := true })]
          timers := [(commonDom 0, now)] }
/-- A master with a path to set 0, and one without. -/
theorem wit_CeilingsAndScale_path : tD.masterPath 0 28 = true ∧ tD.masterPath 0 0 = false ∧
    ({ tD with strat := some { tStrat with routes := List.replicate 48 1 } } : Dev).masterPath 0 0 = true := by decide +kernel
theorem wit_CeilingsAndScale : (tCeil (10 ^ 7)).set? 0 = some (tStrat.sets.getD 0 ⟨[], false, 0, 0, false, 0, 0, 0, []⟩) ∧ (tCeil (10 ^ 7)).working = true ∧
    ((tCeil (10 ^ 7)).sq 0).ceilAt + 25 * (tCeil (10 ^ 7)).fld row_QOS_CTL 0 f_QOS_CTL_PERIOD ≤ (tCeil (10 ^ 7)).lived (commonDom 0) ∧
    ((tCeil 0).setFld row_QOS_CTL 0 f_QOS_CTL_FEEDBACK_EN 1).fld row_QOS_CTL 0 f_QOS_CTL_FEEDBACK_EN = 1 ∧
    ((tCeil 0).setFld row_QOS_CTL 0 f_QOS_CTL_FEEDBACK_EN 0).fld row_QOS_CTL 0 f_QOS_CTL_FEEDBACK_EN ≠ 1 ∧ (tCeil 0).freezes = .running ∧
    ((tCeil 0).sq 0).pendingEvent = true ∧ ((tCeil 0).sq 0).lastEvent = none ∧ (tCeil 0).setFenced 0 = false ∧
    ({ tCeil 0 with setq := [(0, { fenced := true })] } : Dev).setFenced 0 = true := by decide +kernel
/-- A piece of master 0 for part 0, and instance 0 with it in its queue. -/
def tPiece : PieceIn := ⟨0, 0, 3, 77, 4, false, none, none⟩
def tInst (x : Inst) (now : Nat) : Dev := { tD with insts := [(0, x)], timers := [(instDom 0, now)] }
theorem wit_PiecesAreQueuedAndServed : (tInst { st := .active } 0).accepts 0 = true ∧ (tInst { st := .active } 0).hasRoom 0 tPiece = true ∧
    (((tInst { st := .active } 0).accrue 0).inst 0).acct.get 0 0 ≤ 0 ∧ 0 < (((tInst { st := .active, acct := [(0, 10)] } 0).accrue 0).inst 0).acct.get 0 0 ∧
    (tInst { st := .active, queue := [⟨{ tPiece with gran := 4096 }, .be, 0, none, false⟩] } 0).hasRoom 0 tPiece = false ∧
    (tInst { st := .fenced } 0).accepts 0 = true ∧
    ((some 0 : Option Nat).bind ({ tInst { st := .fenced } 0 with reqs := [{ tReq 1 [] with stage := .issued }] } : Dev).reqOf).isSome = true ∧
    ((tInst { st := .active, queue := [⟨tPiece, .be, 0, none, false⟩] } 0).inst 0).queue.filter (fun p => p.pc.part == 0) ≠ [] ∧
    ((tInst { st := .active, queue := [⟨tPiece, .be, 0, none, true⟩] } 0).inst 0).queue.any (·.again) = true ∧
    ((tInst { st := .active, queue := [⟨tPiece, .be, 0, none, false⟩] } 0).inst 0).queue.filter (fun p => p.pc.part == 1) = [] := by decide +kernel
theorem wit_ControllerEvents : ((tInst { st := .active } 0).inst 0).st = .active ∧ (tInst { st := .active } (10 ^ 9)).pauseDue 0 0 = some false ∧
    ((tInst { st := .active, retry := some (2, 1) } 0).inst 0).retry = some (2, 1) ∧
    ((tInst { st := .active } (10 ^ 9)).setFld row_HMC_CTL 0 f_HMC_CTL_SR_AUTO 1).srDue 0 = true ∧
    ((tInst { st := .selfRefresh, queue := [⟨tPiece, .be, 0, none, false⟩] } 0).inst 0).queue ≠ [] ∧ ((tInst { st := .selfRefresh } 0).dom (instDom 0)).st = .live ∧
    (tInst { st := .active } 0).freezes = .running ∧ ((tInst { st := .active } 0).inst 0).tempAt = 0 ∧
    (tInst { st := .replay } 0).live (instDom 0) = true ∧ (tInst { st := .replay } 0).setOfInst 0 = some 0 ∧
    lastingMask [⟨3, 5, true⟩, ⟨0, 0, false⟩] ≠ 0 ∧ lastingMask [⟨3, 5, false⟩] = 0 := by decide +kernel
/-- Self-refresh is left for a piece that waits, with a training step that passes or fails for good; a replay whose PLL is locked. -/
theorem wit_ControllerEvents_exit : ((tInst { st := .selfRefresh, xbar := [tPiece] } 0).inst 0).xbar ≠ [] ∧
    ((tInst { st := .selfRefresh, xbar := [tPiece] } 0).inst 0).pllLost = false ∧ tD.state ≠ .failed ∧
    ({ tInst { st := .selfRefresh } 0 with freezes := .thawing } : Dev).freezes = .thawing ∧ ((tInst { st := .replay } 0).inst 0).pllLost = false := by decide +kernel
/-- Set 1 stores block 0 of extent 0, and a sweep of each kind has it next. -/
def tSweeping (on extra : Bool) : Dev :=
  (tWritten.setFld row_LOAM_CTL 0 f_LOAM_CTL_SCRUB_EN 1).updSq 1 fun q => { q with scrubOn := on, extra := extra }
theorem wit_ScrubAndTest_next : tWritten.storedFrom 1 0 = some 0 ∧ ({ tD with descs := [], setq := [] } : Dev).storedFrom 31 0 = none ∧
    (tSweeping true false).scrubNext 1 0 = true ∧ (tSweeping false true).scrubNext 1 0 = false ∧ (tSweeping false true).extraNext 1 0 = true ∧
    (tSweeping true false).ceilOk scrubMaster [(1, 1)] = true ∧ (tSweeping false true).working = true := by decide +kernel
theorem wit_ScrubAndTest_scrub : tD.set? 1 = some (tStrat.sets.getD 1 ⟨[], false, 0, 0, false, 0, 0, 0, []⟩) ∧ tD.working = true ∧
    (tD.setFld row_LOAM_CTL 0 f_LOAM_CTL_SCRUB_EN 1).fld row_LOAM_CTL 0 f_LOAM_CTL_SCRUB_EN = 1 ∧
    ((tD.setFld row_LOAM_CTL 0 f_LOAM_CTL_SCRUB_EN 1).updSq 1 fun q => { q with extra := true }).sq 1 = { extra := true } ∧
    (0 : BitVec 44).toNat < (tStrat.sets.getD 1 ⟨[], false, 0, 0, false, 0, 0, 0, []⟩).grans := by decide +kernel
/-- A granule that holds data of block 0 of extent 0, with one cell read wrong. -/
theorem wit_ScrubAndTest_ce : tWritten.heldAt 1 0 = .ext ⟨0, 0, 0, false⟩ ∧ tWritten.poisonAt 1 0 = false ∧ tWritten.setFenced 1 = false ∧
    tWritten.blockPoison 0 0 false = false ∧ (∃ sym, (loamDecode (tWritten.memGet 1 0 ^^^ 1)).1 = .ce sym) ∧ tD.heldAt 1 ((2 : Nat) ^ 20) = .none_ := by
  refine ⟨by decide +kernel, by decide +kernel, by decide +kernel, by decide +kernel, ?_, by decide +kernel⟩
  exact ⟨0, by decide +kernel⟩
/-- A test address: LOCATION l of TARGET t. -/
def tTestAt (t l : Nat) : Dev := (tD.setFld row_LOAM_TEST_ADDR 0 f_LOAM_TEST_ADDR_TARGET t).setFld row_LOAM_TEST_ADDR 0 f_LOAM_TEST_ADDR_LOCATION l
theorem wit_ScrubAndTest_test : (tTestAt 0 0).testAt = .bad 0x10 ∧ ({ tTestAt 0 0 with ctxs := [] } : Dev).testAt = .mem 1 0 ∧
    (tTestAt 0 (2 ^ 28 - 1)).testAt = .bad 0x11 ∧ ((({ tD with poison := [(0, some ⟨4, 0, true, 1, 0, 0, 0, 0, false, 0, 0, 0, 0⟩)] } : Dev).poison.get 0 none).isSome) = true := by
  decide +kernel
/-- Domain x of a state, fenced at tick 0, at a time. -/
def tDom (x : Nat) (st : DomSt) (now : Nat) : Dev := { tD with doms := [(x, { st := st })], timers := [(alwaysKey 0, now)] }
theorem wit_DomainFences : tD.live 5 = true ∧ tD.live 0x13C = true ∧ tD.watched 5 = true ∧ (tD.port 0).st ≠ .failed ∧ (tD.port 0).st ≠ .disabled ∧
    (tDom 5 .resetting 0).live 5 = false ∧ (tDom 5 .resetting 0).resetting 5 = true ∧ (tDom 5 .resetting 0).resetLate 5 = false ∧
    (tDom 5 .resetting 0).boundary 5 = true ∧ (tDom 5 .resetting (10 ^ 12)).resetLate 5 = true ∧ (tDom 0xD8 .resetting 0).resetting 0xD8 = true ∧
    tD.setOfInst (0xD8 - 0xD8) = some 0 ∧
    2 ≤ (({ st := .live, times := [5, 9] } : Dom).times.filter fun u => (10 : Nat) ≤ u + tD.most 3600000000000).length := by decide +kernel
/-- A core in reset alone, and with its clay buffer, of which one has passed. -/
theorem wit_DomainFences_group : (tDom 5 .resetting 0).rejoinGroup 5 = [5] ∧
    (let d : Dev := { tD with doms := [(5, { st := .resetting }), (clayDom 0, { st := .resetting })] }
     d.rejoinGroup 5 = [clayDom 0, 5] ∧ (d.dom (clayDom 0)).passed = false ∧ (d.dom 5).passed = false) ∧
    (let d : Dev := { tD with doms := [(5, { st := .resetting }), (clayDom 0, { st := .resetting, passed := true })] }
     d.rejoinGroup 5 = [clayDom 0, 5] ∧ (d.dom (clayDom 0)).passed = true) := by decide +kernel
theorem wit_MarlSelfTest : tD.marlOn 0 = true ∧ ({ tD with marlLost := 2, marlUp := 1 } : Dev).marlOn 0 = true ∧ tD.state ≠ .failed ∧
    ({ tD with takeover := some 1 } : Dev).takeover.isSome = true ∧
    ({ tD with timers := [(alwaysKey 0, 10 ^ 20)] } : Dev).atLeast (alwaysKey 0) 0 (tD.fld row_SAF_CTL 0 f_SAF_CTL_STEST_HOURS * 3600000000000) = true ∧
    tD.step ≠ .standby ∧ tD.dieFenced.getLsbD 0 = false := by decide +kernel
theorem wit_DeviceFailures : tD.vcore = true ∧ tD.step ≠ .standby ∧ tD.state ≠ .failed ∧ tD.dieFenced.getLsbD 0 = false ∧ dieOfPort 0 = 0 ∧
    (tD.port 0).st ≠ .disabled ∧ 0 < tD.strat.elim 0 (·.sets.length) ∧ tD.setDie 0 = 0 ∧ tD.strat.isSome = true := by decide +kernel
theorem wit_Governor_due : tS.govDue 0 = true ∧ ({ tS with pwr := { govAt := [(0, some 0)] } } : State).govDue 0 = false := by decide +kernel
theorem wit_Governor : tD.vcore = true ∧ tS.pwr.inForce 0 2 = false ∧ tS.pwr.causesOf 0 = 0 ∧
    (tD.atLeast (alwaysKey 0) 0 100000) = false ∧ ({ tD with timers := [(alwaysKey 0, 10 ^ 6)] } : Dev).atLeast (alwaysKey 0) 0 100000 = true := by decide +kernel
/-- A state whose die 0 has cause c in force since tick 0, its readings cool, at a time. -/
def tHot (c now : Nat) : State := {
  tS with pwr := { causes := [(0, BitVec.ofNat 4 (2 ^ c))] }, dev := { tD with timers := [(alwaysKey 0, now)] } }
theorem wit_Emergencies : tS.pwr.inForce 0 0 = false ∧ tS.enters 0 0 = true ∧ ({ tS with pwr := { avg := 1745 } } : State).enters 0 2 = true ∧ tS.enters 0 2 = false ∧
    (tHot 1 (10 ^ 9)).pwr.inForce 0 1 = true ∧ (tHot 1 (10 ^ 9)).leaves 0 1 = true ∧ (tHot 1 (10 ^ 9)).heldOff 0 1 = true ∧
    ({ tS with pwr := { tj := [(0, 480)] } } : State).enters 0 1 = true ∧ ({ tS with pwr := { tj := [(0, 480)] } } : State).leaves 0 1 = false ∧
    tD.groupOn 0 = true ∧ tD.work.get 0 0 < 8 ∧ 8 ≤ ({ tD with work := [(0, 8)] } : Dev).work.get 0 0 ∧ groupDom 0 < 0x13C ∧ tD.live (groupDom 0) = true ∧
    ({ tD with timers := [(alwaysKey 0, 10 ^ 9)] } : Dev).canaryIdle 0 = true ∧ tD.canaryIdle 0 = false := by
  decide +kernel
/-- The first reading is the peak, be it below zero (R397). -/
theorem test_tj_peak : peakOf none 0xFFF0 = some 0xFFF0 ∧ peakOf (some 0xFFF0) 0xFFE0 = some 0xFFF0 ∧ peakOf (some 0xFFF0) 4 = some 4 := by decide
theorem wit_RegisterFields : rowOf (row_QOS_CTL.addr 0) = some row_QOS_CTL ∧ rowOf (row_CTX_CTL.addr 0) = some row_CTX_CTL ∧
    row_CTX_CTL.reg ∉ actsOnWrite ∧ rowOf 4 = none ∧ rowOf 0 = some row_GEN_IDENT ∧ row_GEN_IDENT ∈ rowsGEN ∧
    ¬ (row_QOS_CTL ∈ rowsGEN ∨ row_QOS_CTL ∈ rowsPWR ∨ row_QOS_CTL.reg = .SAF_STATUS ∨ row_QOS_CTL.reg = .HMC_TEMP ∨ row_QOS_CTL.reg = .LMC_TEMP) := by
  decide +kernel
theorem wit_EveryStepKeepsThePowerLimits : ({ tS with pending := [.relock] } : State).pwr.limits :=
  ⟨by decide +kernel, by decide +kernel, by decide +kernel, by decide +kernel, fun _ => (by decide : 700 ≤ 750 ∧ 750 ≤ 800), fun _ => (by decide : 0 ≤ 800)⟩
theorem wit_EveryStepKeepsMemoryCanonical : Memory.wf ({ tS with pending := [.relock] } : State).dev.mem = true := by decide
theorem wit_ResetState : rowOf (row_CTX_CTL.addr 0) = some row_CTX_CTL := by decide +kernel
theorem wit_EveryStepKeepsTheFuses : ∃ t, step ({ tS with pending := [.relock] } : State) = .next t := ⟨_, rfl⟩

/-! More conditions of the same statements, in their order. -/

/-- A raise of the security version under way in a device whose Marl pairs are m. -/
def tBurn (m : Nat) : State := tOf { tD with marlUp := m, upd := { burn := some 3, cmd := some ⟨.fm, 0, 0, false, 0⟩ } }
theorem wit_EmptyQueue_burn : (tBurn 3).pending = [] ∧ (tBurn 3).dev.upd.burn = some 3 ∧ (tBurn 3).dev.upd.cmd.isSome = true ∧
    (tBurn 3).dev.freezes = .running ∧ (tBurn 3).dev.marlUp ≠ 0 ∧ (tBurn 3).sec.svnFuse + 1 < 3 ∧ (tBurn 0).dev.marlUp = 0 ∧
    tS.dev.upd.burn = none := by decide
theorem wit_TapIdentification_reserved : tS.tapOn = true ∧ (0xFF : Byte) ∉ tapOpcodes ∧ (0x55 : Byte) ∉ tapOpcodes ∧
    ({ tS with mgmt := { trstN := false } } : State).mgmt.trstN = false := by decide
theorem wit_TapFlash_on : (tOf { tD with state := .frozen }).tapOn = true := by decide
theorem wit_DebugUnlock_authorised (he : ∀ k m g, Config.ed25519Verify k m g = true) (hm : ∀ k m g, Config.mldsaVerify k m g = true) :
    ({ enrolled := 1, keyOk := 1 } : Sec).judgeToken [] (tZ 3400) = 1 := by
  have h : ({ enrolled := 1, keyOk := 1 } : Sec).slotKey ((tZ 3400).getD 0 0).toNat = some [] := by decide +kernel
  have h1 : (slice (tZ 3400) 1 7).any (· ≠ 0) = false := by decide +kernel
  have h2 : (slice (tZ 3400) 3381 19).any (· ≠ 0) = false := by decide +kernel
  unfold Sec.judgeToken
  simp only [h, h1, h2, he, hm]
  rfl
theorem wit_CaptureReads_places : (tCap 1 0).descPlace 0 = some (0, 0) ∧ (tCap 1 0).capFenced 0 0 = false ∧ (tCap 1 0).metaBad 0 0 = false ∧
    ({ tCap 1 0 with setq := [(0, { fenced := true })] } : Dev).capFenced 0 0 = true := by decide +kernel
theorem wit_PowerUpAndBoot_pwrok : (tOf { tD with step := .pwrok, lost := true }).dev.lost = true ∧ tD.lost = false ∧ tD.resetN = false := by decide
/-- A device 1 ms after PWROK, RESET_N low. -/
def tRom : Dev := { step := .reset, timers := [(alwaysKey 0, 300000)] }
theorem wit_PowerUpAndBoot_rom : tRom.atLeast (alwaysKey 0) tRom.pwrAt 1000000 = true ∧ tRom.state = .powerUp ∧ tRom.thermTrip = false ∧
    tRom.vcoreOff = false ∧ tRom.resetN = false ∧ ({ tRom with resetN := true } : Dev).resetN = true ∧
    ({} : Sec).flashBad.getLsbD (slotPart false) = false ∧ (0 : BitVec 2).getLsbD (b2n false) = false ∧ (1 : BitVec 2) ≠ 0 := by decide +kernel
theorem wit_TrainingAndBringUp_beds : tS.bedsWait = false ∧ ({ tS with pwr := { gate := 1 } } : State).bedsWait = true ∧
    (⟨0, 0, true⟩ : TrainFail).lasting = true := by decide +kernel
theorem wit_Resets_pin : ({ tD with resetN := true } : Dev).resetN = true ∧ ({ tD with resetN := true, step := .pwrok } : Dev).resetN = true := by decide
theorem wit_ClockFaults_dead : (({ tD with doms := [], insts := [(99, { pllLost := true })] } : Dev).pllLost 99 = true ∧
    ({ tD with doms := [], insts := [(99, { pllLost := true })] } : Dev).live (pllDom 99) = false) := by decide +kernel
theorem wit_MovesCopy_stopped : (tMv 1).setStopped 0 = false ∧ (tMv 1).setStopped 1 = false ∧ tMvFull.setStopped 0 = false ∧
    tMvFull.setStopped 1 = false ∧ tBad.setStopped 1 = false ∧ tOver.setStopped 2 = false ∧
    ({ tMv 1 with insts := [(0, { st := .pause, pllLost := true })] } : Dev).setStopped 0 = true := by decide +kernel
theorem wit_Sweeps_ceiling : (tSweep.strat.bind fun g' => g'.metaSet 0) = some 0 ∧ tSweep.ceilOk (loessMaster 0) [(0, 1)] = true := by
  decide +kernel
theorem wit_WindowFills_runs :
    let d := tPlan false
    let x := d.plan 0
    let c := d.fillCharge x (x.ring 0 0)
    ((c.1 ++ c.2).all fun k => !d.setStopped k.1) = true := by decide +kernel
theorem wit_GradeTables_ends : (tTen (tFit true)).windowMoving 0 0 34 = false ∧ (tTen {}).recodeOk ((tTen {}).recodeList 0) = true ∧
    (tTen { a := { st := .active } }).cached 0 0 false = false := by decide +kernel
theorem wit_Training_lasting : (⟨0, 0, true⟩ : TrainFail).lasting = true := by decide
theorem wit_OperandReads_next : (tAp tRed (tBlk 1 0)).nextReads 1 0 = [tBlk 1 0] ∧ (tAp tMma (tBlk 1 0)).nextReads 1 0 = [tBlk 1 0] := by decide
theorem wit_ContextSwitch_area : (tTwo.bed 0).cur = some 0 ∧ (tTwo.fixedPlace (tTwo.portPart (tTwo.ctx 0).port) (ctrlOff + 128)).elim false
    (fun g => !tTwo.setFenced g.1) = true := by decide +kernel
theorem wit_OperationResults_tag : (((tRun tClay).dataTag 0 {} tClay).operands {} 0 tClay [] [1]).1.isSome = true ∧
    ((((tRun tClay).dataTag 0 {} tClay).operands {} 0 tClay [] [1]).2.bed 0).run = some tClay := by decide +kernel
theorem wit_ContextCreate_park : tStarts ((tMany 4).setFld row_CTX_CTL 0 f_CTX_CTL_AUTO_PARK 1) (.port 0) (tCreate 1) (fun d _ =>
    (d.freeSlot 0).isNone && d.fld row_CTX_CTL 0 f_CTX_CTL_AUTO_PARK == 1 && d.lruIdle 0 == some 0) = true := by decide +kernel
theorem wit_RingSet_waiting : tStarts { tD with ctxs := [(0, { tCtx with ring := { tCtx.ring with waiting := [(0, 0, false)] } })] } (.port 0)
    (tE 0x08 tH 0x20000 0x30000 0x44 0) (fun d c => (d.ctx c).ring.waiting.any ofCommand) = true := by decide +kernel
/-- An object of that type and signer in memory, its digest bytes 0, with a byte of its payload. -/
def tDocHead (ty signer : Nat) (len : Nat) : Gran := BitVec.ofNat 256 (0x4F535153 + 1 * 2 ^ 32 + ty * 2 ^ 48 + signer * 2 ^ 56 + len * 2 ^ 64)
def tDoc (ty signer len : Nat) (at_ : Nat) (g : Gran) : List Gran :=
  tDocHead ty signer len :: (List.range ((256 + len + 3392) / 32 - 1)).map fun i => if i + 1 = at_ then g else 0
/-- Does the object verify where every digest is 0 and every signature is taken. -/
theorem tDoc_verifies (x : Sec) (o : Obj) (ty : Nat) (l : List Nat) (k : List Byte) (hs : ∀ m, Config.sha3 m = 0)
    (he : ∀ k m g, Config.ed25519Verify k m g = true) (hm : ∀ k m g, Config.mldsaVerify k m g = true) (hk : x.signerKey o.signer = some k)
    (h : (o.num 0 4 == 0x4F535153 && o.num 4 2 == 1 && o.type == ty && l.contains o.signer && o.payLen % 32 == 0 &&
      (slice o 28 36 ++ slice o 192 64).all (· = 0) && (ty == 1 || (slice o 12 16).all (· = 0)) &&
      o.length == o.size && slice o 64 64 == natBytes 0 64 && (o.sig.drop 3373).all (· = 0) && decide (o.payLen ≤ 0x400000) &&
      o.bind_ == natBytes 0 64 && decide (o.svn ≤ 64 ∧ x.svnFuse ≤ o.svn)) = true) : x.verify o ty l = 0 := by
  simp only [Bool.and_eq_true, decide_eq_true_eq] at h
  obtain ⟨⟨⟨⟨hh, hl⟩, hlen⟩, hb⟩, hv⟩ := h
  have z : (0 : BitVec 512).toNat = 0 := by decide +kernel
  have hd : ∀ l : List Byte, sha3Bytes l = natBytes 0 64 := fun l => by rw [sha3Bytes, hs, z]
  have h1 : o.headerOk ty l = true := by
    unfold Obj.headerOk
    rw [hd]
    simp only [Bool.and_eq_true]
    exact ⟨hh, hl⟩
  have h2 : o.bindOk ty = true := by
    unfold Obj.bindOk deviceDigest
    rw [hs, z]
    simp only [Bool.or_eq_true]
    exact .inl hb
  unfold Sec.verify Sec.verifyBy
  rw [h1, h2, hk]
  simp only [he, hm, decide_eq_false (Nat.not_lt.mpr hlen), Bool.and_false, Bool.not_true, Bool.or_self, Bool.false_eq_true, if_false]
  rw [if_neg]
  omega
theorem wit_UpdateStaging_firmware (hs : ∀ m, Config.sha3 m = 0) (he : ∀ k m g, Config.ed25519Verify k m g = true)
    (hm : ∀ k m g, Config.mldsaVerify k m g = true) : tS.sec.verify (gransBytes (tDoc 1 0 0 0 0)) 1 [0] = 0 :=
  tDoc_verifies _ _ 1 [0] Config.rootDigest hs he hm (by rw [show Obj.signer (gransBytes (tDoc 1 0 0 0 0)) = 0 by decide +kernel]; rfl) (by decide +kernel)
/-- An owner key for slot 1, enrolled by slot 0. -/
def tKeyDoc : List Gran := tDoc 2 1 2016 70 (BitVec.ofNat 256 (1 + 1 * 2 ^ 8))
theorem wit_UpdateStaging_owner (hs : ∀ m, Config.sha3 m = 0) (he : ∀ k m g, Config.ed25519Verify k m g = true)
    (hm : ∀ k m g, Config.mldsaVerify k m g = true) : tOwner.verify (gransBytes tKeyDoc) 2 [1, 2, 3, 4] = 0 ∧
      tOwner.ownerRule (gransBytes tKeyDoc) = some (1, 1) ∧ tOwner.ownerRule (gransBytes (tDoc 2 1 2016 0 0)) = none ∧
      tOwner.verify (gransBytes (tDoc 2 1 2016 0 0)) 2 [1, 2, 3, 4] = 0 :=
  ⟨tDoc_verifies _ _ 2 _ [] hs he hm (by decide +kernel) (by decide +kernel), by decide +kernel, by decide +kernel,
    tDoc_verifies _ _ 2 _ [] hs he hm (by decide +kernel) (by decide +kernel)⟩
theorem wit_UpdateStaging_trim (hs : ∀ m, Config.sha3 m = 0) (he : ∀ k m g, Config.ed25519Verify k m g = true)
    (hm : ∀ k m g, Config.mldsaVerify k m g = true) : tOwner.verify (gransBytes (tDoc 3 1 0 0 0)) 3 [1, 2, 3, 4] = 0 ∧
      Obj.size (gransBytes (tDoc 3 1 0 0 0)) ≤ 0x80000 ∧ tOwner.trimWritten = false ∧ ({ tOwner with trimWritten := true } : Sec).trimWritten = true :=
  ⟨tDoc_verifies _ _ 3 _ [] hs he hm (by decide +kernel) (by decide +kernel), by decide +kernel, rfl, rfl⟩
theorem wit_UpdateStaging_write : ∀ t : Fin 5, ∀ i : Fin 2, let d : Dev := { tD with upd := { st := .staging, cmd := some ⟨.fm, 0, 0, false, 0⟩, write := some (t.val, i.val) } }
    d.serving = true ∧ d.upd.write = some (t.val, i.val) ∧ d.upd.cmd = some ⟨.fm, 0, 0, false, 0⟩ := by decide
/-- Staged, with the other slot's firmware asking for hand-off versions 0 to 0. -/
theorem wit_UpdateActivation_places : ((List.range 13).all fun i => (tD.blockPlace i).elim false fun g => !tD.setFenced g.1) = true ∧
    (tUpd .staged 0).windowOver = false := by decide +kernel
/-- An activation under way whose block is one header granule of version 0 in memory. -/
def tHand : State :=
  let d := tUpd .activating 0
  tOf (({ d with upd := { d.upd with block := 1, sram := [] } } : Dev).blockPut 0 [(0#64 ++ handHeader 0 0 0 0)])
theorem wit_UpdateActivation_accepts (hs : ∀ m, Config.sha3 m = 0) : tHand.handReason 0 = 0 ∧ tHand.dev.handoffLate = false ∧
    tHand.dev.working = true ∧ tHand.dev.upd.st = .activating ∧ tHand.dev.upd.cmd.isSome = true ∧ tHand.dev.cplHold = [] := by
  refine ⟨?_, by decide +kernel, by decide +kernel, by decide +kernel, by decide +kernel, by decide +kernel⟩
  have z : (0 : BitVec 512).toNat = 0 := by decide +kernel
  have h : ((List.range tHand.dev.upd.block).mapM tHand.dev.blockGet) = some [0#64 ++ handHeader 0 0 0 0] := by decide +kernel
  unfold State.handReason State.handFault handDigest
  rw [h]
  simp only [sha3Bytes, hs, z]
  decide +kernel
theorem wit_UpdateActivation_refuses : (tOf (tUpd .activating 0)).handReason 0 = 3 ∧ [0, 3, 5, 6].contains 0 = true ∧
    (tUpd .activating 0).handoffLate = false ∧ (tUpd .activating 0).upd.write = none := by decide +kernel
/-- The same for an image of security version 1 whose raise is asked for. -/
theorem wit_UpdateActivation_raise : (({ tHand.dev.upd with raise := true, sram := tZ 12 ++ [1, 0] } : Upd).raise &&
    decide (tHand.sec.svnFuse < Obj.svn (tZ 12 ++ [1, 0]))) = true ∧ Obj.handoffMin (tZ 12 ++ [1, 0]) = 0 := by decide
/-- A DATA flit of SEQ 1 whose first slot begins a request of one granule, its CRC right. -/
def tOne : Flit := {
  hdr := BitVec.ofNat 256 (1 * 2 ^ 248 + 1 * 2 ^ 236 + 0xDB6DB1 * 2 ^ 144 + 1354881439), slots := loamEncode 1 :: List.replicate 7 0 }
theorem test_one_body : flitBody tOne = (granBytes tOne.hdr).drop 4 ++ (natBytes (loamEncode 1).toNat 36 ++ (List.replicate 36 0 ++
    (List.replicate 36 0 ++ (List.replicate 36 0 ++ (List.replicate 36 0 ++ (List.replicate 36 0 ++ (List.replicate 36 0 ++ List.replicate 36 0))))))) := by
  decide +kernel
theorem test_one_head : ((granBytes tOne.hdr).drop 4).foldl crcByte 0xFFFFFFFF#32 = 3321199122 := by decide +kernel
theorem test_one_slot : (natBytes (loamEncode 1).toNat 36).foldl crcByte 3321199122 = 1090893272 := by decide +kernel
theorem test_one_0 : (List.replicate 36 (0 : Byte)).foldl crcByte 1090893272 = 288717343 := by decide +kernel
theorem test_one_1 : (List.replicate 36 (0 : Byte)).foldl crcByte 288717343 = 1084690229 := by decide +kernel
theorem test_one_2 : (List.replicate 36 (0 : Byte)).foldl crcByte 1084690229 = 259173838 := by decide +kernel
theorem test_one_3 : (List.replicate 36 (0 : Byte)).foldl crcByte 259173838 = 2961313955 := by decide +kernel
theorem test_one_4 : (List.replicate 36 (0 : Byte)).foldl crcByte 2961313955 = 589471711 := by decide +kernel
theorem test_one_5 : (List.replicate 36 (0 : Byte)).foldl crcByte 589471711 = 1012334457 := by decide +kernel
theorem test_one_6 : (List.replicate 36 (0 : Byte)).foldl crcByte 1012334457 = 2940085856 := by decide +kernel
theorem wit_FlitsAndReplay_one : flitFailed tOne = false := by
  have h : crc32 (flitBody tOne) = tOne.crc := by
    rw [crc32, test_one_body]
    simp only [List.foldl_append]
    rw [test_one_head, test_one_slot, test_one_0, test_one_1, test_one_2, test_one_3, test_one_4, test_one_5, test_one_6]
    decide +kernel
  unfold flitFailed
  rw [h]
  decide +kernel
theorem wit_FlitsAndReplay_first : tOne.ftype = 1 ∧ tOne.seq = ((tD.port 0).rxSeq + 1) ∧ (∀ j, j < 8 → (tOne.filled j = true ↔ j = 0)) ∧ tOne.vc 0 = 0 ∧
    tOne.som 0 = true ∧ (tD.port 0).rx.get 0 none = none ∧ hType (loamDecode (tOne.slots.getD 0 0)).2 ≠ 0x0A ∧
    msgLen 0 (loamDecode (tOne.slots.getD 0 0)).2 = 0 ∧ (tD.port 0).gap tOne = false ∧ tOne.nak = false ∧ tOne.retrainReq = false ∧
    (tD.port 0).txq = [] ∧ (tD.port 0).ctlQ = [] ∧ (tD.port 0).nakOut = false ∧ tOne.crdReq = 0 ∧ credDelta tOne.crdRsp 0 = 0 ∧
    credDelta tOne.crdCtl 0 = 0 ∧ (tD.port 0).presents = true := by decide +kernel
/-- A flit whose CRC is wrong fails, be its count right or not. -/
def tWrong : Flit := { tFlit 0 with wrong := (List.range 16).map fun i => Fin.ofNat 544 i }
theorem wit_FlitsAndReplay_fails : flitFailed tWrong = true ∧ ((tSent 0 (some 7)).port 0).gap tWrong = false ∧ tWrong.ftype = 1 ∧
    (let x : Port := { st := .active, nakOut := true, failSeq := some 1 }
     x.nakOut = true ∧ x.failSeq = some tWrong.seq ∧ x.gap tWrong = false ∧ x.presents = true) := by decide +kernel
theorem wit_FlitsAndReplay_gap : ((tSent 0 none).port 0).gap (tFlit 3353115825) = false ∧ ((tSent 0 (some 7)).port 0).gap (tFlit 3353115825) = true ∧
    (∀ j, j < 8 → (tFlit 3353115825).filled j = false) ∧ (tFlit 3353115825).ftype ≤ 3 ∧
    ({ (tSent 0 (some 7)).port 0 with rxSeq := 1 } : Port).rxSeq + 1 ≠ (tFlit 3353115825).seq ∧
    ((tSent 0 none).port 0).unacked = [] ++ ⟨1, []⟩ :: [] ∧ (1 : BitVec 12) ≠ (tFlit 3353115825).ack ∧ ((tSent 0 none).port 0).txq = [] := by decide +kernel
/-- Port 0 with a flit not acknowledged that the far end's ACK 0 covers. -/
theorem wit_FlitsAndReplay_ack : ({ st := .active, unacked := [⟨0, []⟩] } : Port).unacked = [] ++ ⟨0, []⟩ :: [] ∧ (tFlit 3353115825).ack = 0 := by decide
/-- The far end's last word before CONFIG ends: root role 2, PROTO 1. -/
def tFarEnd (proto role : Nat) : FarEnd := { pay := BitVec.ofNat 256 (role + proto * 2 ^ 80 + 3 * 2 ^ 96) }
theorem wit_TrainingAndPortStates_far : (tFarEnd 1 2).tstate = 3 ∧ (tFarEnd 1 2).proto = 1 ∧ (tFarEnd 1 2).role ≠ 1 ∧ (tFarEnd 2 2).proto ≠ 1 ∧
    (tFarEnd 1 1).role = 1 ∧ ((tPort .train 0 0).port 0).pllLost = false ∧ (tPort .train 0 0).portTime 0 ≤ 0 + (tPort .train 0 0).most 50000000 ∧
    0 + (tPort .train 0 (10 ^ 9)).most 50000000 ≤ (tPort .train 0 (10 ^ 9)).portTime 0 ∧
    ((tPort .down 0 (10 ^ 9)).port 0).since + (tPort .down 0 (10 ^ 9)).least 100000000 ≤ (tPort .down 0 (10 ^ 9)).portTime 0 ∧
    (tPort .active 3 0).portRuns 0 = true ∧ ((tPort .hold 3 0).port 0).st = .hold ∧ (tPort .failed 0 0).dieFenced = 0 ∧
    bitOf ({ tPort .failed 0 0 with dieFenced := 1 } : Dev).dieFenced.toNat (dieOfPort 0) = true := by decide +kernel
theorem wit_TrainingAndPortStates_lanes : ((tPort .retrain 3 0).port 0).worst = 0 ∧ widthOf (0xFF &&& ~~~ ((tPort .retrain 3 0).port 0).worst) false ≠ 0 ∧
    (0x0F &&& 0x0F : BitVec 8) = 0x0F ∧ (0x01 &&& 0x0F : BitVec 8) ≠ 0x0F ∧ (0xF0 &&& 0xF0 : BitVec 8) = 0xF0 := by decide +kernel
/-- The rings of the FM session, and a ring of context 0 with its context parked. -/
def tParked : Dev := { tD with ctxs := [(0, { tCtx with st := .parked, slot := none })] }
theorem wit_Doorbells_rings : tD.fmOn 0 = true ∧ (5 : Nat) < 2 ^ 4 ∧ bits (0x18000005 : BitVec 32).toNat 28 4 = 1 ∧ bitOf (0x18000005 : BitVec 32).toNat 27 = true ∧
    tParked.ctxOf (some 0) 0x1000 = some 0 ∧ (tParked.ctx 0).st = .parked ∧ tParked.parkUsed 0 < 64 ∧ tParked.parksHeld = false ∧ tParked.slotq = [] ∧
    tParked.freeSlot 0 = some 0 ∧ (tParked.ctx 0).port = 0 ∧ (tParked.ctx 0).timeoutDue = false ∧ (tD.ctx 0).parking = false ∧ (tD.ctx 0).unparking = false ∧
    64 ≤ ({ tParked with waiters := List.replicate 64 ⟨0, 0, 0, 0, 0, false⟩ } : Dev).parkUsed 0 ∧
    ({ tD with ctxs := [(0, { tCtx with st := .draining })] } : Dev).ctxOf (some 0) 0x1000 = some 0 ∧
    ({ tD with ctxs := [(0, { tCtx with st := .orphaned })] } : Dev).ctxOf (some 0) 0x1000 = some 0 ∧ tD.ctxOf (some 0) 0x2000 = none ∧
    tD.fmOn 1 = false ∧ ({ tD with strat := none } : Dev).portHost 0 = false := by decide +kernel
theorem wit_FmAttachment_forms : (168 : Nat) ≠ 106 ∧ helloZeros (List.replicate 5376 1) = false ∧ (∃ b ∈ (tZ 3391 ++ [1]).drop 3373, b ≠ 0) ∧
    tD.challenge.get 0 none = none ∧ tD.lockout.get 0 none = none ∧
    ({ tD with challenge := [(0, some ⟨[], [], 0⟩)], timers := [(portDom 0, 10 ^ 10)] } : Dev).ran (portDom 0) 0 1000000000 = true ∧
    ({ tD with lockout := [(0, some 0)], timers := [(portDom 0, 10 ^ 10)] } : Dev).ran (portDom 0) 0 1000000000 = true ∧ tD.working = true ∧
    ({ tD with timers := [(portDom 0, 10 ^ 10)] } : Dev).most 1200000000 < ({ tD with timers := [(portDom 0, 10 ^ 10)] } : Dev).lived (portDom 0) ∧
    tD.lived (portDom 0) ≤ 0 + tD.most 1200000000 := by decide +kernel
/-- A frozen device and one that serves CFG. -/
theorem wit_Cfg_goes : tD.cfgGoes 0 = true ∧ tD.cfgGoes 1 = true ∧ ({ tD with freezes := .frozen } : Dev).cfgGoes 1 = false ∧ tD.reqs = [] ∧
    bitOf (tCfg 0 false).flags.toNat 5 = false ∧ bitOf (tCfg 0 true).flags.toNat 5 = true := by decide +kernel
theorem wit_RequestsAtTheHome_agent : (tGoes 1 []).agent = portAgent 0 ∧ tAtom.agent = portAgent 0 ∧ (tGoes 2 [5]).agent = portAgent 0 := by decide
/-- Instance 0 and a request that is issued and has n granules to move there. -/
def tMoves (st : InstSt) (n : Nat) : Dev := { tInst { st := st } 0 with reqs := [{ tReq 1 [] with stage := .issued, pieces := [(0, n)] }] }
theorem wit_Pieces_of : (tInst { st := .active } 0).pieceOf 0 tPiece = some tPiece ∧
    (tMoves .active 9).pieceOf 0 { tPiece with req := some 0 } = some { tPiece with req := some 0 } ∧
    (tMoves .active 2).pieceOf 0 { tPiece with req := some 0 } = some { tPiece with req := some 0, gran := 2 } ∧
    (tMoves .active 0).pieceOf 0 { tPiece with req := some 0 } = none ∧ tPiece.gran < 9 ∧
    ((tMoves .fenced 9).pieceOf 0 { tPiece with req := some 0 }).isSome = true ∧ (tMoves .fenced 9).accepts 0 = true := by decide +kernel
theorem wit_ControllerEvents_failed : tD.failed = false ∧ ((tInst { st := .replay, queue := [⟨tPiece, .be, 0, none, false⟩] } 0).inst 0).queue ≠ [] ∧
    ({ tInst { st := .replay } 0 with state := .failed } : Dev).failed = true := by decide +kernel
theorem wit_Scrub_rest : ((tSweeping true true).storedFrom 1 ((tSweeping true true).sq 1).scrubPos).isSome = true ∧
    ((tSweeping true true).storedFrom 1 ((tSweeping true true).sq 1).extraPos).isSome = true ∧ ((tSweeping true true).sq 1).extra = true ∧
    (tTestAt 1 0).testAt = .clay 0 := by decide +kernel
theorem wit_DomainFences_lock : tD.noLock 0xD8 = false ∧ ({ tD with doms := [(0xD8, { st := .resetting })], insts := [(0, { pllLost := true })] } : Dev).noLock 0xD8 = true ∧
    ({ tD with doms := [(0xD8, { st := .resetting })], insts := [(0, { pllLost := true })] } : Dev).resetting 0xD8 = true ∧
    ({ tD with doms := [(5, { st := .resetting, passed := true })] } : Dev).resetting 5 = true ∧
    (tDom (clayDom 0) .resetting 0).rejoinGroup (clayDom 0) = [clayDom 0] ∧ (tDom (clayDom 0) .resetting 0).boundary (clayDom 0) = true := by decide +kernel
theorem wit_SelfTest_fail : classIn 7 5 = true ∧ dieOfDom 5 = 0 ∧ classIn 1 0xD8 = true ∧ dieOfDom 0xD8 = 0 ∧ classIn 3 0xD8 = false := by decide
theorem wit_DeviceFailures_held : ({ tD with memKept := true, step := .training } : Dev).heldMem = true ∧ tD.heldMem = false := by decide
theorem wit_Canaries_common : tD.groupOn 14208 = true ∧ 336 ≤ groupDom 14208 ∧ 8 ≤ ({ tD with work := [(14208, 8)] } : Dev).work.get 14208 0 := by decide +kernel

end Sys2Proof.Machine
end

/-! PROOF. A CFG that is refused by a frozen device. What the ports of a device that is not running do after a command (Dev.finish)
changes the accounts of the sets only where a request other than a CFG is served; so a charge that the refusal itself releases is still
seen after it, whatever device the statement takes before Dev.finish. -/
namespace Sys2Proof.Machine

section
variable (d : Dev)

/-! ### What serving a request keeps: the phase of a freeze, and the types of the requests held -/

/-- The phase of a freeze and the types of the requests held, in their order. -/
def Dev.phaseTypes : Phase × List Nat := (d.freezes, d.reqs.map (·.ty))

theorem Dev.phaseTypes_updReq (id : Nat) (f : Req → Req) (hf : ∀ r, (f r).ty = r.ty := by intro; rfl) :
    (d.updReq id f).phaseTypes = d.phaseTypes := by
  refine Prod.ext rfl ?_
  simp only [Dev.phaseTypes, Dev.updReq, Dev.updReqs, List.map_map]
  refine List.map_congr_left fun r _ => ?_
  simp only [Function.comp]
  split
  · exact hf r
  · rfl

theorem Dev.phaseTypes_each {α : Type} (l : List α) (f : Dev → α → Dev)
    (hf : ∀ e x, (f e x).phaseTypes = e.phaseTypes := by intros; rfl) : (d.each l f).phaseTypes = d.phaseTypes :=
  Dev.each_same Dev.phaseTypes l f hf d

theorem Dev.phaseTypes_wrapInc (r : RegRow) (i : Nat) (f : Fld) (k : Nat) : (d.wrapInc r i f k).phaseTypes = d.phaseTypes := rfl

theorem Dev.phaseTypes_updRgn (r : Nat) (f : Rgn → Rgn) : (d.updRgn r f).phaseTypes = d.phaseTypes := rfl

theorem Dev.phaseTypes_discharge (m : Nat) (l : List (Nat × Nat)) : (d.discharge m l).phaseTypes = d.phaseTypes :=
  d.phaseTypes_each _ _

theorem Dev.phaseTypes_release (id : Nat) : (d.release id).phaseTypes = d.phaseTypes := by
  unfold Dev.release
  split
  · rfl
  · exact (Dev.phaseTypes_updReq _ _ _).trans (d.phaseTypes_discharge _ _)

theorem Dev.phaseTypes_creditBack (id n : Nat) : (d.creditBack id n).phaseTypes = d.phaseTypes := by
  unfold Dev.creditBack
  split <;> rfl

theorem Dev.phaseTypes_failReq (id st : Nat) : (d.failReq id st).phaseTypes = d.phaseTypes :=
  (Dev.phaseTypes_updReq _ _ _).trans ((Dev.phaseTypes_creditBack _ _ _).trans (d.phaseTypes_release id))

theorem Dev.phaseTypes_windowAct (r : Req) : (d.windowAct r).phaseTypes = d.phaseTypes := by
  unfold Dev.windowAct
  dsimp only
  split
  · exact d.phaseTypes_failReq _ _
  · split
    · exact (Dev.phaseTypes_updReq _ _ _).trans (d.phaseTypes_each _ _)
    · exact d.phaseTypes_updReq _ _

theorem Dev.phaseTypes_pubGo (q : Req) (c a b n i j : Nat) : (d.pubGo q c a b n i j).phaseTypes = d.phaseTypes := by
  unfold Dev.pubGo
  dsimp only
  split
  · exact d.phaseTypes_failReq _ _
  split
  · exact d.phaseTypes_failReq _ _
  split
  · exact d.phaseTypes_failReq _ _
  split
  · exact (Dev.phaseTypes_updReq _ _ _).trans (Dev.phaseTypes_failReq _ _ _)
  split
  · exact d.phaseTypes_failReq _ _
  · refine (Dev.phaseTypes_updReq _ _ _).trans ((Dev.phaseTypes_wrapInc _ _ _ _ _).trans ?_)
    refine (Dev.phaseTypes_updRgn _ _ _).trans ((Dev.phaseTypes_updRgn _ _ _).trans ?_)
    exact (Dev.phaseTypes_each _ _ _).trans (d.phaseTypes_each _ _)

theorem Dev.phaseTypes_pubDue (r : Req) : (d.pubDue r).phaseTypes = d.phaseTypes := by
  unfold Dev.pubDue
  dsimp only
  split
  · exact d.phaseTypes_pubGo _ _ _ _ _ _ _
  · rfl

theorem Dev.phaseTypes_granted (r : Req) : (d.granted r).phaseTypes = d.phaseTypes := by
  unfold Dev.granted
  split
  · exact d.phaseTypes_updReq _ _
  split
  · exact d.phaseTypes_windowAct r
  split
  · exact d.phaseTypes_pubDue r
  · exact d.phaseTypes_updReq _ _

theorem Dev.phaseTypes_reserve (r : Req) : (d.reserve r).phaseTypes = d.phaseTypes := Dev.phaseTypes_updReq _ _ _

/-! ### The service of the ports -/

/-- The device e is d after its ports were served while it is not running: the accounts of the sets are as they were where every
request held is a CFG. -/
structure Dev.cfgServed (d e : Dev) : Prop where
  phaseTypes : e.phaseTypes = d.phaseTypes
  setq : (∀ t ∈ d.phaseTypes.2, t = 8) → e.setq = d.setq

theorem Dev.cfgServed_refl : d.cfgServed d := ⟨rfl, fun _ => rfl⟩

theorem Dev.cfgServed_trans {a b c : Dev} (h : a.cfgServed b) (k : b.cfgServed c) : a.cfgServed c where
  phaseTypes := k.phaseTypes.trans h.phaseTypes
  setq h8 := (k.setq (h.phaseTypes ▸ h8)).trans (h.setq h8)

/-- A CFG that has its credit becomes ready; any other request may end, and release its charge. -/
theorem Dev.cfgServed_granted (r : Req) (hr : r ∈ d.reqs) : d.cfgServed (d.granted r) where
  phaseTypes := d.phaseTypes_granted r
  setq h8 := by
    have hty : r.ty = 8 := h8 r.ty (List.mem_map_of_mem hr)
    rw [Dev.granted, if_pos (Or.inr hty)]
    rfl

theorem Dev.cfgServed_reserve (r : Req) : d.cfgServed (d.reserve r) := ⟨d.phaseTypes_reserve r, fun _ => rfl⟩

theorem Dev.cfgServed_reserveAll (l : List Req) : d.cfgServed (d.reserveAll l) := by
  induction l generalizing d with
  | nil => exact d.cfgServed_refl
  | cons r t ih =>
    unfold Dev.reserveAll
    split
    · dsimp only
      split
      · exact Dev.cfgServed_trans (d.cfgServed_reserve r) (ih _)
      · next q hq =>
        have hmem : q ∈ (d.reserve r).reqs := List.mem_of_find?_eq_some hq
        exact Dev.cfgServed_trans (Dev.cfgServed_trans (d.cfgServed_reserve r) (Dev.cfgServed_granted _ q hmem)) (ih _)
    · exact d.cfgServed_refl

theorem Dev.cfgServed_pump (p : Nat) (h : d.freezes ≠ .running) : d.cfgServed (d.pump p) := by
  have hrun : (d.freezes == .running) = false := by simpa using h
  unfold Dev.pump
  simp only [hrun]
  exact d.cfgServed_reserveAll _

theorem Dev.cfgServed_pumpAll (h : d.freezes ≠ .running) : d.cfgServed d.pumpAll := by
  refine Dev.each_keeps d.cfgServed _ _ (fun e p he => ?_) d d.cfgServed_refl
  have hfr : e.freezes = d.freezes := congrArg Prod.fst he.phaseTypes
  exact Dev.cfgServed_trans he (e.cfgServed_pump p (hfr ▸ h))

theorem Dev.cfgServed_finish (ph : Phys) (h : d.freezes ≠ .running) : d.cfgServed (d.finish ph) := by
  rw [Dev.finish, if_neg (by simpa using h)]
  split
  · exact d.cfgServed_pumpAll h
  · exact d.cfgServed_refl

/-- Where nothing but CFG is left after a command on a device that is not running, what followed the command changed no account. -/
theorem Dev.finish_setq_of_cfgOnly (ph : Phys) (h : d.freezes ≠ .running) (h8 : ∀ r ∈ (d.finish ph).reqs, r.ty = 8) :
    (d.finish ph).setq = d.setq := by
  have hs := d.cfgServed_finish ph h
  refine hs.setq fun t ht => ?_
  rw [← hs.phaseTypes] at ht
  obtain ⟨r, hr, rfl⟩ := List.mem_map.mp ht
  exact h8 r hr

end

/-! ### The counterexample -/

/-- A CFG held by port 1 under the number that the device gives out next, with three granules charged to set 0. -/
def clashReq : Req := { tD.newReq 1 8 (tCfg 0 false) [0] {} with charge := [(0, 3)] }

/-- A frozen device with the FM session on the witness port 0, which holds that request; port 1 has five granules outstanding on set 0. -/
def clashState : State := tOf { tD with
  state := .frozen, before := .ready, freezes := .frozen, setq := [(0, { out := [(1, 5)] })], reqs := [clashReq] }

/-- What a CFG on port 0 at address 4, where no register is, leaves there. -/
def clashEnd : State := (clashState.cfgArrive 0 (tCfg 4 false) 0).onDev Dev.finish

/-- The hypotheses of the clause: port 0 serves CFG though the device is frozen, its link presents data, the header is right and its tag
is free, and no register is at the address. -/
theorem clashState_refusesCfg : clashState.dev.cfgGoes 0 = true ∧ rowOf (tCfg 4 false).addr.toNat = none ∧
    (clashState.dev.port 0).presents = true ∧ headOk 8 (tCfg 4 false) [BitVec.ofNat 256 (0 : Word).toNat] = true ∧
    ∀ r ∈ clashState.dev.reqs, r.port = 0 → r.h.tag ≠ (tCfg 4 false).tag := by decide +kernel

/-- The refusal releases the charge of the request that has the number of the new one: two granules stay of the five. -/
theorem clashEnd_outOf : clashEnd.dev.outOf 1 0 = 2 ∧ clashState.dev.outOf 1 0 = 5 ∧ ∀ r ∈ clashEnd.dev.reqs, r.ty = 8 := by decide +kernel

/-- Refutes O42 in the clause of a refused CFG, which lets only registers, requests and ports change. The statement takes every state,
one included in which a request held already has the number that is given out next: the refusal (Dev.failReq, by number) then ends that
request too and releases its charge on a set. No run from reset leads there, since numbers rise; the clause lacks that hypothesis. -/
theorem not_requestsAtTheHomeAndCfg : ¬ Obligations.RequestsAtTheHomeAndCfg := by
  unfold Obligations.RequestsAtTheHomeAndCfg
  intro h
  obtain ⟨hgoes, hrow, hpres, hhead, htags⟩ := clashState_refusesCfg
  obtain ⟨hend, hstart, h8⟩ := clashEnd_outOf
  obtain ⟨s1, hs1, -, hrefused, -⟩ := (h.2 clashState 0).2 (tCfg 4 false) 0 hpres hhead htags
  obtain ⟨d, hends, hd, -⟩ := hrefused hgoes (Or.inr hrow)
  have hdev : clashEnd.dev = d.finish := congrArg State.dev (Host.Outcome.next.inj hends)
  have hfr : d.freezes = .frozen := by rw [hd, hs1]; rfl
  have hsetq : d.setq = clashState.dev.setq := by rw [hd, hs1]
  have hkept : clashEnd.dev.setq = clashState.dev.setq := by
    rw [hdev, d.finish_setq_of_cfgOnly {} (by rw [hfr]; decide) (hdev ▸ h8), hsetq]
  have hout : clashEnd.dev.outOf 1 0 = clashState.dev.outOf 1 0 := by simp only [Dev.outOf, Dev.sq, hkept]
  rw [hend, hstart] at hout
  exact absurd hout (by decide)

end Sys2Proof.Machine

/-! PROOF. ASSIGN_BED, RING_SET, QUERY, PARK, the ends of a park and of an unpark, the end of a wait in the park queue (R222 to R227,
R337, R342, R343): what a completion keeps, what the release of a clay area keeps, how requests end; then what the body of each command
does, case by case, and the statement assembled from that. -/
namespace Sys2Proof.Machine

section
variable (d : Dev)

/-! ### What a completion keeps (R334, R335) -/

/-- A context but for its ring and the stamp of its last activity. -/
def Ctx.besideRing (x : Ctx) : Ctx := { x with ring := {}, stamp := 0 }

/-- What the events of parking read of a device and no completion touches. -/
structure CplKept where
  mem : List Host.Cell
  clay : List Host.Cell
  reqs : List Req
  waiters : List Bell
  slotq : List SlotWait
  ctx : Nat → Ctx

/-- That part of device d. -/
def Dev.cplKept : CplKept := ⟨d.mem, d.clay, d.reqs, d.waiters, d.slotq, fun k => (d.ctx k).besideRing⟩

theorem Dev.cplKept_eventsOnly {e : Dev} (h : d.eventsOnly e) : e.cplKept = d.cplKept := (congrArg Dev.cplKept h.rest :)

theorem Dev.cplKept_updCtx (c : Nat) (f : Ctx → Ctx) (hf : ∀ x, (f x).besideRing = x.besideRing := by intro; rfl) :
    (d.updCtx c f).cplKept = d.cplKept := by
  have hctx : (fun k => ((d.updCtx c f).ctx k).besideRing) = fun k => (d.ctx k).besideRing := by
    funext k
    by_cases hk : k = c
    · rw [hk, Dev.ctx_updCtx_same, hf]
    · rw [Dev.ctx_updCtx_other _ _ _ _ hk]
  exact congrArg (CplKept.mk d.mem d.clay d.reqs d.waiters d.slotq) hctx

theorem Dev.cplKept_setRing (q : Queue) (r : Ring) : (d.setRing q r).cplKept = d.cplKept := by
  cases q with
  | port n => rfl
  | ctx c => exact d.cplKept_updCtx c.val fun x => { x with ring := r }
  | fm => rfl

theorem Dev.cplKept_cqWinPut (q : Queue) (e : Gran × Gran) : (d.cqWinPut q e).cplKept = d.cplKept :=
  (Dev.cplKept_eventsOnly _ (Dev.eventsOnly_msg _ _ _ _)).trans (Dev.cplKept_setRing _ _ _)

theorem Dev.cplKept_cqWinFlush (q : Queue) : (d.cqWinFlush q).cplKept = d.cplKept := by
  refine Dev.each_same Dev.cplKept _ _ (fun e x => ?_) d
  split
  · exact (Dev.cplKept_cqWinPut _ _ _).trans (e.cplKept_setRing _ _)
  · rfl

theorem Dev.cplKept_cqWait (q : Queue) (e : Gran × Gran) (notify : Bool) : (d.cqWait q e notify).cplKept = d.cplKept :=
  d.cplKept_setRing _ _

theorem Dev.cplKept_completeNow (r : CmdRef) (st r0 r1 : Nat) (payload : Gran) (final : Bool) :
    (d.completeNow r st r0 r1 payload final).cplKept = d.cplKept := by
  unfold Dev.completeNow
  extract_lets d1 e
  have hflight : d1.cplKept = d.cplKept := by cases final <;> rfl
  clear_value d1
  split
  · exact (Dev.cplKept_cqWinFlush _ _).trans ((Dev.cplKept_cqWait _ _ _ _).trans hflight)
  · split
    · exact hflight
    · exact (Dev.cplKept_cqWinFlush _ _).trans ((Dev.cplKept_cqWait _ _ _ _).trans hflight)
  · next i _ =>
    extract_lets t d2
    have hstamp : d2.cplKept = d.cplKept := (d1.cplKept_updCtx i.val fun x => { x with stamp := t }).trans hflight
    clear_value d2
    split
    · exact (Dev.cplKept_cqWait _ _ _ _).trans hstamp
    · exact hstamp

/-- A completion changes rings, stamps, windows and the commands in flight, or is held: the rest stays. -/
theorem Dev.cplKept_complete (r : CmdRef) (st r0 r1 : Nat) (payload : Gran) (final : Bool) :
    (d.complete r st r0 r1 payload final).cplKept = d.cplKept := by
  unfold Dev.complete
  split
  · rfl
  · exact d.cplKept_completeNow _ _ _ _ _ _

/-! ### What the release of a clay area keeps (R132, R133) -/

/-- What ASSIGN_BED leaves alone beside contexts, and the contexts. -/
def Dev.pagesKept : Tab Ctx × List Host.Cell × Tab Desc × Tab Dom := (d.ctxs, d.mem, d.descs, d.doms)

theorem Dev.pagesKept_eventsOnly {e : Dev} (h : d.eventsOnly e) : e.pagesKept = d.pagesKept := (congrArg Dev.pagesKept h.rest :)

theorem Dev.pagesKept_slotIdle (t : Nat) (b : Bool) : (d.slotIdle t b).pagesKept = d.pagesKept := by
  unfold Dev.slotIdle
  dsimp only
  split
  · split
    · exact (Dev.pagesKept_eventsOnly _ (Dev.eventsOnly_event _ _ _ _ _)).trans rfl
    · rfl
  · rfl

theorem Dev.pagesKept_refsDec (t : Nat) (b : Bool) (n : Nat) : (d.refsDec t b n).pagesKept = d.pagesKept :=
  Dev.pagesKept_slotIdle _ _ _

theorem Dev.pagesKept_refsRelease (l : List (Nat × Nat)) : (d.refsRelease l).pagesKept = d.pagesKept :=
  Dev.each_same Dev.pagesKept _ _ (fun e _ => e.pagesKept_refsDec _ _ _) d

theorem Dev.pagesKept_pageRelease (k p : Nat) : (d.pageRelease k p).pagesKept = d.pagesKept := Dev.pagesKept_refsRelease _ _

/-- The pages of a context are released without a change of its context, or of any other. -/
theorem Dev.pagesKept_releaseAll (l : List (Nat × Nat)) : (d.each l fun d kp => d.pageRelease kp.1 kp.2).pagesKept = d.pagesKept :=
  Dev.each_same Dev.pagesKept _ _ (fun _ _ => Dev.pagesKept_pageRelease _ _ _) d

/-- The release of a clay area changes the context that held it alone. -/
theorem Dev.clayRelease_frame (c : Nat) :
    (∀ k, k ≠ c → (d.clayRelease c).ctx k = d.ctx k) ∧ (d.clayRelease c).mem = d.mem ∧ (d.clayRelease c).descs = d.descs ∧
      (d.clayRelease c).doms = d.doms := by
  obtain ⟨hctxs, hmem, hdescs, hdoms⟩ : _ ∧ _ ∧ _ ∧ _ := by
    simpa only [Dev.pagesKept, Prod.mk.injEq] using d.pagesKept_releaseAll (d.ctx c).pages
  refine ⟨fun k hk => ?_, hmem, hdescs, hdoms⟩
  exact (Dev.ctx_updCtx_other _ _ _ _ hk).trans (congrArg (fun m : Tab Ctx => m.get k {}) hctxs)

/-! ### Requests that end with a status (R319, R322) -/

/-- A request that has ended with a status: failed, and without a charge. -/
def Req.ended (r : Req) (st : Nat) : Req := { r.fail st with charge := [] }

/-- A request that ends twice with a status has ended with it once: the credit that it keeps is one, or none where it held none. -/
theorem Req.ended_ended (r : Req) (st : Nat) : (r.ended st).ended st = r.ended st := by
  by_cases h : r.held = 0
  · simp [Req.ended, Req.fail, h]
  · have h1 : min 1 r.held = 1 := by omega
    simp [Req.ended, Req.fail, h, h1]

/-- The device without what the end of a request changes: requests, accounts of sets, ports; and without registers. -/
def Dev.besideReqs : Dev := { d with reqs := [], regs := [], setq := [], ports := [] }

theorem Dev.eq_of_besideReqs {e : Dev} (h : e.besideReqs = d.besideReqs) :
    e = { d with reqs := e.reqs, regs := e.regs, setq := e.setq, ports := e.ports } :=
  congrArg (fun x : Dev => { x with reqs := e.reqs, regs := e.regs, setq := e.setq, ports := e.ports }) h

theorem Dev.discharge_same {β : Type} (π : Dev → β) (hπ : ∀ (e : Dev) s f, π (e.updSq s f) = π e) (m : Nat) (l : List (Nat × Nat)) :
    π (d.discharge m l) = π d :=
  Dev.each_same π l _ (fun _ _ => hπ _ _ _) d

theorem Dev.besideReqs_failReq (id st : Nat) : (d.failReq id st).besideReqs = d.besideReqs := by
  have hrel : (d.release id).besideReqs = d.besideReqs := by
    unfold Dev.release
    split
    · rfl
    · exact d.discharge_same Dev.besideReqs (fun _ _ _ => rfl) _ _
  have hback : ((d.release id).creditBack id 1).besideReqs = (d.release id).besideReqs := by
    unfold Dev.creditBack
    split <;> rfl
  exact hback.trans hrel

/-- The release of charges changes the requests with that number alone. -/
theorem Dev.release_reqs (id : Nat) : (d.release id).reqs = d.reqs.map fun r => if r.id = id then { r with charge := [] } else r := by
  unfold Dev.release
  split
  · next hnone =>
    have hother : ∀ r ∈ d.reqs, r.id ≠ id := by simpa [Dev.reqOf] using hnone
    symm
    rw [List.map_congr_left fun r hr => if_neg (hother r hr), List.map_id']
  · next r _ => exact congrArg (List.map _) (d.discharge_same Dev.reqs (fun _ _ _ => rfl) _ _)

theorem Dev.creditBack_reqs (id n : Nat) : (d.creditBack id n).reqs = d.reqs := by
  unfold Dev.creditBack
  split <;> rfl

/-- Every request with the number that fails ends. -/
theorem Dev.failReq_reqs (id st : Nat) : (d.failReq id st).reqs = d.reqs.map fun r => if r.id = id then r.ended st else r := by
  rw [Dev.failReq, Dev.updReq, Dev.updReqs]
  dsimp only
  rw [Dev.creditBack_reqs, Dev.release_reqs, List.map_map]
  refine List.map_congr_left fun r _ => ?_
  by_cases h : r.id = id
  · simp [h, Req.ended, Req.fail]
  · simp [h]

/-- Requests that end one after another, each counted, end as they would at once, also where several have one number. -/
theorem Dev.failEach_reqs (l : List Req) (r : RegRow) (i : Nat) (f : Fld) (st : Nat) :
    (d.each l fun d q => (d.satInc r i f).failReq q.id st).reqs =
      d.reqs.map fun t => if t.id ∈ l.map (·.id) then t.ended st else t := by
  induction l generalizing d with
  | nil => simp [Dev.each]
  | cons q l ih =>
    rw [show d.each (q :: l) _ = ((d.satInc r i f).failReq q.id st).each l _ from rfl, ih, Dev.failReq_reqs, List.map_map]
    refine List.map_congr_left fun t _ => ?_
    have hid : (t.ended st).id = t.id := rfl
    rw [Function.comp_apply]
    by_cases hq : t.id = q.id
    · rw [if_pos hq, hid, Req.ended_ended, ite_self, if_pos (by simp [hq])]
    · simp only [if_neg hq, List.map_cons, List.mem_cons, or_iff_right hq]

/-- Requests that end change requests, accounts, ports and registers alone. -/
theorem Dev.besideReqs_failEach (l : List Req) (r : RegRow) (i : Nat) (f : Fld) (st : Nat) :
    (d.each l fun d q => (d.satInc r i f).failReq q.id st).besideReqs = d.besideReqs :=
  Dev.each_same Dev.besideReqs _ _ (fun e (q : Req) => (e.satInc r i f).besideReqs_failReq q.id st) d

/-! ### ASSIGN_BED (R222, R223) -/

/-- The device in which context c holds no clay area of another bed or page count. -/
def Dev.areaReleased (c b pages : Nat) : Dev :=
  if (d.ctx c).bed == some b && (d.ctx c).clayPages == pages then d else d.clayRelease c

theorem Dev.areaReleased_frame (c b pages : Nat) :
    (∀ k, k ≠ c → (d.areaReleased c b pages).ctx k = d.ctx k) ∧ (d.areaReleased c b pages).mem = d.mem ∧
      (d.areaReleased c b pages).descs = d.descs ∧ (d.areaReleased c b pages).doms = d.doms := by
  unfold Dev.areaReleased
  split
  · exact ⟨fun _ _ => rfl, rfl, rfl, rfl⟩
  · exact d.clayRelease_frame c

/-- The device in which context c has bed b and a page count. -/
def Dev.bedAssigned (c b pages : Nat) : Dev := (d.areaReleased c b pages).updCtx c fun x => { x with bed := some b, clayPages := pages }

/-- An assignment changes its context alone, where no domain of the bed has to be powered up. -/
theorem Dev.bedAssigned_frame (c b pages : Nat) :
    ((d.bedAssigned c b pages).ctx c).bed = some b ∧ ((d.bedAssigned c b pages).ctx c).clayPages = pages ∧
      (∀ k, k ≠ c → (d.bedAssigned c b pages).ctx k = d.ctx k) ∧ (d.bedAssigned c b pages).mem = d.mem ∧
      (d.bedAssigned c b pages).descs = d.descs ∧ (d.bedAssigned c b pages).doms = d.doms := by
  obtain ⟨hctx, hrest⟩ := d.areaReleased_frame c b pages
  have hself := (d.areaReleased c b pages).ctx_updCtx_same c fun x => { x with bed := some b, clayPages := pages }
  exact ⟨congrArg Ctx.bed hself, congrArg Ctx.clayPages hself,
    fun k hk => (Dev.ctx_updCtx_other _ _ _ _ hk).trans (hctx k hk), hrest⟩

theorem Dev.bedPowerUp_on (b : Nat) (h : ∀ k ∈ d.bedDoms b, (d.dom k).st ≠ .off) : d.bedPowerUp b = d := by
  have hoff : (d.bedDoms b).filter (fun k => (d.dom k).st == .off) = [] := by simpa using h
  rw [Dev.bedPowerUp, hoff]
  rfl

section
variable (gated : Nat → Bool) (e : Entry) (ref : CmdRef) (c : Nat) (hpages : bits (e.arg 0) 16 9 ≤ 320)
include hpages

theorem assignBody_denied (h : d.bedDenied (d.ctx c).tenant (d.ctx c).port (bits (e.arg 0) 0 3) = true) :
    assignBody gated e ref c d = d.complete ref 0x20A 0 0 := by
  simp [assignBody, Nat.not_lt.mpr hpages, h]

theorem assignBody_busy (h : d.bedDenied (d.ctx c).tenant (d.ctx c).port (bits (e.arg 0) 0 3) = false) (hps : (d.ctx c).ps ≠ .idle) :
    assignBody gated e ref c d = d.complete ref 0x20C 0 0 := by
  simp [assignBody, Nat.not_lt.mpr hpages, h, hps]

theorem assignBody_idle (h : d.bedDenied (d.ctx c).tenant (d.ctx c).port (bits (e.arg 0) 0 3) = false) (hps : (d.ctx c).ps = .idle)
    (hon : ∀ k ∈ d.bedDoms (bits (e.arg 0) 0 3), (d.dom k).st ≠ .off) :
    assignBody gated e ref c d = (d.bedAssigned c (bits (e.arg 0) 0 3) (bits (e.arg 0) 16 9)).complete ref 0 0 0 := by
  have hoff : (d.bedDoms (bits (e.arg 0) 0 3)).any (fun k => (d.dom k).st == .off) = false := by simpa using hon
  simp [assignBody, Nat.not_lt.mpr hpages, h, hps, hoff, Dev.assignDo, d.bedPowerUp_on _ hon, Dev.bedAssigned, Dev.areaReleased]

end

/-! ### RING_SET (R342) -/

/-- May RING_SET place the rings of entry e: each within one binding, and no command of the context without its final completion. -/
def Dev.ringsFit (e : Entry) (c : Nat) : Prop :=
  d.within c (e.arg 0) (64 * 2 ^ bits (e.arg 2) 0 4) rR = true ∧ d.within c (e.arg 1) (64 * 2 ^ bits (e.arg 2) 4 4) rW = true ∧
    d.cmdsOf c = [] ∧ (d.ctx c).ring.waiting.any ofCommand = false ∧
    ((d.ctx c).ring.isSet = true → (d.ctx c).ring.faulted = false → (d.ctx c).ring.sqHead = (d.ctx c).ring.sqTail)

/-- The empty rings of entry e, behind what waits to be written. -/
def Ring.placed (r : Ring) (e : Entry) : Ring := {
  waiting := r.waiting, isSet := true, sqBase := e.arg 0, cqBase := e.arg 1, sqLog := bits (e.arg 2) 0 4, cqLog := bits (e.arg 2) 4 4,
  coalesce := bits (e.arg 2) 8 12 }

section
variable (e : Entry) (ref : CmdRef) (c : Nat)

theorem ringSetBody_badSize (h : bits (e.arg 2) 0 4 < 4 ∨ 12 < bits (e.arg 2) 0 4 ∨ bits (e.arg 2) 4 4 < 4 ∨ 12 < bits (e.arg 2) 4 4) :
    ringSetBody e ref c d = d.complete ref 0x201 0 0 := by
  simp [ringSetBody, or_assoc, h]

/-- Rings of a size that there is are placed where they fit, and refused where they do not. -/
theorem ringSetBody_sized (hn : 4 ≤ bits (e.arg 2) 0 4) (hn' : bits (e.arg 2) 0 4 ≤ 12) (hm : 4 ≤ bits (e.arg 2) 4 4)
    (hm' : bits (e.arg 2) 4 4 ≤ 12) :
    (¬ d.ringsFit e c → ringSetBody e ref c d = d.complete ref 0x20F 0 0) ∧
      (d.ringsFit e c → ringSetBody e ref c d =
        (d.updCtx c fun x => { x with ring := (d.ctx c).ring.placed e }).complete ref 0 0 0) := by
  have hsize : ¬ (bits (e.arg 2) 0 4 < 4 ∨ 12 < bits (e.arg 2) 0 4 ∨ bits (e.arg 2) 4 4 < 4 ∨ 12 < bits (e.arg 2) 4 4) := by omega
  have hfit : (!d.within c (e.arg 0) (64 * 2 ^ bits (e.arg 2) 0 4) rR || !d.within c (e.arg 1) (64 * 2 ^ bits (e.arg 2) 4 4) rW ||
      !(d.cmdsOf c).isEmpty || (d.ctx c).ring.waiting.any ofCommand ||
      ((d.ctx c).ring.isSet && !(d.ctx c).ring.faulted && (d.ctx c).ring.sqHead ≠ (d.ctx c).ring.sqTail)) = true ↔ ¬ d.ringsFit e c := by
    rw [← Bool.not_eq_false, not_iff_not]
    simp [Dev.ringsFit, and_assoc]
  unfold ringSetBody
  dsimp only
  rw [if_neg (by simpa [or_assoc] using hsize)]
  exact ⟨fun h => if_pos (hfit.mpr h), fun h => if_neg fun hbad => hfit.mp hbad h⟩

end

/-! ### QUERY (R343) -/

/-- Digit i of a number that is written in base b. -/
theorem ofDigits_digit (b : Nat) (l : List Nat) (hl : ∀ a ∈ l, a < b) (i : Nat) :
    Nat.ofDigits b l / b ^ i % b = l.getD i 0 := by
  induction l generalizing i with
  | nil => simp
  | cons a l ih =>
    have ha : a < b := hl a (by simp)
    cases i with
    | zero => simp [Nat.ofDigits_cons, Nat.mod_eq_of_lt ha]
    | succ i =>
      have hdiv : (a + b * Nat.ofDigits b l) / b = Nat.ofDigits b l := by
        rw [Nat.add_mul_div_left _ _ (by omega), Nat.div_eq_of_lt ha, Nat.zero_add]
      rw [Nat.ofDigits_cons, pow_succ', ← Nat.div_div_eq_div_mul, hdiv, List.getD_cons_succ]
      exact ih (fun x hx => hl x (List.mem_cons_of_mem _ hx)) i

/-- The payload of a list of 32-bit handles, as QUERY lays it out. -/
def handlesWord (l : List Nat) : Nat := ((List.range l.length).map fun i => l.getD i 0 * 2 ^ (32 * i)).sum

theorem handlesWord_eq_ofDigits (l : List Nat) : handlesWord l = Nat.ofDigits (2 ^ 32) l := by
  rw [handlesWord, Nat.ofDigits_eq_sum_mapIdx]
  congr 1
  exact List.ext_getElem (by simp) fun i h1 h2 => by
    have hi : i < l.length := by simpa using h1
    simp [hi, pow_mul]

/-- Up to eight handles of 32 bits each read back from the payload. -/
theorem bits_handlesWord (l : List Nat) (hlen : l.length ≤ 8) (hl : ∀ a ∈ l, a < 2 ^ 32) (i : Nat) :
    bits (BitVec.ofNat 256 (handlesWord l)).toNat (32 * i) 32 = l.getD i 0 := by
  have hfits : Nat.ofDigits (2 ^ 32) l < 2 ^ 256 :=
    calc Nat.ofDigits (2 ^ 32) l < (2 ^ 32) ^ l.length := Nat.ofDigits_lt_base_pow_length (by decide) hl
      _ ≤ (2 ^ 32) ^ 8 := Nat.pow_le_pow_right (by decide) hlen
      _ = 2 ^ 256 := by decide
  rw [handlesWord_eq_ofDigits, BitVec.toNat_ofNat, Nat.mod_eq_of_lt hfits, bits, pow_mul]
  exact ofDigits_digit _ _ hl i

/-- QUERY of kind 1 on port p answers the handles of its contexts from a number upward, and the number to go on with. -/
theorem queryBody_handles (p : Nat) (e : Entry) (ref : CmdRef) (c : Nat) (h : e.arg 0 ≠ 0) :
    queryBody p false e ref c d = d.complete ref 0 ((((d.owned p).filter fun k => e.arg 1 ≤ k)[8]?).getD 0xFFFF) 0
      (BitVec.ofNat 256 (handlesWord ((((d.owned p).filter fun k => e.arg 1 ≤ k).take 8).map d.handle))) := by
  rw [queryBody, if_neg h]
  rfl

/-- Of a list of contexts whose handles have 32 bits, the first eight read back from the payload. -/
theorem Dev.bits_handles (cs : List Nat) (hcs : ∀ k ∈ cs, d.handle k < 2 ^ 32) (i : Nat) (hi : i < 8) (hl : i < cs.length) :
    bits (BitVec.ofNat 256 (handlesWord ((cs.take 8).map d.handle))).toNat (32 * i) 32 = d.handle (cs.getD i 0) := by
  have hget : ((cs.take 8).map d.handle).getD i 0 = d.handle (cs.getD i 0) := by
    simp [List.getD_eq_getElem?_getD, List.getElem?_take_of_lt hi, hl]
  rw [bits_handlesWord _ (by simp) (fun a ha => ?_), hget]
  obtain ⟨k, hk, rfl⟩ := List.mem_map.mp ha
  exact hcs k (List.mem_of_mem_take hk)

/-! ### PARK, and the ends of a park and of an unpark (R226, R227) -/

section
variable (e : Entry) (ref : CmdRef) (c : Nat)

theorem parkBody_parked (h : (d.ctx c).st = .parked) : parkBody e ref c d = d.complete ref 0 0 0 := by
  simp [parkBody, h]

theorem parkBody_elsewhere (hp : (d.ctx c).st ≠ .parked) (ha : (d.ctx c).st ≠ .active) :
    parkBody e ref c d = d.complete ref 0x09 0 0 := by
  simp [parkBody, hp, ha]

theorem parkBody_active (h : (d.ctx c).st = .active) :
    parkBody e ref c d = d.updCtx c fun x => { x with
      parkCmds := x.parkCmds ++ [ref], parkWait := !x.parking, parkSleep := (x.parkWait && x.parkSleep) || e.arg 0 = 1 } := by
  simp [parkBody, h]

end

/-- A context whose park has ended. -/
def Ctx.parkEnded (x : Ctx) : Ctx := { x with
  st := if x.st == .active then .parked else x.st, slot := none, parking := false, parkCmds := [], parkSleep := false }

/-- Where nothing waits for a slot, the end of a park changes its context, and what the completions of the PARKs change. -/
theorem Dev.cplKept_parkDone (c : Nat) (hp : (d.ctx c).parking = true) (hq : d.slotq = []) :
    (d.parkDone c).cplKept = (d.updCtx c Ctx.parkEnded).cplKept := by
  unfold Dev.parkDone
  extract_lets x slot d1 d2 d3
  rw [if_neg (by simp [x, hp])]
  have hd2 : d2.cplKept = (d.updCtx c Ctx.parkEnded).cplKept := rfl
  have hd3 : d3.cplKept = (d.updCtx c Ctx.parkEnded).cplKept :=
    (Dev.each_same Dev.cplKept _ _ (fun e r => e.cplKept_complete r 0 0 0 0 true) d2).trans hd2
  have hq3 : d3.slotq = [] := (congrArg CplKept.slotq hd3 :).trans hq
  rw [hq3]
  exact hd3

theorem Dev.destroyDue_unwanted (c : Nat) (h : (d.ctx c).destroyWanted = false) : d.destroyDue c = d := by
  simp [Dev.destroyDue, h]

theorem Dev.unparkDue_nothingWaits (c : Nat) (hr : d.reqs = []) (hw : d.waiters = []) : d.unparkDue c = d := by
  simp [Dev.unparkDue, hr, hw]

/-- The end of a park where nothing waits and no destruction does: what the end of the park itself does. -/
theorem Dev.parkComplete_nothingWaits (c : Nat) (hp : (d.ctx c).parking = true) (hdw : (d.ctx c).destroyWanted = false)
    (hr : d.reqs = []) (hw : d.waiters = []) (hq : d.slotq = []) :
    ((d.parkDone c).destroyDue c).unparkDue c = d.parkDone c ∧ ((d.parkDone c).ctx c).besideRing = (d.ctx c).parkEnded.besideRing ∧
      (d.parkDone c).mem = d.mem ∧ (d.parkDone c).clay = d.clay := by
  have hkept := d.cplKept_parkDone c hp hq
  have hctx : ((d.parkDone c).ctx c).besideRing = (d.ctx c).parkEnded.besideRing := by
    rw [← d.ctx_updCtx_same c Ctx.parkEnded]
    exact congrArg (fun x : CplKept => x.ctx c) hkept
  have hdw' : ((d.parkDone c).ctx c).destroyWanted = false := (congrArg Ctx.destroyWanted hctx :).trans hdw
  have hr' : (d.parkDone c).reqs = [] := (congrArg CplKept.reqs hkept :).trans hr
  have hw' : (d.parkDone c).waiters = [] := (congrArg CplKept.waiters hkept :).trans hw
  rw [Dev.destroyDue_unwanted _ c hdw', Dev.unparkDue_nothingWaits _ c hr' hw']
  exact ⟨rfl, hctx, congrArg CplKept.mem hkept, congrArg CplKept.clay hkept⟩

/-- A context whose unpark has ended. -/
def Ctx.unparkEnded (x : Ctx) : Ctx := { x with st := if x.st == .parked then .active else x.st, unparking := false }

theorem Dev.dropNoWaiter (p : Bell → Bool) (hw : d.waiters = []) : { d with waiters := d.waiters.filter p } = d := by
  have hnone : d.waiters.filter p = d.waiters := by rw [hw]; rfl
  exact congrArg (fun l => { d with waiters := l }) hnone

/-- Where nothing waits in the park queue, the end of an unpark changes its context and is counted. -/
theorem Dev.unparkDone_nothingWaits (c : Nat) (hu : (d.ctx c).unparking = true) (hr : d.reqs = []) (hw : d.waiters = []) :
    d.unparkDone c = (d.updCtx c Ctx.unparkEnded).wrapInc row_CTX_PORT_CNT (d.ctx c).port f_CTX_PORT_CNT_UNPARKS := by
  unfold Dev.unparkDone
  extract_lets x d1 d2 ids bells d3 go
  rw [if_neg (by simp [x, hu])]
  have hd2 : d2 = (d.updCtx c Ctx.unparkEnded).wrapInc row_CTX_PORT_CNT (d.ctx c).port f_CTX_PORT_CNT_UNPARKS := rfl
  have hd3 : d3 = d2 := d2.dropNoWaiter _ hw
  have hids : ids = [] := by simp [ids, d2, d1, hr]
  have hbells : bells = [] := by simp [bells, d2, d1, hw]
  rw [hids, hbells, hd3, hd2]
  rfl

theorem Dev.unparkComplete_nothingWaits (c : Nat) (hu : (d.ctx c).unparking = true) (hdw : (d.ctx c).destroyWanted = false)
    (hr : d.reqs = []) (hw : d.waiters = []) :
    (d.unparkDone c).destroyDue c =
      (d.updCtx c Ctx.unparkEnded).wrapInc row_CTX_PORT_CNT (d.ctx c).port f_CTX_PORT_CNT_UNPARKS := by
  rw [d.unparkDone_nothingWaits c hu hr hw]
  exact Dev.destroyDue_unwanted _ c ((congrArg Ctx.destroyWanted (d.ctx_updCtx_same c Ctx.unparkEnded) :).trans hdw)

/-! ### The end of a wait in the park queue (R227) -/

/-- Requests whose wait in the park queue of port p has ended. -/
def Dev.parkLateReqs (p : Nat) : List Req := d.reqs.filter fun r => r.port == p && r.stage == .parkQ && d.parkLate p r.common

/-- Where no doorbell waits, those requests end with NACK_RETRY, each counted. -/
theorem Dev.parkExpire_noWaiter (p : Nat) (hw : d.waiters = []) :
    d.parkExpire p = d.each (d.parkLateReqs p) fun d r =>
      (d.satInc row_CTX_PORT_CNT p f_CTX_PORT_CNT_NACK_RETRY).failReq r.id 0x0B := by
  unfold Dev.parkExpire
  extract_lets late bells d1 d2
  have hbells : bells = [] := by simp [bells, hw]
  have hd2 : d2 = d1 := by simp [d2, hbells, Dev.each]
  have hw1 : d1.waiters = [] :=
    (congrArg Dev.waiters (d.besideReqs_failEach late row_CTX_PORT_CNT p f_CTX_PORT_CNT_NACK_RETRY 0x0B) :).trans hw
  rw [hd2]
  exact d1.dropNoWaiter _ hw1

end

/-! ### The statement -/

section
variable {s : State} {q : Queue} {e : Entry} {d d' : Dev} {c : Nat} (hs : s.dev.starts q e = some d) (hc : d.cmdCheck q e = (0, c))
include hs hc

/-- A command that its queue starts and whose checks pass ends in what its body answers, and what follows. -/
theorem exec_assignBed (ho : e.opc = 0x07) (hb : assignBody s.gated e (d.cmdRef q e) c d = d') :
    exec (.assignBed q e) s = .next { s with dev := d'.finish } :=
  hb ▸ State.devCmd_runs 0x07 q e (assignBody s.gated e) s d c ho hs hc

theorem exec_ringSet (ho : e.opc = 0x08) (hb : ringSetBody e (d.cmdRef q e) c d = d') :
    exec (.ringSet q e) s = .next { s with dev := d'.finish } :=
  hb ▸ State.devCmd_runs 0x08 q e (ringSetBody e) s d c ho hs hc

theorem exec_query (ho : e.opc = 0x0A) (hb : queryBody (qPort q) (q == .fm) e (d.cmdRef q e) c d = d') :
    exec (.query q e) s = .next { s with dev := d'.finish } :=
  hb ▸ State.devCmd_runs 0x0A q e (queryBody (qPort q) (q == .fm) e) s d c ho hs hc

theorem exec_park (ho : e.opc = 0x09) (hb : parkBody e (d.cmdRef q e) c d = d') :
    exec (.park q e) s = .next { s with dev := d'.finish } :=
  hb ▸ State.devCmd_runs 0x09 q e (parkBody e) s d c ho hs hc

end

section
variable {s : State} {d' : Dev}

/-- An event of parking whose trigger holds ends in what it does, and what follows. -/
theorem exec_parkComplete {c : Fin 4096} (hserv : s.dev.serving = true) (hp : (s.dev.ctx c.val).parking = true)
    (hb : ((s.dev.parkDone c.val).destroyDue c.val).unparkDue c.val = d') :
    exec (.parkComplete c) s = .next { s with dev := d'.finish } :=
  hb ▸ State.devEvent_holds (fun d => d.serving && (d.ctx c.val).parking)
    (fun d => ((d.parkDone c.val).destroyDue c.val).unparkDue c.val) s (by simp [hserv, hp])

theorem exec_unparkComplete {c : Fin 4096} (hserv : s.dev.serving = true) (hu : (s.dev.ctx c.val).unparking = true)
    (hb : (s.dev.unparkDone c.val).destroyDue c.val = d') : exec (.unparkComplete c) s = .next { s with dev := d'.finish } :=
  hb ▸ State.devEvent_holds (fun d => d.serving && (d.ctx c.val).unparking) (fun d => (d.unparkDone c.val).destroyDue c.val) s
    (by simp [hserv, hu])

theorem exec_parkQueueTimeout {n : Fin 16} (hwork : s.dev.working = true) {r : Req} (hr : r ∈ s.dev.parkLateReqs n.val)
    (hb : s.dev.parkExpire n.val = d') : exec (.parkQueueTimeout n) s = .next { s with dev := d'.finish } := by
  have hany : s.dev.reqs.any (fun r => r.port == n.val && r.stage == .parkQ && s.dev.parkLate n.val r.common) = true :=
    List.any_eq_true.mpr ⟨r, List.mem_filter.mp hr⟩
  exact hb ▸ State.devEvent_holds (fun d => d.working && ((d.reqs.any fun r => r.port == n.val && r.stage == .parkQ &&
      d.parkLate n.val r.common) || d.waiters.any fun w => w.port == n.val && !w.held && d.parkLate n.val w.time))
    (fun d => d.parkExpire n.val) s (by simp only [hwork, hany, Bool.true_or, Bool.and_self])

end

/-- Settles O35: each clause by what the body of its command does in that case. -/
theorem assignRingsQueryAndParking : Obligations.AssignRingsQueryAndParking := by
  unfold Obligations.AssignRingsQueryAndParking
  dsimp only
  refine ⟨fun s q e d c hs hc => ⟨fun ho hpages => ⟨fun hden => ?_, fun hden => ⟨fun hps => ?_, fun hps hon => ?_⟩⟩,
    fun ho => ⟨fun hbad => ?_, fun hn hn' hm hm' => ⟨fun hfit => ?_, fun hfit => ?_⟩⟩,
    fun ho => ⟨fun h0 => ?_, fun p hq h1 hcs => ?_⟩⟩,
    fun s => ⟨fun q e d c hs hc ho => ⟨fun hst => ?_, fun hp ha => ?_, fun hst => ?_⟩,
      fun c hserv => ⟨fun hp hdw hr hw hslot => ?_, fun hu hdw hr hw => ?_⟩, fun n hwork hw hlate => ?_⟩⟩
  -- ASSIGN_BED
  · exact exec_assignBed hs hc ho (assignBody_denied _ _ _ _ _ hpages hden)
  · exact exec_assignBed hs hc ho (assignBody_busy _ _ _ _ _ hpages hden hps)
  · exact ⟨_, exec_assignBed hs hc ho (assignBody_idle _ _ _ _ _ hpages hden hps hon), d.bedAssigned_frame _ _ _⟩
  -- RING_SET
  · exact exec_ringSet hs hc ho (ringSetBody_badSize _ _ _ _ hbad)
  · exact exec_ringSet hs hc ho ((ringSetBody_sized d e _ c hn hn' hm hm').1 hfit)
  · exact ⟨_, exec_ringSet hs hc ho ((ringSetBody_sized d e _ c hn hn' hm hm').2 hfit), rfl,
      fun k hk => d.ctx_updCtx_other _ _ _ hk, d.ctx_updCtx_same _ _⟩
  -- QUERY
  · exact exec_query hs hc ho (if_pos h0)
  · subst hq
    exact ⟨_, exec_query hs hc ho (queryBody_handles _ _ _ _ _ h1), fun i hi hl => d.bits_handles _ hcs i hi hl⟩
  -- PARK
  · exact exec_park hs hc ho (parkBody_parked _ _ _ _ hst)
  · exact exec_park hs hc ho (parkBody_elsewhere _ _ _ _ hp ha)
  · exact ⟨_, exec_park hs hc ho (parkBody_active _ _ _ _ hst), rfl, fun k hk => d.ctx_updCtx_other _ _ _ hk, d.ctx_updCtx_same _ _⟩
  -- the end of a park
  · obtain ⟨hdone, hctx, hmem, hclay⟩ := s.dev.parkComplete_nothingWaits c.val hp hdw hr hw hslot
    refine ⟨_, exec_parkComplete hserv hp hdone, (congrArg Ctx.st hctx :).trans ?_, congrArg Ctx.slot hctx, congrArg Ctx.parking hctx,
      (congrArg Ctx.binds hctx :), hmem, hclay⟩
    simp [Ctx.parkEnded, Ctx.besideRing]
  -- the end of an unpark
  · refine ⟨_, exec_unparkComplete hserv hu (s.dev.unparkComplete_nothingWaits c.val hu hdw hr hw),
      (s.dev.ctx_updCtx_same c.val Ctx.unparkEnded).trans ?_, rfl⟩
    simp [Ctx.unparkEnded]
  -- the end of a wait in the park queue
  · obtain ⟨r, hr, hrl⟩ := hlate
    refine ⟨_, exec_parkQueueTimeout hwork (List.mem_filter.mpr ⟨hr, hrl⟩) (s.dev.parkExpire_noWaiter n.val hw),
      s.dev.eq_of_besideReqs (s.dev.besideReqs_failEach _ _ _ _ _), fun t ht htl => ⟨t.ended 0x0B, ?_, rfl, rfl, rfl⟩⟩
    have hlist : t ∈ s.dev.parkLateReqs n.val := List.mem_filter.mpr ⟨ht, htl⟩
    rw [Dev.failEach_reqs]
    exact List.mem_map.mpr ⟨t, ht, if_pos (List.mem_map_of_mem hlist)⟩

end Sys2Proof.Machine

/-! PROOF. Fences, rejoins and retirement of domains (R369 to R372, R377, R379). What the operations under a fence keep is one relation
(Dev.contained): domains, flash, the stratum, a latent fault once raised and the sets once fenced stay as they are, and so does memory
where no request is under way. From it: what a fence, a passed reset, a failed self-test and a late reset leave, and the statement. -/
namespace Sys2Proof.Machine

section
variable (d : Dev)

/-! ### What a containment operation keeps -/

/-- The device e is d after operations of containment: what none of them changes, and what only grows. -/
structure Dev.contained (d e : Dev) : Prop where
  doms : e.doms = d.doms
  flash : e.flash = d.flash
  strat : e.strat = d.strat
  reqs : d.reqs = [] → e.reqs = []
  mem : d.reqs = [] → e.mem = d.mem
  latent : d.pend.getLsbD 4 = true → d.faultN = true → e.pend.getLsbD 4 = true ∧ e.faultN = true
  fenced : ∀ k, d.setFenced k = true → e.setFenced k = true

theorem Dev.contained_refl : d.contained d := ⟨rfl, rfl, rfl, id, fun _ => rfl, And.intro, fun _ => id⟩

variable {d} in
theorem Dev.contained_trans {e f : Dev} (h : d.contained e) (k : e.contained f) : d.contained f where
  doms := k.doms.trans h.doms
  flash := k.flash.trans h.flash
  strat := k.strat.trans h.strat
  reqs := fun h0 => k.reqs (h.reqs h0)
  mem := fun h0 => (k.mem (h.reqs h0)).trans (h.mem h0)
  latent := fun hp hf => (h.latent hp hf).elim k.latent
  fenced := fun s hs => k.fenced s (h.fenced s hs)

theorem Dev.contained_each {α : Type} (l : List α) (f : Dev → α → Dev) (hf : ∀ e x, Dev.contained e (f e x)) :
    d.contained (d.each l f) :=
  Dev.each_keeps d.contained l f (fun e x he => Dev.contained_trans he (hf e x)) d d.contained_refl

theorem Dev.contained_ite (c : Prop) [Decidable c] {e f : Dev} (he : d.contained e) (hf : d.contained f) :
    d.contained (if c then e else f) := by
  split
  · exact he
  · exact hf

/-- The part of a device that most operations of containment leave alone. -/
structure FenceKept where
  doms : Tab Dom
  flash : List Host.Cell
  strat : Option Strat
  reqs : List Req
  mem : List Host.Cell
  pend : BitVec 5
  faultN : Bool
  fenced : Nat → Bool

/-- That part of device d. -/
def Dev.fenceKept : FenceKept := ⟨d.doms, d.flash, d.strat, d.reqs, d.mem, d.pend, d.faultN, d.setFenced⟩

variable {d} in
/-- An operation that leaves that part alone is one of containment. -/
theorem Dev.contained_of_kept {e : Dev} (h : e.fenceKept = d.fenceKept) : d.contained e where
  doms := congrArg FenceKept.doms h
  flash := congrArg FenceKept.flash h
  strat := congrArg FenceKept.strat h
  reqs := fun h0 => (congrArg FenceKept.reqs h).trans h0
  mem := fun _ => congrArg FenceKept.mem h
  latent := fun hp hf => ⟨(congrArg (fun x => x.pend.getLsbD 4) h).trans hp, (congrArg FenceKept.faultN h).trans hf⟩
  fenced := fun k hk => (congrFun (congrArg FenceKept.fenced h) k).trans hk

variable {d} in
theorem Dev.fenceKept_eventsOnly {e : Dev} (h : d.eventsOnly e) : e.fenceKept = d.fenceKept := (congrArg Dev.fenceKept h.rest :)

variable {d} in
theorem Dev.contained_of_eventsOnly {e : Dev} (h : d.eventsOnly e) : d.contained e :=
  Dev.contained_of_kept (Dev.fenceKept_eventsOnly h)

theorem Dev.contained_event (dst : Option Nat) (code ctx data : Nat) : d.contained (d.event dst code ctx data) :=
  Dev.contained_of_eventsOnly (d.eventsOnly_event _ _ _ _)

/-- A change of the account of a set that does not lift its fence. -/
theorem Dev.contained_updSq (s : Nat) (f : SetQ → SetQ) (hf : ∀ q, q.fenced = true → (f q).fenced = true := by exact fun _ => id) :
    d.contained (d.updSq s f) where
  doms := rfl
  flash := rfl
  strat := rfl
  reqs := id
  mem := fun _ => rfl
  latent := And.intro
  fenced := fun k hk => by
    by_cases h : k = s
    · rw [h, Dev.setFenced, Dev.sq_updSq_same]
      exact hf _ (h ▸ hk)
    · rwa [Dev.setFenced, Dev.sq_updSq_other _ _ _ _ h]

theorem Dev.contained_discharge (m : Nat) (l : List (Nat × Nat)) : d.contained (d.discharge m l) :=
  d.contained_each _ _ fun e _ => e.contained_updSq _ _

/-! ### Safety events (R368, R378) -/

variable {d} in
theorem Dev.eventsOnly_withFaultN {e : Dev} (h : d.eventsOnly e) (b : Bool) :
    ({ d with faultN := b } : Dev).eventsOnly { e with faultN := b } :=
  ⟨congrArg (fun x : Dev => { x with faultN := b }) h.rest, h.regs, h.ports⟩

/-- The device with pending bit k of SAF_STATUS set. -/
def Dev.pendRaised (k : Nat) : Dev := { d with pend := d.pend ||| BitVec.ofNat 5 (2 ^ k) }

theorem Dev.pendRaised_ne_zero (k : Nat) (hk : k < 5) : (d.pendRaised k).pend ≠ 0 := fun h => by
  have hbit : (d.pendRaised k).pend.getLsbD k = true := by
    rw [Dev.pendRaised, BitVec.getLsbD_or, BitVec.getLsbD_ofNat, Nat.testBit_two_pow_self, decide_eq_true hk]
    simp
  rw [h] at hbit
  simp at hbit

/-- A safety event sets its pending bit and asserts FAULT_N; the rest is what an event writes. -/
theorem Dev.safety_spec (k code data : Nat) (hk : k < 5) :
    ({ d.pendRaised k with faultN := true } : Dev).eventsOnly (d.safety k code data) := by
  have hev := (d.pendRaised k).eventsOnly_event none code 0 data
  have hpend : ((d.pendRaised k).event none code 0 data).pend ≠ 0 :=
    (congrArg Dev.pend hev.rest).trans_ne (d.pendRaised_ne_zero k hk)
  have hcond : ((d.pendRaised k).event none code 0 data).faultCond = true := by
    rw [Dev.faultCond, decide_eq_true hpend]
    simp only [Bool.true_or]
  have hpin := ((d.pendRaised k).event none code 0 data).faultPin_spec
  rw [hcond] at hpin
  exact Dev.eventsOnly_trans (Dev.eventsOnly_withFaultN hev true) hpin

theorem Dev.contained_safety (k code data : Nat) (hk : k < 5) : d.contained (d.safety k code data) := by
  refine Dev.contained_trans ?_ (Dev.contained_of_eventsOnly (d.safety_spec k code data hk))
  exact ⟨rfl, rfl, rfl, id, fun _ => rfl, fun hp _ => ⟨by simp [Dev.pendRaised, hp], rfl⟩, fun _ => id⟩

/-! ### The memory clock of a controller (R255, R275, R278, R297) -/

/-- The part that containment keeps, and the counters of fences and rejoins. -/
def Dev.clockKept : FenceKept × Word := (d.fenceKept, d.rd row_SAF_CNT 0)

variable {d} in
theorem Dev.contained_of_clockKept {e : Dev} (h : e.clockKept = d.clockKept) : d.contained e :=
  Dev.contained_of_kept (congrArg Prod.fst h)

theorem Dev.clockKept_accrue (i : Nat) : (d.accrue i).clockKept = d.clockKept := by
  unfold Dev.accrue
  split <;> rfl

theorem Dev.clockKept_wrapInc (r : RegRow) (i : Nat) (f : Fld) (k : Nat) (h : row_SAF_CNT.addr 0 ≠ r.addr i) :
    (d.wrapInc r i f k).clockKept = d.clockKept :=
  congrArg (Prod.mk d.fenceKept) (d.rd_setFld_other r row_SAF_CNT i 0 f _ h)

theorem Dev.clockKept_updSq (s : Nat) (f : SetQ → SetQ) (hf : ∀ q, (f q).fenced = q.fenced) :
    (d.updSq s f).clockKept = d.clockKept := by
  have hfenced : (d.updSq s f).setFenced = d.setFenced := by
    funext k
    by_cases h : k = s
    · rw [h, Dev.setFenced, Dev.sq_updSq_same]
      exact hf _
    · rw [Dev.setFenced, Dev.sq_updSq_other _ _ _ _ h, Dev.setFenced]
  exact congrArg (fun g => ((⟨d.doms, d.flash, d.strat, d.reqs, d.mem, d.pend, d.faultN, g⟩ : FenceKept), d.rd row_SAF_CNT 0)) hfenced

/-- The counters of a controller are not those of fences and rejoins. -/
theorem cntOf_addr_ne (i : Nat) : row_SAF_CNT.addr 0 ≠ (cntOf i).1.addr (cntOf i).2 := by
  unfold cntOf
  split <;> simp only [RegRow.addr, row_SAF_CNT, row_LMC_CNT, row_HMC_CNT] <;> omega

theorem Dev.clockKept_updInst (i : Nat) (f : Inst → Inst) : (d.updInst i f).clockKept = d.clockKept := rfl

/-- A burst counts itself, and changes its controller and the account of its class. -/
theorem Dev.clockKept_burst (i : Nat) (p : Piece) : (d.burst i p).clockKept = d.clockKept := by
  have hcnt := cntOf_addr_ne i
  unfold Dev.burst
  split
  next r j hc =>
  rw [hc] at hcnt
  extract_lets x part key open_ now d1 d2 m
  have h1 : d1.clockKept = d.clockKept := d.clockKept_wrapInc r j _ _ hcnt
  have h2 : d2.clockKept = d.clockKept := by
    unfold d2
    split
    · exact (d1.clockKept_wrapInc r j _ _ hcnt).trans h1
    · exact h1
  split
  next dir run _ =>
  extract_lets d3
  have h3 : d3.clockKept = d.clockKept := (d2.clockKept_updInst i _).trans h2
  split
  · exact h3
  · exact (d3.clockKept_updSq _ _ fun q => by split <;> rfl).trans h3

theorem Dev.clockKept_writeOut (i : Nat) : (d.writeOut i).clockKept = d.clockKept :=
  Dev.each_same Dev.clockKept _ _ (fun e p => e.clockKept_burst i p) d

theorem Dev.clockKept_clockStop (i : Nat) (st : InstSt) : (d.clockStop i st).clockKept = d.clockKept :=
  (Dev.clockKept_writeOut (d.accrue i) i).trans (d.clockKept_accrue i)

theorem Dev.clockKept_replayOver (i : Nat) : (d.replayOver i).clockKept = d.clockKept :=
  (Dev.clockKept_updInst _ i _).trans ((Dev.clockKept_updInst _ i _).trans ((Dev.clockKept_updInst _ i _).trans (d.clockKept_accrue i)))

theorem Dev.clockKept_toSelfRefresh (i : Nat) : (d.toSelfRefresh i).clockKept = d.clockKept := by
  unfold Dev.toSelfRefresh
  dsimp only
  split
  · exact d.clockKept_clockStop i _
  · rfl

/-- With no request under way no read is made anew. -/
theorem Dev.readAgain_noReqs (i : Nat) (h : d.reqs = []) : d.readAgain i = d := by
  rw [Dev.readAgain, h]
  rfl

theorem Dev.clockKept_replayEnds (i : Nat) (h : d.reqs = []) : (d.replayEnds i).clockKept = d.clockKept := by
  have hover := d.clockKept_replayOver i
  have hreqs : (d.replayOver i).reqs = [] := (congrArg (fun x => x.1.reqs) hover).trans h
  unfold Dev.replayEnds
  rw [Dev.readAgain_noReqs _ i hreqs]
  dsimp only
  split
  · exact (Dev.clockKept_toSelfRefresh _ i).trans hover
  · exact hover

/-! ### Moves that are abandoned (R79, R371) -/

theorem Dev.contained_pressureCheck (s : Nat) : d.contained (d.pressureCheck s) := by
  unfold Dev.pressureCheck
  split
  · exact d.contained_refl
  split
  · exact d.contained_refl
  extract_lets f q data
  split
  · exact Dev.contained_trans (d.contained_updSq s _) (Dev.contained_event _ _ _ _ _)
  split
  · next d1 _ _ =>
    have h1 : d.contained d1 := Dev.contained_of_kept rfl
    exact Dev.contained_trans h1 (Dev.contained_trans (d1.contained_updSq s _) (Dev.contained_event _ _ _ _ _))
  · exact d.contained_refl

theorem Dev.contained_pressureAll : d.contained d.pressureAll := d.contained_each _ _ fun e s => e.contained_pressureCheck s

theorem Dev.contained_jRetire (grp x : Nat) : d.contained (d.jRetire grp x) := Dev.contained_of_kept rfl

theorem Dev.contained_abandon (x : Nat) : d.contained (d.abandon x) := by
  unfold Dev.abandon
  split
  · exact d.contained_refl
  next m _ =>
  split
  · exact d.contained_refl
  extract_lets d1 d2
  have h1 : d.contained d1 := Dev.contained_of_kept rfl
  have h2 : d1.contained d2 := by
    unfold d2
    split
    · next j _ =>
      have hcnt : d1.contained (d1.satInc row_LSS_MOVE_CNT j f_LSS_MOVE_CNT_ABANDONED) := Dev.contained_of_kept rfl
      exact Dev.contained_trans hcnt (Dev.contained_discharge _ _ _)
    · exact d1.contained_refl
  exact Dev.contained_trans h1 (Dev.contained_trans h2 (Dev.contained_trans (d2.contained_jRetire _ _) (Dev.contained_pressureAll _)))

/-! ### The scale factor of a fenced set (R263, R264) -/

theorem Dev.contained_raiseShortfall (s : Nat) : d.contained (d.raiseShortfall s) := by
  unfold Dev.raiseShortfall
  extract_lets q data d1 shares d2
  have h1 : d.contained d1 := d.contained_event _ _ _ _
  have h2 : d1.contained d2 := d1.contained_each _ _ fun e n => e.contained_ite _ (e.contained_event _ _ _ _) e.contained_refl
  exact Dev.contained_trans h1 (Dev.contained_trans h2 (d2.contained_updSq s _))

theorem Dev.contained_setK (s k cause : Nat) : d.contained (d.setK s k cause) := by
  unfold Dev.setK
  extract_lets q d1 d2 held
  split
  · exact d.contained_updSq s _
  have h1 : d.contained d1 := d.contained_each _ _ fun e i => Dev.contained_of_clockKept (e.clockKept_accrue i)
  have h2 : d.contained d2 := Dev.contained_trans h1 (d1.contained_updSq s _)
  exact Dev.contained_trans h2 (d2.contained_ite _ (d2.contained_updSq s _) (d2.contained_raiseShortfall s))

/-! ### Requests that end (R258, R283, R322) -/

theorem Dev.contained_updReq (id : Nat) (f : Req → Req) : d.contained (d.updReq id f) where
  doms := rfl
  flash := rfl
  strat := rfl
  reqs := fun h => congrArg (List.map _) h
  mem := fun _ => rfl
  latent := And.intro
  fenced := fun _ h => h

theorem Dev.contained_release (id : Nat) : d.contained (d.release id) := by
  unfold Dev.release
  split
  · exact d.contained_refl
  · exact Dev.contained_trans (d.contained_discharge _ _) (Dev.contained_updReq _ _ _)

theorem Dev.contained_creditBack (id n : Nat) : d.contained (d.creditBack id n) := by
  unfold Dev.creditBack
  split
  · exact d.contained_refl
  · exact Dev.contained_of_kept rfl

theorem Dev.contained_failReq (id st : Nat) : d.contained (d.failReq id st) :=
  Dev.contained_trans (d.contained_release id)
    (Dev.contained_trans (Dev.contained_creditBack _ id 1) (Dev.contained_updReq _ _ _))

/-- What is undone of writes is memory. -/
theorem Dev.undoReq_rest (lie : List (Nat × Nat)) (r : Req) :
    ({ d.undoReq lie r with mem := [] } : Dev) = { d with mem := [] } :=
  Dev.each_same (fun e : Dev => { e with mem := [] }) _ _ (fun e u => by rw [Dev.memPut_eq]) d

/-- Requests of the device whose writes are undone: with none under way memory stays. -/
theorem Dev.contained_undoAll (lie : List (Nat × Nat)) (l : List Req) (hl : d.reqs = [] → l = []) :
    d.contained (d.each l fun e r => e.undoReq lie r) := by
  have h := Dev.each_same (fun e : Dev => ({ e with mem := [] } : Dev)) l (fun e r => e.undoReq lie r) (fun e r => e.undoReq_rest lie r) d
  have hkept : d.contained { (d.each l fun e r => e.undoReq lie r) with mem := d.mem } :=
    Dev.contained_of_kept (congrArg (fun e : Dev => ({ e with mem := d.mem } : Dev).fenceKept) h :)
  exact { hkept with mem := fun h0 => by rw [hl h0]; rfl }

/-! ### The fence of a set (R283) -/

/-- A set in service that is fenced: its controllers stop and its requests end, then it counts as fenced, then its moves are abandoned. -/
theorem Dev.fenceSet_runs (s cause : Nat) (S : SSet) (hS : d.set? s = some S) (hf : d.setFenced s = false) :
    ∃ e, d.contained e ∧ (e.updSq s fun q => { q with fenced := true }).contained (d.fenceSet s cause) := by
  unfold Dev.fenceSet
  split
  · next hnone => exact absurd (hS.symm.trans hnone) (Option.some_ne_none S)
  rw [hf, if_neg Bool.false_ne_true]
  extract_lets lie ids d1 hit d2 d3 d4 xs d5 d6
  have h1 : d.contained d1 := d.contained_each _ _ fun e i =>
    Dev.contained_of_clockKept ((Dev.clockKept_updInst _ i _).trans (e.clockKept_accrue i))
  have h2 : d1.contained d2 := d1.contained_undoAll lie hit.reverse fun h0 => by simp [hit, h0]
  have h3 : d2.contained d3 := d2.contained_each _ _ fun e id => e.contained_failReq id 0x07
  have h5 : d4.contained d5 := d4.contained_each _ _ fun e x => e.contained_abandon x
  exact ⟨d3, Dev.contained_trans h1 (Dev.contained_trans h2 h3),
    Dev.contained_trans h5 (Dev.contained_trans (d5.contained_setK _ _ _) (d6.contained_safety 2 _ _ (by decide)))⟩

theorem Dev.contained_fenceSet (s cause : Nat) : d.contained (d.fenceSet s cause) := by
  rcases hS : d.set? s with _ | S
  · unfold Dev.fenceSet
    rw [hS]
    exact d.contained_refl
  · rcases hf : d.setFenced s with _ | _
    · obtain ⟨e, h, k⟩ := d.fenceSet_runs s cause S hS hf
      exact Dev.contained_trans h (Dev.contained_trans (e.contained_updSq s _ fun _ _ => rfl) k)
    · unfold Dev.fenceSet
      rw [hS]
      dsimp only
      rw [hf, if_pos rfl]
      exact d.contained_refl

/-- A set of the stratum that is fenced counts as fenced. -/
theorem Dev.setFenced_fenceSet (s cause : Nat) (S : SSet) (hS : d.set? s = some S) : (d.fenceSet s cause).setFenced s = true := by
  rcases hf : d.setFenced s with _ | _
  · obtain ⟨e, -, k⟩ := d.fenceSet_runs s cause S hS hf
    exact k.fenced s (congrArg SetQ.fenced (e.sq_updSq_same s _))
  · exact (d.contained_fenceSet s cause).fenced s hf

/-- The set that holds a controller is one of the stratum. -/
theorem Dev.set?_setOfInst (i s : Nat) (h : d.setOfInst i = some s) : ∃ S, d.set? s = some S := by
  unfold Dev.setOfInst at h
  unfold Dev.set?
  cases hg : d.strat with
  | none => simp [hg] at h
  | some g =>
    rw [hg, Option.bind_some] at h
    have hlt : s < g.sets.length := List.mem_range.mp (List.mem_of_find?_eq_some h)
    exact ⟨g.sets[s], by simp [hlt]⟩

theorem Dev.contained_failChans (i : Nat) (mask : BitVec 4) (cause : Nat) : d.contained (d.failChans i mask cause) := by
  unfold Dev.failChans
  extract_lets d1
  have h1 : d.contained d1 := Dev.contained_of_clockKept (d.clockKept_updInst i _)
  split
  · exact Dev.contained_trans h1 (d1.contained_fenceSet _ _)
  · exact h1

/-- A controller whose channels fail takes its set with it. -/
theorem Dev.setFenced_failChans (i s : Nat) (mask : BitVec 4) (cause : Nat) (h : d.setOfInst i = some s) :
    (d.failChans i mask cause).setFenced s = true := by
  obtain ⟨S, hS⟩ := d.set?_setOfInst i s h
  unfold Dev.failChans
  extract_lets d1
  rw [show d1.setOfInst i = some s from h]
  exact d1.setFenced_fenceSet s cause S hS

/-! ### What fails with a domain (R371) -/

theorem Dev.contained_logPut (die e : Nat) : d.contained (d.logPut die e) := by
  unfold Dev.logPut
  extract_lets h d1 d2 full d3 d4
  have h3 : d2.contained d3 := d2.contained_ite _ (Dev.contained_of_kept rfl) d2.contained_refl
  have h4 : d3.contained d4 := d3.contained_ite _ (Dev.contained_of_kept rfl) d3.contained_refl
  have h2 : d.contained d2 := Dev.contained_of_kept rfl
  exact Dev.contained_trans h2 (Dev.contained_trans h3 (Dev.contained_trans h4 (Dev.contained_of_kept rfl)))

theorem Dev.contained_log (x code : Nat) (lasting : Bool) (detail : Nat) : d.contained (d.log x code lasting detail) := by
  unfold Dev.log
  extract_lets e d1
  have h1 : d.contained d1 := d.contained_logPut _ _
  exact d.contained_ite _ (Dev.contained_trans h1 (d1.contained_event _ _ _ _)) h1

theorem Dev.contained_trainLog (i c g : Nat) (lasting : Bool) : d.contained (d.trainLog i c g lasting) := by
  unfold Dev.trainLog
  extract_lets d1
  have h1 : d.contained d1 := d.contained_ite _ d.contained_refl (Dev.contained_of_kept rfl)
  exact Dev.contained_trans h1 (d1.contained_log _ _ _ _)

theorem Dev.contained_replayStart (i : Nat) : d.contained (d.replayStart i) := by
  unfold Dev.replayStart
  extract_lets x near n d1
  split
  · exact d.contained_refl
  have h1 : d.contained d1 := Dev.contained_of_clockKept (d.clockKept_updInst i _)
  split
  · split
    next c d2 hc =>
    split
    next g d3 hg =>
    have h2 : d1.contained d2 := Dev.contained_of_kept (congrArg (fun q => q.2.fenceKept) hc).symm
    have h3 : d2.contained d3 := Dev.contained_of_kept (congrArg (fun q => q.2.fenceKept) hg).symm
    have h4 := d3.contained_trainLog i c.toNat (g.toNat % 6) true
    exact Dev.contained_trans h1 (Dev.contained_trans h2 (Dev.contained_trans h3 (Dev.contained_trans h4 (Dev.contained_failChans _ i _ _))))
  · have h2 := d1.clockKept_clockStop i .replay
    exact Dev.contained_trans h1 (Dev.contained_of_clockKept ((Dev.clockKept_updInst (d1.clockStop i .replay) i _).trans h2))

theorem Dev.contained_slotIdle (t : Nat) (b : Bool) : d.contained (d.slotIdle t b) := by
  unfold Dev.slotIdle
  extract_lets g d1
  have h1 : d.contained d1 := Dev.contained_of_kept rfl
  split
  · split
    · exact Dev.contained_trans h1 (d1.contained_event _ _ _ _)
    · exact h1
  · exact d.contained_refl

theorem Dev.contained_refsRelease (l : List (Nat × Nat)) : d.contained (d.refsRelease l) :=
  d.contained_each _ _ fun e r => by
    have h1 : e.contained (e.updTensor (r.1 / 2) fun x =>
        x.setSlot (r.1 % 2 == 1) { x.slot (r.1 % 2 == 1) with refs := (x.slot (r.1 % 2 == 1)).refs - r.2 }) := Dev.contained_of_kept rfl
    exact Dev.contained_trans h1 (Dev.contained_slotIdle _ _ _)

theorem Dev.contained_pageRelease (k p : Nat) : d.contained (d.pageRelease k p) := by
  unfold Dev.pageRelease
  extract_lets key refs d1
  have h1 : d.contained d1 := Dev.contained_of_kept rfl
  exact Dev.contained_trans h1 (d1.contained_refsRelease _)

theorem Dev.contained_clayRelease (c : Nat) : d.contained (d.clayRelease c) := by
  unfold Dev.clayRelease
  extract_lets d1
  have h1 : d.contained d1 := d.contained_each _ _ fun e kp => e.contained_pageRelease kp.1 kp.2
  exact Dev.contained_trans h1 (Dev.contained_of_kept rfl)

theorem Dev.contained_loessFence (j : Nat) : d.contained (d.loessFence j) := by
  unfold Dev.loessFence
  extract_lets mine d1 d2
  have h1 : d.contained d1 := d.contained_each _ _ fun e m => e.contained_ite _ (Dev.contained_of_kept rfl) (e.contained_abandon _)
  have h2 : d1.contained d2 := d1.contained_each _ _ fun e p =>
    Dev.contained_trans (e.contained_discharge _ _) (Dev.contained_of_kept rfl)
  exact Dev.contained_trans h1 (Dev.contained_trans h2 (d2.contained_each _ _ fun e p =>
    e.contained_ite _ (Dev.contained_of_kept rfl) e.contained_refl))

/-- What fails with a domain other than that of a port. -/
theorem Dev.contained_fenceEffects (x cause : Nat) (hport : ¬ (0x13C ≤ x ∧ x < 0x14C)) : d.contained (d.fenceEffects x cause) := by
  unfold Dev.fenceEffects
  split
  -- a core
  · split
    · exact d.contained_refl
    split
    · exact d.contained_refl
    · exact d.contained_ite _ (Dev.contained_of_kept rfl) (Dev.contained_of_kept rfl)
  split
  -- a clay buffer
  · split
    · exact d.contained_refl
    next b _ =>
    extract_lets k both d1 cs
    have h1 : d.contained d1 := Dev.contained_of_kept rfl
    exact Dev.contained_trans h1 (d1.contained_each _ _ fun e c =>
      Dev.contained_trans (e.contained_clayRelease c) (Dev.contained_of_kept rfl))
  split
  -- a controller
  · exact d.contained_replayStart _
  split
  · exact absurd ⟨by omega, ‹_›⟩ hport
  -- a Loess engine
  · exact d.contained_loessFence _

/-! ### The fence of a port domain (R311, R328, R371) -/

/-- A domain with a timer of its own has it under its own key. -/
theorem timerKey_own (x : Nat) (h : 0xD8 ≤ x) : timerKey x = x := if_neg (Nat.not_lt.mpr h)

theorem Dev.timerZero_get (x : Nat) (h : 0xD8 ≤ x) : (d.timerZero x).timers.get x 0 = 0 := by
  rw [Dev.timerZero, timerKey_own x h]
  exact tab_get_set_same _ _ _ _

theorem Dev.contained_fmEnd (p : Nat) : d.contained (d.fmEnd p) ∧ (d.fmEnd p).timers = d.timers := by
  unfold Dev.fmEnd
  split
  · exact ⟨Dev.contained_of_kept rfl, rfl⟩
  · exact ⟨d.contained_refl, rfl⟩

/-- A port reset is one of containment: the requests of the port are gone, and its timer starts again from 0. -/
theorem Dev.portResetEffects_spec (p : Nat) :
    d.contained (d.portResetEffects p) ∧ (d.portResetEffects p).timers.get (portDom p) 0 = 0 := by
  unfold Dev.portResetEffects
  extract_lets mine d1 d2 d3
  have h1 : d.contained d1 := d.contained_each _ _ fun e r =>
    Dev.contained_trans (e.contained_discharge _ _) (Dev.contained_refsRelease _ _)
  have h2 : d1.contained d2 := ⟨rfl, rfl, rfl, fun h => by simp [d2, h], fun _ => rfl, And.intro, fun _ h => h⟩
  have h3 : d2.contained d3 := Dev.contained_of_kept rfl
  have h4 : d3.contained (d3.olyClear p) := d3.contained_each _ _ fun e r => Dev.contained_of_kept rfl
  have h5 : (d3.olyClear p).contained ((d3.olyClear p).portTimerZero p) := Dev.contained_of_kept rfl
  obtain ⟨h6, htimers⟩ := ((d3.olyClear p).portTimerZero p).contained_fmEnd p
  refine ⟨Dev.contained_trans h1 (Dev.contained_trans h2 (Dev.contained_trans h3 (Dev.contained_trans h4 (Dev.contained_trans h5 h6)))), ?_⟩
  rw [htimers]
  exact (d3.olyClear p).timerZero_get (portDom p) (by unfold portDom; omega)

/-- A fence is counted in the registers and in its domain; flash, timers and ports stay. -/
theorem Dev.countFence_kept (x cause : Nat) : (d.countFence x cause).flash = d.flash ∧
    (d.countFence x cause).timers = d.timers ∧ (d.countFence x cause).ports = d.ports := by
  unfold Dev.countFence Dev.rateMark
  split <;> exact ⟨rfl, rfl, rfl⟩

theorem Dev.countFence_dom (x cause : Nat) :
    (d.countFence x cause).dom x = { d.dom x with cause := cause, fences := min 255 ((d.dom x).fences + 1) } := by
  unfold Dev.countFence Dev.rateMark
  split <;> exact Dev.dom_updDom_same _ _ _

theorem Dev.safety_timers (k code data : Nat) (hk : k < 5) : (d.safety k code data).timers = d.timers := by
  rw [(d.safety_spec k code data hk).rest, Dev.pendRaised]

theorem Dev.safety_port_st (k code data p : Nat) (hk : k < 5) : ((d.safety k code data).port p).st = (d.port p).st :=
  Dev.eventsOnly_port_st (d.safety_spec k code data hk) p

/-! ### What a fence leaves (R369 to R372) -/

/-- The ticks of the fences of domain x within the last 60 minutes. -/
abbrev Dev.recentFences (x : Nat) : List Nat :=
  (d.dom x).times.filter fun u => d.now (alwaysKey (dieOfDom x)) ≤ u + d.most 3600000000000

/-- Does a fence with this cause retire domain x: it is the third for a detected fault, of a core, clay buffer or Loess domain. -/
abbrev Dev.thirdFence (x cause : Nat) : Prop := (x < 0xD8 ∨ 0x14C ≤ x) ∧ cause ≠ 9 ∧ 2 ≤ (d.recentFences x).length

/-- Domain x belongs to a port. -/
abbrev isPortDom (x : Nat) : Prop := 0x13C ≤ x ∧ x < 0x14C

/-- The device e is d after a fence of domain x with a cause. -/
def Dev.fencedBy (x cause : Nat) (e : Dev) : Prop :=
  e.flash = d.flash ∧ (e.dom x).cause = cause ∧ (e.dom x).fences = min 255 ((d.dom x).fences + 1) ∧
    (isPortDom x → (e.dom x).st = .fenced ∧ (e.port (x - 0x13C)).st = .failed) ∧
    (0xD8 ≤ x → ¬ d.thirdFence x cause → e.timers.get x 0 = 0) ∧
    (¬ isPortDom x → (e.dom x).st = (if d.thirdFence x cause then .retired else .resetting) ∧ (e.dom x).times =
      if cause = 9 then d.recentFences x else (d.now (alwaysKey (dieOfDom x)) :: d.recentFences x).take 3)

/-- A port in service that fails takes its domain out of service. -/
theorem Dev.fencedBy_portFail (x cause : Nat) (hx : isPortDom x) (hf : (d.port (x - 0x13C)).st ≠ .failed)
    (hd : (d.port (x - 0x13C)).st ≠ .disabled) : d.fencedBy x cause (d.portFail (x - 0x13C) 5 cause) := by
  have hdom : portDom (x - 0x13C) = x := by unfold portDom; omega
  unfold Dev.portFail
  rw [hdom, if_neg (by simp [hf, hd])]
  extract_lets d1 d2 d3
  obtain ⟨h1, htimer⟩ := d.portResetEffects_spec (x - 0x13C)
  rw [hdom] at htimer
  obtain ⟨hflash, htimers, hports⟩ := d2.countFence_kept x cause
  have hd2 : d2.dom x = d.dom x := congrArg (fun t : Tab Dom => t.get x {}) h1.doms
  have hd3 : d3.dom x = { d.dom x with
      cause := cause, fences := min 255 ((d.dom x).fences + 1), st := .fenced,
      since := d2.now (alwaysKey (dieOfPort (x - 0x13C))) } := by
    rw [Dev.dom_updDom_same, Dev.countFence_dom, hd2]
  have hport2 : (d2.port (x - 0x13C)).st = .failed := congrArg Port.st ((d1.downCause (x - 0x13C) 5).port_updPort_same (x - 0x13C) _)
  have hport : (d3.port (x - 0x13C)).st = .failed := (congrArg (fun t : Tab Port => (t.get (x - 0x13C) {}).st) hports).trans hport2
  have hsaf := d3.contained_safety 0 0x10 (x + cause * 2 ^ 12) (by decide)
  have hend := (congrArg (fun t : Tab Dom => t.get x {}) hsaf.doms).trans hd3
  have htime : (d3.safety 0 0x10 (x + cause * 2 ^ 12)).timers.get x 0 = 0 := by
    rw [d3.safety_timers 0 _ _ (by decide)]
    exact (congrArg (fun t : Tab Nat => t.get x 0) htimers).trans htimer
  exact ⟨hsaf.flash.trans (hflash.trans h1.flash), congrArg Dom.cause hend, congrArg Dom.fences hend,
    fun _ => ⟨congrArg Dom.st hend, (d3.safety_port_st 0 _ _ _ (by decide)).trans hport⟩, fun _ _ => htime, fun hn => absurd hx hn⟩

/-- The timer of a domain that is reset starts again from 0, where it has one of its own; nothing else that a fence leaves changes. -/
theorem Dev.domTimerZero_spec (x : Nat) (hx : ¬ isPortDom x) :
    (d.domTimerZero x).flash = d.flash ∧ (d.domTimerZero x).doms = d.doms ∧ (0xD8 ≤ x → (d.domTimerZero x).timers.get x 0 = 0) := by
  unfold Dev.domTimerZero
  split
  · exact ⟨rfl, rfl, fun h => by omega⟩
  split
  · have hinst : instDom (x - 0xD8) = x := by unfold instDom; omega
    refine ⟨rfl, rfl, fun h => ?_⟩
    unfold Dev.instTimerZero
    dsimp only
    rw [Dev.updInst_timers, hinst]
    exact d.timerZero_get x h
  split
  · exact absurd ⟨by omega, ‹_›⟩ hx
  · have hloess : loessDom (x - 0x14C) = x := by unfold loessDom; omega
    refine ⟨rfl, rfl, fun h => ?_⟩
    unfold Dev.loessTimerZero
    rw [hloess]
    exact Dev.timerZero_get _ x h

/-- A fence of a LIVE domain other than that of a port. -/
theorem Dev.fencedBy_domFence (x cause : Nat) (hl : d.live x = true) (hx : ¬ isPortDom x) :
    d.fencedBy x cause (d.domFence x cause) := by
  have hst : (d.dom x).st = .live := by simpa [Dev.live] using hl
  unfold Dev.domFence
  rw [if_neg (by simp [hst]), if_neg hx]
  extract_lets t recent rule third d1 d2 d3 d4
  have hthird : third = decide (d.thirdFence x cause) := by
    simp only [third, rule, Dev.thirdFence, Bool.decide_and, Bool.decide_or, Bool.and_assoc]
    rfl
  have hd2 : d2.dom x = { d.dom x with
      cause := cause, fences := min 255 ((d.dom x).fences + 1), st := if third then .retired else .resetting, passed := false,
      since := d1.lived (alwaysKey (dieOfDom x)), times := if cause = 9 then recent else (t :: recent).take 3 } := by
    rw [Dev.dom_updDom_same, Dev.countFence_dom]
  have h4 : d2.contained d4 := Dev.contained_trans (d2.contained_safety 0 _ _ (by decide)) (d3.contained_fenceEffects x cause hx)
  obtain ⟨hcflash, -, -⟩ := d.countFence_kept x cause
  have hflash : d4.flash = d.flash := h4.flash.trans hcflash
  have hd4 := (congrArg (fun t : Tab Dom => t.get x {}) h4.doms).trans hd2
  obtain ⟨hkflash, hkdoms, hktimer⟩ : (if third then d4 else d4.domTimerZero x).flash = d4.flash ∧
      (if third then d4 else d4.domTimerZero x).doms = d4.doms ∧
      (0xD8 ≤ x → ¬ d.thirdFence x cause → (if third then d4 else d4.domTimerZero x).timers.get x 0 = 0) := by
    obtain ⟨hzflash, hzdoms, hztimer⟩ := d4.domTimerZero_spec x hx
    split
    · next h => exact ⟨rfl, rfl, fun _ hn => absurd (of_decide_eq_true (hthird.symm.trans h)) hn⟩
    · exact ⟨hzflash, hzdoms, fun h _ => hztimer h⟩
  have hend := (congrArg (fun t : Tab Dom => t.get x {}) hkdoms).trans hd4
  have hst : (if third then DomSt.retired else .resetting) = if d.thirdFence x cause then .retired else .resetting := by
    simp only [hthird, decide_eq_true_eq]
  exact ⟨hkflash.trans hflash, congrArg Dom.cause hend, congrArg Dom.fences hend, fun h => absurd h hx, hktimer,
    fun _ => ⟨(congrArg Dom.st hend).trans hst, congrArg Dom.times hend⟩⟩

/-- A fence of a LIVE domain, whichever it is of. -/
theorem Dev.fencedBy_live (x cause : Nat) (hl : d.live x = true)
    (hport : isPortDom x → (d.port (x - 0x13C)).st ≠ .failed ∧ (d.port (x - 0x13C)).st ≠ .disabled) :
    d.fencedBy x cause (d.domFence x cause) := by
  by_cases hx : isPortDom x
  · obtain ⟨hf, hd⟩ := hport hx
    have hst : (d.dom x).st = .live := by simpa [Dev.live] using hl
    have heq : d.domFence x cause = d.portFail (x - 0x13C) 5 cause := by
      unfold Dev.domFence
      rw [if_neg (by simp [hst]), if_pos hx]
    exact heq ▸ d.fencedBy_portFail x cause hx hf hd
  · exact d.fencedBy_domFence x cause hl hx

/-! ### What a rejoin leaves (R302, R370, R371) -/

/-- What a domain that returns does first: a clay buffer has its banks written anew, a controller in a reset with replay ends it. -/
def Dev.rejoinWork (x : Nat) : Dev :=
  if 0xC0 ≤ x ∧ x < 0xD8 then d.clayWipe (x - 0xC0)
  else if 0xD8 ≤ x ∧ x < 0x13C ∧ (d.inst (x - 0xD8)).st = .replay then d.replayEnds (x - 0xD8) else d

theorem Dev.domRejoin_eq (x : Nat) : d.domRejoin x =
    (((d.updDom x fun e => { e with st := .live, passed := false }).workRestart x).rejoinWork x).rejoined x := rfl

/-- Is no request under way where domain x is that of a controller. -/
abbrev Dev.noReplays (x : Nat) : Prop := 0xD8 ≤ x → x < 0x13C → d.reqs = []

theorem Dev.clockKept_rejoinWork (x : Nat) (h : d.noReplays x) : (d.rejoinWork x).clockKept = d.clockKept := by
  unfold Dev.rejoinWork
  split
  · rfl
  split
  · next hi => exact d.clockKept_replayEnds _ (h hi.1 hi.2.1)
  · rfl

theorem Dev.rateMark_kept (x : Nat) : (d.rateMark x).clockKept = d.clockKept ∧ (d.rateMark x).clay = d.clay := by
  unfold Dev.rateMark
  split <;> exact ⟨rfl, rfl⟩

theorem Dev.rejoined_spec (x : Nat) : ((d.rateMark x).wrapInc row_SAF_CNT 0 f_SAF_CNT_REJOINS).eventsOnly (d.rejoined x) :=
  Dev.eventsOnly_event _ _ _ _ _

theorem Dev.fenceKept_rejoined (x : Nat) : (d.rejoined x).fenceKept = d.fenceKept :=
  (Dev.fenceKept_eventsOnly (d.rejoined_spec x)).trans (congrArg Prod.fst (d.rateMark_kept x).1)

theorem Dev.rejoined_clay (x : Nat) : (d.rejoined x).clay = d.clay :=
  (Dev.eventsOnly_clay (d.rejoined_spec x)).trans (d.rateMark_kept x).2

theorem Dev.fld_of_clockKept {d e : Dev} (h : e.clockKept = d.clockKept) (f : Fld) : e.fld row_SAF_CNT 0 f = d.fld row_SAF_CNT 0 f :=
  congrArg f.get (congrArg Prod.snd h)

/-- A rejoin is counted. -/
theorem Dev.rejoined_count (x : Nat) : (d.rejoined x).fld row_SAF_CNT 0 f_SAF_CNT_REJOINS =
    (d.fld row_SAF_CNT 0 f_SAF_CNT_REJOINS + 1) % (f_SAF_CNT_REJOINS.top + 1) := by
  have hrd := (d.rejoined_spec x).regs (row_SAF_CNT.addr 0) row_SAF_CNT.resetValue fun p hp => by
    simp only [RegRow.addr, row_SAF_CNT, row_HIF_PORT_CNT]
    omega
  rw [← Dev.fld_of_clockKept (d.rateMark_kept x).1]
  exact (congrArg f_SAF_CNT_REJOINS.get hrd).trans (Dev.fld_wrapInc _ row_SAF_CNT 0 f_SAF_CNT_REJOINS 1 (by decide))

/-- The device e is d after domain x has returned: the domain is LIVE, requests and memory are as before, the rejoin is counted. -/
structure Dev.rejoinedTo (x : Nat) (e : Dev) : Prop where
  doms : e.doms = (d.updDom x fun e => { e with st := .live, passed := false }).doms
  reqs : e.reqs = d.reqs
  mem : e.mem = d.mem
  count : e.fld row_SAF_CNT 0 f_SAF_CNT_REJOINS = (d.fld row_SAF_CNT 0 f_SAF_CNT_REJOINS + 1) % (f_SAF_CNT_REJOINS.top + 1)

theorem Dev.rejoinedTo_domRejoin (x : Nat) (h : d.noReplays x) : d.rejoinedTo x (d.domRejoin x) := by
  rw [Dev.domRejoin_eq]
  have hwork := Dev.clockKept_rejoinWork ((d.updDom x fun e => { e with st := .live, passed := false }).workRestart x) x h
  generalize Dev.rejoinWork _ x = e at hwork ⊢
  have hkept := (e.fenceKept_rejoined x).trans (congrArg Prod.fst hwork)
  have hcnt : e.fld row_SAF_CNT 0 f_SAF_CNT_REJOINS = d.fld row_SAF_CNT 0 f_SAF_CNT_REJOINS :=
    Dev.fld_of_clockKept hwork _
  exact ⟨congrArg FenceKept.doms hkept, congrArg FenceKept.reqs hkept, congrArg FenceKept.mem hkept, hcnt ▸ e.rejoined_count x⟩

/-- A table in which no entry lies at a key reads there as if it were empty. -/
theorem tab_get_absent {α : Type} (m : Tab α) (k : Nat) (v : α) (h : ∀ e ∈ m, e.1 ≠ k) : m.get k v = v := by
  induction m with
  | nil => rfl
  | cons e t ih =>
    obtain ⟨i, w⟩ := e
    rw [Tab.get, if_neg (h (i, w) (by simp))]
    split
    · rfl
    · exact ih fun e he => h e (by simp [he])

/-- Cells that all read 0 make a granule of 0. -/
theorem cellsGet_zero (m : List Host.Cell) (a n : Nat) (h : ∀ i, i < n → Tab.get m (a + i) 0 = 0) : cellsGet m a n = 0 := by
  induction n with
  | zero => rfl
  | succ j ih => rw [cellsGet, ih fun i hi => h i (by omega), h j (by omega)]; simp

/-- Every granule of a clay buffer whose banks are written anew reads 0. -/
theorem Dev.clayGet_clayWipe (k j : Nat) (h : j / (320 * 2048) = k) : (d.clayWipe k).clayGet j = 0 := by
  rw [Dev.clayGet_eq, Dev.clayWipe]
  dsimp only
  rw [cellsGet_zero]
  · rfl
  · intro i hi
    refine tab_get_absent _ _ _ fun e he heq => ?_
    have hout : e.1 / (320 * 2048 * 64) ≠ k := by simpa using (List.mem_filter.mp he).2
    omega

theorem Dev.clayGet_domRejoin (x j : Nat) (hlo : 0xC0 ≤ x) (hhi : x < 0xD8) (h : j / (320 * 2048) = x - 0xC0) :
    (d.domRejoin x).clayGet j = 0 := by
  rw [Dev.domRejoin_eq, Dev.rejoinWork, if_pos ⟨hlo, hhi⟩, Dev.clayGet_eq, Dev.rejoined_clay, ← Dev.clayGet_eq]
  exact Dev.clayGet_clayWipe _ _ j h

/-- The domains that rejoin with x are x, or cores and a clay buffer. -/
theorem Dev.mem_rejoinGroup (x y : Nat) (hx : x < 336) (h : y ∈ d.rejoinGroup x) : y = x ∨ y < 0xD8 := by
  unfold Dev.rejoinGroup at h
  extract_lets k at h
  split at h
  · next hc =>
    have hk : k < 24 := by simp only [k]; split <;> omega
    simp only [List.mem_filter, List.mem_cons, List.mem_map, List.mem_range, clayDom, coreDom] at h
    omega
  · exact .inl (List.mem_singleton.mp h)

/-- Those that rejoin together are LIVE once the last of them is, and memory is as before. -/
theorem Dev.each_domRejoin (l : List Nat) (h : ∀ y ∈ l, d.noReplays y) :
    (d.each l Dev.domRejoin).mem = d.mem ∧
      ∀ y, y ∈ l ∨ (d.dom y).st = .live → ((d.each l Dev.domRejoin).dom y).st = .live := by
  induction l generalizing d with
  | nil => exact ⟨rfl, fun y hy => hy.resolve_left (by simp)⟩
  | cons x t ih =>
    have hx := d.rejoinedTo_domRejoin x (h x (by simp))
    have ht : ∀ y ∈ t, (d.domRejoin x).noReplays y := fun y hy lo hi => hx.reqs.trans (h y (by simp [hy]) lo hi)
    obtain ⟨hmem, hlive⟩ := ih (d.domRejoin x) ht
    refine ⟨hmem.trans hx.mem, fun y hy => hlive y ?_⟩
    have hdom : (d.domRejoin x).dom y = (d.updDom x fun e => { e with st := .live, passed := false }).dom y :=
      congrArg (fun m : Tab Dom => m.get y {}) hx.doms
    by_cases hyx : y = x
    · right
      rw [hdom, hyx, Dev.dom_updDom_same]
    · rw [hdom, Dev.dom_updDom_other _ _ _ _ hyx]
      exact hy.imp_left fun hm => (List.mem_cons.mp hm).resolve_left hyx

/-! ### A self-test that passes (R370, R371, R379) -/

/-- The device in which domain x has passed its self-test. -/
def Dev.passedAt (x : Nat) : Dev := d.updDom x fun e => { e with passed := true }

theorem Dev.passedAt_dom_same (x : Nat) : (d.passedAt x).dom x = { d.dom x with passed := true } := d.dom_updDom_same x _

theorem Dev.passedAt_dom_other (x y : Nat) (h : y ≠ x) : (d.passedAt x).dom y = d.dom y := d.dom_updDom_other x y _ h

theorem Dev.passedAt_st (x y : Nat) : ((d.passedAt x).dom y).st = (d.dom y).st := by
  by_cases h : y = x
  · rw [h, Dev.passedAt_dom_same]
  · rw [Dev.passedAt_dom_other _ _ _ h]

/-- A self-test that passes changes no reset, so none of those that rejoin together. -/
theorem Dev.passedAt_rejoinGroup (x y : Nat) : (d.passedAt x).rejoinGroup y = d.rejoinGroup y := by
  simp only [Dev.rejoinGroup, Dev.passedAt_st]

/-- A domain that has passed waits while one of those that rejoin with it has not. -/
theorem Dev.domPass_waits (x : Nat) (h : ∃ y ∈ d.rejoinGroup x, y ≠ x ∧ (d.dom y).passed = false) : d.domPass x = d.passedAt x := by
  obtain ⟨y, hy, hyx, hp⟩ := h
  unfold Dev.domPass
  refine if_neg fun hall => ?_
  have hpass := List.all_eq_true.mp hall y (d.passedAt_rejoinGroup x x ▸ hy)
  exact Bool.false_ne_true ((hp.symm.trans (congrArg Dom.passed (d.passedAt_dom_other x y hyx).symm)).trans hpass)

/-- Once the last has passed they rejoin one after another. -/
theorem Dev.domPass_rejoins (x : Nat) (h : ∀ y ∈ d.rejoinGroup x, y = x ∨ (d.dom y).passed = true) :
    d.domPass x = (d.passedAt x).each (d.rejoinGroup x) Dev.domRejoin := by
  have hall : ((d.passedAt x).rejoinGroup x).all (fun y => ((d.passedAt x).dom y).passed) = true := by
    rw [d.passedAt_rejoinGroup, List.all_eq_true]
    intro y hy
    by_cases hyx : y = x
    · rw [hyx, d.passedAt_dom_same]
    · rw [d.passedAt_dom_other x y hyx]
      exact (h y hy).resolve_left hyx
  rw [← d.passedAt_rejoinGroup x x]
  exact if_pos hall

theorem Dev.domPass_alone (x : Nat) (hg : d.rejoinGroup x = [x]) : d.domPass x = (d.passedAt x).domRejoin x := by
  have h := d.domPass_rejoins x fun y hy => .inl (List.mem_singleton.mp (hg ▸ hy))
  rw [hg] at h
  exact h

/-- A domain that rejoins alone is LIVE; its other fields and the other domains are as they were. -/
theorem Dev.domPass_alone_doms (x : Nat) (hg : d.rejoinGroup x = [x]) (hq : d.noReplays x) :
    (d.domPass x).dom x = { d.dom x with st := .live, passed := false } ∧ ∀ y, y ≠ x → (d.domPass x).dom y = d.dom y := by
  have hto := (d.passedAt x).rejoinedTo_domRejoin x hq
  have hdom : ∀ y, ((d.passedAt x).domRejoin x).dom y = ((d.passedAt x).updDom x fun e => { e with st := .live, passed := false }).dom y :=
    fun y => congrArg (fun m : Tab Dom => m.get y {}) hto.doms
  rw [d.domPass_alone x hg]
  refine ⟨?_, fun y hy => ?_⟩
  · rw [hdom, Dev.dom_updDom_same, d.passedAt_dom_same]
  · rw [hdom, Dev.dom_updDom_other _ _ _ _ hy, d.passedAt_dom_other x y hy]

/-! ### A failed self-test and a late reset (R370, R377) -/

/-- A latent fault sets its pending bit of SAF_STATUS and asserts FAULT_N; memory stays whatever is under way. -/
theorem Dev.latent_spec (die cls dom : Nat) : d.contained (d.latent die cls dom) ∧ (d.latent die cls dom).mem = d.mem ∧
    (d.latent die cls dom).pend.getLsbD 4 = true ∧ (d.latent die cls dom).faultN = true := by
  unfold Dev.latent
  extract_lets d1
  have h1 : d.contained (d1.satInc row_SAF_CNT 0 f_SAF_CNT_LATENT) := Dev.contained_of_kept rfl
  have hsaf := (d1.satInc row_SAF_CNT 0 f_SAF_CNT_LATENT).contained_safety 4 0x16 (cls + die * 2 ^ 8 + domId dom * 2 ^ 16) (by decide)
  have hkept := Dev.fenceKept_eventsOnly
    ((d1.satInc row_SAF_CNT 0 f_SAF_CNT_LATENT).safety_spec 4 0x16 (cls + die * 2 ^ 8 + domId dom * 2 ^ 16) (by decide))
  have hpend : (d.pend ||| BitVec.ofNat 5 (2 ^ 4)).getLsbD 4 = true := by simp
  exact ⟨Dev.contained_trans h1 hsaf, congrArg FenceKept.mem hkept,
    (congrArg (fun k => k.pend.getLsbD 4) hkept).trans hpend, congrArg FenceKept.faultN hkept⟩

/-- A domain that retires: the rest is containment, of its set where it is a controller. -/
theorem Dev.contained_domRetire (x : Nat) : (d.updDom x fun e => { e with st := .retired }).contained (d.domRetire x) := by
  unfold Dev.domRetire
  extract_lets d1
  split
  · exact d1.contained_failChans _ _ _
  · exact d1.contained_refl

theorem Dev.domRetire_st (x : Nat) : ((d.domRetire x).dom x).st = .retired :=
  (congrArg (fun t : Tab Dom => (t.get x {}).st) (d.contained_domRetire x).doms).trans (congrArg Dom.st (d.dom_updDom_same x _))

/-- A controller that retires takes its set with it. -/
theorem Dev.setFenced_domRetire (x k : Nat) (hlo : 0xD8 ≤ x) (hhi : x < 0x13C) (h : d.setOfInst (x - 0xD8) = some k) :
    (d.domRetire x).setFenced k = true := by
  unfold Dev.domRetire
  extract_lets d1
  rw [if_pos ⟨hlo, hhi⟩]
  exact d1.setFenced_failChans _ k _ _ h

theorem Dev.domRetire_mem (x : Nat) (h : d.noReplays x) : (d.domRetire x).mem = d.mem := by
  unfold Dev.domRetire
  extract_lets d1
  split
  · next hi => exact (d1.contained_failChans _ _ _).mem (h hi.1 hi.2)
  · rfl

/-- A self-test that fails: a latent fault, then the domain retires. -/
theorem Dev.domTestFail_eq (x : Nat) : ∃ cls n, d.domTestFail x = (({ d with free := n } : Dev).latent (dieOfDom x) cls x).domRetire x :=
  ⟨_, d.free + 1, rfl⟩

/-- The device e is d after the self-test of domain x has failed. -/
structure Dev.testFailedTo (x : Nat) (e : Dev) : Prop where
  state : (e.dom x).st = .retired
  latent : e.pend.getLsbD 4 = true ∧ e.faultN = true
  mem : d.noReplays x → e.mem = d.mem
  fence : ∀ k, 0xD8 ≤ x → x < 0x13C → d.setOfInst (x - 0xD8) = some k → e.setFenced k = true

theorem Dev.testFailedTo_domTestFail (x : Nat) : d.testFailedTo x (d.domTestFail x) := by
  obtain ⟨cls, n, heq⟩ := d.domTestFail_eq x
  obtain ⟨hcont, hmem, hpend, hfault⟩ := ({ d with free := n } : Dev).latent_spec (dieOfDom x) cls x
  rw [heq]
  generalize ({ d with free := n } : Dev).latent (dieOfDom x) cls x = e at hcont hmem hpend hfault
  have hset : e.setOfInst (x - 0xD8) = d.setOfInst (x - 0xD8) := by
    simp only [Dev.setOfInst, hcont.strat]
  exact {
    state := e.domRetire_st x
    latent := (e.contained_domRetire x).latent hpend hfault
    mem := fun h => (e.domRetire_mem x fun lo hi => hcont.reqs (h lo hi)).trans hmem
    fence := fun k lo hi hk => e.setFenced_domRetire x k lo hi (hset.trans hk) }

end

/-! ### The statement -/

section
variable {s : State} {x : Fin 336}

theorem exec_domainFence {cause : Fin 16} (hl : s.dev.live x.val = true) (h1 : 1 ≤ cause.val) (h9 : cause.val ≤ 9) :
    exec (.domainFence x cause) s = .next { s with dev := (s.dev.domFence x.val cause.val).finish } :=
  State.devEvent_holds (fun d => d.live x.val && decide (1 ≤ cause.val ∧ cause.val ≤ 9)) (fun d => d.domFence x.val cause.val) s
    (by simp [hl, h1, h9])

theorem exec_safDomFence (hl : s.dev.live x.val = true) :
    exec (.safDomFence x) s = .next { s with dev := (s.dev.domFence x.val 9).finish } :=
  State.devEvent_holds (fun d => d.live x.val) (fun d => d.domFence x.val 9) s hl

theorem exec_watchdogStall (hw : s.dev.watched x.val = true) :
    exec (.watchdogStall x) s = .next { s with dev := (s.dev.domFence x.val 1).finish } :=
  State.devEvent_holds (fun d => d.watched x.val) (fun d => d.domFence x.val 1) s hw

/-- A domain that is not LIVE takes no second fence (R379). -/
theorem exec_fences_notLive (hl : s.dev.live x.val = false) : (∀ cause, exec (.domainFence x cause) s = .next s) ∧
    exec (.safDomFence x) s = .next s ∧ exec (.watchdogStall x) s = .next s := by
  refine ⟨fun cause => ?_, ?_, ?_⟩
  · exact State.devEvent_not (fun d => d.live x.val && decide (1 ≤ cause.val ∧ cause.val ≤ 9)) (fun d => d.domFence x.val cause.val) s
      (by simp [hl])
  · exact State.devEvent_not (fun d => d.live x.val) (fun d => d.domFence x.val 9) s hl
  · exact State.devEvent_not (fun d => d.watched x.val) (fun d => d.domFence x.val 1) s (by simp [Dev.watched, hl])

/-- May domain x take the result of its self-test. -/
def Dev.rejoinDue (d : Dev) (x : Nat) (pass : Bool) : Bool := d.resetting x &&
  (if pass then !d.noLock x && ((d.dom x).passed || !d.resetLate x) && d.boundary x else !(d.dom x).passed)

theorem exec_domainRejoin {pass : Bool} (h : s.dev.rejoinDue x.val pass = true) : exec (.domainRejoin x pass) s =
    .next { s with dev := (if pass then s.dev.domPass x.val else s.dev.domTestFail x.val).finish } :=
  State.devEvent_holds (fun d => d.rejoinDue x.val pass) (fun d => if pass then d.domPass x.val else d.domTestFail x.val) s h

theorem exec_domainRejoin_not {pass : Bool} (h : s.dev.rejoinDue x.val pass = false) : exec (.domainRejoin x pass) s = .next s :=
  State.devEvent_not (fun d => d.rejoinDue x.val pass) (fun d => if pass then d.domPass x.val else d.domTestFail x.val) s h

theorem exec_domainResetTimeout (hr : s.dev.resetting x.val = true) (hp : (s.dev.dom x.val).passed = false)
    (hl : s.dev.resetLate x.val = true) :
    exec (.domainResetTimeout x) s = .next { s with dev := (s.dev.domRetire x.val).finish } :=
  State.devEvent_holds (fun d => d.resetting x.val && !(d.dom x.val).passed && d.resetLate x.val) (fun d => d.domRetire x.val) s
    (by simp [hr, hp, hl])

theorem exec_domainResetTimeout_passed (hp : (s.dev.dom x.val).passed = true) : exec (.domainResetTimeout x) s = .next s :=
  State.devEvent_not (fun d => d.resetting x.val && !(d.dom x.val).passed && d.resetLate x.val) (fun d => d.domRetire x.val) s
    (by simp [hp])

end

/-- Settles O51: what a fence leaves (Dev.fencedBy), then each end of a reset by what its event does. -/
theorem domainFences : Obligations.DomainFences := by
  unfold Obligations.DomainFences
  intro s x
  dsimp only
  refine ⟨fun hl hport => ?_, exec_fences_notLive, fun hr => ⟨fun hlock => ?_, fun hp => ⟨?_, ?_⟩⟩, fun hr hlock => ?_⟩
  -- fences
  · have hfenced := fun cause => s.dev.fencedBy_live x.val cause hl hport
    exact ⟨fun cause h1 h9 => ⟨_, exec_domainFence hl h1 h9, hfenced cause.val⟩, ⟨_, exec_safDomFence hl, hfenced 9⟩,
      fun hw => ⟨_, exec_watchdogStall hw, hfenced 1⟩⟩
  -- no lock; a domain that has passed
  · exact exec_domainRejoin_not (by simp [Dev.rejoinDue, hlock])
  · exact exec_domainRejoin_not (by simp [Dev.rejoinDue, hp])
  · exact exec_domainResetTimeout_passed hp
  have hpass : s.dev.resetLate x.val = false → s.dev.boundary x.val = true →
      exec (.domainRejoin x true) s = .next { s with dev := (s.dev.domPass x.val).finish } := fun hlate hbound =>
    exec_domainRejoin (by simp [Dev.rejoinDue, hr, hlock, hlate, hbound])
  refine ⟨fun hlate hbound hwait => ?_, fun hlate hbound hg => ?_, fun hlate hbound hall => ?_, fun hp => ?_, fun hp hlate => ?_⟩
  -- passed, and waits for the others
  · refine ⟨_, hpass hlate hbound, ?_⟩
    rw [s.dev.domPass_waits x.val hwait]
    exact ⟨rfl, s.dev.passedAt_dom_same x.val, s.dev.passedAt_dom_other x.val⟩
  -- rejoins alone
  · have hto := fun hq => (s.dev.passedAt x.val).rejoinedTo_domRejoin x.val hq
    have heq := s.dev.domPass_alone x.val hg
    refine ⟨_, hpass hlate hbound, fun hq => ?_, fun hlo hhi k hk => ?_⟩
    · obtain ⟨hself, hother⟩ := s.dev.domPass_alone_doms x.val hg hq
      exact ⟨congrArg Dom.st hself, heq ▸ (hto hq).mem, (congrArg Dom.fences hself :), hother, heq ▸ (hto hq).count⟩
    · exact heq ▸ (s.dev.passedAt x.val).clayGet_domRejoin x.val k hlo hhi hk
  -- rejoins with the others
  · refine ⟨_, hpass hlate hbound, fun hq => ?_⟩
    rw [s.dev.domPass_rejoins x.val hall]
    obtain ⟨hmem, hlive⟩ := (s.dev.passedAt x.val).each_domRejoin (s.dev.rejoinGroup x.val) fun y hy lo hi => by
      obtain rfl | hlow := s.dev.mem_rejoinGroup x.val y x.isLt hy
      · exact hq lo hi
      · omega
    exact ⟨hmem, fun y hy => hlive y (.inl hy)⟩
  -- the self-test fails
  · have h := s.dev.testFailedTo_domTestFail x.val
    obtain ⟨hpend, hfault⟩ := h.latent
    exact ⟨_, exec_domainRejoin (by simp [Dev.rejoinDue, hr, hp]), h.state, hpend, hfault, h.mem, h.fence⟩
  -- the reset is late
  · exact ⟨_, exec_domainResetTimeout hr hp hlate, s.dev.domRetire_st x.val, s.dev.domRetire_mem x.val⟩

end Sys2Proof.Machine

/-! PROOF. The limits of power (R9, R383, R385) and the one-way fuses (R352, R355, R362) under every step. Both are read off one relation
between the states before and after an operation (State.safeTo), which holds of whatever leaves power and security state alone, and is
proved once for each operation that writes them. -/
namespace Sys2Proof.Machine

/-! ### Fuses -/

theorem Sec.fusesKept_refl (x : Sec) : x.fusesKept x := ⟨BitVec.and_self, BitVec.and_self, Nat.le_refl _, id⟩

/-- What is burnt in x and stays burnt in y, which stays burnt in z. -/
theorem burnt_trans {w : Nat} {x y z : BitVec w} (h : x &&& y = x) (k : y &&& z = y) : x &&& z = x := by
  rw [← h, BitVec.and_assoc, k]

theorem Sec.fusesKept_trans {x y z : Sec} (h : x.fusesKept y) (k : y.fusesKept z) : x.fusesKept z where
  enrolled := burnt_trans h.enrolled k.enrolled
  revoked := burnt_trans h.revoked k.revoked
  svn := Nat.le_trans h.svn k.svn
  trim := k.trim ∘ h.trim

theorem burnt_or {w : Nat} (x m : BitVec w) : x &&& (x ||| m) = x := by
  ext i hi
  cases h : x[i] <;> simp [h]

theorem Sec.fusesKept_ownerFuse (x : Sec) (o : Obj) (slot op : Nat) : x.fusesKept (x.ownerFuse o slot op) := by
  unfold Sec.ownerFuse
  dsimp only
  split
  · exact ⟨burnt_or _ _, BitVec.and_self, Nat.le_refl _, id⟩
  · exact ⟨BitVec.and_self, burnt_or _ _, Nat.le_refl _, id⟩

theorem Sec.fusesKept_svnComplete (x : Sec) (pending : Bool) : x.fusesKept (x.svnComplete pending) := by
  cases pending
  · exact x.fusesKept_refl
  · exact ⟨BitVec.and_self, BitVec.and_self, Nat.le_max_left _ _, id⟩

/-- A reset keeps every fuse as it is. -/
theorem Sec.fusesKept_atReset (x : Sec) (cold : Bool) : x.fusesKept (x.atReset cold) :=
  ⟨BitVec.and_self, BitVec.and_self, Nat.le_refl _, id⟩

theorem Sec.fusesKept_flashMark (x : Sec) (part : Nat) (bad : Bool) : x.fusesKept (x.flashMark part bad) :=
  ⟨BitVec.and_self, BitVec.and_self, Nat.le_refl _, id⟩

theorem Sec.fusesKept_writeLeft (x : Sec) (t i : Nat) (l : List Byte) (ok fuseOk : Bool) :
    x.fusesKept (x.writeLeft t i l ok fuseOk) := by
  unfold Sec.writeLeft
  split
  · exact ⟨BitVec.and_self, BitVec.and_self, Nat.le_refl _, id⟩
  · split
    · exact x.fusesKept_ownerFuse _ _ _
    · exact x.fusesKept_refl
  · exact x.fusesKept_refl
  · split <;> exact ⟨BitVec.and_self, BitVec.and_self, Nat.le_refl _, id⟩

/-! ### Power limits -/

/-- A bit of a control word after a write of one field of it. -/
theorem ctlField_getLsbD (old new : Word) (lo len : Nat) (ok : Nat → Bool) (i : Nat) (hi : i < 64) :
    (ctlField old new lo len ok).getLsbD i =
      if ok (bits new.toNat lo len) = true ∧ lo ≤ i ∧ i < lo + len then new.getLsbD i else old.getLsbD i := by
  unfold ctlField
  dsimp only
  by_cases hok : ok (bits new.toNat lo len) = true
  · rw [if_pos hok, BitVec.getLsbD_or, BitVec.getLsbD_and, BitVec.getLsbD_not, BitVec.getLsbD_ofNat, BitVec.getLsbD_ofNat,
      Nat.testBit_mul_two_pow, Nat.testBit_mul_two_pow, Nat.testBit_two_pow_sub_one, bits_testBit, BitVec.testBit_toNat]
    by_cases hlo : lo ≤ i
    · rw [Nat.add_sub_cancel' hlo]
      by_cases hlen : i < lo + len
      · simp [hi, hok, hlo, hlen, show i - lo < len by omega]
      · simp [hi, hlen, show ¬ i - lo < len by omega]
    · simp [hi, hlo]
  · rw [if_neg hok, if_neg (by simp [hok])]

/-- A field beside the one written reads as before. -/
theorem bits_ctlField_other (old new : Word) (lo len : Nat) (ok : Nat → Bool) (a n : Nat) (hn : a + n ≤ 64)
    (h : a + n ≤ lo ∨ lo + len ≤ a) : bits (ctlField old new lo len ok).toNat a n = bits old.toNat a n := by
  apply Nat.eq_of_testBit_eq
  intro i
  rw [bits_testBit, bits_testBit, BitVec.testBit_toNat, BitVec.testBit_toNat]
  by_cases hi : i < n
  · rw [ctlField_getLsbD _ _ _ _ _ _ (by omega), if_neg (by omega)]
  · simp [hi]

/-- The field written takes the new value where it is permitted. -/
theorem bits_ctlField_same (old new : Word) (lo len : Nat) (ok : Nat → Bool) (hn : lo + len ≤ 64) :
    bits (ctlField old new lo len ok).toNat lo len =
      if ok (bits new.toNat lo len) = true then bits new.toNat lo len else bits old.toNat lo len := by
  apply Nat.eq_of_testBit_eq
  intro i
  rw [bits_testBit, BitVec.testBit_toNat]
  by_cases hi : i < len
  · rw [ctlField_getLsbD _ _ _ _ _ _ (by omega)]
    split <;> rename_i h
    · rw [if_pos h.1]
      simp [hi, bits_testBit, BitVec.testBit_toNat]
    · rw [if_neg fun hok => h ⟨hok, by omega, by omega⟩]
      simp [hi, bits_testBit, BitVec.testBit_toNat]
  · split <;> simp [hi, bits_testBit]

/-! ### A write of PWR_CTL, field by field (R9, R383) -/

section
variable (s : State) (v : Word)

theorem State.pwrCtl_vmax : (s.pwrCtl v).pwr.vmax =
    if 700 ≤ bits v.toNat 0 10 ∧ bits v.toNat 0 10 ≤ 800 then bits v.toNat 0 10 else s.pwr.vmax := by
  simp only [State.pwrCtl, Pwr.vmax, bits_ctlField_other _ _ 48 1 _ 0 10, bits_ctlField_other _ _ 40 8 _ 0 10,
    bits_ctlField_other _ _ 32 8 _ 0 10, bits_ctlField_other _ _ 16 12 _ 0 10, bits_ctlField_same _ _ 0 10, Nat.reduceAdd,
    Nat.reduceLeDiff, true_or, decide_eq_true_eq]

theorem State.pwrCtl_plW : (s.pwrCtl v).pwr.plW =
    if bits v.toNat 16 12 = 0 ∨ (400 ≤ bits v.toNat 16 12 ∧ bits v.toNat 16 12 ≤ 1750 ∧
      (s.dev.stratumPl = 0 ∨ bits v.toNat 16 12 ≤ s.dev.stratumPl)) then bits v.toNat 16 12 else s.pwr.plW := by
  simp only [State.pwrCtl, Pwr.plW, bits_ctlField_other _ _ 48 1 _ 16 12, bits_ctlField_other _ _ 40 8 _ 16 12,
    bits_ctlField_other _ _ 32 8 _ 16 12, bits_ctlField_other _ _ 0 10 _ 16 12, bits_ctlField_same _ _ 16 12, Nat.reduceAdd,
    Nat.reduceLeDiff, true_or, or_true, decide_eq_true_eq, Bool.or_eq_true, Bool.and_eq_true, beq_iff_eq, and_assoc]

theorem State.pwrCtl_guard : (s.pwrCtl v).pwr.guard_ =
    if 10 ≤ bits v.toNat 32 8 ∧ bits v.toNat 32 8 ≤ 200 then bits v.toNat 32 8 else s.pwr.guard_ := by
  simp only [State.pwrCtl, Pwr.guard_, bits_ctlField_other _ _ 48 1 _ 32 8, bits_ctlField_other _ _ 40 8 _ 32 8,
    bits_ctlField_other _ _ 16 12 _ 32 8, bits_ctlField_other _ _ 0 10 _ 32 8, bits_ctlField_same _ _ 32 8, Nat.reduceAdd,
    Nat.reduceLeDiff, true_or, or_true, decide_eq_true_eq]

theorem State.pwrCtl_thermEmerg : (s.pwrCtl v).pwr.thermEmerg =
    if 85 ≤ bits v.toNat 40 8 ∧ bits v.toNat 40 8 ≤ 105 then bits v.toNat 40 8 else s.pwr.thermEmerg := by
  simp only [State.pwrCtl, Pwr.thermEmerg, bits_ctlField_other _ _ 48 1 _ 40 8, bits_ctlField_other _ _ 32 8 _ 40 8,
    bits_ctlField_other _ _ 16 12 _ 40 8, bits_ctlField_other _ _ 0 10 _ 40 8, bits_ctlField_same _ _ 40 8, Nat.reduceAdd,
    Nat.reduceLeDiff, true_or, or_true, decide_eq_true_eq]

theorem State.pwrCtl_bedGate : (s.pwrCtl v).pwr.bedGate = bitOf v.toNat 48 := by
  simp only [State.pwrCtl, Pwr.bedGate, bitOf, BitVec.testBit_toNat]
  rw [ctlField_getLsbD _ _ _ _ _ _ (by decide), if_pos (by decide)]

end

theorem tab_get_set_le (m : Tab Nat) (k v d b : Nat) (hv : v ≤ b) (h : ∀ j, m.get j d ≤ b) (j : Nat) :
    (m.set k v d).get j d ≤ b := by
  rw [tab_get_set]
  split
  · exact hv
  · exact h j

/-! ### The relation -/

/-- From s to t the limits of power stay in range and the fuses are one-way. -/
structure State.safeTo (s t : State) : Prop where
  limits : s.pwr.limits → t.pwr.limits
  fuses : s.sec.fusesKept t.sec

namespace State

variable (s : State)

theorem safeTo_refl : s.safeTo s := ⟨id, s.sec.fusesKept_refl⟩

theorem safeTo.trans {s t u : State} (h : s.safeTo t) (k : t.safeTo u) : s.safeTo u :=
  ⟨k.limits ∘ h.limits, Sec.fusesKept_trans h.fuses k.fuses⟩

theorem safeTo_ite (c : Prop) [Decidable c] {t u : State} (ht : s.safeTo t) (hu : s.safeTo u) :
    s.safeTo (if c then t else u) := by
  split
  · exact ht
  · exact hu

theorem safeTo_onDev (f : Dev → Dev) : s.safeTo (s.onDev f) := ⟨id, s.sec.fusesKept_refl⟩

theorem safeTo_foldl {α : Type} (l : List α) (f : State → α → State) (hf : ∀ s x, State.safeTo s (f s x)) :
    s.safeTo (l.foldl f s) := by
  induction l generalizing s with
  | nil => exact s.safeTo_refl
  | cons x t ih => exact safeTo.trans (hf s x) (ih _)

/-! ### Writes of the power limits -/

theorem safeTo_pwrCtl (v : Word) : s.safeTo (s.pwrCtl v) := by
  refine ⟨fun h => ⟨?_, ?_, ?_, ?_, h.target, h.vcore⟩, s.sec.fusesKept_refl⟩
  · rw [s.pwrCtl_vmax]
    split
    · assumption
    · exact h.vmax
  · rw [s.pwrCtl_plW]
    split
    · next hw => exact hw.imp_right fun hr => ⟨hr.1, hr.2.1⟩
    · exact h.plW
  · rw [s.pwrCtl_guard]
    split
    · assumption
    · exact h.guard
  · rw [s.pwrCtl_thermEmerg]
    split
    · assumption
    · exact h.therm

theorem safeTo_pwrTarget (die : Nat) (v : Word) : s.safeTo (s.pwrTarget die v) := by
  unfold State.pwrTarget
  dsimp only
  split
  · next ht =>
    refine ⟨fun h => { h with target := fun k => ?_ }, s.sec.fusesKept_refl⟩
    have hmax : s.pwr.vmaxEff ≤ 800 := Nat.min_le_left _ _
    rw [Pwr.targetOf, tab_get_set]
    split
    · omega
    · exact h.target k
  · exact s.safeTo_refl

theorem safeTo_pwrWrite (a : Nat) (v : Word) : s.safeTo (s.pwrWrite a v) :=
  s.safeTo_ite _ (s.safeTo_pwrCtl v)
    (s.safeTo_ite _ (s.safeTo_pwrTarget 0 v) (s.safeTo_ite _ (s.safeTo_pwrTarget 1 v) s.safeTo_refl))

/-! ### Emergencies and the governor (R384, R385) -/

/-- What keeps the control word, the targets and the voltages. -/
theorem safeTo_of_parts {t : State} (hctl : t.pwr.ctl = s.pwr.ctl) (htarget : t.pwr.target = s.pwr.target)
    (hv : t.pwr.v = s.pwr.v) (hs : t.sec = s.sec) : s.safeTo t := by
  refine ⟨fun h => ?_, hs ▸ s.sec.fusesKept_refl⟩
  obtain ⟨hvmax, hplW, hguard, htherm, htgt, hvcore⟩ := h
  simp only [Pwr.vmax, Pwr.plW, Pwr.guard_, Pwr.thermEmerg, Pwr.targetOf] at hvmax hplW hguard htherm htgt
  constructor <;> simp only [Pwr.vmax, Pwr.plW, Pwr.guard_, Pwr.thermEmerg, Pwr.targetOf, hctl, htarget, hv] <;> assumption

theorem safeTo_enter (now : Nat → Nat) (die c : Nat) : s.safeTo { s with pwr := s.pwr.enter now die c } := by
  unfold Pwr.enter
  dsimp only
  split <;> exact s.safeTo_of_parts rfl rfl rfl rfl

theorem safeTo_ibi : s.safeTo s.ibi := by
  unfold State.ibi
  split <;> exact ⟨id, s.sec.fusesKept_refl⟩

theorem safeTo_causeOn (die c : Nat) : s.safeTo (s.causeOn die c) := by
  unfold State.causeOn
  extract_lets first p s1 _ s2
  have h1 : s.safeTo s1 := s.safeTo_enter _ die c
  split
  · exact h1
  · have h2 : s1.safeTo s2 := s1.safeTo_of_parts rfl rfl rfl rfl
    exact (h1.trans h2).trans ((s2.safeTo_onDev _).trans (State.safeTo_ibi _))

theorem safeTo_causeOff (die c : Nat) : s.safeTo (s.causeOff die c) := by
  unfold State.causeOff
  extract_lets due s1 was off s2
  have h1 : s.safeTo s1 := s.safeTo_foldl _ _ fun s x => s.safeTo_causeOn _ _
  have h2 : s1.safeTo s2 := by
    unfold s2
    split <;> exact s1.safeTo_of_parts rfl rfl rfl rfl
  exact (h1.trans h2).trans (s2.safeTo_ite _ s2.safeTo_refl ((s2.safeTo_onDev _).trans (State.safeTo_ibi _)))

theorem safeTo_causesHeld : s.safeTo s.causesHeld :=
  s.safeTo_foldl _ _ fun s _ => s.safeTo_ite _ (s.safeTo_of_parts rfl rfl rfl rfl) s.safeTo_refl

/-- The voltage that the governor commands lies within 620 mV to VMAX_EFF, which is at most 800 mV. -/
theorem safeTo_govern (die : Nat) : s.safeTo (s.govern die) := by
  unfold State.govern
  extract_lets p v power any ready w w' gate
  refine s.safeTo_ite _ s.safeTo_refl ⟨fun h => { h with vcore := tab_get_set_le _ _ _ _ _ ?_ h.vcore }, s.sec.fusesKept_refl⟩
  have hmax : p.vmaxEff ≤ 800 := Nat.min_le_left _ _
  omega

theorem safeTo_governor (p : Pwr) (hctl : p.ctl = s.pwr.ctl) (htarget : p.target = s.pwr.target) (hv : p.v = s.pwr.v) :
    s.safeTo (s.governor p) := by
  unfold State.governor
  extract_lets s1 s2
  have hp : s.safeTo { s with pwr := p } := s.safeTo_of_parts hctl htarget hv rfl
  have h1 : s.safeTo s1 := hp.trans (State.safeTo_causesHeld _)
  have h2 : s1.safeTo s2 := s1.safeTo_ite _ ((s1.safeTo_govern 0).trans (State.safeTo_govern _ 1)) s1.safeTo_refl
  exact (h1.trans h2).trans (s2.safeTo_ite _ ⟨id, s2.sec.fusesKept_refl⟩ s2.safeTo_refl)

/-! ### Resets and power (R409 to R415) -/

theorem limits_default : ({} : Pwr).limits :=
  ⟨by decide, by decide, by decide, by decide, fun _ => by simp [Pwr.targetOf], fun _ => by simp⟩

theorem safeTo_cleared (nonce : List Byte) (step : Step) : s.safeTo (s.cleared nonce step) :=
  ⟨fun _ => limits_default, s.sec.fusesKept_atReset true⟩

theorem safeTo_cold (nonce : List Byte) (step : Step) : s.safeTo (s.cold nonce step) :=
  (s.safeTo_cleared nonce step).trans ⟨id, Sec.fusesKept_refl _⟩

/-- A warm reset puts the limits to their reset values and leaves the voltages. -/
theorem safeTo_warm (srOk railsOk : Bool) (nonce : List Byte) : s.safeTo (s.warm srOk railsOk nonce) :=
  ⟨fun h => { limits_default with vcore := h.vcore }, s.sec.fusesKept_atReset false⟩

theorem safeTo_standbyUp (nonce : List Byte) : s.safeTo (s.standbyUp nonce) := by
  unfold State.standbyUp
  extract_lets _ s1
  have h1 : s.safeTo s1 := ⟨id, s.sec.fusesKept_refl⟩
  exact h1.trans ((s1.safeTo_cold nonce .pwrok).trans ⟨id, Sec.fusesKept_refl _⟩)

theorem safeTo_pwrUp : s.safeTo s.pwrUp :=
  ⟨fun h => { h with vcore := tab_get_set_le _ _ _ _ _ (by decide) (tab_get_set_le _ _ _ _ _ (by decide) h.vcore) },
    s.sec.fusesKept_refl⟩

theorem safeTo_powerBack : s.safeTo s.powerBack :=
  (⟨id, s.sec.fusesKept_refl⟩ : s.safeTo { s with dev := (s.dev.freshBytes 64).2 }).trans (State.safeTo_cold _ _ _)

theorem safeTo_powerLost (standby : Bool) : s.safeTo (s.powerLost standby) := by
  unfold State.powerLost
  dsimp only
  split
  · exact (s.safeTo_cleared s.dev.nonce .pwrok).trans ⟨id, Sec.fusesKept_refl _⟩
  · exact (s.safeTo_cleared [] .standby).trans ⟨id, Sec.fusesKept_refl _⟩

theorem safeTo_coldReset (cool : Bool) (nonce : List Byte) : s.safeTo (s.coldReset cool nonce) := by
  unfold State.coldReset
  extract_lets c
  have hc : s.safeTo c := s.safeTo_ite _ (s.safeTo_cold _ _) (s.safeTo_cleared _ _)
  exact hc.trans ⟨id, c.sec.fusesKept_refl⟩

/-! ### Bring-up (R348, R412) -/

theorem safeTo_bootRom (noRead : BitVec 2) : s.safeTo (s.bootRom noRead) := by
  unfold State.bootRom
  dsimp only
  split <;> exact ⟨id, ⟨BitVec.and_self, BitVec.and_self, Nat.le_refl _, id⟩⟩

theorem safeTo_release (x : BootPins) : s.safeTo (s.release x) := by
  unfold State.release
  extract_lets _ _ s1
  have h1 : s.safeTo s1 := ⟨id, ⟨BitVec.and_self, BitVec.and_self, Nat.le_refl _, id⟩⟩
  exact h1.trans (s1.safeTo_ite _ (s1.safeTo_onDev _) (s1.safeTo_ite _ (s1.safeTo_onDev _) (s1.safeTo_bootRom _)))

theorem safeTo_resetHigh (sel : BitVec 2) : s.safeTo (s.resetHigh sel) :=
  s.safeTo_ite _ s.safeTo_refl ⟨id, ⟨BitVec.and_self, BitVec.and_self, Nat.le_refl _, id⟩⟩

theorem safeTo_keysCheck : s.safeTo s.keysCheck := ⟨id, ⟨BitVec.and_self, BitVec.and_self, Nat.le_refl _, id⟩⟩

theorem safeTo_enrol : s.safeTo s.enrol := by
  unfold State.enrol
  dsimp only
  split
  · exact s.safeTo_refl
  · split
    · exact ⟨id, s.sec.fusesKept_ownerFuse (s.dev.ownerObj 0) 0 1⟩
    · exact s.safeTo_refl

theorem safeTo_trimLoad : s.safeTo s.trimLoad := ⟨id, ⟨BitVec.and_self, BitVec.and_self, Nat.le_refl _, id⟩⟩

theorem safeTo_stagedUp : s.safeTo s.stagedUp := ⟨id, ⟨BitVec.and_self, BitVec.and_self, Nat.le_refl _, id⟩⟩

theorem safeTo_firmware : s.safeTo s.firmware := by
  unfold State.firmware
  extract_lets r d _ s1
  have hsvn := s.sec.fusesKept_svnComplete r.pending
  have h1 : s.safeTo s1 := ⟨id, hsvn.enrolled, hsvn.revoked, hsvn.svn, hsvn.trim⟩
  exact h1.trans (s1.safeTo_enrol.trans ((State.safeTo_keysCheck _).trans
    ((State.safeTo_trimLoad _).trans ((State.safeTo_stagedUp _).trans (State.safeTo_onDev _ _)))))

/-! ### Updates (R352 to R363) -/

theorem safeTo_updEnd (ref : CmdRef) (st r0 : Nat) : s.safeTo (s.updEnd ref st r0) := s.safeTo_onDev _

theorem safeTo_writeStart (ref : CmdRef) (t i : Nat) (gs : List Gran) (flashOk fuseOk : Bool) :
    s.safeTo (s.writeStart ref t i gs flashOk fuseOk) := by
  unfold State.writeStart
  rcases s.sec.stagePlace t i with ⟨a, room, part⟩
  refine safeTo.trans ?_ (State.safeTo_keysCheck _)
  cases part <;> exact ⟨id, ⟨BitVec.and_self, BitVec.and_self, Nat.le_refl _, id⟩⟩

theorem safeTo_stageFw (ref : CmdRef) (o : Obj) (gs : List Gran) (flashOk : Bool) : s.safeTo (s.stageFw ref o gs flashOk) :=
  s.safeTo_ite _ (s.safeTo_updEnd _ _ _) (s.safeTo_writeStart _ _ _ _ _ _)

theorem safeTo_stageOwner (ref : CmdRef) (o : Obj) (gs : List Gran) (flashOk fuseOk : Bool) :
    s.safeTo (s.stageOwner ref o gs flashOk fuseOk) := by
  unfold State.stageOwner
  dsimp only
  split
  · exact s.safeTo_updEnd _ _ _
  · split
    · exact s.safeTo_updEnd _ _ _
    · exact s.safeTo_writeStart _ _ _ _ _ _

theorem safeTo_stageTrim (ref : CmdRef) (o : Obj) (gs : List Gran) (flashOk fuseOk : Bool) :
    s.safeTo (s.stageTrim ref o gs flashOk fuseOk) := by
  have hfuse : s.safeTo { s with sec := { s.sec with trimWritten := true } } :=
    ⟨id, BitVec.and_self, BitVec.and_self, Nat.le_refl _, fun _ => rfl⟩
  exact s.safeTo_ite _ (s.safeTo_updEnd _ _ _) (s.safeTo_ite _ (s.safeTo_updEnd _ _ _)
    (s.safeTo_ite _ (s.safeTo_updEnd _ _ _) (hfuse.trans (State.safeTo_writeStart _ _ _ _ _ _ _))))

theorem safeTo_stageOut (ref : CmdRef) (ph : Phys) (e : Entry) (l : List Byte) : s.safeTo (s.stageOut ref ph e l) := by
  unfold State.stageOut
  dsimp only
  split <;> exact ⟨id, s.sec.fusesKept_refl⟩

theorem safeTo_stageIn (ref : CmdRef) (ph : Phys) (e : Entry) (flashOk fuseOk : Bool) :
    s.safeTo (s.stageIn ref ph e flashOk fuseOk) := by
  unfold State.stageIn
  dsimp only
  split
  · exact ⟨id, s.sec.fusesKept_refl⟩
  · split
    · exact ⟨id, s.sec.fusesKept_refl⟩
    · next gs d _ =>
      have hd : s.safeTo { s with dev := d } := ⟨id, s.sec.fusesKept_refl⟩
      refine hd.trans ?_
      split
      · exact State.safeTo_stageFw _ _ _ _ _
      · exact State.safeTo_stageOwner _ _ _ _ _ _
      · exact State.safeTo_stageTrim _ _ _ _ _ _
      · exact State.safeTo_writeStart _ _ _ _ _ _ _

theorem safeTo_stageAttest (ref : CmdRef) (ph : Phys) (e : Entry) : s.safeTo (s.stageAttest ref ph e) := by
  unfold State.stageAttest
  split
  · exact ⟨id, s.sec.fusesKept_refl⟩
  · split
    · exact ⟨id, s.sec.fusesKept_refl⟩
    · next gs d _ => exact (⟨id, s.sec.fusesKept_refl⟩ : s.safeTo { s with dev := d }).trans (State.safeTo_stageOut _ _ _ _ _)

theorem safeTo_updateStage (ref : CmdRef) (ph : Phys) (e : Entry) (flashOk fuseOk : Bool) :
    s.safeTo (s.updateStage ref ph e flashOk fuseOk) :=
  s.safeTo_ite _ (s.safeTo_updEnd _ _ _) (s.safeTo_ite _ (s.safeTo_updEnd _ _ _) (s.safeTo_ite _ (s.safeTo_updEnd _ _ _)
    (s.safeTo_ite _ (s.safeTo_stageAttest _ _ _) (s.safeTo_ite _ (s.safeTo_stageOut _ _ _ _) (s.safeTo_stageIn _ _ _ _ _)))))

theorem safeTo_writeEnd (ref : CmdRef) (t i : Nat) (ok : Bool) : s.safeTo (s.writeEnd ref t i ok) := by
  unfold State.writeEnd
  rcases s.sec.stagePlace t i with ⟨a, room, part⟩
  refine safeTo.trans (safeTo.trans ?_ (State.safeTo_keysCheck _)) (State.safeTo_updEnd _ _ _ _)
  refine ⟨id, Sec.fusesKept_trans ?_ (Sec.fusesKept_writeLeft _ _ _ _ _ _)⟩
  cases part
  · exact s.sec.fusesKept_refl
  · exact s.sec.fusesKept_flashMark _ _

theorem safeTo_writeDone (ok : Bool) : s.safeTo (s.writeDone ok) := by
  unfold State.writeDone
  split
  · exact s.safeTo_writeEnd _ _ _ _
  · exact s.safeTo_refl

theorem safeTo_activate (ref : CmdRef) (e : Entry) : s.safeTo (s.activate ref e) :=
  s.safeTo_ite _ (s.safeTo_updEnd _ _ _) (s.safeTo_ite _ (s.safeTo_updEnd _ _ _) (s.safeTo_ite _ (s.safeTo_updEnd _ _ _)
    (s.safeTo_ite _ (s.safeTo_updEnd _ _ _) (s.safeTo_ite _ (s.safeTo_updEnd _ _ _)
      (s.safeTo_ite _ ⟨id, s.sec.fusesKept_refl⟩ ⟨id, s.sec.fusesKept_refl⟩)))))

theorem safeTo_pause : s.safeTo s.pause := by
  unfold State.pause
  split
  · exact s.safeTo_refl
  · dsimp only
    split <;> exact ⟨id, s.sec.fusesKept_refl⟩

theorem safeTo_accept (ref : CmdRef) (fuseOk : Bool) : s.safeTo (s.accept ref fuseOk) := by
  unfold State.accept
  extract_lets
  split <;> exact ⟨id, BitVec.and_self, BitVec.and_self, Nat.le_refl _, id⟩

/-- One fuse is blown at most. -/
theorem safeTo_burnTick : s.safeTo s.burnTick := by
  unfold State.burnTick
  split
  · split
    · exact s.safeTo_refl
    · dsimp only
      split <;> exact ⟨id, BitVec.and_self, BitVec.and_self, Nat.le_succ _, id⟩
  · exact s.safeTo_refl

theorem safeTo_tick : s.safeTo s.tick := (s.safeTo_onDev Dev.tick).trans (State.safeTo_burnTick _)

/-! ### Debug and the TAP (R401, R407) -/

theorem safeTo_relock : s.safeTo s.relock := ⟨id, ⟨BitVec.and_self, BitVec.and_self, Nat.le_refl _, id⟩⟩

theorem safeTo_unlock (tok nonce : List Byte) : s.safeTo (s.unlock tok nonce) :=
  ⟨id, ⟨BitVec.and_self, BitVec.and_self, Nat.le_refl _, id⟩⟩

theorem safeTo_tap (ir : Byte) (out : Nat) : s.safeTo (s.tap ir out) := s.safeTo_ite _ s.safeTo_refl ⟨id, s.sec.fusesKept_refl⟩

theorem safeTo_tapFlash (op area off : Nat) (data : Gran) : s.safeTo (s.tapFlash op area off data) := by
  have hmark (c : Bool) : s.sec.fusesKept (if c then (tapPart area off).elim s.sec (s.sec.flashMark · false) else s.sec) := by
    cases c
    · exact s.sec.fusesKept_refl
    · cases tapPart area off
      · exact s.sec.fusesKept_refl
      · exact s.sec.fusesKept_flashMark _ _
  refine safeTo.trans ?_ (State.safeTo_keysCheck _)
  exact ⟨id, hmark _⟩

/-! ### Registers (R6 to R9) -/

theorem safeTo_dbgCtl (v : Word) : s.safeTo (s.dbgCtl v) := by
  unfold State.dbgCtl
  extract_lets s1 s2
  have h1 : s.safeTo s1 := s.safeTo_ite _ (s.safeTo_onDev _) s.safeTo_refl
  have h2 : s1.safeTo s2 := s1.safeTo_ite _ (s1.safeTo_onDev _) s1.safeTo_refl
  exact (h1.trans h2).trans (s2.safeTo_ite _ s2.safeTo_relock s2.safeTo_refl)

/-- Of all registers PWR_CTL, PWR_VCORE and DBG_CTL bear on power or security state. -/
theorem safeTo_rowWrite (r : RegRow) (i : Nat) (v : Word) : s.safeTo (s.rowWrite r i v) := by
  unfold State.rowWrite
  split
  case h_12 | h_13 => exact s.safeTo_pwrWrite _ _
  case h_14 => exact s.safeTo_dbgCtl v
  case h_1 | h_7 | h_11 => exact s.safeTo_ite _ (s.safeTo_onDev _) s.safeTo_refl
  all_goals exact s.safeTo_onDev _

theorem safeTo_regWrite (a : Nat) (v : Word) : s.safeTo (s.regWrite a v) := by
  unfold State.regWrite
  split
  · exact s.safeTo_rowWrite _ _ _
  · exact s.safeTo_refl

theorem safeTo_cfgServe (r : Req) : s.safeTo (s.cfgServe r) :=
  s.safeTo_ite _ (s.safeTo_onDev _)
    (s.safeTo_ite _ ((s.safeTo_onDev _).trans (State.safeTo_regWrite _ _ _)) (s.safeTo_onDev _))

theorem safeTo_cfgArrive (p : Nat) (h : ReqHdr) (value : Word) (bad : Bool) : s.safeTo (s.cfgArrive p h value bad) := by
  unfold State.cfgArrive
  extract_lets n s1
  have h1 : s.safeTo s1 := s.safeTo_onDev _
  refine h1.trans ?_
  split
  · exact s1.safeTo_refl
  · exact s1.safeTo_ite _ (s1.safeTo_cfgServe _) s1.safeTo_refl

theorem safeTo_cfgThaw : s.safeTo s.cfgThaw :=
  s.safeTo_ite _ s.safeTo_refl (s.safeTo_foldl _ _ fun s r => s.safeTo_cfgServe r)

theorem safeTo_tapAccess (wr : Bool) (a : Nat) (v : Word) : s.safeTo (s.tapAccess wr a v) :=
  safeTo.trans (s.safeTo_ite _ (s.safeTo_regWrite a v) s.safeTo_refl) ⟨id, Sec.fusesKept_refl _⟩

/-! ### Flits (R310, R317) -/

theorem safeTo_msgIn (p : Nat) (g : Gran) (data : List Gran) : s.safeTo (s.msgIn p g data) :=
  s.safeTo_ite _ (s.safeTo_onDev _) (s.safeTo_ite _ (s.safeTo_onDev _) (s.safeTo_onDev _))

theorem safeTo_rxDone (p vc : Nat) (m : RxMsg) (ph : Phys) : s.safeTo (s.rxDone p vc m ph) := by
  unfold State.rxDone
  dsimp only
  split
  · exact s.safeTo_msgIn _ _ _
  · split
    · exact s.safeTo_onDev _
    · exact s.safeTo_cfgArrive _ _ _ _
    · exact s.safeTo_onDev _

theorem safeTo_rxSlot (p vc : Nat) (som : Bool) (g : Gran) (ph : Phys) : s.safeTo (s.rxSlot p vc som g ph) := by
  unfold State.rxSlot
  extract_lets r s1
  have h1 : s.safeTo s1 := s.safeTo_onDev _
  refine h1.trans ?_
  cases r.2.1
  · exact s1.safeTo_refl
  · exact s1.safeTo_rxDone _ _ _ _

theorem safeTo_flitData (p : Nat) (f : Flit) : s.safeTo (s.flitData p f) :=
  s.safeTo_ite _ s.safeTo_refl
    ((s.safeTo_onDev _).trans ((State.safeTo_foldl _ _ _ fun s _ => s.safeTo_rxSlot _ _ _ _ _).trans (State.safeTo_onDev _ _)))

theorem safeTo_flitPassed (p : Nat) (f : Flit) : s.safeTo (s.flitPassed p f) :=
  s.safeTo_ite _ s.safeTo_refl ((s.safeTo_onDev _).trans (State.safeTo_ite _ _ (State.safeTo_refl _)
    ((State.safeTo_ite _ _ (State.safeTo_flitData _ _ _) (State.safeTo_refl _)).trans (State.safeTo_onDev _ _))))

theorem safeTo_flitIn (p : Nat) (f : Flit) : s.safeTo (s.flitIn p f) :=
  s.safeTo_ite _ s.safeTo_refl ((s.safeTo_onDev _).trans (State.safeTo_ite _ _ (State.safeTo_refl _)
    (State.safeTo_ite _ _ (State.safeTo_onDev _ _) (State.safeTo_flitPassed _ _ _))))

/-! ### Board management (R394, R395) -/

theorem safeTo_setEid (op : Nat) (eid : Byte) : s.safeTo (s.setEid op eid) :=
  s.safeTo_ite _ ⟨id, s.sec.fusesKept_refl⟩ ⟨id, s.sec.fusesKept_refl⟩

theorem safeTo_setTid_ (t : Byte) : s.safeTo (s.setTid_ t) := s.safeTo_ite _ ⟨id, s.sec.fusesKept_refl⟩ ⟨id, s.sec.fusesKept_refl⟩

theorem safeTo_i3cFree (l : List Byte) (n : Nat) : s.safeTo (s.i3cFree l n) := ⟨id, s.sec.fusesKept_refl⟩

theorem safeTo_pdr (rec : Nat) : s.safeTo (s.pdr rec) := s.safeTo_ite _ ⟨id, s.sec.fusesKept_refl⟩ ⟨id, s.sec.fusesKept_refl⟩

theorem safeTo_sensor (k : Nat) : s.safeTo (s.sensor k) := by
  unfold State.sensor
  split
  · exact s.safeTo_ite _ ⟨id, s.sec.fusesKept_refl⟩ ⟨id, s.sec.fusesKept_refl⟩
  · exact ⟨id, s.sec.fusesKept_refl⟩

theorem safeTo_stateSensor (k : Nat) : s.safeTo (s.stateSensor k) :=
  s.safeTo_ite _ ⟨id, s.sec.fusesKept_refl⟩ ⟨id, s.sec.fusesKept_refl⟩

theorem safeTo_vendorRead (a : Nat) : s.safeTo (s.vendorRead a) :=
  s.safeTo_ite _ ⟨id, s.sec.fusesKept_refl⟩ ⟨id, s.sec.fusesKept_refl⟩

/-! ### Every command -/

/-- What a command answers is a state that is safe from s. -/
def safeOut (o : Host.Outcome State Fault Refusal) : Prop := ∀ t, o = .next t → s.safeTo t

theorem safeOut_next {t : State} (h : s.safeTo t) : s.safeOut (.next t) := fun _ ht => Host.Outcome.next.inj ht ▸ h

theorem safeOut_ite (c : Prop) [Decidable c] {o o' : Host.Outcome State Fault Refusal} (h : s.safeOut o) (h' : s.safeOut o') :
    s.safeOut (if c then o else o') := by
  split
  · exact h
  · exact h'

theorem safeOut_devStep (f : Dev → Dev) : s.safeOut (s.devStep f) := s.safeOut_next (s.safeTo_onDev f)

theorem safeOut_devEvent (holds : Dev → Bool) (f : Dev → Dev) (ph : Phys) : s.safeOut (s.devEvent holds f ph) :=
  s.safeOut_ite _ (s.safeOut_next (s.safeTo_onDev _)) (s.safeOut_next s.safeTo_refl)

theorem safeOut_linkStep (f : Dev → Dev) (ph : Phys) : s.safeOut (s.linkStep f ph) := s.safeOut_next (s.safeTo_onDev _)

theorem safeOut_opStart (b top : Nat) (body : TOp → Dev → Dev) : s.safeOut (s.opStart b top body) := s.safeOut_devEvent _ _ _

theorem safeOut_cmd (opc : Nat) (q : Queue) (e : Entry) (body : CmdRef → Nat → State → State)
    (h : ∀ ref c s, State.safeTo s (body ref c s)) : s.safeOut (s.cmd opc q e body) := by
  unfold State.cmd
  refine s.safeOut_ite _ (s.safeOut_next s.safeTo_refl) ?_
  split
  · exact s.safeOut_next s.safeTo_refl
  · next d _ =>
    have hd : s.safeTo { s with dev := d } := ⟨id, s.sec.fusesKept_refl⟩
    exact s.safeOut_next (hd.trans ((State.safeTo_ite _ _ (State.safeTo_onDev _ _) (h _ _ _)).trans (State.safeTo_onDev _ _)))

theorem safeOut_devCmd (opc : Nat) (q : Queue) (e : Entry) (body : CmdRef → Nat → Dev → Dev) : s.safeOut (s.devCmd opc q e body) :=
  s.safeOut_cmd _ _ _ _ fun _ _ s => s.safeTo_onDev _

theorem safeOut_i3cReq (f : State → State) (h : s.safeTo (f s)) : s.safeOut (s.i3cReq f) :=
  s.safeOut_next (s.safeTo_ite _ h s.safeTo_refl)

/-- Each command by its shape: what changes the device alone leaves power and security state as they are. -/
theorem safeOut_exec (c : Instr) : s.safeOut (exec c s) := by
  cases c <;> dsimp only [exec]
  case hostLost | destroyDrainEnd | parkComplete | revocationDrainEnd | unparkComplete | parkQueueTimeout | challengeExpiry |
      attachLockoutExpiry | replayTimeout | portTrainStart | trainComplete | trainTimeout | retrainComplete | retrainTimeout |
      linkLoss | olyRetrain | watchdogStall | domainFence | safDomFence | domainRejoin | domainResetTimeout |
      marlLockstepMismatch | marlWatchdogExpiry | marlTakeover | selfTest | sensorChainDisagree | dieCommonFault | ceilingUpdate
      | scaleFactorUpdate | shortfallHoldoffExpiry | controllerPieceArrival | queueService | refresh | selfRefreshEntry |
      selfRefreshExit | tempRead | retrainPause | retrainRetry | replayResetDone | moveAcquire | moveQuiesceDone | moveCommit |
      moveRelease | moveAbandon | ageSweep | ageSweepComplete | poolDemote | reclaimClear | reclaimComplete | windowFill |
      windowFillComplete | tableFitComplete | recodeComplete | tableRecordFetch | scrubSweepStart | scrubRead | qosCopyComplete
      | qosAdoptionComplete | commitFlashComplete | pllLossOfLock | pllRelockResult | refclkLoss | stepRateWindow |
      freezeComplete | unlockLockoutExpiry | handoffTimeout | activationWindowExpiry | canaryLate | canaryClean | vcoreOverLimit
      | vcoreUnderLimit | memoryRailFault | thermalTrip | stratumInForce | trainingDone | metadataInit | bringupReady |
      wordIssue | prefetch | operandReadApply | opComplete | postRingFree | contextSwitch | sleepTimeout =>
    exact s.safeOut_devEvent _ _ _
  case mma | attn | ewise | reduce | topk | gather | scatter | load | store | cvt | win | fence | post =>
    exact s.safeOut_opStart _ _ _
  case attach | detach | heartbeat | createCtx | cancel | destroyCtx | assignBed | ringSet | park | query | bind | unbind |
      regionCreate | regionGrow | regionTrim | regionReclaim | regionSet | retire | fmDetach | planLoad | promote | demote |
      tableInstall | tableFit | tableRecode | tableRelease | launch =>
    exact s.safeOut_devCmd _ _ _ _
  case safStatusClear | faultTest | scrubNow | poisonRemove | writeRaw | readRaw | readChecked | clrMin | freezeRequest | freeze
      | thaw | freezeNRelease | captureRead | lssPoolWmWrite =>
    exact s.safeOut_devStep _
  case rd | wr | wrp | atom | pub | dbSqTail | dbCqHead | dbEvqHead | olyReset =>
    exact s.safeOut_linkStep _ _
  case check | commitFlash | applyQos | readActive =>
    exact s.safeOut_next (s.safeTo_onDev _)
  case fmHello | fmProof =>
    exact s.safeOut_next ((s.safeTo_onDev _).trans (State.safeTo_onDev _ _))
  case completionSend p c =>
    unfold execCompletionSend
    split
    · exact s.safeOut_next s.safeTo_refl
    · exact s.safeOut_ite _ (s.safeOut_linkStep _ _) (s.safeOut_next s.safeTo_refl)
  case relock => exact s.safeOut_next s.safeTo_relock
  case unlock =>
    exact s.safeOut_ite _ (s.safeOut_next s.safeTo_refl) (s.safeOut_next ((s.safeTo_unlock _ _).trans ⟨id, Sec.fusesKept_refl _⟩))
  case extest | samplePreload =>
    exact s.safeOut_ite _ (s.safeOut_next s.safeTo_refl) (s.safeOut_next ((s.safeTo_tap _ _).trans ⟨id, Sec.fusesKept_refl _⟩))
  case idcode => exact s.safeOut_next (s.safeTo_tap _ _)
  case bypass b =>
    exact s.safeOut_next (s.safeTo_ite _ s.safeTo_refl ((⟨id, s.sec.fusesKept_refl⟩ : s.safeTo (s.trst b.trstN)).trans (State.safeTo_tap _ _ _)))
  case tapFlash => exact s.safeOut_next (s.safeTo_ite _ (s.safeTo_tapFlash _ _ _ _) s.safeTo_refl)
  case updateStage =>
    exact s.safeOut_ite _ (s.safeOut_next s.safeTo_refl) (s.safeOut_cmd _ _ _ _ fun _ _ s => s.safeTo_updateStage _ _ _ _ _)
  case stageWriteComplete =>
    exact s.safeOut_next (s.safeTo_ite _ ((s.safeTo_writeDone _).trans (State.safeTo_onDev _ _)) s.safeTo_refl)
  case updateActivate => exact s.safeOut_cmd _ _ _ _ fun _ _ s => s.safeTo_activate _ _
  case activationPause =>
    exact s.safeOut_ite _ (s.safeOut_next (s.safeTo_pause.trans (State.safeTo_onDev _ _))) (s.safeOut_next s.safeTo_refl)
  case handoffAccept h =>
    unfold execHandoffAccept
    split
    · exact s.safeOut_next s.safeTo_refl
    · exact s.safeOut_ite _ (s.safeOut_next s.safeTo_refl) (s.safeOut_ite _
        (s.safeOut_next ((s.safeTo_accept _ _).trans (State.safeTo_onDev _ _))) (s.safeOut_next (s.safeTo_onDev _)))
  case pwrCtlWrite => exact s.safeOut_next (s.safeTo_pwrWrite _ _)
  case emergencyOn => exact s.safeOut_ite _ (s.safeOut_next (s.safeTo_causeOn _ _)) (s.safeOut_next s.safeTo_refl)
  case emergencyOff => exact s.safeOut_ite _ (s.safeOut_next (s.safeTo_causeOff _ _)) (s.safeOut_next s.safeTo_refl)
  case governorTick =>
    exact s.safeOut_ite _ (s.safeOut_next (s.safeTo_governor _ rfl rfl rfl)) (s.safeOut_next s.safeTo_refl)
  case rstdaa | entdaa | setdasa | enec | disec => exact s.safeOut_next (s.safeTo_ite _ ⟨id, s.sec.fusesKept_refl⟩ s.safeTo_refl)
  case getpid | getbcr | getdcr | getMessageTypeSupport | getTid | getPldmTypes | getPldmCommands | getPdrRepositoryInfo |
      getstatus | getEndpointId =>
    exact s.safeOut_i3cReq _ ⟨id, s.sec.fusesKept_refl⟩
  case setEndpointId => exact s.safeOut_i3cReq _ (s.safeTo_setEid _ _)
  case getMctpVersionSupport | getPldmVersion =>
    exact s.safeOut_i3cReq _ (s.safeTo_ite _ ⟨id, s.sec.fusesKept_refl⟩ ⟨id, s.sec.fusesKept_refl⟩)
  case setTid => exact s.safeOut_i3cReq _ (s.safeTo_setTid_ _)
  case getPdr => exact s.safeOut_i3cReq _ (s.safeTo_pdr _)
  case getSensorReading => exact s.safeOut_i3cReq _ (s.safeTo_sensor _)
  case getStateSensorReadings => exact s.safeOut_i3cReq _ (s.safeTo_stateSensor _)
  case vendorMrsRead => exact s.safeOut_i3cReq _ (s.safeTo_vendorRead _)
  case standbyPowerUp => exact s.safeOut_next (s.safeTo_ite _ (s.safeTo_standbyUp _) s.safeTo_refl)
  case pwrokRise =>
    exact s.safeOut_next (s.safeTo_ite _ ((s.safeTo_ite _ s.safeTo_powerBack s.safeTo_refl).trans (State.safeTo_pwrUp _)) s.safeTo_refl)
  case powerLoss => exact s.safeOut_next (s.safeTo_ite _ s.safeTo_refl (s.safeTo_powerLost _))
  case coldReset => exact s.safeOut_next (s.safeTo_ite _ s.safeTo_refl (s.safeTo_coldReset _ _))
  case warmReset => exact s.safeOut_next (s.safeTo_ite _ s.safeTo_refl (s.safeTo_warm _ _ _))
  case resetRelease x =>
    have hrise : s.safeTo (s.resetHigh x.sel) := s.safeTo_resetHigh _
    exact s.safeOut_next (s.safeTo_ite _ s.safeTo_refl
      (State.safeTo_ite _ _ (hrise.trans (State.safeTo_release _ _)) hrise))
  case firmwareStarted => exact s.safeOut_next (s.safeTo_ite _ s.safeTo_firmware s.safeTo_refl)
  case cfg => exact s.safeOut_next ((s.safeTo_cfgArrive _ _ _ _).trans (State.safeTo_onDev _ _))
  case thawComplete =>
    exact s.safeOut_next (s.safeTo_ite _
      ((s.safeTo_onDev _).trans ((State.safeTo_cfgThaw _).trans (State.safeTo_onDev _ _))) s.safeTo_refl)
  case registerWrite =>
    exact s.safeOut_next (s.safeTo_ite _ ((s.safeTo_regWrite _ _).trans (State.safeTo_onDev _ _)) s.safeTo_refl)
  case tapMrs => exact s.safeOut_next (s.safeTo_ite _ ((s.safeTo_tapAccess _ _ _).trans (State.safeTo_onDev _ _)) s.safeTo_refl)
  case flitReceive => exact s.safeOut_next ((s.safeTo_flitIn _ _).trans (State.safeTo_onDev _ _))

/-- Every step, a tick on an empty queue among them. -/
theorem safeTo_step {t : State} (h : step s = .next t) : s.safeTo t := by
  unfold step at h
  split at h
  · exact s.safeOut_next s.safeTo_tick t h
  · next c q _ =>
    have hq : s.safeTo { s with pending := q } := ⟨id, s.sec.fusesKept_refl⟩
    exact hq.trans (State.safeOut_exec _ c t h)

end State

/-- Settles O57. -/
theorem everyStepKeepsThePowerLimits : Obligations.EveryStepKeepsThePowerLimits :=
  fun s _ hlimits hstep => (s.safeTo_step hstep).limits hlimits

/-- Settles O59. -/
theorem everyStepKeepsTheFuses : Obligations.EveryStepKeepsTheFuses := fun s _ hstep => (s.safeTo_step hstep).fuses

end Sys2Proof.Machine

/-! PROOF. The queue and the tick of an empty one (R20, R355), the state before standby power, and the board-management target (R394,
R395). -/
namespace Sys2Proof.Machine

/-! ### The queue -/

/-- Settles O1. -/
theorem stepRunsTheFrontCommand : Obligations.StepRunsTheFrontCommand := fun c q s h => by
  rw [step, h]

/-! ### A tick (R20) -/

section
variable (d : Dev)

/-- One tick of the timer of x, where it runs. -/
def Dev.tickOne (x : Nat) : Dev :=
  if d.timerRuns x then
    { d with
      timers := d.timers.upd x 0 (· + 1), halted := if d.freezes == .running then d.halted else d.halted.upd x 0 (· + 1) }
  else d

theorem Dev.tick_eq : d.tick = d.each timerKeys Dev.tickOne := rfl

/-- The device e is d but for the timers. -/
def Dev.timersOnly (e : Dev) : Prop := e = { d with timers := e.timers, halted := e.halted }

theorem Dev.timersOnly_tickOne (x : Nat) : d.timersOnly (d.tickOne x) := by
  unfold Dev.tickOne
  split <;> rfl

variable {d}

theorem Dev.timersOnly_trans {e f : Dev} (h : d.timersOnly e) (k : e.timersOnly f) : d.timersOnly f :=
  k.trans (congrArg (fun x : Dev => { x with timers := f.timers, halted := f.halted }) h)

/-- Which timers run is not a matter of their values. -/
theorem Dev.timersOnly_timerRuns {e : Dev} (h : d.timersOnly e) (x : Nat) : e.timerRuns x = d.timerRuns x := by
  rw [h]
  rfl

variable (d)

theorem Dev.timersOnly_tick : d.timersOnly d.tick :=
  Dev.each_keeps d.timersOnly _ _ (fun e x h => Dev.timersOnly_trans h (e.timersOnly_tickOne x)) d rfl

theorem Dev.tickOne_get (x y : Nat) : (d.tickOne x).timers.get y 0 =
    if y = x ∧ d.timerRuns x = true then d.timers.get y 0 + 1 else d.timers.get y 0 := by
  unfold Dev.tickOne
  by_cases hr : d.timerRuns x = true
  · by_cases hy : y = x
    · subst hy
      simp [hr]
    · simp [hr, hy, tab_get_upd_other]
  · simp [hr]

/-- Of a list without repetitions each timer that runs goes on by one. -/
theorem Dev.each_tickOne_get (l : List Nat) (hl : l.Nodup) (y : Nat) : (d.each l Dev.tickOne).timers.get y 0 =
    if y ∈ l ∧ d.timerRuns y = true then d.timers.get y 0 + 1 else d.timers.get y 0 := by
  induction l generalizing d with
  | nil => simp [Dev.each]
  | cons x t ih =>
    obtain ⟨hx, ht⟩ := List.nodup_cons.mp hl
    have hstep : (d.each (x :: t) Dev.tickOne) = (d.tickOne x).each t Dev.tickOne := rfl
    rw [hstep, ih _ ht, Dev.tickOne_get, Dev.timersOnly_timerRuns (d.timersOnly_tickOne x)]
    by_cases hy : y = x
    · subst hy
      simp [hx]
    · simp [hy]

theorem Dev.tick_get (y : Nat) : d.tick.timers.get y 0 =
    if y ∈ timerKeys ∧ d.timerRuns y = true then d.timers.get y 0 + 1 else d.timers.get y 0 :=
  d.each_tickOne_get timerKeys (by decide +kernel) y

end

section
variable (s : State)

theorem State.burnTick_idle (d : Dev) (h : d.upd.burn = none) : ({ s with dev := d } : State).burnTick = { s with dev := d } := by
  simp only [State.burnTick, h]

theorem State.burnTick_halted (d : Dev) (h : d.freezes ≠ .running ∨ d.marlUp = 0) :
    ({ s with dev := d } : State).burnTick = { s with dev := d } := by
  unfold State.burnTick
  split
  · rw [if_pos h]
  · rfl

/-- A fuse before the last. -/
theorem State.burnTick_fuse (d : Dev) (n : Nat) (ref : CmdRef) (hn : d.upd.burn = some n) (href : d.upd.cmd = some ref)
    (hf : d.freezes = .running) (hm : d.marlUp ≠ 0) (hlt : s.sec.svnFuse + 1 < n) :
    ({ s with dev := d } : State).burnTick = { s with dev := d, sec := { s.sec with svnFuse := s.sec.svnFuse + 1 } } := by
  simp only [State.burnTick, hn, href, hf, ne_eq, not_true_eq_false, hm, or_self, if_false, hlt, if_true]

theorem State.step_empty (h : s.pending = []) : step s = .next ({ s with dev := s.dev.tick } : State).burnTick := by
  simp only [step, h, State.tick, State.onDev]

end

/-- Settles O2: the device after the tick is Dev.tick, whatever is done of a raise of the security version. -/
theorem emptyQueueTicksTimers : Obligations.EmptyQueueTicksTimers := by
  unfold Obligations.EmptyQueueTicksTimers
  intro s hq
  have hsame : s.dev.tick = { s.dev with timers := s.dev.tick.timers, halted := s.dev.tick.halted } := s.dev.timersOnly_tick
  have hburn : s.dev.tick.upd.burn = s.dev.upd.burn := (congrArg (fun d : Dev => d.upd.burn) hsame :)
  have hcmd : s.dev.tick.upd.cmd = s.dev.upd.cmd := (congrArg (fun d : Dev => d.upd.cmd) hsame :)
  have hfreezes : s.dev.tick.freezes = s.dev.freezes := (congrArg Dev.freezes hsame :)
  have hmarl : s.dev.tick.marlUp = s.dev.marlUp := (congrArg Dev.marlUp hsame :)
  refine ⟨s.dev.tick, fun hb => ?_, fun n ref hb hc hf hm hlt => ?_, fun n _ hh => ?_, hsame, s.dev.tick_get⟩
  · exact (s.step_empty hq).trans (congrArg _ (s.burnTick_idle _ (hburn.trans hb)))
  · exact (s.step_empty hq).trans (congrArg _ (s.burnTick_fuse _ n ref (hburn.trans hb) (hcmd.trans hc) (hfreezes.trans hf)
      (fun h => hm (hmarl.symm.trans h)) hlt))
  · exact (s.step_empty hq).trans (congrArg _ (s.burnTick_halted _
      (hh.elim (fun h => .inl fun e => h (hfreezes.symm.trans e)) fun h => .inr (hmarl.trans h))))

/-! ### Registers at their reset values (R24) -/

/-- The register blocks. -/
def rowBlocks : List (List RegRow) :=
  [rowsGEN, rowsSTR, rowsLSS, rowsGRD, rowsBED, rowsCTX, rowsRGN, rowsQOS, rowsHMC, rowsLMC, rowsLOAM, rowsOLY, rowsHIF, rowsSEC,
    rowsSAF, rowsPWR, rowsDBG]

theorem rowsAt_mem (a : Nat) : rowsAt a ∈ rowBlocks := by
  simp only [rowsAt, apply_ite (· ∈ rowBlocks)]
  simp only [rowBlocks, List.mem_cons, true_or, or_true, ite_self]

theorem rowOf_spec {a : Nat} {r : RegRow} (h : rowOf a = some r) : a % 8 = 0 ∧ r ∈ rowsAt a ∧ r.holds a = true := by
  unfold rowOf at h
  split at h
  · exact ⟨by assumption, List.mem_of_find?_eq_some h, (List.find?_some (p := fun r : RegRow => r.holds a) h :)⟩
  · cases h

/-- What holds of every row of every block holds of the row of an address. -/
theorem rowOf_all {P : RegRow → Prop} (hP : ∀ b ∈ rowBlocks, ∀ r ∈ b, P r) {a : Nat} {r : RegRow} (h : rowOf a = some r) : P r :=
  hP _ (rowsAt_mem a) r (rowOf_spec h).2.1

/-- Every field reads its reset value in the reset value of its register. -/
theorem rows_resetValue : ∀ b ∈ rowBlocks, ∀ r ∈ b, ∀ f ∈ r.fields, f.get r.resetValue = f.rst := by decide +kernel

/-- Settles O60: every table of the reset state is empty. -/
theorem resetState : Obligations.ResetState :=
  ⟨State.limits_default, rfl, fun _ _ => rfl, rfl, rfl, rfl, fun _ => rfl, fun _ => rfl, fun _ => rfl, rfl,
    fun s ga => by rw [Dev.memGet_eq, cellsGet_zero _ _ _ fun _ _ => rfl]; rfl, fun _ _ hr => rowOf_all rows_resetValue hr⟩

end Sys2Proof.Machine

/-! PROOF. What board management answers (R394, R395): every request that the dynamic address takes is one reply. -/
namespace Sys2Proof.Machine

section
variable (s : State)

theorem State.i3cOn_of (h : s.dev.step ≠ .standby) : s.i3cOn = true := by simpa [State.i3cOn, Dev.standbyOn] using h

theorem State.addressed_of (h : s.dev.step ≠ .standby) (ha : s.mgmt.dynAddr.isSome) : s.addressed = true := by
  simp [State.addressed, s.i3cOn_of h, ha]

theorem State.i3cReq_answers (hs : s.dev.step ≠ .standby) (ha : s.mgmt.dynAddr.isSome) (f : State → State) {t : State} (h : f s = t) :
    s.i3cReq f = .next t := by
  rw [s.i3cReq_addressed f (s.addressed_of hs ha), h]

/-- Free bytes are as many as asked for, and move the position alone. -/
theorem Dev.freshBytes_spec (d : Dev) (n : Nat) :
    (d.freshBytes n).1.length = n ∧ ∃ m, (d.freshBytes n).2 = { d with free := m } := by
  induction n generalizing d with
  | zero => exact ⟨rfl, d.free, rfl⟩
  | succ n ih =>
    obtain ⟨hl, m, hm⟩ := ih { d with free := d.free + 1 }
    exact ⟨congrArg (· + 1) hl, m, hm⟩

theorem State.i3cFree_sends (l : List Byte) (n : Nat) : ∃ f m, f.length = n ∧ s.i3cFree l n = s.sends (l ++ f) m := by
  obtain ⟨hl, m, hm⟩ := s.dev.freshBytes_spec n
  refine ⟨(s.dev.freshBytes n).1, m, hl, ?_⟩
  simp only [State.i3cFree, hm]
  rfl

theorem identBytes_length (n k : Nat) : (identBytes n k).length = n := by simp [identBytes, natBytes]

end

/-- Settles O3. -/
theorem i3cTarget : Obligations.I3cTarget := by
  unfold Obligations.I3cTarget
  refine ⟨fun s hs => ?_, fun s hs ha => ?_⟩
  · have hon := s.i3cOn_of hs
    refine ⟨?_, fun a hn => ⟨identBytes 6 0 ++ identBytes 1 1 ++ identBytes 1 2, ?_, ?_⟩, fun a hn => ?_, fun m => ?_, fun m => ?_⟩
    · exact congrArg _ (if_pos hon)
    · simp [identBytes_length]
    · exact congrArg _ (if_pos (by simp [hon, hn]))
    · exact congrArg _ (if_pos (by simp [hon, hn]))
    · exact congrArg _ (if_congr (by simp [hon]) rfl rfl)
    · exact congrArg _ (if_congr (by simp [hon]) rfl rfl)
  · have hr := s.i3cReq_answers hs ha
    obtain ⟨f, m, hf, hsend⟩ := s.i3cFree_sends [] 2
    exact ⟨⟨_, identBytes_length 6 0, hr _ rfl⟩, ⟨_, identBytes_length 1 1, hr _ rfl⟩, ⟨_, identBytes_length 1 2, hr _ rfl⟩,
      f, m, hf, hr (·.i3cFree [] 2) hsend⟩

section
variable (s : State)

/-- The sixteen numeric sensors and the three state sensors. -/
theorem sensors_length : sensors.length = 16 := rfl

/-- A numeric sensor answers with its reading, after five bytes of which the middle four are free. -/
theorem State.sensor_sends (id : Nat) (k : Sensor) (h0 : id ≠ 0) (hk : sensors[id - 1]? = some k) :
    ∃ l n, s.sensor id = s.sends ([0x00, 0x02, 0x00] ++ l ++ natBytes (s.reading k) 2) n := by
  obtain ⟨-, m, hm⟩ := s.dev.freshBytes_spec 5
  refine ⟨(s.dev.freshBytes 5).1.drop 1, m, ?_⟩
  simp only [State.sensor, hk, h0, if_false, hm]
  rfl

theorem State.stateSensor_sends (id : Nat) (h : 16 < id) (h' : id ≤ 19) :
    ∃ l n, s.stateSensor id = s.sends ([0x00, 0x01, 0x00, BitVec.ofNat 8 (s.stateReading (id - 17))] ++ l) n := by
  obtain ⟨-, m, hm⟩ := s.dev.freshBytes_spec 2
  refine ⟨(s.dev.freshBytes 2).1, m, ?_⟩
  have hid : sensors.length < id ∧ id ≤ pdrCount := ⟨h, h'⟩
  rw [State.stateSensor, if_pos hid]
  simp only [hm, sensors_length, Nat.sub_sub]
  rfl

theorem State.pdr_sends (r : Nat) (h : r ≤ 19) : ∃ l, s.pdr r = s.sends (0 :: l) s.dev.free := by
  have hk : ¬ pdrCount < (if r = 0 then 1 else r) := by
    rw [pdrCount, sensors_length]
    split <;> omega
  rw [State.pdr, if_neg hk]
  exact ⟨_, rfl⟩

theorem State.pdr_absent (r : Nat) (h : 19 < r) : s.pdr r = s.sends [0x82] s.dev.free := by
  rw [State.pdr, if_neg (by omega : r ≠ 0), if_pos (show pdrCount < r from h)]
  rfl

/-- The MCTP control messages. -/
theorem State.mctpAnswers (hs : s.dev.step ≠ .standby) (ha : s.mgmt.dynAddr.isSome) :
    (∀ (op : Fin 4) (eid : Byte), op.val ≤ 1 → eid ≠ 0 → eid ≠ 0xFF →
      exec (.setEndpointId op eid) s = .next ({ s with mgmt := { s.mgmt with eid := eid } }.sends [0, 0, eid, 0] s.dev.free)) ∧
    (∃ l n, l.length = 2 ∧ exec .getEndpointId s = .next (s.sends (0 :: s.mgmt.eid :: l) n)) ∧
    (∀ ty : Byte, ty = 0 ∨ ty = 1 ∨ ty = 0x7F → ∃ l n, l.length = 4 ∧
      exec (.getMctpVersionSupport ty) s = .next (s.sends (0 :: 1 :: l) n)) ∧
    (∀ ty : Byte, ty ≠ 0 → ty ≠ 1 → ty ≠ 0x7F → ty ≠ 0xFF → ∃ l,
      l ≠ [] ∧ l.head? ≠ some 0 ∧ exec (.getMctpVersionSupport ty) s = .next (s.sends l s.dev.free)) ∧
    exec .getMessageTypeSupport s = .next (s.sends [0, 2, 1, 0x7F] s.dev.free) := by
  have hr := s.i3cReq_answers hs ha
  refine ⟨fun op eid hop h0 hff => ?_, ?_, fun ty hty => ?_, fun ty h0 h1 h7f hff => ⟨[0x80], by simp, by decide, ?_⟩, hr _ rfl⟩
  · have hset : (decide (op.val ≤ 1) && assignable eid) = true := by simpa [assignable, hop] using ⟨h0, hff⟩
    exact hr (·.setEid op.val eid) (if_pos hset)
  · obtain ⟨f, m, hf, hsend⟩ := s.i3cFree_sends [0x00, s.mgmt.eid] 2
    exact ⟨f, m, hf, hr (fun s => s.i3cFree [0x00, s.mgmt.eid] 2) hsend⟩
  · obtain ⟨f, m, hf, hsend⟩ := s.i3cFree_sends [0x00, 0x01] 4
    have hmctp : mctpType ty = true := by rcases hty with rfl | rfl | rfl <;> rfl
    exact ⟨f, m, hf, hr (fun s => if mctpType ty then s.i3cFree [0x00, 0x01] 4 else s.i3c [0x80]) ((if_pos hmctp).trans hsend)⟩
  · have hmctp : ¬ mctpType ty = true := by simpa [mctpType, not_or, and_assoc] using ⟨hff, h0, h1, h7f⟩
    exact hr (fun s => if mctpType ty then s.i3cFree [0x00, 0x01] 4 else s.i3c [0x80]) (if_neg hmctp)

section
variable (hs : s.dev.step ≠ .standby) (ha : s.mgmt.dynAddr.isSome) (ty : Byte) {t : State}
include hs ha

theorem State.pldmVersion_answers (h : (if pldmType ty then s.i3cFree [0x00, 0, 0, 0, 0, 0x05] 8 else s.i3c [0x83]) = t) :
    exec (.getPldmVersion ty) s = .next t :=
  s.i3cReq_answers hs ha (fun s => if pldmType ty then s.i3cFree [0x00, 0, 0, 0, 0, 0x05] 8 else s.i3c [0x83]) h

theorem State.pldmCommands_answers (h : s.i3c (if pldmType ty then 0x00 :: maskBytes 32 (pldmCommands ty) else [0x83]) = t) :
    exec (.getPldmCommands ty) s = .next t :=
  s.i3cReq_answers hs ha (fun s => s.i3c (if pldmType ty then 0x00 :: maskBytes 32 (pldmCommands ty) else [0x83])) h

end

/-- The PLDM base messages. -/
theorem State.pldmAnswers (hs : s.dev.step ≠ .standby) (ha : s.mgmt.dynAddr.isSome) :
    exec .getTid s = .next (s.sends [0, s.mgmt.tid] s.dev.free) ∧
    (∀ t : Byte, t ≠ 0 → t ≠ 0xFF →
      exec (.setTid t) s = .next ({ s with mgmt := { s.mgmt with tid := t } }.sends [0] s.dev.free)) ∧
    (∀ ty : Byte, ty = 0 ∨ ty = 2 → (∃ l n, exec (.getPldmVersion ty) s = .next (s.sends (0 :: l) n)) ∧
      ∃ l, l.length = 32 ∧ exec (.getPldmCommands ty) s = .next (s.sends (0 :: l) s.dev.free)) ∧
    (∀ ty : Byte, ty ≠ 0 → ty ≠ 2 →
      exec (.getPldmVersion ty) s = .next (s.sends [0x83] s.dev.free) ∧
      exec (.getPldmCommands ty) s = .next (s.sends [0x83] s.dev.free)) ∧
    exec .getPldmTypes s = .next (s.sends [0, 5, 0, 0, 0, 0, 0, 0, 0] s.dev.free) := by
  have hr := s.i3cReq_answers hs ha
  refine ⟨hr _ rfl, fun t h0 hff => ?_, fun ty hty => ?_, fun ty h0 h2 => ?_, hr _ rfl⟩
  · have hset : assignable t = true := by simpa [assignable] using ⟨h0, hff⟩
    exact hr (·.setTid_ t) (if_pos hset)
  · have hpldm : pldmType ty = true := by rcases hty with rfl | rfl <;> rfl
    obtain ⟨f, m, -, hsend⟩ := s.i3cFree_sends [0x00, 0, 0, 0, 0, 0x05] 8
    exact ⟨⟨_, m, s.pldmVersion_answers hs ha ty ((if_pos hpldm).trans hsend)⟩, maskBytes 32 (pldmCommands ty),
      by simp [maskBytes, natBytes], s.pldmCommands_answers hs ha ty (congrArg s.i3c (if_pos hpldm))⟩
  · have hpldm : ¬ pldmType ty = true := by simpa [pldmType, not_or] using ⟨h0, h2⟩
    exact ⟨s.pldmVersion_answers hs ha ty (if_neg hpldm), s.pldmCommands_answers hs ha ty (congrArg s.i3c (if_neg hpldm))⟩

end

/-- Settles O4: a reply for each message, the sensors found by their number. -/
theorem mctpAndPldmAnswer : Obligations.MctpAndPldmAnswer := by
  unfold Obligations.MctpAndPldmAnswer
  refine ⟨State.mctpAnswers, State.pldmAnswers, fun s hs ha => ?_⟩
  have hr := s.i3cReq_answers hs ha
  have hread : ∀ id k, id ≠ 0 → sensors[id - 1]? = some k → ∃ l n, exec (.getSensorReading id) s =
      .next (s.sends ([0x00, 0x02, 0x00] ++ l ++ natBytes (s.reading k) 2) n) := fun id k h0 hk => by
    obtain ⟨l, n, hsend⟩ := s.sensor_sends id k h0 hk
    exact ⟨l, n, hr (·.sensor id) hsend⟩
  have hstate : ∀ id, 16 < id → id ≤ 19 → ∃ l n, exec (.getStateSensorReadings id) s =
      .next (s.sends ([0x00, 0x01, 0x00, BitVec.ofNat 8 (s.stateReading (id - 17))] ++ l) n) := fun id h h' => by
    obtain ⟨l, n, hsend⟩ := s.stateSensor_sends id h h'
    exact ⟨l, n, hr (·.stateSensor id) hsend⟩
  refine ⟨?_, fun r h => ?_, fun r h => ⟨0x82, by decide, hr (·.pdr r) (s.pdr_absent r h)⟩,
    hread 1 .v48 (by decide) rfl, hread 2 .power (by decide) rfl, fun k h1 h16 => ?_, hstate 17 (by decide) (by decide), fun k h17 h19 => ?_⟩
  · obtain ⟨-, m, hm⟩ := s.dev.freshBytes_spec 26
    obtain ⟨-, n, hn⟩ := Dev.freshBytes_spec { s.dev with free := m } 9
    refine ⟨(s.dev.freshBytes 26).1, (Dev.freshBytes { s.dev with free := m } 9).1, n, ?_⟩
    change execGetPdrRepositoryInfo s = _
    rw [execGetPdrRepositoryInfo, s.i3cReq_addressed _ (s.addressed_of hs ha)]
    simp only [hm, hn]
    rfl
  · obtain ⟨l, hsend⟩ := s.pdr_sends r h
    exact ⟨l, hr (·.pdr r) hsend⟩
  · obtain ⟨l, n, h⟩ := hread k _ (by omega) (List.getElem?_eq_getElem (by rw [sensors_length]; omega))
    exact ⟨_, n, h⟩
  · obtain ⟨l, n, h⟩ := hstate k (by omega) h19
    exact ⟨_, n, h⟩

end Sys2Proof.Machine

/-! PROOF. The TAP, debug unlock and the capture engine (R401 to R408, R418). -/
namespace Sys2Proof.Machine

/-! ### The TAP instructions (R401, R418) -/

/-- The boundary cells in their order. -/
theorem pins_bits : ∀ (a b c d e f : Bool) (p : BitVec 2),
    let w := BitVec.ofNat 8 (b2n a + b2n b * 2 + b2n c * 4 + b2n d * 8 + b2n e * 16 + b2n f * 32 + p.toNat * 64)
    w.getLsbD 0 = a ∧ w.getLsbD 1 = b ∧ w.getLsbD 2 = c ∧ w.getLsbD 3 = d ∧ w.getLsbD 4 = e ∧ w.getLsbD 6 = p.getLsbD 0 ∧
      w.getLsbD 7 = p.getLsbD 1 := by
  decide +kernel

section
variable (s : State)

theorem State.tap_on (ir : Byte) (out : Nat) (h : s.tapOn = true) :
    s.tap ir out = { s with dev := { s.dev with out := s.dev.out ++ [.tap out] }, mgmt := { s.mgmt with ir := ir } } := by
  rw [State.tap, if_neg (by simp [h])]
  rfl

theorem State.tap_off (ir : Byte) (out : Nat) (h : s.tapOn = false) : s.tap ir out = s := by
  rw [State.tap, if_pos (by simp [h])]

theorem State.tapOn_parts (h : s.tapOn = true) : s.dev.tapOn = true ∧ s.mgmt.trstN = true := by
  simpa [State.tapOn] using h

theorem State.tapOn_trst (h : s.mgmt.trstN = false) : s.tapOn = false := by simp [State.tapOn, h]

/-- TRST_N high where it was high. -/
theorem State.trst_high (h : s.mgmt.trstN = true) : s.trst true = s := by
  simp only [State.trst, if_true, ← h]

theorem State.trst_low : (s.trst false).tapOn = false := (s.trst false).tapOn_trst rfl

variable (h : s.tapOn = true)
include h

theorem exec_bypass_high (b : BypassAt) (hop : b.op ∉ tapOpcodes) (hb : b.trstN = true) : exec (.bypass b) s = .next { s with
    dev := { s.dev with out := s.dev.out ++ [.tap (if b.bit then 2 else 0)] }, mgmt := { s.mgmt with ir := b.op } } := by
  obtain ⟨hdev, hpin⟩ := s.tapOn_parts h
  have hgo : (!s.dev.tapOn || tapOpcodes.contains b.op) = false := by simpa [hdev] using hop
  change execBypass b s = _
  rw [execBypass, hgo, hb, s.trst_high hpin, s.tap_on _ _ h]
  cases b.bit <;> rfl

theorem exec_bypass_low (b : BypassAt) (hop : b.op ∉ tapOpcodes) (hb : b.trstN = false) :
    exec (.bypass b) s = .next { s with mgmt := { s.mgmt with ir := 0x01, trstN := false } } := by
  obtain ⟨hdev, -⟩ := s.tapOn_parts h
  have hgo : (!s.dev.tapOn || tapOpcodes.contains b.op) = false := by simpa [hdev] using hop
  change execBypass b s = _
  rw [execBypass, hgo, hb, State.tap_off _ _ _ s.trst_low]
  rfl

theorem exec_boundary (v : Byte) :
    exec (.extest v) s = .next { s with
      dev := { s.dev with out := s.dev.out ++ [.tap s.pins.toNat] }, mgmt := { s.mgmt with ir := 0x00, boundary := v } } ∧
    exec (.samplePreload v) s = .next { s with
      dev := { s.dev with out := s.dev.out ++ [.tap s.pins.toNat] }, mgmt := { s.mgmt with ir := 0x02, boundary := v } } := by
  refine ⟨?_, ?_⟩
  · change execExtest v s = _
    rw [execExtest, if_neg (by simp [h]), s.tap_on _ _ h]
  · change execSamplePreload v s = _
    rw [execSamplePreload, if_neg (by simp [h]), s.tap_on _ _ h]

omit h

/-- While TRST_N is low no instruction is taken. -/
theorem exec_tap_held (h : s.mgmt.trstN = false) : exec .idcode s = .next s ∧ (∀ v, exec (.extest v) s = .next s) ∧
    ∀ v, exec (.samplePreload v) s = .next s := by
  have hoff := s.tapOn_trst h
  have hno : (!s.tapOn) = true := by simp [hoff]
  exact ⟨congrArg _ (s.tap_off _ _ hoff), fun v => if_pos hno, fun v => if_pos hno⟩

/-! ### FLASH through the TAP (R402) -/

/-- The state after an access to the flash that is let in: of the device flash is as the access leaves it, and bytes leave. -/
def State.tapFlashed (d : Dev) (v : Gran) (t : State) : Prop :=
  t.mgmt.flashStatus = 0 ∧ t.mgmt.flashData = v ∧ t.pwr = s.pwr ∧ t.dev = { d with out := t.dev.out }

theorem State.keysCheck_tapFlashed (d : Dev) (v : Gran) (x : Sec) (n : Nat) : s.tapFlashed d v
    ({ s with dev := d.emit (.tap n), sec := x, mgmt := { s.mgmt with ir := 0x11, flashStatus := 0, flashData := v } } : State).keysCheck :=
  ⟨rfl, rfl, rfl, rfl⟩

section
variable (area off : Nat) (data : Gran) (hst : s.dev.state = .boot ∨ s.dev.state = .frozen) (hoff : off + 32 ≤ (tapArea area).2)
include hst hoff

theorem State.tapFlash_let :
    s.tapFlashed (s.dev.flashErase ((tapArea area).1 + off / 65536 * 65536) 65536) s.mgmt.flashData (s.tapFlash 1 area off data) ∧
    s.tapFlashed (s.dev.flashPut ((tapArea area).1 + off) (granBytes data)) s.mgmt.flashData (s.tapFlash 2 area off data) ∧
    s.tapFlashed s.dev ((s.dev.flashGrans ((tapArea area).1 + off) 1).getD 0 0) (s.tapFlash 3 area off data) := by
  have hst' : (s.dev.state == .boot || s.dev.state == .frozen) = true := by simpa using hst
  have hlen : off + 1 ≤ (tapArea area).2 := by omega
  refine ⟨?_, ?_, ?_⟩
  all_goals
    simp only [State.tapFlash, hst', hlen, hoff, if_true, Nat.reduceEqDiff, reduceIte]
    exact s.keysCheck_tapFlashed _ _ _ _

end

end

/-- Byte i of bytes that are put together, least significant first. -/
theorem leNat_byte (l : List Byte) (i : Nat) (h : i < l.length) : BitVec.ofNat 8 (leNat l / 256 ^ i) = l.getD i 0xFF := by
  induction l generalizing i with
  | nil => exact absurd h (Nat.not_lt_zero i)
  | cons b t ih =>
    have hb := b.isLt
    cases i with
    | zero =>
      apply BitVec.eq_of_toNat_eq
      simp only [leNat, pow_zero, Nat.div_one, BitVec.toNat_ofNat, List.getD_cons_zero]
      omega
    | succ i =>
      rw [leNat, pow_succ', ← Nat.div_div_eq_div_mul, show (b.toNat + 256 * leNat t) / 256 = leNat t by omega,
        ih i (by simpa using h), List.getD_cons_succ]

theorem leNat_lt (l : List Byte) : leNat l < 256 ^ l.length := by
  induction l with
  | nil => exact Nat.one_pos
  | cons b t ih =>
    have hb := b.isLt
    rw [leNat, List.length_cons, pow_succ']
    omega

theorem natBytes_getD (v n i : Nat) (h : i < n) : (natBytes v n).getD i 0xFF = BitVec.ofNat 8 (v / 256 ^ i) := by
  simp [natBytes, List.getD_eq_getElem?_getD, h]

/-- A granule read from flash holds the bytes that stand there. -/
theorem Dev.flashGrans_byte (d : Dev) (a i : Nat) (h : i < 32) :
    BitVec.ofNat 8 (((d.flashGrans a 1).getD 0 0).toNat / 256 ^ i) = Tab.get d.flash (a + i) 0xFF := by
  have hlen : (d.flashGet a 32).length = 32 := by simp [Dev.flashGet]
  have htake : (d.flashGet a 32).take 32 = d.flashGet a 32 := List.take_of_length_le (by omega)
  have hlt : leNat (d.flashGet a 32) < 2 ^ 256 := by
    have := leNat_lt (d.flashGet a 32)
    rwa [hlen, show (256 : Nat) ^ 32 = 2 ^ 256 by norm_num] at this
  change BitVec.ofNat 8 ((bytesGran ((d.flashGet a 32).take 32)).toNat / 256 ^ i) = _
  rw [htake, bytesGran, BitVec.toNat_ofNat, Nat.mod_eq_of_lt hlt, leNat_byte _ _ (hlen.symm ▸ h)]
  simp [Dev.flashGet, List.getD_eq_getElem?_getD, h]

theorem Dev.flashErase_get (d : Dev) (a n i : Nat) (h : a ≤ i ∧ i < a + n) : Tab.get (d.flashErase a n).flash i 0xFF = 0xFF := by
  refine tab_get_absent _ _ _ fun e he heq => ?_
  have hout := (List.mem_filter.mp he).2
  rw [heq] at hout
  simp [h] at hout

theorem Dev.flashErase_mem (d : Dev) (a n : Nat) (c : Nat × Byte) (h : ¬ (a ≤ c.1 ∧ c.1 < a + n)) :
    c ∈ (d.flashErase a n).flash ↔ c ∈ d.flash := by
  rw [Dev.flashErase, List.mem_filter]
  exact and_iff_left (by simpa only [decide_eq_true_eq, Bool.not_eq_true', decide_eq_false_iff_not] using h)

theorem exec_tapFlash (s : State) (op area : Fin 4) (off : BitVec 24) (data : Gran) (h : s.tapOn = true) :
    exec (.tapFlash op area off data) s = .next (s.tapFlash op.val area.val off.toNat data) := congrArg _ (if_pos h)

/-- Settles O5. -/
theorem tapIdentificationAndFlash : Obligations.TapIdentificationAndFlash := by
  unfold Obligations.TapIdentificationAndFlash
  refine ⟨fun s h => ⟨congrArg _ (s.tap_on _ _ h), exec_bypass_high s h, exec_bypass_low s h, s.pins, ?_⟩, exec_tap_held,
    fun s area off data h hst hoff => ?_⟩
  · obtain ⟨h0, h1, h2, h3, h4, h6, h7⟩ :=
      pins_bits s.dev.resetN s.dev.pwrok (!s.dev.freezeN) (!s.dev.faultN) (!s.dev.thermTrip) (decide (s.pwr.causes = [])) s.mgmt.bootPin
    exact ⟨h0, h1, h2, h3, h4, h6, h7, fun v => (exec_boundary s h v).1, fun v => (exec_boundary s h v).2⟩
  · intro a
    obtain ⟨herase, hprogram, hread⟩ := s.tapFlash_let area.val off.toNat data hst hoff
    have hsector : a - off.toNat % 65536 = (tapArea area.val).1 + off.toNat / 65536 * 65536 := by omega
    refine ⟨⟨s.tapFlash 1 area.val off.toNat data, exec_tapFlash s 1 area off data h, ?_⟩, ⟨s.tapFlash 2 area.val off.toNat data, exec_tapFlash s 2 area off data h, ?_⟩, s.tapFlash 3 area.val off.toNat data, exec_tapFlash s 3 area off data h, ?_⟩
    · obtain ⟨hs, -, hp, hd⟩ := herase
      generalize s.tapFlash 1 area.val off.toNat data = t at hs hp hd
      have hflash : t.dev.flash = (s.dev.flashErase ((tapArea area.val).1 + off.toNat / 65536 * 65536) 65536).flash := by rw [hd]
      exact ⟨hs, hd.trans (hflash ▸ rfl), hp, fun i h1 h2 => hflash ▸ s.dev.flashErase_get _ _ _ (by omega),
        fun c hc => hflash ▸ s.dev.flashErase_mem _ _ c (by omega)⟩
    · obtain ⟨hs, -, hp, hd⟩ := hprogram
      generalize s.tapFlash 2 area.val off.toNat data = t at hs hp hd
      have hflash : t.dev.flash = (s.dev.flashPut a (granBytes data)).flash := by rw [hd]
      refine ⟨hs, ?_, hp, fun i => ?_⟩
      · rw [hd, s.dev.flashPut_rest]
      · rw [hflash, s.dev.flashPut_get]
        have hlen : (granBytes data).length = 32 := by simp [granBytes, natBytes]
        rw [hlen]
        split
        · exact natBytes_getD _ _ _ (by omega)
        · rfl
    · obtain ⟨hs, hv, hp, hd⟩ := hread
      exact ⟨hs, hd, hp, fun i hi => hv ▸ s.dev.flashGrans_byte a i hi⟩

/-! ### MRS through the TAP (R402) -/

/-- What may be read of a register that exists while debug is locked. -/
theorem tapMay_locked_read {a : Nat} {r : RegRow} (hr : rowOf a = some r) : tapMay true false a =
    decide (r ∈ rowsGEN ∨ r ∈ rowsPWR ∨ r ∈ rowsDBG ∨ r.reg = .SAF_STATUS ∨ r.reg = .HMC_TEMP ∨ r.reg = .LMC_TEMP) := by
  rw [Bool.eq_iff_iff, decide_eq_true_iff]
  simp only [tapMay, vendorMay, hr, Bool.not_true, Bool.false_eq_true, if_false, Bool.or_eq_true, List.contains_iff_mem, beq_iff_eq]
  tauto

theorem tapMay_locked_write {a : Nat} {r : RegRow} (hr : rowOf a = some r) (h : r.reg ≠ .DBG_CTL) :
    tapMay true true a = false := by
  simpa [tapMay, hr] using h

theorem tapMay_unlocked {a : Nat} {r : RegRow} (hr : rowOf a = some r) (wr : Bool) : tapMay false wr a = true := by
  simp [tapMay, hr]

theorem tapMay_absent {a : Nat} (hr : rowOf a = none) (locked wr : Bool) : tapMay locked wr a = false := by
  simp [tapMay, hr]

section
variable (s : State) (a : BitVec 32) (v : Word)

/-- What the TAP answers to an access, and the state it leaves. -/
def State.tapAnswer (x : Word) (refused : Bool) : State := { s with
  dev := ({ s.dev with out := s.dev.out ++ [Out.tap (x.toNat + if refused then 2 ^ 64 else 0)] }).finish,
  mgmt := { s.mgmt with ir := 0x10, mrsData := x, mrsRefused := refused } }

variable (h : s.tapOn = true)
include h

theorem exec_tapMrs_refused (wr : Bool) (hmay : tapMay (!s.sec.unlocked) wr a.toNat = false) :
    exec (.tapMrs wr a v) s = .next (s.tapAnswer 0 true) := by
  have hacc : s.tapAccess wr a.toNat v = { s with
      dev := { s.dev with out := s.dev.out ++ [Out.tap ((0 : Word).toNat + 2 ^ 64)] },
      mgmt := { s.mgmt with ir := 0x10, mrsData := 0, mrsRefused := true } } := by
    simp only [State.tapAccess, hmay]
    rfl
  change execTapMrs wr a v s = _
  rw [execTapMrs, if_pos h, hacc]
  rfl

theorem exec_tapMrs_read (hmay : tapMay (!s.sec.unlocked) false a.toNat = true) {r : RegRow} (hr : rowOf a.toNat = some r) :
    exec (.tapMrs false a v) s = .next (s.tapAnswer (s.view r.reg (r.index a.toNat) (s.dev.rd r (r.index a.toNat))) false) := by
  have hacc : s.tapAccess false a.toNat v = { s with
      dev := { s.dev with out := s.dev.out ++ [Out.tap ((s.view r.reg (r.index a.toNat) (s.dev.rd r (r.index a.toNat))).toNat + 0)] },
      mgmt := { s.mgmt with
        ir := 0x10, mrsData := s.view r.reg (r.index a.toNat) (s.dev.rd r (r.index a.toNat)), mrsRefused := false } } := by
    simp only [State.tapAccess, hmay, State.regRead, hr]
    rfl
  change execTapMrs false a v s = _
  rw [execTapMrs, if_pos h, hacc]
  rfl

end

/-- Settles O6. -/
theorem tapMrsWhileLocked : Obligations.TapMrsWhileLocked := by
  unfold Obligations.TapMrsWhileLocked
  refine fun s a v h => ⟨fun hl r hr => ⟨fun hin => ?_, fun hout => ?_, fun hctl => ?_⟩, fun hu r hr => ?_, fun hr wr => ?_⟩
  · exact exec_tapMrs_read s a v h (by rw [hl, Bool.not_false, tapMay_locked_read hr, decide_eq_true hin]) hr
  · exact exec_tapMrs_refused s a v h false (by rw [hl, Bool.not_false, tapMay_locked_read hr, decide_eq_false hout])
  · exact exec_tapMrs_refused s a v h true (by rw [hl]; exact tapMay_locked_write hr hctl)
  · exact exec_tapMrs_read s a v h (by rw [hu]; exact tapMay_unlocked hr false) hr
  · exact exec_tapMrs_refused s a v h wr (tapMay_absent hr _ _)

/-! ### Debug unlock (R407) -/

section
variable {x : Sec} {n tok : List Byte}

theorem slotKey_spec {slot : Nat} {key : List Byte} (h : x.slotKey slot = some key) :
    x.enrolled.getLsbD slot = true ∧ x.revoked.getLsbD slot = false := by
  unfold Sec.slotKey at h
  split at h
  case isTrue hc =>
    simp only [Bool.and_eq_true, Bool.not_eq_true'] at hc
    exact ⟨hc.1.1.2, hc.1.2⟩
  case isFalse => cases h

/-- A token is authorised by a slot with both signatures. -/
theorem judgeToken_authorised (h : x.judgeToken n tok = 1) : ∃ key, x.slotKey (tok.getD 0 0).toNat = some key ∧
    Config.ed25519Verify key (natBytes (Config.sha3 (n ++ deviceDigest ++ [0x55])).toNat 64) (slice tok 8 64) = true ∧
    Config.mldsaVerify key (natBytes (Config.sha3 (n ++ deviceDigest ++ [0x55])).toNat 64) (slice tok 72 3309) = true := by
  unfold Sec.judgeToken at h
  extract_lets m at h
  split at h
  case h_1 => cases h
  case h_2 key hkey =>
    split at h
    · cases h
    · split at h
      · cases h
      case isFalse hed =>
        split at h
        · cases h
        case isFalse hml =>
          simp only [Bool.or_eq_true, Bool.not_eq_true', not_or, Bool.not_eq_false] at hed hml
          exact ⟨key, hkey, hed, hml.1⟩

theorem judgeToken_le (x : Sec) (n tok : List Byte) : 1 ≤ x.judgeToken n tok ∧ x.judgeToken n tok ≤ 4 := by
  unfold Sec.judgeToken
  extract_lets m
  split
  · decide
  · split_ifs <;> decide

end

section
variable (s : State) (tok nonce : List Byte)

/-- The security state after an attempt with result r. -/
def Sec.attempted (x : Sec) (r : Nat) : Sec := { x with unlockResult := r, unlocked := x.unlocked || r == 1, used := x.used || r == 1 }

theorem exec_unlock (h : s.tapOn = true) : exec (.unlock tok nonce) s = .next { s with
    dev := (s.unlock tok nonce).dev, sec := (s.unlock tok nonce).sec, mgmt := { s.mgmt with ir := 0x12 } } := by
  change execUnlock tok nonce s = _
  rw [execUnlock, if_neg (by simp [h])]
  rfl

theorem State.unlock_sec : (s.unlock tok nonce).sec =
    s.sec.attempted (if s.dev.unlockAt.isSome then 5 else s.sec.judgeToken s.dev.nonce tok) := rfl

theorem State.unlock_refused (h : s.dev.unlockAt.isSome = true) :
    (s.unlock tok nonce).sec = s.sec.attempted 5 ∧ (s.unlock tok nonce).dev.unlockAt = s.dev.unlockAt := by
  simp only [State.unlock, h, if_true]
  exact ⟨rfl, rfl⟩

theorem State.unlock_judged (h : s.dev.unlockAt = none) :
    (s.unlock tok nonce).sec = s.sec.attempted (s.sec.judgeToken s.dev.nonce tok) ∧ (s.unlock tok nonce).dev.unlockAt =
      if 2 ≤ s.sec.judgeToken s.dev.nonce tok ∧ s.sec.judgeToken s.dev.nonce tok ≤ 4 then some (s.dev.now (alwaysKey 0)) else none := by
  simp only [State.unlock, h, Option.isSome_none, Bool.false_eq_true, if_false]
  exact ⟨rfl, if_congr Iff.rfl rfl h⟩

theorem Sec.attempted_other (x : Sec) (r : Nat) (h : r ≠ 1) : x.attempted r = { x with unlockResult := r } := by
  simp [Sec.attempted, h]

theorem Sec.attempted_one (x : Sec) : x.attempted 1 = { x with unlockResult := 1, unlocked := true, used := true } := by
  simp [Sec.attempted]

end

section
variable (s : State)

theorem State.unlock_dev (tok nonce : List Byte) :
    (s.unlock tok nonce).dev = { s.dev with nonce := nonce, unlockAt := (s.unlock tok nonce).dev.unlockAt } := rfl

/-- Is the second of the lockout over. -/
def Dev.lockoutOver (d : Dev) : Bool := d.unlockAt.elim false fun t => d.atLeast (alwaysKey 0) t 1000000000

theorem exec_unlockLockoutExpiry : exec .unlockLockoutExpiry s = s.devEvent Dev.lockoutOver (fun d => { d with unlockAt := none }) := rfl

theorem Dev.lockoutOver_eq (d : Dev) (t : Nat) (h : d.unlockAt = some t) :
    d.lockoutOver = d.atLeast (alwaysKey 0) t 1000000000 := by
  rw [Dev.lockoutOver, h, Option.elim_some]

end

theorem State.unlock_spec (s : State) (tok nonce : List Byte) (sec : Sec) (dev : Dev) (hs : (s.unlock tok nonce).sec = sec)
    (hd : (s.unlock tok nonce).dev = dev) :
    sec = { s.sec with unlockResult := sec.unlockResult, unlocked := sec.unlocked, used := sec.used } ∧
    dev = { s.dev with nonce := nonce, unlockAt := dev.unlockAt } ∧
    (s.dev.unlockAt.isSome = true → sec.unlockResult = 5 ∧ sec.unlocked = s.sec.unlocked ∧ sec.used = s.sec.used ∧
      dev.unlockAt = s.dev.unlockAt) ∧
    (s.dev.unlockAt = none → s.sec.judgeToken s.dev.nonce tok = 1 →
      sec.unlockResult = 1 ∧ sec.unlocked = true ∧ sec.used = true ∧ dev.unlockAt = none) ∧
    (s.dev.unlockAt = none → s.sec.judgeToken s.dev.nonce tok ≠ 1 →
      sec.unlockResult = s.sec.judgeToken s.dev.nonce tok ∧ sec.unlocked = s.sec.unlocked ∧ sec.used = s.sec.used ∧
      dev.unlockAt = some (s.dev.now (alwaysKey 0))) := by
  refine ⟨?_, ?_, fun hlock => ?_, fun hfree hok => ?_, fun hfree hbad => ?_⟩
  · rw [← hs, s.unlock_sec]
    rfl
  · rw [← hd, ← s.unlock_dev]
  · obtain ⟨hsec, hat⟩ := s.unlock_refused tok nonce hlock
    rw [← hs, ← hd, hsec, hat, s.sec.attempted_other 5 (by decide)]
    exact ⟨rfl, rfl, rfl, rfl⟩
  · obtain ⟨hsec, hat⟩ := s.unlock_judged tok nonce hfree
    rw [← hs, ← hd, hsec, hat, hok, s.sec.attempted_one]
    exact ⟨rfl, rfl, rfl, rfl⟩
  · obtain ⟨hsec, hat⟩ := s.unlock_judged tok nonce hfree
    have hle := judgeToken_le s.sec s.dev.nonce tok
    rw [← hs, ← hd, hsec, hat, s.sec.attempted_other _ hbad, if_pos (by omega)]
    exact ⟨rfl, rfl, rfl, rfl⟩

/-- Settles O7. -/
theorem debugUnlock : Obligations.DebugUnlock := by
  unfold Obligations.DebugUnlock
  refine ⟨fun s tok nonce => ⟨fun h => ⟨_, _, exec_unlock s tok nonce h, s.unlock_spec tok nonce _ _ rfl rfl⟩, rfl, fun t ht hover => ?_,
    fun t ht hearly => ?_⟩, fun x n tok h => ?_⟩
  · exact (exec_unlockLockoutExpiry s).trans (s.devEvent_holds _ _ ((s.dev.lockoutOver_eq t ht).trans hover))
  · exact (exec_unlockLockoutExpiry s).trans (s.devEvent_not _ _ ((s.dev.lockoutOver_eq t ht).trans hearly))
  · obtain ⟨key, hkey, hed, hml⟩ := judgeToken_authorised h
    obtain ⟨henr, hrev⟩ := slotKey_spec hkey
    exact ⟨_, key, hkey, rfl, henr, hrev, hed, hml⟩

/-! ### The capture engine (R404) -/

theorem granWord_zero : ∀ j, j < 4 → granWord 0 j = 0 := by decide

section
variable (d : Dev)

/-- The device is d but for registers and free values. -/
def Dev.captured (e : Dev) : Prop := e = { d with regs := e.regs, free := e.free }

theorem Dev.captured_refl : d.captured d := rfl

theorem Dev.captured_free (n : Nat) : d.captured { d with free := n } := rfl

variable {d}

theorem Dev.captured_trans {e f : Dev} (h : d.captured e) (k : e.captured f) : d.captured f :=
  k.trans (congrArg (fun x : Dev => { x with regs := f.regs, free := f.free }) h)

variable (d)

theorem Dev.captured_wr (r : RegRow) (i : Nat) (w : Word) : d.captured (d.wr r i w) := rfl

theorem Dev.captured_capEnd (r : Nat) : d.captured (d.capEnd r) :=
  Dev.captured_trans (d.captured_wr _ _ _) (Dev.captured_wr _ _ _ _)

theorem Dev.captured_capSet (s ga : Nat) (v : Gran × Nat) : d.captured (d.capSet s ga v).2 := by
  unfold Dev.capSet
  split
  · rfl
  · split <;> rfl

theorem Dev.captured_capGran (space a g : Nat) : d.captured (d.capGran space a g).2 := by
  unfold Dev.capGran
  split
  · extract_lets x
    cases d.descPlace x with
    | none => rfl
    | some p => exact d.captured_capSet _ _ _
  · extract_lets k
    split <;> rfl
  · extract_lets s ga
    split
    · exact Dev.captured_trans (d.captured_free _) (Dev.captured_capSet _ _ _ _)
    · exact d.captured_capSet _ _ _
  · extract_lets c
    split
    · rfl
    · split <;> rfl

theorem Dev.captured_capOne (space a g : Nat) : d.captured (d.capOne space a g) := by
  have hgran := d.captured_capGran space a g
  refine Dev.captured_trans hgran (Dev.captured_trans ?_ (Dev.captured_wr _ _ _ _))
  exact Dev.each_keeps (Dev.captured _) _ _ (fun e x h => Dev.captured_trans h (e.captured_wr _ _ _)) _ (Dev.captured_refl _)

theorem Dev.captured_capture (u : Bool) (c : Nat) : d.captured (d.capture u c) := by
  unfold Dev.capture
  extract_lets space a n
  split_ifs
  · exact d.captured_capEnd _
  · exact d.captured_capEnd _
  · exact d.captured_capEnd _
  · exact d.captured_capEnd _
  · exact Dev.captured_trans (Dev.each_keeps d.captured _ _ (fun e x h => Dev.captured_trans h (e.captured_capOne _ _ _)) _ d.captured_refl)
      (Dev.captured_capEnd _ _)

theorem Dev.capEnd_result (r : Nat) (h : r < 256) : (d.capEnd r).fld row_DBG_CAP_CTL 0 f_DBG_CAP_CTL_RESULT = r := by
  rw [Dev.capEnd, Dev.fld_setFld_same _ _ _ _ _ (by decide)]
  exact Nat.mod_eq_of_lt h

theorem Dev.capEnd_done (r : Nat) : (d.capEnd r).fld row_DBG_CAP_CTL 0 f_DBG_CAP_CTL_DONE = 1 := by
  rw [Dev.capEnd, Dev.fld_setFld_disjoint _ _ _ _ _ _ (by decide) (by decide), Dev.fld_setFld_same _ _ _ _ _ (by decide)]
  rfl

/-- Every capture command ends. -/
theorem Dev.capture_ends (u : Bool) (c : Nat) : ∃ (e : Dev) (r : Nat), d.capture u c = e.capEnd r := by
  unfold Dev.capture
  extract_lets space a n
  split_ifs
  exacts [⟨_, _, rfl⟩, ⟨_, _, rfl⟩, ⟨_, _, rfl⟩, ⟨_, _, rfl⟩, ⟨_, _, rfl⟩]

theorem Dev.capEnd_data (r j : Nat) : (d.capEnd r).rd row_DBG_CAP_DATA j = d.rd row_DBG_CAP_DATA j := by
  have haddr : row_DBG_CAP_DATA.addr j ≠ row_DBG_CAP_CTL.addr 0 := by
    simp only [RegRow.addr, row_DBG_CAP_DATA, row_DBG_CAP_CTL]
    omega
  rw [Dev.capEnd, Dev.rd_setFld_other _ _ _ _ _ _ _ haddr, Dev.rd_setFld_other _ _ _ _ _ _ _ haddr]

/-- The first granule of a capture stands in the first four registers of DBG_CAP_DATA. -/
theorem Dev.capOne_data (space a j : Nat) (h : j < 4) :
    (d.capOne space a 0).rd row_DBG_CAP_DATA j = granWord (d.capGran space a 0).1.1 j := by
  have haddr : ∀ i, row_DBG_CAP_DATA.addr i ≠ row_DBG_CAP_RESULT.addr (0 / 32) := fun i => by
    simp only [RegRow.addr, row_DBG_CAP_DATA, row_DBG_CAP_RESULT]
    omega
  have hne : ∀ i k, i ≠ k → row_DBG_CAP_DATA.addr i ≠ row_DBG_CAP_DATA.addr k := fun i k hik => by
    simp only [RegRow.addr, row_DBG_CAP_DATA]
    omega
  unfold Dev.capOne
  rw [Dev.rd_setFld_other _ _ _ _ _ _ _ (haddr j)]
  simp only [Dev.each, List.range, List.range.loop, List.foldl_cons, List.foldl_nil, Nat.mul_zero, Nat.zero_add]
  interval_cases j <;> simp [Dev.rd_wr_other, hne]

theorem Dev.capGran_desc {a : Nat} {p : Nat × Nat} (ha : a < 2 ^ 28) (hp : d.descPlace a = some p) :
    d.capGran 1 a 0 = d.capSet p.1 p.2 ((d.desc a).gran 0, 0) := by
  have hbits : bits a 0 28 = a := by simpa [bits] using ha
  simp only [Dev.capGran, hbits, Nat.zero_div, Nat.zero_mod, Nat.add_zero, hp]
  rfl

end

/-- Settles O9. -/
theorem captureReads : Obligations.CaptureReads := by
  unfold Obligations.CaptureReads
  refine fun s => ⟨_, s.devStep_eq _, ?_, s.dev.captured_capture _ _, fun hf => ?_, fun hf hu hsp => ?_, fun hf hsp hn ha he => ?_⟩
  · obtain ⟨e, r, he⟩ := s.dev.capture_ends s.sec.unlocked 1
    rw [he, Dev.capEnd_done]
  · rw [Dev.capture, if_neg (by decide), if_pos hf, Dev.capEnd_result _ _ (by decide)]
  · have hlock : (!s.sec.unlocked && decide (2 ≤ s.dev.fld row_DBG_CAP_ADDR 0 f_DBG_CAP_ADDR_SPACE ∧
        s.dev.fld row_DBG_CAP_ADDR 0 f_DBG_CAP_ADDR_SPACE ≤ 4)) = true := by
      rw [hu, Bool.not_false, Bool.true_and, decide_eq_true_iff]
      omega
    rw [Dev.capture, if_neg (by decide), if_neg (by simp [hf]), if_pos hlock, Dev.capEnd_result _ _ (by decide)]
  · have hok : s.dev.capOk 1 (s.dev.fld row_DBG_CAP_ADDR 0 f_DBG_CAP_ADDR_ADDRESS) 1 = true := by
      simpa only [Dev.capOk, decide_eq_true_eq] using ⟨ha, he⟩
    have hcap : s.dev.capture s.sec.unlocked 1 =
        (s.dev.capOne 1 (s.dev.fld row_DBG_CAP_ADDR 0 f_DBG_CAP_ADDR_ADDRESS) 0).capEnd 0 := by
      simp only [Dev.capture, hf, hsp, hn, hok]
      cases s.sec.unlocked <;> rfl
    rw [hcap, Dev.capEnd_result _ _ (by decide)]
    refine ⟨rfl, fun p hp hfen hbad j hj => ?_, fun p hp hfen j hj => ?_⟩
    · rw [Dev.capEnd_data, Dev.capOne_data _ _ _ _ hj, s.dev.capGran_desc ha hp, Dev.capSet, if_neg (by simp [hfen]), if_neg (by simp [hbad])]
    · rw [Dev.capEnd_data, Dev.capOne_data _ _ _ _ hj, s.dev.capGran_desc ha hp, Dev.capSet, if_pos hfen]
      exact granWord_zero j hj

end Sys2Proof.Machine

/-! PROOF. What each reset leaves (R409 to R411, R415). -/
namespace Sys2Proof.Machine

/-- The always-on timers are read as before where only they stay. -/
theorem alwaysOnly_get (t : Tab Nat) (die : Nat) : (alwaysOnly t).get (alwaysKey die) 0 = t.get (alwaysKey die) 0 := by
  induction t with
  | nil => rfl
  | cons e t ih =>
    obtain ⟨i, v⟩ := e
    by_cases h : 0x200 ≤ i
    · have hcons : alwaysOnly ((i, v) :: t) = (i, v) :: alwaysOnly t := List.filter_cons_of_pos (by simpa using h)
      rw [hcons]
      simp only [Tab.get, ih]
    · have hcons : alwaysOnly ((i, v) :: t) = alwaysOnly t := List.filter_cons_of_neg (by simpa using h)
      have hlt : i < alwaysKey die := by simp only [alwaysKey]; omega
      rw [hcons, ih, Tab.get, if_neg (by omega), if_neg (by omega)]

section
variable (s : State)

theorem resetCommon_cleared (nonce : List Byte) (step : Step) : resetCommon 0 s (s.cleared nonce step) :=
  ⟨rfl, rfl, rfl, rfl, rfl, rfl, rfl, rfl, rfl, rfl, rfl, rfl, s.sec.fusesKept_atReset true, rfl⟩

theorem resetCommon_cold (nonce : List Byte) (step : Step) : resetCommon 1 s (s.cold nonce step) :=
  ⟨rfl, rfl, rfl, rfl, rfl, rfl, rfl, rfl, rfl, rfl, rfl, rfl, s.sec.fusesKept_atReset true, rfl⟩

/-- UNLOCK_USED is cleared by a cold reset. -/
theorem Sec.atReset_cold_used (x : Sec) : (x.atReset true).used = false := Bool.and_false _

theorem Sec.atReset_warm_used (x : Sec) : (x.atReset false).used = x.used := Bool.and_true _

variable (sr rails : Bool) (nonce : List Byte)

/-- What a warm reset leaves of a device but for its memory. -/
def Dev.warmed (d : Dev) : Dev :=
  { d.cleared nonce with
    resets := d.resets + 1, resetN := false, step := Step.reset, coldBoot := d.inBringup && d.coldBoot, unlockAt := d.unlockAt,
    timers := alwaysOnly d.timers, halted := alwaysOnly d.halted, upd := { activations := d.upd.activations } }

/-- A warm reset leaves the contents m, and where memory is kept all that is known of it. -/
theorem State.warm_eq : ∃ m, s.warm sr rails nonce = { s with
    dev := { s.dev.warmed nonce with mem := m }, pwr := s.pwr.warm, sec := s.sec.atReset false } ∨
    s.warm sr rails nonce = { s with
      dev := ({ s.dev.warmed nonce with mem := m } : Dev).keepMemory s.dev, pwr := s.pwr.warm, sec := s.sec.atReset false } := by
  unfold State.warm
  extract_lets d _ n keep n'
  have hn : ∃ m, n' = { s.dev.warmed nonce with mem := m } := by
    unfold n'
    split
    · exact ⟨d.mem, rfl⟩
    · exact ⟨[], rfl⟩
  obtain ⟨m, hm⟩ := hn
  rw [hm]
  split
  · exact ⟨m, .inr rfl⟩
  · exact ⟨m, .inl rfl⟩

theorem resetCommon_warm : resetCommon 1 s (s.warm sr rails nonce) ∧ (s.warm sr rails nonce).dev.step = .reset ∧
    (s.warm sr rails nonce).dev.nonce = nonce ∧ (s.warm sr rails nonce).dev.resetN = false := by
  obtain ⟨m, h | h⟩ := s.warm_eq sr rails nonce <;> rw [h] <;>
    exact ⟨⟨rfl, rfl, rfl, rfl, rfl, rfl, rfl, rfl, rfl, rfl, rfl, rfl, s.sec.fusesKept_atReset false, rfl⟩, rfl, rfl, rfl⟩

/-- A warm reset of a device that is up, with memory kept. -/
theorem State.warm_kept (hv : s.dev.vcoreOff = false) (hup : s.dev.step = .up) : (s.warm true true nonce).dev.memKept = true ∧
    (s.warm true true nonce).dev.mem = s.dev.mem ∧ (s.warm true true nonce).dev.descs = s.dev.descs ∧
    (s.warm true true nonce).dev.journals = s.dev.journals ∧ (s.warm true true nonce).dev.poison = s.dev.poison ∧
    (s.warm true true nonce).dev.strat = s.dev.strat := by
  have hbring : s.dev.inBringup = false := by rw [Dev.inBringup, hup]; rfl
  simp only [State.warm, hv, hbring]
  exact ⟨rfl, rfl, rfl, rfl, rfl, rfl⟩

/-- A warm reset with memory lost. -/
theorem State.warm_lost (h : sr = false ∨ rails = false) : (s.warm sr rails nonce).dev.memKept = false ∧
    (s.warm sr rails nonce).dev.mem = [] := by
  have hboth : (sr && rails) = false := by rcases h with rfl | rfl <;> simp
  simp only [State.warm, hboth]
  exact ⟨rfl, rfl⟩

/-- A cold reset counts but where RESET_N has been low since a reset. -/
theorem coldReset_spec (cool : Bool) :
    resetCommon (if s.dev.resetN = true ∨ s.dev.step ≠ .reset then 1 else 0) s (s.coldReset cool nonce) ∧
    (s.coldReset cool nonce).dev.step = .pwrok ∧ (s.coldReset cool nonce).dev.mem = [] ∧
    (s.coldReset cool nonce).dev.memKept = false ∧ (s.coldReset cool nonce).dev.timers = [] ∧
    (s.coldReset cool nonce).sec.used = false ∧ (s.coldReset cool nonce).pwr = {} ∧ (s.coldReset cool nonce).mgmt = s.mgmt ∧
    (s.coldReset cool nonce).dev.pwrok = false ∧ (s.coldReset cool nonce).dev.resetN = false ∧
    (s.coldReset cool nonce).dev.nonce = nonce ∧ (s.coldReset cool nonce).dev.thermTrip = (s.dev.thermTrip && !cool) := by
  by_cases hc : s.dev.resetN = true ∨ s.dev.step ≠ .reset
  · have hcount : (s.dev.resetN || s.dev.step ≠ .reset) = true := by simpa using hc
    rw [if_pos hc, State.coldReset, if_pos hcount]
    exact ⟨resetCommon_cold s nonce .pwrok, rfl, rfl, rfl, rfl, s.sec.atReset_cold_used, rfl, rfl, rfl, rfl, rfl, rfl⟩
  · have hcount : (s.dev.resetN || s.dev.step ≠ .reset) = false := by simpa using hc
    rw [if_neg hc, State.coldReset, if_neg (Bool.eq_false_iff.mp hcount)]
    exact ⟨resetCommon_cleared s nonce .pwrok, rfl, rfl, rfl, rfl, s.sec.atReset_cold_used, rfl, rfl, rfl, rfl, rfl, rfl⟩

end

/-- Settles O13. -/
theorem warmAndColdResets : Obligations.WarmAndColdResets := by
  unfold Obligations.WarmAndColdResets
  refine fun s hs => ⟨fun hp hr sr rails nonce => ⟨s.warm sr rails nonce, ?_, ?_⟩, fun hp cool nonce => ⟨s.coldReset cool nonce, ?_, ?_⟩,
    fun hp => ⟨s.powerLost true, ?_, ?_⟩, s.powerLost false, ?_, ?_⟩
  · exact congrArg _ (if_neg (by simp [hs, hp, hr]))
  · obtain ⟨hcommon, hstep, hnonce, hpin⟩ := resetCommon_warm s sr rails nonce
    exact ⟨hcommon, hstep, hnonce, hpin, s.sec.atReset_warm_used, rfl, rfl, rfl,
      fun h1 h2 hv hup => by subst h1 h2; exact s.warm_kept nonce hv hup, s.warm_lost sr rails nonce⟩
  · exact congrArg _ (if_neg (by rcases hp with hp | hp <;> simp [hs, hp]))
  · exact coldReset_spec s nonce cool
  · exact congrArg _ (if_neg (by simp [hs, hp]))
  · exact ⟨resetCommon_cleared s s.dev.nonce .pwrok, rfl, rfl, rfl, rfl, s.sec.atReset_cold_used, rfl, rfl, rfl,
      fun die => alwaysOnly_get s.dev.timers die⟩
  · exact congrArg _ (if_neg (by simp [hs]))
  · exact ⟨resetCommon_cleared s [] .standby, rfl, rfl, s.sec.atReset_cold_used, rfl, rfl, rfl, rfl, rfl⟩

end Sys2Proof.Machine

/-! PROOF. The step rate (R23) and stratum staging (R44 to R46). -/
namespace Sys2Proof.Machine

/-! ### Changes of registers alone -/

section
variable (d : Dev)

/-- The device e is d but for its registers. -/
def Dev.regsOnly (e : Dev) : Prop := e = { d with regs := e.regs }

theorem Dev.regsOnly_refl : d.regsOnly d := rfl

theorem Dev.regsOnly_wr (r : RegRow) (i : Nat) (w : Word) : d.regsOnly (d.wr r i w) := rfl

theorem Dev.regsOnly_setFld (r : RegRow) (i : Nat) (f : Fld) (n : Nat) : d.regsOnly (d.setFld r i f n) := d.regsOnly_wr _ _ _

variable {d}

theorem Dev.regsOnly_trans {e f : Dev} (h : d.regsOnly e) (k : e.regsOnly f) : d.regsOnly f :=
  k.trans (congrArg (fun x : Dev => { x with regs := f.regs }) h)

theorem Dev.regsOnly_each {α : Type} (l : List α) (f : Dev → α → Dev) (h : ∀ e x, Dev.regsOnly e (f e x)) : d.regsOnly (d.each l f) :=
  Dev.each_keeps d.regsOnly l f (fun e x he => Dev.regsOnly_trans he (h e x)) d d.regsOnly_refl

theorem Dev.regsOnly_freezes {e : Dev} (h : d.regsOnly e) : e.freezes = d.freezes := (congrArg Dev.freezes h :)

theorem Dev.regsOnly_live {e : Dev} (h : d.regsOnly e) (x : Nat) : e.live x = d.live x := by
  rw [h]
  rfl

/-- What holds at first and what each member of a list keeps. -/
theorem Dev.each_keeps_mem {α : Type} (P : Dev → Prop) (l : List α) (f : Dev → α → Dev) (hf : ∀ d, ∀ x ∈ l, P d → P (f d x)) (d : Dev)
    (h : P d) : P (d.each l f) := by
  induction l generalizing d with
  | nil => exact h
  | cons x t ih => exact ih (fun e y hy => hf e y (List.mem_cons_of_mem _ hy)) _ (hf _ _ List.mem_cons_self h)

variable (d)

/-- A register of each member of a family after a fold over the family: as the member's own step leaves it. -/
theorem Dev.each_rd (f : Dev → Nat → Dev) (r : RegRow) (b : Nat) (hr : ∀ e i, Dev.regsOnly e (f e i))
    (ho : ∀ (e : Dev) i k, k ≠ i → (f e i).rd r (b + k) = e.rd r (b + k))
    (hs : ∀ (e g : Dev) i, e.regsOnly g → g.rd r (b + i) = e.rd r (b + i) → (f g i).rd r (b + i) = (f e i).rd r (b + i)) (n k : Nat) :
    (d.each (List.range n) f).rd r (b + k) = if k < n then (f d k).rd r (b + k) else d.rd r (b + k) := by
  induction n generalizing k with
  | zero => rfl
  | succ n ih =>
    have hstep : d.each (List.range (n + 1)) f = f (d.each (List.range n) f) n := by
      simp only [Dev.each, List.range_succ, List.foldl_append, List.foldl_cons, List.foldl_nil]
    rw [hstep]
    by_cases hk : k = n
    · subst hk
      rw [if_pos (Nat.lt_succ_self k)]
      exact hs d _ k (Dev.regsOnly_each _ _ hr) (by rw [ih, if_neg (Nat.lt_irrefl k)])
    · rw [ho _ _ _ hk, ih]
      exact if_congr (by omega) rfl rfl

end

/-! ### The step rate (R23) -/

section
variable (d : Dev)

theorem Dev.regsOnly_rateCluster (k c : Nat) : d.regsOnly (d.rateCluster k c) := by
  unfold Dev.rateCluster
  extract_lets off r d1
  have hset : d.regsOnly d1 := Dev.regsOnly_trans (d.regsOnly_setFld _ _ _ _) (Dev.regsOnly_setFld _ _ _ _ _)
  split_ifs
  · exact Dev.regsOnly_trans (d.regsOnly_setFld _ _ _ _) (Dev.regsOnly_setFld _ _ _ _ _)
  · exact d.regsOnly_refl
  · exact Dev.regsOnly_trans hset (Dev.regsOnly_setFld _ _ _ _ _)
  · exact hset

/-- The registers of the clusters are apart. -/
theorem stepRate_addr {i k : Nat} (h : k ≠ i) : row_GEN_STEP_RATE.addr k ≠ row_GEN_STEP_RATE.addr i := by
  simp only [RegRow.addr, row_GEN_STEP_RATE]
  omega

theorem Dev.rateCluster_other (i k c : Nat) (h : k ≠ i) :
    (d.rateCluster i c).rd row_GEN_STEP_RATE k = d.rd row_GEN_STEP_RATE k := by
  unfold Dev.rateCluster
  extract_lets off r d1
  have haddr := stepRate_addr h
  split_ifs <;> simp only [d1, Dev.rd_setFld_other _ _ _ _ _ _ _ haddr]

/-- The end of a window of a cluster is a matter of its register and of what no register holds. -/
theorem Dev.rateCluster_congr {e : Dev} (h : d.regsOnly e) (k c : Nat) (hk : e.rd row_GEN_STEP_RATE k = d.rd row_GEN_STEP_RATE k) :
    (e.rateCluster k c).rd row_GEN_STEP_RATE k = (d.rateCluster k c).rd row_GEN_STEP_RATE k := by
  have hfreezes := Dev.regsOnly_freezes h
  have hdirty : e.rateDirty = d.rateDirty := (congrArg Dev.rateDirty h :)
  simp only [Dev.rateCluster, Dev.regsOnly_live h, hfreezes, hdirty, Dev.setFld, Dev.fld, Dev.rd_wr_same, apply_ite (Dev.rd · row_GEN_STEP_RATE k), hk]

/-- RATE, VALID and RATE_MIN of a cluster whose cores are live, at the end of a window that is not discarded. -/
theorem Dev.rateCluster_live (k c : Nat) (hlive : ∀ i, i < 8 → d.live (coreDom (8 * k + i)) = true) (hd : bitOf d.rateDirty k = false)
    (hf : d.freezes = .running) :
    (d.rateCluster k c).fld row_GEN_STEP_RATE k f_GEN_STEP_RATE_RATE = rateOf c ∧
    (d.rateCluster k c).fld row_GEN_STEP_RATE k f_GEN_STEP_RATE_VALID = 1 ∧
    (d.rateCluster k c).fld row_GEN_STEP_RATE k f_GEN_STEP_RATE_RATE_MIN =
      min (rateOf c) (d.fld row_GEN_STEP_RATE k f_GEN_STEP_RATE_RATE_MIN) := by
  have hon : (!(List.range 8).all fun i => d.live (coreDom (8 * k + i))) = false := by
    simpa using hlive
  have hgo : ¬ ((bitOf d.rateDirty k || d.freezes ≠ .running) = true) := by simp [hd, hf]
  have hr : rateOf c % 2 ^ 12 = rateOf c := Nat.mod_eq_of_lt (by simp only [rateOf]; omega)
  unfold Dev.rateCluster
  extract_lets off r d1
  have hoff : ¬ off = true := by simp only [off, hon]; decide
  rw [if_neg hoff, if_neg (by simpa using hgo)]
  have hmin : d1.fld row_GEN_STEP_RATE k f_GEN_STEP_RATE_RATE_MIN = d.fld row_GEN_STEP_RATE k f_GEN_STEP_RATE_RATE_MIN := by
    rw [Dev.fld_setFld_disjoint _ _ _ _ _ _ (by decide) (by decide), Dev.fld_setFld_disjoint _ _ _ _ _ _ (by decide) (by decide)]
  have hrate : d1.fld row_GEN_STEP_RATE k f_GEN_STEP_RATE_RATE = rateOf c := by
    rw [Dev.fld_setFld_disjoint _ _ _ _ _ _ (by decide) (by decide), Dev.fld_setFld_same _ _ _ _ _ (by decide)]
    exact hr
  have hvalid : d1.fld row_GEN_STEP_RATE k f_GEN_STEP_RATE_VALID = 1 := by
    rw [Dev.fld_setFld_same _ _ _ _ _ (by decide)]
    rfl
  split
  case isTrue hlt =>
    rw [hmin] at hlt
    refine ⟨?_, ?_, ?_⟩
    · rw [Dev.fld_setFld_disjoint _ _ _ _ _ _ (by decide) (by decide), hrate]
    · rw [Dev.fld_setFld_disjoint _ _ _ _ _ _ (by decide) (by decide), hvalid]
    · rw [Dev.fld_setFld_same _ _ _ _ _ (by decide), Nat.min_eq_left (Nat.le_of_lt hlt)]
      exact hr
  case isFalse hge =>
    rw [hmin] at hge
    exact ⟨hrate, hvalid, by rw [hmin, Nat.min_eq_right (Nat.le_of_not_lt hge)]⟩

theorem Dev.rateCluster_off (k c : Nat) (h : ∃ i, i < 8 ∧ d.live (coreDom (8 * k + i)) = false) :
    (d.rateCluster k c).fld row_GEN_STEP_RATE k f_GEN_STEP_RATE_RATE = 0 ∧
    (d.rateCluster k c).fld row_GEN_STEP_RATE k f_GEN_STEP_RATE_VALID = 0 := by
  have hoff : (!(List.range 8).all fun i => d.live (coreDom (8 * k + i))) = true := by
    obtain ⟨i, hi, hl⟩ := h
    simpa using ⟨i, hi, hl⟩
  unfold Dev.rateCluster
  rw [if_pos hoff]
  refine ⟨?_, ?_⟩
  · rw [Dev.fld_setFld_same _ _ _ _ _ (by decide)]
    rfl
  · rw [Dev.fld_setFld_disjoint _ _ _ _ _ _ (by decide) (by decide), Dev.fld_setFld_same _ _ _ _ _ (by decide)]
    rfl

/-- The clusters of a die at the end of its window. -/
def Dev.rateClusters (die : Nat) (counts : List Nat) : Dev :=
  d.each (List.range 12) fun d i => d.rateCluster (12 * die + i) (counts.getD i 0)

theorem Dev.rateClusters_rd (die : Nat) (counts : List Nat) (i : Nat) :
    (d.rateClusters die counts).rd row_GEN_STEP_RATE (12 * die + i) =
      if i < 12 then (d.rateCluster (12 * die + i) (counts.getD i 0)).rd row_GEN_STEP_RATE (12 * die + i)
      else d.rd row_GEN_STEP_RATE (12 * die + i) :=
  d.each_rd (fun d i => d.rateCluster (12 * die + i) (counts.getD i 0)) row_GEN_STEP_RATE (12 * die) (fun e i => e.regsOnly_rateCluster _ _)
    (fun e i k h => e.rateCluster_other _ _ _ (by omega)) (fun e g i h hk => e.rateCluster_congr h _ _ hk) 12 i

/-- The clusters of another die. -/
theorem Dev.rateClusters_other (die : Nat) (counts : List Nat) (k : Nat) (h : k / 12 ≠ die) :
    (d.rateClusters die counts).rd row_GEN_STEP_RATE k = d.rd row_GEN_STEP_RATE k := by
  refine Dev.each_keeps_mem (fun e => e.rd row_GEN_STEP_RATE k = d.rd row_GEN_STEP_RATE k) _ _ (fun e i hi he => ?_) d rfl
  have hne : k ≠ 12 * die + i := by
    have := List.mem_range.mp hi
    omega
  exact (e.rateCluster_other _ _ _ hne).trans he

theorem Dev.rateWindow_regs (die : Nat) (counts : List Nat) (dc : Nat) :
    (d.rateWindow die counts dc).regs = (d.rateClusters die counts).regs := by
  rw [Dev.rateWindow, Dev.rateClusters]

/-- A device that is d but for registers, with the marks of the windows changed. -/
theorem Dev.regsOnly_marks {e : Dev} (h : d.regsOnly e) (a : Nat) (b c : Tab Nat) :
    ({ e with rateDirty := a, rateAt := b, rateDc := c } : Dev) = { d with regs := e.regs, rateDirty := a, rateDc := c, rateAt := b } :=
  congrArg (fun x : Dev => { x with rateDirty := a, rateAt := b, rateDc := c }) h

theorem Dev.rateWindow_frame (die : Nat) (counts : List Nat) (dc : Nat) : ∃ regs dirty rdc rat,
    d.rateWindow die counts dc = { d with regs := regs, rateDirty := dirty, rateDc := rdc, rateAt := rat } :=
  ⟨_, _, _, _, d.regsOnly_marks (Dev.regsOnly_each _ _ fun e i => e.regsOnly_rateCluster _ _) _ _ _⟩

theorem Dev.marks_self {e : Dev}
    (h : ∃ regs dirty rdc rat, e = { d with regs := regs, rateDirty := dirty, rateDc := rdc, rateAt := rat }) :
    e = { d with regs := e.regs, rateDirty := e.rateDirty, rateDc := e.rateDc, rateAt := e.rateAt } := by
  obtain ⟨_, _, _, _, rfl⟩ := h
  rfl

end

/-- Settles O15. -/
theorem stepRateWindows : Obligations.StepRateWindows := by
  unfold Obligations.StepRateWindows
  refine fun s => ⟨fun die counts dc hearly => ?_, fun die counts dc hv hf hdue => ⟨s.dev.rateWindow die.val counts dc, ?_, ?_, fun k hk => ?_⟩, fun k => ?_⟩
  · refine s.devEvent_not (fun d => d.vcore && d.rateDue die.val) _ ?_
    simp only [Dev.rateDue, Bool.and_eq_false_iff, decide_eq_false_iff_not]
    omega
  · refine s.devEvent_holds (fun d => d.vcore && d.rateDue die.val) (fun d => d.rateWindow die.val counts dc) ?_
    simp only [Dev.rateDue, hv, Bool.true_and, decide_eq_true_eq]
    exact hdue
  · exact s.dev.marks_self (s.dev.rateWindow_frame die.val counts dc)
  · have hrd : ∀ k, (s.dev.rateWindow die.val counts dc).rd row_GEN_STEP_RATE k = (s.dev.rateClusters die.val counts).rd row_GEN_STEP_RATE k :=
      fun k => by rw [Dev.rd, Dev.rd, Dev.rateWindow_regs]
    have hmine : k / 12 = die.val → (s.dev.rateWindow die.val counts dc).rd row_GEN_STEP_RATE k =
        (s.dev.rateCluster k (counts.getD (k % 12) 0)).rd row_GEN_STEP_RATE k := fun h => by
      have hi := s.dev.rateClusters_rd die.val counts (k % 12)
      rwa [if_pos (by omega), show 12 * die.val + k % 12 = k by omega, ← hrd] at hi
    refine ⟨fun h hl hd => ?_, fun h hl => ?_, fun h => ?_⟩
    · simp only [Dev.fld, hmine h]
      exact s.dev.rateCluster_live k _ hl hd hf
    · simp only [Dev.fld, hmine h]
      exact s.dev.rateCluster_off k _ hl
    · rw [hrd]
      exact s.dev.rateClusters_other _ _ _ h
  · refine ⟨_, s.devStep_eq _, s.dev.regsOnly_setFld _ _ _ _, ?_, ?_, fun a v h => Dev.regs_wr_other _ _ _ _ _ _ h⟩
    · refine (Dev.fld_setFld_same _ _ _ _ _ (by decide)).trans (Nat.mod_eq_of_lt ?_)
      exact Nat.mod_lt _ (by decide)
    · exact Dev.fld_setFld_disjoint _ _ _ _ _ _ (by decide) (by decide)

/-! ### Stratum staging (R44 to R46) -/

section
variable (d : Dev)

@[simp] theorem Dev.rd_staging (x : Option Stage_) (r : RegRow) (i : Nat) :
    ({ d with staging := x } : Dev).rd r i = d.rd r i := by
  rw [Dev.rd, Dev.rd]

@[simp] theorem Dev.fld_staging (x : Option Stage_) (r : RegRow) (i : Nat) (f : Fld) :
    ({ d with staging := x } : Dev).fld r i f = d.fld r i f := by
  rw [Dev.fld, Dev.rd_staging, Dev.fld]

theorem Dev.fld_setFld_other (r q : RegRow) (i j : Nat) (f g : Fld) (n : Nat) (h : q.addr j ≠ r.addr i) :
    (d.setFld r i f n).fld q j g = d.fld q j g := by
  rw [Dev.fld, Dev.rd_setFld_other _ _ _ _ _ _ _ h, Dev.fld]

/-- The device after a command has ended. -/
theorem Dev.stageEnd_staged (r : Nat × Nat) : staged (d.stageEnd r) r.1 := by
  refine ⟨?_, ?_, ?_, rfl⟩ <;> simp only [Dev.stageEnd, Dev.fld_staging]
  · rw [Dev.fld_setFld_disjoint _ _ _ _ _ _ (by decide) (by decide)]
    exact Dev.fld_setFld_same _ _ _ _ _ (by decide)
  · exact Dev.fld_setFld_same _ _ _ _ _ (by decide)
  · rw [Dev.fld_setFld_other _ _ _ _ _ _ _ _ (by decide), Dev.fld_setFld_other _ _ _ _ _ _ _ _ (by decide),
      Dev.fld_setFld_disjoint _ _ _ _ _ _ (by decide) (by decide)]
    exact Dev.fld_setFld_same _ _ _ _ _ (by decide)

/-- A command that ends changes registers, and no command runs then. -/
theorem Dev.stageEnd_regs (r : Nat × Nat) : ({ d with staging := none } : Dev).regsOnly (d.stageEnd r) := by
  unfold Dev.stageEnd
  extract_lets d1 d2
  have h : d.regsOnly d2 := Dev.regsOnly_trans (Dev.regsOnly_trans (d.regsOnly_setFld _ _ _ _) (Dev.regsOnly_setFld _ _ _ _ _))
    (Dev.regsOnly_trans (Dev.regsOnly_setFld _ _ _ _ _) (Dev.regsOnly_setFld _ _ _ _ _))
  exact congrArg (fun x : Dev => { x with staging := none }) h

theorem Dev.stageEnd_rd (r : Nat × Nat) (q : RegRow) (i : Nat) (h1 : q.addr i ≠ row_STR_STATUS.addr 0)
    (h2 : q.addr i ≠ row_STR_STAGE_CTL.addr 0) : (d.stageEnd r).rd q i = d.rd q i := by
  simp only [Dev.stageEnd, Dev.rd_staging]
  rw [Dev.rd_setFld_other _ _ _ _ _ _ _ h2, Dev.rd_setFld_other _ _ _ _ _ _ _ h2, Dev.rd_setFld_other _ _ _ _ _ _ _ h1,
    Dev.rd_setFld_other _ _ _ _ _ _ _ h1]

theorem Dev.stageEnd_length (r : Nat × Nat) :
    (d.stageEnd r).fld row_STR_STAGE_CTL 0 f_STR_STAGE_CTL_LENGTH = d.fld row_STR_STAGE_CTL 0 f_STR_STAGE_CTL_LENGTH := by
  simp only [Dev.stageEnd, Dev.fld_staging]
  rw [Dev.fld_setFld_disjoint _ _ _ _ _ _ (by decide) (by decide), Dev.fld_setFld_disjoint _ _ _ _ _ _ (by decide) (by decide),
    Dev.fld_setFld_other _ _ _ _ _ _ _ _ (by decide), Dev.fld_setFld_other _ _ _ _ _ _ _ _ (by decide)]

theorem Dev.stageBusy_fld (cmd len : Nat) (buf : List Gran) :
    (d.stageBusy cmd len buf).fld row_STR_STAGE_CTL 0 f_STR_STAGE_CTL_BUSY = 1 :=
  d.fld_setFld_same _ _ _ _ (by decide)

/-- The words of the buffer are apart from the registers of the commands and from each other. -/
theorem stageBuf_addr (i : Nat) : row_STR_STAGE_BUF.addr i ≠ row_STR_STATUS.addr 0 ∧ row_STR_STAGE_BUF.addr i ≠ row_STR_STAGE_CTL.addr 0 ∧
    ∀ k, k ≠ i → row_STR_STAGE_BUF.addr i ≠ row_STR_STAGE_BUF.addr k := by
  refine ⟨?_, ?_, fun k hk => ?_⟩ <;> simp only [RegRow.addr, row_STR_STAGE_BUF, row_STR_STATUS, row_STR_STAGE_CTL] <;> omega

/-- The buffer read after LENGTH has been written. -/
theorem Dev.stageGrans_length (len n : Nat) :
    (d.setFld row_STR_STAGE_CTL 0 f_STR_STAGE_CTL_LENGTH len).stageGrans n = d.stageGrans n := by
  simp only [Dev.stageGrans, Dev.rd_setFld_other _ _ _ _ _ _ _ (stageBuf_addr _).2.1]

/-- Writing one granule into the buffer. -/
def Dev.stagePutOne (ig : Nat × Gran) : Dev :=
  d.each (List.range 4) fun d j => d.wr row_STR_STAGE_BUF (4 * ig.1 + j) (granWord ig.2 j)

theorem Dev.stagePutOne_rd (i : Nat) (v : Gran) (j : Nat) (hj : j < 4) :
    (d.stagePutOne (i, v)).rd row_STR_STAGE_BUF (4 * i + j) = granWord v j := by
  have hne : ∀ a b, a ≠ b → row_STR_STAGE_BUF.addr a ≠ row_STR_STAGE_BUF.addr b := fun a b h => (stageBuf_addr a).2.2 b (Ne.symm h)
  simp only [Dev.stagePutOne, Dev.each, List.range, List.range.loop, List.foldl_cons, List.foldl_nil]
  interval_cases j <;> simp [Dev.rd_wr_other, hne]

theorem Dev.stagePutOne_other (i : Nat) (v : Gran) (k j : Nat) (hj : j < 4) (hk : k ≠ i) :
    (d.stagePutOne (i, v)).rd row_STR_STAGE_BUF (4 * k + j) = d.rd row_STR_STAGE_BUF (4 * k + j) := by
  refine Dev.each_keeps_mem (fun e => e.rd row_STR_STAGE_BUF (4 * k + j) = d.rd row_STR_STAGE_BUF (4 * k + j)) _ _ (fun e x hx he => ?_) d rfl
  have hx4 := List.mem_range.mp hx
  exact (Dev.rd_wr_other _ _ _ _ _ _ ((stageBuf_addr _).2.2 _ (by omega))).trans he

theorem Dev.stagePut_regs (l : List Gran) : d.regsOnly (d.stagePut l) :=
  Dev.regsOnly_each _ _ fun _ _ => Dev.regsOnly_each _ _ fun e _ => e.regsOnly_wr _ _ _

/-- What the buffer holds after granules have been written into it from word 4 n on. -/
theorem Dev.stagePut_from (l : List Gran) (n : Nat) (k j : Nat) (hj : j < 4) :
    (d.each ((List.range' n l.length).zip l) Dev.stagePutOne).rd row_STR_STAGE_BUF (4 * k + j) =
      if n ≤ k then (l[k - n]?).elim (d.rd row_STR_STAGE_BUF (4 * k + j)) (granWord · j) else d.rd row_STR_STAGE_BUF (4 * k + j) := by
  induction l generalizing d n with
  | nil => simp [Dev.each]
  | cons v t ih =>
    have hstep : d.each ((List.range' n (v :: t).length).zip (v :: t)) Dev.stagePutOne =
        (d.stagePutOne (n, v)).each ((List.range' (n + 1) t.length).zip t) Dev.stagePutOne := rfl
    rw [hstep, ih]
    rcases Nat.lt_trichotomy k n with h | rfl | h
    · rw [if_neg (by omega), if_neg (by omega), Dev.stagePutOne_other _ _ _ _ _ hj (by omega)]
    · rw [if_neg (by omega), if_pos (Nat.le_refl _), Nat.sub_self, Dev.stagePutOne_rd _ _ _ _ hj]
      rfl
    · obtain ⟨m, rfl⟩ : ∃ m, k = n + 1 + m := ⟨k - (n + 1), by omega⟩
      rw [if_pos (by omega), if_pos (by omega), Dev.stagePutOne_other _ _ _ _ _ hj (by omega), Nat.add_sub_cancel_left,
        show n + 1 + m - n = m + 1 by omega, List.getElem?_cons_succ]

theorem Dev.stagePut_rd (l : List Gran) (i j : Nat) (v : Gran) (h : l[i]? = some v) (hj : j < 4) :
    (d.stagePut l).rd row_STR_STAGE_BUF (4 * i + j) = granWord v j := by
  have hput := d.stagePut_from l 0 i j hj
  rw [if_pos (Nat.zero_le i), Nat.sub_zero, h, Option.elim_some, ← List.range_eq_range'] at hput
  exact hput

variable {d}

theorem Dev.regsOnly_ended {e : Dev} (h : d.regsOnly e) (r : Nat × Nat) :
    ({ d with staging := none } : Dev).regsOnly (e.stageEnd r) := by
  have hnone : ({ d with staging := none } : Dev).regsOnly { e with staging := none } :=
    congrArg (fun x : Dev => ({ x with staging := none } : Dev)) (show e = { d with regs := e.regs } from h)
  exact Dev.regsOnly_trans hnone (e.stageEnd_regs r)

variable (d) (x : Sec) (len : Nat)

theorem Dev.stageCmd_dropped (cmd : Nat) (h : d.staging.isSome = true) :
    d.stageCmd x cmd len = d.setFld row_STR_STATUS 0 f_STR_STATUS_CMD_DROPPED 1 := if_pos h

/-- The device once LENGTH is written. -/
def Dev.stageLen : Dev := d.setFld row_STR_STAGE_CTL 0 f_STR_STAGE_CTL_LENGTH len

theorem Dev.stageLen_regs : d.regsOnly (d.stageLen len) := d.regsOnly_setFld _ _ _ _

section
variable (h : d.staging = none)
include h

theorem Dev.stageCmd_frozen (cmd : Nat) (hf : d.freezes ≠ .running) :
    d.stageCmd x cmd len = (d.stageLen len).stageEnd (0x3A, 0) := by
  rw [Dev.stageCmd, if_neg (by simp [h])]
  exact if_pos hf

variable (hf : d.freezes = .running)
include hf

theorem Dev.stageCmd_check : d.stageCmd x 1 len = (d.stageLen len).stageEnd (stageCheck (d.stageGrans len) len x) := by
  rw [Dev.stageCmd, if_neg (by simp [h])]
  refine (if_neg (not_not_intro hf)).trans ?_
  simp only [d.stageGrans_length]
  rfl

theorem Dev.stageCmd_commit : d.stageCmd x 2 len =
    if (stageCheck (d.stageGrans len) len x).1 ≠ 0 then (d.stageLen len).stageEnd (stageCheck (d.stageGrans len) len x)
    else ((d.stageLen len).flashErase flashStratum (2 ^ 20)).stageBusy 2 len (d.stageGrans len) := by
  rw [Dev.stageCmd, if_neg (by simp [h])]
  refine (if_neg (not_not_intro hf)).trans ?_
  simp only [d.stageGrans_length]
  rfl

theorem Dev.stageCmd_apply : d.stageCmd x 3 len = (d.stageLen len).stageBusy 3 len (d.stageGrans len) := by
  rw [Dev.stageCmd, if_neg (by simp [h])]
  refine (if_neg (not_not_intro hf)).trans ?_
  simp only [d.stageGrans_length]
  rfl

theorem Dev.stageCmd_read (g : Strat) (hg : d.strat = some g) : d.stageCmd x 4 len =
    (((d.stageLen len).stagePut g.readout).setFld row_STR_STAGE_CTL 0 f_STR_STAGE_CTL_LENGTH g.readout.length).stageEnd (0, 0) := by
  have hlen : (d.setFld row_STR_STAGE_CTL 0 f_STR_STAGE_CTL_LENGTH len).strat = some g := hg
  rw [Dev.stageCmd, if_neg (by simp [h])]
  refine (if_neg (not_not_intro hf)).trans ?_
  simp only [hlen]
  rfl

end

/-- A staging command that runs on. -/
theorem Dev.stageBusy_regs (cmd n : Nat) (buf : List Gran) :
    ({ d with staging := some ⟨cmd, n, buf, false⟩ } : Dev).regsOnly (d.stageBusy cmd n buf) := rfl

end

theorem State.next_dev (s : State) {d e : Dev} (h : d = e) :
    (Host.Outcome.next { s with dev := d } : Host.Outcome State Fault Refusal) = .next { s with dev := e } := by
  rw [h]

/-- The staging commands by their numbers. -/
theorem exec_stage (s : State) (len : BitVec 10) (c : Instr)
    (hc : c = .check len ∨ c = .commitFlash len ∨ c = .applyQos len ∨ c = .readActive) :
    ∃ cmd n, exec c s = .next { s with dev := s.dev.stageCmd s.sec cmd n } := by
  rcases hc with rfl | rfl | rfl | rfl
  exacts [⟨_, _, rfl⟩, ⟨_, _, rfl⟩, ⟨_, _, rfl⟩, ⟨_, _, rfl⟩]

/-- With no command under way the mark of one is as it was. -/
theorem Dev.staging_none_self (d : Dev) (h : d.staging = none) : ({ d with staging := none } : Dev) = d := by
  rw [← h]

/-- Settles O16. -/
theorem stagingCommands : Obligations.StagingCommands := by
  unfold Obligations.StagingCommands
  refine ⟨fun s len hnone hf => ⟨?_, ?_, ?_, fun g hg _ => ?_⟩, fun s len c hc => ⟨fun hbusy => ?_, fun hnone hf => ?_⟩⟩
  · have hcmd := s.dev.stageCmd_check s.sec len.toNat hnone hf
    have hregs := Dev.regsOnly_ended (s.dev.stageLen_regs len.toNat) (stageCheck (s.dev.stageGrans len.toNat) len.toNat s.sec)
    rw [s.dev.staging_none_self hnone] at hregs
    exact ⟨_, s.next_dev hcmd, Dev.stageEnd_staged _ _, hregs⟩
  · have hcmd := s.dev.stageCmd_commit s.sec len.toNat hnone hf
    refine ⟨_, s.next_dev hcmd, fun hbad => ?_, fun hok => ?_⟩
    · have hregs := Dev.regsOnly_ended (s.dev.stageLen_regs len.toNat) (stageCheck (s.dev.stageGrans len.toNat) len.toNat s.sec)
      rw [s.dev.staging_none_self hnone] at hregs
      rw [if_pos hbad]
      exact ⟨Dev.stageEnd_staged _ _, hregs⟩
    · rw [if_neg (not_not_intro hok)]
      exact ⟨Dev.stageBusy_fld _ _ _ _, rfl, fun i h1 h2 => Dev.flashErase_get _ _ _ i ⟨h1, h2⟩⟩
  · have hcmd := s.dev.stageCmd_apply s.sec len.toNat hnone hf
    exact ⟨_, s.next_dev hcmd, Dev.stageBusy_fld _ _ _ _, rfl⟩
  · have hcmd := s.dev.stageCmd_read s.sec (s.dev.fld row_STR_STAGE_CTL 0 f_STR_STAGE_CTL_LENGTH) hnone hf g hg
    have hput := Dev.stagePut_regs (s.dev.stageLen (s.dev.fld row_STR_STAGE_CTL 0 f_STR_STAGE_CTL_LENGTH)) g.readout
    have hregs := Dev.regsOnly_ended (Dev.regsOnly_trans (Dev.regsOnly_trans (s.dev.stageLen_regs _) hput)
      (Dev.regsOnly_setFld _ row_STR_STAGE_CTL 0 f_STR_STAGE_CTL_LENGTH g.readout.length)) (0, 0)
    rw [s.dev.staging_none_self hnone] at hregs
    refine ⟨_, s.next_dev hcmd, Dev.stageEnd_staged _ _, hregs, ?_, fun i v hv j hj => ?_⟩
    · rw [Dev.stageEnd_length]
      exact Dev.fld_setFld_same _ _ _ _ _ (by decide)
    · obtain ⟨hst, hctl, -⟩ := stageBuf_addr (4 * i + j)
      rw [Dev.stageEnd_rd _ _ _ _ hst hctl, Dev.rd_setFld_other _ _ _ _ _ _ _ hctl, Dev.stagePut_rd _ _ _ _ _ hv hj]
  · obtain ⟨cmd, n, hexec⟩ := exec_stage s len c hc
    rw [s.dev.stageCmd_dropped s.sec n cmd hbusy] at hexec
    exact ⟨_, hexec, Dev.fld_setFld_same _ _ _ _ _ (by decide), s.dev.regsOnly_setFld _ _ _ _, fun a v h => Dev.regs_wr_other _ _ _ _ _ _ h⟩
  · obtain ⟨cmd, n, hexec⟩ := exec_stage s len c hc
    have hregs := Dev.regsOnly_ended (s.dev.stageLen_regs n) (0x3A, 0)
    rw [s.dev.staging_none_self hnone] at hregs
    rw [s.dev.stageCmd_frozen s.sec n hnone cmd hf] at hexec
    exact ⟨_, hexec, Dev.stageEnd_staged _ _, hregs⟩

end Sys2Proof.Machine

/-! PROOF. The later steps of APPLY_QOS and COMMIT_FLASH (R44, R45). -/
namespace Sys2Proof.Machine

section
variable (d : Dev)

/-- The device e is d but for the accounts and ceilings of the instances and sets. -/
def Dev.acctOnly (e : Dev) : Prop := e = { d with setq := e.setq, insts := e.insts }

theorem Dev.acctOnly_refl : d.acctOnly d := rfl

theorem Dev.acctOnly_updInst (i : Nat) (f : Inst → Inst) : d.acctOnly (d.updInst i f) := rfl

theorem Dev.acctOnly_updSq (i : Nat) (f : SetQ → SetQ) : d.acctOnly (d.updSq i f) := rfl

variable {d}

theorem Dev.acctOnly_trans {e f : Dev} (h : d.acctOnly e) (k : e.acctOnly f) : d.acctOnly f :=
  k.trans (congrArg (fun x : Dev => { x with setq := f.setq, insts := f.insts }) h)

theorem Dev.acctOnly_each {α : Type} (l : List α) (f : Dev → α → Dev) (h : ∀ e x, Dev.acctOnly e (f e x)) : d.acctOnly (d.each l f) :=
  Dev.each_keeps d.acctOnly l f (fun e x he => Dev.acctOnly_trans he (h e x)) d d.acctOnly_refl

theorem Dev.acctOnly_strat {e : Dev} (h : d.acctOnly e) (g : Option Strat) :
    ({ d with strat := g } : Dev).acctOnly { e with strat := g } :=
  congrArg (fun x : Dev => ({ x with strat := g } : Dev)) (show e = { d with setq := e.setq, insts := e.insts } from h)

theorem Dev.acctOnly_fld {e : Dev} (h : d.acctOnly e) (r : RegRow) (i : Nat) (f : Fld) : e.fld r i f = d.fld r i f := by
  rw [h]
  rfl

variable (d)

theorem Dev.acctOnly_accrue (i : Nat) : d.acctOnly (d.accrue i) := by
  unfold Dev.accrue
  split
  · exact d.acctOnly_refl
  · exact d.acctOnly_updInst _ _

theorem Dev.acctOnly_ceilRaise (k : Nat) : d.acctOnly (d.ceilRaise k) := by
  refine Dev.acctOnly_each _ _ fun e i => ?_
  split
  · exact e.acctOnly_updSq _ _
  · exact e.acctOnly_refl

/-- The comparison of the sections but QOS. -/
theorem sameSections (a b : Img) : (((List.range 8).filter fun i => i ≠ 4).all fun i => Img.body a (i + 1) == Img.body b (i + 1)) = true ↔
    ∀ k, k < 8 → k ≠ 4 → Img.body a (k + 1) = Img.body b (k + 1) := by
  simp only [List.all_eq_true, List.mem_filter, List.mem_range, decide_eq_true_eq, beq_iff_eq, and_imp]

/-- What the adoption leaves of the device but for the registers. -/
def Dev.qosAdopted (g : Strat) (t : Stage_) : Dev :=
  ({ d.each (List.range 100) Dev.accrue with strat := some (g.withQos t.buf) } : Dev).each (List.range g.sets.length) Dev.ceilRaise

theorem Dev.qosAdopted_frame (g : Strat) (t : Stage_) :
    ({ d with strat := some (g.withQos t.buf) } : Dev).acctOnly (d.qosAdopted g t) := by
  have hacc : d.acctOnly (d.each (List.range 100) Dev.accrue) := Dev.acctOnly_each _ _ fun e i => e.acctOnly_accrue i
  have hstrat : ({ d with strat := some (g.withQos t.buf) } : Dev).acctOnly
      { d.each (List.range 100) Dev.accrue with strat := some (g.withQos t.buf) } := Dev.acctOnly_strat hacc _
  exact Dev.acctOnly_trans hstrat (Dev.acctOnly_each _ _ fun e i => e.acctOnly_ceilRaise i)

variable {d} {t : Stage_} {g : Strat} (ht : d.staging = some t) (hg : d.strat = some g)
include ht hg

theorem Dev.qosJudge_failed (x : Sec) (h : (stageCheck t.buf t.len x).1 ≠ 0) :
    d.qosJudge x = d.stageEnd (stageCheck t.buf t.len x) := by
  simp only [Dev.qosJudge, ht, hg]
  exact if_pos h

theorem Dev.qosJudge_mismatch (x : Sec) (h : (stageCheck t.buf t.len x).1 = 0)
    (hs : ¬ ∀ k, k < 8 → k ≠ 4 → Img.body t.buf (k + 1) = Img.body g.image (k + 1)) : d.qosJudge x = d.stageEnd (0x38, 0) := by
  rw [← sameSections] at hs
  simp only [Dev.qosJudge, ht, hg, Bool.eq_false_iff.mpr hs]
  exact if_neg (not_not_intro h)

theorem Dev.qosJudge_same (x : Sec) (h : (stageCheck t.buf t.len x).1 = 0)
    (hs : ∀ k, k < 8 → k ≠ 4 → Img.body t.buf (k + 1) = Img.body g.image (k + 1)) :
    d.qosJudge x = { d with staging := some { t with adopted := true } } := by
  rw [← sameSections] at hs
  simp only [Dev.qosJudge, ht, hg, hs]
  exact if_neg (not_not_intro h)

theorem Dev.qosAdopt_eq : d.qosAdopt =
    ((d.qosAdopted g t).wrapInc row_STR_ACTIVE_INFO 0 f_STR_ACTIVE_INFO_QOS_GEN).stageEnd (0, 0) := by
  simp only [Dev.qosAdopt, ht, hg]
  rfl

omit hg in
theorem Dev.commitDone_ok : d.commitDone true = (d.flashPut flashStratum (gransBytes t.buf)).stageEnd (0, 0) := by
  simp only [Dev.commitDone, ht, if_true]

omit hg in
theorem Dev.commitDone_fail : ∃ c, d.commitDone false = ({ d with free := d.free + 1 } : Dev).stageEnd (c, 0) := by
  refine ⟨(d.fresh 8).1.toNat, ?_⟩
  simp only [Dev.commitDone, ht]
  rfl

end

theorem Dev.stageEnd_fld (d : Dev) (r : Nat × Nat) (q : RegRow) (f : Fld) (h1 : q.addr 0 ≠ row_STR_STATUS.addr 0)
    (h2 : q.addr 0 ≠ row_STR_STAGE_CTL.addr 0) : (d.stageEnd r).fld q 0 f = d.fld q 0 f := by
  rw [Dev.fld, d.stageEnd_rd r q 0 h1 h2, Dev.fld]

/-- Is the command under way of a kind. -/
theorem stagingIs_of {d : Dev} {t : Stage_} (hf : d.freezes = .running) (ht : d.staging = some t) (cmd : Nat) (adopted : Bool) (hc : t.cmd = cmd)
    (ha : t.adopted = adopted) : d.stagingIs cmd adopted = true := by
  simp [Dev.stagingIs, hf, ht, hc, ha]

/-- A command that ends after registers have changed, the stratum replaced and the accounts brought up before. -/
theorem Dev.adopted_frame {d x y z : Dev} {g : Strat} (hx : ({ d with strat := some g } : Dev).acctOnly x) (hy : x.regsOnly y)
    (hz : ({ y with staging := none } : Dev).regsOnly z) :
    ∃ regs setq insts, z = { d with strat := some g, regs := regs, staging := none, setq := setq, insts := insts } := by
  refine ⟨z.regs, x.setq, x.insts, ?_⟩
  calc z = { y with staging := none, regs := z.regs } := hz
    _ = { x with staging := none, regs := z.regs } :=
      congrArg (fun e : Dev => { e with staging := none, regs := z.regs }) (show y = { x with regs := y.regs } from hy)
    _ = { d with strat := some g, regs := z.regs, staging := none, setq := x.setq, insts := x.insts } :=
      congrArg (fun e : Dev => { e with staging := none, regs := z.regs })
        (show x = { d with strat := some g, setq := x.setq, insts := x.insts } from hx)

theorem Dev.adopted_self {d z : Dev} {g : Strat}
    (h : ∃ regs setq insts, z = { d with strat := some g, regs := regs, staging := none, setq := setq, insts := insts }) :
    z.strat = some g ∧ z = { d with strat := z.strat, regs := z.regs, staging := none, setq := z.setq, insts := z.insts } := by
  obtain ⟨_, _, _, rfl⟩ := h
  exact ⟨rfl, rfl⟩

theorem Dev.committed_frame (d : Dev) (a : Nat) (l : List Byte) (r : Nat × Nat) : (d.flashPut a l).stageEnd r = { d with
    regs := ((d.flashPut a l).stageEnd r).regs, flash := (d.flashPut a l).flash, staging := none } := by
  have hend := (d.flashPut a l).stageEnd_regs r
  generalize (d.flashPut a l).stageEnd r = z at hend ⊢
  calc z = { d.flashPut a l with staging := none, regs := z.regs } := hend
    _ = { d with regs := z.regs, flash := (d.flashPut a l).flash, staging := none } :=
      congrArg (fun e : Dev => { e with staging := none, regs := z.regs }) (d.flashPut_rest a l)

/-- Settles O17. -/
theorem stagingSteps : Obligations.StagingSteps := by
  unfold Obligations.StagingSteps
  refine fun s t g hf ht hg => ⟨fun hc ha => ?_, fun hc ha => ?_, fun hc ha => ⟨?_, ?_⟩⟩
  · have hrun := s.devEvent_holds (fun d => d.stagingIs 3 false) (fun d => d.qosJudge s.sec) (stagingIs_of hf ht 3 false hc ha)
    refine ⟨s.dev.qosJudge s.sec, hrun, fun hbad => ?_, fun hok hdiff => ?_, fun hok hsame => ?_⟩
    · rw [Dev.qosJudge_failed ht hg s.sec hbad]
      exact ⟨s.dev.stageEnd_staged _, s.dev.stageEnd_regs _⟩
    · rw [Dev.qosJudge_mismatch ht hg s.sec hok hdiff]
      exact ⟨s.dev.stageEnd_staged _, s.dev.stageEnd_regs _⟩
    · exact Dev.qosJudge_same ht hg s.sec hok hsame
  · have hrun := s.devEvent_holds (fun d => d.stagingIs 3 true) Dev.qosAdopt (stagingIs_of hf ht 3 true hc ha)
    have hx := s.dev.qosAdopted_frame g t
    rw [Dev.qosAdopt_eq ht hg] at hrun
    obtain ⟨hstrat, hself⟩ := Dev.adopted_self (Dev.adopted_frame hx (Dev.regsOnly_setFld _ _ _ _ _) (Dev.stageEnd_regs _ (0, 0)))
    refine ⟨_, hrun, Dev.stageEnd_staged _ _, hstrat, hself, ?_⟩
    rw [Dev.stageEnd_fld _ _ _ _ (by decide) (by decide), Dev.fld_wrapInc _ _ _ _ _ (by decide), Dev.acctOnly_fld hx]
    rfl
  · have hrun := s.devEvent_holds (fun d => d.stagingIs 2 false) (fun d => d.commitDone true) (stagingIs_of hf ht 2 false hc ha)
    have hframe := s.dev.committed_frame flashStratum (gransBytes t.buf) (0, 0)
    have hflash : ((s.dev.flashPut flashStratum (gransBytes t.buf)).stageEnd (0, 0)).flash =
      (s.dev.flashPut flashStratum (gransBytes t.buf)).flash := by rw [hframe]
    rw [← hflash] at hframe
    simp only [Dev.commitDone_ok ht] at hrun
    refine ⟨_, hrun, Dev.stageEnd_staged _ _, hframe, fun i => ?_⟩
    rw [hflash, s.dev.flashPut_get]
    refine if_ctx_congr Iff.rfl (fun hi => ?_) fun _ => rfl
    have hlen : i - flashStratum < (gransBytes t.buf).length := by
      simp only [flashStratum] at hi ⊢
      omega
    rw [List.getD_eq_getElem _ _ hlen]
    exact (List.getD_eq_getElem _ _ hlen).symm
  · obtain ⟨c, hdone⟩ := Dev.commitDone_fail ht
    have hrun := s.devEvent_holds (fun d => d.stagingIs 2 false) (fun d => d.commitDone false) (stagingIs_of hf ht 2 false hc ha)
    obtain ⟨hdone1, -, -, hnone⟩ := Dev.stageEnd_staged { s.dev with free := s.dev.free + 1 } (c, 0)
    have hregs := Dev.stageEnd_regs { s.dev with free := s.dev.free + 1 } (c, 0)
    simp only [hdone] at hrun
    exact ⟨_, hrun, hdone1, hnone, (congrArg Dev.flash hregs :), (congrArg Dev.mem hregs :)⟩

end Sys2Proof.Machine

/-! PROOF. A tick of the governor and the writes of the power limits (R383, R385, R388). -/
namespace Sys2Proof.Machine

/-! ### Bed gating keeps memory (R388) -/

section
variable (d : Dev)

theorem Dev.complete_mem (r : CmdRef) (st r0 r1 : Nat) (payload : Gran) (final : Bool) :
    (d.complete r st r0 r1 payload final).mem = d.mem :=
  congrArg CplKept.mem (d.cplKept_complete r st r0 r1 payload final)

theorem Dev.event_mem (dst : Option Nat) (code ctx data : Nat) : (d.event dst code ctx data).mem = d.mem :=
  Dev.eventsOnly_mem (d.eventsOnly_event dst code ctx data)

theorem Dev.rejoined_mem (x : Nat) : (d.rejoined x).mem = d.mem := by
  refine (Dev.eventsOnly_mem (d.rejoined_spec x)).trans ?_
  unfold Dev.rateMark
  split <;> rfl

theorem Dev.bedPowerUp_mem (b : Nat) : (d.bedPowerUp b).mem = d.mem := by
  refine Dev.each_same Dev.mem _ _ (fun e x => ?_) d
  exact (Dev.rejoined_mem _ _).trans rfl

theorem Dev.assignDo_mem (ref : CmdRef) (c b pages : Nat) : (d.assignDo ref c b pages).mem = d.mem := by
  unfold Dev.assignDo
  extract_lets x d1 d2
  have h2 : d2.mem = d.mem := by
    unfold d2
    split
    · exact d.bedPowerUp_mem b
    · exact (d1.clayRelease_frame c).2.1.trans (d.bedPowerUp_mem b)
  split
  · exact d.complete_mem _ _ _ _ _ _
  · exact (Dev.complete_mem _ _ _ _ _ _ _).trans h2

end

section
variable (s : State)

/-- Gating beds is a matter of the device, whose memory stays. -/
theorem State.bedGates_frame : ∃ d, s.bedGates = { s with dev := d } ∧ d.mem = s.dev.mem := by
  refine ⟨_, rfl, ?_⟩
  refine (Dev.each_same Dev.mem _ _ (fun e a => e.assignDo_mem _ _ _ _) _).trans ?_
  change Dev.mem (if _ then _ else _) = _
  split
  · refine Dev.each_same Dev.mem _ _ (fun e b => ?_) _
    refine Dev.each_same Dev.mem _ _ (fun f x => ?_) e
    rfl
  · rfl

/-! ### The governor (R385) -/

/-- The Vcore that the governor commands on a die. -/
def State.governTo (die : Nat) : Nat :=
  let v := s.pwr.v.get die 0
  let ready := s.dev.atLeast (alwaysKey die) (s.pwr.changed.get die 0) 100000 = true
  max 620 (min s.pwr.vmaxEff (if s.pwr.inForce die 2 = true then v - 20
    else if s.pwr.causesOf die ≠ 0 ∧ ready then v - 10
    else if s.pwr.causesOf die = 0 ∧ ready then min (s.pwr.targetOf die) (v + 5)
    else v))

/-- The state t is s but for the voltages and what the governor notes of them. -/
def State.governed (t : State) : Prop :=
  t = { s with pwr := { s.pwr with
    govAt := t.pwr.govAt, v := t.pwr.v, gate := t.pwr.gate, vMin := t.pwr.vMin, changed := t.pwr.changed } }

variable {s} in
theorem State.governed_trans {t u : State} (h : s.governed t) (k : t.governed u) : s.governed u := by
  have hu := congrArg (fun x : State => ({ x with pwr := { x.pwr with
    govAt := u.pwr.govAt, v := u.pwr.v, gate := u.pwr.gate, vMin := u.pwr.vMin, changed := u.pwr.changed } } : State))
    (show t = { s with pwr := { s.pwr with
      govAt := t.pwr.govAt, v := t.pwr.v, gate := t.pwr.gate, vMin := t.pwr.vMin, changed := t.pwr.changed } } from h)
  exact Eq.trans (show u = _ from k) hu

theorem State.governed_govern (die : Nat) : s.governed (s.govern die) := by
  unfold State.govern
  split <;> rfl

theorem State.govern_same (die : Nat) :
    (s.govern die).pwr.v.get die 0 = if s.govDue die = true then s.governTo die else s.pwr.v.get die 0 := by
  unfold State.govern
  split
  case isTrue h => rw [if_neg (by simpa using h)]
  case isFalse h =>
    rw [if_pos (by simpa using h)]
    dsimp only
    rw [tab_get_set_same, State.governTo]
    simp only [decide_not, Bool.and_eq_true, Bool.not_eq_true', decide_eq_false_iff_not, Bool.not_not, decide_eq_true_eq, ne_eq]

/-- The other die. -/
theorem State.govern_other (die k : Nat) (h : k ≠ die) : (s.govern die).pwr.v.get k 0 = s.pwr.v.get k 0 ∧
    (s.govern die).govDue k = s.govDue k ∧ (s.govern die).governTo k = s.governTo k := by
  unfold State.govern
  split
  · exact ⟨rfl, rfl, rfl⟩
  · have hchanged : ∀ (c : Prop) [Decidable c] (m : Tab Nat) n, (if c then m else m.set die n 0).get k 0 = m.get k 0 := fun c _ m n => by
      split
      · rfl
      · exact tab_get_set_other _ _ _ _ _ _ h
    refine ⟨tab_get_set_other _ _ _ _ _ _ h, ?_, ?_⟩
    · simp only [State.govDue, tab_get_set_other _ _ _ _ _ _ h]
    · simp only [State.governTo, tab_get_set_other _ _ _ _ _ _ h, hchanged]
      rfl

/-- The causes that are held are as they were but for their time. -/
theorem State.causesHeld_frame : ∃ since, s.causesHeld = { s with pwr := { s.pwr with since := since } } := by
  unfold State.causesHeld
  generalize (([0, 1] : List Nat).flatMap fun k => ([0, 1, 2] : List Nat).map fun c => (k, c)) = l
  induction l generalizing s with
  | nil => exact ⟨s.pwr.since, rfl⟩
  | cons x t ih =>
    rw [List.foldl_cons]
    obtain ⟨since, h⟩ := ih (if s.pwr.inForce x.1 x.2 && !s.leaves x.1 x.2 then
      { s with pwr := { s.pwr with since := s.pwr.since.set (causeKey x.1 x.2) (s.dev.now (alwaysKey x.1)) 0 } } else s)
    refine ⟨since, h.trans ?_⟩
    split <;> rfl

end

section
variable (s : State)

/-- The state at a tick of the governor once the voltages are settled. -/
def State.ticked (p : Pwr) : State := ((({ s with pwr := p } : State).causesHeld).govern 0).govern 1

theorem State.governor_ticked (p : Pwr) (hv : s.dev.vcore = true) :
    ∃ d, s.governor p = { s.ticked p with dev := d } ∧ d.mem = s.dev.mem := by
  obtain ⟨since, hheld⟩ := State.causesHeld_frame { s with pwr := p }
  have hdev : (s.ticked p).dev = s.dev := by
    rw [State.ticked, State.governed_govern _ 1, State.governed_govern _ 0, hheld]
  have hcore : (({ s with pwr := p } : State).causesHeld).dev.vcore = true := by
    rw [hheld]
    exact hv
  have hgov : s.governor p = if (s.ticked p).dev.serving then (s.ticked p).bedGates else s.ticked p := by
    unfold State.governor
    extract_lets s1 s2
    have hs2 : s2 = s.ticked p := if_pos hcore
    rw [hs2]
  rw [hgov]
  split
  · obtain ⟨d, hd, hmem⟩ := (s.ticked p).bedGates_frame
    exact ⟨d, hd, hmem.trans (congrArg Dev.mem hdev)⟩
  · exact ⟨(s.ticked p).dev, rfl, congrArg Dev.mem hdev⟩

/-- What the readings say, and Vcore of both dies, after a tick. -/
theorem State.ticked_spec (p : Pwr) (hp : p = { s.pwr with
      avg := p.avg, peak := p.peak, v48 := p.v48, tj := p.tj, tjPeak := p.tjPeak, hottest := p.hottest, meas := p.meas }) :
    (∃ since govAt v gate vMin changed, s.ticked p = { s with pwr := { p with
      since := since, govAt := govAt, v := v, gate := gate, vMin := vMin, changed := changed } }) ∧
    ∀ die, die < 2 → (s.ticked p).pwr.v.get die 0 = if s.govDue die = true then s.governTo die else s.pwr.v.get die 0 := by
  obtain ⟨since, hheld⟩ := State.causesHeld_frame { s with pwr := p }
  refine ⟨⟨since, (s.ticked p).pwr.govAt, (s.ticked p).pwr.v, (s.ticked p).pwr.gate, (s.ticked p).pwr.vMin, (s.ticked p).pwr.changed, ?_⟩,
    fun die hdie => ?_⟩
  · have hgov : ({ s with pwr := p } : State).causesHeld.governed (s.ticked p) := State.governed_trans (({ s with pwr := p } : State).causesHeld.governed_govern 0) (State.governed_govern _ 1)
    exact Eq.trans (show s.ticked p = _ from hgov) (by rw [hheld])
  · have hdue : ∀ k, (({ s with pwr := p } : State).causesHeld).govDue k = s.govDue k := fun k => by rw [hheld, hp]; rfl
    have hto : ∀ k, (({ s with pwr := p } : State).causesHeld).governTo k = s.governTo k := fun k => by rw [hheld, hp]; rfl
    have hv : ∀ k, (({ s with pwr := p } : State).causesHeld).pwr.v.get k 0 = s.pwr.v.get k 0 := fun k => by rw [hheld, hp]
    obtain ⟨hv0, -, -⟩ := State.govern_other (({ s with pwr := p } : State).causesHeld.govern 0) 1 0 (by decide)
    obtain ⟨hv1, hdue1, hto1⟩ := State.govern_other (({ s with pwr := p } : State).causesHeld) 0 1 (by decide)
    rw [State.ticked]
    interval_cases die
    · rw [hv0, State.govern_same, hdue, hto, hv]
    · rw [State.govern_same, hdue1, hto1, hv1, hdue, hto, hv]

/-- A target of a die is taken where it lies between 700 mV and what the limits allow. -/
theorem State.pwrTarget_spec (die : Nat) (v : Word) : ∃ p, s.pwrTarget die v = { s with pwr := p } ∧ p = { s.pwr with target := p.target } ∧
    p.targetOf die = if 700 ≤ bits v.toNat 0 10 ∧ bits v.toNat 0 10 ≤ min 800 s.pwr.vmax then bits v.toNat 0 10 else s.pwr.targetOf die := by
  unfold State.pwrTarget
  extract_lets t
  split
  case isTrue h => exact ⟨_, rfl, rfl, (tab_get_set_same _ _ _ _).trans (if_pos h).symm⟩
  case isFalse h => exact ⟨s.pwr, rfl, rfl, (if_neg h).symm⟩

theorem exec_pwrVcore (die : Fin 2) (v : Word) :
    exec (.pwrCtlWrite (BitVec.ofNat 32 (0x1100100 + 8 * die.val)) v) s = .next (s.pwrTarget die.val v) := by
  fin_cases die <;> rfl

end

/-- Settles O54. -/
theorem governorAndPowerLimits : Obligations.GovernorAndPowerLimits := by
  unfold Obligations.GovernorAndPowerLimits
  refine fun s => ⟨fun avg tj0 tj1 hot0 hot1 meas0 meas1 v48 hv => ?_, fun v => ⟨_, rfl, s.pwrCtl_vmax v, s.pwrCtl_plW v, s.pwrCtl_guard v,
    s.pwrCtl_thermEmerg v, s.pwrCtl_bedGate v⟩, fun die v => ?_⟩
  · have hon : s.dev.standbyOn = true := by
      simp only [Dev.vcore, Bool.and_eq_true] at hv
      exact hv.1.1
    obtain ⟨d, hgov, hmem⟩ := s.governor_ticked (s.pwr.read avg tj0 tj1 hot0.val hot1.val meas0 meas1 v48) hv
    obtain ⟨⟨since, govAt, v, gate, vMin, changed, hframe⟩, hvolt⟩ := s.ticked_spec (s.pwr.read avg tj0 tj1 hot0.val hot1.val meas0 meas1 v48) rfl
    refine ⟨_, (if_pos hon).trans (congrArg _ hgov), ?_, ?_, ?_, ?_, ?_, ?_, ?_, ?_, hmem, hvolt⟩
    all_goals rw [hframe]
    · rfl
    · rfl
    · exact (tab_get_set_other _ _ _ _ _ _ (by decide)).trans (tab_get_set_same _ _ _ _)
    · exact tab_get_set_same _ _ _ _
    all_goals rfl
  · obtain ⟨p, hp, hrest, htarget⟩ := s.pwrTarget_spec die.val v
    exact ⟨p, (exec_pwrVcore s die v).trans (congrArg _ hp), hrest, htarget⟩

end Sys2Proof.Machine

/-! PROOF. What a fence and a failure of the device never reach, and what the fence of a die leaves (R283, R360, R369 to R372, R376). -/
namespace Sys2Proof.Machine

/-! ### What a fence never reaches (R283, R369 to R372)

The fences of domains, sets and ports and the moves, requests and events under them write much of a device, but never its own standing
(its state and step, which dies are fenced, the stratum, the canaries, the safety supervision): Dev.beyondFence is what is left of a
device without all that they write. -/

/-- What a fence leaves alone: the rest of the device, and the states of its ports where it fails none. -/
@[ext] structure FenceLeft where
  rest : Dev
  portSt : Nat → PortSt

/-- The device without what a fence may write. -/
def Dev.beyondFence (d : Dev) : FenceLeft where
  rest := { d with
    beds := [], challenge := [], clayRefs := [], clayTag := [], clayWr := [], ctxs := [], descs := [], doms := [], evHold := [],
    evq := [], faultN := false, fm := none, fmRing := {}, free := 0, halted := [], insts := [], journals := [], lockout := [],
    logFull := 0, mem := [], moves := [], msgs := [], out := [], pend := 0, plans := [], ports := [], rateDirty := 0, regs := [],
    reqs := [], setq := [], sweeps := [], tcache := [], tensors := [], timers := [], waiters := [], win := [], wire := [] }
  portSt := fun p => (d.port p).st

/-- What the operations under the fence of a set leave alone: that, the failed channels of every controller, which sets are fenced, and
the registers below those of the Loess engines. -/
@[ext] structure SetLeft where
  base : FenceLeft
  failed : Nat → BitVec 4
  fenced : Nat → Bool
  low : Nat → Word → Word

def Dev.beyondSets (d : Dev) : SetLeft where
  base := d.beyondFence
  failed := fun i => (d.inst i).failed
  fenced := d.setFenced
  low := fun a v => if a < 0x200000 then d.regs.get a v else 0

section
variable (d : Dev)

theorem Dev.beyondSets_events {e : Dev} (h : d.eventsOnly e) : e.beyondSets = d.beyondSets := by
  refine SetLeft.ext (FenceLeft.ext (congrArg (fun x : Dev => x.beyondFence.rest) h.rest :) (funext fun p => Dev.eventsOnly_port_st h p))
    (congrArg (fun x : Dev => x.beyondSets.failed) h.rest :) (congrArg (fun x : Dev => x.beyondSets.fenced) h.rest :)
    (funext fun a => funext fun v => ?_)
  by_cases ha : a < 0x200000
  · refine (if_pos ha).trans ((h.regs a v fun p _ hp => ?_).trans (if_pos ha).symm)
    rw [hp, RegRow.addr] at ha
    exact absurd (Nat.lt_of_le_of_lt (Nat.le_add_right _ _) ha) (by decide)
  · exact (if_neg ha).trans (if_neg ha).symm

theorem Dev.beyondSets_event (dst : Option Nat) (code ctx data : Nat) : (d.event dst code ctx data).beyondSets = d.beyondSets :=
  d.beyondSets_events (d.eventsOnly_event _ _ _ _)

theorem Dev.beyondSets_faultPin : d.faultPin.beyondSets = d.beyondSets :=
  Dev.beyondSets_events { d with faultN := d.faultCond } d.faultPin_spec

theorem Dev.beyondSets_safety (k code data : Nat) : (d.safety k code data).beyondSets = d.beyondSets :=
  (Dev.beyondSets_faultPin _).trans (Dev.beyondSets_event _ _ _ _ _)

/-- An operation on each element of a list reaches what the operation reaches. -/
theorem Dev.beyondSets_each {α : Type} (l : List α) (f : Dev → α → Dev) (hf : ∀ e x, (f e x).beyondSets = e.beyondSets) :
    (d.each l f).beyondSets = d.beyondSets := Dev.each_same Dev.beyondSets l f hf d

/-- A projection that an operation keeps for each element of a list. -/
theorem Dev.each_same_on {α β : Type} (π : Dev → β) (l : List α) (f : Dev → α → Dev) (hf : ∀ e x, x ∈ l → π (f e x) = π e) :
    π (d.each l f) = π d := by
  induction l generalizing d with
  | nil => rfl
  | cons x t ih => exact (ih (f d x) fun e y hy => hf e y (List.mem_cons_of_mem x hy)).trans (hf d x List.mem_cons_self)

theorem Dev.beyondSets_updReq (id : Nat) (f : Req → Req) : (d.updReq id f).beyondSets = d.beyondSets := rfl
theorem Dev.beyondSets_updBed (b : Nat) (f : Bed → Bed) : (d.updBed b f).beyondSets = d.beyondSets := rfl
theorem Dev.beyondSets_updCtx (c : Nat) (f : Ctx → Ctx) : (d.updCtx c f).beyondSets = d.beyondSets := rfl
theorem Dev.beyondSets_updPlan (p : Nat) (f : Plan → Plan) : (d.updPlan p f).beyondSets = d.beyondSets := rfl
theorem Dev.beyondSets_updTensor (t : Nat) (f : Tensor → Tensor) : (d.updTensor t f).beyondSets = d.beyondSets := rfl
theorem Dev.beyondSets_updDom (x : Nat) (f : Dom → Dom) : (d.updDom x f).beyondSets = d.beyondSets := rfl

/-- A change of a register that is not among the low ones. -/
theorem Dev.beyondSets_wr (r : RegRow) (i : Nat) (w : Word) (hr : 0x200000 ≤ r.base) :
    (d.wr r i w).beyondSets = d.beyondSets := by
  refine SetLeft.ext rfl rfl rfl (funext fun a => funext fun v => ?_)
  by_cases ha : a < 0x200000
  · refine (if_pos ha).trans ((tab_get_set_other _ _ _ _ _ _ ?_).trans (if_pos ha).symm)
    rw [RegRow.addr]
    omega
  · exact (if_neg ha).trans (if_neg ha).symm

theorem Dev.beyondSets_wrapInc (r : RegRow) (i : Nat) (f : Fld) (k : Nat) (hr : 0x200000 ≤ r.base) : (d.wrapInc r i f k).beyondSets = d.beyondSets :=
  d.beyondSets_wr _ _ _ hr

theorem Dev.beyondSets_satInc (r : RegRow) (i : Nat) (f : Fld) (k : Nat) (hr : 0x200000 ≤ r.base) : (d.satInc r i f k).beyondSets = d.beyondSets :=
  d.beyondSets_wr _ _ _ hr

/-- A change of the account of a set that leaves whether it is fenced. -/
theorem Dev.beyondSets_updSq (s : Nat) (f : SetQ → SetQ) (hf : ∀ q, (f q).fenced = q.fenced) :
    (d.updSq s f).beyondSets = d.beyondSets := by
  refine SetLeft.ext rfl rfl (funext fun k => ?_) rfl
  by_cases h : k = s
  · subst h
    exact (congrArg SetQ.fenced (d.sq_updSq_same k f)).trans (hf _)
  · exact congrArg SetQ.fenced (d.sq_updSq_other _ _ _ h)

/-- A change of a controller that leaves its failed channels. -/
theorem Dev.beyondSets_updInst (i : Nat) (f : Inst → Inst) (hf : ∀ x, (f x).failed = x.failed) :
    (d.updInst i f).beyondSets = d.beyondSets := by
  refine SetLeft.ext rfl (funext fun k => ?_) rfl rfl
  by_cases h : k = i
  · subst h
    exact (congrArg Inst.failed (d.inst_updInst_same k f)).trans (hf _)
  · exact congrArg Inst.failed (d.inst_updInst_other _ _ _ h)

/-- A change of a port that leaves its state. -/
theorem Dev.beyondSets_updPort (p : Nat) (f : Port → Port) (hf : ∀ x, (f x).st = x.st) :
    (d.updPort p f).beyondSets = d.beyondSets := by
  refine SetLeft.ext (FenceLeft.ext rfl (funext fun k => ?_)) rfl rfl rfl
  by_cases h : k = p
  · subst h
    exact (congrArg Port.st (d.port_updPort_same k f)).trans (hf _)
  · exact congrArg Port.st (d.port_updPort_other _ _ _ h)

theorem Dev.beyondSets_discharge (m : Nat) (l : List (Nat × Nat)) : (d.discharge m l).beyondSets = d.beyondSets :=
  d.beyondSets_each _ _ fun e _ => by apply Dev.beyondSets_updSq; exact fun _ => rfl

theorem Dev.beyondSets_accrue (i : Nat) : (d.accrue i).beyondSets = d.beyondSets := by
  unfold Dev.accrue
  split
  · rfl
  · exact d.beyondSets_updInst i _ fun _ => rfl

theorem cntOf_base (i : Nat) : 0x200000 ≤ (cntOf i).1.base := by
  unfold cntOf
  split <;> exact of_decide_eq_true rfl

theorem trainOf_base (i : Nat) : 0x200000 ≤ (trainOf i).1.base := by
  unfold trainOf
  split <;> exact of_decide_eq_true rfl

theorem Dev.beyondSets_burst (i : Nat) (p : Piece) : (d.burst i p).beyondSets = d.beyondSets := by
  have hcnt := cntOf_base i
  unfold Dev.burst
  extract_lets x part key open_ now
  split
  next r j hc =>
  rw [hc] at hcnt
  extract_lets d1 d2
  have h1 : d1.beyondSets = d.beyondSets := d.beyondSets_wrapInc r j _ _ hcnt
  have h2 : d2.beyondSets = d.beyondSets := by
    unfold d2
    split
    · exact (d1.beyondSets_wrapInc r j _ _ hcnt).trans h1
    · exact h1
  clear_value d2
  split
  extract_lets d3
  have h3 : d3.beyondSets = d.beyondSets := Eq.trans (by apply Dev.beyondSets_updInst; exact fun _ => rfl) h2
  split
  · exact h3
  · refine Eq.trans ?_ h3
    apply Dev.beyondSets_updSq
    intro q
    split <;> rfl

theorem Dev.beyondSets_clockStop (i : Nat) (st : InstSt) : (d.clockStop i st).beyondSets = d.beyondSets :=
  Eq.trans (by apply Dev.beyondSets_updInst; exact fun _ => rfl)
    ((Dev.beyondSets_each _ _ _ fun e p => e.beyondSets_burst i p).trans (d.beyondSets_accrue i))

theorem Dev.beyondSets_toSelfRefresh (i : Nat) : (d.toSelfRefresh i).beyondSets = d.beyondSets := by
  unfold Dev.toSelfRefresh
  dsimp only
  split
  · exact d.beyondSets_clockStop i _
  · rfl

theorem Dev.beyondSets_pressureAll : d.pressureAll.beyondSets = d.beyondSets := by
  refine d.beyondSets_each _ _ fun e s => ?_
  unfold Dev.pressureCheck
  split
  · rfl
  split
  · rfl
  extract_lets f q data
  split
  · exact (Dev.beyondSets_event _ _ _ _ _).trans (by apply Dev.beyondSets_updSq; exact fun _ => rfl)
  split
  · exact (Dev.beyondSets_event _ _ _ _ _).trans (Eq.trans (by apply Dev.beyondSets_updSq; exact fun _ => rfl) (show Dev.beyondSets _ = e.beyondSets from rfl))
  · rfl

theorem Dev.beyondSets_jRetire (grp x : Nat) : (d.jRetire grp x).beyondSets = d.beyondSets := rfl

theorem Dev.beyondSets_abandon (x : Nat) : (d.abandon x).beyondSets = d.beyondSets := by
  unfold Dev.abandon
  split
  · rfl
  next m _ =>
  split
  · rfl
  extract_lets d1 d2
  have h1 : d1.beyondSets = d.beyondSets := rfl
  have h2 : d2.beyondSets = d1.beyondSets := by
    unfold d2
    split
    · exact (Dev.beyondSets_discharge _ _ _).trans (d1.beyondSets_satInc _ _ _ _ (by decide))
    · rfl
  exact (Dev.beyondSets_pressureAll _).trans ((d2.beyondSets_jRetire _ _).trans (h2.trans h1))

theorem Dev.beyondSets_raiseShortfall (s : Nat) : (d.raiseShortfall s).beyondSets = d.beyondSets := by
  unfold Dev.raiseShortfall
  extract_lets q data d1 shares d2
  have h1 : d1.beyondSets = d.beyondSets := d.beyondSets_event _ _ _ _
  have h2 : d2.beyondSets = d1.beyondSets := d1.beyondSets_each _ _ fun e n => by
    split
    · exact e.beyondSets_event _ _ _ _
    · rfl
  exact Eq.trans (by apply Dev.beyondSets_updSq; exact fun _ => rfl) (h2.trans h1)

theorem Dev.beyondSets_setK (s k cause : Nat) : (d.setK s k cause).beyondSets = d.beyondSets := by
  unfold Dev.setK
  extract_lets q d1 d2 held
  split
  · apply Dev.beyondSets_updSq
    exact fun _ => rfl
  have h1 : d1.beyondSets = d.beyondSets := d.beyondSets_each _ _ fun e i => e.beyondSets_accrue i
  have h2 : d2.beyondSets = d.beyondSets := Eq.trans (by apply Dev.beyondSets_updSq; exact fun _ => rfl) h1
  split
  · exact Eq.trans (by apply Dev.beyondSets_updSq; exact fun _ => rfl) h2
  · exact (d2.beyondSets_raiseShortfall s).trans h2

theorem Dev.beyondSets_release (id : Nat) : (d.release id).beyondSets = d.beyondSets := by
  unfold Dev.release
  split
  · rfl
  · exact (Dev.beyondSets_updReq _ _ _).trans (d.beyondSets_discharge _ _)

theorem Dev.beyondSets_creditBack (id n : Nat) : (d.creditBack id n).beyondSets = d.beyondSets := by
  unfold Dev.creditBack
  split
  · rfl
  · exact d.beyondSets_updPort _ _ fun _ => rfl

theorem Dev.beyondSets_failReq (id st : Nat) : (d.failReq id st).beyondSets = d.beyondSets :=
  (Dev.beyondSets_updReq _ _ _).trans ((Dev.beyondSets_creditBack _ _ _).trans (d.beyondSets_release id))

theorem Dev.beyondSets_setMem (l : List Host.Cell) : ({ d with mem := l } : Dev).beyondSets = d.beyondSets := rfl

theorem Dev.beyondSets_memPut (s ga : Nat) (c : Code) : (d.memPut s ga c).beyondSets = d.beyondSets :=
  (congrArg Dev.beyondSets (d.memPut_eq s ga c)).trans (d.beyondSets_setMem _)

/-- What the fence of a set leaves alone: all that, but for that set. -/
structure Dev.otherSets (s : Nat) (e : Dev) : Prop where
  base : e.beyondFence = d.beyondFence
  failed : ∀ i, (e.inst i).failed = (d.inst i).failed
  fenced : ∀ k, k ≠ s → e.setFenced k = d.setFenced k
  low : ∀ a v, a < 0x200000 → e.regs.get a v = d.regs.get a v

variable {d} in
theorem Dev.otherSets_of_eq {s : Nat} {e : Dev} (h : e.beyondSets = d.beyondSets) : d.otherSets s e where
  base := congrArg SetLeft.base h
  failed := fun i => congrFun (congrArg SetLeft.failed h) i
  fenced := fun k _ => congrFun (congrArg SetLeft.fenced h) k
  low := fun a v ha => ((if_pos ha).symm.trans (congrFun (congrFun (congrArg SetLeft.low h) a) v)).trans (if_pos ha)

variable {d} in
theorem Dev.otherSets_trans {s : Nat} {e f : Dev} (h : d.otherSets s e) (k : e.otherSets s f) : d.otherSets s f where
  base := k.base.trans h.base
  failed := fun i => (k.failed i).trans (h.failed i)
  fenced := fun j hj => (k.fenced j hj).trans (h.fenced j hj)
  low := fun a v ha => (k.low a v ha).trans (h.low a v ha)

theorem Dev.otherSets_fenceSet (s cause : Nat) : d.otherSets s (d.fenceSet s cause) := by
  unfold Dev.fenceSet
  split
  · exact Dev.otherSets_of_eq rfl
  split
  · exact Dev.otherSets_of_eq rfl
  extract_lets lie ids d1 hit d2 d3 d4 xs d5 d6
  have h1 : d1.beyondSets = d.beyondSets := d.beyondSets_each _ _ fun e i =>
    Eq.trans (by apply Dev.beyondSets_updInst; exact fun _ => rfl) (e.beyondSets_accrue i)
  have h2 : d2.beyondSets = d1.beyondSets := d1.beyondSets_each _ _ fun e r => e.beyondSets_each _ _ fun e' u => e'.beyondSets_memPut _ _ _
  have h3 : d3.beyondSets = d2.beyondSets := d2.beyondSets_each _ _ fun e id => e.beyondSets_failReq id 0x07
  have h4 : d3.otherSets s d4 := ⟨rfl, fun _ => rfl, fun k hk => congrArg SetQ.fenced (d3.sq_updSq_other _ _ _ hk), fun _ _ _ => rfl⟩
  have h5 : d5.beyondSets = d4.beyondSets := d4.beyondSets_each _ _ fun e x => e.beyondSets_abandon x
  have h6 : d6.beyondSets = d5.beyondSets := d5.beyondSets_setK _ _ _
  have hbefore : d.otherSets s d3 := Dev.otherSets_of_eq (h3.trans (h2.trans h1))
  have hafter : d4.otherSets s (d6.safety 2 0x12 (s + cause * 2 ^ 8)) := Dev.otherSets_of_eq ((d6.beyondSets_safety _ _ _).trans (h6.trans h5))
  exact Dev.otherSets_trans hbefore (Dev.otherSets_trans h4 hafter)

theorem Dev.beyondFence_updInst (i : Nat) (f : Inst → Inst) : (d.updInst i f).beyondFence = d.beyondFence := rfl

theorem Dev.beyondFence_failChans (i : Nat) (mask : BitVec 4) (cause : Nat) :
    (d.failChans i mask cause).beyondFence = d.beyondFence := by
  unfold Dev.failChans
  extract_lets d1
  split
  · exact (d1.otherSets_fenceSet _ _).base.trans (d.beyondFence_updInst i _)
  · exact d.beyondFence_updInst i _

/-- Channels that fail are failed from then on. -/
theorem Dev.failChans_failed (i : Nat) (mask : BitVec 4) (cause : Nat) :
    ((d.failChans i mask cause).inst i).failed = (d.inst i).failed ||| mask := by
  unfold Dev.failChans
  extract_lets d1
  have h1 : (d1.inst i).failed = (d.inst i).failed ||| mask := congrArg Inst.failed (d.inst_updInst_same i _)
  split
  · exact ((d1.otherSets_fenceSet _ _).failed i).trans h1
  · exact h1

theorem Dev.beyondSets_logPut (die e : Nat) : (d.logPut die e).beyondSets = d.beyondSets := by
  unfold Dev.logPut
  extract_lets h d1 d2 full d3 d4
  have h2 : d2.beyondSets = d.beyondSets := (d1.beyondSets_wr _ _ _ (by decide)).trans (d.beyondSets_wr _ _ _ (by decide))
  have h3 : d3.beyondSets = d2.beyondSets := by
    unfold d3
    split
    · exact d2.beyondSets_wrapInc _ _ _ _ (by decide)
    · rfl
  have h4 : d4.beyondSets = d3.beyondSets := by
    unfold d4
    split <;> rfl
  exact (d4.beyondSets_wr _ _ _ (by decide)).trans (h4.trans (h3.trans h2))

theorem Dev.beyondSets_log (x code : Nat) (lasting : Bool) (detail : Nat) :
    (d.log x code lasting detail).beyondSets = d.beyondSets := by
  unfold Dev.log
  dsimp only
  split
  · exact (Dev.beyondSets_event _ _ _ _ _).trans (d.beyondSets_logPut _ _)
  · exact d.beyondSets_logPut _ _

theorem Dev.beyondSets_trainLog (i c g : Nat) (lasting : Bool) : (d.trainLog i c g lasting).beyondSets = d.beyondSets := by
  unfold Dev.trainLog
  extract_lets d1
  have h1 : d1.beyondSets = d.beyondSets := by
    unfold d1
    split
    · rfl
    · exact d.beyondSets_satInc _ _ _ _ (trainOf_base i)
  exact (d1.beyondSets_log _ _ _ _).trans h1

theorem Dev.beyondFence_replayStart (i : Nat) : (d.replayStart i).beyondFence = d.beyondFence := by
  unfold Dev.replayStart
  extract_lets x near n d1
  split
  · rfl
  have h1 : d1.beyondFence = d.beyondFence := d.beyondFence_updInst i _
  split
  · exact (Dev.beyondFence_failChans _ i _ _).trans ((congrArg SetLeft.base (Dev.beyondSets_trainLog _ i _ _ _)).trans h1)
  · exact (Dev.beyondFence_updInst _ i _).trans ((congrArg SetLeft.base (d1.beyondSets_clockStop i _)).trans h1)

theorem Dev.beyondSets_slotIdle (t : Nat) (b : Bool) : (d.slotIdle t b).beyondSets = d.beyondSets := by
  unfold Dev.slotIdle
  extract_lets g d1
  have h1 : d1.beyondSets = d.beyondSets := rfl
  split
  · split
    · exact (d1.beyondSets_event _ _ _ _).trans h1
    · exact h1
  · rfl

theorem Dev.beyondSets_refsRelease (l : List (Nat × Nat)) : (d.refsRelease l).beyondSets = d.beyondSets :=
  d.beyondSets_each _ _ fun e _ => (Dev.beyondSets_slotIdle _ _ _).trans (e.beyondSets_updTensor _ _)

theorem Dev.beyondSets_clayRelease (c : Nat) : (d.clayRelease c).beyondSets = d.beyondSets :=
  (Dev.beyondSets_updCtx _ c _).trans (d.beyondSets_each _ _ fun _ _ => Dev.beyondSets_refsRelease _ _)

theorem Dev.beyondSets_loessFence (j : Nat) : (d.loessFence j).beyondSets = d.beyondSets := by
  unfold Dev.loessFence
  extract_lets mine d1 d2
  have h1 : d1.beyondSets = d.beyondSets := d.beyondSets_each _ _ fun e m => by
    split
    · rfl
    · exact e.beyondSets_abandon _
  have h2 : d2.beyondSets = d1.beyondSets := d1.beyondSets_each _ _ fun e p =>
    (Dev.beyondSets_updPlan _ p _).trans (e.beyondSets_discharge _ _)
  refine (d2.beyondSets_each _ _ fun e p => ?_).trans (h2.trans h1)
  split
  · exact e.beyondSets_updPlan p _
  · rfl

/-- The registers of a port are back at their reset values. -/
theorem Dev.beyondSets_olyClear (p : Nat) : (d.olyClear p).beyondSets = d.beyondSets :=
  Dev.each_same_on d Dev.beyondSets _ _ fun e r hr => e.beyondSets_wr r p _ (by
    simp only [List.mem_cons, List.not_mem_nil, or_false] at hr
    rcases hr with rfl | rfl | rfl | rfl | rfl | rfl | rfl | rfl <;> decide)

theorem Dev.beyondSets_portTimerZero (p : Nat) : (d.portTimerZero p).beyondSets = d.beyondSets := by
  have h1 : (d.timerZero (portDom p)).beyondSets = d.beyondSets := rfl
  exact Eq.trans (show _ = ((d.timerZero (portDom p)).updPort p fun x => { x with since := 0, ackAt := 0 }).beyondSets from rfl)
    (Eq.trans (by apply Dev.beyondSets_updPort; exact fun _ => rfl) h1)

theorem Dev.beyondSets_portResetEffects (p : Nat) : (d.portResetEffects p).beyondSets = d.beyondSets := by
  unfold Dev.portResetEffects
  extract_lets mine d1 d2 d3
  have h1 : d1.beyondSets = d.beyondSets := d.beyondSets_each _ _ fun e r =>
    (Dev.beyondSets_refsRelease _ _).trans (e.beyondSets_discharge _ _)
  have h3 : d3.beyondSets = d1.beyondSets :=
    Eq.trans (by apply Dev.beyondSets_updPort; exact fun _ => rfl) (show Dev.beyondSets d2 = d1.beyondSets from rfl)
  have h4 : (d3.olyClear p).beyondSets = d3.beyondSets := d3.beyondSets_olyClear p
  have h5 : ((d3.olyClear p).portTimerZero p).beyondSets = (d3.olyClear p).beyondSets := Dev.beyondSets_portTimerZero _ _
  have h6 : (((d3.olyClear p).portTimerZero p).fmEnd p).beyondSets = ((d3.olyClear p).portTimerZero p).beyondSets := by
    unfold Dev.fmEnd
    split <;> rfl
  exact h6.trans (h5.trans (h4.trans (h3.trans h1)))

theorem Dev.beyondSets_countFence (x cause : Nat) : (d.countFence x cause).beyondSets = d.beyondSets := by
  have hmark : (d.rateMark x).beyondSets = d.beyondSets := by
    unfold Dev.rateMark
    split <;> rfl
  exact (Dev.beyondSets_updDom _ _ _).trans ((Dev.beyondSets_satInc _ row_SAF_CNT 0 f_SAF_CNT_FENCES 1 (by decide)).trans hmark)

/-- A port that fails writes, of ports, that one. -/
theorem Dev.beyondFence_portFail (p cause domCause : Nat) :
    (d.portFail p cause domCause).beyondFence.rest = d.beyondFence.rest := by
  unfold Dev.portFail
  split
  · rfl
  extract_lets d1 d2 d3
  have h1 : d1.beyondFence = d.beyondFence := congrArg SetLeft.base (d.beyondSets_portResetEffects p)
  have h2 : d2.beyondFence.rest = d1.beyondFence.rest := rfl
  have h3 : d3.beyondSets = d2.beyondSets := (Dev.beyondSets_updDom _ _ _).trans (d2.beyondSets_countFence _ _)
  have h4 := (d3.beyondSets_safety 0 0x10 (portDom p + domCause * 2 ^ 12)).trans h3
  exact (congrArg (fun x => x.base.rest) h4).trans (h2.trans (congrArg FenceLeft.rest h1))

/-- What fails with a domain that is no port's leaves the states of the ports. -/
theorem Dev.beyondFence_fenceEffects (x cause : Nat) (hx : ¬ (0x13C ≤ x ∧ x < 0x14C)) :
    (d.fenceEffects x cause).beyondFence = d.beyondFence := by
  unfold Dev.fenceEffects
  split
  · split
    · rfl
    split
    · rfl
    dsimp only
    split <;> rfl
  split
  · split
    · rfl
    extract_lets k both d1 cs
    have h1 : d1.beyondSets = d.beyondSets := rfl
    exact congrArg SetLeft.base ((d1.beyondSets_each _ _ fun e c => (Dev.beyondSets_updCtx _ c _).trans (e.beyondSets_clayRelease c)).trans h1)
  split
  · exact d.beyondFence_replayStart _
  split
  · exact absurd ⟨by omega, ‹_›⟩ hx
  · exact congrArg SetLeft.base (d.beyondSets_loessFence _)

theorem Dev.beyondFence_domFence (x cause : Nat) : (d.domFence x cause).beyondFence.rest = d.beyondFence.rest := by
  unfold Dev.domFence
  split
  · rfl
  split
  · exact d.beyondFence_portFail _ _ _
  next hx =>
  extract_lets t recent rule third d1 d2 d3 d4
  have h2 : d2.beyondSets = d.beyondSets := (d1.beyondSets_updDom x _).trans (d.beyondSets_countFence x cause)
  have h3 : d3.beyondSets = d.beyondSets := (d2.beyondSets_safety _ _ _).trans h2
  have h4 : d4.beyondFence.rest = d.beyondFence.rest :=
    congrArg FenceLeft.rest ((d3.beyondFence_fenceEffects x cause hx).trans (congrArg SetLeft.base h3))
  split
  · exact h4
  · refine Eq.trans ?_ h4
    unfold Dev.domTimerZero
    split
    · rfl
    split
    · rfl
    split <;> rfl

/-! ### What a failure of the device never reaches (R360) -/

/-- What a failure of the device leaves alone: the rest of the device, the states of its ports, and which sets are fenced. -/
@[ext] structure FailureLeft where
  rest : Dev
  portSt : Nat → PortSt
  fenced : Nat → Bool

def Dev.beyondFailure : FailureLeft where
  rest := { d with
    beds := [], cplHold := [], ctxs := [], evHold := [], evq := [], faultN := false, fmRing := {}, freezes := .running, hosts := [],
    inflight := [], insts := [], out := [], portRing := [], ports := [], rateDirty := 0, regs := [], reqs := [], setq := [],
    upd := {}, win := [], wire := [] }
  portSt := fun p => (d.port p).st
  fenced := d.setFenced

theorem Dev.beyondFailure_events {e : Dev} (h : d.eventsOnly e) : e.beyondFailure = d.beyondFailure :=
  FailureLeft.ext (congrArg (fun x : Dev => x.beyondFailure.rest) h.rest :) (funext fun p => Dev.eventsOnly_port_st h p)
    (congrArg (fun x : Dev => x.beyondFailure.fenced) h.rest :)

/-! ### What a completion never reaches (R334, R335) -/

/-- The ends of the submission ring of a queue. -/
def Ring.ends (r : Ring) : Nat × Nat := (r.sqHead, r.sqTail)

/-- What a completion leaves alone: the rest of the device, the states of its ports, the contexts but for their rings and stamps, the ends
of the submission rings, and the registers other than the counters of the ports. -/
@[ext] structure AnswerLeft where
  rest : Dev
  portSt : Nat → PortSt
  ctx : Nat → Ctx
  ends : Queue → Nat × Nat
  low : Nat → Word → Word

def Dev.beyondAnswer : AnswerLeft where
  rest := { d with
    cplHold := [], ctxs := [], evHold := [], evq := [], fmRing := {}, inflight := [], out := [], portRing := [], ports := [], regs := [],
    win := [], wire := [] }
  portSt := fun p => (d.port p).st
  ctx := fun k => (d.ctx k).besideRing
  ends := fun q => (d.ring q).ends
  low := fun a v => if a < 0xE00200 then d.regs.get a v else 0

theorem Dev.beyondAnswer_events {e : Dev} (h : d.eventsOnly e) : e.beyondAnswer = d.beyondAnswer := by
  refine AnswerLeft.ext (congrArg (fun x : Dev => x.beyondAnswer.rest) h.rest :) (funext fun p => Dev.eventsOnly_port_st h p)
    (congrArg (fun x : Dev => x.beyondAnswer.ctx) h.rest :) (congrArg (fun x : Dev => x.beyondAnswer.ends) h.rest :) (funext fun a => funext fun v => ?_)
  by_cases ha : a < 0xE00200
  · refine (if_pos ha).trans ((h.regs a v fun p _ hp => ?_).trans (if_pos ha).symm)
    rw [hp, RegRow.addr] at ha
    exact absurd (Nat.lt_of_le_of_lt (Nat.le_add_right _ _) ha) (by decide)
  · exact (if_neg ha).trans (if_neg ha).symm

/-- A change of a context that leaves all but its ring and its stamp, and the ends of its ring. -/
theorem Dev.beyondAnswer_updCtx (c : Nat) (f : Ctx → Ctx) (hf : (f (d.ctx c)).besideRing = (d.ctx c).besideRing)
    (hr : (f (d.ctx c)).ring.ends = (d.ctx c).ring.ends) : (d.updCtx c f).beyondAnswer = d.beyondAnswer := by
  have hctx : ∀ {α : Type} (π : Ctx → α), π (f (d.ctx c)) = π (d.ctx c) → ∀ k, π ((d.updCtx c f).ctx k) = π (d.ctx k) := fun π h k => by
    by_cases hk : k = c
    · subst hk
      exact (congrArg π (d.ctx_updCtx_same k f)).trans h
    · exact congrArg π (d.ctx_updCtx_other _ _ _ hk)
  refine AnswerLeft.ext rfl rfl (funext fun k => hctx Ctx.besideRing hf k) (funext fun q => ?_) rfl
  cases q with
  | port n => rfl
  | ctx k => exact hctx (fun x => x.ring.ends) hr k.val
  | fm => rfl

theorem Dev.beyondAnswer_setRing (q : Queue) (r : Ring) (hr : r.ends = (d.ring q).ends) : (d.setRing q r).beyondAnswer = d.beyondAnswer := by
  cases q with
  | port n =>
    refine AnswerLeft.ext rfl rfl rfl (funext fun q => ?_) rfl
    cases q with
    | port m =>
      by_cases hm : m.val = n.val
      · obtain rfl : m = n := Fin.ext hm
        exact (congrArg Ring.ends (tab_get_set_same _ _ _ _)).trans hr
      · exact congrArg Ring.ends (tab_get_set_other _ _ _ _ _ _ hm)
    | ctx k => rfl
    | fm => rfl
  | ctx c => exact d.beyondAnswer_updCtx c.val (fun x => { x with ring := r }) rfl hr
  | fm =>
    refine AnswerLeft.ext rfl rfl rfl (funext fun q => ?_) rfl
    cases q with
    | port m => rfl
    | ctx k => rfl
    | fm => exact hr

theorem Dev.beyondAnswer_cqWait (q : Queue) (e : Gran × Gran) (notify : Bool) : (d.cqWait q e notify).beyondAnswer = d.beyondAnswer :=
  d.beyondAnswer_setRing _ _ rfl

theorem Dev.beyondAnswer_winSet (p o : Nat) (g : Gran) : (d.winSet p o g).beyondAnswer = d.beyondAnswer := rfl

theorem Dev.beyondAnswer_cqWinPut (q : Queue) (e : Gran × Gran) : (d.cqWinPut q e).beyondAnswer = d.beyondAnswer :=
  (Dev.beyondAnswer_events _ (Dev.eventsOnly_msg _ _ _ _)).trans
    ((Dev.beyondAnswer_setRing _ _ _ (by cases q <;> rfl)).trans ((Dev.beyondAnswer_winSet _ _ _ _).trans (d.beyondAnswer_winSet _ _ _)))

theorem Dev.beyondAnswer_cqWinFlush (q : Queue) : (d.cqWinFlush q).beyondAnswer = d.beyondAnswer := by
  refine Dev.each_same Dev.beyondAnswer _ _ (fun e x => ?_) d
  split
  · exact (Dev.beyondAnswer_cqWinPut _ _ _).trans (e.beyondAnswer_setRing _ _ rfl)
  · rfl

theorem Dev.beyondAnswer_completeNow (r : CmdRef) (st r0 r1 : Nat) (payload : Gran) (final : Bool) :
    (d.completeNow r st r0 r1 payload final).beyondAnswer = d.beyondAnswer := by
  unfold Dev.completeNow
  extract_lets d1 e
  have h1 : d1.beyondAnswer = d.beyondAnswer := by cases final <;> rfl
  clear_value d1
  split
  · exact (Dev.beyondAnswer_cqWinFlush _ _).trans ((d1.beyondAnswer_cqWait _ _ _).trans h1)
  · split
    · exact h1
    · exact (Dev.beyondAnswer_cqWinFlush _ _).trans ((d1.beyondAnswer_cqWait _ _ _).trans h1)
  · next i _ =>
    extract_lets t d2
    have h2 : d2.beyondAnswer = d.beyondAnswer := (d1.beyondAnswer_updCtx i.val (fun x => { x with stamp := t }) rfl rfl).trans h1
    clear_value d2
    split
    · exact (d2.beyondAnswer_cqWait _ _ _).trans h2
    · exact h2

/-- A completion writes rings, stamps, windows, commands in flight and what leaves, or is held: the rest of the device stays. -/
theorem Dev.beyondAnswer_complete (r : CmdRef) (st r0 r1 : Nat) (payload : Gran) (final : Bool) :
    (d.complete r st r0 r1 payload final).beyondAnswer = d.beyondAnswer := by
  unfold Dev.complete
  split
  · rfl
  · exact d.beyondAnswer_completeNow _ _ _ _ _ _

theorem Dev.beyondAnswer_cplFlush : d.cplFlush.beyondAnswer = d.beyondAnswer := by
  have hheld : ({ d with cplHold := [] } : Dev).beyondAnswer = d.beyondAnswer := rfl
  exact (Dev.each_same Dev.beyondAnswer _ _ (fun e x => e.beyondAnswer_completeNow _ _ _ _ _ _) _).trans hheld

/-- The part that a failure leaves of what a completion leaves. -/
def AnswerLeft.inFailure (x : AnswerLeft) : FailureLeft := ⟨x.rest.beyondFailure.rest, x.portSt, x.rest.setFenced⟩

variable {d} in
theorem Dev.beyondFailure_of_answer {e : Dev} (h : e.beyondAnswer = d.beyondAnswer) : e.beyondFailure = d.beyondFailure :=
  (congrArg AnswerLeft.inFailure h :)

theorem Dev.beyondFailure_complete (r : CmdRef) (st r0 r1 : Nat) (payload : Gran) (final : Bool) :
    (d.complete r st r0 r1 payload final).beyondFailure = d.beyondFailure :=
  Dev.beyondFailure_of_answer (d.beyondAnswer_complete _ _ _ _ _ _)

theorem Dev.beyondFailure_event (dst : Option Nat) (code ctx data : Nat) : (d.event dst code ctx data).beyondFailure = d.beyondFailure :=
  d.beyondFailure_events (d.eventsOnly_event _ _ _ _)

theorem Dev.beyondFailure_faultPin : d.faultPin.beyondFailure = d.beyondFailure :=
  Dev.beyondFailure_events { d with faultN := d.faultCond } d.faultPin_spec

theorem Dev.beyondFailure_each {α : Type} (l : List α) (f : Dev → α → Dev) (hf : ∀ e x, (f e x).beyondFailure = e.beyondFailure) :
    (d.each l f).beyondFailure = d.beyondFailure := Dev.each_same Dev.beyondFailure l f hf d

/-- A change of the account of a set that leaves whether it is fenced. -/
theorem Dev.beyondFailure_updSq (s : Nat) (f : SetQ → SetQ) (hf : ∀ q, (f q).fenced = q.fenced) :
    (d.updSq s f).beyondFailure = d.beyondFailure := by
  refine FailureLeft.ext rfl rfl (funext fun k => ?_)
  by_cases h : k = s
  · subst h
    exact (congrArg SetQ.fenced (d.sq_updSq_same k f)).trans (hf _)
  · exact congrArg SetQ.fenced (d.sq_updSq_other _ _ _ h)

theorem Dev.beyondFailure_updInst (i : Nat) (f : Inst → Inst) : (d.updInst i f).beyondFailure = d.beyondFailure := rfl
theorem Dev.beyondFailure_updReq (id : Nat) (f : Req → Req) : (d.updReq id f).beyondFailure = d.beyondFailure := rfl
theorem Dev.beyondFailure_updBed (b : Nat) (f : Bed → Bed) : (d.updBed b f).beyondFailure = d.beyondFailure := rfl
theorem Dev.beyondFailure_updCtx (c : Nat) (f : Ctx → Ctx) : (d.updCtx c f).beyondFailure = d.beyondFailure := rfl
theorem Dev.beyondFailure_wrapInc (r : RegRow) (i : Nat) (f : Fld) (k : Nat) : (d.wrapInc r i f k).beyondFailure = d.beyondFailure :=
  rfl

/-- A change of a port that leaves its state. -/
theorem Dev.beyondFailure_updPort (p : Nat) (f : Port → Port) (hf : ∀ x, (f x).st = x.st) :
    (d.updPort p f).beyondFailure = d.beyondFailure := by
  refine FailureLeft.ext rfl (funext fun k => ?_) rfl
  by_cases h : k = p
  · subst h
    exact (congrArg Port.st (d.port_updPort_same k f)).trans (hf _)
  · exact congrArg Port.st (d.port_updPort_other _ _ _ h)

theorem Dev.beyondFailure_accrue (i : Nat) : (d.accrue i).beyondFailure = d.beyondFailure := by
  unfold Dev.accrue
  split <;> rfl

theorem Dev.beyondFailure_burst (i : Nat) (p : Piece) : (d.burst i p).beyondFailure = d.beyondFailure := by
  unfold Dev.burst
  extract_lets x part key open_ now
  split
  extract_lets d1 d2
  have h2 : d2.beyondFailure = d.beyondFailure := by
    unfold d2
    split <;> rfl
  clear_value d2
  split
  extract_lets d3
  have h3 : d3.beyondFailure = d.beyondFailure := (d2.beyondFailure_updInst i _).trans h2
  split
  · exact h3
  · refine Eq.trans ?_ h3
    apply Dev.beyondFailure_updSq
    intro q
    split <;> rfl

theorem Dev.beyondFailure_toSelfRefresh (i : Nat) : (d.toSelfRefresh i).beyondFailure = d.beyondFailure := by
  unfold Dev.toSelfRefresh
  dsimp only
  split
  · exact (Dev.beyondFailure_updInst _ i _).trans
      ((Dev.beyondFailure_each _ _ _ fun e p => e.beyondFailure_burst i p).trans (d.beyondFailure_accrue i))
  · rfl

theorem Dev.beyondFailure_failReq (id st : Nat) : (d.failReq id st).beyondFailure = d.beyondFailure := by
  have hrelease : (d.release id).beyondFailure = d.beyondFailure := by
    unfold Dev.release
    split
    · rfl
    · exact (Dev.beyondFailure_updReq _ _ _).trans (d.beyondFailure_each _ _ fun e _ => by apply Dev.beyondFailure_updSq; exact fun _ => rfl)
  have hcredit : ((d.release id).creditBack id 1).beyondFailure = (d.release id).beyondFailure := by
    unfold Dev.creditBack
    split
    · rfl
    · exact Dev.beyondFailure_updPort _ _ _ fun _ => rfl
  exact (Dev.beyondFailure_updReq _ _ _).trans (hcredit.trans hrelease)

/-! ### The failure of the device (R360) -/

theorem Dev.beyondFailure_resume : d.resume.beyondFailure = d.beyondFailure := by
  unfold Dev.resume
  extract_lets hs _ d1
  have h1 : d1.beyondFailure = d.beyondFailure :=
    (Dev.beyondFailure_of_answer (Dev.beyondAnswer_cplFlush _)).trans (show Dev.beyondFailure { d with hosts := hs, upd := { d.upd with paused := false } } = _ from rfl)
  split
  · exact (d1.beyondFailure_events d1.eventsOnly_evFlush).trans h1
  · exact h1

theorem Dev.beyondFailure_updEnd (r : CmdRef) (st r0 : Nat) : (d.updEnd r st r0).beyondFailure = d.beyondFailure :=
  (Dev.beyondFailure_complete _ _ _ _ _ _ _).trans (show Dev.beyondFailure { d with upd := { d.upd with last := st } } = _ from rfl)

theorem Dev.beyondFailure_updAbandon (reason : Nat) : (d.updAbandon reason).beyondFailure = d.beyondFailure := by
  unfold Dev.updAbandon
  split
  · rfl
  extract_lets st _ d1
  have h1 : d1.beyondFailure = d.beyondFailure := (Dev.beyondFailure_resume _).trans
    (show Dev.beyondFailure { d with upd := { d.upd with st := st, cmd := none, buf := [], write := none, sram := [] } } = _ from rfl)
  exact (Dev.beyondFailure_event _ _ _ _ _).trans ((d1.beyondFailure_updEnd _ _ _).trans h1)

theorem Dev.beyondFailure_freezeStart : d.freezeStart.beyondFailure = d.beyondFailure := rfl

theorem Dev.beyondFailure_freezeCheck : d.freezeCheck.beyondFailure = d.beyondFailure := by
  unfold Dev.freezeCheck
  split
  · split
    · exact d.beyondFailure_freezeStart
    · rfl
  · split <;> rfl
  · rfl

/-- A device that fails notes its state and its cause, and then writes nothing beyond what a failure may write. -/
theorem Dev.deviceFailed_reaches (cause : Nat) : (d.deviceFailed cause).beyondFailure =
    if d.state = .failed then d.beyondFailure
    else ({ d with state := .failed, before := .failed, dfCause := cause } : Dev).beyondFailure := by
  unfold Dev.deviceFailed
  by_cases hst : d.state = .failed
  · rw [if_pos (by simp [hst]), if_pos hst]
  rw [if_neg (by simpa using hst), if_neg hst]
  extract_lets d1 d2 d3 cs d4 d5 d6 d7 d8
  have h2 : d2.beyondFailure = d1.beyondFailure := d1.beyondFailure_each _ _ fun e id => e.beyondFailure_failReq id 0x07
  have h3 : d3.beyondFailure = d2.beyondFailure := d2.beyondFailure_each _ _ fun e b => e.beyondFailure_updBed b _
  have h4 : d4.beyondFailure = d3.beyondFailure := rfl
  have h5 : d5.beyondFailure = d4.beyondFailure := d4.beyondFailure_each _ _ fun e i => e.beyondFailure_toSelfRefresh i
  have h6 : d6.beyondFailure = d5.beyondFailure := by
    unfold d6
    split
    · exact d5.beyondFailure_updAbandon 3
    · rfl
  have h7 : d7.beyondFailure = d6.beyondFailure := d6.beyondFailure_event _ _ _ _
  have h8 : d8.beyondFailure = d7.beyondFailure := d7.beyondFailure_each _ _ fun e p => e.beyondFailure_event _ _ _ _
  have h9 := d8.faultPin.beyondFailure_freezeCheck.trans d8.beyondFailure_faultPin
  exact h9.trans (h8.trans (h7.trans (h6.trans (h5.trans (h4.trans (h3.trans h2))))))

theorem Dev.contained_each_on {α : Type} (l : List α) (f : Dev → α → Dev) (hf : ∀ e x, x ∈ l → Dev.contained e (f e x)) :
    d.contained (d.each l f) := by
  induction l generalizing d with
  | nil => exact d.contained_refl
  | cons x t ih => exact Dev.contained_trans (hf d x List.mem_cons_self) (ih (f d x) fun e y hy => hf e y (List.mem_cons_of_mem x hy))

/-- What a mapped table holds under a key that is listed and stays listed. -/
theorem tab_get_mapV {α : Type} [DecidableEq α] (m : Tab α) (k : Nat) (c : α) (f : Nat → α → α) (h : m.get k c ≠ c)
    (hf : f k (m.get k c) ≠ c) : (m.mapV c f).get k c = f k (m.get k c) := by
  induction m with
  | nil => exact absurd rfl h
  | cons e t ih =>
    obtain ⟨i, v⟩ := e
    rw [Tab.get] at h hf ⊢
    have hmap : Tab.mapV ((i, v) :: t) c f = if f i v ≠ c then (i, f i v) :: Tab.mapV t c f else Tab.mapV t c f := by
      simp only [Tab.mapV, List.map_cons, List.filter_cons, decide_eq_true_eq]
    by_cases hi : i = k
    · subst hi
      rw [if_pos rfl] at hf ⊢
      rw [hmap, if_pos hf, Tab.get, if_pos rfl]
    rw [if_neg hi] at h hf ⊢
    by_cases hk : k < i
    · exact absurd (if_pos hk) h
    rw [if_neg hk] at h hf ⊢
    rw [hmap]
    split
    · rw [Tab.get, if_neg hi, if_neg hk]
      exact ih h hf
    · exact ih h hf

/-- The states of the ports after an operation that puts each port of a list into FAILED and leaves the others. -/
theorem Dev.each_portFailed (l : List Nat) (f : Dev → Nat → Dev)
    (hf : ∀ e p k, ((f e p).port k).st = if k = p then PortSt.failed else (e.port k).st) (k : Nat) :
    ((d.each l f).port k).st = if k ∈ l then PortSt.failed else (d.port k).st := by
  induction l generalizing d with
  | nil => exact (if_neg List.not_mem_nil).symm
  | cons p t ih =>
    refine (ih (f d p)).trans ?_
    rw [hf]
    by_cases ht : k ∈ t
    · rw [if_pos ht, if_pos (List.mem_cons_of_mem p ht)]
    · rw [if_neg ht]
      exact if_congr (by simp [ht]) rfl rfl

/-- A port as a fence of its die leaves it. -/
theorem Dev.dieFence_port (p k : Nat) : (((((d.portResetEffects p).downCause p 5).updPort p fun x => { x with st := .failed, width := 0 }).port k).st) =
    if k = p then PortSt.failed else (d.port k).st := by
  have h := congrFun (congrArg (fun x => x.base.portSt) (d.beyondSets_portResetEffects p)) k
  by_cases hk : k = p
  · rw [if_pos hk, hk, Dev.port_updPort_same]
  · rw [if_neg hk, Dev.port_updPort_other _ _ _ _ hk]
    exact h

/-- A fence of a die: what it is once its ports, domains and sets are out of service, before the device fails with cause 1. -/
structure Dev.dieOut (die cause : Nat) (e : Dev) : Prop where
  beyond : e.beyondFence.rest = ({ d with
    dieFenced := d.dieFenced ||| BitVec.ofNat 2 (2 ^ die), dieCause := d.dieCause.set die cause 0 } : Dev).beyondFence.rest
  mem : d.reqs = [] → e.mem = d.mem
  doms : e.doms = d.doms.mapV {} fun x (y : Dom) => if dieOfDom x == die && (y.st == .live || y.st == .resetting) then { y with st := .fenced } else y
  ports : ∀ p, p < 16 → dieOfPort p = die → (d.port p).st ≠ .disabled → (e.port p).st = .failed
  sets : ∀ k, k < d.strat.elim 0 (·.sets.length) → d.setDie k = die → e.setFenced k = true

/-- Every set of a list that the stratum has counts as fenced once each was fenced. -/
theorem Dev.each_setFenced (cause : Nat) (l : List Nat) (k : Nat) (hk : k ∈ l) (S : SSet) (hS : d.set? k = some S) :
    (d.each l fun d s => d.fenceSet s cause).setFenced k = true := by
  induction l generalizing d with
  | nil => exact absurd hk List.not_mem_nil
  | cons s t ih =>
    have hrest := Dev.contained_each (d.fenceSet s cause) t (fun d s => d.fenceSet s cause) fun e x => e.contained_fenceSet x cause
    by_cases ht : k ∈ t
    · refine ih (d.fenceSet s cause) ht ((congrArg (fun g : Option Strat => g.bind fun g => g.sets[k]?) (d.contained_fenceSet s cause).strat).trans hS)
    · obtain rfl : k = s := by simpa [ht] using hk
      exact hrest.fenced k (d.setFenced_fenceSet k cause S hS)

/-- The fence of a die that is in service. -/
theorem Dev.dieFence_spec (die cause : Nat) (h : bitOf d.dieFenced.toNat die = false) :
    ∃ e, d.dieOut die cause e ∧ d.dieFence die cause = (e.deviceFailed 1).faultPin := by
  unfold Dev.dieFence
  rw [h, if_neg Bool.false_ne_true]
  extract_lets d1 d2 was doms d3 d4 sets d5 d6
  have c2 : d1.contained d2 := d1.contained_each _ _ fun e p =>
    Dev.contained_trans (e.portResetEffects_spec p).1 (Dev.contained_of_kept rfl)
  have hwas : ∀ x ∈ was, ¬ (0x13C ≤ x ∧ x < 0x14C) := fun x hx => by
    have := (List.mem_filter.mp hx).2
    simp only [Bool.and_eq_true, Bool.or_eq_true, decide_eq_true_eq] at this
    omega
  have c4 : d3.contained d4 := d3.contained_each_on _ _ fun e x hx => e.contained_fenceEffects x 7 (hwas x hx)
  have c5 : d4.contained d5 := d4.contained_each _ _ fun e s => e.contained_fenceSet s 7
  have c36 : d3.contained d6 := Dev.contained_trans c4 (Dev.contained_trans c5 (d5.contained_event _ _ _ _))
  have b2 : d2.beyondFence.rest = d1.beyondFence.rest := by
    refine Dev.each_same (fun e => e.beyondFence.rest) _ _ (fun e p => ?_) d1
    exact (show _ = (e.portResetEffects p).beyondFence.rest from rfl).trans (congrArg (fun x => x.base.rest) (e.beyondSets_portResetEffects p))
  have b4 : d4.beyondFence = d3.beyondFence := d3.each_same_on Dev.beyondFence _ _
    fun e x hx => e.beyondFence_fenceEffects x 7 (hwas x hx)
  have b5 : d5.beyondFence = d4.beyondFence := d4.each_same_on Dev.beyondFence _ _ fun e s _ => (e.otherSets_fenceSet s 7).base
  have b6 : d6.beyondFence = d3.beyondFence := (congrArg SetLeft.base (d5.beyondSets_event _ _ _ _)).trans (b5.trans b4)
  refine ⟨d6, ⟨(congrArg FenceLeft.rest b6).trans b2, fun h0 => ?_, ?_, fun p hp hd hst => ?_, fun k hk hd => ?_⟩, rfl⟩
  · exact (c36.mem (c2.reqs h0)).trans (c2.mem h0)
  · exact c36.doms.trans (show doms = _ from congrArg (fun t => Tab.mapV t {} _) c2.doms)
  · refine (congrFun (congrArg FenceLeft.portSt b6) p).trans ((d1.each_portFailed _ _ (fun e p k => e.dieFence_port p k) p).trans ?_)
    by_cases hf : (d.port p).st = .failed
    · split
      · rfl
      · exact hf
    · exact if_pos (List.mem_filter.mpr ⟨List.mem_range.mpr hp, by
        change (dieOfPort p == die && decide ((d.port p).st ≠ .disabled) && decide ((d.port p).st ≠ .failed)) = true
        rw [hd, decide_eq_true hst, decide_eq_true hf, beq_self_eq_true]
        rfl⟩)
  · have hstrat : d4.strat = d.strat := c4.strat.trans c2.strat
    have hset : d4.set? k = d.set? k := congrArg (fun g : Option Strat => g.bind fun g => g.sets[k]?) hstrat
    have hmem : k ∈ sets := by
      refine List.mem_filter.mpr ⟨List.mem_range.mpr (hstrat ▸ hk), ?_⟩
      rw [Dev.setDie, hset]
      exact beq_iff_eq.mpr hd
    obtain ⟨S, hS⟩ : ∃ S, d.set? k = some S := by
      cases hg : d.strat with
      | none => simp [hg] at hk
      | some g => exact ⟨g.sets[k]'(by simpa [hg] using hk), by simp [Dev.set?, hg]⟩
    exact (Dev.contained_event d5 _ _ _ _).fenced k (d4.each_setFenced 7 sets k hmem S (hset.trans hS))

/-- What is left of a device once one of its dies is fenced. -/
theorem Dev.dieFence_leaves (die cause : Nat) (h : bitOf d.dieFenced.toNat die = false) :
    ∃ e, d.dieOut die cause e ∧ (d.dieFence die cause).faultN = true ∧ (d.dieFence die cause).beyondFailure =
      if d.state = .failed then e.beyondFailure
      else ({ e with state := .failed, before := .failed, dfCause := 1 } : Dev).beyondFailure := by
  obtain ⟨e, he, heq⟩ := d.dieFence_spec die cause h
  have hstate : e.state = d.state := (congrArg Dev.state he.beyond :)
  have hfail := (Dev.beyondFailure_faultPin (e.deviceFailed 1)).trans (e.deviceFailed_reaches 1)
  rw [hstate] at hfail
  refine ⟨e, he, ?_, heq ▸ hfail⟩
  have hfailed : (e.deviceFailed 1).state = .failed := by
    have hs := congrArg (fun x : FailureLeft => x.rest.state) (e.deviceFailed_reaches 1)
    rw [hstate] at hs
    refine hs.trans ?_
    split
    · next hd => exact hstate.trans hd
    · rfl
  have hcond : (e.deviceFailed 1).faultCond = true := by simp [Dev.faultCond, Dev.failed, hfailed]
  rw [heq, Dev.faultPin, if_pos hcond]

end

/-- Setting a bit of a die sets it. -/
theorem BitVec.getLsbD_or_die {k : Nat} (x : BitVec 2) (h : k < 2) : (x ||| BitVec.ofNat 2 (2 ^ k)).getLsbD k = true := by
  interval_cases k <;> simp

end Sys2Proof.Machine

/-! PROOF. Failures that fence a die or a set, or switch the rails off (R376, R382, R393). -/
namespace Sys2Proof.Machine

section
variable (d : Dev)

/-- The rails off: Vcore and the Marl clusters are down and memory is lost; the registers of the step rates read as not valid. -/
theorem Dev.railsOff_spec : ∃ e, d.regsOnly e ∧ d.railsOff = { e with vcoreOff := true, marlUp := 0, mem := [], memKept := false } :=
  ⟨_, d.regsOnly_each _ _ fun e k => Dev.regsOnly_trans (e.regsOnly_setFld row_GEN_STEP_RATE k f_GEN_STEP_RATE_VALID 0)
    (Dev.regsOnly_setFld _ row_GEN_STEP_RATE k f_GEN_STEP_RATE_RATE 0), rfl⟩

theorem Dev.deviceFailed_state (cause : Nat) : (d.deviceFailed cause).state = .failed := by
  have h := congrArg (fun x : FailureLeft => x.rest.state) (d.deviceFailed_reaches cause)
  split at h
  · next hst => exact h.trans hst
  · exact h

theorem Dev.deviceFailed_cause (cause : Nat) (hst : d.state ≠ .failed) : (d.deviceFailed cause).dfCause = cause := by
  have h := congrArg (fun x : FailureLeft => x.rest.dfCause) (d.deviceFailed_reaches cause)
  rwa [if_neg hst] at h

theorem Dev.deviceFailed_flash (cause : Nat) : (d.deviceFailed cause).flash = d.flash := by
  have h := congrArg (fun x : FailureLeft => x.rest.flash) (d.deviceFailed_reaches cause)
  split at h <;> exact h

/-- A LIVE domain of a die that is fenced. -/
theorem Dev.dieOut_dom {die cause x : Nat} {e : Dev} (h : d.dieOut die cause e) (hx : dieOfDom x = die) (hl : d.live x = true) :
    (e.dom x).st = .fenced := by
  have hst : (d.dom x).st = .live := by simpa [Dev.live] using hl
  have hdom : d.doms.get x {} = d.dom x := rfl
  rw [Dev.dom, h.doms, tab_get_mapV]
  · rw [hdom, if_pos (by simp [hx, hst])]
  · intro h0
    rw [hdom] at h0
    rw [h0] at hst
    exact absurd hst (by decide)
  · rw [hdom, if_pos (by simp [hx, hst])]
    intro h0
    exact DomSt.noConfusion (congrArg Dom.st h0)

/-- The device e is d after a rail, core logic or common logic failure of a die that was in service. -/
structure Dev.dieFailedTo (die cause : Nat) (e : Dev) : Prop where
  dies : e.dieFenced = d.dieFenced ||| BitVec.ofNat 2 (2 ^ die) ∧ e.dieCause.get die 0 = cause ∧ e.state = .failed ∧ e.faultN = true
  mem : d.reqs = [] → e.mem = d.mem
  cause : d.state ≠ .failed → e.dfCause = 1
  doms : ∀ x, x < 336 → dieOfDom x = die → d.live x = true → (e.dom x).st = .fenced
  ports : ∀ p, p < 16 → dieOfPort p = die → (d.port p).st ≠ .disabled → (e.port p).st = .failed
  sets : ∀ k, k < d.strat.elim 0 (·.sets.length) → d.setDie k = die → e.setFenced k = true

/-- The fence of a die that is in service takes all of it out of service, and the device fails. -/
theorem Dev.dieFailedTo_dieFence (die cause : Nat) (h : bitOf d.dieFenced.toNat die = false) :
    d.dieFailedTo die cause (d.dieFence die cause) := by
  obtain ⟨e, he, hpin, hleft⟩ := d.dieFence_leaves die cause h
  have hdies : e.dieFenced = d.dieFenced ||| BitVec.ofNat 2 (2 ^ die) := (congrArg Dev.dieFenced he.beyond :)
  have hcause : e.dieCause.get die 0 = cause :=
    (congrArg (fun x : Dev => x.dieCause.get die 0) he.beyond :).trans (tab_get_set_same _ _ _ _)
  obtain ⟨f, hf, hfst, hfc, hfe⟩ : ∃ f : Dev, (d.dieFence die cause).beyondFailure = f.beyondFailure ∧ f.state = .failed ∧
      (d.state ≠ .failed → f.dfCause = 1) ∧ f = { e with state := f.state, before := f.before, dfCause := f.dfCause } := by
    by_cases hst : d.state = .failed
    · exact ⟨e, hleft.trans (if_pos hst), (congrArg Dev.state he.beyond :).trans hst, fun h => absurd hst h, rfl⟩
    · exact ⟨_, hleft.trans (if_neg hst), rfl, fun _ => rfl, rfl⟩
  have hdoms : (d.dieFence die cause).doms = e.doms := (congrArg (fun x => x.rest.doms) hf :).trans (congrArg Dev.doms hfe :)
  have hports : ∀ p, ((d.dieFence die cause).port p).st = (e.port p).st := fun p =>
    (congrFun (congrArg FailureLeft.portSt hf) p).trans (congrArg (fun x : Dev => (x.port p).st) hfe :)
  have hsets : ∀ k, (d.dieFence die cause).setFenced k = e.setFenced k := fun k =>
    (congrFun (congrArg FailureLeft.fenced hf) k).trans (congrArg (fun x : Dev => x.setFenced k) hfe :)
  refine ⟨⟨?_, ?_, ?_, hpin⟩, fun h0 => ?_, fun hst => ?_, fun x _ hx hl => ?_, fun p hp hd hst => ?_, fun k hk hd => ?_⟩
  · exact ((congrArg (fun x => x.rest.dieFenced) hf :).trans (congrArg Dev.dieFenced hfe :)).trans hdies
  · exact ((congrArg (fun x => x.rest.dieCause.get die 0) hf :).trans (congrArg (fun x : Dev => x.dieCause.get die 0) hfe :)).trans hcause
  · exact (congrArg (fun x => x.rest.state) hf :).trans hfst
  · exact ((congrArg (fun x => x.rest.mem) hf :).trans (congrArg Dev.mem hfe :)).trans (he.mem h0)
  · exact (congrArg (fun x => x.rest.dfCause) hf :).trans (hfc hst)
  · exact (congrArg (fun t : Tab Dom => (t.get x {}).st) hdoms).trans (d.dieOut_dom he hx hl)
  · exact (hports p).trans (he.ports p hp hd hst)
  · exact (hsets k).trans (he.sets k hk hd)

/-! ### A memory rail fails -/

theorem Dev.mem_railSets (r : Rail) (k : Nat) (S : SSet) (hS : d.set? k = some S) :
    k ∈ d.railSets r ↔ S.die = r.die.val ∧ (S.sub = true ↔ r.tier.val = 1) := by
  have hlt : k < d.strat.elim 0 (·.sets.length) := by
    unfold Dev.set? at hS
    cases hg : d.strat with
    | none => simp [hg] at hS
    | some g =>
      rw [hg, Option.bind_some] at hS
      exact (List.getElem?_eq_some_iff.mp hS).1
  simp only [Dev.railSets, List.mem_filter, List.mem_range, hlt, Dev.setDie, hS, Option.elim_some, true_and, Bool.and_eq_true, beq_iff_eq]
  cases S.sub <;> simp

/-- Sets that are not among those fenced stay as they are. -/
theorem Dev.each_otherSets (l : List Nat) (cause k : Nat) (hk : k ∉ l) :
    (d.each l fun d s => d.fenceSet s cause).setFenced k = d.setFenced k :=
  d.each_same_on (fun e => e.setFenced k) l _ fun e s hs => (e.otherSets_fenceSet s cause).fenced k fun h => hk (h ▸ hs)

/-- What memory that a rail carried in self-refresh leaves behind. -/
theorem Dev.memLost_spec : ∃ e : Dev, d.memLost = e ∧ e.mem = [] ∧ e.memKept = false ∧ e.state = d.state ∧ e.reqs = d.reqs ∧
    e.strat = d.strat ∧ e.setq = d.setq ∧ e.fld row_STR_ACTIVE_INFO 0 f_STR_ACTIVE_INFO_MEM_KEPT = 0 :=
  ⟨_, rfl, rfl, rfl, rfl, rfl, rfl, rfl, Dev.fld_setFld_same _ _ _ _ _ (by decide)⟩

/-- A memory rail that fails fences exactly its sets, and memory kept in self-refresh is lost. -/
theorem Dev.railFault_spec (r : Rail) : (d.railFault r).state = d.state ∧
    (d.reqs = [] → (d.railFault r).mem = if d.heldMem = true then [] else d.mem) ∧
    (d.heldMem = true → (d.railFault r).memKept = false ∧ (d.railFault r).fld row_STR_ACTIVE_INFO 0 f_STR_ACTIVE_INFO_MEM_KEPT = 0) ∧
    ∀ k S, d.set? k = some S → (S.die = r.die.val ∧ (S.sub = true ↔ r.tier.val = 1) → (d.railFault r).setFenced k = true) ∧
      (¬ (S.die = r.die.val ∧ (S.sub = true ↔ r.tier.val = 1)) → (d.railFault r).setFenced k = d.setFenced k) := by
  unfold Dev.railFault
  extract_lets d1
  obtain ⟨hstate, hreqs, hstrat, hsetq, hmem, hlost⟩ : d1.state = d.state ∧ d1.reqs = d.reqs ∧ d1.strat = d.strat ∧ d1.setq = d.setq ∧
      d1.mem = (if d.heldMem = true then [] else d.mem) ∧
      (d.heldMem = true → d1.memKept = false ∧ d1.fld row_STR_ACTIVE_INFO 0 f_STR_ACTIVE_INFO_MEM_KEPT = 0) := by
    obtain ⟨e, he, hemem, hkept, hst, hreqs, hstrat, hsetq, hfld⟩ := d.memLost_spec
    unfold d1
    split
    · rw [he]
      exact ⟨hst, hreqs, hstrat, hsetq, hemem, fun _ => ⟨hkept, hfld⟩⟩
    · next h => exact ⟨rfl, rfl, rfl, rfl, rfl, fun h' => absurd h' h⟩
  have hset : ∀ k, d1.set? k = d.set? k := fun k => congrArg (fun g : Option Strat => g.bind fun g => g.sets[k]?) hstrat
  have hbase : (d1.each (d1.railSets r) fun d s => d.fenceSet s 5).beyondFence = d1.beyondFence :=
    Dev.each_same Dev.beyondFence _ _ (fun e s => (e.otherSets_fenceSet s 5).base) d1
  have hlow := Dev.each_same (fun e => e.rd row_STR_ACTIVE_INFO 0) (d1.railSets r) (fun d s => d.fenceSet s 5)
    (fun e s => (e.otherSets_fenceSet s 5).low _ _ (by decide)) d1
  have hcon : d1.contained (d1.each (d1.railSets r) fun d s => d.fenceSet s 5) := d1.contained_each _ _ fun e s => e.contained_fenceSet s 5
  refine ⟨(congrArg (fun x => x.rest.state) hbase :).trans hstate, fun h0 => (hcon.mem (hreqs.trans h0)).trans hmem, fun h => ?_, fun k S hS => ?_⟩
  · exact ⟨(congrArg (fun x => x.rest.memKept) hbase :).trans (hlost h).1, (congrArg f_STR_ACTIVE_INFO_MEM_KEPT.get hlow).trans (hlost h).2⟩
  · have hmemk := d1.mem_railSets r k S ((hset k).trans hS)
    refine ⟨fun h => d1.each_setFenced 5 _ k (hmemk.mpr h) S ((hset k).trans hS), fun h => ?_⟩
    exact (d1.each_otherSets _ 5 k fun hk => h (hmemk.mp hk)).trans (congrArg (fun t : Tab SetQ => (t.get k {}).fenced) hsetq)

end

/-- Settles O53. -/
theorem deviceFailures : Obligations.DeviceFailures := by
  unfold Obligations.DeviceFailures
  intro s die
  have hbit : ∀ x : BitVec 2, x.getLsbD die.val = false → bitOf x.toNat die.val = false := fun x h => h
  refine ⟨fun hv => ?_, fun hst => ?_, fun hv hdf c cause hc => ?_, fun r hst hstrat => ?_⟩
  · obtain ⟨e, he, hoff⟩ := (s.dev.deviceFailed 5).railsOff_spec
    refine ⟨_, State.devEvent_holds _ (fun d => (d.deviceFailed 5).railsOff) s hv, ?_⟩
    rw [hoff]
    exact ⟨rfl, rfl, rfl, (congrArg Dev.state he :).trans (s.dev.deviceFailed_state 5),
      fun hst => (congrArg Dev.dfCause he :).trans (s.dev.deviceFailed_cause 5 hst), (congrArg Dev.flash he :).trans (s.dev.deviceFailed_flash 5)⟩
  · obtain ⟨e, he, hoff⟩ := (s.dev.deviceFailed 4).railsOff_spec
    refine ⟨_, State.devEvent_holds (fun d => d.standbyOn && decide (die.val < 2))
      (fun d => { (d.deviceFailed 4).railsOff with thermTrip := true }) s (by simp [Dev.standbyOn, hst, die.isLt]), ?_⟩
    dsimp only
    rw [hoff]
    exact ⟨rfl, rfl, rfl, (congrArg Dev.state he :).trans (s.dev.deviceFailed_state 4),
      fun hst => (congrArg Dev.dfCause he :).trans (s.dev.deviceFailed_cause 4 hst), (congrArg Dev.flash he :).trans (s.dev.deviceFailed_flash 4)⟩
  · have hrun : exec c s = .next { s with dev := (s.dev.dieFence die.val cause).finish } := by
      have hcond : (s.dev.vcore && !bitOf s.dev.dieFenced.toNat die.val) = true := by rw [hv, hbit _ hdf]; rfl
      rcases hc with ⟨rfl, rfl⟩ | ⟨rfl, rfl⟩ | ⟨rfl, rfl⟩
      · exact State.devEvent_holds (fun d => d.vcore && !bitOf d.dieFenced.toNat die.val) (fun d => d.dieFence die.val 3) s hcond
      · exact State.devEvent_holds (fun d => d.vcore && !bitOf d.dieFenced.toNat die.val) (fun d => d.dieFence die.val 1) s hcond
      · exact State.devEvent_holds (fun d => d.vcore && !bitOf d.dieFenced.toNat die.val) (fun d => d.dieFence die.val 2) s hcond
    obtain ⟨⟨hfenced, hcause, hstate, hpin⟩, hmem, hdf, hdoms, hports, hsets⟩ := s.dev.dieFailedTo_dieFence die.val cause (hbit _ hdf)
    exact ⟨_, hrun, hfenced, hcause, hstate, hpin, hmem, hdf, hdoms, hports, hsets⟩
  · refine ⟨_, State.devEvent_holds (fun d => d.standbyOn && d.strat.isSome) (fun d => d.railFault r) s (by simp [Dev.standbyOn, hst, hstrat]), ?_⟩
    exact s.dev.railFault_spec r

end Sys2Proof.Machine

/-! PROOF. A write of a register acts field by field (R7); what board management reads (R395). -/
namespace Sys2Proof.Machine

/-! ### The fields of a word that is written -/

/-- Fields that share no bit. -/
abbrev Fld.apart (f g : Fld) : Prop := g.hi < f.lo ∨ f.hi < g.lo

theorem rows_fields : ∀ b ∈ rowBlocks, ∀ r ∈ b, r.fields.Pairwise Fld.apart ∧ ∀ f ∈ r.fields, f.hi < 64 ∧ f.lo ≤ f.hi := by decide +kernel

/-- A bit of a word whose bits under a mask are cleared where another word has them. -/
theorem Fld.clear_getLsbD (f : Fld) (old new : Word) (i : Nat) (hi : i < 64) :
    (old &&& ~~~ (new &&& f.mask)).getLsbD i =
      (old.getLsbD i && !(new.getLsbD i && (decide (f.lo ≤ i) && decide (i - f.lo < f.hi + 1 - f.lo)))) := by
  rw [BitVec.getLsbD_and, BitVec.getLsbD_not, BitVec.getLsbD_and, Fld.mask_getLsbD]
  simp [hi]

/-- What a field takes from a write of its register. -/
def Fld.written (f : Fld) (old new : Nat) : Nat :=
  match f.acc with
  | .ro => old
  | .wo => old
  | .rw => new
  | .rw1c => old &&& (f.top - new)

theorem Fld.get_write (f : Fld) (old new : Word) (h : f.hi < 64) : f.get (f.write old new) = f.written (f.get old) (f.get new) := by
  unfold Fld.write Fld.written
  cases hacc : f.acc
  case ro => rfl
  case wo => rfl
  case rw =>
    dsimp only
    rw [Fld.get_set f old _ h]
    exact Nat.mod_eq_of_lt (bits_lt _ _ _)
  case rw1c =>
    dsimp only
    apply Nat.eq_of_testBit_eq
    intro i
    have hnew : f.get new < 2 ^ (f.hi + 1 - f.lo) := bits_lt _ _ _
    rw [Nat.testBit_and, Fld.top, Nat.sub_sub, Nat.add_comm 1, Nat.testBit_two_pow_sub_succ hnew, Fld.get, Fld.get, Fld.get, bits_testBit,
      bits_testBit, bits_testBit, BitVec.testBit_toNat, BitVec.testBit_toNat, BitVec.testBit_toNat]
    by_cases hi : i < f.hi + 1 - f.lo
    · rw [Fld.clear_getLsbD _ _ _ _ (by omega)]
      simp [hi]
    · simp [hi]

/-- A field that shares no bit with the one written stays. -/
theorem Fld.get_write_apart (f g : Fld) (old new : Word) (hg : g.hi < 64) (h : f.apart g) : g.get (f.write old new) = g.get old := by
  unfold Fld.write
  split
  · exact Fld.get_set_disjoint f g old _ hg h
  · apply Nat.eq_of_testBit_eq
    intro i
    rw [Fld.get, Fld.get, bits_testBit, bits_testBit, BitVec.testBit_toNat, BitVec.testBit_toNat]
    by_cases hi : i < g.hi + 1 - g.lo
    · rw [Fld.clear_getLsbD _ _ _ _ (by omega)]
      have hout : (decide (f.lo ≤ g.lo + i) && decide (g.lo + i - f.lo < f.hi + 1 - f.lo)) = false := by
        rw [Bool.and_eq_false_iff, decide_eq_false_iff_not, decide_eq_false_iff_not]
        unfold Fld.apart at h
        omega
      simp [hout]
    · simp [hi]
  · rfl
  · rfl

theorem writeFields_get_apart (l : List Fld) (g : Fld) (old new : Word) (hg : g.hi < 64) (h : ∀ f ∈ l, f.apart g) :
    g.get (writeFields l old new) = g.get old := by
  induction l generalizing old with
  | nil => rfl
  | cons f t ih =>
    exact (ih _ fun x hx => h x (List.mem_cons_of_mem f hx)).trans (Fld.get_write_apart f g old new hg (h f List.mem_cons_self))

theorem writeFields_get (l : List Fld) (g : Fld) (old new : Word) (hg : g.hi < 64) (hl : l.Pairwise Fld.apart) (hmem : g ∈ l) :
    g.get (writeFields l old new) = g.written (g.get old) (g.get new) := by
  induction l generalizing old with
  | nil => exact absurd hmem List.not_mem_nil
  | cons f t ih =>
    rw [List.pairwise_cons] at hl
    rcases List.mem_cons.mp hmem with rfl | ht
    · exact (writeFields_get_apart t g _ new hg fun x hx => (hl.1 x hx).symm).trans (Fld.get_write g old new hg)
    · refine (ih (f.write old new) hl.2 ht).trans ?_
      rw [Fld.get_write_apart f g old new hg (hl.1 g ht)]

/-- A field of a row after a write that takes the fields in range. -/
theorem writeFields_get_row (l : List Fld) (g : Fld) (old new : Word) (ok : Fld → Bool) (hl : l.Pairwise Fld.apart)
    (hhi : ∀ f ∈ l, f.hi < 64 ∧ f.lo ≤ f.hi) (hmem : g ∈ l) :
    g.get (writeFields (l.filter ok) old new) = if ok g = true then g.written (g.get old) (g.get new) else g.get old := by
  split
  · next hok => exact writeFields_get _ g old new (hhi g hmem).1 (hl.filter _) (List.mem_filter.mpr ⟨hmem, hok⟩)
  · next hok =>
    refine writeFields_get_apart _ g old new (hhi g hmem).1 fun f hf => ?_
    obtain ⟨hfl, hfok⟩ := List.mem_filter.mp hf
    have hne : f ≠ g := fun h => hok (h ▸ hfok)
    have hsymm : Std.Symm Fld.apart := ⟨fun _ _ h => h.symm⟩
    exact hl.forall hfl hmem hne

/-- The write of a row whose write has no action of its own. -/
theorem State.rowWrite_plain (s : State) (r : RegRow) (i : Nat) (v : Word) (h : r.reg ∉ actsOnWrite) :
    s.rowWrite r i v = s.onDev fun d => d.regRange r i v fun f n => fldOk f n r.reg := by
  unfold State.rowWrite
  split
  case h_16 => rfl
  all_goals
    next hk => exact absurd (show r.reg ∈ actsOnWrite by rw [hk]; decide) h

section
variable (s : State) (a : BitVec 32)

theorem exec_registerWrite (v : Word) (hst : s.dev.state ≠ .powerUp) :
    exec (.registerWrite a v) s = .next ((s.regWrite a.toNat v).onDev Dev.finish) := congrArg _ (if_pos hst)

theorem State.regWrite_row (v : Word) {r : RegRow} (hr : rowOf a.toNat = some r) : s.regWrite a.toNat v = s.rowWrite r (r.index a.toNat) v := by
  rw [State.regWrite, hr]

theorem State.regWrite_none (v : Word) (hr : rowOf a.toNat = none) : s.regWrite a.toNat v = s := by
  rw [State.regWrite, hr]

theorem vendorMay_iff {n : Nat} {r : RegRow} (hr : rowOf n = some r) : vendorMay n = true ↔
    r ∈ rowsGEN ∨ r ∈ rowsPWR ∨ r.reg = .SAF_STATUS ∨ r.reg = .HMC_TEMP ∨ r.reg = .LMC_TEMP := by
  simp only [vendorMay, hr, Bool.or_eq_true, List.contains_iff_mem, beq_iff_eq]
  tauto

/-- The error completion of a read is a byte other than the one that says success. -/
theorem State.vendorRead_refused (n : Nat) (h : vendorMay n = false) : ∃ (b : Byte) (m : Nat), b ≠ 0 ∧ s.vendorRead n = s.sends [b] m := by
  refine ⟨if (s.dev.fresh 8).1 = 0 then 1 else (s.dev.fresh 8).1, s.dev.free + 1, ?_, ?_⟩
  · split
    · decide
    · assumption
  · rw [State.vendorRead, h]
    rfl

end

/-- Settles O56. -/
theorem registerFieldsByAccessType : Obligations.RegisterFieldsByAccessType := by
  unfold Obligations.RegisterFieldsByAccessType
  intro s a
  refine ⟨fun v r hst hr hplain => ?_, fun v hr hst => ?_, fun hs ha => ⟨fun r hr => ⟨fun hin => ?_, fun hout => ?_⟩, fun hr => ?_⟩⟩
  · obtain ⟨hapart, hhi⟩ := rowOf_all rows_fields hr
    refine ⟨_, (exec_registerWrite s a v hst).trans (by rw [State.regWrite_row s a v hr, State.rowWrite_plain s r _ v hplain]; rfl), rfl,
      fun f hf => ?_, fun k w hk => tab_get_set_other _ _ _ _ _ _ hk⟩
    change f.get ((s.dev.wr r _ (writeFields (r.fields.filter fun f => fldOk f (f.get v) r.reg) _ v)).rd r _) = _
    rw [Dev.rd_wr_same, writeFields_get_row r.fields f _ v _ hapart hhi hf]
    unfold Fld.written
    cases f.acc <;> dsimp only [Dev.fld] <;> split <;> rfl
  · rw [exec_registerWrite s a v hst, State.regWrite_none s a v hr]
    rfl
  · refine s.i3cReq_answers hs ha (fun s => s.vendorRead a.toNat) ?_
    rw [State.vendorRead, (vendorMay_iff hr).mpr hin, if_pos rfl, State.regRead, hr]
    rfl
  · obtain ⟨b, n, hb, h⟩ := s.vendorRead_refused a.toNat (Bool.eq_false_iff.mpr fun h => hout ((vendorMay_iff hr).mp h))
    exact ⟨b, n, hb, s.i3cReq_answers hs ha (fun s => s.vendorRead a.toNat) h⟩
  · obtain ⟨b, n, hb, h⟩ := s.vendorRead_refused a.toNat (by rw [vendorMay, hr])
    exact ⟨b, n, hb, s.i3cReq_answers hs ha (fun s => s.vendorRead a.toNat) h⟩

end Sys2Proof.Machine

/-! PROOF. Ceilings, the scale factor and the shortfall event of a set (R260, R263, R264). -/
namespace Sys2Proof.Machine

section
variable (d : Dev)

theorem Dev.setDie_of {k : Nat} {S : SSet} (h : d.set? k = some S) : d.setDie k = S.die := by rw [Dev.setDie, h]; rfl

/-- What a change of the account of a set leaves of it. -/
theorem Dev.sq_updSq_kept {α : Type} (k : Nat) (f : SetQ → SetQ) (π : SetQ → α) (hf : ∀ q, π (f q) = π q) :
    π ((d.updSq k f).sq k) = π (d.sq k) := (congrArg π (d.sq_updSq_same k f)).trans (hf _)

/-! ### A table of ceilings that is gone through once -/

/-- The device with ceiling i of set k replaced, and the count of its cuts. -/
def Dev.ceilSet (k i c : Nat) (cuts : SetQ → Tab Nat) : Dev := d.updSq k fun q => { q with ceil := q.ceil.set i c 0, cuts := cuts q }

/-- Only accounts of set k differ, and of that neither the best-effort counts nor the scale factor. -/
structure Dev.ceilOnly (k : Nat) (e : Dev) : Prop where
  rest : e = { d with setq := e.setq }
  be : (e.sq k).beGran = (d.sq k).beGran
  scale : (e.sq k).k = (d.sq k).k
  others : ∀ j, j ≠ k → e.sq j = d.sq j

theorem Dev.ceilOnly_refl (k : Nat) : d.ceilOnly k d := ⟨rfl, rfl, rfl, fun _ _ => rfl⟩

theorem Dev.ceilOnly_ceilSet (k i c : Nat) (cuts : SetQ → Tab Nat) : d.ceilOnly k (d.ceilSet k i c cuts) where
  rest := rfl
  be := d.sq_updSq_kept k _ SetQ.beGran fun _ => rfl
  scale := d.sq_updSq_kept k _ SetQ.k fun _ => rfl
  others := fun j hj => d.sq_updSq_other k j _ hj

theorem Dev.ceiling_ceilSet (k i c j : Nat) (cuts : SetQ → Tab Nat) :
    (d.ceilSet k i c cuts).ceiling k j = if j = i then c else d.ceiling k j :=
  (congrArg (fun q : SetQ => q.ceil.get j 0) (d.sq_updSq_same k _)).trans (tab_get_set _ _ _ _ _)

variable {d}

theorem Dev.ceilOnly_trans {k : Nat} {e f : Dev} (h : d.ceilOnly k e) (l : e.ceilOnly k f) : d.ceilOnly k f where
  rest := l.rest.trans (congrArg (fun x : Dev => { x with setq := f.setq }) h.rest)
  be := l.be.trans h.be
  scale := l.scale.trans h.scale
  others := fun j hj => (l.others j hj).trans (h.others j hj)

/-- The floor of a ceiling is of the stratum, the registers and the scale factor. -/
theorem Dev.ceilOnly_cmin {k : Nat} {e : Dev} (h : d.ceilOnly k e) (i : Nat) : e.cmin k i = d.cmin k i := by
  have hset : e.set? k = d.set? k := (congrArg (fun x : Dev => x.set? k) h.rest :)
  have hfld : ∀ f, e.fld row_QOS_CTL 0 f = d.fld row_QOS_CTL 0 f := fun f => (congrArg (fun x : Dev => x.fld row_QOS_CTL 0 f) h.rest :)
  simp only [Dev.cmin, Dev.share, Dev.tRef, hset, h.scale, hfld]

variable (d)

/-- Each ceiling of a list without repetition is replaced once, by what the device said of it before. -/
theorem Dev.each_ceilings (k : Nat) (l : List Nat) (hl : l.Nodup) (f : Dev → Nat → Dev) (c : Nat → Nat)
    (hf : ∀ e i, d.ceilOnly k e → e.ceiling k i = d.ceiling k i → e.ceilOnly k (f e i) ∧
      ∀ j, (f e i).ceiling k j = if j = i then c i else e.ceiling k j) :
    d.ceilOnly k (d.each l f) ∧ ∀ j, (d.each l f).ceiling k j = if j ∈ l then c j else d.ceiling k j := by
  suffices h : ∀ e, d.ceilOnly k e → (∀ j ∈ l, e.ceiling k j = d.ceiling k j) →
      d.ceilOnly k (e.each l f) ∧ ∀ j, (e.each l f).ceiling k j = if j ∈ l then c j else e.ceiling k j from
    h d (d.ceilOnly_refl k) fun _ _ => rfl
  induction l with
  | nil => exact fun e he _ => ⟨he, fun _ => rfl⟩
  | cons i t ih =>
    intro e he hc
    obtain ⟨hi, ht⟩ := List.nodup_cons.mp hl
    obtain ⟨hstep, hceil⟩ := hf e i he (hc i List.mem_cons_self)
    obtain ⟨hend, hall⟩ := ih ht (f e i) (Dev.ceilOnly_trans he hstep) fun j hj => by
      have hne : j ≠ i := fun h => hi (h ▸ hj)
      rw [hceil, if_neg hne]
      exact hc j (List.mem_cons_of_mem i hj)
    refine ⟨hend, fun j => (hall j).trans ?_⟩
    rw [hceil]
    by_cases hj : j ∈ t
    · rw [if_pos hj, if_pos (List.mem_cons_of_mem i hj)]
    · by_cases hji : j = i
      · rw [if_neg hj, if_pos hji, if_pos (hji ▸ List.mem_cons_self), hji]
      · rw [if_neg hj, if_neg hji, if_neg (by simp [hj, hji])]

/-! ### The update of the ceilings -/

/-- The ceilings, the counts and the level of a set after an update. -/
theorem Dev.ceilUpdate_spec (k : Nat) (S : SSet) (hS : d.set? k = some S) :
    let q := (S.insts.map d.qLevel).foldl max 0
    d.ceilUpdate k = { d with setq := (d.ceilUpdate k).setq } ∧ ((d.ceilUpdate k).sq k).beGran = [] ∧
    ((d.ceilUpdate k).sq k).qlevel = min 255 q ∧ ((d.ceilUpdate k).sq k).k = (d.sq k).k ∧
    (∀ i, i < 30 → (d.ceilUpdate k).ceiling k i =
      if d.fld row_QOS_CTL 0 f_QOS_CTL_FEEDBACK_EN ≠ 1 ∨ d.masterPath k i = false then d.ceiling k i
      else ceilNext q S.highWm S.lowWm ((d.sq k).beGran.get i 0) (d.cmin k i) (d.ceiling k i)) ∧
    ∀ j, j ≠ k → (d.ceilUpdate k).sq j = d.sq j := by
  intro q
  have hceil := d.each_ceilings k ((List.range 30).filter (d.masterPath k)) (List.nodup_range.filter _)
    (fun d i => d.ceilSet k i (ceilNext q S.highWm S.lowWm ((d.sq k).beGran.get i 0) (d.cmin k i) (d.ceiling k i))
      fun x => if decide (S.highWm < q ∧ 0 < (d.sq k).beGran.get i 0) then x.cuts.upd i 0 (· + 1) else x.cuts)
    (fun i => ceilNext q S.highWm S.lowWm ((d.sq k).beGran.get i 0) (d.cmin k i) (d.ceiling k i))
    fun e i he hc => ⟨e.ceilOnly_ceilSet k i _ _, fun j => by
      rw [Dev.ceiling_ceilSet, he.be, Dev.ceilOnly_cmin he, hc]⟩
  obtain ⟨e, he, hec, hupd⟩ : ∃ e, d.ceilOnly k e ∧ (∀ i, i < 30 → e.ceiling k i =
        if d.fld row_QOS_CTL 0 f_QOS_CTL_FEEDBACK_EN ≠ 1 ∨ d.masterPath k i = false then d.ceiling k i
        else ceilNext q S.highWm S.lowWm ((d.sq k).beGran.get i 0) (d.cmin k i) (d.ceiling k i)) ∧
      d.ceilUpdate k = e.updSq k fun x => { x with beGran := [], qlevel := min 255 q, ceilAt := e.lived (commonDom S.die) } := by
    unfold Dev.ceilUpdate
    rw [hS]
    dsimp only
    split
    · next hfb =>
      refine ⟨_, hceil.1, fun i hi => (hceil.2 i).trans ?_, rfl⟩
      have hon : ¬ d.fld row_QOS_CTL 0 f_QOS_CTL_FEEDBACK_EN ≠ 1 := by simpa using hfb
      by_cases hm : d.masterPath k i = true
      · rw [if_pos (List.mem_filter.mpr ⟨List.mem_range.mpr hi, hm⟩), if_neg (by simp [hon, hm])]
      · rw [if_neg fun h => hm (List.mem_filter.mp h).2, if_pos (Or.inr (Bool.eq_false_iff.mpr hm))]
    · next hfb =>
      exact ⟨d, d.ceilOnly_refl k, fun i _ => (if_pos (Or.inl (by simpa using hfb))).symm, rfl⟩
  rw [hupd]
  refine ⟨?_, congrArg SetQ.beGran (e.sq_updSq_same k _), congrArg SetQ.qlevel (e.sq_updSq_same k _),
    (congrArg SetQ.k (e.sq_updSq_same k _)).trans he.scale, fun i hi => ?_, fun j hj => (e.sq_updSq_other k j _ hj).trans (he.others j hj)⟩
  · exact congrArg (fun x : Dev => { x with setq := (e.updSq k fun x => { x with
      beGran := [], qlevel := min 255 q, ceilAt := e.lived (commonDom S.die) }).setq }) he.rest
  · exact (congrArg (fun q : SetQ => q.ceil.get i 0) (e.sq_updSq_same k _)).trans (hec i hi)

/-! ### The scale factor -/

/-- After a set's ceilings are raised to their floors each is at least its floor and what it was. -/
theorem Dev.ceilRaise_spec (k : Nat) : d.ceilOnly k (d.ceilRaise k) ∧ ∀ i, i < 30 → (d.ceilRaise k).ceiling k i = max (d.ceiling k i) (d.cmin k i) := by
  have h := d.each_ceilings k (List.range 30) List.nodup_range
    (fun d i => if d.ceiling k i < d.cmin k i then d.ceilSet k i (d.cmin k i) SetQ.cuts else d)
    (fun i => max (d.ceiling k i) (d.cmin k i)) fun e i he hc => by
      rw [Dev.ceilOnly_cmin he, hc]
      split
      · next hlt => exact ⟨e.ceilOnly_ceilSet k i _ _, fun j => by rw [Dev.ceiling_ceilSet, Nat.max_eq_right (Nat.le_of_lt hlt)]⟩
      · next hlt =>
        refine ⟨e.ceilOnly_refl k, fun j => ?_⟩
        split
        · next hj => rw [hj, hc, Nat.max_eq_left (Nat.not_lt.mp hlt)]
        · rfl
  exact ⟨h.1, fun i hi => (h.2 i).trans (if_pos (List.mem_range.mpr hi))⟩

/-- A shortfall is told: the event is no longer pending, and neither memory, the scale factor nor a ceiling changes. -/
theorem Dev.raiseShortfall_spec (k : Nat) : (d.raiseShortfall k).mem = d.mem ∧ ((d.raiseShortfall k).sq k).pendingEvent = false ∧
    ((d.raiseShortfall k).sq k).k = (d.sq k).k ∧ ((d.raiseShortfall k).sq k).ceil = (d.sq k).ceil := by
  unfold Dev.raiseShortfall
  extract_lets q data d1 shares d2
  have h1 : d.eventsOnly d1 := d.eventsOnly_event _ _ _ _
  have h2 : d.eventsOnly d2 := Dev.each_keeps d.eventsOnly _ _ (fun e n he => by
    split
    · exact Dev.eventsOnly_trans he (e.eventsOnly_event _ _ _ _)
    · exact he) d1 h1
  have hsq : d2.sq k = d.sq k := (congrArg (fun x : Dev => x.sq k) h2.rest :)
  refine ⟨?_, (congrArg SetQ.pendingEvent (d2.sq_updSq_same k _) :), ?_, ?_⟩
  · exact (show (d2.updSq k _).mem = d2.mem from rfl).trans (Dev.eventsOnly_mem h2)
  · exact Eq.trans (d2.sq_updSq_kept k _ SetQ.k fun _ => rfl) (congrArg SetQ.k hsq)
  · exact Eq.trans (d2.sq_updSq_kept k _ SetQ.ceil fun _ => rfl) (congrArg SetQ.ceil hsq)

/-- A scale factor that is set: memory and the ceilings stay. -/
theorem Dev.setK_spec (k n cause : Nat) : (d.setK k n cause).mem = d.mem ∧ ((d.setK k n cause).sq k).k = n ∧
    ((d.setK k n cause).sq k).ceil = (d.sq k).ceil := by
  unfold Dev.setK
  extract_lets q d1 d2 held
  have h1 : d1.mem = d.mem ∧ d1.sq k = d.sq k := by
    have h : d.acctOnly d1 := Dev.acctOnly_each _ _ fun e i => e.acctOnly_accrue i
    have hsetq : d1.setq = d.setq := Dev.each_same Dev.setq _ _ (fun e i => by
      unfold Dev.accrue
      split <;> rfl) d
    exact ⟨(congrArg Dev.mem h :), congrArg (fun t : Tab SetQ => t.get k {}) hsetq⟩
  split
  · next hk => exact ⟨rfl, Eq.trans (d.sq_updSq_kept k _ SetQ.k fun _ => rfl) hk, d.sq_updSq_kept k _ SetQ.ceil fun _ => rfl⟩
  have h2 : d2.mem = d.mem ∧ (d2.sq k).k = n ∧ (d2.sq k).ceil = (d.sq k).ceil :=
    ⟨h1.1, (congrArg SetQ.k (d1.sq_updSq_same k _) :), Eq.trans (d1.sq_updSq_kept k _ SetQ.ceil fun _ => rfl) (congrArg SetQ.ceil h1.2)⟩
  obtain ⟨hmem, hk, hceil⟩ := h2
  split
  · exact ⟨hmem, Eq.trans (d2.sq_updSq_kept k _ SetQ.k fun _ => rfl) hk, Eq.trans (d2.sq_updSq_kept k _ SetQ.ceil fun _ => rfl) hceil⟩
  · obtain ⟨hm, -, hk', hc'⟩ := d2.raiseShortfall_spec k
    exact ⟨hm.trans hmem, hk'.trans hk, hc'.trans hceil⟩

end

section
variable (s : State) (x : Fin 32)

theorem exec_ceilingUpdate {S : SSet} (hS : s.dev.set? x.val = some S) (hw : s.dev.working = true)
    (hdue : (s.dev.sq x.val).ceilAt + 25 * s.dev.fld row_QOS_CTL 0 f_QOS_CTL_PERIOD ≤ s.dev.lived (commonDom S.die)) :
    exec (.ceilingUpdate x) s = .next { s with dev := (s.dev.ceilUpdate x.val).finish } :=
  State.devEvent_holds (fun d => d.working && (d.set? x.val).isSome &&
      decide ((d.sq x.val).ceilAt + 25 * d.fld row_QOS_CTL 0 f_QOS_CTL_PERIOD ≤ d.lived (commonDom (d.setDie x.val))))
    (fun d => d.ceilUpdate x.val) s (by simp only [hw, hS, s.dev.setDie_of hS, hdue, Option.isSome_some, decide_true, Bool.and_self])

theorem exec_scaleFactorUpdate {S : SSet} (hS : s.dev.set? x.val = some S) (hf : s.dev.freezes = .running) :
    exec (.scaleFactorUpdate x) s = .next { s with dev := (s.dev.kAdopt x.val s.throttled).finish } :=
  State.devEvent_holds (fun d => d.freezes == .running && (d.set? x.val).isSome) (fun d => d.kAdopt x.val s.throttled) s (by simp only [hf, hS, Option.isSome_some, BEq.rfl, Bool.and_self])

/-- The scale factor of a set (R263). -/
theorem State.kOf_spec (k : Nat) {S : SSet} (hS : s.dev.set? k = some S) :
    (s.dev.kOf k s.throttled).1 = if s.dev.setFenced k = true then 0
      else min (1024 * (S.channels.filter fun c => s.dev.inService (instOfChan S.sub c)).length / max 1 S.channels.length)
        (if s.pwr.causes ≠ [] ∨ s.sec.trimAbsent = true then min 1024 (1024 * s.dev.rateDc.get S.die 0 / 1300) else 1024) := by
  have hth : s.throttled = decide (s.pwr.causes ≠ [] ∨ s.sec.trimAbsent = true) := by
    simp [State.throttled, State.emergency, Bool.decide_or]
  unfold Dev.kOf
  rw [hS, hth]
  dsimp only
  split
  · rfl
  · by_cases ht : s.pwr.causes ≠ [] ∨ s.sec.trimAbsent = true
    · rw [if_pos ht, decide_eq_true ht, if_pos rfl]
    · rw [if_neg ht, decide_eq_false ht, if_neg Bool.false_ne_true]

theorem exec_shortfallHoldoffExpiry {S : SSet} (hS : s.dev.set? x.val = some S) (hf : s.dev.freezes = .running)
    (hp : (s.dev.sq x.val).pendingEvent = true)
    (hl : ∀ t, (s.dev.sq x.val).lastEvent = some t → s.dev.ran (commonDom S.die) t 1000000 = true) :
    exec (.shortfallHoldoffExpiry x) s = .next { s with dev := (s.dev.raiseShortfall x.val).finish } := by
  have hlast : ((s.dev.sq x.val).lastEvent.elim true fun t => s.dev.ran (commonDom (s.dev.setDie x.val)) t 1000000) = true := by
    cases hle : (s.dev.sq x.val).lastEvent with
    | none => rw [Option.elim_none]
    | some t => rw [Option.elim_some, s.dev.setDie_of hS, hl t hle]
  exact State.devEvent_holds (fun d => d.freezes == .running && (d.sq x.val).pendingEvent &&
    (d.sq x.val).lastEvent.elim true fun t => d.ran (commonDom (d.setDie x.val)) t 1000000) (fun d => d.raiseShortfall x.val) s
    (by simp only [hf, hp, hlast, BEq.rfl, Bool.and_self])

end

/-- Settles O47. -/
theorem ceilingsAndScale : Obligations.CeilingsAndScale := by
  unfold Obligations.CeilingsAndScale
  intro s x S hS q
  refine ⟨fun hw hdue => ?_, fun hf => ?_, fun hf hp hl => ?_⟩
  · obtain ⟨hrest, hbe, hlevel, hk, hceil, hothers⟩ := s.dev.ceilUpdate_spec x.val S hS
    exact ⟨_, exec_ceilingUpdate s x hS hw hdue, hrest, hbe, hlevel, hk, hceil, hothers⟩
  · intro on throttled K
    obtain ⟨hmem, hk, hceil⟩ := s.dev.setK_spec x.val (s.dev.kOf x.val s.throttled).1 (s.dev.kOf x.val s.throttled).2
    obtain ⟨honly, hraised⟩ := Dev.ceilRaise_spec (s.dev.setK x.val (s.dev.kOf x.val s.throttled).1 (s.dev.kOf x.val s.throttled).2) x.val
    refine ⟨_, exec_scaleFactorUpdate s x hS hf, honly.scale.trans (hk.trans (s.kOf_spec x.val hS)), (congrArg Dev.mem honly.rest :).trans hmem,
      fun i hi => ?_, fun i hi => ?_⟩
    · refine (Dev.ceilOnly_cmin honly i).trans_le ?_
      exact (Nat.le_max_right _ _).trans (hraised i hi).ge
    · refine Eq.trans_le (congrArg (fun t : Tab Nat => t.get i 0) hceil.symm) ?_
      exact (Nat.le_max_left _ _).trans (hraised i hi).ge
  · obtain ⟨hmem, hpend, hk, -⟩ := s.dev.raiseShortfall_spec x.val
    exact ⟨_, exec_shortfallHoldoffExpiry s x hS hf hp hl, hpend, hk, hmem⟩

end Sys2Proof.Machine

/-! PROOF. Age sweeps, the demotion policy and its watermarks (R82, R84, R92). -/
namespace Sys2Proof.Machine

/-- What the age update does to an extent that is not FREE. -/
theorem Desc.sweep_eq (e : Desc) (h : e.st ≠ .free) :
    e.sweep = if e.touched then { e with touched := false, age := 0 } else { e with age := max e.age (min 255 (e.age + 1)) } := by
  unfold Desc.sweep
  rw [if_neg (by simpa using h)]
  split
  · rfl
  split
  · next hlt => rw [Nat.min_eq_right hlt, Nat.max_eq_right (Nat.le_succ _)]
  · next hlt => rw [Nat.max_eq_left ((Nat.min_le_left _ _).trans (Nat.not_lt.mp hlt))]

theorem Desc.sweep_st (e : Desc) : e.sweep.st = e.st := by
  unfold Desc.sweep
  split
  · rfl
  split
  · rfl
  split <;> rfl

/-- An entry of a table that a map leaves listed is an entry of the mapped table. -/
theorem mem_mapV {α : Type} [DecidableEq α] (m : Tab α) (c : α) (f : Nat → α → α) {x : Nat} {e : α} (h : (x, e) ∈ m) (hf : f x e ≠ c) :
    (x, f x e) ∈ m.mapV c f :=
  List.mem_filter.mpr ⟨List.mem_map_of_mem (f := fun e : Nat × α => (e.1, f e.1 e.2)) h, decide_eq_true hf⟩

section
variable (d : Dev) (g : Nat)

theorem Dev.sweep_updSweep (f : Sweep → Sweep) : (d.updSweep g f).sweep g = f (d.sweep g) := tab_get_set_same _ _ _ _

/-- A sweep that starts: the group's descriptors are aged. -/
theorem Dev.sweepStart_starts {j : Nat} (hj : d.sweeper g = some j) (hr : (d.sweep g).running = false) (hdue : d.sweepTicks ≤ d.sweepAge g j)
    (hok : d.ceilOk (loessMaster j) (((d.strat.bind fun x => x.metaSet g).map fun s => (s, 1)).toList) = true) :
    d.sweepStart g = ({ d with descs := d.descs.mapV {} fun x (e : Desc) => if d.groupOf x == some g then e.sweep else e }).updSweep g
      fun s => { s with from_ := d.lived (loessDom j), by_ := some j, due := 0, running := true, overran := false } := by
  unfold Dev.sweepStart
  rw [hj]
  dsimp only
  rw [if_neg (Nat.not_lt.mpr hdue), hok, if_neg (by decide), hr, if_neg (by decide)]

theorem Dev.sweepStart_desc (x : Nat) (e : Desc) (hx : (x, e) ∈ d.descs) (he : e.st ≠ .free) :
    (x, if d.groupOf x = some g then
        (if e.touched then { e with touched := false, age := 0 } else { e with age := max e.age (min 255 (e.age + 1)) })
      else e) ∈ d.descs.mapV {} fun x (e : Desc) => if d.groupOf x == some g then e.sweep else e := by
  rw [← Desc.sweep_eq e he]
  refine (if_congr (beq_iff_eq (a := d.groupOf x) (b := some g)) (rfl : e.sweep = e.sweep) (rfl : e = e)) ▸
    mem_mapV d.descs {} (fun x (e : Desc) => if d.groupOf x == some g then e.sweep else e) hx fun h0 => ?_
  split at h0
  · exact he (e.sweep_st.symm.trans (congrArg Desc.st h0))
  · exact he (congrArg Desc.st h0)

/-- A sweep that ends. -/
theorem Dev.sweepEnd_spec (hr : (d.sweep g).running = true) : ((d.sweepEnd g).sweep g).running = false ∧
    d.sweepEnd g = { d with heat := (d.sweepEnd g).heat, regs := (d.sweepEnd g).regs, sweeps := (d.sweepEnd g).sweeps } ∧
    (d.sweepEnd g).heat = d.heat.filter (fun h => d.groupOf (h.1 % 2 ^ 28) ≠ some g) ∧
    (d.sweepEnd g).fld row_LSS_SWEEP_STATUS 0 f_LSS_SWEEP_STATUS_SWEEPS =
      (d.fld row_LSS_SWEEP_STATUS 0 f_LSS_SWEEP_STATUS_SWEEPS + 1) % (f_LSS_SWEEP_STATUS_SWEEPS.top + 1) := by
  unfold Dev.sweepEnd
  extract_lets s late d1 ht occ d2 d3
  rw [show s.running = true from hr, if_neg (by decide)]
  obtain ⟨hregs, hgroup, hfld⟩ : d1 = { d with regs := d1.regs } ∧ (∀ x, d1.groupOf x = d.groupOf x) ∧
      d1.fld row_LSS_SWEEP_STATUS 0 f_LSS_SWEEP_STATUS_SWEEPS = d.fld row_LSS_SWEEP_STATUS 0 f_LSS_SWEEP_STATUS_SWEEPS := by
    unfold d1
    split
    · exact ⟨rfl, fun _ => rfl, d.fld_setFld_disjoint _ _ _ _ _ (by decide) (by decide)⟩
    · exact ⟨rfl, fun _ => rfl, rfl⟩
  obtain ⟨e, hend⟩ : ∃ e, d3.wrapInc row_LSS_SWEEP_STATUS 0 f_LSS_SWEEP_STATUS_SWEEPS = e := ⟨_, rfl⟩
  have he : e = { d1 with heat := e.heat, regs := e.regs, sweeps := e.sweeps } := by rw [← hend]; rfl
  have hht : e.heat = ht := by rw [← hend]; rfl
  have hsweep : e.sweep g = d3.sweep g := by rw [← hend]; rfl
  have hsweeps : e.fld row_LSS_SWEEP_STATUS 0 f_LSS_SWEEP_STATUS_SWEEPS =
      (d3.fld row_LSS_SWEEP_STATUS 0 f_LSS_SWEEP_STATUS_SWEEPS + 1) % (f_LSS_SWEEP_STATUS_SWEEPS.top + 1) :=
    hend ▸ Dev.fld_wrapInc _ _ _ _ _ (by decide)
  rw [hend]
  refine ⟨(congrArg Sweep.running hsweep).trans (congrArg Sweep.running (d2.sweep_updSweep g _) :),
    he.trans (congrArg (fun x : Dev => ({ x with heat := e.heat, regs := e.regs, sweeps := e.sweeps } : Dev)) hregs :), ?_, ?_⟩
  · refine hht.trans ((?_ : d1.heat.filter (fun h => d1.groupOf (h.1 % 2 ^ 28) ≠ some g) = _))
    rw [(congrArg Dev.heat hregs :)]
    exact congrArg (List.filter · d.heat) (funext fun h => by rw [hgroup])
  · exact hsweeps.trans (congrArg (fun n => (n + 1) % (f_LSS_SWEEP_STATUS_SWEEPS.top + 1)) hfld)

/-! ### The demotion policy -/

/-- The order of R84 lists candidates only. -/
theorem mem_victimOrder (c : List (Nat × Nat)) (last : Option Nat) (x : Nat) (h : x ∈ victimOrder c last) : x ∈ c.map (·.1) := by
  have hfold : ∀ (l : List Nat) (r : List Nat × Option Nat), (∀ y ∈ r.1, y ∈ c.map (·.1)) → ∀ y ∈ (l.foldl (fun (r : List Nat × Option Nat) a =>
      let l := (c.filter fun e => e.2 == a).map (·.1)
      let l := match r.2 with
        | none => l
        | some v => (l.filter fun x => v < x) ++ (l.filter fun x => x ≤ v)
      (r.1 ++ l, l.getLast?.orElse fun _ => r.2)) r).1, y ∈ c.map (·.1) := by
    intro l
    induction l with
    | nil => exact fun r hr => hr
    | cons a t ih =>
      refine fun r hr => ih _ fun y hy => ?_
      rcases List.mem_append.mp hy with hy | hy
      · exact hr y hy
      · have hcand : ∀ z ∈ (c.filter fun e => e.2 == a).map (·.1), z ∈ c.map (·.1) := fun z hz =>
          by
          obtain ⟨y, hy, rfl⟩ := List.mem_map.mp hz
          exact List.mem_map_of_mem (List.mem_filter.mp hy).1
        refine hcand y ?_
        revert hy
        cases r.2 with
        | none => exact id
        | some v =>
          intro hy
          rcases List.mem_append.mp hy with hy | hy
          · exact (List.mem_filter.mp hy).1
          · exact (List.mem_filter.mp hy).1
  exact hfold _ _ (fun y hy => absurd hy List.not_mem_nil) x h

theorem Dev.mem_victims (x : Nat) (h : x ∈ d.victims g) : d.victimOk x = true ∧ d.groupOf x = some g := by
  obtain ⟨e, he, rfl⟩ := List.mem_map.mp (mem_victimOrder _ _ x h)
  obtain ⟨y, hy, rfl⟩ := List.mem_map.mp he
  have hc := (List.mem_filter.mp hy).2
  simp only [Bool.and_eq_true, beq_iff_eq] at hc
  exact ⟨hc.1.1.1.1, hc.1.1.2⟩

/-- The moves that a list of extents queues are put behind those that are there. -/
theorem Dev.each_queueMove (l : List Nat) (m : Dev → Nat → Move) (P : Move → Prop) (hP : ∀ e x, x ∈ l → P (m e x)) :
    (d.each l fun d x => d.queueMove (m d x)) = { d with moves := (d.each l fun d x => d.queueMove (m d x)).moves } ∧
      ∃ n, (d.each l fun d x => d.queueMove (m d x)).moves = d.moves ++ n ∧ ∀ y ∈ n, P y := by
  induction l generalizing d with
  | nil => exact ⟨rfl, [], (List.append_nil _).symm, fun _ h => absurd h List.not_mem_nil⟩
  | cons x t ih =>
    obtain ⟨hrest, n, hn, hall⟩ := ih (d.queueMove (m d x)) fun e y hy => hP e y (List.mem_cons_of_mem x hy)
    refine ⟨hrest, m d x :: n, hn.trans (List.append_assoc d.moves [m d x] n), fun y hy => ?_⟩
    rcases List.mem_cons.mp hy with rfl | hy
    · exact hP d x List.mem_cons_self
    · exact hall y hy

/-- The device e is d after the demotion policy of group g has been asked: demotions are queued, and otherwise the group's sweep record,
a count and what leaves may have changed. -/
structure Dev.demotedTo (e : Dev) : Prop where
  moves : ∃ l, e.moves = d.moves ++ l ∧ ∀ m ∈ l, m.kind = .demoteAuto ∧ m.step = 0 ∧ d.victimOk m.ext = true ∧ d.groupOf m.ext = some g
  descs : e.descs = d.descs
  mem : e.mem = d.mem

theorem Dev.demotedTo_updSweep (f : Sweep → Sweep) : d.demotedTo g (d.updSweep g f) :=
  ⟨⟨[], (List.append_nil _).symm, fun _ h => absurd h List.not_mem_nil⟩, rfl, rfl⟩

theorem Dev.poolDemote_spec : d.demotedTo g (d.poolDemote g) ∧
    ((d.sweep g).demoting = false → d.fld row_LSS_POOL g f_LSS_POOL_LOW_WM * d.poolSize g ≤ d.poolFree g * 1024 →
      d.poolDemote g = { d with sweeps := (d.poolDemote g).sweeps }) ∧
    (d.fld row_LSS_POOL g f_LSS_POOL_HIGH_WM * d.poolSize g ≤ d.poolFree g * 1024 →
      d.poolDemote g = { d with sweeps := (d.poolDemote g).sweeps }) := by
  have hself : d.demotedTo g d := ⟨⟨[], (List.append_nil _).symm, fun _ h => absurd h List.not_mem_nil⟩, rfl, rfl⟩
  unfold Dev.poolDemote
  extract_lets pool low high subs pressed s free on d1 going vs d2 d3
  split
  · exact ⟨hself, fun _ _ => rfl, fun _ => rfl⟩
  by_cases hon : on = true
  · have hlow : ¬ ((d.sweep g).demoting = false ∧ low ≤ free * 1024) := fun h => by
      simp only [on, Bool.and_eq_true, Bool.or_eq_true, decide_eq_true_eq, s, h.1, Bool.false_eq_true, false_or] at hon
      exact absurd hon.1 (Nat.not_lt.mpr h.2)
    have hhigh : ¬ high ≤ free * 1024 := fun h => by
      simp only [on, Bool.and_eq_true, decide_eq_true_eq] at hon
      omega
    refine ⟨?_, fun h1 h2 => absurd ⟨h1, h2⟩ hlow, fun h => absurd h hhigh⟩
    split
    · exact d.demotedTo_updSweep g _
    have hvs : ∀ x ∈ vs, d.victimOk x = true ∧ d.groupOf x = some g := fun x hx => by
      have hx' : x ∈ d1.victims g := by
        unfold vs at hx
        split at hx
        · exact absurd hx List.not_mem_nil
        · exact List.mem_of_mem_take hx
      exact d1.mem_victims g x hx'
    split
    · have hev := (d2.updSweep g fun s => { s with stalled := if pressed then 1 else 2 }).eventsOnly_event none 0x06 0 g
      exact ⟨⟨[], ((congrArg Dev.moves hev.rest :).trans (List.append_nil _).symm), fun _ h => absurd h List.not_mem_nil⟩,
        (congrArg Dev.descs hev.rest :), (congrArg Dev.mem hev.rest :)⟩
    · obtain ⟨hrest, n, hn, hall⟩ := d1.each_queueMove vs (fun d x => {
        ext := x, kind := .demoteAuto, want := none, pin := false, cmd := none, engine := none, src := (d.desc x).home,
        dst := (d.desc x).home, step := 0, since := 0, journal := g })
        (fun m => m.kind = .demoteAuto ∧ m.step = 0 ∧ d.victimOk m.ext = true ∧ d.groupOf m.ext = some g)
        fun _ x hx => ⟨rfl, rfl, hvs x hx⟩
      exact ⟨⟨n, hn, hall⟩, (congrArg Dev.descs hrest :), (congrArg Dev.mem hrest :)⟩
  · have hoff : (!on) = true := by simpa using hon
    rw [if_pos (by simp [hoff])]
    exact ⟨d.demotedTo_updSweep g _, fun _ _ => rfl, fun _ => rfl⟩

/-! ### The watermarks -/

theorem Dev.poolWm_refused (v : Word) (h : f_LSS_POOL_HIGH_WM.get v ≤ f_LSS_POOL_LOW_WM.get v) : d.poolWm g v = d :=
  if_neg (Nat.not_lt.mpr h)

theorem Dev.poolWm_taken (v : Word) (h : f_LSS_POOL_LOW_WM.get v < f_LSS_POOL_HIGH_WM.get v) :
    d.poolWm g v = { d with regs := (d.poolWm g v).regs } ∧
    (d.poolWm g v).fld row_LSS_POOL g f_LSS_POOL_LOW_WM = f_LSS_POOL_LOW_WM.get v ∧
    (d.poolWm g v).fld row_LSS_POOL g f_LSS_POOL_HIGH_WM = f_LSS_POOL_HIGH_WM.get v ∧
    ∀ a w, a ≠ row_LSS_POOL.addr g → (d.poolWm g v).regs.get a w = d.regs.get a w := by
  have hget : ∀ f : Fld, f.get v % 2 ^ (f.hi + 1 - f.lo) = f.get v := fun f => Nat.mod_eq_of_lt (bits_lt _ _ _)
  rw [show d.poolWm g v = (d.setFld row_LSS_POOL g f_LSS_POOL_HIGH_WM (f_LSS_POOL_HIGH_WM.get v)).setFld row_LSS_POOL g f_LSS_POOL_LOW_WM
    (f_LSS_POOL_LOW_WM.get v) from if_pos h]
  refine ⟨rfl, (Dev.fld_setFld_same _ _ _ _ _ (by decide)).trans (hget _), ?_, fun a w ha => ?_⟩
  · rw [Dev.fld_setFld_disjoint _ _ _ _ _ _ (by decide) (by decide)]
    exact (Dev.fld_setFld_same _ _ _ _ _ (by decide)).trans (hget _)
  · exact (tab_get_set_other _ _ _ _ _ _ ha).trans (tab_get_set_other _ _ _ _ _ _ ha)

end

/-- Settles O20. -/
theorem sweepsAndPoolDemotion : Obligations.SweepsAndPoolDemotion := by
  unfold Obligations.SweepsAndPoolDemotion
  refine ⟨fun s g hrun => ⟨fun j hj hr hdue hok => ?_, fun hr => ?_⟩, fun s g => ⟨fun hrun => ?_, fun v => ?_⟩⟩
  · have hok' : s.dev.ceilOk (loessMaster j) (((s.dev.strat.bind fun x => x.metaSet g.val).map fun k => (k, 1)).toList) = true := by
      cases hk : s.dev.strat.bind fun x => x.metaSet g.val with
      | none => rfl
      | some k => exact hok k hk
    refine ⟨_, (State.devEvent_holds _ (fun d => d.sweepStart g.val) s hrun), ?_⟩
    rw [s.dev.sweepStart_starts g.val hj hr hdue hok']
    exact ⟨congrArg Sweep.running (Dev.sweep_updSweep _ _ _), rfl, s.dev.sweepStart_desc g.val⟩
  · obtain ⟨hend, hrest, hheat, hcount⟩ := s.dev.sweepEnd_spec g.val hr
    refine ⟨_, State.devEvent_holds _ (fun d => d.sweepEnd g.val) s hrun, hend, hrest, fun h hh => ?_, hcount⟩
    rw [hheat] at hh
    exact ⟨(List.mem_filter.mp hh).1, of_decide_eq_true (List.mem_filter.mp hh).2⟩
  · obtain ⟨⟨hmoves, hdescs, hmem⟩, hlow, hhigh⟩ := s.dev.poolDemote_spec g.val
    exact ⟨_, State.devEvent_holds _ (fun d => d.poolDemote g.val) s hrun, hmoves, hdescs, hmem, hlow, hhigh⟩
  · exact ⟨_, rfl, s.dev.poolWm_refused g.val v, s.dev.poolWm_taken g.val v⟩

end Sys2Proof.Machine

/-! PROOF. The clearing of a reclaiming region, and its end (R86). -/
namespace Sys2Proof.Machine

section
variable (d : Dev)

/-- The device without what the release of an extent writes, its descriptor apart. -/
def Dev.beyondRelease : Dev :=
  { d with
    evHold := [], evq := [], heat := [], journals := [], moves := [], out := [], poison := [], ports := [], regs := [], setq := [],
    sweeps := [], tcache := [], tensors := [], win := [], wire := [] }

theorem Dev.beyondRelease_events {e : Dev} (h : d.eventsOnly e) : e.beyondRelease = d.beyondRelease := (congrArg Dev.beyondRelease h.rest :)

theorem Dev.beyondRelease_updTensor (t : Nat) (f : Tensor → Tensor) : (d.updTensor t f).beyondRelease = d.beyondRelease := rfl

theorem Dev.beyondRelease_updSq (s : Nat) (f : SetQ → SetQ) : (d.updSq s f).beyondRelease = d.beyondRelease := rfl

theorem Dev.beyondRelease_slotIdle (t : Nat) (b : Bool) : (d.slotIdle t b).beyondRelease = d.beyondRelease := by
  unfold Dev.slotIdle
  extract_lets g d1
  have h1 : d1.beyondRelease = d.beyondRelease := rfl
  split
  · split
    · exact (d1.beyondRelease_events (d1.eventsOnly_event _ _ _ _)).trans h1
    · exact h1
  · rfl

theorem Dev.beyondRelease_storedDec (t : Nat) (b : Bool) (n : Nat) : (d.storedDec t b n).beyondRelease = d.beyondRelease :=
  (Dev.beyondRelease_slotIdle _ _ _).trans (d.beyondRelease_updTensor _ _)

theorem Dev.beyondRelease_storedGone (e : Desc) : (d.storedGone e).beyondRelease = d.beyondRelease := by
  unfold Dev.storedGone
  dsimp only
  split
  · exact (Dev.beyondRelease_storedDec _ _ _ _).trans (d.beyondRelease_storedDec _ _ _)
  · rfl

theorem Dev.beyondRelease_poisonRelease (x : Nat) : (d.poisonRelease x).beyondRelease = d.beyondRelease :=
  Dev.each_same Dev.beyondRelease _ _ (fun e p => by
    split
    · rfl
    split <;> rfl) d

theorem Dev.beyondRelease_pressureAll : d.pressureAll.beyondRelease = d.beyondRelease := by
  refine Dev.each_same Dev.beyondRelease _ _ (fun e s => ?_) d
  unfold Dev.pressureCheck
  split
  · rfl
  split
  · rfl
  extract_lets f q data
  split
  · exact (Dev.beyondRelease_events _ (Dev.eventsOnly_event _ _ _ _ _)).trans (e.beyondRelease_updSq s _)
  split
  · exact (Dev.beyondRelease_events _ (Dev.eventsOnly_event _ _ _ _ _)).trans (Dev.beyondRelease_updSq _ s _)
  · rfl

theorem Dev.beyondRelease_setDesc (x : Nat) (e : Desc) :
    (d.setDesc x e).beyondRelease = { d.beyondRelease with descs := d.descs.set x e {} } := rfl

/-- An extent that is released is FREE; nothing else that this leaves changes. -/
theorem Dev.extFree_spec (x : Nat) : (d.extFree x).beyondRelease =
    if (d.desc x).st = .free then d.beyondRelease else { d.beyondRelease with descs := d.descs.set x {} {} } := by
  unfold Dev.extFree
  extract_lets e d1 d2 d3 d4 mv ht d5
  by_cases hfree : (d.desc x).st = .free
  · rw [if_pos hfree, if_pos (by simpa [e] using hfree)]
  rw [if_neg hfree, if_neg (by simpa [e] using hfree)]
  have h1 : d1.beyondRelease = d.beyondRelease := d.beyondRelease_storedGone e
  have h2 : d2.beyondRelease = d1.beyondRelease := by
    unfold d2
    split
    · exact d1.beyondRelease_updTensor _ _
    · rfl
  have h3 : d3.beyondRelease = d.beyondRelease := (d2.beyondRelease_poisonRelease x).trans (h2.trans h1)
  have h4 : d4.beyondRelease = { d.beyondRelease with descs := d.descs.set x {} {} } :=
    (d3.beyondRelease_setDesc x {}).trans (congrArg (fun y : Dev => ({ y with descs := y.descs.set x {} {} } : Dev)) h3 :)
  have h5 : d5.beyondRelease = d4.beyondRelease := rfl
  split
  · exact h5.trans h4
  · exact (rfl : _ = d5.beyondRelease).trans (h5.trans h4)

theorem Dev.extFree_desc (x y : Nat) : ((d.extFree x).desc y).st = if y = x then .free else (d.desc y).st := by
  have h : (d.extFree x).descs = if (d.desc x).st = .free then d.descs else d.descs.set x {} {} :=
    (congrArg Dev.descs (d.extFree_spec x) :).trans (apply_ite Dev.descs _ _ _)
  rw [Dev.desc, h]
  split
  · next hf =>
    split
    · next hy => exact hy ▸ hf
    · rfl
  · rw [tab_get_set]
    split <;> rfl

/-- The extents of a list are FREE once each was released; of the rest only their descriptors and what a release writes change. -/
theorem Dev.each_extFree (l : List Nat) : (∀ y, ((d.each l Dev.extFree).desc y).st = if y ∈ l then .free else (d.desc y).st) ∧
    ({ (d.each l Dev.extFree).beyondRelease with descs := [] } : Dev) = { d.beyondRelease with descs := [] } := by
  refine ⟨fun y => ?_, Dev.each_same (fun e => ({ e.beyondRelease with descs := [] } : Dev)) l _ (fun e x => ?_) d⟩
  · induction l generalizing d with
    | nil => exact (if_neg List.not_mem_nil).symm
    | cons x t ih =>
      refine (ih (d.extFree x)).trans ?_
      rw [d.extFree_desc]
      by_cases ht : y ∈ t
      · rw [if_pos ht, if_pos (List.mem_cons_of_mem x ht)]
      · rw [if_neg ht]
        exact if_congr (by simp [ht]) rfl rfl
  · rw [e.extFree_spec]
    split <;> rfl

/-- The device e is d once the extents of a list are cleared for the reclaim of region r. -/
structure Dev.clearedTo (r : Nat) (ids : List Nat) (e : Dev) : Prop where
  freed : ∀ x ∈ ids, (e.desc x).st = .free
  others : ∀ x, x ∉ ids → (e.desc x).st = (d.desc x).st
  rest : e.mem = d.mem ∧ e.ctxs = d.ctxs ∧ e.beds = d.beds ∧ ∀ k, k ≠ r → e.rgn k = d.rgn k
  rgn : e.rgn r = { d.rgn r with cursor := if ids.length = 256 then (d.rgn r).cursor + 256 else (d.rgn r).cursor }

theorem Dev.reclaimClear_spec (r : Nat) :
    d.clearedTo r ((((mapList (d.rgn r).runs).drop (d.rgn r).cursor).take 256).takeWhile fun x => (d.desc x).st ≠ .moving) (d.reclaimClear r) := by
  unfold Dev.reclaimClear
  extract_lets g ids d1
  obtain ⟨hdesc, hrest⟩ := d.each_extFree ids
  have hp := (d.each ids Dev.extFree).beyondRelease_pressureAll
  have hst : ∀ y, (d1.desc y).st = if y ∈ ids then .free else (d.desc y).st := fun y =>
    (congrArg (fun x : Dev => (x.desc y).st) hp :).trans (hdesc y)
  have hbeside : ({ d1.beyondRelease with descs := [] } : Dev) = { d.beyondRelease with descs := [] } :=
    (congrArg (fun x : Dev => ({ x with descs := [] } : Dev)) hp).trans hrest
  have hrgns : d1.rgns = d.rgns := (congrArg Dev.rgns hbeside :)
  have hkept : d1.mem = d.mem ∧ d1.ctxs = d.ctxs ∧ d1.beds = d.beds :=
    ⟨(congrArg Dev.mem hbeside :), (congrArg Dev.ctxs hbeside :), (congrArg Dev.beds hbeside :)⟩
  obtain ⟨hmem, hctxs, hbeds⟩ := hkept
  have hrgn : ∀ k, d1.rgn k = d.rgn k := fun k => congrArg (fun t : Tab Rgn => t.get k {}) hrgns
  split
  · next hlen =>
    refine ⟨fun x hx => (hst x).trans (if_pos hx), fun x hx => (hst x).trans (if_neg hx),
      ⟨hmem, hctxs, hbeds, fun k hk => (d1.rgn_updRgn_other _ _ _ hk).trans (hrgn k)⟩, ?_⟩
    rw [Dev.rgn_updRgn_same, hrgn, if_pos hlen]
  · next hlen =>
    refine ⟨fun x hx => (hst x).trans (if_pos hx), fun x hx => (hst x).trans (if_neg hx), ⟨hmem, hctxs, hbeds, fun k _ => hrgn k⟩, ?_⟩
    rw [hrgn, if_neg hlen]

end

/-- Settles O22. -/
theorem reclaimClearsAndCompletes : Obligations.ReclaimClearsAndCompletes := by
  unfold Obligations.ReclaimClearsAndCompletes
  intro s r hc g ids
  refine ⟨fun hok => ?_, fun hdone => ?_⟩
  · obtain ⟨hfreed, hothers, ⟨hmem, hctxs, hbeds, hrgns⟩, hrgn⟩ := s.dev.reclaimClear_spec r.toNat
    exact ⟨_, State.devEvent_holds (fun d => d.clearing r.toNat && d.clearOk r.toNat) (fun d => d.reclaimClear r.toNat) s (by rw [hc, hok]; rfl),
      hfreed, hothers, hmem, hctxs, hbeds, hrgns, hrgn⟩
  · exact State.devEvent_holds (fun d => d.clearing r.toNat && d.reclaimed r.toNat) (fun d => d.reclaimDone r.toNat) s (by rw [hc, hdone]; rfl)

end Sys2Proof.Machine

/-! PROOF. Sessions and the loss of a host (R229, R340, R341): what the stop of a program leaves alone, what a context that leaves its
waits leaves, what an orphaned context keeps. -/
namespace Sys2Proof.Machine

section
variable (d : Dev)

/-! ### What the stop of a program never reaches (R139, R231) -/

/-- A context but for its ring, its stamp, its program and the parks that wait for it. -/
def Ctx.standing (x : Ctx) : Ctx :=
  { x with
    ring := {}, stamp := 0, stop := none, ps := .idle, launch := none, resumeT := false, wake := none, sleepUs := 0, timeoutDue := false,
    yield := false, undef := none, s := [], p := 1, t := [], parkWait := false, parkCmds := [] }

/-- What the stop of a program leaves alone: the rest of the device, the contexts but for their programs, and the ends of the
submission rings. -/
@[ext] structure StopLeft where
  rest : Dev
  ctx : Nat → Ctx
  ends : Queue → Nat × Nat

/-- The device without what the stop of a program may write. -/
def Dev.besideStop : Dev :=
  { d with
    beds := [], cplHold := [], ctxs := [], evHold := [], evq := [], fmRing := {}, free := 0, inflight := [], out := [], portRing := [],
    ports := [], regs := [], setq := [], tcache := [], tensors := [], win := [], wire := [] }

def Dev.beyondStop : StopLeft := ⟨d.besideStop, fun k => (d.ctx k).standing, fun q => (d.ring q).ends⟩

/-- The part that the stop of a program leaves of what a completion leaves. -/
def AnswerLeft.inStop (x : AnswerLeft) : StopLeft := ⟨x.rest.besideStop, fun k => (x.ctx k).standing, x.ends⟩

variable {d} in
theorem Dev.beyondStop_of_answer {e : Dev} (h : e.beyondAnswer = d.beyondAnswer) : e.beyondStop = d.beyondStop :=
  (congrArg AnswerLeft.inStop h :)

theorem Dev.beyondStop_complete (r : CmdRef) (st r0 r1 : Nat) (payload : Gran) (final : Bool) :
    (d.complete r st r0 r1 payload final).beyondStop = d.beyondStop := Dev.beyondStop_of_answer (d.beyondAnswer_complete _ _ _ _ _ _)

theorem Dev.beyondStop_completeOpt (r : Option CmdRef) (st r0 r1 : Nat) : (d.completeOpt r st r0 r1).beyondStop = d.beyondStop := by
  cases r with
  | none => rfl
  | some r => exact d.beyondStop_complete _ _ _ _ _ _

theorem Dev.beyondStop_event (dst : Option Nat) (code ctx data : Nat) : (d.event dst code ctx data).beyondStop = d.beyondStop :=
  Dev.beyondStop_of_answer (d.beyondAnswer_events (d.eventsOnly_event _ _ _ _))

theorem Dev.beyondStop_updSq (s : Nat) (f : SetQ → SetQ) : (d.updSq s f).beyondStop = d.beyondStop := rfl
theorem Dev.beyondStop_updBed (b : Nat) (f : Bed → Bed) : (d.updBed b f).beyondStop = d.beyondStop := rfl
theorem Dev.beyondStop_updTensor (t : Nat) (f : Tensor → Tensor) : (d.updTensor t f).beyondStop = d.beyondStop := rfl
theorem Dev.beyondStop_satInc (r : RegRow) (i : Nat) (f : Fld) (k : Nat) : (d.satInc r i f k).beyondStop = d.beyondStop := rfl

/-- What a context shows after a change of one context. -/
theorem Dev.ctx_updCtx_proj {α : Type} (c : Nat) (f : Ctx → Ctx) (π : Ctx → α) (k : Nat) :
    π ((d.updCtx c f).ctx k) = if k = c then π (f (d.ctx c)) else π (d.ctx k) := by
  split
  · next hk =>
    subst hk
    exact congrArg π (d.ctx_updCtx_same k f)
  · next hk => exact congrArg π (d.ctx_updCtx_other _ _ _ hk)

/-- A change of a context that leaves its standing and the ends of its ring. -/
theorem Dev.beyondStop_updCtx (c : Nat) (f : Ctx → Ctx) (hf : ∀ x, (f x).standing = x.standing) (hr : ∀ x, (f x).ring.ends = x.ring.ends) :
    (d.updCtx c f).beyondStop = d.beyondStop := by
  refine StopLeft.ext rfl (funext fun k => ?_) (funext fun q => ?_)
  · refine (d.ctx_updCtx_proj c f Ctx.standing k).trans ?_
    split
    · next hk => exact (hf _).trans (hk ▸ rfl)
    · rfl
  · cases q with
    | port n => rfl
    | fm => rfl
    | ctx k =>
      refine (d.ctx_updCtx_proj c f (fun x => x.ring.ends) k.val).trans ?_
      split
      · next hk => exact (hr _).trans (hk ▸ rfl)
      · rfl

/-- Two changes of a context are as one. -/
theorem Dev.beyondStop_updCtx_twice (c : Nat) (f g : Ctx → Ctx) :
    ((d.updCtx c f).updCtx c g).beyondStop = (d.updCtx c fun x => g (f x)).beyondStop := by
  have hctx : ∀ k, ((d.updCtx c f).updCtx c g).ctx k = (d.updCtx c fun x => g (f x)).ctx k := fun k => by
    by_cases hk : k = c
    · rw [hk, Dev.ctx_updCtx_same, Dev.ctx_updCtx_same, Dev.ctx_updCtx_same]
    · rw [Dev.ctx_updCtx_other _ _ _ _ hk, Dev.ctx_updCtx_other _ _ _ _ hk, Dev.ctx_updCtx_other _ _ _ _ hk]
  refine StopLeft.ext rfl (funext fun k => congrArg Ctx.standing (hctx k)) (funext fun q => ?_)
  cases q with
  | port n => rfl
  | fm => rfl
  | ctx k => exact congrArg (fun x => x.ring.ends) (hctx k.val)

theorem Dev.beyondStop_each {α : Type} (l : List α) (f : Dev → α → Dev) (hf : ∀ e x, (f e x).beyondStop = e.beyondStop) :
    (d.each l f).beyondStop = d.beyondStop := Dev.each_same Dev.beyondStop l f hf d

theorem Dev.beyondStop_slotIdle (t : Nat) (b : Bool) : (d.slotIdle t b).beyondStop = d.beyondStop := by
  unfold Dev.slotIdle
  extract_lets g d1
  have h1 : d1.beyondStop = d.beyondStop := rfl
  split
  · split
    · exact (d1.beyondStop_event _ _ _ _).trans h1
    · exact h1
  · rfl

theorem Dev.beyondStop_refsRelease (l : List (Nat × Nat)) : (d.refsRelease l).beyondStop = d.beyondStop :=
  d.beyondStop_each _ _ fun e _ => (Dev.beyondStop_slotIdle _ _ _).trans (e.beyondStop_updTensor _ _)

theorem Dev.beyondStop_pendDrop (b : Nat) : (d.pendDrop b).beyondStop = d.beyondStop := by
  unfold Dev.pendDrop
  split
  · rfl
  · exact (Dev.beyondStop_updBed _ _ _).trans ((Dev.beyondStop_refsRelease _ _).trans
      (d.beyondStop_each _ _ fun e _ => e.beyondStop_each _ _ fun e' _ => e'.beyondStop_updSq _ _))

theorem Dev.beyondStop_finishStop (c : Nat) : (d.finishStop c).beyondStop = d.beyondStop := by
  unfold Dev.finishStop
  extract_lets x
  split
  · rfl
  extract_lets r1 d1 d2
  have h1 : d1.beyondStop = d.beyondStop := d.beyondStop_completeOpt _ _ _ _
  have h2 : d2.beyondStop = d1.beyondStop := Eq.trans (by apply Dev.beyondStop_updCtx <;> exact fun _ => rfl)
    (by apply Dev.beyondStop_updCtx <;> exact fun _ => rfl)
  exact (rfl : _ = d2.beyondStop).trans (h2.trans h1)

theorem Dev.beyondStop_stopProgram (c status : Nat) (pc : BitVec 48) (fetch : Nat) (code : Word) (drop : Bool) :
    (d.stopProgram c status pc fetch code drop).beyondStop = d.beyondStop := by
  unfold Dev.stopProgram
  split
  · rfl
  extract_lets d1 d2
  have h1 : d1.beyondStop = d.beyondStop := by
    unfold d1
    split
    · rfl
    · apply Dev.beyondStop_updCtx <;> exact fun _ => rfl
  have h2 : d2.beyondStop = d1.beyondStop := by
    unfold d2
    split
    · refine Eq.trans (by apply Dev.beyondStop_updCtx <;> exact fun _ => rfl) (d1.beyondStop_each _ _ fun e b => ?_)
      split
      · exact e.beyondStop_pendDrop b
      · rfl
    · rfl
  split
  · exact h2.trans h1
  · exact (d2.beyondStop_finishStop c).trans (h2.trans h1)

/-! ### A context that leaves its waits (R229) -/

/-- What is so of the waits of context c, and that nothing else but what the stop of a program writes, and requests, has changed. -/
structure Dev.leftBy (c : Nat) (e : Dev) : Prop where
  rest : ({ e.besideStop with reqs := [], slotq := [], waiters := [] } : Dev) = { d.besideStop with reqs := [], slotq := [], waiters := [] }
  ctx : ∀ k, (e.ctx k).standing = (d.ctx k).standing
  ends : ∀ q, (e.ring q).ends = (d.ring q).ends
  slotq : ∀ w ∈ e.slotq, w.ctx ≠ some c
  waiters : ∀ w ∈ e.waiters, w.waitsFor c = false

variable {d} in
theorem Dev.leftBy_trans {c : Nat} {e f : Dev} (h : d.leftBy c e) (k : f.beyondStop = e.beyondStop) : d.leftBy c f where
  rest := (congrArg (fun x : StopLeft => ({ x.rest with reqs := [], slotq := [], waiters := [] } : Dev)) k).trans h.rest
  ctx := fun j => (congrFun (congrArg StopLeft.ctx k) j).trans (h.ctx j)
  ends := fun q => (congrFun (congrArg StopLeft.ends k) q).trans (h.ends q)
  slotq := fun w hw => h.slotq w ((congrArg (fun x : StopLeft => x.rest.slotq) k : f.slotq = e.slotq) ▸ hw)
  waiters := fun w hw => h.waiters w ((congrArg (fun x : StopLeft => x.rest.waiters) k : f.waiters = e.waiters) ▸ hw)

variable {d} in
theorem Dev.leftBy_of_base {c : Nat} {d' e : Dev} (h : d'.leftBy c e) (k : d'.beyondStop = d.beyondStop) : d.leftBy c e where
  rest := h.rest.trans (congrArg (fun x : StopLeft => ({ x.rest with reqs := [], slotq := [], waiters := [] } : Dev)) k)
  ctx := fun j => (h.ctx j).trans (congrFun (congrArg StopLeft.ctx k) j)
  ends := fun q => (h.ends q).trans (congrFun (congrArg StopLeft.ends k) q)
  slotq := h.slotq
  waiters := h.waiters

theorem Dev.leftBy_parkLeave (c status : Nat) : d.leftBy c (d.parkLeave c status) := by
  unfold Dev.parkLeave
  extract_lets x reqs gone ws sq d1 d2
  have h1 : d.leftBy c d1 := ⟨rfl, fun _ => rfl, fun _ => rfl, fun w hw => of_decide_eq_true (List.mem_filter.mp hw).2,
    fun w hw => by simpa using (List.mem_filter.mp hw).2⟩
  have h2 : d.leftBy c d2 := Dev.leftBy_trans h1 (d1.beyondStop_satInc _ _ _ _)
  split
  · exact h2
  · refine Dev.leftBy_trans h2 (Eq.trans (by apply Dev.beyondStop_updCtx <;> exact fun _ => rfl) ?_)
    exact d2.beyondStop_each _ _ fun e r => e.beyondStop_complete _ _ _ _ _ _

/-! ### A context that is orphaned (R341) -/

/-- A context after the loss of its host. -/
def Ctx.orphanedOf (x : Ctx) : Ctx := if x.st ≠ .active ∧ x.st ≠ .parked then x else { x with st := .orphaned }

theorem Ctx.orphanedOf_twice (x : Ctx) : x.orphanedOf.orphanedOf = x.orphanedOf := by
  unfold Ctx.orphanedOf
  by_cases h : x.st ≠ .active ∧ x.st ≠ .parked
  · rw [if_pos h, if_pos h]
  · rw [if_neg h, if_pos ⟨CState.noConfusion, CState.noConfusion⟩]

/-- The device without what the loss of a host may write, the sessions apart. -/
def Dev.besideLoss : Dev := { d.besideStop with reqs := [], slotq := [], waiters := [] }

theorem Dev.orphan_spec (c cause : Nat) : (d.orphan c cause).besideLoss = d.besideLoss ∧
    (∀ k, ((d.orphan c cause).ctx k).standing = if k = c then (d.ctx c).standing.orphanedOf else (d.ctx k).standing) := by
  unfold Dev.orphan Ctx.orphanedOf
  extract_lets x d1 d2
  by_cases hx : x.st ≠ .active ∧ x.st ≠ .parked
  · rw [if_pos (by simpa using hx), if_pos (show (d.ctx c).standing.st ≠ .active ∧ (d.ctx c).standing.st ≠ .parked from hx)]
    refine ⟨rfl, fun k => ?_⟩
    split
    · next hk => exact hk ▸ rfl
    · rfl
  rw [if_neg (by simpa using hx), if_neg (show ¬ ((d.ctx c).standing.st ≠ .active ∧ (d.ctx c).standing.st ≠ .parked) from hx)]
  have hleft := Dev.leftBy_trans (Dev.leftBy_parkLeave (d.updCtx c fun x => { x with
      st := .orphaned, parkWait := false, timeoutDue := false, ring := { x.ring with stale := true } }) c 0x0A)
    ((d2.beyondStop_event none 0x01 (d2.handle c) cause).trans (d1.beyondStop_stopProgram c 0x113 x.pc 0 0 true))
  refine ⟨hleft.rest, fun k => (hleft.ctx k).trans (d.ctx_updCtx_proj c _ Ctx.standing k)⟩

/-- Every context of a list is orphaned once each was. -/
theorem Dev.each_orphan (cause : Nat) (l : List Nat) : (d.each l fun d c => d.orphan c cause).besideLoss = d.besideLoss ∧
    ∀ k, ((d.each l fun d c => d.orphan c cause).ctx k).standing = if k ∈ l then (d.ctx k).standing.orphanedOf else (d.ctx k).standing := by
  refine ⟨Dev.each_same Dev.besideLoss l _ (fun e c => (e.orphan_spec c cause).1) d, fun k => ?_⟩
  induction l generalizing d with
  | nil => exact (if_neg List.not_mem_nil).symm
  | cons c t ih =>
    refine (ih (d.orphan c cause)).trans ?_
    rw [(d.orphan_spec c cause).2]
    by_cases hk : k = c
    · subst hk
      rw [if_pos rfl, if_pos List.mem_cons_self, Ctx.orphanedOf_twice, ite_self]
    · rw [if_neg hk]
      exact if_congr (by simp [hk]) rfl rfl

/-! ### The loss of a host (R341) -/

/-- Which contexts a port owns is a matter of the stratum and of their states. -/
theorem Dev.owned_congr {e : Dev} (hs : e.strat = d.strat) (hc : ∀ k, (e.ctx k).standing = (d.ctx k).standing) (p : Nat) :
    e.owned p = d.owned p := by
  have hmap : ∀ m, e.portMap m = d.portMap m := fun m => by rw [Dev.portMap, Dev.portMap, hs]
  have hst : ∀ k, (e.ctx k).st = (d.ctx k).st := fun k => (congrArg Ctx.st (hc k) :)
  simp only [Dev.owned, Dev.portCtxs, Dev.ctxSlots, Dev.parkLimit, Dev.indexBase, hmap, hst]

theorem Dev.ring_setRing_port (n : Fin 16) (r : Ring) : (d.setRing (.port n) r).ring (.port n) = r := tab_get_set_same _ _ _ _

theorem Dev.ring_of_slotq (l : List SlotWait) (q : Queue) : ({ d with slotq := l } : Dev).ring q = d.ring q := by
  cases q <;> rfl

/-- The device e is d once the host of port p is lost. -/
structure Dev.hostLostTo (p : Nat) (e : Dev) : Prop where
  host : e.host p = none
  kept : e.mem = d.mem ∧ e.descs = d.descs ∧ e.rgns = d.rgns
  ctxs : ∀ c ∈ d.owned p, ((d.ctx c).st = .active ∨ (d.ctx c).st = .parked) → (e.ctx c).st = .orphaned ∧ (e.ctx c).binds = (d.ctx c).binds
  ring : (e.ring (.port (Fin.ofNat 16 p))).sqHead = (e.ring (.port (Fin.ofNat 16 p))).sqTail

variable {d} in
theorem Dev.hostLostTo_trans {p : Nat} {e f : Dev} (h : d.hostLostTo p e) (k : f.beyondStop = e.beyondStop) : d.hostLostTo p f := by
  obtain ⟨hhost, ⟨hmem, hdescs, hrgns⟩, hctxs, hring⟩ := h
  have hctx : ∀ c, (f.ctx c).standing = (e.ctx c).standing := fun c => congrFun (congrArg StopLeft.ctx k) c
  have hends := congrFun (congrArg StopLeft.ends k) (.port (Fin.ofNat 16 p))
  refine ⟨(congrArg (fun x => x.rest.host p) k :).trans hhost, ⟨(congrArg (fun x => x.rest.mem) k :).trans hmem,
    (congrArg (fun x => x.rest.descs) k :).trans hdescs, (congrArg (fun x => x.rest.rgns) k :).trans hrgns⟩, fun c hc hst => ?_, ?_⟩
  · obtain ⟨hs, hb⟩ := hctxs c hc hst
    exact ⟨(congrArg Ctx.st (hctx c) :).trans hs, (congrArg Ctx.binds (hctx c) :).trans hb⟩
  · exact ((congrArg Prod.fst hends).trans hring).trans (congrArg Prod.snd hends).symm

theorem Dev.hostGone_spec (p cause : Nat) : d.hostLostTo p (d.hostGone p cause) := by
  unfold Dev.hostGone
  extract_lets d1 d2 d3 d4 d5 q r d6 gone sq d7
  have h1 : d1.beyondStop = d.beyondStop := by
    unfold d1
    split
    · exact d.beyondStop_complete _ _ _ _ _ _
    · rfl
  have hctx2 : ∀ k, (d2.ctx k).standing = (d.ctx k).standing := fun k => congrFun (congrArg StopLeft.ctx h1) k
  have hstrat : d2.strat = d.strat := (congrArg (fun x : StopLeft => x.rest.strat) h1 :)
  have howned : d2.owned p = d.owned p := d.owned_congr hstrat hctx2 p
  obtain ⟨h3, hctx3⟩ := d2.each_orphan cause (d2.owned p)
  have h5 : d5.beyondStop = d3.beyondStop := (d4.beyondStop_satInc _ _ _ _).trans (d3.beyondStop_event _ _ _ _)
  have h57 : d7.besideLoss = d2.besideLoss :=
    (show d7.besideLoss = d5.besideLoss from rfl).trans
      ((congrArg (fun x : StopLeft => ({ x.rest with reqs := [], slotq := [], waiters := [] } : Dev)) h5 : d5.besideLoss = d3.besideLoss).trans h3)
  have hctxs75 : d7.ctxs = d5.ctxs := rfl
  have hctx7 : ∀ k, (d7.ctx k).standing = if k ∈ d.owned p then (d.ctx k).standing.orphanedOf else (d.ctx k).standing := fun k => by
    have h75 : d7.ctx k = d5.ctx k := congrArg (fun t : Tab Ctx => t.get k {}) hctxs75
    have h53 : (d5.ctx k).standing = (d3.ctx k).standing := congrFun (congrArg StopLeft.ctx h5) k
    rw [h75, h53, show (d3.ctx k).standing = _ from hctx3 k, howned, hctx2]
  have hends : d7.ring q = { d5.ring q with sqHead := (d5.ring q).sqTail } :=
    (d6.ring_of_slotq sq q).trans (d5.ring_setRing_port (Fin.ofNat 16 p) _)
  have hhost : d7.host p = none := by
    have h2 : d2.host p = none := tab_get_set_same d1.hosts p none none
    have h72 : d7.host p = d2.host p := (congrArg (fun x : Dev => x.host p) h57 :)
    exact h72.trans h2
  have hkept : d7.mem = d.mem ∧ d7.descs = d.descs ∧ d7.rgns = d.rgns := by
    have h72 : d7.mem = d2.mem ∧ d7.descs = d2.descs ∧ d7.rgns = d2.rgns :=
      ⟨(congrArg Dev.mem h57 :), (congrArg Dev.descs h57 :), (congrArg Dev.rgns h57 :)⟩
    have h21 : d2.mem = d.mem ∧ d2.descs = d.descs ∧ d2.rgns = d.rgns :=
      ⟨(congrArg (fun x : StopLeft => x.rest.mem) h1 :), (congrArg (fun x : StopLeft => x.rest.descs) h1 :),
        (congrArg (fun x : StopLeft => x.rest.rgns) h1 :)⟩
    exact ⟨h72.1.trans h21.1, h72.2.1.trans h21.2.1, h72.2.2.trans h21.2.2⟩
  clear_value d7
  refine Dev.hostLostTo_trans ⟨hhost, hkept, fun c hc hst => ?_, ?_⟩ (d7.beyondStop_each _ _ fun e w => ?_)
  · have h := hctx7 c
    rw [if_pos hc, Ctx.orphanedOf, if_neg (by
      rintro ⟨ha, hp⟩
      rcases hst with h | h
      · exact ha h
      · exact hp h)] at h
    exact ⟨(congrArg Ctx.st h :), (congrArg Ctx.binds h :)⟩
  · rw [show d7.ring (.port (Fin.ofNat 16 p)) = _ from hends]
  · split
    · exact e.beyondStop_complete _ _ _ _ _ _
    · rfl

end

section
variable (s : State) (p : Fin 16) (e : Entry) (d0 : Dev) (c : Nat)
variable (hs : s.dev.starts (.port p) e = some d0) (hc : d0.cmdCheck (.port p) e = (0, c))
include hs hc

theorem exec_attach (ho : e.opc = 0x01) : exec (.attach (.port p) e) s =
    .next { s with dev := (attachBody p.val e (d0.cmdRef (.port p) e) c d0).finish } :=
  State.devCmd_runs 0x01 (.port p) e (attachBody p.val e) s d0 c ho hs hc

theorem exec_heartbeat (ho : e.opc = 0x03) : exec (.heartbeat (.port p) e) s =
    .next { s with dev := (heartbeatBody p.val e (d0.cmdRef (.port p) e) c d0).finish } :=
  State.devCmd_runs 0x03 (.port p) e (heartbeatBody p.val e) s d0 c ho hs hc

theorem exec_detach (ho : e.opc = 0x02) : exec (.detach (.port p) e) s =
    .next { s with dev := ((d0.complete (d0.cmdRef (.port p) e) 0 0 0).hostGone p.val 1).finish } :=
  State.devCmd_runs 0x02 (.port p) e (fun ref _ d => (d.complete ref 0 0 0).hostGone p.val 1) s d0 c ho hs hc

end

section
variable (d : Dev) (p : Nat) (e : Entry) (ref : CmdRef) (c : Nat)

theorem attachBody_busy (hp : periodOk (e.arg 1) = true) {h : HostSess} (hh : d.host p = some h) :
    attachBody p e ref c d = d.complete ref 0x204 0 0 := by
  unfold attachBody
  dsimp only
  rw [hp, if_neg (by decide), hh, Option.isSome_some, if_pos rfl]

/-- The session that ATTACH establishes. -/
def Dev.attached : HostSess :=
  { period := if e.arg 1 = 0 then 100 else e.arg 1, since := d.lived (commonDom (dieOfPort p)), attach := some ref, recover := e.arg 0 = 1,
    recovered := if e.arg 0 = 1 then ((d.owned p).filter fun c => (d.ctx c).st == .orphaned).length else 0,
    waits := (d.owned p).filter fun c => (d.ctx c).st == .orphaned }

theorem attachBody_free (hp : periodOk (e.arg 1) = true) (hh : d.host p = none) : attachBody p e ref c d =
    if e.arg 0 = 1 then d.setHost p (some (d.attached p e ref))
    else (d.setHost p (some (d.attached p e ref))).each ((d.owned p).filter fun c => (d.ctx c).st == .orphaned) fun d c => d.destroy c none true := by
  unfold attachBody
  dsimp only
  rw [hp, if_neg (by decide), hh, Option.isSome_none, if_neg (by decide)]
  rfl

theorem heartbeatBody_session (hp : periodOk (e.arg 1) = true) {h : HostSess} (hh : d.host p = some h) :
    heartbeatBody p e ref c d = (d.setHost p (some { h with
      period := if e.arg 1 = 0 then h.period else e.arg 1, since := d.lived (commonDom (dieOfPort p)) })).complete ref 0 0 0 := by
  unfold heartbeatBody
  dsimp only
  rw [hp, if_neg (by decide), hh]

end

/-! ### The destruction of a context begins (R231) -/

section
variable (d : Dev) (c : Nat)

/-- A context as its destruction leaves it to drain. -/
def Dev.drainingOf (x : Ctx) : Ctx :=
  { x with
    st := .draining, parkWait := false, drainFrom := d.lived (commonDom (dieOfPort x.port)), ring := { x.ring with sqHead := x.ring.sqTail } }

theorem Dev.leftBy_drainStart : (d.updCtx c d.drainingOf).leftBy c (d.drainStart c) := by
  unfold Dev.drainStart
  extract_lets x now d1
  have h1 : d1 = d.updCtx c d.drainingOf := rfl
  rw [← h1]
  exact Dev.leftBy_trans (d1.leftBy_parkLeave c 0x02) (Dev.beyondStop_stopProgram _ _ _ _ _ _ _)

/-- A context that is asked to be destroyed, cmd and host saying by what. -/
def Ctx.doomed (x : Ctx) (cmd : Option CmdRef) (host : Bool) : Ctx :=
  { x with destroyers := x.destroyers ++ cmd.toList, destroyHost := x.destroyHost || host, destroyWanted := x.st ≠ .draining }

/-- A context that is asked to be destroyed, as its drain begins. -/
def Dev.doomedNow (cmd : Option CmdRef) (host : Bool) (x : Ctx) : Ctx := d.drainingOf { x.doomed cmd host with destroyWanted := false }

theorem Dev.destroy_waits (cmd : Option CmdRef) (host : Bool)
    (h : (d.ctx c).st = .draining ∨ (d.ctx c).parking = true ∨ (d.ctx c).unparking = true) :
    d.destroy c cmd host = d.updCtx c (·.doomed cmd host) := by
  unfold Dev.destroy
  extract_lets d1 x
  have hx : x = (d.ctx c).doomed cmd host := d.ctx_updCtx_same _ _
  rw [hx]
  by_cases hst : (d.ctx c).st = .draining
  · rw [if_pos (by simpa [Ctx.doomed] using hst)]
    rfl
  · rw [if_neg (by simpa [Ctx.doomed] using hst), if_pos (by simpa [Ctx.doomed, hst] using h)]
    rfl

theorem Dev.destroy_drains (cmd : Option CmdRef) (host : Bool) (hst : (d.ctx c).st ≠ .draining) (hp : (d.ctx c).parking = false)
    (hu : (d.ctx c).unparking = false) : (d.updCtx c (d.doomedNow cmd host)).leftBy c (d.destroy c cmd host) := by
  unfold Dev.destroy
  extract_lets d1 x
  have hx : x = (d.ctx c).doomed cmd host := d.ctx_updCtx_same _ _
  rw [hx, if_neg (by simpa [Ctx.doomed] using hst), if_neg (by simp [Ctx.doomed, hp, hu])]
  exact Dev.leftBy_of_base (Dev.leftBy_drainStart _ c) ((Dev.beyondStop_updCtx_twice _ _ _ _).trans (d.beyondStop_updCtx_twice _ _ _))

/-- What the beginning of a destruction leaves of everything but contexts. -/
theorem Dev.destroy_kept (cmd : Option CmdRef) (host : Bool) : ((d.destroy c cmd host).mem = d.mem ∧ (d.destroy c cmd host).descs = d.descs) ∧
    (d.destroy c cmd host).hosts = d.hosts := by
  by_cases h : (d.ctx c).st = .draining ∨ (d.ctx c).parking = true ∨ (d.ctx c).unparking = true
  · rw [d.destroy_waits c cmd host h]
    exact ⟨⟨rfl, rfl⟩, rfl⟩
  · simp only [not_or, Bool.not_eq_true] at h
    obtain ⟨hst, hp, hu⟩ := h
    have hl := (d.destroy_drains c cmd host hst hp hu).rest
    exact ⟨⟨(congrArg Dev.mem hl :), (congrArg Dev.descs hl :)⟩, (congrArg Dev.hosts hl :)⟩

theorem Dev.each_destroy_kept (l : List Nat) :
    (d.each l fun d c => d.destroy c none true).mem = d.mem ∧ (d.each l fun d c => d.destroy c none true).hosts = d.hosts :=
  ⟨Dev.each_same Dev.mem l _ (fun e c => (e.destroy_kept c none true).1.1) d,
    Dev.each_same Dev.hosts l _ (fun e c => (e.destroy_kept c none true).2) d⟩

end

/-- What ATTACH leaves on a free port: its session, memory, and everything where RECOVER is 1. -/
theorem attachBody_spec (d : Dev) (p : Nat) (e : Entry) (ref : CmdRef) (c : Nat) (hp : periodOk (e.arg 1) = true) (hh : d.host p = none) :
    (attachBody p e ref c d).host p = some (d.attached p e ref) ∧ (attachBody p e ref c d).mem = d.mem ∧
      (e.arg 0 = 1 → attachBody p e ref c d = { d with hosts := (attachBody p e ref c d).hosts }) := by
  rw [attachBody_free d p e ref c hp hh]
  have hset : (d.setHost p (some (d.attached p e ref))).host p = some (d.attached p e ref) := tab_get_set_same _ _ _ _
  by_cases h1 : e.arg 0 = 1
  · rw [if_pos h1]
    exact ⟨hset, rfl, fun _ => rfl⟩
  · rw [if_neg h1]
    obtain ⟨hmem, hhosts⟩ := Dev.each_destroy_kept (d.setHost p (some (d.attached p e ref)))
      ((d.owned p).filter fun c => (d.ctx c).st == .orphaned)
    exact ⟨(congrArg (fun t : Tab (Option HostSess) => t.get p none) hhosts).trans hset, hmem, fun h => absurd h h1⟩

/-- Loss of a host after a completion is loss of it from the state before. -/
theorem Dev.hostLostTo_complete (d : Dev) (p cause : Nat) (r : CmdRef) (st r0 r1 : Nat) :
    d.hostLostTo p ((d.complete r st r0 r1).hostGone p cause) := by
  have hcpl : (d.complete r st r0 r1).beyondStop = d.beyondStop := d.beyondStop_complete _ _ _ _ _ _
  have hctx : ∀ k, ((d.complete r st r0 r1).ctx k).standing = (d.ctx k).standing := fun k => congrFun (congrArg StopLeft.ctx hcpl) k
  have hstrat : (d.complete r st r0 r1).strat = d.strat := (congrArg (fun x : StopLeft => x.rest.strat) hcpl :)
  obtain ⟨hhost, ⟨hmem, hdescs, hrgns⟩, hctxs, hring⟩ := (d.complete r st r0 r1).hostGone_spec p cause
  refine ⟨hhost, ⟨hmem.trans (congrArg (fun x : StopLeft => x.rest.mem) hcpl :), hdescs.trans (congrArg (fun x : StopLeft => x.rest.descs) hcpl :),
    hrgns.trans (congrArg (fun x : StopLeft => x.rest.rgns) hcpl :)⟩, fun c hc hst => ?_, hring⟩
  have hst' : ((d.complete r st r0 r1).ctx c).st = (d.ctx c).st := (congrArg Ctx.st (hctx c) :)
  obtain ⟨hs, hb⟩ := hctxs c ((d.owned_congr hstrat hctx p).symm ▸ hc) (hst'.symm ▸ hst)
  exact ⟨hs, hb.trans (congrArg Ctx.binds (hctx c) :)⟩

theorem Dev.hostDue_of (d : Dev) (p : Nat) (h : HostSess) (hh : d.host p = some h) : d.hostDue p =
    (d.working && !d.upd.paused && d.fld row_HIF_CTL 0 f_HIF_CTL_HB_EN == 1 &&
      d.ran (commonDom (dieOfPort p)) h.since (3 * h.period * 1000000)) := by
  rw [Dev.hostDue, hh]

/-- What the loss of a host says, clause by clause. -/
theorem Dev.hostLostTo_iff (d e : Dev) (p : Nat) (h : d.hostLostTo p e) : e.host p = none ∧ e.mem = d.mem ∧ e.descs = d.descs ∧
    e.rgns = d.rgns ∧ (∀ c ∈ d.owned p, ((d.ctx c).st = .active ∨ (d.ctx c).st = .parked) →
      (e.ctx c).st = .orphaned ∧ (e.ctx c).binds = (d.ctx c).binds) ∧
    (e.ring (.port (Fin.ofNat 16 p))).sqHead = (e.ring (.port (Fin.ofNat 16 p))).sqTail :=
  ⟨h.host, h.kept.1, h.kept.2.1, h.kept.2.2, h.ctxs, h.ring⟩

/-- Settles O32: the three commands by the branches of their bodies; the loss of a host by what an orphaned context keeps. -/
theorem sessionCommands : Obligations.SessionCommands := by
  unfold Obligations.SessionCommands
  intro s
  refine ⟨fun p e d0 c hs hc => ⟨fun ho hp => ⟨fun h hh => ?_, fun hh => ?_⟩, fun ho hp h hh => ?_, fun ho => ?_⟩,
    fun p h hh => ⟨fun hdue => ?_, fun hdue => ?_⟩⟩
  · rw [exec_attach s p e d0 c hs hc ho, attachBody_busy d0 p.val e _ c hp hh]
  · refine ⟨_, exec_attach s p e d0 c hs hc ho, ?_⟩
    obtain ⟨hhosts, hmem, hrec⟩ := attachBody_spec d0 p.val e (d0.cmdRef (.port p) e) c hp hh
    exact ⟨hhosts, hmem, hrec⟩
  · refine ⟨_, (exec_heartbeat s p e d0 c hs hc ho).trans (by rw [heartbeatBody_session d0 p.val e _ c hp hh]), rfl, ?_⟩
    exact tab_get_set_same _ _ _ _
  · exact ⟨_, exec_detach s p e d0 c hs hc ho, Dev.hostLostTo_iff _ _ _ (d0.hostLostTo_complete p.val 1 _ 0 0 0)⟩
  · exact ⟨_, State.devEvent_holds (fun d => d.hostDue p.val) (fun d => d.hostGone p.val 0) s ((s.dev.hostDue_of p.val h hh).trans hdue), Dev.hostLostTo_iff _ _ _ (s.dev.hostGone_spec p.val 0)⟩
  · exact State.devEvent_not (fun d => d.hostDue p.val) (fun d => d.hostGone p.val 0) s ((s.dev.hostDue_of p.val h hh).trans hdue)

end Sys2Proof.Machine

/-! PROOF. The creation of a context (R227, R228): what an answer on a port ring leaves of contexts and commands, the context made. -/
namespace Sys2Proof.Machine

section
variable (d : Dev)

/-! ### An answer on the ring of a port (R334) -/

theorem Dev.cmdRef_q (q : Queue) (e : Entry) : (d.cmdRef q e).q = q := by
  unfold Dev.cmdRef
  split
  · next f hf =>
    have hm := (List.mem_filter.mp (List.mem_of_getLast? hf)).2
    simp only [Bool.and_eq_true, beq_iff_eq] at hm
    exact hm.1.1
  · rfl

/-- The contexts, and the commands in flight. -/
def Dev.fetchedBy : Tab Ctx × List Fetched := (d.ctxs, d.inflight)

theorem Dev.fetchedBy_setRing (n : Fin 16) (r : Ring) : (d.setRing (.port n) r).fetchedBy = d.fetchedBy := rfl

variable {d} in
theorem Dev.fetchedBy_events {e : Dev} (h : d.eventsOnly e) : e.fetchedBy = d.fetchedBy := (congrArg Dev.fetchedBy h.rest :)

theorem Dev.fetchedBy_cqWinPut (n : Fin 16) (e : Gran × Gran) : (d.cqWinPut (.port n) e).fetchedBy = d.fetchedBy :=
  (Dev.fetchedBy_events (Dev.eventsOnly_msg _ _ _ _)).trans rfl

theorem Dev.fetchedBy_cqWinFlush (n : Fin 16) : (d.cqWinFlush (.port n)).fetchedBy = d.fetchedBy := by
  refine Dev.each_same Dev.fetchedBy _ _ (fun e x => ?_) d
  split
  · exact (Dev.fetchedBy_cqWinPut _ _ _).trans (e.fetchedBy_setRing _ _)
  · rfl

/-- A notice that is not the last one leaves its command in flight, and one on a port ring changes no context. -/
theorem Dev.fetchedBy_notice (r : CmdRef) (n : Fin 16) (hq : r.q = .port n) (st r0 r1 : Nat) (g : Gran) :
    (d.complete r st r0 r1 g false).fetchedBy = d.fetchedBy := by
  unfold Dev.complete Dev.completeNow
  split
  · rfl
  · rw [hq]
    exact (Dev.fetchedBy_cqWinFlush _ _).trans (d.fetchedBy_setRing _ _)

/-! ### The bodies of CREATE_CTX and CANCEL (R227, R228) -/

variable (p : Nat) (e : Entry) (ref : CmdRef) (c : Nat)

/-- Has port p no room for a context. -/
def Dev.portFull : Prop := d.ctxSlots p + d.parkLimit p ≤ (d.owned p).length ∨ 16 ≤ (d.slotq.filter fun w => w.port == p && w.told).length

section
variable (hpages : bits (e.arg 0) 16 9 ≤ 320)
include hpages

theorem createBody_tenant (ht : d.tenantDenied (bits (e.arg 0) 0 8) p = true) : createBody p e ref c d = d.complete ref 0x209 0 0 := by
  unfold createBody
  extract_lets a tenant
  rw [if_neg (Nat.not_lt.mpr hpages), if_pos ht]

variable (ht : d.tenantDenied (bits (e.arg 0) 0 8) p = false)
include ht

theorem createBody_bed (hb : (bitOf (e.arg 0) 15 && d.bedDenied (bits (e.arg 0) 0 8) p (bits (e.arg 0) 12 3)) = true) :
    createBody p e ref c d = d.complete ref 0x20A 0 0 := by
  unfold createBody
  extract_lets a tenant
  rw [if_neg (Nat.not_lt.mpr hpages), if_neg (Bool.not_eq_true _ ▸ ht), if_pos hb]

variable (hb : (bitOf (e.arg 0) 15 && d.bedDenied (bits (e.arg 0) 0 8) p (bits (e.arg 0) 12 3)) = false)
include hb

theorem createBody_full (hf : d.portFull p) : createBody p e ref c d = d.complete ref 0x206 0 0 := by
  unfold createBody
  extract_lets a tenant
  rw [if_neg (Nat.not_lt.mpr hpages), if_neg (Bool.not_eq_true _ ▸ ht), if_neg (Bool.not_eq_true _ ▸ hb), if_pos (by simpa [Dev.portFull] using hf)]

variable (hf : ¬ d.portFull p)
include hf

theorem createBody_slot (sl : Nat) (hs : d.freeSlot p = some sl) : createBody p e ref c d = d.createIn p sl ref e := by
  unfold createBody
  extract_lets a tenant
  rw [if_neg (Nat.not_lt.mpr hpages), if_neg (Bool.not_eq_true _ ▸ ht), if_neg (Bool.not_eq_true _ ▸ hb), if_neg (by simpa [Dev.portFull] using hf), hs]

theorem createBody_park (hs : d.freeSlot p = none) (v : Nat) (hauto : d.fld row_CTX_CTL 0 f_CTX_CTL_AUTO_PARK = 1)
    (hv : d.lruIdle p = some v) : createBody p e ref c d =
      ({ d with slotq := d.slotq ++ [(⟨p, none, some (ref, e), some v, false⟩ : SlotWait)] } : Dev).startPark v := by
  unfold createBody
  extract_lets a tenant waits auto idle
  have hidle : idle = some v := (if_pos hauto).trans hv
  rw [if_neg (Nat.not_lt.mpr hpages), if_neg (Bool.not_eq_true _ ▸ ht), if_neg (Bool.not_eq_true _ ▸ hb), if_neg (by simpa [Dev.portFull] using hf), hs]
  dsimp only
  rw [hidle]

/-- The device once CREATE_CTX is told to wait (R228). -/
def Dev.toldToWait : Dev :=
  { (d.complete ref 0x205 0 0 0 false).satInc row_CTX_PORT_CNT p f_CTX_PORT_CNT_CTX_WAIT with
    slotq := d.slotq ++ [(⟨p, none, some (ref, e), none, true⟩ : SlotWait)] }

theorem createBody_waits (hs : d.freeSlot p = none) (hv : d.fld row_CTX_CTL 0 f_CTX_CTL_AUTO_PARK = 0 ∨ d.lruIdle p = none) :
    createBody p e ref c d = d.toldToWait p e ref := by
  unfold createBody
  extract_lets a tenant waits auto idle
  have hidle : idle = none := by
    rcases hv with h | h
    · exact if_neg fun ha => absurd (h.symm.trans ha) (by decide)
    · exact ite_eq_right_iff.mpr fun _ => h
  rw [if_neg (Nat.not_lt.mpr hpages), if_neg (Bool.not_eq_true _ ▸ ht), if_neg (Bool.not_eq_true _ ▸ hb), if_neg (by simpa [Dev.portFull] using hf), hs]
  dsimp only
  rw [hidle]
  have hq : (d.complete ref 0x205 0 0 0 false).slotq = d.slotq :=
    (congrArg (fun x : AnswerLeft => x.rest.slotq) (d.beyondAnswer_complete ref 0x205 0 0 0 false) :)
  exact congrArg (fun l => ({ (d.complete ref 0x205 0 0 0 false).satInc row_CTX_PORT_CNT p f_CTX_PORT_CNT_CTX_WAIT with
    slotq := l ++ [(⟨p, none, some (ref, e), none, true⟩ : SlotWait)] } : Dev)) hq

end

/-- The context that CREATE_CTX makes of number k in a slot of its port. -/
def Dev.createdCtx (k slot : Nat) : Ctx :=
  { st := .active, gen := (d.ctx k).gen, boot := d.resets % 16, port := p, tenant := bits (e.arg 0) 0 8,
    rights := BitVec.ofNat 4 (bits (e.arg 0) 8 4), bed := if bitOf (e.arg 0) 15 then some (bits (e.arg 0) 12 3) else none,
    clayPages := if bitOf (e.arg 0) 15 then bits (e.arg 0) 16 9 else 0, slot := some slot }

theorem Dev.createIn_number (slot k : Nat) (hk : (d.portCtxs p).find? (fun c => (d.ctx c).st == .free) = some k) :
    d.createIn p slot ref e = ((d.setCtx k (d.createdCtx p e k slot)).stamp k).complete ref 0
      (((d.setCtx k (d.createdCtx p e k slot)).stamp k).handle k) 0 := by
  unfold Dev.createIn
  rw [hk]
  rfl

theorem Dev.createdCtx_stamp (slot k : Nat) : ((d.setCtx k (d.createdCtx p e k slot)).stamp k).ctx k =
    { d.createdCtx p e k slot with stamp := d.now (commonDom (dieOfPort p)) } := by
  have hset : (d.setCtx k (d.createdCtx p e k slot)).ctx k = d.createdCtx p e k slot := tab_get_set_same _ _ _ _
  exact (Dev.ctx_updCtx_same _ _ _).trans (by rw [hset]; rfl)

theorem Dev.createdCtx_other (slot k j : Nat) (hj : j ≠ k) : ((d.setCtx k (d.createdCtx p e k slot)).stamp k).ctx j = d.ctx j :=
  (Dev.ctx_updCtx_other _ _ _ _ hj).trans (tab_get_set_other _ _ _ _ _ _ hj)

/-- A context whose park begins is parking. -/
theorem Dev.startPark_parking (v : Nat) : ((d.startPark v).ctx v).parking = true ∧ (d.startPark v).mem = d.mem := by
  refine ⟨?_, (Dev.clayRelease_frame _ _).2.1⟩
  unfold Dev.startPark Dev.clayRelease
  extract_lets d1
  have hctx : d1.ctxs = (d.updCtx v fun x => { x with parking := true, parkWait := false }).ctxs :=
    (congrArg Prod.fst (Dev.pagesKept_releaseAll _ _) :)
  rw [Dev.ctx_updCtx_same]
  exact (congrArg (fun m : Tab Ctx => (m.get v {}).parking) hctx).trans (congrArg Ctx.parking (d.ctx_updCtx_same v _))

/-- What a command that is told to wait leaves (R228). -/
theorem Dev.toldToWait_kept (n : Fin 16) (hq : ref.q = .port n) : (d.toldToWait p e ref).ctxs = d.ctxs ∧ (d.toldToWait p e ref).mem = d.mem ∧
    (d.toldToWait p e ref).inflight = d.inflight := by
  have h := d.fetchedBy_notice ref n hq 0x205 0 0 0
  exact ⟨(congrArg Prod.fst h :), d.complete_mem _ _ _ _ _ _, (congrArg Prod.snd h :)⟩

theorem cancelBody_none (h : (d.slotq.find? fun w => w.port == p && w.told && w.create.elim false fun c => c.1.cid.toNat == e.arg 0) = none) :
    cancelBody p e ref c d = d.complete ref 0x208 0 0 := by
  unfold cancelBody
  rw [h]

theorem cancelBody_some (w : SlotWait) (r : CmdRef) (e' : Entry)
    (h : (d.slotq.find? fun w => w.port == p && w.told && w.create.elim false fun c => c.1.cid.toNat == e.arg 0) = some w)
    (hw : w.create = some (r, e')) :
    cancelBody p e ref c d = (({ d with slotq := d.slotq.erase w } : Dev).complete r 0x207 0 0).complete ref 0 0 0 := by
  unfold cancelBody
  rw [h]
  dsimp only
  rw [hw]
  rfl

end

section
variable (s : State) (p : Fin 16) (e : Entry) (d0 : Dev) (c : Nat)
variable (hs : s.dev.starts (.port p) e = some d0) (hc : d0.cmdCheck (.port p) e = (0, c))
include hs hc

theorem exec_createCtx (ho : e.opc = 0x04) {d : Dev} (hd : createBody p.val e (d0.cmdRef (.port p) e) c d0 = d) :
    exec (.createCtx (.port p) e) s = .next { s with dev := d.finish } :=
  hd ▸ State.devCmd_runs 0x04 (.port p) e (createBody p.val e) s d0 c ho hs hc

theorem exec_cancel (ho : e.opc = 0x05) {d : Dev} (hd : cancelBody p.val e (d0.cmdRef (.port p) e) c d0 = d) :
    exec (.cancel (.port p) e) s = .next { s with dev := d.finish } :=
  hd ▸ State.devCmd_runs 0x05 (.port p) e (cancelBody p.val e) s d0 c ho hs hc

end

/-- Settles O33, by the branches of the two bodies in their order. -/
theorem contextCreateAndCancel : Obligations.ContextCreateAndCancel := by
  unfold Obligations.ContextCreateAndCancel
  intro s p e d0 c hs hc
  dsimp only
  have hq := d0.cmdRef_q (.port p) e
  generalize hr : d0.cmdRef (.port p) e = ref at hq
  have hcreate : ∀ {d : Dev}, e.opc = 0x04 → createBody p.val e ref c d0 = d →
      exec (.createCtx (.port p) e) s = .next { s with dev := d.finish } :=
    fun ho hd => exec_createCtx s p e d0 c hs hc ho (hr ▸ hd)
  have hcancel : ∀ {d : Dev}, e.opc = 0x05 → cancelBody p.val e ref c d0 = d →
      exec (.cancel (.port p) e) s = .next { s with dev := d.finish } :=
    fun ho hd => exec_cancel s p e d0 c hs hc ho (hr ▸ hd)
  refine ⟨fun ho => ⟨fun hp => hcreate ho (if_pos hp), fun hp ht => hcreate ho (createBody_tenant d0 p e ref c hp ht),
    fun hp ht => ⟨fun hb => hcreate ho (createBody_bed d0 p e ref c hp ht hb), fun hb => ⟨fun hf => hcreate ho (createBody_full d0 p e ref c hp ht hb hf),
      fun hf => ⟨fun sl k hsl hk => ?_, fun v hsl hauto hv => ?_, fun hsl hv => ?_⟩⟩⟩⟩,
    fun ho => ⟨fun hw => hcancel ho (cancelBody_none d0 p e ref c hw), fun w r e' hw hwr => hcancel ho (cancelBody_some d0 p e ref c w r e' hw hwr)⟩⟩
  · exact ⟨(d0.setCtx k (d0.createdCtx p e k sl)).stamp k,
      hcreate ho ((createBody_slot d0 p e ref c hp ht hb hf sl hsl).trans (d0.createIn_number p e ref sl k hk)), rfl,
      fun j hj => d0.createdCtx_other p e sl k j hj, d0.createdCtx_stamp p e sl k⟩
  · obtain ⟨hpark, hmem⟩ := ({ d0 with slotq := d0.slotq ++ [(⟨p.val, none, some (ref, e), some v, false⟩ : SlotWait)] } : Dev).startPark_parking v
    exact ⟨_, hcreate ho (createBody_park d0 p e ref c hp ht hb hf hsl v hauto hv), rfl, hpark, hmem⟩
  · obtain ⟨hctxs, hmem, hinfl⟩ := d0.toldToWait_kept p e ref p hq
    exact ⟨_, hcreate ho (createBody_waits d0 p e ref c hp ht hb hf hsl hv), hctxs, hmem, rfl, hinfl⟩

end Sys2Proof.Machine

/-! PROOF. The later steps of a move (R79): the device without what an event or a charge writes; the commit, the release and the
abandonment over it. -/
namespace Sys2Proof.Machine

section
variable (d : Dev)

/-! ### The device without events, charges and code tables -/

def Dev.besideLoess : Dev :=
  { d with
    evHold := [], evq := [], out := [], ports := [], regs := [], setq := [], sweeps := [], tcache := [], tensors := [], win := [],
    wire := [] }

variable {d} in
theorem Dev.besideLoess_events {e : Dev} (h : d.eventsOnly e) : e.besideLoess = d.besideLoess := (congrArg Dev.besideLoess h.rest :)

theorem Dev.besideLoess_event (dst : Option Nat) (code ctx data : Nat) : (d.event dst code ctx data).besideLoess = d.besideLoess :=
  Dev.besideLoess_events (d.eventsOnly_event _ _ _ _)

theorem Dev.besideLoess_updSq (s : Nat) (f : SetQ → SetQ) : (d.updSq s f).besideLoess = d.besideLoess := rfl

theorem Dev.besideLoess_each {α : Type} (l : List α) (f : Dev → α → Dev) (hf : ∀ e x, (f e x).besideLoess = e.besideLoess) :
    (d.each l f).besideLoess = d.besideLoess := Dev.each_same Dev.besideLoess l f hf d

theorem Dev.besideLoess_discharge (m : Nat) (l : List (Nat × Nat)) : (d.discharge m l).besideLoess = d.besideLoess :=
  d.besideLoess_each _ _ fun e _ => e.besideLoess_updSq _ _

theorem Dev.besideLoess_pressureAll : d.pressureAll.besideLoess = d.besideLoess := by
  refine d.besideLoess_each _ _ fun e s => ?_
  unfold Dev.pressureCheck
  split
  · rfl
  split
  · rfl
  extract_lets f q data
  split
  · exact (Dev.besideLoess_event _ _ _ _ _).trans (e.besideLoess_updSq s _)
  split
  · exact (Dev.besideLoess_event _ _ _ _ _).trans (Dev.besideLoess_updSq _ s _)
  · rfl

theorem Dev.besideLoess_slotIdle (t : Nat) (b : Bool) : (d.slotIdle t b).besideLoess = d.besideLoess := by
  unfold Dev.slotIdle
  extract_lets g d1
  split
  · split
    · exact d1.besideLoess_event _ _ _ _
    · rfl
  · rfl

theorem Dev.besideLoess_storedDec (t : Nat) (b : Bool) (n : Nat) : (d.storedDec t b n).besideLoess = d.besideLoess :=
  Dev.besideLoess_slotIdle _ _ _

/-! ### Abandonment and release (R77, R79) -/

variable {d} in
theorem Dev.moveOf_of_moves {e : Dev} (h : e.moves = d.moves) (x : Nat) : e.moveOf x = d.moveOf x := by
  rw [Dev.moveOf, Dev.moveOf, h]

/-- Without a move that is in hand no move of x is. -/
theorem Dev.moveOf_dropMove (x : Nat) : (d.dropMove x).moveOf x = none := by
  refine List.find?_eq_none.mpr fun m hm => ?_
  have h := (List.mem_filter.mp hm).2
  simp only [Bool.not_eq_true', Bool.and_eq_false_iff] at h
  simpa only [Bool.and_eq_true, not_and_or, Bool.not_eq_true] using h

theorem Dev.journal_jRetire (grp x : Nat) : ∀ r ∈ ((d.jRetire grp x).journal grp).recs, r.ext ≠ x := by
  intro r hr
  have hj : (d.jRetire grp x).journal grp = _ := tab_get_set_same _ _ _ _
  rw [hj] at hr
  exact of_decide_eq_true (List.mem_filter.mp hr).2

variable {d} in
theorem Dev.besideLoess_jRetire (grp x : Nat) {e : Dev} (h : e.besideLoess = d.besideLoess) :
    (e.jRetire grp x).besideLoess = (d.jRetire grp x).besideLoess := (congrArg (fun y : Dev => y.jRetire grp x) h :)

/-- An abandoned move is gone, and its extent is STABLE where it was. -/
theorem Dev.abandon_spec (x : Nat) (m : Move) (hm : d.moveOf x = some m) (hs : m.step < 5) :
    (d.abandon x).besideLoess = (((d.updDesc x fun e => { e with st := .stable }).dropMove x).jRetire m.journal x).besideLoess := by
  unfold Dev.abandon
  rw [hm]
  dsimp only
  rw [if_neg (Nat.not_le.mpr hs)]
  refine (Dev.besideLoess_pressureAll _).trans (Dev.besideLoess_jRetire _ _ ?_)
  split
  · exact Dev.besideLoess_discharge _ _ _
  · rfl

/-- The release of a move: it is recorded, and the move and its records are gone. -/
theorem Dev.moveRelease_spec (x : Nat) (m : Move) (hm : d.moveOf x = some m) (hs : m.step = 5) : ∃ r, (d.moveRelease x).besideLoess =
    (((d.jAppend m.journal r).dropMove x).jRetire m.journal x).besideLoess := by
  unfold Dev.moveRelease
  rw [hm]
  dsimp only
  rw [if_neg (not_not.mpr hs)]
  exact ⟨_, Dev.besideLoess_pressureAll _⟩

theorem Dev.released_of (x : Nat) (m : Move) (r : JRec)
    (h : (d.moveRelease x).besideLoess = (((d.jAppend m.journal r).dropMove x).jRetire m.journal x).besideLoess) :
    (d.moveRelease x).moveOf x = none ∧ (d.moveRelease x).descs = d.descs ∧ (d.moveRelease x).mem = d.mem ∧
      ∀ r ∈ ((d.moveRelease x).journal m.journal).recs, r.ext ≠ x := by
  have hmv : (d.moveRelease x).moves = ((d.jAppend m.journal r).dropMove x).moves := (congrArg Dev.moves h :)
  have hj : (d.moveRelease x).journal m.journal = (((d.jAppend m.journal r).dropMove x).jRetire m.journal x).journal m.journal :=
    (congrArg (fun y : Dev => y.journal m.journal) h :)
  refine ⟨(Dev.moveOf_of_moves hmv x).trans ((d.jAppend m.journal r).moveOf_dropMove x), (congrArg Dev.descs h :), (congrArg Dev.mem h :), ?_⟩
  rw [hj]
  exact Dev.journal_jRetire _ _ _

theorem Dev.abandoned_of (x : Nat) (m : Move) (h : (d.abandon x).besideLoess =
    (((d.updDesc x fun e => { e with st := .stable }).dropMove x).jRetire m.journal x).besideLoess) :
    (d.abandon x).moveOf x = none ∧ (d.abandon x).desc x = { d.desc x with st := .stable } ∧
      (∀ y, y ≠ x → (d.abandon x).desc y = d.desc y) ∧ (d.abandon x).mem = d.mem := by
  have hmv : (d.abandon x).moves = ((d.updDesc x fun e => { e with st := .stable }).dropMove x).moves := (congrArg Dev.moves h :)
  have hdesc : ∀ y, (d.abandon x).desc y = (d.updDesc x fun e => { e with st := .stable }).desc y := fun y =>
    (congrArg (fun z : Dev => z.desc y) h :)
  exact ⟨(Dev.moveOf_of_moves hmv x).trans (Dev.moveOf_dropMove _ x), (hdesc x).trans (d.desc_updDesc_same x _),
    fun y hy => (hdesc y).trans (d.desc_updDesc_other x y _ hy), (congrArg Dev.mem h :)⟩

/-! ### The commit (R79) -/

/-- The device without what the poison table and its events hold. -/
def Dev.besidePoison : Dev := { d.besideLoess with poison := [] }

variable {d} in
theorem Dev.besidePoison_of {e : Dev} (h : e.besideLoess = d.besideLoess) : e.besidePoison = d.besidePoison :=
  (congrArg (fun y : Dev => ({ y with poison := [] } : Dev)) h :)

theorem Dev.besidePoison_setPoison (i : Nat) (p : Option Poison) : (d.setPoison i p).besidePoison = d.besidePoison := rfl

/-- An entry for a LOCATION marks no extent. -/
theorem Dev.besidePoison_poisonAdd (p : Poison) (hp : p.kind = 4) : (d.poisonAdd p).besidePoison = d.besidePoison := by
  unfold Dev.poisonAdd
  split
  · exact Dev.besidePoison_of (d.besideLoess_event _ _ _ _)
  · next i _ =>
    have hk : ¬ (p.kind = 1 ∨ p.kind = 2) := by omega
    dsimp only
    rw [if_neg hk]
    exact d.besidePoison_setPoison _ _

/-- Entries of the poison table that follow a move change nothing else. -/
theorem Dev.besidePoison_carryPoison (x : Nat) (e e' : Desc) (h h' : Home) (w : List Nat) :
    (d.carryPoison x e e' h h' w).besidePoison = d.besidePoison := by
  refine Dev.each_same Dev.besidePoison _ _ (fun y p => ?_) d
  extract_lets ga
  split
  · rfl
  split
  · rfl
  · exact Dev.besidePoison_poisonAdd _ _ rfl

theorem Dev.poisonBit_desc (x : Nat) : ∃ b, (d.poisonBit x).desc x = { d.desc x with poisoned := b } := by
  unfold Dev.poisonBit
  split
  · exact ⟨_, rfl⟩
  · exact ⟨_, d.desc_updDesc_same x _⟩

theorem Dev.poisonBit_other (x y : Nat) (hy : y ≠ x) : (d.poisonBit x).desc y = d.desc y := by
  unfold Dev.poisonBit
  split
  · rfl
  · exact d.desc_updDesc_other _ _ _ hy

/-- The device without descriptors too. -/
def Dev.besideDescs : Dev := { d.besidePoison with descs := [] }

variable {d} in
theorem Dev.besideDescs_of {e : Dev} (h : e.besidePoison = d.besidePoison) : e.besideDescs = d.besideDescs :=
  (congrArg (fun y : Dev => ({ y with descs := [] } : Dev)) h :)

theorem Dev.besideDescs_poisonBit (x : Nat) : (d.poisonBit x).besideDescs = d.besideDescs := by
  unfold Dev.poisonBit
  split <;> rfl

/-- The device e is d but for extent x, which is as it was but for a mirror that it has no more where lost is so, and its poison mark. -/
structure Dev.shedTo (x : Nat) (lost : Bool) (e : Dev) : Prop where
  rest : e.besideDescs = d.besideDescs
  other : ∀ y, y ≠ x → e.desc y = d.desc y
  same : e.desc x = { d.desc x with mirror := if lost then none else (d.desc x).mirror, poisoned := (e.desc x).poisoned }

variable {d} in
theorem Dev.desc_of_besidePoison {e : Dev} (h : e.besidePoison = d.besidePoison) (y : Nat) : e.desc y = d.desc y :=
  (congrArg (fun z : Dev => z.desc y) h :)

theorem Dev.shedTo_mirrorDrop (x : Nat) : d.shedTo x true (d.mirrorDrop x) := by
  unfold Dev.mirrorDrop
  extract_lets e d1 d2
  split
  · next hm => exact ⟨rfl, fun _ _ => rfl, by rw [if_pos rfl, ← Option.isNone_iff_eq_none.mp hm]⟩
  have h1 : d1.besideLoess = d.besideLoess := by
    unfold d1
    split
    · exact (Dev.besideLoess_storedDec _ _ _ _).trans (d.besideLoess_storedDec _ _ _)
    · rfl
  have h2 : d2.besidePoison = d.besidePoison := by
    refine Eq.trans (Dev.each_same Dev.besidePoison _ _ (fun y p => ?_) d1) (Dev.besidePoison_of h1)
    split <;> rfl
  obtain ⟨b, hb⟩ := (d2.updDesc x fun e => { e with mirror := none }).poisonBit_desc x
  have hx : (d2.updDesc x fun e => { e with mirror := none }).desc x = { d.desc x with mirror := none } :=
    (d2.desc_updDesc_same x _).trans (congrArg (fun e : Desc => ({ e with mirror := none } : Desc)) (Dev.desc_of_besidePoison h2 x))
  refine ⟨(Dev.besideDescs_poisonBit _ x).trans (show _ = _ from Dev.besideDescs_of (e := d2) h2), fun y hy => ?_, ?_⟩
  · exact (Dev.poisonBit_other _ x y hy).trans ((d2.desc_updDesc_other x y _ hy).trans (Dev.desc_of_besidePoison h2 y))
  · rw [hb, hx, if_pos rfl]

/-- The device e is d once the move m of extent x has committed. -/
structure Dev.committedTo (x : Nat) (m : Move) (e : Dev) : Prop where
  mem : e.mem = d.mem
  moves : e.moves = d.moves.map fun n => if n.ext = x ∧ n.step ≠ 0 then { n with step := 5, charge := [] } else n
  other : ∀ y, y ≠ x → e.desc y = d.desc y
  same : e.desc x = { d.desc x with
    st := .stable, sub := m.dst.sub, set := m.dst.set, loc := m.dst.loc, slabs := m.dst.slabs, age := (e.desc x).age,
    touched := (e.desc x).touched, poisoned := (e.desc x).poisoned, mirror := if m.dst.sub then (d.desc x).mirror else none }

theorem Dev.besideLoess_wrapInc (r : RegRow) (i : Nat) (f : Fld) (k : Nat) : (d.wrapInc r i f k).besideLoess = d.besideLoess := rfl

theorem Dev.promoted_desc (x : Nat) : (d.promoted x).desc x = { d.desc x with age := 0, touched := true } := d.desc_updDesc_same x _

variable {d} in
theorem Dev.shedTo_of_base {x : Nat} {lost : Bool} {d1 e : Dev} (h : d1.shedTo x lost e) (k : d1.besideLoess = d.besideLoess) :
    d.shedTo x lost e := by
  have hk := Dev.besidePoison_of k
  refine ⟨h.rest.trans (Dev.besideDescs_of hk), fun y hy => (h.other y hy).trans (Dev.desc_of_besidePoison hk y), ?_⟩
  rw [← Dev.desc_of_besidePoison hk x]
  exact h.same

theorem Dev.shedTo_refl (x : Nat) : d.shedTo x false d := ⟨rfl, fun _ _ => rfl, rfl⟩

theorem Dev.updCmd_kept (c : Option CmdRef) (f : Fetched → Fetched) :
    (d.updCmd c f).mem = d.mem ∧ (d.updCmd c f).moves = d.moves ∧ (d.updCmd c f).descs = d.descs := by
  cases c <;> exact ⟨rfl, rfl, rfl⟩

/-- What is so of a move's device just before the move is marked as committed. -/
theorem Dev.committedTo_mark {x : Nat} {m : Move} {e : Dev} (hrest : e.besideDescs = d.besideDescs) (hother : ∀ y, y ≠ x → e.desc y = d.desc y)
    (hsame : e.desc x = { d.desc x with
      st := .stable, sub := m.dst.sub, set := m.dst.set, loc := m.dst.loc, slabs := m.dst.slabs, age := (e.desc x).age,
      touched := (e.desc x).touched, poisoned := (e.desc x).poisoned, mirror := if m.dst.sub then (d.desc x).mirror else none })
    (f : Fetched → Fetched) : d.committedTo x m ((e.updMove x fun m => { m with step := 5, charge := [] }).updCmd m.cmd f) := by
  obtain ⟨hmem, hmoves, hdescs⟩ := (e.updMove x fun m => { m with step := 5, charge := [] }).updCmd_kept m.cmd f
  have hdesc : ∀ y, ((e.updMove x fun m => { m with step := 5, charge := [] }).updCmd m.cmd f).desc y = e.desc y :=
    fun y => (congrArg (fun t : Tab Desc => t.get y {}) hdescs :)
  refine ⟨hmem.trans (congrArg Dev.mem hrest :), hmoves.trans ?_, fun y hy => (hdesc y).trans (hother y hy), ?_⟩
  · have hmv : e.moves = d.moves := (congrArg Dev.moves hrest :)
    rw [← hmv]
    refine List.map_congr_left fun n _ => if_congr ?_ rfl rfl
    simp
  · rw [hdesc]
    exact hsame

theorem Dev.committedTo_moveCommit (x : Nat) (m : Move) (hm : d.moveOf x = some m) (hs : m.step = 4) :
    d.committedTo x m (d.moveCommit x) := by
  unfold Dev.moveCommit
  rw [hm]
  dsimp -zeta only
  rw [if_neg (not_not.mpr hs)]
  extract_lets d1 d2 e e' d3 d4 up down d5 d6 d7 d8
  have h1 : d1.besideLoess = d.besideLoess := d.besideLoess_discharge _ _
  have h2 : d.shedTo x (!m.dst.sub) d2 := by
    refine Dev.shedTo_of_base ?_ h1
    by_cases hsub : m.dst.sub = true
    · rw [hsub, show d2 = d1 from if_pos hsub]
      exact d1.shedTo_refl x
    · rw [show d2 = d1.mirrorDrop x from if_neg hsub, Bool.eq_false_iff.mpr hsub]
      exact d1.shedTo_mirrorDrop x
  have h3 : d3.besidePoison = d2.besidePoison := d2.besidePoison_carryPoison _ _ _ _ _ _
  have h4 : ∀ y, y ≠ x → d4.desc y = d3.desc y := fun y hy => d3.desc_setDesc_other x y _ hy
  have h4x : d4.desc x = { e' with poisoned := (d3.desc x).poisoned } := d3.desc_setDesc_same x _
  have h5 : ∀ y, y ≠ x → d5.desc y = d4.desc y := fun y hy => by
    unfold d5
    split
    · exact d4.desc_updDesc_other _ _ _ hy
    · rfl
  have h5x : d5.desc x = { d4.desc x with age := (d5.desc x).age, touched := (d5.desc x).touched } := by
    unfold d5
    split
    · rw [d4.promoted_desc]
    · rfl
  have h5r : d5.besideDescs = d4.besideDescs := by
    unfold d5
    split <;> rfl
  have h7 : d7.besideLoess = d5.besideLoess := by
    refine (d6.besideLoess_wrapInc _ _ _ _).trans ?_
    unfold d6
    split
    · rfl
    · split <;> rfl
  have h7d : ∀ y, d7.desc y = d5.desc y := Dev.desc_of_besidePoison (Dev.besidePoison_of h7)
  refine d.committedTo_mark ?_ (fun y hy => ?_) ?_ _
  · exact (Dev.besideDescs_of (Dev.besidePoison_of h7)).trans (h5r.trans ((show d4.besideDescs = d3.besideDescs from rfl).trans
      ((Dev.besideDescs_of h3).trans h2.rest)))
  · exact (h7d y).trans ((h5 y hy).trans ((h4 y hy).trans ((Dev.desc_of_besidePoison h3 y).trans (h2.other y hy))))
  · rw [h7d, h5x, h4x]
    have he : e = _ := h2.same
    simp only [e', he]
    cases m.dst.sub <;> rfl

end

/-- Settles O19: the three bodies over the device without events and charges. -/
theorem moveCommitReleaseAbandon : Obligations.MoveCommitReleaseAbandon := by
  unfold Obligations.MoveCommitReleaseAbandon
  intro s x m hm
  have hstep : ∀ l, s.dev.moveAt x.toNat l = true → m.step ∈ l := fun l h => by
    simp only [Dev.moveAt, hm, Option.elim_some, Bool.and_eq_true, List.contains_iff_mem] at h
    exact h.2.1
  refine ⟨fun hat hlate => ?_, fun hat => ?_, fun hat hlate => ?_⟩
  · obtain ⟨hmem, hmoves, hother, hsame⟩ := s.dev.committedTo_moveCommit x.toNat m hm (List.mem_singleton.mp (hstep _ hat))
    refine ⟨_, State.devEvent_holds (fun d => d.moveAt x.toNat [4] && !d.moveLate x.toNat) (fun d => d.moveCommit x.toNat) s
      (by rw [hat, hlate]; rfl), congrArg Desc.st hsame, congrArg Desc.home hsame, hsame, hmem, fun _ => ⟨hother, hmoves⟩⟩
  · obtain ⟨r, hr⟩ := s.dev.moveRelease_spec x.toNat m hm (List.mem_singleton.mp (hstep _ hat))
    obtain ⟨hgone, hdescs, hmem, hrecs⟩ := s.dev.released_of x.toNat m r hr
    exact ⟨_, State.devEvent_holds (fun d => d.moveAt x.toNat [5]) (fun d => d.moveRelease x.toNat) s hat, hgone, hdescs, hmem, hrecs⟩
  · have h4 : m.step < 5 := by
      have h := hstep _ hat
      simp only [List.mem_cons, List.not_mem_nil, or_false] at h
      omega
    obtain ⟨hgone, hsame, hother, hmem⟩ := s.dev.abandoned_of x.toNat m (s.dev.abandon_spec x.toNat m hm h4)
    exact ⟨_, State.devEvent_holds (fun d => d.moveAt x.toNat [1, 2, 3, 4] && d.moveLate x.toNat) (fun d => d.abandon x.toNat) s
      (by rw [hat, hlate]; rfl), hgone, hsame, hother, hmem⟩

end Sys2Proof.Machine

/-! PROOF. PROMOTE, DEMOTE and UNLOAD (R67, R71, R76): moves that a command queues, and a plan that is dropped. -/
namespace Sys2Proof.Machine

section
variable (d : Dev)

/-! ### Moves that a command queues (R67) -/

/-- The move of extent x that a command queues. -/
def Dev.cmdMove (kind : MKind) (pin : Bool) (ref : CmdRef) (x : Nat) : Move :=
  { ext := x, kind := kind, want := none, pin := pin, cmd := some ref, engine := none, src := (d.desc x).home, dst := (d.desc x).home,
    step := 0, since := 0, journal := 0 }

theorem Dev.each_queueCmdMove (kind : MKind) (pin : Bool) (ref : CmdRef) (l : List Nat) :
    (d.each l fun d x => d.queueCmdMove kind x pin ref) = { d with moves := d.moves ++ l.map (d.cmdMove kind pin ref) } := by
  induction l generalizing d with
  | nil => rw [List.map_nil, List.append_nil]; rfl
  | cons x t ih =>
    refine (ih (d.queueCmdMove kind x pin ref)).trans ?_
    have hm : (d.moves ++ [d.cmdMove kind pin ref x]) ++ t.map (d.cmdMove kind pin ref) = d.moves ++ (x :: t).map (d.cmdMove kind pin ref) := by
      rw [List.map_cons, List.append_assoc]; rfl
    exact congrArg (fun l => ({ d with moves := l } : Dev)) hm

/-! ### A plan that is dropped (R76) -/

theorem Dev.beyondStop_discharge (m : Nat) (l : List (Nat × Nat)) : (d.discharge m l).beyondStop = d.beyondStop :=
  d.beyondStop_each _ _ fun e _ => e.beyondStop_updSq _ _

theorem Dev.beyondStop_storedDec (t : Nat) (b : Bool) (n : Nat) : (d.storedDec t b n).beyondStop = d.beyondStop :=
  (Dev.beyondStop_slotIdle _ _ _).trans (d.beyondStop_updTensor _ _)

theorem Dev.beyondStop_slotClear (w : WSlot) : (d.slotClear w).beyondStop = d.beyondStop := by
  unfold Dev.slotClear
  extract_lets e
  split
  · rfl
  · exact (Dev.beyondStop_storedDec _ _ _ _).trans (d.beyondStop_storedDec _ _ _)

/-- The same without moves. -/
def StopLeft.unmoved (x : StopLeft) : StopLeft := { x with rest := { x.rest with moves := [] } }

/-- The device without moves in which plan p is none. -/
def StopLeft.unplanned (x : StopLeft) (p : Nat) : StopLeft := { x with rest := { x.rest with plans := x.rest.plans.set p {} {}, moves := [] } }

/-- A plan that is dropped is none; but for moves nothing else changes that the stop of a program leaves. -/
theorem Dev.planDrop_spec (p : Nat) (hp : (d.plan p).st ≠ .none_) :
    (d.planDrop p).beyondStop.unmoved = d.beyondStop.unplanned p := by
  unfold Dev.planDrop
  extract_lets x d1 d2 mv d3 d4 d5 hit
  rw [if_neg (by simpa using hp)]
  have h1 : d1.beyondStop = d.beyondStop := by
    unfold d1
    cases x.engine with
    | none => rfl
    | some j => exact d.beyondStop_discharge _ _
  have h2 : d2.beyondStop = d.beyondStop := (d1.beyondStop_each _ _ fun e w => e.beyondStop_slotClear w).trans h1
  have h4 : d4.beyondStop = d3.beyondStop := d3.beyondStop_completeOpt _ _ _ _
  have h6 : (d5.each (List.range 8) fun d b => d.updBed b fun y => { y with run := y.run.map hit, pend := y.pend.map hit }).beyondStop =
      d4.beyondStop := d5.beyondStop_each _ _ fun e b => e.beyondStop_updBed _ _
  refine (congrArg StopLeft.unmoved (h6.trans h4)).trans ?_
  exact congrArg (fun y : StopLeft => y.unplanned p) h2

/-- What the drop of a plan leaves of plans, memory and descriptors. -/
theorem Dev.planDrop_kept (p : Nat) (hp : (d.plan p).st ≠ .none_) : (d.planDrop p).plan p = {} ∧
    (∀ k, k ≠ p → (d.planDrop p).plan k = d.plan k) ∧ (d.planDrop p).mem = d.mem ∧ (d.planDrop p).descs = d.descs := by
  have h := d.planDrop_spec p hp
  have hplans : (d.planDrop p).plans = d.plans.set p {} {} := (congrArg (fun x : StopLeft => x.rest.plans) h :)
  refine ⟨?_, fun k hk => ?_, (congrArg (fun x : StopLeft => x.rest.mem) h :), (congrArg (fun x : StopLeft => x.rest.descs) h :)⟩
  · rw [Dev.plan, hplans]
    exact tab_get_set_same _ _ _ _
  · rw [Dev.plan, hplans]
    exact tab_get_set_other _ _ _ _ _ _ hk

/-! ### The bodies -/

section
variable (e : Entry) (ph : Phys) (ref : CmdRef) (c : Nat) (d1 : Dev) (xs : List Nat)
variable (hr : extRange (e.arg 0) (bits (e.arg 1) 0 28) = true)
variable (hx : d.xlExts (d.ringAgent (d.ctx c).port) ph c (e.arg 0 / 65536) (bits (e.arg 1) 0 28) = ((0, xs), d1))
include hr hx

theorem promoteBody_queues (hpin : bitOf (e.arg 1) 32 = false) (hunpin : bitOf (e.arg 1) 33 = false) : promoteBody e ph ref c d = { d1 with
    moves := d1.moves ++ (xs.filter fun x => !(d1.desc x).ro && !(d1.desc x).reload).map (d1.cmdMove .promoteCmd false ref) } := by
  unfold promoteBody
  dsimp only
  rw [hpin, hunpin, if_neg (by decide), hr, if_neg (by decide), hx]
  exact d1.each_queueCmdMove _ _ _ _

theorem demoteBody_queues (hpin : ∀ x ∈ xs, (d1.desc x).pin = false) : demoteBody e ph ref c d = { d1 with
    moves := d1.moves ++ (xs.filter fun x => !(d1.desc x).ro && !(d1.desc x).reload).map (d1.cmdMove .demoteCmd false ref) } := by
  unfold demoteBody
  dsimp only
  rw [hr, if_neg (by decide), hx]
  refine (if_neg ?_).trans (d1.each_queueCmdMove _ _ _ _)
  simpa using hpin

theorem demoteBody_pinned (hpin : ∃ x ∈ xs, (d1.desc x).pin = true) : demoteBody e ph ref c d = d1.complete ref 0x212 0 0 := by
  unfold demoteBody
  dsimp only
  rw [hr, if_neg (by decide), hx]
  exact if_pos (by simpa using hpin)

end

theorem planLoadBody_unload (e : Entry) (ph : Phys) (ref : CmdRef) (c : Nat) (hm : bits (e.arg 0) 0 2 = 1)
    (hst : (d.plan (e.arg 2)).st ≠ .none_) (hc : (d.plan (e.arg 2)).ctx = c) :
    planLoadBody e ph ref c d = (d.planDrop (e.arg 2)).pressureAll.complete ref 0 (e.arg 2) 0 := by
  unfold planLoadBody
  rw [hm]
  exact if_neg (by simp [hst, hc])

end

/-- Settles O23: moves queued in order; a plan dropped, then the pressure of every set looked at. -/
theorem loessRingCommands : Obligations.LoessRingCommands := by
  unfold Obligations.LoessRingCommands
  intro s q e d0 c hs hc
  dsimp only
  refine ⟨fun xs d1 ph ho hr hp hu hx => ?_, fun xs d1 ph ho hr hx => ⟨fun hpin => ?_, fun hpin => ?_⟩, fun ph ho hm hst hctx => ?_⟩
  · have h := State.devCmd_runs 0x12 q e (promoteBody e ph) s d0 c ho hs hc
    rw [promoteBody_queues d0 e ph _ c d1 xs hr hx hp hu] at h
    exact h
  · have h := State.devCmd_runs 0x13 q e (demoteBody e ph) s d0 c ho hs hc
    rw [demoteBody_queues d0 e ph _ c d1 xs hr hx hpin] at h
    exact h
  · have h := State.devCmd_runs 0x13 q e (demoteBody e ph) s d0 c ho hs hc
    rw [demoteBody_pinned d0 e ph _ c d1 xs hr hx hpin] at h
    exact h
  · have h := State.devCmd_runs 0x11 q e (planLoadBody e ph) s d0 c ho hs hc
    rw [planLoadBody_unload d0 e ph _ c hm hst hctx] at h
    have hpr := (d0.planDrop (e.arg 2)).besideLoess_pressureAll
    have hplans : (d0.planDrop (e.arg 2)).pressureAll.plans = (d0.planDrop (e.arg 2)).plans := (congrArg Dev.plans hpr :)
    have hplan : ∀ k, (d0.planDrop (e.arg 2)).pressureAll.plan k = (d0.planDrop (e.arg 2)).plan k :=
      fun k => congrArg (fun t : Tab Plan => t.get k {}) hplans
    obtain ⟨hgone, hother, hmem, hdescs⟩ := d0.planDrop_kept (e.arg 2) hst
    exact ⟨_, h, (hplan _).trans hgone, fun k hk => (hplan k).trans (hother k hk), (congrArg Dev.mem hpr :).trans hmem,
      (congrArg Dev.descs hpr :).trans hdescs⟩

end Sys2Proof.Machine

/-! PROOF. Doorbells (R338): a submission tail, a completion head and the head of an event queue; what becomes of one that no queue takes. -/
namespace Sys2Proof.Machine

section
variable (d : Dev)

/-! ### Completions that wait go out (R334) -/

/-- What the completions of a port or FM ring leave as it is: memory, contexts, and of the ring its tail, its head and its mark. -/
def Dev.heldRing (q : Queue) : List Host.Cell × Tab Ctx × Nat × Nat × Bool :=
  (d.mem, d.ctxs, (d.ring q).sqTail, (d.ring q).sqHead, (d.ring q).stale)

/-- The ring of a queue, of a context or not, after its ring was set. -/
theorem Dev.ring_setRing_same (q : Queue) (r : Ring) (h : q = .fm → r.sqLog = 8 ∧ r.cqLog = 8) : (d.setRing q r).ring q = r := by
  cases q with
  | port n => exact d.ring_setRing_port n r
  | ctx c => exact congrArg Ctx.ring (d.ctx_updCtx_same c.val _)
  | fm =>
    obtain ⟨h1, h2⟩ := h rfl
    show ({ r with sqLog := 8, cqLog := 8 } : Ring) = r
    cases r
    dsimp only at h1 h2
    subst h1 h2
    rfl

variable {d} in
theorem Dev.heldRing_events {e : Dev} (q : Queue) (h : d.eventsOnly e) : e.heldRing q = d.heldRing q := by
  cases q <;> exact (congrArg (Dev.heldRing · _) h.rest :)

theorem Dev.heldRing_setRing (q : Queue) (hq : ∀ c, q ≠ .ctx c) (r : Ring)
    (h : r.sqTail = (d.ring q).sqTail ∧ r.sqHead = (d.ring q).sqHead ∧ r.stale = (d.ring q).stale) :
    (d.setRing q r).heldRing q = d.heldRing q := by
  obtain ⟨h1, h2, h3⟩ := h
  cases q with
  | port n => rw [Dev.heldRing, d.ring_setRing_port, h1, h2, h3]; rfl
  | ctx c => exact absurd rfl (hq c)
  | fm =>
    show (d.mem, d.ctxs, r.sqTail, r.sqHead, r.stale) = _
    rw [h1, h2, h3]
    rfl

theorem Dev.heldRing_cqWinPut (q : Queue) (hq : ∀ c, q ≠ .ctx c) (e : Gran × Gran) : (d.cqWinPut q e).heldRing q = d.heldRing q := by
  unfold Dev.cqWinPut
  extract_lets p r fm o d1 d2
  have h1 : d1.heldRing q = d.heldRing q := by cases q <;> rfl
  have hr : d1.ring q = r := by cases q <;> rfl
  exact (Dev.heldRing_events q (Dev.eventsOnly_msg _ _ _ _)).trans
    ((d1.heldRing_setRing q hq _ (by rw [hr]; exact ⟨rfl, rfl, rfl⟩)).trans h1)

theorem Dev.heldRing_cqWinFlush (q : Queue) (hq : ∀ c, q ≠ .ctx c) : (d.cqWinFlush q).heldRing q = d.heldRing q := by
  refine Dev.each_same (Dev.heldRing · q) _ _ (fun e x => ?_) d
  split
  · exact (Dev.heldRing_cqWinPut _ q hq _).trans (e.heldRing_setRing q hq _ ⟨rfl, rfl, rfl⟩)
  · rfl

theorem Dev.cqWinFlush_none (q : Queue) (h : (d.ring q).waiting = []) : d.cqWinFlush q = d := by
  unfold Dev.cqWinFlush
  extract_lets r
  rw [show r.waiting = [] from h]
  rfl

/-! ### A doorbell on a queue that is there (R338) -/

/-- The ring that a doorbell on a queue speaks of: those of ports and of the FM session are always set. -/
def Dev.bellRing (q : Queue) : Ring :=
  match q with
  | .ctx _ => d.ring q
  | _ => { d.ring q with isSet := true }

theorem Dev.bellRing_log (q : Queue) (h : q = .fm) : (d.bellRing q).sqLog = 8 ∧ (d.bellRing q).cqLog = 8 := by
  subst h
  exact ⟨rfl, rfl⟩

theorem Dev.bellRing_waiting (q : Queue) : (d.bellRing q).waiting = (d.ring q).waiting := by cases q <;> rfl

/-- What a doorbell on queue q leaves when it makes the ring r. -/
structure Dev.rangTo (q : Queue) (r : Ring) (e : Dev) : Prop where
  tail : (e.ring q).sqTail = r.sqTail
  head : (e.ring q).sqHead = r.sqHead
  stale : (e.ring q).stale = r.stale
  quiet : r.waiting = [] → e.ring q = r
  mem : e.mem = d.mem
  ctxs : ∀ k : Fin 4096, q ≠ .ctx k → e.ctx k.val = d.ctx k.val

theorem Dev.rangTo_setRing (q : Queue) (r : Ring) (h : q = .fm → r.sqLog = 8 ∧ r.cqLog = 8) : d.rangTo q r (d.setRing q r) := by
  have hr := d.ring_setRing_same q r h
  refine ⟨congrArg Ring.sqTail hr, congrArg Ring.sqHead hr, congrArg Ring.stale hr, fun _ => hr, by cases q <;> rfl, fun k hk => ?_⟩
  cases q with
  | port n => rfl
  | ctx c => exact d.ctx_updCtx_other _ _ _ fun hc => hk (congrArg Queue.ctx (Fin.ext hc.symm))
  | fm => rfl

theorem Dev.rangTo_flush (q : Queue) (hq : ∀ c, q ≠ .ctx c) (r : Ring) (h : q = .fm → r.sqLog = 8 ∧ r.cqLog = 8) :
    d.rangTo q r ((d.setRing q r).cqWinFlush q) := by
  have hset := d.rangTo_setRing q r h
  have hheld := (d.setRing q r).heldRing_cqWinFlush q hq
  have hctxs : ((d.setRing q r).cqWinFlush q).ctxs = (d.setRing q r).ctxs := congrArg (fun x => x.2.1) hheld
  refine ⟨(congrArg (fun x => x.2.2.1) hheld :).trans hset.tail, (congrArg (fun x => x.2.2.2.1) hheld :).trans hset.head,
    (congrArg (fun x => x.2.2.2.2) hheld :).trans hset.stale, fun hw => ?_, (congrArg Prod.fst hheld :).trans hset.mem,
    fun k hk => (congrArg (fun t : Tab Ctx => t.get k.val {}) hctxs).trans (hset.ctxs k hk)⟩
  have hr := d.ring_setRing_same q r h
  rw [Dev.cqWinFlush_none _ q (by rw [hr, hw])]
  exact hr

/-- The ring that a doorbell makes. -/
def Ring.bell (r : Ring) (kind i : Nat) : Option Ring := if kind = 1 then r.sqBell i else r.cqBell i

theorem Dev.bellQueue_refused (p : Nat) (q : Queue) (kind i : Nat) (h : (d.bellRing q).bell kind i = none) :
    d.bellQueue p q kind i = d.dropPosted p := by
  unfold Dev.bellQueue
  extract_lets r0 r
  have hr : r = d.bellRing q := by cases q <;> rfl
  rw [hr]
  split
  · rfl
  · next r' hr' => exact absurd (hr'.symm.trans h) (Option.some_ne_none r')

theorem Dev.bellQueue_taken (p : Nat) (q : Queue) (kind i : Nat) (r' : Ring) (h : (d.bellRing q).bell kind i = some r')
    (hlog : q = .fm → r'.sqLog = 8 ∧ r'.cqLog = 8) : d.rangTo q r' (d.bellQueue p q kind i) := by
  unfold Dev.bellQueue
  extract_lets r0 r
  have hr : r = d.bellRing q := by cases q <;> rfl
  rw [hr]
  split
  · next hr' => exact absurd (hr'.symm.trans h) (Option.some_ne_none r').symm
  · next r'' hr' =>
    obtain rfl : r'' = r' := Option.some.inj (hr'.symm.trans h)
    cases q with
    | port n => exact d.rangTo_flush (.port n) (fun _ => Queue.noConfusion) r'' hlog
    | fm => exact d.rangTo_flush .fm (fun _ => Queue.noConfusion) r'' hlog
    | ctx c => exact d.rangTo_setRing (.ctx c) r'' hlog

theorem Ring.sqBell_none {r : Ring} {i : Nat} (h : r.isSet = false ∨ r.faulted = true ∨ 2 ^ r.sqLog ≤ i) : r.sqBell i = none :=
  if_pos (by simpa [or_assoc] using h)

theorem Ring.sqBell_some {r : Ring} {i : Nat} (hs : r.isSet = true) (hf : r.faulted = false) (hi : i < 2 ^ r.sqLog) :
    r.sqBell i = some { r with sqTail := i, stale := false } := if_neg (by simp [hs, hf, hi])

theorem Ring.cqBell_none {r : Ring} {i : Nat} (h : r.isSet = false ∨ r.faulted = true ∨ 2 ^ r.cqLog ≤ i ∨ (r.cqUsed = 2 ^ r.cqLog ∧ i = r.cqHead)) :
    r.cqBell i = none := if_pos (by simpa [or_assoc] using h)

theorem Ring.cqBell_some {r : Ring} {i : Nat} (hs : r.isSet = true) (hf : r.faulted = false) (hi : i < 2 ^ r.cqLog)
    (hu : ¬ (r.cqUsed = 2 ^ r.cqLog ∧ i = r.cqHead)) :
    r.cqBell i = some { r with cqHead := i, cqUsed := (r.cqTail + 2 ^ r.cqLog - i) % 2 ^ r.cqLog } := if_neg (by
  simp only [hs, hf, Bool.not_true, Bool.false_or, Bool.or_eq_true, decide_eq_true_eq, Bool.and_eq_true, not_or]
  exact ⟨Nat.not_le.mpr hi, hu⟩)

/-! ### A doorbell that no queue takes -/

/-- The device that has received a doorbell: it is counted, and its credits are free again. -/
def Dev.bellArrived (p : Nat) : Dev :=
  (d.wrapInc row_OLY_CNT p f_OLY_CNT_REQUESTS).updPort p fun x => { x with reqIn := x.reqIn + 1, reqFreed := x.reqFreed + 1 }

/-- Some answer of those in ans drops a doorbell and counts it. -/
def Dev.bellGone (p : Nat) (ans : Dev → Prop) : Prop := ∃ e : Dev, ans e ∧ e = { d with regs := e.regs, ports := e.ports } ∧
  e.fld row_OLY_ERR p f_OLY_ERR_DROPPED = min f_OLY_ERR_DROPPED.top (d.fld row_OLY_ERR p f_OLY_ERR_DROPPED + 1)

/-- A posted transaction that is dropped is counted, whatever its arrival counted. -/
theorem Dev.fld_dropPosted (p : Nat) (f : Port → Port) :
    (((d.wrapInc row_OLY_CNT p f_OLY_CNT_REQUESTS).updPort p f).dropPosted p).fld row_OLY_ERR p f_OLY_ERR_DROPPED =
      min f_OLY_ERR_DROPPED.top (d.fld row_OLY_ERR p f_OLY_ERR_DROPPED + 1) := by
  have hrow : row_OLY_ERR.addr p ≠ row_OLY_CNT.addr p := by
    unfold RegRow.addr row_OLY_ERR row_OLY_CNT
    dsimp only
    omega
  have hin : ((d.wrapInc row_OLY_CNT p f_OLY_CNT_REQUESTS).updPort p f).fld row_OLY_ERR p f_OLY_ERR_DROPPED =
      d.fld row_OLY_ERR p f_OLY_ERR_DROPPED :=
    congrArg f_OLY_ERR_DROPPED.get (d.rd_setFld_other row_OLY_CNT row_OLY_ERR p p f_OLY_CNT_REQUESTS _ hrow)
  exact (Dev.fld_satInc _ row_OLY_ERR p f_OLY_ERR_DROPPED 1 (by decide)).trans (by rw [hin])

theorem Dev.bellGone_of (p : Nat) {ans : Dev → Prop} (h : ans ((d.bellArrived p).dropPosted p)) : d.bellGone p ans :=
  ⟨_, h, rfl, d.fld_dropPosted p _⟩

/-! ### The branches of a doorbell -/

section
variable (p ctx v : Nat)

theorem Dev.bell_bad (h : ¬ (bits v 12 15 = 0 ∧ (bits v 28 4 = 1 ∨ bits v 28 4 = 2 ∨ bits v 28 4 = 3))) : d.bell p ctx v = d.dropPosted p := by
  unfold Dev.bell
  refine if_pos ?_
  simp only [Bool.or_eq_true, decide_eq_true_eq, Bool.not_eq_true', Bool.or_eq_false_iff, beq_eq_false_iff_ne, beq_iff_eq]
  by_cases hz : bits v 12 15 = 0
  · exact .inl (.inr (by simpa [hz, and_assoc] using h))
  · exact .inr hz

variable (hst : d.state ≠ .failed)
include hst

variable (hz : bits v 12 15 = 0) (hk : bits v 28 4 = 1 ∨ bits v 28 4 = 2 ∨ bits v 28 4 = 3)
include hz hk

theorem Dev.bell_passes : ¬ (d.state == .failed || !(bits v 28 4 == 1 || bits v 28 4 == 2 || bits v 28 4 == 3) || bits v 12 15 ≠ 0) = true := by
  rcases hk with h | h | h <;> simp [hst, hz, h]

theorem Dev.bell_events (hc : ctx = 0) (h3 : bits v 28 4 = 3) :
    d.bell p ctx v = if bitOf v 27 then d.dropPosted p else d.bellEv p (bits v 0 12) := by
  unfold Dev.bell
  extract_lets kind i fmBit
  rw [if_neg (d.bell_passes v hst hz hk), if_pos hc, if_pos h3]

theorem Dev.bell_fm (hc : ctx = 0) (h3 : bits v 28 4 ≠ 3) (hf : bitOf v 27 = true) :
    d.bell p ctx v = if d.fmOn p then d.bellQueue p .fm (bits v 28 4) (bits v 0 12) else d.dropPosted p := by
  unfold Dev.bell
  extract_lets kind i fmBit
  rw [if_neg (d.bell_passes v hst hz hk), if_pos hc, if_neg h3, if_pos hf]

theorem Dev.bell_port (hc : ctx = 0) (h3 : bits v 28 4 ≠ 3) (hf : bitOf v 27 = false) : d.bell p ctx v =
    if d.portHost p then d.bellQueue p (.port (Fin.ofNat 16 p)) (bits v 28 4) (bits v 0 12) else d.dropPosted p := by
  unfold Dev.bell
  extract_lets kind i fmBit
  rw [if_neg (d.bell_passes v hst hz hk), if_pos hc, if_neg h3, if_neg (show ¬ fmBit = true from Bool.eq_false_iff.mp hf)]

theorem Dev.bell_none (hc : ctx ≠ 0) (h : bits v 28 4 = 3 ∨ bitOf v 27 = true ∨ d.ctxOf (some p) (BitVec.ofNat 32 ctx) = none) :
    d.bell p ctx v = d.dropPosted p := by
  unfold Dev.bell
  extract_lets kind i fmBit
  rw [if_neg (d.bell_passes v hst hz hk), if_neg hc]
  split
  · rfl
  · next hno =>
    rcases h with h3 | hf | hx
    · exact absurd (by simp [kind, h3]) hno
    · exact absurd (by simp [fmBit, hf]) hno
    · rw [hx]

variable (hc : ctx ≠ 0) (h3 : bits v 28 4 ≠ 3) (hf : bitOf v 27 = false) (c : Nat) (hx : d.ctxOf (some p) (BitVec.ofNat 32 ctx) = some c)
include hc h3 hf hx

theorem Dev.bell_gone (h : (d.ctx c).st = .draining ∨
    ((d.ctx c).st = .orphaned ∧ (bits v 28 4 = 1 ∨ d.host p = none ∨ (d.ctx c).slot = none))) : d.bell p ctx v = d.dropPosted p := by
  unfold Dev.bell
  extract_lets kind i fmBit
  rw [if_neg (d.bell_passes v hst hz hk), if_neg hc, if_neg (by simp [kind, fmBit, h3, hf]), hx]
  dsimp only
  by_cases hd : (d.ctx c).st = .draining
  · exact if_pos (by simp [hd])
  · obtain ⟨ho, hwhy⟩ := h.resolve_left hd
    rw [if_neg (by simp [hd]), if_pos (by simp [ho]), if_neg]
    rintro hall
    simp only [Bool.and_eq_true, decide_eq_true_eq] at hall
    obtain ⟨⟨⟨hk2, hhost⟩, hslot⟩, -⟩ := hall
    rcases hwhy with h | h | h
    · exact absurd (h.symm.trans hk2) (by decide)
    · rw [h] at hhost; exact absurd hhost (by decide)
    · rw [h] at hslot; exact absurd hslot (by decide)

theorem Dev.bell_active (ha : (d.ctx c).st = .active) (hpk : (d.ctx c).parking = false) (hup : (d.ctx c).unparking = false) :
    d.bell p ctx v = d.bellQueue p (.ctx (Fin.ofNat 4096 c)) (bits v 28 4) (bits v 0 12) := by
  unfold Dev.bell
  extract_lets kind i fmBit
  rw [if_neg (d.bell_passes v hst hz hk), if_neg hc, if_neg (by simp [kind, fmBit, h3, hf]), hx]
  dsimp only
  rw [ha, if_neg (by decide), if_neg (by decide), if_pos (by rw [hpk, hup]; decide)]
  rfl

theorem Dev.bell_parkFull (ha : (d.ctx c).st = .parked) (hn : 64 ≤ d.parkUsed p) : d.bell p ctx v = d.dropPosted p := by
  unfold Dev.bell
  extract_lets kind i fmBit
  rw [if_neg (d.bell_passes v hst hz hk), if_neg hc, if_neg (by simp [kind, fmBit, h3, hf]), hx]
  dsimp only
  rw [ha, if_neg (by decide), if_neg (by decide), if_neg (by simp), if_pos hn]

theorem Dev.bell_parkWait (ha : (d.ctx c).st = .parked) (hn : d.parkUsed p < 64) :
    d.bell p ctx v = (d.bellWait ⟨d.nextId, p, c, v, d.lived (commonDom (dieOfPort p)), false⟩).wantUnpark c := by
  unfold Dev.bell
  extract_lets kind i fmBit
  rw [if_neg (d.bell_passes v hst hz hk), if_neg hc, if_neg (by simp [kind, fmBit, h3, hf]), hx]
  dsimp only
  rw [ha, if_neg (by decide), if_neg (by decide), if_neg (by simp), if_neg (Nat.not_le.mpr hn), if_pos (by decide)]

end

/-- An unpark that a waiter decides, and that finds a slot at once (R227). -/
theorem Dev.wantUnpark_slot (c sl : Nat) (hup : (d.ctx c).unparking = false) (hpk : (d.ctx c).parking = false) (ht : (d.ctx c).timeoutDue = false)
    (hh : d.parksHeld = false) (hq : d.slotq = []) (hsl : d.freeSlot (d.ctx c).port = some sl) :
    d.wantUnpark c = { d.updCtx c fun x => { x with slot := some sl, unparking := true } with slotq := [] } := by
  unfold Dev.wantUnpark
  extract_lets x d1
  have hslots : d1.slotq = [⟨x.port, some c, none, none, false⟩] := congrArg (· ++ [(⟨x.port, some c, none, none, false⟩ : SlotWait)]) hq
  have hone : d1.serveOne ⟨x.port, some c, none, none, false⟩ sl = some (d1.updCtx c fun x => { x with slot := some sl, unparking := true }) :=
    if_neg (show ¬ (d1.ctx c).timeoutDue = true from Bool.eq_false_iff.mp ht)
  have hserve : d1.serveWait ⟨x.port, some c, none, none, false⟩ =
      (d1.updCtx c fun x => { x with slot := some sl, unparking := true }).dropWait ⟨x.port, some c, none, none, false⟩ := by
    unfold Dev.serveWait
    rw [if_neg (by simp [show (d1.ctx c).parking = false from hpk])]
    dsimp only
    rw [show d1.freeSlot x.port = some sl from hsl]
    dsimp only
    rw [hone]
  have hfilter : d1.slotq.filter (fun w => w.port == x.port) = [⟨x.port, some c, none, none, false⟩] := by rw [hslots]; simp
  rw [if_neg (by simp [x, hup, hq]), if_neg (by rw [show d1.parksHeld = false from hh]; simp [x, hpk])]
  unfold Dev.serveSlots
  rw [hfilter]
  refine (show _ = d1.serveWait ⟨x.port, some c, none, none, false⟩ from rfl).trans (hserve.trans ?_)
  have herase : d1.slotq.erase ⟨x.port, some c, none, none, false⟩ = [] := by rw [hslots]; simp
  exact congrArg (fun l => ({ d.updCtx c fun x => { x with slot := some sl, unparking := true } with slotq := l } : Dev)) herase

/-! ### Answers -/

section
variable (p : Nat) (q : Queue) (kind i : Nat) (r : Ring) (ans : Dev → Prop)

/-- What a doorbell on a queue answers, r being the ring that it speaks of. -/
def Dev.bellAnswers : Prop :=
  (kind = 1 → r.isSet = false ∨ r.faulted = true ∨ 2 ^ r.sqLog ≤ i → d.bellGone p ans) ∧
  (kind = 2 → r.isSet = false ∨ r.faulted = true ∨ 2 ^ r.cqLog ≤ i ∨ (r.cqUsed = 2 ^ r.cqLog ∧ i = r.cqHead) → d.bellGone p ans) ∧
  (kind = 1 → r.isSet = true → r.faulted = false → i < 2 ^ r.sqLog → ∃ e : Dev, ans e ∧
    (e.ring q).sqTail = i ∧ (e.ring q).sqHead = r.sqHead ∧ (e.ring q).stale = false ∧
    (r.waiting = [] → e.ring q = { r with sqTail := i, stale := false }) ∧ e.mem = d.mem ∧
    ∀ k : Fin 4096, q ≠ .ctx k → e.ctx k.val = d.ctx k.val) ∧
  (kind = 2 → r.isSet = true → r.faulted = false → i < 2 ^ r.cqLog → ¬ (r.cqUsed = 2 ^ r.cqLog ∧ i = r.cqHead) →
    r.waiting = [] → ∃ e : Dev, ans e ∧
    e.ring q = { r with cqHead := i, cqUsed := (r.cqTail + 2 ^ r.cqLog - i) % 2 ^ r.cqLog } ∧ e.mem = d.mem ∧
    ∀ k : Fin 4096, q ≠ .ctx k → e.ctx k.val = d.ctx k.val)

theorem Dev.bellAnswers_of (hr : r = d.bellRing q) (h : ans ((d.bellArrived p).bellQueue p q kind i)) : d.bellAnswers p q kind i r ans := by
  have hring : (d.bellArrived p).bellRing q = r := hr.symm ▸ (by cases q <;> rfl)
  have hlog : q = .fm → r.sqLog = 8 ∧ r.cqLog = 8 := fun hq => hr ▸ d.bellRing_log q hq
  have hgone : ((d.bellArrived p).bellRing q).bell kind i = none → d.bellGone p ans := fun hno =>
    d.bellGone_of p ((d.bellArrived p).bellQueue_refused p q kind i hno ▸ h)
  have htaken : ∀ r', ((d.bellArrived p).bellRing q).bell kind i = some r' → (q = .fm → r'.sqLog = 8 ∧ r'.cqLog = 8) →
      d.rangTo q r' ((d.bellArrived p).bellQueue p q kind i) := fun r' hsome hl =>
    have hto := (d.bellArrived p).bellQueue_taken p q kind i r' hsome hl
    ⟨hto.tail, hto.head, hto.stale, hto.quiet, hto.mem, hto.ctxs⟩
  rw [hring] at hgone htaken
  refine ⟨fun hk hbad => hgone ((if_pos hk).trans (Ring.sqBell_none hbad)), fun hk hbad => hgone ?_, fun hk hs hf hi => ?_,
    fun hk hs hf hi hu hw => ?_⟩
  · exact (if_neg (by omega)).trans (Ring.cqBell_none hbad)
  · have hto := htaken _ ((if_pos hk).trans (Ring.sqBell_some hs hf hi)) hlog
    exact ⟨_, h, hto.tail, hto.head, hto.stale, hto.quiet, hto.mem, hto.ctxs⟩
  · have hto := htaken _ ((if_neg (by omega)).trans (Ring.cqBell_some hs hf hi hu)) hlog
    exact ⟨_, h, hto.quiet hw, hto.mem, hto.ctxs⟩

end

theorem Dev.bellArrive_running (p : Nat) (ctx v : BitVec 32) (hp : (d.port p).presents = true) (hf : d.freezes = .running) :
    d.bellArrive p ctx v = (d.bellArrived p).bell p ctx.toNat v.toNat := by
  unfold Dev.bellArrive
  rw [if_neg (by simp [hp])]
  exact if_pos (by rw [show ((d.wrapInc row_OLY_CNT p f_OLY_CNT_REQUESTS).updPort p fun x =>
    { x with reqIn := x.reqIn + 1, reqFreed := x.reqFreed + 1 }).freezes = .running from hf]; rfl)

end

theorem Fin.ofNat_toNat_self {n : Nat} [NeZero n] (p : Fin n) : Fin.ofNat n p.val = p := Fin.ext (Nat.mod_eq_of_lt p.isLt)

/-- A doorbell on the event queue that is refused. -/
theorem Dev.bellEv_refused (d : Dev) (p i : Nat) (h : d.evqPresent p = false ∨ 256 ≤ i ∨ ((d.evq.get p {}).used = 256 ∧ i = (d.evq.get p {}).head)) :
    d.bellEv p i = d.dropPosted p := if_pos (by simpa [or_assoc] using h)

theorem Dev.bellEv_taken (d : Dev) (p i : Nat) (he : d.evqPresent p = true) (hi : i < 256)
    (hu : ¬ ((d.evq.get p {}).used = 256 ∧ i = (d.evq.get p {}).head)) : d.bellEv p i =
    { d with evq := d.evq.set p { d.evq.get p {} with head := i, used := ((d.evq.get p {}).tail + 256 - i) % 256 } {} } := if_neg (by
  simp only [he, Bool.not_true, Bool.false_or, Bool.or_eq_true, decide_eq_true_eq, Bool.and_eq_true, not_or]
  exact ⟨Nat.not_le.mpr hi, hu⟩)

theorem exec_bell (s : State) (p : Fin 16) (ctx : BitVec 32) (v : BellAt) (hp : (s.dev.port p.val).presents = true) (hf : s.dev.freezes = .running)
    (c : Instr) (hc : c = .dbSqTail p ctx v ∨ c = .dbCqHead p ctx v ∨ (ctx = 0 ∧ c = .dbEvqHead p v)) :
    exec c s = .next { s with dev := ((s.dev.bellArrived p.val).bell p.val ctx.toNat v.v.toNat).finish v.ph } := by
  rw [← s.dev.bellArrive_running p.val ctx v.v hp hf]
  rcases hc with rfl | rfl | ⟨rfl, rfl⟩ <;> rfl

/-- Settles O43, by the branches of a doorbell. -/
theorem doorbells : Obligations.Doorbells := by
  unfold Obligations.Doorbells
  intro s p ctx v hp hf hst
  dsimp only
  intro c hc
  have hexec := exec_bell s p ctx v hp hf c hc
  generalize hw : v.v.toNat = w at hexec
  have hans : ∀ d, (s.dev.bellArrived p.val).bell p.val ctx.toNat w = d → exec c s = .next { s with dev := d.finish v.ph } :=
    fun d hd => hd ▸ hexec
  have h0' : ctx = 0 → ctx.toNat = 0 := fun h => h ▸ rfl
  have hctx : ctx ≠ 0 → ctx.toNat ≠ 0 := fun h h0 => h (BitVec.eq_of_toNat_eq h0)
  have hof : ∀ k, s.dev.ctxOf (some p.val) ctx = k → (s.dev.bellArrived p.val).ctxOf (some p.val) (BitVec.ofNat 32 ctx.toNat) = k := fun k hk => by
    rw [BitVec.ofNat_toNat, BitVec.setWidth_eq]
    exact hk
  have hst' : (s.dev.bellArrived p.val).state ≠ .failed := hst
  refine ⟨fun hbad => Dev.bellGone_of _ _ (hans _ (Dev.bell_bad _ _ _ _ hbad)), fun ⟨hz, hk⟩ h0 => ⟨fun h3 hfm => ⟨fun hno => ?_, fun hyes => ?_⟩,
    fun h3 hfm => ⟨fun hno => ?_, fun hyes => ?_⟩, fun h3 => ⟨fun hno => ?_, fun hfm hyes hi hu => ?_⟩⟩,
    fun ⟨hz, hk⟩ h0 => ⟨fun hno => ?_, fun k h3 hfm hx => ⟨fun hno => ?_, fun ha hpk hup => ?_, fun ha hn => ?_,
      fun sl ha hn hpk hup ht hport hheld hq hsl => ?_⟩⟩⟩
  · exact Dev.bellGone_of _ _ (hans _ ((Dev.bell_port _ _ _ _ hst' hz hk (h0' h0) h3 hfm).trans (if_neg (Bool.eq_false_iff.mp hno))))
  · exact s.dev.bellAnswers_of p.val (.port p) _ _ _ _ rfl (hans _ ((Dev.bell_port _ _ _ _ hst' hz hk (h0' h0) h3 hfm).trans
      ((if_pos hyes).trans (by rw [Fin.ofNat_toNat_self]))))
  · exact Dev.bellGone_of _ _ (hans _ ((Dev.bell_fm _ _ _ _ hst' hz hk (h0' h0) h3 hfm).trans (if_neg (Bool.eq_false_iff.mp hno))))
  · exact s.dev.bellAnswers_of p.val .fm _ _ _ _ rfl (hans _ ((Dev.bell_fm _ _ _ _ hst' hz hk (h0' h0) h3 hfm).trans (if_pos hyes)))
  · refine Dev.bellGone_of _ _ (hans _ ((Dev.bell_events _ _ _ _ hst' hz hk (h0' h0) h3).trans ?_))
    split
    · rfl
    · next hfm => exact Dev.bellEv_refused _ _ _ (hno.resolve_left hfm)
  · refine ⟨_, hans _ ((Dev.bell_events _ _ _ _ hst' hz hk (h0' h0) h3).trans ((if_neg (Bool.eq_false_iff.mp hfm)).trans
      (Dev.bellEv_taken _ _ _ hyes hi hu))), ?_, rfl⟩
    exact tab_get_set_same _ _ _ _
  · exact Dev.bellGone_of _ _ (hans _ (Dev.bell_none _ _ _ _ hst' hz hk (hctx h0) (hno.imp_right (·.imp_right (hof none)))))
  · exact Dev.bellGone_of _ _ (hans _ (Dev.bell_gone _ _ _ _ hst' hz hk (hctx h0) h3 hfm k.val (hof _ hx) hno))
  · exact s.dev.bellAnswers_of p.val (.ctx k) _ _ _ _ rfl (hans _ ((Dev.bell_active _ _ _ _ hst' hz hk (hctx h0) h3 hfm k.val (hof _ hx) ha hpk hup).trans
      (by rw [Fin.ofNat_toNat_self])))
  · exact Dev.bellGone_of _ _ (hans _ (Dev.bell_parkFull _ _ _ _ hst' hz hk (hctx h0) h3 hfm k.val (hof _ hx) ha hn))
  · have hto := Dev.wantUnpark_slot ((s.dev.bellArrived p.val).bellWait ⟨s.dev.nextId, p.val, k.val, w, s.dev.lived (commonDom (dieOfPort p.val)), false⟩)
      k.val sl hup hpk ht hheld hq (hport.symm ▸ hsl)
    exact ⟨_, hans _ ((Dev.bell_parkWait _ _ _ _ hst' hz hk (hctx h0) h3 hfm k.val (hof _ hx) ha hn).trans hto),
      tab_get_set_same _ _ _ _, rfl, rfl⟩

end Sys2Proof.Machine

/-! PROOF. FM messages on a device that failed before it was frozen (R376, log 45): they are dropped, so the statement that the port holds
them fails there. -/
namespace Sys2Proof.Machine

/-- A frozen device with no CFG completion to send ends a step as it is. -/
theorem Dev.finish_frozen_quiet (d : Dev) (hf : d.freezes = .frozen) (hr : d.reqs = []) : d.finish = d := by
  unfold Dev.finish
  rw [hf, if_neg (by decide), hr]
  rfl

/-- A message that is not accepted by the device is dropped. -/
theorem Dev.msgArrive_dropped (d : Dev) (p n : Nat) (go : Dev → Dev) (hp : (d.port p).presents = true) : d.msgArrive p n false go =
    ((d.wrapInc row_OLY_CNT p f_OLY_CNT_REQUESTS).updPort p fun x => { x with ctlIn := x.ctlIn + vcGran n }).dropPosted p := by
  unfold Dev.msgArrive
  rw [hp]
  rfl

/-- A device that has failed drops every hello. -/
theorem exec_fmHello_failed (s : State) (p : Fin 16) (n : Nat) (pl : List Byte) (hp : (s.dev.port p.val).presents = true)
    (hd : s.dev.failed = true) : exec (.fmHello p n pl) s = .next { s with dev :=
      (((s.dev.wrapInc row_OLY_CNT p.val f_OLY_CNT_REQUESTS).updPort p.val fun x =>
        { x with ctlIn := x.ctlIn + vcGran n }).dropPosted p.val).finish } := by
  rw [← Dev.msgArrive_dropped _ _ _ (fun d => { d with msgs := d.msgs ++
    [(⟨p.val, false, s.sec.endorsed pl, pl, d.lived (portDom p.val), (d.lockout.get p.val none).isSome⟩ : HeldMsg)] }) hp]
  have hok : ((n == 168 && pl.length == 32 * n && helloZeros pl) && !s.dev.failed) = false := by rw [hd]; exact Bool.and_false _
  exact congrArg (fun ok => Host.Outcome.next { s with dev := (s.dev.msgArrive p.val n ok fun d => { d with msgs := d.msgs ++
    [(⟨p.val, false, s.sec.endorsed pl, pl, d.lived (portDom p.val), (d.lockout.get p.val none).isSome⟩ : HeldMsg)] }).finish }) hok

/-- A device that failed, and then was frozen; its port 0 is ACTIVE. -/
def failedFrozen : State := { dev := { state := .frozen, before := .failed, freezes := .frozen, ports := [(0, { st := .active })] } }

/-- Refutes O44: a device that failed and is frozen reads STATE FROZEN, not DEVICE_FAILED, and still handles no attach any more; a hello
that arrives there is dropped, where the statement says that the port holds it. -/
theorem not_fmAttachment : ¬ Obligations.FmAttachment := by
  unfold Obligations.FmAttachment
  intro h
  have hpl : (List.replicate 5376 (0 : Byte)).length = 32 * 168 := List.length_replicate
  have hzeros : helloZeros (List.replicate 5376 0) = true := by
    unfold helloZeros slice
    rw [List.all_eq_true]
    intro b hb
    have hmem : b ∈ List.replicate 5376 (0 : Byte) :=
      (List.mem_append.mp hb).elim (fun h => List.mem_of_mem_drop (List.mem_of_mem_take h)) List.mem_of_mem_drop
    exact decide_eq_true (List.eq_of_mem_replicate hmem)
  obtain ⟨-, hhello, -⟩ := h failedFrozen 0 (by decide)
  obtain ⟨d, hexec, hrest, hmsgs⟩ := (hhello (List.replicate 5376 0) (by decide) hpl hzeros).1 (by decide)
  have hdrop := exec_fmHello_failed failedFrozen 0 168 (List.replicate 5376 0) (by decide) (by decide)
  have hfin := congrArg (fun o : Host.Outcome State Fault Refusal => match o with
    | .next t => t.dev.msgs
    | _ => []) (hexec.symm.trans hdrop)
  have hd : d.finish = d := d.finish_frozen_quiet ((congrArg Dev.freezes hrest).trans rfl) ((congrArg Dev.reqs hrest).trans rfl)
  have hgone : d.msgs = [] := (congrArg Dev.msgs hd).symm.trans (hfin.trans rfl)
  exact List.append_ne_nil_of_right_ne_nil _ (List.cons_ne_nil _ _) (hmsgs.symm.trans hgone)

end Sys2Proof.Machine

/-! PROOF. Training and the states of a port (R311 to R313): flits that leave, a port that goes DOWN, what a port reset leaves of its
registers, a retrain. -/
namespace Sys2Proof.Machine

section
variable (d : Dev)

/-! ### Flits that leave (R310) -/

theorem Dev.sendWord_eq (p : Nat) (a b : FlitBits) : ∃ w : List Sent, w ≠ [] ∧ d.sendWord p a b =
    ({ d with wire := d.wire ++ w } : Dev).updPort p fun x => { x with txWords := (d.port p).txWords + 1 } := by
  unfold Dev.sendWord
  extract_lets x n w m
  exact ⟨m ++ [⟨p, n, [a, b], laneShares w (codeword n a b)⟩], List.append_ne_nil_of_right_ne_nil _ (List.cons_ne_nil _ _),
    congrArg (fun l => ({ d with wire := l } : Dev).updPort p fun x => { x with txWords := n + 1 }) (List.append_assoc _ _ _)⟩

/-- The device without its ports and what is on the wire. -/
def Dev.besideLink : Dev := { d with ports := [], wire := [] }

variable {d} in
theorem Dev.eq_of_besideLink {e : Dev} (h : e.besideLink = d.besideLink) : e = { d with ports := e.ports, wire := e.wire } :=
  (congrArg (fun x : Dev => ({ x with ports := e.ports, wire := e.wire } : Dev)) h :)

/-- Words left by the port's transmitter: what is on the wire grows, and the port counts them, two flits to a word. -/
structure Dev.sentTo (p n : Nat) (e : Dev) : Prop where
  rest : e.besideLink = d.besideLink
  wire : ∃ w, e.wire = d.wire ++ w ∧ (n ≠ 0 → w ≠ [])
  port : e.port p = { d.port p with txWords := (d.port p).txWords + (n + 1) / 2 }
  other : ∀ q, q ≠ p → e.port q = d.port q

theorem Dev.sentTo_sendWord (p : Nat) (a b : FlitBits) (n : Nat) (hn : (n + 1) / 2 = 1) : d.sentTo p n (d.sendWord p a b) := by
  obtain ⟨w, hw, heq⟩ := d.sendWord_eq p a b
  rw [heq]
  refine ⟨rfl, ⟨w, rfl, fun _ => hw⟩, ?_, fun q hq => Dev.port_updPort_other _ _ _ _ hq⟩
  rw [Dev.port_updPort_same, hn]
  rfl

variable {d} in
theorem Dev.sentTo_trans {p n m k : Nat} {e f : Dev} (h : d.sentTo p n e) (g : e.sentTo p m f) (hk : (k + 1) / 2 = (n + 1) / 2 + (m + 1) / 2)
    (hn : n ≠ 0) : d.sentTo p k f := by
  obtain ⟨w, hw, hwn⟩ := h.wire
  obtain ⟨v, hv, -⟩ := g.wire
  refine ⟨g.rest.trans h.rest, ⟨w ++ v, by rw [hv, hw, List.append_assoc], fun _ => List.append_ne_nil_of_left_ne_nil (hwn hn) _⟩, ?_,
    fun q hq => (g.other q hq).trans (h.other q hq)⟩
  rw [g.port, h.port, hk, Nat.add_assoc]

theorem Dev.sentTo_sendFlits (d : Dev) (p : Nat) (l : List FlitBits) : d.sentTo p l.length (d.sendFlits p l) := by
  match l with
  | [] => exact ⟨rfl, ⟨[], (List.append_nil _).symm, fun h => absurd rfl h⟩, rfl, fun _ _ => rfl⟩
  | [a] => exact d.sentTo_sendWord p a _ 1 rfl
  | a :: b :: t =>
    exact Dev.sentTo_trans (d.sentTo_sendWord p a b 2 rfl) (Dev.sentTo_sendFlits _ p t) (by simp only [List.length_cons]; omega) (by decide)

variable {d} in
theorem Dev.sentTo_wire {p n : Nat} {e : Dev} (h : d.sentTo p n e) (hn : n ≠ 0) : d.wire.length < e.wire.length := by
  obtain ⟨w, hw, hne⟩ := h.wire
  rw [hw, List.length_append]
  exact Nat.lt_add_of_pos_right (List.length_pos_iff.mpr (hne hn))

variable {d} in
/-- What leaves adds to what is on the wire. -/
theorem Dev.sentTo_wire_le {p n : Nat} {e : Dev} (h : d.sentTo p n e) : d.wire.length ≤ e.wire.length := by
  obtain ⟨w, hw, -⟩ := h.wire
  rw [hw, List.length_append]
  exact Nat.le_add_right _ _

/-! ### Nothing is taken from the wire -/

/-- What is on the wire stays there. -/
def Dev.wireKept (e : Dev) : Prop := d.wire.length ≤ e.wire.length

theorem Dev.wireKept_txPump (p : Nat) : d.wireKept (d.txPump p) := by
  unfold Dev.txPump
  extract_lets x r
  split
  · exact Nat.le_refl _
  · exact (Dev.sentTo_wire_le (Dev.sentTo_sendFlits (d.setPort p r.2) p r.1) : (d.setPort p r.2).wire.length ≤ _)

theorem Dev.ctlTake_wire (p n : Nat) : (d.ctlTake p n).wire = d.wire := by
  induction n generalizing d with
  | zero => rfl
  | succ n ih =>
    unfold Dev.ctlTake
    extract_lets x
    split
    · rfl
    · extract_lets k
      split
      · exact (ih _).trans rfl
      · rfl

theorem Dev.wireKept_msg (p cls : Nat) (g : List Gran) : d.wireKept (d.msg p cls g) := by
  unfold Dev.msg
  split
  · have h := Dev.wireKept_txPump
      ((d.updPort p fun x => { x with ctlQ := x.ctlQ ++ [(cls, g)] }).ctlTake p ((d.port p).ctlQ.length + 1)) p
    rw [Dev.wireKept, Dev.ctlTake_wire] at h
    exact h
  · exact Nat.le_refl _

theorem Dev.wireKept_evPut (p g0 : Nat) (g1 : Gran) : d.wireKept (d.evPut p g0 g1) := by
  unfold Dev.evPut
  extract_lets q e o q'
  exact ((d.winSet p o e).winSet p (o + 32) g1).wireKept_msg p 2 [e, g1]

theorem Dev.wireKept_evSend (p g0 : Nat) (g1 : Gran) : d.wireKept (d.evSend p g0 g1) := by
  unfold Dev.evSend
  split
  · exact Nat.le_refl _
  · extract_lets q d1
    have h1 : d.wireKept d1 := by
      unfold d1
      split
      · exact (Dev.wireKept_evPut _ _ _ _ : ({ d with evq := d.evq.set p { q with dropped := 0 } {} } : Dev).wireKept _)
      · exact Nat.le_refl _
    split
    · exact Nat.le_trans h1 (d1.wireKept_evPut p g0 g1)
    · exact h1

theorem Dev.wireKept_event (dst : Option Nat) (code ctx data : Nat) : d.wireKept (d.event dst code ctx data) := by
  unfold Dev.event Dev.evGo
  extract_lets dom g0 g1
  split
  · split
    · exact d.wireKept_evSend _ _ _
    · split
      · exact Nat.le_refl _
      · exact d.wireKept_evSend _ _ _
  · exact Nat.le_refl _

/-! ### A port that goes DOWN, and a port reset (R311) -/

theorem Dev.portResetEffects_mem (p : Nat) : (d.portResetEffects p).mem = d.mem := by
  unfold Dev.portResetEffects
  extract_lets mine d1 d2 d3
  have h1 : d1.mem = d.mem := Dev.each_same Dev.mem _ _ (fun e r => by
    have h := (Dev.beyondStop_refsRelease (e.discharge r.cmaster r.charge) r.refs).trans (e.beyondStop_discharge _ _)
    exact (congrArg (fun x : StopLeft => x.rest.mem) h :)) d
  have h4 : (d3.olyClear p).mem = d3.mem := Dev.each_same Dev.mem _ (fun d r => d.wr r p r.resetValue) (fun _ _ => rfl) d3
  have h6 : (((d3.olyClear p).portTimerZero p).fmEnd p).mem = (d3.olyClear p).mem := by
    unfold Dev.fmEnd
    split <;> rfl
  exact h6.trans (h4.trans ((show d3.mem = d1.mem from rfl).trans h1))

/-- A row of the list is at its reset value once all are. -/
theorem Dev.rd_each_reset (p : Nat) (r : RegRow) (l : List RegRow) (h : ∀ q ∈ l, q.addr p = r.addr p → q = r)
    (hr : r ∈ l ∨ d.rd r p = r.resetValue) : (d.each l fun d r => d.wr r p r.resetValue).rd r p = r.resetValue := by
  induction l generalizing d with
  | nil => exact hr.resolve_left List.not_mem_nil
  | cons q t ih =>
    refine ih (d.wr q p q.resetValue) (fun x hx => h x (List.mem_cons_of_mem q hx)) ?_
    by_cases ha : q.addr p = r.addr p
    · obtain rfl := h q List.mem_cons_self ha
      exact .inr (d.rd_wr_same q p _)
    · rcases hr with hm | hv
      · rcases List.mem_cons.mp hm with rfl | hm
        · exact absurd rfl ha
        · exact .inl hm
      · exact .inr ((d.rd_wr_other _ _ _ _ _ (Ne.symm ha)).trans hv)

/-- The registers of a port, which a port reset puts at their reset values. -/
def olyRows : List RegRow := [row_OLY_CTL, row_OLY_STATUS, row_OLY_RETRY, row_OLY_FEC, row_OLY_LANE, row_OLY_CNT, row_OLY_ERR, row_OLY_TRAIN]

theorem olyRows_addr (p : Nat) (q r : RegRow) (hq : q ∈ olyRows) (hr : r ∈ olyRows) (h : q.addr p = r.addr p) : q = r := by
  have hstride : ∀ x ∈ olyRows, x.stride = 0x10000 := by decide
  have hbase : ∀ x ∈ olyRows, ∀ y ∈ olyRows, x.base = y.base → x = y := by decide
  unfold RegRow.addr at h
  rw [hstride q hq, hstride r hr] at h
  exact hbase q hq r hr (Nat.add_right_cancel h)

theorem Dev.rd_portResetEffects (p : Nat) (r : RegRow) (hr : r ∈ olyRows) : (d.portResetEffects p).rd r p = r.resetValue := by
  unfold Dev.portResetEffects
  extract_lets mine d1 d2 d3
  have h4 : (d3.olyClear p).rd r p = r.resetValue := d3.rd_each_reset p r olyRows (fun q hq h => olyRows_addr p q r hq hr h) (.inl hr)
  have h6 : (((d3.olyClear p).portTimerZero p).fmEnd p).regs = (d3.olyClear p).regs := by
    unfold Dev.fmEnd
    split <;> rfl
  exact (congrArg (fun t : Tab Word => t.get (r.addr p) r.resetValue) h6).trans h4

/-- The device e is d once port p has gone DOWN with a cause. -/
structure Dev.downTo (p cause : Nat) (e : Dev) : Prop where
  st : (e.port p).st = .down
  cause : e.fld row_OLY_STATUS p f_OLY_STATUS_DOWN_CAUSE = cause
  mem : e.mem = d.mem

theorem Dev.downTo_portDown (p cause : Nat) (imm : Bool) (hc : cause < 16) : d.downTo p cause (d.portDown p cause imm) := by
  unfold Dev.portDown
  extract_lets d1
  refine ⟨congrArg Port.st (Dev.port_updPort_same _ _ _), ?_, ?_⟩
  · exact (Dev.fld_setFld_same d1 row_OLY_STATUS p f_OLY_STATUS_DOWN_CAUSE cause (by decide)).trans (Nat.mod_eq_of_lt hc)
  · refine (show _ = d1.mem from rfl).trans ?_
    unfold d1
    split
    · exact d.portResetEffects_mem p
    · rfl

/-- A port that was up is reset when it goes DOWN. -/
theorem Dev.portDown_reset (p cause : Nat) (imm : Bool) (hup : (d.port p).st.up = true) : (d.portDown p cause imm).timers.get (portDom p) 0 = 0 ∧
    ∀ r ∈ olyRows, r ≠ row_OLY_STATUS → (d.portDown p cause imm).rd r p = r.resetValue := by
  unfold Dev.portDown
  rw [if_pos hup]
  refine ⟨(d.portResetEffects_spec p).2, fun r hr hne => ?_⟩
  refine (Dev.rd_setFld_other _ row_OLY_STATUS r p p _ _ fun h => hne ?_).trans (d.rd_portResetEffects p r hr)
  exact olyRows_addr p r row_OLY_STATUS hr (by decide) h

/-! ### Training ends (R312) -/

theorem Dev.trained_noHalf (p : Nat) (lanes : BitVec 8) (f : FarEnd) (hw : widthOf lanes (d.fld row_OLY_CTL p f_OLY_CTL_FORCE_X4 == 1) = 0) :
    d.downTo p 4 (d.trained p lanes f) := by
  unfold Dev.trained
  extract_lets w x d1
  rw [if_pos hw]
  have hs := d.sentTo_sendFlits p [x.trainFlit p 1 f, x.trainFlit p 2 f]
  obtain ⟨hst, hcause, hmem⟩ := (d.sendFlits p [x.trainFlit p 1 f, x.trainFlit p 2 f]).downTo_portDown p 4 false (by decide)
  exact ⟨hst, hcause, hmem.trans (congrArg Dev.mem hs.rest :)⟩

section
variable (p : Nat) (lanes : BitVec 8) (f : FarEnd) (hw : widthOf lanes (d.fld row_OLY_CTL p f_OLY_CTL_FORCE_X4 == 1) ≠ 0)
include hw

theorem Dev.trained_misfit (hf : f.proto ≠ 1 ∨ f.role = 1) : d.downTo p 6 (d.trained p lanes f) := by
  unfold Dev.trained
  extract_lets w x d1
  rw [if_neg hw, if_pos (by simpa using hf)]
  have hs := d.sentTo_sendFlits p [x.trainFlit p 1 f, x.trainFlit p 2 f, x.trainFlit p 3 f]
  obtain ⟨hst, hcause, hmem⟩ := d1.downTo_portDown p 6 false (by decide)
  exact ⟨hst, hcause, hmem.trans (congrArg Dev.mem hs.rest :)⟩

/-- What training leaves of a port that its lanes and its far end let be ACTIVE. -/
structure Dev.trainedTo (w : Nat) (e : Dev) : Prop where
  st : (e.port p).st = .active
  width : (e.port p).width = w
  farRsp : (e.port p).farRsp = f.advRsp.toNat
  farCtl : (e.port p).farCtl = f.advCtl.toNat
  wire : d.wire.length < e.wire.length
  rest : (d.port p).linkReset = false → e.besideLink = d.besideLink

omit hw in
/-- Events about contexts change nothing of that, and take nothing from the wire. -/
theorem Dev.each_event (l : List Nat) (dst : Option Nat) (code data : Nat) :
    d.eventsOnly (d.each l fun d c => d.event dst code (d.handle c) data) ∧ d.wireKept (d.each l fun d c => d.event dst code (d.handle c) data) :=
  Dev.each_keeps (fun e => d.eventsOnly e ∧ d.wireKept e) l _
    (fun e _ h => ⟨Dev.eventsOnly_trans h.1 (e.eventsOnly_event _ _ _ _), Nat.le_trans h.2 (e.wireKept_event _ _ _ _)⟩) d
    ⟨d.eventsOnly_refl, Nat.le_refl _⟩

theorem Dev.trainedTo_trained (hp : f.proto = 1) (hr : f.role ≠ 1) :
    d.trainedTo p f (widthOf lanes (d.fld row_OLY_CTL p f_OLY_CTL_FORCE_X4 == 1)) (d.trained p lanes f) := by
  unfold Dev.trained
  extract_lets w x d1 idle d2 d3
  rw [if_neg hw, if_neg (by simp [hp, hr])]
  have hs1 := d.sentTo_sendFlits p [x.trainFlit p 1 f, x.trainFlit p 2 f, x.trainFlit p 3 f]
  have hs2 := d1.sentTo_sendFlits p [idle, idle, idle]
  have h3 : d3.port p = (d2.port p).active w (d2.portTime p) (d2.now (portDom p)) f := Dev.port_updPort_same _ _ _
  have hwire : d.wire.length < d3.wire.length := Nat.lt_of_lt_of_le (Dev.sentTo_wire hs1 (by simp) : d.wire.length < d1.wire.length)
    (Dev.sentTo_wire_le hs2 : d1.wire.length ≤ d2.wire.length)
  have hlocal : d.trainedTo p f w d3 :=
    ⟨congrArg Port.st h3, congrArg Port.width h3, congrArg Port.farRsp h3, congrArg Port.farCtl h3, hwire,
      fun _ => (show d3.besideLink = d2.besideLink from rfl).trans (hs2.rest.trans hs1.rest)⟩
  split
  · next hlink =>
    obtain ⟨hev, hkept⟩ := d3.each_event (d3.owned p) (some p) 0x02 p
    have hport := hev.ports p
    refine ⟨(congrArg Port.st hport).trans hlocal.st, (congrArg Port.width hport).trans hlocal.width,
      (congrArg Port.farRsp hport).trans hlocal.farRsp, (congrArg Port.farCtl hport).trans hlocal.farCtl,
      Nat.lt_of_lt_of_le hwire hkept, fun h => absurd (h.symm.trans hlink) Bool.false_ne_true⟩
  · exact hlocal

end

/-! ### The retry buffer is sent again (R315) -/

/-- The device without registers, ports and the wire. -/
def Dev.besideReplay : Dev := { d with regs := [], ports := [], wire := [] }

/-- What a replay leaves: the whole buffer is sent again and counted. -/
structure Dev.replayedTo (p : Nat) (e : Dev) : Prop where
  rest : e.besideReplay = d.besideReplay
  port : e.port p = { d.port p with
    ackAt := d.now (portDom p), txWords := (d.port p).txWords + ((d.port p).unacked.length + 1) / 2 }
  count : e.fld row_OLY_RETRY p f_OLY_RETRY_REPLAYS =
    (d.fld row_OLY_RETRY p f_OLY_RETRY_REPLAYS + (d.port p).unacked.length) % (f_OLY_RETRY_REPLAYS.top + 1)
  wire : (d.port p).unacked ≠ [] → d.wire.length < e.wire.length

theorem Dev.replayedTo_replay (p : Nat) : d.replayedTo p (d.replay p) := by
  unfold Dev.replay
  extract_lets x d1
  have hs := d1.sentTo_sendFlits p (x.unacked.map fun f => x.flit 1 f.seq false false f.slots)
  have hport : d1.port p = { d.port p with ackAt := d.now (portDom p) } := Dev.port_updPort_same _ _ _
  refine ⟨?_, ?_, ?_, fun hne => ?_⟩
  · exact (congrArg Dev.besideReplay (Dev.eq_of_besideLink hs.rest) :).trans rfl
  · rw [hs.port, hport, List.length_map]
  · have hregs : (d1.sendFlits p (x.unacked.map fun f => x.flit 1 f.seq false false f.slots)).regs = d1.regs := (congrArg Dev.regs hs.rest :)
    have hfld := Dev.fld_wrapInc d row_OLY_RETRY p f_OLY_RETRY_REPLAYS x.unacked.length (by decide)
    exact (congrArg (fun t : Tab Word => f_OLY_RETRY_REPLAYS.get (t.get (row_OLY_RETRY.addr p) row_OLY_RETRY.resetValue)) hregs).trans hfld
  · exact (Dev.sentTo_wire hs (by rw [List.length_map]; exact fun h => hne (List.length_eq_zero_iff.mp h)) : d1.wire.length < _)

/-! ### A retrain ends (R312) -/

/-- The device without registers, ports, the wire and what leaves. -/
def Dev.besideTx : Dev := { d with regs := [], ports := [], out := [], wire := [] }

variable {d} in
theorem Dev.eq_of_besideTx {e : Dev} (h : e.besideTx = d.besideTx) :
    e = { d with regs := e.regs, ports := e.ports, out := e.out, wire := e.wire } :=
  (congrArg (fun x : Dev => ({ x with regs := e.regs, ports := e.ports, out := e.out, wire := e.wire } : Dev)) h :)

theorem Dev.besideTx_txPump (p : Nat) : (d.txPump p).besideTx = d.besideTx := by
  unfold Dev.txPump
  extract_lets x r
  split
  · rfl
  · exact (congrArg Dev.besideTx (Dev.eq_of_besideLink ((d.setPort p r.2).sentTo_sendFlits p r.1).rest) :)

theorem Dev.besideTx_ctlTake (p n : Nat) : (d.ctlTake p n).besideTx = d.besideTx := by
  induction n generalizing d with
  | zero => rfl
  | succ n ih =>
    unfold Dev.ctlTake
    extract_lets x
    split
    · rfl
    · extract_lets k
      split
      · exact (ih _).trans rfl
      · rfl

theorem Dev.besideTx_ctlSend (p n : Nat) : (d.ctlSend p n).besideTx = d.besideTx :=
  ((d.ctlTake p n).besideTx_txPump p).trans (d.besideTx_ctlTake p n)

/-- A port whose queue is empty puts nothing into its retry buffer. -/
theorem Dev.unacked_txPump (p : Nat) (h : (d.port p).txq = []) : ((d.txPump p).port p).unacked = (d.port p).unacked ∧ (d.txPump p).out = d.out := by
  unfold Dev.txPump
  extract_lets x r
  split
  · exact ⟨rfl, rfl⟩
  · have hr : r.2 = x := by
      unfold r Port.fill
      rw [if_pos (by rw [show x.txq = [] from h]; rfl)]
    have hs := (d.setPort p r.2).sentTo_sendFlits p r.1
    have hport : (d.setPort p r.2).port p = d.port p := (Dev.port_updPort_same d p fun _ => r.2).trans hr
    exact ⟨(congrArg Port.unacked hs.port).trans (congrArg Port.unacked hport :), (congrArg Dev.out hs.rest :)⟩

theorem Dev.out_txPump (p : Nat) : (d.txPump p).out = d.out := by
  unfold Dev.txPump
  extract_lets x r
  split
  · rfl
  · exact (congrArg Dev.out ((d.setPort p r.2).sentTo_sendFlits p r.1).rest :)

variable {d} in
theorem Dev.besideTx_of_besideReplay {e : Dev} (h : e.besideReplay = d.besideReplay) : e.besideTx = d.besideTx :=
  (congrArg (fun x : Dev => ({ x with out := [] } : Dev)) h :)

/-- The width that a retrain leaves a port: the one that it had, or less of it. -/
def Port.keptWidth (x : Port) (force : Bool) (locked : BitVec 8) : Nat :=
  let lanes := locked &&& ~~~ x.worst
  if x.width = 3 then widthOf lanes force else if x.width = 1 then (if lanes &&& 0x0F = 0x0F then 1 else 0)
    else (if lanes &&& 0xF0 = 0xF0 then 2 else 0)

/-- The lanes that a port has failed after a retrain. -/
def Port.lanesFailed (x : Port) (locked : BitVec 8) : BitVec 8 := x.laneFail ||| (laneMask x.width &&& ~~~ (locked &&& ~~~ x.worst))

/-- What a retrain leaves of a port that keeps a width w. -/
structure Dev.retrainedTo (p w : Nat) (locked : BitVec 8) (e : Dev) : Prop where
  rest : e.besideTx = d.besideTx
  st : (e.port p).st = .active
  width : (e.port p).width = w
  rxSeq : (e.port p).rxSeq = (d.port p).rxSeq
  laneFail : (e.port p).laneFail = (d.port p).lanesFailed locked
  quiet : (d.port p).ctlQ = [] → e.out = d.out ∧ ((d.port p).txq = [] → (e.port p).unacked = (d.port p).unacked)

theorem Dev.retrained_kept (p : Nat) (locked : BitVec 8)
    (hw : (d.port p).keptWidth (d.fld row_OLY_CTL p f_OLY_CTL_FORCE_X4 == 1) locked ≠ 0) :
    d.retrainedTo p ((d.port p).keptWidth (d.fld row_OLY_CTL p f_OLY_CTL_FORCE_X4 == 1) locked) locked (d.retrained p locked) := by
  unfold Dev.retrained
  extract_lets x lanes w classed d1 d2 d3
  have hw : w ≠ 0 := hw
  rw [if_neg hw]
  have h1 : d1.port p = { x with laneFail := x.lanesFailed locked } := Dev.port_updPort_same _ _ _
  have h2 : d2.port p = d1.port p ∧ d2.besideTx = d1.besideTx ∧ d2.out = d1.out := by
    unfold d2
    split <;> exact ⟨rfl, rfl, rfl⟩
  obtain ⟨hport2, hrest2, hout2⟩ := h2
  obtain ⟨hreplay, h3, -, -⟩ :=
    (d2.updPort p fun x => { x with st := .active, width := w, nakOut := false, failSeq := none }).replayedTo_replay p
  rw [Dev.port_updPort_same, hport2, h1] at h3
  have hrest3 : d3.besideTx = d2.besideTx := Dev.besideTx_of_besideReplay hreplay
  have hout3 : d3.out = d2.out := (congrArg Dev.out hreplay :)
  have hrest1 : d1.besideTx = d.besideTx := rfl
  have hout1 : d1.out = d.out := rfl
  change d3.port p = _ at h3
  clear_value d3 d2 d1
  have hp := (d3.eventsOnly_ctlSend p (d3.port p).ctlQ.length).ports p
  refine ⟨((d3.besideTx_ctlSend _ _).trans hrest3).trans (hrest2.trans hrest1), (congrArg Port.st hp).trans (congrArg Port.st h3 :),
    (congrArg Port.width hp).trans (congrArg Port.width h3 :), (congrArg Port.rxSeq hp).trans (congrArg Port.rxSeq h3 :),
    (congrArg Port.laneFail hp).trans (congrArg Port.laneFail h3 :), fun hq => ?_⟩
  have hq3 : (d3.port p).ctlQ = [] := (congrArg Port.ctlQ h3 :).trans hq
  have hsend : d3.ctlSend p (d3.port p).ctlQ.length = d3.txPump p := by
    rw [hq3]
    rfl
  rw [hsend]
  refine ⟨(d3.out_txPump p).trans (hout3.trans (hout2.trans hout1)), fun ht => ?_⟩
  exact (d3.unacked_txPump p ((congrArg Port.txq h3 :).trans ht)).1.trans (congrArg Port.unacked h3 :)

/-- What the failure of a port leaves of it: FAILED with its domain fenced. -/
structure Dev.failedTo (p cause : Nat) (e : Dev) : Prop where
  st : (e.port p).st = .failed
  dom : (e.dom (portDom p)).st = .fenced
  cause : e.fld row_OLY_STATUS p f_OLY_STATUS_DOWN_CAUSE = cause
  mem : e.mem = d.mem

theorem row_OLY_STATUS_apart (p : Fin 16) : row_OLY_STATUS.addr p.val ≠ row_SAF_CNT.addr 0 ∧
    ∀ q, q < 16 → row_OLY_STATUS.addr p.val ≠ row_HIF_PORT_CNT.addr q := by
  revert p
  decide

theorem Dev.failedTo_portFail (p : Fin 16) (cause domCause : Nat) (hc : cause < 16) (hst : (d.port p.val).st = .retrain) :
    d.failedTo p.val cause (d.portFail p.val cause domCause) := by
  unfold Dev.portFail
  rw [if_neg (by rw [hst]; decide)]
  extract_lets d1 d2 d3
  have hp := d3.safety_spec 0 0x10 (portDom p.val + domCause * 2 ^ 12) (by decide)
  have hport2 : d2.port p.val = { d1.port p.val with st := .failed, width := 0 } := Dev.port_updPort_same _ _ _
  have hports3 : d3.ports = d2.ports := (d2.countFence_kept (portDom p.val) domCause).2.2
  have hcause2 : d2.fld row_OLY_STATUS p.val f_OLY_STATUS_DOWN_CAUSE = cause :=
    (Dev.fld_setFld_same d1 row_OLY_STATUS p.val f_OLY_STATUS_DOWN_CAUSE cause (by decide)).trans (Nat.mod_eq_of_lt hc)
  have hdom3 : (d3.dom (portDom p.val)).st = .fenced := by
    unfold d3
    rw [Dev.dom_updDom_same]
  obtain ⟨hcnt, hhif⟩ := row_OLY_STATUS_apart p
  have hregs3 : d3.rd row_OLY_STATUS p.val = d2.rd row_OLY_STATUS p.val := by
    have hm : (d2.rateMark (portDom p.val)).regs = d2.regs := by
      unfold Dev.rateMark
      split <;> rfl
    refine (Dev.rd_setFld_other (d2.rateMark (portDom p.val)) row_SAF_CNT row_OLY_STATUS 0 p.val f_SAF_CNT_FENCES _ hcnt).trans ?_
    exact congrArg (fun t : Tab Word => t.get (row_OLY_STATUS.addr p.val) row_OLY_STATUS.resetValue) hm
  have hmem3 : d3.mem = d.mem := by
    have h2 : d2.mem = d.mem := d.portResetEffects_mem p.val
    refine Eq.trans ?_ h2
    unfold d3 Dev.countFence Dev.rateMark
    split <;> rfl
  refine ⟨?_, ?_, ?_, hp.rest ▸ hmem3⟩
  · refine (congrArg Port.st (hp.ports p.val)).trans ?_
    exact (congrArg (fun t : Tab Port => (t.get p.val {}).st) hports3).trans (congrArg Port.st hport2)
  · exact (congrArg (fun t : Tab Dom => (t.get (portDom p.val) {}).st) (Dev.eventsOnly_doms hp)).trans
      hdom3
  · refine (congrArg f_OLY_STATUS_DOWN_CAUSE.get ?_).trans hcause2
    exact (hp.regs _ row_OLY_STATUS.resetValue hhif).trans hregs3

theorem Dev.failedTo_retrained (p : Fin 16) (locked : BitVec 8) (hst : (d.port p.val).st = .retrain)
    (hw : (d.port p.val).keptWidth (d.fld row_OLY_CTL p.val f_OLY_CTL_FORCE_X4 == 1) locked = 0) :
    d.failedTo p.val 4 (d.retrained p.val locked) := by
  unfold Dev.retrained
  extract_lets x lanes w classed d1 d2 d3
  have hw : w = 0 := hw
  rw [if_pos hw]
  obtain ⟨h1, h2, h3, h4⟩ := d.failedTo_portFail p 4 7 (by decide) hst
  exact ⟨(congrArg Port.st (Dev.port_updPort_same _ _ _)).trans h1, h2, h3, h4⟩

/-! ### RESET and RETRAIN of OLY_CTL (R311, R331), and the start of training -/

theorem Dev.olyReset_other (p : Nat) (h : (d.port p).st ≠ .failed) : d.olyReset p = d.portDown p 1 true := by
  rw [Dev.olyReset, if_neg (by simpa using h)]

/-- What a rejoin leaves of port p as it is. -/
theorem Dev.rejoined_port (p : Fin 16) (x : Nat) (hx : ¬ x < 0xC0) : ((d.rejoined x).port p.val).st = (d.port p.val).st ∧
    (d.rejoined x).rd row_OLY_STATUS p.val = d.rd row_OLY_STATUS p.val ∧ (d.rejoined x).mem = d.mem ∧ (d.rejoined x).doms = d.doms := by
  have hev := d.rejoined_spec x
  have hm : d.rateMark x = d := if_neg hx
  rw [hm] at hev
  obtain ⟨hcnt, hhif⟩ := row_OLY_STATUS_apart p
  have hrd := Dev.rd_setFld_other d row_SAF_CNT row_OLY_STATUS 0 p.val f_SAF_CNT_REJOINS
    (d.fld row_SAF_CNT 0 f_SAF_CNT_REJOINS + 1) hcnt
  exact ⟨Dev.eventsOnly_port_st hev _, (hev.regs _ row_OLY_STATUS.resetValue hhif).trans hrd, (Dev.eventsOnly_mem hev :), (Dev.eventsOnly_doms hev :)⟩

/-- A port reset from FAILED goes DOWN with its domain LIVE again. -/
theorem Dev.olyReset_failed (p : Fin 16) (h : (d.port p.val).st = .failed) (hd : bitOf d.dieFenced.toNat (dieOfPort p.val) = false) :
    d.downTo p.val 1 (d.olyReset p.val) ∧ ((d.olyReset p.val).dom (portDom p.val)).st = .live := by
  unfold Dev.olyReset
  rw [if_pos (by rw [h]; rfl), if_neg (by rw [hd]; decide)]
  extract_lets d1 d2 was d3
  have hport : (d3.port p.val).st = .down := by
    have h2 : d3.port p.val = d2.port p.val := rfl
    rw [h2]
    unfold d2
    rw [Dev.port_updPort_same]
  have hcause : d3.fld row_OLY_STATUS p.val f_OLY_STATUS_DOWN_CAUSE = 1 :=
    (Dev.fld_setFld_same d1 row_OLY_STATUS p.val f_OLY_STATUS_DOWN_CAUSE 1 (by decide)).trans (Nat.mod_eq_of_lt (by decide))
  have hdom : (d3.dom (portDom p.val)).st = .live := by
    unfold d3
    rw [Dev.dom_updDom_same]
  have hmem : d3.mem = d.mem := rfl
  clear_value d3
  split
  · obtain ⟨hst, hrd, hmem', hdoms⟩ := d3.rejoined_port p (portDom p.val) (by unfold portDom; omega)
    exact ⟨⟨hst.trans hport, (congrArg f_OLY_STATUS_DOWN_CAUSE.get hrd).trans hcause, hmem'.trans hmem⟩,
      (congrArg (fun t : Tab Dom => (t.get (portDom p.val) {}).st) hdoms).trans hdom⟩
  · exact ⟨⟨hport, hcause, hmem⟩, hdom⟩

theorem Dev.olyReset_fenced (p : Nat) (h : (d.port p).st = .failed) (hd : bitOf d.dieFenced.toNat (dieOfPort p) = true) :
    d.olyReset p = d := by
  rw [Dev.olyReset, if_pos (by rw [h]; rfl), if_pos hd]

/-- A port that asks for a retrain sends one IDLE flit. -/
theorem Dev.enterRetrain_active (p : Nat) (h : (d.port p).st = .active) : (d.enterRetrain p).besideReplay = d.besideReplay ∧
    d.wire.length < (d.enterRetrain p).wire.length ∧ (d.enterRetrain p).port p =
      { d.port p with st := .retrain, since := d.portTime p, txWords := (d.port p).txWords + 1 } := by
  unfold Dev.enterRetrain
  rw [if_neg (not_not_intro h)]
  extract_lets d1
  have hs : d.sentTo p 1 d1 := d.sentTo_sendFlits p [(d.port p).flit 0 0 (d.port p).nakOut true []]
  have heq := Dev.eq_of_besideLink hs.rest
  have htime : d1.portTime p = d.portTime p := by
    rw [heq]
    rfl
  refine ⟨(congrArg Dev.besideReplay heq :), (Dev.sentTo_wire hs (by decide) : d.wire.length < d1.wire.length), ?_⟩
  refine (Dev.port_updPort_same _ _ _).trans ?_
  have hp : (d1.wrapInc row_OLY_TRAIN p f_OLY_TRAIN_RETRAINS).port p = d1.port p := rfl
  rw [hp, htime, hs.port]

end

/-! ### The commands -/

section
variable (s : State) (p : Fin 16)

/-- What the statement says of a command that takes port p DOWN with a cause. -/
def State.takesDown (c : Instr) (cause : Nat) : Prop := ∃ d : Dev, exec c s = .next { s with dev := d.finish } ∧
  (d.port p.val).st = .down ∧ d.fld row_OLY_STATUS p.val f_OLY_STATUS_DOWN_CAUSE = cause ∧ d.mem = s.dev.mem

variable {s p} in
theorem State.takesDown_of {c : Instr} {cause : Nat} {e : Dev} (hx : exec c s = .next { s with dev := e.finish })
    (h : s.dev.downTo p.val cause e) : s.takesDown p c cause := ⟨e, hx, h.st, h.cause, h.mem⟩

theorem exec_linkLoss (h : (s.dev.port p.val).st = .active ∨ (s.dev.port p.val).st = .retrain ∨ (s.dev.port p.val).st = .train ∨
    (s.dev.port p.val).st = .hold) : exec (.linkLoss p) s = .next { s with dev := (s.dev.portDown p.val 2 false).finish } := by
  refine State.devEvent_holds (fun d => let x := (d.port p.val).st; x == .active || x == .retrain || x == .train || x == .hold)
    (fun d => d.portDown p.val 2 false) s ?_
  rcases h with h | h | h | h <;> simp [h]

theorem exec_olyReset : exec (.olyReset p) s = .next { s with dev := (s.dev.olyReset p.val).finish } := rfl

theorem exec_olyRetrain (hr : s.dev.portRuns p.val = true) (h : (s.dev.port p.val).st = .active) :
    exec (.olyRetrain p) s = .next { s with dev := (s.dev.enterRetrain p.val).finish } :=
  State.devEvent_holds (fun d => d.portRuns p.val && (d.port p.val).st == .active) (fun d => d.enterRetrain p.val) s (by simp [hr, h])

section
variable (hr : s.dev.linkRuns p.val = true)
include hr

theorem exec_portTrainStart (h : (s.dev.port p.val).st = .down) (hl : (s.dev.port p.val).pllLost = false)
    (ht : (s.dev.port p.val).immediate = true ∨ (s.dev.port p.val).since + s.dev.least 100000000 ≤ s.dev.portTime p.val) :
    exec (.portTrainStart p) s = .next { s with dev := (s.dev.enterTrain p.val).finish } :=
  State.devEvent_holds (fun d => d.linkRuns p.val && (d.port p.val).st == .down && !(d.port p.val).pllLost &&
    ((d.port p.val).immediate || decide ((d.port p.val).since + d.least 100000000 ≤ d.portTime p.val)))
    (fun d => d.enterTrain p.val) s (by simpa [hr, h, hl] using ht)

theorem exec_trainComplete (lanes : BitVec 8) (f : FarEnd) (h : (s.dev.port p.val).st = .train) (hl : (s.dev.port p.val).pllLost = false)
    (hf : f.tstate = 3) (ht : s.dev.portTime p.val ≤ (s.dev.port p.val).since + s.dev.most 50000000) :
    exec (.trainComplete p lanes f) s = .next { s with dev := (s.dev.trained p.val lanes f).finish } :=
  State.devEvent_holds (fun d => d.linkRuns p.val && (d.port p.val).st == .train && !(d.port p.val).pllLost && f.tstate == 3 &&
    decide (d.portTime p.val ≤ (d.port p.val).since + d.most 50000000)) (fun d => d.trained p.val lanes f) s
    (by simp [hr, h, hl, hf, ht])

theorem exec_trainTimeout (h : (s.dev.port p.val).st = .train)
    (ht : (s.dev.port p.val).since + s.dev.most 50000000 ≤ s.dev.portTime p.val) :
    exec (.trainTimeout p) s = .next { s with dev := (s.dev.portDown p.val 3 false).finish } :=
  State.devEvent_holds (fun d => d.linkRuns p.val && (d.port p.val).st == .train &&
    decide ((d.port p.val).since + d.most 50000000 ≤ d.portTime p.val)) (fun d => d.portDown p.val 3 false) s (by simp [hr, h, ht])

theorem exec_retrainComplete (locked : BitVec 8) (h : (s.dev.port p.val).st = .retrain) (hl : (s.dev.port p.val).pllLost = false)
    (ht : s.dev.portTime p.val ≤ (s.dev.port p.val).since + s.dev.most 20000000) :
    exec (.retrainComplete p locked) s = .next { s with dev := (s.dev.retrained p.val locked).finish } :=
  State.devEvent_holds (fun d => d.linkRuns p.val && (d.port p.val).st == .retrain && !(d.port p.val).pllLost &&
    decide (d.portTime p.val ≤ (d.port p.val).since + d.most 20000000)) (fun d => d.retrained p.val locked) s (by simp [hr, h, hl, ht])

theorem exec_retrainTimeout (h : (s.dev.port p.val).st = .retrain)
    (ht : (s.dev.port p.val).since + s.dev.most 20000000 ≤ s.dev.portTime p.val) :
    exec (.retrainTimeout p) s = .next { s with dev := (s.dev.portDown p.val 3 false).finish } :=
  State.devEvent_holds (fun d => d.linkRuns p.val && (d.port p.val).st == .retrain &&
    decide ((d.port p.val).since + d.most 20000000 ≤ d.portTime p.val)) (fun d => d.portDown p.val 3 false) s (by simp [hr, h, ht])

end

/-- A port that was up is reset as it goes DOWN by the loss of the link or a reset. -/
theorem exec_down_resets (hup : (s.dev.port p.val).st = .active ∨ (s.dev.port p.val).st = .retrain ∨ (s.dev.port p.val).st = .hold)
    (c : Instr) (hc : c = .linkLoss p ∨ c = .olyReset p) : ∃ d : Dev, exec c s = .next { s with dev := d.finish } ∧
      d.timers.get (portDom p.val) 0 = 0 ∧ ∀ r ∈ olyRows, r ≠ row_OLY_STATUS → d.rd r p.val = r.resetValue := by
  have hst : (s.dev.port p.val).st.up = true := by rcases hup with h | h | h <;> simp [h, PortSt.up]
  rcases hc with rfl | rfl
  · exact ⟨_, exec_linkLoss s p (hup.imp_right (Or.imp_right .inr)), s.dev.portDown_reset p.val 2 false hst⟩
  · have hne : (s.dev.port p.val).st ≠ .failed := by rcases hup with h | h | h <;> simp [h]
    refine ⟨_, exec_olyReset s p, ?_⟩
    rw [s.dev.olyReset_other p.val hne]
    exact s.dev.portDown_reset p.val 1 true hst

end

/-- Settles O46, a clause for each command: what the command does is its own lemma above, and the port states follow from the frames of
what is sent, of a port reset and of a port failure. -/
theorem trainingAndPortStates : Obligations.TrainingAndPortStates := by
  unfold Obligations.TrainingAndPortStates
  intro s p x now force down
  refine ⟨fun hr => ⟨fun h hl ht => ?_, fun lanes f h hl hf ht => ⟨fun hw => ?_, fun hw hm => ?_, fun hw hp hrole => ?_⟩, fun h ht => ?_,
    fun locked h hl ht => ⟨fun hw => ?_, fun hw => ?_⟩, fun h ht => ?_⟩, fun h => ?_, fun h c hc => ?_, fun hr h => ?_, fun h => ?_,
    fun h hd => ?_, fun h hd => ?_⟩
  · exact ⟨_, exec_portTrainStart s p hr h hl ht, rfl, Dev.port_updPort_same _ _ _⟩
  · exact State.takesDown_of (exec_trainComplete s p hr lanes f h hl hf ht) (s.dev.trained_noHalf p.val lanes f hw)
  · exact State.takesDown_of (exec_trainComplete s p hr lanes f h hl hf ht) (s.dev.trained_misfit p.val lanes f hw hm)
  · obtain ⟨hst, hwidth, hrsp, hctl, hwire, hrest⟩ := s.dev.trainedTo_trained p.val lanes f hw hp hrole
    exact ⟨_, exec_trainComplete s p hr lanes f h hl hf ht, hst, hwidth, hrsp, hctl, hwire, fun hlink => Dev.eq_of_besideLink (hrest hlink)⟩
  · exact State.takesDown_of (exec_trainTimeout s p hr h ht) (s.dev.downTo_portDown p.val 3 false (by decide))
  · obtain ⟨hrest, hst, hwidth, hseq, hlanes, hquiet⟩ := s.dev.retrained_kept p.val locked hw
    exact ⟨_, exec_retrainComplete s p hr locked h hl ht, Dev.eq_of_besideTx hrest, hst, hwidth, hseq, hlanes, hquiet⟩
  · obtain ⟨hst, hdom, hcause, hmem⟩ := s.dev.failedTo_retrained p locked h hw
    exact ⟨_, exec_retrainComplete s p hr locked h hl ht, hst, hdom, hcause, hmem⟩
  · exact State.takesDown_of (exec_retrainTimeout s p hr h ht) (s.dev.downTo_portDown p.val 3 false (by decide))
  · exact State.takesDown_of (exec_linkLoss s p h) (s.dev.downTo_portDown p.val 2 false (by decide))
  · obtain ⟨d, hx, htimer, hrows⟩ := exec_down_resets s p h c hc
    refine ⟨d, hx, htimer, fun r hr => hrows r ?_ ?_⟩ <;> revert r hr <;> decide
  · obtain ⟨hrest, hwire, hport⟩ := s.dev.enterRetrain_active p.val h
    refine ⟨_, exec_olyRetrain s p hr h, ?_, hwire, hport⟩
    exact (congrArg (fun y : Dev => ({ y with
      regs := (s.dev.enterRetrain p.val).regs, ports := (s.dev.enterRetrain p.val).ports, wire := (s.dev.enterRetrain p.val).wire } : Dev))
      hrest :)
  · by_cases hf : x.st = .failed
    · exact State.takesDown_of (exec_olyReset s p) (s.dev.olyReset_failed p hf (h.resolve_left (not_not_intro hf))).1
    · refine State.takesDown_of (exec_olyReset s p) ?_
      rw [s.dev.olyReset_other p.val hf]
      exact s.dev.downTo_portDown p.val 1 true (by decide)
  · exact ⟨_, exec_olyReset s p, (s.dev.olyReset_failed p h hd).2⟩
  · rw [exec_olyReset, s.dev.olyReset_fenced p.val h hd]

end Sys2Proof.Machine

/-! PROOF. The end of thaw (R405) does not always leave STATE as it was: a read under way is made again as its controller resumes, and a
lasting fault of the bridge (R11, R380) on that read fences a die, with which the device has failed. -/
namespace Sys2Proof.Machine

section
variable (d : Dev)

/-! ### A device that does not run keeps its state at the end of a step -/

theorem Dev.state_each {α : Type} (l : List α) (f : Dev → α → Dev) (hf : ∀ e x, (f e x).state = e.state := by intros; rfl) :
    (d.each l f).state = d.state := Dev.each_same Dev.state l f hf d

theorem Dev.state_updReq (id : Nat) (f : Req → Req) : (d.updReq id f).state = d.state := rfl

theorem Dev.state_updRgn (r : Nat) (f : Rgn → Rgn) : (d.updRgn r f).state = d.state := rfl

theorem Dev.state_release (id : Nat) : (d.release id).state = d.state := by
  unfold Dev.release
  split
  · rfl
  · exact (Dev.state_updReq _ _ _).trans (d.state_each _ _)

theorem Dev.state_failReq (id st : Nat) : (d.failReq id st).state = d.state := by
  have hcredit : ((d.release id).creditBack id 1).state = (d.release id).state := by
    unfold Dev.creditBack
    split <;> rfl
  exact hcredit.trans (d.state_release id)

theorem Dev.state_windowAct (r : Req) : (d.windowAct r).state = d.state := by
  unfold Dev.windowAct
  dsimp only
  split
  · exact d.state_failReq _ _
  · split
    · exact (Dev.state_updReq _ _ _).trans (d.state_each _ _)
    · rfl

theorem Dev.state_pubGo (q : Req) (c a b n i j : Nat) : (d.pubGo q c a b n i j).state = d.state := by
  unfold Dev.pubGo
  dsimp only
  split
  · exact d.state_failReq _ _
  split
  · exact d.state_failReq _ _
  split
  · exact d.state_failReq _ _
  split
  · exact (Dev.state_updReq _ _ _).trans ((Dev.state_failReq _ _ _).trans rfl)
  split
  · exact d.state_failReq _ _
  · refine (Dev.state_updReq _ _ _).trans ((Dev.wrapInc_state _ _ _ _ _).trans ?_)
    refine (Dev.state_updRgn _ _ _).trans ((Dev.state_updRgn _ _ _).trans ?_)
    exact (Dev.state_each _ _ _).trans (d.state_each _ _)

theorem Dev.state_granted (r : Req) : (d.granted r).state = d.state := by
  unfold Dev.granted
  split
  · rfl
  split
  · exact d.state_windowAct r
  split
  · unfold Dev.pubDue
    dsimp only
    split
    · exact d.state_pubGo _ _ _ _ _ _ _
    · rfl
  · rfl

theorem Dev.state_reserveAll (l : List Req) : (d.reserveAll l).state = d.state := by
  induction l generalizing d with
  | nil => rfl
  | cons r t ih =>
    unfold Dev.reserveAll
    split
    · dsimp only
      split
      · exact (ih _).trans rfl
      · exact (ih _).trans ((Dev.state_granted _ _).trans rfl)
    · rfl

theorem Dev.state_pumpAll (h : d.freezes ≠ .running) : d.pumpAll.state = d.state := by
  refine (Dev.each_keeps (fun e => d.cfgServed e ∧ e.state = d.state) _ _ (fun e p he => ?_) d ⟨d.cfgServed_refl, rfl⟩).2
  obtain ⟨hserved, hstate⟩ := he
  have hfr : e.freezes ≠ .running := (congrArg Prod.fst hserved.phaseTypes : e.freezes = d.freezes).trans_ne h
  refine ⟨Dev.cfgServed_trans hserved (e.cfgServed_pump p hfr), ?_⟩
  have hrun : (e.freezes == .running) = false := by simpa using hfr
  unfold Dev.pump
  simp only [hrun]
  exact (e.state_reserveAll _).trans hstate

theorem Dev.state_finish (ph : Phys) (h : d.freezes ≠ .running) : (d.finish ph).state = d.state := by
  unfold Dev.finish
  rw [if_neg (by simpa using h)]
  split
  · exact d.state_pumpAll h
  · rfl

end

/-! ### The counterexample -/

/-- Upsets of two symbols, which the Loam code detects and does not correct. -/
def lastingUpset : Code := 0x1000000000000000000000003

theorem loamDecode_lastingUpset : (loamDecode lastingUpset).1 = .ue := by decide +kernel

/-- A frozen device that thaws with FREEZE_N low again. Its controller 0, on die 0, has a read of port 8, on die 1, in its queue, and
the granule of that read does not cross the bridge, once or again. -/
def thawingFaulty : State := { dev := {
  state := .frozen, before := .ready, freezes := .thawing, freezeN := true, doms := [(0xD8, { st := .live })],
  insts := [(0, { st := .selfRefresh, queue := [⟨⟨0, 0, 0, 0, 0, false, none, some 0⟩, .rt, 0, none, false⟩] })],
  descs := [(0, { st := .stable, len := 63 })],
  reqs := [{
    id := 0, port := 8, ty := 1, h := ⟨0, 0, 0, 0, 0, 0⟩, data := [], stage := .issued, t0 := 0, common := 0, ticks := none, cmaster := 0,
    charge := [], moved := [], resv := 0, tries := [], binding := [], status := 0, result := 0, out := [], compressed := false, refs := [],
    exts := [(0, 0, 1)], waits := [], ph := { bridge := [(0, lastingUpset, lastingUpset)] } }] } }

/-- The device has failed by the time that it freezes again. -/
theorem thawDone_thawingFaulty : thawingFaulty.dev.thawDone.state = .failed ∧ thawingFaulty.dev.thawDone.freezes = .halting := by
  decide +kernel

/-- A thaw that ends with the device freezing again serves no CFG. -/
theorem exec_thawComplete_again (s : State) (h : s.dev.freezes = .thawing) (hne : s.dev.thawDone.freezes ≠ .running) :
    exec .thawComplete s = .next { s with dev := s.dev.thawDone.finish } := by
  have hserved : (s.onDev Dev.thawDone).cfgThaw = s.onDev Dev.thawDone := if_pos hne
  have hexec : exec .thawComplete s = execThawComplete s := rfl
  rw [hexec, execThawComplete, if_pos (by rw [h]; rfl), hserved, State.onDev, State.onDev]

/-- Refutes O8: at the end of a thaw the reads under way are made again. The state `thawingFaulty` thaws with a new cause, which the
statement lets freeze the device again with STATE as it was; the read that it makes again meets a lasting fault of the bridge, the die is
fenced, and STATE is DEVICE_FAILED. -/
theorem not_freezeAndThaw : ¬ Obligations.FreezeAndThaw := by
  intro h
  obtain ⟨-, -, hthaw⟩ := h
  obtain ⟨d, hexec, hfr, hstate, -⟩ := (hthaw thawingFaulty rfl).2 rfl
  obtain ⟨hfailed, hhalting⟩ := thawDone_thawingFaulty
  have hends : thawingFaulty.dev.thawDone.finish.state = d.finish.state :=
    congrArg (fun o : Host.Outcome State Fault Refusal => match o with
      | .next t => t.dev.state
      | _ => .boot) ((exec_thawComplete_again thawingFaulty rfl (hhalting.trans_ne Phase.noConfusion)).symm.trans hexec)
  have hd : d.finish.state = .frozen := (d.state_finish {} (hfr.trans_ne Phase.noConfusion)).trans hstate
  have he : thawingFaulty.dev.thawDone.finish.state = .failed :=
    (Dev.state_finish _ {} (hhalting.trans_ne Phase.noConfusion)).trans hfailed
  exact DevSt.noConfusion (he.symm.trans (hends.trans hd))

end Sys2Proof.Machine

/-! PROOF. The controllers' own events (R278 to R283, R297): refresh, pauses, self-refresh, temperature, the end of a reset with replay. -/
namespace Sys2Proof.Machine

section
variable (d : Dev)

/-! ### Frames -/

/-- The device without its controllers and registers. -/
def Dev.besideInsts : Dev := { d with insts := [], regs := [] }

/-- Controller i changes, and registers; nothing else does. -/
structure Dev.instOnly (i : Nat) (e : Dev) : Prop where
  rest : e.besideInsts = d.besideInsts
  other : ∀ j, j ≠ i → e.inst j = d.inst j

theorem Dev.instOnly_refl (i : Nat) : d.instOnly i d := ⟨rfl, fun _ _ => rfl⟩

theorem Dev.instOnly_updInst (i : Nat) (f : Inst → Inst) : d.instOnly i (d.updInst i f) := ⟨rfl, fun j hj => d.inst_updInst_other i j f hj⟩

theorem Dev.instOnly_setFld (i : Nat) (r : RegRow) (j : Nat) (f : Fld) (n : Nat) : d.instOnly i (d.setFld r j f n) := ⟨rfl, fun _ _ => rfl⟩

variable {d} in
theorem Dev.instOnly_trans {i : Nat} {e f : Dev} (h : d.instOnly i e) (k : e.instOnly i f) : d.instOnly i f :=
  ⟨k.rest.trans h.rest, fun j hj => (k.other j hj).trans (h.other j hj)⟩

variable {d} in
theorem Dev.instOnly_eq {i : Nat} {e : Dev} (h : d.instOnly i e) : e = { d with insts := e.insts, regs := e.regs } :=
  (congrArg (fun x : Dev => ({ x with insts := e.insts, regs := e.regs } : Dev)) h.rest :)

/-- The accounts of a controller are brought up to date: nothing else of it changes. -/
theorem Dev.accrue_inst (i : Nat) : d.instOnly i (d.accrue i) ∧ (d.accrue i).inst i = { d.inst i with
    acct := ((d.accrue i).inst i).acct, acctAt := ((d.accrue i).inst i).acctAt, acctDue := ((d.accrue i).inst i).acctDue } := by
  unfold Dev.accrue
  split
  · exact ⟨d.instOnly_refl i, rfl⟩
  · dsimp only
    refine ⟨d.instOnly_updInst i _, ?_⟩
    rw [Dev.inst_updInst_same]

/-! ### Refresh and temperature -/

theorem Dev.refreshBank_inst (i part bank : Nat) : (d.refreshBank i part bank).inst i = { d.inst i with
    rows := (d.inst i).rows.set (part * 16 + bank) 0 0, rowAt := (d.inst i).rowAt.set (part * 16 + bank) 0 0,
    refreshed := (d.inst i).refreshed.set (part * 16 + bank) (d.now (instDom i)) 0 } := d.inst_updInst_same i _

theorem Dev.tempStore_spec (i : Nat) (t : BitVec 16) : d.instOnly i (d.tempStore i t) ∧
    (d.tempStore i t).fld (tempOf i).1 (tempOf i).2 f_HMC_TEMP_TEMP = t.toNat ∧
    ((d.tempStore i t).inst i).hot = decide (420 ≤ t.toInt) := by
  unfold Dev.tempStore
  generalize tempOf i = q
  obtain ⟨r, j⟩ := q
  dsimp -zeta only
  extract_lets x m first d1 d2 hot d3
  have h1 : d1.fld r j f_HMC_TEMP_TEMP = t.toNat :=
    (d.fld_setFld_same r j f_HMC_TEMP_TEMP t.toNat (by decide)).trans (Nat.mod_eq_of_lt t.isLt)
  have h2 : d.instOnly i d2 ∧ d2.fld r j f_HMC_TEMP_TEMP = t.toNat := by
    unfold d2
    split
    · exact ⟨Dev.instOnly_trans (d.instOnly_setFld _ _ _ _ _) (d1.instOnly_setFld _ _ _ _ _),
        (d1.fld_setFld_disjoint r j f_HMC_TEMP_MAX f_HMC_TEMP_TEMP _ (by decide) (by decide)).trans h1⟩
    · exact ⟨d.instOnly_setFld _ _ _ _ _, h1⟩
  obtain ⟨honly, hfld⟩ := h2
  refine ⟨Dev.instOnly_trans honly (Dev.instOnly_trans (d2.instOnly_setFld i r j _ _) (d3.instOnly_updInst i _)), ?_,
    congrArg Inst.hot (d3.inst_updInst_same i _)⟩
  exact (d2.fld_setFld_disjoint r j f_HMC_TEMP_HOT f_HMC_TEMP_TEMP _ (by decide) (by decide)).trans hfld

/-! ### Pauses (R280 to R283) -/

theorem Dev.paused_spec (i part k : Nat) : d.instOnly i (d.paused i part k) ∧ (d.paused i part k).inst i = { d.inst i with
    pausedAt := (d.inst i).pausedAt.set (pauseKey i part) (d.now (instDom i)) 0,
    group := (d.inst i).group.upd (pauseKey i part) 0 fun g => (g + k) % 6 } := by
  unfold Dev.paused
  generalize trainOf i = q
  obtain ⟨r, j⟩ := q
  generalize tempOf i = q
  obtain ⟨tr, tj⟩ := q
  dsimp -zeta only
  extract_lets d1
  have h1 : d.instOnly i d1 := ⟨rfl, fun _ _ => rfl⟩
  exact ⟨Dev.instOnly_trans h1 (d1.instOnly_updInst i _), d1.inst_updInst_same i _⟩

/-- The count of an early pause touches no controller. -/
theorem Dev.pauseCount_spec (i : Nat) (early : Bool) (r : RegRow) (j : Nat) :
    d.instOnly i (if early then d.satInc r j f_HMC_TRAIN_EARLY else d) ∧
    (if early then d.satInc r j f_HMC_TRAIN_EARLY else d).insts = d.insts ∧
    (if early then d.satInc r j f_HMC_TRAIN_EARLY else d).now (instDom i) = d.now (instDom i) := by
  split
  · exact ⟨d.instOnly_setFld i r j _ _, rfl, rfl⟩
  · exact ⟨d.instOnly_refl i, rfl, rfl⟩

theorem Dev.pause_passes (i part : Nat) : d.instOnly i (d.pause i part true) ∧
    ((d.pause i part true).inst i).retry = (d.inst i).retry ∧ ((d.pause i part true).inst i).queue = (d.inst i).queue ∧
    ((d.pause i part true).inst i).pausedAt.get (pauseKey i part) 0 = d.now (instDom i) := by
  unfold Dev.pause
  generalize trainOf i = q
  obtain ⟨r, j⟩ := q
  dsimp -zeta only
  extract_lets early d1
  obtain ⟨honly, hinsts, hnow⟩ := d.pauseCount_spec i early r j
  obtain ⟨hpaused, hinst⟩ := d1.paused_spec i part 1
  have hi : d1.inst i = d.inst i := congrArg (fun t : Tab Inst => t.get i {}) hinsts
  rw [if_pos rfl]
  refine ⟨Dev.instOnly_trans honly hpaused, (congrArg Inst.retry hinst).trans (congrArg Inst.retry hi :),
    (congrArg Inst.queue hinst).trans (congrArg Inst.queue hi :), ?_⟩
  rw [hinst]
  exact (tab_get_set_same _ _ _ _).trans hnow

theorem Dev.pause_fails (i part : Nat) : d.instOnly i (d.pause i part false) ∧
    ((d.pause i part false).inst i).retry = some (part, (d.inst i).group.get (pauseKey i part) 0 % 6) ∧
    ((d.pause i part false).inst i).st = (d.inst i).st := by
  unfold Dev.pause
  generalize trainOf i = q
  obtain ⟨r, j⟩ := q
  dsimp -zeta only
  extract_lets early d1
  obtain ⟨honly, hinsts, -⟩ := d.pauseCount_spec i early r j
  obtain ⟨hpaused, hinst⟩ := d1.paused_spec i part 0
  have hi : d1.inst i = d.inst i := congrArg (fun t : Tab Inst => t.get i {}) hinsts
  rw [if_neg Bool.false_ne_true]
  refine ⟨Dev.instOnly_trans honly (Dev.instOnly_trans hpaused (Dev.instOnly_updInst _ i _)), ?_, ?_⟩
  · rw [Dev.inst_updInst_same, hinst, hi]
    exact congrArg (fun g => some (part, g)) (tab_get_set_same _ _ _ _)
  · rw [Dev.inst_updInst_same, hinst, hi]

/-! ### What training logs -/

/-- The device without what an entry of the log changes. -/
def Dev.besideLog : Dev := { d with regs := [], logFull := 0, win := [], ports := [], evq := [], evHold := [], out := [], wire := [] }

theorem Dev.besideLog_logPut (die e : Nat) : (d.logPut die e).besideLog = d.besideLog ∧
    d.logPut die e = { d with regs := (d.logPut die e).regs, logFull := (d.logPut die e).logFull } := by
  unfold Dev.logPut
  extract_lets h d1 d2 full d3 d4
  have h3 : d3 = { d with regs := d3.regs } := by
    unfold d3
    split <;> rfl
  have h4 : d4 = { d with regs := d4.regs, logFull := d4.logFull } := by
    unfold d4
    split
    · exact (congrArg (fun x : Dev => ({ x with logFull := d3.logFull ||| BitVec.ofNat 2 (2 ^ die) } : Dev)) h3 :)
    · exact (congrArg (fun x : Dev => ({ x with logFull := d3.logFull } : Dev)) h3 :)
  have h5 : ∀ f n, d4.setFld row_LOAM_STATUS die f n =
      { d with regs := (d4.setFld row_LOAM_STATUS die f n).regs, logFull := (d4.setFld row_LOAM_STATUS die f n).logFull } :=
    fun f n => (congrArg (fun x : Dev => ({ x with regs := (d4.setFld row_LOAM_STATUS die f n).regs } : Dev)) h4 :)
  refine ⟨?_, h5 _ _⟩
  rw [h5]
  rfl

theorem Dev.besideLog_trainLog (i c g : Nat) (lasting : Bool) : (d.trainLog i c g lasting).besideLog = d.besideLog := by
  unfold Dev.trainLog
  extract_lets d1
  have h1 : d1.besideLog = d.besideLog := by
    unfold d1
    split <;> rfl
  refine Eq.trans ?_ h1
  unfold Dev.log
  extract_lets e d2
  have h2 : d2.besideLog = d1.besideLog := (d1.besideLog_logPut _ _).1
  split
  · refine Eq.trans ?_ h2
    exact (congrArg Dev.besideLog (d2.eventsOnly_event none 0x0A 0 e).rest :)
  · exact h2

/-- A transient failure of training is counted and logged. -/
theorem Dev.trainLog_transient (i c g : Nat) :
    d.trainLog i c g false = { d with regs := (d.trainLog i c g false).regs, logFull := (d.trainLog i c g false).logFull } :=
  (congrArg (fun x : Dev => ({ x with logFull := (d.trainLog i c g false).logFull, regs := (d.trainLog i c g false).regs } : Dev))
    ((d.satInc (trainOf i).1 (trainOf i).2 f_HMC_TRAIN_TRANSIENT).besideLog_logPut _ _).2 :)

theorem lastingMask_cons (f : TrainFail) (t : List TrainFail) (m : BitVec 4) :
    (f :: t).foldl (fun m f => if f.lasting then m ||| BitVec.ofNat 4 (2 ^ f.ch.val) else m) m = 0 →
    f.lasting = false ∧ m = 0 ∧ t.foldl (fun m f => if f.lasting then m ||| BitVec.ofNat 4 (2 ^ f.ch.val) else m) 0 = 0 := by
  have hmono : ∀ (t : List TrainFail) (m : BitVec 4),
      t.foldl (fun m f => if f.lasting then m ||| BitVec.ofNat 4 (2 ^ f.ch.val) else m) m = 0 → m = 0 := by
    intro t
    induction t with
    | nil => exact fun m h => h
    | cons f t ih =>
      intro m h
      have h1 := ih _ h
      dsimp only at h1
      split at h1
      · exact (BitVec.or_eq_zero_iff.mp h1).1
      · exact h1
  intro h
  have h1 := hmono t _ h
  dsimp only at h1
  cases hl : f.lasting with
  | false =>
    rw [List.foldl_cons, hl, if_neg Bool.false_ne_true] at h
    rw [hl, if_neg Bool.false_ne_true] at h1
    exact ⟨rfl, h1, h1 ▸ h⟩
  | true =>
    rw [hl, if_pos rfl] at h1
    have hbit : ∀ c : Fin 4, BitVec.ofNat 4 (2 ^ c.val) ≠ 0 := by decide
    exact absurd (BitVec.or_eq_zero_iff.mp h1).2 (hbit f.ch)

/-- Failures of which none lasts. -/
theorem lasting_of_lastingMask (l : List TrainFail) (h : lastingMask l = 0) : ∀ f ∈ l, f.lasting = false := by
  induction l with
  | nil => exact fun f hf => absurd hf List.not_mem_nil
  | cons f t ih =>
    obtain ⟨hf, -, ht⟩ := lastingMask_cons f t 0 h
    intro x hx
    rcases List.mem_cons.mp hx with rfl | hx
    · exact hf
    · exact ih ht x hx

theorem Dev.trainFails_transient (i : Nat) (l : List TrainFail) (c : Nat) (h : lastingMask l = 0) :
    d.trainFails i l c = { d with regs := (d.trainFails i l c).regs, logFull := (d.trainFails i l c).logFull } := by
  unfold Dev.trainFails
  rw [if_pos h]
  have hall := lasting_of_lastingMask l h
  clear h
  induction l generalizing d with
  | nil => rfl
  | cons f t ih =>
    have hf := hall f List.mem_cons_self
    have h1 := d.trainLog_transient i f.ch.val f.group.val
    rw [← hf] at h1
    refine (ih (d.trainLog i f.ch.val f.group.val f.lasting) fun x hx => hall x (List.mem_cons_of_mem f hx)).trans ?_
    exact (congrArg (fun x : Dev => ({ x with
      regs := ((f :: t).foldl (fun d f => d.trainLog i f.ch.val f.group.val f.lasting) d).regs,
      logFull := ((f :: t).foldl (fun d f => d.trainLog i f.ch.val f.group.val f.lasting) d).logFull } : Dev)) h1 :)

variable {d} in
/-- A controller that changes after entries of the log were written. -/
theorem Dev.instOnly_eq_of_logged {i : Nat} {e f : Dev} (h : e.instOnly i f) (hlog : e = { d with regs := e.regs, logFull := e.logFull }) :
    f = { d with insts := f.insts, regs := f.regs, logFull := f.logFull } := by
  have h1 : ({ f with insts := [], regs := [], logFull := 0 } : Dev) = { e with insts := [], regs := [], logFull := 0 } :=
    (congrArg (fun x : Dev => ({ x with logFull := 0 } : Dev)) h.rest :)
  have h2 : ({ e with insts := [], regs := [], logFull := 0 } : Dev) = { d with insts := [], regs := [], logFull := 0 } :=
    (congrArg (fun x : Dev => ({ x with insts := [], regs := [], logFull := 0 } : Dev)) hlog :)
  exact (congrArg (fun x : Dev => ({ x with insts := f.insts, regs := f.regs, logFull := f.logFull } : Dev)) (h1.trans h2) :)

/-- What channels that fail for good leave. -/
structure Dev.chansFailed (i : Nat) (mask : BitVec 4) (e : Dev) : Prop where
  failed : (e.inst i).failed = (d.inst i).failed ||| mask
  mem : d.reqs = [] → e.mem = d.mem
  fenced : ∀ st, d.setOfInst i = some st → e.setFenced st = true

theorem Dev.chansFailed_failChans (i : Nat) (mask : BitVec 4) (cause : Nat) : d.chansFailed i mask (d.failChans i mask cause) :=
  ⟨d.failChans_failed i mask cause, (d.contained_failChans i mask cause).mem, fun st h => d.setFenced_failChans i st mask cause h⟩

variable {d} in
/-- What was logged before them changes nothing of that. -/
theorem Dev.chansFailed_of_logged {i : Nat} {mask : BitVec 4} {e f : Dev} (h : e.besideLog = d.besideLog) (hf : e.chansFailed i mask f) :
    d.chansFailed i mask f where
  failed := hf.failed.trans (congrArg (fun x : Dev => (x.inst i).failed ||| mask) h :)
  mem hr := (hf.mem ((congrArg Dev.reqs h :).trans hr)).trans (congrArg Dev.mem h :)
  fenced st hst := hf.fenced st ((congrArg (fun x : Dev => x.setOfInst i) h :).trans hst)

theorem Dev.chansFailed_trainFails (i : Nat) (l : List TrainFail) (c : Nat) (h : lastingMask l ≠ 0) :
    d.chansFailed i (lastingMask l) (d.trainFails i l c) := by
  unfold Dev.trainFails
  extract_lets d1
  rw [if_neg h]
  exact Dev.chansFailed_of_logged (Dev.each_same Dev.besideLog _ _ (fun e f => e.besideLog_trainLog _ _ _ _) d) (d1.chansFailed_failChans i _ c)

/-! ### The retry pause (R282) -/

theorem Dev.pauseRetry_passes (i part g : Nat) (h : (d.inst i).retry = some (part, g)) :
    ((d.pauseRetry i true).inst i).retry = none ∧ ((d.pauseRetry i true).inst i).st = (d.inst i).st ∧
    ((d.pauseRetry i true).inst i).failed = (d.inst i).failed ∧ (d.pauseRetry i true).mem = d.mem := by
  unfold Dev.pauseRetry
  rw [h]
  dsimp -zeta only
  extract_lets d1
  rw [if_pos rfl]
  obtain ⟨honly, hinst⟩ := d1.paused_spec i part 1
  have hlog := (d1.paused i part 1).besideLog_trainLog i (part / 2) g false
  have hi : ((d1.paused i part 1).trainLog i (part / 2) g false).inst i = (d1.paused i part 1).inst i :=
    (congrArg (fun x : Dev => x.inst i) hlog :)
  have h1 : d1.inst i = { d.inst i with retry := none } := d.inst_updInst_same i _
  rw [hi, hinst, h1]
  exact ⟨rfl, rfl, rfl, (congrArg Dev.mem hlog :).trans (congrArg Dev.mem honly.rest :)⟩

theorem Dev.pauseRetry_fails (i part g : Nat) (h : (d.inst i).retry = some (part, g)) :
    d.chansFailed i (BitVec.ofNat 4 (2 ^ (part / 2))) (d.pauseRetry i false) := by
  unfold Dev.pauseRetry
  rw [h]
  dsimp -zeta only
  extract_lets d1
  rw [if_neg Bool.false_ne_true]
  obtain ⟨honly, hinst⟩ := d1.paused_spec i part 0
  have hlog := (d1.paused i part 0).besideLog_trainLog i (part / 2) g true
  obtain ⟨hfailed, hmem, hfenced⟩ := Dev.chansFailed_of_logged hlog
    (((d1.paused i part 0).trainLog i (part / 2) g true).chansFailed_failChans i (BitVec.ofNat 4 (2 ^ (part / 2))) 1)
  have h1 : d1.inst i = { d.inst i with retry := none } := d.inst_updInst_same i _
  rw [hinst, h1] at hfailed
  refine ⟨hfailed, fun hr => (hmem ((congrArg Dev.reqs honly.rest :).trans hr)).trans (congrArg Dev.mem honly.rest :), fun st hst => ?_⟩
  exact hfenced st ((congrArg (fun x : Dev => x.setOfInst i) honly.rest :).trans hst)

/-! ### Self-refresh (R278) -/

theorem Dev.clockStop_quiet (i : Nat) (h : (d.inst i).queue = []) : d.instOnly i (d.clockStop i .selfRefresh) ∧
    ((d.clockStop i .selfRefresh).inst i).st = .selfRefresh ∧ ((d.clockStop i .selfRefresh).inst i).rows = [] ∧
    ((d.clockStop i .selfRefresh).inst i).queue = [] ∧ ((d.clockStop i .selfRefresh).inst i).failed = (d.inst i).failed ∧
    ((d.clockStop i .selfRefresh).inst i).pausedAt = (d.inst i).pausedAt := by
  obtain ⟨honly, hinst⟩ := d.accrue_inst i
  have hqueue : ((d.accrue i).inst i).queue = [] := (congrArg Inst.queue hinst).trans h
  have hout : (d.accrue i).writeOut i = d.accrue i := by
    unfold Dev.writeOut
    rw [hqueue]
    rfl
  unfold Dev.clockStop
  rw [hout]
  refine ⟨Dev.instOnly_trans honly (Dev.instOnly_updInst _ i _), ?_⟩
  rw [Dev.inst_updInst_same]
  exact ⟨rfl, rfl, hqueue, (congrArg Inst.failed hinst :), (congrArg Inst.pausedAt hinst :)⟩

/-- A controller whose clock starts again, its pauses counted from now. -/
theorem Dev.clockStarts_spec (i : Nat) : d.instOnly i ((d.clockStart i).pausesRestart i) ∧
    (((d.clockStart i).pausesRestart i).inst i).st = .active ∧ (((d.clockStart i).pausesRestart i).inst i).queue = (d.inst i).queue ∧
    (((d.clockStart i).pausesRestart i).inst i).xbar = (d.inst i).xbar ∧ (((d.clockStart i).pausesRestart i).inst i).rows = [] ∧
    (((d.clockStart i).pausesRestart i).inst i).failed = (d.inst i).failed := by
  obtain ⟨honly, hinst⟩ := d.accrue_inst i
  unfold Dev.pausesRestart Dev.clockStart
  extract_lets now
  refine ⟨Dev.instOnly_trans honly (Dev.instOnly_trans (Dev.instOnly_updInst _ i _) (Dev.instOnly_updInst _ i _)), ?_⟩
  rw [Dev.inst_updInst_same, Dev.inst_updInst_same]
  exact ⟨rfl, (congrArg Inst.queue hinst :), (congrArg Inst.xbar hinst :), rfl, (congrArg Inst.failed hinst :)⟩

theorem Dev.srExit_transient (i : Nat) (l : List TrainFail) (h : lastingMask l = 0) :
    d.srExit i l = ((d.trainFails i l 1).clockStart i).pausesRestart i := by
  rw [Dev.srExit, if_pos h]

theorem Dev.srExit_lasting (i : Nat) (l : List TrainFail) (h : lastingMask l ≠ 0) : d.srExit i l = d.trainFails i l 1 := by
  rw [Dev.srExit, if_neg h]

/-! ### The end of a reset with replay (R297) -/

theorem Dev.replayOver_spec (i : Nat) : d.instOnly i (d.replayOver i) ∧ ((d.replayOver i).inst i).st = .active ∧
    ((d.replayOver i).inst i).queue = (d.inst i).queue ∧ ((d.replayOver i).inst i).failed = (d.inst i).failed := by
  obtain ⟨honly, hinst⟩ := d.accrue_inst i
  unfold Dev.replayOver Dev.pausesRestart Dev.clockStart
  extract_lets now
  refine ⟨Dev.instOnly_trans honly (Dev.instOnly_trans (Dev.instOnly_updInst _ i _)
    (Dev.instOnly_trans (Dev.instOnly_updInst _ i _) (Dev.instOnly_updInst _ i _))), ?_⟩
  rw [Dev.inst_updInst_same, Dev.inst_updInst_same, Dev.inst_updInst_same]
  exact ⟨rfl, (congrArg Inst.queue hinst :), (congrArg Inst.failed hinst :)⟩

end

/-! ### The commands -/

section
variable (s : State) (i : Fin 100)

theorem exec_refresh (part : Fin 8) (bank : Fin 16) (hr : s.dev.freezes = .running) (h : (s.dev.inst i.val).st = .active) :
    exec (.refresh i part bank) s = .next { s with dev := (s.dev.refreshBank i.val part.val bank.val).finish } :=
  State.devEvent_holds (fun d => (d.inst i.val).st == .active && d.freezes == .running) (fun d => d.refreshBank i.val part.val bank.val) s
    (by simp [hr, h])

theorem exec_retrainPause (part : Fin 8) (pass : Bool) (b : Bool) (h : s.dev.pauseDue i.val part.val = some b) :
    exec (.retrainPause i part pass) s = .next { s with dev := (s.dev.pause i.val part.val pass).finish } :=
  State.devEvent_holds (fun d => (d.pauseDue i.val part.val).isSome) (fun d => d.pause i.val part.val pass) s (by simp [h])

theorem exec_retrainRetry (pass : Bool) (q : Nat × Nat) (hr : s.dev.freezes = .running) (h : (s.dev.inst i.val).st = .active)
    (hq : (s.dev.inst i.val).retry = some q) :
    exec (.retrainRetry i pass) s = .next { s with dev := (s.dev.pauseRetry i.val pass).finish } :=
  State.devEvent_holds (fun d => (d.inst i.val).retry.isSome && (d.inst i.val).st == .active && d.freezes == .running)
    (fun d => d.pauseRetry i.val pass) s (by simp [hr, h, hq])

theorem exec_selfRefreshEntry (h : s.dev.srDue i.val = true) :
    exec (.selfRefreshEntry i) s = .next { s with dev := (s.dev.clockStop i.val .selfRefresh).finish } :=
  State.devEvent_holds (fun d => d.srDue i.val) (fun d => d.clockStop i.val .selfRefresh) s h

theorem exec_selfRefreshExit (fails : List TrainFail) (h : (s.dev.inst i.val).st = .selfRefresh) (hl : (s.dev.inst i.val).pllLost = false)
    (hf : s.dev.failed = false) (hd : (s.dev.dom (instDom i.val)).st = .live)
    (hp : s.dev.freezes = .thawing ∨ (s.dev.freezes = .running ∧ ((s.dev.inst i.val).queue ≠ [] ∨ (s.dev.inst i.val).xbar ≠ []))) :
    exec (.selfRefreshExit ⟨i, fails⟩) s = .next { s with dev := (s.dev.srExit i.val fails).finish } := by
  refine State.devEvent_holds (fun d => (d.inst i.val).st == .selfRefresh && !(d.inst i.val).pllLost && !d.failed &&
    (d.dom (instDom i.val)).st == .live && (d.freezes == .thawing ||
      (d.freezes == .running && !((d.inst i.val).queue.isEmpty && (d.inst i.val).xbar.isEmpty)))) (fun d => d.srExit i.val fails) s ?_
  rcases hp with hp | ⟨hp, hq⟩
  · simp [h, hl, hf, hd, hp]
  · simp only [h, hl, hf, hd, hp]
    rcases hq with hq | hq <;> simp [hq]

theorem exec_tempRead (r : Option (BitVec 16)) (h : (s.dev.inst i.val).st ≠ .off) (hr : s.dev.freezes = .running)
    (ht : (s.dev.inst i.val).tempAt = 0 ∨ s.dev.atLeast (instDom i.val) (s.dev.inst i.val).tempAt 1000000 = true) :
    exec (.tempRead i r) s = .next { s with dev := (s.dev.tempStore i.val (r.getD 420)).finish } :=
  State.devEvent_holds (fun d => (d.inst i.val).st ≠ .off && d.freezes == .running &&
    ((d.inst i.val).tempAt = 0 || d.atLeast (instDom i.val) (d.inst i.val).tempAt 1000000)) (fun d => d.tempStore i.val (tempVal r)) s
    (by simpa [h, hr] using ht)

theorem exec_replayResetDone (fails : List TrainFail) (h : (s.dev.inst i.val).st = .replay) (hl : (s.dev.inst i.val).pllLost = false)
    (hd : s.dev.live (instDom i.val) = true) (hr : s.dev.freezes = .running) :
    exec (.replayResetDone i fails) s = .next { s with dev := (s.dev.replayDone i.val fails).finish } :=
  State.devEvent_holds (fun d => (d.inst i.val).st == .replay && !(d.inst i.val).pllLost && d.live (instDom i.val) && d.freezes == .running)
    (fun d => d.replayDone i.val fails) s (by simp [h, hl, hd, hr])

end

/-- Settles O49: each event is what its lemma above says of the controller, and of the rest by the frames. -/
theorem controllerEvents : Obligations.ControllerEvents := by
  unfold Obligations.ControllerEvents
  intro s i x only
  have honly : ∀ {e : Dev}, s.dev.instOnly i.val e → only e := fun h => ⟨Dev.instOnly_eq h, h.other⟩
  refine ⟨fun hr h => ⟨fun part bank => ?_, fun part b hb => ⟨?_, ?_⟩, fun part g hq => ⟨?_, ?_⟩, fun hdue => ?_⟩,
    fun h hl hf hd hp => ⟨?_, fun fails hm => ?_, fun fails hm => ?_⟩, fun r h hr ht => ?_, fun h hl hd hr => ⟨fun fails hm => ?_, fun fails hm => ?_⟩⟩
  · refine ⟨_, exec_refresh s i part bank hr h, honly (s.dev.instOnly_updInst i.val _), ?_⟩
    rw [s.dev.refreshBank_inst]
    exact ⟨tab_get_set_same _ _ _ _, rfl, fun k hk => tab_get_set_other _ _ _ _ _ _ hk⟩
  · obtain ⟨ho, hretry, hqueue, hat⟩ := s.dev.pause_passes i.val part.val
    exact ⟨_, exec_retrainPause s i part true b hb, honly ho, hretry, hqueue, hat⟩
  · obtain ⟨ho, hretry, hst⟩ := s.dev.pause_fails i.val part.val
    exact ⟨_, exec_retrainPause s i part false b hb, honly ho, hretry, hst.trans h⟩
  · obtain ⟨hretry, hst, hfailed, hmem⟩ := s.dev.pauseRetry_passes i.val part g hq
    exact ⟨_, exec_retrainRetry s i true _ hr h hq, hretry, hst.trans h, hfailed, hmem⟩
  · obtain ⟨hfailed, hmem, hfenced⟩ := s.dev.pauseRetry_fails i.val part g hq
    exact ⟨_, exec_retrainRetry s i false _ hr h hq, hmem, hfailed, hfenced⟩
  · have hqueue : x.queue = [] := by
      have hdue' : (x.st == .active && s.dev.freezes == .running && x.queue.isEmpty && x.xbar.isEmpty && x.retry.isNone &&
          s.dev.fld (ctlOf i.val).1 (ctlOf i.val).2 f_HMC_CTL_SR_AUTO == 1 &&
          s.dev.atLeast (instDom i.val) x.idleSince (1000 * s.dev.fld (ctlOf i.val).1 (ctlOf i.val).2 f_HMC_CTL_SR_IDLE)) = true := hdue
      simp only [Bool.and_eq_true] at hdue'
      obtain ⟨⟨⟨⟨⟨-, hq⟩, -⟩, -⟩, -⟩, -⟩ := hdue'
      exact List.isEmpty_iff.mp hq
    obtain ⟨ho, hst, hrows, hq, hfailed, hat⟩ := s.dev.clockStop_quiet i.val hqueue
    exact ⟨_, exec_selfRefreshEntry s i hdue, honly ho, hst, hrows, hq, hfailed, hat⟩
  · have hnone : s.dev.srExit i.val [] = (s.dev.clockStart i.val).pausesRestart i.val := s.dev.srExit_transient i.val [] rfl
    obtain ⟨ho, hst, hqueue, hxbar, hrows, -⟩ := s.dev.clockStarts_spec i.val
    rw [← hnone] at ho hst hqueue hxbar hrows
    exact ⟨_, exec_selfRefreshExit s i [] h hl hf hd hp, honly ho, hst, hqueue, hxbar, hrows⟩
  · obtain ⟨ho, hst, -⟩ := (s.dev.trainFails i.val fails 1).clockStarts_spec i.val
    rw [← s.dev.srExit_transient i.val fails hm] at ho hst
    exact ⟨_, exec_selfRefreshExit s i fails h hl hf hd hp, hst,
      (congrArg Dev.mem ho.rest :).trans (congrArg Dev.mem (s.dev.trainFails_transient i.val fails 1 hm) :)⟩
  · obtain ⟨hfailed, hmem, hfenced⟩ := s.dev.chansFailed_trainFails i.val fails 1 hm
    rw [← s.dev.srExit_lasting i.val fails hm] at hfailed hmem hfenced
    exact ⟨_, exec_selfRefreshExit s i fails h hl hf hd hp, hfailed, hmem, hfenced⟩
  · obtain ⟨ho, htemp, hhot⟩ := s.dev.tempStore_spec i.val (r.getD 420)
    exact ⟨_, exec_tempRead s i r h hr ht, honly ho, htemp, hhot⟩
  · have hdone : s.dev.replayDone i.val fails = (s.dev.trainFails i.val fails 1).replayEnds i.val := by
      rw [Dev.replayDone, if_pos hm]
    have hlog := s.dev.trainFails_transient i.val fails 1 hm
    obtain ⟨ho, hst, hqueue, hfailed⟩ := (s.dev.trainFails i.val fails 1).replayOver_spec i.val
    have hinst : ∀ j, (s.dev.trainFails i.val fails 1).inst j = s.dev.inst j := fun j => (congrArg (fun d : Dev => d.inst j) hlog :)
    refine ⟨(s.dev.trainFails i.val fails 1).replayOver i.val, ?_, fun hreqs => Dev.readAgain_noReqs _ _ ?_, ?_,
      fun j hj => (ho.other j hj).trans (hinst j), hst, hqueue.trans (congrArg Inst.queue (hinst i.val)),
      hfailed.trans (congrArg Inst.failed (hinst i.val))⟩
    · rw [exec_replayResetDone s i fails h hl hd hr, hdone]
      rfl
    · exact ((congrArg Dev.reqs ho.rest :).trans (congrArg Dev.reqs hlog :)).trans hreqs
    · exact Dev.instOnly_eq_of_logged ho hlog
  · have hdone : s.dev.replayDone i.val fails = s.dev.trainFails i.val fails 1 := by
      rw [Dev.replayDone, if_neg hm]
    obtain ⟨hfailed, hmem, hfenced⟩ := s.dev.chansFailed_trainFails i.val fails 1 hm
    rw [← hdone] at hfailed hmem hfenced
    exact ⟨_, exec_replayResetDone s i fails h hl hd hr, hfailed, hmem, hfenced⟩

end Sys2Proof.Machine

/-! PROOF. Loss of lock, relock, and the loss of REFCLK (R19, R284, R379, R417). -/
namespace Sys2Proof.Machine

section
variable (d : Dev)

/-! ### A fence leaves the locks of the controllers as they are -/

theorem Dev.insts_each {α : Type} (l : List α) (f : Dev → α → Dev) (hf : ∀ e x, (f e x).insts = e.insts := by intros; rfl) :
    (d.each l f).insts = d.insts := Dev.each_same Dev.insts l f hf d

theorem Dev.insts_discharge (m : Nat) (l : List (Nat × Nat)) : (d.discharge m l).insts = d.insts := d.insts_each _ _

theorem Dev.insts_failReq (id st : Nat) : (d.failReq id st).insts = d.insts := by
  have hrelease : (d.release id).insts = d.insts := by
    unfold Dev.release
    split
    · rfl
    · exact (show Dev.insts _ = _ from rfl).trans (d.insts_discharge _ _)
  have hcredit : ((d.release id).creditBack id 1).insts = (d.release id).insts := by
    unfold Dev.creditBack
    split <;> rfl
  exact hcredit.trans hrelease

theorem Dev.insts_memPut (s ga : Nat) (c : Code) : (d.memPut s ga c).insts = d.insts := (congrArg Dev.insts (d.memPut_eq s ga c) :)

theorem Dev.insts_undoReq (lie : List (Nat × Nat)) (r : Req) : (d.undoReq lie r).insts = d.insts :=
  d.insts_each _ _ fun e _ => e.insts_memPut _ _ _

theorem Dev.insts_abandon (x : Nat) : (d.abandon x).insts = d.insts := by
  unfold Dev.abandon
  split
  · rfl
  split
  · rfl
  extract_lets d1 d2
  have h2 : d2.insts = d.insts := by
    unfold d2
    split
    · exact Dev.insts_discharge _ _ _
    · rfl
  exact (congrArg Dev.insts (Dev.besideLoess_pressureAll _) :).trans h2

theorem Dev.insts_raiseShortfall (s : Nat) : (d.raiseShortfall s).insts = d.insts := by
  unfold Dev.raiseShortfall
  extract_lets q data d1 shares d2
  have hevent : ∀ (e : Dev) dst, (e.event dst 0x03 0 data).insts = e.insts := fun e dst =>
    (congrArg Dev.insts (e.eventsOnly_event dst 0x03 0 data).rest :)
  have h2 : d2.insts = d1.insts := Dev.each_same Dev.insts _ _ (fun e n => by
    split
    · exact hevent e _
    · rfl) d1
  exact h2.trans (hevent d none)

/-- Which controllers have lost their lock. -/
def Dev.locks : Nat → Bool := fun i => (d.inst i).pllLost

variable {d} in
theorem Dev.locks_of_insts {e : Dev} (h : e.insts = d.insts) : e.locks = d.locks :=
  congrArg (fun t : Tab Inst => fun i => (t.get i {}).pllLost) h

theorem Dev.locks_updInst (i : Nat) (f : Inst → Inst) (hf : ∀ x, (f x).pllLost = x.pllLost) : (d.updInst i f).locks = d.locks := by
  funext j
  by_cases hj : j = i
  · subst hj
    exact (congrArg Inst.pllLost (d.inst_updInst_same j f)).trans (hf _)
  · exact congrArg Inst.pllLost (d.inst_updInst_other i j f hj)

theorem Dev.locks_each {α : Type} (l : List α) (f : Dev → α → Dev) (hf : ∀ e x, (f e x).locks = e.locks) : (d.each l f).locks = d.locks :=
  Dev.each_same Dev.locks l f hf d

theorem Dev.locks_accrue (i : Nat) : (d.accrue i).locks = d.locks := by
  obtain ⟨honly, hinst⟩ := d.accrue_inst i
  funext j
  by_cases hj : j = i
  · subst hj
    exact (congrArg Inst.pllLost hinst :)
  · exact congrArg Inst.pllLost (honly.other j hj)

theorem Dev.locks_setK (s k cause : Nat) : (d.setK s k cause).locks = d.locks := by
  unfold Dev.setK
  extract_lets q d1 d2 held
  split
  · rfl
  have h1 : d1.locks = d.locks := Dev.each_same Dev.locks _ _ (fun e i => e.locks_accrue i) d
  split
  · exact h1
  · exact (Dev.locks_of_insts (d2.insts_raiseShortfall s)).trans h1

theorem Dev.locks_safety (k code data : Nat) (hk : k < 5) : (d.safety k code data).locks = d.locks :=
  (congrArg Dev.locks (d.safety_spec k code data hk).rest :)

theorem Dev.locks_fenceSet (s cause : Nat) : (d.fenceSet s cause).locks = d.locks := by
  unfold Dev.fenceSet
  split
  · rfl
  split
  · rfl
  extract_lets lie ids d1 hit d2 d3 d4 xs d5 d6
  have h1 : d1.locks = d.locks := d.locks_each _ _ fun e i => Eq.trans (by apply Dev.locks_updInst; exact fun _ => rfl) (e.locks_accrue i)
  have h2 : d2.locks = d1.locks := d1.locks_each _ _ fun e r => Dev.locks_of_insts (e.insts_undoReq lie r)
  have h3 : d3.locks = d2.locks := d2.locks_each _ _ fun e id => Dev.locks_of_insts (e.insts_failReq id 0x07)
  have h4 : d4.locks = d3.locks := rfl
  have h5 : d5.locks = d4.locks := d4.locks_each _ _ fun e x => Dev.locks_of_insts (e.insts_abandon x)
  have h6 : d6.locks = d5.locks := d5.locks_setK _ _ _
  have h7 : (d6.safety 2 0x12 (s + cause * 2 ^ 8)).locks = d6.locks := d6.locks_safety 2 _ _ (by decide)
  exact h7.trans (h6.trans (h5.trans (h4.trans (h3.trans (h2.trans h1)))))

theorem Dev.locks_failChans (i : Nat) (mask : BitVec 4) (cause : Nat) : (d.failChans i mask cause).locks = d.locks := by
  unfold Dev.failChans
  extract_lets d1
  have h1 : d1.locks = d.locks := d.locks_updInst i _ fun _ => rfl
  split
  · exact (d1.locks_fenceSet _ _).trans h1
  · exact h1

theorem Dev.locks_trainFails (i : Nat) (l : List TrainFail) (c : Nat) : (d.trainFails i l c).locks = d.locks := by
  unfold Dev.trainFails
  extract_lets d1
  have h1 : d1.locks = d.locks := d.locks_each _ _ fun e f =>
    Dev.locks_of_insts (congrArg Dev.insts (e.besideLog_trainLog i f.ch.val f.group.val f.lasting) :)
  split
  · exact h1
  · exact (d1.locks_failChans i _ c).trans h1

/-! ### Loss of lock -/

theorem Dev.pllLost_inst (p : Nat) (h : p < 100) : d.pllLost p = d.locks p := if_pos h

theorem Dev.pllLost_port (p : Nat) (h : 100 ≤ p) : d.pllLost p = (d.port (p - 100)).pllLost := if_neg (Nat.not_lt.mpr h)

theorem Dev.pllLose_spec (p : Nat) : (d.pllLose p).pllLost p = true ∧
    d.pllLose p = { d with insts := (d.pllLose p).insts, ports := (d.pllLose p).ports } ∧
    (p < 100 → (d.inst p).st = .active → ((d.pllLose p).inst p).st = .pause) := by
  unfold Dev.pllLose
  split
  · next hp =>
    obtain ⟨honly, hinst⟩ := d.accrue_inst p
    refine ⟨?_, ?_, fun _ hst => ?_⟩
    · rw [Dev.pllLost_inst _ p hp, Dev.locks, Dev.inst_updInst_same]
    · unfold Dev.accrue
      split <;> rfl
    · have hacc : ((d.accrue p).inst p).st = .active := (congrArg Inst.st hinst).trans hst
      rw [Dev.inst_updInst_same, hacc]
      rfl
  · next hp =>
    refine ⟨?_, rfl, fun h => absurd h hp⟩
    rw [Dev.pllLost_port _ p (Nat.not_lt.mp hp), Dev.port_updPort_same]

/-! ### The relock of a controller in a live domain -/

/-- A relock leaves its entry in the log. -/
theorem Dev.log_transient (x code detail : Nat) :
    d.log x code false detail = { d with regs := (d.log x code false detail).regs, logFull := (d.log x code false detail).logFull } :=
  (d.besideLog_logPut _ _).2

theorem Dev.besideLog_log (x code : Nat) (lasting : Bool) (detail : Nat) : (d.log x code lasting detail).besideLog = d.besideLog := by
  unfold Dev.log
  extract_lets e d2
  have h2 : d2.besideLog = d.besideLog := (d.besideLog_logPut _ _).1
  split
  · refine Eq.trans ?_ h2
    exact (congrArg Dev.besideLog (d2.eventsOnly_event none 0x0A 0 e).rest :)
  · exact h2

/-- A controller that has its lock again, before the reads in its queue are made again. -/
def Dev.relocked (i : Nat) : Dev :=
  let d := (d.accrue i).updInst i fun x => { x with pllLost := false }
  if (d.inst i).st = .pause ∨ ((d.inst i).st = .training ∧ d.step ≠ .training) then (d.clockStart i).pausesRestart i else d

theorem Dev.instResume_eq (i : Nat) : d.instResume i =
    if (d.inst i).st = .pause ∨ ((d.inst i).st = .training ∧ d.step ≠ .training) then (d.relocked i).readAgain i else d.relocked i := by
  obtain ⟨honly, hinst⟩ := d.accrue_inst i
  have hst : (((d.accrue i).updInst i fun x => { x with pllLost := false }).inst i).st = (d.inst i).st := by
    rw [Dev.inst_updInst_same]
    exact (congrArg Inst.st hinst :)
  have hstep : ((d.accrue i).updInst i fun x => { x with pllLost := false }).step = d.step := (congrArg Dev.step honly.rest :)
  unfold Dev.instResume Dev.relocked
  extract_lets d1 st
  have hst : (d1.inst i).st = (d.inst i).st := hst
  have hstep : d1.step = d.step := hstep
  have hif : (st == .pause || (st == .training && d1.step ≠ .training)) = true ↔
      (d.inst i).st = .pause ∨ ((d.inst i).st = .training ∧ d.step ≠ .training) := by
    simp [st, hst, hstep]
  have hiff : ((d1.inst i).st = .pause ∨ ((d1.inst i).st = .training ∧ d1.step ≠ .training)) =
      ((d.inst i).st = .pause ∨ ((d.inst i).st = .training ∧ d.step ≠ .training)) := by rw [hst, hstep]
  simp only [hiff]
  by_cases h : (d.inst i).st = .pause ∨ ((d.inst i).st = .training ∧ d.step ≠ .training)
  · rw [if_pos (hif.mpr h), if_pos h, if_pos h]
  · rw [if_neg (mt hif.mp h), if_neg h, if_neg h]

theorem Dev.relocked_spec (i : Nat) : d.instOnly i (d.relocked i) ∧ ((d.relocked i).inst i).pllLost = false ∧
    ((d.inst i).st = .pause → ((d.relocked i).inst i).st = .active) ∧ ((d.relocked i).inst i).queue = (d.inst i).queue := by
  obtain ⟨honly, hinst⟩ := d.accrue_inst i
  unfold Dev.relocked
  extract_lets d1
  have h1 : d1.inst i = { (d.accrue i).inst i with pllLost := false } := Dev.inst_updInst_same _ _ _
  have hq1 : (d1.inst i).queue = (d.inst i).queue := by
    rw [h1]
    exact (congrArg Inst.queue hinst :)
  have hst1 : (d1.inst i).st = (d.inst i).st := by
    rw [h1]
    exact (congrArg Inst.st hinst :)
  have ho1 : d.instOnly i d1 := Dev.instOnly_trans honly (Dev.instOnly_updInst _ i _)
  have hl1 : (d1.inst i).pllLost = false := by rw [h1]
  split
  · obtain ⟨ho, hst, hqueue, -⟩ := d1.clockStarts_spec i
    have hlock : ((d1.clockStart i).pausesRestart i).locks = d1.locks :=
      Eq.trans (by apply Dev.locks_updInst; exact fun _ => rfl)
        (Eq.trans (by apply Dev.locks_updInst; exact fun _ => rfl) (d1.locks_accrue i))
    exact ⟨Dev.instOnly_trans ho1 ho, (congrFun hlock i).trans hl1, fun _ => hst, hqueue.trans hq1⟩
  · next hno =>
    exact ⟨ho1, hl1, fun hst => absurd (.inl (hst1.trans hst)) hno, hq1⟩

/-- A queue that holds nothing has no read to make again. -/
theorem Dev.readAgain_emptyQueue (i : Nat) (h : (d.inst i).queue = []) : d.readAgain i = d := by
  unfold Dev.readAgain
  rw [h]
  simp only [List.any_nil, Bool.and_false, List.filter_false]
  rfl

/-! ### The relock of a port, and relocks that fail -/

theorem Dev.enterRetrain_kept (p : Nat) : (d.enterRetrain p).besideReplay = d.besideReplay ∧
    ((d.enterRetrain p).port p).pllLost = (d.port p).pllLost ∧
    ((d.port p).st = .active → ((d.enterRetrain p).port p).st = .retrain) := by
  by_cases h : (d.port p).st = .active
  · obtain ⟨hrest, -, hport⟩ := d.enterRetrain_active p h
    exact ⟨hrest, (congrArg Port.pllLost hport :), fun _ => congrArg Port.st hport⟩
  · have hno : d.enterRetrain p = d := if_pos h
    rw [hno]
    exact ⟨rfl, rfl, fun ha => absurd ha h⟩

theorem Dev.portFail_st (p cause domCause : Nat) (h : (d.port p).st ≠ .disabled) : ((d.portFail p cause domCause).port p).st = .failed := by
  unfold Dev.portFail
  by_cases hf : (d.port p).st = .failed
  · rw [if_pos (by rw [hf]; rfl)]
    exact hf
  · rw [if_neg (by simp [hf, h])]
    extract_lets d1 d2 d3
    have h2 : (d2.port p).st = .failed := congrArg Port.st (Dev.port_updPort_same (d1.downCause p cause) p fun x => { x with st := .failed, width := 0 })
    have h3 : d3.ports = d2.ports := (d2.countFence_kept (portDom p) domCause).2.2
    refine (d3.safety_port_st 0 _ _ p (by decide)).trans ?_
    exact (congrArg (fun t : Tab Port => (t.get p {}).st) h3).trans h2

/-! ### The result of a relock -/

/-- The device once the result of a relock is logged. -/
def Dev.relockLogged (p : Nat) (ok : Bool) : Dev := d.log (pllDom p) 0x0B (!ok) (pllDom p)

theorem Dev.besideLog_relockLogged (p : Nat) (ok : Bool) : (d.relockLogged p ok).besideLog = d.besideLog := d.besideLog_log _ _ _ _

section
variable (p : Nat)

theorem Dev.pllLost_relockLogged (ok : Bool) : (d.relockLogged p ok).pllLost p = d.pllLost p := by
  have hinst := congrArg (fun e : Dev => e.inst p) (d.besideLog_relockLogged p ok)
  have hport : ((d.relockLogged p ok).port (p - 100)).pllLost = (d.port (p - 100)).pllLost := by
    have hput : (d.logPut (dieOfDom (pllDom p)) (logEntry (d.now (pllDom p)) 0x0B (if !ok then 2 else 1) (stampDom (pllDom p)) (pllDom p))).ports =
        d.ports := (congrArg Dev.ports (d.besideLog_logPut _ _).2 :)
    unfold Dev.relockLogged Dev.log
    extract_lets e d2
    have h2 : d2.port (p - 100) = d.port (p - 100) := congrArg (fun t : Tab Port => t.get (p - 100) {}) hput
    split
    · exact (congrArg Port.pllLost ((d2.eventsOnly_event none 0x0A 0 e).ports (p - 100))).trans (congrArg Port.pllLost h2 :)
    · exact congrArg Port.pllLost h2
  unfold Dev.pllLost
  split
  · exact (congrArg Inst.pllLost hinst :)
  · exact hport

theorem Dev.live_relockLogged (ok : Bool) : (d.relockLogged p ok).live (pllDom p) = d.live (pllDom p) :=
  (congrArg (fun e : Dev => e.live (pllDom p)) (d.besideLog_relockLogged p ok) :)

/-- In a domain that is not LIVE a relock is only noted. -/
theorem Dev.pllResult_dead (ok : Bool) (fails : List TrainFail) (h : d.live (pllDom p) = false) (hl : d.pllLost p = true) :
    (d.pllResult p ok fails).pllLost p = !ok ∧ (d.pllResult p ok fails).mem = d.mem ∧ (d.pllResult p ok fails).descs = d.descs := by
  have hlog := d.besideLog_relockLogged p ok
  have hmem : (d.relockLogged p ok).mem = d.mem := (congrArg Dev.mem hlog :)
  have hdescs : (d.relockLogged p ok).descs = d.descs := (congrArg Dev.descs hlog :)
  have hlost := (d.pllLost_relockLogged p ok).trans hl
  have hlive := (d.live_relockLogged p ok).trans h
  unfold Dev.pllResult
  extract_lets d1
  rw [if_pos (by rw [show d1.live (pllDom p) = false from hlive]; rfl)]
  cases ok with
  | false => exact ⟨hlost, hmem, hdescs⟩
  | true =>
    rw [if_neg (by decide)]
    split
    · next hp =>
      refine ⟨?_, hmem, hdescs⟩
      rw [Dev.pllLost_inst _ p hp, Dev.locks, Dev.inst_updInst_same]
      rfl
    · next hp =>
      refine ⟨?_, hmem, hdescs⟩
      rw [Dev.pllLost_port _ p (Nat.not_lt.mp hp), Dev.port_updPort_same]
      rfl

variable (h : d.live (pllDom p) = true)
include h

theorem Dev.pllResult_live (ok : Bool) (fails : List TrainFail) : d.pllResult p ok fails =
    if p < 100 then
      if !ok then (d.relockLogged p ok).failChans p 0xF 1
      else if lastingMask fails = 0 then ((d.relockLogged p ok).trainFails p fails 1).instResume p
      else ((d.relockLogged p ok).updInst p fun x => { x with pllLost := false }).trainFails p fails 1
    else
      if ok then ((d.relockLogged p ok).updPort (p - 100) fun x => { x with pllLost := false }).enterRetrain (p - 100)
      else (d.relockLogged p ok).portFail (p - 100) 5 6 := by
  have hlive := (d.live_relockLogged p ok).trans h
  unfold Dev.pllResult
  extract_lets d1 n
  rw [if_neg (by rw [show d1.live (pllDom p) = true from hlive]; decide)]
  rfl

/-- A controller relocks, no training failing for good. -/
theorem Dev.pllResult_resumes (fails : List TrainFail) (hm : lastingMask fails = 0) (hp : p < 100) :
    ∃ e : Dev, d.pllResult p true fails = e.instResume p ∧ e = { d with regs := e.regs, logFull := e.logFull } := by
  refine ⟨(d.relockLogged p true).trainFails p fails 1, ?_, ?_⟩
  · rw [d.pllResult_live p h, if_pos hp, if_neg (by decide), if_pos hm]
  · have h1 : d.relockLogged p true = { d with regs := (d.relockLogged p true).regs, logFull := (d.relockLogged p true).logFull } :=
      d.log_transient _ _ _
    refine ((d.relockLogged p true).trainFails_transient p fails 1 hm).trans ?_
    exact (congrArg (fun x : Dev => ({ x with
      regs := ((d.relockLogged p true).trainFails p fails 1).regs,
      logFull := ((d.relockLogged p true).trainFails p fails 1).logFull } : Dev)) h1 :)

theorem Dev.pllResult_lasting (fails : List TrainFail) (hm : lastingMask fails ≠ 0) (hp : p < 100) :
    (d.pllResult p true fails).pllLost p = false ∧ ((d.pllResult p true fails).inst p).failed = (d.inst p).failed ||| lastingMask fails ∧
    ∀ k, d.setOfInst p = some k → (d.pllResult p true fails).setFenced k = true := by
  have hlog := d.besideLog_relockLogged p true
  rw [d.pllResult_live p h, if_pos hp, if_neg (by decide), if_neg hm]
  obtain ⟨hfailed, -, hfenced⟩ :=
    ((d.relockLogged p true).updInst p fun x => { x with pllLost := false }).chansFailed_trainFails p fails 1 hm
  have hlocks := ((d.relockLogged p true).updInst p fun x => { x with pllLost := false }).locks_trainFails p fails 1
  rw [Dev.inst_updInst_same] at hfailed
  refine ⟨?_, hfailed.trans (congrArg (fun e : Dev => (e.inst p).failed ||| lastingMask fails) hlog :), fun k hk => hfenced k ?_⟩
  · rw [Dev.pllLost_inst _ p hp, hlocks, Dev.locks, Dev.inst_updInst_same]
  · exact (congrArg (fun e : Dev => e.setOfInst p) hlog :).trans hk

theorem Dev.pllResult_port (fails : List TrainFail) (hp : 100 ≤ p) : (d.pllResult p true fails).pllLost p = false ∧
    (d.pllResult p true fails).mem = d.mem ∧ (d.pllResult p true fails).descs = d.descs ∧
    ((d.port (p - 100)).st = .active → ((d.pllResult p true fails).port (p - 100)).st = .retrain) := by
  have h1 : d.relockLogged p true = { d with regs := (d.relockLogged p true).regs, logFull := (d.relockLogged p true).logFull } :=
    d.log_transient _ _ _
  rw [d.pllResult_live p h, if_neg (Nat.not_lt.mpr hp), if_pos rfl]
  obtain ⟨hrest, hlost, hst⟩ := ((d.relockLogged p true).updPort (p - 100) fun x => { x with pllLost := false }).enterRetrain_kept (p - 100)
  have hport : (d.relockLogged p true).port (p - 100) = d.port (p - 100) := (congrArg (fun e : Dev => e.port (p - 100)) h1 :)
  refine ⟨?_, (congrArg Dev.mem hrest :).trans (congrArg Dev.mem h1 :), (congrArg Dev.descs hrest :).trans (congrArg Dev.descs h1 :),
    fun ha => hst ?_⟩
  · rw [Dev.pllLost_port _ p hp, hlost, Dev.port_updPort_same]
  · rw [Dev.port_updPort_same, hport]
    exact ha

theorem Dev.pllResult_fails (fails : List TrainFail) : (p < 100 → ((d.pllResult p false fails).inst p).failed = 0xF) ∧
    (100 ≤ p → (d.port (p - 100)).st ≠ .disabled → ((d.pllResult p false fails).port (p - 100)).st = .failed) := by
  rw [d.pllResult_live p h]
  refine ⟨fun hp => ?_, fun hp hd => ?_⟩
  · rw [if_pos hp, if_pos (by decide), Dev.failChans_failed]
    exact BitVec.or_allOnes
  · rw [if_neg (Nat.not_lt.mpr hp), if_neg Bool.false_ne_true]
    refine Dev.portFail_st _ _ _ _ fun h0 => hd ?_
    have hst : ((d.relockLogged p false).port (p - 100)).st = (d.port (p - 100)).st :=
      congrFun (congrArg (fun x : SetLeft => x.base.portSt) (d.beyondSets_log (pllDom p) 0x0B true (pllDom p))) (p - 100)
    exact hst.symm.trans h0

end

/-! ### The loss of REFCLK (R417) -/

/-- The port of the loop: its PLL has no lock, and it goes DOWN. -/
def Dev.refclkPort (n : Nat) : Dev :=
  let x := d.port n
  let d := d.updPort n fun x => { x with pllLost := true }
  if x.st == .disabled || x.st == .failed then d else d.portDown n 5 false

theorem Dev.refclkPort_spec (n : Nat) : (d.refclkPort n).beyondFence.rest = d.beyondFence.rest ∧
    (∀ q, q ≠ n → ((d.refclkPort n).port q).st = (d.port q).st) ∧
    ((d.port n).st ≠ .disabled → (d.port n).st ≠ .failed → ((d.refclkPort n).port n).st = .down) := by
  unfold Dev.refclkPort
  extract_lets x d1
  have h1 : d1.beyondFence = d.beyondFence := congrArg SetLeft.base (d.beyondSets_updPort n (fun x => { x with pllLost := true }) fun _ => rfl)
  split
  · next hx =>
    refine ⟨congrArg FenceLeft.rest h1, fun q _ => congrFun (congrArg FenceLeft.portSt h1) q, fun hd hf => ?_⟩
    simp only [x, Bool.or_eq_true, beq_iff_eq] at hx
    exact absurd hx (not_or.mpr ⟨hd, hf⟩)
  · unfold Dev.portDown
    extract_lets d2
    have h2 : d2.beyondFence = d1.beyondFence := by
      unfold d2
      split
      · exact congrArg SetLeft.base (d1.beyondSets_portResetEffects n)
      · rfl
    refine ⟨(show _ = d2.beyondFence.rest from rfl).trans (congrArg FenceLeft.rest (h2.trans h1)), fun q hq => ?_, fun _ _ => ?_⟩
    · exact (congrArg Port.st (Dev.port_updPort_other _ _ _ _ hq)).trans (congrFun (congrArg FenceLeft.portSt (h2.trans h1)) q)
    · exact congrArg Port.st (Dev.port_updPort_same _ _ _)

/-- After the loop every port of its list that was in use is DOWN. -/
theorem Dev.each_refclkPort (l : List Nat) (hl : l.Nodup) : (d.each l Dev.refclkPort).beyondFence.rest = d.beyondFence.rest ∧
    (∀ q, q ∉ l → ((d.each l Dev.refclkPort).port q).st = (d.port q).st) ∧
    ∀ q ∈ l, (d.port q).st ≠ .disabled → (d.port q).st ≠ .failed → ((d.each l Dev.refclkPort).port q).st = .down := by
  induction l generalizing d with
  | nil => exact ⟨rfl, fun _ _ => rfl, fun q hq => absurd hq List.not_mem_nil⟩
  | cons n t ih =>
    obtain ⟨hn, ht⟩ := List.nodup_cons.mp hl
    obtain ⟨hrest, hother, hsame⟩ := d.refclkPort_spec n
    obtain ⟨irest, iother, isame⟩ := ih (d.refclkPort n) ht
    refine ⟨irest.trans hrest, fun q hq => ?_, fun q hq hd hf => ?_⟩
    · exact (iother q fun h => hq (List.mem_cons_of_mem n h)).trans (hother q fun h => hq (h ▸ List.mem_cons_self))
    · rcases List.mem_cons.mp hq with rfl | hq
      · exact (iother q hn).trans (hsame hd hf)
      · have hne : q ≠ n := fun h => hn (h ▸ hq)
        exact isame q hq (by rwa [hother q hne]) (by rwa [hother q hne])

theorem Dev.refclkFail_up (h : d.step = .up) : d.refclkFail =
    ((({ d with refclkLost := true } : Dev).each (List.range (d.strat.elim 0 (·.sets.length))) fun d s => d.fenceSet s 6).each
      (List.range 16) Dev.refclkPort).deviceFailed 3 := by
  unfold Dev.refclkFail
  extract_lets d1 d2 d3
  rw [if_neg (by rw [show d1.step = .up from h]; decide)]
  rfl

theorem Dev.refclkFail_spec (h : d.step = .up) (hs : d.state ≠ .failed) : d.refclkFail.refclkLost = true ∧ d.refclkFail.state = .failed ∧
    d.refclkFail.dfCause = 3 ∧
    ∀ p, p < 16 → (d.port p).st ≠ .disabled → (d.port p).st ≠ .failed → (d.refclkFail.port p).st = .down := by
  rw [d.refclkFail_up h]
  generalize hd1 : ({ d with refclkLost := true } : Dev) = d1
  generalize hd2 : (d1.each (List.range (d.strat.elim 0 (·.sets.length))) fun d s => d.fenceSet s 6) = d2
  have hf2 : d2.beyondFence = d1.beyondFence := hd2 ▸ Dev.each_same Dev.beyondFence _ _ (fun e s => (e.otherSets_fenceSet s 6).base) d1
  obtain ⟨hrest, -, hdown⟩ := d2.each_refclkPort (List.range 16) List.nodup_range
  generalize d2.each (List.range 16) Dev.refclkPort = d3 at hrest hdown ⊢
  have hst3 : d3.state ≠ .failed := by
    have h3 : d3.state = d.state := (congrArg Dev.state (hrest.trans (congrArg FenceLeft.rest hf2)) :).trans (hd1 ▸ rfl)
    exact h3.trans_ne hs
  have hlost : d3.refclkLost = true := (congrArg Dev.refclkLost (hrest.trans (congrArg FenceLeft.rest hf2)) :).trans (hd1 ▸ rfl)
  have hfail := d3.deviceFailed_reaches 3
  rw [if_neg hst3] at hfail
  refine ⟨(congrArg (fun x : FailureLeft => x.rest.refclkLost) hfail :).trans hlost, d3.deviceFailed_state 3, d3.deviceFailed_cause 3 hst3,
    fun p hp hd hf => ?_⟩
  have hp2 : (d2.port p).st = (d.port p).st := (congrFun (congrArg FenceLeft.portSt hf2) p).trans (hd1 ▸ rfl)
  exact (congrFun (congrArg FailureLeft.portSt hfail) p).trans (hdown p (List.mem_range.mpr hp) (by rwa [hp2]) (by rwa [hp2]))

end

/-! ### The commands -/

theorem exec_pllRelockResult (s : State) (p : Fin 116) (ok : Bool) (fails : List TrainFail) (hl : s.dev.pllLost p.val = true)
    (hr : s.dev.refclkLost = false) :
    exec (.pllRelockResult p ok fails) s = .next { s with dev := (s.dev.pllResult p.val ok fails).finish } :=
  State.devEvent_holds (fun d => d.pllLost p.val && !d.refclkLost) (fun d => d.pllResult p.val ok fails) s (by simp [hl, hr])

theorem exec_pllLossOfLock (s : State) (p : Fin 116) (hlive : s.dev.live (pllDom p.val) = true) (hl : s.dev.pllLost p.val = false) :
    exec (.pllLossOfLock p) s = .next { s with dev := (s.dev.pllLose p.val).finish } := by
  have hon : s.dev.pllOn p.val = true := by
    have hst : (s.dev.dom (pllDom p.val)).st = .live := by simpa [Dev.live] using hlive
    rw [Dev.pllOn, hst]
    rfl
  exact State.devEvent_holds (fun d => d.pllOn p.val && !d.pllLost p.val) (fun d => d.pllLose p.val) s (by simp [hon, hl])

/-- Settles O14, clause by clause: what a relock does in each case is its own lemma; a fence leaves locks alone, and the device failure
at the loss of REFCLK leaves the ports DOWN that the loop before it took down. -/
theorem clockFaults : Obligations.ClockFaults := by
  unfold Obligations.ClockFaults
  refine ⟨fun s p => ⟨fun hlive hl => ?_, fun hl hr hlive => ⟨fun fails hm hp => ?_, fun fails hp => ?_, fun fails hm hp => ?_, ?_⟩,
    fun hl hr hlive ok fails => ?_⟩, fun s hr hstep hs => ?_⟩
  · exact ⟨_, exec_pllLossOfLock s p hlive hl, s.dev.pllLose_spec p.val⟩
  · obtain ⟨e, he, hlog⟩ := s.dev.pllResult_resumes p.val hlive fails hm hp
    have hinst : e.inst p.val = s.dev.inst p.val := (congrArg (fun x : Dev => x.inst p.val) hlog :)
    have hstep : e.step = s.dev.step := (congrArg Dev.step hlog :)
    obtain ⟨honly, hlost, hactive, hqueue⟩ := e.relocked_spec p.val
    rw [hinst] at hactive hqueue
    refine ⟨e.relocked p.val, ?_, ?_, Dev.instOnly_eq_of_logged honly hlog, hactive, hqueue, fun hq => Dev.readAgain_emptyQueue _ _ (hqueue.trans hq)⟩
    · rw [exec_pllRelockResult s p true fails hl hr, he, e.instResume_eq, hinst, hstep]
    · rw [Dev.pllLost_inst _ p.val hp]
      exact hlost
  · exact ⟨_, exec_pllRelockResult s p true fails hl hr, s.dev.pllResult_port p.val hlive fails hp⟩
  · exact ⟨_, exec_pllRelockResult s p true fails hl hr, s.dev.pllResult_lasting p.val hlive fails hm hp⟩
  · exact ⟨_, exec_pllRelockResult s p false [] hl hr, s.dev.pllResult_fails p.val hlive []⟩
  · exact ⟨_, exec_pllRelockResult s p ok fails hl hr, s.dev.pllResult_dead p.val ok fails hlive hl⟩
  · exact ⟨_, State.devEvent_holds (fun d => !d.refclkLost) Dev.refclkFail s (by simp [hr]), s.dev.refclkFail_spec hstep hs⟩

end Sys2Proof.Machine

/-! PROOF. Training, metadata and the end of bring-up (R284, R412, R413). -/
namespace Sys2Proof.Machine

section
variable (d : Dev)

/-! ### Step 5: training starts -/

/-- A controller in a live domain trains. -/
def Dev.trainOne (i : Nat) : Dev := if d.live (instDom i) then d.updInst i fun x => { x with st := .training } else d

theorem Dev.trainOne_eq (i : Nat) : d.trainOne i = { d with insts := (d.trainOne i).insts } := by
  unfold Dev.trainOne
  split <;> rfl

theorem Dev.trainOne_inst (k i : Nat) : (d.trainOne k).inst i =
    if i = k ∧ d.live (instDom i) = true then { d.inst i with st := .training } else d.inst i := by
  unfold Dev.trainOne
  split
  · next hk =>
    by_cases hi : i = k
    · subst hi
      rw [Dev.inst_updInst_same, if_pos ⟨rfl, hk⟩]
    · rw [d.inst_updInst_other k i _ hi, if_neg fun h => hi h.1]
  · next hk =>
    refine (if_neg ?_).symm
    rintro ⟨rfl, hl⟩
    exact hk hl

theorem Dev.each_trainOne (l : List Nat) : d.each l Dev.trainOne = { d with insts := (d.each l Dev.trainOne).insts } ∧
    ∀ i, (d.each l Dev.trainOne).inst i =
      if i ∈ l ∧ d.live (instDom i) = true then { d.inst i with st := .training } else d.inst i := by
  induction l generalizing d with
  | nil => exact ⟨rfl, fun i => (if_neg fun h => List.not_mem_nil h.1).symm⟩
  | cons k t ih =>
    have hk := d.trainOne_eq k
    obtain ⟨hrest, hinst⟩ := ih (d.trainOne k)
    refine ⟨hrest.trans (congrArg (fun x : Dev => ({ x with insts := ((d.trainOne k).each t Dev.trainOne).insts } : Dev)) hk :), fun i => ?_⟩
    have hlive : (d.trainOne k).live (instDom i) = d.live (instDom i) := (congrArg (fun x : Dev => x.live (instDom i)) hk :)
    refine (hinst i).trans ?_
    rw [hlive, d.trainOne_inst k i]
    by_cases hl : d.live (instDom i) = true
    · by_cases hi : i = k
      · subst hi
        simp only [hl, and_self, and_true, List.mem_cons_self, if_true]
        split <;> rfl
      · simp only [hl, hi, and_true, List.mem_cons, false_or, if_false]
    · simp only [hl, Bool.false_eq_true, and_false, if_false]

theorem Dev.trainUp_clocked (hr : d.refclkLost = false) (hf : d.freezes = .running) (hc : d.freezeCause = false) :
    d.trainUp true = { d with step := .training, state := .training, insts := (d.trainUp true).insts } ∧
    ∀ i, (d.trainUp true).inst i = if i ∈ d.usedInsts ∧ d.live (instDom i) = true then { d.inst i with st := .training } else d.inst i := by
  unfold Dev.trainUp
  extract_lets d1 d2
  obtain ⟨ht, hinst⟩ := d2.each_trainOne d2.usedInsts
  have heach : (d2.each d2.usedInsts fun d i => if d.live (instDom i) then d.updInst i fun x => { x with st := .training } else d) =
      d2.each d2.usedInsts Dev.trainOne := rfl
  rw [heach]
  generalize d2.each d2.usedInsts Dev.trainOne = e at ht hinst ⊢
  have hcheck : e.freezeCheck = e := by
    have hfr : e.freezes = .running := by rw [ht]; exact hf
    have hcause : e.freezeCause = false := by rw [ht]; exact hc
    unfold Dev.freezeCheck
    rw [hfr, hcause]
    rfl
  rw [if_neg (by rw [show d1.refclkLost = false from hr]; decide), hcheck]
  exact ⟨by rw [ht], hinst⟩

theorem Dev.trainUp_unclocked (hs : d.state = .boot) : (d.trainUp false).state = .failed ∧ (d.trainUp false).dfCause = 3 := by
  unfold Dev.trainUp
  extract_lets d1
  rw [if_pos (show (!false || d1.refclkLost) = true from rfl)]
  refine ⟨Dev.deviceFailed_state _ 3, Dev.deviceFailed_cause _ 3 ?_⟩
  exact (hs : d.state = .boot).trans_ne DevSt.noConfusion

/-! ### Step 6: the end of training -/

/-- The training of a controller that fails nothing. -/
theorem Dev.instTrained_passes (l : List (Fin 100 × TrainFail)) (i : Nat) (h : failsOf l i = []) : d.instOnly i (d.instTrained l i) ∧
    ((d.instTrained l i).inst i).failed = (d.inst i).failed ∧
    ((d.inst i).st = .training → (d.inst i).pllLost = false → ((d.instTrained l i).inst i).st = .active) := by
  unfold Dev.instTrained
  rw [h]
  have hnone : d.trainFails i [] 3 = d := rfl
  rw [hnone]
  extract_lets d1
  split
  · obtain ⟨honly, hinst⟩ := d.accrue_inst i
    unfold d1 Dev.pausesRestart Dev.clockStart
    extract_lets now
    refine ⟨Dev.instOnly_trans honly (Dev.instOnly_trans (Dev.instOnly_updInst _ i _)
      (Dev.instOnly_trans (Dev.instOnly_updInst _ i _) (Dev.instOnly_updInst _ i _))), ?_⟩
    rw [Dev.inst_updInst_same, Dev.inst_updInst_same, Dev.inst_updInst_same]
    exact ⟨(congrArg Inst.failed hinst :), fun _ _ => rfl⟩
  · next hno =>
    exact ⟨d.instOnly_refl i, rfl, fun hst hl => absurd (by simp [d1, hst, hl, lastingMask]) hno⟩

/-- The end of training of one controller: fences and marks stay, and where it has a lasting failure its channel and its set go. -/
theorem Dev.instTrained_keeps (l : List (Fin 100 × TrainFail)) (i : Nat) : d.contained (d.instTrained l i) ∧
    (∀ j c, (d.inst j).failed.getLsbD c = true → ((d.instTrained l i).inst j).failed.getLsbD c = true) := by
  have htrain : d.contained (d.trainFails i (failsOf l i) 3) ∧
      ∀ j, ((d.trainFails i (failsOf l i) 3).inst j).failed =
        if j = i then (d.inst j).failed ||| lastingMask (failsOf l i) else (d.inst j).failed := by
    unfold Dev.trainFails
    extract_lets d1
    have h1 : d.contained d1 := d.contained_each _ _ fun e (f : TrainFail) => e.contained_trainLog _ _ _ _
    have hf1 : ∀ j, (d1.inst j).failed = (d.inst j).failed := fun j => congrFun (congrArg SetLeft.failed
      (d.beyondSets_each _ _ fun e (f : TrainFail) => e.beyondSets_trainLog i f.ch.val f.group.val f.lasting)) j
    split
    · next hm =>
      refine ⟨h1, fun j => (hf1 j).trans ?_⟩
      rw [hm]
      split
      · exact BitVec.or_zero.symm
      · rfl
    · refine ⟨Dev.contained_trans h1 (d1.contained_failChans _ _ _), fun j => ?_⟩
      by_cases hj : j = i
      · subst hj
        rw [if_pos rfl, d1.failChans_failed, hf1]
      · rw [if_neg hj, ← hf1 j]
        unfold Dev.failChans
        extract_lets d2
        have h2 : d2.inst j = d1.inst j := d1.inst_updInst_other i j _ hj
        split
        · exact ((d2.otherSets_fenceSet _ _).failed j).trans (congrArg Inst.failed h2)
        · exact congrArg Inst.failed h2
  obtain ⟨hcont, hfailed⟩ := htrain
  have hmarks : ∀ j c, (d.inst j).failed.getLsbD c = true → ((d.trainFails i (failsOf l i) 3).inst j).failed.getLsbD c = true := by
    intro j c hc
    rw [hfailed j]
    split
    · rw [BitVec.getLsbD_or, hc, Bool.true_or]
    · exact hc
  unfold Dev.instTrained
  extract_lets d1
  split
  · obtain ⟨honly, hinst⟩ := d1.accrue_inst i
    have hend : ∀ j, ((((d1.clockStart i).updInst i fun x => { x with tempAt := d1.now (instDom i) }).pausesRestart i).inst j).failed =
        (d1.inst j).failed := fun j => by
      have h1 := congrFun (congrArg SetLeft.failed (d1.beyondSets_accrue i)) j
      refine Eq.trans ?_ h1
      unfold Dev.pausesRestart Dev.clockStart
      extract_lets now
      by_cases hj : j = i
      · subst hj
        rw [Dev.inst_updInst_same, Dev.inst_updInst_same, Dev.inst_updInst_same]
        rfl
      · rw [Dev.inst_updInst_other _ _ _ _ hj, Dev.inst_updInst_other _ _ _ _ hj, Dev.inst_updInst_other _ _ _ _ hj]
        rfl
    refine ⟨Dev.contained_trans hcont ?_, fun j c hc => ?_⟩
    · have h2 : d1.contained ((d1.accrue i).updInst i fun x => { x with st := .active }) :=
        Dev.contained_of_clockKept ((Dev.clockKept_updInst _ i _).trans (d1.clockKept_accrue i))
      refine Dev.contained_trans h2 (Dev.contained_of_clockKept ?_)
      unfold Dev.pausesRestart
      exact (Dev.clockKept_updInst _ i _).trans (Dev.clockKept_updInst _ i _)
    · rw [hend j]
      exact hmarks j c hc
  · exact ⟨hcont, hmarks⟩

/-- A lasting failure marks its channel and fences the set of its controller. -/
theorem Dev.instTrained_fails (l : List (Fin 100 × TrainFail)) (i : Nat) (f : TrainFail) (hf : f.lasting = true) (hl : failsOf l i = [f]) :
    ((d.instTrained l i).inst i).failed.getLsbD f.ch.val = true ∧ ∀ k, d.setOfInst i = some k → (d.instTrained l i).setFenced k = true := by
  have hmask : lastingMask [f] = BitVec.ofNat 4 (2 ^ f.ch.val) := by
    rw [lastingMask, List.foldl_cons, List.foldl_nil, if_pos hf]
    exact BitVec.zero_or
  have hbits : ∀ c : Fin 4, BitVec.ofNat 4 (2 ^ c.val) ≠ 0 ∧ (BitVec.ofNat 4 (2 ^ c.val)).getLsbD c.val = true := by decide
  obtain ⟨hne, hbit⟩ := hbits f.ch
  have hm : lastingMask [f] ≠ 0 := hmask.trans_ne hne
  have hinst : d.instTrained l i = d.trainFails i [f] 3 := by
    have hguard : ∀ a b : Bool, ¬ ((a && b && lastingMask [f] == 0) = true) := fun a b h => hm (eq_of_beq (Bool.and_eq_true_iff.mp h).2)
    unfold Dev.instTrained
    rw [hl]
    exact if_neg (hguard _ _)
  obtain ⟨hfailed, -, hfenced⟩ := d.chansFailed_trainFails i [f] 3 hm
  rw [hinst]
  refine ⟨?_, hfenced⟩
  rw [hfailed, hmask, BitVec.getLsbD_or, hbit, Bool.or_true]

/-! ### Beds and checkers -/

/-- The device without domains, registers and what a round of self-test notes. -/
def Dev.besideTest : Dev := { d with doms := [], rateDirty := 0, regs := [], stestAt := [] }

theorem Dev.besideTest_powerDoms (l : List Nat) : (d.powerDoms l).besideTest = d.besideTest := by
  refine Dev.each_same Dev.besideTest _ _ (fun e x => ?_) d
  unfold Dev.rateMark
  split <;> rfl

/-- The device after the controllers have trained: the beds are powered, the checkers pass. -/
theorem Dev.bedsUp_rest (l : List (Fin 100 × TrainFail)) : (d.bedsUp l []).besideTest =
    ({ d.each (d.usedInsts.filter fun i => (d.inst i).st == .training) (fun d i => d.instTrained l i) with step := .metadata } : Dev).besideTest := by
  unfold Dev.bedsUp
  extract_lets d1 d2 d3
  have hpass : ∀ (e : Dev) (k : Nat), (e.selfTest k []).besideTest = e.besideTest := fun _ _ => rfl
  have h3 : d3.besideTest = ({ d1 with step := .metadata } : Dev).besideTest :=
    (congrArg (fun x : Dev => ({ x with step := .metadata } : Dev)) (d1.besideTest_powerDoms d1.bedsDoms) :)
  exact (Dev.each_same Dev.besideTest _ _ (fun e k => hpass e k) d3).trans h3

/-! ### Step 7: metadata -/

/-- The device without what the return of memory writes. -/
def Dev.besideReplayed : Dev := { d.beyondRelease with descs := [], rgns := [] }

theorem Dev.besideReplayed_of_release {e : Dev} (h : e.beyondRelease = d.beyondRelease) : e.besideReplayed = d.besideReplayed :=
  (congrArg (fun x : Dev => ({ x with descs := [], rgns := [] } : Dev)) h :)

theorem Dev.besideReplayed_each {α : Type} (l : List α) (f : Dev → α → Dev) (hf : ∀ e x, (f e x).besideReplayed = e.besideReplayed) :
    (d.each l f).besideReplayed = d.besideReplayed := Dev.each_same Dev.besideReplayed l f hf d

theorem Dev.besideReplayed_slotClear (w : WSlot) : (d.slotClear w).besideReplayed = d.besideReplayed := by
  unfold Dev.slotClear
  extract_lets e
  split
  · rfl
  · exact Dev.besideReplayed_of_release _ ((Dev.beyondRelease_storedDec _ _ _ _).trans (d.beyondRelease_storedDec _ _ _))

theorem Dev.besideReplayed_jReplay (grp : Nat) : (d.jReplay grp).besideReplayed = d.besideReplayed := by
  unfold Dev.jReplay
  extract_lets j d1
  exact (show _ = d1.besideReplayed from rfl).trans (d.besideReplayed_each _ _ fun e r => by
    dsimp only
    split <;> rfl)

theorem Dev.besideReplayed_extFrees (l : List Nat) : (d.each l Dev.extFree).besideReplayed = d.besideReplayed :=
  (congrArg (fun x : Dev => ({ x with rgns := [] } : Dev)) (d.each_extFree l).2 :)

theorem Dev.besideReplayed_setRgn (r : Nat) (g : Rgn) : (d.setRgn r g).besideReplayed = d.besideReplayed := rfl

theorem Dev.besideReplayed_updRgn (r : Nat) (f : Rgn → Rgn) : (d.updRgn r f).besideReplayed = d.besideReplayed := rfl

theorem Dev.besideReplayed_tensors (t : Tab Tensor) : ({ d with tensors := t } : Dev).besideReplayed = d.besideReplayed := rfl

theorem Dev.besideReplayed_rgnResume (r : Nat) : (d.rgnResume r).besideReplayed = d.besideReplayed := by
  unfold Dev.rgnResume
  extract_lets g
  split
  · exact (Dev.besideReplayed_setRgn _ _ _).trans (d.besideReplayed_extFrees _)
  · exact (Dev.besideReplayed_updRgn _ _ _).trans (d.besideReplayed_extFrees _)

theorem Dev.memReplay_kept : d.memReplay.plans = [] ∧ d.memReplay.state = d.state := by
  unfold Dev.memReplay
  extract_lets hosts quiet d1 d2 d3 d4 d5 t
  have h2 : d2.besideReplayed = d1.besideReplayed := d1.besideReplayed_each _ _ fun e w => e.besideReplayed_slotClear w
  have h4 : d4.besideReplayed = d3.besideReplayed := d3.besideReplayed_each _ _ fun e g => e.besideReplayed_jReplay g
  have h5 : d5.besideReplayed = d4.besideReplayed := d4.besideReplayed_each _ _ fun e r => e.besideReplayed_rgnResume r
  have h6 : ({ d5 with tensors := t } : Dev).pressureAll.besideReplayed = d3.besideReplayed :=
    (Dev.besideReplayed_of_release _ (Dev.beyondRelease_pressureAll _)).trans ((d5.besideReplayed_tensors t).trans (h5.trans h4))
  generalize ({ d5 with tensors := t } : Dev).pressureAll = f at h6 ⊢
  have hp3 : d3.plans = [] := rfl
  have hs3 : d3.state = d2.state := rfl
  have hs1 : d1.state = d.state := rfl
  clear_value d3 d2 d1
  exact ⟨(congrArg Dev.plans h6 :).trans hp3, (congrArg Dev.state h6 :).trans (hs3.trans ((congrArg Dev.state h2 :).trans hs1))⟩

theorem Dev.metaUp_spec : d.metaUp.step = .ports ∧ d.metaUp.state = d.state ∧ d.metaUp.plans = [] ∧
    (d.memKept = false → d.metaUp = { d with
      step := .ports, descs := [], rgns := [], journals := [], poison := [], retired := [], tensors := [],
      plans := [], ctxs := [], memKept := false }) := by
  unfold Dev.metaUp
  extract_lets d1
  cases hm : d.memKept with
  | true =>
    have h1 : d1 = d.memReplay := if_pos hm
    obtain ⟨hplans, hstate⟩ := d.memReplay_kept
    rw [h1]
    generalize d.memReplay = e at hplans hstate ⊢
    exact ⟨rfl, hstate, hplans, fun h => absurd h Bool.noConfusion⟩
  | false =>
    have h1 : d1 = d.forget := if_neg (by rw [hm]; decide)
    rw [h1]
    exact ⟨rfl, rfl, rfl, fun _ => rfl⟩

/-! ### Step 8: READY -/

/-- The ports of a list enter TRAIN. -/
theorem Dev.each_enterTrain (l : List Nat) :
    d.each l Dev.enterTrain = { d with ports := (d.each l Dev.enterTrain).ports, regs := (d.each l Dev.enterTrain).regs } ∧
    ∀ p, ((d.each l Dev.enterTrain).port p).st = if p ∈ l then .train else (d.port p).st := by
  induction l generalizing d with
  | nil => exact ⟨rfl, fun p => (if_neg List.not_mem_nil).symm⟩
  | cons q t ih =>
    obtain ⟨hrest, hst⟩ := ih (d.enterTrain q)
    refine ⟨hrest, fun p => (hst p).trans ?_⟩
    by_cases ht : p ∈ t
    · rw [if_pos ht, if_pos (List.mem_cons_of_mem q ht)]
    · rw [if_neg ht]
      by_cases hp : p = q
      · subst hp
        rw [if_pos List.mem_cons_self]
        exact congrArg Port.st (Dev.port_updPort_same _ _ _)
      · rw [if_neg (by simp [hp, ht])]
        exact congrArg Port.st (Dev.port_updPort_other _ _ _ _ hp)

theorem Dev.ready_spec : d.ready.step = .up ∧ (d.ready.state = if d.strat.elim true (·.safe) then .readySafe else .ready) ∧
    d.ready = { d with step := .up, state := d.ready.state, ports := d.ready.ports, regs := d.ready.regs } ∧
    ∀ p, p < 16 → (d.ready.port p).st =
      if (d.port p).st = .down ∧ d.live (portDom p) = true then .train else (d.port p).st := by
  unfold Dev.ready
  extract_lets d1
  obtain ⟨hrest, hst⟩ := d1.each_enterTrain ((List.range 16).filter fun p => (d1.port p).st == .down && d1.live (portDom p))
  generalize d1.each ((List.range 16).filter fun p => (d1.port p).st == .down && d1.live (portDom p)) Dev.enterTrain = e at hrest hst ⊢
  refine ⟨by rw [hrest], by rw [hrest], ?_, fun p hp => (hst p).trans (if_congr ?_ rfl rfl)⟩
  · have hs : e.state = d1.state := by rw [hrest]
    rw [hs]
    exact hrest
  · rw [List.mem_filter]
    simp only [List.mem_range, hp, true_and, Bool.and_eq_true, beq_iff_eq]
    rfl

end

/-! ### The commands -/

section
variable (s : State)

theorem exec_stratumInForce (refclk : Bool) (hstep : s.dev.step = .stratum) (hst : s.dev.state = .boot) :
    exec (.stratumInForce refclk) s = .next { s with dev := (s.dev.trainUp refclk).finish } :=
  State.devEvent_holds (fun d => d.step == .stratum && d.state == .boot) (fun d => d.trainUp refclk) s (by simp [hstep, hst])

theorem exec_trainingDone (l : List (Fin 100 × TrainFail)) (fails : List TestFail) (hstep : s.dev.step = .training)
    (hst : s.dev.state = .training) (hr : s.dev.freezes = .running) (hw : s.bedsWait = false) :
    exec (.trainingDone l fails) s = .next { s with dev := (s.dev.bedsUp l fails).finish } :=
  State.devEvent_holds (fun d => d.step == .training && d.state == .training && d.freezes == .running && !s.bedsWait)
    (fun d => d.bedsUp l fails) s (by simp [hstep, hst, hr, hw])

theorem exec_trainingDone_waits (l : List (Fin 100 × TrainFail)) (fails : List TestFail) (hw : s.bedsWait = true) :
    exec (.trainingDone l fails) s = .next s :=
  State.devEvent_not (fun d => d.step == .training && d.state == .training && d.freezes == .running && !s.bedsWait)
    (fun d => d.bedsUp l fails) s (by simp [hw])

theorem Dev.upAt_of (d : Dev) (x : Step) (hstep : d.step = x) (hst : d.state = .training) (hr : d.freezes = .running) : d.upAt x = true := by
  simp [Dev.upAt, hstep, hst, hr]

end

section
variable (d : Dev)

/-- Training that fails nowhere: every controller that trains and holds its lock is ACTIVE. -/
theorem Dev.each_instTrained_passes (l : List Nat) (hl : l.Nodup) :
    (d.each l fun d i => d.instTrained [] i).besideInsts = d.besideInsts ∧
    (∀ j, j ∉ l → (d.each l fun d i => d.instTrained [] i).inst j = d.inst j) ∧
    ∀ i ∈ l, (d.inst i).st = .training → (d.inst i).pllLost = false → ((d.each l fun d i => d.instTrained [] i).inst i).st = .active := by
  induction l generalizing d with
  | nil => exact ⟨rfl, fun _ _ => rfl, fun i hi => absurd hi List.not_mem_nil⟩
  | cons k t ih =>
    obtain ⟨hk, ht⟩ := List.nodup_cons.mp hl
    obtain ⟨honly, -, hactive⟩ := d.instTrained_passes [] k rfl
    obtain ⟨irest, iother, iactive⟩ := ih (d.instTrained [] k) ht
    refine ⟨irest.trans honly.rest, fun j hj => ?_, fun i hi hst hlock => ?_⟩
    · exact (iother j fun h => hj (List.mem_cons_of_mem k h)).trans (honly.other j fun h => hj (h ▸ List.mem_cons_self))
    · rcases List.mem_cons.mp hi with rfl | hi
      · exact (congrArg Inst.st (iother i hk)).trans (hactive hst hlock)
      · have hne : i ≠ k := fun h => hk (h ▸ hi)
        exact iactive i hi (by rwa [honly.other i hne]) (by rwa [honly.other i hne])

/-- Training that fails for good at one controller of the list. -/
theorem Dev.each_instTrained_fails (l : List Nat) (i : Fin 100) (f : TrainFail) (hf : f.lasting = true) (hi : i.val ∈ l) :
    d.contained (d.each l fun d j => d.instTrained [(i, f)] j) ∧
    ((d.each l fun d j => d.instTrained [(i, f)] j).inst i.val).failed.getLsbD f.ch.val = true ∧
    ∀ k, d.setOfInst i.val = some k → (d.each l fun d j => d.instTrained [(i, f)] j).setFenced k = true := by
  have hfails : failsOf [(i, f)] i.val = [f] := by simp [failsOf]
  have hkeep : ∀ (t : List Nat) (e : Dev), e.contained (e.each t fun d j => d.instTrained [(i, f)] j) ∧
      ∀ j c, (e.inst j).failed.getLsbD c = true → ((e.each t fun d j => d.instTrained [(i, f)] j).inst j).failed.getLsbD c = true := by
    intro t
    induction t with
    | nil => exact fun e => ⟨e.contained_refl, fun _ _ => id⟩
    | cons k t ih =>
      intro e
      obtain ⟨hcont, hmark⟩ := e.instTrained_keeps [(i, f)] k
      obtain ⟨icont, imark⟩ := ih (e.instTrained [(i, f)] k)
      exact ⟨Dev.contained_trans hcont icont, fun j c hc => imark j c (hmark j c hc)⟩
  refine ⟨(hkeep l d).1, ?_⟩
  induction l generalizing d with
  | nil => exact absurd hi List.not_mem_nil
  | cons k t ih =>
    by_cases hk : k = i.val
    · subst hk
      obtain ⟨hmark, hfence⟩ := d.instTrained_fails [(i, f)] i.val f hf hfails
      obtain ⟨hcont, hstay⟩ := hkeep t (d.instTrained [(i, f)] i.val)
      exact ⟨hstay i.val f.ch.val hmark, fun k hs => hcont.fenced k (hfence k hs)⟩
    · obtain ⟨hcont, -⟩ := d.instTrained_keeps [(i, f)] k
      obtain ⟨hmark, hfence⟩ := ih (d.instTrained [(i, f)] k) ((List.mem_cons.mp hi).resolve_left fun h => hk h.symm)
      refine ⟨hmark, fun c hs => hfence c ?_⟩
      unfold Dev.setOfInst at hs ⊢
      rwa [hcont.strat]

end

/-- Settles O12, step by step of the bring-up. -/
theorem trainingAndBringUp : Obligations.TrainingAndBringUp := by
  unfold Obligations.TrainingAndBringUp
  refine ⟨fun s => ⟨fun hstep hst hl hr hc => ?_, fun hstep hst => ?_, fun hstep hst hr hw => ?_, fun _ _ _ hw l fails => ?_,
    fun hstep hst hr hw hreqs i f hf hi ht => ?_⟩, fun s hst hr => ⟨fun hstep => ?_, fun hstep => ?_⟩⟩
  · obtain ⟨hrest, hinst⟩ := s.dev.trainUp_clocked hl hr hc
    exact ⟨_, exec_stratumInForce s true hstep hst, by rw [hrest], by rw [hrest], hrest, hinst⟩
  · exact ⟨_, exec_stratumInForce s false hstep hst, s.dev.trainUp_unclocked hst⟩
  · have hx := exec_trainingDone s [] [] hstep hst hr hw
    have hrest := s.dev.bedsUp_rest []
    obtain ⟨htrain, -, hactive⟩ := s.dev.each_instTrained_passes (s.dev.usedInsts.filter fun i => (s.dev.inst i).st == .training)
      ((List.nodup_range.filter _).filter _)
    generalize s.dev.bedsUp [] [] = d at hx hrest
    generalize (s.dev.each (s.dev.usedInsts.filter fun i => (s.dev.inst i).st == .training) fun d i => d.instTrained [] i) = e
      at hrest htrain hactive
    refine ⟨d, hx, (congrArg Dev.step hrest :),
      (congrArg Dev.state hrest :).trans ((congrArg Dev.state htrain :).trans hst), fun i hi ht hlock => ?_,
      (congrArg Dev.mem hrest :).trans (congrArg Dev.mem htrain :), (congrArg Dev.descs hrest :).trans (congrArg Dev.descs htrain :),
      (congrArg Dev.ports hrest :).trans (congrArg Dev.ports htrain :)⟩
    exact (congrArg (fun d : Dev => (d.inst i).st) hrest :).trans (hactive i (List.mem_filter.mpr ⟨hi, by rw [ht]; rfl⟩) ht hlock)
  · exact exec_trainingDone_waits s l fails hw
  · have hx := exec_trainingDone s [(i, f)] [] hstep hst hr hw
    have hrest := s.dev.bedsUp_rest [(i, f)]
    obtain ⟨hcont, hmark, hfence⟩ := s.dev.each_instTrained_fails (s.dev.usedInsts.filter fun i => (s.dev.inst i).st == .training) i f hf
      (List.mem_filter.mpr ⟨hi, by rw [ht]; rfl⟩)
    generalize s.dev.bedsUp [(i, f)] [] = d at hx hrest
    generalize (s.dev.each (s.dev.usedInsts.filter fun i => (s.dev.inst i).st == .training) fun d j => d.instTrained [(i, f)] j) = e
      at hrest hcont hmark hfence
    exact ⟨d, hx, (congrArg Dev.step hrest :),
      (congrArg (fun d : Dev => (d.inst i.val).failed.getLsbD f.ch.val) hrest :).trans hmark,
      (congrArg Dev.mem hrest :).trans (hcont.mem hreqs), fun k hk => (congrArg (fun d : Dev => d.setFenced k) hrest :).trans (hfence k hk)⟩
  · obtain ⟨hup, hstate, hplans, hforget⟩ := s.dev.metaUp_spec
    exact ⟨_, State.devEvent_holds (fun d => d.upAt .metadata) Dev.metaUp s (s.dev.upAt_of .metadata hstep hst hr), hup, hstate.trans hst, hplans,
      hforget⟩
  · obtain ⟨hup, hstate, hrest, hports⟩ := s.dev.ready_spec
    exact ⟨_, State.devEvent_holds (fun d => d.upAt .ports) Dev.ready s (s.dev.upAt_of .ports hstep hst hr), hup, hstate, hrest, hports⟩

end Sys2Proof.Machine

/-! PROOF. Pieces at a controller (R254 to R258, R274 to R276, R283): their entry into the queue, the crossbar, and their service. -/
namespace Sys2Proof.Machine

section
variable (d : Dev)

/-! ### Requests by their numbers -/

/-- A request that is found has the number asked for. -/
theorem Dev.reqOf_id {id : Nat} {r : Req} (h : d.reqOf id = some r) : r.id = id := by
  simpa using List.find?_some h

/-- What a request is once it was changed, its number kept. -/
theorem Dev.reqOf_updReq (id : Nat) (f : Req → Req) (hf : ∀ r, (f r).id = r.id) {r : Req} (h : d.reqOf id = some r) :
    (d.updReq id f).reqOf id = some (f r) := by
  have hmap : ∀ l : List Req, l.find? (fun r => r.id == id) = some r →
      (l.map fun r => if r.id = id then f r else r).find? (fun r => r.id == id) = some (f r) := by
    intro l
    induction l with
    | nil => exact fun h => absurd h (by simp)
    | cons a t ih =>
      intro h
      rw [List.map_cons]
      by_cases ha : a.id = id
      · rw [List.find?_cons_of_pos (by simpa using ha)] at h
        obtain rfl := Option.some.inj h
        rw [if_pos ha, List.find?_cons_of_pos (by simpa [hf] using ha)]
      · rw [List.find?_cons_of_neg (by simpa using ha)] at h
        rw [if_neg ha, List.find?_cons_of_neg (by simpa using ha)]
        exact ih h
  exact hmap d.reqs h

/-- A request that still waits for pieces is not applied. -/
theorem Dev.applyDue_waits (id : Nat) {r : Req} (h : d.reqOf id = some r) (hp : r.pieces ≠ []) : d.applyDue id = d := by
  unfold Dev.applyDue
  rw [h]
  dsimp only
  rw [if_pos (by simp [hp])]

/-! ### A piece enters the queue (R254, R255) -/

/-- What the queue's highest filling notes: registers. -/
theorem Dev.peak_eq (i : Nat) : d.peak i = { d with regs := (d.peak i).regs } := by
  unfold Dev.peak
  extract_lets n
  generalize (if isLmc i then (row_LMC_QUEUE, i - 64) else (row_HMC_QUEUE, i)) = q
  obtain ⟨r, j⟩ := q
  dsimp only
  split <;> rfl

/-- The piece as the controller takes it: its master and its service budget are those of its request. -/
def Dev.pieceAs (p : PieceIn) : PieceIn := { p with budget := d.serviceBudget p, master := d.pieceMaster p }

/-- The balance of the piece's master once it is brought up to date. -/
def Dev.pieceAcct (i : Nat) (p : PieceIn) : Int := ((d.accrue i).inst i).acct.get (d.pieceMaster p).val 0

def Dev.pieceCls (i : Nat) (p : PieceIn) : Cls :=
  if !decide (0 < d.pieceAcct i p) then .be else if (d.serviceBudget p).isSome then .rt else .guar

/-- The entry of the queue that a piece becomes. -/
def Dev.pieceEntry (i : Nat) (p : PieceIn) : Piece :=
  ⟨d.pieceAs p, d.pieceCls i p, (d.accrue i).lived (instDom i),
    (d.serviceBudget p).map ((d.accrue i).pieceDeadline ((d.accrue i).now (instDom i))), false⟩

/-- The device with the piece in the queue and its master charged. -/
def Dev.pieceQueued (i : Nat) (p : PieceIn) : Dev :=
  (d.accrue i).updInst i fun x => { x with
    acct := if decide (0 < d.pieceAcct i p) then
        ((d.accrue i).inst i).acct.set (d.pieceMaster p).val (d.pieceAcct i p - Int.ofNat (p.gran * acctUnit)) 0
      else ((d.accrue i).inst i).acct,
    queue := x.queue ++ [d.pieceEntry i p] }

theorem Dev.pieceIn_eq (i : Nat) (p : PieceIn) : d.pieceIn i p = (d.pieceQueued i p).accepted i (d.pieceAs p) (d.pieceCls i p) := rfl

/-- What the entry of a piece leaves of the controller. -/
structure Dev.pieceQueuedTo (i : Nat) (p : PieceIn) (e : Dev) : Prop where
  rest : e = { d with insts := e.insts }
  queue : (e.inst i).queue = (d.inst i).queue ++ [d.pieceEntry i p]
  poor : d.pieceAcct i p ≤ 0 → d.pieceCls i p = .be ∧ (e.inst i).acct.get (d.pieceMaster p).val 0 = d.pieceAcct i p
  rich : 0 < d.pieceAcct i p → d.pieceCls i p = (if (d.serviceBudget p).isSome then .rt else .guar) ∧
    (e.inst i).acct.get (d.pieceMaster p).val 0 = d.pieceAcct i p - Int.ofNat (p.gran * acctUnit)
  other : ∀ j, j ≠ i → e.inst j = d.inst j

theorem Dev.accrue_eq (i : Nat) : d.accrue i = { d with insts := (d.accrue i).insts } := by
  unfold Dev.accrue
  split <;> rfl

theorem Dev.pieceQueuedTo_pieceQueued (i : Nat) (p : PieceIn) : d.pieceQueuedTo i p (d.pieceQueued i p) := by
  obtain ⟨honly, hinst⟩ := d.accrue_inst i
  have hsame : (d.pieceQueued i p).inst i = { (d.accrue i).inst i with
      acct := if decide (0 < d.pieceAcct i p) then
          ((d.accrue i).inst i).acct.set (d.pieceMaster p).val (d.pieceAcct i p - Int.ofNat (p.gran * acctUnit)) 0
        else ((d.accrue i).inst i).acct,
      queue := ((d.accrue i).inst i).queue ++ [d.pieceEntry i p] } := Dev.inst_updInst_same _ _ _
  refine ⟨?_, ?_, fun ha => ⟨?_, ?_⟩, fun ha => ⟨?_, ?_⟩, fun j hj => (Dev.inst_updInst_other _ _ _ _ hj).trans (honly.other j hj)⟩
  · exact (congrArg (fun x : Dev => ({ x with insts := (d.pieceQueued i p).insts } : Dev)) (d.accrue_eq i) :)
  · rw [hsame]
    exact congrArg (fun q => q ++ [d.pieceEntry i p]) (congrArg Inst.queue hinst :)
  · rw [Dev.pieceCls, decide_eq_false (Int.not_lt.mpr ha)]
    rfl
  · rw [hsame, decide_eq_false (Int.not_lt.mpr ha)]
    rfl
  · rw [Dev.pieceCls, decide_eq_true ha]
    rfl
  · rw [hsame, decide_eq_true ha]
    exact tab_get_set_same _ _ _ _

/-- A piece of no request is noted nowhere else. -/
theorem Dev.accepted_free (i : Nat) (p : PieceIn) (cls : Cls) (h : p.req = none) : d.accepted i p cls = d := by
  unfold Dev.accepted
  rw [h]
  rfl

/-- A request with pieces left notes the piece and its class. -/
theorem Dev.accepted_more (i : Nat) (p : PieceIn) (cls : Cls) {id : Nat} {r : Req} (hid : p.req = some id) (hr : d.reqOf id = some r)
    (hs : r.stage = .issued) (hmore : ∃ e ∈ r.pieces, e.1 ≠ i ∨ p.gran < e.2) : d.accepted i p cls = { d with reqs := (d.accepted i p cls).reqs } ∧
    ∃ l, (d.accepted i p cls).reqOf id = some { r with pieces := l, queued := r.queued ++ [(i, cls)] } := by
  obtain ⟨e, he, hleft⟩ := hmore
  have hrid := d.reqOf_id hr
  have hne : r.pieces ≠ [] := List.ne_nil_of_mem he
  have hupd := d.reqOf_updReq id (fun q => { q with
    pieces := q.pieces.filterMap (fun e => if e.1 ≠ i then some e else if e.2 ≤ p.gran then none else some (e.1, e.2 - p.gran)),
    queued := q.queued ++ [(i, cls)] }) (fun _ => rfl) hr
  have hrest : r.pieces.filterMap (fun e => if e.1 ≠ i then some e else if e.2 ≤ p.gran then none else some (e.1, e.2 - p.gran)) ≠ [] := by
    have hsome : ∃ y, (if e.1 ≠ i then some e else if e.2 ≤ p.gran then none else some (e.1, e.2 - p.gran)) = some y := by
      rcases hleft with h | h
      · exact ⟨e, if_pos h⟩
      · by_cases hi : e.1 ≠ i
        · exact ⟨e, if_pos hi⟩
        · exact ⟨(e.1, e.2 - p.gran), by rw [if_neg hi, if_neg (Nat.not_le.mpr h)]⟩
    obtain ⟨y, hy⟩ := hsome
    exact List.ne_nil_of_mem (List.mem_filterMap.mpr ⟨e, he, hy⟩)
  have hacc : d.accepted i p cls = d.updReq id fun q => { q with
      pieces := q.pieces.filterMap (fun e => if e.1 ≠ i then some e else if e.2 ≤ p.gran then none else some (e.1, e.2 - p.gran)),
      queued := q.queued ++ [(i, cls)] } := by
    unfold Dev.accepted
    rw [hid, Option.bind_some, hr]
    dsimp only
    rw [if_neg (by simp [hs, hne]), hrid]
    exact Dev.applyDue_waits _ id hupd hrest
  rw [hacc]
  exact ⟨rfl, _, hupd⟩

/-! ### What a controller serves next (R256, R276, R297) -/

/-- What is served first is of the list, and there is one where the list holds any. -/
theorem firstBy_spec (l : List Piece) (lt : Piece → Piece → Bool) (h : l ≠ []) : ∃ p ∈ l, firstBy l lt = some p := by
  have hgo : ∀ (l : List Piece) (q : Piece), ∃ p, (p = q ∨ p ∈ l) ∧ l.foldl (fun b p => match b with
      | none => some p
      | some q => if lt p q then some p else some q) (some q) = some p := by
    intro l
    induction l with
    | nil => exact fun q => ⟨q, .inl rfl, rfl⟩
    | cons a t ih =>
      intro q
      rw [List.foldl_cons]
      dsimp only
      split
      · obtain ⟨p, hp, heq⟩ := ih a
        exact ⟨p, .inr (hp.elim (fun h => h ▸ List.mem_cons_self) (List.mem_cons_of_mem a)), heq⟩
      · obtain ⟨p, hp, heq⟩ := ih q
        exact ⟨p, hp.imp_right (List.mem_cons_of_mem a), heq⟩
  cases l with
  | nil => exact absurd rfl h
  | cons a t =>
    obtain ⟨p, hp, heq⟩ := hgo t a
    exact ⟨p, hp.elim (fun h => h ▸ List.mem_cons_self) (List.mem_cons_of_mem a), heq⟩

/-- The least rank of a list is one of its pieces', and no piece has a lower. -/
theorem leastRank_spec (l : List Piece) (h : l ≠ []) : (∃ p ∈ l, p.cls.rank = (l.map (·.cls.rank)).foldl min 3) ∧
    ∀ p ∈ l, (l.map (·.cls.rank)).foldl min 3 ≤ p.cls.rank := by
  have hrank : ∀ c : Cls, c.rank < 3 := fun c => by cases c <;> decide
  have hgo : ∀ (l : List Nat) (n : Nat), (l.foldl min n = n ∨ l.foldl min n ∈ l) ∧ l.foldl min n ≤ n ∧ ∀ m ∈ l, l.foldl min n ≤ m := by
    intro l
    induction l with
    | nil => exact fun n => ⟨.inl rfl, Nat.le_refl n, fun m hm => absurd hm List.not_mem_nil⟩
    | cons a t ih =>
      intro n
      obtain ⟨hmem, hn, hle⟩ := ih (min n a)
      rw [List.foldl_cons]
      refine ⟨?_, Nat.le_trans hn (Nat.min_le_left n a), fun m hm => ?_⟩
      · rcases hmem with h | h
        · rcases Nat.le_total n a with hna | hna
          · exact .inl (h.trans (Nat.min_eq_left hna))
          · refine .inr ?_
            rw [h, Nat.min_eq_right hna]
            exact List.mem_cons_self
        · exact .inr (List.mem_cons_of_mem a h)
      · rcases List.mem_cons.mp hm with rfl | hm
        · exact Nat.le_trans hn (Nat.min_le_right n m)
        · exact hle m hm
  obtain ⟨hmem, -, hle⟩ := hgo (l.map (·.cls.rank)) 3
  refine ⟨?_, fun p hp => hle _ (List.mem_map_of_mem hp)⟩
  rcases hmem with h3 | hm
  · obtain ⟨p, hp⟩ := List.exists_mem_of_ne_nil l h
    have := hle _ (List.mem_map_of_mem hp)
    have := hrank p.cls
    omega
  · obtain ⟨p, hp, heq⟩ := List.mem_map.mp hm
    exact ⟨p, hp, heq⟩

/-- The pieces of a part in the queue of a controller. -/
def Dev.partQueue (i part : Nat) : List Piece := (d.inst i).queue.filter fun p => p.pc.part.val == part

theorem Dev.choose_again (i part : Nat) {p : Piece} (h : (d.partQueue i part).find? (·.again) = some p) : d.choose i part = some p := by
  unfold Dev.choose
  extract_lets x mine
  rw [show mine.find? (·.again) = some p from h]

/-- Where none is issued again, a piece of the highest class is chosen, if the part has any. -/
theorem Dev.choose_ranked (i part : Nat) (h : (d.partQueue i part).find? (·.again) = none) (hne : d.partQueue i part ≠ []) :
    ∃ p ∈ d.partQueue i part, d.choose i part = some p ∧ ∀ q ∈ d.partQueue i part, p.cls.rank ≤ q.cls.rank := by
  obtain ⟨⟨p0, hp0, htop0⟩, hleast⟩ := leastRank_spec _ hne
  have hof : ∀ (c : List Piece) (lt : Piece → Piece → Bool), c ≠ [] →
      (∀ p ∈ c, p ∈ (d.partQueue i part).filter fun p => p.cls.rank == ((d.partQueue i part).map (·.cls.rank)).foldl min 3) →
      ∃ p ∈ d.partQueue i part, firstBy c lt = some p ∧ ∀ q ∈ d.partQueue i part, p.cls.rank ≤ q.cls.rank := by
    intro c lt hc hsub
    obtain ⟨p, hp, heq⟩ := firstBy_spec c lt hc
    obtain ⟨hmem, hrank⟩ := List.mem_filter.mp (hsub p hp)
    exact ⟨p, hmem, heq, fun q hq => (eq_of_beq hrank).trans_le (hleast q hq)⟩
  unfold Dev.choose
  extract_lets x mine top c now aged
  have hc : c ≠ [] := List.ne_nil_of_mem (List.mem_filter.mpr ⟨hp0, beq_iff_eq.mpr htop0⟩)
  have haged : ∀ p ∈ aged, p ∈ c := by
    intro p hp
    unfold aged at hp
    split at hp
    · exact absurd hp List.not_mem_nil
    · exact (List.mem_filter.mp hp).1
  rw [show mine.find? (·.again) = none from h]
  dsimp -zeta only
  clear_value aged
  cases aged with
  | cons a t => exact hof _ _ (List.cons_ne_nil _ _) haged
  | nil =>
    generalize (x.dir.get part (false, 16)) = q
    obtain ⟨dir, run⟩ := q
    dsimp -zeta only
    extract_lets same c2
    have hc2 : c2 ≠ [] ∧ ∀ p ∈ c2, p ∈ c := by
      unfold c2
      split
      · next hs => exact ⟨by simp_all, fun p hp => (List.mem_filter.mp hp).1⟩
      · exact ⟨hc, fun _ => id⟩
    obtain ⟨hne2, hsub2⟩ := hc2
    split
    · exact hof _ _ hne2 hsub2
    · split
      · next a t ha =>
        exact hof _ _ (List.cons_ne_nil _ _) fun p hp => hsub2 p (List.mem_filter.mp (ha ▸ hp : p ∈ c2.filter (d.hit i))).1
      · exact hof _ _ hne2 hsub2

theorem Dev.choose_empty (i part : Nat) (h : d.partQueue i part = []) : d.choose i part = none := by
  unfold Dev.choose
  extract_lets x mine top c now aged
  have hm : mine = [] := h
  have hc : c = [] := by
    unfold c
    rw [hm]
    rfl
  have ha : aged = [] := by
    unfold aged
    rw [hc]
    split <;> rfl
  rw [hm, ha]
  dsimp -zeta only [List.find?_nil]
  generalize (x.dir.get part (false, 16)) = q
  obtain ⟨dir, run⟩ := q
  dsimp -zeta only
  extract_lets same c2
  have hc2 : c2 = [] := by
    unfold c2
    split
    · unfold same
      rw [hc]
      rfl
    · exact hc
  rw [hc2]
  split <;> rfl

/-! ### The service of a piece (R276) -/

/-- The device without controllers, registers, accounts of sets and requests. -/
def Dev.besideServe : Dev := { d with insts := [], regs := [], setq := [], reqs := [] }

/-- What the bursts of a piece leave of its controller. -/
structure Dev.burstTo (i : Nat) (p : Piece) (e : Dev) : Prop where
  rest : e.besideServe = d.besideServe
  queue : (e.inst i).queue = (d.inst i).queue.erase p
  bursts : (e.inst i).bursts = (d.inst i).bursts + p.pc.gran
  row : (e.inst i).rows.get (p.pc.part.val * 16 + p.pc.bank.val) 0 = p.pc.row + 1
  xbar : (e.inst i).xbar = (d.inst i).xbar

theorem Dev.burstTo_burst (i : Nat) (p : Piece) : d.burstTo i p (d.burst i p) := by
  unfold Dev.burst
  extract_lets x part key open_ now
  split
  next r j hc =>
  extract_lets d1 d2
  have h2 : d2.besideServe = d.besideServe ∧ d2.insts = d.insts := by
    unfold d2
    split <;> exact ⟨rfl, rfl⟩
  obtain ⟨hrest, hinsts⟩ := h2
  have hi : d2.inst i = d.inst i := congrArg (fun t : Tab Inst => t.get i {}) hinsts
  clear_value d2
  split
  extract_lets d3
  have h3 : d.burstTo i p d3 := by
    have hsame : d3.inst i = _ := Dev.inst_updInst_same _ _ _
    rw [hi] at hsame
    refine ⟨(show d3.besideServe = d2.besideServe from rfl).trans hrest, ?_, ?_, ?_, ?_⟩ <;> rw [hsame]
    exact tab_get_set_same _ _ _ _
  split
  · exact h3
  · obtain ⟨hr, hq, hb, hw, hx⟩ := h3
    exact ⟨hr, hq, hb, hw, hx⟩

/-- The device once a chosen piece has left the front end. -/
def Dev.served1 (i : Nat) (p : Piece) : Dev :=
  match (d.burst i p).setOfInst i, p.pc.req.bind (d.burst i p).reqOf with
  | some s, some r => (d.burst i p).readMoved r s p.pc.gran
  | _, _ => d.burst i p

theorem Dev.serve_eq (i : Nat) (p : Piece) : d.serve i p = (d.served1 i p).xbarDrain i := rfl

theorem Dev.readMoved_kept (r : Req) (s n : Nat) : (d.readMoved r s n).besideServe = d.besideServe ∧ (d.readMoved r s n).insts = d.insts := by
  unfold Dev.readMoved
  split
  · exact ⟨rfl, rfl⟩
  · extract_lets k
    split
    · exact ⟨rfl, rfl⟩
    · exact ⟨rfl, rfl⟩

theorem Dev.burstTo_served1 (i : Nat) (p : Piece) : d.burstTo i p (d.served1 i p) := by
  have h := d.burstTo_burst i p
  unfold Dev.served1
  split
  · next s r _ _ =>
    obtain ⟨hrest, hinsts⟩ := (d.burst i p).readMoved_kept r s p.pc.gran
    have hi : ((d.burst i p).readMoved r s p.pc.gran).inst i = (d.burst i p).inst i := congrArg (fun t : Tab Inst => t.get i {}) hinsts
    exact ⟨hrest.trans h.rest, (congrArg Inst.queue hi).trans h.queue, (congrArg Inst.bursts hi).trans h.bursts,
      (congrArg (fun x : Inst => x.rows.get (p.pc.part.val * 16 + p.pc.bank.val) 0) hi).trans h.row, (congrArg Inst.xbar hi).trans h.xbar⟩
  · exact h

theorem Dev.xbarDrain_empty (i : Nat) (h : (d.inst i).xbar = []) : d.xbarDrain i = d := by
  unfold Dev.xbarDrain
  rw [h]
  rfl

end

/-! ### The commands -/

section
variable (s : State) (i : Fin 100)

theorem exec_controllerPieceArrival (pc pi : PieceIn) (ha : s.dev.accepts i.val = true) (hp : s.dev.pieceOf i.val pc = some pi) :
    exec (.controllerPieceArrival i pc) s = .next { s with dev := (s.dev.pieceArrive i.val pi).finish } := by
  refine (State.devEvent_holds (fun d => d.accepts i.val && (d.pieceOf i.val pc).isSome)
    (fun d => (d.pieceOf i.val pc).elim d (d.pieceArrive i.val)) s (by simp [ha, hp])).trans ?_
  rw [hp]
  rfl

theorem exec_controllerPieceArrival_none (pc : PieceIn) (hp : s.dev.pieceOf i.val pc = none) :
    exec (.controllerPieceArrival i pc) s = .next s :=
  State.devEvent_not (fun d => d.accepts i.val && (d.pieceOf i.val pc).isSome)
    (fun d => (d.pieceOf i.val pc).elim d (d.pieceArrive i.val)) s (by simp [hp])

theorem exec_queueService (part : Fin 8) (hst : (s.dev.inst i.val).st = .active) (hr : s.dev.freezes = .running) :
    exec (.queueService i part) s = .next { s with dev := (match s.dev.choose i.val part.val with
      | none => s.dev
      | some p => s.dev.serve i.val p).finish } :=
  State.devEvent_holds (fun d => (d.inst i.val).st == .active && d.freezes == .running)
    (fun d => match d.choose i.val part.val with
      | none => d
      | some p => d.serve i.val p) s (by simp [hst, hr])

/-- A piece that is one is its command's but for its granules, and its request is issued. -/
theorem Dev.pieceOf_spec (d : Dev) (i : Nat) (pc pi : PieceIn) (h : d.pieceOf i pc = some pi) : pi.req = pc.req ∧
    ∀ id r, pc.req = some id → d.reqOf id = some r → r.stage = .issued := by
  unfold Dev.pieceOf at h
  split at h
  · next hn =>
    obtain rfl := Option.some.inj h
    exact ⟨rfl, fun id r hid => absurd (hn.symm.trans hid) (by simp)⟩
  · next id hid =>
    split at h
    · exact absurd h (by simp)
    · next r hr =>
      dsimp only at h
      split at h
      · exact absurd h (by simp)
      · next hno =>
        obtain rfl := Option.some.inj h
        refine ⟨rfl, fun id' r' hid' hr' => ?_⟩
        obtain rfl := Option.some.inj (hid.symm.trans hid')
        obtain rfl := Option.some.inj (hr.symm.trans hr')
        by_contra hs
        exact hno (by simp [hs])

/-- A piece with room in the queue. -/
theorem exec_pieceQueued (pc pi : PieceIn) (ha : s.dev.accepts i.val = true) (hp : s.dev.pieceOf i.val pc = some pi)
    (hf : (s.dev.inst i.val).st ≠ .fenced) (hx : (s.dev.inst i.val).xbar = []) (hroom : s.dev.hasRoom i.val pi = true) :
    exec (.controllerPieceArrival i pc) s = .next { s with dev :=
      (((s.dev.pieceQueued i.val pi).accepted i.val (s.dev.pieceAs pi) (s.dev.pieceCls i.val pi)).peak i.val).finish } := by
  rw [exec_controllerPieceArrival s i pc pi ha hp, Dev.pieceArrive, if_neg (by simpa using hf), if_pos (by simp [hx, hroom]), Dev.pieceIn_eq]

end

/-- Settles O48: the entry of a piece is `pieceQueued` and then the note of its request; what is served next is a piece of the part by
`choose_again` or `choose_ranked`, and its bursts are `burstTo`. -/
theorem piecesAreQueuedAndServed : Obligations.PiecesAreQueuedAndServed := by
  unfold Obligations.PiecesAreQueuedAndServed
  intro s i x
  refine ⟨fun pc ha => ⟨fun hn => exec_controllerPieceArrival_none s i pc hn, fun pi hp => ⟨fun hf hx hroom => ?_, fun hf hw => ?_, fun hf => ⟨fun hn => ?_, fun r hr => ?_⟩⟩⟩,
    fun part hst hr => ⟨fun hm => ?_, fun hm => ?_⟩⟩
  · obtain ⟨hreq, hissued⟩ := s.dev.pieceOf_spec i.val pc pi hp
    obtain ⟨hrest, hqueue, hpoor, hrich, hother⟩ := s.dev.pieceQueuedTo_pieceQueued i.val pi
    refine ⟨s.dev.pieceQueued i.val pi, _, s.dev.pieceEntry i.val pi, exec_pieceQueued s i pc pi ha hp hf hx hroom, rfl, hrest, hqueue, rfl, hpoor,
      hrich, hother, fun hn => ?_, fun id r hid hr hmore => ?_⟩
    · have hacc := (s.dev.pieceQueued i.val pi).accepted_free i.val (s.dev.pieceAs pi) (s.dev.pieceCls i.val pi) (hreq.trans hn)
      have hpeak := (s.dev.pieceQueued i.val pi).peak_eq i.val
      have hend : ((s.dev.pieceQueued i.val pi).accepted i.val (s.dev.pieceAs pi) (s.dev.pieceCls i.val pi)).peak i.val =
          (s.dev.pieceQueued i.val pi).peak i.val := congrArg (fun d : Dev => d.peak i.val) hacc
      rw [hend]
      exact hpeak.trans (congrArg (fun d : Dev => ({ d with regs := ((s.dev.pieceQueued i.val pi).peak i.val).regs } : Dev)) hrest :)
    · have hreqs : (s.dev.pieceQueued i.val pi).reqOf id = some r := (congrArg (fun d : Dev => d.reqOf id) hrest :).trans hr
      obtain ⟨hacc, l, hl⟩ := (s.dev.pieceQueued i.val pi).accepted_more i.val (s.dev.pieceAs pi) (s.dev.pieceCls i.val pi)
        (hreq.trans hid) hreqs (hissued id r hid hr) hmore
      generalize (s.dev.pieceQueued i.val pi).accepted i.val (s.dev.pieceAs pi) (s.dev.pieceCls i.val pi) = e at hacc hl ⊢
      have hpeak := e.peak_eq i.val
      have hreqs' : (e.peak i.val).reqs = e.reqs := (congrArg Dev.reqs hpeak :)
      refine ⟨?_, l, (congrArg (fun d : Dev => d.reqOf id) hpeak :).trans hl⟩
      rw [hreqs']
      refine hpeak.trans ?_
      refine (congrArg (fun d : Dev => ({ d with regs := (e.peak i.val).regs } : Dev)) hacc).trans ?_
      exact (congrArg (fun d : Dev => ({ d with regs := (e.peak i.val).regs, reqs := e.reqs } : Dev)) hrest :)
  · have hno : ((s.dev.inst i.val).xbar.isEmpty && s.dev.hasRoom i.val pi) = false := by
      rcases hw with hw | hw
      · rw [show (s.dev.inst i.val).xbar.isEmpty = false by simpa using hw, Bool.false_and]
      · rw [hw, Bool.and_false]
    have hexec := exec_controllerPieceArrival s i pc pi ha hp
    rw [Dev.pieceArrive, if_neg (by simpa using hf), if_neg (by rw [hno]; decide)] at hexec
    exact ⟨_, hexec, rfl, s.dev.inst_updInst_same i.val _, fun j hj => s.dev.inst_updInst_other i.val j _ hj⟩
  · obtain ⟨hreq, -⟩ := s.dev.pieceOf_spec i.val pc pi hp
    rw [exec_controllerPieceArrival s i pc pi ha hp, Dev.pieceArrive, if_pos (by rw [hf]; rfl), Dev.piecePoison, hreq, hn]
    rfl
  · obtain ⟨hreq, hissued⟩ := s.dev.pieceOf_spec i.val pc pi hp
    obtain ⟨id, hid, hr'⟩ := Option.bind_eq_some_iff.mp hr
    rw [exec_controllerPieceArrival s i pc pi ha hp, Dev.pieceArrive, if_pos (by rw [hf]; rfl), Dev.piecePoison, hreq, hr]
    dsimp only
    rw [if_pos (by rw [hissued id r hid hr']; rfl)]
  · have hq : s.dev.partQueue i.val part.val = [] := by
      rw [← hm]
      exact List.filter_congr fun p _ => by simp [Fin.ext_iff]
    rw [exec_queueService s i part hst hr, s.dev.choose_empty i.val part.val hq]
  · have hmine : s.dev.partQueue i.val part.val = (x.queue.filter fun p => p.pc.part == part) := 
      List.filter_congr fun p _ => by simp [Fin.ext_iff]
    have hx := exec_queueService s i part hst hr
    have hchoice : ∃ p ∈ s.dev.partQueue i.val part.val, s.dev.choose i.val part.val = some p ∧
        ((∀ q ∈ s.dev.partQueue i.val part.val, q.again = false) → ∀ q ∈ s.dev.partQueue i.val part.val, p.cls.rank ≤ q.cls.rank) ∧
        ((∃ q ∈ s.dev.partQueue i.val part.val, q.again = true) → (s.dev.partQueue i.val part.val).find? (·.again) = some p) := by
      cases hfind : (s.dev.partQueue i.val part.val).find? (·.again) with
      | none =>
        obtain ⟨p, hp, hc, hrank⟩ := s.dev.choose_ranked i.val part.val hfind (hmine ▸ hm)
        refine ⟨p, hp, hc, fun _ => hrank, fun ⟨q, hq, ha⟩ => absurd ha ?_⟩
        simpa using List.find?_eq_none.mp hfind q hq
      | some p =>
        have hp := List.mem_of_find?_eq_some hfind
        have hagain := List.find?_some hfind
        exact ⟨p, hp, s.dev.choose_again i.val part.val hfind, fun hall => absurd hagain (by simp [hall p hp]), fun _ => rfl⟩
    obtain ⟨p, hp, hc, hrank, hagain⟩ := hchoice
    rw [hmine] at hp hrank hagain
    rw [hc] at hx
    have hpart : p.pc.part = part := eq_of_beq (List.mem_filter.mp hp).2
    obtain ⟨hrest, hqueue, hbursts, hrow, hxbar⟩ := s.dev.burstTo_served1 i.val p
    refine ⟨s.dev.served1 i.val p, p, hx, hp, hrank, hagain, hqueue, hbursts, hpart ▸ hrow, ?_, fun hempty => Dev.xbarDrain_empty _ _ (hxbar.trans hempty)⟩
    exact (congrArg (fun d : Dev => ({ d with
      insts := (s.dev.served1 i.val p).insts, regs := (s.dev.served1 i.val p).regs, setq := (s.dev.served1 i.val p).setq,
      reqs := (s.dev.served1 i.val p).reqs } : Dev)) hrest :)

end Sys2Proof.Machine

/-! PROOF. Flits received, and the replay of the retry buffer (R310, R314, R315, R317, R318). -/
namespace Sys2Proof.Machine

section
variable (d : Dev) (p : Nat)

/-! ### What the reception of a flit counts (R310, R331) -/

theorem Dev.besideReplay_wr (r : RegRow) (i : Nat) (w : Word) : (d.wr r i w).besideReplay = d.besideReplay := rfl

theorem Dev.besideReplay_updPort (f : Port → Port) : (d.updPort p f).besideReplay = d.besideReplay := rfl

/-- The state, sequences and buffers of a port, without what the FEC counts and what leaves. -/
structure Port.sameLink (x y : Port) : Prop where
  presents : y.presents = x.presents
  nakOut : y.nakOut = x.nakOut
  failSeq : y.failSeq = x.failSeq
  rxSeq : y.rxSeq = x.rxSeq
  unacked : y.unacked = x.unacked
  rx : y.rx = x.rx
  queues : y.ctlQ = x.ctlQ ∧ y.txq = x.txq
  sent : y.rspSent = x.rspSent ∧ y.ctlSent = x.ctlSent
  freed : y.rspFreed = x.rspFreed ∧ y.ctlFreed = x.ctlFreed

theorem Dev.flitCount_spec (f : Flit) : (d.flitCount p f).besideReplay = d.besideReplay ∧ (d.flitCount p f).wire = d.wire ∧
    (d.port p).sameLink ((d.flitCount p f).port p) ∧ ((d.flitCount p f).port p).cwCount = (d.port p).cwCount := by
  unfold Dev.flitCount
  split
  · exact ⟨rfl, rfl, ⟨rfl, rfl, rfl, rfl, rfl, rfl, ⟨rfl, rfl⟩, ⟨rfl, rfl⟩, rfl, rfl⟩, rfl⟩
  · extract_lets d1 n d2 d3
    have h1 : d1.besideReplay = d.besideReplay ∧ d1.wire = d.wire ∧ d1.port p = d.port p := by
      unfold d1
      split <;> exact ⟨rfl, rfl, rfl⟩
    have h2 : d2.besideReplay = d.besideReplay ∧ d2.wire = d.wire ∧ d2.port p = d.port p := by
      unfold d2
      split <;> exact h1
    obtain ⟨hrest, hwire, hport⟩ := h2
    have h3 : d3.port p = { (d.port p).word f with fecCorr := n % 1024 } := by
      unfold d3
      rw [Dev.port_updPort_same, hport]
    have hrest3 : (d3.wr row_OLY_LANE p (d3.port p).laneWord).besideReplay = d.besideReplay := ((d3.besideReplay_wr _ _ _).trans (d2.besideReplay_updPort p _)).trans hrest
    have hwire3 : (d3.wr row_OLY_LANE p (d3.port p).laneWord).wire = d.wire := hwire
    have hend : (d3.wr row_OLY_LANE p (d3.port p).laneWord).port p = { (d.port p).word f with fecCorr := n % 1024 } := h3
    refine ⟨hrest3, hwire3, ?_, (congrArg Port.cwCount h3 :)⟩
    rw [hend]
    exact ⟨rfl, rfl, rfl, rfl, rfl, rfl, ⟨rfl, rfl⟩, ⟨rfl, rfl⟩, rfl, rfl⟩

/-- The flits before this one were not lost. -/
theorem Dev.flitGap_none (f : Flit) (h : (d.port p).gap f = false) : d.flitGap p f = d.updPort p fun x => x.counted f := by
  unfold Dev.flitGap
  extract_lets x d1
  rw [if_pos (by rw [show x.gap f = false from h]; rfl)]

theorem Port.sameLink_counted (x : Port) (f : Flit) : x.sameLink (x.counted f) := by
  unfold Port.counted
  split <;> exact ⟨rfl, rfl, rfl, rfl, rfl, rfl, ⟨rfl, rfl⟩, ⟨rfl, rfl⟩, rfl, rfl⟩

theorem Port.sameLink_trans {x y z : Port} (h : x.sameLink y) (k : y.sameLink z) : x.sameLink z where
  presents := k.presents.trans h.presents
  nakOut := k.nakOut.trans h.nakOut
  failSeq := k.failSeq.trans h.failSeq
  rxSeq := k.rxSeq.trans h.rxSeq
  unacked := k.unacked.trans h.unacked
  rx := k.rx.trans h.rx
  queues := ⟨k.queues.1.trans h.queues.1, k.queues.2.trans h.queues.2⟩
  sent := ⟨k.sent.1.trans h.sent.1, k.sent.2.trans h.sent.2⟩
  freed := ⟨k.freed.1.trans h.freed.1, k.freed.2.trans h.freed.2⟩

theorem Port.gap_congr {x y : Port} (h : y.cwCount = x.cwCount) (f : Flit) : y.gap f = x.gap f := by
  unfold Port.gap
  rw [h]

/-- A flit of a codeword that follows the last is counted, and leaves the link as it was. -/
structure Dev.countedTo (e : Dev) : Prop where
  rest : e.besideReplay = d.besideReplay
  wire : e.wire = d.wire
  link : (d.port p).sameLink (e.port p)

theorem Dev.countedTo_flit (f : Flit) (h : (d.port p).gap f = false) : d.countedTo p ((d.flitCount p f).flitGap p f) := by
  obtain ⟨hrest, hwire, hlink, hcw⟩ := d.flitCount_spec p f
  have hgap : ((d.flitCount p f).port p).gap f = false := (Port.gap_congr hcw f).trans h
  rw [(d.flitCount p f).flitGap_none p f hgap]
  refine ⟨hrest, hwire, ?_⟩
  rw [Dev.port_updPort_same]
  exact Port.sameLink_trans hlink (Port.sameLink_counted _ f)

/-! ### Failed flits (R315) -/

/-- A flit that failed is answered with NAK: the port asks for a replay, and its sequences and retry buffer stay. -/
structure Dev.nakTo (e : Dev) : Prop where
  rest : e.besideReplay = d.besideReplay
  wire : d.wire.length < e.wire.length
  nakOut : (e.port p).nakOut = true
  st : (e.port p).presents = (d.port p).presents
  rxSeq : (e.port p).rxSeq = (d.port p).rxSeq
  unacked : (e.port p).unacked = (d.port p).unacked
  queues : (e.port p).ctlQ = (d.port p).ctlQ ∧ (e.port p).txq = (d.port p).txq
  sent : (e.port p).rspSent = (d.port p).rspSent ∧ (e.port p).ctlSent = (d.port p).ctlSent
  freed : (e.port p).rspFreed = (d.port p).rspFreed ∧ (e.port p).ctlFreed = (d.port p).ctlFreed

theorem Dev.nakTo_flitNak (lane : Nat) (seq : BitVec 12) : d.nakTo p (d.flitNak p lane seq) := by
  unfold Dev.flitNak
  generalize hd1 : (d.updPort p fun x => { x with nakOut := true, failLane := lane, failSeq := if x.nakOut then x.failSeq else some seq }) = d1
  have h1 : d1.port p = { d.port p with
      nakOut := true, failLane := lane, failSeq := if (d.port p).nakOut then (d.port p).failSeq else some seq } :=
    hd1 ▸ Dev.port_updPort_same _ _ _
  have hrest1 : d1.besideReplay = d.besideReplay := hd1 ▸ rfl
  have hwire1 : d1.wire = d.wire := hd1 ▸ rfl
  have hs : d1.sentTo p 1 (d1.sendIdle p true false) := d1.sentTo_sendFlits p [(d1.port p).flit 0 0 true false []]
  generalize d1.sendIdle p true false = e at hs ⊢
  have hport := hs.port
  rw [h1] at hport
  refine ⟨?_, hwire1 ▸ Dev.sentTo_wire hs (by decide), ?_, ?_, ?_, ?_, ?_, ?_, ?_⟩
  · exact (congrArg Dev.besideReplay (Dev.eq_of_besideLink hs.rest) :).trans hrest1
  all_goals rw [hport]
  · rfl
  · exact ⟨rfl, rfl⟩
  · exact ⟨rfl, rfl⟩
  · exact ⟨rfl, rfl⟩

/-- An entry of the log leaves the state and the receive sequence of a port. -/
theorem Dev.log_port (x code : Nat) (lasting : Bool) (detail : Nat) : ((d.log x code lasting detail).port p).st = (d.port p).st ∧
    ((d.log x code lasting detail).port p).rxSeq = (d.port p).rxSeq := by
  unfold Dev.log
  generalize logEntry (d.now x) code (if lasting then 2 else 1) (stampDom x) detail = e
  extract_lets e' d2
  have h2 : d2.port p = d.port p := (congrArg (fun x : Dev => x.port p) (d.besideLog_logPut _ _).2 :)
  have hev := (d2.eventsOnly_event none 0x0A 0 e').ports p
  rw [h2] at hev
  split
  · exact ⟨(congrArg Port.st hev :), (congrArg Port.rxSeq hev :)⟩
  · exact ⟨congrArg Port.st h2, congrArg Port.rxSeq h2⟩

/-- A lasting flit fault: the port retrains. -/
theorem Dev.flitLasting_spec (lane : Nat) (h : (d.port p).st = .active) : ((d.flitLasting p lane).port p).st = .retrain ∧
    ((d.flitLasting p lane).port p).rxSeq = (d.port p).rxSeq ∧ (d.flitLasting p lane).mem = d.mem := by
  unfold Dev.flitLasting
  generalize hd1 : d.satInc row_OLY_RETRY p f_OLY_RETRY_LASTING = d1
  have hport1 : d1.port p = d.port p := hd1 ▸ rfl
  have hmem1 : d1.mem = d.mem := hd1 ▸ rfl
  have hlog := d1.log_port p (portDom p) 0x04 true (p + lane * 2 ^ 4)
  have hmem2 : (d1.log (portDom p) 0x04 true (p + lane * 2 ^ 4)).mem = d1.mem := (congrArg Dev.mem (d1.besideLog_log _ _ _ _) :)
  generalize d1.log (portDom p) 0x04 true (p + lane * 2 ^ 4) = d2 at hlog hmem2 ⊢
  obtain ⟨hst, hseq⟩ := hlog
  obtain ⟨hrest, -, hport⟩ := d2.enterRetrain_active p (hst.trans ((congrArg Port.st hport1).trans h))
  exact ⟨(congrArg Port.st hport :), (congrArg Port.rxSeq hport :).trans (hseq.trans (congrArg Port.rxSeq hport1)),
    (congrArg Dev.mem hrest :).trans (hmem2.trans hmem1)⟩

/-! ### Acknowledgement and credits (R318) -/

/-- A credit total above what was sent takes the port DOWN. -/
theorem Dev.flitCredits_over (f : Flit)
    (h : (d.port p).rspSent < (d.port p).rspFreed + credDelta f.crdRsp (d.port p).rspFreed ∨
      (d.port p).ctlSent < (d.port p).ctlFreed + credDelta f.crdCtl (d.port p).ctlFreed ∨ f.crdReq ≠ 0) :
    d.flitCredits p f = d.protoFault p := by
  unfold Dev.flitCredits
  extract_lets x rsp ctl
  exact if_pos (by simpa [or_assoc] using h)

theorem Dev.flitCredits_within (f : Flit)
    (hr : (d.port p).rspFreed + credDelta f.crdRsp (d.port p).rspFreed ≤ (d.port p).rspSent)
    (hc : (d.port p).ctlFreed + credDelta f.crdCtl (d.port p).ctlFreed ≤ (d.port p).ctlSent) (h0 : f.crdReq = 0) :
    d.flitCredits p f = d.updPort p fun x => { x.ack f.ack (d.now (portDom p)) with
      rspFreed := (d.port p).rspFreed + credDelta f.crdRsp (d.port p).rspFreed,
      ctlFreed := (d.port p).ctlFreed + credDelta f.crdCtl (d.port p).ctlFreed, tableHold := f.tableHold } := by
  unfold Dev.flitCredits
  extract_lets x rsp ctl
  exact if_neg (by
    simp only [Bool.or_eq_true, decide_eq_true_eq, not_or, Nat.not_lt, ne_eq, not_not]
    exact ⟨⟨hr, hc⟩, h0⟩)

theorem Port.ack_none (x : Port) (a : BitVec 12) (now : Nat) (h : ∀ u ∈ x.unacked, u.seq ≠ a) : x.ack a now = x := by
  unfold Port.ack
  exact if_neg (by simpa using h)

/-- An ACK takes what it covers out of the retry buffer. -/
theorem Port.ack_covers (x : Port) (a : BitVec 12) (now : Nat) (l : List TxFlit) (u : TxFlit) (r : List TxFlit) (h : x.unacked = l ++ u :: r)
    (hu : u.seq = a) (hl : ∀ w ∈ l, w.seq ≠ a) : x.ack a now = { x with unacked := r, txAck := a, ackAt := now } := by
  have hdrop : x.unacked.dropWhile (·.seq ≠ a) = u :: r := by
    rw [h, List.dropWhile_append_of_pos (by simpa using hl), List.dropWhile_cons_of_neg (by simp [hu])]
  unfold Port.ack
  rw [if_pos (by simp [h, hu]), hdrop]
  rfl

/-- What an ACK leaves of a port besides the retry buffer. -/
theorem Port.ack_kept (x : Port) (a : BitVec 12) (now : Nat) :
    x.ack a now = { x with unacked := (x.ack a now).unacked, txAck := (x.ack a now).txAck, ackAt := (x.ack a now).ackAt } := by
  unfold Port.ack
  split <;> rfl

/-! ### Messages that the credits let go -/

/-- With nothing waiting nothing leaves. -/
theorem Dev.ctlSend_idle (n : Nat) (hn : n = 0) (ht : (d.port p).txq = []) : (d.ctlSend p n).besideReplay = d.besideReplay ∧
    (d.ctlSend p n).port p = d.port p := by
  subst hn
  have hsend : d.ctlSend p 0 = d.txPump p := rfl
  rw [hsend]
  unfold Dev.txPump
  extract_lets x r
  split
  · exact ⟨rfl, rfl⟩
  · have hr : r = ([], x) := by
      unfold r Port.fill
      rw [if_pos (by rw [show x.txq = [] from ht]; rfl)]
    rw [hr]
    exact ⟨rfl, Dev.port_updPort_same d p fun _ => x⟩

/-- Flits that are lost before this one are answered with NAK. -/
theorem Dev.nakTo_gap (f : Flit) (hg : (d.port p).gap f = true) (hn : (d.port p).nakOut = false) :
    d.nakTo p ((d.flitCount p f).flitGap p f) := by
  obtain ⟨hrest, hwire, hlink, hcw⟩ := d.flitCount_spec p f
  have hgap : ((d.flitCount p f).port p).gap f = true := (Port.gap_congr hcw f).trans hg
  have hnak : ((d.flitCount p f).port p).nakOut = false := hlink.nakOut.trans hn
  generalize d.flitCount p f = e at hrest hwire hlink hgap hnak ⊢
  unfold Dev.flitGap
  extract_lets x d1
  rw [if_neg (by rw [show x.gap f = true from hgap]; decide), if_neg (by rw [show x.nakOut = false from hnak]; decide)]
  have h1 : (e.port p).sameLink (d1.port p) := by
    unfold d1
    rw [Dev.port_updPort_same]
    exact Port.sameLink_counted _ f
  have hlink1 := Port.sameLink_trans hlink h1
  have hrest1 : d1.besideReplay = e.besideReplay := e.besideReplay_updPort p _
  have hwire1 : d1.wire = d.wire := hwire
  obtain ⟨nrest, nwire, nout, nst, nseq, nun, ⟨nq1, nq2⟩, ⟨ns1, ns2⟩, ⟨nf1, nf2⟩⟩ := d1.nakTo_flitNak p f.lane.val (x.rxSeq + 1)
  exact ⟨nrest.trans (hrest1.trans hrest), hwire1 ▸ nwire, nout, nst.trans hlink1.presents, nseq.trans hlink1.rxSeq,
    nun.trans hlink1.unacked, ⟨nq1.trans hlink1.queues.1, nq2.trans hlink1.queues.2⟩,
    ⟨ns1.trans hlink1.sent.1, ns2.trans hlink1.sent.2⟩, ⟨nf1.trans hlink1.freed.1, nf2.trans hlink1.freed.2⟩⟩

/-- A flit that failed is answered with NAK, but a second failure of a sequence is lasting. -/
theorem Dev.flitBad_once (f : Flit) (h : (d.port p).nakOut = false ∨ f.ftype ≠ 1 ∨ (d.port p).failSeq ≠ some f.seq) :
    d.flitBad p f = d.flitNak p f.lane.val ((d.port p).rxSeq + 1) := by
  unfold Dev.flitBad
  extract_lets x
  refine if_neg ?_
  rcases h with h | h | h
  · simp [x, h]
  · simp [h]
  · simp [x, h]

theorem Dev.flitBad_twice (f : Flit) (hn : (d.port p).nakOut = true) (ht : f.ftype = 1) (hs : (d.port p).failSeq = some f.seq) :
    d.flitBad p f = d.flitLasting p f.lane.val := by
  unfold Dev.flitBad
  extract_lets x
  exact if_pos (by simp [x, hn, ht, hs])

/-- The error counters of a port are not its status. -/
theorem row_OLY_ERR_apart : row_OLY_STATUS.addr p ≠ row_OLY_ERR.addr p := fun h =>
  absurd (Nat.add_right_cancel (m := row_OLY_STATUS.stride * p) h) (by decide)

theorem Dev.satInc_kept (r : RegRow) (i : Nat) (f : Fld) : (d.satInc r i f).port p = d.port p ∧ (d.satInc r i f).mem = d.mem := ⟨rfl, rfl⟩

theorem Dev.rd_satInc_other (r t : RegRow) (i j : Nat) (f : Fld) (h : t.addr j ≠ r.addr i) : (d.satInc r i f).rd t j = d.rd t j := by
  unfold Dev.satInc
  exact Dev.rd_setFld_other d r t i j f _ h

/-- A protocol fault takes the port DOWN. -/
theorem Dev.downTo_protoFault : d.downTo p 6 (d.protoFault p) := by
  obtain ⟨hst, hcause, hmem⟩ := d.downTo_portDown p 6 false (by decide)
  unfold Dev.protoFault
  generalize d.portDown p 6 false = e at hst hcause hmem ⊢
  have hrd := e.rd_satInc_other row_OLY_ERR row_OLY_STATUS p p f_OLY_ERR_PROTO (row_OLY_ERR_apart p)
  obtain ⟨hport, hkept⟩ := e.satInc_kept p row_OLY_ERR p f_OLY_ERR_PROTO
  generalize e.satInc row_OLY_ERR p f_OLY_ERR_PROTO = e1 at hrd hport hkept ⊢
  refine ⟨(congrArg Port.st hport).trans hst, ?_, hkept.trans hmem⟩
  rw [Dev.fld, hrd]
  exact hcause

/-! ### Acknowledged -/

/-- The port once the ACK and the credits of a flit are taken. -/
def Dev.ackedPort (f : Flit) : Port := { (d.port p).ack f.ack (d.now (portDom p)) with
  rspFreed := (d.port p).rspFreed + credDelta f.crdRsp (d.port p).rspFreed,
  ctlFreed := (d.port p).ctlFreed + credDelta f.crdCtl (d.port p).ctlFreed, tableHold := f.tableHold }

/-- The device with that port. -/
def Dev.acked (f : Flit) : Dev := d.updPort p fun x => { x.ack f.ack (d.now (portDom p)) with
  rspFreed := (d.port p).rspFreed + credDelta f.crdRsp (d.port p).rspFreed,
  ctlFreed := (d.port p).ctlFreed + credDelta f.crdCtl (d.port p).ctlFreed, tableHold := f.tableHold }

theorem Dev.acked_port (f : Flit) : (d.acked p f).port p = d.ackedPort p f := Dev.port_updPort_same _ _ _

theorem Dev.ackedPort_kept (f : Flit) : d.ackedPort p f = { d.port p with
    unacked := (d.ackedPort p f).unacked, txAck := (d.ackedPort p f).txAck, ackAt := (d.ackedPort p f).ackAt,
    rspFreed := (d.ackedPort p f).rspFreed, ctlFreed := (d.ackedPort p f).ctlFreed, tableHold := (d.ackedPort p f).tableHold } :=
  (congrArg (fun x : Port => ({ x with
    rspFreed := (d.ackedPort p f).rspFreed, ctlFreed := (d.ackedPort p f).ctlFreed, tableHold := (d.ackedPort p f).tableHold } : Port))
    ((d.port p).ack_kept f.ack (d.now (portDom p))) :)

/-- What a port has of the ACK, the credits and what waits. -/
structure Port.sameAcks (x y : Port) : Prop where
  rxSeq : y.rxSeq = x.rxSeq
  nakOut : y.nakOut = x.nakOut
  unacked : y.unacked = x.unacked
  txAck : y.txAck = x.txAck
  freed : y.rspFreed = x.rspFreed ∧ y.ctlFreed = x.ctlFreed
  tableHold : y.tableHold = x.tableHold

/-- An IDLE flit leaves. -/
theorem Dev.sendIdle_spec (nak rreq : Bool) : (d.sendIdle p nak rreq).besideReplay = d.besideReplay ∧
    (d.sendIdle p nak rreq).port p = { d.port p with txWords := (d.port p).txWords + 1 } := by
  have hs : d.sentTo p 1 (d.sendIdle p nak rreq) := d.sentTo_sendFlits p [(d.port p).flit 0 0 nak rreq []]
  exact ⟨(congrArg Dev.besideReplay (Dev.eq_of_besideLink hs.rest) :), hs.port⟩

end

/-! ### A flit that is received -/

section
variable (s : State) (p : Nat) (f : Flit)

theorem State.flitIn_failed (hp : (s.dev.port p).presents = true) (hc : (((s.dev.flitCount p f).flitGap p f).port p).presents = true)
    (hf : flitFailed f = true) : s.flitIn p f = { s with dev := ((s.dev.flitCount p f).flitGap p f).flitBad p f } := by
  unfold State.flitIn
  rw [if_neg (by rw [hp]; decide)]
  exact (if_neg (by rw [show ((s.onDev fun d => (d.flitCount p f).flitGap p f).dev.port p).presents = true from hc]; decide)).trans (if_pos hf)

theorem State.flitIn_passed (hp : (s.dev.port p).presents = true) (hc : (((s.dev.flitCount p f).flitGap p f).port p).presents = true)
    (hf : flitFailed f = false) : s.flitIn p f = ({ s with dev := (s.dev.flitCount p f).flitGap p f } : State).flitPassed p f := by
  unfold State.flitIn
  rw [if_neg (by rw [hp]; decide)]
  exact (if_neg (by rw [show ((s.onDev fun d => (d.flitCount p f).flitGap p f).dev.port p).presents = true from hc]; decide)).trans
    (if_neg (by rw [hf]; decide))

/-- A flit that goes over its credits has no other effect than the protocol fault. -/
theorem State.flitPassed_over (ht : f.ftype ≤ 3)
    (h : (s.dev.port p).rspSent < (s.dev.port p).rspFreed + credDelta f.crdRsp (s.dev.port p).rspFreed ∨
      (s.dev.port p).ctlSent < (s.dev.port p).ctlFreed + credDelta f.crdCtl (s.dev.port p).ctlFreed ∨ f.crdReq ≠ 0) :
    s.flitPassed p f = s.onDev fun d => d.protoFault p := by
  have hover : s.onDev (fun d => d.flitCredits p f) = s.onDev fun d => d.protoFault p :=
    congrArg (fun d : Dev => ({ s with dev := d } : State)) (s.dev.flitCredits_over p f h)
  have hdown : ((s.dev.protoFault p).port p).presents = false := by
    rw [Port.presents, (s.dev.downTo_protoFault p).st]
    rfl
  unfold State.flitPassed
  rw [if_neg (Nat.not_lt.mpr ht), hover]
  exact if_pos (by rw [show ((s.onDev fun d => d.protoFault p).dev.port p).presents = false from hdown]; rfl)

section
variable (hp : (s.dev.port p).presents = true) (ht : f.ftype = 1) (hn : f.nak = false) (hq : f.retrainReq = false)
  (hr : (s.dev.port p).rspFreed + credDelta f.crdRsp (s.dev.port p).rspFreed ≤ (s.dev.port p).rspSent)
  (hc : (s.dev.port p).ctlFreed + credDelta f.crdCtl (s.dev.port p).ctlFreed ≤ (s.dev.port p).ctlSent) (h0 : f.crdReq = 0)
include hp ht hn hq hr hc h0

/-- A DATA flit that asks for nothing: ACK and credits, its slots, and what the credits let go. -/
theorem State.flitPassed_data : s.flitPassed p f =
    ((s.onDev fun d => d.acked p f).flitData p f).onDev fun d => d.ctlSend p (d.port p).ctlQ.length := by
  have hcred : s.onDev (fun d => d.flitCredits p f) = s.onDev fun d => d.acked p f :=
    congrArg (fun d : Dev => ({ s with dev := d } : State)) (s.dev.flitCredits_within p f hr hc h0)
  have hpres : ((s.dev.acked p f).port p).presents = true := by
    rw [s.dev.acked_port p f, s.dev.ackedPort_kept p f]
    exact hp
  unfold State.flitPassed
  rw [if_neg (by rw [ht]; decide), hcred]
  refine (if_neg (by rw [show ((s.onDev fun d => d.acked p f).dev.port p).presents = true from hpres]; decide)).trans ?_
  rw [if_pos ht, hn, hq]
  rfl

end

/-- A DATA flit with another SEQ is dropped. -/
theorem State.flitData_other (h : f.seq ≠ (s.dev.port p).rxSeq + 1) : s.flitData p f = s := if_pos h

/-- The port once a DATA flit with the next SEQ is accepted. -/
def Dev.seqTaken (d : Dev) (p : Nat) : Dev := d.updPort p fun x => { x with rxSeq := x.rxSeq + 1, nakOut := false, failSeq := none }

/-- The reply to an accepted DATA flit. -/
def Dev.dataAnswer (d : Dev) (p : Nat) : Dev := if (d.port p).presents then d.sendIdle p false false else d

theorem State.flitData_next (h : f.seq = (s.dev.port p).rxSeq + 1) (hn : (s.dev.port p).nakOut = false) : s.flitData p f =
    (((List.range 8).filter f.filled).foldl (fun s j => s.rxSlot p (f.vc j) (f.som j) (loamDecode (f.slots.getD j 0)).2 f.ph)
      (s.onDev fun d => d.seqTaken p)).onDev fun d => d.dataAnswer p := by
  unfold State.flitData
  rw [if_neg (not_not_intro h), hn]
  rfl

end

/-! ### The result of a DATA flit without slots -/

section
variable (d : Dev) (p : Nat) (f : Flit)

/-- The device after a DATA flit without slots. -/
def Dev.dataTaken : Dev := if f.seq = (d.port p).rxSeq + 1 then (d.seqTaken p).dataAnswer p else d

theorem Dev.dataTaken_spec (hn : (d.port p).nakOut = false ∨ f.seq ≠ (d.port p).rxSeq + 1) : (d.dataTaken p f).besideReplay = d.besideReplay ∧
    ((d.dataTaken p f).port p).sameAcks
      { d.port p with rxSeq := if f.seq = (d.port p).rxSeq + 1 then (d.port p).rxSeq + 1 else (d.port p).rxSeq } ∧
    ((d.dataTaken p f).port p).ctlQ = (d.port p).ctlQ ∧ ((d.dataTaken p f).port p).txq = (d.port p).txq := by
  unfold Dev.dataTaken
  by_cases h : f.seq = (d.port p).rxSeq + 1
  · rw [if_pos h, if_pos h]
    have hnak : (d.port p).nakOut = false := hn.resolve_right (not_not_intro h)
    have h1 : (d.seqTaken p).port p = { d.port p with rxSeq := (d.port p).rxSeq + 1, nakOut := false, failSeq := none } :=
      Dev.port_updPort_same _ _ _
    have hrest1 : (d.seqTaken p).besideReplay = d.besideReplay := rfl
    unfold Dev.dataAnswer
    split
    · obtain ⟨hrest, hport⟩ := (d.seqTaken p).sendIdle_spec p false false
      rw [hport, h1]
      exact ⟨hrest.trans hrest1, ⟨rfl, hnak, rfl, rfl, ⟨rfl, rfl⟩, rfl⟩, rfl, rfl⟩
    · rw [h1]
      exact ⟨hrest1, ⟨rfl, hnak, rfl, rfl, ⟨rfl, rfl⟩, rfl⟩, rfl, rfl⟩
  · rw [if_neg h, if_neg h]
    exact ⟨rfl, ⟨rfl, rfl, rfl, rfl, ⟨rfl, rfl⟩, rfl⟩, rfl, rfl⟩

end

theorem State.flitData_empty (s : State) (p : Nat) (f : Flit) (hn : (s.dev.port p).nakOut = false ∨ f.seq ≠ (s.dev.port p).rxSeq + 1)
    (hslots : ∀ j, j < 8 → f.filled j = false) : s.flitData p f = s.onDev fun d => d.dataTaken p f := by
  by_cases h : f.seq = (s.dev.port p).rxSeq + 1
  · have hnone : (List.range 8).filter f.filled = [] :=
      List.filter_eq_nil_iff.mpr fun j hj => by rw [hslots j (List.mem_range.mp hj)]; decide
    have htaken : s.dev.dataTaken p f = (s.dev.seqTaken p).dataAnswer p := if_pos h
    rw [s.flitData_next p f h (hn.resolve_right (not_not_intro h)), hnone]
    exact congrArg (fun d : Dev => ({ s with dev := d } : State)) htaken.symm
  · rw [s.flitData_other p f h]
    exact congrArg (fun d : Dev => ({ s with dev := d } : State)) (if_neg h).symm

/-! ### The clauses on flits -/

theorem Dev.eq_of_besideReplay {d e : Dev} (h : e.besideReplay = d.besideReplay) : e = { d with regs := e.regs, ports := e.ports, wire := e.wire } :=
  (congrArg (fun x : Dev => ({ x with regs := e.regs, ports := e.ports, wire := e.wire } : Dev)) h :)

section
variable (s : State) (p : Fin 16) (f : Flit)

/-- What a flit does in a running device is followed by Dev.finish. -/
theorem State.flit_answers (e : Dev) (h : s.flitIn p f = { s with dev := e }) :
    exec (.flitReceive p f) s = .next { s with dev := e.finish f.ph } :=
  congrArg (fun t : State => (.next (t.onDev fun d => d.finish f.ph) : Host.Outcome State Fault Refusal)) h

/-- A flit that fails its checks moves nothing and asks for a replay. -/
theorem State.flit_failed (hp : (s.dev.port p.val).presents = true) (hf : flitFailed f = true) (hg : (s.dev.port p.val).gap f = false)
    (h : (s.dev.port p.val).nakOut = false ∨ f.ftype ≠ 1 ∨ (s.dev.port p.val).failSeq ≠ some f.seq) :
    ∃ d : Dev, exec (.flitReceive p f) s = .next { s with dev := d.finish f.ph } ∧
      d = { s.dev with regs := d.regs, ports := d.ports, wire := d.wire } ∧ s.dev.wire.length < d.wire.length ∧
      (d.port p.val).rxSeq = (s.dev.port p.val).rxSeq ∧ (d.port p.val).nakOut = true ∧
      (d.port p.val).unacked = (s.dev.port p.val).unacked := by
  obtain ⟨crest, cwire, clink⟩ := s.dev.countedTo_flit p.val f hg
  have hin := s.flitIn_failed p.val f hp (clink.presents.trans hp) hf
  generalize (s.dev.flitCount p.val f).flitGap p.val f = c at crest cwire clink hin
  have hbad := c.flitBad_once p.val f (by rw [clink.nakOut, clink.failSeq]; exact h)
  have hnak := c.nakTo_flitNak p.val f.lane.val ((c.port p.val).rxSeq + 1)
  rw [← hbad] at hnak
  exact ⟨c.flitBad p.val f, s.flit_answers p f _ hin, Dev.eq_of_besideReplay (hnak.rest.trans crest), cwire ▸ hnak.wire,
    hnak.rxSeq.trans clink.rxSeq, hnak.nakOut, hnak.unacked.trans clink.unacked⟩

/-- The second failure of a sequence retrains the port. -/
theorem State.flit_failedTwice (hp : (s.dev.port p.val).presents = true) (hf : flitFailed f = true) (hg : (s.dev.port p.val).gap f = false)
    (hn : (s.dev.port p.val).nakOut = true) (ht : f.ftype = 1) (hs : (s.dev.port p.val).failSeq = some f.seq) :
    ∃ d : Dev, exec (.flitReceive p f) s = .next { s with dev := d.finish f.ph } ∧ (d.port p.val).st = .retrain ∧
      (d.port p.val).rxSeq = (s.dev.port p.val).rxSeq ∧ d.mem = s.dev.mem := by
  obtain ⟨crest, -, clink⟩ := s.dev.countedTo_flit p.val f hg
  have hin := s.flitIn_failed p.val f hp (clink.presents.trans hp) hf
  generalize (s.dev.flitCount p.val f).flitGap p.val f = c at crest clink hin
  have hactive : (c.port p.val).st = .active := by
    have hpres := clink.presents.trans hp
    unfold Port.presents at hpres
    exact eq_of_beq (Bool.and_eq_true_iff.mp hpres).1
  have hbad := c.flitBad_twice p.val f (clink.nakOut.trans hn) ht (clink.failSeq.trans hs)
  obtain ⟨hst, hseq, hmem⟩ := c.flitLasting_spec p.val f.lane.val hactive
  rw [← hbad] at hst hseq hmem
  exact ⟨c.flitBad p.val f, s.flit_answers p f _ hin, hst, hseq.trans clink.rxSeq, hmem.trans (congrArg Dev.mem crest :)⟩

/-- A flit whose credit totals are above what was sent takes the port DOWN. -/
theorem State.flit_overCredit (hp : (s.dev.port p.val).presents = true) (hf : flitFailed f = false) (ht : f.ftype ≤ 3)
    (hn : (s.dev.port p.val).nakOut = false)
    (h : (s.dev.port p.val).rspSent < (s.dev.port p.val).rspFreed + credDelta f.crdRsp (s.dev.port p.val).rspFreed ∨
      (s.dev.port p.val).ctlSent < (s.dev.port p.val).ctlFreed + credDelta f.crdCtl (s.dev.port p.val).ctlFreed ∨ f.crdReq ≠ 0) :
    ∃ d : Dev, exec (.flitReceive p f) s = .next { s with dev := d.finish f.ph } ∧ (d.port p.val).st = .down ∧
      d.mem = s.dev.mem ∧ d.fld row_OLY_STATUS p.val f_OLY_STATUS_DOWN_CAUSE = 6 := by
  have hcounted : ((s.dev.flitCount p.val f).flitGap p.val f).mem = s.dev.mem ∧
      (((s.dev.flitCount p.val f).flitGap p.val f).port p.val).presents = (s.dev.port p.val).presents ∧
      ((((s.dev.flitCount p.val f).flitGap p.val f).port p.val).rspSent = (s.dev.port p.val).rspSent ∧
        (((s.dev.flitCount p.val f).flitGap p.val f).port p.val).ctlSent = (s.dev.port p.val).ctlSent) ∧
      ((((s.dev.flitCount p.val f).flitGap p.val f).port p.val).rspFreed = (s.dev.port p.val).rspFreed ∧
        (((s.dev.flitCount p.val f).flitGap p.val f).port p.val).ctlFreed = (s.dev.port p.val).ctlFreed) := by
    by_cases hg : (s.dev.port p.val).gap f = true
    · have hnak := s.dev.nakTo_gap p.val f hg hn
      exact ⟨(congrArg Dev.mem hnak.rest :), hnak.st, hnak.sent, hnak.freed⟩
    · have hc := s.dev.countedTo_flit p.val f (Bool.eq_false_iff.mpr hg)
      exact ⟨(congrArg Dev.mem hc.rest :), hc.link.presents, hc.link.sent, hc.link.freed⟩
  obtain ⟨cmem, cpres, ⟨crsp, cctl⟩, frsp, fctl⟩ := hcounted
  have hin := s.flitIn_passed p.val f hp (cpres.trans hp) hf
  generalize (s.dev.flitCount p.val f).flitGap p.val f = c at cmem crsp cctl frsp fctl hin
  have hover := ({ s with dev := c } : State).flitPassed_over p.val f ht (by
    change (c.port p.val).rspSent < (c.port p.val).rspFreed + credDelta f.crdRsp (c.port p.val).rspFreed ∨
      (c.port p.val).ctlSent < (c.port p.val).ctlFreed + credDelta f.crdCtl (c.port p.val).ctlFreed ∨ f.crdReq ≠ 0
    rw [crsp, cctl, frsp, fctl]
    exact h)
  obtain ⟨hst, hcause, hmem⟩ := c.downTo_protoFault p.val
  exact ⟨c.protoFault p.val, s.flit_answers p f _ (hin.trans hover), hst, hmem.trans cmem, hcause⟩

/-- A replay that is due sends the whole buffer again. -/
theorem State.replay_due (ha : (s.dev.port p.val).st = .active) (hu : (s.dev.port p.val).unacked ≠ [])
    (ht : s.dev.atLeast (portDom p.val) (s.dev.port p.val).ackAt 1000 = true) :
    exec (.replayTimeout p) s = .next { s with dev := (s.dev.replay p.val).finish } :=
  s.devEvent_holds (fun d => (d.port p.val).st == .active && (d.port p.val).unacked ≠ [] &&
    d.atLeast (portDom p.val) (d.port p.val).ackAt 1000) (fun d => d.replay p.val) (by simp [ha, hu, ht])

/-- A DATA flit that asks for nothing, within its credits, on a port where nothing waits. -/
structure Port.calm (x : Port) (f : Flit) : Prop where
  presents : x.presents = true
  passed : flitFailed f = false
  data : f.ftype = 1
  nakOut : x.nakOut = false
  nak : f.nak = false
  retrainReq : f.retrainReq = false
  ctlQ : x.ctlQ = []
  txq : x.txq = []
  rsp : x.rspFreed + credDelta f.crdRsp x.rspFreed ≤ x.rspSent
  ctl : x.ctlFreed + credDelta f.crdCtl x.ctlFreed ≤ x.ctlSent
  crdReq : f.crdReq = 0

/-- The flit's ACK, credits and slots, on the device that has counted it. -/
theorem State.flitIn_calm (hc : (s.dev.port p.val).calm f) (c : Dev) (h : (s.dev.flitCount p.val f).flitGap p.val f = c)
    (hp : (c.port p.val).presents = (s.dev.port p.val).presents)
    (hs : (c.port p.val).rspSent = (s.dev.port p.val).rspSent ∧ (c.port p.val).ctlSent = (s.dev.port p.val).ctlSent)
    (hf : (c.port p.val).rspFreed = (s.dev.port p.val).rspFreed ∧ (c.port p.val).ctlFreed = (s.dev.port p.val).ctlFreed) :
    s.flitIn p f = (({ s with dev := c.acked p.val f } : State).flitData p.val f).onDev fun d => d.ctlSend p.val (d.port p.val).ctlQ.length := by
  have hpres := hp.trans hc.presents
  have hin := s.flitIn_passed p.val f hc.presents (h ▸ hpres) hc.passed
  rw [h] at hin
  exact hin.trans (({ s with dev := c } : State).flitPassed_data p.val f hpres hc.data hc.nak hc.retrainReq
    (by change (c.port p.val).rspFreed + credDelta f.crdRsp (c.port p.val).rspFreed ≤ (c.port p.val).rspSent
        rw [hs.1, hf.1]
        exact hc.rsp)
    (by change (c.port p.val).ctlFreed + credDelta f.crdCtl (c.port p.val).ctlFreed ≤ (c.port p.val).ctlSent
        rw [hs.2, hf.2]
        exact hc.ctl) hc.crdReq)

/-- A DATA flit without slots: the receive sequence moves on to its SEQ, its ACK and its credits count. -/
theorem State.flit_empty (hc : (s.dev.port p.val).calm f) (hslots : ∀ j, j < 8 → f.filled j = false)
    (hg : (s.dev.port p.val).gap f = false) :
    ∃ d : Dev, exec (.flitReceive p f) s = .next { s with dev := d.finish f.ph } ∧
      d = { s.dev with regs := d.regs, ports := d.ports, wire := d.wire } ∧
      (d.port p.val).rxSeq =
        (if f.seq = (s.dev.port p.val).rxSeq + 1 then (s.dev.port p.val).rxSeq + 1 else (s.dev.port p.val).rxSeq) ∧
      (d.port p.val).rspFreed = (s.dev.port p.val).rspFreed + credDelta f.crdRsp (s.dev.port p.val).rspFreed ∧
      (d.port p.val).ctlFreed = (s.dev.port p.val).ctlFreed + credDelta f.crdCtl (s.dev.port p.val).ctlFreed ∧
      (d.port p.val).tableHold = f.tableHold ∧
      ((∀ u ∈ (s.dev.port p.val).unacked, u.seq ≠ f.ack) → (d.port p.val).unacked = (s.dev.port p.val).unacked) ∧
      ∀ l u r, (s.dev.port p.val).unacked = l ++ u :: r → u.seq = f.ack → (∀ w ∈ l, w.seq ≠ f.ack) →
        (d.port p.val).unacked = r ∧ (d.port p.val).txAck = f.ack := by
  obtain ⟨crest, -, clink⟩ := s.dev.countedTo_flit p.val f hg
  have hin := s.flitIn_calm p f hc _ rfl clink.presents clink.sent clink.freed
  generalize (s.dev.flitCount p.val f).flitGap p.val f = c at crest clink hin
  have hport := c.acked_port p.val f
  have hkept := c.ackedPort_kept p.val f
  have hun : (c.ackedPort p.val f).unacked = ((c.port p.val).ack f.ack (c.now (portDom p.val))).unacked := rfl
  have htx : (c.ackedPort p.val f).txAck = ((c.port p.val).ack f.ack (c.now (portDom p.val))).txAck := rfl
  have hfreed : (c.ackedPort p.val f).rspFreed = (c.port p.val).rspFreed + credDelta f.crdRsp (c.port p.val).rspFreed ∧
    (c.ackedPort p.val f).ctlFreed = (c.port p.val).ctlFreed + credDelta f.crdCtl (c.port p.val).ctlFreed ∧
    (c.ackedPort p.val f).tableHold = f.tableHold := ⟨rfl, rfl, rfl⟩
  have hrest1 : (c.acked p.val f).besideReplay = c.besideReplay := rfl
  generalize c.ackedPort p.val f = y at hport hkept hun htx hfreed
  have hseq : y.rxSeq = (s.dev.port p.val).rxSeq := (congrArg Port.rxSeq hkept :).trans clink.rxSeq
  have hnak : y.nakOut = false := (congrArg Port.nakOut hkept :).trans (clink.nakOut.trans hc.nakOut)
  have hqueues : y.ctlQ = [] ∧ y.txq = [] := ⟨(congrArg Port.ctlQ hkept :).trans (clink.queues.1.trans hc.ctlQ),
    (congrArg Port.txq hkept :).trans (clink.queues.2.trans hc.txq)⟩
  have hdata := State.flitData_empty { s with dev := c.acked p.val f } p.val f (.inl (by rw [hport]; exact hnak)) hslots
  obtain ⟨trest, tacks, tctl, ttx⟩ := (c.acked p.val f).dataTaken_spec p.val f (.inl (by rw [hport]; exact hnak))
  rw [hdata] at hin
  change s.flitIn p.val f = { s with
    dev := ((c.acked p.val f).dataTaken p.val f).ctlSend p.val (((c.acked p.val f).dataTaken p.val f).port p.val).ctlQ.length } at hin
  rw [hport] at tacks tctl ttx
  generalize (c.acked p.val f).dataTaken p.val f = t at trest tacks tctl ttx hin
  obtain ⟨erest, eport⟩ := t.ctlSend_idle p.val (t.port p.val).ctlQ.length (by rw [tctl, hqueues.1]; rfl) (ttx.trans hqueues.2)
  refine ⟨_, s.flit_answers p f _ hin, Dev.eq_of_besideReplay (erest.trans (trest.trans (hrest1.trans crest))), ?_, ?_, ?_, ?_, ?_, ?_⟩
  all_goals rw [eport]
  · rw [← tacks.rxSeq, hseq]
  · rw [← tacks.freed.1, ← clink.freed.1]
    exact hfreed.1
  · rw [← tacks.freed.2, ← clink.freed.2]
    exact hfreed.2.1
  · exact tacks.tableHold.symm.trans hfreed.2.2
  · intro hnone
    rw [← tacks.unacked, ← clink.unacked]
    refine hun.trans (congrArg Port.unacked (Port.ack_none _ _ _ ?_))
    rw [clink.unacked]
    exact hnone
  · intro l u r hl hu hw
    have hack := Port.ack_covers _ f.ack (c.now (portDom p.val)) l u r (clink.unacked.trans hl) hu hw
    exact ⟨tacks.unacked.symm.trans (hun.trans (congrArg Port.unacked hack)),
      tacks.txAck.symm.trans (htx.trans (congrArg Port.txAck hack))⟩

/-- One with another SEQ, after flits that are lost, moves nothing and leaves the replay asked for. -/
theorem State.flit_lost (hc : (s.dev.port p.val).calm f) (hg : (s.dev.port p.val).gap f = true)
    (hne : f.seq ≠ (s.dev.port p.val).rxSeq + 1) :
    ∃ d : Dev, exec (.flitReceive p f) s = .next { s with dev := d.finish f.ph } ∧ (d.port p.val).rxSeq = (s.dev.port p.val).rxSeq ∧
      (d.port p.val).nakOut = true ∧ d.mem = s.dev.mem := by
  have cnak := s.dev.nakTo_gap p.val f hg hc.nakOut
  have hin := s.flitIn_calm p f hc _ rfl cnak.st cnak.sent cnak.freed
  generalize (s.dev.flitCount p.val f).flitGap p.val f = c at cnak hin
  have hport := (c.acked_port p.val f).trans (c.ackedPort_kept p.val f)
  have hmem1 : (c.acked p.val f).mem = c.mem := rfl
  generalize c.acked p.val f = e at hport hmem1 hin
  have hseq : (e.port p.val).rxSeq = (s.dev.port p.val).rxSeq := (congrArg Port.rxSeq hport :).trans cnak.rxSeq
  have hctl : (e.port p.val).ctlQ = [] := (congrArg Port.ctlQ hport :).trans (cnak.queues.1.trans hc.ctlQ)
  have htx : (e.port p.val).txq = [] := (congrArg Port.txq hport :).trans (cnak.queues.2.trans hc.txq)
  have hdrop := State.flitData_other { s with dev := e } p.val f (hseq ▸ hne)
  rw [hdrop] at hin
  obtain ⟨erest, eport⟩ := e.ctlSend_idle p.val (e.port p.val).ctlQ.length (by rw [hctl]; rfl) htx
  exact ⟨e.ctlSend p.val (e.port p.val).ctlQ.length, s.flit_answers p f _ hin, (congrArg Port.rxSeq eport).trans hseq,
    (congrArg Port.nakOut eport).trans ((congrArg Port.nakOut hport :).trans cnak.nakOut),
    (congrArg Dev.mem erest :).trans (hmem1.trans (congrArg Dev.mem cnak.rest :))⟩

/-- A transaction that is whole in its first slot is complete with it. -/
theorem rxStep_whole (g : Gran) (ht : hType g ≠ 0x0A) (hl : msgLen 0 g = 0) : rxStep 0 none true g = (none, some ⟨g, [], 0⟩, 0) := by
  unfold rxStep
  dsimp only
  rw [hl, if_pos rfl, if_neg (by simp [ht])]
  rfl

/-- The device once the slot of a transaction that is whole in it is taken. -/
def Dev.slotTaken (d : Dev) (p : Nat) : Dev := d.updPort p fun x => { x.freed 0 0 with rx := x.rx.set 0 none none }

theorem State.rxSlot_whole (s : State) (p : Nat) (g : Gran) (ph : Phys) (hrx : (s.dev.port p).rx.get 0 none = none) (ht : hType g ≠ 0x0A)
    (hl : msgLen 0 g = 0) : s.rxSlot p 0 true g ph = ({ s with dev := s.dev.slotTaken p } : State).rxDone p 0 ⟨g, [], 0⟩ ph := by
  unfold State.rxSlot
  rw [hrx, rxStep_whole g ht hl]
  rfl

theorem State.flit_answersData (r : State)
    (h : s.flitIn p f = (r.onDev fun d => d.dataAnswer p.val).onDev fun d => d.ctlSend p.val (d.port p.val).ctlQ.length) :
    exec (.flitReceive p f) s = .next (r.onDev fun d =>
      ((d.dataAnswer p.val).ctlSend p.val ((d.dataAnswer p.val).port p.val).ctlQ.length).finish f.ph) := by
  refine (congrArg (fun t : State => (.next (t.onDev fun d => d.finish f.ph) : Host.Outcome State Fault Refusal)) h).trans ?_
  rfl

/-- A DATA flit of one transaction: the receive sequence moves on, and the transaction has its effect. -/
theorem State.flit_one (hc : (s.dev.port p.val).calm f) (hg : (s.dev.port p.val).gap f = false)
    (hseq : f.seq = (s.dev.port p.val).rxSeq + 1) (hslots : ∀ j, j < 8 → (f.filled j = true ↔ j = 0)) (hvc : f.vc 0 = 0)
    (hsom : f.som 0 = true) (hrx : (s.dev.port p.val).rx.get 0 none = none) (g : Gran) (hgr : (loamDecode (f.slots.getD 0 0)).2 = g)
    (ht : hType g ≠ 0x0A) (hl : msgLen 0 g = 0) :
    ∃ s1 : State, s1 = { s with dev := { s.dev with regs := s1.dev.regs, ports := s1.dev.ports } } ∧
      (s1.dev.port p.val).rxSeq = (s.dev.port p.val).rxSeq + 1 ∧ exec (.flitReceive p f) s =
        .next ((s1.rxDone p.val 0 ⟨g, [], 0⟩ f.ph).onDev fun d =>
          ((d.dataAnswer p.val).ctlSend p.val ((d.dataAnswer p.val).port p.val).ctlQ.length).finish f.ph) := by
  obtain ⟨crest, cwire, clink⟩ := s.dev.countedTo_flit p.val f hg
  have hin := s.flitIn_calm p f hc _ rfl clink.presents clink.sent clink.freed
  generalize (s.dev.flitCount p.val f).flitGap p.val f = c at crest cwire clink hin
  have hport := (c.acked_port p.val f).trans (c.ackedPort_kept p.val f)
  have hrest1 : (c.acked p.val f).besideReplay = c.besideReplay := rfl
  have hwire1 : (c.acked p.val f).wire = c.wire := rfl
  generalize c.acked p.val f = e at hport hrest1 hwire1 hin
  have eseq : (e.port p.val).rxSeq = (s.dev.port p.val).rxSeq := (congrArg Port.rxSeq hport :).trans clink.rxSeq
  have enak : (e.port p.val).nakOut = false := (congrArg Port.nakOut hport :).trans (clink.nakOut.trans hc.nakOut)
  have erx : (e.port p.val).rx = (s.dev.port p.val).rx := (congrArg Port.rx hport :).trans clink.rx
  have hone : (List.range 8).filter f.filled = [0] := by
    have hfilled : ∀ j ∈ List.range 8, f.filled j = decide (j = 0) := fun j hj => by
      rw [Bool.eq_iff_iff, decide_eq_true_iff]
      exact hslots j (List.mem_range.mp hj)
    rw [List.filter_congr hfilled]
    rfl
  have hdata := State.flitData_next { s with dev := e } p.val f (hseq.trans (congrArg (· + 1) eseq.symm)) enak
  have htaken : ((e.seqTaken p.val).port p.val) = { e.port p.val with rxSeq := (e.port p.val).rxSeq + 1, nakOut := false, failSeq := none } :=
    Dev.port_updPort_same _ _ _
  have hslot := State.rxSlot_whole { s with dev := e.seqTaken p.val } p.val g f.ph (by rw [htaken]; exact erx ▸ hrx) ht hl
  rw [hone, List.foldl_cons, List.foldl_nil, hvc, hsom, hgr] at hdata
  refine ⟨{ s with dev := (e.seqTaken p.val).slotTaken p.val }, ?_, ?_, ?_⟩
  · have hrest : ((e.seqTaken p.val).slotTaken p.val).besideReplay = s.dev.besideReplay :=
      (rfl : _ = e.besideReplay).trans (hrest1.trans crest)
    have hwire : ((e.seqTaken p.val).slotTaken p.val).wire = s.dev.wire := (rfl : _ = e.wire).trans (hwire1.trans cwire)
    generalize (e.seqTaken p.val).slotTaken p.val = k at hrest hwire
    have hk : k = { s.dev with regs := k.regs, ports := k.ports, wire := k.wire } := Dev.eq_of_besideReplay hrest
    rw [hwire] at hk
    exact congrArg (fun d : Dev => ({ s with dev := d } : State)) hk
  · have hlast : (((e.seqTaken p.val).slotTaken p.val).port p.val) =
        { ((e.seqTaken p.val).port p.val).freed 0 0 with rx := ((e.seqTaken p.val).port p.val).rx.set 0 none none } :=
      Dev.port_updPort_same _ _ _
    have htakenSeq : ((e.seqTaken p.val).port p.val).rxSeq = (e.port p.val).rxSeq + 1 := congrArg Port.rxSeq htaken
    exact (congrArg Port.rxSeq hlast).trans (htakenSeq.trans (congrArg (· + 1) eseq))
  · have honDev : ({ s with dev := e } : State).onDev (fun d => d.seqTaken p.val) = { s with dev := e.seqTaken p.val } := rfl
    rw [honDev, hslot] at hdata
    rw [hdata] at hin
    generalize ({ s with dev := (e.seqTaken p.val).slotTaken p.val } : State).rxDone p.val 0 ⟨g, [], 0⟩ f.ph = r at hin ⊢
    exact s.flit_answersData p f r hin

end

/-- Settles O45, clause by clause: a flit that fails, a DATA flit that asks for nothing without slots and with one transaction, a credit
total above what was sent, a replay that is due. -/
theorem flitsAndReplay : Obligations.FlitsAndReplay := by
  intro s p x rsp ctl answers calm
  refine ⟨fun f hp hf hg => ⟨s.flit_failed p f hp hf hg, s.flit_failedTwice p f hp hf hg⟩, ?_, ?_,
    s.flit_overCredit p, fun ha hu ht => ?_⟩
  · rintro f ⟨h1, h2, h3, h4, h5, h6, h7, h8, h9, h10, h11⟩ hslots
    have hc : (s.dev.port p.val).calm f := ⟨h1, h2, h3, h4, h5, h6, h7, h8, h9, h10, h11⟩
    exact ⟨s.flit_empty p f hc hslots, s.flit_lost p f hc⟩
  · rintro f ⟨h1, h2, h3, h4, h5, h6, h7, h8, h9, h10, h11⟩ hg hseq hslots hvc hsom hrx g ht hl
    exact s.flit_one p f ⟨h1, h2, h3, h4, h5, h6, h7, h8, h9, h10, h11⟩ hg hseq hslots hvc hsom hrx g rfl ht hl
  · obtain ⟨hrest, hport, hcount, hwire⟩ := s.dev.replayedTo_replay p.val
    exact ⟨s.dev.replay p.val, s.replay_due p ha hu ht, Dev.eq_of_besideReplay hrest, hwire hu, hport, hcount⟩

end Sys2Proof.Machine

/-! PROOF. The start of firmware (R409, R412 step 4): the boot record read back, admission, what stays of memory. -/
namespace Sys2Proof.Machine

/-! ### Numbers in bytes -/

theorem leNat_append (l k : List Byte) : leNat (l ++ k) = leNat l + 256 ^ l.length * leNat k := by
  induction l with
  | nil => simp [leNat]
  | cons b t ih =>
    rw [List.cons_append, leNat, ih, leNat, List.length_cons, pow_succ']
    ring

theorem natBytes_length (v n : Nat) : (natBytes v n).length = n := by rw [natBytes, List.length_map, List.length_range]

theorem natBytes_succ (v n : Nat) : natBytes v (n + 1) = natBytes v n ++ [BitVec.ofNat 8 (v / 256 ^ n)] := by
  simp [natBytes, List.range_succ]

/-- A number is read back from its bytes, as far as they reach. -/
theorem leNat_natBytes (v n : Nat) : leNat (natBytes v n) = v % 256 ^ n := by
  induction n with
  | zero => simp [natBytes, leNat, Nat.mod_one]
  | succ n ih =>
    rw [natBytes_succ, leNat_append, natBytes_length, ih, Nat.mod_pow_succ]
    simp [leNat, BitVec.toNat_ofNat]

theorem leNat_natBytes_of_lt (v n : Nat) (h : v < 256 ^ n) : leNat (natBytes v n) = v := by
  rw [leNat_natBytes, Nat.mod_eq_of_lt h]

/-! ### The boot record is read back -/

/-- The bytes of a record before its CRC. -/
def BootRec.head (r : BootRec) : List Byte :=
  natBytes r.seq 8 ++ natBytes (b2n r.slotB + 2 * b2n r.pending) 8 ++ natBytes r.resets 8 ++ natBytes 0 4

theorem BootRec.bytes_eq (r : BootRec) : r.bytes = r.head ++ natBytes (crc32c r.head).toNat 4 := rfl

theorem BootRec.head_length (r : BootRec) : r.head.length = 28 := by
  simp only [BootRec.head, List.length_append, natBytes_length]

theorem BootRec.bytes_length (r : BootRec) : r.bytes.length = 32 := by
  rw [r.bytes_eq, List.length_append, r.head_length, natBytes_length]

theorem slice_append_left (l k : List Byte) (o n : Nat) (h : o + n ≤ l.length) : slice (l ++ k) o n = slice l o n := by
  unfold slice
  rw [List.drop_append_of_le_length (by omega), List.take_append_of_le_length (by rw [List.length_drop]; omega)]

theorem slice_append_right (l k : List Byte) (o n : Nat) (h : l.length ≤ o) : slice (l ++ k) o n = slice k (o - l.length) n := by
  unfold slice
  rw [List.drop_append, List.drop_eq_nil_of_le h, List.nil_append]

theorem slice_whole (l : List Byte) (n : Nat) (h : l.length = n) : slice l 0 n = l := by
  unfold slice
  rw [List.drop_zero, List.take_of_length_le h.le]

/-- The two flags in the byte of flags. -/
theorem flagByte_read (a b : Bool) : leNat (slice (natBytes (b2n a + 2 * b2n b) 8) 0 1) = b2n a + 2 * b2n b := by
  cases a <;> cases b <;> decide

theorem recOf_bytes (r : BootRec) (hs : r.seq < 2 ^ 64) (hr : r.resets < 2 ^ 64) : recOf r.bytes = some r := by
  have hhead := r.head_length
  have hcrc : leNat (r.bytes.drop 28) = (crc32c (r.bytes.take 28)).toNat := by
    rw [r.bytes_eq, ← hhead, List.drop_left, List.take_left]
    exact leNat_natBytes_of_lt _ 4 ((crc32c r.head).isLt)
  have hsl : ∀ o n, o + n ≤ 28 → slice r.bytes o n = slice r.head o n := fun o n h => by
    rw [r.bytes_eq]
    exact slice_append_left _ _ _ _ (hhead.symm ▸ h)
  have h1 : slice r.head 0 8 = natBytes r.seq 8 := by
    unfold BootRec.head
    rw [List.append_assoc, List.append_assoc, slice_append_left _ _ _ _ (by simp only [natBytes_length]; decide),
      slice_whole _ _ (natBytes_length _ _)]
  have h2 : slice r.head 8 1 = slice (natBytes (b2n r.slotB + 2 * b2n r.pending) 8) 0 1 := by
    unfold BootRec.head
    rw [List.append_assoc, List.append_assoc, slice_append_right _ _ _ _ (by rw [natBytes_length]), natBytes_length,
      slice_append_left _ _ _ _ (by rw [natBytes_length]; decide)]
  have h3 : slice r.head 16 8 = natBytes r.resets 8 := by
    unfold BootRec.head
    have hlen : (natBytes r.seq 8 ++ natBytes (b2n r.slotB + 2 * b2n r.pending) 8).length = 16 := by
      rw [List.length_append, natBytes_length, natBytes_length]
    rw [List.append_assoc, slice_append_right _ _ _ _ hlen.le, hlen, slice_append_left _ _ _ _ (by rw [natBytes_length])]
    exact slice_whole _ _ (natBytes_length _ _)
  have hb0 : ∀ a b : Bool, bitOf (b2n a + 2 * b2n b) 0 = a ∧ bitOf (b2n a + 2 * b2n b) 1 = b := by decide
  unfold recOf
  rw [if_neg (not_not_intro hcrc), hsl 0 8 (by decide), hsl 8 1 (by decide), hsl 16 8 (by decide), h1, h2, h3, flagByte_read,
    leNat_natBytes_of_lt _ 8 hs, leNat_natBytes_of_lt _ 8 hr, (hb0 _ _).1, (hb0 _ _).2]

section
variable (d : Dev)

/-- What is programmed is read back. -/
theorem Dev.flashGet_flashPut_same (a : Nat) (l : List Byte) : (d.flashPut a l).flashGet a l.length = l := by
  refine List.ext_getElem (by simp [Dev.flashGet]) fun i h1 h2 => ?_
  simp only [Dev.flashGet, List.getElem_map, List.getElem_range]
  rw [Dev.flashPut_get, if_pos ⟨Nat.le_add_right a i, Nat.add_lt_add_left h2 a⟩, Nat.add_sub_cancel_left, List.getD_eq_getElem _ _ h2]

theorem Dev.flashGet_flashPut_other (a b n : Nat) (l : List Byte) (h : b + n ≤ a ∨ a + l.length ≤ b) :
    (d.flashPut a l).flashGet b n = d.flashGet b n := by
  unfold Dev.flashGet
  refine List.map_congr_left fun i hi => ?_
  have := List.mem_range.mp hi
  rw [Dev.flashPut_get, if_neg (by omega)]

theorem Dev.recInForce_le (k : Nat) (h : d.recInForce = some k) : k = 0 ∨ k = 1 := by
  unfold Dev.recInForce at h
  split at h
  · injection h with h
    split at h <;> omega
  · exact .inl (Option.some.inj h).symm
  · exact .inr (Option.some.inj h).symm
  · exact nomatch h

/-- Copies as a new record leaves them. -/
theorem Dev.recCopy_put (i : Nat) (hi : i = 0 ∨ i = 1) (r : BootRec) (hs : r.seq < 2 ^ 64) (hr : r.resets < 2 ^ 64) :
    (d.flashPut (recAt i) r.bytes).recCopy i = some r ∧ (d.flashPut (recAt i) r.bytes).recCopy (1 - i) = d.recCopy (1 - i) := by
  unfold Dev.recCopy
  constructor
  · rw [← r.bytes_length, Dev.flashGet_flashPut_same, recOf_bytes r hs hr]
  · rw [Dev.flashGet_flashPut_other]
    rw [r.bytes_length]
    rcases hi with rfl | rfl <;> decide

theorem Dev.bootRec_of (k : Nat) (h : d.recInForce = some k) : d.recCopy k = some d.bootRec := by
  have hsome : (d.recCopy k).isSome := by
    have hdef := h
    unfold Dev.recInForce at hdef
    split at hdef
    · next a b ha hb =>
      injection hdef with hdef
      split at hdef <;> subst hdef <;> simp [ha, hb]
    · next a ha hb => obtain rfl := Option.some.inj hdef; simp [ha]
    · next b ha hb => obtain rfl := Option.some.inj hdef; simp [hb]
    · exact nomatch hdef
  obtain ⟨r, hr⟩ := Option.isSome_iff_exists.mp hsome
  unfold Dev.bootRec
  rw [h, Option.bind_some, hr]
  rfl

/-- Of two copies the one with the higher sequence is the boot record. -/
theorem Dev.bootRec_newer (i : Nat) (hi : i = 0 ∨ i = 1) (r : BootRec) (h : d.recCopy i = some r)
    (ho : ∀ q, d.recCopy (1 - i) = some q → q.seq < r.seq) : d.bootRec = r := by
  have hforce : d.recInForce = some i := by
    unfold Dev.recInForce
    rcases hi with rfl | rfl
    · rw [h]
      cases hq : d.recCopy 1 with
      | none => rfl
      | some q => exact congrArg some (if_neg (Nat.lt_asymm (ho q hq)))
    · rw [h]
      cases hq : d.recCopy 0 with
      | none => rfl
      | some q => exact congrArg some (if_pos (ho q hq))
  unfold Dev.bootRec
  rw [hforce, Option.bind_some, h]
  rfl

/-- The record written is the one in force from then on, its sequence one higher. -/
theorem Dev.bootRec_recPut (r : BootRec) (hs : d.bootRec.seq + 1 < 2 ^ 64) (hr : r.resets < 2 ^ 64) :
    (d.recPut r).bootRec = { r with seq := d.bootRec.seq + 1 } := by
  unfold Dev.recPut
  cases hk : d.recInForce with
  | none =>
    have hother : d.recCopy 1 = none := by
      unfold Dev.recInForce at hk
      split at hk
      · exact nomatch hk
      · exact nomatch hk
      · exact nomatch hk
      · assumption
    obtain ⟨hput, hkept⟩ := d.recCopy_put 0 (.inl rfl) { r with seq := d.bootRec.seq + 1 } hs hr
    exact Dev.bootRec_newer _ 0 (.inl rfl) _ hput fun q hq => nomatch (hkept.trans hother).symm.trans hq
  | some k =>
    have hle := d.recInForce_le k hk
    obtain ⟨hput, hkept⟩ := d.recCopy_put (1 - k) (by omega) { r with seq := d.bootRec.seq + 1 } hs hr
    refine Dev.bootRec_newer _ (1 - k) (by omega) _ hput fun q hq => ?_
    have hold : 1 - (1 - k) = k := by omega
    rw [hold] at hkept hq
    obtain rfl := Option.some.inj ((hkept.trans (d.bootRec_of k hk)).symm.trans hq)
    exact Nat.lt_succ_self _

theorem Dev.bootRec_congr {e : Dev} (h : e.flash = d.flash) : e.bootRec = d.bootRec := by
  have hcopy : ∀ i, e.recCopy i = d.recCopy i := fun i => by
    unfold Dev.recCopy Dev.flashGet
    rw [h]
  have hforce : e.recInForce = d.recInForce := by
    unfold Dev.recInForce
    rw [hcopy, hcopy]
  unfold Dev.bootRec
  rw [hforce, funext hcopy]

end

/-! ### The stratum comes into force -/

section
variable (d : Dev)

/-- Everything but what a stratum brings into force: registers, ceilings, the domains and the ports. -/
def Dev.besideStrat : Dev := { d with regs := [], setq := [], strat := none, doms := [], rateDirty := 0, ports := [] }

theorem Dev.besideStrat_wr (r : RegRow) (i : Nat) (w : Word) : (d.wr r i w).besideStrat = d.besideStrat := rfl

theorem Dev.besideStrat_setFld (r : RegRow) (i : Nat) (f : Fld) (n : Nat) : (d.setFld r i f n).besideStrat = d.besideStrat := rfl

theorem Dev.ceilStart_kept (k : Nat) : (d.ceilStart k).besideStrat = d.besideStrat ∧ (d.ceilStart k).strat = d.strat :=
  ⟨Dev.each_same Dev.besideStrat (List.range 30) (fun d i => d.updSq k fun q => { q with ceil := q.ceil.set i (max (d.cmin k i) 2048) 0 })
    (fun _ _ => rfl) d,
    Dev.each_same Dev.strat (List.range 30) (fun d i => d.updSq k fun q => { q with ceil := q.ceil.set i (max (d.cmin k i) 2048) 0 })
    (fun _ _ => rfl) d⟩

theorem Dev.stratLoad_spec (g : Strat) (a : Nat × Nat) :
    (d.stratLoad g a).besideStrat = d.besideStrat ∧ (d.stratLoad g a).strat = some g := by
  unfold Dev.stratLoad
  extract_lets d1 d2 d3 d4 d5
  have h4 : d4.besideStrat = d.besideStrat ∧ d4.strat = some g := ⟨rfl, rfl⟩
  have h5 : d5.besideStrat = d4.besideStrat ∧ d5.strat = d4.strat :=
    ⟨Dev.each_same Dev.besideStrat (List.range 8) (fun d i => d.wr row_STR_DIGEST i (BitVec.ofNat 64 (leNat (slice g.digest (8 * i) 8))))
      (fun _ _ => rfl) d4,
      Dev.each_same Dev.strat (List.range 8) (fun d i => d.wr row_STR_DIGEST i (BitVec.ofNat 64 (leNat (slice g.digest (8 * i) 8))))
      (fun _ _ => rfl) d4⟩
  exact ⟨(Dev.each_same Dev.besideStrat _ Dev.ceilStart (fun e k => (e.ceilStart_kept k).1) d5).trans (h5.1.trans h4.1),
    (Dev.each_same Dev.strat _ Dev.ceilStart (fun e k => (e.ceilStart_kept k).2) d5).trans (h5.2.trans h4.2)⟩

theorem Dev.rateMark_strat (x : Nat) : (d.rateMark x).besideStrat = d.besideStrat ∧ (d.rateMark x).strat = d.strat := by
  unfold Dev.rateMark
  split <;> exact ⟨rfl, rfl⟩

theorem Dev.powerDoms_kept (l : List Nat) : (d.powerDoms l).besideStrat = d.besideStrat ∧ (d.powerDoms l).strat = d.strat :=
  ⟨Dev.each_same Dev.besideStrat _ (fun d x => (d.rateMark x).updDom x fun e => { e with st := .live }) (fun e x => (e.rateMark_strat x).1) d,
    Dev.each_same Dev.strat _ (fun d x => (d.rateMark x).updDom x fun e => { e with st := .live }) (fun e x => (e.rateMark_strat x).2) d⟩

/-- Ports that are put in DOWN. -/
def Dev.portsDown (l : List Nat) : Dev := d.each l fun d p => d.updPort p fun x => { x with st := .down }

theorem Dev.portsDown_kept (l : List Nat) : (d.portsDown l).besideStrat = d.besideStrat ∧ (d.portsDown l).strat = d.strat :=
  ⟨Dev.each_same Dev.besideStrat l (fun d p => d.updPort p fun x => { x with st := .down }) (fun _ _ => rfl) d,
    Dev.each_same Dev.strat l (fun d p => d.updPort p fun x => { x with st := .down }) (fun _ _ => rfl) d⟩

theorem Dev.portsDown_st (l : List Nat) (q : Nat) (h : q ∈ l ∨ (d.port q).st = .down) : ((d.portsDown l).port q).st = .down := by
  induction l generalizing d with
  | nil => exact h.resolve_left (fun h => nomatch h)
  | cons p t ih =>
    refine ih (d.updPort p fun x => { x with st := .down }) ?_
    by_cases hq : q = p
    · subst hq
      exact .inr (congrArg Port.st (Dev.port_updPort_same d q fun x => { x with st := .down }))
    · rcases h with h | h
      · exact .inl ((List.mem_cons.mp h).resolve_left hq)
      · exact .inr ((congrArg Port.st (Dev.port_updPort_other d p q (fun x => { x with st := .down }) hq)).trans h)

/-- The device of which a stratum comes into force: with its memory, where that stays, or without. -/
def Dev.remembered (kept : Bool) : Dev := if kept then d else d.forget

/-- Does memory stay as the stratum comes into force. -/
def Dev.layoutStays (x : Sec) : Bool := d.memKept && d.strat.elim false (sameMemory (d.chooseStrat x).1)

/-- What a stratum leaves as it comes into force. -/
structure Dev.stratTo (x : Sec) (e : Dev) : Prop where
  strat : e.strat = some (d.chooseStrat x).1
  step : e.step = .stratum
  state : e.state = d.state
  flash : e.flash = d.flash
  mem : e.mem = d.mem
  memory : (e.memKept, e.descs, e.rgns, e.journals) = if d.layoutStays x then (true, d.descs, d.rgns, d.journals) else (false, [], [], [])
  ports : ∀ p, p < 16 → e.portEnabled p = true → (e.port p).st = .down

end

theorem State.stratUp_sec (s : State) : s.stratUp = { s with dev := s.stratUp.dev } := rfl

theorem State.stratTo_stratUp (s : State) : s.dev.stratTo s.sec s.stratUp.dev := by
  unfold State.stratUp State.onDev
  dsimp -zeta only
  extract_lets c kept d0 d1 d2 d3
  have h0 : d0.state = s.dev.state ∧ d0.flash = s.dev.flash ∧ d0.mem = s.dev.mem ∧
      (d0.memKept, d0.descs, d0.rgns, d0.journals) =
        if kept then (true, s.dev.descs, s.dev.rgns, s.dev.journals) else (false, [], [], []) := by
    unfold d0
    by_cases hk : kept = true
    · rw [if_pos hk, if_pos hk, (Bool.and_eq_true_iff.mp hk).1]
      exact ⟨rfl, rfl, rfl, rfl⟩
    · rw [if_neg hk, if_neg hk]
      exact ⟨rfl, rfl, rfl, rfl⟩
  obtain ⟨hstate, hflash, hmem, hmemory⟩ := h0
  obtain ⟨hload, hstrat⟩ := d0.stratLoad_spec c.1 c.2
  have h1 : d1.besideStrat = d0.besideStrat ∧ d1.strat = some c.1 := ⟨hload, hstrat⟩
  have h2 := d1.powerDoms_kept d1.loadDoms
  have h3 := d2.portsDown_kept ((List.range 16).filter d2.portEnabled)
  have hrest : d3.besideStrat = d0.besideStrat := h3.1.trans (h2.1.trans h1.1)
  have hstrat3 : d3.strat = some c.1 := h3.2.trans (h2.2.trans h1.2)
  have hstrat2 : d3.strat = d2.strat := h3.2
  have hports : ∀ p, p < 16 → d2.portEnabled p = true → (d3.port p).st = .down := fun p hp h =>
    d2.portsDown_st _ p (.inl (List.mem_filter.mpr ⟨List.mem_range.mpr hp, h⟩))
  have hsame : ∀ p, d3.portEnabled p = d2.portEnabled p := fun p => by
    unfold Dev.portEnabled Dev.portMap
    rw [hstrat2]
  clear_value d3 d2
  exact ⟨hstrat3, rfl, (congrArg Dev.state hrest :).trans hstate, (congrArg Dev.flash hrest :).trans hflash,
    (congrArg Dev.mem hrest :).trans hmem,
    ((congrArg (fun d : Dev => (d.memKept, d.descs, d.rgns, d.journals)) hrest :)).trans hmemory,
    fun p hp h => hports p hp ((hsame p).symm.trans h)⟩

/-! ### What comes before it -/

/-- The steps of firmware before admission touch the flash, the trim codes and the update machine. -/
def Dev.besideFirmware (d : Dev) : Dev := { d with flash := [], trim := [], coarse := false, upd := {} }

theorem Dev.besideFirmware_recPut (d : Dev) (r : BootRec) : (d.recPut r).besideFirmware = d.besideFirmware := by
  have hrest := d.recPut_rest r
  generalize d.recPut r = e at hrest ⊢
  rw [hrest]
  rfl

/-- What firmware keeps of the fuses and of what board management and the boot ROM gave. -/
def Sec.admission (x : Sec) : Bool × Nat := (x.stratRead, x.svnFuse)

theorem Sec.admission_chainBad (x : Sec) (b : Bool) : ({ x with chainBad := b } : Sec).admission = x.admission := rfl

/-- A step of firmware before admission keeps the rest of the device, its flash, and power and board management. -/
structure State.fwTo (s t : State) : Prop where
  rest : t.dev.besideFirmware = s.dev.besideFirmware
  flash : t.dev.flash = s.dev.flash
  sec : t.sec.admission = s.sec.admission
  others : (t.pwr, t.mgmt, t.pending) = (s.pwr, s.mgmt, s.pending)

theorem State.fwTo.trans {s t u : State} (h : s.fwTo t) (k : t.fwTo u) : s.fwTo u :=
  ⟨k.rest.trans h.rest, k.flash.trans h.flash, k.sec.trans h.sec, k.others.trans h.others⟩

section
variable (s : State)

theorem State.fwTo_enrol : s.fwTo s.enrol := by
  unfold State.enrol
  extract_lets o
  split
  · exact ⟨rfl, rfl, rfl, rfl⟩
  · split <;> exact ⟨rfl, rfl, rfl, rfl⟩

theorem State.fwTo_keysCheck : s.fwTo s.keysCheck := by
  unfold State.keysCheck
  extract_lets ok
  exact ⟨rfl, rfl, rfl, rfl⟩

theorem State.fwTo_trimLoad : s.fwTo s.trimLoad := by
  unfold State.trimLoad
  extract_lets ok
  clear_value ok
  exact ⟨rfl, rfl, rfl, rfl⟩

theorem State.fwTo_stagedUp : s.fwTo s.stagedUp := by
  unfold State.stagedUp
  extract_lets v
  clear_value v
  exact ⟨rfl, rfl, rfl, rfl⟩

end

/-- The state with which admission starts. -/
def State.beforeStrat (s : State) : State :=
  let r := s.dev.bootRec
  let d := s.dev.recPut { r with pending := false, resets := s.dev.resets }
  let s : State := { s with dev := d, sec := { s.sec.svnComplete r.pending with chainBad := !s.chainOk } }
  s.enrol.keysCheck.trimLoad.stagedUp

theorem State.firmware_eq (s : State) : s.firmware = s.beforeStrat.stratUp := rfl

theorem State.beforeStrat_spec (s : State) : s.beforeStrat.dev.besideFirmware = s.dev.besideFirmware ∧
    s.beforeStrat.dev.flash = (s.dev.recPut { s.dev.bootRec with pending := false, resets := s.dev.resets }).flash ∧
    s.beforeStrat.sec.admission = (s.sec.svnComplete s.dev.bootRec.pending).admission ∧
    s.beforeStrat.pwr = s.pwr ∧ s.beforeStrat.mgmt = s.mgmt ∧ s.beforeStrat.pending = s.pending := by
  unfold State.beforeStrat
  extract_lets r d _ s1
  obtain ⟨hrest, hflash, hsec, hothers⟩ := s1.fwTo_enrol.trans ((State.fwTo_keysCheck _).trans
    ((State.fwTo_trimLoad _).trans (State.fwTo_stagedUp _)))
  have hput : d.besideFirmware = s.dev.besideFirmware := s.dev.besideFirmware_recPut { s.dev.bootRec with pending := false, resets := s.dev.resets }
  have hdev : s1.dev = d := rfl
  have hadm : s1.sec.admission = (s.sec.svnComplete r.pending).admission :=
    Sec.admission_chainBad (s.sec.svnComplete r.pending) (!s.chainOk)
  have hall : (s1.pwr, s1.mgmt, s1.pending) = (s.pwr, s.mgmt, s.pending) := rfl
  generalize s1.enrol.keysCheck.trimLoad.stagedUp = t at hrest hflash hsec hothers ⊢
  rw [hdev] at hrest hflash
  clear_value s1
  obtain ⟨hpwr, hmgmtPend⟩ := Prod.mk.inj (hothers.trans hall)
  obtain ⟨hmgmt, hpend⟩ := Prod.mk.inj hmgmtPend
  exact ⟨hrest.trans hput, hflash, hsec.trans hadm, hpwr, hmgmt, hpend⟩

theorem Sec.svnComplete_stratRead (x : Sec) (pending : Bool) : (x.svnComplete pending).stratRead = x.stratRead := by
  cases pending <;> rfl

theorem Dev.chooseStrat_safe (d : Dev) (x : Sec) (h : x.stratRead = false) : (d.chooseStrat x).1.safe = true := by
  have hcode : d.admitFlash x = (0x01, 0) := by
    unfold Dev.admitFlash
    exact if_pos (by rw [h]; rfl)
  unfold Dev.chooseStrat
  rw [hcode]
  rfl

theorem exec_firmwareStarted (s : State) (hstep : s.dev.step = .firmware) (hstate : s.dev.state = .boot) :
    exec .firmwareStarted s = .next s.firmware := by
  have hexec : exec .firmwareStarted s = execFirmwareStarted s := rfl
  rw [hexec, execFirmwareStarted, if_pos (by rw [hstep, hstate]; rfl)]

/-- Settles O11, from what each part of step 4 keeps: the record read back, what precedes admission, the stratum coming into force. -/
theorem firmwareBringsAStratumIntoForce : Obligations.FirmwareBringsAStratumIntoForce := by
  intro s hstep hstate
  have hexec := exec_firmwareStarted s hstep hstate
  obtain ⟨brest, bflash, badm, bpwr, bmgmt, bpend⟩ := s.beforeStrat_spec
  have hfuses := s.safeTo_firmware.fuses
  have hto := s.beforeStrat.stratTo_stratUp
  have hsec : s.firmware = { s.beforeStrat with dev := s.firmware.dev } := s.beforeStrat.stratUp_sec
  rw [← s.firmware_eq] at hto
  generalize s.firmware = t at hexec hfuses hto hsec
  generalize s.beforeStrat = b at brest bflash badm bpwr bmgmt bpend hto hsec
  obtain ⟨hread, hfuse⟩ := Prod.mk.inj badm
  rw [s.sec.svnComplete_stratRead s.dev.bootRec.pending] at hread
  have hflash : t.dev.flash = (s.dev.recPut { s.dev.bootRec with pending := false, resets := s.dev.resets }).flash := hto.flash.trans bflash
  have hsecs : t.sec = b.sec := (congrArg State.sec hsec :)
  have hkept : b.dev.memKept = s.dev.memKept := (congrArg Dev.memKept brest :)
  have hmemory : (b.dev.descs, b.dev.rgns, b.dev.journals) = (s.dev.descs, s.dev.rgns, s.dev.journals) :=
    (congrArg (fun d : Dev => (d.descs, d.rgns, d.journals)) brest :)
  refine ⟨t, hexec, hto.step, hto.state.trans ((congrArg Dev.state brest :).trans hstate), ?_, ?_, ?_, ?_, hfuses,
    (congrArg State.pwr hsec :).trans bpwr, (congrArg State.mgmt hsec :).trans bmgmt, (congrArg State.pending hsec :).trans bpend, ?_,
    hto.mem.trans (congrArg Dev.mem brest :), ?_, ?_, hto.ports⟩
  · rw [hto.strat]
    rfl
  · intro i hi
    rw [hflash]
    exact s.dev.recPut_other _ i hi
  · intro hres hseq
    rw [Dev.bootRec_congr _ hflash]
    exact s.dev.bootRec_recPut _ hseq hres
  · intro hp
    rw [hsecs, hfuse, hp]
    rfl
  · intro hr
    rw [hto.strat]
    exact Dev.chooseStrat_safe _ _ (hread.trans hr)
  · intro hk
    have hlost : b.dev.layoutStays b.sec = false := by
      unfold Dev.layoutStays
      rw [hkept, hk]
      rfl
    have hm := hto.memory
    rw [hlost] at hm
    simpa using hm
  · intro hk
    have hm := hto.memory
    cases hl : b.dev.layoutStays b.sec with
    | false =>
      rw [hl] at hm
      exact Bool.noConfusion ((congrArg Prod.fst hm :).symm.trans hk)
    | true =>
      rw [hl] at hm
      have hm2 := (congrArg Prod.snd hm :).trans hmemory
      simpa using hm2

end Sys2Proof.Machine

/-! PROOF. The fill of a layer into its window slots (R88, R89). -/
namespace Sys2Proof.Machine

/-! ### The slots of a ring -/

/-- Slots of which those at some positions are changed. -/
def slotsAt (is : List Nat) (f : WSlot → WSlot) (l : List WSlot) : List WSlot :=
  ((List.range l.length).zip l).map fun (iw : Nat × WSlot) => if is.contains iw.1 then f iw.2 else iw.2

theorem slotsAt_get (is : List Nat) (f : WSlot → WSlot) (l : List WSlot) (i : Nat) :
    (slotsAt is f l)[i]? = l[i]?.map fun w => if i ∈ is then f w else w := by
  unfold slotsAt
  rw [List.getElem?_map, List.zip, List.getElem?_zipWith]
  by_cases hi : i < l.length
  · rw [List.getElem?_range hi, List.getElem?_eq_getElem hi]
    simp
  · rw [List.getElem?_eq_none (l := l) (Nat.le_of_not_lt hi)]
    simp

theorem slotsAt_length (is : List Nat) (f : WSlot → WSlot) (l : List WSlot) : (slotsAt is f l).length = l.length := by
  simp [slotsAt]

/-- A slot that no engine can fill. -/
def WSlot.lost (w : WSlot) (l : Nat) : WSlot := { w with layer := some l, ready := false, bad := true }

/-- The slots of a queued fill that no engine makes. -/
def Plan.unfill (x : Plan) (f : Nat × Nat) : Plan := { x with slots := slotsAt ((x.ring f.1 f.2).map (·.1)) (fun w => w.lost f.1) x.slots }

theorem Plan.unfilled_eq (x : Plan) : x.unfilled = x.fills.foldl Plan.unfill x := rfl

/-- Every slot at i is bad and not READY. -/
def Plan.badAt (x : Plan) (i : Nat) : Prop := ∀ w, x.slots[i]? = some w → w.bad = true ∧ w.ready = false

theorem Plan.badAt_unfill_ring (x : Plan) (f : Nat × Nat) (i : Nat) (h : i ∈ (x.ring f.1 f.2).map (·.1)) : (x.unfill f).badAt i := by
  intro w hw
  unfold Plan.unfill at hw
  rw [slotsAt_get, Option.map_eq_some_iff] at hw
  obtain ⟨v, -, rfl⟩ := hw
  rw [if_pos h]
  exact ⟨rfl, rfl⟩

theorem Plan.badAt_unfill_kept (x : Plan) (f : Nat × Nat) (i : Nat) (h : x.badAt i) : (x.unfill f).badAt i := by
  by_cases hi : i ∈ (x.ring f.1 f.2).map (·.1)
  · exact x.badAt_unfill_ring f i hi
  · intro w hw
    unfold Plan.unfill at hw
    rw [slotsAt_get, Option.map_eq_some_iff] at hw
    obtain ⟨v, hv, rfl⟩ := hw
    rw [if_neg hi]
    exact h v hv

theorem Plan.badAt_unfills (l : List (Nat × Nat)) (x : Plan) (i : Nat) (h : x.badAt i) : (l.foldl Plan.unfill x).badAt i := by
  induction l generalizing x with
  | nil => exact h
  | cons f t ih => exact ih _ (x.badAt_unfill_kept f i h)

section
variable (d : Dev)

/-! ### What charges and cleared slots leave -/

theorem Dev.charge_setq (m : Nat) (l : List (Nat × Nat)) : d.charge m l = { d with setq := (d.charge m l).setq } :=
  (congrArg (fun e : Dev => ({ e with setq := (d.charge m l).setq } : Dev))
    (Dev.each_same (fun e : Dev => ({ e with setq := [] } : Dev)) l (fun d c => d.updSq c.1 fun q => { q with out := q.out.upd m 0 (· + c.2) })
      (fun _ _ => rfl) d) :)

theorem Dev.discharge_setq (m : Nat) (l : List (Nat × Nat)) : d.discharge m l = { d with setq := (d.discharge m l).setq } :=
  (congrArg (fun e : Dev => ({ e with setq := (d.discharge m l).setq } : Dev))
    (Dev.each_same (fun e : Dev => ({ e with setq := [] } : Dev)) l (fun d c => d.updSq c.1 fun q => { q with out := q.out.upd m 0 (· - c.2) })
      (fun _ _ => rfl) d) :)

theorem Dev.beyondRelease_slotClear (w : WSlot) : (d.slotClear w).beyondRelease = d.beyondRelease := by
  unfold Dev.slotClear
  extract_lets e
  split
  · rfl
  · exact (Dev.beyondRelease_storedDec _ _ _ _).trans (d.beyondRelease_storedDec _ _ _)

/-- One extent of a fill, where it has a plain home. -/
theorem Dev.fillSlot_copied (p j l : Nat) (ph : Phys) (i f : Nat) (w : WSlot) (y : Nat) (hw : (d.plan p).slots[i]? = some w)
    (hy : mapAt (d.rgn (d.plan p).region).runs f = some y) (hr : (d.desc y).reload = false) (hc : (d.desc y).codec = false) (good : Bool)
    (d2 : Dev) (hcopy : (d.slotClear w).copyBlocks (loessAgent j) ph y ⟨false, w.set, w.loc, 0⟩ (d.desc y).written = (good, d2)) :
    d.fillSlot p j l ph (i, f) = d2.updPlan p fun x =>
      x.setSlot i ⟨w.set, w.loc, false, some l, y, !good, (d.desc y).tensor, 0, if good then (d.desc y).len else 0⟩ := by
  have hslot : (d.plan p).slotAt i = w := by
    unfold Plan.slotAt
    rw [List.getD_eq_getElem?_getD, hw]
    rfl
  have hclear := d.beyondRelease_slotClear w
  have hrgn : ∀ r, (d.slotClear w).rgn r = d.rgn r := fun r => (congrArg (fun e : Dev => e.rgn r) hclear :)
  have hdesc : (d.slotClear w).desc y = d.desc y := (congrArg (fun e : Dev => e.desc y) hclear :)
  unfold Dev.fillSlot
  dsimp only
  rw [hslot, hrgn, hy]
  dsimp only
  rw [hdesc, hr, if_neg Bool.false_ne_true, hcopy, hc]
  simp

end

section
variable (s : State) (p : Fin 64)

theorem State.windowFill_runs (ph : Phys) (h : s.dev.loessRuns = true) :
    exec (.windowFill p ph) s = .next { s with dev := (s.dev.fillStart p.val ph).finish } :=
  State.devEvent_holds Dev.loessRuns (fun d => d.fillStart p.val ph) s h

theorem State.windowFillComplete_runs (j : Nat) (h : s.dev.loessRuns = true) (he : (s.dev.plan p.val).engine = some j)
    (hl : s.dev.live (loessDom j) = true) :
    exec (.windowFillComplete p) s = .next { s with dev := (s.dev.fillEnd p.val).finish } :=
  State.devEvent_holds (fun d => d.loessRuns && (d.plan p.val).engine.elim false fun j => d.live (loessDom j)) (fun d => d.fillEnd p.val) s
    (by simp [h, he, hl])

end

section
variable (d : Dev) (p l q : Nat) (t : List (Nat × Nat)) (hf : (d.plan p).fills = (l, q) :: t)
include hf

theorem Dev.fillStart_unfilled (ph : Phys) (hx : (d.plan p).filling = false)
    (he : d.enginesOf ((d.set? (d.plan p).set).elim 0 (·.group)) = []) : d.fillStart p ph = d.updPlan p Plan.unfilled := by
  unfold Dev.fillStart
  dsimp only
  rw [hf]
  dsimp only
  rw [hx, he, if_neg (by decide)]
  rfl

theorem Dev.fillEnd_spec (j : Nat) (hx : (d.plan p).filling = true) (hj : (d.plan p).engine = some j) :
    d.fillEnd p = { d with plans := (d.fillEnd p).plans, setq := (d.fillEnd p).setq } ∧
    (d.fillEnd p).plan p = { d.plan p with
      fills := t, filling := false, charge := [], engine := none,
      slots := slotsAt (((d.plan p).ring l q).map (·.1)) (fun w => { w with ready := !w.bad }) (d.plan p).slots } := by
  have hd := d.discharge_setq (loessMaster j) (d.plan p).charge
  unfold Dev.fillEnd
  dsimp only
  rw [hf]
  dsimp only
  rw [hx, hj, if_neg (by decide)]
  dsimp only [Option.elim]
  generalize d.discharge (loessMaster j) (d.plan p).charge = e at hd ⊢
  have hplan : e.plan p = d.plan p := (congrArg (fun e : Dev => e.plan p) hd :)
  rw [Dev.plan_updPlan_same, hplan]
  refine ⟨?_, rfl⟩
  rw [hd]
  rfl

/-- The device on which an engine makes a fill: its turn taken, what it moves charged. -/
def Dev.fillBegun (d : Dev) (p grp j : Nat) (c : List (Nat × Nat) × List (Nat × Nat)) : Dev :=
  ((({ d with rr := d.rr.upd grp 0 (· + 1) }).charge (loessMaster j) c.1).charge (loessMaster j) c.2).updPlan p fun x =>
    { x with filling := true, engine := some j, charge := c.2 }

omit hf in
theorem Dev.fillBegun_spec (grp j : Nat) (c : List (Nat × Nat) × List (Nat × Nat)) :
    (d.fillBegun p grp j c).plan p = { d.plan p with filling := true, engine := some j, charge := c.2 } ∧
    (∀ r, (d.fillBegun p grp j c).rgn r = d.rgn r) ∧ ∀ y, (d.fillBegun p grp j c).desc y = d.desc y := by
  unfold Dev.fillBegun
  have h1 := ({ d with rr := d.rr.upd grp 0 (· + 1) } : Dev).charge_setq (loessMaster j) c.1
  generalize ({ d with rr := d.rr.upd grp 0 (· + 1) } : Dev).charge (loessMaster j) c.1 = e1 at h1 ⊢
  have h2 := e1.charge_setq (loessMaster j) c.2
  generalize e1.charge (loessMaster j) c.2 = e2 at h2 ⊢
  have hplan : e2.plan p = d.plan p := (congrArg (fun e : Dev => e.plan p) h2 :).trans (congrArg (fun e : Dev => e.plan p) h1 :)
  refine ⟨?_, fun r => ?_, fun y => ?_⟩
  · rw [Dev.plan_updPlan_same, hplan]
  · exact (congrArg (fun e : Dev => e.rgn r) h2 :).trans (congrArg (fun e : Dev => e.rgn r) h1 :)
  · exact (congrArg (fun e : Dev => e.desc y) h2 :).trans (congrArg (fun e : Dev => e.desc y) h1 :)

theorem Dev.fillStart_begun (ph : Phys) (j grp : Nat) (c : List (Nat × Nat) × List (Nat × Nat)) (hx : (d.plan p).filling = false)
    (hg : (d.set? (d.plan p).set).elim 0 (·.group) = grp) (he : (d.enginesOf grp)[d.rr.get grp 0 % max 1 (d.enginesOf grp).length]? = some j)
    (hc : d.fillCharge (d.plan p) ((d.plan p).ring l q) = c)
    (hok : d.ceilOk (loessMaster j) (c.2.foldl (fun o c => addCharge o c.1 c.2) c.1) = true)
    (hs : ∀ k ∈ c.1 ++ c.2, d.setStopped k.1 = false) :
    d.fillStart p ph = ((d.fillBegun p grp j c).each ((d.plan p).ring l q) fun d si => d.fillSlot p j l ph si).discharge (loessMaster j) c.1 := by
  have hgo : ¬ ((!d.ceilOk (loessMaster j) (c.2.foldl (fun o c => addCharge o c.1 c.2) c.1) || (c.1 ++ c.2).any fun c => d.setStopped c.1) =
      true) := by
    rw [hok, List.any_eq_false.mpr fun k hk => by rw [hs k hk]; exact Bool.false_ne_true]
    decide
  unfold Dev.fillStart
  dsimp only
  rw [hf]
  dsimp only
  rw [hx, if_neg Bool.false_ne_true, hg, he]
  dsimp only
  rw [hc, if_neg hgo]
  rfl

end

/-- Settles O21, clause by clause: no engine left, a fill that an engine takes, the completion of a fill. -/
theorem windowFills : Obligations.WindowFills := by
  intro s p l q t hruns hf x grp es c
  refine ⟨fun ph hx he => ?_, fun ph j hx he hok hs => ?_, fun j hx hj hl => ?_⟩
  · refine ⟨s.dev.updPlan p.val Plan.unfilled, ?_, rfl, fun i w hi hw => ?_⟩
    · rw [s.windowFill_runs p ph hruns, s.dev.fillStart_unfilled p.val l q t hf ph hx he]
    · rw [Dev.plan_updPlan_same, Plan.unfilled_eq, hf] at hw
      exact Plan.badAt_unfills t _ i ((s.dev.plan p.val).badAt_unfill_ring (l, q) i hi) w hw
  · have hstart := s.dev.fillStart_begun p.val l q t hf ph j grp c hx rfl he rfl hok hs
    refine ⟨⟨_, s.windowFill_runs p ph hruns⟩, ?_⟩
    intro i f w y good d2 hring hw hy hr hc d1 hcopy
    refine ⟨_, s.windowFill_runs p ph hruns, ?_⟩
    obtain ⟨hplan, hrgn, hdesc⟩ := s.dev.fillBegun_spec p.val grp j c
    have hbegun : s.dev.fillBegun p.val grp j c = d1 := rfl
    rw [hstart, hring, hbegun]
    rw [hbegun] at hplan hrgn hdesc
    clear_value d1
    have hcopied := d1.fillSlot_copied p.val j l ph i f w y (by rw [hplan]; exact hw) (by rw [hplan, hrgn]; exact hy)
      (by rw [hdesc]; exact hr) (by rw [hdesc]; exact hc) good d2 (by rw [hdesc]; exact hcopy)
    rw [hdesc] at hcopied
    have hone : (d1.each [(i, f)] fun d si => d.fillSlot p.val j l ph si) = d1.fillSlot p.val j l ph (i, f) := rfl
    rw [hone, hcopied]
    generalize hv : (⟨w.set, w.loc, false, some l, y, !good, (s.dev.desc y).tensor, 0, if good then (s.dev.desc y).len else 0⟩ : WSlot) = v
    have hd := (d2.updPlan p.val fun x => x.setSlot i v).discharge_setq (loessMaster j) c.1
    generalize (d2.updPlan p.val fun x => x.setSlot i v).discharge (loessMaster j) c.1 = e at hd ⊢
    refine ⟨(congrArg Dev.mem hd :), ?_⟩
    have hset : (d2.updPlan p.val fun x => x.setSlot i v).plan p.val = (d2.plan p.val).setSlot i v := Dev.plan_updPlan_same _ _ _
    have hend : e.plan p.val = (d2.updPlan p.val fun x => x.setSlot i v).plan p.val := (congrArg (fun e : Dev => e.plan p.val) hd :)
    rw [hend, hset]
    rfl
  · obtain ⟨hrest, hplan⟩ := s.dev.fillEnd_spec p.val l q t hf j hx hj
    refine ⟨_, s.windowFillComplete_runs p j hruns hj hl, hrest, ?_, ?_, ?_, fun i => ?_⟩
    all_goals rw [hplan]
    exact slotsAt_get (((s.dev.plan p.val).ring l q).map (·.1)) (fun w => { w with ready := !w.bad }) (s.dev.plan p.val).slots i

end Sys2Proof.Machine

/-! PROOF. The issue of a word: it runs, or stops its program (R172 to R176). -/
namespace Sys2Proof.Machine

section
variable (d : Dev) (b c : Nat)

/-- The device that issues a word of context c: the slot of its bed, and its yield taken where nothing runs on the bed. -/
def Dev.issuing : Dev :=
  let e := d.updBed b fun y => { y with curSlot := (d.ctx c).slot.getD y.curSlot }
  if (d.bed b).run.isNone && (d.bed b).pend.isNone then e.updCtx c fun x => { x with yield := false } else e

theorem Dev.liveCores_issuing : (d.issuing b c).liveCores b = d.liveCores b := by
  unfold Dev.issuing
  extract_lets e
  split <;> rfl

variable (ahead : Nat) (dis1 dis2 : List (Nat × Nat)) (ph : Phys)

theorem Dev.issue_fenced (h : d.liveCores b = []) : d.issue b c ahead dis1 dis2 ph =
    ((d.issuing b c).updCtx c fun x => { x with stop := none }).wordStop c 0x10C (d.ctx c).pc 0 := by
  have hlive := d.liveCores_issuing b c
  unfold Dev.issuing at hlive ⊢
  unfold Dev.issue
  dsimp only at hlive ⊢
  rw [hlive, h]
  rfl

/-- The device once the word at PC is asked for. -/
def Dev.fetched : Dev := (d.issuing b c).fetchAhead b c ph (d.ctx c).pc.toNat ahead

/-- Clay accesses of the scalar slots of a word. -/
def Ctx.accesses (x : Ctx) (w : Gran) : List (Nat × Nat × Bool) :=
  if x.resumeT then [] else ([slotOf (w.toNat % 2 ^ 64), slotOf (bits w.toNat 64 64)] : List Slot).filterMap fun t => t.access x

/-- Does the tensor slot of a word run. -/
def Ctx.tensorRuns (x : Ctx) (w : Gran) : Bool :=
  let ts : BitVec 128 := w.extractLsb' 128 128
  slotTop ts ≠ 0 && (x.resumeT || x.pGet (sf ts 118 116) != bitOf ts.toNat 119)

/-- Do the encoding checks refuse a word (R172). -/
def Ctx.refuses (x : Ctx) (w : Gran) : Bool :=
  let t0 := slotOf (w.toNat % 2 ^ 64)
  let t1 := slotOf (bits w.toNat 64 64)
  !(slotsOk t0 t1 && tslotOk (w.extractLsb' 128 128)) || (!x.resumeT && (t0.badJump x || t1.badJump x))

/-- The issue of a word w that is fetched, on the device d: x is its context, busy whether an operation is pending. -/
def Dev.wordIssued (x : Ctx) (busy : Bool) (w : Gran) : Dev :=
  if x.refuses w then d.wordStop c 0x110 x.pc 0
  else if (x.tensorRuns w && busy) || (x.accesses w).any (d.accessWaits b) then d
  else
    let (ok, e) := if x.tensorRuns w || (x.accesses w).any (·.2.2) then d.signatures b dis1 dis2 else (true, d)
    if !ok then e.wordStop c 0x111 x.pc 0 else (e.wordRun b c ph w x.resumeT (x.tensorRuns w)).wordBoundary b

/-- Of a live bed a word is issued once it is fetched. -/
theorem Dev.issue_live (hl : d.liveCores b ≠ []) : d.issue b c ahead dis1 dis2 ph =
    if (d.fetched b c ahead ph).buffered b (d.ctx c).pc.toNat = false then d.fetched b c ahead ph
    else match (d.fetched b c ahead ph).wordAt b (d.ctx c).pc.toNat with
      | (none, st) => (d.fetched b c ahead ph).wordStop c 0x112 (d.ctx c).pc st
      | (some w, _) => (d.fetched b c ahead ph).wordIssued b c dis1 dis2 ph (d.ctx c) (d.bed b).pend.isSome w := by
  have hlive : ((d.issuing b c).liveCores b).isEmpty = false := by
    rw [d.liveCores_issuing b c]
    exact List.isEmpty_eq_false_iff.mpr hl
  unfold Dev.issue
  extract_lets x y e d0 d1
  have hd0 : d0 = d.issuing b c := rfl
  rw [hd0, hlive, if_neg Bool.false_ne_true]
  have hd1 : d1 = d.fetched b c ahead ph := rfl
  rw [hd1]
  cases (d.fetched b c ahead ph).buffered b x.pc.toNat with
  | false => rfl
  | true => rfl

section
variable (x : Ctx) (busy : Bool) (w : Gran)

theorem Dev.wordIssued_refused (h : x.refuses w = true) : d.wordIssued b c dis1 dis2 ph x busy w = d.wordStop c 0x110 x.pc 0 := if_pos h

section
variable (hr : x.refuses w = false) (hb : (x.tensorRuns w && busy) = false) (ha : (x.accesses w).any (d.accessWaits b) = false)
include hr hb ha

/-- A word whose slots neither store nor start a tensor operation runs without a comparison. -/
theorem Dev.wordIssued_plain (ht : x.tensorRuns w = false) (hs : (x.accesses w).any (·.2.2) = false) :
    d.wordIssued b c dis1 dis2 ph x busy w = (d.wordRun b c ph w x.resumeT false).wordBoundary b := by
  unfold Dev.wordIssued
  rw [hr, hb, ha, ht, hs]
  rfl

/-- Any other word runs where the cores agree on it. -/
theorem Dev.wordIssued_compared (hc : x.tensorRuns w = true ∨ (x.accesses w).any (·.2.2) = true) (ok : Bool) (e : Dev)
    (hsig : d.signatures b dis1 dis2 = (ok, e)) : d.wordIssued b c dis1 dis2 ph x busy w =
      if ok then (e.wordRun b c ph w x.resumeT (x.tensorRuns w)).wordBoundary b else e.wordStop c 0x111 x.pc 0 := by
  have hcmp : (x.tensorRuns w || (x.accesses w).any (·.2.2)) = true := Bool.or_eq_true_iff.mpr hc
  unfold Dev.wordIssued
  rw [hr, hb, ha, hcmp, hsig]
  cases ok <;> rfl

end

end

end

theorem State.wordIssue_runs (s : State) (b : Fin 8) (c ahead : Nat) (dis1 dis2 : List (Nat × Nat)) (ph : Phys) (h : s.dev.issues b.val = some c) :
    exec (.wordIssue b ahead dis1 dis2 ph) s = .next { s with dev := (s.dev.issue b.val c ahead dis1 dis2 ph).finish } := by
  have hrun := State.devEvent_holds (fun d => (d.issues b.val).isSome)
    (fun d => match d.issues b.val with
      | none => d
      | some c => d.issue b.val c ahead dis1 dis2 ph) s (by simp only [h, Option.isSome_some])
  simp only [h] at hrun
  exact hrun

/-- Settles O25: a word is fetched, then issued; each outcome of the two is one clause. -/
theorem wordIssueRunsOrStops : Obligations.WordIssueRunsOrStops := by
  intro s b c ahead dis1 dis2 ph hi x e d0 d1 answers
  have hexec := s.wordIssue_runs b c ahead dis1 dis2 ph hi
  have hd1 : s.dev.fetched b.val c ahead ph = d1 := rfl
  refine ⟨fun hl => ?_, fun hl hf => ?_, fun hl hf => ?_⟩
  · rw [s.dev.issue_fenced b.val c ahead dis1 dis2 ph hl] at hexec
    exact hexec
  all_goals
    rw [s.dev.issue_live b.val c ahead dis1 dis2 ph hl, hd1] at hexec
  · rw [if_pos hf] at hexec
    exact hexec
  rw [if_neg (by rw [hf]; decide)] at hexec
  refine ⟨fun st hw => ?_, ?_⟩
  · rw [hw] at hexec
    exact hexec
  intro w st hw t0 t1 ts legal jumps texec acc
  rw [hw] at hexec
  have hrefuses : x.refuses w = true ↔ ¬ legal ∨ jumps := by
    unfold Ctx.refuses
    rw [Bool.or_eq_true_iff, Bool.not_eq_true', Bool.eq_false_iff]
  have hruns : x.tensorRuns w = texec := rfl
  have haccs : x.accesses w = acc := rfl
  refine ⟨fun hbad => ?_, fun hlegal hjumps hbusy hacc => ?_⟩
  · exact hexec.trans (congrArg (fun d : Dev => (.next { s with dev := d.finish } : Host.Outcome State Fault Refusal))
      (d1.wordIssued_refused b.val c dis1 dis2 ph x _ w (hrefuses.mpr hbad)))
  · have hr : x.refuses w = false :=
      Bool.eq_false_iff.mpr fun h => (hrefuses.mp h).elim (fun k => k hlegal) hjumps
    rw [← hruns] at hbusy ⊢
    rw [← haccs] at hacc ⊢
    refine ⟨fun ht hs => ?_, fun ok d2 hcmp hsig => ?_⟩
    · exact hexec.trans (congrArg (fun d : Dev => (.next { s with dev := d.finish } : Host.Outcome State Fault Refusal))
        (d1.wordIssued_plain b.val c dis1 dis2 ph x _ w hr hbusy hacc ht hs))
    · have hcompared := d1.wordIssued_compared b.val c dis1 dis2 ph x _ w hr hbusy hacc hcmp ok d2 hsig
      have hend := hexec.trans (congrArg (fun d : Dev => (.next { s with dev := d.finish } : Host.Outcome State Fault Refusal)) hcompared)
      constructor
      · rintro rfl
        exact hend
      · rintro rfl
        exact hend

end Sys2Proof.Machine

/-! PROOF. Context switches and the timeout of a sleep (R144, R145, R184, R188). -/
namespace Sys2Proof.Machine

/-! ### A pending operation that is dropped -/

theorem row_BED_OPS_apart (b : Fin 8) : ∀ q, q < 16 → row_BED_OPS.addr b.val ≠ row_HIF_PORT_CNT.addr q := by
  revert b
  decide

section
variable (d : Dev)

/-- The device without what dropping an operation writes, with the fences of sets and the counters of bed b. -/
def Dev.keptByDrop (b : Nat) : Dev × (Nat → Bool) × Word := (d.beyondRelease, d.setFenced, d.rd row_BED_OPS b)

theorem Dev.setFenced_updSq (k : Nat) (f : SetQ → SetQ) (hf : ∀ q, (f q).fenced = q.fenced) : (d.updSq k f).setFenced = d.setFenced := by
  funext j
  unfold Dev.setFenced
  by_cases h : j = k
  · rw [h, Dev.sq_updSq_same]
    exact hf _
  · rw [Dev.sq_updSq_other _ _ _ _ h]

theorem Dev.keptByDrop_discharge (b m : Nat) (l : List (Nat × Nat)) : (d.discharge m l).keptByDrop b = d.keptByDrop b :=
  Dev.each_same (fun d : Dev => d.keptByDrop b) l (fun d c => d.updSq c.1 fun q => { q with out := q.out.upd m 0 (· - c.2) })
    (fun e c => congrArg (fun g => (e.beyondRelease, g, e.rd row_BED_OPS b)) (e.setFenced_updSq c.1 _ fun _ => rfl)) d

theorem Dev.keptByDrop_event (b : Fin 8) (dst : Option Nat) (code ctx data : Nat) :
    (d.event dst code ctx data).keptByDrop b.val = d.keptByDrop b.val := by
  have hev := d.eventsOnly_event dst code ctx data
  have hrd : (d.event dst code ctx data).rd row_BED_OPS b.val = d.rd row_BED_OPS b.val := hev.regs _ _ (row_BED_OPS_apart b)
  exact Prod.ext (d.beyondRelease_events hev) (Prod.ext (congrArg Dev.setFenced hev.rest :) hrd)

theorem Dev.keptByDrop_refsDec (b : Fin 8) (t : Nat) (s : Bool) (n : Nat) : (d.refsDec t s n).keptByDrop b.val = d.keptByDrop b.val := by
  unfold Dev.refsDec
  have h0 : (d.updTensor t fun x => x.setSlot s { x.slot s with refs := (x.slot s).refs - n }).keptByDrop b.val = d.keptByDrop b.val := rfl
  generalize (d.updTensor t fun x => x.setSlot s { x.slot s with refs := (x.slot s).refs - n }) = e at h0 ⊢
  unfold Dev.slotIdle
  extract_lets g e1
  have h1 : e1.keptByDrop b.val = e.keptByDrop b.val := rfl
  split
  · split
    · exact (e1.keptByDrop_event b _ _ _ _).trans (h1.trans h0)
    · exact h1.trans h0
  · exact h0

/-- A pending operation is dropped: its charges and its references go, and its bed has none pending. -/
structure Dev.dropTo (b : Fin 8) (e : Dev) : Prop where
  kept : e.keptByDrop b.val = ({ d with beds := e.beds } : Dev).keptByDrop b.val
  pend : (e.bed b.val).pend = none
  bed : (e.bed b.val).run = (d.bed b.val).run ∧ (e.bed b.val).cur = (d.bed b.val).cur
  others : ∀ k, k ≠ b.val → e.bed k = d.bed k

theorem Dev.dropTo_pendDrop (b : Fin 8) : d.dropTo b (d.pendDrop b.val) := by
  unfold Dev.pendDrop
  split
  next h => exact ⟨rfl, h, ⟨rfl, rfl⟩, fun _ _ => rfl⟩
  next o h =>
  extract_lets e1
  have h1 : e1.keptByDrop b.val = d.keptByDrop b.val :=
    Dev.each_same (fun d : Dev => d.keptByDrop b.val) o.srcs (fun d s => d.discharge (bedMaster b.val) s.2.charged)
      (fun e s => e.keptByDrop_discharge b.val _ _) d
  have h2 : (e1.refsRelease o.refs).keptByDrop b.val = d.keptByDrop b.val :=
    (Dev.each_same (fun d : Dev => d.keptByDrop b.val) o.refs (fun d r => d.refsDec (r.1 / 2) (r.1 % 2 == 1) r.2)
      (fun e r => e.keptByDrop_refsDec b _ _ _) e1).trans h1
  generalize e1.refsRelease o.refs = e2 at h2 ⊢
  obtain ⟨hrest, hrest2⟩ := Prod.mk.inj h2
  obtain ⟨hfenced, hrd⟩ := Prod.mk.inj hrest2
  have hbeds : e2.beds = d.beds := (congrArg Dev.beds hrest :)
  have hbed : ∀ k, e2.bed k = d.bed k := fun k => congrArg (fun t : Tab Bed => t.get k {}) hbeds
  have hsame : (e2.updBed b.val fun y => { y with pend := none, sync := false }).bed b.val = { d.bed b.val with pend := none, sync := false } :=
    (Dev.bed_updBed_same _ _ _).trans (congrArg (fun y : Bed => ({ y with pend := none, sync := false } : Bed)) (hbed b.val))
  refine ⟨?_, (congrArg Bed.pend hsame :), ⟨(congrArg Bed.run hsame :), (congrArg Bed.cur hsame :)⟩,
    fun k hk => (Dev.bed_updBed_other _ _ _ _ hk).trans (hbed k)⟩
  exact Prod.ext (congrArg (fun x : Dev => ({ x with beds := (e2.updBed b.val fun y => { y with pend := none, sync := false }).beds } : Dev)) hrest :)
    (Prod.ext hfenced hrd)

/-! ### The state of a context in its control area (R188) -/

/-- Where granule j of the saved state of context c stands. -/
def Dev.savePlace (c j : Nat) : Option (Nat × Nat) := d.fixedPlace (d.portPart (d.ctx c).port) (ctrlOff + 512 * c + 128 + j)

/-- Two granules of one saved state stand apart. -/
theorem Dev.savePlace_apart (c i j : Nat) (g h : Nat × Nat) (hg : d.savePlace c i = some g) (hh : d.savePlace c j = some h) (hij : i ≠ j) :
    granKey g.1 g.2 ≠ granKey h.1 h.2 := by
  unfold Dev.savePlace Dev.fixedPlace at hg hh
  cases hs : d.strat with
  | none => rw [hs] at hg; exact nomatch hg
  | some st =>
    cases hp : d.partMeta (d.portPart (d.ctx c).port) with
    | none => rw [hs, hp] at hg; exact nomatch hg
    | some s =>
      cases hS : d.set? s with
      | none => rw [hs, hp] at hg; simp [hS] at hg
      | some S =>
        rw [hs, hp] at hg hh
        simp only [Option.bind_some, hS] at hg hh
        split at hg
        · split at hh
          · obtain rfl := Option.some.inj hg
            obtain rfl := Option.some.inj hh
            unfold granKey
            omega
          · exact nomatch hh
        · exact nomatch hg

/-- Everything but memory. -/
def Dev.besideMem : Dev := { d with mem := [] }

theorem Dev.besideMem_withMem (m : List Host.Cell) : ({ d with mem := m } : Dev).besideMem = d.besideMem := rfl

theorem Dev.besideMem_memWrite (s ga : Nat) (g : Gran) : (d.memWrite s ga g).besideMem = d.besideMem := by
  rw [Dev.memWrite, Dev.memPut_eq]
  exact d.besideMem_withMem _

/-- Granule j of a context's saved state is written. -/
def Dev.saveGran (c : Nat) (x : Ctx) (left : Nat) (e : Dev) (j : Nat) : Dev :=
  (d.savePlace c j).elim e fun p => if d.setFenced p.1 then e else e.memWrite p.1 p.2 (x.image left j)

theorem Dev.besideMem_saveGran (c : Nat) (x : Ctx) (left : Nat) (e : Dev) (j : Nat) :
    (d.saveGran c x left e j).besideMem = e.besideMem := by
  unfold Dev.saveGran
  cases d.savePlace c j with
  | none => rfl
  | some p =>
    dsimp only [Option.elim]
    split
    · rfl
    · exact e.besideMem_memWrite _ _ _

theorem Dev.saves_eq (c : Nat) (x : Ctx) (hx : x.port = (d.ctx c).port) (left : Nat) (l : List Nat) (e : Dev) (he : e.besideMem = d.besideMem) :
    (e.each l fun d j => (d.fixedPlace (d.portPart x.port) (ctrlOff + 512 * c + 128 + j)).elim d fun p =>
      if d.setFenced p.1 then d else d.memWrite p.1 p.2 (x.image left j)) = e.each l (d.saveGran c x left) := by
  induction l generalizing e with
  | nil => rfl
  | cons j t ih =>
    have hone : ((e.fixedPlace (e.portPart x.port) (ctrlOff + 512 * c + 128 + j)).elim e fun p =>
        if e.setFenced p.1 then e else e.memWrite p.1 p.2 (x.image left j)) = d.saveGran c x left e j := by
      have hplace : e.fixedPlace (e.portPart x.port) (ctrlOff + 512 * c + 128 + j) = d.savePlace c j := by
        rw [hx]
        exact (congrArg (fun e : Dev => e.fixedPlace (e.portPart (d.ctx c).port) (ctrlOff + 512 * c + 128 + j)) he :)
      have hfenced : e.setFenced = d.setFenced := (congrArg Dev.setFenced he :)
      rw [hplace, hfenced]
      rfl
    refine Eq.trans ?_ (ih (d.saveGran c x left e j) ((d.besideMem_saveGran c x left e j).trans he))
    rw [← hone]
    rfl

theorem Dev.ctrlSave_eq (c : Nat) : d.ctrlSave c = d.each (List.range 64) (d.saveGran c (d.ctx c) (d.sleepLeft c)) :=
  d.saves_eq c (d.ctx c) rfl (d.sleepLeft c) (List.range 64) d rfl

/-- A byte outside a granule written reads as before. -/
theorem Dev.mem_memWrite_other (s ga : Nat) (g : Gran) (a : Nat) (h : a < granKey s ga * 64 ∨ granKey s ga * 64 + 36 ≤ a) :
    Tab.get (d.memWrite s ga g).mem a 0 = Tab.get d.mem a 0 := by
  rw [Dev.memWrite, Dev.memPut_mem]
  exact cellsSet_other _ _ _ _ _ h

section
variable (c : Nat) (x : Ctx) (left : Nat)

theorem Dev.saveGrans_other (l : List Nat) (e : Dev) (a : Nat)
    (h : ∀ j ∈ l, ∀ g, d.savePlace c j = some g → a < granKey g.1 g.2 * 64 ∨ granKey g.1 g.2 * 64 + 36 ≤ a) :
    Tab.get (e.each l (d.saveGran c x left)).mem a 0 = Tab.get e.mem a 0 :=
  Dev.each_same_on e (fun e : Dev => Tab.get e.mem a 0) l (d.saveGran c x left) fun e j hj => by
    unfold Dev.saveGran
    cases hp : d.savePlace c j with
    | none => rfl
    | some g =>
      dsimp only [Option.elim]
      split
      · rfl
      · exact e.mem_memWrite_other _ _ _ a (h j hj g hp)

theorem Dev.saveGrans_apart (l : List Nat) (e : Dev) (i : Nat) (g : Nat × Nat) (hg : d.savePlace c i = some g) (hi : i ∉ l) :
    (e.each l (d.saveGran c x left)).memGet g.1 g.2 = e.memGet g.1 g.2 :=
  Dev.each_same_on e (fun e : Dev => e.memGet g.1 g.2) l (d.saveGran c x left) fun e j hj => by
    unfold Dev.saveGran
    cases hp : d.savePlace c j with
    | none => rfl
    | some h =>
      dsimp only [Option.elim]
      split
      · rfl
      · exact Dev.memGet_memPut_other _ _ _ _ _ _ (d.savePlace_apart c i j g h hg hp fun he => hi (he ▸ hj))

theorem Dev.saveGrans_same (l : List Nat) (hl : l.Nodup) (e : Dev) (j : Nat) (hj : j ∈ l) (g : Nat × Nat) (hg : d.savePlace c j = some g)
    (hf : d.setFenced g.1 = false) : (e.each l (d.saveGran c x left)).memGet g.1 g.2 = loamEncode (x.image left j) := by
  induction l generalizing e with
  | nil => exact nomatch hj
  | cons i t ih =>
    obtain ⟨hi, ht⟩ := List.nodup_cons.mp hl
    rcases List.mem_cons.mp hj with rfl | hj
    · refine (d.saveGrans_apart c x left t (d.saveGran c x left e j) j g hg hi).trans ?_
      unfold Dev.saveGran
      rw [hg]
      dsimp only [Option.elim]
      rw [hf, if_neg Bool.false_ne_true, Dev.memWrite, Dev.memGet_memPut_same]
    · exact ih ht (d.saveGran c x left e i) hj

end

/-- The state of a context in its control area; what does not lie there stays. -/
structure Dev.savedTo (c : Nat) (e : Dev) : Prop where
  rest : e.besideMem = d.besideMem
  outside : ∀ a, (∀ j g, j < 64 → d.savePlace c j = some g → a < granKey g.1 g.2 * 64 ∨ granKey g.1 g.2 * 64 + 36 ≤ a) →
    Tab.get e.mem a 0 = Tab.get d.mem a 0
  inside : ∀ j g, j < 64 → d.savePlace c j = some g → d.setFenced g.1 = false →
    e.memGet g.1 g.2 = loamEncode ((d.ctx c).image (d.sleepLeft c) j)

theorem Dev.savedTo_ctrlSave (c : Nat) : d.savedTo c (d.ctrlSave c) := by
  rw [d.ctrlSave_eq c]
  exact ⟨Dev.each_same Dev.besideMem (List.range 64) (d.saveGran c (d.ctx c) (d.sleepLeft c)) (fun e j => d.besideMem_saveGran c _ _ e j) d,
    fun a h => d.saveGrans_other c _ _ _ d a fun j hj g hg => h j g (List.mem_range.mp hj) hg,
    fun j g hj hg hf => d.saveGrans_same c _ _ _ List.nodup_range d j (List.mem_range.mpr hj) g hg hf⟩

/-! ### The outgoing context -/

/-- A bed that switches: its pending operation is dropped, and resumes at its word. -/
structure Dev.outgoing (b : Fin 8) (e : Dev) : Prop where
  kept : e.keptByDrop b.val = ({ d with beds := e.beds, ctxs := e.ctxs } : Dev).keptByDrop b.val
  pend : (e.bed b.val).pend = none
  cur : (e.bed b.val).cur = (d.bed b.val).cur
  others : ∀ k, k ≠ b.val → e.bed k = d.bed k
  ports : ∀ k, (e.ctx k).port = (d.ctx k).port
  resumes : ∀ o, (d.bed b.val).pend = some o →
    (e.ctx o.ctx).resumeT = true ∧ (e.ctx o.ctx).pc = o.pc ∧ (e.ctx o.ctx).nextPc = (d.ctx o.ctx).pc

/-- A change of a context that its pending operation does not see. -/
theorem Dev.outgoing_updCtx {e : Dev} {b : Fin 8} (h : d.outgoing b e) (c : Nat) (f : Ctx → Ctx)
    (hf : ∀ x, (f x).port = x.port ∧ (f x).resumeT = x.resumeT ∧ (f x).pc = x.pc ∧ (f x).nextPc = x.nextPc) :
    d.outgoing b (e.updCtx c f) := by
  obtain ⟨hkept, hpend, hcur, hothers, hports, hresumes⟩ := h
  have hsame : ∀ k, ((e.updCtx c f).ctx k).port = (e.ctx k).port ∧ ((e.updCtx c f).ctx k).resumeT = (e.ctx k).resumeT ∧
      ((e.updCtx c f).ctx k).pc = (e.ctx k).pc ∧ ((e.updCtx c f).ctx k).nextPc = (e.ctx k).nextPc := fun k => by
    by_cases hk : k = c
    · rw [hk, Dev.ctx_updCtx_same]
      exact hf _
    · rw [Dev.ctx_updCtx_other _ _ _ _ hk]
      exact ⟨rfl, rfl, rfl, rfl⟩
  obtain ⟨hrest, hrest2⟩ := Prod.mk.inj hkept
  refine ⟨Prod.ext ?_ hrest2, hpend, hcur, hothers, fun k => (hsame k).1.trans (hports k), fun o ho => ?_⟩
  · exact (congrArg (fun x : Dev => ({ x with ctxs := (e.updCtx c f).ctxs } : Dev)) hrest :)
  · obtain ⟨-, h1, h2, h3⟩ := hsame o.ctx
    obtain ⟨k1, k2, k3⟩ := hresumes o ho
    exact ⟨h1.trans k1, h2.trans k2, h3.trans k3⟩

/-- The pending operation of a bed that switches goes, if there is one. -/
def Dev.pendOut (b : Nat) : Dev :=
  match (d.bed b).pend with
  | none => d
  | some o => (d.pendDrop b).updCtx o.ctx fun x => { x with nextPc := x.pc, pc := o.pc, resumeT := true }

theorem Dev.outgoing_pendOut (b : Fin 8) : d.outgoing b (d.pendOut b.val) := by
  unfold Dev.pendOut
  split
  next h => exact ⟨rfl, h, rfl, fun _ _ => rfl, fun _ => rfl, fun o ho => nomatch h.symm.trans ho⟩
  next o h =>
  obtain ⟨hkept, hpend, ⟨-, hcur⟩, hothers⟩ := d.dropTo_pendDrop b
  generalize d.pendDrop b.val = e at hkept hpend hcur hothers ⊢
  obtain ⟨hrest, hrest2⟩ := Prod.mk.inj hkept
  have hctxs : ∀ k, e.ctx k = d.ctx k := fun k => (congrArg (fun x : Dev => x.ctx k) hrest :)
  generalize hf : (fun x : Ctx => { x with nextPc := x.pc, pc := o.pc, resumeT := true }) = f
  refine ⟨Prod.ext ?_ hrest2, hpend, hcur, hothers, fun k => ?_, fun o' ho => ?_⟩
  · exact (congrArg (fun x : Dev => ({ x with ctxs := (e.updCtx o.ctx f).ctxs } : Dev)) hrest :)
  · by_cases hk : k = o.ctx
    · rw [hk, Dev.ctx_updCtx_same, hctxs, ← hf]
    · rw [Dev.ctx_updCtx_other _ _ _ _ hk, hctxs]
  · obtain rfl := Option.some.inj (ho.symm.trans h)
    rw [Dev.ctx_updCtx_same, hctxs, ← hf]
    exact ⟨rfl, rfl, rfl⟩

/-- A POST that waits for ring room stays with its context. -/
def Dev.postOut (b : Nat) : Dev :=
  match (d.bed b).run with
  | none => d
  | some o => d.updCtx o.ctx fun x => { x with post := some o }

theorem Dev.outgoing_postOut {e : Dev} {b : Fin 8} (h : d.outgoing b e) : d.outgoing b (e.postOut b.val) := by
  unfold Dev.postOut
  split
  · exact h
  next o _ => exact d.outgoing_updCtx h o.ctx (fun x => { x with post := some o }) fun _ => ⟨rfl, rfl, rfl, rfl⟩

/-- The outgoing context's state is saved. -/
def Dev.saveOut (b : Nat) : Dev :=
  match (d.bed b).cur with
  | none => d
  | some k => (d.updCtx k fun x => { x with yield := false }).ctrlSave k

/-- The next context runs. -/
def Dev.switchIn (b c : Nat) : Dev :=
  (d.wrapInc row_BED_OPS b f_BED_OPS_SWITCHES).updBed b fun y => { y with
    cur := some c, curSlot := (d.ctx c).slot.getD y.curSlot, run := none, ibuf := [], since := d.lived (d.bedTimer b), sync := false,
    pf := (d.fld row_BED_CTL 0 f_BED_CTL_PREFETCH_EN == 1) }

theorem Dev.switchCtx_eq (b n : Nat) (h : d.nextCtx b = some n) : d.switchCtx b = (((d.pendOut b).postOut b).saveOut b).switchIn b n := by
  unfold Dev.switchCtx
  rw [h]
  rfl

/-- The bed that has switched. -/
structure Dev.switchedIn (b n : Nat) (e : Dev) : Prop where
  rest : e = { d with regs := e.regs, beds := e.beds }
  cur : (e.bed b).cur = some n
  none_ : (e.bed b).run = none ∧ (e.bed b).pend = (d.bed b).pend ∧ (e.bed b).ibuf = []
  others : ∀ k, k ≠ b → e.bed k = d.bed k
  count : e.fld row_BED_OPS b f_BED_OPS_SWITCHES = (d.fld row_BED_OPS b f_BED_OPS_SWITCHES + 1) % (f_BED_OPS_SWITCHES.top + 1)

theorem Dev.switchedIn_switchIn (b n : Nat) : d.switchedIn b n (d.switchIn b n) := by
  unfold Dev.switchIn
  have hcount := Dev.fld_wrapInc d row_BED_OPS b f_BED_OPS_SWITCHES 1 (by decide)
  have hregs : d.wrapInc row_BED_OPS b f_BED_OPS_SWITCHES = { d with regs := (d.wrapInc row_BED_OPS b f_BED_OPS_SWITCHES).regs } := rfl
  generalize d.wrapInc row_BED_OPS b f_BED_OPS_SWITCHES = e at hcount hregs ⊢
  have hbed : ∀ k, e.bed k = d.bed k := fun k => (congrArg (fun x : Dev => x.bed k) hregs :)
  generalize hf : (fun y : Bed => { y with
    cur := some n, curSlot := (d.ctx n).slot.getD y.curSlot, run := none, ibuf := [], since := d.lived (d.bedTimer b), sync := false,
    pf := (d.fld row_BED_CTL 0 f_BED_CTL_PREFETCH_EN == 1) }) = f
  have hsame : (e.updBed b f).bed b = f (d.bed b) := (Dev.bed_updBed_same _ _ _).trans (congrArg f (hbed b))
  refine ⟨?_, ?_, ⟨?_, ?_, ?_⟩, fun k hk => (Dev.bed_updBed_other _ _ _ _ hk).trans (hbed k), hcount⟩
  · exact (congrArg (fun x : Dev => ({ x with beds := (e.updBed b f).beds } : Dev)) hregs :)
  all_goals
    rw [hsame, ← hf]

end

/-- Contexts, memory and clay are not the bed's. -/
theorem Dev.switchedIn.same {d e : Dev} {b n : Nat} (h : d.switchedIn b n e) : e.mem = d.mem ∧ e.clay = d.clay ∧
    (∀ k, e.ctx k = d.ctx k) ∧ ∀ k, e.sleepLeft k = d.sleepLeft k :=
  have hrest := h.rest
  ⟨(congrArg Dev.mem hrest :), (congrArg Dev.clay hrest :), fun k => (congrArg (fun x : Dev => x.ctx k) hrest :),
    fun k => (congrArg (fun x : Dev => x.sleepLeft k) hrest :)⟩

section
variable (d : Dev)

/-- A bed whose outgoing context's state is in its control area. -/
structure Dev.savedOut (b : Fin 8) (e : Dev) : Prop where
  clay : e.clay = d.clay
  outside : ∀ a, (∀ k j g, (d.bed b.val).cur = some k → j < 64 → d.savePlace k j = some g →
    a < granKey g.1 g.2 * 64 ∨ granKey g.1 g.2 * 64 + 36 ≤ a) → Tab.get e.mem a 0 = Tab.get d.mem a 0
  inside : ∀ k j g, (d.bed b.val).cur = some k → j < 64 → d.savePlace k j = some g → d.setFenced g.1 = false →
    e.memGet g.1 g.2 = loamEncode ((e.ctx k).image (e.sleepLeft k) j)
  pend : (e.bed b.val).pend = none
  others : ∀ k, k ≠ b.val → e.bed k = d.bed k
  resumes : ∀ o, (d.bed b.val).pend = some o →
    (e.ctx o.ctx).resumeT = true ∧ (e.ctx o.ctx).pc = o.pc ∧ (e.ctx o.ctx).nextPc = (d.ctx o.ctx).pc
  count : e.rd row_BED_OPS b.val = d.rd row_BED_OPS b.val

theorem Dev.savedOut_saveOut {e : Dev} {b : Fin 8} (h : d.outgoing b e) : d.savedOut b (e.saveOut b.val) := by
  unfold Dev.saveOut
  cases hcur : (d.bed b.val).cur with
  | none =>
    rw [h.cur, hcur]
    dsimp only
    obtain ⟨hrest, hrest2⟩ := Prod.mk.inj h.kept
    obtain ⟨-, hrd⟩ := Prod.mk.inj hrest2
    exact ⟨(congrArg Dev.clay hrest :), fun a _ => (congrArg (fun x : Dev => Tab.get x.mem a 0) hrest :),
      fun k j g hk => (nomatch hcur.symm.trans hk), h.pend, h.others, h.resumes, hrd⟩
  | some k =>
    rw [h.cur, hcur]
    dsimp only
    have h2 := d.outgoing_updCtx h k (fun x => { x with yield := false }) fun _ => ⟨rfl, rfl, rfl, rfl⟩
    generalize (e.updCtx k fun x => { x with yield := false }) = e2 at h2 ⊢
    obtain ⟨hrest, hrest2⟩ := Prod.mk.inj h2.kept
    obtain ⟨hfenced, hrd⟩ := Prod.mk.inj hrest2
    obtain ⟨srest, soutside, sinside⟩ := e2.savedTo_ctrlSave k
    have hplace : ∀ j, e2.savePlace k j = d.savePlace k j := fun j => by
      unfold Dev.savePlace
      rw [h2.ports k]
      exact (congrArg (fun x : Dev => x.fixedPlace (x.portPart (d.ctx k).port) (ctrlOff + 512 * k + 128 + j)) hrest :)
    have hmem : ∀ a, Tab.get e2.mem a 0 = Tab.get d.mem a 0 := fun a => (congrArg (fun x : Dev => Tab.get x.mem a 0) hrest :)
    have hclay : e2.clay = d.clay := (congrArg Dev.clay hrest :)
    generalize e2.ctrlSave k = e3 at srest soutside sinside ⊢
    have hctx : ∀ j, e3.ctx j = e2.ctx j := fun j => (congrArg (fun x : Dev => x.ctx j) srest :)
    have hleft : e3.sleepLeft k = e2.sleepLeft k := (congrArg (fun x : Dev => x.sleepLeft k) srest :)
    have hbed : ∀ j, e3.bed j = e2.bed j := fun j => (congrArg (fun x : Dev => x.bed j) srest :)
    refine ⟨(congrArg Dev.clay srest :).trans hclay, fun a ha => (soutside a fun j g hj hg => ha k j g hcur hj ((hplace j).symm.trans hg)).trans
      (hmem a), fun k' j g hk hj hg hf => ?_, (congrArg Bed.pend (hbed b.val)).trans h2.pend, fun j hj => (hbed j).trans (h2.others j hj),
      fun o ho => ?_, (congrArg (fun x : Dev => x.rd row_BED_OPS b.val) srest :).trans hrd⟩
    · obtain rfl := Option.some.inj (hcur.symm.trans hk)
      rw [hctx, hleft]
      exact sinside j g hj ((hplace j).trans hg) ((congrFun hfenced g.1).trans hf)
    · rw [hctx]
      exact h2.resumes o ho

end

section
variable (s : State)

theorem State.contextSwitch_runs (b : Fin 8) (h : s.dev.working = true) (hd : s.dev.switchDue b.val = true) :
    exec (.contextSwitch b) s = .next { s with dev := (s.dev.switchCtx b.val).finish } :=
  State.devEvent_holds (fun d => d.working && d.switchDue b.val) (fun d => d.switchCtx b.val) s (by simp [h, hd])

theorem State.sleepTimeout_runs (c : Fin 4096) (h : s.dev.sleepDue c.val = true) :
    exec (.sleepTimeout c) s = .next { s with dev := (s.dev.sleepEnd c.val).finish } :=
  State.devEvent_holds (fun d => d.sleepDue c.val) (fun d => d.sleepEnd c.val) s h

end

/-- A sleep that times out in a context with its clay area returns all ones. -/
theorem Dev.sleepEnd_wakes (d : Dev) (c : Nat) (hp : (d.ctx c).st ≠ .parked) (hk : (d.ctx c).parking = false)
    (ha : (d.ctx c).needsArea = false) : d.sleepEnd c = d.updCtx c fun x => x.wakeNow 0xFFFFFFFFFFFFFFFF := by
  unfold Dev.sleepEnd
  dsimp only
  rw [hk, ha, if_neg (by simpa using hp)]
  rfl

/-- Settles O27: the pending operation is dropped, the outgoing context saved, the next one put on the bed. -/
theorem contextSwitchAndSleep : Obligations.ContextSwitchAndSleep := by
  intro s
  refine ⟨fun b n hw hd hn => ?_, fun c hdue hp hk ha => ?_⟩
  · have hexec := s.contextSwitch_runs b hw hd
    rw [s.dev.switchCtx_eq b.val n hn] at hexec
    have hsaved := s.dev.savedOut_saveOut (s.dev.outgoing_postOut (s.dev.outgoing_pendOut b))
    generalize ((s.dev.pendOut b.val).postOut b.val).saveOut b.val = e at hsaved hexec
    have hin := e.switchedIn_switchIn b.val n
    generalize e.switchIn b.val n = d at hin hexec
    obtain ⟨hmem, hclay, hctx, hleft⟩ := hin.same
    obtain ⟨hrun, hpend, hibuf⟩ := hin.none_
    refine ⟨d, hexec, hclay.trans hsaved.clay, fun a h => ?_, fun k j g hk hj hg hf => ?_, hin.cur, hrun, hpend.trans hsaved.pend, hibuf,
      fun k hk => (hin.others k hk).trans (hsaved.others k hk), fun o ho => ?_, ?_⟩
    · rw [hmem]
      exact hsaved.outside a h
    · rw [hctx, hleft]
      exact (congrArg (fun m => BitVec.ofNat 288 (cellsGet m (granKey g.1 g.2 * 64) 36)) hmem).trans (hsaved.inside k j g hk hj hg hf)
    · rw [hctx]
      exact hsaved.resumes o ho
    · rw [hin.count, Dev.fld, hsaved.count]
      rfl
  · have hexec := s.sleepTimeout_runs c hdue
    rw [s.dev.sleepEnd_wakes c.val hp hk ha] at hexec
    refine ⟨_, hexec, rfl, ?_, ?_, fun hrd => ?_, fun k hk => Dev.ctx_updCtx_other _ _ _ _ hk⟩
    all_goals rw [Dev.ctx_updCtx_same]
    · rfl
    · rfl
    · unfold Ctx.wakeNow
      dsimp only
      rw [if_neg hrd]
      exact tab_get_set_same _ _ _ _

end Sys2Proof.Machine

/-! PROOF. A pending tensor operation starts (R127 step 3, R143, R195). -/
namespace Sys2Proof.Machine

section
variable (d : Dev) (b : Nat) (o : TOp)

/-- An operation as it starts. -/
def Dev.starting : TOp := { d.startFault b o with started := true }

/-- The device on which it runs. -/
def Dev.started : Dev :=
  (d.updBed b fun y => { y with run := some (d.starting b o), pend := none }).updCtx (d.starting b o).ctx fun x =>
    { x with yield := false, late := none }

/-- What an operation meets as it starts changes its status alone. -/
theorem Dev.startFault_spec : d.startFault b o = { o with status := (d.startFault b o).status } ∧
    (d.startFault b o).status = (if d.liveCores b = [] then failWith o.status 0x10C
      else if d.liveClusters b = [] ∨ ((d.ctx o.ctx).clayLost = true ∧ o.namesClay = true) then failWith o.status 0x10B
      else o.status) := by
  unfold Dev.startFault
  simp only [List.isEmpty_iff, Bool.or_eq_true, Bool.and_eq_true]
  split
  · exact ⟨rfl, rfl⟩
  · split <;> exact ⟨rfl, rfl⟩

theorem Dev.started_bed : ((d.started b o).bed b).run = some (d.starting b o) ∧ ((d.started b o).bed b).pend = none := by
  have hbed : (d.started b o).bed b = (d.updBed b fun y => { y with run := some (d.starting b o), pend := none }).bed b := rfl
  rw [hbed, Dev.bed_updBed_same]
  exact ⟨rfl, rfl⟩

/-- It does nothing where it has failed or its operands are still to come. -/
theorem Dev.startOp_eq (body : TOp → Dev → Dev) (h : (d.bed b).pend = some o) : d.startOp b body =
    if (d.starting b o).status ≠ 0 ∨ (d.starting b o).present = false then d.started b o else body (d.starting b o) (d.started b o) := by
  have hif : ((d.starting b o).status ≠ 0 || !(d.starting b o).present) = true ↔
      (d.starting b o).status ≠ 0 ∨ (d.starting b o).present = false := by
    rw [Bool.or_eq_true, decide_eq_true_eq, Bool.not_eq_true']
  unfold Dev.startOp
  rw [h]
  exact if_congr hif rfl rfl

end

theorem State.opStart_starts (s : State) (b top : Nat) (body : TOp → Dev → Dev) (o : TOp) (hp : (s.dev.bed b).pend = some o)
    (hg : s.gated b = false) (h : s.dev.startable b top = true) : s.opStart b top body =
      .next { s with dev := (if (s.dev.starting b o).status ≠ 0 ∨ (s.dev.starting b o).present = false then s.dev.started b o
        else body (s.dev.starting b o) (s.dev.started b o)).finish } := by
  have hrun := State.devEvent_holds (fun d => d.startable b top && !s.gated b) (fun d => d.startOp b body) s (by simp [h, hg])
  rw [s.dev.startOp_eq b o body hp] at hrun
  exact hrun

/-- Settles O28: every operation starts in the same way, and differs in what it does then. -/
theorem tensorOperationsStart : Obligations.TensorOperationsStart := by
  intro s b o hp hg
  obtain ⟨hfault, hstatus⟩ := s.dev.startFault_spec b.val o
  obtain ⟨hrun, hpend⟩ := s.dev.started_bed b.val o
  have hop : s.dev.starting b.val o = { o with status := (s.dev.startFault b.val o).status, started := true } :=
    (congrArg (fun x : TOp => ({ x with started := true } : TOp)) hfault :)
  have hstarts := fun (top : Nat) (body : TOp → Dev → Dev) => s.opStart_starts b.val top body o hp hg
  refine ⟨s.dev.started b.val o, s.dev.starting b.val o, hrun, hpend, rfl, (congrArg TOp.slot hop :), (congrArg TOp.ctx hop :),
    (congrArg TOp.srcs hop :), hstatus, rfl, ?_⟩
  intro starts
  refine ⟨fun errs ord ph => ⟨hstarts 0x01 fun o d => d.mma b.val errs ord ph o, hstarts 0x02 fun o d => d.attn b.val errs ord ph o⟩,
    fun ph => ⟨hstarts 0x03 fun o d => d.ewise b.val ph o, hstarts 0x04 fun o d => d.reduce b.val ph o,
      hstarts 0x05 fun o d => d.topk b.val ph o, hstarts 0x06 fun o d => d.gather b.val ph o, hstarts 0x07 fun o d => d.scatter b.val ph o,
      hstarts 0x08 fun o d => d.load b.val ph o, hstarts 0x09 fun o d => d.storeOp b.val ph o, hstarts 0x0A fun o d => d.cvt b.val ph o,
      hstarts 0x0B fun o d => d.win_ b.val o, hstarts 0x0C fun _ d => d, hstarts 0x0D fun o d => d.post_ b.val ph o⟩⟩

end Sys2Proof.Machine

/-! PROOF. Results of the vector and matrix units (R197), and WIN (R89). -/
namespace Sys2Proof.Machine

section
variable (d : Dev) (b : Nat)

/-! ### Results -/

/-- The flags of a result are held with the operation that runs. -/
def Dev.flagged (fl : Flags) : Dev := d.updBed b fun y => { y with run := y.run.map fun o => { o with flags := o.flags ||| fl } }

theorem Dev.flagged_bed (fl : Flags) (o : TOp) (h : (d.bed b).run = some o) :
    ((d.flagged b fl).bed b).run = some { o with flags := o.flags ||| fl } := by
  unfold Dev.flagged
  rw [Dev.bed_updBed_same]
  exact congrArg (Option.map fun o : TOp => ({ o with flags := o.flags ||| fl } : TOp)) h

theorem Dev.failRun_status (st : Nat) (o : TOp) (h : (d.bed b).run = some o) (h0 : o.status = 0) :
    ((d.failRun b st).bed b).run.map (·.status) = some st := by
  unfold Dev.failRun
  rw [Dev.bed_updBed_same]
  dsimp only
  rw [h]
  exact congrArg some (if_pos (.inl h0))

/-- A result of an operation that has not failed. -/
theorem Dev.opResult_running (ph : Phys) (r : OpRes) (o : TOp) (h : (d.bed b).run = some o) (h0 : o.status = 0) :
    d.opResult b ph r = if r.st ≠ 0 then (d.flagged b r.fl).failRun b r.st
      else (d.flagged b r.fl).putItems b ph { o with flags := o.flags ||| r.fl }
        (r.out.flatMap fun x => ({ o with flags := o.flags ||| r.fl } : TOp).putRow x.1 x.2.1 x.2.2.1 x.2.2.2) := by
  have hbed := d.flagged_bed b r.fl o h
  unfold Dev.flagged at hbed ⊢
  unfold Dev.opResult
  extract_lets e
  rw [hbed]
  exact if_neg (not_not_intro h0)

theorem Dev.compute_result (ph : Phys) (o : TOp) (ix : List (List Nat)) (rs : List Nat) (f : List Opd → OpRes) (l : List Opd) (d2 : Dev)
    (h : (d.dataTag b ph o).operands ph b o ix rs = (some l, d2)) : d.compute b ph o ix rs f = d2.opResult b ph (f l) := by
  unfold Dev.compute
  rw [h]

/-! ### WIN -/

/-- The layer that WIN names. -/
def Dev.winLayer (o : TOp) : Nat :=
  if sf o.slot 70 69 = 0 then sf o.slot 82 71 else if sf o.slot 70 69 = 1 then o.arg.toNat % 4096 else (d.plan (sf o.slot 88 83)).oldest

/-- Does WIN find a plan of its context that is loaded. -/
def Dev.winRefused (o : TOp) : Prop :=
  (d.plan (sf o.slot 88 83)).st = .none_ ∨ (d.plan (sf o.slot 88 83)).st = .loading ∨ (d.plan (sf o.slot 88 83)).st = .failed ∨
    (d.plan (sf o.slot 88 83)).ctx ≠ o.ctx

theorem Dev.win_refused (o : TOp) (h : d.winRefused o) : d.win_ b o = d.failRun b 0x107 := by
  unfold Dev.win_
  exact if_pos (by simpa [Dev.winRefused, or_assoc] using h)

theorem Dev.win_layer (o : TOp) (h : ¬ d.winRefused o) :
    d.win_ b o = match d.planWin (sf o.slot 88 83) (d.winLayer o) with | some d => d | none => d.failRun b 0x108 := by
  have hl : (match sf o.slot 70 69 with
      | 0 => sf o.slot 82 71
      | 1 => o.arg.toNat % 4096
      | _ => (d.plan (sf o.slot 88 83)).oldest) = d.winLayer o := by
    unfold Dev.winLayer
    split
    · next h0 => rw [if_pos h0]
    · next h1 => rw [if_neg (by omega), if_pos h1]
    · next h0 h1 => rw [if_neg h0, if_neg h1]
  unfold Dev.win_
  dsimp only
  rw [← hl]
  exact if_neg (by simpa [Dev.winRefused, or_assoc] using h)

/-- The slots of a layer that WIN frees. -/
def WSlot.freed (w : WSlot) : WSlot := { set := w.set, loc := w.loc }

/-- A plan after WIN on its oldest layer: the slots of the layer are free, the layer LOOK ahead is queued. -/
structure Plan.wonTo (x y : Plan) (l : Nat) : Prop where
  oldest : y.oldest = (l + 1) % x.layers.length
  wins : y.wins = x.wins + 1
  fills : y.fills = x.fills ++ [((l + x.look) % x.layers.length, x.next)]
  slots : y.slots = slotsAt ((x.ring l (x.pos.get l 0)).map (·.1)) WSlot.freed x.slots

theorem Dev.planWin_oldest (p l : Nat) (hst : (d.plan p).st = .active) (hl : (d.plan p).layers ≠ []) (ho : l = (d.plan p).oldest) :
    ∃ e, d.planWin p l = some e ∧ (d.plan p).wonTo (e.plan p) l ∧ e.mem = d.mem ∧ e.descs = d.descs := by
  have hgo : ¬ ((d.plan p).st == .none_ || decide ((d.plan p).layers.length = 0) || decide (l ≠ (d.plan p).oldest)) = true := by
    simp [hst, hl, ho]
  unfold Dev.planWin
  extract_lets x n is e
  have he : e.beyondRelease = d.beyondRelease :=
    Dev.each_same Dev.beyondRelease (is.map x.slotAt) Dev.slotClear (fun e w => e.beyondRelease_slotClear w) d
  have hplan : e.plan p = d.plan p := (congrArg (fun e : Dev => e.plan p) he :)
  clear_value e
  refine ⟨_, if_neg hgo, ?_, (congrArg Dev.mem he :), (congrArg Dev.descs he :)⟩
  rw [Dev.plan_updPlan_same, hplan]
  exact ⟨rfl, rfl, rfl, rfl⟩

theorem Dev.planWin_other (p l : Nat) (h : l ≠ (d.plan p).oldest) : d.planWin p l = none := by
  unfold Dev.planWin
  exact if_pos (by simp [h])

end

/-- Settles O29: a result by what compute and opResult do, WIN by its two refusals and the plan it leaves. -/
theorem operationResultsAndWindows : Obligations.OperationResultsAndWindows := by
  constructor
  · intro d d2 b ph o o2 ix rs f l hops hrun h0 o3
    have hres := (d.compute_result b ph o ix rs f l d2 hops).trans (d2.opResult_running b ph (f l) o2 hrun h0)
    have hbed := d2.flagged_bed b (f l).fl o2 hrun
    refine ⟨d2.flagged b (f l).fl, hbed, rfl, fun k hk => Dev.bed_updBed_other _ _ _ _ hk, fun hs => ?_, fun hs => ?_⟩
    · exact hres.trans (if_neg (not_not_intro hs))
    · exact ⟨_, hres.trans (if_pos hs), rfl, Dev.failRun_status _ b _ _ hbed h0⟩
  intro d b o hrun h0 p x l
  refine ⟨fun hbad => ?_, fun hst hc hl => ?_⟩
  · rw [d.win_refused b o hbad]
    exact ⟨d.failRun_status b 0x107 o hrun h0, rfl⟩
  · have hgo : ¬ d.winRefused o := by
      unfold Dev.winRefused
      change ¬ (x.st = .none_ ∨ x.st = .loading ∨ x.st = .failed ∨ x.ctx ≠ o.ctx)
      simp [hst, hc]
    have hwin := d.win_layer b o hgo
    have hlayer : d.winLayer o = l := rfl
    rw [hlayer] at hwin
    refine ⟨fun ho => ?_, fun ho => ?_⟩
    · obtain ⟨e, hplan, hto, hmem, hdescs⟩ := d.planWin_oldest p l hst hl ho
      rw [hplan] at hwin
      rw [hwin]
      refine ⟨hto.oldest, hto.wins, hto.fills, fun i hi w hw => ?_, hmem, hdescs⟩
      dsimp only at hw
      rw [hto.slots, slotsAt_get, Option.map_eq_some_iff] at hw
      obtain ⟨v, -, rfl⟩ := hw
      rw [if_pos (show i ∈ ((d.plan p).ring l ((d.plan p).pos.get l 0)).map (·.1) from hi)]
      exact ⟨rfl, rfl⟩
    · rw [d.planWin_other p l ho] at hwin
      rw [hwin]
      exact ⟨d.failRun_status b 0x108 o hrun h0, rfl⟩

end Sys2Proof.Machine

/-! PROOF. LAUNCH starts a program, or wakes a sleeping one (R184, R185). -/
namespace Sys2Proof.Machine

/-! ### The registers of a program that starts -/

/-- S1 to S4 of a program that LAUNCH starts. -/
def startRegs (e : Entry) : Tab Word :=
  ((List.range 4).map fun i => (i + 1, BitVec.ofNat 64 (e.arg (i + 1)))).foldl (fun (m : Tab Word) p => m.set p.1 p.2 0) []

theorem startRegs_eq (e : Entry) : startRegs e =
    Tab.set (Tab.set (Tab.set (Tab.set [] 1 (BitVec.ofNat 64 (e.arg 1)) 0) 2 (BitVec.ofNat 64 (e.arg 2)) 0) 3 (BitVec.ofNat 64 (e.arg 3)) 0) 4
      (BitVec.ofNat 64 (e.arg 4)) 0 := rfl

theorem startRegs_get (e : Entry) (i : Nat) : Tab.get (startRegs e) i 0 = if 1 ≤ i ∧ i ≤ 4 then BitVec.ofNat 64 (e.arg i) else 0 := by
  rw [startRegs_eq]
  by_cases h4 : i = 4
  · rw [h4, tab_get_set_same]
    rfl
  rw [tab_get_set_other _ _ _ _ _ _ h4]
  by_cases h3 : i = 3
  · rw [h3, tab_get_set_same]
    rfl
  rw [tab_get_set_other _ _ _ _ _ _ h3]
  by_cases h2 : i = 2
  · rw [h2, tab_get_set_same]
    rfl
  rw [tab_get_set_other _ _ _ _ _ _ h2]
  by_cases h1 : i = 1
  · rw [h1, tab_get_set_same]
    rfl
  rw [tab_get_set_other _ _ _ _ _ _ h1, if_neg (by omega)]
  rfl

section
variable (d : Dev) (c : Nat) (e : Entry) (ref : CmdRef)

/-- A context as an accepted LAUNCH leaves it. -/
def Ctx.launched (x : Ctx) (e : Entry) (ref : CmdRef) : Ctx := { x with
  s := startRegs e, p := 1, t := [], undef := none, late := none, pc := BitVec.ofNat 48 (e.arg 0), flags := 0, last := 0, ps := .running,
  resumeT := false, wake := none, sleepUs := 0, launch := some ref, stop := none, yield := false, timeoutDue := false }

theorem Dev.launched_spec (b : Nat) : d.launched b c e ref = { d with ctxs := (d.launched b c e ref).ctxs, beds := (d.launched b c e ref).beds } ∧
    (d.launched b c e ref).ctx c = (d.ctx c).launched e ref ∧ ∀ k, k ≠ c → (d.launched b c e ref).ctx k = d.ctx k :=
  ⟨rfl, Dev.ctx_updCtx_same d c fun x => x.launched e ref, fun k hk => Dev.ctx_updCtx_other d c k (fun x => x.launched e ref) hk⟩

/-- LAUNCH of an idle context that has what it needs. -/
theorem Dev.launch_starts (b : Nat) (hb : (d.ctx c).bed = some b) (hi : (d.ctx c).ps = .idle) (ha : e.arg 0 % 32 = 0) (hl : e.arg 0 < 2 ^ 48)
    (hr : (d.ctx c).area.isSome = true) : d.launch_ c e ref = (d.launched b c e ref).launchStop c := by
  have hgo : ¬ (decide (e.arg 0 % 32 ≠ 0) || decide (2 ^ 48 ≤ e.arg 0)) = true := by
    rw [Bool.or_eq_true, decide_eq_true_eq, decide_eq_true_eq]
    omega
  unfold Dev.launch_
  dsimp only
  rw [hb]
  dsimp only
  rw [if_neg (not_not_intro hi), if_neg hgo, hr]
  rfl

/-- LAUNCH with WAKE of a sleeping program that holds its clay area. -/
theorem Dev.wakeUp_sleeping (v : Word) (hs : (d.ctx c).ps = .sleeping) (ha : (d.ctx c).needsArea = false) :
    d.wakeUp c v ref = (d.updCtx c fun x => x.wakeNow v).complete ref 0 0 0 := by
  unfold Dev.wakeUp
  dsimp only
  rw [hs, ha]
  rfl

theorem Dev.wakeUp_idle (v : Word) (hs : (d.ctx c).ps = .idle) : d.wakeUp c v ref = d.complete ref 0x20E 0 0 := by
  unfold Dev.wakeUp
  dsimp only
  rw [hs]

end

theorem State.launch_runs (s : State) (q : Queue) (e : Entry) (d0 : Dev) (c : Nat) (hs : s.dev.starts q e = some d0)
    (hc : d0.cmdCheck q e = (0, c)) (ho : e.opc = 0x10) :
    exec (.launch q e) s = .next { s with dev := (launchBody e (d0.cmdRef q e) c d0).finish } :=
  State.devCmd_runs 0x10 q e (launchBody e) s d0 c ho hs hc

/-- Settles O31: LAUNCH without WAKE by what it starts, and what stops it at once; LAUNCH with WAKE by PSTATE. -/
theorem launchStartsAProgram : Obligations.LaunchStartsAProgram := by
  intro s q e d0 c hs hc ho ref
  have hexec := s.launch_runs q e d0 c hs hc ho
  unfold launchBody at hexec
  refine ⟨fun b hw hb hi ha hl hr => ?_, fun hw hps hn => ?_, fun hw hps => ?_⟩
  · rw [hw, if_neg Bool.false_ne_true, d0.launch_starts c e (d0.cmdRef q e) b hb hi ha hl hr] at hexec
    obtain ⟨hrest, hctx, hothers⟩ := d0.launched_spec c e (d0.cmdRef q e) b
    generalize d0.launched b c e (d0.cmdRef q e) = d at hexec hrest hctx hothers
    have hst : (d.ctx c).st = (d0.ctx c).st := (congrArg Ctx.st hctx :)
    have hpc : (d.ctx c).pc = BitVec.ofNat 48 (e.arg 0) := (congrArg Ctx.pc hctx :)
    have hregs : ∀ i, (d.ctx c).s.get i 0 = if 1 ≤ i ∧ i ≤ 4 then BitVec.ofNat 64 (e.arg i) else 0 := fun i =>
      (congrArg (fun x : Ctx => x.s.get i 0) hctx :).trans (startRegs_get e i)
    unfold Dev.launchStop at hexec
    rw [hst, hpc] at hexec
    refine ⟨d, fun hno hnd => ?_, fun h => ?_, fun h => ?_, hrest, (congrArg Ctx.ps hctx :), ?_, fun i h1 h2 => ?_, fun i h => ?_,
      (congrArg Ctx.p hctx :), (congrArg Ctx.t hctx :), (congrArg Ctx.flags hctx :), (congrArg Ctx.last hctx :), (congrArg Ctx.launch hctx :),
      hothers⟩
    · cases h : (d0.ctx c).st with
      | orphaned => exact absurd h hno
      | draining => exact absurd h hnd
      | _ => rw [h] at hexec; exact hexec
    · rw [h] at hexec
      exact hexec
    · rw [h] at hexec
      exact hexec
    · rw [hpc, BitVec.toNat_ofNat, Nat.mod_eq_of_lt hl]
    · rw [hregs, if_pos ⟨h1, h2⟩]
    · rw [hregs, if_neg (by omega)]
  · rw [hw, if_pos rfl, d0.wakeUp_sleeping c (d0.cmdRef q e) _ hps hn] at hexec
    refine ⟨_, hexec, rfl, ?_, fun hrd => ?_⟩
    all_goals rw [Dev.ctx_updCtx_same]
    · rfl
    · unfold Ctx.wakeNow
      dsimp only
      rw [if_neg hrd]
      exact tab_get_set_same _ _ _ _
  · rw [hw, if_pos rfl, d0.wakeUp_idle c (d0.cmdRef q e) _ hps] at hexec
    exact hexec

end Sys2Proof.Machine

/-! PROOF. RETIRE marks units and queues moves; FM_DETACH ends the session (R239, R303). -/
namespace Sys2Proof.Machine

section
variable (d : Dev)

/-! ### Units marked retired -/

/-- Units of a set marked retired. -/
def Dev.retireMarked (sub : Bool) (st : Nat) (us : List Nat) : Dev :=
  d.each us fun d u => { d with retired := d.retired.set (retKey sub st u) true false }

theorem Dev.retireMarked_kept (sub : Bool) (st : Nat) (us : List Nat) :
    d.retireMarked sub st us = { d with retired := (d.retireMarked sub st us).retired } := by
  have h : ({ d.retireMarked sub st us with retired := [] } : Dev) = { d with retired := [] } :=
    Dev.each_same (fun e : Dev => ({ e with retired := [] } : Dev)) us
      (fun d u => { d with retired := d.retired.set (retKey sub st u) true false }) (fun _ _ => rfl) d
  exact (congrArg (fun e : Dev => ({ e with retired := (d.retireMarked sub st us).retired } : Dev)) h :)

/-- No unit loses its mark. -/
theorem Dev.retireMarked_keeps (sub : Bool) (st : Nat) (us : List Nat) (k : Nat) (h : d.retired.get k false = true) :
    (d.retireMarked sub st us).retired.get k false = true := by
  induction us generalizing d with
  | nil => exact h
  | cons u t ih =>
    refine ih ({ d with retired := d.retired.set (retKey sub st u) true false } : Dev) ?_
    by_cases hk : k = retKey sub st u
    · rw [hk]
      exact tab_get_set_same _ _ _ _
    · exact (tab_get_set_other _ _ _ _ _ _ hk).trans h

theorem Dev.retireMarked_marks (sub : Bool) (st : Nat) (us : List Nat) (u : Nat) (h : u ∈ us) :
    (d.retireMarked sub st us).retired.get (retKey sub st u) false = true := by
  induction us generalizing d with
  | nil => exact absurd h List.not_mem_nil
  | cons v t ih =>
    rcases List.mem_cons.mp h with rfl | h
    · exact Dev.retireMarked_keeps _ sub st t _ (tab_get_set_same _ _ _ _)
    · exact ih _ h

/-! ### Moves that a command queues -/

/-- Moves queued one after the other, where what is queued does not depend on the queue. -/
theorem Dev.each_queueMove_map (l : List Nat) (m : Dev → Nat → Move) (hm : ∀ e n x, m { e with moves := n } x = m e x) :
    (d.each l fun d x => d.queueMove (m d x)) = { d with moves := d.moves ++ l.map (m d) } := by
  induction l generalizing d with
  | nil => exact congrArg (fun n => ({ d with moves := n } : Dev)) (List.append_nil d.moves).symm
  | cons x t ih =>
    refine (ih (d.queueMove (m d x))).trans ?_
    have hmap : t.map (m (d.queueMove (m d x))) = t.map (m d) := List.map_congr_left fun y _ => hm d _ y
    have happ : (d.queueMove (m d x)).moves ++ t.map (m (d.queueMove (m d x))) = d.moves ++ (x :: t).map (m d) := by
      rw [hmap, List.map_cons]
      exact List.append_assoc d.moves [m d x] (t.map (m d))
    exact congrArg (fun n => ({ d with moves := n } : Dev)) happ

/-! ### RETIRE -/

/-- Does a home lie on a unit that is retired. -/
def onUnits (sub : Bool) (st : Nat) (us : List Nat) (h : Home) : Bool :=
  (h.occ sub st).any fun iv => us.any fun u => decide (iv.1 ≤ u ∧ u < iv.1 + iv.2)

/-- The move that RETIRE queues for an extent. -/
def Dev.retireMove (sub : Bool) (st : Nat) (ref : CmdRef) (x : Nat) : Move := {
  ext := x, kind := .retire, want := some (sub, st), pin := false, cmd := some ref, engine := none,
  src := (d.desc x).home, dst := (d.desc x).home, step := 0, since := 0, journal := 0 }

/-- The extents that RETIRE moves: those homed on a unit, or on their way to one. -/
def Dev.retireExts (sub : Bool) (st : Nat) (us : List Nat) : List Nat :=
  (d.descs.filter fun x => x.2.st ≠ .free && !x.2.ro && !x.2.reload && (onUnits sub st us x.2.home ||
    (d.moveOf x.1).elim false fun m => decide (m.step < 5) && onUnits sub st us m.dst)).map (·.1)

/-- What RETIRE leaves but for the pressure of sets and its own count. -/
theorem retireBody_spec (e : Entry) (ref : CmdRef) (c : Nat) (sub : Bool) (st : Nat) (us : List Nat) (h : d.retireUnits e = some (sub, st, us)) :
    ∃ n, (retireBody e ref c d).besideLoess = ({ d.retireMarked sub st us with
      moves := d.moves ++ (d.retireExts sub st us).map (d.retireMove sub st ref), inflight := n } : Dev).besideLoess := by
  unfold retireBody
  rw [h]
  dsimp -zeta only
  extract_lets d1 on heads fixed mv mirrors wins d2
  have h1 : d1 = { d with retired := d1.retired } := d.retireMarked_kept sub st us
  have hd1 : d1 = d.retireMarked sub st us := rfl
  have hmv : mv = d.retireExts sub st us := (congrArg (fun e : Dev => e.retireExts sub st us) h1 :)
  have h2 : d2 = { d1 with moves := d1.moves ++ mv.map (d1.retireMove sub st ref) } :=
    d1.each_queueMove_map mv (fun d x => d.retireMove sub st ref x) fun _ _ _ => rfl
  have hmove : mv.map (d1.retireMove sub st ref) = mv.map (d.retireMove sub st ref) :=
    (congrArg (fun e : Dev => mv.map (e.retireMove sub st ref)) h1 :)
  have hmoves : d1.moves = d.moves := (congrArg Dev.moves h1 :)
  rw [hmove, hmoves, hmv, hd1] at h2
  clear_value d2
  rw [h2]
  exact ⟨_, Dev.besideLoess_pressureAll _⟩

/-! ### FM_DETACH -/

variable {d} in
/-- A command of the FM alone is taken from the FM ring alone. -/
theorem Dev.cmdCheck_fmOnly {q : Queue} {e : Entry} {r : CmdRow} {c : Nat} (hr : e.row = some r) (hf : r.fmOnly = true)
    (hc : d.cmdCheck q e = (0, c)) : q = .fm := by
  by_contra hq
  unfold Dev.cmdCheck at hc
  rw [hr] at hc
  dsimp only at hc
  split at hc
  · exact Nat.noConfusion (congrArg Prod.fst hc :)
  · rw [if_pos (by simp [hf, hq])] at hc
    exact Nat.noConfusion (congrArg Prod.fst hc :)

theorem Dev.ctxs_setRing_fm (r : Ring) : (d.setRing .fm r).ctxs = d.ctxs := rfl

theorem Dev.ctxs_cqWinPut_fm (e : Gran × Gran) : (d.cqWinPut .fm e).ctxs = d.ctxs :=
  (congrArg Dev.ctxs (Dev.eventsOnly_msg _ _ _ _).rest :)

theorem Dev.ctxs_cqWinFlush_fm : (d.cqWinFlush .fm).ctxs = d.ctxs := by
  refine Dev.each_same Dev.ctxs _ _ (fun e x => ?_) d
  split
  · exact (Dev.ctxs_cqWinPut_fm _ _).trans (e.ctxs_setRing_fm _)
  · rfl

/-- A completion on the FM ring changes no context. -/
theorem Dev.ctxs_complete_fm (r : CmdRef) (hq : r.q = .fm) (st r0 r1 : Nat) : (d.complete r st r0 r1).ctxs = d.ctxs := by
  unfold Dev.complete Dev.completeNow
  split
  · rfl
  · rw [hq]
    dsimp -zeta only
    extract_lets d1 g
    have h1 : d1.ctxs = d.ctxs := rfl
    clear_value d1
    split
    · exact h1
    · exact (Dev.ctxs_cqWinFlush_fm _).trans h1

theorem Dev.fmOn_port (h : d.fm.isSome = true) : d.fmOn (d.fm.elim 16 (·.port)) = true := by
  obtain ⟨x, hx⟩ := Option.isSome_iff_exists.mp h
  simp [Dev.fmOn, hx]

theorem Dev.fmEnd_none (p : Nat) (h : d.fm = none) : d.fmEnd p = d := if_neg (by simp [Dev.fmOn, h])

/-- What FM_DETACH leaves of the FM session, and what it keeps. -/
theorem fmDetach_spec (ref : CmdRef) (hq : ref.q = .fm) :
    let e := (d.complete ref 0 0 0).fmEnd (d.fm.elim 16 (·.port))
    e.fm = none ∧ (d.fm.isSome = true → e.fmRing = {}) ∧ e.mem = d.mem ∧ e.descs = d.descs ∧ e.ctxs = d.ctxs ∧ e.rgns = d.rgns ∧
      e.plans = d.plans := by
  have hk := (congrArg AnswerLeft.rest (d.beyondAnswer_complete ref 0 0 0 0 true) :)
  have hctx : (d.complete ref 0 0 0).ctxs = d.ctxs := d.ctxs_complete_fm ref hq 0 0 0
  generalize d.complete ref 0 0 0 = d1 at hk hctx ⊢
  have hfm : d1.fm = d.fm := (congrArg Dev.fm hk :)
  have hkept : d1.mem = d.mem ∧ d1.descs = d.descs ∧ d1.rgns = d.rgns ∧ d1.plans = d.plans :=
    ⟨(congrArg Dev.mem hk :), (congrArg Dev.descs hk :), (congrArg Dev.rgns hk :), (congrArg Dev.plans hk :)⟩
  obtain ⟨hm, hd, hr, hp⟩ := hkept
  cases hs : d.fm.isSome
  case false =>
    have hn : d1.fm = none := hfm.trans (Option.not_isSome_iff_eq_none.mp (by simp [hs]))
    rw [Dev.fmEnd_none d1 _ hn]
    exact ⟨hn, fun h => absurd h Bool.false_ne_true, hm, hd, hctx, hr, hp⟩
  case true =>
    have hon : d1.fmOn (d.fm.elim 16 (·.port)) = true := hfm ▸ Dev.fmOn_port d1 (hfm ▸ hs)
    have he : d1.fmEnd (d.fm.elim 16 (·.port)) = { d1 with fm := none, fmRing := {} } := if_pos hon
    rw [he]
    exact ⟨rfl, fun _ => rfl, hm, hd, hctx, hr, hp⟩

/-! ### The two commands -/

variable {d} in
theorem onUnits_of {sub : Bool} {st : Nat} {us : List Nat} {h : Home}
    (hu : ∃ iv ∈ h.occ sub st, ∃ u ∈ us, iv.1 ≤ u ∧ u < iv.1 + iv.2) : onUnits sub st us h = true := by
  obtain ⟨iv, hiv, u, hu, hin⟩ := hu
  exact List.any_eq_true.mpr ⟨iv, hiv, List.any_eq_true.mpr ⟨u, hu, decide_eq_true hin⟩⟩

theorem Dev.mem_retireExts (sub : Bool) (st : Nat) (us : List Nat) (x : Nat × Desc) (hx : x ∈ d.descs) (hst : x.2.st ≠ .free)
    (hro : x.2.ro = false) (hrl : x.2.reload = false) (hu : onUnits sub st us x.2.home = true) : x.1 ∈ d.retireExts sub st us :=
  List.mem_map.mpr ⟨x, List.mem_filter.mpr ⟨hx, by simp [hst, hro, hrl, hu]⟩, rfl⟩

theorem Dev.of_mem_retireExts (sub : Bool) (st : Nat) (us : List Nat) (k : Nat) (h : k ∈ d.retireExts sub st us) :
    ∃ x ∈ d.descs, x.1 = k ∧ x.2.ro = false ∧ x.2.st ≠ .free := by
  obtain ⟨x, hx, hk⟩ := List.mem_map.mp h
  obtain ⟨hm, hp⟩ := List.mem_filter.mp hx
  simp only [Bool.and_eq_true, decide_eq_true_eq, Bool.not_eq_true'] at hp
  exact ⟨x, hm, hk, hp.1.1.2, hp.1.1.1⟩

/-- RETIRE of units that exist. -/
theorem retire_spec (e : Entry) (ref : CmdRef) (c : Nat) (sub : Bool) (st : Nat) (us : List Nat) (h : d.retireUnits e = some (sub, st, us)) :
    let d1 := retireBody e ref c d
    d1.mem = d.mem ∧ d1.descs = d.descs ∧ d1.ctxs = d.ctxs ∧ (∀ u ∈ us, d1.retired.get (retKey sub st u) false = true) ∧
    (∀ k, d.retired.get k false = true → d1.retired.get k false = true) ∧
    d1.moves = d.moves ++ (d.retireExts sub st us).map (d.retireMove sub st ref) := by
  obtain ⟨n, hn⟩ := retireBody_spec d e ref c sub st us h
  have hk := d.retireMarked_kept sub st us
  have hmem : (d.retireMarked sub st us).mem = d.mem := (congrArg Dev.mem hk :)
  have hdescs : (d.retireMarked sub st us).descs = d.descs := (congrArg Dev.descs hk :)
  have hctxs : (d.retireMarked sub st us).ctxs = d.ctxs := (congrArg Dev.ctxs hk :)
  have hret : (retireBody e ref c d).retired = (d.retireMarked sub st us).retired := (congrArg Dev.retired hn :)
  refine ⟨(congrArg Dev.mem hn :).trans hmem, (congrArg Dev.descs hn :).trans hdescs, (congrArg Dev.ctxs hn :).trans hctxs, ?_, ?_,
    (congrArg Dev.moves hn :)⟩
  · exact fun u hu => hret ▸ d.retireMarked_marks sub st us u hu
  · exact fun k hk => hret ▸ d.retireMarked_keeps sub st us k hk

/-- Settles O38, from the body of RETIRE (units marked, then one move queued for each extent) and that of FM_DETACH. -/
theorem retireAndFmDetach : Obligations.RetireAndFmDetach := by
  unfold Obligations.RetireAndFmDetach
  intro s q e d0 c hs hc ref
  refine ⟨fun ho => ⟨fun hn => ?_, fun sub st us hu => ?_⟩, fun ho => ?_⟩
  · have hb : retireBody e ref c d0 = d0.complete ref 0x201 0 0 := by rw [retireBody, hn]
    exact hb ▸ State.devCmd_runs 0x27 q e (retireBody e) s d0 c ho hs hc
  · obtain ⟨hmem, hdescs, hctxs, hmarks, hkeeps, hmoves⟩ := retire_spec d0 e ref c sub st us hu
    refine ⟨_, State.devCmd_runs 0x27 q e (retireBody e) s d0 c ho hs hc, hmem, hdescs, hctxs, hmarks, hkeeps, _, hmoves, ?_, ?_⟩
    · intro m hm
      obtain ⟨k, hk, rfl⟩ := List.mem_map.mp hm
      exact ⟨rfl, rfl, rfl, rfl, d0.of_mem_retireExts sub st us k hk⟩
    · intro x hx hst hro hrl hun
      exact ⟨_, List.mem_map_of_mem (d0.mem_retireExts sub st us x hx hst hro hrl (onUnits_of hun)), rfl⟩
  · have hrow : e.row = some ⟨0x28, false, false, true, false, []⟩ := by rw [Entry.row, ho]; rfl
    have hq : q = .fm := Dev.cmdCheck_fmOnly hrow rfl hc
    have href : ref.q = .fm := (Dev.cmdRef_q d0 q e).trans hq
    exact ⟨_, State.devCmd_runs 0x28 q e (fun ref _ d => (d.complete ref 0 0 0).fmEnd (d.fm.elim 16 (·.port))) s d0 c ho hs hc,
      fmDetach_spec d0 ref href⟩

end

end Sys2Proof.Machine

/-! PROOF. The arrival of memory requests and their admission (R321, R322, R326; R241, R344). -/
namespace Sys2Proof.Machine

section
variable (d : Dev) (p : Fin 16) (ty : Nat) (h : ReqHdr) (data : List Gran) (ph : Phys)

/-! ### Arrival -/

/-- A request that the port has counted and taken in, its credits with it. -/
def Dev.taken : Dev :=
  (d.wrapInc row_OLY_CNT p.val f_OLY_CNT_REQUESTS).updPort p.val fun x =>
    { x with reqIn := x.reqIn + vcGran data.length, reqFreed := x.reqFreed + vcGran data.length }

/-- A request that waits in the port as it arrived. -/
def Dev.heldReq : Dev :=
  { d.taken p data with nextId := d.nextId + 1, reqs := d.reqs ++ [d.newReq p.val ty h data ph] }

/-- A request with a budget is counted. -/
def Dev.rtCounted : Dev :=
  if (d.newReq p.val ty h data ph).ticks.isSome then (d.heldReq p ty h data ph).wrapInc row_QOS_RT p.val f_QOS_RT_RT_REQUESTS
  else d.heldReq p ty h data ph

/-- Is a tag in use at a port. -/
def Dev.tagUsed : Prop := ∃ r ∈ d.reqs, r.port = p.val ∧ r.h.tag = h.tag

variable {d p h} in
theorem Dev.any_tag : (d.reqs.any fun r => r.port == p.val && r.h.tag == h.tag) = true ↔ d.tagUsed p h := by
  simp [Dev.tagUsed, List.any_eq_true]

theorem Dev.arrive_absent (hp : (d.port p.val).presents = false) : d.arrive p.val ty h data ph = d := by
  unfold Dev.arrive Dev.arriveWith
  exact if_pos (by rw [hp]; rfl)

section
variable (hp : (d.port p.val).presents = true)
include hp

theorem Dev.arrive_good (hok : headOk ty h data = true) (hl : data.length = dataLen ty h.length.toNat) (hu : ¬ d.tagUsed p h) :
    d.arrive p.val ty h data ph =
      if d.freezes == .running then (d.rtCounted p ty h data ph).admitReq d.nextId else d.rtCounted p ty h data ph := by
  have hany : (d.reqs.any fun r => r.port == p.val && r.h.tag == h.tag) = false := Bool.eq_false_iff.mpr fun ha => hu (Dev.any_tag.mp ha)
  have hf : (d.rtCounted p ty h data ph).freezes = d.freezes := by
    unfold Dev.rtCounted
    split <;> rfl
  unfold Dev.arrive Dev.arriveWith
  dsimp -zeta only
  extract_lets ok d1 k d2 r d3 d4
  have hreqs : d2.reqs = d.reqs := rfl
  have hok' : ok = true := by simp [ok, hok]
  have h4 : d4 = d.rtCounted p ty h data ph := rfl
  rw [if_neg (by rw [hp]; decide), if_neg (by simp [hok', hl]), hreqs, if_neg (Bool.eq_false_iff.mp hany), if_neg (by rw [hok']; decide), h4, hf]
  rfl

theorem Dev.arrive_malformed (hok : headOk ty h data = false) (hu : ¬ d.tagUsed p h) :
    d.arrive p.val ty h data ph =
      ((d.rtCounted p ty h data ph).satInc row_OLY_ERR p.val f_OLY_ERR_MALFORMED).failReq d.nextId 0x12 := by
  have hany : (d.reqs.any fun r => r.port == p.val && r.h.tag == h.tag) = false := Bool.eq_false_iff.mpr fun ha => hu (Dev.any_tag.mp ha)
  unfold Dev.arrive Dev.arriveWith
  dsimp -zeta only
  extract_lets ok d1 k d2 r d3 d4
  have hreqs : d2.reqs = d.reqs := rfl
  have hok' : ok = false := by simp [ok, hok]
  rw [if_neg (by rw [hp]; decide), if_neg (by simp [hok']), hreqs, if_neg (Bool.eq_false_iff.mp hany), if_pos (by rw [hok']; rfl)]
  rfl

theorem Dev.arrive_reused (hok : headOk ty h data = true) (hl : data.length = dataLen ty h.length.toNat) (hu : d.tagUsed p h) :
    d.arrive p.val ty h data ph = (d.taken p data).protoFault p.val := by
  have hany : (d.reqs.any fun r => r.port == p.val && r.h.tag == h.tag) = true := Dev.any_tag.mpr hu
  unfold Dev.arrive Dev.arriveWith
  dsimp -zeta only
  extract_lets ok d1 k d2 r d3 d4
  have hreqs : d2.reqs = d.reqs := rfl
  have hok' : ok = true := by simp [ok, hok]
  rw [if_neg (by rw [hp]; decide), if_neg (by simp [hok', hl]), hreqs, if_pos hany]
  rfl

end

theorem row_QOS_RT_apart (p : Fin 16) : row_OLY_CNT.addr p.val ≠ row_QOS_RT.addr p.val := by
  revert p
  decide

theorem Dev.fld_taken : (d.taken p data).fld row_OLY_CNT p.val f_OLY_CNT_REQUESTS =
    (d.fld row_OLY_CNT p.val f_OLY_CNT_REQUESTS + 1) % (f_OLY_CNT_REQUESTS.top + 1) := by
  have htop : f_OLY_CNT_REQUESTS.top + 1 = 2 ^ (f_OLY_CNT_REQUESTS.hi + 1 - f_OLY_CNT_REQUESTS.lo) := by decide
  have hcount := Dev.fld_wrapInc d row_OLY_CNT p.val f_OLY_CNT_REQUESTS 1 (by decide)
  rw [htop]
  unfold Dev.taken
  generalize d.wrapInc row_OLY_CNT p.val f_OLY_CNT_REQUESTS = e at hcount ⊢
  exact hcount

theorem Dev.port_taken : (d.taken p data).port p.val = { d.port p.val with
    reqIn := (d.port p.val).reqIn + vcGran data.length, reqFreed := (d.port p.val).reqFreed + vcGran data.length } :=
  Dev.port_updPort_same _ _ _

theorem Dev.rd_heldReq : (d.heldReq p ty h data ph).rd row_OLY_CNT p.val = (d.taken p data).rd row_OLY_CNT p.val := by
  unfold Dev.heldReq
  generalize d.taken p data = e
  rfl

theorem Dev.rd_rtCounted : (d.rtCounted p ty h data ph).rd row_OLY_CNT p.val = (d.taken p data).rd row_OLY_CNT p.val := by
  have hheld := d.rd_heldReq p ty h data ph
  unfold Dev.rtCounted
  generalize d.heldReq p ty h data ph = e at hheld ⊢
  split
  · exact (Dev.rd_setFld_other e _ _ _ _ _ _ (row_QOS_RT_apart p)).trans hheld
  · exact hheld

theorem Dev.ports_rtCounted : (d.rtCounted p ty h data ph).ports = (d.taken p data).ports := by
  unfold Dev.rtCounted
  split <;> rfl

theorem Dev.rtCounted_kept : let e := d.rtCounted p ty h data ph
    e = { d with reqs := d.reqs ++ [d.newReq p.val ty h data ph], nextId := d.nextId + 1, regs := e.regs, ports := e.ports } := by
  unfold Dev.rtCounted
  split <;> rfl

/-- What the arrival of a request changes. -/
theorem Dev.rtCounted_spec :
    let e := d.rtCounted p ty h data ph
    e = { d with reqs := d.reqs ++ [d.newReq p.val ty h data ph], nextId := d.nextId + 1, regs := e.regs, ports := e.ports } ∧
    e.fld row_OLY_CNT p.val f_OLY_CNT_REQUESTS = (d.fld row_OLY_CNT p.val f_OLY_CNT_REQUESTS + 1) % (f_OLY_CNT_REQUESTS.top + 1) ∧
    e.port p.val = { d.port p.val with
      reqIn := (d.port p.val).reqIn + vcGran data.length, reqFreed := (d.port p.val).reqFreed + vcGran data.length } := by
  have hkept := d.rtCounted_kept p ty h data ph
  have hrd := d.rd_rtCounted p ty h data ph
  have hports := d.ports_rtCounted p ty h data ph
  have hcount := d.fld_taken p data
  have hport := d.port_taken p data
  generalize d.rtCounted p ty h data ph = e at hkept hrd hports ⊢
  generalize d.taken p data = t at hrd hports hcount hport
  have hfld : e.fld row_OLY_CNT p.val f_OLY_CNT_REQUESTS = t.fld row_OLY_CNT p.val f_OLY_CNT_REQUESTS :=
    congrArg f_OLY_CNT_REQUESTS.get hrd
  have hp : e.port p.val = t.port p.val := congrArg (fun x : Tab Port => x.get p.val {}) hports
  exact ⟨hkept, hfld.trans hcount, hp.trans hport⟩

/-- A malformed request ends, and its completion waits for one credit. -/
theorem Dev.malformed_spec :
    let e := ((d.rtCounted p ty h data ph).satInc row_OLY_ERR p.val f_OLY_ERR_MALFORMED).failReq d.nextId 0x12
    e.mem = d.mem ∧ ∃ r ∈ e.reqs, r.id = d.nextId ∧ r.h.tag = h.tag ∧ r.status = 0x12 ∧ r.stage = .credits ∧ r.resv = 1 := by
  have hk := (d.rtCounted_spec p ty h data ph).1
  generalize d.rtCounted p ty h data ph = d1 at hk ⊢
  have hreqs : (d1.satInc row_OLY_ERR p.val f_OLY_ERR_MALFORMED).reqs = d.reqs ++ [d.newReq p.val ty h data ph] :=
    (show _ = d1.reqs from rfl).trans (congrArg Dev.reqs hk :)
  have hmem : (d1.satInc row_OLY_ERR p.val f_OLY_ERR_MALFORMED).mem = d.mem := (show _ = d1.mem from rfl).trans (congrArg Dev.mem hk :)
  generalize d1.satInc row_OLY_ERR p.val f_OLY_ERR_MALFORMED = d2 at hreqs hmem ⊢
  refine ⟨(congrArg Dev.mem (d2.besideReqs_failReq d.nextId 0x12) :).trans hmem, (d.newReq p.val ty h data ph).ended 0x12, ?_, rfl, rfl, rfl,
    rfl, rfl⟩
  rw [Dev.failReq_reqs, hreqs]
  exact List.mem_map.mpr ⟨d.newReq p.val ty h data ph, List.mem_append_right _ List.mem_cons_self, if_pos rfl⟩

/-! ### Admission -/

variable (id c : Nat) (r : Req) (hr : d.reqOf id = some r) (hf : d.state ≠ .failed) (hc : r.h.ctx ≠ 0#32)
include hr hf hc

theorem Dev.admitReq_unknown (hn : d.ctxOf (some r.port) r.h.ctx = none) : d.admitReq id = d.failReq id 0x09 := by
  simp [Dev.admitReq, hr, hf, hc, hn]

variable (ho : d.ctxOf (some r.port) r.h.ctx = some c)
include ho

theorem Dev.admitReq_draining (hs : (d.ctx c).st = .draining) : d.admitReq id = d.failReq id 0x02 := by
  simp [Dev.admitReq, hr, hf, hc, ho, hs]

theorem Dev.admitReq_orphaned (hs : (d.ctx c).st = .orphaned) (hw : r.ty ≠ 1 ∨ d.host r.port = none ∨ (d.ctx c).slot = none) :
    d.admitReq id = d.failReq id 0x0A := by
  have hno : (r.ty = 1 && (d.host r.port).isSome && (d.ctx c).slot.isSome && !(d.ctx c).parking) = false := by
    rcases hw with hw | hw | hw <;> simp [hw]
  simp [Dev.admitReq, hr, hf, hc, ho, hs, hno]

theorem Dev.admitReq_full (hs : (d.ctx c).st = .parked) (hg : r.stage ≠ .parkQ) (hw : 64 ≤ d.parkUsed r.port) :
    d.admitReq id = (d.satInc row_CTX_PORT_CNT r.port f_CTX_PORT_CNT_NACK_RETRY).failReq id 0x0B := by
  simp [Dev.admitReq, hr, hf, hc, ho, hs, hg, hw]

end

/-- A request that ends with a status leaves every request of its number with it. -/
theorem Dev.failReq_status (d : Dev) (id st : Nat) (q : Req) (hq : q ∈ (d.failReq id st).reqs) (hid : q.id = id) : q.status = st := by
  rw [Dev.failReq_reqs] at hq
  obtain ⟨t, -, rfl⟩ := List.mem_map.mp hq
  by_cases ht : t.id = id
  · rw [if_pos ht]
    rfl
  · rw [if_neg ht] at hid
    exact absurd hid ht

/-- A step of a memory request is its arrival, and what follows. -/
theorem exec_request (s : State) (p : Fin 16) (h : ReqHdr) (ph : Phys) (c : Instr) (ty : Nat) (data : List Gran)
    (hc : (c = .rd p h ph ∧ ty = 1 ∧ data = []) ∨ (c = .wr p h data ph ∧ ty = 2) ∨ (∃ m l, c = .wrp p h m l ph ∧ ty = 3 ∧ data = m :: l) ∨
      (∃ g, c = .atom p h g ph ∧ ty = 4 ∧ data = [g]) ∨ (∃ g, c = .pub p h g ph ∧ ty = 5 ∧ data = [g])) :
    exec c s = .next { s with dev := (s.dev.arrive p.val ty h data ph).finish ph } := by
  rcases hc with ⟨rfl, rfl, rfl⟩ | ⟨rfl, rfl⟩ | ⟨m, l, rfl, rfl, rfl⟩ | ⟨g, rfl, rfl, rfl⟩ | ⟨g, rfl, rfl, rfl⟩ <;> rfl

/-- Settles O41, from the arrival of a request (counted, taken in, refused or held) and the order of the checks of its admission. -/
theorem memoryRequestsArrive : Obligations.MemoryRequestsArrive := by
  unfold Obligations.MemoryRequestsArrive
  refine ⟨fun s p h ph c ty data hc => ?_, fun d id r hr hf h0 => ⟨d.admitReq_unknown id r hr hf h0, fun c ho => ⟨?_, ?_, ?_⟩⟩⟩
  · have hexec := exec_request s p h ph c ty data hc
    refine ⟨fun hp => ?_, fun hp => ⟨fun hok hl hu => ?_, fun hok hu => ?_, fun hok hl hu => ?_⟩⟩
    · rw [hexec, s.dev.arrive_absent p ty h data ph hp]
    · refine ⟨s.dev.rtCounted p ty h data ph, ?_, s.dev.rtCounted_spec p ty h data ph⟩
      rw [hexec, s.dev.arrive_good p ty h data ph hp hok hl hu]
      by_cases hrun : s.dev.freezes = .running
      · rw [if_pos hrun, if_pos (beq_iff_eq.mpr hrun)]
      · rw [if_neg hrun, if_neg fun hb => hrun (beq_iff_eq.mp hb)]
    · exact ⟨_, s.dev.arrive_malformed p ty h data ph hp hok hu ▸ hexec, s.dev.malformed_spec p ty h data ph⟩
    · obtain ⟨hst, hcause, hmem⟩ := (s.dev.taken p data).downTo_protoFault p.val
      exact ⟨_, s.dev.arrive_reused p ty h data ph hp hok hl hu ▸ hexec, hmem, hst, hcause⟩
  · exact d.admitReq_draining id c r hr hf h0 ho
  · exact d.admitReq_orphaned id c r hr hf h0 ho
  · intro hs hg hw
    refine ⟨_, d.admitReq_full id c r hr hf h0 ho hs hg hw, ?_, fun q hq hid => ?_⟩
    · exact Dev.eq_of_besideReqs d ((Dev.besideReqs_failReq _ id 0x0B).trans rfl)
    · exact Dev.failReq_status _ id 0x0B q hq hid

end Sys2Proof.Machine

/-! PROOF. The activation of a staged firmware (R358, R359, R361): the hand-off block reads back as it was written, the ends of an activation. -/
namespace Sys2Proof.Machine

section
variable (d : Dev)

/-! ### Granules of the hand-off block -/

/-- Two granules of the fixed area of a partition stand apart. -/
theorem Dev.fixedPlace_apart (part i j : Nat) (g h : Nat × Nat) (hg : d.fixedPlace part i = some g) (hh : d.fixedPlace part j = some h)
    (hij : i ≠ j) : granKey g.1 g.2 ≠ granKey h.1 h.2 := by
  unfold Dev.fixedPlace at hg hh
  obtain ⟨st, hs, hg⟩ := Option.bind_eq_some_iff.mp hg
  obtain ⟨s, hp, hg⟩ := Option.bind_eq_some_iff.mp hg
  obtain ⟨S, hS, hg⟩ := Option.bind_eq_some_iff.mp hg
  rw [hs] at hh
  simp only [Option.bind_some, hp, hS] at hh
  split at hg
  · split at hh
    · obtain rfl := Option.some.inj hg
      obtain rfl := Option.some.inj hh
      unfold granKey
      omega
    · exact nomatch hh
  · exact nomatch hg

theorem codeData_loamEncode (g : Gran) : codeData (loamEncode g) = g := by
  unfold codeData loamEncode
  generalize loamCheck g = c
  exact BitVec.setWidth_append_eq_right

theorem loamDecode_loamEncode (g : Gran) : loamDecode (loamEncode g) = (.clean, g) := by
  unfold loamDecode
  rw [codeData_loamEncode, if_pos rfl]

/-- Where granule i of the block can be read and written. -/
def Dev.blockSound (i : Nat) : Prop := ∃ g, d.blockPlace i = some g ∧ d.setFenced g.1 = false

variable {d} in
theorem Dev.blockPlace_beside {e : Dev} (h : e.besideMem = d.besideMem) (i : Nat) : e.blockPlace i = d.blockPlace i :=
  (congrArg (fun x : Dev => x.blockPlace i) h :)

variable {d} in
theorem Dev.setFenced_beside {e : Dev} (h : e.besideMem = d.besideMem) (k : Nat) : e.setFenced k = d.setFenced k :=
  (congrArg (fun x : Dev => x.setFenced k) h :)

theorem Dev.blockPut_cons (i : Nat) (g : Gran) (t : List Gran) :
    d.blockPut i (g :: t) = ((d.blockPlace i).elim d fun p => if d.setFenced p.1 then d else d.memWrite p.1 p.2 g).blockPut (i + 1) t := rfl

theorem Dev.besideMem_blockPut (i : Nat) (l : List Gran) : (d.blockPut i l).besideMem = d.besideMem := by
  induction l generalizing d i with
  | nil => rfl
  | cons g t ih =>
    rw [Dev.blockPut_cons]
    refine (ih _ (i + 1)).trans ?_
    cases d.blockPlace i with
    | none => rfl
    | some p =>
      dsimp only [Option.elim]
      split
      · rfl
      · exact d.besideMem_memWrite _ _ _

/-- Granules written after a granule leave it alone. -/
theorem Dev.memGet_blockPut (k i : Nat) (p : Nat × Nat) (l : List Gran) (hp : d.blockPlace k = some p) (hk : k < i) :
    (d.blockPut i l).memGet p.1 p.2 = d.memGet p.1 p.2 := by
  induction l generalizing d i with
  | nil => rfl
  | cons g t ih =>
    rw [Dev.blockPut_cons]
    cases hq : d.blockPlace i with
    | none => exact ih d (i + 1) hp (by omega)
    | some q =>
      dsimp only [Option.elim]
      split
      · exact ih d (i + 1) hp (by omega)
      · have hplace := (Dev.blockPlace_beside (d.besideMem_memWrite q.1 q.2 g) k).trans hp
        have hne : granKey p.1 p.2 ≠ granKey q.1 q.2 := d.fixedPlace_apart 0 (workOff + k) (workOff + i) p q hp hq (by omega)
        refine (ih (d.memWrite q.1 q.2 g) (i + 1) hplace (by omega)).trans ?_
        exact d.memGet_memPut_other q.1 q.2 p.1 p.2 _ hne

/-- A block that is written where every place of it is sound reads back. -/
theorem Dev.blockGet_blockPut (i : Nat) (l : List Gran) (h : ∀ j, j < l.length → d.blockSound (i + j)) (j : Nat) (hj : j < l.length) :
    (d.blockPut i l).blockGet (i + j) = some (l.getD j 0) := by
  induction l generalizing d i j with
  | nil => exact absurd hj (Nat.not_lt_zero j)
  | cons g t ih =>
    obtain ⟨p, hp, hf⟩ := h 0 (Nat.zero_lt_succ _)
    rw [Nat.add_zero] at hp
    have hput : d.blockPut i (g :: t) = (d.memWrite p.1 p.2 g).blockPut (i + 1) t := by
      rw [Dev.blockPut_cons, hp]
      exact congrArg (fun e : Dev => e.blockPut (i + 1) t) (if_neg (by rw [hf]; decide))
    have hb := d.besideMem_memWrite p.1 p.2 g
    rw [hput]
    cases j with
    | zero =>
      have hall : ((d.memWrite p.1 p.2 g).blockPut (i + 1) t).besideMem = d.besideMem := (Dev.besideMem_blockPut _ _ _).trans hb
      have hcode : ((d.memWrite p.1 p.2 g).blockPut (i + 1) t).memGet p.1 p.2 = loamEncode g :=
        (Dev.memGet_blockPut _ i (i + 1) p t ((Dev.blockPlace_beside hb i).trans hp) (Nat.lt_succ_self i)).trans
          (d.memGet_memPut_same p.1 p.2 (loamEncode g))
      unfold Dev.blockGet
      rw [Dev.blockPlace_beside hall, Nat.add_zero i, hp]
      dsimp only [Option.bind_some]
      rw [Dev.setFenced_beside hall, hf, if_neg Bool.false_ne_true, hcode, loamDecode_loamEncode]
      rfl
    | succ n =>
      have hsound : ∀ j, j < t.length → (d.memWrite p.1 p.2 g).blockSound (i + 1 + j) := fun j hj => by
        obtain ⟨q, hq, hqf⟩ := h (j + 1) (Nat.succ_lt_succ hj)
        have hidx : i + 1 + j = i + (j + 1) := by omega
        exact ⟨q, (Dev.blockPlace_beside hb _).trans (hidx ▸ hq), (Dev.setFenced_beside hb _).trans hqf⟩
      have hn := ih (d.memWrite p.1 p.2 g) (i + 1) hsound n (Nat.lt_of_succ_lt_succ hj)
      rwa [show i + 1 + n = i + (n + 1) by omega] at hn

/-- Partial reads that all succeed. -/
theorem mapM_some {α β : Type} (f : α → Option β) (g : α → β) (l : List α) (h : ∀ x ∈ l, f x = some (g x)) : l.mapM f = some (l.map g) := by
  induction l with
  | nil => rfl
  | cons x t ih =>
    rw [List.mapM_cons, h x List.mem_cons_self, ih fun y hy => h y (List.mem_cons_of_mem _ hy)]
    rfl

theorem map_getD_range (l : List Gran) : (List.range l.length).map (fun j => l.getD j 0) = l := by
  apply List.ext_getElem
  · simp
  · intro i h1 h2
    simp [h2]

theorem Dev.mapM_blockGet (l : List Gran) (h : ∀ j, j < l.length → d.blockSound j) :
    (List.range l.length).mapM (d.blockPut 0 l).blockGet = some l := by
  have hget : ∀ j ∈ List.range l.length, (d.blockPut 0 l).blockGet j = some (l.getD j 0) := fun j hj => by
    have hz := d.blockGet_blockPut 0 l (fun j hj => (Nat.zero_add j).symm ▸ h j hj) j (List.mem_range.mp hj)
    rwa [Nat.zero_add] at hz
  rw [mapM_some _ _ _ hget, map_getD_range]

/-! ### The header of the block -/

/-- A digest on top of the words of a header. -/
theorem toNat_digested (D : BitVec 64) (low : BitVec 192) : (D ++ low).toNat = D.toNat * 2 ^ 192 + low.toNat := by
  rw [BitVec.toNat_append, ← Nat.shiftLeft_add_eq_or_of_lt low.isLt, Nat.shiftLeft_eq]

theorem toNat_handHeader (version svn len seq : Nat) : (handHeader version svn len seq).toNat =
    0x4F485153 + version % 65536 * 2 ^ 32 + svn % 65536 * 2 ^ 64 + 9 * 2 ^ 80 + len % 2 ^ 32 * 2 ^ 96 + seq % 2 ^ 32 * 2 ^ 128 := by
  unfold handHeader
  rw [BitVec.toNat_ofNat]
  omega

section
variable (D : BitVec 64) (version svn len seq : Nat)

theorem bits_header_magic : bits (D ++ handHeader version svn len seq).toNat 0 32 = 0x4F485153 := by
  rw [toNat_digested, toNat_handHeader, bits]
  omega

theorem bits_header_version : bits (D ++ handHeader version svn len seq).toNat 32 16 = version % 65536 := by
  rw [toNat_digested, toNat_handHeader, bits]
  omega

theorem bits_header_digest (low : BitVec 192) : bits (D ++ low).toNat 192 64 = D.toNat := by
  have hD := D.isLt
  have hl := low.isLt
  rw [toNat_digested, bits]
  omega

end

/-! ### What the old image writes -/

theorem Dev.freshList_length (w n : Nat) : (d.freshList w n).1.length = n := by
  induction n generalizing d with
  | zero => rfl
  | succ n ih => exact congrArg Nat.succ (ih (d.fresh w).2)

theorem Dev.freshList_dev (w n : Nat) : (d.freshList w n).2 = { d with free := (d.freshList w n).2.free } := by
  induction n generalizing d with
  | zero => rfl
  | succ n ih => exact (ih (d.fresh w).2).trans rfl

/-- The block that the old image writes: its header, twelve granules of directory and sections, and free values taken. -/
theorem State.handBlock_spec (s : State) : ∃ (t : List Gran) (n : Nat), t.length = 12 ∧
    (let low := handHeader s.sec.handoffOut s.sec.runSvn blockLen s.dev.upd.activations
     s.handBlock = ((handDigest low t ++ low) :: t, { s.dev with free := n })) := by
  have h1 := s.dev.freshList_dev 16 9
  have h2 := (s.dev.freshList 16 9).2.freshList_dev 256 9
  have hlen := (s.dev.freshList 16 9).2.freshList_length 256 9
  unfold State.handBlock
  generalize s.dev.freshList 16 9 = f at h1 h2 hlen ⊢
  obtain ⟨fs, d1⟩ := f
  dsimp only at h1 h2 hlen ⊢
  generalize d1.freshList 256 9 = f at h2 hlen ⊢
  obtain ⟨secs, d2⟩ := f
  dsimp only at h2 hlen ⊢
  refine ⟨_, d2.free, ?_, congrArg (Prod.mk _) ?_⟩
  · rw [List.length_append, hlen]
    rfl
  · rw [h2, h1]

/-! ### What the ends of an activation leave of memory, flash and the update machine -/

def Dev.updParts : List Host.Cell × List Host.Cell × Upd := (d.mem, d.flash, d.upd)

theorem Dev.updParts_complete (r : CmdRef) (st r0 r1 : Nat) (g : Gran) (final : Bool) :
    (d.complete r st r0 r1 g final).updParts = d.updParts :=
  (congrArg (fun x : AnswerLeft => x.rest.updParts) (d.beyondAnswer_complete r st r0 r1 g final) :)

theorem Dev.updParts_event (dst : Option Nat) (code ctx data : Nat) : (d.event dst code ctx data).updParts = d.updParts :=
  (congrArg Dev.updParts (d.eventsOnly_event dst code ctx data).rest :)

theorem Dev.updParts_resume : d.resume.updParts = (d.mem, d.flash, { d.upd with paused := false }) := by
  unfold Dev.resume
  extract_lets hs _ d1
  have h1 : d1.updParts = (d.mem, d.flash, { d.upd with paused := false }) :=
    (congrArg (fun x : AnswerLeft => x.rest.updParts) (Dev.beyondAnswer_cplFlush _) :)
  clear_value d1
  split
  · exact (congrArg Dev.updParts d1.eventsOnly_evFlush.rest :).trans h1
  · exact h1

theorem Dev.updParts_updEnd (ref : CmdRef) (st r0 : Nat) : (d.updEnd ref st r0).updParts = (d.mem, d.flash, { d.upd with last := st }) :=
  Dev.updParts_complete _ ref st r0 0 0 true

theorem Dev.updParts_resumed (code data : Nat) : (d.resume.event none code 0 data).updParts = (d.mem, d.flash, { d.upd with paused := false }) :=
  (Dev.updParts_event _ _ _ _ _).trans d.updParts_resume

variable {d} in
theorem Dev.updParts_parts {m f : List Host.Cell} {u : Upd} (h : d.updParts = (m, f, u)) : d.mem = m ∧ d.flash = f ∧ d.upd = u :=
  ⟨congrArg Prod.fst h, congrArg (fun x => x.2.1) h, congrArg (fun x => x.2.2) h⟩

/-- An activation that the new image refuses. -/
theorem Dev.updRefuse_spec (ref : CmdRef) (h : d.upd.cmd = some ref) (reason : Nat) : (d.updRefuse reason).updParts =
    (d.mem, d.flash, { d.upd with st := .staged, cmd := none, paused := false, sram := [], last := 0x248 }) := by
  unfold Dev.updRefuse
  rw [h]
  dsimp -zeta only
  extract_lets _ d1
  obtain ⟨hm, hf, hu⟩ := Dev.updParts_parts (({ d with upd := { d.upd with st := .staged, cmd := none, sram := [] } } : Dev).updParts_resume)
  refine (Dev.updParts_event _ _ _ _ _).trans ((d1.updParts_updEnd ref 0x248 reason).trans ?_)
  rw [show d1.mem = _ from hm, show d1.flash = _ from hf, show d1.upd = _ from hu]

/-- An activation that is abandoned as its window ends. -/
theorem Dev.updAbandon_deferred (ref : CmdRef) (h : d.upd.cmd = some ref) (hst : d.upd.st = .deferred) (hw : d.upd.write = none) (reason : Nat) :
    (d.updAbandon reason).updParts =
      (d.mem, d.flash, { d.upd with st := .staged, cmd := none, buf := [], sram := [], paused := false, last := 0x249 }) := by
  unfold Dev.updAbandon
  rw [h]
  dsimp -zeta only
  extract_lets st _ d1
  have hst' : st = .staged := by simp [st, hst, hw]
  obtain ⟨hm, hf, hu⟩ := Dev.updParts_parts
    (({ d with upd := { d.upd with st := st, cmd := none, buf := [], write := none, sram := [] } } : Dev).updParts_resume)
  refine (Dev.updParts_event _ _ _ _ _).trans ((d1.updParts_updEnd ref 0x249 reason).trans ?_)
  rw [show d1.mem = _ from hm, show d1.flash = _ from hf, show d1.upd = _ from hu, hst', ← hw]

end

section
variable (s : State) (ref : CmdRef)

/-! ### Acceptance -/

/-- The security state once the staged image runs. -/
def State.acceptSec : Sec :=
  let o : Obj := s.dev.upd.sram
  { s.sec with
    slotB := !s.sec.slotB, stagedV := false, runSvn := o.svn, runVersion := BitVec.ofNat 64 o.version, runMeas := o.measure,
    handoffOut := o.handoffOut }

/-- Is a raise of the fused security version asked for by the image that SRAM holds. -/
def State.raises : Bool := s.dev.upd.raise && decide (s.sec.svnFuse < Obj.svn s.dev.upd.sram)

theorem State.accept_spec (fuseOk : Bool) :
    let o : Obj := s.dev.upd.sram
    let e := s.accept ref fuseOk
    e = { s with dev := e.dev, sec := s.acceptSec } ∧ e.dev.mem = s.dev.mem ∧
    e.dev.flash = (s.dev.recPut { s.dev.bootRec with slotB := !s.sec.slotB, pending := s.raises }).flash ∧
    e.dev.upd.st = .idle ∧ e.dev.upd.paused = false ∧ e.dev.upd.activations = (s.dev.upd.activations + 1) % 65536 ∧
    ((s.raises && fuseOk) = true → e.dev.upd.cmd = some ref ∧ e.dev.upd.burn = some o.svn) ∧
    ((s.raises && fuseOk) = false → e.dev.upd.cmd = none ∧ e.dev.upd.burn = none ∧ e.dev.upd.last = if s.raises then 0x24E else 0) := by
  intro o
  unfold State.accept
  extract_lets d1 o' us up _ x burns _ d2 _ d3 d4 s1 e
  have hup : up = s.raises := rfl
  have hburns : burns = (s.raises && fuseOk) := rfl
  have hx : x = s.acceptSec := rfl
  have hrest := s.dev.recPut_rest { s.dev.bootRec with slotB := !s.sec.slotB, pending := s.raises }
  have hd2 : d2 = s.dev.recPut { s.dev.bootRec with slotB := !s.sec.slotB, pending := s.raises } := rfl
  rw [← hd2] at hrest ⊢
  clear_value d2
  have hm2 : d2.mem = s.dev.mem := (congrArg Dev.mem hrest :)
  have hu2 : d2.upd = s.dev.upd := (congrArg Dev.upd hrest :)
  have h4 : d4.updParts = (d3.mem, d3.flash, { d3.upd with paused := false }) := d3.updParts_resumed 0x21 _
  have hs1 : s1 = { s with dev := d4, sec := s.acceptSec } := rfl
  have he : e = if burns then s1 else s1.updEnd ref (if up then 0x24E else 0) 0 := rfl
  clear_value e s1 d4
  have hm3 : d3.mem = s.dev.mem := hm2
  have hf3 : d3.flash = d2.flash := rfl
  have hu3 : d3.upd = { d2.upd with
      st := .idle, cmd := if burns then some ref else none, burn := if burns then some o.svn else none, sram := [],
      activations := (d2.upd.activations + 1) % 65536 } := rfl
  rw [hu2] at hu3
  clear_value d3
  obtain ⟨hm4, hf4, hu4⟩ := Dev.updParts_parts h4
  rw [hm3] at hm4
  rw [hf3] at hf4
  rw [hu3] at hu4
  clear_value burns up
  rw [he, hs1]
  cases hb : burns
  case true =>
    rw [if_pos rfl]
    rw [hb] at hu4 hburns
    refine ⟨rfl, hm4, hf4, ?_⟩
    dsimp only
    rw [hu4]
    exact ⟨rfl, rfl, rfl, fun _ => ⟨rfl, rfl⟩, fun h => absurd (hburns.trans h) (by decide)⟩
  case false =>
    rw [if_neg Bool.false_ne_true]
    rw [hb] at hu4 hburns
    obtain ⟨hm, hf, hu⟩ := Dev.updParts_parts (d4.updParts_updEnd ref (if up then 0x24E else 0) 0)
    refine ⟨rfl, hm.trans hm4, hf.trans hf4, ?_⟩
    dsimp only [State.updEnd, State.onDev]
    rw [hu, hu4]
    exact ⟨rfl, rfl, rfl, fun h => absurd (hburns.trans h) (by decide), fun _ => ⟨rfl, rfl, by rw [← hup]⟩⟩

/-! ### The pause -/

/-- The device as the old image has written the block and paused. -/
def State.pausedDev (n : Nat) (b : List Gran) : Dev :=
  ({ s.dev with free := n, upd := { s.dev.upd with
    st := .activating, paused := true, since := s.dev.lived (commonDom 0), sram := s.dev.fwObj (!s.sec.slotB), block := b.length } } : Dev).blockPut 0 b

theorem State.pause_fails (h : s.dev.upd.cmd = some ref) (hv : s.sec.verify (s.dev.fwObj (!s.sec.slotB)) 1 [0] ≠ 0) :
    s.pause = ({ s with dev := { s.dev with upd := { s.dev.upd with st := .staged, cmd := none } } } : State).updEnd ref
      (s.sec.verify (s.dev.fwObj (!s.sec.slotB)) 1 [0]) 0 := by
  unfold State.pause
  rw [h]
  exact if_pos hv

theorem State.pause_writes (h : s.dev.upd.cmd = some ref) (hv : s.sec.verify (s.dev.fwObj (!s.sec.slotB)) 1 [0] = 0) (b : List Gran) (n : Nat)
    (hb : s.handBlock = (b, { s.dev with free := n })) : s.pause = { s with dev := s.pausedDev n b } := by
  unfold State.pause
  rw [h]
  refine (if_neg (not_not_intro hv)).trans ?_
  rw [hb]
  rfl

/-- The new image finds nothing wrong with a block that it can read but for its VERSION. -/
theorem State.handFault_written (t : State) (low : BitVec 192) (T : List Gran) (version svn len seq : Nat)
    (hl : low = handHeader version svn len seq)
    (hb : (List.range t.dev.upd.block).mapM t.dev.blockGet = some ((handDigest low T ++ low) :: T)) :
    t.handFault = if version % 65536 < Obj.handoffMin t.dev.upd.sram ∨ Obj.handoffMax t.dev.upd.sram < version % 65536 then 4 else 0 := by
  have hset : (handDigest low T ++ low).setWidth 192 = low := BitVec.setWidth_append_eq_right
  have hdig := bits_header_digest (handDigest low T) low
  have hmagic : bits (handDigest low T ++ low).toNat 0 32 = 0x4F485153 := hl ▸ bits_header_magic _ version svn len seq
  have hver : bits (handDigest low T ++ low).toNat 32 16 = version % 65536 := hl ▸ bits_header_version _ version svn len seq
  unfold State.handFault
  rw [hb]
  dsimp only
  rw [hset, hdig, hmagic, hver, BitVec.ofNat_toNat, BitVec.setWidth_eq, if_neg (by simp)]

theorem State.pausedDev_beside (n : Nat) (b : List Gran) :
    (s.pausedDev n b).besideMem = ({ s.dev with free := n, upd := { s.dev.upd with
      st := .activating, paused := true, since := s.dev.lived (commonDom 0), sram := s.dev.fwObj (!s.sec.slotB), block := b.length } } : Dev).besideMem :=
  Dev.besideMem_blockPut _ 0 b

theorem exec_pause (hserv : s.dev.serving = true) (hw : s.dev.upd.waits = true) (hc : s.pwr.causes = []) (ho : s.dev.windowOver = false) :
    exec .activationPause s = .next (s.pause.onDev Dev.finish) := by
  have hem : s.emergency = false := by simp [State.emergency, hc]
  exact if_pos (by simp [hserv, hw, hem, ho])

/-- The pause of an activation whose staged object verifies. -/
theorem State.pause_goes (h : s.dev.upd.cmd = some ref) (hv : s.sec.verify (s.dev.fwObj (!s.sec.slotB)) 1 [0] = 0) : ∃ d : Dev,
    s.pause = { s with dev := d } ∧
    d.upd = { s.dev.upd with
      st := .activating, paused := true, since := s.dev.lived (commonDom 0), sram := s.dev.fwObj (!s.sec.slotB), block := 13 } ∧
    d.regs = s.dev.regs ∧ d.descs = s.dev.descs ∧ d.ctxs = s.dev.ctxs ∧
    ((∀ i, i < 13 → ∃ g, s.dev.blockPlace i = some g ∧ s.dev.setFenced g.1 = false) →
      let o := s.dev.fwObj (!s.sec.slotB)
      let v := s.sec.handoffOut % 65536
      ({ s with dev := d } : State).handFault = if v < o.handoffMin ∨ o.handoffMax < v then 4 else 0) := by
  obtain ⟨T, n, hT, hb⟩ := s.handBlock_spec
  generalize hl : handHeader s.sec.handoffOut s.sec.runSvn blockLen s.dev.upd.activations = low at hb
  dsimp only at hb
  have hlen : ((handDigest low T ++ low) :: T).length = 13 := congrArg Nat.succ hT
  have hp := s.pause_writes ref h hv _ n hb
  have hbeside := s.pausedDev_beside n ((handDigest low T ++ low) :: T)
  have hread : (∀ i, i < 13 → s.dev.blockSound i) →
      (List.range 13).mapM (s.pausedDev n ((handDigest low T ++ low) :: T)).blockGet = some ((handDigest low T ++ low) :: T) := fun hs => by
    rw [← hlen]
    exact Dev.mapM_blockGet _ _ fun j hj => hs j (hlen ▸ hj)
  generalize s.pausedDev n ((handDigest low T ++ low) :: T) = d at hp hbeside hread
  have hupd : d.upd = { s.dev.upd with
      st := .activating, paused := true, since := s.dev.lived (commonDom 0), sram := s.dev.fwObj (!s.sec.slotB), block := 13 } := by
    rw [← hlen]
    exact (congrArg Dev.upd hbeside :)
  refine ⟨d, hp, hupd, (congrArg Dev.regs hbeside :), (congrArg Dev.descs hbeside :), (congrArg Dev.ctxs hbeside :), fun hs => ?_⟩
  have hb13 : (List.range d.upd.block).mapM d.blockGet = some ((handDigest low T ++ low) :: T) := by
    rw [hupd]
    exact hread hs
  have hf := State.handFault_written { s with dev := d } low T s.sec.handoffOut s.sec.runSvn blockLen s.dev.upd.activations hl.symm hb13
  rw [show ({ s with dev := d } : State).dev.upd.sram = s.dev.fwObj (!s.sec.slotB) from congrArg Upd.sram hupd] at hf
  exact hf

/-! ### The command -/

section
variable {q : Queue} {e : Entry} {d0 : Dev} {c : Nat} (hs : s.dev.starts q e = some d0) (hc : d0.cmdCheck q e = (0, c)) (ho : e.opc = 0x2A)
include hs hc ho

theorem exec_updateActivate : exec (.updateActivate q e) s =
    .next ((({ s with dev := d0 } : State).activate (d0.cmdRef q e) e).onDev Dev.finish) :=
  State.cmd_runs 0x2A q e (fun ref _ s => s.activate ref e) s d0 c ho hs hc

/-- The checks of UPDATE_ACTIVATE in their order. -/
theorem updateActivate_spec :
    let ref := d0.cmdRef q e
    let w := e.arg 1
    let o := d0.fwObj (!s.sec.slotB)
    let ends := fun (st : Nat) => exec (.updateActivate q e) s = .next { s with dev := (d0.updEnd ref st 0).finish }
    let hand := o.handoffMin ≤ s.sec.handoffOut ∧ s.sec.handoffOut ≤ o.handoffMax
    let wOk := w = 0 ∨ (100 ≤ w ∧ w ≤ 60000)
    (¬ wOk → ends 0x201) ∧ (wOk → s.sec.stagedV = false → ends 0x246) ∧
    (wOk → s.sec.stagedV = true → ¬ hand → ends 0x247) ∧
    (wOk → s.sec.stagedV = true → hand → d0.marlUp ≠ 3 → ends 0x24F) ∧
    (wOk → s.sec.stagedV = true → hand → d0.marlUp = 3 →
      (d0.staging.isSome = true ∨ d0.upd.busy = true → ends 0x24A) ∧
      (d0.staging = none → d0.upd.busy = false → s.pwr.causes = [] →
        exec (.updateActivate q e) s = .next { s with dev := ({ d0 with upd := { d0.upd with
          cmd := some ref, raise := bitOf (e.arg 0) 0, window := if w = 0 then 10000 else w,
          since := d0.lived (commonDom 0) } }).finish })) := by
  intro ref w o ends hand wOk
  have hends : ∀ st, ({ s with dev := d0 } : State).activate ref e = ({ s with dev := d0 } : State).updEnd ref st 0 → ends st :=
    fun st h => (exec_updateActivate s hs hc ho).trans (congrArg (fun t : State => Host.Outcome.next (t.onDev Dev.finish)) h)
  have hto : ∀ d : Dev, ({ s with dev := d0 } : State).activate ref e = { s with dev := d } →
      exec (.updateActivate q e) s = .next { s with dev := d.finish } :=
    fun d h => (exec_updateActivate s hs hc ho).trans (congrArg (fun t : State => Host.Outcome.next (t.onDev Dev.finish)) h)
  have hw : wOk → ¬ (!decide (w = 0 ∨ (100 ≤ w ∧ w ≤ 60000))) = true := fun h => by rw [decide_eq_true h]; decide
  have hv : s.sec.stagedV = true → ¬ (!s.sec.stagedV) = true := fun h => by simp [h]
  have hh : hand → ¬ (s.sec.handoffOut < o.handoffMin ∨ o.handoffMax < s.sec.handoffOut) := fun h => by
    obtain ⟨h1, h2⟩ := h
    omega
  refine ⟨fun h => hends _ ?_, fun h h1 => hends _ ?_, fun h h1 h2 => hends _ ?_, fun h h1 h2 h3 => hends _ ?_, fun h h1 h2 h3 =>
    ⟨fun h4 => hends _ ?_, fun h4 h5 h6 => hto _ ?_⟩⟩
  · exact if_pos (by rw [decide_eq_false h]; rfl)
  · exact (if_neg (hw h)).trans (if_pos (by simp [h1]))
  · exact (if_neg (hw h)).trans ((if_neg (hv h1)).trans (if_pos (by
      have : s.sec.handoffOut < o.handoffMin ∨ o.handoffMax < s.sec.handoffOut := by
        by_contra hn
        exact h2 ⟨by omega, by omega⟩
      exact this)))
  · exact (if_neg (hw h)).trans ((if_neg (hv h1)).trans ((if_neg (hh h2)).trans (if_pos h3)))
  · exact (if_neg (hw h)).trans ((if_neg (hv h1)).trans ((if_neg (hh h2)).trans ((if_neg (not_not_intro h3)).trans
      (if_pos (by simpa using h4)))))
  · exact (if_neg (hw h)).trans ((if_neg (hv h1)).trans ((if_neg (hh h2)).trans ((if_neg (not_not_intro h3)).trans
      ((if_neg (by simp [h4, h5])).trans (if_neg (by simp [State.emergency, h6]))))))

end

/-! ### The new image's answer -/

theorem handReasons_contains (h : HandoffAt) (hr : [0, 3, 5, 6].contains h.reason = true) (hw : s.dev.working = true)
    (ha : s.dev.upd.st = .activating) (hl : s.dev.handoffLate = false) :
    (!(s.dev.working && s.dev.upd.st == .activating && !s.dev.handoffLate && [0, 3, 5, 6].contains h.reason)) = false := by
  rw [hr, hw, ha, hl]
  rfl

theorem exec_handoffAccept (h : HandoffAt) (hr : [0, 3, 5, 6].contains h.reason = true) (hw : s.dev.working = true)
    (ha : s.dev.upd.st = .activating) (hl : s.dev.handoffLate = false) (hc : s.dev.upd.cmd = some ref) :
    exec (.handoffAccept h) s = if s.handReason h.reason = 0 then .next ((s.accept ref h.fuseOk).onDev Dev.finish)
      else .next (s.onDev fun d => (d.updRefuse (s.handReason h.reason)).finish) := by
  have hx : exec (.handoffAccept h) s = execHandoffAccept h s := rfl
  rw [hx, execHandoffAccept, hc]
  exact if_neg (by rw [handReasons_contains s h hr hw ha hl]; decide)

/-- Settles O40, from the checks of the command, the block that reads back as it was written, and the ends of an activation. -/
theorem updateActivation : Obligations.UpdateActivation := by
  unfold Obligations.UpdateActivation
  intro s
  refine ⟨fun q e d0 c hs hc ho => updateActivate_spec s hs hc ho, fun ref hcmd => ⟨fun hserv hw hcs ho => ⟨fun hv => ?_, fun hv => ?_⟩,
    fun hwork ha => ⟨fun h hl hr hz => ?_, fun h hl hr hz => ?_, fun ht => ?_⟩, fun hwork hd hwr ht => ?_⟩⟩
  · rw [exec_pause s hserv hw hcs ho, s.pause_fails ref hcmd hv]
    rfl
  · obtain ⟨d, hp, hd⟩ := s.pause_goes ref hcmd hv
    exact ⟨d, (exec_pause s hserv hw hcs ho).trans (congrArg (fun t : State => Host.Outcome.next (t.onDev Dev.finish)) hp), hd⟩
  · obtain ⟨hx, hm, hrest⟩ := s.accept_spec ref h.fuseOk
    have hexec := (exec_handoffAccept s ref h hr hwork ha hl hcmd).trans (if_pos hz)
    exact ⟨_, hexec.trans (congrArg (fun t : State => Host.Outcome.next (t.onDev Dev.finish)) hx), fun _ => hm, hrest⟩
  · have hexec := (exec_handoffAccept s ref h hr hwork ha hl hcmd).trans (if_neg hz)
    obtain ⟨hm, -, hu⟩ := Dev.updParts_parts (s.dev.updRefuse_spec ref hcmd (s.handReason h.reason))
    exact ⟨_, hexec, hu, fun _ => hm⟩
  · obtain ⟨hm, -, hu⟩ := Dev.updParts_parts ((s.dev.fresh 8).2.updRefuse_spec ref hcmd (s.dev.fresh 8).1.toNat)
    refine ⟨_, State.devEvent_holds (fun d => d.working && d.upd.st == .activating &&
        decide (d.upd.since + d.most 4000000 ≤ d.lived (commonDom 0)))
      (fun d => (d.fresh 8).2.updRefuse (d.fresh 8).1.toNat) s ?_, hu, fun _ => hm⟩
    simp [hwork, ha, ht]
  · obtain ⟨hm, -, hu⟩ := Dev.updParts_parts (s.dev.updAbandon_deferred ref hcmd hd hwr 1)
    refine ⟨_, State.devEvent_holds (fun d => d.working && d.upd.st == .deferred && d.ran (commonDom 0) d.upd.since (d.upd.window * 1000000))
      (fun d => d.updAbandon 1) s ?_, hu, fun _ => hm⟩
    simp [hwork, hd, ht]

end

end Sys2Proof.Machine

/-! PROOF. UPDATE_STAGE (R356): the order of its refusals, the start of a write and its end. -/
namespace Sys2Proof.Machine

section
variable (s : State)

/-! ### A write starts -/

/-- What the start of a write leaves of the security state but for the owner keys in use. -/
def Sec.startLeft (x : Sec) (t i : Nat) : Sec :=
  { (x.stagePlace t i).2.2.elim { x with planLen := x.planLen.set i 0 0 } (x.flashMark · true) with
    stagedV := ((x.stagePlace t i).2.2.elim { x with planLen := x.planLen.set i 0 0 } (x.flashMark · true)).stagedV && t ≠ 1 }

/-- The device once a write has started. -/
def State.startedDev (ref : CmdRef) (t i : Nat) (gs : List Gran) (flashOk fuseOk : Bool) : Dev :=
  { s.dev.flashErase (s.sec.stagePlace t i).1 (s.sec.stagePlace t i).2.1 with
    upd := { s.dev.upd with
      cmd := some ref, buf := gs, write := some (t, i), flashOk := flashOk, fuseOk := fuseOk, st := if t = 1 then .staging else s.dev.upd.st } }

theorem State.keysCheck_eq : s.keysCheck = { s with sec := { s.sec with keyOk := s.keysCheck.sec.keyOk } } := rfl

theorem State.writeStart_eq (ref : CmdRef) (t i : Nat) (gs : List Gran) (flashOk fuseOk : Bool) :
    s.writeStart ref t i gs flashOk fuseOk =
      ({ s with dev := s.startedDev ref t i gs flashOk fuseOk, sec := s.sec.startLeft t i } : State).keysCheck := rfl

theorem State.writeStart_spec (ref : CmdRef) (t i : Nat) (gs : List Gran) (flashOk fuseOk : Bool) : ∃ (d : Dev) (x : Sec),
    s.writeStart ref t i gs flashOk fuseOk = { s with dev := d, sec := x } ∧
    d = { s.dev with flash := d.flash, upd := { s.dev.upd with
      cmd := some ref, buf := gs, write := some (t, i), flashOk := flashOk, fuseOk := fuseOk, st := if t = 1 then .staging else s.dev.upd.st } } ∧
    x = { s.sec.startLeft t i with keyOk := x.keyOk } ∧
    ∀ j, (s.sec.stagePlace t i).1 ≤ j → j < (s.sec.stagePlace t i).1 + (s.sec.stagePlace t i).2.1 → Tab.get d.flash j 0xFF = 0xFF := by
  have hk := State.keysCheck_eq { s with dev := s.startedDev ref t i gs flashOk fuseOk, sec := s.sec.startLeft t i }
  rw [s.writeStart_eq]
  generalize (State.keysCheck { s with dev := s.startedDev ref t i gs flashOk fuseOk, sec := s.sec.startLeft t i }).sec.keyOk = k at hk
  exact ⟨_, _, hk, rfl, rfl, fun j h1 h2 => s.dev.flashErase_get _ _ _ ⟨h1, h2⟩⟩

theorem Sec.startLeft_firmware (x : Sec) : x.startLeft 1 0 = { x.flashMark (slotPart (!x.slotB)) true with stagedV := false } := by
  have hb : ∀ b : Bool, (b && decide ((1 : Nat) ≠ 1)) = false := by decide
  have hl : x.startLeft 1 0 = { x.flashMark (slotPart (!x.slotB)) true with
    stagedV := (x.flashMark (slotPart (!x.slotB)) true).stagedV && decide ((1 : Nat) ≠ 1) } := rfl
  rw [hl, hb]

/-- A target other than firmware leaves the staged image valid. -/
theorem Sec.startLeft_other (x : Sec) (t i : Nat) (h : t ≠ 1) :
    x.startLeft t i = (x.stagePlace t i).2.2.elim { x with planLen := x.planLen.set i 0 0 } (x.flashMark · true) := by
  unfold Sec.startLeft
  generalize (x.stagePlace t i).2.2.elim { x with planLen := x.planLen.set i 0 0 } (x.flashMark · true) = y
  rw [decide_eq_true h, Bool.and_true]

/-! ### The command -/

section
variable {q : Queue} {e : Entry} {d0 : Dev} {c : Nat} {flashOk fuseOk : Bool} {ph : Phys}

section
variable (hs : s.dev.starts q e = some d0) (hc : d0.cmdCheck q e = (0, c)) (ho : e.opc = 0x29) (hw : s.stageWaits e = false)
include hs hc ho hw

theorem exec_updateStage : exec (.updateStage q e flashOk fuseOk ph) s =
    .next ((({ s with dev := d0 } : State).updateStage (d0.cmdRef q e) ph e flashOk fuseOk).onDev Dev.finish) :=
  (if_neg (by rw [hw]; decide) : exec (.updateStage q e flashOk fuseOk ph) s = _).trans
    (State.cmd_runs 0x29 q e (fun ref _ s => s.updateStage ref ph e flashOk fuseOk) s d0 c ho hs hc)

/-- A command that ends at once. -/
theorem exec_updateStage_ends (d : Dev) (st : Nat)
    (h : ({ s with dev := d0 } : State).updateStage (d0.cmdRef q e) ph e flashOk fuseOk =
      ({ s with dev := d } : State).updEnd (d0.cmdRef q e) st 0) :
    exec (.updateStage q e flashOk fuseOk ph) s = .next { s with dev := (d.updEnd (d0.cmdRef q e) st 0).finish } :=
  (exec_updateStage s hs hc ho hw).trans (congrArg (fun t : State => Host.Outcome.next (t.onDev Dev.finish)) h)

/-- A command that starts a write. -/
theorem exec_updateStage_starts (d1 : Dev) (x : Sec) (t i : Nat) (gs : List Gran) (ok fuse : Bool)
    (hp : x.stagePlace t i = s.sec.stagePlace t i)
    (h : ({ s with dev := d0 } : State).updateStage (d0.cmdRef q e) ph e flashOk fuseOk =
      ({ s with dev := d1, sec := x } : State).writeStart (d0.cmdRef q e) t i gs ok fuse) : ∃ (d : Dev) (y : Sec),
    exec (.updateStage q e flashOk fuseOk ph) s = .next { s with dev := d.finish, sec := y } ∧
    d = { d1 with flash := d.flash, upd := { d1.upd with
      cmd := some (d0.cmdRef q e), buf := gs, write := some (t, i), flashOk := ok, fuseOk := fuse, st := if t = 1 then .staging else d1.upd.st } } ∧
    y = { x.startLeft t i with keyOk := y.keyOk } ∧
    ∀ j, (s.sec.stagePlace t i).1 ≤ j → j < (s.sec.stagePlace t i).1 + (s.sec.stagePlace t i).2.1 → Tab.get d.flash j 0xFF = 0xFF := by
  obtain ⟨d, y, he, hd, hy, hf⟩ := State.writeStart_spec { s with dev := d1, sec := x } (d0.cmdRef q e) t i gs ok fuse
  refine ⟨d, y, (exec_updateStage s hs hc ho hw).trans (congrArg (fun t : State => Host.Outcome.next (t.onDev Dev.finish)) (h.trans he)), hd,
    hy, ?_⟩
  rw [← hp]
  exact hf

end

/-- The checks of UPDATE_STAGE before it reads or writes. -/
theorem State.updateStage_badArgs (ref : CmdRef) (h : stageArgs e = false) :
    s.updateStage ref ph e flashOk fuseOk = s.updEnd ref 0x201 0 := if_pos (by rw [h]; rfl)

variable (ha : stageArgs e = true)
include ha

theorem State.updateStage_busy (ref : CmdRef) (h : s.dev.upd.busy = true) : s.updateStage ref ph e flashOk fuseOk = s.updEnd ref 0x24A 0 :=
  (if_neg (by rw [ha]; decide)).trans (if_pos h)

variable (hb : s.dev.upd.busy = false)
include hb

theorem State.updateStage_region (ref : CmdRef) (h : (s.dev.rgn (e.arg 1)).st ≠ .active) :
    s.updateStage ref ph e flashOk fuseOk = s.updEnd ref 0x244 0 :=
  (if_neg (by rw [ha]; decide)).trans ((if_neg (by rw [hb]; decide)).trans (if_pos h))

variable (hr : (s.dev.rgn (e.arg 1)).st = .active) (ht : Entry.target e ≠ 5) (ho : Entry.readout e = false)
include hr ht ho

theorem State.updateStage_writes (ref : CmdRef) : s.updateStage ref ph e flashOk fuseOk = s.stageIn ref ph e flashOk fuseOk :=
  (if_neg (by rw [ha]; decide)).trans ((if_neg (by rw [hb]; decide)).trans ((if_neg (not_not_intro hr)).trans
    ((if_neg ht).trans (if_neg (by rw [ho]; decide)))))

theorem State.updateStage_outside (ref : CmdRef) (h : s.dev.regionExts (e.arg 1) (e.arg 2) (e.arg 3 / 32) = none) :
    s.updateStage ref ph e flashOk fuseOk = s.updEnd ref 0x244 0 := by
  rw [s.updateStage_writes ha hb hr ht ho, State.stageIn, h]

variable {xs : List (Nat × Nat)} {gs : List Gran} {d1 : Dev} (hx : s.dev.regionExts (e.arg 1) (e.arg 2) (e.arg 3 / 32) = some xs)
  (hg : s.dev.extsRead ph xs = (some gs, d1))
include hx hg

/-- A write whose bytes have been read, of each target. -/
theorem State.updateStage_firmware (ref : CmdRef) (h : Entry.target e = 1) : s.updateStage ref ph e flashOk fuseOk =
    ({ s with dev := d1 } : State).stageFw ref (gransBytes gs) gs flashOk := by
  rw [s.updateStage_writes ha hb hr ht ho, State.stageIn, hx]
  dsimp only
  rw [hg, h]
  rfl

theorem State.updateStage_owner (ref : CmdRef) (h : Entry.target e = 2) : s.updateStage ref ph e flashOk fuseOk =
    ({ s with dev := d1 } : State).stageOwner ref (gransBytes gs) gs flashOk fuseOk := by
  rw [s.updateStage_writes ha hb hr ht ho, State.stageIn, hx]
  dsimp only
  rw [hg, h]
  rfl

theorem State.updateStage_trim (ref : CmdRef) (h : Entry.target e = 3) : s.updateStage ref ph e flashOk fuseOk =
    ({ s with dev := d1 } : State).stageTrim ref (gransBytes gs) gs flashOk fuseOk := by
  rw [s.updateStage_writes ha hb hr ht ho, State.stageIn, hx]
  dsimp only
  rw [hg, h]
  rfl

theorem State.updateStage_plan (ref : CmdRef) (h : Entry.target e = 4) : s.updateStage ref ph e flashOk fuseOk =
    ({ s with dev := d1 } : State).writeStart ref 4 (Entry.index e) gs flashOk true := by
  rw [s.updateStage_writes ha hb hr ht ho, State.stageIn, hx]
  dsimp only
  rw [hg, h]
  rfl

end

/-! ### Objects -/

section
variable (ref : CmdRef) (o : Obj) (gs : List Gran) (flashOk fuseOk : Bool)

theorem State.stageFw_bad (h : s.sec.verify o 1 [0] ≠ 0) : s.stageFw ref o gs flashOk = s.updEnd ref (s.sec.verify o 1 [0]) 0 := if_pos h

theorem State.stageFw_good (h : s.sec.verify o 1 [0] = 0) : s.stageFw ref o gs flashOk = s.writeStart ref 1 0 gs flashOk true :=
  if_neg (not_not_intro h)

theorem State.stageOwner_bad (h : s.sec.verify o 2 [1, 2, 3, 4] ≠ 0) :
    s.stageOwner ref o gs flashOk fuseOk = s.updEnd ref (s.sec.verify o 2 [1, 2, 3, 4]) 0 := if_pos h

theorem State.stageOwner_refused (h : s.sec.verify o 2 [1, 2, 3, 4] = 0) (hr : s.sec.ownerRule o = none) :
    s.stageOwner ref o gs flashOk fuseOk = s.updEnd ref 0x24B 0 := by
  unfold State.stageOwner
  refine (if_neg (not_not_intro h)).trans ?_
  rw [hr]

theorem State.stageOwner_good (h : s.sec.verify o 2 [1, 2, 3, 4] = 0) (slot op : Nat) (hr : s.sec.ownerRule o = some (slot, op)) :
    s.stageOwner ref o gs flashOk fuseOk = s.writeStart ref 2 slot gs flashOk fuseOk := by
  unfold State.stageOwner
  refine (if_neg (not_not_intro h)).trans ?_
  rw [hr]

theorem State.stageTrim_bad (h : s.sec.verify o 3 [1, 2, 3, 4] ≠ 0) :
    s.stageTrim ref o gs flashOk fuseOk = s.updEnd ref (s.sec.verify o 3 [1, 2, 3, 4]) 0 := if_pos h

variable (h : s.sec.verify o 3 [1, 2, 3, 4] = 0)
include h

theorem State.stageTrim_large (hl : 0x80000 < o.size) : s.stageTrim ref o gs flashOk fuseOk = s.updEnd ref 0x243 0 :=
  (if_neg (not_not_intro h)).trans (if_pos hl)

theorem State.stageTrim_unfused (hl : o.size ≤ 0x80000) (hw : s.sec.trimWritten = false) (hf : fuseOk = false) :
    s.stageTrim ref o gs flashOk fuseOk = s.updEnd ref 0x24E 0 :=
  (if_neg (not_not_intro h)).trans ((if_neg (Nat.not_lt.mpr hl)).trans (if_pos (by rw [hw, hf]; rfl)))

theorem State.stageTrim_good (hl : o.size ≤ 0x80000) (hw : s.sec.trimWritten = true ∨ fuseOk = true) :
    s.stageTrim ref o gs flashOk fuseOk =
      ({ s with sec := { s.sec with trimWritten := true } } : State).writeStart ref 3 0 gs flashOk true :=
  (if_neg (not_not_intro h)).trans ((if_neg (Nat.not_lt.mpr hl)).trans (if_neg (by
    rcases hw with hw | hw <;> simp [hw])))

end

/-! ### The end of a write -/

theorem Dev.flashStore_good (d : Dev) (a room : Nat) (l : List Byte) (j : Nat) (hj : j < l.length) :
    Tab.get (d.flashStore a room l true).flash (a + j) 0xFF = l.getD j 0 := by
  have he : d.flashStore a room l true = (d.flashErase a room).flashPut a l := rfl
  rw [he, Dev.flashPut_get, if_pos (by omega), Nat.add_sub_cancel_left]
  rw [List.getD_eq_getElem _ _ hj, List.getD_eq_getElem _ _ hj]

/-- A write changes flash, and takes free values, alone. -/
theorem Dev.flashStore_kept (d : Dev) (a room : Nat) (l : List Byte) (ok : Bool) : (d.flashStore a room l ok).mem = d.mem ∧
    (d.flashStore a room l ok).upd = d.upd := by
  unfold Dev.flashStore
  extract_lets e
  split
  · rw [Dev.flashPut_rest]
    exact ⟨rfl, rfl⟩
  · dsimp only
    obtain ⟨-, n, hn⟩ := e.freshBytes_spec l.length
    rw [Dev.flashPut_rest, hn]
    exact ⟨rfl, rfl⟩

section
variable (ref : CmdRef) (t i : Nat) (ok : Bool)

/-- The security state as a write has ended, but for the owner keys in use. -/
def State.endSec : Sec :=
  let good := ok && s.dev.upd.flashOk
  ((s.sec.stagePlace t i).2.2.elim s.sec (s.sec.flashMark · (!good))).writeLeft t i (gransBytes s.dev.upd.buf) good s.dev.upd.fuseOk

/-- The device as a write has ended. -/
def State.endDev : Dev :=
  let good := ok && s.dev.upd.flashOk
  { s.dev.flashStore (s.sec.stagePlace t i).1 (s.sec.stagePlace t i).2.1 (gransBytes s.dev.upd.buf) good with
    upd := { s.dev.upd with
      cmd := none, buf := [], write := none, st := if t = 1 then (if good then .staged else .idle) else s.dev.upd.st } }

theorem State.writeEnd_eq : s.writeEnd ref t i ok =
    let good := ok && s.dev.upd.flashOk
    let st := if !good then 0x245 else if t = 2 ∧ !s.dev.upd.fuseOk then 0x24E else 0
    (({ s with dev := s.endDev t i ok, sec := s.endSec t i ok } : State).keysCheck).updEnd ref st
      (if st = 0 then (gransBytes s.dev.upd.buf).length else 0) := rfl

theorem Sec.flashMark_getLsbD (x : Sec) (k : Nat) (bad : Bool) (hk : k < 8) : (x.flashMark k bad).flashBad.getLsbD k = bad := by
  have hbit : (BitVec.ofNat 8 (2 ^ k)).getLsbD k = true := by
    rw [BitVec.getLsbD_ofNat, decide_eq_true hk, Nat.testBit_two_pow_self]
    rfl
  unfold Sec.flashMark
  generalize BitVec.ofNat 8 (2 ^ k) = m at hbit
  cases bad
  · simp [hbit]
  · simp [hbit]

/-! What each target leaves of the security state. -/

theorem Sec.writeLeft_firmware (x : Sec) (l : List Byte) (good fuse : Bool) : x.writeLeft 1 i l good fuse = { x with stagedV := good } := rfl

theorem Sec.writeLeft_owner (x : Sec) (l : List Byte) (good fuse : Bool) :
    x.writeLeft 2 i l good fuse = if good && fuse then x.ownerFuse l i (Obj.num l (256 + 1985) 1) else x := rfl

theorem Sec.writeLeft_trim (x : Sec) (l : List Byte) (good fuse : Bool) : x.writeLeft 3 i l good fuse = x := rfl

theorem Sec.writeLeft_plan (x : Sec) (l : List Byte) (good fuse : Bool) (h : t ≠ 1 ∧ t ≠ 2 ∧ t ≠ 3) :
    x.writeLeft t i l good fuse = if good then { x with planLen := x.planLen.set i l.length 0 } else x := by
  obtain ⟨h1, h2, h3⟩ := h
  match t, h1, h2, h3 with
  | 0, _, _, _ => rfl
  | n + 4, _, _, _ => rfl

/-- What the end of a write of target t leaves. -/
structure Sec.endsWrite (x : Sec) (l : List Byte) (good fuse : Bool) (y : Sec) : Prop where
  flashBad : y.flashBad = x.flashBad
  stagedV : y.stagedV = if t = 1 then good else x.stagedV
  enrolled : y.enrolled =
    if t = 2 ∧ good = true ∧ fuse = true ∧ Obj.num l (256 + 1985) 1 = 1 then x.enrolled ||| BitVec.ofNat 4 (2 ^ i) else x.enrolled
  revoked : y.revoked =
    if t = 2 ∧ good = true ∧ fuse = true ∧ Obj.num l (256 + 1985) 1 ≠ 1 then x.revoked ||| BitVec.ofNat 4 (2 ^ i) else x.revoked
  planLen : t = 4 → good = true → y.planLen.get i 0 = l.length

theorem Sec.endsWrite_owner (x : Sec) (l : List Byte) (good fuse : Bool) : Sec.endsWrite 2 i x l good fuse (x.writeLeft 2 i l good fuse) := by
  rw [Sec.writeLeft_owner]
  cases hg : good && fuse
  case false =>
    have hno : ∀ P : Prop, ¬ ((2 : Nat) = 2 ∧ good = true ∧ fuse = true ∧ P) := fun P h => by
      obtain ⟨-, h1, h2, -⟩ := h
      rw [h1, h2] at hg
      exact Bool.noConfusion hg
    exact ⟨rfl, rfl, (if_neg (hno _)).symm, (if_neg (hno _)).symm, nofun⟩
  case true =>
    obtain ⟨h1, h2⟩ := Bool.and_eq_true_iff.mp hg
    rw [if_pos rfl, Sec.ownerFuse]
    by_cases ho : Obj.num l (256 + 1985) 1 = 1
    · rw [if_pos ho]
      exact ⟨rfl, rfl, (if_pos ⟨rfl, h1, h2, ho⟩).symm, (if_neg fun h => h.2.2.2 ho).symm, nofun⟩
    · rw [if_neg ho]
      exact ⟨rfl, rfl, (if_neg fun h => ho h.2.2.2).symm, (if_pos ⟨rfl, h1, h2, ho⟩).symm, nofun⟩

theorem Sec.endsWrite_plan (x : Sec) (l : List Byte) (good fuse : Bool) (h : t ≠ 1 ∧ t ≠ 2 ∧ t ≠ 3) :
    Sec.endsWrite t i x l good fuse (x.writeLeft t i l good fuse) := by
  rw [Sec.writeLeft_plan t i x l good fuse h]
  obtain ⟨h1, h2, -⟩ := h
  cases good
  case false => exact ⟨rfl, (if_neg h1).symm, (if_neg fun h => h2 h.1).symm, (if_neg fun h => h2 h.1).symm, fun _ h => Bool.noConfusion h⟩
  case true =>
    exact ⟨rfl, (if_neg h1).symm, (if_neg fun h => h2 h.1).symm, (if_neg fun h => h2 h.1).symm, fun _ _ => tab_get_set_same _ _ _ _⟩

theorem Sec.endsWrite_writeLeft (x : Sec) (l : List Byte) (good fuse : Bool) :
    Sec.endsWrite t i x l good fuse (x.writeLeft t i l good fuse) := by
  by_cases h1 : t = 1
  · subst h1
    exact ⟨rfl, rfl, (if_neg fun h => nomatch h.1).symm, (if_neg fun h => nomatch h.1).symm, nofun⟩
  by_cases h2 : t = 2
  · subst h2
    exact Sec.endsWrite_owner i x l good fuse
  by_cases h3 : t = 3
  · subst h3
    exact ⟨rfl, rfl, (if_neg fun h => nomatch h.1).symm, (if_neg fun h => nomatch h.1).symm, nofun⟩
  exact Sec.endsWrite_plan t i x l good fuse ⟨h1, h2, h3⟩

theorem Sec.flashMark_stagedV (x : Sec) (k : Nat) (bad : Bool) :
    (x.flashMark k bad).stagedV = x.stagedV ∧ (x.flashMark k bad).enrolled = x.enrolled ∧ (x.flashMark k bad).revoked = x.revoked :=
  ⟨rfl, rfl, rfl⟩

/-- The end of a write: what it leaves of the update machine, flash and the security state. -/
theorem State.endsWrite_spec :
    let l := gransBytes s.dev.upd.buf
    let good := ok && s.dev.upd.flashOk
    let place := s.sec.stagePlace t i
    let d := s.endDev t i ok
    let x := s.endSec t i ok
    d.upd = { s.dev.upd with
      st := if t = 1 then (if good then .staged else .idle) else s.dev.upd.st, cmd := none, buf := [], write := none } ∧
    d.mem = s.dev.mem ∧ (good = true → ∀ j, j < l.length → Tab.get d.flash (place.1 + j) 0xFF = l.getD j 0) ∧
    (∀ k, place.2.2 = some k → k < 8 → x.flashBad.getLsbD k = !good) ∧ x.stagedV = (if t = 1 then good else s.sec.stagedV) ∧
    x.enrolled = (if t = 2 ∧ good = true ∧ s.dev.upd.fuseOk = true ∧ Obj.num l (256 + 1985) 1 = 1 then
      s.sec.enrolled ||| BitVec.ofNat 4 (2 ^ i) else s.sec.enrolled) ∧
    x.revoked = (if t = 2 ∧ good = true ∧ s.dev.upd.fuseOk = true ∧ Obj.num l (256 + 1985) 1 ≠ 1 then
      s.sec.revoked ||| BitVec.ofNat 4 (2 ^ i) else s.sec.revoked) ∧
    (t = 4 → good = true → x.planLen.get i 0 = l.length) := by
  intro l good place d x
  obtain ⟨hm, -⟩ := s.dev.flashStore_kept place.1 place.2.1 l good
  obtain ⟨hb, hv, he, hr, hp⟩ := Sec.endsWrite_writeLeft t i (place.2.2.elim s.sec (s.sec.flashMark · (!good))) l good s.dev.upd.fuseOk
  have hmark : (place.2.2.elim s.sec (s.sec.flashMark · (!good))).stagedV = s.sec.stagedV ∧
      (place.2.2.elim s.sec (s.sec.flashMark · (!good))).enrolled = s.sec.enrolled ∧
      (place.2.2.elim s.sec (s.sec.flashMark · (!good))).revoked = s.sec.revoked := by
    cases place.2.2 with
    | none => exact ⟨rfl, rfl, rfl⟩
    | some k => exact s.sec.flashMark_stagedV k (!good)
  obtain ⟨h1, h2, h3⟩ := hmark
  rw [h1] at hv
  rw [h2] at he
  rw [h3] at hr
  refine ⟨rfl, hm, fun hg j hj => ?_, fun k hk h8 => ?_, hv, he, hr, hp⟩
  · have hgood := s.dev.flashStore_good place.1 place.2.1 l j hj
    rw [← hg] at hgood
    exact hgood
  · refine (congrArg (BitVec.getLsbD · k) hb).trans ?_
    rw [hk]
    exact s.sec.flashMark_getLsbD k (!good) h8

theorem exec_stageWriteComplete (hs : s.dev.serving = true) (hw : s.dev.upd.write = some (t, i)) (hc : s.dev.upd.cmd = some ref) :
    exec (.stageWriteComplete ok) s = .next ((s.writeEnd ref t i ok).onDev Dev.finish) := by
  have hd : s.writeDone ok = s.writeEnd ref t i ok := by rw [State.writeDone, hw, hc]
  have hx : exec (.stageWriteComplete ok) s = execStageWriteComplete ok s := rfl
  rw [hx, execStageWriteComplete, if_pos (by rw [hs, hw]; rfl), hd]

/-- The status with which a write ends. -/
theorem endStatus_eq (good fuse : Bool) : (if !good then 0x245 else if t = 2 ∧ !fuse then 0x24E else 0) =
    if good = false then 0x245 else if t = 2 ∧ fuse = false then 0x24E else 0 := by
  cases good <;> cases fuse <;> simp

end

end

/-- Settles O39, from the checks of the command, what each target does with the bytes read, and the end of a write. -/
theorem updateStaging : Obligations.UpdateStaging := by
  unfold Obligations.UpdateStaging
  intro s
  refine ⟨fun q e d0 c flashOk fuseOk ph hs hc ho hw => ?_, fun q e flashOk fuseOk ph hw => if_pos hw, fun ok ref t i hs hw hc => ?_⟩
  · intro ref ends
    have hend : ∀ (d : Dev) (st : Nat), ({ s with dev := d0 } : State).updateStage ref ph e flashOk fuseOk =
        ({ s with dev := d } : State).updEnd ref st 0 → ends d st := fun d st h => exec_updateStage_ends s hs hc ho hw d st h
    refine ⟨fun ha => hend d0 _ (State.updateStage_badArgs _ ref ha), fun ha hb => hend d0 _ (State.updateStage_busy _ ha ref hb),
      fun ha hb hr => hend d0 _ (State.updateStage_region _ ha hb ref hr),
      fun ha hb hr ht hro hx => hend d0 _ (State.updateStage_outside _ ha hb hr ht hro ref hx), ?_⟩
    intro xs gs d1 ha hb hr hro hx hg o starts
    have hnot5 : ∀ k, Entry.target e = k → k ≠ 5 → Entry.target e ≠ 5 := fun k h hk => h.symm ▸ hk
    refine ⟨fun ht => ?_, fun ht => ?_, fun ht => ?_, fun ht => ?_⟩
    · have hfw := State.updateStage_firmware (flashOk := flashOk) (fuseOk := fuseOk) (ph := ph) { s with dev := d0 } ha hb hr
        (hnot5 1 ht (by decide)) hro hx hg ref ht
      refine ⟨fun hv => hend d1 _ (hfw.trans (State.stageFw_bad _ _ _ _ _ hv)), fun hv => ?_⟩
      obtain ⟨d, x, hstart⟩ := exec_updateStage_starts s hs hc ho hw d1 s.sec 1 0 gs flashOk true rfl
        (hfw.trans (State.stageFw_good _ _ _ _ _ hv))
      rw [Sec.startLeft_firmware] at hstart
      exact ⟨d, x, hstart⟩
    · have how := State.updateStage_owner (flashOk := flashOk) (fuseOk := fuseOk) (ph := ph) { s with dev := d0 } ha hb hr
        (hnot5 2 ht (by decide)) hro hx hg ref ht
      refine ⟨fun hv => hend d1 _ (how.trans (State.stageOwner_bad _ _ _ _ _ _ hv)),
        fun hv hn => hend d1 _ (how.trans (State.stageOwner_refused _ _ _ _ _ _ hv hn)), fun slot op hv hn => ?_⟩
      obtain ⟨d, x, hstart⟩ := exec_updateStage_starts s hs hc ho hw d1 s.sec 2 slot gs flashOk fuseOk rfl
        (how.trans (State.stageOwner_good { s with dev := d1 } _ _ _ _ _ hv slot op hn))
      rw [Sec.startLeft_other _ 2 slot (by decide)] at hstart
      exact ⟨d, x, hstart⟩
    · have htr := State.updateStage_trim (flashOk := flashOk) (fuseOk := fuseOk) (ph := ph) { s with dev := d0 } ha hb hr
        (hnot5 3 ht (by decide)) hro hx hg ref ht
      refine ⟨fun hv => hend d1 _ (htr.trans (State.stageTrim_bad _ _ _ _ _ _ hv)), fun hv =>
        ⟨fun hl => hend d1 _ (htr.trans (State.stageTrim_large _ _ _ _ _ _ hv hl)),
          fun hl hw' hf => hend d1 _ (htr.trans (State.stageTrim_unfused _ _ _ _ _ _ hv hl hw' hf)), fun hl hok => ?_⟩⟩
      obtain ⟨d, x, hstart⟩ := exec_updateStage_starts s hs hc ho hw d1 { s.sec with trimWritten := true } 3 0 gs flashOk true rfl
        (htr.trans (State.stageTrim_good _ _ _ _ _ _ hv hl hok))
      rw [Sec.startLeft_other _ 3 0 (by decide)] at hstart
      exact ⟨d, x, hstart⟩
    · have hpl := State.updateStage_plan (flashOk := flashOk) (fuseOk := fuseOk) (ph := ph) { s with dev := d0 } ha hb hr
        (hnot5 4 ht (by decide)) hro hx hg ref ht
      obtain ⟨d, x, hstart⟩ := exec_updateStage_starts s hs hc ho hw d1 s.sec 4 (Entry.index e) gs flashOk true rfl hpl
      rw [Sec.startLeft_other _ 4 _ (by decide)] at hstart
      exact ⟨d, x, hstart⟩
  · intro l good st place op
    have hx := exec_stageWriteComplete s ref t i ok hs hw hc
    have hst := endStatus_eq t good s.dev.upd.fuseOk
    have hend := State.keysCheck_eq { s with dev := s.endDev t i ok, sec := s.endSec t i ok }
    generalize (State.keysCheck { s with dev := s.endDev t i ok, sec := s.endSec t i ok }).sec.keyOk = k at hend
    rw [s.writeEnd_eq ref t i ok] at hx
    dsimp only at hx
    rw [hend, hst] at hx
    exact ⟨s.endDev t i ok, { s.endSec t i ok with keyOk := k }, hx, s.endsWrite_spec t i ok⟩

end Sys2Proof.Machine

/-! PROOF. The first steps of a move (R77, R78): the acquisition of a queued move, the copy of its blocks. -/
namespace Sys2Proof.Machine

section
variable (d : Dev)

/-! ### Step 1: the move begins -/

/-- The first queued move is the one acquired where the turn is the engine's and a destination is free. -/
theorem Dev.acquire_first (j grp : Nat) (m : Move) (rest : List Move) (dst : Home) (h0 : m.step = 0) (hg : d.groupOf m.ext = some grp)
    (ht : d.turn grp j = true) (hgo : d.moveDo m [] = .go dst grp) : d.acquire j (m :: rest) [] = d.moveStart j m dst grp := by
  rw [Dev.acquire, if_neg (not_not_intro h0), hg, hgo]
  dsimp only [Option.elim]
  rw [ht]

/-- A move as an engine begins it. -/
def Dev.begun (j : Nat) (m : Move) (dst : Home) (grp : Nat) : Move :=
  { m with engine := some j, src := (d.desc m.ext).home, dst := dst, step := 1, since := d.lived (loessDom j), journal := grp }

/-- The device as a move has begun, before pressure is judged. -/
def Dev.moveBegun (j : Nat) (m : Move) (dst : Home) (grp : Nat) : Dev :=
  (({ d with moves := d.moves.map fun n => if n == m then d.begun j m dst grp else n, rr := d.rr.upd grp 0 (· + 1) } : Dev).jAppend grp
    ⟨1, m.ext, (d.desc m.ext).home, dst, 0, j, false⟩).updDesc m.ext fun e => { e with st := .moving }

theorem Dev.moveStart_beside (j : Nat) (m : Move) (dst : Home) (grp : Nat) :
    (d.moveStart j m dst grp).besideLoess = (d.moveBegun j m dst grp).besideLoess :=
  (d.moveBegun j m dst grp).besideLoess_pressureAll

theorem Dev.jAppend_rec (grp : Nat) (r : JRec) : { r with seq := (d.journal grp).seq } ∈ ((d.jAppend grp r).journal grp).recs := by
  have hj : ((d.jAppend grp r).journal grp).recs = (d.journal grp).recs ++ [{ r with seq := (d.journal grp).seq }] :=
    congrArg (fun j : Journal => j.recs) (tab_get_set_same _ _ _ _)
  rw [hj]
  exact List.mem_append_right _ List.mem_cons_self

/-- What the beginning of a move changes, and what it keeps. -/
theorem Dev.moveStart_spec (j : Nat) (m : Move) (rest : List Move) (dst : Home) (grp : Nat) (hm : d.moves = m :: rest) :
    let e := d.moveStart j m dst grp
    e.desc m.ext = { d.desc m.ext with st := .moving } ∧ (∀ y, y ≠ m.ext → e.desc y = d.desc y) ∧
    e.moves.head? = some (d.begun j m dst grp) ∧
    (∃ r ∈ (e.journal grp).recs, r.kind = 1 ∧ r.ext = m.ext ∧ r.src = (d.desc m.ext).home ∧ r.dst = dst) ∧
    e.mem = d.mem ∧ e.clay = d.clay ∧ e.flash = d.flash := by
  have hb := d.moveStart_beside j m dst grp
  generalize d.moveStart j m dst grp = e at hb
  have hdesc : ∀ y, e.desc y = (d.moveBegun j m dst grp).desc y := fun y => (congrArg (fun x : Dev => x.desc y) hb :)
  refine ⟨(hdesc _).trans (Dev.desc_updDesc_same _ _ _), fun y hy => (hdesc y).trans (Dev.desc_updDesc_other _ _ _ _ hy), ?_, ?_,
    (congrArg Dev.mem hb :), (congrArg Dev.clay hb :), (congrArg Dev.flash hb :)⟩
  · have hmoves : e.moves = d.moves.map fun n => if n == m then d.begun j m dst grp else n := (congrArg Dev.moves hb :)
    rw [hmoves, hm, List.map_cons, List.head?_cons, if_pos (beq_self_eq_true m)]
  · have hj : e.journal grp = (d.moveBegun j m dst grp).journal grp := (congrArg (fun x : Dev => x.journal grp) hb :)
    rw [hj]
    exact ⟨_, Dev.jAppend_rec _ grp _, rfl, rfl, rfl, rfl⟩

/-! ### Steps 2 to 4: the copy -/

section
variable (x : Nat) (ph : Phys) (m : Move) (hm : d.moveOf x = some m) (hs : m.step = 1)
include hm hs

theorem Dev.moveCopy_fenced (h : d.setFenced (d.desc x).set = true ∨ d.setFenced m.dst.set = true) : d.moveCopy x ph = d.abandon x := by
  rw [Dev.moveCopy, hm]
  exact (if_neg (not_not_intro hs)).trans (if_pos (by simpa using h))

variable (h1 : d.setFenced (d.desc x).set = false) (h2 : d.setFenced m.dst.set = false)
include h1 h2

theorem Dev.moveCopy_stopped (h : d.setStopped (d.desc x).set = true ∨ d.setStopped m.dst.set = true) : d.moveCopy x ph = d := by
  rw [Dev.moveCopy, hm]
  exact (if_neg (not_not_intro hs)).trans ((if_neg (by simp [h1, h2])).trans (if_pos (by simpa using h)))

variable (h3 : d.setStopped (d.desc x).set = false) (h4 : d.setStopped m.dst.set = false)
include h3 h4

theorem Dev.moveCopy_held (h : d.ceilOk (loessMaster (m.engine.getD 0))
    (addCharge (addCharge [] (d.desc x).set (d.desc x).used) m.dst.set (d.desc x).used) = false) : d.moveCopy x ph = d := by
  rw [Dev.moveCopy, hm]
  exact (if_neg (not_not_intro hs)).trans ((if_neg (by simp [h1, h2])).trans ((if_neg (by simp [h3, h4])).trans
    (if_pos (by rw [h]; rfl))))

variable (h5 : d.ceilOk (loessMaster (m.engine.getD 0))
  (addCharge (addCharge [] (d.desc x).set (d.desc x).used) m.dst.set (d.desc x).used) = true)
include h5

/-- A block that cannot be read abandons the move. -/
theorem Dev.moveCopy_unread (d1 : Dev) (hr : (d.charge (loessMaster (m.engine.getD 0)) (addCharge [] (d.desc x).set (d.desc x).used)).moveRead
      (loessAgent (m.engine.getD 0)) ph x m.kind.auto (d.desc x).written = (none, d1)) :
    d.moveCopy x ph = (d1.discharge (loessMaster (m.engine.getD 0)) (addCharge [] (d.desc x).set (d.desc x).used)).abandon x := by
  rw [Dev.moveCopy, hm]
  refine (if_neg (not_not_intro hs)).trans ((if_neg (by simp [h1, h2])).trans ((if_neg (by simp [h3, h4])).trans
    ((if_neg (by rw [h5]; decide)).trans ?_)))
  rw [hr]

variable (codes : List (Nat × List Code)) (d1 : Dev)
  (hr : (d.charge (loessMaster (m.engine.getD 0)) (addCharge [] (d.desc x).set (d.desc x).used)).moveRead
    (loessAgent (m.engine.getD 0)) ph x m.kind.auto (d.desc x).written = (some codes, d1))
  (hk : (d1.discharge (loessMaster (m.engine.getD 0)) (addCharge [] (d.desc x).set (d.desc x).used)).moveOf x = some m)
include hr hk

theorem Dev.moveCopy_unplaced (d2 : Dev)
    (hp : (d1.discharge (loessMaster (m.engine.getD 0)) (addCharge [] (d.desc x).set (d.desc x).used)).placeBlocks_
      (loessAgent (m.engine.getD 0)) ph (d.desc x) m.dst codes = (false, d2)) : d.moveCopy x ph = d2.abandon x := by
  rw [Dev.moveCopy, hm]
  refine (if_neg (not_not_intro hs)).trans ((if_neg (by simp [h1, h2])).trans ((if_neg (by simp [h3, h4])).trans
    ((if_neg (by rw [h5]; decide)).trans ?_)))
  rw [hr]
  dsimp only
  rw [hk]
  dsimp only
  rw [hp]

theorem Dev.moveCopy_placed (d2 : Dev)
    (hp : (d1.discharge (loessMaster (m.engine.getD 0)) (addCharge [] (d.desc x).set (d.desc x).used)).placeBlocks_
      (loessAgent (m.engine.getD 0)) ph (d.desc x) m.dst codes = (true, d2)) :
    d.moveCopy x ph = (d2.charge (loessMaster (m.engine.getD 0)) (addCharge [] m.dst.set (d.desc x).used)).updMove x fun n =>
      { n with step := 4, charge := addCharge [] m.dst.set (d.desc x).used } := by
  rw [Dev.moveCopy, hm]
  refine (if_neg (not_not_intro hs)).trans ((if_neg (by simp [h1, h2])).trans ((if_neg (by simp [h3, h4])).trans
    ((if_neg (by rw [h5]; decide)).trans ?_)))
  rw [hr]
  dsimp only
  rw [hk]
  dsimp only
  rw [hp]

end

/-! ### Codes that stay on their die -/

/-- Codes that stay on a die arrive as they were. -/
theorem Dev.crossCodes_same (ph : Phys) (die : Nat) (l : List (Nat × Code)) : d.crossCodes ph die die l = (some (l.map (·.2)), d) := by
  induction l with
  | nil => rfl
  | cons p t ih =>
    obtain ⟨key, c⟩ := p
    have hone : (if c = loamEncode (codeData c) then
        let (g, d) := d.cross ph key die die (codeData c)
        (g.map loamEncode, d)
      else (some c, d)) = (some c, d) := by
      split
      · next hc =>
        have hcross : d.cross ph key die die (codeData c) = (some (codeData c), d) := if_pos rfl
        rw [hcross]
        exact congrArg (fun y => (some y, d)) hc.symm
      · rfl
    rw [Dev.crossCodes, hone]
    dsimp only
    rw [ih]
    rfl

theorem Dev.memPut_same_mem {a b : Dev} (h : a.mem = b.mem) (s ga : Nat) (c : Code) : (a.memPut s ga c).mem = (b.memPut s ga c).mem := by
  rw [Dev.memPut_mem, Dev.memPut_mem, h]

theorem Dev.putCodes_cons (s ga : Nat) (c : Code) (t : List Code) : d.putCodes s ga (c :: t) = (d.memPut s ga c).putCodes s (ga + 1) t := by
  rw [Dev.putCodes]

theorem Dev.putCodes_same_mem {a b : Dev} (h : a.mem = b.mem) (s ga : Nat) (cs : List Code) : (a.putCodes s ga cs).mem = (b.putCodes s ga cs).mem := by
  induction cs generalizing a b ga with
  | nil => exact h
  | cons c t ih =>
    rw [Dev.putCodes_cons, Dev.putCodes_cons]
    exact ih (Dev.memPut_same_mem h s ga c) (ga + 1)

theorem Dev.each_putCodes_mem {a b : Dev} (h : a.mem = b.mem) (e : Desc) (dst : Home) (l : List (Nat × List Code)) :
    (a.each l fun d c => d.putCodes dst.set (e.blkAt dst c.1) c.2).mem = (b.each l fun d c => d.putCodes dst.set (e.blkAt dst c.1) c.2).mem := by
  induction l generalizing a b with
  | nil => exact h
  | cons c t ih => exact ih (Dev.putCodes_same_mem h dst.set (e.blkAt dst c.1) c.2)

theorem Dev.besideMem_putCodes (s ga : Nat) (cs : List Code) : (d.putCodes s ga cs).besideMem = d.besideMem := by
  induction cs generalizing d ga with
  | nil => rfl
  | cons c t ih =>
    rw [Dev.putCodes_cons]
    refine (ih (d.memPut s ga c) (ga + 1)).trans ?_
    rw [Dev.memPut_eq]
    exact d.besideMem_withMem _

/-- Everything but memory and the poison table. -/
def Dev.besideCopy : Dev := { d with mem := [], poison := [] }

theorem Dev.dropLocations_kept (s : Nat) (gas : List Nat) : (d.dropLocations s gas).mem = d.mem ∧
    (d.dropLocations s gas).besideCopy = d.besideCopy :=
  ⟨Dev.each_same Dev.mem _ _ (fun e p => by split <;> rfl) d, Dev.each_same Dev.besideCopy _ _ (fun e p => by split <;> rfl) d⟩

/-- Blocks placed on the engine's own die are placed as they were read. -/
theorem Dev.placeBlocks_same (a : Agent) (ph : Phys) (e : Desc) (h : Home) (l : List (Nat × List Code)) (hf : d.setFenced h.set = false)
    (hd : d.setDie h.set = a.die) : ∃ d2, d.placeBlocks_ a ph e h l = (true, d2) ∧ d2.besideCopy = d.besideCopy ∧
    d2.mem = (d.each l fun d c => d.putCodes h.set (e.blkAt h c.1) c.2).mem := by
  suffices hgen : ∀ (b : Dev), b.mem = d.mem → ∃ d2, d.placeBlocks_ a ph e h l = (true, d2) ∧ d2.besideCopy = d.besideCopy ∧
      d2.mem = (b.each l fun d c => d.putCodes h.set (e.blkAt h c.1) c.2).mem from hgen d rfl
  induction l generalizing d with
  | nil => exact fun b hb => ⟨d, rfl, rfl, hb.symm⟩
  | cons p t ih =>
    intro b hb
    obtain ⟨k, cs⟩ := p
    have hzip : ((((List.range cs.length).map (e.blkAt h k + ·)).map (granKey h.set)).zip cs).map (·.2) = cs := by
      rw [List.map_snd_zip]
      simp
    have hone : d.placeCodes a ph h.set (e.blkAt h k) cs =
        (true, (d.putCodes h.set (e.blkAt h k) cs).dropLocations h.set ((List.range cs.length).map (e.blkAt h k + ·))) := by
      unfold Dev.placeCodes
      rw [if_neg (by rw [hf]; decide)]
      dsimp only
      rw [hd, Dev.crossCodes_same, hzip]
    have hkept := (d.putCodes h.set (e.blkAt h k) cs).dropLocations_kept h.set ((List.range cs.length).map (e.blkAt h k + ·))
    rw [Dev.placeBlocks_, hone]
    generalize (d.putCodes h.set (e.blkAt h k) cs).dropLocations h.set ((List.range cs.length).map (e.blkAt h k + ·)) = d1 at hkept ⊢
    obtain ⟨hmem, hbeside⟩ := hkept
    have hput : (d.putCodes h.set (e.blkAt h k) cs).besideCopy = d.besideCopy :=
      (congrArg (fun x : Dev => ({ x with poison := [] } : Dev)) (d.besideMem_putCodes h.set (e.blkAt h k) cs) :)
    have hb1 : d1.besideCopy = d.besideCopy := hbeside.trans hput
    have hf1 : d1.setFenced h.set = false := (congrArg (fun x : Dev => x.setFenced h.set) hb1 :).trans hf
    have hd1 : d1.setDie h.set = a.die := (congrArg (fun x : Dev => x.setDie h.set) hb1 :).trans hd
    obtain ⟨d2, hp, hk, hm⟩ := ih d1 hf1 hd1 (b.putCodes h.set (e.blkAt h k) cs) ((Dev.putCodes_same_mem hb _ _ _).trans hmem.symm)
    exact ⟨d2, hp, hk.trans hb1, hm⟩

/-- The charge of what is placed, and the step of the move, leave memory and every queued move alone. -/
theorem Dev.copied_spec (x j : Nat) (l : List (Nat × Nat)) : let e := (d.charge j l).updMove x fun n => { n with step := 4, charge := l }
    e.mem = d.mem ∧ ∀ n ∈ e.moves, n.ext = x → n.step = 0 ∨ n.step = 4 := by
  have hc : (d.charge j l).mem = d.mem := Dev.each_same Dev.mem l (fun d c => d.updSq c.1 fun q => { q with out := q.out.upd j 0 (· + c.2) })
    (fun _ _ => rfl) d
  generalize d.charge j l = d1 at hc ⊢
  refine ⟨hc, fun n hn hx => ?_⟩
  obtain ⟨k, -, rfl⟩ := List.mem_map.mp hn
  by_cases hk : (k.ext == x && decide (k.step ≠ 0)) = true
  · rw [if_pos hk]
    exact Or.inr rfl
  · rw [if_neg hk] at hx ⊢
    by_cases h0 : k.step = 0
    · exact Or.inl h0
    · exact absurd (by simp [hx, h0]) hk

end

/-- A charge that is taken back. -/
theorem Dev.discharge_kept (d : Dev) (m : Nat) (l : List (Nat × Nat)) (k : Nat) :
    (d.discharge m l).setFenced k = d.setFenced k ∧ (d.discharge m l).setDie k = d.setDie k ∧ (d.discharge m l).mem = d.mem := by
  have hk := d.keptByDrop_discharge 0 m l
  have hs : (d.discharge m l).beyondRelease = d.beyondRelease := congrArg Prod.fst hk
  exact ⟨congrArg (fun x => x.2.1 k) hk, (congrArg (fun x : Dev => x.setDie k) hs :), (congrArg Dev.mem hs :)⟩

theorem exec_moveQuiesceDone (s : State) (x : BitVec 28) (ph : Phys) (h : s.dev.moveAt x.toNat [1] = true) {d : Dev}
    (hd : s.dev.moveCopy x.toNat ph = d) : exec (.moveQuiesceDone x ph) s = .next { s with dev := d.finish } :=
  hd ▸ State.devEvent_holds (fun d => d.moveAt x.toNat [1]) (fun d => d.moveCopy x.toNat ph) s h

/-- Settles O18, from the acquisition of the first queued move and the cases of the copy. -/
theorem movesBeginAndCopy : Obligations.MovesBeginAndCopy := by
  unfold Obligations.MovesBeginAndCopy
  refine ⟨fun s j m rest grp dst hrun hup hheld hm h0 hg ht hgo => ?_, fun s x ph m hat hm => ?_⟩
  · have hacq : s.dev.acquire j.val s.dev.moves [] = s.dev.moveStart j.val m dst grp := by
      rw [hm]
      exact s.dev.acquire_first j.val grp m rest dst h0 hg ht hgo
    have hexec := State.devEvent_holds (fun d => d.loessRuns && d.loessUp j.val && decide (d.movesHeld j.val < 32))
      (fun d => d.acquire j.val d.moves []) s (by simp [hrun, hup, hheld])
    rw [hacq] at hexec
    exact ⟨_, hexec, s.dev.moveStart_spec j.val m rest dst grp hm⟩
  · intro e j
    have hs : m.step = 1 := by
      simp only [Dev.moveAt, hm, Option.elim_some, Bool.and_eq_true, List.contains_iff_mem, List.mem_singleton] at hat
      exact hat.2.1
    refine ⟨fun h => exec_moveQuiesceDone s x ph hat (s.dev.moveCopy_fenced x.toNat ph m hm hs h), fun h1 h2 =>
      ⟨fun h => exec_moveQuiesceDone s x ph hat (s.dev.moveCopy_stopped x.toNat ph m hm hs h1 h2 h), fun h3 h4 => ?_⟩⟩
    intro rd read
    refine ⟨fun h => exec_moveQuiesceDone s x ph hat (s.dev.moveCopy_held x.toNat ph m hm hs h1 h2 h3 h4 h), fun h5 =>
      ⟨fun d1 hr => exec_moveQuiesceDone s x ph hat (s.dev.moveCopy_unread x.toNat ph m hm hs h1 h2 h3 h4 h5 d1 hr), fun codes d1 hr hk =>
        ⟨fun d2 hp => exec_moveQuiesceDone s x ph hat (s.dev.moveCopy_unplaced x.toNat ph m hm hs h1 h2 h3 h4 h5 codes d1 hr hk d2 hp),
          fun hf hd => ?_⟩⟩⟩
    obtain ⟨hf', hd', hmem'⟩ := d1.discharge_kept (loessMaster j) rd m.dst.set
    rw [hf] at hf'
    rw [hd] at hd'
    obtain ⟨d2, hp, -, hmem⟩ := (d1.discharge (loessMaster j) rd).placeBlocks_same (loessAgent j) ph e m.dst codes hf' hd'
    obtain ⟨hm4, hmoves⟩ := d2.copied_spec x.toNat (loessMaster j) (addCharge [] m.dst.set e.used)
    refine ⟨_, exec_moveQuiesceDone s x ph hat (s.dev.moveCopy_placed x.toNat ph m hm hs h1 h2 h3 h4 h5 codes d1 hr hk d2 hp),
      hm4.trans (hmem.trans ?_), hmoves⟩
    exact Dev.each_putCodes_mem hmem' e m.dst codes

end Sys2Proof.Machine

/-! PROOF. Code tables (R93, R101, R111, R114, R119 to R121): install, fit, recode, release, the fetch of a record. -/
namespace Sys2Proof.Machine

section
variable (d : Dev)

/-! ### Slots of a tensor -/

theorem Tensor_slot_setSlot_same (x : Tensor) (b : Bool) (g : GSlot) : Tensor.slot (Tensor.setSlot x b g) b = g := by cases b <;> rfl

theorem Tensor_slot_setSlot_other (x : Tensor) (b : Bool) (g : GSlot) : Tensor.slot (Tensor.setSlot x b g) (!b) = Tensor.slot x (!b) := by
  cases b <;> rfl

/-- A slot that may be idle is as it was, or one that was RETIRING or LOST is EMPTY. -/
theorem Dev.slotIdle_cases (t : Nat) (b : Bool) : (d.slotIdle t b).tensors = d.tensors ∨
    ((((d.tensor t).slot b).st = .retiring ∨ ((d.tensor t).slot b).st = .lost) ∧
      (d.slotIdle t b).tensors = (d.updTensor t fun x => x.setSlot b { (d.tensor t).slot b with st := .empty, lens := [] }).tensors) := by
  unfold Dev.slotIdle
  extract_lets g d1
  have h1 : d1.tensors = (d.updTensor t fun x => x.setSlot b { (d.tensor t).slot b with st := .empty, lens := [] }).tensors := rfl
  clear_value d1
  by_cases hg : ((g.st == .retiring || g.st == .lost) && decide (g.stored = 0) && decide (g.refs = 0)) = true
  · rw [if_pos hg]
    simp only [Bool.and_eq_true, Bool.or_eq_true, beq_iff_eq] at hg
    obtain ⟨⟨hst, -⟩, -⟩ := hg
    refine Or.inr ⟨hst, ?_⟩
    split
    · exact (congrArg Dev.tensors (d1.eventsOnly_event _ _ _ _).rest :).trans h1
    · exact h1
  · rw [if_neg hg]
    exact Or.inl rfl

theorem Dev.slotIdle_other (t : Nat) (b : Bool) (y : Nat) (h : y ≠ t) : (d.slotIdle t b).tensor y = d.tensor y := by
  rcases d.slotIdle_cases t b with h1 | ⟨-, h1⟩
  · exact congrArg (fun l : Tab Tensor => l.get y {}) h1
  · exact (congrArg (fun l : Tab Tensor => l.get y {}) h1).trans (Dev.tensor_updTensor_other _ _ _ _ h)

theorem Dev.slotIdle_slot_other (t : Nat) (b : Bool) : ((d.slotIdle t b).tensor t).slot (!b) = (d.tensor t).slot (!b) := by
  rcases d.slotIdle_cases t b with h1 | ⟨-, h1⟩
  · exact congrArg (fun l : Tab Tensor => Tensor.slot (l.get t {}) (!b)) h1
  · refine (congrArg (fun l : Tab Tensor => Tensor.slot (l.get t {}) (!b)) h1).trans ?_
    exact (congrArg (Tensor.slot · (!b)) (Dev.tensor_updTensor_same d t _)).trans (Tensor_slot_setSlot_other _ _ _)

/-- A slot that is RETIRING or LOST stays so, or is EMPTY. -/
theorem Dev.slotIdle_slot (t : Nat) (b : Bool) : ((d.slotIdle t b).tensor t).slot b = (d.tensor t).slot b ∨
    ((d.slotIdle t b).tensor t).slot b = { (d.tensor t).slot b with st := .empty, lens := [] } := by
  rcases d.slotIdle_cases t b with h1 | ⟨-, h1⟩
  · exact Or.inl (congrArg (fun l : Tab Tensor => Tensor.slot (l.get t {}) b) h1)
  · refine Or.inr ((congrArg (fun l : Tab Tensor => Tensor.slot (l.get t {}) b) h1).trans ?_)
    exact (congrArg (Tensor.slot · b) (Dev.tensor_updTensor_same d t _)).trans (Tensor_slot_setSlot_same _ _ _)

/-! ### A table fills a slot -/

/-- The device e is d once slot b of tensor t holds a table with lengths. -/
structure Dev.filledTo (t : Nat) (b : Bool) (lens : List Nat) (e : Dev) : Prop where
  st : ((e.tensor t).slot b).st = .active
  lens : ((e.tensor t).slot b).lens = lens
  serial : ((e.tensor t).slot b).serial = d.serial + 1
  stored : ((e.tensor t).slot b).stored = 0
  was : ((e.tensor t).slot (!b)).st ≠ .active
  mem : e.mem = d.mem
  other : ∀ y, y ≠ t → e.tensor y = d.tensor y

/-- The tensor with the table in slot b, an ACTIVE slot beside it retiring. -/
def Tensor_filled (x : Tensor) (n : Nat) (b : Bool) (lens : List Nat) (port : Nat) (was : Bool) : Tensor :=
  let x := Tensor.setSlot x b { st := .active, serial := n, lens := lens }
  let x := if was then Tensor.setSlot x (!b) { Tensor.slot x (!b) with st := .retiring } else x
  { x with host := some port }

theorem Tensor_filled_slot (x : Tensor) (n : Nat) (b : Bool) (lens : List Nat) (port : Nat) (was : Bool) :
    Tensor.slot (Tensor_filled x n b lens port was) b = { st := .active, serial := n, lens := lens } := by
  cases b <;> cases was <;> rfl

theorem Tensor_filled_beside (x : Tensor) (n : Nat) (b : Bool) (lens : List Nat) (port : Nat) (was : Bool)
    (hw : was = ((Tensor.slot x (!b)).st == .active)) : (Tensor.slot (Tensor_filled x n b lens port was) (!b)).st ≠ .active := by
  cases was
  case true => cases b <;> exact SlotSt.noConfusion
  case false =>
    have hne : (Tensor.slot x (!b)).st ≠ .active := fun h => by simp [h] at hw
    cases b <;> exact hne

theorem Dev.filledTo_tableFill (t : Nat) (b : Bool) (lens : List Nat) (port : Nat) : d.filledTo t b lens (d.tableFill t b lens port) := by
  unfold Dev.tableFill
  extract_lets n d1 was d2
  have hsame : d2.tensor t = Tensor_filled (d.tensor t) n b lens port was := Dev.tensor_updTensor_same d1 t _
  have hother : ∀ y, y ≠ t → d2.tensor y = d.tensor y := fun y hy => Dev.tensor_updTensor_other d1 t y _ hy
  have hmem : d2.mem = d.mem := rfl
  have hslot := Tensor_filled_slot (d.tensor t) n b lens port was
  have hbeside := Tensor_filled_beside (d.tensor t) n b lens port was rfl
  rw [← hsame] at hslot hbeside
  clear_value d2
  split
  · have hidle := d2.slotIdle_slot_other t (!b)
    rw [Bool.not_not, hslot] at hidle
    refine ⟨congrArg GSlot.st hidle, congrArg GSlot.lens hidle, congrArg GSlot.serial hidle, congrArg GSlot.stored hidle, ?_,
      (congrArg Dev.mem (d2.beyondRelease_slotIdle t (!b)) :).trans hmem, fun y hy => (d2.slotIdle_other t (!b) y hy).trans (hother y hy)⟩
    rcases d2.slotIdle_slot t (!b) with h | h
    · rw [h]
      exact hbeside
    · rw [h]
      exact SlotSt.noConfusion
  · exact ⟨congrArg GSlot.st hslot, congrArg GSlot.lens hslot, congrArg GSlot.serial hslot, congrArg GSlot.stored hslot, hbeside, hmem, hother⟩

/-! ### The bodies of the commands -/

section
variable (e : Entry) (ref : CmdRef) (c : Nat)

/-- The first identifier that is free. -/
theorem find_first (p : Nat → Bool) (b n k : Nat) (hk : k < n) (hp : p (b + k) = true) (hb : ∀ i, i < k → p (b + i) = false) :
    ((List.range n).map (b + ·)).find? p = some (b + k) := by
  have hr : (List.range n).find? (p ∘ (b + ·)) = some k :=
    List.find?_range_eq_some.mpr ⟨hp, List.mem_range.mpr hk, fun j hj => by rw [Function.comp_apply, hb j hj]; rfl⟩
  rw [List.find?_map, hr]
  rfl

theorem tableInstallBody_allocates (ph : Phys) (h : bitOf (e.arg 0) 13 = true) (k : Nat)
    (hk : k < (d.tensorRange (d.portPart (d.ctx c).port)).2)
    (hf : (d.tensor ((d.tensorRange (d.portPart (d.ctx c).port)).1 + k)).alloc = false)
    (hb : ∀ i, i < k → (d.tensor ((d.tensorRange (d.portPart (d.ctx c).port)).1 + i)).alloc = true) :
    tableInstallBody e ph ref c d = (d.updTensor ((d.tensorRange (d.portPart (d.ctx c).port)).1 + k) fun _ =>
      { alloc := true, tenant := (d.ctx c).tenant, width4 := bitOf (e.arg 0) 12, host := some (d.ctx c).port }).complete ref 0
        ((d.tensorRange (d.portPart (d.ctx c).port)).1 + k) 0 := by
  have hfind := find_first (fun t => !(d.tensor t).alloc) _ _ k hk (by rw [hf]; rfl) fun i hi => by rw [hb i hi]; rfl
  unfold tableInstallBody
  refine (if_pos h).trans ?_
  dsimp only
  rw [hfind]

theorem tableInstallBody_fills (ph : Phys) (h : bitOf (e.arg 0) 13 = false) (hm : d.tensorMine c (bits (e.arg 0) 0 11) = true) (b : Bool)
    (ht : (d.tensor (bits (e.arg 0) 0 11)).target = some b) (gs : List Gran) (d1 : Dev)
    (hr : d.readWindow (d.ringAgent (d.ctx c).port) ph c (e.arg 1) 8 rR = ((0, gs), d1)) (hg : recordFault (gransBytes gs) = none) :
    tableInstallBody e ph ref c d = (d1.tableFill (bits (e.arg 0) 0 11) b (recLens (gransBytes gs)) (d.ctx c).port).complete ref 0
      (bits (e.arg 0) 0 11) 0 := by
  unfold tableInstallBody
  refine (if_neg (by rw [h]; decide)).trans ((if_neg (by rw [hm]; decide)).trans ?_)
  rw [ht]
  dsimp only
  rw [hr]
  split
  · next heq =>
    cases heq
    rw [hg]
  · next hno heq =>
    cases heq
    exact (hno rfl).elim

theorem tableFitBody_begins (hn : bits (e.arg 0) 16 16 ≠ 0) (hm : d.tensorMine c (bits (e.arg 0) 0 11) = true)
    (hf : (d.tensor (bits (e.arg 0) 0 11)).fit = none) : tableFitBody e ref c d = d.updTensor (bits (e.arg 0) 0 11) fun x =>
      { x with fit := some (ref, bits (e.arg 0) 16 16, bitOf (e.arg 0) 32, e.arg 1, c), counts := [] } :=
  (if_neg hn).trans ((if_neg (by rw [hm]; decide)).trans (if_neg (by rw [hf]; decide)))

theorem tableRecodeBody_begins (hm : d.tensorMine c (e.arg 0) = true) (hf : (d.tensor (e.arg 0)).recode = none) :
    tableRecodeBody e ref c d = d.updTensor (e.arg 0) fun x => { x with recode := some ref } :=
  (if_neg (by rw [hm]; decide)).trans (if_neg (by rw [hf]; decide))

theorem tableReleaseBody_busy (hm : d.tensorMine c (e.arg 0) = true) (h : (d.tensor (e.arg 0)).extents ≠ 0) :
    tableReleaseBody e ref c d = d.complete ref 0x216 0 0 :=
  (if_neg (by rw [hm]; decide)).trans (if_pos (by simp [h]))

/-- A tensor identifier that is FREE again, its tables in no cache. -/
def Dev.tableReleased (t : Nat) : Dev := ((d.updTensor t fun _ => {}).cacheDrop t false).cacheDrop t true

theorem Dev.tableReleased_spec (t : Nat) : let x := d.tableReleased t
    x = { d with tensors := x.tensors, tcache := x.tcache } ∧ x.tensor t = {} ∧ ∀ y, y ≠ t → x.tensor y = d.tensor y := by
  have hdrop : ∀ (e : Dev) (b : Bool) (y : Nat), (e.cacheDrop t b).tensor y = e.tensor y := fun _ _ _ => rfl
  have hrest : ∀ (e : Dev) (b : Bool), e.cacheDrop t b = { e with tcache := (e.cacheDrop t b).tcache } := fun _ _ => rfl
  have hall : ∀ y, (d.tableReleased t).tensor y = (d.updTensor t fun _ => {}).tensor y := fun y => (hdrop _ _ y).trans (hdrop _ _ y)
  refine ⟨?_, (hall t).trans (Dev.tensor_updTensor_same d t fun _ => {}), fun y hy => (hall y).trans
    (Dev.tensor_updTensor_other d t y (fun _ => {}) hy)⟩
  unfold Dev.tableReleased
  have h1 := hrest (d.updTensor t fun _ => {}) false
  generalize (d.updTensor t fun _ => {}).cacheDrop t false = d1 at h1 ⊢
  have h2 := hrest d1 true
  generalize d1.cacheDrop t true = d2 at h2 ⊢
  rw [h2, h1]
  rfl

theorem tableReleaseBody_releases (hm : d.tensorMine c (e.arg 0) = true) (h1 : (d.tensor (e.arg 0)).extents = 0)
    (h2 : (d.tensor (e.arg 0)).a.stored = 0) (h3 : (d.tensor (e.arg 0)).b.stored = 0) (h4 : (d.tensor (e.arg 0)).a.refs = 0)
    (h5 : (d.tensor (e.arg 0)).b.refs = 0) : tableReleaseBody e ref c d =
      (((d.tableReleased (e.arg 0)).completeOpt
        ((d.tensor (e.arg 0)).fit.map (·.1)) 0x213 0 0).completeOpt (d.tensor (e.arg 0)).recode 0x213 0 0).complete ref 0 (e.arg 0) 0 :=
  (if_neg (by rw [hm]; decide)).trans (if_neg (by simp [h1, h2, h3, h4, h5]))

end

/-! ### The ends of fits and recodes -/

section
variable (t : Nat) (ref : CmdRef) (inst : Bool) (addr c : Nat) (ph : Phys) (d1 : Dev)
  (hf : (d.tensor t).fit = some (ref, 0, inst, addr, c))
  (hw : (d.updTensor t fun x => { x with fit := none, counts := [] }).writeWindow
    (d.ringAgent (d.ctx c).port) ph c addr (fitGrans (d.tensor t).counts) [] = (0, d1))
include hf hw

theorem Dev.fitDone_reports (hi : inst = false) : d.fitDone t ph = d1.complete ref 0 t 0 := by
  have ha : (d.updTensor t fun x => { x with fit := none, counts := [] }).ringAgent (d.ctx c).port = d.ringAgent (d.ctx c).port := rfl
  unfold Dev.fitDone
  rw [hf]
  dsimp only
  rw [ha, hw]
  exact (if_neg (not_not_intro rfl)).trans (if_pos (by rw [hi]; rfl))

theorem Dev.fitDone_installs (hi : inst = true) (b : Bool) (hb : (d1.tensor t).target = some b) : d.fitDone t ph =
    (d1.tableFill t b (fitLens ((List.range 272).map fun k => (d.tensor t).counts.get k 0)) (d.ctx c).port).complete ref 0 t 0 := by
  have ha : (d.updTensor t fun x => { x with fit := none, counts := [] }).ringAgent (d.ctx c).port = d.ringAgent (d.ctx c).port := rfl
  unfold Dev.fitDone
  rw [hf]
  dsimp only
  rw [ha, hw]
  refine (if_neg (not_not_intro rfl)).trans ((if_neg (by rw [hi]; decide)).trans ?_)
  dsimp only
  rw [hb]

end

theorem Dev.recodeDone_nothing (t : Nat) (ph : Phys) (ref : CmdRef) (hr : (d.tensor t).recode = some ref) (hl : d.recodeList t = []) :
    d.recodeDone t ph = (d.updTensor t fun x => { x with recode := none }).complete ref 0 0 0 := by
  unfold Dev.recodeDone
  rw [hr]
  dsimp only
  rw [hl]
  rfl

theorem Dev.tensor_complete (ref : CmdRef) (st r0 r1 t : Nat) : (d.complete ref st r0 r1).tensor t = d.tensor t :=
  (congrArg (fun x : AnswerLeft => x.rest.tensor t) (d.beyondAnswer_complete ref st r0 r1 0 true) :)

/-- A recode pass ends the recode. -/
theorem Dev.recodeDone_ends (t : Nat) (ph : Phys) (ref : CmdRef) (hr : (d.tensor t).recode = some ref) :
    ((d.recodeDone t ph).tensor t).recode = none := by
  unfold Dev.recodeDone
  rw [hr]
  dsimp only
  rw [Dev.tensor_complete, Dev.tensor_updTensor_same]

/-! ### The fetch of a record -/

/-- The device without what a checked read of an intact granule changes. -/
def Dev.besideRetry : Dev := { d with setq := [], insts := [] }

theorem Dev.besideRetry_retryCharge (a : Agent) (s ga : Nat) : (d.retryCharge a s ga).besideRetry = d.besideRetry := by
  unfold Dev.retryCharge
  split
  · rfl
  · split
    · rfl
    · extract_lets i d1 cls
      have h1 : d1.besideRetry = d.besideRetry := (congrArg Dev.besideRetry (d.accrue_eq i) :)
      clear_value cls d1
      split
      · exact h1
      · exact h1

theorem physAt_intact (s ga : Nat) : (physAt {} s ga).1 = 0 := rfl

/-- A read of the metadata that meets nothing changes nothing. -/
theorem Dev.readMeta_intact (a : Agent) (s ga : Nat) (x : Option Nat) : (d.readMeta a {} s ga x).2 = d := by
  unfold Dev.readMeta
  split
  · rfl
  · rw [if_pos (physAt_intact s ga)]

theorem Dev.besideRetry_recordRead (a : Agent) (p t : Nat) (gen : Bool) : (d.recordRead a {} p t gen).besideRetry = d.besideRetry := by
  unfold Dev.recordRead
  split
  · rfl
  · refine Dev.each_same Dev.besideRetry _ _ (fun e i => ?_) d
    rw [Dev.readMeta_intact]
    exact e.besideRetry_retryCharge a _ _

section
variable (site t : Nat) (gen : Bool)

/-- A cache with a slot's table in its first place. -/
def Dev.tableCached : Dev :=
  let e := (t, gen, ((d.tensor t).slot gen).serial)
  { d with tcache := d.tcache.set site ((e :: (d.tcache.get site []).filter (· ≠ e)).take (if site < 48 then 64 else 32)) [] }

theorem Dev.cached_tableCached : (d.tableCached site t gen).cached site t gen = true := by
  unfold Dev.cached Dev.tableCached
  dsimp only
  rw [tab_get_set_same]
  split <;> exact List.contains_iff_mem.mpr List.mem_cons_self

theorem Dev.tableUse_encoder (hs : 48 ≤ site) : d.tableUse {} site t gen = d.tableCached site t gen :=
  if_pos (by rw [decide_eq_true hs, Bool.or_true])

/-- A decoder's miss is counted, and the record read. -/
theorem Dev.tableUse_decoder (h : d.cached site t gen = false) (hs : site < 48) : ∃ a p, d.tableUse {} site t gen =
    ((d.tableCached site t gen).wrapInc row_GRD_DEC_CNT (site / 2) f_GRD_DEC_CNT_MISS).recordRead a {} p t gen := by
  refine ⟨_, _, if_neg ?_⟩
  rw [decide_eq_false (Nat.not_le.mpr hs), Bool.or_false]
  exact Bool.eq_false_iff.mp h

/-- What a fetch without an error changes. -/
theorem Dev.tableUse_spec (h : d.cached site t gen = false) : let e := d.tableUse {} site t gen
    e.cached site t gen = true ∧ e = { d with tcache := e.tcache, regs := e.regs, setq := e.setq, insts := e.insts } ∧
    (48 ≤ site → e = { d with tcache := e.tcache }) ∧
    (site < 48 → e.fld row_GRD_DEC_CNT (site / 2) f_GRD_DEC_CNT_MISS =
      (d.fld row_GRD_DEC_CNT (site / 2) f_GRD_DEC_CNT_MISS + 1) % (f_GRD_DEC_CNT_MISS.top + 1)) := by
  have hc := d.cached_tableCached site t gen
  have hk : d.tableCached site t gen = { d with tcache := (d.tableCached site t gen).tcache } := rfl
  by_cases hs : 48 ≤ site
  · rw [d.tableUse_encoder site t gen hs]
    generalize d.tableCached site t gen = d1 at hc hk ⊢
    have hall : d1 = { d with tcache := d1.tcache, regs := d1.regs, setq := d1.setq, insts := d1.insts } := by
      rw [hk]
    exact ⟨hc, hall, fun _ => hk, fun hn => absurd hs (Nat.not_le.mpr hn)⟩
  · obtain ⟨a, p, hu⟩ := d.tableUse_decoder site t gen h (Nat.lt_of_not_le hs)
    have htop : f_GRD_DEC_CNT_MISS.top + 1 = 2 ^ (f_GRD_DEC_CNT_MISS.hi + 1 - f_GRD_DEC_CNT_MISS.lo) := by decide
    have hfld : (d.tableCached site t gen).fld row_GRD_DEC_CNT (site / 2) f_GRD_DEC_CNT_MISS = d.fld row_GRD_DEC_CNT (site / 2) f_GRD_DEC_CNT_MISS := rfl
    rw [hu, htop, ← hfld]
    generalize d.tableCached site t gen = d1 at hc hk ⊢
    have hcount := d1.fld_wrapInc row_GRD_DEC_CNT (site / 2) f_GRD_DEC_CNT_MISS 1 (by decide)
    have hcached : (d1.wrapInc row_GRD_DEC_CNT (site / 2) f_GRD_DEC_CNT_MISS).cached site t gen = true := hc
    have hkept : ({ d1.wrapInc row_GRD_DEC_CNT (site / 2) f_GRD_DEC_CNT_MISS with regs := [], tcache := [], setq := [], insts := [] } : Dev) =
        { d with regs := [], tcache := [], setq := [], insts := [] } :=
      (congrArg (fun e : Dev => ({ e with regs := [], tcache := [], setq := [], insts := [] } : Dev)) hk :)
    generalize d1.wrapInc row_GRD_DEC_CNT (site / 2) f_GRD_DEC_CNT_MISS = d2 at hcount hcached hkept ⊢
    have hr := d2.besideRetry_recordRead a p t gen
    generalize d2.recordRead a {} p t gen = e at hr ⊢
    refine ⟨(congrArg (fun x : Dev => x.cached site t gen) hr :).trans hcached, ?_, fun hn => absurd hn hs, fun _ =>
      (congrArg (fun x : Dev => x.fld row_GRD_DEC_CNT (site / 2) f_GRD_DEC_CNT_MISS) hr :).trans hcount⟩
    have hall : ({ e with regs := [], tcache := [], setq := [], insts := [] } : Dev) = { d with regs := [], tcache := [], setq := [], insts := [] } :=
      (congrArg (fun x : Dev => ({ x with regs := [], tcache := [] } : Dev)) hr :).trans hkept
    exact (congrArg (fun x : Dev => ({ x with regs := e.regs, tcache := e.tcache, setq := e.setq, insts := e.insts } : Dev)) hall :)

/-- A record that reads twice with a wrong CHECK makes its slot LOST, or EMPTY where nothing uses it. -/
theorem Dev.slotLost_spec : let e := d.slotLost t gen
    (((e.tensor t).slot gen).st = .lost ∨ ((e.tensor t).slot gen).st = .empty) ∧ ((e.tensor t).slot gen).lens = [] ∧ e.mem = d.mem := by
  have hslot : (((d.updTensor t fun x => x.setSlot gen { x.slot gen with st := .lost, lens := [] }).satInc row_GRD_ERR_CNT 0
      f_GRD_ERR_CNT_TABLE_LOST).tensor t).slot gen = { (d.tensor t).slot gen with st := .lost, lens := [] } :=
    (congrArg (Tensor.slot · gen) (Dev.tensor_updTensor_same d t fun x => x.setSlot gen { x.slot gen with st := .lost, lens := [] })).trans
      (Tensor_slot_setSlot_same (d.tensor t) gen { (d.tensor t).slot gen with st := .lost, lens := [] })
  have hmem : ((d.updTensor t fun x => x.setSlot gen { x.slot gen with st := .lost, lens := [] }).satInc row_GRD_ERR_CNT 0
      f_GRD_ERR_CNT_TABLE_LOST).mem = d.mem := rfl
  unfold Dev.slotLost
  dsimp only
  generalize (d.updTensor t fun x => x.setSlot gen { x.slot gen with st := .lost, lens := [] }).satInc row_GRD_ERR_CNT 0
    f_GRD_ERR_CNT_TABLE_LOST = d1 at hslot hmem ⊢
  have hm : (d1.slotIdle t gen).mem = d.mem := (congrArg Dev.mem (d1.beyondRelease_slotIdle t gen) :).trans hmem
  rcases d1.slotIdle_slot t gen with h | h
  · rw [h, hslot]
    exact ⟨Or.inl rfl, rfl, hm⟩
  · rw [h, hslot]
    exact ⟨Or.inr rfl, rfl, hm⟩

theorem Dev.recordFetch_lost (h : d.cached site t gen = false) : let e := d.recordFetch site t gen 2 {}
    (((e.tensor t).slot gen).st = .lost ∨ ((e.tensor t).slot gen).st = .empty) ∧ ((e.tensor t).slot gen).lens = [] ∧ e.mem = d.mem := by
  obtain ⟨-, huse, -, -⟩ := d.tableUse_spec site t gen h
  have hm1 : (d.tableUse {} site t gen).mem = d.mem := (congrArg Dev.mem huse :)
  have he : d.recordFetch site t gen 2 {} = ((d.tableUse {} site t gen).log
    (if site < 48 then clayDom (site / 2) else commonDom ((site - 48) / 2)) 0x0C true (t + b2n gen * 2 ^ 11)).slotLost t gen := rfl
  rw [he]
  generalize d.tableUse {} site t gen = d1 at hm1 ⊢
  have hlog := (congrArg Dev.mem (d1.besideLog_log (if site < 48 then clayDom (site / 2) else commonDom ((site - 48) / 2)) 0x0C true
    (t + b2n gen * 2 ^ 11)) :)
  generalize d1.log (if site < 48 then clayDom (site / 2) else commonDom ((site - 48) / 2)) 0x0C true (t + b2n gen * 2 ^ 11) = d2 at hlog ⊢
  obtain ⟨hst, hlens, hmem⟩ := d2.slotLost_spec t gen
  exact ⟨hst, hlens, hmem.trans ((show d2.mem = d1.mem from hlog).trans hm1)⟩

end

end

theorem exec_tableRecordFetch (s : State) (site : Fin 52) (t : BitVec 11) (gen : Fin 2) (x : FetchAt) (hw : s.dev.working = true)
    (ht : (s.dev.tableOf t.toNat (gen.val == 1)).isSome = true) (hc : s.dev.cached site.val t.toNat (gen.val == 1) = false) :
    exec (.tableRecordFetch site t gen x) s = .next { s with dev := (s.dev.recordFetch site.val t.toNat (gen.val == 1) x.bad x.ph).finish } :=
  State.devEvent_holds
    (fun d => d.working && (d.tableOf t.toNat (gen.val == 1)).isSome && !d.cached site.val t.toNat (gen.val == 1))
    (fun d => d.recordFetch site.val t.toNat (gen.val == 1) x.bad x.ph) s (by simp only [hw, ht, hc]; rfl)

theorem exec_tableFitComplete (s : State) (t : BitVec 11) (ref : CmdRef) (inst : Bool) (addr c : Nat) (ph : Phys) (hs : s.dev.serving = true)
    (hf : (s.dev.tensor t.toNat).fit = some (ref, 0, inst, addr, c)) (hm : s.dev.windowMoving c addr 34 = false) :
    exec (.tableFitComplete ⟨t, ph⟩) s = .next { s with dev := (s.dev.fitDone t.toNat ph).finish } :=
  State.devEvent_holds
    (fun d => d.serving && (d.tensor t.toNat).fit.elim false fun f => f.2.1 == 0 && !d.windowMoving f.2.2.2.2 f.2.2.2.1 34)
    (fun d => d.fitDone t.toNat ph) s (by simp only [hs, hf, Option.elim, hm]; rfl)

theorem exec_recodeComplete (s : State) (t : BitVec 11) (ref : CmdRef) (ph : Phys) (hr : s.dev.loessRuns = true)
    (hf : (s.dev.tensor t.toNat).recode = some ref) (ho : s.dev.recodeOk (s.dev.recodeList t.toNat) = true) :
    exec (.recodeComplete t ph) s = .next { s with dev := (s.dev.recodeDone t.toNat ph).finish } :=
  State.devEvent_holds (fun d => d.loessRuns && (d.tensor t.toNat).recode.isSome && d.recodeOk (d.recodeList t.toNat))
    (fun d => d.recodeDone t.toNat ph) s (by simp only [hr, hf, ho]; rfl)

section
variable (s : State) (q : Queue) (e : Entry) (d0 d : Dev) (c : Nat) (hs : s.dev.starts q e = some d0) (hc : d0.cmdCheck q e = (0, c))
include hs hc

theorem exec_tableInstall (ph : Phys) (ho : e.opc = 0x14) (hb : tableInstallBody e ph (d0.cmdRef q e) c d0 = d) :
    exec (.tableInstall q e ph) s = .next { s with dev := d.finish } :=
  hb ▸ State.devCmd_runs 0x14 q e (tableInstallBody e ph) s d0 c ho hs hc

theorem exec_tableFit (ho : e.opc = 0x15) (hb : tableFitBody e (d0.cmdRef q e) c d0 = d) :
    exec (.tableFit q e) s = .next { s with dev := d.finish } :=
  hb ▸ State.devCmd_runs 0x15 q e (tableFitBody e) s d0 c ho hs hc

theorem exec_tableRecode (ho : e.opc = 0x16) (hb : tableRecodeBody e (d0.cmdRef q e) c d0 = d) :
    exec (.tableRecode q e) s = .next { s with dev := d.finish } :=
  hb ▸ State.devCmd_runs 0x16 q e (tableRecodeBody e) s d0 c ho hs hc

theorem exec_tableRelease (ho : e.opc = 0x17) (hb : tableReleaseBody e (d0.cmdRef q e) c d0 = d) :
    exec (.tableRelease q e) s = .next { s with dev := d.finish } :=
  hb ▸ State.devCmd_runs 0x17 q e (tableReleaseBody e) s d0 c ho hs hc

end

/-- Settles O24, from the bodies of the table commands, the ends of fits and recodes, and the fetch of a record. -/
theorem gradeTables : Obligations.GradeTables := by
  unfold Obligations.GradeTables
  refine ⟨fun s q e ph d0 c hs hc => ?_, fun s t => ⟨?_, ?_, ?_, ?_⟩⟩
  · intro ref ok t
    refine ⟨?_, fun b gs d1 ho h hm ht hr hg => ?_, fun ho hn hm hf => ?_, fun ho hm hf => ?_, ?_⟩
    · intro ho h r k hk hf hb
      exact ⟨_, exec_tableInstall s q e d0 _ c hs hc ph ho (tableInstallBody_allocates d0 e ref c ph h k hk hf hb), rfl,
        Dev.tensor_updTensor_same _ _ _, fun y hy => Dev.tensor_updTensor_other _ _ _ _ hy⟩
    · obtain ⟨hst, hlens, hserial, hstored, hwas, hmem, hother⟩ := d1.filledTo_tableFill t b (recLens (gransBytes gs)) (d0.ctx c).port
      exact ⟨_, exec_tableInstall s q e d0 _ c hs hc ph ho (tableInstallBody_fills d0 e ref c ph h hm b ht gs d1 hr hg), hst, hlens, hserial,
        hstored, hwas, hmem, hother⟩
    · exact ⟨_, exec_tableFit s q e d0 _ c hs hc ho (tableFitBody_begins d0 e ref c hn hm hf), rfl, Dev.tensor_updTensor_same _ _ _,
        fun y hy => Dev.tensor_updTensor_other _ _ _ _ hy⟩
    · exact ⟨_, exec_tableRecode s q e d0 _ c hs hc ho (tableRecodeBody_begins d0 e ref c hm hf), rfl, Dev.tensor_updTensor_same _ _ _,
        fun y hy => Dev.tensor_updTensor_other _ _ _ _ hy⟩
    · intro ho hm x
      refine ⟨fun h1 h2 h3 h4 h5 => ?_, fun h => exec_tableRelease s q e d0 _ c hs hc ho (tableReleaseBody_busy d0 e ref c hm h)⟩
      exact ⟨_, exec_tableRelease s q e d0 _ c hs hc ho (tableReleaseBody_releases d0 e ref c hm h1 h2 h3 h4 h5), d0.tableReleased_spec (e.arg 0)⟩
  · intro ref inst addr c d1 ph hs hf hm hw
    have hexec := exec_tableFitComplete s t ref inst addr c ph hs hf hm
    refine ⟨fun hi => s.dev.fitDone_reports t.toNat ref inst addr c ph d1 hf hw hi ▸ hexec, fun b hi hb => ?_⟩
    obtain ⟨hst, hlens, -, -, hwas, -, -⟩ := d1.filledTo_tableFill t.toNat b
      (fitLens ((List.range 272).map fun k => (s.dev.tensor t.toNat).counts.get k 0)) (s.dev.ctx c).port
    exact ⟨_, s.dev.fitDone_installs t.toNat ref inst addr c ph d1 hf hw hi b hb ▸ hexec, hst, hlens, hwas⟩
  · intro ref ph hr hf hl
    have hexec := exec_recodeComplete s t ref ph hr hf (by rw [hl]; rfl)
    exact ⟨_, s.dev.recodeDone_nothing t.toNat ph ref hf hl ▸ hexec, rfl, Dev.tensor_updTensor_same _ _ _⟩
  · intro ref ph hr hf ho
    exact ⟨_, exec_recodeComplete s t ref ph hr hf ho, s.dev.recodeDone_ends t.toNat ph ref hf⟩
  · intro site gen hw ht hc
    have hgood : s.dev.recordFetch site.val t.toNat (gen.val == 1) 0 {} = s.dev.tableUse {} site.val t.toNat (gen.val == 1) := rfl
    exact ⟨⟨_, hgood ▸ exec_tableRecordFetch s site t gen ⟨0, {}⟩ hw ht hc, s.dev.tableUse_spec site.val t.toNat (gen.val == 1) hc⟩,
      fun bad ph => ⟨_, exec_tableRecordFetch s site t gen ⟨bad, ph⟩ hw ht hc⟩,
      _, exec_tableRecordFetch s site t gen ⟨2, {}⟩ hw ht hc, s.dev.recordFetch_lost site.val t.toNat (gen.val == 1) hc⟩

end Sys2Proof.Machine

/-! PROOF. Operand reads of a tensor operation (R127, R135, R139, R258): their issue, what comes of the application of a read. -/
namespace Sys2Proof.Machine

section
variable (d : Dev)

/-! ### The pending operation and its sources -/

theorem TOp_src_updSrc (o : TOp) (r : Nat) (f : Src → Src) : (o.updSrc r f).src r = f (o.src r) := tab_get_set_same _ _ _ _

theorem Dev.pend_updPend (b : Nat) (f : TOp → TOp) : ((d.updPend b f).bed b).pend = (d.bed b).pend.map f :=
  congrArg Bed.pend (Dev.bed_updBed_same d b fun y => { y with pend := y.pend.map f })

theorem Dev.run_updPend (b : Nat) (f : TOp → TOp) : ((d.updPend b f).bed b).run = (d.bed b).run :=
  (congrArg Bed.run (Dev.bed_updBed_same d b fun y => { y with pend := y.pend.map f }) :)

/-- Two changes of the pending operation are one where they agree on it. -/
theorem Dev.updPend_congr (b : Nat) (f g : TOp → TOp) (o : TOp) (h : (d.bed b).pend = some o) (hfg : f o = g o) :
    d.updPend b f = d.updPend b g := by
  have hy : ({ d.bed b with pend := (d.bed b).pend.map f } : Bed) = { d.bed b with pend := (d.bed b).pend.map g } := by
    rw [h, Option.map_some, Option.map_some, hfg]
  exact congrArg (d.setBed b) hy

theorem Dev.ceilOk_updPend (b : Nat) (f : TOp → TOp) (m : Nat) (l : List (Nat × Nat)) : (d.updPend b f).ceilOk m l = d.ceilOk m l := rfl

/-! ### Issue -/

/-- The placed granules of a source, those that a window slot or an extent holds. -/
def placedGrans (ps : List (TDesc × Nat × Where_)) : List (TDesc × Nat × OpPlace × Nat × Option Nat) :=
  ps.filterMap fun e => match e.2.2 with
    | .at_ p g k => some (e.1, e.2.1, p, g, k)
    | _ => none

/-- The source with its blocks placed and reserved. -/
def TOp_reserved (o : TOp) (r : Nat) (bs : List RdBlk) (n : Nat) : TOp :=
  o.updSrc r fun s => { s with todo := bs, resv := (bs.map (·.resv)).sum, applied := bs.isEmpty, rid := n }

theorem findSome_bad (ps : List (TDesc × Nat × Where_)) (h : ∀ e ∈ ps, ∀ st, e.2.2 ≠ .bad st) :
    (ps.findSome? fun e => match e.2.2 with
      | .bad s => some s
      | _ => none) = none := by
  refine List.findSome?_eq_none_iff.mpr fun e he => ?_
  split
  · next s hs => exact absurd hs (h e he s)
  · rfl

/-- The device as the source is reserved. -/
def Dev.reservedSrc (b r : Nat) (o : TOp) (ps : List (TDesc × Nat × Where_)) : Dev :=
  ({ d with nextId := d.nextId + 1 } : Dev).updPend b fun _ => TOp_reserved o r (d.readBlocks o r (placedGrans ps)) d.nextId

section
variable (ph : Phys) (b r : Nat) (o : TOp) (ps : List (TDesc × Nat × Where_)) (d1 : Dev)

section
variable (hw : d.whereAll (d.bedAgent b) ph o (o.needGrans r []) = (ps, d1)) (hbad : ∀ e ∈ ps, ∀ st, e.2.2 ≠ .bad st)
  (hnot : ∀ e ∈ ps, e.2.2 ≠ .notReady)
include hw hbad hnot

theorem Dev.reserveSrc_placed : d.reserveSrc ph b r o [] =
    if !d1.clayRoom b o r ((d1.readBlocks o r (placedGrans ps)).map (·.resv)).sum then d1
    else ({ d1 with nextId := d1.nextId + 1 } : Dev).updPend b fun o' => o'.updSrc r fun s => { s with
      todo := d1.readBlocks o r (placedGrans ps), resv := ((d1.readBlocks o r (placedGrans ps)).map (·.resv)).sum,
      applied := (d1.readBlocks o r (placedGrans ps)).isEmpty, rid := d1.nextId } := by
  have hany : (ps.any fun e => e.2.2 == .notReady) = false :=
    List.any_eq_false.mpr fun e he hb => hnot e he (eq_of_beq hb)
  have hfind := findSome_bad ps hbad
  unfold Dev.reserveSrc
  rw [hw]
  dsimp only
  split
  · next s hs => exact absurd (hfind.symm.trans hs) nofun
  · refine (if_neg (by rw [hany]; decide)).trans ?_
    rfl

theorem Dev.reserveSrc_full (hroom : d1.clayRoom b o r ((d1.readBlocks o r (placedGrans ps)).map (·.resv)).sum = false) :
    d.reserveSrc ph b r o [] = d1 :=
  (d.reserveSrc_placed ph b r o ps d1 hw hbad hnot).trans (if_pos (by rw [hroom]; rfl))

theorem Dev.reserveSrc_reserved (hp1 : (d1.bed b).pend = some o)
    (hroom : d1.clayRoom b o r ((d1.readBlocks o r (placedGrans ps)).map (·.resv)).sum = true) :
    d.reserveSrc ph b r o [] = d1.reservedSrc b r o ps :=
  (d.reserveSrc_placed ph b r o ps d1 hw hbad hnot).trans ((if_neg (by rw [hroom]; decide)).trans (Dev.updPend_congr _ b _ _ o hp1 rfl))

end

/-- An issue whose source is placed first: the pending operation o' that the placing leaves. -/
theorem Dev.prefetch_reserves (hi : o.indexed r = false) (hp : (d.bed b).pend = some o) (ht : (o.src r).todo = []) (e : Dev)
    (he : d.reserveSrc ph b r o [] = e) (o' : TOp) (hpe : (e.bed b).pend = some o') : d.prefetch ph b r =
      if o'.status ≠ 0 || ((o'.src r).todo = [] && !(o'.src r).applied) || !e.ceilOk (bedMaster b) (readCharges (o'.src r).todo) then e else
      (e.charge (bedMaster b) (readCharges (o'.src r).todo)).updPend b fun o => o.updSrc r fun s => { s with issued := true } := by
  unfold Dev.prefetch
  rw [hp]
  dsimp only
  rw [hi, if_neg Bool.false_ne_true]
  dsimp only
  rw [if_pos ht, he, hpe]

theorem Dev.pend_reservedSrc (hp1 : (d1.bed b).pend = some o) :
    ((d1.reservedSrc b r o ps).bed b).pend = some (TOp_reserved o r (d1.readBlocks o r (placedGrans ps)) d1.nextId) :=
  (Dev.pend_updPend _ b _).trans (congrArg (Option.map fun _ => TOp_reserved o r (d1.readBlocks o r (placedGrans ps)) d1.nextId) hp1)

theorem TOp_src_reserved (bs : List RdBlk) (n : Nat) : ((TOp_reserved o r bs n).src r).todo = bs ∧ ((TOp_reserved o r bs n).src r).applied = bs.isEmpty ∧
    (TOp_reserved o r bs n).status = o.status := by
  have h := TOp_src_updSrc o r fun s => { s with todo := bs, resv := (bs.map (·.resv)).sum, applied := bs.isEmpty, rid := n }
  exact ⟨congrArg Src.todo h, congrArg Src.applied h, rfl⟩

/-- What an issue leaves. -/
theorem Dev.issued_spec (hp1 : (d1.bed b).pend = some o) (bs : List (Nat × Nat)) :
    let e := ((d1.reservedSrc b r o ps).charge (bedMaster b) bs).updPend b fun o => o.updSrc r fun s => { s with issued := true }
    e.mem = d1.mem ∧ e.nextId = d1.nextId + 1 ∧ (e.bed b).pend =
      some ((TOp_reserved o r (d1.readBlocks o r (placedGrans ps)) d1.nextId).updSrc r fun s => { s with issued := true }) := by
  have hc := (d1.reservedSrc b r o ps).charge_setq (bedMaster b) bs
  have hpend := Dev.pend_reservedSrc b r o ps d1 hp1
  have hmem : (d1.reservedSrc b r o ps).mem = d1.mem := rfl
  have hid : (d1.reservedSrc b r o ps).nextId = d1.nextId + 1 := rfl
  generalize d1.reservedSrc b r o ps = e0 at hc hpend hmem hid ⊢
  have hbed : (e0.charge (bedMaster b) bs).bed b = e0.bed b := (congrArg (fun x : Dev => x.bed b) hc :)
  have hm : (e0.charge (bedMaster b) bs).mem = e0.mem := (congrArg Dev.mem hc :)
  have hn : (e0.charge (bedMaster b) bs).nextId = e0.nextId := (congrArg Dev.nextId hc :)
  generalize e0.charge (bedMaster b) bs = e1 at hbed hm hn ⊢
  refine ⟨hm.trans hmem, hn.trans hid, (Dev.pend_updPend e1 b _).trans ?_⟩
  rw [hbed, hpend]
  rfl

section
variable (hw : d.whereAll (d.bedAgent b) ph o (o.needGrans r []) = (ps, d1)) (hbad : ∀ e ∈ ps, ∀ st, e.2.2 ≠ .bad st)
  (hnot : ∀ e ∈ ps, e.2.2 ≠ .notReady) (hi : o.indexed r = false) (hp : (d.bed b).pend = some o) (ht : (o.src r).todo = [])
  (hp1 : (d1.bed b).pend = some o)
include hw hbad hnot hi hp ht hp1

/-- No room in clay: nothing is reserved. -/
theorem Dev.prefetch_full (ha : (o.src r).applied = false)
    (hroom : d1.clayRoom b o r ((d1.readBlocks o r (placedGrans ps)).map (·.resv)).sum = false) : d.prefetch ph b r = d1 :=
  (d.prefetch_reserves ph b r o hi hp ht d1 (d.reserveSrc_full ph b r o ps d1 hw hbad hnot hroom) o hp1).trans
    (if_pos (by simp [ht, ha]))

variable (hroom : d1.clayRoom b o r ((d1.readBlocks o r (placedGrans ps)).map (·.resv)).sum = true)
include hroom

/-- Reserved, and waiting for the ceiling. -/
theorem Dev.prefetch_waits (hc : d1.ceilOk (bedMaster b) (readCharges (d1.readBlocks o r (placedGrans ps))) = false) :
    d.prefetch ph b r = d1.reservedSrc b r o ps := by
  obtain ⟨htodo, -, -⟩ := TOp_src_reserved r o (d1.readBlocks o r (placedGrans ps)) d1.nextId
  have hceil : (d1.reservedSrc b r o ps).ceilOk (bedMaster b) (readCharges (d1.readBlocks o r (placedGrans ps))) = false := hc
  refine (d.prefetch_reserves ph b r o hi hp ht _ (d.reserveSrc_reserved ph b r o ps d1 hw hbad hnot hp1 hroom) _
    (Dev.pend_reservedSrc b r o ps d1 hp1)).trans (if_pos ?_)
  rw [htodo, hceil, Bool.not_false, Bool.or_true]

/-- Reserved, charged and issued. -/
theorem Dev.prefetch_issues (hst : o.status = 0) (hc : d1.ceilOk (bedMaster b) (readCharges (d1.readBlocks o r (placedGrans ps))) = true) :
    d.prefetch ph b r = ((d1.reservedSrc b r o ps).charge (bedMaster b) (readCharges (d1.readBlocks o r (placedGrans ps)))).updPend b fun o =>
      o.updSrc r fun s => { s with issued := true } := by
  obtain ⟨htodo, happ, hstat⟩ := TOp_src_reserved r o (d1.readBlocks o r (placedGrans ps)) d1.nextId
  have hceil : (d1.reservedSrc b r o ps).ceilOk (bedMaster b) (readCharges (d1.readBlocks o r (placedGrans ps))) = true := hc
  refine (d.prefetch_reserves ph b r o hi hp ht _ (d.reserveSrc_reserved ph b r o ps d1 hw hbad hnot hp1 hroom) _
    (Dev.pend_reservedSrc b r o ps d1 hp1)).trans ((if_neg ?_).trans (by rw [htodo]))
  rw [htodo, happ, hstat, hst, hceil]
  cases d1.readBlocks o r (placedGrans ps) <;> simp

end

end

/-! ### Reads that are issued again -/

/-- The reads of a source, none of them to be issued again. -/
def TOp_reissued (o : TOp) (r : Nat) : TOp := o.updSrc r fun s => { s with todo := s.todo.map fun w => { w with again := false } }

theorem TOp_reissued_spec (o : TOp) (r : Nat) :
    (TOp_reissued o r).agains r = [] ∧ ((TOp_reissued o r).src r).todo.length = (o.src r).todo.length ∧
    ((TOp_reissued o r).src r).issued = (o.src r).issued ∧ ((TOp_reissued o r).src r).applied = (o.src r).applied := by
  have h := TOp_src_updSrc o r fun s => { s with todo := s.todo.map fun w => { w with again := false } }
  have htodo : ((TOp_reissued o r).src r).todo = (o.src r).todo.map fun w => { w with again := false } := congrArg Src.todo h
  refine ⟨?_, ?_, (congrArg Src.issued h :), (congrArg Src.applied h :)⟩
  · unfold TOp.agains
    rw [htodo]
    refine List.filter_eq_nil_iff.mpr fun w hw => ?_
    obtain ⟨v, -, rfl⟩ := List.mem_map.mp hw
    exact Bool.false_ne_true
  · rw [htodo, List.length_map]

theorem Dev.runReads_congr (b r : Nat) (e : Dev) (h : (e.bed b).run = (d.bed b).run) : e.runReads b r = d.runReads b r := by
  unfold Dev.runReads
  rw [h]

theorem Dev.readsOf_run (b r : Nat) (h : d.runReads b r = true) : d.readsOf b r = (d.bed b).run := if_pos h
theorem Dev.readsOf_pend (b r : Nat) (h : d.runReads b r = false) : d.readsOf b r = (d.bed b).pend := if_neg (by rw [h]; decide)

/-- A change of the operation whose reads come next, which leaves its source issued as it was. -/
theorem Dev.readsOf_updOp (b r : Nat) (f : TOp → TOp) (o : TOp) (h : d.readsOf b r = some o)
    (hf : ((f o).src r).issued = (o.src r).issued ∧ ((f o).src r).applied = (o.src r).applied) :
    (d.updOp b (d.runReads b r) f).readsOf b r = some (f o) := by
  cases hr : d.runReads b r
  case false =>
    rw [d.readsOf_pend b r hr] at h
    have hno : (d.updPend b f).runReads b r = false := (d.runReads_congr b r _ (d.run_updPend b f)).trans hr
    have he : d.updOp b false f = d.updPend b f := if_neg Bool.false_ne_true
    rw [he, Dev.readsOf_pend _ b r hno, d.pend_updPend b f, h]
    rfl
  case true =>
    rw [d.readsOf_run b r hr] at h
    have he : d.updOp b true f = d.updBed b fun y => { y with run := y.run.map f } := if_pos rfl
    have hrun : ((d.updBed b fun y => { y with run := y.run.map f }).bed b).run = some (f o) := by
      refine (congrArg Bed.run (Dev.bed_updBed_same d b fun y => { y with run := y.run.map f }) :).trans ?_
      exact congrArg (Option.map f) h
    have hyes : (d.updBed b fun y => { y with run := y.run.map f }).runReads b r = true := by
      unfold Dev.runReads at hr ⊢
      rw [h] at hr
      rw [hrun]
      dsimp only [Option.elim] at hr ⊢
      rw [hf.1, hf.2]
      exact hr
    rw [he, Dev.readsOf_run _ b r hyes, hrun]

theorem Dev.reissue_eq (b r : Nat) (o : TOp) (h : d.readsOf b r = some o) : d.reissue b r =
    (d.charge (bedMaster b) (readCharges (o.agains r))).updOp b (d.runReads b r) fun o => TOp_reissued o r := by
  rw [Dev.reissue, h]
  rfl

/-- Everything but the beds and the accounts of sets. -/
def Dev.besideReads : Dev := { d with beds := [], setq := [] }

theorem Dev.besideReads_updOp (b : Nat) (run : Bool) (f : TOp → TOp) : (d.updOp b run f).besideReads = d.besideReads := by
  unfold Dev.updOp
  split <;> rfl

theorem Dev.besideReads_charge (m : Nat) (l : List (Nat × Nat)) : (d.charge m l).besideReads = d.besideReads :=
  (congrArg Dev.besideReads (d.charge_setq m l) :)

theorem Dev.reissue_spec (b r : Nat) (o : TOp) (h : d.readsOf b r = some o) : let e := d.reissue b r
    e.mem = d.mem ∧ e = { d with beds := e.beds, setq := e.setq } ∧
    ∃ o' : TOp, e.readsOf b r = some o' ∧ o'.agains r = [] ∧ (o'.src r).todo.length = (o.src r).todo.length := by
  obtain ⟨hagain, hlen, hiss, happ⟩ := TOp_reissued_spec o r
  have hcharge := d.charge_setq (bedMaster b) (readCharges (o.agains r))
  have hbeside := d.besideReads_charge (bedMaster b) (readCharges (o.agains r))
  rw [d.reissue_eq b r o h]
  generalize d.charge (bedMaster b) (readCharges (o.agains r)) = d1 at hcharge hbeside ⊢
  have hruns : d1.runReads b r = d.runReads b r := (congrArg (fun x : Dev => x.runReads b r) hcharge :)
  have hreads : d1.readsOf b r = some o := (congrArg (fun x : Dev => x.readsOf b r) hcharge :).trans h
  have hnew := d1.readsOf_updOp b r (fun o => TOp_reissued o r) o hreads ⟨hiss, happ⟩
  have hall := (d1.besideReads_updOp b (d.runReads b r) fun o => TOp_reissued o r).trans hbeside
  rw [hruns] at hnew
  generalize d1.updOp b (d.runReads b r) (fun o => TOp_reissued o r) = e at hnew hall ⊢
  exact ⟨(congrArg Dev.mem hall :), (congrArg (fun x : Dev => ({ x with beds := e.beds, setq := e.setq } : Dev)) hall :), _, hnew, hagain, hlen⟩

/-! ### The application of a read of the pending operation -/

/-- The blocks that a read takes, as they would be issued again. -/
def Dev.rereadAs (r : Nat) (o : TOp) (now : List RdBlk) : List RdBlk :=
  now.map fun w =>
    let k := d.resvOf (w.own && o.transitRole r) w.place
    { w with
      resv := k, tries := if k = w.resv then 0 else w.tries + 1, again := true, set := d.placeSet w.place,
      charge := d.blockCharge (w.own && o.transitRole r) w.place w.grans.length }

/-- The pending operation with the blocks of a read taken off what is left. -/
def Dev.readTaken (b r : Nat) (o : TOp) (now : List RdBlk) : Dev :=
  (d.discharge (bedMaster b) (readCharges now)).updPend b fun o' => o'.updSrc r fun s =>
    { s with todo := (o.src r).todo.filter fun w => !now.contains w, came := true,
             applied := ((o.src r).todo.filter fun w => !now.contains w).isEmpty }

theorem Dev.taken_eq (b r : Nat) (o : TOp) (hp : (d.bed b).pend = some o) (now : List RdBlk) :
    ((d.discharge (bedMaster b) (readCharges now)).updOp b false fun o => o.updSrc r fun s =>
      let left := s.todo.filter fun w => !now.contains w
      { s with todo := left, came := true, applied := left.isEmpty }) = d.readTaken b r o now := by
  have hd := d.discharge_setq (bedMaster b) (readCharges now)
  have hp1 : ((d.discharge (bedMaster b) (readCharges now)).bed b).pend = some o := (congrArg (fun x : Dev => (x.bed b).pend) hd :).trans hp
  exact (if_neg Bool.false_ne_true).trans (Dev.updPend_congr _ b _ _ o hp1 rfl)

theorem Dev.any_gone (r n : Nat) (o : TOp) (hw : ∀ w ∈ o.nextReads r n, d.placeId w.place ≠ none) :
    ¬ ((o.nextReads r n).any fun w => (d.placeId w.place).isNone) = true := fun h => by
  obtain ⟨w, hm, hn⟩ := List.any_eq_true.mp h
  exact hw w hm (Option.isNone_iff_eq_none.mp hn)

section
variable (b r n : Nat) (ph : Phys) (o : TOp) (hr : d.runReads b r = false) (hp : (d.bed b).pend = some o)
include hr hp

/-- A read of an operation that has failed. -/
theorem Dev.readApply_failed (h : o.status ≠ 0) : d.readApply b r n ph = d.readTaken b r o (o.nextReads r n) := by
  unfold Dev.readApply
  rw [d.readsOf_pend b r hr, hp, hr]
  exact (if_pos h).trans (d.taken_eq b r o hp _)

variable (h0 : o.status = 0)
include h0

/-- A block that is gone. -/
theorem Dev.readApply_gone (h : ∃ w ∈ o.nextReads r n, d.placeId w.place = none) :
    d.readApply b r n ph = (d.readTaken b r o (o.nextReads r n)).updPend b fun o => o.fail 0x07 := by
  have hany : ((o.nextReads r n).any fun w => (d.placeId w.place).isNone) = true := by
    obtain ⟨w, hw, hn⟩ := h
    exact List.any_eq_true.mpr ⟨w, hw, by rw [hn]; rfl⟩
  unfold Dev.readApply
  rw [d.readsOf_pend b r hr, hp, hr]
  refine (if_neg (not_not_intro h0)).trans ((if_pos hany).trans ((if_neg Bool.false_ne_true).trans ?_))
  exact congrArg (fun e : Dev => e.updPend b fun o => o.fail 0x07) (d.taken_eq b r o hp _)

variable (hw : ∀ w ∈ o.nextReads r n, d.placeId w.place ≠ none)
include hw

/-- A length that has changed. -/
theorem Dev.readApply_changed (h : (d.rereadAs r o (o.nextReads r n) |>.map (·.resv)).sum ≠ ((o.nextReads r n).map (·.resv)).sum) :
    d.readApply b r n ph = d.srcChanged b r false o (o.nextReads r n) := by
  have hsum : ((o.nextReads r n).map fun w => d.resvOf (w.own && o.transitRole r) w.place).sum ≠ ((o.nextReads r n).map (·.resv)).sum := by
    unfold Dev.rereadAs at h
    rwa [List.map_map] at h
  unfold Dev.readApply
  rw [d.readsOf_pend b r hr, hp, hr]
  exact (if_neg (not_not_intro h0)).trans ((if_neg (d.any_gone r n o hw)).trans (if_pos hsum))

variable (hs : (d.rereadAs r o (o.nextReads r n) |>.map (·.resv)).sum = ((o.nextReads r n).map (·.resv)).sum)
  (ok : Bool) (d2 : Dev) (hf : (d.readTaken b r o (o.nextReads r n)).fillTag b o.ctx ph = (ok, d2))
include hs hf

/-- Blocks that come into clay, or meet a tag that is wrong. -/
theorem Dev.readApply_comes : d.readApply b r n ph =
    if ok then (d2.readsDone o.ctx (o.nextReads r n)).blocksIn b r false ph o (o.nextReads r n)
    else (d2.readsDone o.ctx (o.nextReads r n)).updOp b false fun o => o.fail 0x10A := by
  have hsum : ((o.nextReads r n).map fun w => d.resvOf (w.own && o.transitRole r) w.place).sum = ((o.nextReads r n).map (·.resv)).sum := by
    unfold Dev.rereadAs at hs
    rwa [List.map_map] at hs
  have ht := (congrArg (fun e : Dev => e.fillTag b o.ctx ph) (d.taken_eq b r o hp (o.nextReads r n))).trans hf
  unfold Dev.readApply
  rw [d.readsOf_pend b r hr, hp, hr]
  refine (if_neg (not_not_intro h0)).trans ((if_neg (d.any_gone r n o hw)).trans ((if_neg (not_not_intro hsum)).trans ?_))
  dsimp only at ht ⊢
  rw [ht]

end

/-! ### Lengths that have changed -/

section
variable (b r : Nat) (o : TOp) (now : List RdBlk)

theorem Dev.srcChanged_unstable (h : ∃ w ∈ d.rereadAs r o now, 8 ≤ w.tries) :
    d.srcChanged b r false o now = d.updPend b fun o => (o.fail 0x10D).updSrc r fun s => { s with applied := true } := by
  have hany : ((d.rereadAs r o now).any fun w => decide (8 ≤ w.tries)) = true := by
    obtain ⟨w, hw, h8⟩ := h
    exact List.any_eq_true.mpr ⟨w, hw, decide_eq_true h8⟩
  exact (if_pos hany).trans (if_neg Bool.false_ne_true)

/-- The pending operation with the reads to be issued again. -/
def TOp_reread (o : TOp) (r : Nat) (again now : List RdBlk) : TOp :=
  o.updSrc r fun s => { s with
    todo := again ++ s.todo.filter fun w => !now.contains w, resv := s.resv + (again.map (·.resv)).sum - (now.map (·.resv)).sum }

theorem Dev.srcChanged_again (hp : (d.bed b).pend = some o) (h : ∀ w ∈ d.rereadAs r o now, w.tries < 8) :
    (d.srcChanged b r false o now).mem = d.mem ∧ ((d.srcChanged b r false o now).bed b).pend = some (TOp_reread o r (d.rereadAs r o now) now) := by
  have hany : ¬ ((d.rereadAs r o now).any fun w => decide (8 ≤ w.tries)) = true := fun ha => by
    obtain ⟨w, hw, h8⟩ := List.any_eq_true.mp ha
    exact absurd (of_decide_eq_true h8) (Nat.not_le.mpr (h w hw))
  have he : d.srcChanged b r false o now = ((d.wrapInc row_BED_CLAY ((d.homeCluster b).getD 0) f_BED_CLAY_LEN_CHANGED).discharge (bedMaster b)
      (readCharges now)).updPend b fun o' => TOp_reread o' r (d.rereadAs r o now) now :=
    (if_neg hany).trans (if_neg Bool.false_ne_true)
  have hp1 : ((d.wrapInc row_BED_CLAY ((d.homeCluster b).getD 0) f_BED_CLAY_LEN_CHANGED).bed b).pend = some o := hp
  have hm1 : (d.wrapInc row_BED_CLAY ((d.homeCluster b).getD 0) f_BED_CLAY_LEN_CHANGED).mem = d.mem := rfl
  rw [he]
  generalize d.wrapInc row_BED_CLAY ((d.homeCluster b).getD 0) f_BED_CLAY_LEN_CHANGED = d1 at hp1 hm1 ⊢
  have hd := d1.discharge_setq (bedMaster b) (readCharges now)
  have hp2 : ((d1.discharge (bedMaster b) (readCharges now)).bed b).pend = some o := (congrArg (fun x : Dev => (x.bed b).pend) hd :).trans hp1
  have hm2 : (d1.discharge (bedMaster b) (readCharges now)).mem = d.mem := (congrArg Dev.mem hd :).trans hm1
  generalize d1.discharge (bedMaster b) (readCharges now) = d2 at hp2 hm2 ⊢
  refine ⟨hm2, (d2.pend_updPend b _).trans ?_⟩
  rw [hp2]
  rfl

theorem TOp_todo_reread (o : TOp) (r : Nat) (again now : List RdBlk) :
    ((TOp_reread o r again now).src r).todo = again ++ (o.src r).todo.filter (fun w => !now.contains w) ∧
    (TOp_reread o r again now).status = o.status :=
  ⟨(congrArg Src.todo (TOp_src_updSrc o r fun s => { s with
    todo := again ++ s.todo.filter fun w => !now.contains w, resv := s.resv + (again.map (·.resv)).sum - (now.map (·.resv)).sum }) :), rfl⟩

end

/-! ### A block that comes into clay -/

/-- The extent of a block is touched as it is read. -/
def Dev.touchedAt (w : RdBlk) : Dev :=
  match w.place with
  | .ext x _ => d.touch x
  | _ => d

section
variable (b r : Nat) (ph : Phys) (o : TOp) (n : Nat) (w : RdBlk)

theorem Dev.blocksIn_one : d.blocksIn b r false ph o [w] = d.blockIn b r false ph o (o.src r).held.length w := rfl

/-- A block that comes into clay as data of its source. -/
def Dev.laneIn (b r : Nat) (x : Option (List (Nat × Gran)) × Dev) : Dev :=
  x.1.elim (x.2.updPend b fun o => o.fail 0x07) fun l => x.2.updPend b fun o => o.updSrc r fun s => { s with data := addData s.data l }

theorem Dev.blockIn_lane (ht : (w.own && o.transitRole r) = false) : d.blockIn b r false ph o n w =
    Dev.laneIn b r ((d.touchedAt w).laneRead (d.bedAgent b) ph b o r n w) := by
  unfold Dev.blockIn Dev.touchedAt
  refine (if_neg (by rw [ht]; decide)).trans ?_
  cases w.place <;> (dsimp only; split <;> (next h => rw [h]; rfl))

/-- A block that comes into clay in transit form. -/
def Dev.transitIn (b r : Nat) (w : RdBlk) (x : Option (BlkId × List Gran) × Dev) : Dev :=
  x.1.elim (x.2.updPend b fun o => o.fail 0x07) fun y =>
    (x.2.refsTake (if y.1.coded then [(y.1.ref, 1)] else [])).updPend b fun q =>
      { q.updSrc r fun s => { s with held := s.held ++ [⟨y.1, w.grans, y.2⟩] } with refs := q.refs ++ if y.1.coded then [(y.1.ref, 1)] else [] }

theorem Dev.blockIn_whole (ht : (w.own && o.transitRole r) = true) : d.blockIn b r false ph o n w =
    Dev.transitIn b r w ((d.touchedAt w).transitRead (d.bedAgent b) ph w.place) := by
  unfold Dev.blockIn Dev.touchedAt
  refine (if_pos ht).trans ?_
  cases w.place <;> (dsimp only; split <;> (next h => rw [h]; rfl))

theorem Dev.blockIn_poison (ht : (w.own && o.transitRole r) = false) (d4 : Dev)
    (hl : (d.touchedAt w).laneRead (d.bedAgent b) ph b o r n w = (none, d4)) :
    d.blockIn b r false ph o n w = d4.updPend b fun o => o.fail 0x07 := by
  rw [d.blockIn_lane b r ph o n w ht, hl]
  rfl

theorem Dev.blockIn_data (ht : (w.own && o.transitRole r) = false) (l : List (Nat × Gran)) (d4 : Dev)
    (hl : (d.touchedAt w).laneRead (d.bedAgent b) ph b o r n w = (some l, d4)) :
    d.blockIn b r false ph o n w = d4.updPend b fun o => o.updSrc r fun s => { s with data := addData s.data l } := by
  rw [d.blockIn_lane b r ph o n w ht, hl]
  rfl

theorem Dev.besideTensors_refsTake (l : List (Nat × Nat)) : (d.refsTake l).mem = d.mem ∧ (d.refsTake l).beds = d.beds :=
  ⟨Dev.each_same Dev.mem l (fun d r => d.refsInc (r.1 / 2) (r.1 % 2 == 1) r.2) (fun _ _ => rfl) d,
    Dev.each_same Dev.beds l (fun d r => d.refsInc (r.1 / 2) (r.1 % 2 == 1) r.2) (fun _ _ => rfl) d⟩

theorem Dev.blockIn_transit (ht : (w.own && o.transitRole r) = true) (k : BlkId) (l : List Gran) (d4 : Dev)
    (hl : (d.touchedAt w).transitRead (d.bedAgent b) ph w.place = (some (k, l), d4)) :
    let e := d.blockIn b r false ph o n w
    e.mem = d4.mem ∧ ∃ refs, (e.bed b).pend = (d4.bed b).pend.map fun q =>
      { q.updSrc r fun s => { s with held := s.held ++ [⟨k, w.grans, l⟩] } with refs := refs } := by
  have he : d.blockIn b r false ph o n w = (d4.refsTake (if k.coded then [(k.ref, 1)] else [])).updPend b fun q =>
      { q.updSrc r fun s => { s with held := s.held ++ [⟨k, w.grans, l⟩] } with refs := q.refs ++ if k.coded then [(k.ref, 1)] else [] } := by
    rw [d.blockIn_whole b r ph o n w ht, hl]
    rfl
  obtain ⟨hm, hb⟩ := d4.besideTensors_refsTake (if k.coded then [(k.ref, 1)] else [])
  have hbed : ((d4.refsTake (if k.coded then [(k.ref, 1)] else [])).bed b).pend = (d4.bed b).pend :=
    congrArg (fun t : Tab Bed => (t.get b {}).pend) hb
  intro e
  have hpend : (e.bed b).pend = (d4.bed b).pend.map fun q =>
      { q.updSrc r fun s => { s with held := s.held ++ [⟨k, w.grans, l⟩] } with refs := q.refs ++ if k.coded then [(k.ref, 1)] else [] } := by
    unfold e
    rw [he, Dev.pend_updPend, hbed]
  have hmem : e.mem = d4.mem := by
    unfold e
    rw [he]
    exact hm
  clear_value e
  refine ⟨hmem, ?_⟩
  cases hq : (d4.bed b).pend with
  | none => exact ⟨[], by rw [hpend, hq]; rfl⟩
  | some q => exact ⟨q.refs ++ if k.coded then [(k.ref, 1)] else [], by rw [hpend, hq]; rfl⟩

end

end

/-! ### The two steps -/

section
variable (s : State) (b i : Fin 8)

theorem exec_prefetch_issues (o : TOp) (ph : Phys) (hp : (s.dev.bed b.val).pend = some o) (hsw : s.dev.switchPick b.val = false)
    (hmay : s.dev.mayIssue b.val i.val o = true) (hno : s.dev.mayReissue b.val i.val = false) {d : Dev}
    (hd : s.dev.prefetch ph b.val i.val = d) : exec (.prefetch b ⟨i, ph⟩) s = .next { s with dev := d.finish } := by
  have hdue : s.dev.prefetchDue b.val i.val = true := by
    unfold Dev.prefetchDue
    rw [hsw, hp]
    exact hmay
  have h := State.devEvent_holds (fun d => d.prefetchDue b.val i.val || d.mayReissue b.val i.val)
    (fun d => if d.mayReissue b.val i.val then d.reissue b.val i.val else d.prefetch ph b.val i.val) s (by rw [hdue]; rfl)
  rw [if_neg (by rw [hno]; decide), hd] at h
  exact h

theorem exec_prefetch_again (ph : Phys) (hmay : s.dev.mayReissue b.val i.val = true) :
    exec (.prefetch b ⟨i, ph⟩) s = .next { s with dev := (s.dev.reissue b.val i.val).finish } := by
  have h := State.devEvent_holds (fun d => d.prefetchDue b.val i.val || d.mayReissue b.val i.val)
    (fun d => if d.mayReissue b.val i.val then d.reissue b.val i.val else d.prefetch ph b.val i.val) s (by rw [hmay, Bool.or_true])
  rw [if_pos hmay] at h
  exact h

section
variable (n : Nat) (errs : List EngErr) (order : List Nat) (ph : Phys) (hdue : s.dev.readDue b.val i.val n = true)
include hdue

theorem exec_operandRead : exec (.operandReadApply b ⟨i, n, errs, order⟩ ph) s =
    .next { s with dev := (s.dev.operandRead b.val i.val n errs order ph).finish } :=
  State.devEvent_holds (fun d => d.readDue b.val i.val n) (fun d => d.operandRead b.val i.val n errs order ph) s hdue

/-- A read of the pending operation. -/
theorem exec_operandRead_pend (hr : s.dev.runReads b.val i.val = false) {d : Dev} (hd : s.dev.readApply b.val i.val n ph = d) :
    exec (.operandReadApply b ⟨i, n, errs, order⟩ ph) s = .next { s with dev := d.finish } := by
  have h : s.dev.operandRead b.val i.val n errs order ph = d := by
    unfold Dev.operandRead
    rw [hr]
    exact (if_pos rfl).trans hd
  exact h ▸ exec_operandRead s b i n errs order ph hdue

/-- A read of the running operation, which executes with its last operand. -/
theorem exec_operandRead_run (hr : s.dev.runReads b.val i.val = true) : ∃ d2 : Dev,
    d2 = { s.dev.readApply b.val i.val n ph with regs := d2.regs, free := d2.free } ∧
    exec (.operandReadApply b ⟨i, n, errs, order⟩ ph) s = .next { s with dev := ((d2.bed b.val).run.elim d2 fun o =>
      if o.status = 0 ∧ o.present = true then d2.opBody b.val errs order ph o else d2).finish } := by
  generalize hd1 : s.dev.readApply b.val i.val n ph = d1
  refine ⟨(d1.fresh 32).2.wrapInc row_BED_STALL b.val f_BED_STALL_STALL_TICKS (d1.fresh 32).1.toNat, rfl, ?_⟩
  have h : s.dev.operandRead b.val i.val n errs order ph =
      (((d1.fresh 32).2.wrapInc row_BED_STALL b.val f_BED_STALL_STALL_TICKS (d1.fresh 32).1.toNat).bed b.val).run.elim
        ((d1.fresh 32).2.wrapInc row_BED_STALL b.val f_BED_STALL_STALL_TICKS (d1.fresh 32).1.toNat) fun o =>
          if o.status = 0 ∧ o.present = true then
            ((d1.fresh 32).2.wrapInc row_BED_STALL b.val f_BED_STALL_STALL_TICKS (d1.fresh 32).1.toNat).opBody b.val errs order ph o
          else (d1.fresh 32).2.wrapInc row_BED_STALL b.val f_BED_STALL_STALL_TICKS (d1.fresh 32).1.toNat := by
    unfold Dev.operandRead
    rw [hr, hd1]
    refine (if_neg (by decide)).trans ?_
    dsimp only
    generalize (d1.fresh 32).2.wrapInc row_BED_STALL b.val f_BED_STALL_STALL_TICKS (d1.fresh 32).1.toNat = d2
    cases (d2.bed b.val).run with
    | none => rfl
    | some o =>
      dsimp only [Option.elim]
      simp only [Bool.and_eq_true, decide_eq_true_eq]
  exact h ▸ exec_operandRead s b i n errs order ph hdue

end

/-- A read of the pending operation, by what it meets. -/
theorem operandReads_pend (o : TOp) (n : Nat) (errs : List EngErr) (order : List Nat) (ph : Phys) (hdue : s.dev.readDue b.val i.val n = true)
    (hr : s.dev.runReads b.val i.val = false) (hp : (s.dev.bed b.val).pend = some o) :
    let now := o.nextReads i.val n
    let left := (o.src i.val).todo.filter fun w => !now.contains w
    let d1 := s.dev.readTaken b.val i.val o now
    let again := s.dev.rereadAs i.val o now
    let same := (again.map (·.resv)).sum = (now.map (·.resv)).sum
    let answers := fun (d : Dev) => exec (.operandReadApply b ⟨i, n, errs, order⟩ ph) s = .next { s with dev := d.finish }
    (o.status ≠ 0 → answers d1) ∧
    (o.status = 0 → (∃ w ∈ now, s.dev.placeId w.place = none) → answers (d1.updPend b.val fun o => o.fail 0x07)) ∧
    (o.status = 0 → (∀ w ∈ now, s.dev.placeId w.place ≠ none) →
      (¬ same → (∃ w ∈ again, 8 ≤ w.tries) →
        answers (s.dev.updPend b.val fun o => (o.fail 0x10D).updSrc i.val fun r => { r with applied := true })) ∧
      (¬ same → (∀ w ∈ again, w.tries < 8) → ∃ d : Dev, answers d ∧ d.mem = s.dev.mem ∧
        ∃ o' : TOp, (d.bed b.val).pend = some o' ∧ o'.status = 0 ∧ (o'.src i.val).todo = again ++ left) ∧
      (same → (∀ d2, d1.fillTag b.val o.ctx ph = (false, d2) →
          answers ((d2.readsDone o.ctx now).updPend b.val fun o => o.fail 0x10A)) ∧
        ∀ d2 w, now = [w] → d1.fillTag b.val o.ctx ph = (true, d2) →
          let a := (d2.readsDone o.ctx now).bedAgent b.val
          let d3 := (d2.readsDone o.ctx now).touchedAt w
          ((w.own && o.transitRole i.val) = false →
            (∀ d4, d3.laneRead a ph b.val o i.val (o.src i.val).held.length w = (none, d4) →
              answers (d4.updPend b.val fun o => o.fail 0x07)) ∧
            ∀ l d4, d3.laneRead a ph b.val o i.val (o.src i.val).held.length w = (some l, d4) →
              answers (d4.updPend b.val fun o => o.updSrc i.val fun r => { r with data := addData r.data l })) ∧
          ((w.own && o.transitRole i.val) = true → ∀ k l d4, d3.transitRead a ph w.place = (some (k, l), d4) →
            ∃ d : Dev, answers d ∧ d.mem = d4.mem ∧ ∃ refs, (d.bed b.val).pend = (d4.bed b.val).pend.map fun q =>
              { q.updSrc i.val fun r => { r with held := r.held ++ [⟨k, w.grans, l⟩] } with refs := refs }))) := by
  intro now left d1 again same answers
  have hans : ∀ {d : Dev}, s.dev.readApply b.val i.val n ph = d → answers d := fun h =>
    exec_operandRead_pend s b i n errs order ph hdue hr h
  refine ⟨fun h => hans (s.dev.readApply_failed b.val i.val n ph o hr hp h), fun h0 hg => hans (s.dev.readApply_gone b.val i.val n ph o hr hp h0 hg),
    fun h0 hw => ⟨fun hs h8 => hans ?_, fun hs h8 => ?_, fun hs => ⟨fun d2 hf => hans ?_, fun d2 w hnow hf => ?_⟩⟩⟩
  · exact (s.dev.readApply_changed b.val i.val n ph o hr hp h0 hw hs).trans (s.dev.srcChanged_unstable b.val i.val o now h8)
  · obtain ⟨hm, hpend⟩ := s.dev.srcChanged_again b.val i.val o now hp h8
    obtain ⟨htodo, hstat⟩ := TOp_todo_reread o i.val (s.dev.rereadAs i.val o now) now
    exact ⟨_, hans (s.dev.readApply_changed b.val i.val n ph o hr hp h0 hw hs), hm, _, hpend, hstat.trans h0, htodo⟩
  · exact (s.dev.readApply_comes b.val i.val n ph o hr hp h0 hw hs false d2 hf).trans ((if_neg Bool.false_ne_true).trans
      (if_neg Bool.false_ne_true))
  · intro a d3
    have hcomes : s.dev.readApply b.val i.val n ph = (d2.readsDone o.ctx now).blockIn b.val i.val false ph o (o.src i.val).held.length w := by
      refine (s.dev.readApply_comes b.val i.val n ph o hr hp h0 hw hs true d2 hf).trans ((if_pos rfl).trans ?_)
      have hone := (d2.readsDone o.ctx now).blocksIn_one b.val i.val ph o w
      rw [← hnow] at hone
      exact hone
    exact ⟨fun ht => ⟨fun d4 hl => hans (hcomes.trans (Dev.blockIn_poison _ _ _ _ _ _ _ ht d4 hl)), fun l d4 hl =>
        hans (hcomes.trans (Dev.blockIn_data _ _ _ _ _ _ _ ht l d4 hl))⟩,
      fun ht k l d4 hl => ⟨_, hans hcomes, Dev.blockIn_transit _ _ _ _ _ _ _ ht k l d4 hl⟩⟩

end

/-- Settles O26, from the placing and the issue of a source, its issue again, and what an applied read meets. -/
theorem operandReads : Obligations.OperandReads := by
  unfold Obligations.OperandReads
  intro s b i
  refine ⟨fun o ps d1 ph hp hsw hmay hno hi ht ha hw hp1 hbad hnot => ?_, fun o ph hreads hmay => ?_, fun o n errs order ph hdue hr hp => ?_,
    fun n errs order ph hdue hr => exec_operandRead_run s b i n errs order ph hdue hr⟩
  · intro bs resv o1
    have hst : o.status = 0 := by
      simp only [Dev.mayIssue, Bool.and_eq_true, beq_iff_eq] at hmay
      obtain ⟨⟨⟨⟨⟨-, h⟩, -⟩, -⟩, -⟩, -⟩ := hmay
      exact h
    have hexec : ∀ {d : Dev}, s.dev.prefetch ph b.val i.val = d → exec (.prefetch b ⟨i, ph⟩) s = .next { s with dev := d.finish } :=
      fun h => exec_prefetch_issues s b i o ph hp hsw hmay hno h
    refine ⟨fun hroom => hexec (s.dev.prefetch_full ph b.val i.val o ps d1 hw hbad hnot hi hp ht hp1 ha hroom), fun hroom =>
      ⟨fun hc => hexec (s.dev.prefetch_waits ph b.val i.val o ps d1 hw hbad hnot hi hp ht hp1 hroom hc), fun hc => ?_⟩⟩
    exact ⟨_, hexec (s.dev.prefetch_issues ph b.val i.val o ps d1 hw hbad hnot hi hp ht hp1 hroom hst hc),
      Dev.issued_spec b.val i.val o ps d1 hp1 _⟩
  · exact ⟨_, exec_prefetch_again s b i ph hmay, s.dev.reissue_spec b.val i.val o hreads⟩
  · exact operandReads_pend s b i o n errs order ph hdue hr hp

end Sys2Proof.Machine

/-! PROOF. Operations that write no memory and no request, the fence of a set in terms of them, and the reads of memory (R283, R290 to R296, R305). -/
namespace Sys2Proof.Machine

/-! ### Calm operations

Most operations under a read or a write of memory write tables and registers only, never memory, requests, contexts, plans
or regions: Dev.calm is what they leave of a device. -/

/-- The device without what a calm operation may write. -/
def Dev.calm (d : Dev) : Dev :=
  { d with
    descs := [], evHold := [], evq := [], faultN := false, free := 0, insts := [], journals := [], logFull := 0, moves := [], out := [],
    pend := 0, poison := [], ports := [], regs := [], setq := [], sweeps := [], tcache := [], tensors := [], win := [], wire := [] }

section
variable (d : Dev)

theorem Dev.calm_events {e : Dev} (h : d.eventsOnly e) : e.calm = d.calm :=
  (congrArg Dev.calm h.rest :)

theorem Dev.calm_event (dst : Option Nat) (code ctx data : Nat) : (d.event dst code ctx data).calm = d.calm :=
  d.calm_events (d.eventsOnly_event _ _ _ _)

theorem Dev.calm_safety (k code data : Nat) : (d.safety k code data).calm = d.calm :=
  (Dev.calm_events _ (Dev.faultPin_spec _) : (d.safety k code data).calm = _).trans (Dev.calm_event _ _ _ _ _)

theorem Dev.calm_each {α : Type} (l : List α) (f : Dev → α → Dev) (hf : ∀ e x, (f e x).calm = e.calm) : (d.each l f).calm = d.calm :=
  Dev.each_same Dev.calm l f hf d

theorem Dev.calm_wr (r : RegRow) (i : Nat) (w : Word) : (d.wr r i w).calm = d.calm := rfl
theorem Dev.calm_setFld (r : RegRow) (i : Nat) (f : Fld) (v : Nat) : (d.setFld r i f v).calm = d.calm := rfl
theorem Dev.calm_wrapInc (r : RegRow) (i : Nat) (f : Fld) (k : Nat) : (d.wrapInc r i f k).calm = d.calm := rfl
theorem Dev.calm_satInc (r : RegRow) (i : Nat) (f : Fld) (k : Nat) : (d.satInc r i f k).calm = d.calm := rfl
theorem Dev.calm_updInst (i : Nat) (f : Inst → Inst) : (d.updInst i f).calm = d.calm := rfl
theorem Dev.calm_updPort (p : Nat) (f : Port → Port) : (d.updPort p f).calm = d.calm := rfl
theorem Dev.calm_updTensor (t : Nat) (f : Tensor → Tensor) : (d.updTensor t f).calm = d.calm := rfl
theorem Dev.calm_setDesc (x : Nat) (e : Desc) : (d.setDesc x e).calm = d.calm := rfl
theorem Dev.calm_setPoison (i : Nat) (p : Option Poison) : (d.setPoison i p).calm = d.calm := rfl
theorem Dev.calm_jRetire (grp x : Nat) : (d.jRetire grp x).calm = d.calm := rfl

theorem Dev.calm_updSq (s : Nat) (f : SetQ → SetQ) : (d.updSq s f).calm = d.calm := rfl

theorem Dev.calm_discharge (m : Nat) (l : List (Nat × Nat)) : (d.discharge m l).calm = d.calm :=
  d.calm_each _ _ fun e _ => e.calm_updSq _ _

theorem Dev.calm_accrue (i : Nat) : (d.accrue i).calm = d.calm := by
  unfold Dev.accrue
  split <;> rfl

theorem Dev.calm_burst (i : Nat) (p : Piece) : (d.burst i p).calm = d.calm := by
  unfold Dev.burst
  extract_lets x part key open_ now
  split
  next r j _ =>
  extract_lets d1 d2
  have h2 : d2.calm = d.calm := by
    unfold d2
    split <;> rfl
  clear_value d2
  split
  extract_lets d3
  have h3 : d3.calm = d.calm := (d2.calm_updInst i _).trans h2
  clear_value d3
  split
  · exact h3
  · exact (d3.calm_updSq _ _).trans h3

theorem Dev.calm_clockStop (i : Nat) (st : InstSt) : (d.clockStop i st).calm = d.calm :=
  (Dev.calm_updInst _ i _).trans ((Dev.calm_each _ _ _ fun e p => e.calm_burst i p).trans (d.calm_accrue i))

theorem Dev.calm_pressureCheck (s : Nat) : (d.pressureCheck s).calm = d.calm := by
  unfold Dev.pressureCheck
  split
  · rfl
  split
  · rfl
  extract_lets f q data
  split
  · exact (Dev.calm_event _ _ _ _ _).trans (Dev.calm_updSq _ _ _)
  split
  · exact (Dev.calm_event _ _ _ _ _).trans ((Dev.calm_updSq _ _ _).trans rfl)
  · rfl

theorem Dev.calm_pressureAll : d.pressureAll.calm = d.calm := d.calm_each _ _ fun e s => e.calm_pressureCheck s

theorem Dev.calm_abandon (x : Nat) : (d.abandon x).calm = d.calm := by
  unfold Dev.abandon
  split
  · rfl
  next m _ =>
  split
  · rfl
  extract_lets d1 d2
  have h1 : d1.calm = d.calm := rfl
  have h2 : d2.calm = d1.calm := by
    unfold d2
    split
    · exact (Dev.calm_discharge _ _ _).trans (d1.calm_satInc _ _ _ _)
    · rfl
  exact (Dev.calm_pressureAll _).trans ((d2.calm_jRetire _ _).trans (h2.trans h1))

theorem Dev.calm_raiseShortfall (s : Nat) : (d.raiseShortfall s).calm = d.calm := by
  unfold Dev.raiseShortfall
  extract_lets q data d1 shares d2
  have h1 : d1.calm = d.calm := d.calm_event _ _ _ _
  have h2 : d2.calm = d1.calm := d1.calm_each _ _ fun e n => by
    split
    · exact e.calm_event _ _ _ _
    · rfl
  exact (Dev.calm_updSq _ _ _).trans (h2.trans h1)

theorem Dev.calm_setK (s k cause : Nat) : (d.setK s k cause).calm = d.calm := by
  unfold Dev.setK
  extract_lets q d1 d2 held
  split
  · exact d.calm_updSq _ _
  have h1 : d1.calm = d.calm := d.calm_each _ _ fun e i => e.calm_accrue i
  have h2 : d2.calm = d.calm := (Dev.calm_updSq _ _ _).trans h1
  split
  · exact (Dev.calm_updSq _ _ _).trans h2
  · exact (d2.calm_raiseShortfall s).trans h2

theorem Dev.calm_logPut (die e : Nat) : (d.logPut die e).calm = d.calm := by
  unfold Dev.logPut
  extract_lets h d1 d2 full d3 d4
  have h3 : d3.calm = d.calm := by
    unfold d3
    split <;> rfl
  have h4 : d4.calm = d3.calm := by
    unfold d4
    split <;> rfl
  exact (d4.calm_wr _ _ _).trans (h4.trans h3)

theorem Dev.calm_log (x code : Nat) (lasting : Bool) (detail : Nat) : (d.log x code lasting detail).calm = d.calm := by
  unfold Dev.log
  dsimp only
  split
  · exact (Dev.calm_event _ _ _ _ _).trans (d.calm_logPut _ _)
  · exact d.calm_logPut _ _

theorem Dev.calm_trainLog (i c g : Nat) (lasting : Bool) : (d.trainLog i c g lasting).calm = d.calm := by
  unfold Dev.trainLog
  extract_lets d1
  have h1 : d1.calm = d.calm := by
    unfold d1
    split <;> rfl
  exact (d1.calm_log _ _ _ _).trans h1

theorem Dev.calm_ceCount (sub : Bool) (ch : Nat) : (d.ceCount sub ch).calm = d.calm := by
  unfold Dev.ceCount
  split
  extract_lets n t d1
  have h1 : d1.calm = d.calm := rfl
  clear_value d1
  split
  · exact (d1.calm_event _ _ _ _).trans h1
  · exact h1

theorem Dev.calm_ceTable (p : Place) (src sym : Nat) : (d.ceTable p src sym).calm = d.calm := by
  unfold Dev.ceTable
  dsimp only
  split
  · rfl
  · split <;> rfl

theorem Dev.calm_memCe (s ga src sym : Nat) : (d.memCe s ga src sym).calm = d.calm := by
  unfold Dev.memCe
  split
  · rfl
  · exact (Dev.calm_ceTable _ _ _ _).trans (d.calm_ceCount _ _)

theorem Dev.calm_poisonBit (x : Nat) : (d.poisonBit x).calm = d.calm := by
  unfold Dev.poisonBit
  split <;> rfl

theorem Dev.calm_poisonAdd (p : Poison) : (d.poisonAdd p).calm = d.calm := by
  unfold Dev.poisonAdd
  split
  · exact d.calm_event _ _ _ _
  · dsimp only
    split
    · exact (Dev.calm_poisonBit _ _).trans (d.calm_setPoison _ _)
    · exact d.calm_setPoison _ _

theorem Dev.calm_retryCharge (a : Agent) (s ga : Nat) : (d.retryCharge a s ga).calm = d.calm := by
  unfold Dev.retryCharge
  split
  · rfl
  split
  · rfl
  extract_lets i d1 cls
  have h1 : d1.calm = d.calm := d.calm_accrue i
  clear_value d1 cls
  split
  · exact (Dev.calm_updSq _ _ _).trans h1
  · exact (Dev.calm_updSq _ _ _).trans ((d1.calm_updInst i _).trans h1)

end

/-! ### The fence of a set, step by step -/

/-- The requests at a set take back what they have written of it, and fail. -/
def Dev.takenBack (d : Dev) (lie : List (Nat × Nat)) (hit : List Req) : Dev :=
  (d.each hit.reverse fun d r => d.undoReq lie r).each (hit.map (·.id)) fun d id => d.failReq id 0x07

theorem Dev.fenceSet_steps (d : Dev) (s cause : Nat) : ∃ (d1 : Dev) (lie : List (Nat × Nat)) (hit : List Req), d1.calm = d.calm ∧
    (∀ r ∈ hit, r ∈ d.reqs) ∧ (d.fenceSet s cause).calm = (d1.takenBack lie hit).calm := by
  unfold Dev.fenceSet
  split
  · exact ⟨d, [], [], rfl, fun _ h => (nomatch h), rfl⟩
  split
  · exact ⟨d, [], [], rfl, fun _ h => (nomatch h), rfl⟩
  extract_lets lie ids d1 hit d2 d3 d4 xs d5 d6
  have h1 : d1.calm = d.calm := d.calm_each _ _ fun e i => (Dev.calm_updInst _ i _).trans (e.calm_accrue i)
  have h4 : d4.calm = d3.calm := d3.calm_updSq _ _
  have h5 : d5.calm = d4.calm := d4.calm_each _ _ fun e x => e.calm_abandon x
  have h6 : d6.calm = d5.calm := d5.calm_setK _ _ _
  have hreqs : d1.reqs = d.reqs := (congrArg Dev.reqs h1 :)
  refine ⟨d1, lie, hit, h1, fun r hr => hreqs ▸ (List.mem_filter.1 hr).1, ?_⟩
  exact (d6.calm_safety _ _ _).trans (h6.trans (h5.trans h4))

/-! ### What reads of memory do -/

/-- A relation that the operations under a read of memory keep: calm operations, and the fence of a set. -/
structure Dev.ReadKept (R : Dev → Dev → Prop) : Prop where
  trans : ∀ {d e f}, R d e → R e f → R d f
  calm : ∀ {d e : Dev}, e.calm = d.calm → R d e
  fence : ∀ (d : Dev) (s cause : Nat), R d (d.fenceSet s cause)

section
variable {R : Dev → Dev → Prop} (w : Dev.ReadKept R) (d : Dev)
include w

theorem Dev.ReadKept.refl : R d d := w.calm rfl

theorem Dev.ReadKept.each {α : Type} (l : List α) (f : Dev → α → Dev) (hf : ∀ e x, x ∈ l → R e (f e x)) : R d (d.each l f) := by
  induction l generalizing d with
  | nil => exact w.refl d
  | cons x t ih => exact w.trans (hf d x List.mem_cons_self) (ih (f d x) fun e y hy => hf e y (List.mem_cons_of_mem x hy))

theorem Dev.ReadKept.failChans (i : Nat) (mask : BitVec 4) (cause : Nat) : R d (d.failChans i mask cause) := by
  unfold Dev.failChans
  extract_lets d1
  have h1 : R d d1 := w.calm (d.calm_updInst i _)
  split
  · exact w.trans h1 (w.fence d1 _ _)
  · exact h1

theorem Dev.ReadKept.replayStart (i : Nat) : R d (d.replayStart i) := by
  unfold Dev.replayStart
  extract_lets x near n d1
  split
  · exact w.refl d
  have h1 : R d d1 := w.calm (d.calm_updInst i _)
  clear_value d1
  split
  · refine w.trans h1 (w.trans (w.calm ?_) (w.failChans _ i _ _))
    exact (Dev.calm_trainLog _ i _ _ _).trans rfl
  · exact w.trans h1 (w.calm ((Dev.calm_updInst _ i _).trans (d1.calm_clockStop i _)))

theorem Dev.ReadKept.metaUe (a : Agent) (s ga : Nat) (x : Option Nat) (c : Code) : R d (d.metaUe a s ga x c) := by
  unfold Dev.metaUe
  split
  · exact w.refl d
  extract_lets i d1
  have h1 : R d d1 := w.trans (w.calm ((Dev.calm_poisonAdd _ _).trans (d.calm_log _ _ _ _))) (w.replayStart _ i)
  split
  · exact h1
  · exact w.trans h1 (w.calm (d1.calm_safety _ _ _))

theorem Dev.ReadKept.lastingUe (a : Agent) (s ga : Nat) (o : Option Owner) (c : Code) : R d (d.lastingUe a s ga o c) := by
  unfold Dev.lastingUe
  split
  · exact w.refl d
  · exact w.trans (w.calm ((Dev.calm_poisonAdd _ _).trans (d.calm_log _ _ _ _))) (w.replayStart _ _)

theorem Dev.ReadKept.readCode (a : Agent) (ph : Phys) (s ga : Nat) (c : Code) (lost : Code → Dev → Dev) (hl : ∀ x e, R e (lost x e)) :
    R d (d.readCode a ph s ga c lost).2 := by
  unfold Dev.readCode
  extract_lets u d1 dom det
  have h1 : R d d1 := w.calm (d.calm_retryCharge a s ga)
  have h2 : R d (d1.log dom 0x01 false det) := w.trans h1 (w.calm (d1.calm_log _ _ _ _))
  split
  · exact w.refl d
  · exact w.calm (d.calm_memCe _ _ _ _)
  · split
    · exact h2
    · exact w.trans h2 (w.calm (Dev.calm_memCe _ _ _ _ _))
    · exact w.trans h1 (hl _ d1)

theorem Dev.ReadKept.readStored (a : Agent) (ph : Phys) (s ga : Nat) (o : Option Owner) : R d (d.readStored a ph s ga o).2 := by
  unfold Dev.readStored
  split
  · exact w.refl d
  · exact w.readCode d a ph s ga _ _ fun x e => w.lastingUe e a s ga o x

theorem Dev.ReadKept.readMeta (a : Agent) (ph : Phys) (s ga : Nat) (x : Option Nat) : R d (d.readMeta a ph s ga x).2 := by
  unfold Dev.readMeta
  split
  · exact w.refl d
  split
  · exact w.refl d
  · have h := w.readCode d a ph s ga 0 (fun c d => d.metaUe a s ga x c) fun c e => w.metaUe e a s ga x c
    generalize d.readCode a ph s ga 0 (fun c d => d.metaUe a s ga x c) = r at h ⊢
    exact h

end

end Sys2Proof.Machine

/-! PROOF. WRITE_RAW at a granule past the end of a set (R307): the statement about LOAM_TEST fails there. -/
namespace Sys2Proof.Machine

/-- One set of one topsoil channel, in partition 0. -/
def oneSet : SSet :=
  { channels := [0], sub := false, die := 0, grain := 1, codecOk := true, part := 0, lowWm := 0, highWm := 0, shares := [] }

def oneSetStrat : Strat :=
  { sets := [oneSet], overcommit := 16, beds := [], ports := [], lanes := 0, routes := [], ageLimit := 0, rtMask := 0, slots := [],
    powerLimit := 0, allow := [], bedPart := [], portPart := [], loessPart := [], sealCount := 0, safe := false, id := 0, seq := 0,
    digest := [], image := [] }

/-- Extent 0 is homed at a slot far past the end of set 0, whose granules read as those of set 1 do; the first of them holds a 1. -/
def homePastEnd : State := { dev := Dev.memPut {
  strat := some oneSetStrat, rgns := [(0, { st := .active })], descs := [(0, { st := .stable, loc := 2 ^ 33 })] } 1 0 1 }

theorem testAt_homePastEnd : homePastEnd.dev.testAt = .mem 0 (2 ^ 44) := by decide

theorem memGet_homePastEnd : homePastEnd.dev.memGet 1 0 = 1 := Dev.memGet_memPut_same _ 1 0 1

/-- The granule past the end of set 0 is the first one of set 1. -/
theorem memGet_past (d : Dev) : d.memGet 1 0 = d.memGet 0 (2 ^ 44) := by
  have hkey : granKey 1 0 = granKey 0 (2 ^ 44) := by decide
  rw [Dev.memGet_eq, Dev.memGet_eq, hkey]

/-- Refutes O50: nothing in a state bounds the place of a home; WRITE_RAW at an extent whose home lies past the end of its set writes a
granule that reads as one of another set, and the statement says that every other granule stays. -/
theorem not_scrubAndTestCommands : ¬ Obligations.ScrubAndTestCommands := by
  unfold Obligations.ScrubAndTestCommands
  intro h
  obtain ⟨-, -, -, htest⟩ := h homePastEnd
  obtain ⟨⟨d, -, hput, -, hmem, -⟩, -⟩ := htest _ testAt_homePastEnd nofun
  obtain ⟨-, hother⟩ := hmem 0 (2 ^ 44) rfl
  have hkept : d.memGet 1 0 = 1 := (hother 1 0 (by decide) (.inl (by decide))).trans memGet_homePastEnd
  have hcode : d.memGet 0 (2 ^ 44) = 0 := hput.trans (by decide)
  exact absurd (hkept.symm.trans ((memGet_past d).trans hcode)) (by decide)

end Sys2Proof.Machine

/-! PROOF. What the reads and writes of extents can do, step by step (R194, R290 to R296, R403). -/
namespace Sys2Proof.Machine

/-! ### Calm operations under a write -/

section
variable (d : Dev)

theorem Dev.calm_slotIdle (t : Nat) (b : Bool) : (d.slotIdle t b).calm = d.calm := by
  unfold Dev.slotIdle
  extract_lets g d1
  have h1 : d1.calm = d.calm := rfl
  clear_value d1
  split
  · split
    · exact (d1.calm_event _ _ _ _).trans h1
    · exact h1
  · rfl

theorem Dev.calm_storedMove (t c : Nat) (g : Bool) (c' : Nat) (g' : Bool) : (d.storedMove t c g c' g').calm = d.calm := by
  unfold Dev.storedMove
  extract_lets coded d1
  have h1 : d1.calm = d.calm := by
    unfold d1
    split <;> rfl
  clear_value d1
  split
  · exact (Dev.calm_slotIdle _ _ _).trans h1
  · exact h1

theorem Dev.calm_encodeCount (x len : Nat) : (d.encodeCount x len).calm = d.calm := by
  unfold Dev.encodeCount
  split
  · rfl
  · split <;> rfl

theorem Dev.calm_fitCount (t : Nat) (data : List Gran) : (d.fitCount t data).calm = d.calm := by
  unfold Dev.fitCount
  split
  · rfl
  · split <;> rfl

theorem Dev.calm_gradeOnce (a : Agent) (x k : Nat) : (d.gradeOnce a x k).calm = d.calm := by
  unfold Dev.gradeOnce
  rw [Dev.calm_satInc]
  exact d.calm_log _ _ _ _

theorem Dev.calm_gradeLost (a : Agent) (x k : Nat) (h : Home) (mirror : Bool) : (d.gradeLost a x k h mirror).calm = d.calm := by
  unfold Dev.gradeLost
  dsimp only
  rw [Dev.calm_poisonAdd, Dev.calm_satInc]
  exact d.calm_log _ _ _ _

theorem Dev.calm_poisonDrop (x : Nat) (q : Poison → Bool) : (d.poisonDrop x q).calm = d.calm :=
  (Dev.calm_poisonBit _ _).trans (d.calm_each _ _ fun e p => by split <;> rfl)

theorem Dev.calm_dropWritten (x : Nat) (codec : Bool) (bs : List BlkW) : (d.dropWritten x codec bs).calm = d.calm := d.calm_poisonDrop _ _

theorem Dev.calm_dropLocations (s : Nat) (gas : List Nat) : (d.dropLocations s gas).calm = d.calm :=
  d.calm_each _ _ fun e p => by split <;> rfl

theorem Dev.calm_carryPoison (x : Nat) (e e' : Desc) (h h' : Home) (written : List Nat) : (d.carryPoison x e e' h h' written).calm = d.calm :=
  d.calm_each _ _ fun f p => by
    dsimp only
    split
    · rfl
    split
    · rfl
    · exact (Dev.calm_poisonAdd _ _).trans (f.calm_setPoison _ _)

theorem Dev.calm_jAppend (grp : Nat) (r : JRec) : (d.jAppend grp r).calm = d.calm := rfl

theorem Dev.calm_freshGrans (n : Nat) : (d.freshGrans n).2.calm = d.calm := by
  induction n generalizing d with
  | zero => rfl
  | succ n ih => exact (ih (d.fresh 256).2).trans rfl

theorem Dev.calm_copyAgain (x : Nat) : (d.copyAgain x).calm = d.calm := by
  unfold Dev.copyAgain
  split
  · split
    · rfl
    · exact Eq.trans (show _ = (d.discharge _ _).calm from rfl) (d.calm_discharge _ _)
  · rfl

end

/-! ### Reads and writes of extents -/

/-- A relation that the operations under a write of memory keep: those under a read, a store of a granule, and, where physics names a
crossing of the bridge, the fence of a die. -/
structure Dev.WriteKept (ph : Phys) (R : Dev → Dev → Prop) : Prop extends Dev.ReadKept R where
  store : ∀ (d : Dev) (s ga : Nat) (c : Code), R d (d.memPut s ga c)
  die : ph.bridge ≠ [] → ∀ (d : Dev) (die cause : Nat), R d (d.dieFence die cause)

section
variable {ph : Phys} {R : Dev → Dev → Prop} (w : Dev.WriteKept ph R) (d : Dev)
include w

/-- A second attempt crosses the bridge as the first does. -/
theorem Dev.WriteKept.again : Dev.WriteKept (physAgain ph) R where
  toReadKept := w.toReadKept
  store := w.store
  die := w.die

theorem Dev.WriteKept.cross (key src dst : Nat) (g : Gran) : R d (d.cross ph key src dst g).2 := by
  unfold Dev.cross
  split
  · exact w.refl d
  extract_lets e ce
  have hlog : ∀ b, R d (d.log (commonDom dst) 0x03 b dst) := fun b => w.calm (d.calm_log _ _ _ _)
  have hbridge : ∀ x, loamDecode e.1 = (.ue, x) → ph.bridge ≠ [] := fun x h hb => by
    unfold e at h
    rw [hb] at h
    exact absurd (congrArg Prod.fst (h.symm.trans loamDecode_zero)) nofun
  split
  · exact w.refl d
  · exact w.calm (d.calm_satInc _ _ _ _)
  next x hx =>
    split
    · exact hlog false
    · exact w.trans (hlog false) (w.calm (Dev.calm_satInc _ _ _ _ _))
    · exact w.trans (hlog true) (w.die (hbridge x hx) _ _ _)

theorem Dev.WriteKept.bring (a : Agent) (key src : Nat) (g : Gran) : R d (d.bring a ph key src g).2 := by
  have h1 := w.cross d key src a.die g
  unfold Dev.bring
  generalize d.cross ph key src a.die g = r at h1 ⊢
  obtain ⟨o, e⟩ := r
  cases a.also with
  | none => exact h1
  | some k => exact w.trans h1 (w.cross e key src k g)

theorem Dev.WriteKept.readGran (a : Agent) (s ga : Nat) (o : Option Owner) : R d (d.readGran a ph s ga o).2 := by
  have h1 := w.readStored d a ph s ga o
  unfold Dev.readGran
  generalize d.readStored a ph s ga o = r at h1 ⊢
  obtain ⟨g, e⟩ := r
  cases g with
  | none => exact h1
  | some g => exact w.trans h1 (w.bring e a _ _ g)

theorem Dev.WriteKept.crossAll (src dst : Nat) (l : List (Nat × Gran)) : R d (d.crossAll ph src dst l).2 := by
  induction l generalizing d with
  | nil => exact w.refl d
  | cons p t ih => exact w.trans (w.cross d p.1 src dst p.2) (ih _)

theorem Dev.WriteKept.crossCodes (src dst : Nat) (l : List (Nat × Code)) : R d (d.crossCodes ph src dst l).2 := by
  induction l generalizing d with
  | nil => exact w.refl d
  | cons p t ih =>
    obtain ⟨key, c⟩ := p
    unfold Dev.crossCodes
    refine w.trans ?_ (ih _)
    split
    · exact w.cross d key src dst (codeData c)
    · exact w.refl d

theorem Dev.WriteKept.readEach (a : Agent) (s : Nat) (l : List (Nat × Owner)) : R d (d.readEach a ph s l).2 := by
  induction l generalizing d with
  | nil => exact w.refl d
  | cons p t ih => exact w.trans (w.readGran d a s p.1 (some p.2)) (ih _)

theorem Dev.WriteKept.readGrans (a : Agent) (s : Nat) (l : List (Nat × Owner)) : R d (d.readGrans a ph s l).2 := by
  unfold Dev.readGrans
  split
  · exact w.refl d
  · exact w.readEach d a s l

theorem Dev.WriteKept.checkedBlock {α : Type} (a : Agent) (x k : Nat) (h : Home) (mirror : Bool) (check : List Gran → Option α) :
    R d (d.checkedBlock a ph x k h mirror check).2 := by
  unfold Dev.checkedBlock
  extract_lets locs
  split
  · exact w.refl d
  have h1 := w.readGrans d a h.set locs
  generalize d.readGrans a ph h.set locs = r at h1 ⊢
  obtain ⟨st, e⟩ := r
  cases st with
  | none => exact h1
  | some st =>
    dsimp only at h1 ⊢
    cases check st with
    | some r => exact h1
    | none =>
      have h2 : R d (e.each locs fun d l => d.retryCharge a h.set l.1) := w.trans h1 (w.calm (e.calm_each locs (fun d l => d.retryCharge a h.set l.1) fun e l => e.calm_retryCharge a h.set l.1))
      dsimp only
      generalize e.each locs (fun d l => d.retryCharge a h.set l.1) = e2 at h2 ⊢
      have h3 := w.trans h2 (w.again.readGrans e2 a h.set locs)
      generalize e2.readGrans a (physAgain ph) h.set locs = r at h3 ⊢
      obtain ⟨st, e3⟩ := r
      cases st with
      | none => exact h3
      | some st =>
        dsimp only at h3 ⊢
        cases check st with
        | some r => exact w.trans h3 (w.calm (e3.calm_gradeOnce a x k))
        | none =>
          have h4 : R e3 (e3.gradeLost a x k h mirror) := w.calm (e3.calm_gradeLost a x k h mirror)
          dsimp only
          exact w.trans h3 h4

theorem Dev.WriteKept.storedRead (a : Agent) (x k : Nat) (h : Home) (mirror : Bool) : R d (d.storedRead a ph x k h mirror).2 :=
  w.checkedBlock d a x k h mirror _

theorem Dev.WriteKept.readBlockAt (a : Agent) (x k start n : Nat) (h : Home) (mirror : Bool) :
    R d (d.readBlockAt a ph x k start n h mirror).2 := by
  unfold Dev.readBlockAt
  extract_lets e c
  split
  · exact w.refl d
  split
  · split
    · exact w.refl d
    · exact w.readGrans d a _ _
  split
  · exact w.refl d
  · exact w.checkedBlock d a x k h mirror _

theorem Dev.WriteKept.recordRead (a : Agent) (p t : Nat) (gen : Bool) : R d (d.recordRead a ph p t gen) := by
  unfold Dev.recordRead
  split
  · exact w.refl d
  · exact w.each d _ _ fun e i _ => w.trans (w.calm (e.calm_retryCharge a _ _)) (w.readMeta _ a ph _ _ none)

theorem Dev.WriteKept.tableUse (site t : Nat) (gen : Bool) : R d (d.tableUse ph site t gen) := by
  unfold Dev.tableUse
  extract_lets e l d1 b
  have h1 : R d d1 := w.calm rfl
  clear_value d1
  split
  · exact h1
  · exact w.trans h1 (w.trans (w.calm (d1.calm_wrapInc _ _ _ _)) (w.recordRead _ _ _ _ _))

theorem Dev.WriteKept.relay (a : Agent) (s : Nat) (l : List (Nat × Owner)) : R d (d.relay a ph s l).2 := by
  induction l generalizing d with
  | nil => exact w.refl d
  | cons p t ih => exact w.trans (w.readStored d a ph s p.1 (some p.2)) (ih _)

theorem Dev.WriteKept.carryBlock (a : Agent) (x k : Nat) (repack : Bool) : R d (d.carryBlock a ph x k repack).2 := by
  unfold Dev.carryBlock
  extract_lets e locs there raw
  have hthere : ∀ (e' : Dev) (l : List Code), R e' (there e' l).2 := fun e' l => w.crossCodes e' _ _ _
  clear_value there raw
  split
  · exact hthere d _
  split
  · have h1 := w.relay d a e.set locs
    generalize d.relay a ph e.set locs = r at h1 ⊢
    exact w.trans h1 (hthere r.2 r.1)
  · have h1 := w.storedRead d a x k e.home false
    generalize d.storedRead a ph x k e.home false = r at h1 ⊢
    obtain ⟨st, d2⟩ := r
    cases st with
    | some st => exact h1
    | none => exact w.trans h1 (hthere d2 _)

theorem Dev.WriteKept.encode (x k : Nat) (data : List Gran) (isPart : Bool) : R d (d.encode ph x k data isPart).2 := by
  unfold Dev.encode
  extract_lets e act enc d1 d2
  have h1 : R d d1 := w.calm (by unfold d1; split <;> rfl)
  clear_value d1 act
  have h2 : R d1 d2 := by
    unfold d2
    split
    · split
      · exact w.refl d1
      · exact w.tableUse d1 _ _ _
    · exact w.refl d1
  exact w.trans h1 (w.trans h2 (w.calm (d2.calm_fitCount _ _)))

theorem Dev.WriteKept.prepBlock (a : Agent) (x k : Nat) (ws : List GW) : R d (d.prepBlock a ph x k ws).2 := by
  unfold Dev.prepBlock
  extract_lets e h c hit full
  clear_value full
  split
  · split
    · exact w.refl d
    have h1 : R d (if full || decide (c ≤ 1) then (some (List.replicate 64 0), d) else d.readBlockAt a ph x k 0 64 h false).2 := by
      split
      · exact w.refl d
      · exact w.readBlockAt d a x k 0 64 h false
    generalize (if full || decide (c ≤ 1) then (some (List.replicate 64 0), d) else d.readBlockAt a ph x k 0 64 h false) = r at h1 ⊢
    obtain ⟨old, d2⟩ := r
    cases old with
    | none => exact h1
    | some old => exact w.trans h1 (w.encode d2 x k _ (!full))
  · split
    · exact w.refl d
    next part _ _ =>
    have h1 := w.readGrans d a h.set (part.map fun g => (e.blkAt h k + g, ⟨x, k, g, false⟩))
    generalize d.readGrans a ph h.set (part.map fun g => (e.blkAt h k + g, ⟨x, k, g, false⟩)) = r at h1 ⊢
    obtain ⟨olds, d2⟩ := r
    cases olds <;> exact h1

theorem Dev.WriteKept.prepBlocks (a : Agent) (x : Nat) (ws : List GW) (l : List Nat) : R d (d.prepBlocks a ph x ws l).2 := by
  induction l generalizing d with
  | nil => exact w.refl d
  | cons k t ih =>
    unfold Dev.prepBlocks
    have h1 := w.prepBlock d a x k (ws.filter fun w => w.blk == k)
    generalize d.prepBlock a ph x k (ws.filter fun w => w.blk == k) = r at h1 ⊢
    obtain ⟨b, e⟩ := r
    cases b with
    | none => exact h1
    | some b => exact w.trans h1 (ih e)

theorem Dev.WriteKept.newCodes (a : Agent) (x k : Nat) (b : Option BlkW) : R d (d.newCodes a ph x k b).2 := by
  unfold Dev.newCodes
  split
  · exact w.carryBlock d a x k true
  · split
    · exact w.refl d
    · exact w.carryBlock d a x k true

theorem Dev.WriteKept.newBlocks (a : Agent) (x : Nat) (bs : List BlkW) (l : List Nat) : R d (d.newBlocks a ph x bs l).2 := by
  induction l generalizing d with
  | nil => exact w.refl d
  | cons k t ih => exact w.trans (w.newCodes d a x k (bs.find? fun b => b.k == k)) (ih (d.newCodes a ph x k (bs.find? fun b => b.k == k)).2)

theorem Dev.WriteKept.putCodes (s ga : Nat) (l : List Code) : R d (d.putCodes s ga l) := by
  induction l generalizing d ga with
  | nil => exact w.refl d
  | cons c t ih =>
    rw [Dev.putCodes_cons]
    exact w.trans (w.store d s ga c) (ih _ _)

theorem Dev.WriteKept.bringWrites (a : Agent) (x : Nat) (ws : List GW) : R d (d.bringWrites a ph x ws).2 := by
  unfold Dev.bringWrites
  exact w.crossAll d _ _ (ws.map fun w => (granKey (d.desc x).home.set ((d.desc x).home.start + 64 * w.blk + w.grn), w.data))

theorem Dev.WriteKept.storeBlocks (a : Agent) (x : Nat) (bs : List BlkW) : R d (d.storeBlocks a ph x bs).2 := by
  unfold Dev.storeBlocks
  extract_lets e e' h same fin d1 d2 d3 need fits
  have hfin : ∀ f : Dev, R f (fin f) := fun f => w.each f _ _ fun g b _ => by
    dsimp only
    split
    · exact w.calm ((Dev.calm_encodeCount _ _ _).trans (g.calm_storedMove _ _ _ _ _))
    · exact w.calm (g.calm_storedMove _ _ _ _ _)
  clear_value fin
  split
  · have h1 : R d d1 := w.calm (d.calm_dropWritten x e.codec bs)
    have h2 : R d1 d2 := w.each d1 _ _ fun f b _ => w.each f _ _ fun f' g _ => w.store f' h.set _ _
    have h3 : R d2 d3 := w.calm (d2.calm_dropLocations _ _)
    clear_value d3
    exact w.trans (w.trans h1 (w.trans h2 h3)) (w.trans (w.calm (d3.calm_setDesc x _)) (hfin _))
  split
  · exact w.refl d
  next k0 _ _ h' _ =>
  have h1 := w.newBlocks d (d.atHome a x) x bs ((List.range 32).filter fun k => k0 ≤ k)
  generalize d.newBlocks (d.atHome a x) ph x bs ((List.range 32).filter fun k => k0 ≤ k) = r at h1 ⊢
  obtain ⟨codes, e1⟩ := r
  dsimp -zeta only at h1 ⊢
  extract_lets written f1 f2 f3 f4 f5 f6
  have k1 : R e1 f1 := w.calm (e1.calm_dropWritten x e.codec bs)
  have k2 : R f1 f2 := w.each f1 _ _ fun f c _ => w.putCodes f h'.set (e'.blkAt h' c.1) c.2
  have k3 : R f2 f3 := w.calm (f2.calm_dropLocations _ _)
  have k4 : R f3 f4 := w.calm (f3.calm_carryPoison x e e' h h' written)
  have k5 : R f4 f5 := w.calm (f4.calm_setDesc x _)
  have k6 : R f5 f6 := w.calm (by
    unfold f6
    clear_value f5
    split
    · rfl
    split
    · rfl
    · exact (Dev.calm_pressureCheck _ _).trans ((Dev.calm_jRetire _ _ _).trans (f5.calm_jAppend _ _)))
  clear_value f6
  exact w.trans h1 (w.trans (w.trans k1 (w.trans k2 (w.trans k3 (w.trans k4 (w.trans k5 k6))))) (w.trans (w.calm (f6.calm_poisonBit x)) (hfin _)))

/-- What a write of an extent does. -/
theorem Dev.WriteKept.writeExtent (a : Agent) (x : Nat) (ws : List GW) : R d (d.writeExtent a ph x ws).2 := by
  unfold Dev.writeExtent
  split
  · exact w.refl d
  split
  · exact w.refl d
  have h1 := w.bringWrites d a x ws
  generalize d.bringWrites a ph x ws = r at h1 ⊢
  obtain ⟨ws', e⟩ := r
  cases ws' with
  | none => exact h1
  | some ws' =>
    dsimp only at h1 ⊢
    have h2 := w.trans h1 (w.prepBlocks e (e.atHome a x) x ws' ((ws'.map (·.blk)).dedup))
    generalize e.prepBlocks (e.atHome a x) ph x ws' ((ws'.map (·.blk)).dedup) = r at h2 ⊢
    obtain ⟨bs, e2⟩ := r
    cases bs with
    | none => exact h2
    | some bs => exact w.trans h2 (w.storeBlocks e2 (e.atHome a x) x bs)

end

/-- Granules made free. -/
theorem Dev.WriteKept.undefine {R : Dev → Dev → Prop} (w : Dev.WriteKept {} R) (d : Dev) (a : Agent) (x o n : Nat) :
    R d (d.undefine a x o n) := by
  have h1 : R d (d.freshGrans n).2 := w.calm (d.calm_freshGrans n)
  unfold Dev.undefine
  generalize d.freshGrans n = r at h1 ⊢
  obtain ⟨l, e⟩ := r
  exact w.trans h1 (w.trans (w.writeExtent e a x (mkWrites o l [])) (w.calm (Dev.calm_copyAgain _ x)))

end Sys2Proof.Machine

/-! PROOF. The destruction of a context (R231): its beginning, what is cancelled at the bound of its drain, and its end. -/
namespace Sys2Proof.Machine

/-! ### What a write of an extent leaves alone -/

/-- The device without memory, requests and what a calm operation may write. -/
def Dev.besideStore (d : Dev) : Dev := { d.calm with mem := [], reqs := [] }

section
variable (d : Dev)

theorem Dev.besideStore_of_calm {e : Dev} (h : e.calm = d.calm) : e.besideStore = d.besideStore :=
  (congrArg (fun x : Dev => ({ x with mem := [], reqs := [] } : Dev)) h :)

theorem Dev.besideStore_setMem (l : List Host.Cell) : ({ d with mem := l } : Dev).besideStore = d.besideStore := rfl

theorem Dev.besideStore_memPut (s ga : Nat) (c : Code) : (d.memPut s ga c).besideStore = d.besideStore :=
  (congrArg Dev.besideStore (d.memPut_eq s ga c)).trans (d.besideStore_setMem _)

theorem Dev.besideStore_failReq (id st : Nat) : (d.failReq id st).besideStore = d.besideStore := by
  have hrel : (d.release id).besideStore = d.besideStore := by
    unfold Dev.release
    split
    · rfl
    next r _ =>
    exact Eq.trans (show _ = (d.discharge r.cmaster r.charge).besideStore from rfl) (d.besideStore_of_calm (d.calm_discharge _ _))
  have hback : ((d.release id).creditBack id 1).besideStore = (d.release id).besideStore := by
    unfold Dev.creditBack
    split <;> rfl
  exact Eq.trans (show _ = ((d.release id).creditBack id 1).besideStore from rfl) (hback.trans hrel)

theorem Dev.besideStore_fenceSet (s cause : Nat) : (d.fenceSet s cause).besideStore = d.besideStore := by
  obtain ⟨d1, lie, hit, h1, _, h2⟩ := d.fenceSet_steps s cause
  have hback : (d1.takenBack lie hit).besideStore = d1.besideStore :=
    (Dev.each_same Dev.besideStore _ _ (fun e id => e.besideStore_failReq id 0x07) _).trans
      (Dev.each_same Dev.besideStore _ _ (fun e _ => Dev.each_same Dev.besideStore _ _ (fun e' _ => e'.besideStore_memPut _ _ _) e) d1)
  exact (Dev.besideStore_of_calm _ h2).trans (hback.trans (d.besideStore_of_calm h1))

theorem besideStore_writes : Dev.WriteKept {} fun d e => e.besideStore = d.besideStore where
  trans := fun h k => k.trans h
  calm := fun {d _} h => d.besideStore_of_calm h
  fence := fun d s cause => d.besideStore_fenceSet s cause
  store := fun d s ga c => d.besideStore_memPut s ga c
  die := fun h => absurd rfl h

theorem Dev.besideStore_undefine (a : Agent) (x o n : Nat) : (d.undefine a x o n).besideStore = d.besideStore :=
  besideStore_writes.undefine d a x o n

theorem Dev.besideStore_cancelReq (r : Req) : (d.cancelReq r).besideStore = d.besideStore := by
  unfold Dev.cancelReq
  extract_lets d1
  have h1 : d1.besideStore = d.besideStore := by
    unfold d1
    split
    · exact Dev.each_same Dev.besideStore _ _ (fun e x => e.besideStore_undefine _ _ _ _) d
    · rfl
  exact (d1.besideStore_failReq _ _).trans h1

/-! ### Requests that have ended -/

/-- A request that has ended with a failure, with nothing left to bring. -/
def Req.cut (r : Req) : Prop := r.status ≠ 0 ∧ r.stage = (if r.held = 0 then .credits else .ready) ∧ r.out = []

theorem Req.ended_cut (r : Req) (st : Nat) (h : st ≠ 0) : (r.ended st).cut := by
  refine ⟨h, ?_, rfl⟩
  show (if r.held = 0 then Stage.credits else Stage.ready) = if min 1 r.held = 0 then Stage.credits else Stage.ready
  by_cases hh : r.held = 0
  · rw [hh]
    rfl
  · rw [if_neg hh, if_neg (by omega)]

/-- Every request of that number has ended so. -/
def Dev.allCut (id : Nat) : Prop := ∀ t ∈ d.reqs, t.id = id → t.cut

/-- Requests that have ended stay ended. -/
def Dev.keepsCut (d e : Dev) : Prop := ∀ id, d.allCut id → e.allCut id

theorem Dev.keepsCut_of_reqs {e : Dev} (h : e.reqs = d.reqs) : d.keepsCut e := fun _ hc t ht => hc t (h ▸ ht)

theorem Dev.failReq_mem (id st : Nat) (t : Req) (ht : t ∈ (d.failReq id st).reqs) :
    (∃ q ∈ d.reqs, q.id = id ∧ t = q.ended st) ∨ (t ∈ d.reqs ∧ t.id ≠ id) := by
  rw [Dev.failReq_reqs] at ht
  obtain ⟨q, hq, rfl⟩ := List.mem_map.mp ht
  by_cases hid : q.id = id
  · exact .inl ⟨q, hq, hid, if_pos hid⟩
  · rw [if_neg hid]
    exact .inr ⟨hq, hid⟩

theorem Dev.failReq_cuts (id st : Nat) (h : st ≠ 0) : (d.failReq id st).allCut id := fun t ht hid => by
  obtain ⟨q, _, _, rfl⟩ | ⟨_, hne⟩ := d.failReq_mem id st t ht
  · exact q.ended_cut st h
  · exact absurd hid hne

theorem Dev.keepsCut_failReq (id st : Nat) (h : st ≠ 0) : d.keepsCut (d.failReq id st) := fun k hk t ht hid => by
  obtain ⟨q, _, _, rfl⟩ | ⟨hold, _⟩ := d.failReq_mem id st t ht
  · exact q.ended_cut st h
  · exact hk t hold hid

theorem Dev.keepsCut_each {α : Type} (l : List α) (f : Dev → α → Dev) (hf : ∀ e x, Dev.keepsCut e (f e x)) : d.keepsCut (d.each l f) := by
  induction l generalizing d with
  | nil => exact fun _ h => h
  | cons x t ih => exact fun id h => ih (f d x) id (hf d x id h)

theorem Dev.memPut_reqs (s ga : Nat) (c : Code) : (d.memPut s ga c).reqs = d.reqs := by rw [d.memPut_eq]

theorem Dev.undoReq_reqs (lie : List (Nat × Nat)) (r : Req) : (d.undoReq lie r).reqs = d.reqs := by
  unfold Dev.undoReq
  exact Dev.each_same Dev.reqs _ (fun d (u : Nat × Nat × Code) => d.memPut u.1 u.2.1 u.2.2) (fun e u => e.memPut_reqs u.1 u.2.1 u.2.2) d

theorem Dev.keepsCut_fenceSet (s cause : Nat) : d.keepsCut (d.fenceSet s cause) := by
  obtain ⟨d1, lie, hit, h1, _, h2⟩ := d.fenceSet_steps s cause
  have hback : d1.keepsCut (d1.takenBack lie hit) := fun id h =>
    Dev.keepsCut_each _ (hit.map fun r : Req => r.id) (fun d id => d.failReq id 0x07) (fun e id => e.keepsCut_failReq id 0x07 (by decide)) id
      (Dev.keepsCut_of_reqs d1 (Dev.each_same Dev.reqs hit.reverse (fun d r => d.undoReq lie r) (fun e r => e.undoReq_reqs lie r) d1) id h)
  exact fun id h => Dev.keepsCut_of_reqs _ (congrArg Dev.reqs h2 :) id
    (hback id (d.keepsCut_of_reqs (congrArg Dev.reqs h1 :) id h))

theorem keepsCut_writes : Dev.WriteKept {} Dev.keepsCut where
  trans := fun h k id hc => k id (h id hc)
  calm := fun {d _} h => d.keepsCut_of_reqs (congrArg Dev.reqs h :)
  fence := fun d s cause => d.keepsCut_fenceSet s cause
  store := fun d s ga c => d.keepsCut_of_reqs (d.memPut_reqs s ga c)
  die := fun h => absurd rfl h

/-- A request that is cancelled has ended, and those that had stay so. -/
theorem Dev.cancelReq_cuts (r : Req) : d.keepsCut (d.cancelReq r) ∧ (d.cancelReq r).allCut r.id := by
  unfold Dev.cancelReq
  extract_lets d1
  have h1 : d.keepsCut d1 := by
    unfold d1
    split
    · exact d.keepsCut_each _ _ fun e x => keepsCut_writes.undefine e _ _ _ _
    · exact fun _ h => h
  exact ⟨fun id h => d1.keepsCut_failReq r.id 0x02 (by decide) id (h1 id h), d1.failReq_cuts r.id 0x02 (by decide)⟩

theorem Dev.each_cancelReq_cuts (l : List Req) (r : Req) (hr : r ∈ l) : (d.each l Dev.cancelReq).allCut r.id := by
  induction l generalizing d with
  | nil => exact nomatch hr
  | cons q t ih =>
    obtain rfl | hr := List.mem_cons.1 hr
    · exact Dev.keepsCut_each _ t Dev.cancelReq (fun e x => (e.cancelReq_cuts x).1) _ (d.cancelReq_cuts r).2
    · exact ih (d.cancelReq q) hr

/-- What is cancelled at the bound of the drain has ended; contexts stay as they were. -/
theorem Dev.drainCancel_spec (c : Nat) : (d.drainCancel c).ctxs = d.ctxs ∧
    ∀ r ∈ d.reqsPending c, r.published = false → (d.drainCancel c).allCut r.id := by
  refine ⟨?_, fun r hr hp => ?_⟩
  · have h : (d.each ((d.reqsPending c).filter fun r => !r.published) Dev.cancelReq).besideStore = d.besideStore :=
      Dev.each_same Dev.besideStore _ _ (fun e r => e.besideStore_cancelReq r) d
    exact (congrArg Dev.ctxs h :)
  · exact d.each_cancelReq_cuts ((d.reqsPending c).filter fun r => !r.published) r (List.mem_filter.2 ⟨hr, by rw [hp]; rfl⟩)

end

/-! ### The end of the drain -/

section
variable (d : Dev)

/-- What a table holds under a key, where that is not its default, is an entry of it. -/
theorem tab_mem_of_get {α : Type} (m : Tab α) (k : Nat) (c : α) (h : m.get k c ≠ c) : (k, m.get k c) ∈ m := by
  induction m with
  | nil => exact absurd rfl h
  | cons e t ih =>
    obtain ⟨i, v⟩ := e
    rw [Tab.get] at h ⊢
    by_cases hi : i = k
    · rw [if_pos hi, hi]
      exact List.mem_cons_self
    rw [if_neg hi] at h ⊢
    by_cases hk : k < i
    · exact absurd (if_pos hk) h
    rw [if_neg hk] at h ⊢
    exact List.mem_cons_of_mem _ (ih h)

/-- A plan that is left after the drop of some is not one of them. -/
theorem Dev.each_planDrop_left (l : List Nat) (k : Nat) (h : ((d.each l Dev.planDrop).plan k).st ≠ .none_) :
    k ∉ l ∧ (d.each l Dev.planDrop).plan k = d.plan k := by
  induction l generalizing d with
  | nil => exact ⟨List.not_mem_nil, rfl⟩
  | cons p t ih =>
    obtain ⟨hnot, hsame⟩ := ih (d.planDrop p) h
    have hleft : ((d.planDrop p).plan k).st ≠ .none_ := (congrArg Plan.st hsame) ▸ h
    by_cases hp : (d.plan p).st = .none_
    · have hd : d.planDrop p = d := if_pos (by rw [hp]; rfl)
      rw [hd] at hleft hsame
      exact ⟨fun hk => (List.mem_cons.1 hk).elim (fun he => hleft (he ▸ hp)) hnot, (congrArg (fun e : Dev => (e.each t Dev.planDrop).plan k) hd).trans hsame⟩
    · obtain ⟨hnone, hother, -, -⟩ := d.planDrop_kept p hp
      have hk : k ≠ p := fun he => hleft (by rw [he, hnone])
      exact ⟨fun hm => (List.mem_cons.1 hm).elim hk hnot, hsame.trans (hother k hk)⟩

/-- The release of a clay page leaves plans alone. -/
theorem Dev.plans_pageRelease (k p : Nat) : (d.pageRelease k p).plans = d.plans := by
  unfold Dev.pageRelease
  extract_lets key refs d1
  have h1 : d1.plans = d.plans := rfl
  exact (congrArg (fun y : StopLeft => y.rest.plans) (d1.beyondStop_refsRelease _) :).trans h1

theorem Dev.plans_clayRelease (c : Nat) : (d.clayRelease c).plans = d.plans := by
  unfold Dev.clayRelease
  exact Dev.each_same Dev.plans (d.ctx c).pages (fun d kp => d.pageRelease kp.1 kp.2) (fun e kp => e.plans_pageRelease kp.1 kp.2) d

/-- A context whose drain is over, but for the answers. -/
def Dev.drained (c : Nat) : Dev :=
  let x := d.ctx c
  let h := d.handle c
  let d := d.each (x.binds.map (·.1)) fun d i => d.revokeEnd c i
  let d := d.drainCancel c
  let d := d.each ((d.plans.filter fun p => p.2.st ≠ .none_ && p.2.ctx == c).map (·.1)) Dev.planDrop
  let d := d.clayRelease c
  let d := d.setCtx c { gen := if x.gen = 0xFFFF then 1 else x.gen + 1 }
  if x.destroyHost then d.event none 0x0F h 0 else d

theorem Dev.drainEnd_eq (c : Nat) : d.drainEnd c = (d.drained c).each (d.ctx c).destroyers fun d r => d.complete r 0 0 0 := rfl

/-- Of a context whose drain is over its generation is left, and no plan. -/
theorem Dev.drained_spec (c : Nat) {e : Dev} (he : d.drained c = e) :
    e.ctx c = { gen := if (d.ctx c).gen = 0xFFFF then 1 else (d.ctx c).gen + 1 } ∧ ∀ k, (e.plan k).st ≠ .none_ → (e.plan k).ctx ≠ c := by
  unfold Dev.drained at he
  extract_lets x h d1 d2 d3 d4 d5 at he
  have h5 : d5.ctx c = { gen := if x.gen = 0xFFFF then 1 else x.gen + 1 } := tab_get_set_same _ _ _ _
  have h4 : d4.plans = d3.plans := by
    rw [show d4 = d3.clayRelease c from rfl]
    exact d3.plans_clayRelease c
  clear_value d4
  have hp5 : d5.plans = d3.plans := h4
  have hx : x = d.ctx c := rfl
  clear_value d5 d2 d1 x
  have hev : e.ctxs = d5.ctxs ∧ e.plans = d5.plans := by
    rw [← he]
    split
    · exact ⟨(congrArg Dev.ctxs (d5.eventsOnly_event none 0x0F h 0).rest :), (congrArg Dev.plans (d5.eventsOnly_event none 0x0F h 0).rest :)⟩
    · exact ⟨rfl, rfl⟩
  obtain ⟨hc, hp⟩ := hev
  refine ⟨(congrArg (fun t : Tab Ctx => t.get c {}) hc).trans (hx ▸ h5), fun k hk hctx => ?_⟩
  have hplan : e.plan k = d3.plan k := congrArg (fun t : Tab Plan => t.get k {}) (hp.trans hp5)
  rw [hplan] at hk hctx
  obtain ⟨hnot, hsame⟩ := d2.each_planDrop_left _ k hk
  have hst : (d2.plan k).st ≠ .none_ := congrArg Plan.st hsame ▸ hk
  have hmem : (k, d2.plan k) ∈ d2.plans := tab_mem_of_get d2.plans k {} fun he => hst (congrArg Plan.st he)
  have hown : (d2.plan k).ctx = c := (congrArg Plan.ctx hsame).symm.trans hctx
  exact hnot (List.mem_map.2 ⟨_, List.mem_filter.2 ⟨hmem, by simp [hst, hown]⟩, rfl⟩)

end

/-! ### The beginning of a destruction -/

section
variable (d : Dev)

theorem Dev.ctxOf_lt (p : Option Nat) (h : BitVec 32) (c : Nat) (hc : d.ctxOf p h = some c) : c < 4096 := by
  unfold Dev.ctxOf at hc
  dsimp only at hc
  split at hc
  · exact Option.some.inj hc ▸ Nat.mod_lt _ (by decide)
  · exact nomatch hc

/-- A command names a context by its twelve bits. -/
theorem Dev.cmdCheck_lt (q : Queue) (e : Entry) : (d.cmdCheck q e).2 < 4096 := by
  unfold Dev.cmdCheck
  split
  · decide
  extract_lets extra noCtx
  split
  · decide
  split
  · decide
  split
  · split
    · decide
    split
    · decide
    split
    next c hc => exact d.ctxOf_lt _ _ c hc
    · decide
  next c _ _ =>
    split
    · decide
    · exact c.isLt
  · split
    · decide
    split
    next c hc => exact d.ctxOf_lt _ _ c hc
    · decide

/-- What the beginning of a destruction leaves of its context. -/
theorem Dev.destroy_ctx (c : Nat) (hc : c < 4096) (ref : CmdRef) (host : Bool) {e : Dev} (he : d.destroy c (some ref) host = e) :
    (e.ctx c).destroyers = (d.ctx c).destroyers ++ [ref] ∧ (e.ctx c).binds = (d.ctx c).binds ∧
    ((d.ctx c).st ≠ .draining → (d.ctx c).parking = true ∨ (d.ctx c).unparking = true →
      (e.ctx c).st = (d.ctx c).st ∧ (e.ctx c).destroyWanted = true) ∧
    ((d.ctx c).st ≠ .draining → (d.ctx c).parking = false → (d.ctx c).unparking = false →
      (e.ctx c).st = .draining ∧ (e.ctx c).ring.sqHead = (e.ctx c).ring.sqTail ∧
      (∀ w ∈ e.slotq, w.ctx ≠ some c) ∧ ∀ w ∈ e.waiters, w.waitsFor c = false) := by
  by_cases h : (d.ctx c).st = .draining ∨ (d.ctx c).parking = true ∨ (d.ctx c).unparking = true
  · have hctx : e.ctx c = (d.ctx c).doomed (some ref) host := by
      rw [← he, d.destroy_waits c (some ref) host h]
      exact d.ctx_updCtx_same c _
    rw [hctx]
    refine ⟨rfl, rfl, fun hst _ => ⟨rfl, decide_eq_true hst⟩, fun hst hp hu => ?_⟩
    rw [hp, hu] at h
    exact absurd h (by simp [hst])
  · simp only [not_or, Bool.not_eq_true] at h
    obtain ⟨hst, hp, hu⟩ := h
    have hl := he ▸ d.destroy_drains c (some ref) host hst hp hu
    have hdoom : (d.updCtx c (d.doomedNow (some ref) host)).ctx c = d.doomedNow (some ref) host (d.ctx c) := d.ctx_updCtx_same c _
    have hctx : (e.ctx c).standing = (d.doomedNow (some ref) host (d.ctx c)).standing := (hl.ctx c).trans (congrArg Ctx.standing hdoom)
    have hends : (e.ctx c).ring.ends = (d.doomedNow (some ref) host (d.ctx c)).ring.ends :=
      (hl.ends (.ctx ⟨c, hc⟩)).trans (congrArg (fun x : Ctx => x.ring.ends) hdoom)
    refine ⟨(congrArg Ctx.destroyers hctx :), (congrArg Ctx.binds hctx :), fun _ hw => ?_, fun _ _ _ => ?_⟩
    · rw [hp, hu] at hw
      exact absurd hw (by decide)
    · exact ⟨(congrArg Ctx.st hctx :), (congrArg Prod.fst hends).trans (congrArg Prod.snd hends).symm, hl.slotq, hl.waiters⟩

end

/-! ### The obligation -/

theorem exec_destroyCtx (s : State) (q : Queue) (e : Entry) (d0 : Dev) (c : Nat) (hs : s.dev.starts q e = some d0)
    (hc : d0.cmdCheck q e = (0, c)) (ho : e.opc = 0x06) :
    exec (.destroyCtx q e) s = .next { s with dev := (d0.destroy c (some (d0.cmdRef q e)) (q ≠ .fm)).finish } :=
  State.devCmd_runs 0x06 q e (fun ref c d => d.destroy c (some ref) (q ≠ .fm)) s d0 c ho hs hc

theorem exec_destroyDrainEnd (s : State) (c : Fin 4096) (hw : s.dev.working = true)
    (h : s.dev.drainOver c.val = true ∨ s.dev.drainCuts c.val = true) : exec (.destroyDrainEnd c) s =
      .next { s with dev := (if s.dev.drainOver c.val then s.dev.drainEnd c.val else s.dev.drainCancel c.val).finish } :=
  State.devEvent_holds (fun d => d.working && (d.drainOver c.val || d.drainCuts c.val))
    (fun d => if d.drainOver c.val then d.drainEnd c.val else d.drainCancel c.val) s (by rw [hw, Bool.true_and, Bool.or_eq_true]; exact h)

/-- Settles O34: the beginning by what a context that is asked to be destroyed leaves, the bound of its drain by what a cancelled request
keeps, the end by the steps of the end of the drain. -/
theorem contextDestruction : Obligations.ContextDestruction := by
  unfold Obligations.ContextDestruction
  intro s
  refine ⟨fun q e d0 c hs hc ho => ?_, fun c hw => ⟨fun hover => ?_, fun hno hcuts => ?_⟩⟩
  · refine ⟨_, exec_destroyCtx s q e d0 c hs hc ho, ?_⟩
    obtain ⟨⟨hmem, hdescs⟩, -⟩ := d0.destroy_kept c (some (d0.cmdRef q e)) (q ≠ .fm)
    exact ⟨hmem, hdescs, d0.destroy_ctx c (lt_of_eq_of_lt (congrArg Prod.snd hc).symm (d0.cmdCheck_lt q e)) _ _ rfl⟩
  · refine ⟨s.dev.drained c.val, ?_, s.dev.drained_spec c.val rfl⟩
    rw [exec_destroyDrainEnd s c hw (.inl hover), if_pos hover, Dev.drainEnd_eq]
  · obtain ⟨hctxs, hcut⟩ := s.dev.drainCancel_spec c.val
    refine ⟨_, (exec_destroyDrainEnd s c hw (.inr hcuts)).trans (by rw [hno]; rfl), ?_, fun r hr hp t ht hid => hcut r hr hp t ht hid⟩
    have hst : (s.dev.ctx c.val).st = .draining := by
      unfold Dev.drainCuts at hcuts
      simp only [Bool.and_eq_true, beq_iff_eq] at hcuts
      exact hcuts.1.1
    exact (congrArg (fun t : Tab Ctx => (t.get c.val {}).st) hctxs).trans hst

end Sys2Proof.Machine

/-! PROOF. BIND, UNBIND and the end of a revocation (R49, R50, R244, R249, R250). -/
namespace Sys2Proof.Machine

/-! ### Bindings of contexts -/

section
variable (d : Dev) (c i : Nat) (f : Binding → Binding)

theorem Dev.binds_updBind_same : ((d.updBind c i f).ctx c).binds.get i {} = f ((d.ctx c).binds.get i {}) :=
  (congrArg (fun x : Ctx => x.binds.get i {}) (d.ctx_updCtx_same c _)).trans (tab_get_set_same _ _ _ _)

theorem Dev.binds_updBind_other (j : Nat) (h : j ≠ i) : ((d.updBind c i f).ctx c).binds.get j {} = (d.ctx c).binds.get j {} :=
  (congrArg (fun x : Ctx => x.binds.get j {}) (d.ctx_updCtx_same c _)).trans (tab_get_set_other _ _ _ _ _ _ h)

theorem Dev.ctx_updBind_beside : (d.updBind c i f).ctx c = { d.ctx c with binds := ((d.updBind c i f).ctx c).binds } := by
  have h := d.ctx_updCtx_same c fun x : Ctx => { x with binds := x.binds.set i (f (x.binds.get i {})) {} }
  exact h.trans (congrArg (fun x : Ctx => { d.ctx c with binds := x.binds }) h.symm)

theorem Dev.ctx_updBind_other (k : Nat) (h : k ≠ c) : (d.updBind c i f).ctx k = d.ctx k := d.ctx_updCtx_other _ _ _ h

/-- A completion leaves the bindings of contexts. -/
theorem Dev.binds_complete (r : CmdRef) (st r0 r1 : Nat) : ((d.complete r st r0 r1).ctx c).binds = (d.ctx c).binds :=
  (congrArg (fun x : AnswerLeft => (x.ctx c).binds) (d.beyondAnswer_complete r st r0 r1 0 true) :)

end

/-! ### BIND -/

section
variable (d : Dev) (c i : Nat) (b : Binding)

/-- The partition of the home of a context. -/
def Dev.homePart (x : Ctx) : Nat := x.bed.elim (d.portPart x.port) d.bedPart

/-- A context that can take bindings. -/
def Ctx.takesBindings (x : Ctx) : Prop := x.st = .active ∨ x.st = .parked ∨ x.st = .orphaned

/-- Has the context the tenant of the region, or may the region be shared. -/
def Dev.sharesWith (x : Ctx) (r : Rgn) : Prop := x.tenant = r.tenant ∨ r.share = true

/-- The checks of R244, in their order. -/
theorem Dev.bindStatus_unfold : d.bindStatus c i b =
    if !((d.ctx c).st == .active || (d.ctx c).st == .parked || (d.ctx c).st == .orphaned) then 0x09
    else if ((d.ctx c).binds.get i {}).len ≠ 0 then 0x21B
    else if (d.rgn b.region).st ≠ .active then 0x0F
    else if !d.bindRange c i b then 0x220
    else if d.homePart (d.ctx c) ≠ (d.rgn b.region).part then 0x21C
    else if (d.ctx c).tenant ≠ (d.rgn b.region).tenant && !(d.rgn b.region).share then 0x21D
    else if !rightsIn b.rights (d.rgn b.region).rights || !rightsIn b.rights (d.ctx c).rights then 0x21E
    else 0 := by
  unfold Dev.bindStatus Dev.homePart
  dsimp only
  cases (d.ctx c).bed <;> rfl

theorem Dev.bindStatus_state (h : ¬ (d.ctx c).takesBindings) : d.bindStatus c i b = 0x09 := by
  rw [Dev.bindStatus_unfold]
  exact if_pos (by simpa [Ctx.takesBindings, and_assoc] using h)

variable (hlive : (d.ctx c).takesBindings)
include hlive

theorem Dev.bindStatus_live : (!((d.ctx c).st == .active || (d.ctx c).st == .parked || (d.ctx c).st == .orphaned)) = false := by
  rcases hlive with h | h | h <;> (rw [h]; rfl)

theorem Dev.bindStatus_taken (h : ((d.ctx c).binds.get i {}).len ≠ 0) : d.bindStatus c i b = 0x21B := by
  rw [Dev.bindStatus_unfold, d.bindStatus_live c hlive]
  exact (if_neg Bool.false_ne_true).trans (if_pos h)

variable (hfree : ((d.ctx c).binds.get i {}).len = 0)
include hfree

theorem Dev.bindStatus_region (h : (d.rgn b.region).st ≠ .active) : d.bindStatus c i b = 0x0F := by
  rw [Dev.bindStatus_unfold, d.bindStatus_live c hlive]
  exact (if_neg Bool.false_ne_true).trans ((if_neg (not_not.2 hfree)).trans (if_pos h))

variable (hr : (d.rgn b.region).st = .active)
include hr

theorem Dev.bindStatus_range (h : d.bindRange c i b = false) : d.bindStatus c i b = 0x220 := by
  rw [Dev.bindStatus_unfold, d.bindStatus_live c hlive, h]
  exact (if_neg Bool.false_ne_true).trans ((if_neg (not_not.2 hfree)).trans ((if_neg (not_not.2 hr)).trans (if_pos rfl)))

variable (hin : d.bindRange c i b = true)
include hin

/-- The last three checks, once the entry fits. -/
theorem Dev.bindStatus_fits : d.bindStatus c i b =
    if d.homePart (d.ctx c) ≠ (d.rgn b.region).part then 0x21C
    else if (d.ctx c).tenant ≠ (d.rgn b.region).tenant && !(d.rgn b.region).share then 0x21D
    else if !rightsIn b.rights (d.rgn b.region).rights || !rightsIn b.rights (d.ctx c).rights then 0x21E
    else 0 := by
  rw [Dev.bindStatus_unfold, d.bindStatus_live c hlive, hin]
  exact (if_neg Bool.false_ne_true).trans ((if_neg (not_not.2 hfree)).trans ((if_neg (not_not.2 hr)).trans (if_neg Bool.false_ne_true)))

theorem Dev.bindStatus_part (h : d.homePart (d.ctx c) ≠ (d.rgn b.region).part) : d.bindStatus c i b = 0x21C :=
  (d.bindStatus_fits c i b hlive hfree hr hin).trans (if_pos h)

variable (hp : d.homePart (d.ctx c) = (d.rgn b.region).part)
include hp

theorem Dev.bindStatus_tenant (h : ¬ Dev.sharesWith (d.ctx c) (d.rgn b.region)) : d.bindStatus c i b = 0x21D :=
  (d.bindStatus_fits c i b hlive hfree hr hin).trans ((if_neg (not_not.2 hp)).trans (if_pos (by simpa [Dev.sharesWith] using h)))

variable (ht : Dev.sharesWith (d.ctx c) (d.rgn b.region))
include ht

theorem Dev.bindStatus_rights (h : ¬ (b.rights &&& ~~~ (d.rgn b.region).rights = 0 ∧ b.rights &&& ~~~ (d.ctx c).rights = 0)) :
    d.bindStatus c i b = 0x21E :=
  (d.bindStatus_fits c i b hlive hfree hr hin).trans ((if_neg (not_not.2 hp)).trans ((if_neg (by
    have : ((d.ctx c).tenant ≠ (d.rgn b.region).tenant && !(d.rgn b.region).share) = false := by
      rcases ht with ht | ht <;> simp [ht]
    rw [this]
    decide)).trans (if_pos (by simpa [rightsIn, imp_iff_not_or] using h))))

theorem Dev.bindStatus_ok (h : b.rights &&& ~~~ (d.rgn b.region).rights = 0 ∧ b.rights &&& ~~~ (d.ctx c).rights = 0) :
    d.bindStatus c i b = 0 := by
  obtain ⟨h1, h2⟩ := h
  have : ((d.ctx c).tenant ≠ (d.rgn b.region).tenant && !(d.rgn b.region).share) = false := by
    rcases ht with ht | ht <;> simp [ht]
  refine (d.bindStatus_fits c i b hlive hfree hr hin).trans ((if_neg (not_not.2 hp)).trans ((if_neg (by rw [this]; decide)).trans (if_neg ?_)))
  simp [rightsIn, h1, h2]

end

/-! ### The end of a revocation -/

section
variable (d : Dev) (c i : Nat)

/-- The status that a completed revocation answers with: what completed, the reads and the writes that were cancelled. -/
def Dev.revokedCounts : Nat :=
  let b := (d.ctx c).binds.get i {}
  let pend := (d.throughBind c i).filter fun r => !r.published
  let ops := d.bedOps.filter fun o => o.through c i && o.status == 0
  let rd := (pend.filter fun r => r.ty == 1).length + (ops.map fun o => o.readsLeft i).sum
  let wr := (pend.filter fun r => r.ty ≠ 1).length + (ops.map fun o => o.writesLeft i).sum
  b.done % 2 ^ 22 * 2 ^ 42 + rd % 2 ^ 21 * 2 ^ 21 + wr % 2 ^ 21

/-- An operation after the revocation of a binding that it reaches through. -/
def TOp_revoked (c i : Nat) (o : TOp) : TOp :=
  if o.through c i then { o.fail 0x02 with outs := o.outs.filter fun e => e.bind ≠ i } else o

/-- The operations of the beds after the revocation of a binding. -/
def Dev.bedsRevoked : Dev :=
  d.each (List.range 8) fun d n => d.updBed n fun y => { y with run := y.run.map (TOp_revoked c i), pend := y.pend.map (TOp_revoked c i) }

theorem Dev.bedsRevoked_beside : ({ d.bedsRevoked c i with beds := [] } : Dev) = { d with beds := [] } :=
  Dev.each_same (fun e : Dev => ({ e with beds := [] } : Dev)) (List.range 8)
    (fun d n => d.updBed n fun y => { y with run := y.run.map (TOp_revoked c i), pend := y.pend.map (TOp_revoked c i) }) (fun _ _ => rfl) d

/-- A revocation that ends, but for the answers. -/
def Dev.revoked : Dev :=
  let pend := (d.throughBind c i).filter fun r => !r.published
  let ops := d.bedOps.filter fun o => o.through c i && o.status == 0
  let rd := (pend.filter fun r => r.ty == 1).length + (ops.map fun o => o.readsLeft i).sum
  let wr := (pend.filter fun r => r.ty ≠ 1).length + (ops.map fun o => o.writesLeft i).sum
  let d := d.each pend Dev.cancelReq
  let d := d.each ((d.bedOps.filter fun o => o.through c i).flatMap (·.outs)) fun d e =>
    if e.bind == i && (d.desc e.ext).st ≠ .free then d.undefine (portAgent (d.ctx c).port) e.ext e.first e.n else d
  let d := d.bedsRevoked c i
  let d := d.satInc row_RGN_CNT 0 f_RGN_CNT_CANCELLED (rd + wr)
  let d := d.wrapInc row_RGN_CNT 0 f_RGN_CNT_REVOKED
  d.updBind c i fun _ => {}

theorem Dev.revokeEnd_eq : d.revokeEnd c i =
    (d.revoked c i).each ((d.ctx c).binds.get i {}).cmds fun e r => e.complete r 0 (d.revokedCounts c i) 0 := rfl

/-- A revocation that ends clears its entry, after what leaves contexts, regions and plans alone. -/
theorem Dev.revoked_clears : ∃ b : Dev, d.revoked c i = b.updBind c i (fun _ => {}) ∧
    ({ b.besideStore with beds := [] } : Dev) = { d.besideStore with beds := [] } := by
  unfold Dev.revoked
  extract_lets pend ops rd wr d1 d2 d3 d4 d5
  have h1 : d1.besideStore = d.besideStore := Dev.each_same Dev.besideStore pend Dev.cancelReq (fun e r => e.besideStore_cancelReq r) d
  have h2 : d2.besideStore = d1.besideStore := Dev.each_same Dev.besideStore _ _ (fun e o => by
    split
    · exact e.besideStore_undefine _ _ _ _
    · rfl) d1
  have hbeds : ({ d3 with beds := [] } : Dev) = { d2 with beds := [] } := d2.bedsRevoked_beside c i
  clear_value d3
  refine ⟨d5, rfl, ?_⟩
  have h5 : ({ d5.besideStore with beds := [] } : Dev) = { d3.besideStore with beds := [] } := rfl
  exact h5.trans ((congrArg Dev.besideStore hbeds :).trans (congrArg (fun x : Dev => ({ x with beds := [] } : Dev)) (h2.trans h1)))

/-- The entry of an ended revocation is invalid; other bindings, and other contexts, stay. -/
theorem Dev.revoked_ctxs : ((d.revoked c i).ctx c).binds.get i {} = {} ∧
    (∀ j, j ≠ i → ((d.revoked c i).ctx c).binds.get j {} = (d.ctx c).binds.get j {}) ∧ ∀ k, k ≠ c → (d.revoked c i).ctx k = d.ctx k := by
  obtain ⟨b, hb, hrest⟩ := d.revoked_clears c i
  have hctx : ∀ k, b.ctx k = d.ctx k := fun k => (congrArg (fun x : Dev => x.ctx k) hrest :)
  rw [hb]
  exact ⟨b.binds_updBind_same c i _, fun j hj => (b.binds_updBind_other c i _ j hj).trans (congrArg (fun x : Ctx => x.binds.get j {}) (hctx c)),
    fun k hk => (b.ctx_updBind_other c i _ k hk).trans (hctx k)⟩

/-- With nothing in flight through it a revocation ends with a note to the operations of the beds alone. -/
theorem Dev.revoked_eq (hp : (d.throughBind c i).filter (fun r => !r.published) = []) (ho : ∀ o ∈ d.bedOps, o.through c i = false) :
    ∃ n, d.revoked c i = (((d.bedsRevoked c i).satInc row_RGN_CNT 0 f_RGN_CNT_CANCELLED n).wrapInc row_RGN_CNT 0 f_RGN_CNT_REVOKED).updBind
      c i fun _ => {} := by
  unfold Dev.revoked
  extract_lets pend ops rd wr d1 d2 d3 d4 d5
  have h1 : d1 = d := (congrArg (fun l => d.each l Dev.cancelReq) hp : d.each pend Dev.cancelReq = d.each [] Dev.cancelReq)
  have hops : d1.bedOps.filter (fun o => o.through c i) = [] := List.filter_eq_nil_iff.2 fun o h => by
    rw [ho o (h1 ▸ h)]
    decide
  have h2 : d2 = d1 := congrArg (fun l : List TOp => d1.each (l.flatMap (·.outs)) fun d e =>
    if e.bind == i && (d.desc e.ext).st ≠ .free then d.undefine (portAgent (d.ctx c).port) e.ext e.first e.n else d) hops
  have h3 : d3 = d.bedsRevoked c i := congrArg (fun e : Dev => e.bedsRevoked c i) (h2.trans h1)
  exact ⟨rd + wr, congrArg (fun e : Dev => ((e.satInc row_RGN_CNT 0 f_RGN_CNT_CANCELLED (rd + wr)).wrapInc row_RGN_CNT 0
    f_RGN_CNT_REVOKED).updBind c i fun _ => {}) h3⟩

theorem Dev.revoked_idle (hp : (d.throughBind c i).filter (fun r => !r.published) = []) (ho : ∀ o ∈ d.bedOps, o.through c i = false)
    {e : Dev} (he : d.revoked c i = e) : e = { d with ctxs := e.ctxs, beds := e.beds, regs := e.regs } := by
  obtain ⟨n, hn⟩ := d.revoked_eq c i hp ho
  have hbeds := d.bedsRevoked_beside c i
  rw [hn] at he
  generalize d.bedsRevoked c i = b at hbeds he
  have hall : ({ e with ctxs := [], beds := [], regs := [] } : Dev) = { d with ctxs := [], beds := [], regs := [] } :=
    he ▸ (congrArg (fun x : Dev => ({ x with ctxs := [], regs := [] } : Dev)) hbeds :)
  exact (congrArg (fun x : Dev => ({ x with ctxs := e.ctxs, beds := e.beds, regs := e.regs } : Dev)) hall :)

/-- The start of a revocation, cmd saying by what. -/
def Dev.revokeMark (cmd : Option CmdRef) : Dev :=
  d.updBind c i fun b => { b with
    draining := true, cmds := b.cmds ++ cmd.toList,
    since := if ((d.ctx c).binds.get i {}).draining then b.since else d.lived (commonDom (dieOfPort (d.ctx c).port)),
    done := if b.draining then b.done else 0 }

/-- A revocation begins, or, of a context at rest, ends at once. -/
theorem Dev.revoke_cases (cmd : Option CmdRef) : d.revoke c i cmd = d.revokeMark c i cmd ∨
    (d.revoke c i cmd = (d.revokeMark c i cmd).revokeEnd c i ∧ (d.ctx c).st ≠ .active ∧ (d.revokeMark c i cmd).throughBind c i = []) := by
  unfold Dev.revoke Dev.revokeMark
  extract_lets x b now d1
  split
  next h =>
    simp only [Bool.and_eq_true, Bool.or_eq_true, beq_iff_eq, List.isEmpty_iff] at h
    obtain ⟨⟨⟨-, hst⟩, hreq⟩, -⟩ := h
    refine .inr ⟨rfl, fun hact => ?_, hreq⟩
    rcases hst with hst | hst <;> exact absurd (hst.symm.trans hact) (by decide)
  · exact .inl rfl

end

/-! ### The commands -/

section
variable (e : Entry) (ref : CmdRef) (c : Nat) (d : Dev)

/-- The entry that a BIND writes. -/
def boundOf : Binding := bindOf (e.arg 1 + e.arg 2 * 2 ^ 64)

theorem bindBody_ends (hz : bits (e.arg 1 + e.arg 2 * 2 ^ 64) 108 20 = 0) {st : Nat} (h : d.bindStatus c (e.arg 0) (boundOf e) = st)
    (hne : st ≠ 0) : bindBody e ref c d = d.complete ref st 0 0 := by
  subst h
  exact (if_neg (not_not.2 hz)).trans (if_pos hne)

theorem bindBody_binds (hz : bits (e.arg 1 + e.arg 2 * 2 ^ 64) 108 20 = 0) (h : d.bindStatus c (e.arg 0) (boundOf e) = 0) :
    bindBody e ref c d = (d.updBind c (e.arg 0) fun _ => boundOf e).complete ref 0 0 0 :=
  (if_neg (not_not.2 hz)).trans (if_neg (not_not.2 h))

/-- Answers leave the bindings of contexts, and memory. -/
theorem Dev.each_complete_binds (l : List CmdRef) (st r0 : Nat) :
    ((d.each l fun d r => d.complete r st r0 0).ctx c).binds = (d.ctx c).binds ∧ (d.each l fun d r => d.complete r st r0 0).mem = d.mem :=
  ⟨Dev.each_same (fun d => (d.ctx c).binds) l _ (fun e r => e.binds_complete c r st r0 0) d,
    Dev.each_same Dev.mem l (fun d r => d.complete r st r0 0) (fun e r => (congrArg (fun x : AnswerLeft => x.rest.mem) (e.beyondAnswer_complete r st r0 0 0 true) :)) d⟩

/-- What an UNBIND leaves of the bindings of its context. -/
theorem Dev.revoke_spec (i : Nat) {d' : Dev} (hd : d.revoke c i (some ref) = d') :
    ((∀ o ∈ d.bedOps, o.through c i = false) → d'.mem = d.mem) ∧
    (((d'.ctx c).binds.get i {}).draining = true ∨ (d'.ctx c).binds.get i {} = {}) ∧
    ((d.ctx c).st = .active → ((d'.ctx c).binds.get i {}).cmds = ((d.ctx c).binds.get i {}).cmds ++ [ref]) ∧
    ∀ j, j ≠ i → (d'.ctx c).binds.get j {} = (d.ctx c).binds.get j {} := by
  have hmark : ((d.revokeMark c i (some ref)).ctx c).binds.get i {} = _ := d.binds_updBind_same c i _
  have hother : ∀ j, j ≠ i → ((d.revokeMark c i (some ref)).ctx c).binds.get j {} = (d.ctx c).binds.get j {} :=
    fun j hj => d.binds_updBind_other c i _ j hj
  have hops : (d.revokeMark c i (some ref)).bedOps = d.bedOps := rfl
  have hmem : (d.revokeMark c i (some ref)).mem = d.mem := rfl
  have hcase := d.revoke_cases c i (some ref)
  generalize d.revokeMark c i (some ref) = d1 at hmark hother hops hmem hcase
  obtain hcase | ⟨hcase, hst, hreq⟩ := hcase
  · obtain rfl := hcase.symm.trans hd
    exact ⟨fun _ => hmem, .inl (congrArg Binding.draining hmark), fun _ => congrArg Binding.cmds hmark, hother⟩
  · obtain ⟨hgone, hrest, -⟩ := d1.revoked_ctxs c i
    obtain ⟨hbinds, hkept⟩ := Dev.each_complete_binds c (d1.revoked c i) ((d1.ctx c).binds.get i {}).cmds 0 (d1.revokedCounts c i)
    rw [← Dev.revokeEnd_eq, ← hcase, hd] at hbinds hkept
    refine ⟨fun ho => ?_, .inr ?_, fun hact => absurd hact hst, fun j hj => ?_⟩
    · have hidle := d1.revoked_idle c i (by rw [hreq]; rfl) (fun o h => ho o (hops ▸ h)) rfl
      exact hkept.trans ((congrArg Dev.mem hidle).trans hmem)
    · exact (congrArg (fun t : Tab Binding => t.get i {}) hbinds).trans hgone
    · exact (congrArg (fun t : Tab Binding => t.get j {}) hbinds).trans ((hrest j hj).trans (hother j hj))

theorem Dev.revokeOver_of (i : Nat) (hl : ((d.ctx c).binds.get i {}).len ≠ 0) (hd : ((d.ctx c).binds.get i {}).draining = true)
    (h : (d.throughBind c i = [] ∧ d.opThrough c i = false) ∨
      ((d.ctx c).binds.get i {}).since + d.most 100000 ≤ d.lived (commonDom (dieOfPort (d.ctx c).port))) : d.revokeOver c i = true := by
  unfold Dev.revokeOver
  dsimp only
  rw [hd, decide_eq_true hl]
  rcases h with ⟨hr, ho⟩ | h
  · rw [hr, ho]
    rfl
  · rw [decide_eq_true h, Bool.or_true]
    rfl

end

section
variable (s : State) (q : Queue) (e : Entry) (d0 : Dev) (c : Nat) (hs : s.dev.starts q e = some d0) (hc : d0.cmdCheck q e = (0, c))
include hs hc

theorem exec_bind (ho : e.opc = 0x20) {d : Dev} (hb : bindBody e (d0.cmdRef q e) c d0 = d) :
    exec (.bind q e) s = .next { s with dev := d.finish } :=
  hb ▸ State.devCmd_runs 0x20 q e (bindBody e) s d0 c ho hs hc

theorem exec_unbind (ho : e.opc = 0x21) {d : Dev} (hb : unbindBody e (d0.cmdRef q e) c d0 = d) :
    exec (.unbind q e) s = .next { s with dev := d.finish } :=
  hb ▸ State.devCmd_runs 0x21 q e (unbindBody e) s d0 c ho hs hc

end

theorem exec_revocationDrainEnd (s : State) (c : Fin 4096) (i : Fin 256) (hw : s.dev.working = true)
    (h : s.dev.revokeOver c.val i.val = true) : exec (.revocationDrainEnd c i) s = .next { s with dev :=
      ((s.dev.revoked c.val i.val).each ((s.dev.ctx c.val).binds.get i.val {}).cmds fun e r =>
        e.complete r 0 (s.dev.revokedCounts c.val i.val) 0).finish } :=
  State.devEvent_holds (fun d => d.working && d.revokeOver c.val i.val) (fun d => d.revokeEnd c.val i.val) s (by rw [hw, h]; rfl)

/-- Settles O36: BIND by its checks in order, UNBIND and the end of a revocation by what they leave of the bindings. -/
theorem bindAndUnbind : Obligations.BindAndUnbind := by
  unfold Obligations.BindAndUnbind
  intro s
  refine ⟨?_, ?_⟩
  · intro q e d0 c hs hc ref i x v b r ends
    have hpart : ((match x.bed with
        | some n => d0.bedPart n
        | none => d0.portPart x.port) = r.part) = (d0.homePart x = r.part) := by
      unfold Dev.homePart
      cases x.bed <;> rfl
    refine ⟨fun ho hz => ?_, fun ho => ⟨fun h => ?_, fun h => ?_⟩⟩
    · intro live free part tenant rights
      have hends : ∀ {st : Nat}, d0.bindStatus c (e.arg 0) (boundOf e) = st → st ≠ 0 → ends (.bind q e) st :=
        fun h hne => exec_bind s q e d0 c hs hc ho (bindBody_ends e ref c d0 hz h hne)
      refine ⟨fun h => hends (d0.bindStatus_state c i b h) (by decide), fun hl h => hends (d0.bindStatus_taken c i b hl h) (by decide),
        fun hl hf h => hends (d0.bindStatus_region c i b hl hf h) (by decide),
        fun hl hf hr h => hends (d0.bindStatus_range c i b hl hf hr h) (by decide), fun hl hf hr hin => ⟨fun h => ?_, fun hp h => ?_,
        fun hp ht h => ?_, fun hp ht hrt => ?_⟩⟩
      · exact hends (d0.bindStatus_part c i b hl hf hr hin (fun h' => h (hpart.mpr h'))) (by decide)
      · exact hends (d0.bindStatus_tenant c i b hl hf hr hin (hpart.mp hp) h) (by decide)
      · exact hends (d0.bindStatus_rights c i b hl hf hr hin (hpart.mp hp) ht h) (by decide)
      · refine ⟨d0.updBind c i fun _ => b, exec_bind s q e d0 c hs hc ho
          (bindBody_binds e ref c d0 hz (d0.bindStatus_ok c i b hl hf hr hin (hpart.mp hp) ht hrt)), rfl, fun k hk => d0.ctx_updBind_other c i _ k hk,
          d0.ctx_updBind_beside c i _, d0.binds_updBind_same c i _, fun j hj => d0.binds_updBind_other c i _ j hj⟩
    · exact exec_unbind s q e d0 c hs hc ho (if_pos h)
    · exact ⟨_, exec_unbind s q e d0 c hs hc ho (if_neg h), d0.revoke_spec ref c i rfl⟩
  · intro c i hw b pend ops rd wr hl hd hover
    obtain ⟨hgone, -, hctx⟩ := s.dev.revoked_ctxs c.val i.val
    exact ⟨s.dev.revoked c.val i.val, exec_revocationDrainEnd s c i hw (s.dev.revokeOver_of c.val i.val hl hd hover), hgone,
      fun hp ho => ⟨s.dev.revoked_idle c.val i.val hp ho rfl, hctx⟩⟩

end Sys2Proof.Machine

/-! PROOF. The region commands (R242, R243, R426). -/
namespace Sys2Proof.Machine

/-! ### Extents that enter a region -/

section
variable (d : Dev)

/-- The device without descriptors and the poison table. -/
def Dev.besideEntry : Dev := { d with descs := [], poison := [] }

theorem Dev.descWhole_kept (x : Nat) : (d.descWhole x).besideEntry = d.besideEntry ∧ (d.descWhole x).descs = d.descs :=
  ⟨Dev.each_same Dev.besideEntry _ _ (fun e p => by split <;> rfl) d, Dev.each_same Dev.descs _ _ (fun e p => by split <;> rfl) d⟩

/-- An extent as it enters region r. -/
def Desc.entered (e : Desc) (r : Nat) : Prop := e.st = .stable ∧ e.region = r ∧ e.len = 0

/-- Extents that enter a region are STABLE and never written; nothing else changes but entries of the poison table. -/
theorem Dev.enter_spec (r grp : Nat) (subOnly : Bool) (l : List Nat) {d' : Dev} (h : d.enter r grp subOnly l = some d') :
    d'.besideEntry = d.besideEntry ∧ (∀ x ∈ l, (d'.desc x).entered r) ∧ ∀ x, x ∉ l → d'.desc x = d.desc x := by
  induction l generalizing d with
  | nil =>
    obtain rfl : d = d' := Option.some.inj h
    exact ⟨rfl, fun _ h => (nomatch h), fun _ _ => rfl⟩
  | cons x t ih =>
    unfold Dev.enter at h
    split at h
    · exact nomatch h
    next o _ =>
    obtain ⟨hrest, hin, hout⟩ := ih _ h
    obtain ⟨hkept, hdescs⟩ := d.descWhole_kept x
    refine ⟨hrest.trans hkept, fun y hy => ?_, fun y hy => ?_⟩
    · by_cases ht : y ∈ t
      · exact hin y ht
      obtain rfl : y = x := (List.mem_cons.1 hy).resolve_right ht
      rw [hout y ht, show ((d.descWhole y).setDesc y _).desc y = _ from tab_get_set_same _ _ _ _]
      exact ⟨rfl, rfl, rfl⟩
    · obtain ⟨hx, ht⟩ := not_or.1 (mt List.mem_cons.2 hy)
      rw [hout y ht]
      exact (tab_get_set_other _ _ _ _ _ _ hx).trans (congrArg (fun m : Tab Desc => m.get y {}) hdescs)

end

/-! ### REGION_CREATE and REGION_GROW -/

/-- The first region number that is free. -/
theorem Dev.find_freeRgn (d : Dev) (k : Nat) (hk : k < 16384) (hf : (d.rgn k).st = .free) (hb : ∀ j, j < k → (d.rgn j).st ≠ .free) :
    (List.range 16384).find? (fun r => (d.rgn r).st == .free) = some k :=
  List.find?_range_eq_some.mpr ⟨beq_iff_eq.2 hf, List.mem_range.mpr hk, fun j hj => by rw [beq_eq_false_iff_ne.2 (hb j hj)]; rfl⟩

section
variable (e : Entry) (ref : CmdRef) (c : Nat) (d : Dev) (hn : e.arg 1 ≠ 0) (hg : d.groupExists (bits (e.arg 0) 16 4) = true)

/-- The region that a REGION_CREATE makes of runs of identifiers. -/
def createdRgn (ids : List (Nat × Nat)) : Rgn :=
  { st := .active, part := bits (e.arg 0) 16 4 / 2, tenant := bits (e.arg 0) 0 8, rights := BitVec.ofNat 4 (bits (e.arg 0) 8 4),
    share := bitOf (e.arg 0) 12, runs := joinRuns ids }

include hn hg

theorem createArgs : ¬ (e.arg 1 = 0 || !d.groupExists (bits (e.arg 0) 16 4)) = true := by
  rw [hg, decide_eq_false hn]
  decide

/-- A REGION_CREATE without a free region number. -/
theorem regionCreateBody_full (h : ∀ k, k < 16384 → (d.rgn k).st ≠ .free) : regionCreateBody e ref c d = d.complete ref 0x218 0 0 := by
  have hfind : (List.range 16384).find? (fun r => (d.rgn r).st == .free) = none := List.find?_eq_none.2 fun k hk hf =>
    h k (List.mem_range.1 hk) (beq_iff_eq.1 hf)
  unfold regionCreateBody
  dsimp only
  rw [if_neg (createArgs e d hn hg), hfind]

variable (k : Nat) (hk : k < 16384) (hf : (d.rgn k).st = .free) (hb : ∀ j, j < k → (d.rgn j).st ≠ .free)
include hk hf hb

/-- A REGION_CREATE for which identifiers lack. -/
theorem regionCreateBody_ids (h : d.takeIds (bits (e.arg 0) 16 4) (e.arg 1) = none) : regionCreateBody e ref c d = d.complete ref 0x219 0 0 := by
  unfold regionCreateBody
  dsimp only
  rw [if_neg (createArgs e d hn hg), d.find_freeRgn k hk hf hb]
  dsimp only
  rw [h]

variable (ids : List (Nat × Nat)) (ht : d.takeIds (bits (e.arg 0) 16 4) (e.arg 1) = some ids)
include ht

/-- A REGION_CREATE for which homes lack. -/
theorem regionCreateBody_homes (h : d.enter k (bits (e.arg 0) 16 4) (bitOf (e.arg 0) 13) (mapList ids) = none) :
    regionCreateBody e ref c d = d.complete ref 0x219 0 0 := by
  unfold regionCreateBody
  dsimp only
  rw [if_neg (createArgs e d hn hg), d.find_freeRgn k hk hf hb]
  dsimp only
  rw [ht]
  dsimp only
  rw [h]

theorem regionCreateBody_creates {d' : Dev} (h : d.enter k (bits (e.arg 0) 16 4) (bitOf (e.arg 0) 13) (mapList ids) = some d')
    (hr : d.runsUsed + (joinRuns ids).length ≤ runCap) :
    regionCreateBody e ref c d = ((d'.setRgn k (createdRgn e ids)).pressureAll).complete ref 0 k 0 := by
  unfold regionCreateBody
  dsimp only
  rw [if_neg (createArgs e d hn hg), d.find_freeRgn k hk hf hb]
  dsimp only
  rw [ht]
  dsimp only
  rw [h]
  exact if_neg (not_lt.2 hr)

end

/-- Extents that have entered a region that is set: what there is then of regions, descriptors, memory and contexts. -/
theorem Dev.entered_spec (d : Dev) (r grp : Nat) (subOnly : Bool) (l : List Nat) (k : Nat) (g : Rgn) {d' e : Dev}
    (h : d.enter r grp subOnly l = some d') (he : (d'.setRgn k g).pressureAll = e) :
    (∀ j, j ≠ k → e.rgn j = d.rgn j) ∧ e.mem = d.mem ∧ e.ctxs = d.ctxs ∧ e.rgn k = g ∧ (∀ x ∈ l, (e.desc x).entered r) ∧
    ∀ x, x ∉ l → e.desc x = d.desc x := by
  obtain ⟨hrest, hin, hout⟩ := d.enter_spec r grp subOnly l h
  have hp : e.besideLoess = (d'.setRgn k g).besideLoess := he ▸ Dev.besideLoess_pressureAll _
  have hdesc : ∀ x, e.desc x = d'.desc x := fun x => (congrArg (fun y : Dev => y.desc x) hp :)
  have hrgns : d'.rgns = d.rgns := (congrArg Dev.rgns hrest :)
  have hrgn : ∀ j, e.rgn j = (d'.setRgn k g).rgn j := fun j => (congrArg (fun y : Dev => y.rgn j) hp :)
  refine ⟨fun j hj => (hrgn j).trans ((d'.rgn_setRgn_other k j g hj).trans (congrArg (fun t : Tab Rgn => t.get j {}) hrgns)),
    (congrArg Dev.mem hp :).trans (congrArg Dev.mem hrest :), (congrArg Dev.ctxs hp :).trans (congrArg Dev.ctxs hrest :),
    (hrgn k).trans (d'.rgn_setRgn_same k g), fun x hx => ?_, fun x hx => (hdesc x).trans (hout x hx)⟩
  rw [hdesc]
  exact hin x hx

section
variable (e : Entry) (ref : CmdRef) (c : Nat) (d : Dev) (hn : e.arg 1 ≠ 0) (hz : bits (e.arg 0) 14 2 = 0)
  (hg : d.groupExists (bits (e.arg 0) 16 4) = true)
include hn hz hg

theorem growArgs : ¬ (e.arg 1 = 0 || bits (e.arg 0) 14 2 ≠ 0 || !d.groupExists (bits (e.arg 0) 16 4)) = true := by
  rw [hg, hz, decide_eq_false hn]
  decide

theorem regionGrowBody_state (h : (d.rgn (bits (e.arg 0) 0 14)).st ≠ .active) : regionGrowBody e ref c d = d.complete ref 0x0F 0 0 :=
  (if_neg (growArgs e d hn hz hg)).trans (if_pos h)

variable (ha : (d.rgn (bits (e.arg 0) 0 14)).st = .active)
include ha

theorem regionGrowBody_part (h : bits (e.arg 0) 16 4 / 2 ≠ (d.rgn (bits (e.arg 0) 0 14)).part) :
    regionGrowBody e ref c d = d.complete ref 0x21C 0 0 :=
  (if_neg (growArgs e d hn hz hg)).trans ((if_neg (not_not.2 ha)).trans (if_pos h))

theorem regionGrowBody_grows (hp : bits (e.arg 0) 16 4 / 2 = (d.rgn (bits (e.arg 0) 0 14)).part)
    (hc : (d.rgn (bits (e.arg 0) 0 14)).count + e.arg 1 ≤ 2 ^ 28 - 1) {ids : List (Nat × Nat)} {d' : Dev}
    (ht : d.takeIds (bits (e.arg 0) 16 4) (e.arg 1) = some ids)
    (h : d.enter (bits (e.arg 0) 0 14) (bits (e.arg 0) 16 4) false (mapList ids) = some d')
    (hr : d.runsUsed - (d.rgn (bits (e.arg 0) 0 14)).runs.length + (joinRuns ((d.rgn (bits (e.arg 0) 0 14)).runs ++ ids)).length ≤ runCap) :
    regionGrowBody e ref c d = ((d'.updRgn (bits (e.arg 0) 0 14) fun g =>
      { g with runs := joinRuns ((d.rgn (bits (e.arg 0) 0 14)).runs ++ ids) }).pressureAll).complete ref 0 0 0 := by
  refine (if_neg (growArgs e d hn hz hg)).trans ((if_neg (not_not.2 ha)).trans ((if_neg (not_not.2 hp)).trans ((if_neg (not_lt.2 hc)).trans ?_)))
  rw [ht]
  dsimp only
  rw [h]
  exact if_neg (not_lt.2 hr)

end

/-! ### REGION_TRIM and REGION_SET -/

section
variable (e : Entry) (ref : CmdRef) (c : Nat) (d : Dev)

/-- The runs that a REGION_TRIM keeps, and those that it takes off. -/
def Dev.trimRuns : List (Nat × Nat) × List (Nat × Nat) := cutRuns (d.rgn (e.arg 0)).runs ((d.rgn (e.arg 0)).count - e.arg 1)

theorem regionTrimBody_eq : regionTrimBody e ref c d =
    if e.arg 1 = 0 then d.complete ref 0x201 0 0
    else if (d.rgn (e.arg 0)).st ≠ .active || (d.rgn (e.arg 0)).count ≤ e.arg 1 then d.complete ref 0x0F 0 0
    else if d.boundAbove (e.arg 0) ((d.rgn (e.arg 0)).count - e.arg 1) then d.complete ref 0x21A 0 0
    else if (mapList (d.trimRuns e).2).any fun x => (d.desc x).ro then d.complete ref 0x0E 0 0
    else d.updRgn (e.arg 0) fun g =>
      { g with runs := (d.trimRuns e).1, gone := g.gone ++ mapList (d.trimRuns e).2, trimCmds := g.trimCmds ++ [ref] } := rfl

variable (hn : e.arg 1 ≠ 0)
include hn

theorem regionTrimBody_state (h : (d.rgn (e.arg 0)).st ≠ .active ∨ (d.rgn (e.arg 0)).count ≤ e.arg 1) :
    regionTrimBody e ref c d = d.complete ref 0x0F 0 0 := by
  rw [regionTrimBody_eq]
  exact (if_neg hn).trans (if_pos (by simpa using h))

variable (ha : (d.rgn (e.arg 0)).st = .active) (hl : e.arg 1 < (d.rgn (e.arg 0)).count)
include ha hl

theorem regionTrimBody_bound (h : d.boundAbove (e.arg 0) ((d.rgn (e.arg 0)).count - e.arg 1) = true) :
    regionTrimBody e ref c d = d.complete ref 0x21A 0 0 := by
  rw [regionTrimBody_eq]
  exact (if_neg hn).trans ((if_neg (by simpa [ha] using hl)).trans (if_pos h))

theorem regionTrimBody_trims (h : d.boundAbove (e.arg 0) ((d.rgn (e.arg 0)).count - e.arg 1) = false)
    (hro : ∀ x ∈ mapList (d.trimRuns e).2, (d.desc x).ro = false) : regionTrimBody e ref c d = d.updRgn (e.arg 0) fun g =>
      { g with runs := (d.trimRuns e).1, gone := g.gone ++ mapList (d.trimRuns e).2, trimCmds := g.trimCmds ++ [ref] } := by
  rw [regionTrimBody_eq]
  refine (if_neg hn).trans ((if_neg (by simpa [ha] using hl)).trans ((if_neg (by rw [h]; decide)).trans (if_neg fun hany => ?_)))
  obtain ⟨x, hx, hr⟩ := List.any_eq_true.1 hany
  exact absurd ((hro x hx).symm.trans hr) (by decide)

end

section
variable (e : Entry) (ref : CmdRef) (c : Nat) (d : Dev)

/-- Does a binding of the region clash with what a REGION_SET writes. -/
def Dev.setClash : Prop :=
  ∃ x ∈ d.ctxs, ∃ b ∈ x.2.binds, b.2.len ≠ 0 ∧ b.2.region = bits (e.arg 0) 0 14 ∧
    (b.2.rights &&& ~~~ BitVec.ofNat 4 (bits (e.arg 0) 16 4) ≠ 0 ∨
      (bitOf (e.arg 0) 20 = false ∧ x.2.tenant ≠ (d.rgn (bits (e.arg 0) 0 14)).tenant))

theorem Dev.setClash_iff : (d.ctxs.any fun c => c.2.binds.any fun b => b.2.len ≠ 0 && b.2.region == bits (e.arg 0) 0 14 &&
    (!rightsIn b.2.rights (BitVec.ofNat 4 (bits (e.arg 0) 16 4)) ||
      (!bitOf (e.arg 0) 20 && c.2.tenant ≠ (d.rgn (bits (e.arg 0) 0 14)).tenant))) = true ↔ d.setClash e := by
  simp only [Dev.setClash, List.any_eq_true, Bool.and_eq_true, Bool.or_eq_true, Bool.not_eq_true', decide_eq_true_eq, beq_iff_eq, rightsIn,
    decide_eq_false_iff_not, ne_eq, and_assoc]

variable (hz : bits (e.arg 0) 14 2 = 0)
include hz

theorem regionSetBody_state (h : (d.rgn (bits (e.arg 0) 0 14)).st ≠ .active) : regionSetBody e ref c d = d.complete ref 0x0F 0 0 :=
  (if_neg (not_not.2 hz)).trans (if_pos h)

variable (ha : (d.rgn (bits (e.arg 0) 0 14)).st = .active)
include ha

theorem regionSetBody_clash (h : d.setClash e) : regionSetBody e ref c d = d.complete ref 0x21A 0 0 :=
  (if_neg (not_not.2 hz)).trans ((if_neg (not_not.2 ha)).trans (if_pos ((d.setClash_iff e).2 h)))

theorem regionSetBody_sets (h : ¬ d.setClash e) : regionSetBody e ref c d = (d.updRgn (bits (e.arg 0) 0 14) fun g =>
    { g with rights := BitVec.ofNat 4 (bits (e.arg 0) 16 4), share := bitOf (e.arg 0) 20 }).complete ref 0 0 0 :=
  (if_neg (not_not.2 hz)).trans ((if_neg (not_not.2 ha)).trans (if_neg (mt (d.setClash_iff e).1 h)))

end

/-! ### REGION_RECLAIM -/

section
variable (d : Dev)

/-- An entry of a table in which a value is set is that one, or was there. -/
theorem tab_mem_set {α : Type} [DecidableEq α] (m : Tab α) (k : Nat) (v c : α) (e : Nat × α) (h : e ∈ m.set k v c) : e = (k, v) ∨ e ∈ m := by
  induction m with
  | nil =>
    unfold Tab.set at h
    split at h
    · exact .inr h
    · exact .inl (List.mem_singleton.1 h)
  | cons x t ih =>
    obtain ⟨i, w⟩ := x
    unfold Tab.set at h
    split at h
    · split at h
      · exact .inr h
      · exact List.mem_cons.1 h
    split at h
    · split at h
      · exact .inr (List.mem_cons_of_mem _ ((List.dropWhile_sublist _).mem h))
      · exact (List.mem_cons.1 h).imp_right (List.mem_cons_of_mem _)
    · exact (List.mem_cons.1 h).elim (fun he => .inr (he ▸ List.mem_cons_self)) fun h => (ih h).imp_right (List.mem_cons_of_mem _)

theorem Dev.bedOps_congr {a b : Dev} (h : a.beds = b.beds) : a.bedOps = b.bedOps := by
  unfold Dev.bedOps
  rw [h]

theorem Dev.bedOps_nil : d.bedOps = [] ↔ ∀ b ∈ d.beds, b.2.run = none ∧ b.2.pend = none := by
  simp [Dev.bedOps, List.flatMap_eq_nil_iff, List.append_eq_nil_iff, Option.toList_eq_nil_iff]

/-- Beds without an operation have none after a revocation. -/
theorem Dev.bedsRevoked_idle (c i : Nat) (h : d.bedOps = []) : (d.bedsRevoked c i).bedOps = [] := by
  unfold Dev.bedsRevoked
  generalize List.range 8 = l
  induction l generalizing d with
  | nil => exact h
  | cons n t ih =>
    refine ih _ (Dev.bedOps_nil _ |>.2 fun b hb => ?_)
    have hbed : (d.bed n).run = none ∧ (d.bed n).pend = none := by
      by_cases hd : d.bed n = {}
      · rw [hd]
        exact ⟨rfl, rfl⟩
      · exact d.bedOps_nil.1 h _ (tab_mem_of_get d.beds n {} hd)
    obtain rfl | hb := tab_mem_set _ _ _ _ b hb
    · exact ⟨congrArg (Option.map _) hbed.1, congrArg (Option.map _) hbed.2⟩
    · exact d.bedOps_nil.1 h b hb

theorem Dev.revoked_rgns (c i : Nat) : (d.revoked c i).rgns = d.rgns := by
  obtain ⟨b, hb, hrest⟩ := d.revoked_clears c i
  rw [hb]
  exact (congrArg Dev.rgns hrest :)

theorem Dev.revoked_descs (c i : Nat) (hr : d.throughBind c i = []) (ho : d.bedOps = []) :
    (d.revoked c i).descs = d.descs ∧ (d.revoked c i).bedOps = [] := by
  obtain ⟨n, hn⟩ := d.revoked_eq c i (by rw [hr]; rfl) (fun o h => by rw [ho] at h; exact nomatch h)
  have hbeds := d.bedsRevoked_beside c i
  have hidle := d.bedsRevoked_idle c i ho
  rw [hn]
  generalize d.bedsRevoked c i = b at hbeds hidle ⊢
  exact ⟨(congrArg Dev.descs hbeds :), hidle⟩

theorem Dev.each_complete_kept (l : List CmdRef) (n : Nat) : (d.each l fun e r => e.complete r 0 n 0).rgns = d.rgns ∧
    (d.each l fun e r => e.complete r 0 n 0).descs = d.descs ∧ (d.each l fun e r => e.complete r 0 n 0).beds = d.beds := by
  have h := Dev.each_same Dev.beyondAnswer l (fun e r => e.complete r 0 n 0) (fun e r => e.beyondAnswer_complete r 0 n 0 0 true) d
  generalize d.each l (fun e r => e.complete r 0 n 0) = y at h ⊢
  exact ⟨(congrArg (fun x : AnswerLeft => x.rest.rgns) h :), (congrArg (fun x : AnswerLeft => x.rest.descs) h :),
    (congrArg (fun x : AnswerLeft => x.rest.beds) h :)⟩

theorem Dev.revokeEnd_answers (c i : Nat) : (d.revokeEnd c i).rgns = (d.revoked c i).rgns ∧
    (d.revokeEnd c i).descs = (d.revoked c i).descs ∧ (d.revokeEnd c i).beds = (d.revoked c i).beds := by
  rw [Dev.revokeEnd_eq]
  exact Dev.each_complete_kept _ _ _

theorem Dev.revokeMark_kept (c i : Nat) (cmd : Option CmdRef) : (d.revokeMark c i cmd).rgns = d.rgns ∧
    (d.revokeMark c i cmd).descs = d.descs ∧ (d.revokeMark c i cmd).bedOps = d.bedOps := ⟨rfl, rfl, rfl⟩

/-- What a revocation leaves of regions, plans and descriptors. -/
theorem Dev.revoke_kept (c i : Nat) (cmd : Option CmdRef) {e : Dev} (he : d.revoke c i cmd = e) : e.rgns = d.rgns ∧
    (d.bedOps = [] → e.descs = d.descs ∧ e.bedOps = []) := by
  have hmark := d.revokeMark_kept c i cmd
  have hcase := d.revoke_cases c i cmd
  generalize d.revokeMark c i cmd = d1 at hmark hcase
  obtain ⟨hrgns, hdescs, hops⟩ := hmark
  obtain hcase | ⟨hcase, -, hreq⟩ := hcase
  · obtain rfl := hcase.symm.trans he
    exact ⟨hrgns, fun h => ⟨hdescs, hops.trans h⟩⟩
  have hans := d1.revokeEnd_answers c i
  have hkept := d1.revoked_rgns c i
  have hidle := d1.revoked_descs c i hreq
  have hy : e = d1.revokeEnd c i := he.symm.trans hcase
  generalize d1.revokeEnd c i = y at hans hy
  generalize d1.revoked c i = x at hans hkept hidle
  obtain ⟨ar, ad, ab⟩ := hans
  subst hy
  refine ⟨ar.trans (hkept.trans hrgns), fun h => ?_⟩
  obtain ⟨hd, hb⟩ := hidle (hops.trans h)
  exact ⟨ad.trans (hd.trans hdescs), (Dev.bedOps_congr ab).trans hb⟩

theorem Dev.each_revoke_kept (l : List (Nat × Nat)) : (d.each l fun d b => d.revoke b.1 b.2 none).rgns = d.rgns ∧
    (d.bedOps = [] → (d.each l fun d b => d.revoke b.1 b.2 none).descs = d.descs) := by
  induction l generalizing d with
  | nil => exact ⟨rfl, fun _ => rfl⟩
  | cons b t ih =>
    obtain ⟨h1, h2⟩ := d.revoke_kept b.1 b.2 none rfl
    obtain ⟨k1, k2⟩ := ih (d.revoke b.1 b.2 none)
    exact ⟨k1.trans h1, fun h => (k2 (h2 h).2).trans (h2 h).1⟩

theorem Dev.each_planDrop_kept (l : List Nat) : (d.each l Dev.planDrop).rgns = d.rgns ∧ (d.each l Dev.planDrop).descs = d.descs := by
  have hone : ∀ (e : Dev) (p : Nat), (e.planDrop p).rgns = e.rgns ∧ (e.planDrop p).descs = e.descs := fun e p => by
    by_cases hp : (e.plan p).st = .none_
    · rw [show e.planDrop p = e from if_pos (by rw [hp]; rfl)]
      exact ⟨rfl, rfl⟩
    · have h := e.planDrop_spec p hp
      exact ⟨(congrArg (fun x : StopLeft => x.rest.rgns) h :), (congrArg (fun x : StopLeft => x.rest.descs) h :)⟩
  exact ⟨Dev.each_same Dev.rgns l Dev.planDrop (fun e p => (hone e p).1) d, Dev.each_same Dev.descs l Dev.planDrop (fun e p => (hone e p).2) d⟩

/-- A REGION_RECLAIM of an active region: it is reclaiming, and no plan of it is left. -/
theorem regionReclaimBody_reclaims (e : Entry) (ref : CmdRef) (c : Nat) (ha : (d.rgn (e.arg 0)).st = .active) {d' : Dev}
    (hd : regionReclaimBody e ref c d = d') :
    d'.rgn (e.arg 0) = { d.rgn (e.arg 0) with st := .reclaiming, cursor := 0, cmd := some ref } ∧
    (∀ j, j ≠ e.arg 0 → d'.rgn j = d.rgn j) ∧ (d.bedOps = [] → d'.descs = d.descs) ∧
    ∀ k, (d'.plan k).st ≠ .none_ → (d'.plan k).region ≠ e.arg 0 := by
  unfold regionReclaimBody at hd
  extract_lets r d1 bs d2 at hd
  rw [if_neg (not_not.2 ha)] at hd
  obtain ⟨hr2, hd2⟩ := d1.each_revoke_kept bs
  obtain ⟨hr3, hd3⟩ := d2.each_planDrop_kept ((d2.plans.filter fun p => p.2.st ≠ .none_ && p.2.region == r).map (·.1))
  rw [hd] at hr3 hd3
  have hrgn : ∀ j, d'.rgn j = d1.rgn j := fun j => congrArg (fun t : Tab Rgn => t.get j {}) (hr3.trans hr2)
  refine ⟨(hrgn r).trans (d.rgn_setRgn_same r _), fun j hj => (hrgn j).trans (d.rgn_setRgn_other r j _ hj),
    fun h => hd3.trans (hd2 h), fun k hk hreg => ?_⟩
  rw [← hd] at hk hreg
  obtain ⟨hnot, hsame⟩ := d2.each_planDrop_left _ k hk
  rw [hsame] at hk hreg
  have hmem : (k, d2.plan k) ∈ d2.plans := tab_mem_of_get d2.plans k {} fun he => hk (congrArg Plan.st he)
  exact hnot (List.mem_map.2 ⟨_, List.mem_filter.2 ⟨hmem, by simp [hk, hreg, r]⟩, rfl⟩)

end

/-! ### The obligation -/

section
variable (s : State) (q : Queue) (e : Entry) (d0 : Dev) (c : Nat) (hs : s.dev.starts q e = some d0) (hc : d0.cmdCheck q e = (0, c)) {d : Dev}
include hs hc

theorem exec_regionCreate (ho : e.opc = 0x22) (hb : regionCreateBody e (d0.cmdRef q e) c d0 = d) :
    exec (.regionCreate q e) s = .next { s with dev := d.finish } := hb ▸ State.devCmd_runs 0x22 q e (regionCreateBody e) s d0 c ho hs hc

theorem exec_regionGrow (ho : e.opc = 0x23) (hb : regionGrowBody e (d0.cmdRef q e) c d0 = d) :
    exec (.regionGrow q e) s = .next { s with dev := d.finish } := hb ▸ State.devCmd_runs 0x23 q e (regionGrowBody e) s d0 c ho hs hc

theorem exec_regionTrim (ho : e.opc = 0x24) (hb : regionTrimBody e (d0.cmdRef q e) c d0 = d) :
    exec (.regionTrim q e) s = .next { s with dev := d.finish } := hb ▸ State.devCmd_runs 0x24 q e (regionTrimBody e) s d0 c ho hs hc

theorem exec_regionReclaim (ho : e.opc = 0x25) (hb : regionReclaimBody e (d0.cmdRef q e) c d0 = d) :
    exec (.regionReclaim q e) s = .next { s with dev := d.finish } := hb ▸ State.devCmd_runs 0x25 q e (regionReclaimBody e) s d0 c ho hs hc

theorem exec_regionSet (ho : e.opc = 0x26) (hb : regionSetBody e (d0.cmdRef q e) c d0 = d) :
    exec (.regionSet q e) s = .next { s with dev := d.finish } := hb ▸ State.devCmd_runs 0x26 q e (regionSetBody e) s d0 c ho hs hc

end

/-- Settles O37: each command by the branches of its body, the extents that enter a region one by one, the bindings that a reclaim revokes
by what a revocation leaves alone. -/
theorem regionCommands : Obligations.RegionCommands := by
  unfold Obligations.RegionCommands
  intro s q e d0 c hs hc ref a n grp r ends
  refine ⟨fun ho hn hg => ⟨fun h => exec_regionCreate s q e d0 c hs hc ho (regionCreateBody_full e ref c d0 hn hg h),
    fun k hk hf hb => ⟨fun h => exec_regionCreate s q e d0 c hs hc ho (regionCreateBody_ids e ref c d0 hn hg k hk hf hb h),
      fun ids ht => ⟨fun h => exec_regionCreate s q e d0 c hs hc ho (regionCreateBody_homes e ref c d0 hn hg k hk hf hb ids ht h),
        fun d' h hr => ?_⟩⟩⟩, fun ho hn hz hg => ⟨fun h => exec_regionGrow s q e d0 c hs hc ho (regionGrowBody_state e ref c d0 hn hz hg h),
    fun ha h => exec_regionGrow s q e d0 c hs hc ho (regionGrowBody_part e ref c d0 hn hz hg ha h), fun ids d' ha hp hcnt ht h hr => ?_⟩,
    fun ho hn => ⟨fun h => exec_regionTrim s q e d0 c hs hc ho (regionTrimBody_state e ref c d0 hn h),
      fun ha hl => ⟨fun h => exec_regionTrim s q e d0 c hs hc ho (regionTrimBody_bound e ref c d0 hn ha hl h), fun h hro => ?_⟩⟩,
    fun ho => ⟨fun h => exec_regionReclaim s q e d0 c hs hc ho (if_pos h), fun ha => ?_⟩,
    fun ho hz => ?_⟩
  · exact ⟨_, exec_regionCreate s q e d0 c hs hc ho (regionCreateBody_creates e ref c d0 hn hg k hk hf hb ids ht h hr),
      d0.entered_spec k grp (bitOf a 13) (mapList ids) k (createdRgn e ids) h rfl⟩
  · obtain ⟨hother, hmem, -, hthis, -, -⟩ := d0.entered_spec r grp false (mapList ids) r
      { d'.rgn r with runs := joinRuns ((d0.rgn r).runs ++ ids) } h rfl
    have hr' : d'.rgn r = d0.rgn r := (congrArg (fun x : Dev => x.rgn r) (d0.enter_spec r grp false (mapList ids) h).1 :)
    refine ⟨_, exec_regionGrow s q e d0 c hs hc ho (regionGrowBody_grows e ref c d0 hn hz hg ha hp hcnt ht h hr), hmem, ?_, hother⟩
    exact hthis.trans (congrArg (fun g : Rgn => { g with runs := joinRuns ((d0.rgn r).runs ++ ids) }) hr')
  · exact ⟨_, exec_regionTrim s q e d0 c hs hc ho (regionTrimBody_trims e ref c d0 hn ha hl h hro), rfl,
      fun j hj => d0.rgn_setRgn_other a j _ hj, d0.rgn_setRgn_same a _⟩
  · exact ⟨_, exec_regionReclaim s q e d0 c hs hc ho rfl, regionReclaimBody_reclaims d0 e ref c ha rfl⟩
  · exact ⟨fun h => exec_regionSet s q e d0 c hs hc ho (regionSetBody_state e ref c d0 hz h),
      fun ha h => exec_regionSet s q e d0 c hs hc ho (regionSetBody_clash e ref c d0 hz ha h),
      fun ha h => ⟨_, exec_regionSet s q e d0 c hs hc ho (regionSetBody_sets e ref c d0 hz ha h), rfl, d0.rgn_setRgn_same r _,
        fun j hj => d0.rgn_setRgn_other r j _ hj⟩⟩

end Sys2Proof.Machine

/-! PROOF. What leaves memory and the device's state alone: every function of the device that neither stores a granule nor fails the
device, lemma by lemma in the order in which they call each other. -/
namespace Sys2Proof.Machine

@[simp] theorem Dev.core_each {α : Type} (d : Dev) (l : List α) (f : Dev → α → Dev)
    (hf : ∀ e x, (f e x).mem = e.mem ∧ (f e x).state = e.state) : (d.each l f).mem = d.mem ∧ (d.each l f).state = d.state :=
  ⟨Dev.each_same Dev.mem l f (fun e x => (hf e x).1) d, Dev.each_same Dev.state l f (fun e x => (hf e x).2) d⟩

@[simp] theorem Dev.core_foldl {α : Type} (d : Dev) (l : List α) (f : Dev → α → Dev)
    (hf : ∀ e x, (f e x).mem = e.mem ∧ (f e x).state = e.state) : (l.foldl f d).mem = d.mem ∧ (l.foldl f d).state = d.state :=
  Dev.core_each d l f hf

@[simp] theorem Dev.core_elim {α : Type} (d : Dev) (o : Option α) (f : α → Dev)
    (hf : ∀ x, (f x).mem = d.mem ∧ (f x).state = d.state) : (o.elim d f).mem = d.mem ∧ (o.elim d f).state = d.state := by
  cases o with
  | none => exact ⟨rfl, rfl⟩
  | some x => exact hf x

@[simp] theorem Dev.mem_ite (c : Prop) [Decidable c] (d e : Dev) : (if c then d else e).mem = if c then d.mem else e.mem :=
  apply_ite Dev.mem c d e

@[simp] theorem Dev.state_ite (c : Prop) [Decidable c] (d e : Dev) : (if c then d else e).state = if c then d.state else e.state :=
  apply_ite Dev.state c d e

theorem Dev.core_trans {c d e : Dev} (h : d.mem = c.mem ∧ d.state = c.state) (k : e.mem = d.mem ∧ e.state = d.state) :
    e.mem = c.mem ∧ e.state = c.state :=
  ⟨k.1.trans h.1, k.2.trans h.2⟩

@[simp] theorem Dev.core_setRing (d : Dev) (q : Queue) (r : Ring) :
    (d.setRing q r).mem = d.mem ∧ (d.setRing q r).state = d.state := by
  unfold Dev.setRing
  split <;> simp

@[simp] theorem Dev.core_sendWord (d : Dev) (p : Nat) (a b : FlitBits) :
    (d.sendWord p a b).mem = d.mem ∧ (d.sendWord p a b).state = d.state := ⟨rfl, rfl⟩

@[simp] theorem Dev.core_sendFlits (p : Nat) (l : List FlitBits) (d : Dev) :
    (d.sendFlits p l).mem = d.mem ∧ (d.sendFlits p l).state = d.state := by
  induction d, l using Dev.sendFlits.induct p with
  | case1 d => exact ⟨rfl, rfl⟩
  | case2 d a => simp [Dev.sendFlits]
  | case3 d a b t ih => simp [Dev.sendFlits, ih]

@[simp] theorem Dev.core_txPump (d : Dev) (p : Nat) :
    (d.txPump p).mem = d.mem ∧ (d.txPump p).state = d.state := by simp [Dev.txPump]

@[simp] theorem Dev.core_ctlTake (p n : Nat) (d : Dev) : (d.ctlTake p n).mem = d.mem ∧ (d.ctlTake p n).state = d.state := by
  induction n generalizing d with
  | zero => exact ⟨rfl, rfl⟩
  | succ n ih =>
    unfold Dev.ctlTake
    dsimp only
    split
    · simp
    · split <;> simp [ih]

@[simp] theorem Dev.core_ctlSend (d : Dev) (p n : Nat) :
    (d.ctlSend p n).mem = d.mem ∧ (d.ctlSend p n).state = d.state := by simp [Dev.ctlSend]

@[simp] theorem Dev.core_msg (d : Dev) (p cls : Nat) (g : List Gran) :
    (d.msg p cls g).mem = d.mem ∧ (d.msg p cls g).state = d.state := by simp [Dev.msg]

@[simp] theorem Dev.core_cqWinPut (d : Dev) (q : Queue) (e : Gran × Gran) :
    (d.cqWinPut q e).mem = d.mem ∧ (d.cqWinPut q e).state = d.state := by simp [Dev.cqWinPut]

@[simp] theorem Dev.core_cqWinFlush (d : Dev) (q : Queue) :
    (d.cqWinFlush q).mem = d.mem ∧ (d.cqWinFlush q).state = d.state := by simp [Dev.cqWinFlush]

@[simp] theorem Dev.core_cqWait (d : Dev) (q : Queue) (e : Gran × Gran) (notify : Bool) :
    (d.cqWait q e notify).mem = d.mem ∧ (d.cqWait q e notify).state = d.state := by simp [Dev.cqWait]

@[simp] theorem Dev.core_completeNow (d : Dev) (c : CmdRef) (status r0 r1 : Nat) (payload : Gran) (final : Bool) :
    (d.completeNow c status r0 r1 payload final).mem = d.mem ∧ (d.completeNow c status r0 r1 payload final).state = d.state := by
  unfold Dev.completeNow
  dsimp only
  split <;> simp

@[simp] theorem Dev.core_complete (d : Dev) (c : CmdRef) (status r0 r1 : Nat) (payload : Gran) (final : Bool) :
    (d.complete c status r0 r1 payload final).mem = d.mem ∧ (d.complete c status r0 r1 payload final).state = d.state := by simp [Dev.complete]

@[simp] theorem Dev.core_evCount (d : Dev) (p : Nat) :
    (d.evCount p).mem = d.mem ∧ (d.evCount p).state = d.state := ⟨rfl, rfl⟩

@[simp] theorem Dev.core_evPut (d : Dev) (p g0 : Nat) (g1 : Gran) :
    (d.evPut p g0 g1).mem = d.mem ∧ (d.evPut p g0 g1).state = d.state := by simp [Dev.evPut]

@[simp] theorem Dev.core_evDrop (d : Dev) (p : Nat) :
    (d.evDrop p).mem = d.mem ∧ (d.evDrop p).state = d.state := ⟨rfl, rfl⟩

@[simp] theorem Dev.core_evSend (d : Dev) (p g0 : Nat) (g1 : Gran) :
    (d.evSend p g0 g1).mem = d.mem ∧ (d.evSend p g0 g1).state = d.state := by simp [Dev.evSend]

@[simp] theorem Dev.core_evGo (d : Dev) (dst : Option Nat) (g0 : Nat) (g1 : Gran) :
    (d.evGo dst g0 g1).mem = d.mem ∧ (d.evGo dst g0 g1).state = d.state := by
  unfold Dev.evGo
  split
  · simp
  · split <;> simp

@[simp] theorem Dev.core_event (d : Dev) (dst : Option Nat) (code ctx data : Nat) :
    (d.event dst code ctx data).mem = d.mem ∧ (d.event dst code ctx data).state = d.state := by simp [Dev.event]

@[simp] theorem Dev.core_pressureCheck (d : Dev) (s : Nat) :
    (d.pressureCheck s).mem = d.mem ∧ (d.pressureCheck s).state = d.state := by
  unfold Dev.pressureCheck
  split <;> simp

@[simp] theorem Dev.core_pressureAll (d : Dev) :
    d.pressureAll.mem = d.mem ∧ d.pressureAll.state = d.state := by simp [Dev.pressureAll]

@[simp] theorem Dev.core_cacheDrop (d : Dev) (t : Nat) (b : Bool) :
    (d.cacheDrop t b).mem = d.mem ∧ (d.cacheDrop t b).state = d.state := ⟨rfl, rfl⟩

@[simp] theorem Dev.core_slotIdle (d : Dev) (t : Nat) (b : Bool) :
    (d.slotIdle t b).mem = d.mem ∧ (d.slotIdle t b).state = d.state := by
  unfold Dev.slotIdle
  dsimp only
  repeat' split
  all_goals simp

@[simp] theorem Dev.core_storedDec (d : Dev) (t : Nat) (b : Bool) (n : Nat) :
    (d.storedDec t b n).mem = d.mem ∧ (d.storedDec t b n).state = d.state := by simp [Dev.storedDec]

@[simp] theorem Dev.core_storedGone (d : Dev) (e : Desc) :
    (d.storedGone e).mem = d.mem ∧ (d.storedGone e).state = d.state := by simp [Dev.storedGone]

@[simp] theorem Dev.core_setPoison (d : Dev) (i : Nat) (p : Option Poison) :
    (d.setPoison i p).mem = d.mem ∧ (d.setPoison i p).state = d.state := ⟨rfl, rfl⟩

@[simp] theorem Dev.core_poisonRelease (d : Dev) (x : Nat) :
    (d.poisonRelease x).mem = d.mem ∧ (d.poisonRelease x).state = d.state := by simp [Dev.poisonRelease]

@[simp] theorem Dev.core_jRetire (d : Dev) (grp x : Nat) :
    (d.jRetire grp x).mem = d.mem ∧ (d.jRetire grp x).state = d.state := ⟨rfl, rfl⟩

@[simp] theorem Dev.core_jAppend (d : Dev) (grp : Nat) (r : JRec) :
    (d.jAppend grp r).mem = d.mem ∧ (d.jAppend grp r).state = d.state := ⟨rfl, rfl⟩

@[simp] theorem Dev.core_extFree (d : Dev) (x : Nat) :
    (d.extFree x).mem = d.mem ∧ (d.extFree x).state = d.state := by
  unfold Dev.extFree
  dsimp only
  repeat' split
  all_goals simp

@[simp] theorem Dev.core_trimDue (d : Dev) (r : Nat) :
    (d.trimDue r).mem = d.mem ∧ (d.trimDue r).state = d.state := by simp [Dev.trimDue]

@[simp] theorem Dev.core_completeOpt (d : Dev) (c : Option CmdRef) (status r0 r1 : Nat) :
    (d.completeOpt c status r0 r1).mem = d.mem ∧ (d.completeOpt c status r0 r1).state = d.state := by
  unfold Dev.completeOpt
  split <;> simp

@[simp] theorem Dev.core_planDone (d : Dev) (p : Nat) :
    (d.planDone p).mem = d.mem ∧ (d.planDone p).state = d.state := by simp [Dev.planDone]

@[simp] theorem Dev.core_planSlots (d : Dev) (p : Nat) :
    (d.planSlots p).mem = d.mem ∧ (d.planSlots p).state = d.state := by simp [Dev.planSlots]

@[simp] theorem Dev.core_poisonBit (d : Dev) (x : Nat) :
    (d.poisonBit x).mem = d.mem ∧ (d.poisonBit x).state = d.state := by simp [Dev.poisonBit]

@[simp] theorem Dev.core_mirrorDrop (d : Dev) (x : Nat) :
    (d.mirrorDrop x).mem = d.mem ∧ (d.mirrorDrop x).state = d.state := by simp [Dev.mirrorDrop]

@[simp] theorem Dev.core_logPut (d : Dev) (die e : Nat) :
    (d.logPut die e).mem = d.mem ∧ (d.logPut die e).state = d.state := by simp [Dev.logPut]

@[simp] theorem Dev.core_log (d : Dev) (x code : Nat) (lasting : Bool) (detail : Nat) :
    (d.log x code lasting detail).mem = d.mem ∧ (d.log x code lasting detail).state = d.state := by simp [Dev.log]

@[simp] theorem Dev.core_downCause (d : Dev) (p cause : Nat) :
    (d.downCause p cause).mem = d.mem ∧ (d.downCause p cause).state = d.state := ⟨rfl, rfl⟩

@[simp] theorem Dev.core_refsDec (d : Dev) (t : Nat) (b : Bool) (n : Nat) :
    (d.refsDec t b n).mem = d.mem ∧ (d.refsDec t b n).state = d.state := by simp [Dev.refsDec]

@[simp] theorem Dev.core_refsRelease (d : Dev) (l : List (Nat × Nat)) :
    (d.refsRelease l).mem = d.mem ∧ (d.refsRelease l).state = d.state := by simp [Dev.refsRelease]

@[simp] theorem Dev.core_discharge (d : Dev) (m : Nat) (l : List (Nat × Nat)) :
    (d.discharge m l).mem = d.mem ∧ (d.discharge m l).state = d.state := by simp [Dev.discharge]

@[simp] theorem Dev.core_fmEnd (d : Dev) (p : Nat) :
    (d.fmEnd p).mem = d.mem ∧ (d.fmEnd p).state = d.state := by simp [Dev.fmEnd]

@[simp] theorem Dev.core_portTimerZero (d : Dev) (p : Nat) :
    (d.portTimerZero p).mem = d.mem ∧ (d.portTimerZero p).state = d.state := ⟨rfl, rfl⟩

@[simp] theorem Dev.core_olyClear (d : Dev) (p : Nat) :
    (d.olyClear p).mem = d.mem ∧ (d.olyClear p).state = d.state := ⟨rfl, rfl⟩

@[simp] theorem Dev.core_portResetEffects (d : Dev) (p : Nat) :
    (d.portResetEffects p).mem = d.mem ∧ (d.portResetEffects p).state = d.state := by simp [Dev.portResetEffects]

@[simp] theorem Dev.core_failRun (d : Dev) (b st : Nat) :
    (d.failRun b st).mem = d.mem ∧ (d.failRun b st).state = d.state := ⟨rfl, rfl⟩

@[simp] theorem Dev.core_pageRelease (d : Dev) (k p : Nat) :
    (d.pageRelease k p).mem = d.mem ∧ (d.pageRelease k p).state = d.state := by simp [Dev.pageRelease]

@[simp] theorem Dev.core_clayRelease (d : Dev) (c : Nat) :
    (d.clayRelease c).mem = d.mem ∧ (d.clayRelease c).state = d.state := by simp [Dev.clayRelease]

@[simp] theorem Dev.core_fresh (d : Dev) (w : Nat) : (d.fresh w).2.mem = d.mem ∧ (d.fresh w).2.state = d.state := ⟨rfl, rfl⟩

@[simp] theorem Dev.core_accrue (d : Dev) (i : Nat) :
    (d.accrue i).mem = d.mem ∧ (d.accrue i).state = d.state := by
  unfold Dev.accrue
  split <;> simp

@[simp] theorem Dev.core_updReq (d : Dev) (id : Nat) (f : Req → Req) :
    (d.updReq id f).mem = d.mem ∧ (d.updReq id f).state = d.state := ⟨rfl, rfl⟩

@[simp] theorem Dev.core_creditBack (d : Dev) (id n : Nat) :
    (d.creditBack id n).mem = d.mem ∧ (d.creditBack id n).state = d.state := by
  unfold Dev.creditBack
  split <;> simp

@[simp] theorem Dev.core_release (d : Dev) (id : Nat) :
    (d.release id).mem = d.mem ∧ (d.release id).state = d.state := by
  unfold Dev.release
  split <;> simp

@[simp] theorem Dev.core_failReq (d : Dev) (id st : Nat) :
    (d.failReq id st).mem = d.mem ∧ (d.failReq id st).state = d.state := by simp [Dev.failReq]

@[simp] theorem Dev.core_dropMove (d : Dev) (x : Nat) :
    (d.dropMove x).mem = d.mem ∧ (d.dropMove x).state = d.state := ⟨rfl, rfl⟩

@[simp] theorem Dev.core_abandon (d : Dev) (x : Nat) :
    (d.abandon x).mem = d.mem ∧ (d.abandon x).state = d.state := by
  unfold Dev.abandon
  dsimp only
  repeat' split
  all_goals simp

@[simp] theorem Dev.core_raiseShortfall (d : Dev) (s : Nat) :
    (d.raiseShortfall s).mem = d.mem ∧ (d.raiseShortfall s).state = d.state := by simp [Dev.raiseShortfall]

@[simp] theorem Dev.core_setK (d : Dev) (s k cause : Nat) :
    (d.setK s k cause).mem = d.mem ∧ (d.setK s k cause).state = d.state := by simp [Dev.setK]

@[simp] theorem Dev.core_faultPin (d : Dev) :
    d.faultPin.mem = d.mem ∧ d.faultPin.state = d.state := by simp [Dev.faultPin]

@[simp] theorem Dev.core_safety (d : Dev) (k code data : Nat) :
    (d.safety k code data).mem = d.mem ∧ (d.safety k code data).state = d.state := by simp [Dev.safety]

@[simp] theorem Dev.core_trainLog (d : Dev) (i c g : Nat) (lasting : Bool) :
    (d.trainLog i c g lasting).mem = d.mem ∧ (d.trainLog i c g lasting).state = d.state := by simp [Dev.trainLog]

@[simp] theorem Dev.core_burst (d : Dev) (i : Nat) (p : Piece) :
    (d.burst i p).mem = d.mem ∧ (d.burst i p).state = d.state := by
  unfold Dev.burst
  dsimp only
  split <;> simp

@[simp] theorem Dev.core_writeOut (d : Dev) (i : Nat) :
    (d.writeOut i).mem = d.mem ∧ (d.writeOut i).state = d.state := by simp [Dev.writeOut]

@[simp] theorem Dev.core_clockStop (d : Dev) (i : Nat) (st : InstSt) :
    (d.clockStop i st).mem = d.mem ∧ (d.clockStop i st).state = d.state := by simp [Dev.clockStop]

@[simp] theorem Dev.core_rateMark (d : Dev) (x : Nat) :
    (d.rateMark x).mem = d.mem ∧ (d.rateMark x).state = d.state := by simp [Dev.rateMark]

@[simp] theorem Dev.core_countFence (d : Dev) (x cause : Nat) :
    (d.countFence x cause).mem = d.mem ∧ (d.countFence x cause).state = d.state := by simp [Dev.countFence]

@[simp] theorem Dev.core_portFail (d : Dev) (p cause domCause : Nat) :
    (d.portFail p cause domCause).mem = d.mem ∧ (d.portFail p cause domCause).state = d.state := by simp [Dev.portFail]

@[simp] theorem Dev.core_loessFence (d : Dev) (j : Nat) :
    (d.loessFence j).mem = d.mem ∧ (d.loessFence j).state = d.state := by simp [Dev.loessFence]

@[simp] theorem Dev.core_toSelfRefresh (d : Dev) (i : Nat) :
    (d.toSelfRefresh i).mem = d.mem ∧ (d.toSelfRefresh i).state = d.state := by simp [Dev.toSelfRefresh]

@[simp] theorem Dev.core_cplFlush (d : Dev) :
    d.cplFlush.mem = d.mem ∧ d.cplFlush.state = d.state := by simp [Dev.cplFlush]

@[simp] theorem Dev.core_evFlush (d : Dev) :
    d.evFlush.mem = d.mem ∧ d.evFlush.state = d.state := by simp [Dev.evFlush]

@[simp] theorem Dev.core_resume (d : Dev) :
    d.resume.mem = d.mem ∧ d.resume.state = d.state := by simp [Dev.resume]

@[simp] theorem Dev.core_updEnd (d : Dev) (ref : CmdRef) (st r0 : Nat) :
    (d.updEnd ref st r0).mem = d.mem ∧ (d.updEnd ref st r0).state = d.state := by simp [Dev.updEnd]

@[simp] theorem Dev.core_updAbandon (d : Dev) (reason : Nat) :
    (d.updAbandon reason).mem = d.mem ∧ (d.updAbandon reason).state = d.state := by
  unfold Dev.updAbandon
  split <;> simp

@[simp] theorem Dev.core_freezeStart (d : Dev) :
    d.freezeStart.mem = d.mem ∧ d.freezeStart.state = d.state := ⟨rfl, rfl⟩

@[simp] theorem Dev.core_freezeCheck (d : Dev) :
    d.freezeCheck.mem = d.mem ∧ d.freezeCheck.state = d.state := by
  unfold Dev.freezeCheck
  split <;> simp

@[simp] theorem Dev.core_poisonAdd (d : Dev) (p : Poison) :
    (d.poisonAdd p).mem = d.mem ∧ (d.poisonAdd p).state = d.state := by
  unfold Dev.poisonAdd
  split <;> simp

@[simp] theorem Dev.core_gradeOnce (d : Dev) (a : Agent) (x k : Nat) :
    (d.gradeOnce a x k).mem = d.mem ∧ (d.gradeOnce a x k).state = d.state := by simp [Dev.gradeOnce]

@[simp] theorem Dev.core_gradeLost (d : Dev) (a : Agent) (x k : Nat) (h : Home) (mirror : Bool) :
    (d.gradeLost a x k h mirror).mem = d.mem ∧ (d.gradeLost a x k h mirror).state = d.state := by simp [Dev.gradeLost]

@[simp] theorem Dev.core_dropLocations (d : Dev) (s : Nat) (gas : List Nat) :
    (d.dropLocations s gas).mem = d.mem ∧ (d.dropLocations s gas).state = d.state := by simp [Dev.dropLocations]

@[simp] theorem Dev.core_mirrorPoison (d : Dev) (x k : Nat) (h : Home) :
    (d.mirrorPoison x k h).mem = d.mem ∧ (d.mirrorPoison x k h).state = d.state := by simp [Dev.mirrorPoison]

@[simp] theorem Dev.core_storedInc (d : Dev) (t : Nat) (b : Bool) (n : Nat) :
    (d.storedInc t b n).mem = d.mem ∧ (d.storedInc t b n).state = d.state := ⟨rfl, rfl⟩

@[simp] theorem Dev.core_queueMove (d : Dev) (m : Move) :
    (d.queueMove m).mem = d.mem ∧ (d.queueMove m).state = d.state := ⟨rfl, rfl⟩

@[simp] theorem Dev.core_planHome (d : Dev) (p : Nat) :
    (d.planHome p).mem = d.mem ∧ (d.planHome p).state = d.state := by simp [Dev.planHome]

@[simp] theorem Dev.core_attachRefuse (d : Dev) (p code : Nat) :
    (d.attachRefuse p code).mem = d.mem ∧ (d.attachRefuse p code).state = d.state := by simp [Dev.attachRefuse]

@[simp] theorem Dev.core_proof (d : Dev) (p : Nat) (pl : List Byte) (t : Nat) :
    (d.proof p pl t).mem = d.mem ∧ (d.proof p pl t).state = d.state := by
  unfold Dev.proof
  dsimp only
  repeat' split
  all_goals simp

@[simp] theorem Dev.core_hello (d : Dev) (p : Nat) (endorsed : Bool) (pl : List Byte) (locked : Bool) :
    (d.hello p endorsed pl locked).mem = d.mem ∧ (d.hello p endorsed pl locked).state = d.state := by
  simp [Dev.hello]

@[simp] theorem Dev.core_msgDo (d : Dev) (m : HeldMsg) :
    (d.msgDo m).mem = d.mem ∧ (d.msgDo m).state = d.state := by simp [Dev.msgDo]

@[simp] theorem Dev.core_msgsServe (d : Dev) :
    d.msgsServe.mem = d.mem ∧ d.msgsServe.state = d.state := by simp [Dev.msgsServe]

@[simp] theorem Dev.core_rejectLoop (q : Queue) (n : Nat) (d : Dev) :
    (d.rejectLoop q n).mem = d.mem ∧ (d.rejectLoop q n).state = d.state := by
  induction n generalizing d with
  | zero => exact ⟨rfl, rfl⟩
  | succ n ih =>
    unfold Dev.rejectLoop
    split
    · simp
    · simp [ih]

@[simp] theorem Dev.core_takeEntry (d : Dev) (q : Queue) (e : Entry) (started : Bool) :
    (d.takeEntry q e started).mem = d.mem ∧ (d.takeEntry q e started).state = d.state := by simp [Dev.takeEntry]

@[simp] theorem Dev.core_integrityFault (d : Dev) (code detail : Nat) :
    (d.integrityFault code detail).mem = d.mem ∧ (d.integrityFault code detail).state = d.state := by simp [Dev.integrityFault]

@[simp] theorem Dev.core_dupFail (d : Dev) (a : Agent) (x : Nat) :
    (d.dupFail a x).mem = d.mem ∧ (d.dupFail a x).state = d.state := by simp [Dev.dupFail]

@[simp] theorem Dev.core_weightPoison (d : Dev) (x k : Nat) :
    (d.weightPoison x k).mem = d.mem ∧ (d.weightPoison x k).state = d.state := by
  unfold Dev.weightPoison
  dsimp only
  split <;> simp

@[simp] theorem Dev.core_promoted (d : Dev) (x : Nat) :
    (d.promoted x).mem = d.mem ∧ (d.promoted x).state = d.state := ⟨rfl, rfl⟩

@[simp] theorem Dev.core_queuePromote (d : Dev) (x : Nat) :
    (d.queuePromote x).mem = d.mem ∧ (d.queuePromote x).state = d.state := by simp [Dev.queuePromote]

@[simp] theorem Dev.core_heatUp (d : Dev) (x : Nat) :
    (d.heatUp x).mem = d.mem ∧ (d.heatUp x).state = d.state := by
  unfold Dev.heatUp
  split <;> simp

@[simp] theorem Dev.core_ringFault (d : Dev) (c ring st : Nat) :
    (d.ringFault c ring st).mem = d.mem ∧ (d.ringFault c ring st).state = d.state := by simp [Dev.ringFault]

@[simp] theorem Dev.core_reserve (d : Dev) (r : Req) :
    (d.reserve r).mem = d.mem ∧ (d.reserve r).state = d.state := ⟨rfl, rfl⟩

@[simp] theorem Dev.core_windowAct (d : Dev) (r : Req) :
    (d.windowAct r).mem = d.mem ∧ (d.windowAct r).state = d.state := by simp [Dev.windowAct]

@[simp] theorem Dev.core_pubGo (d : Dev) (q : Req) (c a : Nat) (b n : Nat) (i j : Nat) :
    (d.pubGo q c a b n i j).mem = d.mem ∧ (d.pubGo q c a b n i j).state = d.state := by simp [Dev.pubGo]

@[simp] theorem Dev.core_pubDue (d : Dev) (r : Req) :
    (d.pubDue r).mem = d.mem ∧ (d.pubDue r).state = d.state := by
  unfold Dev.pubDue
  split <;> simp

@[simp] theorem Dev.core_granted (d : Dev) (r : Req) :
    (d.granted r).mem = d.mem ∧ (d.granted r).state = d.state := by simp [Dev.granted]

@[simp] theorem Dev.core_reserveAll (l : List Req) (d : Dev) :
    (d.reserveAll l).mem = d.mem ∧ (d.reserveAll l).state = d.state := by
  induction l generalizing d with
  | nil => exact ⟨rfl, rfl⟩
  | cons r t ih =>
    unfold Dev.reserveAll
    split
    · dsimp only
      split <;> simp [ih]
    · simp

theorem Dev.core_lenChanged (d : Dev) {r : Req} {e : Dev} (h : d.lenChanged r = some e) : e.mem = d.mem ∧ e.state = d.state := by
  unfold Dev.lenChanged at h
  dsimp only at h
  split at h
  · cases h
  · split at h
    · cases h
      simp
    · cases h
      simp

@[simp] theorem Dev.core_refsInc (d : Dev) (t : Nat) (b : Bool) (n : Nat) :
    (d.refsInc t b n).mem = d.mem ∧ (d.refsInc t b n).state = d.state := ⟨rfl, rfl⟩

@[simp] theorem Dev.core_refsTake (d : Dev) (l : List (Nat × Nat)) :
    (d.refsTake l).mem = d.mem ∧ (d.refsTake l).state = d.state := by simp [Dev.refsTake]

@[simp] theorem Dev.core_carryPoison (d : Dev) (x : Nat) (_e : Desc) (e' : Desc) (h : Home) (h' : Home) (written : List Nat) :
    (d.carryPoison x _e e' h h' written).mem = d.mem ∧ (d.carryPoison x _e e' h h' written).state = d.state := by simp [Dev.carryPoison]

@[simp] theorem Dev.core_charge (d : Dev) (m : Nat) (l : List (Nat × Nat)) :
    (d.charge m l).mem = d.mem ∧ (d.charge m l).state = d.state := by simp [Dev.charge]

@[simp] theorem Dev.core_startPark (d : Dev) (c : Nat) :
    (d.startPark c).mem = d.mem ∧ (d.startPark c).state = d.state := by simp [Dev.startPark]

@[simp] theorem Dev.core_parkDue (d : Dev) (c : Nat) :
    (d.parkDue c).mem = d.mem ∧ (d.parkDue c).state = d.state := by simp [Dev.parkDue]

theorem Dev.core_takeArea (d : Dev) {c : Nat} {e : Dev} (h : d.takeArea c = some e) : e.mem = d.mem ∧ e.state = d.state := by
  unfold Dev.takeArea at h
  dsimp only at h
  split at h
  · cases h
    exact ⟨rfl, rfl⟩
  · split at h
    · cases h
      simp
    · cases h

theorem Dev.core_startUnpark (d : Dev) {c slot : Nat} {e : Dev} (h : d.startUnpark c slot = some e) :
    e.mem = d.mem ∧ e.state = d.state := by
  unfold Dev.startUnpark at h
  dsimp only at h
  split at h
  · obtain ⟨d2, hd2, rfl⟩ := Option.map_eq_some_iff.mp h
    have := Dev.core_takeArea _ hd2
    simp [this]
  · cases h
    simp

@[simp] theorem Dev.core_stamp (d : Dev) (c : Nat) :
    (d.stamp c).mem = d.mem ∧ (d.stamp c).state = d.state := ⟨rfl, rfl⟩

@[simp] theorem Dev.core_createIn (d : Dev) (p slot : Nat) (ref : CmdRef) (e : Entry) :
    (d.createIn p slot ref e).mem = d.mem ∧ (d.createIn p slot ref e).state = d.state := by
  unfold Dev.createIn
  split <;> simp

theorem Dev.core_serveOne (d : Dev) {w : SlotWait} {slot : Nat} {e : Dev} (h : d.serveOne w slot = some e) :
    e.mem = d.mem ∧ e.state = d.state := by
  unfold Dev.serveOne at h
  split at h
  · exact d.core_startUnpark h
  · cases h
    simp
  · cases h
    exact ⟨rfl, rfl⟩

@[simp] theorem Dev.core_dropWait (d : Dev) (w : SlotWait) :
    (d.dropWait w).mem = d.mem ∧ (d.dropWait w).state = d.state := ⟨rfl, rfl⟩

@[simp] theorem Dev.core_serveWait (d : Dev) (w : SlotWait) : (d.serveWait w).mem = d.mem ∧ (d.serveWait w).state = d.state := by
  unfold Dev.serveWait
  split
  · simp
  · split
    · split
      · next e he =>
        have := d.core_serveOne he
        simp [this]
      · simp
    · split
      · simp
      · split <;> simp

@[simp] theorem Dev.core_serveSlots (d : Dev) (p : Nat) :
    (d.serveSlots p).mem = d.mem ∧ (d.serveSlots p).state = d.state := by simp [Dev.serveSlots]

@[simp] theorem Dev.core_attachDone (d : Dev) (p : Nat) :
    (d.attachDone p).mem = d.mem ∧ (d.attachDone p).state = d.state := by
  unfold Dev.attachDone
  dsimp only
  repeat' split
  all_goals simp

@[simp] theorem Dev.core_pllLose (d : Dev) (p : Nat) :
    (d.pllLose p).mem = d.mem ∧ (d.pllLose p).state = d.state := by simp [Dev.pllLose]

@[simp] theorem Dev.core_pausesRestart (d : Dev) (i : Nat) :
    (d.pausesRestart i).mem = d.mem ∧ (d.pausesRestart i).state = d.state := ⟨rfl, rfl⟩

@[simp] theorem Dev.core_clockStart (d : Dev) (i : Nat) :
    (d.clockStart i).mem = d.mem ∧ (d.clockStart i).state = d.state := by simp [Dev.clockStart]

@[simp] theorem Dev.core_sendIdle (d : Dev) (p : Nat) (nak rreq : Bool) :
    (d.sendIdle p nak rreq).mem = d.mem ∧ (d.sendIdle p nak rreq).state = d.state := ⟨rfl, rfl⟩

@[simp] theorem Dev.core_enterRetrain (d : Dev) (p : Nat) (ask : Bool) :
    (d.enterRetrain p ask).mem = d.mem ∧ (d.enterRetrain p ask).state = d.state := by simp [Dev.enterRetrain]

@[simp] theorem Dev.core_portDown (d : Dev) (p cause : Nat) (imm : Bool) :
    (d.portDown p cause imm).mem = d.mem ∧ (d.portDown p cause imm).state = d.state := by simp [Dev.portDown]

@[simp] theorem Dev.core_rateCluster (d : Dev) (k c : Nat) :
    (d.rateCluster k c).mem = d.mem ∧ (d.rateCluster k c).state = d.state := by simp [Dev.rateCluster]

@[simp] theorem Dev.core_rateWindow (d : Dev) (die : Nat) (counts : List Nat) (dc : Nat) :
    (d.rateWindow die counts dc).mem = d.mem ∧ (d.rateWindow die counts dc).state = d.state := by simp [Dev.rateWindow]

@[simp] theorem Dev.core_clrMin (d : Dev) (k : Nat) :
    (d.clrMin k).mem = d.mem ∧ (d.clrMin k).state = d.state := ⟨rfl, rfl⟩

@[simp] theorem Dev.core_stageEnd (d : Dev) (r : Nat × Nat) :
    (d.stageEnd r).mem = d.mem ∧ (d.stageEnd r).state = d.state := ⟨rfl, rfl⟩

@[simp] theorem Dev.core_stageBusy (d : Dev) (cmd len : Nat) (buf : List Gran) :
    (d.stageBusy cmd len buf).mem = d.mem ∧ (d.stageBusy cmd len buf).state = d.state := ⟨rfl, rfl⟩

@[simp] theorem Dev.core_flashErase (d : Dev) (a n : Nat) :
    (d.flashErase a n).mem = d.mem ∧ (d.flashErase a n).state = d.state := ⟨rfl, rfl⟩

@[simp] theorem Dev.core_stagePut (d : Dev) (l : List Gran) :
    (d.stagePut l).mem = d.mem ∧ (d.stagePut l).state = d.state := by simp [Dev.stagePut]

@[simp] theorem Dev.core_stageCmd (d : Dev) (x : Sec) (cmd len : Nat) :
    (d.stageCmd x cmd len).mem = d.mem ∧ (d.stageCmd x cmd len).state = d.state := by
  unfold Dev.stageCmd
  dsimp only
  repeat' split
  all_goals simp

@[simp] theorem Dev.core_qosJudge (d : Dev) (x : Sec) :
    (d.qosJudge x).mem = d.mem ∧ (d.qosJudge x).state = d.state := by
  unfold Dev.qosJudge
  split <;> simp

@[simp] theorem Dev.core_ceilRaise (d : Dev) (s : Nat) :
    (d.ceilRaise s).mem = d.mem ∧ (d.ceilRaise s).state = d.state := by simp [Dev.ceilRaise]

@[simp] theorem Dev.core_qosAdopt (d : Dev) :
    d.qosAdopt.mem = d.mem ∧ d.qosAdopt.state = d.state := by
  unfold Dev.qosAdopt
  split <;> simp

@[simp] theorem Dev.core_updCmd (d : Dev) (c : Option CmdRef) (f : Fetched → Fetched) :
    (d.updCmd c f).mem = d.mem ∧ (d.updCmd c f).state = d.state := by
  unfold Dev.updCmd
  split <;> simp

@[simp] theorem Dev.core_moveFail (d : Dev) (m : Move) :
    (d.moveFail m).mem = d.mem ∧ (d.moveFail m).state = d.state := by simp [Dev.moveFail]

@[simp] theorem Dev.core_moveStart (d : Dev) (j : Nat) (m : Move) (dst : Home) (grp : Nat) :
    (d.moveStart j m dst grp).mem = d.mem ∧ (d.moveStart j m dst grp).state = d.state := by simp [Dev.moveStart]

@[simp] theorem Dev.core_acquire (j : Nat) (l pre : List Move) (d : Dev) :
    (d.acquire j l pre).mem = d.mem ∧ (d.acquire j l pre).state = d.state := by
  induction l generalizing pre d with
  | nil => exact ⟨rfl, rfl⟩
  | cons m t ih =>
    unfold Dev.acquire
    split
    · exact ih _ _
    · split <;> simp [ih]

@[simp] theorem Dev.core_updMove (d : Dev) (x : Nat) (f : Move → Move) :
    (d.updMove x f).mem = d.mem ∧ (d.updMove x f).state = d.state := ⟨rfl, rfl⟩

@[simp] theorem Dev.core_moveCommit (d : Dev) (x : Nat) :
    (d.moveCommit x).mem = d.mem ∧ (d.moveCommit x).state = d.state := by
  unfold Dev.moveCommit
  split <;> simp

@[simp] theorem Dev.core_moveRelease (d : Dev) (x : Nat) :
    (d.moveRelease x).mem = d.mem ∧ (d.moveRelease x).state = d.state := by
  unfold Dev.moveRelease
  split <;> simp

@[simp] theorem Dev.core_updSweep (d : Dev) (grp : Nat) (f : Sweep → Sweep) :
    (d.updSweep grp f).mem = d.mem ∧ (d.updSweep grp f).state = d.state := ⟨rfl, rfl⟩

@[simp] theorem Dev.core_sweepStart (d : Dev) (grp : Nat) :
    (d.sweepStart grp).mem = d.mem ∧ (d.sweepStart grp).state = d.state := by
  unfold Dev.sweepStart
  split <;> simp

@[simp] theorem Dev.core_sweepEnd (d : Dev) (grp : Nat) :
    (d.sweepEnd grp).mem = d.mem ∧ (d.sweepEnd grp).state = d.state := by simp [Dev.sweepEnd]

@[simp] theorem Dev.core_poolDemote (d : Dev) (grp : Nat) :
    (d.poolDemote grp).mem = d.mem ∧ (d.poolDemote grp).state = d.state := by
  unfold Dev.poolDemote
  dsimp only
  repeat' split
  all_goals simp

@[simp] theorem Dev.core_reclaimClear (d : Dev) (r : Nat) :
    (d.reclaimClear r).mem = d.mem ∧ (d.reclaimClear r).state = d.state := by simp [Dev.reclaimClear]

@[simp] theorem Dev.core_reclaimDone (d : Dev) (r : Nat) :
    (d.reclaimDone r).mem = d.mem ∧ (d.reclaimDone r).state = d.state := by simp [Dev.reclaimDone]

@[simp] theorem Dev.core_slotClear (d : Dev) (w : WSlot) :
    (d.slotClear w).mem = d.mem ∧ (d.slotClear w).state = d.state := by simp [Dev.slotClear]

@[simp] theorem Dev.core_fillEnd (d : Dev) (p : Nat) :
    (d.fillEnd p).mem = d.mem ∧ (d.fillEnd p).state = d.state := by
  unfold Dev.fillEnd
  dsimp only
  split <;> simp

@[simp] theorem Dev.core_slotLost (d : Dev) (t : Nat) (b : Bool) :
    (d.slotLost t b).mem = d.mem ∧ (d.slotLost t b).state = d.state := by simp [Dev.slotLost]

@[simp] theorem Dev.core_turnTaken (d : Dev) (q : Queue) :
    (d.turnTaken q).mem = d.mem ∧ (d.turnTaken q).state = d.state := by simp [Dev.turnTaken]

theorem Dev.core_starts (d : Dev) {q : Queue} {e : Entry} {d' : Dev} (h : d.starts q e = some d') :
    d'.mem = d.mem ∧ d'.state = d.state := by
  unfold Dev.starts at h
  dsimp only at h
  split at h
  · cases h
  · split at h
    · split at h
      · cases h
        simp
      · cases h
    · split at h
      · cases h
        simp
      · cases h

@[simp] theorem Dev.core_tableBad (d : Dev) (ref : CmdRef) (detail : Nat) :
    (d.tableBad ref detail).mem = d.mem ∧ (d.tableBad ref detail).state = d.state := by simp [Dev.tableBad]

@[simp] theorem Dev.core_tableFill (d : Dev) (t : Nat) (b : Bool) (lens : List Nat) (port : Nat) :
    (d.tableFill t b lens port).mem = d.mem ∧ (d.tableFill t b lens port).state = d.state := by simp [Dev.tableFill]

@[simp] theorem Dev.core_tableFitBody (e : Entry) (ref : CmdRef) (c : Nat) (d : Dev) :
    (tableFitBody e ref c d).mem = d.mem ∧ (tableFitBody e ref c d).state = d.state := by simp [tableFitBody]

@[simp] theorem Dev.core_tableRecodeBody (e : Entry) (ref : CmdRef) (c : Nat) (d : Dev) :
    (tableRecodeBody e ref c d).mem = d.mem ∧ (tableRecodeBody e ref c d).state = d.state := by simp [tableRecodeBody]

@[simp] theorem Dev.core_tableReleaseBody (e : Entry) (ref : CmdRef) (c : Nat) (d : Dev) :
    (tableReleaseBody e ref c d).mem = d.mem ∧ (tableReleaseBody e ref c d).state = d.state := by simp [tableReleaseBody]

@[simp] theorem Dev.core_pendDrop (d : Dev) (b : Nat) :
    (d.pendDrop b).mem = d.mem ∧ (d.pendDrop b).state = d.state := by
  unfold Dev.pendDrop
  split <;> simp

@[simp] theorem Dev.core_finishStop (d : Dev) (c : Nat) :
    (d.finishStop c).mem = d.mem ∧ (d.finishStop c).state = d.state := by
  unfold Dev.finishStop
  dsimp only
  split <;> simp

@[simp] theorem Dev.core_stopProgram (d : Dev) (c status : Nat) (pc : BitVec 48) (fetch : Nat) (code : Word) (drop : Bool) :
    (d.stopProgram c status pc fetch code drop).mem = d.mem ∧
      (d.stopProgram c status pc fetch code drop).state = d.state := by simp [Dev.stopProgram]

@[simp] theorem Dev.core_wordStop (d : Dev) (c status : Nat) (pc : BitVec 48) (fetch : Nat) :
    (d.wordStop c status pc fetch).mem = d.mem ∧ (d.wordStop c status pc fetch).state = d.state := by simp [Dev.wordStop]

@[simp] theorem Dev.core_instTimerZero (d : Dev) (i : Nat) :
    (d.instTimerZero i).mem = d.mem ∧ (d.instTimerZero i).state = d.state := ⟨rfl, rfl⟩

@[simp] theorem Dev.core_loessTimerZero (d : Dev) (j : Nat) :
    (d.loessTimerZero j).mem = d.mem ∧ (d.loessTimerZero j).state = d.state := ⟨rfl, rfl⟩

@[simp] theorem Dev.core_domTimerZero (d : Dev) (x : Nat) :
    (d.domTimerZero x).mem = d.mem ∧ (d.domTimerZero x).state = d.state := by simp [Dev.domTimerZero]

@[simp] theorem Dev.core_wordBoundary (d : Dev) (b : Nat) :
    (d.wordBoundary b).mem = d.mem ∧ (d.wordBoundary b).state = d.state := ⟨rfl, rfl⟩

@[simp] theorem Dev.core_clayRefsCut (d : Dev) (key : Nat) :
    (d.clayRefsCut key).mem = d.mem ∧ (d.clayRefsCut key).state = d.state := by simp [Dev.clayRefsCut]

@[simp] theorem Dev.core_clayPut (d : Dev) (key : Nat) (c : Code) :
    (d.clayPut key c).mem = d.mem ∧ (d.clayPut key c).state = d.state := by simp [Dev.clayPut]

@[simp] theorem Dev.core_clayStore (d : Dev) (key : Nat) (g : Gran) :
    (d.clayStore key g).mem = d.mem ∧ (d.clayStore key g).state = d.state := by simp [Dev.clayStore]

@[simp] theorem Dev.core_wordRegs (d : Dev) (c : Nat) (w : Ctx) :
    (d.wordRegs c w).mem = d.mem ∧ (d.wordRegs c w).state = d.state := ⟨rfl, rfl⟩

@[simp] theorem Dev.core_updPend (d : Dev) (b : Nat) (f : TOp → TOp) :
    (d.updPend b f).mem = d.mem ∧ (d.updPend b f).state = d.state := ⟨rfl, rfl⟩

@[simp] theorem Dev.core_updOp (d : Dev) (b : Nat) (run : Bool) (f : TOp → TOp) :
    (d.updOp b run f).mem = d.mem ∧ (d.updOp b run f).state = d.state := by simp [Dev.updOp]

@[simp] theorem Dev.core_reissue (d : Dev) (b r : Nat) :
    (d.reissue b r).mem = d.mem ∧ (d.reissue b r).state = d.state := by
  unfold Dev.reissue
  split <;> simp

@[simp] theorem Dev.core_slotWaits (d : Dev) (b : Nat) (o : TOp) (r : Nat) :
    (d.slotWaits b o r).mem = d.mem ∧ (d.slotWaits b o r).state = d.state := by simp [Dev.slotWaits]

@[simp] theorem Dev.core_srcChanged (d : Dev) (b r : Nat) (run : Bool) (o : TOp) (now : List RdBlk) :
    (d.srcChanged b r run o now).mem = d.mem ∧ (d.srcChanged b r run o now).state = d.state := by simp [Dev.srcChanged]

@[simp] theorem Dev.core_updBind (d : Dev) (c i : Nat) (f : Binding → Binding) :
    (d.updBind c i f).mem = d.mem ∧ (d.updBind c i f).state = d.state := ⟨rfl, rfl⟩

@[simp] theorem Dev.core_readsDone (d : Dev) (c : Nat) (ws : List RdBlk) :
    (d.readsDone c ws).mem = d.mem ∧ (d.readsDone c ws).state = d.state := by simp [Dev.readsDone]

@[simp] theorem Dev.core_touch (d : Dev) (x : Nat) :
    (d.touch x).mem = d.mem ∧ (d.touch x).state = d.state := by simp [Dev.touch]

@[simp] theorem Dev.core_delivered (d : Dev) (b fmt : Nat) (l : List Byte) :
    (d.delivered b fmt l).mem = d.mem ∧ (d.delivered b fmt l).state = d.state :=
  Dev.core_each _ _ _ fun e k => by simp

@[simp] theorem Dev.core_rawDelivered (d : Dev) (b : Nat) (o : TOp) (r : Nat) (l : List (Nat × Nat)) :
    (d.rawDelivered b o r l).mem = d.mem ∧ (d.rawDelivered b o r l).state = d.state := by simp [Dev.rawDelivered]

@[simp] theorem Dev.core_freeItems (l : List WItem) (d : Dev) :
    (d.freeItems l).2.mem = d.mem ∧ (d.freeItems l).2.state = d.state := by
  induction l generalizing d with
  | nil => exact ⟨rfl, rfl⟩
  | cons i t ih => simp [Dev.freeItems, ih]

@[simp] theorem Dev.core_codecTake (d : Dev) (c y : Nat) (ten : Option Nat) :
    (d.codecTake c y ten).mem = d.mem ∧ (d.codecTake c y ten).state = d.state := by
  unfold Dev.codecTake
  split <;> simp

@[simp] theorem Dev.core_writesDone (d : Dev) (b : Nat) (o : TOp) :
    (d.writesDone b o).mem = d.mem ∧ (d.writesDone b o).state = d.state := by simp [Dev.writesDone]

@[simp] theorem Dev.core_loadPromote (d : Dev) (o : TOp) :
    (d.loadPromote o).mem = d.mem ∧ (d.loadPromote o).state = d.state := by simp [Dev.loadPromote]

@[simp] theorem Dev.core_opRefsEnd (d : Dev) (b : Nat) (o : TOp) :
    (d.opRefsEnd b o).mem = d.mem ∧ (d.opRefsEnd b o).state = d.state := by simp [Dev.opRefsEnd]

@[simp] theorem Dev.core_clayHold (d : Dev) (b c g : Nat) (i : BlkId) :
    (d.clayHold b c g i).mem = d.mem ∧ (d.clayHold b c g i).state = d.state := by
  unfold Dev.clayHold
  split <;> simp

@[simp] theorem Dev.core_clayHolds (b c : Nat) (l : List HeldBlk) (g : Nat) (d : Dev) :
    (d.clayHolds b c g l).mem = d.mem ∧ (d.clayHolds b c g l).state = d.state := by
  induction l generalizing g d with
  | nil => exact ⟨rfl, rfl⟩
  | cons h t ih => simp [Dev.clayHolds, ih]

@[simp] theorem Dev.core_freshGrans (n : Nat) (d : Dev) : (d.freshGrans n).2.mem = d.mem ∧ (d.freshGrans n).2.state = d.state := by
  induction n generalizing d with
  | zero => exact ⟨rfl, rfl⟩
  | succ n ih => simp [Dev.freshGrans, ih]

@[simp] theorem Dev.core_opRecord (d : Dev) (o : TOp) :
    (d.opRecord o).mem = d.mem ∧ (d.opRecord o).state = d.state := ⟨rfl, rfl⟩

@[simp] theorem Dev.core_stopDue (d : Dev) (c : Nat) :
    (d.stopDue c).mem = d.mem ∧ (d.stopDue c).state = d.state := by simp [Dev.stopDue]

@[simp] theorem Dev.core_wantUnpark (d : Dev) (c : Nat) :
    (d.wantUnpark c).mem = d.mem ∧ (d.wantUnpark c).state = d.state := by simp [Dev.wantUnpark]

@[simp] theorem Dev.core_sleepEnd (d : Dev) (c : Nat) : (d.sleepEnd c).mem = d.mem ∧ (d.sleepEnd c).state = d.state := by
  have harea : ((d.takeArea c).getD d).mem = d.mem ∧ ((d.takeArea c).getD d).state = d.state := by
    cases h : d.takeArea c with
    | none => exact ⟨rfl, rfl⟩
    | some e => exact d.core_takeArea h
  unfold Dev.sleepEnd
  dsimp only
  split
  · simp
  · simp [harea]

theorem Dev.core_planWin (d : Dev) {p l : Nat} {e : Dev} (h : d.planWin p l = some e) : e.mem = d.mem ∧ e.state = d.state := by
  unfold Dev.planWin at h
  dsimp only at h
  split at h
  · cases h
  · cases h
    simp

@[simp] theorem Dev.core_win_ (d : Dev) (b : Nat) (o : TOp) : (d.win_ b o).mem = d.mem ∧ (d.win_ b o).state = d.state := by
  unfold Dev.win_
  dsimp only
  split
  · simp
  · generalize hl : d.planWin _ _ = r
    cases r with
    | none => simp
    | some e => exact d.core_planWin hl

@[simp] theorem Dev.core_postDone_switched (b : Nat) (d : Dev) :
    (Dev.postDone.switched b d).mem = d.mem ∧ (Dev.postDone.switched b d).state = d.state := by
  unfold Dev.postDone.switched
  dsimp only
  repeat' split
  all_goals simp

@[simp] theorem Dev.core_unparkGiveUp (d : Dev) (c : Nat) :
    (d.unparkGiveUp c).mem = d.mem ∧ (d.unparkGiveUp c).state = d.state := by simp [Dev.unparkGiveUp]

@[simp] theorem Dev.core_wakeUp (d : Dev) (c : Nat) (v : Word) (ref : CmdRef) :
    (d.wakeUp c v ref).mem = d.mem ∧ (d.wakeUp c v ref).state = d.state := by
  unfold Dev.wakeUp
  dsimp only
  split
  · simp
  · simp
  · split
    · split
      · next e he =>
        have := d.core_takeArea he
        simp [this]
      · simp
    · simp

@[simp] theorem Dev.core_launchStop (d : Dev) (c : Nat) :
    (d.launchStop c).mem = d.mem ∧ (d.launchStop c).state = d.state := by
  unfold Dev.launchStop
  split <;> simp

@[simp] theorem Dev.core_launched (d : Dev) (b c : Nat) (e : Entry) (ref : CmdRef) :
    (d.launched b c e ref).mem = d.mem ∧ (d.launched b c e ref).state = d.state := ⟨rfl, rfl⟩

@[simp] theorem Dev.core_launch_ (d : Dev) (c : Nat) (e : Entry) (ref : CmdRef) :
    (d.launch_ c e ref).mem = d.mem ∧ (d.launch_ c e ref).state = d.state := by
  unfold Dev.launch_
  dsimp only
  split
  · simp
  · split
    · simp
    · split
      · simp
      · split
        · simp
        · next e' he =>
          have harea : e'.mem = d.mem ∧ e'.state = d.state := by
            split at he
            · cases he
              exact ⟨rfl, rfl⟩
            · exact d.core_takeArea he
          simp [harea]

@[simp] theorem Dev.core_launchBody (e : Entry) (ref : CmdRef) (c : Nat) (d : Dev) :
    (launchBody e ref c d).mem = d.mem ∧ (launchBody e ref c d).state = d.state := by simp [launchBody]

@[simp] theorem Dev.core_planAccept (d : Dev) (p c : Nat) (h : PlanHdr) (es : List PEnt) (ls : List (Nat × Nat)) (ref : CmdRef) :
    (d.planAccept p c h es ls ref).mem = d.mem ∧ (d.planAccept p c h es ls ref).state = d.state := by simp [Dev.planAccept]

@[simp] theorem Dev.core_planRefuse (d : Dev) (ref : CmdRef) :
    (d.planRefuse ref).mem = d.mem ∧ (d.planRefuse ref).state = d.state := by
  unfold Dev.planRefuse
  dsimp only
  simp

@[simp] theorem Dev.core_planDrop (d : Dev) (p : Nat) :
    (d.planDrop p).mem = d.mem ∧ (d.planDrop p).state = d.state := by simp [Dev.planDrop]

@[simp] theorem Dev.core_planState (d : Dev) (x : Nat) :
    (d.planState x).mem = d.mem ∧ (d.planState x).state = d.state := by
  unfold Dev.planState
  split <;> simp

@[simp] theorem Dev.core_reloadBegin (d : Dev) (x : Nat) (ref : CmdRef) :
    (d.reloadBegin x ref).mem = d.mem ∧ (d.reloadBegin x ref).state = d.state := by
  unfold Dev.reloadBegin
  dsimp only
  repeat' split
  all_goals simp

@[simp] theorem Dev.core_queueCmdMove (d : Dev) (kind : MKind) (x : Nat) (pin : Bool) (ref : CmdRef) :
    (d.queueCmdMove kind x pin ref).mem = d.mem ∧ (d.queueCmdMove kind x pin ref).state = d.state := ⟨rfl, rfl⟩

@[simp] theorem Dev.core_createBody (p : Nat) (e : Entry) (ref : CmdRef) (_c : Nat) (d : Dev) :
    (createBody p e ref _c d).mem = d.mem ∧ (createBody p e ref _c d).state = d.state := by
  unfold createBody
  dsimp only
  repeat' split
  all_goals simp

@[simp] theorem Dev.core_cancelBody (p : Nat) (e : Entry) (ref : CmdRef) (_c : Nat) (d : Dev) :
    (cancelBody p e ref _c d).mem = d.mem ∧ (cancelBody p e ref _c d).state = d.state := by
  unfold cancelBody
  dsimp only
  repeat' split
  all_goals simp

@[simp] theorem Dev.core_parkLeave (d : Dev) (c status : Nat) :
    (d.parkLeave c status).mem = d.mem ∧ (d.parkLeave c status).state = d.state := by simp [Dev.parkLeave]

@[simp] theorem Dev.core_drainStart (d : Dev) (c : Nat) :
    (d.drainStart c).mem = d.mem ∧ (d.drainStart c).state = d.state := by simp [Dev.drainStart]

@[simp] theorem Dev.core_destroy (d : Dev) (c : Nat) (cmd : Option CmdRef) (host : Bool) :
    (d.destroy c cmd host).mem = d.mem ∧ (d.destroy c cmd host).state = d.state := by simp [Dev.destroy]

@[simp] theorem Dev.core_copyAgain (d : Dev) (x : Nat) :
    (d.copyAgain x).mem = d.mem ∧ (d.copyAgain x).state = d.state := by
  unfold Dev.copyAgain
  split <;> simp

@[simp] theorem Dev.core_rejoined (d : Dev) (x : Nat) :
    (d.rejoined x).mem = d.mem ∧ (d.rejoined x).state = d.state := by simp [Dev.rejoined]

@[simp] theorem Dev.core_bedPowerUp (d : Dev) (b : Nat) :
    (d.bedPowerUp b).mem = d.mem ∧ (d.bedPowerUp b).state = d.state := by simp [Dev.bedPowerUp]

@[simp] theorem Dev.core_assignDo (d : Dev) (ref : CmdRef) (c b pages : Nat) :
    (d.assignDo ref c b pages).mem = d.mem ∧ (d.assignDo ref c b pages).state = d.state := by simp [Dev.assignDo]

@[simp] theorem Dev.core_assignBody (gated : Nat → Bool) (e : Entry) (ref : CmdRef) (c : Nat) (d : Dev) :
    (assignBody gated e ref c d).mem = d.mem ∧ (assignBody gated e ref c d).state = d.state := by simp [assignBody]

@[simp] theorem Dev.core_ringSetBody (e : Entry) (ref : CmdRef) (c : Nat) (d : Dev) :
    (ringSetBody e ref c d).mem = d.mem ∧ (ringSetBody e ref c d).state = d.state := by simp [ringSetBody]

@[simp] theorem Dev.core_parkBody (e : Entry) (ref : CmdRef) (c : Nat) (d : Dev) :
    (parkBody e ref c d).mem = d.mem ∧ (parkBody e ref c d).state = d.state := by simp [parkBody]

@[simp] theorem Dev.core_unparkDue (d : Dev) (c : Nat) :
    (d.unparkDue c).mem = d.mem ∧ (d.unparkDue c).state = d.state := by simp [Dev.unparkDue]

@[simp] theorem Dev.core_destroyDue (d : Dev) (c : Nat) :
    (d.destroyDue c).mem = d.mem ∧ (d.destroyDue c).state = d.state := by simp [Dev.destroyDue]

@[simp] theorem Dev.core_parkDone (d : Dev) (c : Nat) : (d.parkDone c).mem = d.mem ∧ (d.parkDone c).state = d.state := by
  unfold Dev.parkDone
  dsimp only
  split
  · simp
  · split
    · split
      · next e he =>
        have := Dev.core_serveOne _ he
        simp [this]
      · simp
    · simp

@[simp] theorem Dev.core_windowReq (d : Dev) (r : Req) :
    (d.windowReq r).mem = d.mem ∧ (d.windowReq r).state = d.state := by simp [Dev.windowReq]

@[simp] theorem Dev.core_dropPosted (d : Dev) (p : Nat) :
    (d.dropPosted p).mem = d.mem ∧ (d.dropPosted p).state = d.state := ⟨rfl, rfl⟩

@[simp] theorem Dev.core_bellEv (d : Dev) (p i : Nat) :
    (d.bellEv p i).mem = d.mem ∧ (d.bellEv p i).state = d.state := by simp [Dev.bellEv]

@[simp] theorem Dev.core_bellQueue (d : Dev) (p : Nat) (q : Queue) (kind i : Nat) :
    (d.bellQueue p q kind i).mem = d.mem ∧ (d.bellQueue p q kind i).state = d.state := by
  unfold Dev.bellQueue
  dsimp only
  repeat' split
  all_goals simp

@[simp] theorem Dev.core_bellCtx (d : Dev) (p c v : Nat) :
    (d.bellCtx p c v).mem = d.mem ∧ (d.bellCtx p c v).state = d.state := by simp [Dev.bellCtx]

@[simp] theorem Dev.core_bellWait (d : Dev) (w : Bell) :
    (d.bellWait w).mem = d.mem ∧ (d.bellWait w).state = d.state := ⟨rfl, rfl⟩

@[simp] theorem Dev.core_bell (d : Dev) (p ctx v : Nat) : (d.bell p ctx v).mem = d.mem ∧ (d.bell p ctx v).state = d.state := by
  unfold Dev.bell
  cases d.ctxOf (some p) (BitVec.ofNat 32 ctx) <;> simp

@[simp] theorem Dev.core_parkExpire (d : Dev) (p : Nat) :
    (d.parkExpire p).mem = d.mem ∧ (d.parkExpire p).state = d.state := by simp [Dev.parkExpire]

@[simp] theorem Dev.core_queryBody (p : Nat) (fm : Bool) (e : Entry) (ref : CmdRef) (c : Nat) (d : Dev) :
    (queryBody p fm e ref c d).mem = d.mem ∧ (queryBody p fm e ref c d).state = d.state := by simp [queryBody]

@[simp] theorem Dev.core_attachBody (p : Nat) (e : Entry) (ref : CmdRef) (_c : Nat) (d : Dev) :
    (attachBody p e ref _c d).mem = d.mem ∧ (attachBody p e ref _c d).state = d.state := by simp [attachBody]

@[simp] theorem Dev.core_orphan (d : Dev) (c cause : Nat) :
    (d.orphan c cause).mem = d.mem ∧ (d.orphan c cause).state = d.state := by simp [Dev.orphan]

@[simp] theorem Dev.core_hostGone (d : Dev) (p cause : Nat) :
    (d.hostGone p cause).mem = d.mem ∧ (d.hostGone p cause).state = d.state := by
  unfold Dev.hostGone
  dsimp only
  refine Dev.core_trans ?_ (Dev.core_each _ _ _ fun e w => ?_)
  · split <;> simp
  · split <;> simp

@[simp] theorem Dev.core_heartbeatBody (p : Nat) (e : Entry) (ref : CmdRef) (_c : Nat) (d : Dev) :
    (heartbeatBody p e ref _c d).mem = d.mem ∧ (heartbeatBody p e ref _c d).state = d.state := by
  unfold heartbeatBody
  split <;> simp

@[simp] theorem Dev.core_bindBody (e : Entry) (ref : CmdRef) (c : Nat) (d : Dev) :
    (bindBody e ref c d).mem = d.mem ∧ (bindBody e ref c d).state = d.state := by simp [bindBody]

@[simp] theorem Dev.core_descWhole (d : Dev) (x : Nat) :
    (d.descWhole x).mem = d.mem ∧ (d.descWhole x).state = d.state := by simp [Dev.descWhole]

theorem Dev.core_enter (r grp : Nat) (subOnly : Bool) (l : List Nat) (d : Dev) {e : Dev} (h : d.enter r grp subOnly l = some e) :
    e.mem = d.mem ∧ e.state = d.state := by
  induction l generalizing d with
  | nil =>
    cases h
    exact ⟨rfl, rfl⟩
  | cons x t ih =>
    unfold Dev.enter at h
    split at h
    · cases h
    · have := ih _ h
      simp [this]

@[simp] theorem Dev.core_regionCreateBody (e : Entry) (ref : CmdRef) (_c : Nat) (d : Dev) :
    (regionCreateBody e ref _c d).mem = d.mem ∧ (regionCreateBody e ref _c d).state = d.state := by
  unfold regionCreateBody
  dsimp only
  split
  · simp
  · split
    · simp
    · split
      · simp
      · split
        · simp
        · next e' he =>
          have := Dev.core_enter _ _ _ _ _ he
          split <;> simp [this]

@[simp] theorem Dev.core_regionGrowBody (e : Entry) (ref : CmdRef) (_c : Nat) (d : Dev) :
    (regionGrowBody e ref _c d).mem = d.mem ∧ (regionGrowBody e ref _c d).state = d.state := by
  unfold regionGrowBody
  dsimp only
  split
  · simp
  · split
    · simp
    · split
      · simp
      · split
        · simp
        · split
          · simp
          · split
            · simp
            · next e' he =>
              have := Dev.core_enter _ _ _ _ _ he
              split <;> simp [this]

@[simp] theorem Dev.core_regionTrimBody (e : Entry) (ref : CmdRef) (_c : Nat) (d : Dev) :
    (regionTrimBody e ref _c d).mem = d.mem ∧ (regionTrimBody e ref _c d).state = d.state := by simp [regionTrimBody]

@[simp] theorem Dev.core_regionSetBody (e : Entry) (ref : CmdRef) (_c : Nat) (d : Dev) :
    (regionSetBody e ref _c d).mem = d.mem ∧ (regionSetBody e ref _c d).state = d.state := by simp [regionSetBody]

@[simp] theorem Dev.core_retireBody (e : Entry) (ref : CmdRef) (_c : Nat) (d : Dev) :
    (retireBody e ref _c d).mem = d.mem ∧ (retireBody e ref _c d).state = d.state := by
  unfold retireBody
  split <;> simp

@[simp] theorem Dev.core_updDefer (d : Dev) :
    d.updDefer.mem = d.mem ∧ d.updDefer.state = d.state := by
  unfold Dev.updDefer
  split <;> simp

@[simp] theorem Dev.core_freshList (w n : Nat) (d : Dev) : (d.freshList w n).2.mem = d.mem ∧ (d.freshList w n).2.state = d.state := by
  induction n generalizing d with
  | zero => exact ⟨rfl, rfl⟩
  | succ n ih => simp [Dev.freshList, ih]

@[simp] theorem Dev.core_flashPut (l : List Byte) (a : Nat) (d : Dev) :
    (d.flashPut a l).mem = d.mem ∧ (d.flashPut a l).state = d.state := by
  induction l generalizing a d with
  | nil => exact ⟨rfl, rfl⟩
  | cons b t ih => simp [Dev.flashPut, ih]

@[simp] theorem Dev.core_recPut (d : Dev) (r : BootRec) :
    (d.recPut r).mem = d.mem ∧ (d.recPut r).state = d.state := by simp [Dev.recPut]

@[simp] theorem Dev.core_updRefuse (d : Dev) (reason : Nat) :
    (d.updRefuse reason).mem = d.mem ∧ (d.updRefuse reason).state = d.state := by
  unfold Dev.updRefuse
  split <;> simp

@[simp] theorem Dev.core_protoFault (d : Dev) (p : Nat) :
    (d.protoFault p).mem = d.mem ∧ (d.protoFault p).state = d.state := by simp [Dev.protoFault]

@[simp] theorem Dev.core_bellArrive (d : Dev) (p : Nat) (ctx v : BitVec 32) :
    (d.bellArrive p ctx v).mem = d.mem ∧ (d.bellArrive p ctx v).state = d.state := by simp [Dev.bellArrive]

@[simp] theorem Dev.core_regPlain (d : Dev) (r : RegRow) (i : Nat) (v : Word) :
    (d.regPlain r i v).mem = d.mem ∧ (d.regPlain r i v).state = d.state := ⟨rfl, rfl⟩

@[simp] theorem Dev.core_stageCtl (d : Dev) (x : Sec) (v : Word) :
    (d.stageCtl x v).mem = d.mem ∧ (d.stageCtl x v).state = d.state := by simp [Dev.stageCtl]

@[simp] theorem Dev.core_poolWm (d : Dev) (g : Nat) (v : Word) :
    (d.poolWm g v).mem = d.mem ∧ (d.poolWm g v).state = d.state := by simp [Dev.poolWm]

@[simp] theorem Dev.core_regRange (d : Dev) (r : RegRow) (i : Nat) (v : Word) (ok : Fld → Nat → Bool) :
    (d.regRange r i v ok).mem = d.mem ∧ (d.regRange r i v ok).state = d.state := ⟨rfl, rfl⟩

@[simp] theorem Dev.core_qosCtl (d : Dev) (v : Word) :
    (d.qosCtl v).mem = d.mem ∧ (d.qosCtl v).state = d.state := by simp [Dev.qosCtl]

@[simp] theorem Dev.core_testDone (d : Dev) (result sym : Nat) :
    (d.testDone result sym).mem = d.mem ∧ (d.testDone result sym).state = d.state := ⟨rfl, rfl⟩

theorem Dev.core_testRun (d : Dev) (go : TestAt → Dev → Dev)
    (hgo : ∀ t e, (go t e).mem = e.mem ∧ (go t e).state = e.state) : (d.testRun go).mem = d.mem ∧ (d.testRun go).state = d.state := by
  unfold Dev.testRun
  split <;> simp [hgo]

@[simp] theorem Dev.core_testReturn (d : Dev) (g : Gran) (check : Nat) :
    (d.testReturn g check).mem = d.mem ∧ (d.testReturn g check).state = d.state := ⟨rfl, rfl⟩

@[simp] theorem Dev.core_readRaw (d : Dev) : d.readRaw.mem = d.mem ∧ d.readRaw.state = d.state :=
  d.core_testRun _ fun t e => by simp

@[simp] theorem Dev.core_readChecked (d : Dev) : d.readChecked.mem = d.mem ∧ d.readChecked.state = d.state :=
  d.core_testRun _ fun t e => by
    dsimp only
    split <;> simp

@[simp] theorem Dev.core_psnRemove (d : Dev) :
    d.psnRemove.mem = d.mem ∧ d.psnRemove.state = d.state := by
  unfold Dev.psnRemove
  dsimp only
  repeat' split
  all_goals simp

@[simp] theorem Dev.core_psnCtl (d : Dev) (v : Word) :
    (d.psnCtl v).mem = d.mem ∧ (d.psnCtl v).state = d.state := by simp [Dev.psnCtl]

@[simp] theorem Dev.core_sweepOver (d : Dev) (s : Nat) (f : SetQ → SetQ) :
    (d.sweepOver s f).mem = d.mem ∧ (d.sweepOver s f).state = d.state := ⟨rfl, rfl⟩

@[simp] theorem Dev.core_sweepTail (d : Dev) (s : Nat) (periodic : Bool) :
    (d.sweepTail s periodic).mem = d.mem ∧ (d.sweepTail s periodic).state = d.state := by simp [Dev.sweepTail]

@[simp] theorem Dev.core_scrubNow (d : Dev) (s : Nat) :
    (d.scrubNow s).mem = d.mem ∧ (d.scrubNow s).state = d.state := by simp [Dev.scrubNow]

@[simp] theorem Dev.core_olyReset (d : Dev) (p : Nat) :
    (d.olyReset p).mem = d.mem ∧ (d.olyReset p).state = d.state := by simp [Dev.olyReset]

@[simp] theorem Dev.core_olyCtl (d : Dev) (p : Nat) (v : Word) :
    (d.olyCtl p v).mem = d.mem ∧ (d.olyCtl p v).state = d.state := by simp [Dev.olyCtl]

@[simp] theorem Dev.core_safClear (d : Dev) (v : Word) :
    (d.safClear v).mem = d.mem ∧ (d.safClear v).state = d.state := by simp [Dev.safClear]

@[simp] theorem Dev.core_dbgFreeze (d : Dev) :
    d.dbgFreeze.mem = d.mem ∧ d.dbgFreeze.state = d.state := by simp [Dev.dbgFreeze]

@[simp] theorem Dev.core_dbgThaw (d : Dev) :
    d.dbgThaw.mem = d.mem ∧ d.dbgThaw.state = d.state := by simp [Dev.dbgThaw]

@[simp] theorem Dev.core_capEnd (d : Dev) (r : Nat) :
    (d.capEnd r).mem = d.mem ∧ (d.capEnd r).state = d.state := ⟨rfl, rfl⟩

@[simp] theorem Dev.core_capSet (d : Dev) (s ga : Nat) (v : Gran × Nat) :
    (d.capSet s ga v).2.mem = d.mem ∧ (d.capSet s ga v).2.state = d.state := by
  unfold Dev.capSet
  split
  · simp
  · split <;> simp

@[simp] theorem Dev.core_capGran (d : Dev) (space a g : Nat) :
    (d.capGran space a g).2.mem = d.mem ∧ (d.capGran space a g).2.state = d.state := by
  unfold Dev.capGran
  split
  · cases h : d.descPlace (bits a 0 28 + g / 2) <;> simp [h]
  · dsimp only
    split <;> simp
  · dsimp only
    split <;> simp
  · dsimp only
    split
    · simp
    · split <;> simp

@[simp] theorem Dev.core_capOne (d : Dev) (space a g : Nat) :
    (d.capOne space a g).mem = d.mem ∧ (d.capOne space a g).state = d.state := by
  unfold Dev.capOne
  dsimp only
  simp

@[simp] theorem Dev.core_capture (d : Dev) (unlocked : Bool) (cmd : Nat) :
    (d.capture unlocked cmd).mem = d.mem ∧ (d.capture unlocked cmd).state = d.state := by simp [Dev.capture]

@[simp] theorem Dev.core_capCtl (d : Dev) (unlocked : Bool) (v : Word) :
    (d.capCtl unlocked v).mem = d.mem ∧ (d.capCtl unlocked v).state = d.state := by simp [Dev.capCtl]

theorem Dev.core_msgArrive (d : Dev) (p n : Nat) (ok : Bool) (go : Dev → Dev)
    (hgo : ∀ e, (go e).mem = e.mem ∧ (go e).state = e.state) :
    (d.msgArrive p n ok go).mem = d.mem ∧ (d.msgArrive p n ok go).state = d.state := by
  unfold Dev.msgArrive
  dsimp only
  repeat' split
  all_goals simp [hgo]

@[simp] theorem Dev.core_fmMsg (d : Dev) (p len : Nat) (ok proof endorsed : Bool) (payload : List Byte) :
    (d.fmMsg p len ok proof endorsed payload).mem = d.mem ∧ (d.fmMsg p len ok proof endorsed payload).state = d.state :=
  d.core_msgArrive _ _ _ _ fun _ => ⟨rfl, rfl⟩

@[simp] theorem Dev.core_farUse (d : Dev) (p : Nat) (t : Nat × Nat) :
    (d.farUse p t).mem = d.mem ∧ (d.farUse p t).state = d.state := ⟨rfl, rfl⟩

@[simp] theorem Dev.core_tablePush (d : Dev) (p : Nat) (t : Nat × Nat) :
    (d.tablePush p t).mem = d.mem ∧ (d.tablePush p t).state = d.state := ⟨rfl, rfl⟩

@[simp] theorem Dev.core_flitLasting (d : Dev) (p lane : Nat) :
    (d.flitLasting p lane).mem = d.mem ∧ (d.flitLasting p lane).state = d.state := by simp [Dev.flitLasting]

@[simp] theorem Dev.core_flitNak (d : Dev) (p lane : Nat) (seq : BitVec 12) :
    (d.flitNak p lane seq).mem = d.mem ∧ (d.flitNak p lane seq).state = d.state := ⟨rfl, rfl⟩

@[simp] theorem Dev.core_flitGap (d : Dev) (p : Nat) (f : Flit) :
    (d.flitGap p f).mem = d.mem ∧ (d.flitGap p f).state = d.state := by simp [Dev.flitGap]

@[simp] theorem Dev.core_flitCount (d : Dev) (p : Nat) (f : Flit) :
    (d.flitCount p f).mem = d.mem ∧ (d.flitCount p f).state = d.state := by simp [Dev.flitCount]

@[simp] theorem Dev.core_flitBad (d : Dev) (p : Nat) (f : Flit) :
    (d.flitBad p f).mem = d.mem ∧ (d.flitBad p f).state = d.state := by simp [Dev.flitBad]

@[simp] theorem Dev.core_flitCredits (d : Dev) (p : Nat) (f : Flit) :
    (d.flitCredits p f).mem = d.mem ∧ (d.flitCredits p f).state = d.state := by simp [Dev.flitCredits]

@[simp] theorem Dev.core_bellIn (d : Dev) (p : Nat) (g : Gran) :
    (d.bellIn p g).mem = d.mem ∧ (d.bellIn p g).state = d.state := by simp [Dev.bellIn]

@[simp] theorem Dev.core_replay (d : Dev) (p : Nat) :
    (d.replay p).mem = d.mem ∧ (d.replay p).state = d.state := by simp [Dev.replay]

@[simp] theorem Dev.core_enterTrain (d : Dev) (p : Nat) :
    (d.enterTrain p).mem = d.mem ∧ (d.enterTrain p).state = d.state := ⟨rfl, rfl⟩

@[simp] theorem Dev.core_trained (d : Dev) (p : Nat) (lanes : BitVec 8) (f : FarEnd) :
    (d.trained p lanes f).mem = d.mem ∧ (d.trained p lanes f).state = d.state := by simp [Dev.trained]

@[simp] theorem Dev.core_retrained (d : Dev) (p : Nat) (locked : BitVec 8) :
    (d.retrained p locked).mem = d.mem ∧ (d.retrained p locked).state = d.state := by simp [Dev.retrained]

@[simp] theorem Dev.core_ceilUpdate (d : Dev) (s : Nat) :
    (d.ceilUpdate s).mem = d.mem ∧ (d.ceilUpdate s).state = d.state := by
  unfold Dev.ceilUpdate
  split <;> simp

@[simp] theorem Dev.core_kAdopt (d : Dev) (s : Nat) (throttled : Bool) :
    (d.kAdopt s throttled).mem = d.mem ∧ (d.kAdopt s throttled).state = d.state := by simp [Dev.kAdopt]

@[simp] theorem Dev.core_piecePoison (d : Dev) (p : PieceIn) :
    (d.piecePoison p).mem = d.mem ∧ (d.piecePoison p).state = d.state := by
  unfold Dev.piecePoison
  split <;> simp

@[simp] theorem Dev.core_peak (d : Dev) (i : Nat) :
    (d.peak i).mem = d.mem ∧ (d.peak i).state = d.state := by simp [Dev.peak]

@[simp] theorem Dev.core_paused (d : Dev) (i part k : Nat) :
    (d.paused i part k).mem = d.mem ∧ (d.paused i part k).state = d.state := ⟨rfl, rfl⟩

@[simp] theorem Dev.core_pause (d : Dev) (i part : Nat) (pass : Bool) :
    (d.pause i part pass).mem = d.mem ∧ (d.pause i part pass).state = d.state := by simp [Dev.pause]

@[simp] theorem Dev.core_tempStore (d : Dev) (i : Nat) (t : BitVec 16) :
    (d.tempStore i t).mem = d.mem ∧ (d.tempStore i t).state = d.state := by simp [Dev.tempStore]

@[simp] theorem Dev.core_refreshBank (d : Dev) (i part bank : Nat) :
    (d.refreshBank i part bank).mem = d.mem ∧ (d.refreshBank i part bank).state = d.state := ⟨rfl, rfl⟩

@[simp] theorem Dev.core_replayOver (d : Dev) (i : Nat) :
    (d.replayOver i).mem = d.mem ∧ (d.replayOver i).state = d.state := by simp [Dev.replayOver]

@[simp] theorem Dev.core_sweepScrub (d : Dev) (s : Nat) :
    (d.sweepScrub s).mem = d.mem ∧ (d.sweepScrub s).state = d.state := by simp [Dev.sweepScrub]

@[simp] theorem Dev.core_scrubMoved (d : Dev) (s ga : Nat) (periodic : Bool) :
    (d.scrubMoved s ga periodic).mem = d.mem ∧ (d.scrubMoved s ga periodic).state = d.state := by simp [Dev.scrubMoved]

@[simp] theorem Dev.core_workRestart (d : Dev) (x : Nat) :
    (d.workRestart x).mem = d.mem ∧ (d.workRestart x).state = d.state := ⟨rfl, rfl⟩

@[simp] theorem Dev.core_clayWipe (d : Dev) (k : Nat) :
    (d.clayWipe k).mem = d.mem ∧ (d.clayWipe k).state = d.state := ⟨rfl, rfl⟩

@[simp] theorem Dev.core_latent (d : Dev) (die cls dom : Nat) :
    (d.latent die cls dom).mem = d.mem ∧ (d.latent die cls dom).state = d.state := by simp [Dev.latent]

@[simp] theorem Dev.core_forget (d : Dev) :
    d.forget.mem = d.mem ∧ d.forget.state = d.state := ⟨rfl, rfl⟩

@[simp] theorem Dev.core_faultTest (d : Dev) (on : Bool) :
    (d.faultTest on).mem = d.mem ∧ (d.faultTest on).state = d.state := by simp [Dev.faultTest]

@[simp] theorem Dev.core_freshBytes (n : Nat) (d : Dev) : (d.freshBytes n).2.mem = d.mem ∧ (d.freshBytes n).2.state = d.state := by
  induction n generalizing d with
  | zero => exact ⟨rfl, rfl⟩
  | succ n ih => simp [Dev.freshBytes, ih]

@[simp] theorem Dev.core_portHold (d : Dev) (p : Nat) :
    (d.portHold p).mem = d.mem ∧ (d.portHold p).state = d.state := by simp [Dev.portHold]

@[simp] theorem Dev.core_portThaw (d : Dev) (p : Nat) :
    (d.portThaw p).mem = d.mem ∧ (d.portThaw p).state = d.state := by simp [Dev.portThaw]

@[simp] theorem Dev.core_ceilStart (d : Dev) (s : Nat) :
    (d.ceilStart s).mem = d.mem ∧ (d.ceilStart s).state = d.state := by simp [Dev.ceilStart]

@[simp] theorem Dev.core_stratLoad (d : Dev) (g : Strat) (admission : Nat × Nat) :
    (d.stratLoad g admission).mem = d.mem ∧ (d.stratLoad g admission).state = d.state := by simp [Dev.stratLoad]

@[simp] theorem Dev.core_powerDoms (d : Dev) (l : List Nat) :
    (d.powerDoms l).mem = d.mem ∧ (d.powerDoms l).state = d.state := by simp [Dev.powerDoms]

@[simp] theorem Dev.core_jReplay (d : Dev) (grp : Nat) :
    (d.jReplay grp).mem = d.mem ∧ (d.jReplay grp).state = d.state := by simp [Dev.jReplay]

@[simp] theorem Dev.core_rgnResume (d : Dev) (r : Nat) :
    (d.rgnResume r).mem = d.mem ∧ (d.rgnResume r).state = d.state := by simp [Dev.rgnResume]

@[simp] theorem Dev.core_memReplay (d : Dev) :
    d.memReplay.mem = d.mem ∧ d.memReplay.state = d.state := by simp [Dev.memReplay]

@[simp] theorem Dev.core_metaUp (d : Dev) :
    d.metaUp.mem = d.mem ∧ d.metaUp.state = d.state := by simp [Dev.metaUp]

@[simp] theorem Dev.core_readMoved (d : Dev) (r : Req) (s n : Nat) :
    (d.readMoved r s n).mem = d.mem ∧ (d.readMoved r s n).state = d.state := by
  unfold Dev.readMoved
  split <;> simp

@[simp] theorem Dev.core_flashStore (d : Dev) (a room : Nat) (l : List Byte) (ok : Bool) :
    (d.flashStore a room l ok).mem = d.mem ∧ (d.flashStore a room l ok).state = d.state := by
  unfold Dev.flashStore
  dsimp only
  split <;> simp

@[simp] theorem Dev.core_commitDone (d : Dev) (ok : Bool) : (d.commitDone ok).mem = d.mem ∧ (d.commitDone ok).state = d.state := by
  unfold Dev.commitDone
  dsimp only
  split
  · simp
  · split <;> simp

end Sys2Proof.Machine

/-! PROOF. What every step keeps: the canonical form of memory, and a device that has failed stays so. The reads, writes and fences of
memory, and all that follows a command (Dev.finish). -/
namespace Sys2Proof.Machine

/-- What is kept of memory and the device's state: the canonical form of memory, or that the device has failed. -/
def Kept (fail : Bool) (m : List Host.Cell) (s : DevSt) : Prop := if fail then s = .failed else Memory.wf m = true

theorem kept_true {m : List Host.Cell} {s : DevSt} : Kept true m s ↔ s = .failed := Iff.rfl

theorem kept_false {m : List Host.Cell} {s : DevSt} : Kept false m s ↔ Memory.wf m = true := Iff.rfl

theorem kept_failed (fail : Bool) {m : List Host.Cell} {s : DevSt} (h : Kept fail m s) : Kept fail m .failed := by
  cases fail with
  | false => exact h
  | true => rfl

section
variable {fail : Bool}

theorem kept_of_core {d e : Dev} (hc : e.mem = d.mem ∧ e.state = d.state) (h : Kept fail d.mem d.state) : Kept fail e.mem e.state := by
  rw [hc.1, hc.2]
  exact h

@[simp] theorem Dev.kept_each {α : Type} (d : Dev) (l : List α) (f : Dev → α → Dev)
    (hf : ∀ e x, Kept fail e.mem e.state → Kept fail (f e x).mem (f e x).state) (h : Kept fail d.mem d.state) :
    Kept fail (d.each l f).mem (d.each l f).state := by
  induction l generalizing d with
  | nil => exact h
  | cons x t ih => exact ih _ (hf _ _ h)

@[simp] theorem Dev.kept_foldl {α : Type} (d : Dev) (l : List α) (f : Dev → α → Dev)
    (hf : ∀ e x, Kept fail e.mem e.state → Kept fail (f e x).mem (f e x).state) (h : Kept fail d.mem d.state) :
    Kept fail (l.foldl f d).mem (l.foldl f d).state :=
  d.kept_each l f hf h

@[simp] theorem Dev.kept_elim {α : Type} (e : Dev) (o : Option α) (f : α → Dev)
    (hf : ∀ x, Kept fail (f x).mem (f x).state) (h : Kept fail e.mem e.state) : Kept fail (o.elim e f).mem (o.elim e f).state := by
  cases o with
  | none => exact h
  | some x => exact hf x

@[simp] theorem Dev.kept_ite (c : Prop) [Decidable c] (d e : Dev) (hd : Kept fail d.mem d.state) (he : Kept fail e.mem e.state) :
    Kept fail (if c then d.mem else e.mem) (if c then d.state else e.state) := by
  split
  · exact hd
  · exact he

@[simp] theorem Dev.kept_ite_snd {α : Type} (c : Prop) [Decidable c] (x y : α × Dev) (hx : Kept fail x.2.mem x.2.state)
    (hy : Kept fail y.2.mem y.2.state) : Kept fail (if c then x else y).2.mem (if c then x else y).2.state := by
  split
  · exact hx
  · exact hy

@[simp] theorem Dev.kept_memPut (d : Dev) (s ga : Nat) (c : Code) (h : Kept fail d.mem d.state) :
    Kept fail (d.memPut s ga c).mem (d.memPut s ga c).state := by
  cases fail with
  | false => exact d.memPut_wf s ga c h
  | true =>
    rw [Dev.memPut_eq]
    exact kept_true.mpr (kept_true.mp h)

@[simp] theorem Dev.kept_undoReq (d : Dev) (lie : List (Nat × Nat)) (r : Req) (h : Kept fail d.mem d.state) :
    Kept fail (d.undoReq lie r).mem (d.undoReq lie r).state := by
  simp +contextual [Dev.undoReq, h]

@[simp] theorem Dev.kept_fenceSet (d : Dev) (s cause : Nat) (h : Kept fail d.mem d.state) :
    Kept fail (d.fenceSet s cause).mem (d.fenceSet s cause).state := by
  unfold Dev.fenceSet
  dsimp only
  repeat' split
  all_goals simp +contextual [h]

@[simp] theorem Dev.kept_deviceFailed (d : Dev) (cause : Nat) (h : Kept fail d.mem d.state) :
    Kept fail (d.deviceFailed cause).mem (d.deviceFailed cause).state := by
  unfold Dev.deviceFailed
  dsimp only
  split
  · exact h
  · simp [kept_failed fail h]

@[simp] theorem Dev.kept_failChans (d : Dev) (i : Nat) (mask : BitVec 4) (cause : Nat) (h : Kept fail d.mem d.state) :
    Kept fail (d.failChans i mask cause).mem (d.failChans i mask cause).state := by
  unfold Dev.failChans
  dsimp only
  split
  · exact Dev.kept_fenceSet _ _ _ (by simp [h])
  · simp [h]

@[simp] theorem Dev.kept_replayStart (d : Dev) (i : Nat) (h : Kept fail d.mem d.state) :
    Kept fail (d.replayStart i).mem (d.replayStart i).state := by
  unfold Dev.replayStart
  dsimp only
  split
  · exact h
  · split <;> simp [h]

@[simp] theorem Dev.kept_fenceEffects (d : Dev) (x cause : Nat) (h : Kept fail d.mem d.state) :
    Kept fail (d.fenceEffects x cause).mem (d.fenceEffects x cause).state := by
  unfold Dev.fenceEffects
  dsimp only
  repeat' split
  all_goals simp +contextual [h]

@[simp] theorem Dev.kept_dieFence (d : Dev) (die cause : Nat) (h : Kept fail d.mem d.state) :
    Kept fail (d.dieFence die cause).mem (d.dieFence die cause).state := by
  unfold Dev.dieFence
  extract_lets d1 d2 was doms d3 d4 sets d5 d6
  split
  · exact h
  have h4 : Kept fail d4.mem d4.state := by simp +contextual [d4, d3, d2, d1, h]
  have h5 : Kept fail d5.mem d5.state := by simp +contextual [d5, h4]
  have h6 : Kept fail d6.mem d6.state := by simp [d6, h5]
  clear_value d6
  simp [h6]

end

theorem kept_of_calm (fail : Bool) {d e : Dev} (hc : e.calm = d.calm) (h : Kept fail d.mem d.state) : Kept fail e.mem e.state := by
  have hm : e.mem = d.mem := (congrArg Dev.mem hc :)
  have hs : e.state = d.state := (congrArg Dev.state hc :)
  rw [hm, hs]
  exact h

theorem kept_writes (fail : Bool) (ph : Phys) : Dev.WriteKept ph fun d e => Kept fail d.mem d.state → Kept fail e.mem e.state where
  trans h k := k ∘ h
  calm hc := kept_of_calm fail hc
  fence d s cause := d.kept_fenceSet s cause
  store d s ga c := d.kept_memPut s ga c
  die _ d die cause := d.kept_dieFence die cause

section
variable {fail : Bool}

@[simp] theorem Dev.kept_cross (d : Dev) (ph : Phys) (key src dst : Nat) (g : Gran) (h : Kept fail d.mem d.state) :
    Kept fail (d.cross ph key src dst g).2.mem (d.cross ph key src dst g).2.state := by
  unfold Dev.cross
  dsimp only
  repeat' split
  all_goals simp +contextual [h]

@[simp] theorem Dev.kept_crossCodes (d : Dev) (ph : Phys) (src dst : Nat) (a : List (Nat × Code)) (hd : Kept fail d.mem d.state) :
    Kept fail (d.crossCodes ph src dst a).2.mem (d.crossCodes ph src dst a).2.state :=
  (kept_writes fail ph).crossCodes d _ _ _ hd

@[simp] theorem Dev.kept_readGran (d : Dev) (a : Agent) (ph : Phys) (s ga : Nat) (o : Option Owner) (hd : Kept fail d.mem d.state) :
    Kept fail (d.readGran a ph s ga o).2.mem (d.readGran a ph s ga o).2.state :=
  (kept_writes fail ph).readGran d _ _ _ _ hd

@[simp] theorem Dev.kept_checkedBlock {α : Type} (d : Dev) (a : Agent) (ph : Phys) (x k : Nat) (h : Home) (mirror : Bool) (check : List Gran → Option α)
    (hd : Kept fail d.mem d.state) :
    Kept fail (d.checkedBlock a ph x k h mirror check).2.mem (d.checkedBlock a ph x k h mirror check).2.state :=
  (kept_writes fail ph).checkedBlock d _ _ _ _ _ _ hd

@[simp] theorem Dev.kept_storedRead (d : Dev) (a : Agent) (ph : Phys) (x k : Nat) (h : Home) (mirror : Bool)
    (hd : Kept fail d.mem d.state) :
    Kept fail (d.storedRead a ph x k h mirror).2.mem (d.storedRead a ph x k h mirror).2.state :=
  (kept_writes fail ph).storedRead d _ _ _ _ _ hd

@[simp] theorem Dev.kept_carryBlock (d : Dev) (a : Agent) (ph : Phys) (x k : Nat) (repack : Bool) (hd : Kept fail d.mem d.state) :
    Kept fail (d.carryBlock a ph x k repack).2.mem (d.carryBlock a ph x k repack).2.state :=
  (kept_writes fail ph).carryBlock d _ _ _ _ hd

@[simp] theorem Dev.kept_putCodes (d : Dev) (s ga : Nat) (a : List Code) (hd : Kept fail d.mem d.state) :
    Kept fail (d.putCodes s ga a).mem (d.putCodes s ga a).state :=
  (kept_writes fail {}).putCodes d _ _ _ hd

@[simp] theorem Dev.kept_placeCodes (d : Dev) (a : Agent) (ph : Phys) (s ga : Nat) (cs : List Code) (h : Kept fail d.mem d.state) :
    Kept fail (d.placeCodes a ph s ga cs).2.mem (d.placeCodes a ph s ga cs).2.state := by
  unfold Dev.placeCodes
  dsimp only
  split
  · exact h
  have h1 := d.kept_crossCodes ph a.die (d.setDie s) (((List.range cs.length).map (ga + ·)).map (granKey s) |>.zip cs) h
  split <;> next hd =>
    rw [hd] at h1
    dsimp only at h1
    simp [h1]

@[simp] theorem Dev.kept_mirrorBlocks (j : Nat) (ph : Phys) (x : Nat) (ho : Home) (l : List Nat) (d : Dev)
    (h : Kept fail d.mem d.state) : Kept fail (d.mirrorBlocks j ph x ho l).2.mem (d.mirrorBlocks j ph x ho l).2.state := by
  induction l generalizing d with
  | nil => exact h
  | cons k t ih =>
    unfold Dev.mirrorBlocks
    have h1 := d.kept_carryBlock (loessAgent j) ph x k false h
    split
    · next d1 hd =>
      rw [hd] at h1
      dsimp only at h1
      exact h1
    · next cs d1 hd =>
      rw [hd] at h1
      dsimp only at h1
      have h2 := d1.kept_placeCodes (loessAgent j) ph ho.set ((d1.desc x).blkAt ho k) cs h1
      split
      · next d2 hd =>
        rw [hd] at h2
        dsimp only at h2
        exact h2
      · next d2 hd =>
        rw [hd] at h2
        dsimp only at h2
        exact ih _ (by simp [h2])

@[simp] theorem Dev.kept_mirrorWrite (d : Dev) (j : Nat) (ph : Phys) (x s : Nat) (h : Kept fail d.mem d.state) :
    Kept fail (d.mirrorWrite j ph x s).2.mem (d.mirrorWrite j ph x s).2.state := by
  have h1 : Kept fail ((d.mirrorDrop x).updDesc x fun e => { e with reload := false }).mem
      ((d.mirrorDrop x).updDesc x fun e => { e with reload := false }).state := by simp [h]
  unfold Dev.mirrorWrite
  dsimp only
  generalize (d.mirrorDrop x).updDesc x _ = d1 at h1 ⊢
  split
  · exact h1
  · next m _ =>
    have h2 := d1.kept_mirrorBlocks j ph x ⟨true, s, m, (d1.desc x).mirrorSlabs⟩ (d1.desc x).written h1
    split
    · next d2 hd =>
      rw [hd] at h2
      dsimp only at h2
      exact h2
    · next d2 hd =>
      rw [hd] at h2
      dsimp only at h2
      simp [h2]

@[simp] theorem Dev.kept_planMirrors (ph : Phys) (eng : Nat → Option Nat) (l : List PEnt) (d : Dev) (h : Kept fail d.mem d.state) :
    Kept fail (d.planMirrors ph eng l).2.mem (d.planMirrors ph eng l).2.state := by
  induction l generalizing d with
  | nil => exact h
  | cons t l ih =>
    unfold Dev.planMirrors
    split
    · exact ih _ h
    · next s _ =>
      have h1 := d.kept_mirrorWrite ((eng t.ext).getD 0) ph t.ext s h
      split
      · next d1 hd =>
        rw [hd] at h1
        dsimp only at h1
        exact ih _ h1
      · next d1 _ hd =>
        rw [hd] at h1
        dsimp only at h1
        exact h1

@[simp] theorem Dev.kept_planClass (d : Dev) (ph : Phys) (p : Nat) (h : Kept fail d.mem d.state) :
    Kept fail (d.planClass ph p).mem (d.planClass ph p).state := by
  unfold Dev.planClass
  extract_lets x eng waits
  split
  · exact h
  have h1 := d.kept_planMirrors ph eng x.entries h
  split
  · next st d1 hd =>
    rw [hd] at h1
    dsimp only at h1
    simp [h1]
  · next d1 hd =>
    rw [hd] at h1
    dsimp only at h1
    simp [h1]

@[simp] theorem Dev.kept_planAdvance (d : Dev) (ph : Phys) (p : Nat) (h : Kept fail d.mem d.state) :
    Kept fail (d.planAdvance ph p).mem (d.planAdvance ph p).state := by
  simp +contextual [Dev.planAdvance, h]

@[simp] theorem Dev.kept_moveCmds (d : Dev) (ph : Phys) (h : Kept fail d.mem d.state) :
    Kept fail (d.moveCmds ph).mem (d.moveCmds ph).state := by
  unfold Dev.moveCmds
  exact Dev.kept_each _ _ _ (fun e p he => e.kept_planAdvance ph p he) (by simp [h])

@[simp] theorem Dev.kept_readMeta (d : Dev) (a : Agent) (ph : Phys) (s ga : Nat) (x : Option Nat) (hd : Kept fail d.mem d.state) :
    Kept fail (d.readMeta a ph s ga x).2.mem (d.readMeta a ph s ga x).2.state :=
  (kept_writes fail {}).toReadKept.readMeta d _ _ _ _ _ hd

@[simp] theorem Dev.kept_descRead (d : Dev) (a : Agent) (ph : Phys) (x : Nat) (h : Kept fail d.mem d.state) :
    Kept fail (d.descRead a ph x).2.mem (d.descRead a ph x).2.state := by
  unfold Dev.descRead
  split <;> simp +contextual [h]

@[simp] theorem Dev.kept_translateThru (d : Dev) (a : Agent) (ph : Phys) (c w need : Nat) (write : Bool) (thru : List Nat)
    (h : Kept fail d.mem d.state) :
    Kept fail (d.translateThru a ph c w need write thru).2.mem (d.translateThru a ph c w need write thru).2.state := by
  unfold Dev.translateThru
  dsimp only
  split
  · exact h
  split
  · exact h
  split
  · exact h
  split
  · exact h
  split
  · exact h
  split
  · exact h
  next y _ =>
  split
  · exact h
  have h1 := d.kept_descRead a ph y h
  generalize d.descRead a ph y = r at h1 ⊢
  obtain ⟨there, d1⟩ := r
  dsimp only at h1 ⊢
  split
  · exact h1
  repeat' split
  all_goals simp [h1]

@[simp] theorem Dev.kept_translate (d : Dev) (a : Agent) (ph : Phys) (c w need : Nat) (write : Bool) (h : Kept fail d.mem d.state) :
    Kept fail (d.translate a ph c w need write).2.mem (d.translate a ph c w need write).2.state := by
  simp +contextual [Dev.translate, h]

@[simp] theorem Dev.kept_served {α : Type} (d : Dev) (x k : Nat) (rd : Dev → Home → Bool → Option α × Dev)
    (hrd : ∀ e h b, Kept fail e.mem e.state → Kept fail (rd e h b).2.mem (rd e h b).2.state) (h : Kept fail d.mem d.state) :
    Kept fail (d.served x k rd).2.mem (d.served x k rd).2.state := by
  unfold Dev.served
  extract_lets e ho known
  split
  · exact h
  have h1 : Kept fail (if known = true then (none, d) else rd d ho false).2.mem (if known = true then (none, d) else rd d ho false).2.state :=
    Dev.kept_ite_snd _ _ _ h (hrd _ _ _ h)
  generalize (if known = true then (none, d) else rd d ho false : Option α × Dev) = r at h1 ⊢
  obtain ⟨o, d1⟩ := r
  dsimp only at h1 ⊢
  cases o with
  | some l => exact h1
  | none =>
    dsimp only
    split
    · exact h1
    split
    · simp [h1]
    · next m _ =>
      have h2 := Dev.kept_ite_snd (d1.blockBad x k m true = true) (none, d1) (rd d1 m true) h1 (hrd _ _ _ h1)
      generalize (if d1.blockBad x k m true = true then (none, d1) else rd d1 m true : Option α × Dev) = r at h2 ⊢
      obtain ⟨o, d2⟩ := r
      dsimp only at h2
      cases o with
      | some l => exact h2
      | none => simp [h2]

@[simp] theorem Dev.kept_readBlockAt (d : Dev) (a : Agent) (ph : Phys) (x k : Nat) (start n : Nat) (h : Home) (mirror : Bool)
    (hd : Kept fail d.mem d.state) :
    Kept fail (d.readBlockAt a ph x k start n h mirror).2.mem (d.readBlockAt a ph x k start n h mirror).2.state :=
  (kept_writes fail ph).readBlockAt d _ _ _ _ _ _ _ hd

@[simp] theorem Dev.kept_readBlock (d : Dev) (a : Agent) (ph : Phys) (x k start n : Nat) (h : Kept fail d.mem d.state) :
    Kept fail (d.readBlock a ph x k start n).2.mem (d.readBlock a ph x k start n).2.state := by
  unfold Dev.readBlock
  split
  · exact h
  · exact d.kept_served _ _ _ (fun e ho m => e.kept_readBlockAt a ph x k start n ho m) h

@[simp] theorem Dev.kept_readParts (a : Agent) (ph : Phys) (x : Nat) (l : List (Nat × Nat × Nat)) (d : Dev)
    (h : Kept fail d.mem d.state) : Kept fail (d.readParts a ph x l).2.mem (d.readParts a ph x l).2.state := by
  induction l generalizing d with
  | nil => exact h
  | cons b t ih => exact ih _ (d.kept_readBlock a ph x _ _ _ h)

@[simp] theorem Dev.kept_readExtent (d : Dev) (a : Agent) (ph : Phys) (x : Nat) (l : List (Nat × Nat × Nat))
    (h : Kept fail d.mem d.state) : Kept fail (d.readExtent a ph x l).2.mem (d.readExtent a ph x l).2.state := by
  unfold Dev.readExtent
  split
  · exact h
  · exact d.kept_readParts a ph x l h

@[simp] theorem Dev.kept_readWindow_go (a : Agent) (ph : Phys) (c need : Nat) (l : List (Nat × Nat × Nat)) (d : Dev)
    (h : Kept fail d.mem d.state) :
    Kept fail (Dev.readWindow.go a ph c need l d).2.mem (Dev.readWindow.go a ph c need l d).2.state := by
  induction l generalizing d with
  | nil => exact h
  | cons b t ih =>
    unfold Dev.readWindow.go
    have h1 := d.kept_translate a ph c b.1 need false h
    split
    · next hd =>
      rw [hd] at h1
      dsimp only at h1
      exact h1
    · next x _ d1 hd =>
      rw [hd] at h1
      dsimp only at h1
      have h2 := (d1.heatUp x).kept_readExtent (fail := fail) a ph x (splitBlocks b.2.1 b.2.2) (by simp [h1])
      split
      · next hd =>
        rw [hd] at h2
        dsimp only at h2
        exact h2
      · next hd =>
        rw [hd] at h2
        dsimp only at h2
        exact ih _ h2

@[simp] theorem Dev.kept_readWindow (d : Dev) (a : Agent) (ph : Phys) (c addr : Nat) (n need : Nat) (h : Kept fail d.mem d.state) :
    Kept fail (d.readWindow a ph c addr n need).2.mem (d.readWindow a ph c addr n need).2.state := by
  unfold Dev.readWindow
  split <;> simp +contextual [h]

@[simp] theorem Dev.kept_fetchOne (d : Dev) (ph : Phys) (q : Queue) (h : Kept fail d.mem d.state) :
    Kept fail (d.fetchOne ph q).mem (d.fetchOne ph q).state := by
  unfold Dev.fetchOne
  split <;> simp +contextual [h]

@[simp] theorem Dev.kept_fetchLoop (ph : Phys) (q : Queue) (n : Nat) (d : Dev) (h : Kept fail d.mem d.state) :
    Kept fail (d.fetchLoop ph q n).mem (d.fetchLoop ph q n).state := by
  induction n generalizing d with
  | zero => exact h
  | succ n ih =>
    unfold Dev.fetchLoop
    split
    · exact ih _ (d.kept_fetchOne ph q h)
    · exact h

@[simp] theorem Dev.kept_fetchAll (d : Dev) (ph : Phys) (h : Kept fail d.mem d.state) :
    Kept fail (d.fetchAll ph).mem (d.fetchAll ph).state :=
  d.kept_each _ _ (fun e q he => by simp [he]) h

@[simp] theorem Dev.kept_wireBlock (d : Dev) (a : Agent) (ph : Phys) (x k : Nat) (h : Kept fail d.mem d.state) :
    Kept fail (d.wireBlock a ph x k).2.mem (d.wireBlock a ph x k).2.state :=
  d.kept_served _ _ _ (fun e ho m => e.kept_storedRead a ph x k ho m) h

@[simp] theorem Dev.kept_wireBlocks (a : Agent) (ph : Phys) (l : List (Nat × Nat)) (d : Dev) (h : Kept fail d.mem d.state) :
    Kept fail (d.wireBlocks a ph l).2.mem (d.wireBlocks a ph l).2.state := by
  induction l generalizing d with
  | nil => exact h
  | cons b t ih => exact ih _ (d.kept_wireBlock a ph _ _ h)

@[simp] theorem Dev.kept_wireRead (d : Dev) (a : Agent) (ph : Phys) (l : List (Nat × Nat)) (h : Kept fail d.mem d.state) :
    Kept fail (d.wireRead a ph l).2.mem (d.wireRead a ph l).2.state := by
  unfold Dev.wireRead
  split
  · exact h
  · exact d.kept_wireBlocks a ph l h

@[simp] theorem Dev.kept_readRuns (a : Agent) (ph : Phys) (l : List (Nat × Nat × Nat)) (d : Dev) (h : Kept fail d.mem d.state) :
    Kept fail (d.readRuns a ph l).2.mem (d.readRuns a ph l).2.state := by
  induction l generalizing d with
  | nil => exact h
  | cons b t ih => exact ih _ (d.kept_readExtent a ph _ _ h)

@[simp] theorem Dev.kept_partRead (d : Dev) (a : Agent) (ph : Phys) (l : List (Nat × Nat × Nat)) (h : Kept fail d.mem d.state) :
    Kept fail (d.partRead a ph l).2.mem (d.partRead a ph l).2.state := by
  unfold Dev.partRead
  split
  · exact h
  · exact d.kept_readRuns a ph l h

@[simp] theorem Dev.kept_tableUse (d : Dev) (ph : Phys) (site t : Nat) (gen : Bool) (hd : Kept fail d.mem d.state) :
    Kept fail (d.tableUse ph site t gen).mem (d.tableUse ph site t gen).state :=
  (kept_writes fail ph).tableUse d _ _ _ hd

@[simp] theorem Dev.kept_encode (d : Dev) (ph : Phys) (x k : Nat) (data : List Gran) (isPart : Bool) (hd : Kept fail d.mem d.state) :
    Kept fail (d.encode ph x k data isPart).2.mem (d.encode ph x k data isPart).2.state :=
  (kept_writes fail ph).encode d _ _ _ _ hd

@[simp] theorem Dev.kept_memWrite (d : Dev) (s ga : Nat) (g : Gran) (h : Kept fail d.mem d.state) :
    Kept fail (d.memWrite s ga g).mem (d.memWrite s ga g).state := by
  simp +contextual [Dev.memWrite, h]

@[simp] theorem Dev.kept_storeBlocks (d : Dev) (a : Agent) (ph : Phys) (x : Nat) (bs : List BlkW) (hd : Kept fail d.mem d.state) :
    Kept fail (d.storeBlocks a ph x bs).2.mem (d.storeBlocks a ph x bs).2.state :=
  (kept_writes fail ph).storeBlocks d _ _ _ hd

@[simp] theorem Dev.kept_writeExtent (d : Dev) (a : Agent) (ph : Phys) (x : Nat) (ws : List GW) (hd : Kept fail d.mem d.state) :
    Kept fail (d.writeExtent a ph x ws).2.mem (d.writeExtent a ph x ws).2.state :=
  (kept_writes fail ph).writeExtent d _ _ _ hd

@[simp] theorem Dev.kept_partWrite (a : Agent) (ph : Phys) (l : List (Nat × Nat × Nat)) (gs : List Gran) (ms : List (BitVec 32))
    (d : Dev) (h : Kept fail d.mem d.state) : Kept fail (d.partWrite a ph gs ms l).2.mem (d.partWrite a ph gs ms l).2.state := by
  induction l generalizing d gs ms with
  | nil => exact h
  | cons x t ih =>
    unfold Dev.partWrite
    have h1 := d.kept_writeExtent a ph x.1 (mkWrites x.2.1 (gs.take x.2.2) ms) h
    split
    · next hd =>
      rw [hd] at h1
      dsimp only at h1
      exact ih _ _ _ h1
    · next hd =>
      rw [hd] at h1
      dsimp only at h1
      exact h1

@[simp] theorem Dev.kept_applyAtom (d : Dev) (r : Req) (x : Nat × Nat × Nat) (h : Kept fail d.mem d.state) :
    Kept fail (d.applyAtom r x).mem (d.applyAtom r x).state := by
  unfold Dev.applyAtom
  extract_lets a home e key
  have h1 := d.kept_cross r.ph key a.die home.die (r.data.getD 0 0) h
  split
  · next hd =>
    rw [hd] at h1
    dsimp only at h1
    simp [h1]
  next arg d1 hd =>
  rw [hd] at h1
  dsimp only at h1
  have h2 := d1.kept_partRead home r.ph [x] h1
  split
  · next hd =>
    rw [hd] at h2
    dsimp only at h2
    simp [h2]
  next g d2 hd =>
  rw [hd] at h2
  dsimp only at h2
  dsimp only
  generalize granSetWord _ _ _ = gn
  have h3 := d2.kept_partWrite home r.ph [x] [gn] [] h2
  split
  · next d3 hd =>
    rw [hd] at h3
    dsimp only at h3
    have h4 := d3.kept_cross r.ph key home.die a.die (g.getD 0 0) h3
    split
    · next hd =>
      rw [hd] at h4
      dsimp only at h4
      simp [h4]
    · next hd =>
      rw [hd] at h4
      dsimp only at h4
      simp [h4]
  · next hd =>
    rw [hd] at h3
    dsimp only at h3
    simp [h3]

@[simp] theorem Dev.kept_applyReq (d : Dev) (r : Req) (h : Kept fail d.mem d.state) :
    Kept fail (d.applyReq r).mem (d.applyReq r).state := by
  unfold Dev.applyReq
  dsimp only
  split
  · split <;> simp [h]
  split
  · split <;> simp [h]
  · split <;> simp [h]

@[simp] theorem Dev.kept_applyDue (d : Dev) (id : Nat) (h : Kept fail d.mem d.state) :
    Kept fail (d.applyDue id).mem (d.applyDue id).state := by
  unfold Dev.applyDue
  split
  · exact h
  split
  · exact h
  next r _ _ =>
  cases hl : d.lenChanged r with
  | none => simp [h]
  | some e =>
    have hc := d.core_lenChanged hl
    simp [hc, h]

@[simp] theorem Dev.kept_issueReq (d : Dev) (r : Req) (before : List Req) (h : Kept fail d.mem d.state) :
    Kept fail (d.issueReq r before).mem (d.issueReq r before).state := by
  unfold Dev.issueReq
  dsimp only
  repeat' split
  all_goals simp +contextual [h]

@[simp] theorem Dev.kept_issueAll (l : List Nat) (d : Dev) (h : Kept fail d.mem d.state) :
    Kept fail (d.issueAll l).mem (d.issueAll l).state := by
  induction l generalizing d with
  | nil => exact h
  | cons id t ih =>
    unfold Dev.issueAll
    split
    · exact ih _ h
    · dsimp only
      split
      · exact ih _ (d.kept_issueReq _ _ h)
      · exact ih _ h

@[simp] theorem Dev.kept_pump (d : Dev) (p : Nat) (h : Kept fail d.mem d.state) :
    Kept fail (d.pump p).mem (d.pump p).state := by
  simp +contextual [Dev.pump, h]

@[simp] theorem Dev.kept_pumpAll (d : Dev) (h : Kept fail d.mem d.state) :
    Kept fail d.pumpAll.mem d.pumpAll.state := by
  simp +contextual [Dev.pumpAll, h]

@[simp] theorem Dev.kept_writeWindow_go (a : Agent) (ph : Phys) (c : Nat) (l : List (Nat × Nat × Nat)) (gs : List Gran)
    (ms : List (BitVec 32)) (d : Dev) (h : Kept fail d.mem d.state) :
    Kept fail (Dev.writeWindow.go a ph c l gs ms d).2.mem (Dev.writeWindow.go a ph c l gs ms d).2.state := by
  induction l generalizing d gs ms with
  | nil => exact h
  | cons b t ih =>
    unfold Dev.writeWindow.go
    have h1 := d.kept_translate a ph c b.1 rW true h
    split
    · next hd =>
      rw [hd] at h1
      dsimp only at h1
      exact h1
    · next x _ d1 hd =>
      rw [hd] at h1
      dsimp only at h1
      have h2 := (d1.heatUp x).kept_writeExtent (fail := fail) a ph x (mkWrites b.2.1 (gs.take b.2.2) ms) (by simp [h1])
      split
      · next hd =>
        rw [hd] at h2
        dsimp only at h2
        exact ih _ _ _ h2
      · next hd =>
        rw [hd] at h2
        dsimp only at h2
        exact h2

@[simp] theorem Dev.kept_writeWindow (d : Dev) (a : Agent) (ph : Phys) (c addr : Nat) (gs : List Gran) (ms : List (BitVec 32))
    (h : Kept fail d.mem d.state) :
    Kept fail (d.writeWindow a ph c addr gs ms).2.mem (d.writeWindow a ph c addr gs ms).2.state := by
  unfold Dev.writeWindow
  split <;> simp +contextual [h]

@[simp] theorem Dev.kept_cqCtxPut (d : Dev) (ph : Phys) (c : Nat) (e : Gran × Gran × Bool) (h : Kept fail d.mem d.state) :
    Kept fail (d.cqCtxPut ph c e).mem (d.cqCtxPut ph c e).state := by
  simp +contextual [Dev.cqCtxPut, h]

@[simp] theorem Dev.kept_cqCtxFlush (d : Dev) (ph : Phys) (c : Nat) (h : Kept fail d.mem d.state) :
    Kept fail (d.cqCtxFlush ph c).mem (d.cqCtxFlush ph c).state :=
  d.kept_foldl _ _ (fun e x he => by
    dsimp only
    split
    · exact Dev.kept_cqCtxPut _ _ _ _ (by simp [he])
    · exact he) h

@[simp] theorem Dev.kept_cqFlush (d : Dev) (ph : Phys) (h : Kept fail d.mem d.state) :
    Kept fail (d.cqFlush ph).mem (d.cqFlush ph).state := by
  simp +contextual [Dev.cqFlush, h]

@[simp] theorem Dev.kept_settle (d : Dev) (ph : Phys) (h : Kept fail d.mem d.state) :
    Kept fail (d.settle ph).mem (d.settle ph).state := by
  have h1 := d.kept_cqFlush ph h
  unfold Dev.settle
  dsimp only
  split <;> simp [h1]

@[simp] theorem Dev.kept_finish (d : Dev) (ph : Phys) (h : Kept fail d.mem d.state) :
    Kept fail (d.finish ph).mem (d.finish ph).state := by
  have h1 : Kept fail (if d.upd.paused then d else d.msgsServe.moveCmds ph).mem
      (if d.upd.paused then d else d.msgsServe.moveCmds ph).state := by
    split <;> simp [h]
  unfold Dev.finish
  dsimp only
  split
  · exact Dev.kept_fetchAll _ _ (Dev.kept_pumpAll _ (Dev.kept_settle _ _ h1))
  · split <;> simp [h]

theorem Dev.kept_arriveWith (d : Dev) (p ty : Nat) (hdr : ReqHdr) (data : List Gran) (ph : Phys) (bad : Bool) (go : Nat → Dev → Dev)
    (hgo : ∀ id e, Kept fail e.mem e.state → Kept fail (go id e).mem (go id e).state) (h : Kept fail d.mem d.state) :
    Kept fail (d.arriveWith p ty hdr data ph bad go).mem (d.arriveWith p ty hdr data ph bad go).state := by
  unfold Dev.arriveWith
  dsimp only
  split
  · exact h
  split
  · exact h
  split
  · simp [h]
  have h1 : ∀ e : Dev, e.mem = d.mem → e.state = d.state → Kept fail e.mem e.state := fun e hm hs => by
    rw [hm, hs]
    exact h
  split
  · exact h1 _ (by simp) (by simp)
  · refine hgo _ _ (h1 _ ?_ ?_) <;> split <;> simp

end

end Sys2Proof.Machine

/-! PROOF. What every step keeps, for the device's own commands and events: LOESS, GRADE, the beds and their operations, contexts and
regions, requests, the controllers, safety, freeze and bring-up. -/
namespace Sys2Proof.Machine

section
variable {fail : Bool}

/-- What every step of a fold over a device and a result keeps, the fold keeps. -/
theorem kept_fold {α β : Type} (l : List β) (r : α × Dev) (F : α × Dev → β → α × Dev)
    (hF : ∀ r e, Kept fail r.2.mem r.2.state → Kept fail (F r e).2.mem (F r e).2.state) (h : Kept fail r.2.mem r.2.state) :
    Kept fail (l.foldl F r).2.mem (l.foldl F r).2.state := by
  induction l generalizing r with
  | nil => exact h
  | cons e t ih => exact ih _ (hF _ _ h)

@[simp] theorem Dev.kept_readAgain (d : Dev) (i : Nat) (h : Kept fail d.mem d.state) :
    Kept fail (d.readAgain i).mem (d.readAgain i).state := by
  simp +contextual [Dev.readAgain, h]

@[simp] theorem Dev.kept_instResume (d : Dev) (i : Nat) (h : Kept fail d.mem d.state) :
    Kept fail (d.instResume i).mem (d.instResume i).state := by
  simp +contextual [Dev.instResume, h]

@[simp] theorem Dev.kept_trainFails (d : Dev) (i : Nat) (l : List TrainFail) (cause : Nat) (h : Kept fail d.mem d.state) :
    Kept fail (d.trainFails i l cause).mem (d.trainFails i l cause).state := by
  unfold Dev.trainFails
  split <;> simp +contextual [h]

@[simp] theorem Dev.kept_pllResult (d : Dev) (p : Nat) (ok : Bool) (fails : List TrainFail) (h : Kept fail d.mem d.state) :
    Kept fail (d.pllResult p ok fails).mem (d.pllResult p ok fails).state := by
  unfold Dev.pllResult
  dsimp only
  repeat' split
  all_goals simp +contextual [h]

@[simp] theorem Dev.kept_refclkFail (d : Dev) (h : Kept fail d.mem d.state) :
    Kept fail d.refclkFail.mem d.refclkFail.state := by
  unfold Dev.refclkFail
  dsimp only
  split
  · exact h
  · refine Dev.kept_deviceFailed _ _ (Dev.kept_each _ _ _ (fun e p he => ?_) (Dev.kept_each _ _ _ (fun e s he => by simp [he]) h))
    split <;> simp [he]

@[simp] theorem Dev.kept_moveRead (a : Agent) (ph : Phys) (x : Nat) (auto : Bool) (l : List Nat) (d : Dev)
    (h : Kept fail d.mem d.state) : Kept fail (d.moveRead a ph x auto l).2.mem (d.moveRead a ph x auto l).2.state := by
  induction l generalizing d with
  | nil => exact h
  | cons k t ih =>
    unfold Dev.moveRead
    dsimp only
    split
    · split <;> simp [h]
    · exact ih _ (by split <;> simp [h])

@[simp] theorem Dev.kept_placeBlocks_ (a : Agent) (ph : Phys) (e : Desc) (ho : Home) (l : List (Nat × List Code)) (d : Dev)
    (h : Kept fail d.mem d.state) : Kept fail (d.placeBlocks_ a ph e ho l).2.mem (d.placeBlocks_ a ph e ho l).2.state := by
  induction l generalizing d with
  | nil => exact h
  | cons b t ih =>
    unfold Dev.placeBlocks_
    have h1 := d.kept_placeCodes a ph ho.set (e.blkAt ho b.1) b.2 h
    generalize d.placeCodes a ph ho.set (e.blkAt ho b.1) b.2 = r at h1 ⊢
    obtain ⟨ok, d1⟩ := r
    cases ok with
    | false => exact h1
    | true => exact ih _ h1

@[simp] theorem Dev.kept_moveCopy (d : Dev) (x : Nat) (ph : Phys) (h : Kept fail d.mem d.state) :
    Kept fail (d.moveCopy x ph).mem (d.moveCopy x ph).state := by
  unfold Dev.moveCopy
  split
  · exact h
  next m _ =>
  extract_lets j e rd wr
  split
  · exact h
  split
  · simp [h]
  split
  · exact h
  split
  · exact h
  have h1 := Dev.kept_moveRead (fail := fail) (loessAgent j) ph x m.kind.auto e.written (d.charge (loessMaster j) rd) (by simp [h])
  generalize (d.charge (loessMaster j) rd).moveRead (loessAgent j) ph x m.kind.auto e.written = r at h1 ⊢
  obtain ⟨r, d1⟩ := r
  dsimp only at h1 ⊢
  have h2 : Kept fail (d1.discharge (loessMaster j) rd).mem (d1.discharge (loessMaster j) rd).state := by simp [h1]
  generalize d1.discharge (loessMaster j) rd = d2 at h2 ⊢
  split
  · simp [h2]
  · exact h2
  next codes _ _ =>
  have h3 := d2.kept_placeBlocks_ (loessAgent j) ph e m.dst codes h2
  generalize d2.placeBlocks_ (loessAgent j) ph e m.dst codes = r at h3 ⊢
  obtain ⟨ok, d3⟩ := r
  cases ok <;> simp at h3 <;> simp [h3]

@[simp] theorem Dev.kept_copyBlocks (a : Agent) (ph : Phys) (x : Nat) (ho : Home) (l : List Nat) (d : Dev)
    (h : Kept fail d.mem d.state) : Kept fail (d.copyBlocks a ph x ho l).2.mem (d.copyBlocks a ph x ho l).2.state := by
  induction l generalizing d with
  | nil => exact h
  | cons k t ih =>
    unfold Dev.copyBlocks
    have h1 := d.kept_served x k (fun d s mirror => d.storedRead a ph x k s mirror)
      (fun e s mirror => e.kept_storedRead a ph x k s mirror) h
    generalize d.served x k (fun d s mirror => d.storedRead a ph x k s mirror) = r at h1 ⊢
    obtain ⟨st, d1⟩ := r
    cases st with
    | none => exact ih _ h1
    | some st => exact ih _ (d1.kept_placeCodes a ph _ _ _ h1)

@[simp] theorem Dev.kept_fillSlot (d : Dev) (p j l : Nat) (ph : Phys) (si : Nat × Nat) (h : Kept fail d.mem d.state) :
    Kept fail (d.fillSlot p j l ph si).mem (d.fillSlot p j l ph si).state := by
  unfold Dev.fillSlot
  dsimp only
  split
  · simp [h]
  · split <;> simp [h]

@[simp] theorem Dev.kept_fillStart (d : Dev) (p : Nat) (ph : Phys) (h : Kept fail d.mem d.state) :
    Kept fail (d.fillStart p ph).mem (d.fillStart p ph).state := by
  unfold Dev.fillStart
  dsimp only
  repeat' split
  all_goals simp +contextual [h]

@[simp] theorem Dev.kept_recordFetch (d : Dev) (site t : Nat) (b : Bool) (bad : Nat) (ph : Phys) (h : Kept fail d.mem d.state) :
    Kept fail (d.recordFetch site t b bad ph).mem (d.recordFetch site t b bad ph).state := by
  simp +contextual [Dev.recordFetch, h]

@[simp] theorem kept_tableInstallBody (e : Entry) (ph : Phys) (ref : CmdRef) (c : Nat) (d : Dev) (h : Kept fail d.mem d.state) :
    Kept fail (tableInstallBody e ph ref c d).mem (tableInstallBody e ph ref c d).state := by
  unfold tableInstallBody
  dsimp only
  split
  · split <;> simp [h]
  split
  · simp [h]
  split
  · simp [h]
  have h1 := d.kept_readWindow (d.ringAgent (d.ctx c).port) ph c (e.arg 1) 8 rR h
  generalize d.readWindow (d.ringAgent (d.ctx c).port) ph c (e.arg 1) 8 rR = r at h1 ⊢
  obtain ⟨⟨s, gs⟩, d1⟩ := r
  dsimp only at h1
  split
  · next he =>
    cases he
    split <;> simp [h1]
  · next he =>
    cases he
    simp [h1]

@[simp] theorem Dev.kept_fitDone (d : Dev) (t : Nat) (ph : Phys) (h : Kept fail d.mem d.state) :
    Kept fail (d.fitDone t ph).mem (d.fitDone t ph).state := by
  unfold Dev.fitDone
  split
  · exact h
  next addr c _ =>
  extract_lets hs port d1
  have h1 : Kept fail d1.mem d1.state := by simp [d1, h]
  clear_value d1
  have h2 := d1.kept_writeWindow (d1.ringAgent port) ph c addr (fitGrans hs) [] h1
  generalize d1.writeWindow (d1.ringAgent port) ph c addr (fitGrans hs) [] = r at h2 ⊢
  obtain ⟨st, d2⟩ := r
  dsimp only at h2 ⊢
  split
  · simp [h2]
  split
  · simp [h2]
  split <;> simp [h2]

@[simp] theorem Dev.kept_recodeBlock (d : Dev) (ph : Phys) (x k : Nat) (h : Kept fail d.mem d.state) :
    Kept fail (d.recodeBlock ph x k).2.mem (d.recodeBlock ph x k).2.state := by
  unfold Dev.recodeBlock
  extract_lets e die a
  have h1 := d.kept_readBlockAt a ph x k 0 64 e.home false h
  generalize d.readBlockAt a ph x k 0 64 e.home false = r at h1 ⊢
  obtain ⟨r, d1⟩ := r
  cases r with
  | none => exact h1
  | some data =>
    dsimp only at h1 ⊢
    have h2 := d1.kept_encode ph x k data false h1
    generalize d1.encode ph x k data false = r at h2 ⊢
    obtain ⟨c, d2⟩ := r
    have h3 := d2.kept_storeBlocks a ph x [⟨k, c.len, c.gen, (List.range c.grans.length).zip c.grans⟩] h2
    dsimp only
    split
    · next hd =>
      rw [hd] at h3
      exact h3
    · next hd =>
      rw [hd] at h3
      exact h3

@[simp] theorem Dev.kept_recodeDone (d : Dev) (t : Nat) (ph : Phys) (h : Kept fail d.mem d.state) :
    Kept fail (d.recodeDone t ph).mem (d.recodeDone t ph).state := by
  unfold Dev.recodeDone
  split
  · exact h
  · have h1 := kept_fold (d.recodeList t) (0, d) (fun o b => (o.1 + b2n (o.2.recodeBlock ph b.1 b.2).1, (o.2.recodeBlock ph b.1 b.2).2))
      (fun o b ho => o.2.kept_recodeBlock ph b.1 b.2 ho) h
    dsimp only
    simp [h1]

@[simp] theorem Dev.kept_fetchWord (d : Dev) (b c : Nat) (ph : Phys) (a : Nat) (h : Kept fail d.mem d.state) :
    Kept fail (d.fetchWord b c ph a).mem (d.fetchWord b c ph a).state := by
  simp +contextual [Dev.fetchWord, h]

@[simp] theorem Dev.kept_fetchAhead (d : Dev) (b c : Nat) (ph : Phys) (pc ahead : Nat) (h : Kept fail d.mem d.state) :
    Kept fail (d.fetchAhead b c ph pc ahead).mem (d.fetchAhead b c ph pc ahead).state :=
  d.kept_each _ _ (fun e i he => by split <;> simp [he]) h

@[simp] theorem Dev.kept_domFence (d : Dev) (x cause : Nat) (h : Kept fail d.mem d.state) :
    Kept fail (d.domFence x cause).mem (d.domFence x cause).state := by
  unfold Dev.domFence
  dsimp only
  repeat' split
  all_goals simp +contextual [h]

@[simp] theorem Dev.kept_sigFence (d : Dev) (b c : Nat) (h : Kept fail d.mem d.state) :
    Kept fail (d.sigFence b c).mem (d.sigFence b c).state := by
  simp +contextual [Dev.sigFence, h]

@[simp] theorem Dev.kept_signatures (d : Dev) (b : Nat) (dis1 : List (Nat × Nat)) (dis2 : List (Nat × Nat))
    (h : Kept fail d.mem d.state) :
    Kept fail (d.signatures b dis1 dis2).2.mem (d.signatures b dis1 dis2).2.state := by
  unfold Dev.signatures
  dsimp only
  repeat' split
  all_goals simp +contextual [h]

@[simp] theorem Dev.kept_xlRange (a : Agent) (ph : Phys) (c need : Nat) (write : Bool) (l : List Nat) (d : Dev)
    (h : Kept fail d.mem d.state) : Kept fail (d.xlRange a ph c need write l).2.mem (d.xlRange a ph c need write l).2.state := by
  induction l generalizing d with
  | nil => exact h
  | cons w t ih =>
    unfold Dev.xlRange
    split
    · exact h
    have h1 := d.kept_translate a ph c w need write h
    generalize d.translate a ph c w need write = r at h1 ⊢
    obtain ⟨x, d1⟩ := r
    cases x with
    | bad s => exact h1
    | ok x i => exact ih _ h1

@[simp] theorem Dev.kept_xlDescs (a : Agent) (ph : Phys) (c : Nat) (l : List (TDesc × Nat × Bool)) (d : Dev)
    (h : Kept fail d.mem d.state) : Kept fail (d.xlDescs a ph c l).2.mem (d.xlDescs a ph c l).2.state := by
  induction l generalizing d with
  | nil => exact h
  | cons w t ih =>
    unfold Dev.xlDescs
    have h1 := d.kept_xlRange a ph c w.2.1 w.2.2 w.1.wexts h
    split
    · next hd =>
      rw [hd] at h1
      exact ih _ h1
    · next hd =>
      rw [hd] at h1
      exact h1

@[simp] theorem Dev.kept_resolveOp (d : Dev) (b c : Nat) (ph : Phys) (pc : BitVec 48) (s : BitVec 128) (h : Kept fail d.mem d.state) :
    Kept fail (d.resolveOp b c ph pc s).2.mem (d.resolveOp b c ph pc s).2.state := by
  unfold Dev.resolveOp
  extract_lets x rs own o st wants
  clear_value own
  split
  · exact h
  have h1 := d.kept_xlDescs (d.bedAgent b) ph c wants h
  generalize d.xlDescs (d.bedAgent b) ph c wants = r at h1 ⊢
  obtain ⟨sl, d1⟩ := r
  dsimp only at h1 ⊢
  split
  · exact h1
  split
  · exact h1
  · exact h1

@[simp] theorem Dev.kept_tensorIssue (d : Dev) (b c : Nat) (ph : Phys) (pc : BitVec 48) (ts : BitVec 128)
    (h : Kept fail d.mem d.state) :
    Kept fail (d.tensorIssue b c ph pc ts).mem (d.tensorIssue b c ph pc ts).state := by
  simp +contextual [Dev.tensorIssue, h]

@[simp] theorem Dev.kept_clayTagOk (d : Dev) (ph : Phys) (b c : Nat) (k key : Nat) (h : Kept fail d.mem d.state) :
    Kept fail (d.clayTagOk ph b c k key).2.mem (d.clayTagOk ph b c k key).2.state := by
  unfold Dev.clayTagOk
  dsimp only
  split <;> simp +contextual [h]

@[simp] theorem Dev.kept_clayPutIn (d : Dev) (ph : Phys) (b c : Nat) (k o : Nat) (g : Gran) (h : Kept fail d.mem d.state) :
    Kept fail (d.clayPutIn ph b c k o g).2.mem (d.clayPutIn ph b c k o g).2.state := by
  unfold Dev.clayPutIn
  split <;> simp +contextual [h]

@[simp] theorem Dev.kept_clayWrite (d : Dev) (ph : Phys) (b c o : Nat) (g : Gran) (h : Kept fail d.mem d.state) :
    Kept fail (d.clayWrite ph b c o g).2.mem (d.clayWrite ph b c o g).2.state :=
  kept_fold _ (true, d) _ (fun r k hr => r.2.kept_clayPutIn ph b c k o g hr) h

@[simp] theorem Dev.kept_clayLoad (d : Dev) (ph : Phys) (k key : Nat) (h : Kept fail d.mem d.state) :
    Kept fail (d.clayLoad ph k key).2.mem (d.clayLoad ph k key).2.state := by
  unfold Dev.clayLoad
  generalize (2 : Nat) ^ 60 = top
  extract_lets c u ce
  have hce : ∀ (f : Dev) (g : Gran), Kept fail f.mem f.state → Kept fail (ce f g).mem (ce f g).state := by
    intro f g hf
    simp [ce, hf]
  clear_value ce u c
  split
  · exact h
  generalize clayDetail key = detail
  generalize clayDom k = dom
  generalize loamDecode (c ^^^ u.1) = r
  obtain ⟨first, g⟩ := r
  generalize loamDecode (c ^^^ u.2) = r
  obtain ⟨second, g'⟩ := r
  cases first with
  | clean => exact h
  | ce sym => exact hce _ _ h
  | ue =>
    cases second with
    | clean => simp [h]
    | ce sym => exact hce _ _ (by simp [h])
    | ue => exact Dev.kept_domFence _ _ _ (by simp [h])

@[simp] theorem Dev.kept_toCores (d : Dev) (ph : Phys) (b k key : Nat) (g : Gran) (h : Kept fail d.mem d.state) :
    Kept fail (d.toCores ph b k key g).2.mem (d.toCores ph b k key g).2.state := by
  unfold Dev.toCores
  split <;> simp +contextual [h]

@[simp] theorem Dev.kept_slotClay (d : Dev) (ph : Phys) (b c : Nat) (t : Slot) (x0 : Ctx) (w : WordSt) (h : Kept fail d.mem d.state) :
    Kept fail (d.slotClay ph b c t x0 w).2.mem (d.slotClay ph b c t x0 w).2.state := by
  unfold Dev.slotClay
  extract_lets a n
  split
  · exact h
  split
  · exact h
  split
  · exact h
  next k _ =>
  split
  · exact h
  next key _ =>
  have hput : ∀ (f : Dev) (g : Gran), Kept fail f.mem f.state →
      Kept fail (f.clayWrite ph b c (a / 32) g).2.mem (f.clayWrite ph b c (a / 32) g).2.state :=
    fun f g hf => f.kept_clayWrite ph b c (a / 32) g hf
  split
  · exact hput _ _ h
  have h1 := d.kept_clayTagOk ph b c k key h
  generalize d.clayTagOk ph b c k key = r at h1 ⊢
  obtain ⟨ok, d1⟩ := r
  dsimp only at h1 ⊢
  split
  · exact h1
  have h2 := d1.kept_clayLoad ph k key h1
  generalize d1.clayLoad ph k key = r at h2 ⊢
  obtain ⟨g, d2⟩ := r
  cases g with
  | none => exact h2
  | some g =>
    dsimp only at h2 ⊢
    split
    · exact hput _ _ h2
    have h3 := d2.kept_toCores ph b k (2 ^ 60 + key) g h2
    generalize d2.toCores ph b k (2 ^ 60 + key) g = r at h3 ⊢
    obtain ⟨g, d3⟩ := r
    cases g with
    | none => exact h3
    | some g => exact h3

@[simp] theorem Dev.kept_slotRun (d : Dev) (ph : Phys) (b c : Nat) (t : Slot) (x0 : Ctx) (w : WordSt) (h : Kept fail d.mem d.state) :
    Kept fail (d.slotRun ph b c t x0 w).2.mem (d.slotRun ph b c t x0 w).2.state := by
  unfold Dev.slotRun
  split <;> simp +contextual [h]

@[simp] theorem Dev.kept_wordEnd (d : Dev) (b c : Nat) (ph : Phys) (pc : BitVec 48) (w : WordSt) (h : Kept fail d.mem d.state) :
    Kept fail (d.wordEnd b c ph pc w).mem (d.wordEnd b c ph pc w).state := by
  unfold Dev.wordEnd
  dsimp only
  repeat' split
  all_goals simp +contextual [h]

@[simp] theorem Dev.kept_wordRun (d : Dev) (b c : Nat) (ph : Phys) (w : Gran) (resume texec : Bool) (h : Kept fail d.mem d.state) :
    Kept fail (d.wordRun b c ph w resume texec).mem (d.wordRun b c ph w resume texec).state := by
  unfold Dev.wordRun
  extract_lets x ts d1 w0
  split
  · have h1 : Kept fail d1.mem d1.state := by simp [d1, h]
    simp [h1]
  have h2 := d.kept_slotRun ph b c (slotOf (w.toNat % 2 ^ 64)) x w0 h
  generalize d.slotRun ph b c (slotOf (w.toNat % 2 ^ 64)) x w0 = r at h2 ⊢
  obtain ⟨r, d2⟩ := r
  dsimp only at h2 ⊢
  have h3 := d2.kept_slotRun ph b c (slotOf (bits w.toNat 64 64)) x r h2
  generalize d2.slotRun ph b c (slotOf (bits w.toNat 64 64)) x r = r at h3 ⊢
  obtain ⟨r, d3⟩ := r
  dsimp only at h3 ⊢
  split
  · simp [h3]
  · split <;> simp [h3]

@[simp] theorem Dev.kept_issue (d : Dev) (b c ahead : Nat) (dis1 dis2 : List (Nat × Nat)) (ph : Phys) (h : Kept fail d.mem d.state) :
    Kept fail (d.issue b c ahead dis1 dis2 ph).mem (d.issue b c ahead dis1 dis2 ph).state := by
  unfold Dev.issue
  extract_lets x y d1 d2 d3
  have h2 : Kept fail d2.mem d2.state := by
    unfold d2
    split <;> simp [d1, h]
  clear_value d2
  split
  · simp [h2]
  have h3 : Kept fail d3.mem d3.state := d2.kept_fetchAhead b c ph _ _ h2
  clear_value d3
  split
  · exact h3
  split
  · simp [h3]
  next w _ _ =>
  extract_lets t0 t1 ts jump texec acc
  split
  · simp [h3]
  split
  · exact h3
  have h4 : Kept fail (if (texec || acc.any (·.2.2)) = true then d3.signatures b dis1 dis2 else (true, d3)).2.mem
      (if (texec || acc.any (·.2.2)) = true then d3.signatures b dis1 dis2 else (true, d3)).2.state :=
    Dev.kept_ite_snd _ _ _ (d3.kept_signatures b dis1 dis2 h3) h3
  generalize (if (texec || acc.any (·.2.2)) = true then d3.signatures b dis1 dis2 else (true, d3)) = r at h4 ⊢
  obtain ⟨ok, d4⟩ := r
  dsimp only at h4 ⊢
  split <;> simp [h4]

@[simp] theorem Dev.kept_clayRead (d : Dev) (ph : Phys) (b c o : Nat) (h : Kept fail d.mem d.state) :
    Kept fail (d.clayRead ph b c o).2.mem (d.clayRead ph b c o).2.state := by
  unfold Dev.clayRead
  dsimp only
  repeat' split
  all_goals simp +contextual [h]

@[simp] theorem Dev.kept_srcGran (d : Dev) (ph : Phys) (b : Nat) (o : TOp) (r : Nat) (t : TDesc) (g : Nat)
    (h : Kept fail d.mem d.state) :
    Kept fail (d.srcGran ph b o r t g).2.mem (d.srcGran ph b o r t g).2.state := by
  simp +contextual [Dev.srcGran, h]

@[simp] theorem Dev.kept_srcGrans (ph : Phys) (b : Nat) (o : TOp) (r : Nat) (t : TDesc) (n g : Nat) (d : Dev)
    (h : Kept fail d.mem d.state) : Kept fail (d.srcGrans ph b o r t g n).2.mem (d.srcGrans ph b o r t g n).2.state := by
  induction n generalizing d g with
  | zero => exact h
  | succ n ih => exact ih _ _ (d.kept_srcGran ph b o r t g h)

@[simp] theorem Dev.kept_srcRow (d : Dev) (ph : Phys) (b : Nat) (o : TOp) (r : Nat) (i : Nat × Nat × Nat)
    (h : Kept fail d.mem d.state) :
    Kept fail (d.srcRow ph b o r i).2.mem (d.srcRow ph b o r i).2.state := by
  unfold Dev.srcRow
  split <;> simp +contextual [h]

@[simp] theorem Dev.kept_srcRows (ph : Phys) (b : Nat) (o : TOp) (r : Nat) (l : List (Nat × Nat × Nat)) (d : Dev)
    (h : Kept fail d.mem d.state) : Kept fail (d.srcRows ph b o r l).2.mem (d.srcRows ph b o r l).2.state := by
  induction l generalizing d with
  | nil => exact h
  | cons i t ih => exact ih _ (d.kept_srcRow ph b o r i h)

@[simp] theorem Dev.kept_ixRows (d : Dev) (ph : Phys) (b : Nat) (o : TOp) (h : Kept fail d.mem d.state) :
    Kept fail (d.ixRows ph b o).2.mem (d.ixRows ph b o).2.state :=
  d.kept_srcRows ph b o 3 _ h

@[simp] theorem Dev.kept_whereIs (d : Dev) (a : Agent) (ph : Phys) (o : TOp) (t : TDesc) (g : Nat) (h : Kept fail d.mem d.state) :
    Kept fail (d.whereIs a ph o t g).2.mem (d.whereIs a ph o t g).2.state := by
  unfold Dev.whereIs
  split
  · exact h
  have h1 := d.kept_translateThru a ph o.ctx (g / 2048) rR false o.binds h
  generalize d.translateThru a ph o.ctx (g / 2048) rR false o.binds = r at h1 ⊢
  obtain ⟨x, d1⟩ := r
  cases x <;> exact h1

@[simp] theorem Dev.kept_whereAll (a : Agent) (ph : Phys) (o : TOp) (l : List (TDesc × Nat)) (d : Dev)
    (h : Kept fail d.mem d.state) : Kept fail (d.whereAll a ph o l).2.mem (d.whereAll a ph o l).2.state := by
  induction l generalizing d with
  | nil => exact h
  | cons i t ih => exact ih _ (d.kept_whereIs a ph o i.1 i.2 h)

@[simp] theorem Dev.kept_reserveSrc (d : Dev) (ph : Phys) (b r : Nat) (o : TOp) (ix : List (List Nat)) (h : Kept fail d.mem d.state) :
    Kept fail (d.reserveSrc ph b r o ix).mem (d.reserveSrc ph b r o ix).state := by
  unfold Dev.reserveSrc
  dsimp only
  repeat' split
  all_goals simp +contextual [h]

@[simp] theorem Dev.kept_prefetch (d : Dev) (ph : Phys) (b r : Nat) (h : Kept fail d.mem d.state) :
    Kept fail (d.prefetch ph b r).mem (d.prefetch ph b r).state := by
  unfold Dev.prefetch
  dsimp only
  repeat' split
  all_goals simp +contextual [h]

@[simp] theorem Dev.kept_fillTag (d : Dev) (b c : Nat) (ph : Phys) (h : Kept fail d.mem d.state) :
    Kept fail (d.fillTag b c ph).2.mem (d.fillTag b c ph).2.state := by
  refine kept_fold _ (true, d) _ (fun r e hr => ?_) h
  split
  · exact hr
  · exact r.2.kept_clayTagOk ph b c _ _ hr

@[simp] theorem Dev.kept_rawRead (d : Dev) (a : Agent) (ph : Phys) (x k : Nat) (ho : Home) (mirror : Bool)
    (h : Kept fail d.mem d.state) : Kept fail (d.rawRead a ph x k ho mirror).2.mem (d.rawRead a ph x k ho mirror).2.state :=
  d.kept_checkedBlock a ph x k ho mirror some h

@[simp] theorem Dev.kept_slotRaw (d : Dev) (a : Agent) (ph : Phys) (p i k n : Nat) (h : Kept fail d.mem d.state) :
    Kept fail (d.slotRaw a ph p i k n).2.mem (d.slotRaw a ph p i k n).2.state := by
  unfold Dev.slotRaw
  split
  · exact h
  · exact kept_fold _ (some [], d) _ (fun o j ho => o.2.kept_readGran a ph _ _ none ho) h

@[simp] theorem Dev.kept_transitRead (d : Dev) (a : Agent) (ph : Phys) (p : OpPlace) (h : Kept fail d.mem d.state) :
    Kept fail (d.transitRead a ph p).2.mem (d.transitRead a ph p).2.state := by
  unfold Dev.transitRead
  split
  · exact h
  · cases p with
    | slot q j l k => exact d.kept_slotRaw a ph q j k _ h
    | ext x k =>
      exact Dev.kept_ite_snd _ _ _ h (d.kept_served x k _ (fun e ho mirror => e.kept_rawRead a ph x k ho mirror) h)

@[simp] theorem Dev.kept_homeAgain (d : Dev) (a : Agent) (ph : Phys) (x k : Nat) (h : Kept fail d.mem d.state) :
    Kept fail (d.homeAgain a ph x k).2.mem (d.homeAgain a ph x k).2.state := by
  unfold Dev.homeAgain
  extract_lets e i mirrored
  have hm : ∀ f : Dev, Kept fail f.mem f.state → Kept fail (mirrored f).2.mem (mirrored f).2.state :=
    fun f hf => Dev.kept_ite_snd _ _ _ (f.kept_readBlock a ph x k 0 64 hf) hf
  clear_value mirrored
  split
  · exact h
  split
  · simp [h]
  have h1 := d.kept_rawRead a ph x k e.home false h
  generalize d.rawRead a ph x k e.home false = r at h1 ⊢
  obtain ⟨st, d1⟩ := r
  cases st with
  | none => exact hm _ h1
  | some st =>
    dsimp only at h1 ⊢
    split
    · simp [h1]
    · exact hm _ (by simp [h1])

@[simp] theorem Dev.kept_openBlock (d : Dev) (a : Agent) (ph : Phys) (i : BlkId) (l : List Gran) (h : Kept fail d.mem d.state) :
    Kept fail (d.openBlock a ph i l).2.mem (d.openBlock a ph i l).2.state := by
  unfold Dev.openBlock
  split
  · exact h
  split
  · exact h
  · exact d.kept_homeAgain a ph i.ext i.blk h

@[simp] theorem Dev.kept_portOpen (d : Dev) (b : Nat) (ph : Phys) (o : TOp) (r n : Nat) (i : BlkId) (l : List Gran)
    (h : Kept fail d.mem d.state) : Kept fail (d.portOpen b ph o r n i l).2.mem (d.portOpen b ph o r n i l).2.state := by
  unfold Dev.portOpen
  extract_lets d1
  have h1 : Kept fail d1.mem d1.state := by
    unfold d1
    split <;> simp +contextual [h]
  clear_value d1
  have h2 := d1.kept_openBlock (d1.bedAgent b) ph i l h1
  simp [h2]

@[simp] theorem Dev.kept_laneRead (d : Dev) (a : Agent) (ph : Phys) (b : Nat) (o : TOp) (r n : Nat) (w : RdBlk)
    (h : Kept fail d.mem d.state) : Kept fail (d.laneRead a ph b o r n w).2.mem (d.laneRead a ph b o r n w).2.state := by
  unfold Dev.laneRead
  split
  · have h1 := d.kept_transitRead a ph w.place h
    generalize d.transitRead a ph w.place = r' at h1 ⊢
    obtain ⟨t, d1⟩ := r'
    cases t with
    | none => exact h1
    | some il => exact d1.kept_portOpen b ph o r n il.1 il.2 h1
  · split
    · exact kept_fold _ (some [], d) _ (fun o e ho => o.2.kept_readBlock a ph _ _ e.2 1 ho) h
    · exact Dev.kept_ite_snd _ _ _ h (d.kept_slotRaw a ph _ _ _ 64 h)

@[simp] theorem Dev.kept_blockIn (d : Dev) (b r : Nat) (run : Bool) (ph : Phys) (o : TOp) (n : Nat) (w : RdBlk)
    (h : Kept fail d.mem d.state) : Kept fail (d.blockIn b r run ph o n w).mem (d.blockIn b r run ph o n w).state := by
  unfold Dev.blockIn
  extract_lets a d1
  have h1 : Kept fail d1.mem d1.state := by
    unfold d1
    split <;> simp [h]
  clear_value d1
  split
  · have h2 := d1.kept_transitRead a ph w.place h1
    generalize d1.transitRead a ph w.place = r' at h2 ⊢
    obtain ⟨x, d2⟩ := r'
    cases x <;> simp at h2 <;> simp [h2]
  · have h2 := d1.kept_laneRead a ph b o r n w h1
    generalize d1.laneRead a ph b o r n w = r' at h2 ⊢
    obtain ⟨x, d2⟩ := r'
    cases x <;> simp at h2 <;> simp [h2]

@[simp] theorem Dev.kept_blocksIn (d : Dev) (b r : Nat) (run : Bool) (ph : Phys) (o : TOp) (ws : List RdBlk)
    (h : Kept fail d.mem d.state) :
    Kept fail (d.blocksIn b r run ph o ws).mem (d.blocksIn b r run ph o ws).state := by
  simp +contextual [Dev.blocksIn, h]

@[simp] theorem Dev.kept_readApply (d : Dev) (b r n : Nat) (ph : Phys) (h : Kept fail d.mem d.state) :
    Kept fail (d.readApply b r n ph).mem (d.readApply b r n ph).state := by
  unfold Dev.readApply
  dsimp only
  repeat' split
  all_goals simp +contextual [h]

@[simp] theorem Dev.kept_residues (d : Dev) (b U : Nat) (errs : List EngErr) (h : Kept fail d.mem d.state) :
    Kept fail (d.residues b U errs).mem (d.residues b U errs).state :=
  d.kept_each _ _ (fun e u he => by
    dsimp only
    split
    · simp [he]
    · exact Dev.kept_domFence _ _ _ (by simp [he])) h

@[simp] theorem Dev.kept_clayList (ph : Phys) (b c n g : Nat) (d : Dev) (h : Kept fail d.mem d.state) :
    Kept fail (d.clayList ph b c g n).2.mem (d.clayList ph b c g n).2.state := by
  induction n generalizing d g with
  | zero => exact h
  | succ n ih => exact ih _ _ (d.kept_clayRead ph b c g h)

@[simp] theorem Dev.kept_codedClay (ph : Phys) (b : Nat) (o : TOp) (r n m g : Nat) (d : Dev) (h : Kept fail d.mem d.state) :
    Kept fail (d.codedClay ph b o r m g n).2.mem (d.codedClay ph b o r m g n).2.state := by
  induction n generalizing d m g with
  | zero => exact h
  | succ n ih =>
    unfold Dev.codedClay
    split
    · simp [h]
    next i _ =>
    have h1 := d.kept_clayList ph b o.ctx (wGran i.len) g h
    generalize d.clayList ph b o.ctx g (wGran i.len) = x at h1 ⊢
    obtain ⟨l, d1⟩ := x
    cases l with
    | none => simp_all
    | some l =>
      dsimp only at h1 ⊢
      have h2 := d1.kept_portOpen b ph o r m i l h1
      generalize d1.portOpen b ph o r m i l = x at h2 ⊢
      obtain ⟨x, d2⟩ := x
      cases x with
      | none => simp_all
      | some x => exact ih _ _ _ h2

@[simp] theorem Dev.kept_scaleRows (ph : Phys) (b : Nat) (o : TOp) (r : Nat) (l : List (Nat × Nat × Nat)) (d : Dev)
    (h : Kept fail d.mem d.state) : Kept fail (d.scaleRows ph b o r l).2.mem (d.scaleRows ph b o r l).2.state := by
  induction l generalizing d with
  | nil => exact h
  | cons i t ih =>
    unfold Dev.scaleRows
    split
    next hd =>
    refine ih _ ?_
    split at hd
    · cases hd
      exact h
    · cases hd
      exact d.kept_srcGrans ph b o r _ _ _ h

@[simp] theorem Dev.kept_heldData (d : Dev) (ph : Phys) (b : Nat) (o : TOp) (r : Nat) (h : Kept fail d.mem d.state) :
    Kept fail (d.heldData ph b o r).2.mem (d.heldData ph b o r).2.state :=
  kept_fold _ (some (o.src r).data, d) _ (fun m _ hm => m.2.kept_portOpen b ph o r _ _ _ hm) h

@[simp] theorem Dev.kept_operand (d : Dev) (ph : Phys) (b : Nat) (o : TOp) (ix : List (List Nat)) (r : Nat)
    (h : Kept fail d.mem d.state) :
    Kept fail (d.operand ph b o ix r).2.mem (d.operand ph b o ix r).2.state := by
  unfold Dev.operand
  extract_lets t
  split
  · exact h
  split
  · have h1 := d.kept_codedClay ph b o r t.blocks 0 t.base h
    generalize d.codedClay ph b o r 0 t.base t.blocks = x at h1 ⊢
    obtain ⟨l, d1⟩ := x
    cases l with
    | none => exact h1
    | some l =>
      dsimp only at h1 ⊢
      have h2 := d1.kept_scaleRows ph b o r t.rows h1
      generalize d1.scaleRows ph b o r t.rows = x at h2 ⊢
      obtain ⟨l, d2⟩ := x
      cases l with
      | none => simp_all
      | some l => exact h2
  · have h1 := d.kept_heldData ph b o r h
    generalize d.heldData ph b o r = x at h1 ⊢
    obtain ⟨l, d1⟩ := x
    cases l with
    | none => simp_all
    | some m =>
      dsimp only at h1 ⊢
      generalize o.updSrc r _ = o1
      have h2 := d1.kept_srcRows ph b o1 r (o1.needRows r ix) h1
      generalize d1.srcRows ph b o1 r (o1.needRows r ix) = x at h2 ⊢
      obtain ⟨l, d2⟩ := x
      cases l <;> simp at h2 <;> simp [h2]

@[simp] theorem Dev.kept_operands (ph : Phys) (b : Nat) (o : TOp) (ix : List (List Nat)) (l : List Nat) (d : Dev)
    (h : Kept fail d.mem d.state) : Kept fail (d.operands ph b o ix l).2.mem (d.operands ph b o ix l).2.state := by
  induction l generalizing d with
  | nil => exact h
  | cons r t ih => exact ih _ (d.kept_operand ph b o ix r h)

@[simp] theorem Dev.kept_dataTag (d : Dev) (b : Nat) (ph : Phys) (o : TOp) (h : Kept fail d.mem d.state) :
    Kept fail (d.dataTag b ph o).mem (d.dataTag b ph o).state := by
  simp +contextual [Dev.dataTag, h]

@[simp] theorem Dev.kept_clayResult (d : Dev) (ph : Phys) (b c o : Nat) (g : Gran) (h : Kept fail d.mem d.state) :
    Kept fail (d.clayResult ph b c o g).2.mem (d.clayResult ph b c o g).2.state := by
  refine kept_fold _ (true, d) _ (fun r k hr => ?_) h
  have h1 := r.2.kept_cross ph (2 ^ 60 + ((d.ctx c).clayAt k o).getD 0) (d.bedDie b) (dieOfCluster k) g hr
  dsimp only
  split
  · next hd =>
    rw [hd] at h1
    exact h1
  · next hd =>
    rw [hd] at h1
    exact Dev.kept_clayPutIn _ ph b c k o _ h1

@[simp] theorem Dev.kept_putExtent (d : Dev) (b : Nat) (ph : Phys) (o : TOp) (w : Nat) (l : List WItem) (h : Kept fail d.mem d.state) :
    Kept fail (d.putExtent b ph o w l).2.mem (d.putExtent b ph o w l).2.state := by
  unfold Dev.putExtent
  split <;> simp +contextual [h]

@[simp] theorem Dev.kept_putItems (d : Dev) (b : Nat) (ph : Phys) (o : TOp) (l : List WItem) (h : Kept fail d.mem d.state) :
    Kept fail (d.putItems b ph o l).mem (d.putItems b ph o l).state := by
  unfold Dev.putItems
  extract_lets d1 al win free d2
  have h1 : Kept fail d1.mem d1.state := d.kept_each _ _ (fun e i he => by
    dsimp only
    split <;> simp [he]) h
  have h2 : Kept fail d2.mem d2.state := d1.kept_each _ _ (fun e w he => by
    dsimp only
    split <;> simp [he]) h1
  clear_value d2
  simp [h2]

@[simp] theorem Dev.kept_opResult (d : Dev) (b : Nat) (ph : Phys) (r : OpRes) (h : Kept fail d.mem d.state) :
    Kept fail (d.opResult b ph r).mem (d.opResult b ph r).state := by
  unfold Dev.opResult
  extract_lets d1
  have h1 : Kept fail d1.mem d1.state := by simp [d1, h]
  clear_value d1
  split
  · exact h1
  · split
    · exact h1
    · split <;> simp [h1]

@[simp] theorem Dev.kept_compute (d : Dev) (b : Nat) (ph : Phys) (o : TOp) (ix : List (List Nat)) (rs : List Nat) (f : List Opd → OpRes)
    (h : Kept fail d.mem d.state) : Kept fail (d.compute b ph o ix rs f).mem (d.compute b ph o ix rs f).state := by
  have h1 : Kept fail ((d.dataTag b ph o).operands ph b o ix rs).2.mem ((d.dataTag b ph o).operands ph b o ix rs).2.state :=
    Dev.kept_operands ph b o ix rs _ (d.kept_dataTag b ph o h)
  unfold Dev.compute
  generalize (d.dataTag b ph o).operands ph b o ix rs = r at h1 ⊢
  obtain ⟨l, d1⟩ := r
  cases l with
  | none => exact h1
  | some l => exact d1.kept_opResult b ph _ h1

@[simp] theorem Dev.kept_mma (d : Dev) (b : Nat) (errs : List EngErr) (order : List Nat) (ph : Phys) (o : TOp)
    (h : Kept fail d.mem d.state) :
    Kept fail (d.mma b errs order ph o).mem (d.mma b errs order ph o).state :=
  Dev.kept_compute _ b ph o _ _ _ (d.kept_residues b _ errs h)

theorem Dev.kept_withIx (d : Dev) (ph : Phys) (b : Nat) (o : TOp) (f : List (List Nat) → Dev → Dev)
    (hf : ∀ ix e, Kept fail e.mem e.state → Kept fail (f ix e).mem (f ix e).state) (h : Kept fail d.mem d.state) :
    Kept fail (d.withIx ph b o f).mem (d.withIx ph b o f).state := by
  have h1 := d.kept_ixRows ph b o h
  unfold Dev.withIx
  generalize d.ixRows ph b o = r at h1 ⊢
  obtain ⟨l, d1⟩ := r
  cases l with
  | none => simp_all
  | some ix => exact hf ix d1 h1

@[simp] theorem Dev.kept_attn (d : Dev) (b : Nat) (errs : List EngErr) (order : List Nat) (ph : Phys) (o : TOp)
    (h : Kept fail d.mem d.state) :
    Kept fail (d.attn b errs order ph o).mem (d.attn b errs order ph o).state :=
  d.kept_withIx ph b o _ (fun _ e he => Dev.kept_compute _ b ph o _ _ _ (by
    split
    · exact he
    · exact e.kept_residues b _ errs he)) h

@[simp] theorem Dev.kept_ewise (d : Dev) (b : Nat) (ph : Phys) (o : TOp) (h : Kept fail d.mem d.state) :
    Kept fail (d.ewise b ph o).mem (d.ewise b ph o).state :=
  d.kept_compute b ph o _ _ _ h

@[simp] theorem Dev.kept_reduce (d : Dev) (b : Nat) (ph : Phys) (o : TOp) (h : Kept fail d.mem d.state) :
    Kept fail (d.reduce b ph o).mem (d.reduce b ph o).state :=
  d.kept_compute b ph o _ _ _ h

@[simp] theorem Dev.kept_topk (d : Dev) (b : Nat) (ph : Phys) (o : TOp) (h : Kept fail d.mem d.state) :
    Kept fail (d.topk b ph o).mem (d.topk b ph o).state :=
  d.kept_compute b ph o _ _ _ h

@[simp] theorem Dev.kept_gather (d : Dev) (b : Nat) (ph : Phys) (o : TOp) (h : Kept fail d.mem d.state) :
    Kept fail (d.gather b ph o).mem (d.gather b ph o).state :=
  d.kept_withIx ph b o _ (fun _ e he => e.kept_compute b ph o _ _ _ he) h

@[simp] theorem Dev.kept_tableGrans (b : Nat) (ph : Phys) (o : TOp) (t : TDesc) (n g : Nat) (d : Dev) (h : Kept fail d.mem d.state) :
    Kept fail (d.tableGrans b ph o t g n).2.mem (d.tableGrans b ph o t g n).2.state := by
  induction n generalizing d g with
  | zero => exact h
  | succ n ih =>
    unfold Dev.tableGrans
    split
    next x d1 hd =>
    refine ih _ _ ?_
    split at hd
    · have h1 := d.kept_clayRead ph b o.ctx g h
      generalize d.clayRead ph b o.ctx g = r at h1 hd
      cases hd
      split <;> simp [h1]
    · split at hd
      · cases hd
        simp [h]
      · next e _ =>
        have h1 := Dev.kept_readBlock (fail := fail) (d.touch e.ext) (d.bedAgent b) ph e.ext (g / 64 % 32) (g % 64) 1 (by simp [h])
        dsimp only at hd
        split at hd
        · cases hd
          simp [h1]
        · cases hd
          exact h1

@[simp] theorem Dev.kept_tableRows (b : Nat) (ph : Phys) (o : TOp) (l : List Nat) (d : Dev) (h : Kept fail d.mem d.state) :
    Kept fail (d.tableRows b ph o l).2.mem (d.tableRows b ph o l).2.state := by
  induction l generalizing d with
  | nil => exact h
  | cons v t ih =>
    have h1 := d.kept_tableGrans b ph o (o.t 0) (o.t 0).rowG ((o.t 0).row v 0 0) h
    unfold Dev.tableRows
    dsimp only
    generalize d.tableGrans b ph o (o.t 0) ((o.t 0).row v 0 0) (o.t 0).rowG = r at h1 ⊢
    refine ih _ ?_
    split
    · exact h1
    · exact r.2.kept_tableGrans b ph o _ _ _ h1

@[simp] theorem Dev.kept_scatter (d : Dev) (b : Nat) (ph : Phys) (o : TOp) (h : Kept fail d.mem d.state) :
    Kept fail (d.scatter b ph o).mem (d.scatter b ph o).state := by
  refine d.kept_withIx ph b o _ (fun ix e he => ?_) h
  extract_lets vs
  have h1 : Kept fail (if (o.scatterAdd && vs.all fun v => decide (v < (o.t 0).n1)) = true then e.tableRows b ph o vs else (some [], e)).2.mem
      (if (o.scatterAdd && vs.all fun v => decide (v < (o.t 0).n1)) = true then e.tableRows b ph o vs else (some [], e)).2.state :=
    Dev.kept_ite_snd _ _ _ (e.kept_tableRows b ph o vs he) he
  generalize (if (o.scatterAdd && vs.all fun v => decide (v < (o.t 0).n1)) = true then e.tableRows b ph o vs else (some [], e)) = r at h1 ⊢
  obtain ⟨tab, d1⟩ := r
  cases tab with
  | none => exact h1
  | some tab => exact d1.kept_compute b ph o _ _ _ h1

@[simp] theorem Dev.kept_load (d : Dev) (b : Nat) (ph : Phys) (o : TOp) (h : Kept fail d.mem d.state) :
    Kept fail (d.load b ph o).mem (d.load b ph o).state := by
  unfold Dev.load
  extract_lets td hs l
  split
  · have h1 := d.kept_scaleRows ph b o 1 td.rows h
    generalize d.scaleRows ph b o 1 td.rows = r at h1 ⊢
    obtain ⟨sc, d1⟩ := r
    dsimp only at h1 ⊢
    have h2 : Kept fail (if sc.isSome = true then d1 else d1.failRun b 0x10B).mem (if sc.isSome = true then d1 else d1.failRun b 0x10B).state := by
      split <;> simp [h1]
    generalize (if sc.isSome = true then d1 else d1.failRun b 0x10B) = d2 at h2 ⊢
    have h3 := fun l => d2.kept_putItems b ph o l h2
    simp [h3]
  · have h1 := fun f => d.kept_compute b ph o [] [1] f h
    simp [h1]

@[simp] theorem Dev.kept_storeOp (d : Dev) (b : Nat) (ph : Phys) (o : TOp) (h : Kept fail d.mem d.state) :
    Kept fail (d.storeOp b ph o).mem (d.storeOp b ph o).state :=
  d.kept_compute b ph o _ _ _ h

@[simp] theorem Dev.kept_cvt (d : Dev) (b : Nat) (ph : Phys) (o : TOp) (h : Kept fail d.mem d.state) :
    Kept fail (d.cvt b ph o).mem (d.cvt b ph o).state :=
  d.kept_compute b ph o _ _ _ h

@[simp] theorem Dev.kept_postPut (d : Dev) (ph : Phys) (o : TOp) (h : Kept fail d.mem d.state) :
    Kept fail (d.postPut ph o).mem (d.postPut ph o).state := by
  unfold Dev.postPut
  dsimp only
  split
  · exact h
  · exact Dev.kept_cqCtxFlush _ ph _ (by simp [h])

@[simp] theorem Dev.kept_post_ (d : Dev) (b : Nat) (ph : Phys) (o : TOp) (h : Kept fail d.mem d.state) :
    Kept fail (d.post_ b ph o).mem (d.post_ b ph o).state := by
  have h1 := Dev.kept_srcRows ph b o 1 (o.t 1).rows _ (d.kept_dataTag b ph o h)
  unfold Dev.post_
  generalize (d.dataTag b ph o).srcRows ph b o 1 (o.t 1).rows = r at h1 ⊢
  obtain ⟨l, d1⟩ := r
  cases l <;> simp at h1 <;> simp [h1]

@[simp] theorem Dev.kept_opBody (d : Dev) (b : Nat) (errs : List EngErr) (order : List Nat) (ph : Phys) (o : TOp)
    (h : Kept fail d.mem d.state) :
    Kept fail (d.opBody b errs order ph o).mem (d.opBody b errs order ph o).state := by
  unfold Dev.opBody
  split <;> simp +contextual [h]

@[simp] theorem Dev.kept_operandRead (d : Dev) (b r n : Nat) (errs : List EngErr) (order : List Nat) (ph : Phys)
    (h : Kept fail d.mem d.state) :
    Kept fail (d.operandRead b r n errs order ph).mem (d.operandRead b r n errs order ph).state := by
  unfold Dev.operandRead
  dsimp only
  repeat' split
  all_goals simp +contextual [h]

@[simp] theorem Dev.kept_havoc (d : Dev) (b : Nat) (o : TOp) (h : Kept fail d.mem d.state) :
    Kept fail (d.havoc b o).mem (d.havoc b o).state := by
  unfold Dev.havoc
  refine Dev.kept_each _ _ _ (fun e x he => ?_) (d.kept_each _ _ (fun e x he => ?_) h)
  · exact Dev.kept_each _ _ _ (fun f i hf => f.kept_clayWrite {} b _ _ _ hf) (by simp [he])
  · exact Dev.kept_writeExtent _ _ {} _ _ (by simp [he])

@[simp] theorem Dev.kept_opEnd (d : Dev) (b : Nat) (h : Kept fail d.mem d.state) :
    Kept fail (d.opEnd b).mem (d.opEnd b).state := by
  unfold Dev.opEnd
  dsimp only
  repeat' split
  all_goals simp +contextual [h]

@[simp] theorem Dev.kept_ctrlSave (d : Dev) (c : Nat) (h : Kept fail d.mem d.state) :
    Kept fail (d.ctrlSave c).mem (d.ctrlSave c).state :=
  d.kept_each _ _ (fun e j he => e.kept_elim _ _ (fun p => by split <;> simp [he]) he) h

@[simp] theorem Dev.kept_switchCtx (d : Dev) (b : Nat) (h : Kept fail d.mem d.state) :
    Kept fail (d.switchCtx b).mem (d.switchCtx b).state := by
  unfold Dev.switchCtx
  split
  · exact h
  next c _ =>
  extract_lets d1 d2 d3 t
  have h1 : Kept fail d1.mem d1.state := by
    unfold d1
    split <;> simp [h]
  clear_value d1
  have h2 : Kept fail d2.mem d2.state := by
    unfold d2
    split <;> simp [h1]
  clear_value d2
  have h3 : Kept fail d3.mem d3.state := by
    unfold d3
    split
    · exact h2
    · exact Dev.kept_ctrlSave _ _ (by simp [h2])
  clear_value d3
  simp [h3]

@[simp] theorem Dev.kept_postDone (d : Dev) (b : Nat) (h : Kept fail d.mem d.state) :
    Kept fail (d.postDone b).mem (d.postDone b).state := by
  unfold Dev.postDone
  split
  · split
    · exact Dev.kept_opEnd _ b (by simp [h])
    · simp [h]
  · simp [h]

@[simp] theorem Dev.kept_readLong (a : Agent) (ph : Phys) (c need k addr n : Nat) (d : Dev) (h : Kept fail d.mem d.state) :
    Kept fail (d.readLong a ph c addr n need k).2.mem (d.readLong a ph c addr n need k).2.state := by
  induction k generalizing d addr n with
  | zero => exact h
  | succ k ih =>
    unfold Dev.readLong
    split
    · exact h
    extract_lets m
    have h1 := d.kept_readWindow a ph c addr m need h
    split
    · next hd =>
      rw [hd] at h1
      exact ih _ _ _ h1
    · next hd =>
      rw [hd] at h1
      exact h1

@[simp] theorem Dev.kept_planLoad (d : Dev) (ph : Phys) (e : Entry) (ref : CmdRef) (c : Nat) (h : Kept fail d.mem d.state) :
    Kept fail (d.planLoad ph e ref c).mem (d.planLoad ph e ref c).state := by
  unfold Dev.planLoad
  extract_lets a addr bad
  have hbad : ∀ (f : Dev) (n : Nat), Kept fail f.mem f.state → Kept fail (bad f n).mem (bad f n).state := by
    intro f n hf
    simp [bad, hf]
  clear_value bad
  have h1 := d.kept_readWindow a ph c addr 1 rR h
  split
  · next g d1 hd =>
    rw [hd] at h1
    dsimp only at h1
    extract_lets hdr ne nl n
    split
    · exact hbad _ _ h1
    have h2 := d1.kept_readLong a ph c rR (n / 2048 + 1) (addr + 32) n h1
    split
    · next gs d2 hd =>
      rw [hd] at h2
      dsimp only at h2
      extract_lets ew lw r bound ls
      split
      · exact hbad _ _ h2
      split
      · exact hbad _ _ h2
      split
      · exact hbad _ _ h2
      split
      · exact hbad _ _ h2
      split
      · exact hbad _ _ h2
      split
      · exact hbad _ _ h2
      split
      · simp [h2]
      · simp [h2]
    · next hd =>
      rw [hd] at h2
      dsimp only at h2
      simp [h2]
  · next hd =>
    rw [hd] at h1
    dsimp only at h1
    simp [h1]

@[simp] theorem Dev.kept_reloadExt (d : Dev) (ph : Phys) (c addr : Nat) (h : Kept fail d.mem d.state) :
    Kept fail (d.reloadExt ph c addr).2.mem (d.reloadExt ph c addr).2.state := by
  simp +contextual [Dev.reloadExt, h]

@[simp] theorem Dev.kept_reloadEnd (d : Dev) (ph : Phys) (x : Nat) (ref : CmdRef) (h : Kept fail d.mem d.state) :
    Kept fail (d.reloadEnd ph x ref).mem (d.reloadEnd ph x ref).state := by
  unfold Dev.reloadEnd
  extract_lets e j
  split
  · simp [h]
  split
  · next d1 hd =>
    have h1 : Kept fail d1.mem d1.state := by
      split at hd
      · cases hd
        exact h
      · next m _ =>
        have h1 := d.kept_mirrorWrite j ph x m.1 h
        rw [hd] at h1
        exact h1
    simp [h1]
  · next st d1 _ hd =>
    have h1 : Kept fail d1.mem d1.state := by
      split at hd
      · cases hd
        exact h
      · next m _ =>
        have h1 := d.kept_mirrorWrite j ph x m.1 h
        rw [hd] at h1
        exact h1
    simp [h1]

@[simp] theorem kept_planLoadBody (e : Entry) (ph : Phys) (ref : CmdRef) (c : Nat) (d : Dev) (h : Kept fail d.mem d.state) :
    Kept fail (planLoadBody e ph ref c d).mem (planLoadBody e ph ref c d).state := by
  unfold planLoadBody
  split
  · simp [h]
  · dsimp only
    split <;> simp [h]
  · next k _ _ =>
    have h1 := d.kept_reloadExt ph c (e.arg 1) h
    generalize d.reloadExt ph c (e.arg 1) = r at h1 ⊢
    obtain ⟨x, d1⟩ := r
    cases x with
    | bad s => simp_all
    | ok x i =>
      dsimp only at h1 ⊢
      split <;> simp [h1]

@[simp] theorem Dev.kept_xlExts (a : Agent) (ph : Phys) (c n w : Nat) (d : Dev) (h : Kept fail d.mem d.state) :
    Kept fail (d.xlExts a ph c w n).2.mem (d.xlExts a ph c w n).2.state := by
  induction n generalizing d w with
  | zero => exact h
  | succ n ih =>
    unfold Dev.xlExts
    have h1 := d.kept_translate a ph c w rR false h
    generalize d.translate a ph c w rR false = r at h1 ⊢
    obtain ⟨x, d1⟩ := r
    cases x with
    | bad s => exact h1
    | ok x i => exact ih _ _ h1

@[simp] theorem kept_promoteBody (e : Entry) (ph : Phys) (ref : CmdRef) (c : Nat) (d : Dev) (h : Kept fail d.mem d.state) :
    Kept fail (promoteBody e ph ref c d).mem (promoteBody e ph ref c d).state := by
  unfold promoteBody
  extract_lets addr n pin unpin
  split
  · simp [h]
  split
  · simp [h]
  have h1 := d.kept_xlExts (d.ringAgent (d.ctx c).port) ph c n (addr / 65536) h
  split
  · next hd =>
    rw [hd] at h1
    dsimp only at h1
    split
    · simp [h1]
    · dsimp only
      split <;> simp [h1]
  · next hd =>
    rw [hd] at h1
    dsimp only at h1
    simp [h1]

@[simp] theorem kept_demoteBody (e : Entry) (ph : Phys) (ref : CmdRef) (c : Nat) (d : Dev) (h : Kept fail d.mem d.state) :
    Kept fail (demoteBody e ph ref c d).mem (demoteBody e ph ref c d).state := by
  unfold demoteBody
  extract_lets addr n
  split
  · simp [h]
  have h1 := d.kept_xlExts (d.ringAgent (d.ctx c).port) ph c n (addr / 65536) h
  split
  · next hd =>
    rw [hd] at h1
    dsimp only at h1
    split <;> simp [h1]
  · next hd =>
    rw [hd] at h1
    dsimp only at h1
    simp [h1]

@[simp] theorem Dev.kept_undefine (d : Dev) (a : Agent) (x o n : Nat) (h : Kept fail d.mem d.state) :
    Kept fail (d.undefine a x o n).mem (d.undefine a x o n).state := by
  simp +contextual [Dev.undefine, h]

@[simp] theorem Dev.kept_cancelReq (d : Dev) (r : Req) (h : Kept fail d.mem d.state) :
    Kept fail (d.cancelReq r).mem (d.cancelReq r).state := by
  unfold Dev.cancelReq
  split <;> simp +contextual [h]

@[simp] theorem Dev.kept_revokeEnd (d : Dev) (c i : Nat) (h : Kept fail d.mem d.state) :
    Kept fail (d.revokeEnd c i).mem (d.revokeEnd c i).state := by
  unfold Dev.revokeEnd
  extract_lets b pend ops rd wr d1 d2 hit d3 d4 d5 d6
  have h1 : Kept fail d1.mem d1.state := d.kept_each _ _ (fun e r he => e.kept_cancelReq r he) h
  have h2 : Kept fail d2.mem d2.state := d1.kept_each _ _ (fun e x he => by
    split
    · exact e.kept_undefine _ _ _ _ he
    · exact he) h1
  have h6 : Kept fail d6.mem d6.state := by simp [d6, d5, d4, d3, h2]
  clear_value d6
  simp [h6]

@[simp] theorem Dev.kept_cancelReqs (d : Dev) (l : List Req) (h : Kept fail d.mem d.state) :
    Kept fail (d.cancelReqs l).mem (d.cancelReqs l).state := by
  simp +contextual [Dev.cancelReqs, h]

@[simp] theorem Dev.kept_drainCancel (d : Dev) (c : Nat) (h : Kept fail d.mem d.state) :
    Kept fail (d.drainCancel c).mem (d.drainCancel c).state := by
  simp +contextual [Dev.drainCancel, h]

@[simp] theorem Dev.kept_drainEnd (d : Dev) (c : Nat) (h : Kept fail d.mem d.state) :
    Kept fail (d.drainEnd c).mem (d.drainEnd c).state := by
  unfold Dev.drainEnd
  extract_lets x hd d1 d2 d3 d4 g d5 d6
  have h1 : Kept fail d1.mem d1.state := d.kept_each _ _ (fun e i he => e.kept_revokeEnd c i he) h
  have h2 : Kept fail d2.mem d2.state := d1.kept_drainCancel c h1
  have h5 : Kept fail d5.mem d5.state := by simp [d5, d4, d3, h2]
  clear_value d5
  have h6 : Kept fail d6.mem d6.state := by
    unfold d6
    split <;> simp [h5]
  clear_value d6
  simp [h6]

@[simp] theorem Dev.kept_xlParts (a : Agent) (ph : Phys) (c need : Nat) (write : Bool) (l : List (Nat × Nat × Nat)) (d : Dev)
    (h : Kept fail d.mem d.state) : Kept fail (d.xlParts a ph c need write l).2.mem (d.xlParts a ph c need write l).2.state := by
  induction l generalizing d with
  | nil => exact h
  | cons w t ih =>
    unfold Dev.xlParts
    have h1 := d.kept_translate a ph c w.1 need write h
    generalize d.translate a ph c w.1 need write = r at h1 ⊢
    obtain ⟨x, d1⟩ := r
    cases x with
    | bad s => exact h1
    | ok x i => exact ih _ h1

@[simp] theorem Dev.kept_admitted (d : Dev) (r : Req) (c : Nat) (h : Kept fail d.mem d.state) :
    Kept fail (d.admitted r c).mem (d.admitted r c).state := by
  unfold Dev.admitted
  extract_lets a d1 addr g b n need
  have h1 : Kept fail d1.mem d1.state := by simp [d1, h]
  clear_value d1
  split
  · split
    · simp [h1]
    have h2 := d1.kept_translate a r.ph c (addr / 65536) rP false h1
    generalize d1.translate a r.ph c (addr / 65536) rP false = x at h2 ⊢
    obtain ⟨x, d2⟩ := x
    cases x with
    | bad s => simp_all
    | ok x i =>
      dsimp only at h2 ⊢
      have h3 := d2.kept_translate a r.ph c (b / 65536) rW false h2
      generalize d2.translate a r.ph c (b / 65536) rW false = x at h3 ⊢
      obtain ⟨x, d3⟩ := x
      cases x with
      | bad s => simp_all
      | ok x j => exact Dev.kept_pump _ _ (by simpa using h3)
  · split
    · simp [h1]
    have h2 := d1.kept_xlParts a r.ph c need (r.ty ≠ 1) (splitRange addr n) h1
    generalize d1.xlParts a r.ph c need (r.ty ≠ 1) (splitRange addr n) = x at h2 ⊢
    obtain ⟨⟨s, xs, bs⟩, d2⟩ := x
    dsimp only at h2 ⊢
    split
    · simp [h2]
    split
    · simp [h2]
    · exact Dev.kept_pump _ _ (by simp [h2])

@[simp] theorem Dev.kept_admitReq (d : Dev) (id : Nat) (h : Kept fail d.mem d.state) :
    Kept fail (d.admitReq id).mem (d.admitReq id).state := by
  unfold Dev.admitReq
  dsimp only
  repeat' split
  all_goals simp +contextual [h]

@[simp] theorem Dev.kept_unparkDone (d : Dev) (c : Nat) (h : Kept fail d.mem d.state) :
    Kept fail (d.unparkDone c).mem (d.unparkDone c).state := by
  unfold Dev.unparkDone
  dsimp only
  split
  · exact h
  · refine Dev.kept_each _ _ _ (fun e x he => ?_) (by simp [h])
    split
    · split <;> simp [he]
    · split <;> simp [he]

@[simp] theorem Dev.kept_revoke (d : Dev) (c i : Nat) (cmd : Option CmdRef) (h : Kept fail d.mem d.state) :
    Kept fail (d.revoke c i cmd).mem (d.revoke c i cmd).state := by
  simp +contextual [Dev.revoke, h]

@[simp] theorem Dev.kept_unbindBody (e : Entry) (ref : CmdRef) (c : Nat) (d : Dev) (h : Kept fail d.mem d.state) :
    Kept fail (unbindBody e ref c d).mem (unbindBody e ref c d).state := by
  simp +contextual [unbindBody, h]

@[simp] theorem kept_regionReclaimBody (e : Entry) (ref : CmdRef) (_c : Nat) (d : Dev) (h : Kept fail d.mem d.state) :
    Kept fail (regionReclaimBody e ref _c d).mem (regionReclaimBody e ref _c d).state := by
  unfold regionReclaimBody
  dsimp only
  split
  · simp [h]
  · have h1 : ∀ f, Kept fail (d.updRgn (e.arg 0) f).mem (d.updRgn (e.arg 0) f).state := fun f => by simp [h]
    exact Dev.kept_each _ _ _ (fun e p he => by simp [he]) (Dev.kept_each _ _ _ (fun e b he => e.kept_revoke _ _ _ he) (h1 _))

@[simp] theorem Dev.kept_extsRead (ph : Phys) (l : List (Nat × Nat)) (d : Dev) (h : Kept fail d.mem d.state) :
    Kept fail (d.extsRead ph l).2.mem (d.extsRead ph l).2.state := by
  induction l generalizing d with
  | nil => exact h
  | cons x t ih => exact ih _ (d.kept_readExtent marlAgent ph x.1 _ h)

@[simp] theorem Dev.kept_extsWrite (ph : Phys) (l : List (Nat × Nat)) (gs : List Gran) (d : Dev) (h : Kept fail d.mem d.state) :
    Kept fail (d.extsWrite ph l gs).2.mem (d.extsWrite ph l gs).2.state := by
  induction l generalizing d gs with
  | nil => exact h
  | cons x t ih =>
    unfold Dev.extsWrite
    split
    · exact h
    have h1 := d.kept_writeExtent marlAgent ph x.1 (mkWrites 0 (gs.take x.2) []) h
    split
    · next hd =>
      rw [hd] at h1
      exact ih _ _ h1
    · exact h1

@[simp] theorem Dev.kept_blockPut (l : List Gran) (i : Nat) (d : Dev) (h : Kept fail d.mem d.state) :
    Kept fail (d.blockPut i l).mem (d.blockPut i l).state := by
  induction l generalizing d i with
  | nil => exact h
  | cons g t ih => exact ih _ _ (d.kept_elim _ _ (fun p => by split <;> simp [h]) h)

@[simp] theorem Dev.kept_arrive (d : Dev) (p ty : Nat) (hdr : ReqHdr) (data : List Gran) (ph : Phys) (bad : Bool)
    (h : Kept fail d.mem d.state) :
    Kept fail (d.arrive p ty hdr data ph bad).mem (d.arrive p ty hdr data ph bad).state :=
  d.kept_arriveWith p ty hdr data ph bad _ (fun id e he => by split <;> simp [he]) h

@[simp] theorem Dev.kept_writeRaw (d : Dev) (h : Kept fail d.mem d.state) : Kept fail d.writeRaw.mem d.writeRaw.state := by
  unfold Dev.writeRaw Dev.testRun
  split
  · simp [h]
  · dsimp only
    split <;> simp [h]

@[simp] theorem Dev.kept_testCtl (d : Dev) (v : Word) (h : Kept fail d.mem d.state) :
    Kept fail (d.testCtl v).mem (d.testCtl v).state := by
  unfold Dev.testCtl
  split <;> simp +contextual [h]

@[simp] theorem Dev.kept_egress (a : Agent) (ph : Phys) (l : List (Nat × Nat)) (gs : List Gran) (d : Dev)
    (h : Kept fail d.mem d.state) :
    Kept fail (d.egress a ph l gs).2.mem (d.egress a ph l gs).2.state := by
  induction l generalizing d gs with
  | nil => exact h
  | cons x t ih => exact ih _ _ (d.kept_openBlock a ph _ _ h)

@[simp] theorem Dev.kept_cplData (d : Dev) (ph : Phys) (r : Req) (f : CplForm) (h : Kept fail d.mem d.state) :
    Kept fail (d.cplData ph r f).2.mem (d.cplData ph r f).2.state := by
  cases f with
  | refused st => exact h
  | plain => exact h
  | wire _ => exact h
  | decoded =>
    have h1 := d.kept_egress (portAgent r.port) ph r.blocks r.out h
    unfold Dev.cplData
    dsimp only
    generalize d.egress (portAgent r.port) ph r.blocks r.out = x at h1 ⊢
    obtain ⟨x, d1⟩ := x
    cases x <;> exact h1

@[simp] theorem Dev.kept_cplSend (d : Dev) (ph : Phys) (r : Req) (h : Kept fail d.mem d.state) :
    Kept fail (d.cplSend ph r).mem (d.cplSend ph r).state := by
  simp +contextual [Dev.cplSend, h]

@[simp] theorem Dev.kept_accepted (d : Dev) (i : Nat) (p : PieceIn) (cls : Cls) (h : Kept fail d.mem d.state) :
    Kept fail (d.accepted i p cls).mem (d.accepted i p cls).state := by
  unfold Dev.accepted
  split <;> simp +contextual [h]

@[simp] theorem Dev.kept_pieceIn (d : Dev) (i : Nat) (p : PieceIn) (h : Kept fail d.mem d.state) :
    Kept fail (d.pieceIn i p).mem (d.pieceIn i p).state := by
  simp +contextual [Dev.pieceIn, h]

@[simp] theorem Dev.kept_pieceArrive (d : Dev) (i : Nat) (p : PieceIn) (h : Kept fail d.mem d.state) :
    Kept fail (d.pieceArrive i p).mem (d.pieceArrive i p).state := by
  unfold Dev.pieceArrive
  split <;> simp +contextual [h]

@[simp] theorem Dev.kept_pauseRetry (d : Dev) (i : Nat) (pass : Bool) (h : Kept fail d.mem d.state) :
    Kept fail (d.pauseRetry i pass).mem (d.pauseRetry i pass).state := by
  unfold Dev.pauseRetry
  split <;> simp +contextual [h]

@[simp] theorem Dev.kept_srExit (d : Dev) (i : Nat) (fails : List TrainFail) (h : Kept fail d.mem d.state) :
    Kept fail (d.srExit i fails).mem (d.srExit i fails).state := by
  simp +contextual [Dev.srExit, h]

@[simp] theorem Dev.kept_replayEnds (d : Dev) (i : Nat) (h : Kept fail d.mem d.state) :
    Kept fail (d.replayEnds i).mem (d.replayEnds i).state := by
  simp +contextual [Dev.replayEnds, h]

@[simp] theorem Dev.kept_replayDone (d : Dev) (i : Nat) (fails : List TrainFail) (h : Kept fail d.mem d.state) :
    Kept fail (d.replayDone i fails).mem (d.replayDone i fails).state := by
  unfold Dev.replayDone
  split <;> simp +contextual [h]

@[simp] theorem Dev.kept_patrol (d : Dev) (s ga : Nat) (periodic : Bool) (ph : Phys) (h : Kept fail d.mem d.state) :
    Kept fail (d.patrol s ga periodic ph).mem (d.patrol s ga periodic ph).state := by
  unfold Dev.patrol
  extract_lets ho a
  have hread : ∀ o, Kept fail ((d.readGran a ph s ga o).1.elim (d.readGran a ph s ga o).2 fun g => (d.readGran a ph s ga o).2.memWrite s ga g).mem
      ((d.readGran a ph s ga o).1.elim (d.readGran a ph s ga o).2 fun g => (d.readGran a ph s ga o).2.memWrite s ga g).state := by
    intro o
    have h1 := d.kept_readGran a ph s ga o h
    exact Dev.kept_elim _ _ _ (fun g => by simp [h1]) h1
  split
  · exact h
  clear_value ho
  cases ho with
  | meta_ x => exact d.kept_readMeta a ph s ga x h
  | ext o =>
    dsimp only
    split
    · exact h
    · exact hread _
  | _ => exact hread none

@[simp] theorem Dev.kept_domRejoin (d : Dev) (x : Nat) (h : Kept fail d.mem d.state) :
    Kept fail (d.domRejoin x).mem (d.domRejoin x).state := by
  unfold Dev.domRejoin
  split <;> simp +contextual [h]

@[simp] theorem Dev.kept_domPass (d : Dev) (x : Nat) (h : Kept fail d.mem d.state) :
    Kept fail (d.domPass x).mem (d.domPass x).state := by
  unfold Dev.domPass
  dsimp only
  split
  · exact Dev.kept_each _ _ _ (fun e y he => e.kept_domRejoin y he) (by simp [h])
  · simp [h]

@[simp] theorem Dev.kept_domRetire (d : Dev) (x : Nat) (h : Kept fail d.mem d.state) :
    Kept fail (d.domRetire x).mem (d.domRetire x).state := by
  unfold Dev.domRetire
  dsimp only
  split
  · exact Dev.kept_failChans _ _ _ _ (by simp [h])
  · simp [h]

@[simp] theorem Dev.kept_domTestFail (d : Dev) (x : Nat) (h : Kept fail d.mem d.state) :
    Kept fail (d.domTestFail x).mem (d.domTestFail x).state := by
  simp +contextual [Dev.domTestFail, h]

@[simp] theorem Dev.kept_marlLose (d : Dev) (p cause : Nat) (h : Kept fail d.mem d.state) :
    Kept fail (d.marlLose p cause).mem (d.marlLose p cause).state := by
  unfold Dev.marlLose
  split <;> simp +contextual [h]

@[simp] theorem Dev.kept_testFail (d : Dev) (die : Nat) (t : TestFail) (h : Kept fail d.mem d.state) :
    Kept fail (d.testFail die t).mem (d.testFail die t).state := by
  unfold Dev.testFail
  dsimp only
  repeat' split
  all_goals simp +contextual [h]

@[simp] theorem Dev.kept_selfTest (d : Dev) (die : Nat) (fails : List TestFail) (h : Kept fail d.mem d.state) :
    Kept fail (d.selfTest die fails).mem (d.selfTest die fails).state := by
  simp +contextual [Dev.selfTest, h]

@[simp] theorem Dev.kept_chainsDiffer (d : Dev) (die cls : Nat) (both : Bool) (h : Kept fail d.mem d.state) :
    Kept fail (d.chainsDiffer die cls both).mem (d.chainsDiffer die cls both).state := by
  simp +contextual [Dev.chainsDiffer, h]

theorem kept_nil {m : List Host.Cell} {s : DevSt} (h : Kept fail m s) : Kept fail [] s := by
  cases fail with
  | false => rfl
  | true => exact h

@[simp] theorem Dev.kept_railsOff (d : Dev) (h : Kept fail d.mem d.state) : Kept fail d.railsOff.mem d.railsOff.state := by
  unfold Dev.railsOff
  dsimp only
  exact kept_nil (m := d.mem) (by simp [h])

@[simp] theorem Dev.kept_memLost (d : Dev) (h : Kept fail d.mem d.state) : Kept fail d.memLost.mem d.memLost.state := by
  unfold Dev.memLost
  rw [Dev.setFld_mem, Dev.setFld_state]
  exact kept_nil h

@[simp] theorem Dev.kept_railFault (d : Dev) (r : Rail) (h : Kept fail d.mem d.state) :
    Kept fail (d.railFault r).mem (d.railFault r).state := by
  unfold Dev.railFault
  split <;> simp +contextual [h]

@[simp] theorem Dev.kept_canaryFence (d : Dev) (g : Nat) (h : Kept fail d.mem d.state) :
    Kept fail (d.canaryFence g).mem (d.canaryFence g).state := by
  unfold Dev.canaryFence
  dsimp only
  split
  · exact Dev.kept_domFence _ _ _ (by simp [h])
  · exact Dev.kept_dieFence _ _ _ (by simp [h])

@[simp] theorem Dev.kept_canaryLate (d : Dev) (g lateMs : Nat) (h : Kept fail d.mem d.state) :
    Kept fail (d.canaryLate g lateMs).mem (d.canaryLate g lateMs).state := by
  unfold Dev.canaryLate
  dsimp only
  split <;> simp +contextual [h]

theorem Dev.kept_freezeDone (d : Dev) (h : Kept false d.mem d.state) : Kept false d.freezeDone.mem d.freezeDone.state := by
  rw [kept_false] at h ⊢
  simp [Dev.freezeDone, h]

@[simp] theorem Dev.kept_instThaw (d : Dev) (i : Nat) (h : Kept fail d.mem d.state) :
    Kept fail (d.instThaw i).mem (d.instThaw i).state := by
  unfold Dev.instThaw
  split <;> simp +contextual [h]

@[simp] theorem Dev.kept_thawLink (d : Dev) (h : Kept fail d.mem d.state) : Kept fail d.thawLink.mem d.thawLink.state := by
  unfold Dev.thawLink
  dsimp only
  refine Dev.kept_each _ _ _ (fun e x he => ?_) h
  split <;> simp [he]

theorem Dev.kept_thawDone (d : Dev) (h : Kept false d.mem d.state) : Kept false d.thawDone.mem d.thawDone.state := by
  have h1 : Kept false (d.each (List.range 100) Dev.instThaw).mem (d.each (List.range 100) Dev.instThaw).state :=
    d.kept_each _ _ (fun e i he => e.kept_instThaw i he) h
  unfold Dev.thawDone
  generalize d.each (List.range 100) Dev.instThaw = d1 at h1 ⊢
  dsimp only
  split
  · simp [h1]
  · rw [kept_false] at h1
    exact Dev.kept_thawLink _ (kept_false.mpr (by simp [h1]))

theorem Dev.kept_trainUp (d : Dev) (refclk : Bool) (h : Kept false d.mem d.state) :
    Kept false (d.trainUp refclk).mem (d.trainUp refclk).state := by
  unfold Dev.trainUp
  dsimp only
  split
  · exact Dev.kept_deviceFailed _ _ h
  · rw [kept_false] at h ⊢
    simp [h]

@[simp] theorem Dev.kept_instTrained (d : Dev) (l : List (Fin 100 × TrainFail)) (i : Nat) (h : Kept fail d.mem d.state) :
    Kept fail (d.instTrained l i).mem (d.instTrained l i).state := by
  simp +contextual [Dev.instTrained, h]

@[simp] theorem Dev.kept_bedsUp (d : Dev) (l : List (Fin 100 × TrainFail)) (fails : List TestFail) (h : Kept fail d.mem d.state) :
    Kept fail (d.bedsUp l fails).mem (d.bedsUp l fails).state := by
  unfold Dev.bedsUp
  dsimp only
  have h1 := d.kept_each (fail := fail) (d.usedInsts.filter fun i => (d.inst i).st == .training) (fun d i => d.instTrained l i)
    (fun e i he => e.kept_instTrained l i he) h
  exact Dev.kept_each _ _ _ (fun e k he => e.kept_selfTest k _ he) (by simp [h1])

theorem Dev.kept_ready (d : Dev) (h : Kept false d.mem d.state) : Kept false d.ready.mem d.ready.state := by
  rw [kept_false] at h ⊢
  simp [Dev.ready, h]

@[simp] theorem Dev.kept_xbarDrain (d : Dev) (i : Nat) (h : Kept fail d.mem d.state) :
    Kept fail (d.xbarDrain i).mem (d.xbarDrain i).state :=
  d.kept_foldl _ _ (fun e p he => by
    split
    · have h1 := Dev.kept_pieceIn (fail := fail) (e.updInst i fun x => { x with xbar := x.xbar.drop 1 }) i p (by simp [he])
      exact kept_of_core (Dev.core_peak _ i) h1
    · exact he) h

@[simp] theorem Dev.kept_serve (d : Dev) (i : Nat) (p : Piece) (h : Kept fail d.mem d.state) :
    Kept fail (d.serve i p).mem (d.serve i p).state := by
  unfold Dev.serve
  dsimp only
  split <;> simp +contextual [h]

end

end Sys2Proof.Machine

/-! PROOF. The canonical form of memory under updates, registers and flits. -/
namespace Sys2Proof.Machine

namespace State

/-- Memory is in its canonical form. -/
def canon (s : State) : Prop := Kept false s.dev.mem s.dev.state

section
variable {s t : State}

theorem canon_iff : s.canon ↔ Memory.wf s.dev.mem = true := Iff.rfl

/-- A state with the same memory. -/
theorem canon.of_mem (h : s.canon) (hm : t.dev.mem = s.dev.mem) : t.canon := by
  rw [canon_iff, hm]
  exact h

theorem canon_ite (c : Prop) [Decidable c] (hs : s.canon) (ht : t.canon) : (if c then s else t).canon := by
  split
  · exact hs
  · exact ht

theorem canon_foldl {α : Type} (l : List α) (f : State → α → State) (hf : ∀ s x, canon s → (f s x).canon) (h : s.canon) :
    (l.foldl f s).canon := by
  induction l generalizing s with
  | nil => exact h
  | cons x t ih => exact ih (hf s x h)

theorem canon.onDev (h : s.canon) (f : Dev → Dev) (hf : ∀ e, Kept false e.mem e.state → Kept false (f e).mem (f e).state) :
    (s.onDev f).canon := hf _ h

theorem canon.setUpd (h : s.canon) (u : Upd) : canon { s with dev := { s.dev with upd := u } } := h

theorem canon.updEnd (h : s.canon) (ref : CmdRef) (st r0 : Nat) : (s.updEnd ref st r0).canon := h.onDev _ fun e he => by simp [he]

theorem canon.keysCheck (h : s.canon) : s.keysCheck.canon := h

theorem canon.writeStart (h : s.canon) (ref : CmdRef) (t i : Nat) (gs : List Gran) (flashOk fuseOk : Bool) :
    (s.writeStart ref t i gs flashOk fuseOk).canon :=
  h.of_mem (by simp [State.writeStart, State.keysCheck])

theorem canon.stageFw (h : s.canon) (ref : CmdRef) (o : Obj) (gs : List Gran) (flashOk : Bool) : (s.stageFw ref o gs flashOk).canon :=
  canon_ite _ (h.updEnd _ _ _) (h.writeStart _ _ _ _ _ _)

theorem canon.stageOwner (h : s.canon) (ref : CmdRef) (o : Obj) (gs : List Gran) (flashOk fuseOk : Bool) :
    (s.stageOwner ref o gs flashOk fuseOk).canon := by
  unfold State.stageOwner
  refine canon_ite _ (h.updEnd _ _ _) ?_
  split
  · exact h.updEnd _ _ _
  · exact h.writeStart _ _ _ _ _ _

theorem canon.stageTrim (h : s.canon) (ref : CmdRef) (o : Obj) (gs : List Gran) (flashOk fuseOk : Bool) :
    (s.stageTrim ref o gs flashOk fuseOk).canon :=
  canon_ite _ (h.updEnd _ _ _) (canon_ite _ (h.updEnd _ _ _) (canon_ite _ (h.updEnd _ _ _)
    (canon.writeStart (s := { s with sec := { s.sec with trimWritten := true } }) h _ _ _ _ _ _)))

theorem canon.stageOut (h : s.canon) (ref : CmdRef) (ph : Phys) (e : Entry) (l : List Byte) : (s.stageOut ref ph e l).canon := by
  unfold State.stageOut
  dsimp only
  split
  · exact h.updEnd _ _ _
  · exact canon.updEnd (s := { s with dev := (s.dev.extsWrite ph _ _).2 }) (Dev.kept_extsWrite ph _ _ s.dev h) _ _ _

theorem canon.stageIn (h : s.canon) (ref : CmdRef) (ph : Phys) (e : Entry) (flashOk fuseOk : Bool) :
    (s.stageIn ref ph e flashOk fuseOk).canon := by
  unfold State.stageIn
  dsimp only
  split
  · exact h.updEnd _ _ _
  next xs _ =>
  have h1 := Dev.kept_extsRead ph xs s.dev h
  split
  · next d hd =>
    rw [hd] at h1
    exact canon.updEnd (s := { s with dev := d }) h1 _ _ _
  · next gs d hd =>
    rw [hd] at h1
    have h2 : canon { s with dev := d } := h1
    split
    · exact h2.stageFw _ _ _ _
    · exact h2.stageOwner _ _ _ _ _
    · exact h2.stageTrim _ _ _ _ _
    · exact h2.writeStart _ _ _ _ _ _

theorem canon.stageAttest (h : s.canon) (ref : CmdRef) (ph : Phys) (e : Entry) : (s.stageAttest ref ph e).canon := by
  unfold State.stageAttest
  split
  · exact h.updEnd _ _ _
  next xs _ =>
  have h1 := Dev.kept_extsRead ph xs s.dev h
  split
  · next d hd =>
    rw [hd] at h1
    exact canon.updEnd (s := { s with dev := d }) h1 _ _ _
  · next gs d hd =>
    rw [hd] at h1
    exact canon.stageOut (s := { s with dev := d }) h1 _ _ _ _

theorem canon.updateStage (h : s.canon) (ref : CmdRef) (ph : Phys) (e : Entry) (flashOk fuseOk : Bool) :
    (s.updateStage ref ph e flashOk fuseOk).canon :=
  canon_ite _ (h.updEnd _ _ _) (canon_ite _ (h.updEnd _ _ _) (canon_ite _ (h.updEnd _ _ _)
    (canon_ite _ (h.stageAttest _ _ _) (canon_ite _ (h.stageOut _ _ _ _) (h.stageIn _ _ _ _ _)))))

theorem canon.activate (h : s.canon) (ref : CmdRef) (e : Entry) : (s.activate ref e).canon := by
  refine canon_ite _ (h.updEnd _ _ _) (canon_ite _ (h.updEnd _ _ _) (canon_ite _ (h.updEnd _ _ _)
    (canon_ite _ (h.updEnd _ _ _) (canon_ite _ (h.updEnd _ _ _) (canon_ite _ ?_ ?_)))))
  · exact (h.setUpd _).onDev _ fun e he => by simp [he]
  · exact h.setUpd _

theorem canon.pause (h : s.canon) : s.pause.canon := by
  unfold State.pause
  split
  · exact h
  dsimp only
  split
  · exact canon.updEnd (h.setUpd _) _ _ _
  · refine Dev.kept_blockPut _ 0 _ ?_
    have hs : Kept false s.dev.mem s.dev.state := h
    simpa [State.handBlock] using hs

theorem canon.accept (h : s.canon) (ref : CmdRef) (fuseOk : Bool) : (s.accept ref fuseOk).canon := by
  unfold State.accept
  dsimp only
  split
  · exact h.of_mem (by simp)
  · exact canon.updEnd (h.of_mem (by simp)) _ _ _

theorem canon.burnTick (h : s.canon) : s.burnTick.canon := by
  unfold State.burnTick
  split
  · split
    · exact h
    · dsimp only
      split
      · exact h
      · exact canon.updEnd (h.of_mem (by simp [State.burnEnd, Dev.recPending, Dev.recPut])) _ _ _
  · exact h

theorem canon.tick (h : s.canon) : s.tick.canon := canon.burnTick (h.onDev _ fun e he => by simp [Dev.tick, he])

theorem canon.writeEnd (h : s.canon) (ref : CmdRef) (t i : Nat) (ok : Bool) : (s.writeEnd ref t i ok).canon :=
  canon.updEnd (canon.keysCheck (h.of_mem (by simp))) _ _ _

theorem canon.writeDone (h : s.canon) (ok : Bool) : (s.writeDone ok).canon := by
  unfold State.writeDone
  split
  · exact h.writeEnd _ _ _ _
  · exact h

theorem canon.tap (h : s.canon) (ir : Byte) (out : Nat) : (s.tap ir out).canon := canon_ite _ h h

theorem canon.tapFlash (h : s.canon) (op area off : Nat) (data : Gran) : (s.tapFlash op area off data).canon := by
  unfold State.tapFlash
  split
  extract_lets ok
  clear_value ok
  split
  next st v d hd =>
  have hmem : d.mem = s.dev.mem := by
    have hdev := congrArg (fun r => r.2.2.mem) hd
    dsimp only at hdev
    rw [← hdev]
    split
    · rfl
    · split <;> simp
  exact canon.keysCheck (h.of_mem ((d.emit_mem _).trans hmem))

theorem canon.pwrWrite (h : s.canon) (a : Nat) (v : Word) : (s.pwrWrite a v).canon :=
  canon_ite _ h (canon_ite _ (canon_ite _ h h) (canon_ite _ (canon_ite _ h h) h))

theorem canon.dbgCtl (h : s.canon) (v : Word) : (s.dbgCtl v).canon := by
  unfold State.dbgCtl
  extract_lets s1 s2
  have h1 : s1.canon := canon_ite _ (h.onDev _ fun e he => by simp [he]) h
  have h2 : s2.canon := canon_ite _ (h1.onDev _ fun e he => by simp [he]) h1
  exact canon_ite _ h2 h2

theorem canon.rowWrite (h : s.canon) (r : RegRow) (i : Nat) (v : Word) : (s.rowWrite r i v).canon := by
  unfold State.rowWrite
  split
  case h_12 | h_13 => exact h.pwrWrite _ _
  case h_14 => exact h.dbgCtl v
  case h_1 | h_7 | h_11 => exact canon_ite _ (h.onDev _ fun e he => by simp [he]) h
  all_goals exact h.onDev _ fun e he => by simp [he]

theorem canon.regWrite (h : s.canon) (a : Nat) (v : Word) : (s.regWrite a v).canon := by
  unfold State.regWrite
  split
  · exact h.rowWrite _ _ _
  · exact h

theorem canon.cfgServe (h : s.canon) (r : Req) : (s.cfgServe r).canon :=
  canon_ite _ (h.onDev _ fun e he => by simp [he])
    (canon_ite _ (canon.regWrite (h.onDev _ fun e he => by simp [he]) _ _) (h.onDev _ fun e he => by simp [he]))

theorem canon.cfgArrive (h : s.canon) (p : Nat) (hdr : ReqHdr) (value : Word) (bad : Bool) : (s.cfgArrive p hdr value bad).canon := by
  unfold State.cfgArrive
  extract_lets n s1
  have h1 : s1.canon := h.onDev _ fun e he => e.kept_arriveWith _ _ _ _ _ _ _ (fun _ _ hf => hf) he
  split
  · exact h1
  · exact canon_ite _ (h1.cfgServe _) h1

theorem canon.cfgThaw (h : s.canon) : s.cfgThaw.canon := canon_ite _ h (canon_foldl _ _ (fun _ r hs => hs.cfgServe r) h)

theorem canon.tapAccess (h : s.canon) (wr : Bool) (a : Nat) (v : Word) : (s.tapAccess wr a v).canon :=
  (canon_ite _ (h.regWrite a v) h : canon (if _ then s.regWrite a v else s)).of_mem rfl

theorem canon.msgIn (h : s.canon) (p : Nat) (g : Gran) (data : List Gran) : (s.msgIn p g data).canon :=
  canon_ite _ (h.onDev _ fun e he => by simp [he]) (canon_ite _ (h.onDev _ fun e he => by simp [he])
    (h.onDev _ fun e he => kept_of_core (e.core_msgArrive _ _ _ _ fun _ => ⟨rfl, rfl⟩) he))

theorem canon.rxDone (h : s.canon) (p vc : Nat) (m : RxMsg) (ph : Phys) : (s.rxDone p vc m ph).canon := by
  unfold State.rxDone
  dsimp only
  split
  · exact h.msgIn _ _ _
  · split
    · exact h.onDev _ fun e he => by simp [he]
    · exact h.cfgArrive _ _ _ _
    · exact h.onDev _ fun e he => by simp [he]

theorem canon.rxSlot (h : s.canon) (p vc : Nat) (som : Bool) (g : Gran) (ph : Phys) : (s.rxSlot p vc som g ph).canon := by
  unfold State.rxSlot
  extract_lets r s1
  have h1 : s1.canon := h.onDev _ fun e he => by simp [he]
  cases r.2.1
  · exact h1
  · exact h1.rxDone _ _ _ _

theorem canon.flitData (h : s.canon) (p : Nat) (f : Flit) : (s.flitData p f).canon := by
  refine canon_ite _ h (canon.onDev (canon_foldl _ _ (fun s j hs => hs.rxSlot _ _ _ _ _) (h.onDev _ fun e he => ?_)) _ fun e he => ?_)
  · dsimp only
    split <;> simp [he]
  · split <;> simp [he]

theorem canon.flitPassed (h : s.canon) (p : Nat) (f : Flit) : (s.flitPassed p f).canon := by
  have h1 := h.onDev (fun d => d.flitCredits p f) fun e he => by simp [he]
  refine canon_ite _ h (canon_ite _ h1 (canon.onDev (canon_ite _ (h1.flitData p f) h1) _ fun e he => ?_))
  simp [he]

theorem canon.flitIn (h : s.canon) (p : Nat) (f : Flit) : (s.flitIn p f).canon := by
  have h1 := h.onDev (fun d => (d.flitCount p f).flitGap p f) fun e he => by simp [he]
  exact canon_ite _ h (canon_ite _ h1 (canon_ite _ (h1.onDev _ fun e he => by simp [he]) (h1.flitPassed p f)))

end

end State

end Sys2Proof.Machine

/-! PROOF. The canonical form of memory under the governor, resets and power, and under the shapes of commands. -/
namespace Sys2Proof.Machine

namespace State

section
variable {s : State}

theorem canon.ibi (h : s.canon) : s.ibi.canon := canon_ite _ (h.of_mem rfl) h

theorem canon.causeOn (h : s.canon) (die c : Nat) : (s.causeOn die c).canon := by
  unfold State.causeOn
  extract_lets first p s1 _ s2
  have h1 : s1.canon := h
  have h2 : s2.canon := h
  clear_value s2
  exact canon_ite _ h1 (canon.ibi (h2.onDev _ fun e he => by simp [he]))

theorem canon.causeOff (h : s.canon) (die c : Nat) : (s.causeOff die c).canon := by
  unfold State.causeOff
  extract_lets due s1 was off s2
  have h1 : s1.canon := canon_foldl _ _ (fun _ _ hs => hs.causeOn _ _) h
  have h2 : s2.canon := h1.of_mem rfl
  exact canon_ite _ h2 (canon.ibi (h2.onDev _ fun e he => by simp [he]))

theorem canon.causesHeld (h : s.canon) : s.causesHeld.canon :=
  canon_foldl _ _ (fun _ _ hs => canon_ite _ (hs.of_mem rfl) hs) h

theorem canon.govern (h : s.canon) (die : Nat) : (s.govern die).canon := canon_ite _ h (h.of_mem rfl)

theorem canon.bedGates (h : s.canon) : s.bedGates.canon := by
  unfold State.bedGates
  extract_lets d go rest
  have h1 : Kept false d.mem d.state := by
    unfold d
    split
    · exact Dev.kept_each _ _ _ (fun e b he => by simp +contextual [he]) h
    · exact h
  exact Dev.kept_each _ _ _ (fun e a he => by simp [he]) h1

theorem canon.governor (h : s.canon) (p : Pwr) : (s.governor p).canon := by
  unfold State.governor
  extract_lets s1 s2
  have h1 : s1.canon := canon.causesHeld (s := { s with pwr := p }) h
  have h2 : s2.canon := canon_ite _ ((h1.govern 0).govern 1) h1
  exact canon_ite _ h2.bedGates h2

/-! Resets and power: memory is as it was, or there is none. -/

theorem canon_cleared (s : State) (nonce : List Byte) (step : Step) : (s.cleared nonce step).canon := rfl

theorem canon_cold (s : State) (nonce : List Byte) (step : Step) : (s.cold nonce step).canon := rfl

theorem canon.warm (h : s.canon) (srOk railsOk : Bool) (nonce : List Byte) : (s.warm srOk railsOk nonce).canon := by
  unfold State.warm
  extract_lets d _ n keep n'
  have hn : Kept false n'.mem n'.state := by
    unfold n'
    split
    · exact h
    · rfl
  clear_value n'
  show Kept false (if keep then n'.keepMemory d else n').mem _
  split
  · exact h
  · exact hn

theorem canon_standbyUp (s : State) (nonce : List Byte) : (s.standbyUp nonce).canon := rfl

theorem canon_powerBack (s : State) : s.powerBack.canon := rfl

theorem canon.pwrUp (h : s.canon) : s.pwrUp.canon := h

theorem canon_powerLost (s : State) (standby : Bool) : (s.powerLost standby).canon := by
  unfold State.powerLost
  dsimp only
  split <;> rfl

theorem canon_coldReset (s : State) (cool : Bool) (nonce : List Byte) : (s.coldReset cool nonce).canon := by
  unfold State.coldReset
  extract_lets c
  have hc : c.canon := canon_ite _ (canon_cold _ _ _) (canon_cleared _ _ _)
  exact hc

theorem canon.bootRom (h : s.canon) (noRead : BitVec 2) : (s.bootRom noRead).canon := by
  unfold State.bootRom
  dsimp only
  split <;> exact h

theorem canon.release (h : s.canon) (x : BootPins) : (s.release x).canon := by
  unfold State.release
  extract_lets _ _ s1
  have h1 : s1.canon := h
  exact canon_ite _ (h1.onDev _ fun e he => by simp [he]) (canon_ite _ (h1.onDev _ fun e he => by simp [he]) (h1.bootRom _))

theorem canon.resetHigh (h : s.canon) (sel : BitVec 2) : (s.resetHigh sel).canon := canon_ite _ h h

theorem canon.enrol (h : s.canon) : s.enrol.canon := by
  unfold State.enrol
  dsimp only
  split
  · exact h
  · split <;> exact h

theorem canon.stratUp (h : s.canon) : s.stratUp.canon := by
  refine h.onDev _ fun e he => ?_
  have hl : ∀ f : Dev, Kept false f.mem f.state → Kept false f.forget.mem f.forget.state := fun f hf => hf
  extract_lets c kept d1 d2 d3 d4
  have h1 : Kept false d1.mem d1.state := by
    unfold d1
    split
    · exact he
    · exact hl e he
  clear_value d1
  have h4 : Kept false d4.mem d4.state := by simp +contextual [d4, d3, d2, h1]
  exact h4

theorem canon.trimLoad (h : s.canon) : s.trimLoad.canon := h

theorem canon.stagedUp (h : s.canon) : s.stagedUp.canon := h

theorem canon.firmware (h : s.canon) : s.firmware.canon := by
  unfold State.firmware
  extract_lets r d _ s1
  have h1 : s1.canon := h.of_mem (by simp [s1, d, Dev.recPut])
  clear_value s1
  exact h1.enrol.keysCheck.trimLoad.stagedUp.stratUp

end

/-- What a command answers has its memory in canonical form. -/
def canonOut (o : Host.Outcome State Fault Refusal) : Prop := ∀ t, o = .next t → t.canon

theorem canonOut_next {t : State} (h : t.canon) : canonOut (.next t) := fun _ ht => Host.Outcome.next.inj ht ▸ h

theorem canonOut_ite (c : Prop) [Decidable c] {o o' : Host.Outcome State Fault Refusal} (h : canonOut o) (h' : canonOut o') :
    canonOut (if c then o else o') := by
  split
  · exact h
  · exact h'

section
variable {s : State} (h : s.canon)
include h

theorem canonOut_devStep (f : Dev → Dev) (hf : ∀ e, Kept false e.mem e.state → Kept false (f e).mem (f e).state) :
    canonOut (s.devStep f) := canonOut_next (h.onDev f hf)

theorem canonOut_linkStep (f : Dev → Dev) (ph : Phys) (hf : ∀ e, Kept false e.mem e.state → Kept false (f e).mem (f e).state) :
    canonOut (s.linkStep f ph) := canonOut_next (h.onDev _ fun e he => Dev.kept_finish _ ph (hf e he))

theorem canonOut_devEvent (holds : Dev → Bool) (f : Dev → Dev) (ph : Phys)
    (hf : ∀ e, Kept false e.mem e.state → Kept false (f e).mem (f e).state) : canonOut (s.devEvent holds f ph) :=
  canonOut_ite _ (s.canonOut_linkStep h f ph hf) (canonOut_next h)

theorem canonOut_opStart (b top : Nat) (body : TOp → Dev → Dev)
    (hb : ∀ o e, Kept false e.mem e.state → Kept false (body o e).mem (body o e).state) : canonOut (s.opStart b top body) := by
  refine s.canonOut_devEvent h _ _ _ fun e he => ?_
  unfold Dev.startOp
  dsimp only
  split
  · exact he
  · split
    · simp [he]
    · exact hb _ _ (by simp [he])

theorem canonOut_cmd (opc : Nat) (q : Queue) (e : Entry) (body : CmdRef → Nat → State → State)
    (hb : ∀ ref c s, canon s → (body ref c s).canon) : canonOut (s.cmd opc q e body) := by
  unfold State.cmd
  refine canonOut_ite _ (canonOut_next h) ?_
  split
  · exact canonOut_next h
  · next d hd =>
    have h1 : canon { s with dev := d } := kept_of_core (s.dev.core_starts hd) h
    exact canonOut_next (canon.onDev (canon_ite _ (h1.onDev _ fun e he => by simp [he]) (hb _ _ _ h1)) _ fun e he => e.kept_finish {} he)

theorem canonOut_devCmd (opc : Nat) (q : Queue) (e : Entry) (body : CmdRef → Nat → Dev → Dev)
    (hb : ∀ ref c e, Kept false e.mem e.state → Kept false (body ref c e).mem (body ref c e).state) :
    canonOut (s.devCmd opc q e body) :=
  s.canonOut_cmd h _ _ _ _ fun ref c _ hs => hs.onDev _ (hb ref c)

theorem canonOut_i3cReq (f : State → State) (hf : (f s).canon) : canonOut (s.i3cReq f) := canonOut_next (canon_ite _ hf h)

end

end State

end Sys2Proof.Machine

/-! PROOF. The canonical form of memory under every step (O58). -/
namespace Sys2Proof.Machine

theorem Dev.kept_tripped (d : Dev) (h : Kept false d.mem d.state) :
    Kept false ({ (d.deviceFailed 4).railsOff with thermTrip := true } : Dev).mem
      ({ (d.deviceFailed 4).railsOff with thermTrip := true } : Dev).state := by
  have h1 := Dev.kept_railsOff _ (d.kept_deviceFailed 4 h)
  generalize (d.deviceFailed 4).railsOff = e at h1 ⊢
  exact h1

namespace State

/-! The answers of the I3C target leave memory as it is. -/

section
variable {s : State}

theorem canon.trst (h : s.canon) (high : Bool) : (s.trst high).canon := h

theorem canon.i3c (h : s.canon) (l : List Byte) : (s.i3c l).canon := h

theorem canon.withFresh (h : s.canon) (n : Nat) : canon { s with dev := (s.dev.freshBytes n).2 } := h.of_mem (by simp)

theorem canon.i3cFree (h : s.canon) (l : List Byte) (n : Nat) : (s.i3cFree l n).canon := (h.withFresh n).i3c _

theorem canon.setEid (h : s.canon) (op : Nat) (eid : Byte) : (s.setEid op eid).canon := canon_ite _ (h.of_mem rfl) (h.i3c _)

theorem canon.setTid_ (h : s.canon) (t : Byte) : (s.setTid_ t).canon := canon_ite _ (h.of_mem rfl) (h.i3c _)

theorem canon.pdr (h : s.canon) (rec : Nat) : (s.pdr rec).canon := canon_ite _ (h.i3c _) (h.i3c _)

theorem canon.sensor (h : s.canon) (id : Nat) : (s.sensor id).canon := by
  unfold State.sensor
  split
  · exact canon_ite _ (h.i3c _) ((h.withFresh 5).i3c _)
  · exact h.i3c _

theorem canon.stateSensor (h : s.canon) (id : Nat) : (s.stateSensor id).canon :=
  canon_ite _ ((h.withFresh 2).i3c _) (h.i3c _)

theorem canon.vendorRead (h : s.canon) (a : Nat) : (s.vendorRead a).canon :=
  canon_ite _ (h.i3c _) ((h.of_mem (by simp) : canon { s with dev := (s.dev.fresh 8).2 }).i3c _)

end

section
variable {s : State} (h : s.canon)
include h

/-- Each command by its shape: what changes the device alone goes through the device's own steps. -/
theorem canonOut_exec (c : Instr) : canonOut (exec c s) := by
  have hnext : canonOut (.next s) := canonOut_next h
  cases c <;> dsimp only [exec]
  case hostLost | parkComplete | revocationDrainEnd | unparkComplete | parkQueueTimeout | challengeExpiry |
      attachLockoutExpiry | replayTimeout | portTrainStart | trainComplete | trainTimeout | retrainComplete | retrainTimeout |
      linkLoss | olyRetrain | watchdogStall | domainFence | safDomFence | domainResetTimeout |
      marlLockstepMismatch | marlWatchdogExpiry | marlTakeover | selfTest | sensorChainDisagree | dieCommonFault | ceilingUpdate
      | scaleFactorUpdate | shortfallHoldoffExpiry | refresh | selfRefreshEntry |
      selfRefreshExit | tempRead | retrainPause | retrainRetry | replayResetDone | moveAcquire | moveQuiesceDone | moveCommit |
      moveRelease | moveAbandon | ageSweep | ageSweepComplete | poolDemote | reclaimClear | reclaimComplete | windowFill |
      windowFillComplete | tableFitComplete | recodeComplete | tableRecordFetch | scrubSweepStart | scrubRead | qosCopyComplete
      | qosAdoptionComplete | commitFlashComplete | pllLossOfLock | pllRelockResult | refclkLoss | stepRateWindow |
      unlockLockoutExpiry | handoffTimeout | activationWindowExpiry | canaryLate | canaryClean | vcoreOverLimit
      | vcoreUnderLimit | memoryRailFault | trainingDone | metadataInit |
      operandReadApply | opComplete | postRingFree | contextSwitch | sleepTimeout =>
    exact s.canonOut_devEvent h _ _ _ fun e he => by simp [he]
  case destroyDrainEnd | prefetch | domainRejoin =>
    refine s.canonOut_devEvent h _ _ _ fun e he => ?_
    split <;> simp [he]
  case freezeComplete => exact s.canonOut_devEvent h _ _ _ fun e he => e.kept_freezeDone he
  case stratumInForce => exact s.canonOut_devEvent h _ _ _ fun e he => e.kept_trainUp _ he
  case bringupReady => exact s.canonOut_devEvent h _ _ _ fun e he => e.kept_ready he
  case thermalTrip =>
    exact s.canonOut_devEvent h _ _ _ fun e he => e.kept_tripped he
  case wordIssue | queueService =>
    refine s.canonOut_devEvent h _ _ _ fun e he => ?_
    split <;> simp [he]
  case controllerPieceArrival => exact s.canonOut_devEvent h _ _ _ fun e he => by simp [he]
  case mma | attn | ewise | reduce | topk | gather | scatter | load | store | cvt | win | fence | post =>
    exact s.canonOut_opStart h _ _ _ fun o e he => by simp [he]
  case attach | detach | heartbeat | createCtx | cancel | destroyCtx | assignBed | ringSet | park | query | bind | unbind |
      regionCreate | regionGrow | regionTrim | regionReclaim | regionSet | retire | fmDetach | planLoad | promote | demote |
      tableInstall | tableFit | tableRecode | tableRelease | launch =>
    exact s.canonOut_devCmd h _ _ _ _ fun ref c e he => by simp [he]
  case safStatusClear | faultTest | scrubNow | poisonRemove | writeRaw | readRaw | readChecked | clrMin | freezeRequest | freeze
      | thaw | freezeNRelease | captureRead | lssPoolWmWrite =>
    exact s.canonOut_devStep h _ fun e he => by simp [he]
  case rd | wr | wrp | atom | pub | dbSqTail | dbCqHead | dbEvqHead | olyReset =>
    exact s.canonOut_linkStep h _ _ fun e he => by simp [he]
  case check | commitFlash | applyQos | readActive =>
    exact canonOut_next (h.onDev _ fun e he => by simp [he])
  case fmHello | fmProof =>
    exact canonOut_next ((h.onDev _ fun e he => by simp [he]).onDev _ fun e he => e.kept_finish {} he)
  case completionSend p c =>
    unfold execCompletionSend
    split
    · exact hnext
    · exact canonOut_ite _ (s.canonOut_linkStep h _ _ fun e he => by simp [he]) hnext
  case relock => exact canonOut_next (h.of_mem rfl)
  case unlock => exact canonOut_ite _ hnext (canonOut_next (h.of_mem rfl))
  case extest | samplePreload => exact canonOut_ite _ hnext (canonOut_next (h.tap _ _))
  case idcode => exact canonOut_next (h.tap _ _)
  case bypass b => exact canonOut_next (canon_ite _ h ((h.trst b.trstN).tap _ _))
  case tapFlash => exact canonOut_next (canon_ite _ (h.tapFlash _ _ _ _) h)
  case updateStage =>
    exact canonOut_ite _ hnext (s.canonOut_cmd h _ _ _ _ fun _ _ _ hs => hs.updateStage _ _ _ _ _)
  case stageWriteComplete =>
    exact canonOut_next (canon_ite _ ((h.writeDone _).onDev _ fun e he => e.kept_finish {} he) h)
  case updateActivate => exact s.canonOut_cmd h _ _ _ _ fun _ _ _ hs => hs.activate _ _
  case activationPause =>
    exact canonOut_ite _ (canonOut_next (h.pause.onDev _ fun e he => e.kept_finish {} he)) hnext
  case handoffAccept x =>
    unfold execHandoffAccept
    split
    · exact hnext
    · exact canonOut_ite _ hnext (canonOut_ite _
        (canonOut_next ((h.accept _ _).onDev _ fun e he => e.kept_finish {} he)) (canonOut_next (h.onDev _ fun e he => by simp [he])))
  case pwrCtlWrite => exact canonOut_next (h.pwrWrite _ _)
  case emergencyOn => exact canonOut_ite _ (canonOut_next (h.causeOn _ _)) hnext
  case emergencyOff => exact canonOut_ite _ (canonOut_next (h.causeOff _ _)) hnext
  case governorTick => exact canonOut_ite _ (canonOut_next (h.governor _)) hnext
  case rstdaa | entdaa | setdasa | enec | disec => exact canonOut_next (canon_ite _ (h.of_mem rfl) h)
  case getpid | getbcr | getdcr | getMessageTypeSupport | getTid | getPldmTypes | getPldmCommands =>
    exact s.canonOut_i3cReq h _ (h.i3c _)
  case getPdrRepositoryInfo =>
    exact s.canonOut_i3cReq h _ (canon.i3c (canon.withFresh (s := { s with dev := (s.dev.freshBytes 26).2 }) (h.withFresh 26) 9) _)
  case getstatus | getEndpointId => exact s.canonOut_i3cReq h _ (h.i3cFree _ _)
  case setEndpointId => exact s.canonOut_i3cReq h _ (h.setEid _ _)
  case getMctpVersionSupport | getPldmVersion => exact s.canonOut_i3cReq h _ (canon_ite _ (h.i3cFree _ _) (h.i3c _))
  case setTid => exact s.canonOut_i3cReq h _ (h.setTid_ _)
  case getPdr => exact s.canonOut_i3cReq h _ (h.pdr _)
  case getSensorReading => exact s.canonOut_i3cReq h _ (h.sensor _)
  case getStateSensorReadings => exact s.canonOut_i3cReq h _ (h.stateSensor _)
  case vendorMrsRead => exact s.canonOut_i3cReq h _ (h.vendorRead _)
  case standbyPowerUp => exact canonOut_next (canon_ite _ (s.canon_standbyUp _) h)
  case pwrokRise =>
    exact canonOut_next (canon_ite _ (canon.pwrUp (canon_ite _ s.canon_powerBack h)) h)
  case powerLoss => exact canonOut_next (canon_ite _ h (s.canon_powerLost _))
  case coldReset => exact canonOut_next (canon_ite _ h (s.canon_coldReset _ _))
  case warmReset => exact canonOut_next (canon_ite _ h (h.warm _ _ _))
  case resetRelease x =>
    exact canonOut_next (canon_ite _ h (canon_ite _ ((h.resetHigh _).release _) (h.resetHigh _)))
  case firmwareStarted => exact canonOut_next (canon_ite _ h.firmware h)
  case cfg => exact canonOut_next ((h.cfgArrive _ _ _ _).onDev _ fun e he => e.kept_finish {} he)
  case thawComplete =>
    have hthaw : (s.onDev Dev.thawDone).canon := h.onDev _ fun e he => e.kept_thawDone he
    exact canonOut_next (canon_ite _ (hthaw.cfgThaw.onDev _ fun e he => e.kept_finish {} he) h)
  case registerWrite =>
    exact canonOut_next (canon_ite _ ((h.regWrite _ _).onDev _ fun e he => e.kept_finish {} he) h)
  case tapMrs => exact canonOut_next (canon_ite _ ((h.tapAccess _ _ _).onDev _ fun e he => e.kept_finish {} he) h)
  case flitReceive => exact canonOut_next ((h.flitIn _ _).onDev _ fun e he => e.kept_finish _ he)

/-- Every step, a tick on an empty queue among them. -/
theorem canon_step {t : State} (ht : step s = .next t) : t.canon := by
  unfold step at ht
  split at ht
  · exact canonOut_next h.tick t ht
  · next c q _ => exact canonOut_exec (s := { s with pending := q }) h c t ht

end

end State

/-- Settles O58, by the device's own steps: each leaves memory in canonical form, and every command and tick is made of such steps. -/
theorem everyStepKeepsMemoryCanonical : Obligations.EveryStepKeepsMemoryCanonical :=
  fun _ _ hmem hstep => State.canon_iff.1 (State.canon_step (State.canon_iff.2 hmem) hstep)

end Sys2Proof.Machine

/-! PROOF. The canary of die common logic (R392) does not always bring the device to DEVICE_FAILED: where the die is fenced already, though
its common domain still counts as live, nothing is left to fence, and the device is as it was. -/
namespace Sys2Proof.Machine

/-- A frozen device with Vcore on whose die 0 is fenced already, though its common domain still counts as live, and the canary of
that domain at its eighth step. -/
def canaryOfFencedDie : Dev :=
  { step := .up, freezes := .frozen, dieFenced := 1, doms := [(496, { st := .live })], work := [(14208, 8)] }

theorem canaryOfFencedDie_on : canaryOfFencedDie.groupOn 14208 = true := by decide +kernel

theorem canaryOfFencedDie_state : (canaryOfFencedDie.canaryLate 14208 1).finish.state ≠ .failed := by decide +kernel

/-- What follows a step leaves a device that has failed as failed. -/
theorem Dev.finish_failed (d : Dev) (ph : Phys) (h : d.state = .failed) : (d.finish ph).state = .failed :=
  kept_true.1 (d.kept_finish ph (kept_true.2 h))

/-- Refutes O55: a canary late by 1 ms, at its eighth step, of the common logic of a die that is fenced already, in a device that has not
failed. Nothing is left to fence, so that no device that the step comes from has failed (R392 would have DEVICE_FAILED). -/
theorem not_emergenciesAndCanaries : ¬ Obligations.EmergenciesAndCanaries := by
  unfold Obligations.EmergenciesAndCanaries
  intro h
  obtain ⟨-, -, -, -, hcanary⟩ := h { dev := canaryOfFencedDie } 0 0
  obtain ⟨-, -, hdie, -⟩ := hcanary 14208 canaryOfFencedDie_on
  obtain ⟨d, hstep, -, hfailed, -⟩ := hdie 1 (by decide) (by decide) (by decide)
  have hlate : exec (.canaryLate 14208 1) { dev := canaryOfFencedDie } =
      .next { dev := (canaryOfFencedDie.canaryLate 14208 1).finish } :=
    State.devEvent_holds (fun d => d.groupOn 14208) (fun d => d.canaryLate 14208 1) { dev := canaryOfFencedDie } canaryOfFencedDie_on
  have hdev : (canaryOfFencedDie.canaryLate 14208 1).finish = d.finish :=
    congrArg State.dev (Host.Outcome.next.inj (hlate.symm.trans hstep))
  exact canaryOfFencedDie_state (hdev ▸ d.finish_failed {} hfailed)

end Sys2Proof.Machine
